-- ==== Sys2Proof/Word.lean ====
section
/-! DEFINITION. The words of the device and the plainest arithmetic on them. -/
namespace Sys2Proof

/-- A byte of a memory. -/
abbrev Byte := BitVec 8

/-- A register word, or both words of a register pair (R7). -/
abbrev Word64 := BitVec 64

/-- A pool word (R57): 144 bits, two's complement. -/
abbrev PoolWord := BitVec 144

/-- Bits `lo` to `lo + w - 1` of `n`, as an unsigned number. -/
def slice (n lo w : Nat) : Nat := n / 2 ^ lo % 2 ^ w

/-- Bit `i` of `n`. -/
def bitAt (n i : Nat) : Bool := n / 2 ^ i % 2 == 1

/-- 1 for true, 0 for false. -/
def nat1 (b : Bool) : Nat := if b then 1 else 0

end Sys2Proof
end

