-- ==== Sys2Proof/Syntax.lean ====
section
/-! DEFINITION. The commands of the device. The table of operations and events gives no row any bits, so a command is
syntax only: its operands say what the sender of the command, or the device's surroundings, decide (log entries 1, 2). -/
namespace Sys2Proof

/-- An agent that sends heartbeats (R29). -/
inductive Agent where
  | basin (b : Nat)
  | terrace (t : Nat)
  | die (d : Nat)
  deriving DecidableEq, Repr

/-- A memory error that appears before the access of a command (R97): granule `unit` (byte address ÷ 8 in a cistern,
word in a pool) of basin `b`, one bit or, with `double`, two. -/
structure Upset where
  b : Nat
  pool : Bool
  unit : Nat
  double : Bool
  deriving DecidableEq, Repr

/-- Bytes that the host stores in its memory before the device reads it: `space` is the PASID + 1, or 0 without one (R206, R232). -/
structure HostWrite where
  space : Nat
  addr : Nat
  data : List Byte
  deriving DecidableEq, Repr

/-- Cycles of a tile or pass, and those of them in which the cistern's banks served other requests (R92, R106). -/
structure Took where
  cyc : Nat
  stalls : Nat
  deriving DecidableEq, Repr

/-- An epilogue lane (J0, J1 or the rill, 2), and the cycles that its tile's epilogue waited for cistern banks (R106). -/
structure LaneEnd where
  lane : Nat
  stalls : Nat
  deriving DecidableEq, Repr

/-- What a JET operation met: residue mismatches (column and pool word), and cycles of waiting for cistern banks (R80, R106). -/
structure OpMet where
  bad : List (Nat × Nat)
  stalls : Nat
  deriving DecidableEq, Repr

/-- The way of a forwarded frame through the switch (R326). -/
structure FwdWay where
  egress : Nat
  ingress : Nat
  deriving DecidableEq, Repr

/-- A section of a U-plane packet (R277): exponent and 24 mantissas (I, Q by subcarrier) of each PRB. -/
structure Section where
  method : Nat
  width : Nat
  start : Nat
  prbs : List (Nat × List Int)
  deriving DecidableEq, Repr

/-- A U-plane packet of carrier `car` that arrives at the medium boundary of port `port` (R277). -/
structure UPlane where
  car : Nat
  port : Nat
  eaxc : Nat
  frame : Nat
  sub : Nat
  slot : Nat
  sym : Nat
  sections : List Section
  deriving DecidableEq, Repr

/-- Kinds of aqueduct requests (Table 16-4). -/
inductive ReqKind | rd | wr | bw | at | bump | query
  deriving DecidableEq, Repr

/-- An aqueduct request (R340, R343, R351). `addr`: job address of its first byte; `data`, `mask`: the bytes of its
lines and which of them a WR writes; `op`, `wide`, `operand`, `compare`: Table 16-5; `counter`: of a BUMP. -/
structure AqdReq where
  kind : ReqKind
  src : Nat
  job : Nat
  gen : Nat
  t0 : Nat
  seq : Nat
  inc : Nat
  addr : Nat
  data : List Byte
  mask : Nat
  op : Nat
  wide : Bool
  operand : Nat
  compare : Nat
  counter : Nat
  deriving DecidableEq, Repr

/-- What a reply says (R342, R346, Table 16-6). -/
inductive RepCode | done | applied | recorded | stale | notApplied | refused | poison | fenced
  deriving DecidableEq, Repr

/-- A reply to the sender's request `id`. -/
structure AqdRep where
  id : Nat
  code : RepCode
  reason : Nat
  result : Nat
  data : List Byte
  deriving DecidableEq, Repr

/-- A fault report (R27, R379): unit identifier, class, stamp of detection, syndrome. -/
structure Report where
  unit : Nat
  cls : Nat
  stamp : Nat
  synd : Nat
  deriving DecidableEq, Repr

/-- The two transports of the management endpoint (R436). -/
inductive Transport | i3c | pcie
  deriving DecidableEq, Repr

/-- Instructions of the test access port (R435). -/
inductive TapIns | bypass | idcode | samplePreload | extest | extestPulse | extestTrain
  deriving DecidableEq, Repr

/-- The commands of the device: one constructor for each row of the table of operations and events. `dt` is the
time since the command before it, in 1/64 counts (log entry 2). -/
inductive Instr where
  /-- REGISTER_WRITE (R9): a write of len bytes at BAR0 offset addr. -/
  | registerWrite (dt : Nat) (addr : Nat) (len : Nat) (value : Nat)
  /-- LOW_WORD_READ (R7): a read of len bytes at BAR0 offset addr: a low word, a whole pair or a plain register. -/
  | lowWordRead (dt : Nat) (addr : Nat) (len : Nat)
  /-- HIGH_WORD_READ (R7): a read at BAR0 offset addr, the high word of a pair. -/
  | highWordRead (dt : Nat) (addr : Nat) (len : Nat)
  /-- RC_FIELD_READ (R10): a read at BAR0 offset addr, of a register with an RC field. -/
  | rcFieldRead (dt : Nat) (addr : Nat) (len : Nat)
  /-- HEARTBEAT (R29): agent a sends its heartbeat. -/
  | heartbeat (dt : Nat) (a : Agent)
  /-- HEARTBEAT_LOSS (R29): four heartbeats of a basin or terrace agent are missing. -/
  | heartbeatLoss (dt : Nat) (a : Agent)
  /-- DIE_HEARTBEAT_LOSS (R29): four heartbeats of the collector of C0 or C1 are missing. -/
  | dieHeartbeatLoss (dt : Nat) (d : Nat)
  /-- FENCE_EFFECT (R19): the fence decided on this item takes effect; item: unit identifier + 2^16 x the sub-index as FENCE_ARG lays it out. -/
  | fenceEffect (dt : Nat) (item : Nat)
  /-- FENCED_BASIN_GATE (R26): a fenced basin's agent reports it idle. -/
  | fencedBasinGate (dt : Nat) (b : Nat)
  /-- JET_TILE (R85): the oldest unchecked entry of basin b's issue queue is a jet tile and is checked. -/
  | jetTile (dt : Nat) (b : Nat)
  /-- JET_TILE_START (R73): the oldest queued tile of jet j starts its load or its row 0; ups: memory errors that its reads meet. -/
  | jetTileStart (dt : Nat) (b : Nat) (j : Nat) (ups : List Upset)
  /-- JET_BANK_LOAD_COMPLETE (R72): the loader completes the load of jet j. -/
  | jetBankLoadComplete (dt : Nat) (b : Nat) (j : Nat) (ups : List Upset)
  /-- JET_TILE_END (R77): the oldest running tile of jet j ends after cyc cycles, stalls of them waiting for a bank beside the stalls that R92 and R99 fix; bad: column and pool word of each residue mismatch. -/
  | jetTileEnd (dt : Nat) (b : Nat) (j : Nat) (bad : List (Nat × Nat)) (cyc : Nat) (stalls : Nat)
  /-- JET_FIELD_REMAP (R83): a write of v to JET_FIELD_REMAP. -/
  | jetFieldRemap (dt : Nat) (b : Nat) (j : Nat) (v : Nat)
  /-- FIELD_FUSE_BLOWN (R83): the field fuse of jet j finishes blowing. -/
  | fieldFuseBlown (dt : Nat) (b : Nat) (j : Nat)
  /-- CISTERN_PART (R96): a write of v to CISTERN_PART. -/
  | cisternPart (dt : Nat) (b : Nat) (v : Nat)
  /-- CISTERN_PART_ZEROING_DONE (R96): the repartition's zeroing ends. -/
  | cisternPartZeroingDone (dt : Nat) (b : Nat)
  /-- CISTERN_STEAL (R94): a class 7 or 8 request takes its bank. -/
  | cisternSteal (dt : Nat) (b : Nat)
  /-- CXL_LINK_DOWN (R105): the CXL link goes down. -/
  | cxlLinkDown (dt : Nat)
  /-- CXL_LINK_UP (R105): the CXL link comes back up. -/
  | cxlLinkUp (dt : Nat)
  /-- RUNNEL_PASS (R123): the oldest unchecked entry of basin b's issue queue is a runnel pass and is checked. -/
  | runnelPass (dt : Nat) (b : Nat)
  /-- RUNNEL_PASS_START (R107): the oldest queued pass of basin b starts. -/
  | runnelPassStart (dt : Nat) (b : Nat) (ups : List Upset)
  /-- RUNNEL_PASS_END (R123): the running pass of basin b finishes its writes; took: its cycles. -/
  | runnelPassEnd (dt : Nat) (b : Nat) (took : Took)
  /-- EPILOGUE_COMPLETE (R124): the epilogue lane makes the last write of a tile of lane u. -/
  | epilogueComplete (dt : Nat) (b : Nat) (u : LaneEnd)
  /-- RILL_TILE (R144): the oldest unchecked entry of basin b's issue queue is a rill tile and is checked; poison: a slot-entry read is poisoned. -/
  | rillTile (dt : Nat) (b : Nat) (poison : Bool)
  /-- RILL_FETCH_START (R133): the weight fetch of the next queued rill tile starts. -/
  | rillFetchStart (dt : Nat) (b : Nat)
  /-- RILL_FETCH_RETURN (R135): n weight reads return. -/
  | rillFetchReturn (dt : Nat) (b : Nat) (n : Nat) (poison : Bool)
  /-- RILL_TILE_START (R133): the next rill tile starts. -/
  | rillTileStart (dt : Nat) (b : Nat) (ups : List Upset)
  /-- RILL_TILE_END (R143): the running rill tile finishes; bad: token lane and pool word of each residue mismatch; took: its cycles. -/
  | rillTileEnd (dt : Nat) (b : Nat) (bad : List (Nat × Nat)) (took : Took)
  /-- VARIANT_WRITE (R137): the first VARIANT_WRITE of ring r acts. -/
  | variantWrite (dt : Nat) (r : Nat)
  /-- CASCADE_FORWARD (R153): the oldest unchecked entry of basin b's issue queue is a cascade tile with op 0 and is checked. -/
  | cascadeForward (dt : Nat) (b : Nat)
  /-- CASCADE_MERGE (R159): the same with op 1. -/
  | cascadeMerge (dt : Nat) (b : Nat)
  /-- CASCADE_BACKWARD (R160): the same with op 2. -/
  | cascadeBackward (dt : Nat) (b : Nat)
  /-- CASCADE_FETCH_START (R157): the KV fetch of the next queued tile starts. -/
  | cascadeFetchStart (dt : Nat) (t : Nat)
  /-- CASCADE_FETCH_RETURN (R157): n KV reads return. -/
  | cascadeFetchReturn (dt : Nat) (t : Nat) (n : Nat) (poison : Bool)
  /-- CASCADE_TILE_START (R148): the next cascade tile starts; poison: a read of retained scores is poisoned. -/
  | cascadeTileStart (dt : Nat) (t : Nat) (ups : List Upset) (poison : Bool)
  /-- CASCADE_TILE_END (R153): the running tile ends; bad: array, row and pool word of each residue mismatch. -/
  | cascadeTileEnd (dt : Nat) (t : Nat) (bad : List (Nat × Nat × Nat)) (cyc : Nat)
  /-- SESSION_CREATE (R167): the session engine executes this command, first in its order. -/
  | sessionCreate (dt : Nat)
  /-- SESSION_CANCEL (R185): as above. -/
  | sessionCancel (dt : Nat)
  /-- SESSION_PAUSE (R185): as above. -/
  | sessionPause (dt : Nat)
  /-- SESSION_REBUILD (R186): as above. -/
  | sessionRebuild (dt : Nat)
  /-- SESSION_RELEASE (R170): as above. -/
  | sessionRelease (dt : Nat)
  /-- KV_PROVISION (R173): as above. -/
  | kvProvision (dt : Nat)
  /-- KV_RECLAIM (R173): as above. -/
  | kvReclaim (dt : Nat)
  /-- KV_RESERVE (R178): as above. -/
  | kvReserve (dt : Nat)
  /-- KV_APPEND (R174): as above; ups: memory errors that its cistern reads meet. -/
  | kvAppend (dt : Nat) (ups : List Upset)
  /-- PREFIX_SEAL (R175): as above. -/
  | prefixSeal (dt : Nat)
  /-- PREFIX_ATTACH (R175): as above. -/
  | prefixAttach (dt : Nat)
  /-- PREFIX_DROP (R175): as above. -/
  | prefixDrop (dt : Nat)
  /-- HANDOFF (R177): as above. -/
  | handoff (dt : Nat)
  /-- HANDOFF_ARRIVAL (R178): the counter of slice s's parked HANDOFF reaches its count. -/
  | handoffArrival (dt : Nat) (s : Nat)
  /-- HANDOFF_TIMEOUT (R178): the timeout of slice s's parked HANDOFF fires. -/
  | handoffTimeout (dt : Nat) (s : Nat)
  /-- STEP_BEGIN (R179): the session engine executes STEP_BEGIN. -/
  | stepBegin (dt : Nat)
  /-- STEP_END (R181): the session engine executes STEP_END. -/
  | stepEnd (dt : Nat)
  /-- STEP_END_RESUME (R182): slice s's parked STEP_END finds room in the token ring. -/
  | stepEndResume (dt : Nat) (s : Nat)
  /-- SPOUT_TASK (R195): the oldest unchecked entry of basin b's issue queue is a task and is checked. -/
  | spoutTask (dt : Nat) (b : Nat)
  /-- SPOUT_TASK_START (R195): the next queued task of basin b starts. -/
  | spoutTaskStart (dt : Nat) (b : Nat)
  /-- SPOUT_INSTRUCTION (R188): core c executes one instruction; ups, poison: memory errors it meets (1: device memory poisons its fetch, 2: its data). -/
  | spoutInstruction (dt : Nat) (c : Nat) (ups : List Upset) (poison : Nat)
  /-- SPOUT_ECALL (R196): core c executes ecall, cyc cycles after its start. -/
  | spoutEcall (dt : Nat) (c : Nat) (cyc : Nat)
  /-- SPOUT_WATCHDOG (R196): the watchdog of basin b's task fires. -/
  | spoutWatchdog (dt : Nat) (b : Nat)
  /-- WC_CLAIM (R198): core c executes wc.claim. -/
  | wcClaim (dt : Nat) (c : Nat)
  /-- WC_CLAIM_RESUME (R262): core c's stalled wc.claim proceeds. -/
  | wcClaimResume (dt : Nat) (c : Nat)
  /-- WC_DONE (R199): core c executes wc.done. -/
  | wcDone (dt : Nat) (c : Nat)
  /-- SPOUT_SEM_SIGNAL (R202): core c executes sem.signal. -/
  | spoutSemSignal (dt : Nat) (c : Nat)
  /-- SEM_WAIT (R202): core c executes sem.wait. -/
  | semWait (dt : Nat) (c : Nat)
  /-- SEM_WAIT_ACQUIRE (R202): the first waiter of semaphore i acquires. -/
  | semWaitAcquire (dt : Nat) (b : Nat) (i : Nat)
  /-- SEM_WAIT_DEADLINE (R202): core c's blocked sem.wait reaches its deadline. -/
  | semWaitDeadline (dt : Nat) (c : Nat)
  /-- SEM_TRY (R202): core c executes sem.try. -/
  | semTry (dt : Nat) (c : Nat)
  /-- TILE_ISSUE (R203): core c executes tile.issue. -/
  | tileIssue (dt : Nat) (c : Nat) (ups : List Upset)
  /-- SPOUT_ACCESS_RETURN (R270): the oldest answered access of core c arrives. -/
  | spoutAccessReturn (dt : Nat) (c : Nat)
  /-- DOORBELL (R207): a doorbell write to page `page` (128: MRING_DOORBELL). -/
  | doorbell (dt : Nat) (page : Nat) (off : Nat) (pasid : Option Nat) (v : Nat)
  /-- PACKET_READ (R250): the sluice reads the next packet of ring r; host: what the host stored before. -/
  | packetRead (dt : Nat) (r : Nat) (host : List HostWrite)
  /-- PACKET_DISPATCH (R212): the sluice dispatches the highest-ranked dispatchable head packet. -/
  | packetDispatch (dt : Nat)
  /-- NOP (R218): the first NOP of ring r completes. -/
  | nop (dt : Nat) (r : Nat)
  /-- FENCE (R217): the FENCE of ring r begins to wait. -/
  | fence (dt : Nat) (r : Nat)
  /-- FENCE_COMPLETE (R217): the FENCE of ring r completes. -/
  | fenceComplete (dt : Nat) (r : Nat)
  /-- WAIT (R215): the WAIT of ring r is first evaluated. -/
  | wait (dt : Nat) (r : Nat)
  /-- WAIT_SATISFIED (R215): the WAIT of ring r finds its condition true. -/
  | waitSatisfied (dt : Nat) (r : Nat)
  /-- WAIT_TIMEOUT (R215): the WAIT of ring r times out. -/
  | waitTimeout (dt : Nat) (r : Nat)
  /-- COUNTER_ADD (R220): the first COUNTER_ADD of ring r acts. -/
  | counterAdd (dt : Nat) (r : Nat)
  /-- SEM_SIGNAL (R202): the first SEM_SIGNAL of ring r acts. -/
  | semSignal (dt : Nat) (r : Nat)
  /-- COPY (R221): the first COPY of ring r is checked and starts; poison: an HBM or CXL read of it is poisoned; host: what the host stored before. -/
  | copy (dt : Nat) (r : Nat) (ups : List Upset) (poison : Bool) (host : List HostWrite)
  /-- FILL (R221): the first FILL of ring r is checked and starts. -/
  | fill (dt : Nat) (r : Nat)
  /-- COPY_COMPLETE (R221): the first started COPY or FILL of ring r moves its last beat. -/
  | copyComplete (dt : Nat) (r : Nat)
  /-- CQ_TAIL_WRITE (R208): a write of v to CQ_TAIL of ring r. -/
  | cqTailWrite (dt : Nat) (r : Nat) (v : Nat)
  /-- RING_ENABLE (R229): a write of v to RING_CTRL of ring r. -/
  | ringEnable (dt : Nat) (r : Nat) (v : Nat)
  /-- RING_RESUME (R211): a write of v to RING_CMD of ring r. -/
  | ringResume (dt : Nat) (r : Nat) (v : Nat)
  /-- SLICE_ENABLE (R230): a write of v to SLICE_CTRL of slice s. -/
  | sliceEnable (dt : Nat) (s : Nat) (v : Nat)
  /-- SLICE_DISABLE (R231): a write of v to SLICE_CTRL of slice s. -/
  | sliceDisable (dt : Nat) (s : Nat) (v : Nat)
  /-- HOST_REQUEST_REFUSED (R234): a host request is refused: of command x (0), the ring read of ring x (1), the reply write that lies k entries before the latest of ring x (2 + k). -/
  | hostRequestRefused (dt : Nat) (kind : Nat) (x : Nat) (timeout : Bool)
  /-- SLICE_FROZEN (R243): every engine of the freezing slice s has stopped. -/
  | sliceFrozen (dt : Nat) (s : Nat)
  /-- KEY_LOAD (R238): a write of v to KEY_CMD of slice s with load set. -/
  | keyLoad (dt : Nat) (s : Nat) (v : Nat)
  /-- KEY_ERASE (R238): a write of v to KEY_CMD of slice s with erase set. -/
  | keyErase (dt : Nat) (s : Nat) (v : Nat)
  /-- MEM_RANGE_WRITE (R235): an 8-byte write of v to MEM_RANGE_BASE(i) or MEM_RANGE_LAST(i) of slice s. -/
  | memRangeWrite (dt : Nat) (s : Nat) (i : Nat) (last : Bool) (v : Nat)
  /-- SLICE_BASINS_WRITE (R259): an 8-byte write of v to SLICE_BASINS of slice s. -/
  | sliceBasinsWrite (dt : Nat) (s : Nat) (v : Nat)
  /-- SLICE_RESET (R246): a write of v to SLICE_CMD of slice s. -/
  | sliceReset (dt : Nat) (s : Nat) (v : Nat)
  /-- SLICE_RESET_DRAINED (R246): every transfer of the resetting slice s has ended. -/
  | sliceResetDrained (dt : Nat) (s : Nat)
  /-- SLICE_RESET_COMPLETE (R246): the reset of slice s completes. -/
  | sliceResetComplete (dt : Nat) (s : Nat)
  /-- HANDOVER_ZEROING_DONE (R241): the hand-over zeroing of basin b ends. -/
  | handoverZeroingDone (dt : Nat) (b : Nat)
  /-- MARKER_REFILL (R255): the count is a multiple of 1,024. -/
  | markerRefill (dt : Nat)
  /-- MARKER_ENABLE (R255): a write of v to SCHED_MARK of slice s. -/
  | markerEnable (dt : Nat) (s : Nat) (v : Nat)
  /-- WEIGHT_WRITE (R254): a write of v to SCHED_SHARE of slice s, for its weight. -/
  | weightWrite (dt : Nat) (s : Nat) (v : Nat)
  /-- FIXED_SHARE_WRITE (R259): a write of v to SCHED_SHARE of slice s, for fixed_share. -/
  | fixedShareWrite (dt : Nat) (s : Nat) (v : Nat)
  /-- YIELD_REQUEST (R258): the arbiter of basin b requests a yield. -/
  | yieldRequest (dt : Nat) (b : Nat)
  /-- QUANTUM_EXPIRY (R258): the owner of basin b has held it for the quantum. -/
  | quantumExpiry (dt : Nat) (b : Nat)
  /-- YIELD_DRAINED (R260): every transfer that touches basin b has drained. -/
  | yieldDrained (dt : Nat) (b : Nat)
  /-- SAVE_COMPLETE (R260): the owner's save is written; fail: a write failed for a reason of its own; maskPoison: bit 0, the cistern mask read as poison; bit 1, the pool mask. -/
  | saveComplete (dt : Nat) (b : Nat) (fail : Bool) (maskPoison : Nat) (ups : List Upset)
  /-- RESTORE_COMPLETE (R264): the incoming slice's state is restored; poison: a read returned poison. -/
  | restoreComplete (dt : Nat) (b : Nat) (poison : Bool)
  /-- EFFECTIVE_TIER_UPDATE (R266): effective tiers are re-evaluated. -/
  | effectiveTierUpdate (dt : Nat)
  /-- GATE_LIST (R269): the first GATE_LIST of ring r acts; poison: its list read is poisoned. -/
  | gateList (dt : Nat) (r : Nat) (poison : Bool)
  /-- GATE_LIST_REMOVE (R268): the first GATE_LIST with remove of ring r acts. -/
  | gateListRemove (dt : Nat) (r : Nat)
  /-- GATE_LIST_ACT (R268): the act of basin b's pending slot is reached. -/
  | gateListAct (dt : Nat) (b : Nat)
  /-- GUARD_BAND_BEGIN (R270): the guard band of basin b's next window begins. -/
  | guardBandBegin (dt : Nat) (b : Nat)
  /-- WINDOW_OPEN (R270): basin b's window opens. -/
  | windowOpen (dt : Nat) (b : Nat)
  /-- WINDOW_CLOSE (R270): basin b's window reaches its close. -/
  | windowClose (dt : Nat) (b : Nat)
  /-- WINDOW_EXTENDED_CLOSE (R271): the radio work past the close ends. -/
  | windowExtendedClose (dt : Nat) (b : Nat)
  /-- CARRIER_ENABLE (R276): a write of v to CAR_CTRL of carrier c. -/
  | carrierEnable (dt : Nat) (c : Nat) (v : Nat)
  /-- UPLANE_SECTION (R277): a U-plane packet arrives, its sections read. -/
  | uplaneSection (dt : Nat) (p : UPlane)
  /-- RECEIVE_WINDOW_CLOSE (R277): the receive window of a symbol closes. -/
  | receiveWindowClose (dt : Nat) (c : Nat) (slot : Nat) (sym : Nat)
  /-- DL_SYMBOL_EMISSION (R278): the emission path sends a symbol. -/
  | dlSymbolEmission (dt : Nat) (c : Nat) (slot : Nat) (sym : Nat)
  /-- RADIO_RESERVED_WRITE (R280): an 8-byte write of v to RADIO_RESERVED. -/
  | radioReservedWrite (dt : Nat) (v : Nat)
  /-- RADIO_ENABLE (R296): a write of v to RADIO_CTRL. -/
  | radioEnable (dt : Nat) (v : Nat)
  /-- SLOT_PLAN (R283): the first SLOT_PLAN of ring r is admitted or rejected; poison: a read of the plan is poisoned. -/
  | slotPlan (dt : Nat) (r : Nat) (poison : Bool)
  /-- LDPC_DEC (R288): the next operation of decoder i starts; poison: a read of it is poisoned. -/
  | ldpcDec (dt : Nat) (i : Nat) (poison : Bool)
  /-- LDPC_ENC (R289): the next operation of encoder i starts. -/
  | ldpcEnc (dt : Nat) (i : Nat) (poison : Bool)
  /-- POLAR_DEC (R290): the next operation of polar unit i starts. -/
  | polarDec (dt : Nat) (i : Nat) (poison : Bool)
  /-- POLAR_ENC (R290): the next operation of polar unit i starts. -/
  | polarEnc (dt : Nat) (i : Nat) (poison : Bool)
  /-- DFT (R291): the next operation of FFT unit i starts. -/
  | dft (dt : Nat) (i : Nat) (poison : Bool)
  /-- PRACH (R292): the next operation of FFT unit i starts. -/
  | prach (dt : Nat) (i : Nat) (poison : Bool)
  /-- DMRS_MEAS (R293): the next operation of FFT unit i starts. -/
  | dmrsMeas (dt : Nat) (i : Nat) (poison : Bool)
  /-- RADIO_JET_OP (R281): the next JET operation of jet j starts. -/
  | radioJetOp (dt : Nat) (b : Nat) (j : Nat) (ups : List Upset)
  /-- RADIO_SPOUT_OP (R297): the next SPOUT operation of basin b starts. -/
  | radioSpoutOp (dt : Nat) (b : Nat)
  /-- CPLANE_TX (R279): the next C-plane message of carrier c is sent. -/
  | cplaneTx (dt : Nat) (c : Nat) (poison : Bool)
  /-- SPOUT_BUDGET_STOP (R297): the SPOUT operation of basin b reaches its budget. -/
  | spoutBudgetStop (dt : Nat) (b : Nat)
  /-- RADIO_OP_END (R285): operation i of plan k (in admission order) ends; met: mismatches and stalls of a JET operation. -/
  | radioOpEnd (dt : Nat) (k : Nat) (i : Nat) (ups : List Upset) (met : OpMet)
  /-- SLOT_OVERRUN (R300): operation i of plan k passes its deadline or cannot run. -/
  | slotOverrun (dt : Nat) (k : Nat) (i : Nat)
  /-- RADIO_TAKEOVER (R298): the takeover of basin x (0) or engine x of a class (1 to 4) acts. -/
  | radioTakeover (dt : Nat) (kind : Nat) (x : Nat)
  /-- CELL_MIGRATE_SOURCE (R301): the first CELL_MIGRATE of ring r, as source. -/
  | cellMigrateSource (dt : Nat) (r : Nat) (poison : Bool)
  /-- CELL_MIGRATE_DEST (R302): the first CELL_MIGRATE of ring r, as destination. -/
  | cellMigrateDest (dt : Nat) (r : Nat) (poison : Bool)
  /-- MIGRATION_SWITCH (R301): slot X of carrier c's source migration is reached. -/
  | migrationSwitch (dt : Nat) (c : Nat)
  /-- MIGRATION_SOURCE_DONE (R301): every extent copy has been acknowledged or has failed. -/
  | migrationSourceDone (dt : Nat) (c : Nat)
  /-- MIGRATION_ARRIVAL (R302): the destination's counter reaches n_ext. -/
  | migrationArrival (dt : Nat) (c : Nat)
  /-- MIGRATION_TIMEOUT (R302): the destination's wait times out. -/
  | migrationTimeout (dt : Nat) (c : Nat)
  /-- SYNC_RX (R312): the first Sync received on port p and not yet used is taken. -/
  | syncRx (dt : Nat) (p : Nat)
  /-- FOLLOW_UP_RX (R312): the first Follow_Up received on port p is taken. -/
  | followUpRx (dt : Nat) (p : Nat)
  /-- DELAY_RESP_RX (R312): the first Delay_Resp received on port p is taken. -/
  | delayRespRx (dt : Nat) (p : Nat)
  /-- DELAY_REQ_RX (R317): the first Delay_Req received on port p is answered. -/
  | delayReqRx (dt : Nat) (p : Nat)
  /-- DELAY_REQ_TX (R312): tracker i sends a Delay_Req. -/
  | delayReqTx (dt : Nat) (i : Nat)
  /-- MASTER_SYNC_TX (R317): master port p sends a Sync. -/
  | masterSyncTx (dt : Nat) (p : Nat)
  /-- HOLDOVER_ENTRY (R308): no measurement for holdover units. -/
  | holdoverEntry (dt : Nat)
  /-- FREE_RUN_WRITE (R308): a write of v to TIME_CTRL that sets free_run. -/
  | freeRunWrite (dt : Nat) (v : Nat)
  /-- TRACK_SEL_WRITE (R315): a write of v to TIME_CTRL, for its track_sel. -/
  | trackSelWrite (dt : Nat) (v : Nat)
  /-- SYNCE_MEASURE (R316): the recovered clock's frequency is measured, in 2^-16 ppb. -/
  | synceMeasure (dt : Nat) (freq : Int)
  /-- SYNCE_LOSS (R316): signal or lock is lost on the SyncE port. -/
  | synceLoss (dt : Nat)
  /-- OUTPUT_ENABLE (R320): a write of v to OUT_CTRL of output k with enable set. -/
  | outputEnable (dt : Nat) (k : Nat) (v : Nat)
  /-- OUTPUT_DISABLE (R320): a write of v to OUT_CTRL of output k with enable clear. -/
  | outputDisable (dt : Nat) (k : Nat) (v : Nat)
  /-- OUTPUT_EDGE (R320): output k reaches its next edge time. -/
  | outputEdge (dt : Nat) (k : Nat)
  /-- CAPTURE_EDGE (R321): an edge arrives at capture input j. -/
  | captureEdge (dt : Nat) (j : Nat) (rising : Bool)
  /-- CAP_META_READ (R321): a read of CAP_META of input j. -/
  | capMetaRead (dt : Nat) (j : Nat)
  /-- LAUNCH_ARM (R322): a write of v to LAUNCH_CTRL of unit u with arm set. -/
  | launchArm (dt : Nat) (u : Nat) (v : Nat)
  /-- LAUNCH_DISARM (R322): a write of v to LAUNCH_CTRL of unit u with arm clear. -/
  | launchDisarm (dt : Nat) (u : Nat) (v : Nat)
  /-- LAUNCH_FIRE (R322): a sluice edge at or above unit u's count. -/
  | launchFire (dt : Nat) (u : Nat)
  /-- ETH_FRAME_RX (R325): a frame, without its FCS, is received on port p. -/
  | ethFrameRx (dt : Nat) (p : Nat) (frame : List Byte) (fcsOk : Bool)
  /-- ETH_LINK_CHANGE (R324): the link of port p goes up or down. -/
  | ethLinkChange (dt : Nat) (p : Nat) (up : Bool) (lanes : Nat)
  /-- FORWARD_ENQUEUE (R326): the oldest frame on way w reaches its class queue. -/
  | forwardEnqueue (dt : Nat) (w : FwdWay)
  /-- EGRESS_TRANSMIT (R332): port p transmits at this edge. -/
  | egressTransmit (dt : Nat) (p : Nat)
  /-- ETH_MARKER_REFILL (R329): the count is a multiple of 1,024. -/
  | ethMarkerRefill (dt : Nat)
  /-- GCL_ARM (R331): an 8-byte write of v to GCL_ACT of port p. -/
  | gclArm (dt : Nat) (p : Nat) (v : Nat)
  /-- GCL_SWITCH (R331): the cycle boundary at which port p's pending list takes over. -/
  | gclSwitch (dt : Nat) (p : Nat)
  /-- MGMT_TX_ENTRY (R333): the device reads the next management transmit entry. -/
  | mgmtTxEntry (dt : Nat)
  /-- MGMT_TX_NOT_BEFORE (R333): the entry read reaches its not_before. -/
  | mgmtTxNotBefore (dt : Nat)
  /-- FLIT_REPLAY (R336): port p replays a flit. -/
  | flitReplay (dt : Nat) (p : Nat)
  /-- AQD_LINK_DOWN (R336): the link of aqueduct port p goes down; what was on it is lost. -/
  | aqdLinkDown (dt : Nat) (p : Nat)
  /-- AQD_LINK_UP (R424): port p completes training with this partner. -/
  | aqdLinkUp (dt : Nat) (p : Nat) (pkg : Nat) (tray : Nat) (lanes : Nat)
  /-- AQD_TRAIN_TIMEOUT (R424): port p detects a partner and is not up within 2 s; lanes: the lanes that failed. -/
  | aqdTrainTimeout (dt : Nat) (p : Nat) (lanes : Nat)
  /-- AQD_RD (R343): a line read is admitted at the home. -/
  | aqdRd (dt : Nat) (q : AqdReq) (poison : Bool)
  /-- AQD_WR (R344): a partial-line write is admitted at the home. -/
  | aqdWr (dt : Nat) (q : AqdReq)
  /-- AQD_BW (R343): a bulk write is admitted at the home. -/
  | aqdBw (dt : Nat) (q : AqdReq)
  /-- AQD_AT (R351): an atomic is admitted at the home. -/
  | aqdAt (dt : Nat) (q : AqdReq)
  /-- AQD_BUMP (R355): a counter bump is admitted at the home. -/
  | aqdBump (dt : Nat) (q : AqdReq)
  /-- AQD_QUERY (R351): a QUERY is admitted at the home. -/
  | aqdQuery (dt : Nat) (q : AqdReq)
  /-- HOME_LINE_UPDATE (R348): the home applies the next update of this line's queue. -/
  | homeLineUpdate (dt : Nat) (line : Nat) (poison : Bool)
  /-- AQD_REPLY (R352): a reply reaches the sender. -/
  | aqdReply (dt : Nat) (p : AqdRep)
  /-- REQUEST_EXPIRY (R345): request i of a line queue (home) or of the sender is no longer alive. -/
  | requestExpiry (dt : Nat) (home : Bool) (i : Nat)
  /-- SENDER_WAIT_CLOSE (R345): the sender's wait for the reply to request id closes. -/
  | senderWaitClose (dt : Nat) (id : Nat)
  /-- AQD_RETRY (R352): request id is sent again. -/
  | aqdRetry (dt : Nat) (id : Nat)
  /-- CREDIT_GRANT (R347): a credit for destination d is granted to a waiting queue. -/
  | creditGrant (dt : Nat) (d : Nat)
  /-- AQD_ATOMIC (R350): the first AQD_ATOMIC of ring r is checked and sent. -/
  | aqdAtomic (dt : Nat) (r : Nat)
  /-- COPY_ASYNC (R354): the first COPY_ASYNC of ring r is checked and starts. -/
  | copyAsync (dt : Nat) (r : Nat) (ups : List Upset) (poison : Bool)
  /-- AQD_ENABLE (R353): a write of v to AQD_CTRL. -/
  | aqdEnable (dt : Nat) (v : Nat)
  /-- ARRIVAL_COUNTER_WRITE (R355): an 8-byte write of v to AQD_ARRIVAL(i). -/
  | arrivalCounterWrite (dt : Nat) (i : Nat) (v : Nat)
  /-- SHADOW_EXPORT (R372): the first SHADOW_COMPARE of ring r, with role 0. -/
  | shadowExport (dt : Nat) (r : Nat)
  /-- SHADOW_COMPARE (R373): the first SHADOW_COMPARE of ring r, with role 1. -/
  | shadowCompare (dt : Nat) (r : Nat)
  /-- SHADOW_END (R371): the first SHADOW_COMPARE of ring r, with role 2. -/
  | shadowEnd (dt : Nat) (r : Nat)
  /-- SHADOW_FILL_DONE (R373): slice s's fill_counter has reached fill_expected. -/
  | shadowFillDone (dt : Nat) (s : Nat)
  /-- SHADOW_PENDING_TIMEOUT (R373): the oldest pending entry of slice s has waited source_timeout. -/
  | shadowPendingTimeout (dt : Nat) (s : Nat)
  /-- SOURCE_LOST (R375): a silence or route rule of R375 holds for slice s. -/
  | sourceLost (dt : Nat) (s : Nat)
  /-- SOURCE_LOST_CMD (R375): a write of v to DET_SHADOW_CMD of slice s. -/
  | sourceLostCmd (dt : Nat) (s : Nat) (v : Nat)
  /-- DET_STEP_WRITE (R365): an 8-byte write of v to DET_STEP of slice s. -/
  | detStepWrite (dt : Nat) (s : Nat) (v : Nat)
  /-- FAULT_REPORT_CAPTURE (R392): reports that arose at sources outside the other commands join the queue; then the first report in the order of R28 is captured. -/
  | faultReportCapture (dt : Nat) (arisen : List Report)
  /-- ERROR_PAIR_ASSERT (R391): the error pair enters the error state that a capture decided. -/
  | errorPairAssert (dt : Nat)
  /-- FENCE_SET (R384): a write of v to FENCE_CMD with op 1. -/
  | fenceSet (dt : Nat) (v : Nat)
  /-- FENCE_CLEAR (R384): a write of v to FENCE_CMD with op 2. -/
  | fenceClear (dt : Nat) (v : Nat)
  /-- QUIET_WINDOW_CLOSE (R385): the quiet window of this item closes. -/
  | quietWindowClose (dt : Nat) (item : Nat)
  /-- RECOVERY_TEST_DONE (R385): the recovery test of this item ends; pass: every check of it passed. -/
  | recoveryTestDone (dt : Nat) (item : Nat) (pass : Bool)
  /-- INFER_FENCE (R386): a write of v to SPW_CMD with infer_fence set. -/
  | inferFence (dt : Nat) (v : Nat)
  /-- INFER_CLEAR (R386): a write of v to SPW_CMD with infer_clear set. -/
  | inferClear (dt : Nat) (v : Nat)
  /-- PIN_CLEAR (R391): a write of v to SPW_CMD with pin_clear set. -/
  | pinClear (dt : Nat) (v : Nat)
  /-- SILT_FREEZE (R393): a write of v to SPW_CMD with silt_freeze set. -/
  | siltFreeze (dt : Nat) (v : Nat)
  /-- SILT_REARM (R393): a write of v to SPW_CMD with silt_rearm set. -/
  | siltRearm (dt : Nat) (v : Nat)
  /-- ENTER_SAFE (R387): a write of v to SPW_CMD with enter_safe set. -/
  | enterSafe (dt : Nat) (v : Nat)
  /-- SAFE_STATE_ENTRY (R387): the safe state that was decided takes effect. -/
  | safeStateEntry (dt : Nat)
  /-- DRIVER_MARKER (R392): a write of v to SPW_MARK. -/
  | driverMarker (dt : Nat) (v : Nat)
  /-- SPILLWAY_HEARTBEAT (R390): the spillway sends its heartbeat. -/
  | spillwayHeartbeat (dt : Nat)
  /-- SPILLWAY_LOSS (R390): four heartbeats of the spillway are missing. -/
  | spillwayLoss (dt : Nat)
  /-- HEALTH_DECAY (R395): the count is a multiple of the health epoch. -/
  | healthDecay (dt : Nat)
  /-- GOVERNOR_PERIOD (R401): the count is a multiple of 1,024. -/
  | governorPeriod (dt : Nat)
  /-- BASIN_STEP_CHANGE (R398): the step decided for basin b takes effect. -/
  | basinStepChange (dt : Nat) (b : Nat)
  /-- DROOP (R403): the supply of island i falls below its droop threshold, and n of its cycles are stretched before the device acts again. -/
  | droop (dt : Nat) (i : Nat) (n : Nat)
  /-- DROOP_RECOVERY (R403): the supply of island i recovers after n further stretched cycles. -/
  | droopRecovery (dt : Nat) (i : Nat) (n : Nat)
  /-- STRETCH_REPORT (R403): the stretch of protected island i is reported. -/
  | stretchReport (dt : Nat) (i : Nat)
  /-- SLEW_REFILL (R404): the count is a multiple of 1,024. -/
  | slewRefill (dt : Nat)
  /-- SLEW_START_GRANT (R404): the first waiting start takes its weight. -/
  | slewStartGrant (dt : Nat)
  /-- RAMP_DOWN_END (R405): the ramp-down of engine e ends; e: 2b + j a jet, 128 + b a rill, 192 + t a cascade. -/
  | rampDownEnd (dt : Nat) (e : Nat)
  /-- BASIN_GATE_REQ (R406): an 8-byte write of v to BASIN_GATE_REQ. -/
  | basinGateReq (dt : Nat) (v : Nat)
  /-- BASIN_GATE_EFFECT (R406): the gating of basin b takes effect. -/
  | basinGateEffect (dt : Nat) (b : Nat)
  /-- BASIN_WAKE_REQ (R407): an 8-byte write of v to BASIN_WAKE_REQ. -/
  | basinWakeReq (dt : Nat) (v : Nat)
  /-- WAKE_RAMP_DONE (R407): the power switch ramp of basin b ends. -/
  | wakeRampDone (dt : Nat) (b : Nat)
  /-- WAKE_ZEROING_DONE (R25): the zeroing of basin b at its wake ends; fails: items of the basin whose recovery test failed. -/
  | wakeZeroingDone (dt : Nat) (b : Nat) (fails : List Nat)
  /-- ENERGY_METER_SAMPLE (R408): the meters gain these amounts in uJ; power: package power of the period in 1/16 W. -/
  | energyMeterSample (dt : Nat) (uj : List Nat) (power : Nat)
  /-- THERMAL_SAMPLE (R429): the sensors of C0, C1 and H read these temperatures. -/
  | thermalSample (dt : Nat) (c0 : Nat) (c1 : Nat) (h : Nat)
  /-- COLD_RESET (R411): supplies rise (supply) or PKG_RST_N is asserted. -/
  | coldReset (dt : Nat) (supply : Bool)
  /-- PKG_RST_RELEASE (R415): PKG_RST_N is released. -/
  | pkgRstRelease (dt : Nat)
  /-- PERST_ASSERT (R431): PERST# is asserted. -/
  | perstAssert (dt : Nat)
  /-- PERST_RELEASE (R415): PERST# is released. -/
  | perstRelease (dt : Nat)
  /-- RESET_CMD_WARM (R414): a write of v to RESET_CMD with kind 1. -/
  | resetCmdWarm (dt : Nat) (v : Nat)
  /-- WARM_RESET_EFFECT (R414): the commanded warm reset takes effect. -/
  | warmResetEffect (dt : Nat)
  /-- RESET_CMD_TERRACE (R419): a write of v to RESET_CMD with kind 2. -/
  | resetCmdTerrace (dt : Nat) (v : Nat)
  /-- RESET_CMD_BASIN (R419): a write of v to RESET_CMD with kind 3. -/
  | resetCmdBasin (dt : Nat) (v : Nat)
  /-- TERRACE_RESET_DONE (R419): training after the terrace reset has ended. -/
  | terraceResetDone (dt : Nat)
  /-- BASIN_RESET_DONE (R419): the basin reset ends. -/
  | basinResetDone (dt : Nat)
  /-- FUSES_LOADED (R415): boot phase 0 ends; the strap balls carry pkg and tray. -/
  | fusesLoaded (dt : Nat) (pkg : Nat) (tray : Nat)
  /-- HUB_READY (R415): boot phase 1 ends. -/
  | hubReady (dt : Nat)
  /-- PCIE_READY (R415): boot phase 2 ends. -/
  | pcieReady (dt : Nat)
  /-- DIE_READY (R415): die C0 or C1 heartbeats by the end of phase 3, or does not. -/
  | dieReady (dt : Nat) (d : Nat) (alive : Bool)
  /-- HBM_CONTROLLER_TRAINED (R417): training of controller c of terrace t ends; answers: its stack answered; failed: its pseudo-channels that failed. -/
  | hbmControllerTrained (dt : Nat) (t : Nat) (c : Nat) (answers : Bool) (failed : List Nat)
  /-- LOCAL_DONE (R415): boot phase 6 ends. -/
  | localDone (dt : Nat)
  /-- PCIE_LINK_DOWN (R380): the PCIe host link goes down. -/
  | pcieLinkDown (dt : Nat)
  /-- MCTP_CONTROL (R436): an MCTP control request, from its Rq byte on, is served. -/
  | mctpControl (dt : Nat) (tr : Transport) (req : List Byte)
  /-- PLDM_GET_SENSOR (R437): the reading of sensor id is asked for. -/
  | pldmGetSensor (dt : Nat) (tr : Transport) (id : Nat)
  /-- SET_EVENT_RECEIVER (R437): SetEventReceiver names eid, with its thresholds of sensor 4. -/
  | setEventReceiver (dt : Nat) (tr : Transport) (eid : Nat) (thresholds : List Nat)
  /-- VENDOR_SILT_STATUS (R438): vendor command 0x01. -/
  | vendorSiltStatus (dt : Nat) (tr : Transport)
  /-- VENDOR_SILT_ENTRY (R438): vendor command 0x02 for index i. -/
  | vendorSiltEntry (dt : Nat) (tr : Transport) (i : Nat)
  /-- VENDOR_SILT_SNAP (R438): vendor command 0x03 for block b. -/
  | vendorSiltSnap (dt : Nat) (tr : Transport) (b : Nat)
  /-- VENDOR_CLASS_COUNT (R438): vendor command 0x04 for class k. -/
  | vendorClassCount (dt : Nat) (tr : Transport) (k : Nat)
  /-- VENDOR_HEALTH (R438): vendor command 0x05. -/
  | vendorHealth (dt : Nat) (tr : Transport)
  /-- JTAG_INSTRUCTION (R435): the test access port is given this instruction. -/
  | jtagInstruction (dt : Nat) (ins : TapIns)
  /-- SUPPLY_REMOVAL (R394): supplies fall out of their range; hub: those of the hub die too. -/
  | supplyRemoval (dt : Nat) (hub : Bool)
  deriving DecidableEq, Repr

end Sys2Proof
end

