-- ==== Sys2Proof/Machine/Codes.lean ====
section
/-! DEFINITION. The status codes of Table 10-9 (R227). -/
namespace Sys2Proof.Machine

abbrev stOk : Nat := 0x0000
abbrev stSettledStale : Nat := 0x0001
abbrev stOpcodeInvalid : Nat := 0x1001
abbrev stDescInvalid : Nat := 0x1002
abbrev stNotPermitted : Nat := 0x1003
abbrev stBasinNotOwned : Nat := 0x1004
abbrev stAddrFault : Nat := 0x2001
abbrev stMemFenced : Nat := 0x2002
abbrev stMemPoison : Nat := 0x2003
abbrev stGatherRange : Nat := 0x2004
abbrev stUnitFenced : Nat := 0x3001
abbrev stResidueMismatch : Nat := 0x3002
abbrev stSpoutTrap : Nat := 0x3003
abbrev stSpoutExit : Nat := 0x3004
abbrev stAnchorOverflow : Nat := 0x4001
abbrev stCascadeOrder : Nat := 0x4002
abbrev stSessionFull : Nat := 0x5001
abbrev stSessionInvalid : Nat := 0x5002
abbrev stSessionState : Nat := 0x5003
abbrev stKvFull : Nat := 0x5004
abbrev stPageInvalid : Nat := 0x5005
abbrev stRefcountFull : Nat := 0x5006
abbrev stVariantInvalid : Nat := 0x5007
abbrev stTimeout : Nat := 0x6001
abbrev stSliceFrozen : Nat := 0x7001
abbrev stPlanRejected : Nat := 0x8001
abbrev stPlanLate : Nat := 0x8002
abbrev stSlotOverrun : Nat := 0x8003
abbrev stMigrateFailed : Nat := 0x8004
abbrev stAqdUnreachable : Nat := 0x9001
abbrev stAqdRejected : Nat := 0x9002
abbrev stShadowMismatch : Nat := 0xA001
abbrev stShadowSourceLost : Nat := 0xA002
abbrev stDeviceSafe : Nat := 0xB001

/-- R81: the order of outcomes of a tile. -/
def tileOrder : List Nat :=
  [stUnitFenced, stTimeout, stResidueMismatch, stMemPoison, stMemFenced, stAnchorOverflow, stGatherRange]

/-- R81: the first outcome that applies; ST_OK when none does. -/
def tileStatus (met : List Nat) : Nat := (tileOrder.find? met.contains).getD stOk

end Sys2Proof.Machine
end

