-- ==== Sys2Proof/Config.lean ====
section
/-! DEFINITION. What one device fixes and the manual does not print (fuses, calibration, the tables of other
standards), and the free values: constants without a body, of which nothing can be proved (log entries 3 to 6). -/
namespace Sys2Proof.Config

/-- JET_SPARE fuses of jet `i` (basin x 2 + jet): the used bits (R83, Table 3-5). -/
opaque fuseUsed : Nat → Nat
/-- JET_SPARE fuses: field_budget; at most 2 counts (R83). -/
opaque fuseBudget : Nat → Nat
/-- JET_SPARE_ROW_MAP fuses. -/
opaque fuseRowMap : Nat → Nat
/-- JET_SPARE_COL_MAP fuses. -/
opaque fuseColMap : Nat → Nat
/-- PP_LAT calibration of port `p` (R310). -/
opaque calLat : Nat → Nat
/-- Enterprise number in MGMT_ID (R441). -/
opaque fuseEnterprise : Nat
/-- Bytes of attached CXL memory (R105). -/
opaque cxlBytes : Nat
/-- The device key drawn at the `n`-th reset of the hub die (R237): 512 bits, K1 low. -/
opaque deviceKey : Nat → BitVec 512
/-- A free byte: what an unspecified byte number `a` of the event `n` holds (R19, R90, R97, R412). -/
opaque freeByte : Nat → Nat → Byte
/-- A free pool word. -/
opaque freeWord : Nat → Nat → PoolWord
/-- A free number, for any other value the manual leaves open; `n` is the state's counter. -/
opaque freeNat : Nat → Nat
/-- TS 38.212 Tables 5.3.2-2 and 5.3.2-3: the shift value of base graph `bg` (0 BG1, 1 BG2), lifting-size set `i`,
row `m`, column `j`; none where the base graph has no entry. The manual names the tables and prints none. -/
opaque ldpcShift : (bg i m j : Nat) → Option Nat
/-- TS 38.212 Table 5.3.1.2-1: the polar reliability sequence for length 1,024. -/
opaque polarSequence : Nat → Nat
/-- TS 38.212 Table 5.3.1.1-1: the interleaving pattern of polar input bits. -/
opaque polarInterleave : Nat → Nat

/-- 64-byte flits that a request of a kind (0 RD, 1 WR, 2 BW, 3 AT, 4 BUMP, 5 QUERY) with `n` data bytes and its reply
take on the aqueduct, both directions (R247, R358): the manual gives no header sizes. -/
opaque aqdFlits : (kind n : Nat) → Nat

/-- The vector length that vsetvl sets for `avl` elements between `vlmax` and twice `vlmax` (R188): the vector extension lets
an implementation choose from ceil(avl / 2) on. -/
opaque vlChoice : (avl vlmax : Nat) → Nat

/-- Whether an agnostic element `i` of a vector instruction is overwritten with ones, from what the instruction finds: its word, vl,
vstart, vtype and the registers (R188 leaves the choice to the vector extension; by R189 it depends on nothing else). -/
opaque agnosticOnes : (found : List Nat) → (i : Nat) → Bool

/-- The head dimension and KV format of a variant's model with pages of 2^shift positions, as a number of a list of those that R156
allows: no parameter of KV_APPEND gives them. -/
opaque kvForm : (variant shift : Nat) → Nat

end Sys2Proof.Config
end

