-- ==== Sys2Proof/Machine/Sparse.lean ====
section
/-! DEFINITION. Tables keyed by numbers, in one canonical form: keys strictly rising, and no entry equal to what an
unlisted key reads as. Memories are such tables, with a list of the ranges whose contents the manual calls undefined. -/
namespace Sys2Proof.Machine

/-- A table: keys strictly rising. -/
abbrev Tbl (β : Type) := List (Nat × β)

/-- The entry of key `k`, `d` where there is none. -/
def Tbl.get {β : Type} (d : β) : Tbl β → Nat → β
  | [], _ => d
  | (j, v) :: t, k => if k = j then v else Tbl.get d t k

/-- The table with `v` at `k`. -/
def Tbl.put {β : Type} : Tbl β → Nat → β → Tbl β
  | [], k, v => [(k, v)]
  | (j, x) :: t, k, v => if k = j then (k, v) :: t else if k < j then (k, v) :: (j, x) :: t else (j, x) :: Tbl.put t k v

/-- The table without `k`. -/
def Tbl.del {β : Type} (t : Tbl β) (k : Nat) : Tbl β := t.filter fun e => e.1 != k

/-- The table that reads `v` at `k`, where unlisted keys read `d`. -/
def Tbl.set {β : Type} [DecidableEq β] (d : β) (t : Tbl β) (k : Nat) (v : β) : Tbl β :=
  if v = d then Tbl.del t k else Tbl.put t k v

/-- The entry of key `k`, if there is one. -/
def Tbl.find {β : Type} : Tbl β → Nat → Option β
  | [], _ => none
  | (j, v) :: t, k => if k = j then some v else Tbl.find t k

/-- Keys rise strictly. -/
def Tbl.rising {β : Type} : Tbl β → Bool
  | [] => true
  | [_] => true
  | e :: f :: t => decide (e.1 < f.1) && Tbl.rising (f :: t)

/-- The canonical form: keys rise strictly, and no entry is `d`. -/
def Tbl.wf {β : Type} [DecidableEq β] (d : β) (t : Tbl β) : Bool := t.rising && t.all fun e => e.2 != d

/-- Addresses `lo` to `hi - 1` of a memory hold undefined contents since event `tag`. -/
structure Undef where
  lo : Nat
  hi : Nat
  tag : Nat
  deriving DecidableEq, Repr

/-- A memory: its listed cells, and the ranges of undefined contents, which hold no listed cell. -/
structure Mem (β : Type) where
  cells : Tbl β := []
  undef : List Undef := []
  deriving DecidableEq, Repr

/-- Take `lo` to `hi - 1` out of the undefined ranges. -/
def punch (lo hi : Nat) (u : List Undef) : List Undef :=
  u.flatMap fun r =>
    if r.hi ≤ lo || hi ≤ r.lo then [r] else
    (if r.lo < lo then [⟨r.lo, lo, r.tag⟩] else []) ++ (if hi < r.hi then [⟨hi, r.hi, r.tag⟩] else [])

/-- What address `a` reads as: its cell; in an undefined range a free value; else `d`. -/
def Mem.get {β : Type} (d : β) (free : Nat → Nat → β) (m : Mem β) (a : Nat) : β :=
  match m.undef.find? (fun r => r.lo ≤ a && a < r.hi) with
  | some r => free r.tag a
  | none => Tbl.get d m.cells a

/-- Write `v` at `a`. -/
def Mem.set {β : Type} [DecidableEq β] (d : β) (m : Mem β) (a : Nat) (v : β) : Mem β :=
  ⟨Tbl.set d m.cells a v, if m.undef.isEmpty then [] else punch a (a + 1) m.undef⟩

/-- Clear `lo` to `hi - 1` to `d`, the value unlisted addresses read as. -/
def Mem.clear {β : Type} (m : Mem β) (lo hi : Nat) : Mem β :=
  ⟨m.cells.filter (fun c => c.1 < lo || hi ≤ c.1), punch lo hi m.undef⟩

/-- Make the contents of `lo` to `hi - 1` undefined. -/
def Mem.forget {β : Type} (m : Mem β) (lo hi tag : Nat) : Mem β :=
  if hi ≤ lo then m else ⟨m.cells.filter (fun c => c.1 < lo || hi ≤ c.1), punch lo hi m.undef ++ [⟨lo, hi, tag⟩]⟩

/-- A memory of bytes: read, write one byte, read `n` bytes, write a list of bytes. -/
abbrev ByteMem := Mem Byte

def ByteMem.get (m : ByteMem) (a : Nat) : Byte := Mem.get 0 Config.freeByte m a
def ByteMem.set (m : ByteMem) (a : Nat) (v : Byte) : ByteMem := Mem.set 0 m a v
def ByteMem.read (m : ByteMem) (a n : Nat) : List Byte := (List.range n).map fun i => ByteMem.get m (a + i)

def ByteMem.write (m : ByteMem) (a : Nat) : List Byte → ByteMem
  | [] => m
  | b :: bs => ByteMem.write (ByteMem.set m a b) (a + 1) bs

/-- The memory's form: cells canonical, every undefined range non-empty and without a listed cell. -/
def Mem.wf {β : Type} [DecidableEq β] (d : β) (m : Mem β) : Bool :=
  Tbl.wf d m.cells && m.undef.all fun r => r.lo < r.hi && m.cells.all fun c => c.1 < r.lo || r.hi ≤ c.1

/-- A little-endian number from bytes, and its bytes (R3). -/
def leNat : List Byte → Nat
  | [] => 0
  | b :: bs => b.toNat + 256 * leNat bs

def leBytes : Nat → Nat → List Byte
  | 0, _ => []
  | n + 1, v => BitVec.ofNat 8 v :: leBytes n (v / 256)

end Sys2Proof.Machine
end

