-- ==== Sys2Proof/Machine/Crypto.lean ====
section
/-! DEFINITION. AES-256-XTS over one 256-byte data unit (R236: IEEE Std 1619-2018, AES of FIPS 197), the CRC-64 of the
output digest (R226), and the CRC-32 of IEEE 802.3 is not needed: frames are held without their FCS. -/
namespace Sys2Proof.Machine

/-- Multiply by x in GF(2^8) modulo x^8 + x^4 + x^3 + x + 1. -/
def xtime (a : Nat) : Nat := if 128 ≤ a then (2 * a - 256) ^^^ 0x1b else 2 * a

def gmulAux : Nat → Nat → Nat → Nat
  | 0, _, _ => 0
  | n + 1, a, b => (if b % 2 = 1 then a else 0) ^^^ gmulAux n (xtime a) (b / 2)

/-- Product in GF(2^8). -/
def gmul (a b : Nat) : Nat := gmulAux 8 a b

/-- Inverse in GF(2^8), 0 for 0: the 254th power. -/
def ginv (a : Nat) : Nat :=
  let a2 := gmul a a; let a4 := gmul a2 a2; let a8 := gmul a4 a4; let a16 := gmul a8 a8
  let a32 := gmul a16 a16; let a64 := gmul a32 a32; let a128 := gmul a64 a64
  gmul a2 (gmul a4 (gmul a8 (gmul a16 (gmul a32 (gmul a64 a128)))))

def rotl8 (a k : Nat) : Nat := a * 2 ^ k % 256 + a * 2 ^ k / 256

/-- The S-box and its inverse. -/
def sbox (a : Nat) : Nat :=
  let b := ginv a
  b ^^^ rotl8 b 1 ^^^ rotl8 b 2 ^^^ rotl8 b 3 ^^^ rotl8 b 4 ^^^ 0x63

def sboxInv (a : Nat) : Nat := ginv (rotl8 a 1 ^^^ rotl8 a 3 ^^^ rotl8 a 6 ^^^ 0x05)

def xorBytes (a b : List Nat) : List Nat := List.zipWith (· ^^^ ·) a b

/-- The key schedule of AES-256: 60 words of 4 bytes, from 8. -/
def expandKey : Nat → Nat → List (List Nat) → List (List Nat)
  | 0, _, ws => ws
  | n + 1, rc, ws =>
    let i := ws.length
    let t := ws.getLastD []
    let u :=
      if i % 8 = 0 then
        let r := (t.drop 1 ++ t.take 1).map sbox
        (match r with | x :: xs => (x ^^^ rc) :: xs | [] => [])
      else if i % 8 = 4 then t.map sbox else t
    expandKey n (if i % 8 = 0 then xtime rc else rc) (ws ++ [xorBytes (ws.getD (i - 8) []) u])

/-- Round keys of a 256-bit key given as a number, first byte lowest. -/
def roundKeys (k : Nat) : List (List Nat) :=
  let w0 := (List.range 8).map fun i => (List.range 4).map fun j => slice k (32 * i + 8 * j) 8
  let ws := expandKey 52 1 w0
  (List.range 15).map fun r => (ws.drop (4 * r)).take 4 |>.flatten

def shiftRows (st : List Nat) : List Nat := (List.range 16).map fun i => st.getD ((i + 4 * (i % 4)) % 16) 0
def shiftRowsInv (st : List Nat) : List Nat := (List.range 16).map fun i => st.getD ((i + 16 - 4 * (i % 4)) % 16) 0

def mixCol (m : List Nat) (st : List Nat) : List Nat :=
  (List.range 16).map fun i =>
    let c := i / 4 * 4
    (List.range 4).foldl (fun acc j => acc ^^^ gmul (m.getD ((j + 4 - i % 4) % 4) 0) (st.getD (c + j) 0)) 0

/-- One block through AES-256. -/
def aesEnc (rk : List (List Nat)) (blk : List Nat) : List Nat :=
  let st := xorBytes blk (rk.getD 0 [])
  let st := (List.range 13).foldl (fun st r =>
    xorBytes (mixCol [2, 3, 1, 1] (shiftRows (st.map sbox))) (rk.getD (r + 1) [])) st
  xorBytes (shiftRows (st.map sbox)) (rk.getD 14 [])

def aesDec (rk : List (List Nat)) (blk : List Nat) : List Nat :=
  let st := xorBytes blk (rk.getD 14 [])
  let st := (List.range 13).foldl (fun st r =>
    mixCol [14, 11, 13, 9] (xorBytes ((shiftRowsInv st).map sboxInv) (rk.getD (13 - r) []))) st
  xorBytes ((shiftRowsInv st).map sboxInv) (rk.getD 0 [])

/-- Multiply a tweak by x in GF(2^128). -/
def tweakNext (t : List Nat) : List Nat :=
  let n := (t.foldr (fun b acc => b + 256 * acc) 0) * 2
  let n := if n < 2 ^ 128 then n else (n - 2 ^ 128) ^^^ 0x87
  (List.range 16).map fun i => slice n (8 * i) 8

/-- AES-256-XTS of one data unit: `key` holds K1 low and K2 high; `tweak` is the unit's number. -/
def xts (enc : Bool) (key tweak : Nat) (data : List Byte) : List Byte :=
  let k1 := roundKeys (slice key 0 256)
  let k2 := roundKeys (slice key 256 256)
  let t0 := aesEnc k2 ((List.range 16).map fun i => slice tweak (8 * i) 8)
  let step (st : List Byte × List Nat) (i : Nat) : List Byte × List Nat :=
    let blk := ((data.drop (16 * i)).take 16).map BitVec.toNat
    let x := xorBytes blk st.2
    let y := xorBytes (if enc then aesEnc k1 x else aesDec k1 x) st.2
    (st.1 ++ y.map (BitVec.ofNat 8), tweakNext st.2)
  ((List.range (data.length / 16)).foldl step ([], t0)).1

/-! ### The output digest (R226) -/

def crcBits : Nat → Nat → Nat
  | 0, c => c
  | n + 1, c => crcBits n (if 2 ^ 63 ≤ c then (2 * c - 2 ^ 64) ^^^ 0x42F0E1EBA9EA3693 else 2 * c)

def crc64Update (crc : Nat) (b : Byte) : Nat := crcBits 8 (crc ^^^ (b.toNat * 2 ^ 56))

/-- CRC-64 of ECMA-182, initial value 0. -/
def crc64 (bs : List Byte) : Nat := bs.foldl crc64Update 0

end Sys2Proof.Machine
end

