-- ==== Sys2Proof/Machine/Flags.lean ====
section
/-! DEFINITION. The accumulation flags (R56, Table 2-4) and anchored accumulation itself: decoding of element
formats (R44 to R46), K-group contributions (R49, R52, R55), pool words (R57), residues (R60), and every conversion
(R61 to R65), all on exact integers. -/
namespace Sys2Proof.Machine

/-- acc_flags, Table 2-4. -/
structure AccFlags where
  above : Bool := false
  inexact : Bool := false
  special : Bool := false
  convOvf : Bool := false
  deriving DecidableEq, Repr

/-- No flag. -/
def AccFlags.none : AccFlags := ⟨false, false, false, false⟩

/-- Each flag is the OR over everything the command did (R56). -/
def AccFlags.or (a b : AccFlags) : AccFlags :=
  ⟨a.above || b.above, a.inexact || b.inexact, a.special || b.special, a.convOvf || b.convOvf⟩

/-- The 4-bit field of the status reply. -/
def AccFlags.toNat (a : AccFlags) : Nat :=
  nat1 a.above + 2 * nat1 a.inexact + 4 * nat1 a.special + 8 * nat1 a.convOvf

/-- Back from the 4-bit field. -/
def AccFlags.ofNat (n : Nat) : AccFlags := ⟨bitAt n 0, bitAt n 1, bitAt n 2, bitAt n 3⟩

/-! ### Exact values -/

/-- What an encoded element is worth: NaN, a signed infinity, or `m * 2^e` exactly. -/
inductive Val where
  | nan
  | inf (neg : Bool)
  | num (m e : Int)
  deriving DecidableEq, Repr

/-- floor(log2 n) for n > 0 (`ilog2`). -/
def ilog2 (n : Nat) : Nat := Nat.log2 n

/-- `shift_trunc`: m * 2^s truncated toward zero, and whether a non-zero bit is lost. -/
def shiftTrunc (m s : Int) : Int × Bool :=
  if 0 ≤ s then (m * (2 : Int) ^ s.toNat, false)
  else
    let k := (-s).toNat
    let a := m.natAbs
    let q := a / 2 ^ k
    (if m < 0 then -(q : Int) else q, q * 2 ^ k != a)

/-- `rne_shift`: m * 2^s to the nearest integer, ties to even. -/
def rneShift (m : Nat) (s : Int) : Nat :=
  if 0 ≤ s then m * 2 ^ s.toNat
  else
    let k := (-s).toNat
    let q := m / 2 ^ k
    let rest := m % 2 ^ k
    let half := 2 ^ (k - 1)
    if half < rest || (rest == half && q % 2 == 1) then q + 1 else q

/-! ### Formats (Tables 2-1 to 2-3) -/

/-- Parameters of a floating-point element format: exponent bits, fraction bits, bias. -/
structure FpFmt where
  E : Nat
  M : Nat
  bias : Int
  deriving DecidableEq, Repr

/-- Element format of a format code; none for the integers, RAW144 and reserved codes. -/
def fpOf (code : Nat) : Option FpFmt :=
  match code with
  | 0x0 | 0x2 => some ⟨4, 3, 7⟩
  | 0x1 | 0x3 => some ⟨5, 2, 15⟩
  | 0x4 => some ⟨3, 2, 3⟩
  | 0x5 => some ⟨2, 3, 1⟩
  | 0x6 => some ⟨2, 1, 1⟩
  | 0x9 => some ⟨8, 7, 127⟩
  | 0xA => some ⟨5, 10, 15⟩
  | 0xB => some ⟨8, 23, 127⟩
  | _ => none

/-- Element bits of a format code (Table 2-1). -/
def fmtBits (code : Nat) : Nat :=
  match code with
  | 0x0 | 0x1 | 0x2 | 0x3 | 0x7 => 8
  | 0x4 | 0x5 => 6
  | 0x6 | 0x8 => 4
  | 0x9 | 0xA => 16
  | 0xB => 32
  | 0xC => 144
  | _ => 0

/-- MX formats carry one E8M0 scale per 32 elements. -/
def fmtMx (code : Nat) : Bool := 2 ≤ code && code ≤ 6
/-- Integer formats. -/
def fmtInt (code : Nat) : Bool := code == 7 || code == 8
/-- Codes allowed as an operand (Table 2-1). -/
def fmtOperand (code : Nat) : Bool := code ≤ 0xA
/-- Codes of a 16-bit format, which halve the rate (R67). -/
def fmtHalf (code : Nat) : Bool := code == 9 || code == 0xA
/-- Codes of the double-rate pairs (Table 3-1). -/
def fmtNarrow (code : Nat) : Bool := code == 4 || code == 5 || code == 6 || code == 8

/-- Exponent of the largest finite value (Table 2-2; INT8 7, INT4 3, R44). -/
def eTop (code : Nat) : Int :=
  match code with
  | 0x0 | 0x2 => 8
  | 0x1 | 0x3 => 15
  | 0x4 => 4
  | 0x5 | 0x6 => 2
  | 0x7 => 7
  | 0x8 => 3
  | 0x9 | 0xB => 127
  | 0xA => 15
  | _ => 0

/-- Encodings of NaN (Table 2-3). -/
def isNanEnc (code x : Nat) : Bool :=
  match code with
  | 0x0 | 0x2 => x % 128 == 0x7F
  | 0x1 | 0x3 => 0x7D ≤ x % 128
  | 0x9 => 0x7F80 < x % 0x8000
  | 0xA => 0x7C00 < x % 0x8000
  | 0xB => 0x7F800000 < x % 0x80000000
  | _ => false

/-- Encodings of infinity (Table 2-3). -/
def isInfEnc (code x : Nat) : Bool :=
  match code with
  | 0x1 | 0x3 => x % 128 == 0x7C
  | 0x9 => x % 0x8000 == 0x7F80
  | 0xA => x % 0x8000 == 0x7C00
  | 0xB => x % 0x80000000 == 0x7F800000
  | _ => false

/-- Two's complement of `w` bits. -/
def signedOf (x w : Nat) : Int :=
  if x % 2 ^ w < 2 ^ (w - 1) then ((x % 2 ^ w : Nat) : Int) else ((x % 2 ^ w : Nat) : Int) - (2 : Int) ^ w

/-- Low `w` bits of a signed number. -/
def unsignedOf (x : Int) (w : Nat) : Nat := (x % (2 : Int) ^ w).toNat

/-- `decode` of R48 with infinities kept apart from NaN, as R112 reads a value. -/
def valOf (code x : Nat) : Val :=
  match fpOf code with
  | none => .num (signedOf x (fmtBits code)) 0
  | some f =>
    let neg := bitAt x (f.E + f.M)
    if isNanEnc code x then .nan
    else if isInfEnc code x then .inf neg
    else
      let ef := slice x f.M f.E
      let fr := slice x 0 f.M
      let m : Nat := if ef == 0 then fr else 2 ^ f.M + fr
      let e : Int := (if ef == 0 then 1 else (ef : Int)) - f.bias - f.M
      .num (if neg then -(m : Int) else m) e

/-- The largest finite encoding's significand and exponent: max_finite = m * 2^e (Table 2-2). -/
def maxFinite (code : Nat) : Nat × Int :=
  match code with
  | 0x0 | 0x2 => (7, 6)
  | 0x1 | 0x3 => (7, 13)
  | 0x4 => (7, 2)
  | 0x5 => (15, -1)
  | 0x6 => (3, 1)
  | 0x9 => (255, 120)
  | 0xA => (2047, 5)
  | 0xB => (16777215, 104)
  | _ => (0, 0)

/-- The positive encoding of max_finite. -/
def maxFiniteEnc (code : Nat) : Nat :=
  match code with
  | 0x0 | 0x2 => 0x7E
  | 0x1 | 0x3 => 0x7B
  | 0x4 | 0x5 => 0x1F
  | 0x6 => 0x7
  | 0x9 => 0x7F7F
  | 0xA => 0x7BFF
  | 0xB => 0x7F7FFFFF
  | _ => 0

/-- Canonical NaN and the integers' 0 (Table 2-5). -/
def canonicalNan (code : Nat) : Nat :=
  match code with
  | 0x0 => 0x7F
  | 0x1 => 0x7E
  | 0x9 => 0x7FC0
  | 0xA => 0x7E00
  | 0xB => 0x7FC00000
  | _ => 0

/-- Overflow value with sat = 0, positive (Table 2-5). -/
def overflowEnc (code : Nat) : Nat :=
  match code with
  | 0x0 => 0x7F
  | 0x1 => 0x7C
  | 0x9 => 0x7F80
  | 0xA => 0x7C00
  | 0xB => 0x7F800000
  | _ => 0

/-- Formats with neither NaN nor infinity, which always saturate. -/
def noSpecials (code : Nat) : Bool := 4 ≤ code && code ≤ 8

/-- The sign bit of a format. -/
def signBit (code : Nat) : Nat := 2 ^ (fmtBits code - 1)

/-- `2^k * a < 2^j * b` for integer exponents, exactly. -/
def dyLt (a : Nat) (k : Int) (b : Nat) (j : Int) : Bool :=
  if j ≤ k then a * 2 ^ (k - j).toNat < b else a < b * 2 ^ (j - k).toNat

/-- `round_fp` (R61) of the exact value `m * 2^e`, to a floating-point element format. -/
def roundFp (m e : Int) (code : Nat) (sat : Bool) : Nat × Bool :=
  match fpOf code with
  | none => (0, false)
  | some f =>
    if m = 0 then (0, false)
    else
      let sgn := if m < 0 then signBit code else 0
      let a := m.natAbs
      let x : Int := (ilog2 a : Int) + e
      let q : Int := max x (1 - f.bias) - f.M
      let r := rneShift a (e - q)
      let rq : Nat × Int := if r = 2 ^ (f.M + 1) then (2 ^ f.M, q + 1) else (r, q)
      let mf := maxFinite code
      if dyLt mf.1 mf.2 rq.1 rq.2 then
        if sat || noSpecials code then (sgn + maxFiniteEnc code, true) else (sgn + overflowEnc code, true)
      else if 2 ^ f.M ≤ rq.1 then
        (sgn + (rq.2 + f.M + f.bias).toNat * 2 ^ f.M + (rq.1 - 2 ^ f.M), false)
      else (sgn + rq.1, false)

/-- R64: the exact value to a two's-complement integer of `w` bits, saturating. -/
def roundInt (m e : Int) (w : Nat) : Nat × Bool :=
  let r := rneShift m.natAbs e
  let v : Int := if m < 0 then -(r : Int) else r
  let hi : Int := 2 ^ (w - 1) - 1
  let lo : Int := -(2 ^ (w - 1) : Int)
  if hi < v then (unsignedOf hi w, true)
  else if v < lo then (unsignedOf lo w, true)
  else (unsignedOf v w, false)

/-- `rnd` (R113) to a format code other than RAW144; the flag is convert_overflow of R114. -/
def rnd (v : Val) (code : Nat) (sat : Bool) : Nat × Bool :=
  match v with
  | .nan => (canonicalNan code, false)
  | .inf neg =>
    if fmtInt code then (if neg then 2 ^ (fmtBits code - 1) else 2 ^ (fmtBits code - 1) - 1, false)
    else ((if neg then signBit code else 0) + (if sat then maxFiniteEnc code else overflowEnc code), false)
  | .num m e => if fmtInt code then roundInt m e (fmtBits code) else roundFp m e code sat

/-! ### K-groups (R49) -/

/-- The pool word that represents NaN. -/
def nanWord : Int := -((2 : Int) ^ 143)

/-- Exponent of one product, none when it is zero. -/
def termExp (t : Int × Int) : Option Int := if t.1 = 0 then none else some ((ilog2 t.1.natAbs : Int) + t.2)

/-- The largest exponent of the non-zero products (`g`). -/
def groupExp : List (Int × Int) → Option Int
  | [] => none
  | t :: ts =>
    match termExp t, groupExp ts with
    | none, r => r
    | some x, none => some x
    | some x, some y => some (max x y)

/-- Stages one and two: each product truncated to the grid 2^(g-46), summed exactly. -/
def truncSum (g : Int) : List (Int × Int) → Int × Bool
  | [] => (0, false)
  | t :: ts =>
    let r := truncSum g ts
    let q := shiftTrunc t.1 (t.2 - (g - 46))
    (q.1 + r.1, q.2 || r.2)

/-- Stage three: scales, anchor, overflow policy. -/
def stage3 (S : Int) (sh : Int) (policy : Nat) (lost0 : Bool) : Int × AccFlags :=
  let c := shiftTrunc S sh
  let above := decide ((2 : Int) ^ 104 ≤ (c.1.natAbs : Int))
  let w := if above then
      (if policy = 0 then (if 0 < c.1 then (2 : Int) ^ 104 - 1 else -((2 : Int) ^ 104 - 1)) else nanWord)
    else c.1
  (w, ⟨above, lost0 || c.2, false, false⟩)

/-- `stage123` (R151): the contribution of a list of exact products `m * 2^e` under anchor `A`; `scale` is the
exponent of the two block scales, 0 where they are folded into the products. -/
def stage123 (ts : List (Int × Int)) (scale A : Int) (policy : Nat) : Int × AccFlags :=
  match groupExp ts with
  | none => (0, .none)
  | some g =>
    let s := truncSum g ts
    stage3 s.1 ((g - 46) + scale - (A - 104)) policy s.2

/-- An encoded element decodes as SPECIAL (R45). -/
def Val.isSpecial : Val → Bool
  | .num _ _ => false
  | _ => true

/-- Significand and exponent of a finite value. -/
def Val.parts : Val → Int × Int
  | .num m e => (m, e)
  | _ => (0, 0)

/-- `kgroup` (R49) on pairs of encoded elements; missing elements of a K-group are simply absent (R48). -/
def kgroup (ab : List (Nat × Nat)) (fa fb sa sb : Nat) (A : Int) (policy : Nat) : Int × AccFlags :=
  let vs := ab.map fun p => (valOf fa p.1, valOf fb p.2)
  if sa == 0xFF || sb == 0xFF || vs.any (fun v => v.1.isSpecial || v.2.isSpecial) then
    (nanWord, ⟨false, false, true, false⟩)
  else
    stage123 (vs.map fun v => (v.1.parts.1 * v.2.parts.1, v.1.parts.2 + v.2.parts.2))
      (((sa : Int) - 127) + ((sb : Int) - 127)) A policy

/-- `pool_add` (R57). Adding to a word that already holds NAN_WORD sets no flag: Table 2-4 names a RAW144 partial input, which no
opcode takes, and not the word added to (DEDUCED, log entry 18). -/
def poolAdd (p c : Int) : Int := if p = nanWord ∨ c = nanWord then nanWord else p + c

/-- `derive_anchor` (R53). -/
def deriveAnchor (fa fb smaxA smaxB : Nat) : Int :=
  let f := fun s : Nat => ((if s = 0xFF then 0xFE else s : Nat) : Int) - 127
  max (-512) (min 511 (eTop fa + eTop fb + 7 + f smaxA + f smaxB))

/-- The scale maximum derive_anchor uses: 127 for a format without block scales (R53, R136). -/
def smaxOf (code smax : Nat) : Nat := if fmtMx code then smax else 127

/-- `res255` (R60). -/
def res255 (v : Int) : Nat := (v % 255).toNat

/-- The exact value of a pool word under anchor `A`. -/
def wordVal (p A : Int) : Val := if p = nanWord then .nan else .num p (A - 104)

/-- `mx_quantise` (R65): scale byte, elements, convert_overflow. The words are those in bounds; missing ones are 0. -/
def mxQuantise (ps : List Int) (A : Int) (ef : Nat) : Nat × List Nat × Bool :=
  if ps.any (· = nanWord) then (0xFF, ps.map fun _ => 0, false)
  else
    let amax := ps.foldl (fun a p => max a p.natAbs) 0
    if amax = 0 then (0, ps.map fun _ => 0, false)
    else
      let xs : Int := (ilog2 amax : Int) + (A - 104) - eTop ef
      let hi := decide (127 < xs)
      let xc := max (-127) (min 127 xs)
      let es := ps.map fun p => roundFp p (A - xc - 104) ef true
      ((xc + 127).toNat, es.map (·.1), hi && es.any (·.2))

/-- `mx_quantise_values` (R119) on encodings in format `fmt`. -/
def mxQuantiseValues (vs : List Nat) (fmt ef : Nat) : Nat × List Nat × Bool :=
  let ds := vs.map (valOf fmt)
  if ds.any Val.isSpecial then (0xFF, vs.map fun _ => 0, false)
  else
    let nz := ds.filter fun d => d.parts.1 ≠ 0
    match nz with
    | [] => (0, vs.map fun _ => 0, false)
    | d :: rest =>
      let emin := rest.foldl (fun a x => min a x.parts.2) d.parts.2
      mxQuantise (ds.map fun x => if x.parts.1 = 0 then 0 else x.parts.1 * (2 : Int) ^ (x.parts.2 - emin).toNat)
        (emin + 104) ef

end Sys2Proof.Machine
end

