-- ==== Sys2Proof/Machine/Numeric.lean ====
section
/-! DEFINITION. Exact real arithmetic for the stages: values combined exactly and rounded once (R113), the spline
tables of R116 evaluated with error bounds and refined, `exp2_neg` (R150), and Philox4x32-10 (R120). -/
namespace Sys2Proof.Machine

/-- Exact product; the product of infinity and zero is NaN (R113). -/
def Val.mul : Val → Val → Val
  | .nan, _ => .nan
  | _, .nan => .nan
  | .inf a, .inf b => .inf (a != b)
  | .inf a, .num m _ => if m = 0 then .nan else .inf (a != decide (m < 0))
  | .num m _, .inf b => if m = 0 then .nan else .inf (b != decide (m < 0))
  | .num m e, .num n f => .num (m * n) (e + f)

/-- Exact sum of two dyadic numbers. -/
def dyAdd (m e n f : Int) : Int × Int :=
  if e ≤ f then (m + n * (2 : Int) ^ (f - e).toNat, e) else (m * (2 : Int) ^ (e - f).toNat + n, f)

/-- Exact sum; infinities of opposite sign give NaN. -/
def Val.add : Val → Val → Val
  | .nan, _ => .nan
  | _, .nan => .nan
  | .inf a, .inf b => if a = b then .inf a else .nan
  | .inf a, _ => .inf a
  | _, .inf b => .inf b
  | .num m e, .num n f => let r := dyAdd m e n f; .num r.1 r.2

/-- Negation. -/
def Val.neg : Val → Val
  | .nan => .nan
  | .inf a => .inf (!a)
  | .num m e => .num (-m) e

/-- `a < b` on numbers and infinities; false where either is NaN. -/
def Val.lt : Val → Val → Bool
  | .nan, _ => false
  | _, .nan => false
  | .inf a, .inf b => a && !b
  | .inf a, _ => a
  | _, .inf b => !b
  | .num m e, .num n f => decide ((dyAdd m e (-n) f).1 < 0)

/-- A dyadic number that rounds, in every format of at most 62 significand bits, as the quotient `n / d` does:
64 further bits of the quotient and one bit that tells whether anything lies below them. -/
def quotVal (n : Int) (d : Nat) : Val :=
  if n = 0 then .num 0 0
  else
    let a := n.natAbs
    let k := 66 + Nat.log2 d
    let q := a * 2 ^ k / d
    let st := if a * 2 ^ k % d = 0 then 0 else 1
    let m : Int := ((2 * q + st : Nat) : Int)
    .num (if n < 0 then -m else m) (-((k : Int) + 1))

/-- Exact quotient of two numbers, as `quotVal` gives it; the divisor is not zero. -/
def Val.div : Val → Val → Val
  | .num m e, .num n f =>
    match quotVal (if n < 0 then -m else m) n.natAbs with
    | .num q k => .num q (k + e - f)
    | v => v
  | _, _ => .nan

/-- Integer square root, one bit at a time from bit `n`. -/
def isqrtAux (a : Nat) : Nat → Nat → Nat
  | 0, r => if (r + 1) * (r + 1) ≤ a then r + 1 else r
  | n + 1, r => isqrtAux a n (if (r + 2 ^ (n + 1)) * (r + 2 ^ (n + 1)) ≤ a then r + 2 ^ (n + 1) else r)

/-- floor(sqrt a). -/
def isqrt (a : Nat) : Nat := isqrtAux a (Nat.log2 a / 2 + 1) 0

/-- A dyadic number that rounds as 1 / sqrt(m * 2^e) does, for m > 0. -/
def rsqrtVal (m : Nat) (e : Int) : Val :=
  let odd := e % 2 ≠ 0
  let m' := if odd then 2 * m else m
  let e' := if odd then e - 1 else e
  let k := 66 + Nat.log2 m'
  let big := 2 ^ (2 * k)
  let q := isqrt (big / m')
  let st := if q * q * m' = big then 0 else 1
  .num (((2 * q + st : Nat) : Int)) (-((k : Int) + 1) - e' / 2)

/-! ### Intervals on a fixed grid: `(lo, hi)` stands for every real in [lo / 2^k, hi / 2^k] -/

/-- Non-negative interval product, rounded outward. -/
def ivMul (k : Nat) (a b : Nat × Nat) : Nat × Nat := (a.1 * b.1 / 2 ^ k, a.2 * b.2 / 2 ^ k + 1)

/-- Reciprocal of a positive interval, rounded outward. -/
def ivInv (k : Nat) (a : Nat × Nat) : Nat × Nat := (2 ^ (2 * k) / a.2, 2 ^ (2 * k) / a.1 + 1)

/-- Square root, rounded outward. -/
def ivSqrt (k : Nat) (a : Nat × Nat) : Nat × Nat := (isqrt (a.1 * 2 ^ k), isqrt (a.2 * 2 ^ k) + 1)

/-- A non-negative rational. -/
def ivRat (k n d : Nat) : Nat × Nat := (n * 2 ^ k / d, n * 2 ^ k / d + 1)

/-- Taylor sum of e^t for a t at most 2^-8: from term number `i`, `n` more terms, the tail below twice the last. -/
def ivExpSum (k : Nat) (t : Nat × Nat) : Nat → Nat → Nat × Nat → Nat × Nat → Nat × Nat
  | 0, _, term, acc => (acc.1, acc.2 + 2 * term.2 + 1)
  | n + 1, i, term, acc =>
    let t' := ivMul k term t
    let t'' := (t'.1 / i, t'.2 / i + 1)
    ivExpSum k t n (i + 1) t'' (acc.1 + t''.1, acc.2 + t''.2)

/-- Repeated squaring. -/
def ivSquares (k : Nat) : Nat → Nat × Nat → Nat × Nat
  | 0, a => a
  | n + 1, a => ivSquares k n (ivMul k a a)

/-- e^t for a non-negative t below 1,024: e^(t / 2^18) squared 18 times. -/
def ivExp (k : Nat) (t : Nat × Nat) : Nat × Nat :=
  let s := (t.1 / 2 ^ 18, t.2 / 2 ^ 18 + 1)
  ivSquares k 18 (ivExpSum k s (k / 8 + 4) 1 (2 ^ k, 2 ^ k) (2 ^ k, 2 ^ k))

/-- arctan(1 / d), alternating series of `n` terms from 1/(d(2i+1)), with `p` the power of d so far. -/
def ivAtanInv (k d : Nat) : Nat → Nat → Nat → Int → Int
  | 0, _, _, acc => acc
  | n + 1, i, p, acc =>
    let t : Int := ((2 ^ k / (p * (2 * i + 1)) : Nat) : Int)
    ivAtanInv k d n (i + 1) (p * d * d) (if i % 2 = 0 then acc + t else acc - t)

/-- pi by Machin's formula; each of the at most `k` terms of either series is off by less than 1. -/
def ivPi (k : Nat) : Nat × Nat :=
  let v := 16 * ivAtanInv k 5 k 0 5 0 - 4 * ivAtanInv k 239 k 0 239 0
  (v.toNat - 21 * (k + 1), v.toNat + 21 * (k + 1))

/-- 1 / (1 + e^-y) and 1 / (1 + e^y) for a non-negative interval y. -/
def ivSigmoid (k : Nat) (y : Nat × Nat) (neg : Bool) : Nat × Nat :=
  let e := ivExp k y
  let den := ivInv k (2 ^ k + e.1, 2 ^ k + e.2)
  if neg then den else ivMul k e den

/-- Sum of x^(2i+1) / (2i+1)!! for x >= 0 (`sq` is x^2), `n` more terms from term number `i`. -/
def ivErfSum (k : Nat) (sq : Nat × Nat) : Nat → Nat → Nat × Nat → Nat × Nat → Nat × Nat
  | 0, _, term, acc => (acc.1, acc.2 + 2 * term.2 + 1)
  | n + 1, i, term, acc =>
    let t' := ivMul k term sq
    let t'' := (t'.1 / (2 * i + 1), t'.2 / (2 * i + 1) + 1)
    ivErfSum k sq n (i + 1) t'' (acc.1 + t''.1, acc.2 + t''.2)

/-- The normal distribution function at -x (neg) or x, for x >= 0. -/
def ivPhi (k : Nat) (x : Nat × Nat) (neg : Bool) : Nat × Nat :=
  let sq := ivMul k x x
  let s := ivErfSum k sq (k + 400) 1 x x
  let g := ivInv k (ivExp k (sq.1 / 2, sq.2 / 2 + 1))
  let p := ivPi k
  let c := ivInv k (ivSqrt k (2 * p.1, 2 * p.2))
  let h := ivMul k (ivMul k s g) c
  let half := 2 ^ (k - 1)
  if neg then (half - h.2, half - min half h.1) else (half + h.1, half + h.2)

/-- |f(j/32)| of Table 5-5's functions 1 to 5 for j /= 0, in grid units of 2^-k; its sign is that of the argument for
functions 1 to 3 and 5, positive for 4. -/
def ivAct (k f : Nat) (neg : Bool) (j : Nat) : Nat × Nat :=
  let x := ivRat k j 32
  match f with
  | 1 => ivMul k x (ivPhi k x neg)
  | 2 =>
    let c := ivSqrt k (ivMul k (2 * 2 ^ k, 2 * 2 ^ k) (ivInv k (ivPi k)))
    let x3 := ivMul k (ivMul k x x) x
    let y := ivMul k c (let q := ivMul k x3 (ivRat k 44715 1000000); (x.1 + q.1, x.2 + q.2))
    ivMul k x (ivSigmoid k (2 * y.1, 2 * y.2) neg)
  | 3 => ivMul k x (ivSigmoid k x neg)
  | 4 => ivSigmoid k x neg
  | _ =>
    let e := ivExp k (2 * x.1, 2 * x.2)
    ivMul k (e.1 - 2 ^ k, e.2 - 2 ^ k) (ivInv k (e.1 + 2 ^ k, e.2 + 2 ^ k))

/-- The FP32 encoding both ends of the interval round to, where they agree. -/
def ivRound (k : Nat) (neg : Bool) (a : Nat × Nat) : Option Nat :=
  let g := fun n : Nat => (roundFp (if neg then -(n : Int) else n) (-(k : Int)) 0xB false).1
  let lo := if a.1 = 0 then (if neg then signBit 0xB else 0) else g a.1
  if lo = g a.2 then some lo else none

/-- Refines the evaluation until one FP32 value is certain (R116): the first grid of the list that decides. -/
def actRefine (f : Nat) (neg : Bool) (j : Nat) : List Nat → Option Nat
  | [] => none
  | k :: ks =>
    match ivRound k (neg && f ≠ 4) (ivAct k f neg j) with
    | some y => some y
    | none => actRefine f neg j ks

/-- `Y[f][i]` (R116), as an FP32 encoding. Where no grid of the list decides, a free value. -/
def actY (f i : Nat) : Nat :=
  if i = 512 then (if f = 4 then 0x3F000000 else 0)
  else
    (actRefine f (decide (i < 512)) (if i < 512 then 512 - i else i - 512) [320, 640, 1280, 2560]).getD
      (Config.freeNat (f * 2048 + i) % 2 ^ 32)

/-- `act_spline` (R116) of an exact number or infinity. -/
def actSpline (f : Nat) (x : Val) : Val :=
  match x with
  | .nan => .nan
  | .inf true => if f = 5 then .num (-1) 0 else .num 0 0
  | .inf false => if 4 ≤ f then .num 1 0 else x
  | .num m e =>
    if x.lt (.num (-16) 0) then (if f = 5 then .num (-1) 0 else .num 0 0)
    else if ! x.lt (.num 16 0) then (if 4 ≤ f then .num 1 0 else x)
    else
      let s := dyAdd (m * 32) e 512 0
      -- (x + 16) * 32 = s.1 * 2^s.2
      let i : Nat := (if 0 ≤ s.2 then s.1 * (2 : Int) ^ s.2.toNat else s.1 / (2 : Int) ^ (-s.2).toNat).toNat
      let u := dyAdd s.1 s.2 (-(i : Int)) 0
      let y0 := valOf 0xB (actY f i)
      let y1 := valOf 0xB (actY f (i + 1))
      y0.add ((y1.add y0.neg).mul (.num u.1 u.2))

/-! ### exp2_neg (R150) -/

/-- `n` nested integer square roots. -/
def isqrtIter : Nat → Nat → Nat
  | 0, a => a
  | n + 1, a => isqrtIter n (isqrt a)

/-- T[i] as a significand of 24 bits: T[i] = expT i * 2^-23. The floor of twice the value in units of 2^-23 is
an exact 256th root, and T[i] lies on no tie. -/
def expT (i : Nat) : Nat := (isqrtIter 8 (2 ^ (i + 256 * 24)) + 1) / 2

/-- `exp2_neg` of `m * 2^e` at most 0: significand, exponent, cut-off. -/
def exp2Neg (m e : Int) : Int × Int × Bool :=
  if (dyAdd m e 64 0).1 < 0 then (0, 0, true)
  else
    let n : Int := if 0 ≤ e then m * (2 : Int) ^ e.toNat else m / (2 : Int) ^ (-e).toNat
    let f := dyAdd m e (-n) 0
    let f256 : Int := if 0 ≤ f.2 then f.1 * 256 * (2 : Int) ^ f.2.toNat else f.1 * 256 / (2 : Int) ^ (-f.2).toNat
    let u := dyAdd f.1 f.2 (-f256) (-8)
    let uv : Val := .num u.1 u.2
    let c1 := valOf 0xB 0x3F317218
    let c2 := valOf 0xB 0x3E75FDF0
    let y := (Val.num (expT f256.toNat) (-23)).mul ((Val.num 1 0).add (uv.mul (c1.add (uv.mul c2))))
    match valOf 0xB (rnd y 0xB false).1 with
    | .num sm se => (sm, se + n, false)
    | _ => (0, 0, false)

/-! ### Philox (R120) -/

/-- One round on counter words and keys. -/
def philoxRounds : Nat → (c0 c1 c2 c3 k0 k1 : Nat) → Nat × Nat × Nat × Nat
  | 0, c0, c1, c2, c3, _, _ => (c0, c1, c2, c3)
  | n + 1, c0, c1, c2, c3, k0, k1 =>
    let p0 := 0xD2511F53 * c0
    let p1 := 0xCD9E8D57 * c2
    philoxRounds n
      (Nat.xor (Nat.xor (p1 / 2 ^ 32) c1) k0) (p1 % 2 ^ 32) (Nat.xor (Nat.xor (p0 / 2 ^ 32) c3) k1) (p0 % 2 ^ 32)
      ((k0 + 0x9E3779B9) % 2 ^ 32) ((k1 + 0xBB67AE85) % 2 ^ 32)

/-- `philox4x32_10`. -/
def philox (c0 c1 c2 c3 k0 k1 : Nat) : Nat × Nat × Nat × Nat := philoxRounds 10 c0 c1 c2 c3 k0 k1

/-- Word `i` of four. -/
def word4 (w : Nat × Nat × Nat × Nat) (i : Nat) : Nat :=
  match i % 4 with | 0 => w.1 | 1 => w.2.1 | 2 => w.2.2.1 | _ => w.2.2.2

/-- Whether dropout drops the element at a tensor position (R120). -/
def dropped (row col seed p32 tag : Nat) : Bool :=
  decide (word4 (philox (row % 2 ^ 32) (col % 2 ^ 32 / 4) tag 0 (seed % 2 ^ 32) (seed / 2 ^ 32)) col < p32)

/-! ### Normalisation (R118) -/

/-- The normalised value of `x` from the row's exact statistics `S` and `Q`, before its last rounding; and whether one of the
roundings before it overflows from a finite value (R114). -/
def normaliseVal (x S Q : Val) (n : Nat) (eps : Val) (rms : Bool) : Val × Bool :=
  match x, S, Q with
  | .nan, _, _ => (.nan, false)
  | _, .num sm se, .num qm qe =>
    let n' := if n = 0 then 1 else n
    let fp := fun v : Val => let r := rnd v 0xB false; (valOf 0xB r.1, r.2)
    let quot := fun (m e : Int) (d : Nat) =>
      match quotVal m d with | .num a b => Val.num a (b + e) | v => v
    let var0 :=
      if rms then fp (quot qm qe n')
      else
        let d := dyAdd (qm * n') qe (-(sm * sm)) (2 * se)
        fp (quot d.1 d.2 (n' * n'))
    let var := if !rms && var0.1.lt (.num 0 0) then .num 0 0 else var0.1
    let r : Val × Bool := match var.add eps with
      | .num m e => if m = 0 then (Val.inf false, false) else if m < 0 then (.nan, false) else fp (rsqrtVal m.natAbs e)
      | .inf false => (.num 0 0, false)
      | _ => (.nan, false)
    if rms then (x.mul r.1, var0.2 || r.2) else
    let mu := fp (quot sm se n')
    ((x.add mu.1.neg).mul r.1, mu.2 || var0.2 || r.2)
  | _, _, _ => (.nan, false)

end Sys2Proof.Machine
end

