-- ==== Sys2Proof/Machine/Operands.lean ====
section
/-! DEFINITION. The operand forms: every descriptor the units read (tiles, chains, passes, variant and slot entries,
cascade tiles), each a number whose bit i is bit i of the descriptor, its fields by the tables of the manual, its
checks and the ranges it implies. -/
namespace Sys2Proof.Machine

/-! Fields of the tile descriptor, Table 3-4 (64 bytes). -/
def Jd.fmtA (d : Nat) : Nat := slice d 0 4
def Jd.fmtB (d : Nat) : Nat := slice d 4 4
def Jd.jet (d : Nat) : Nat := slice d 8 1
def Jd.bank (d : Nat) : Nat := slice d 9 1
def Jd.forceLoad (d : Nat) : Nat := slice d 10 1
def Jd.transposeA (d : Nat) : Nat := slice d 11 1
def Jd.gatherEn (d : Nat) : Nat := slice d 12 1
def Jd.scatterEn (d : Nat) : Nat := slice d 13 1
def Jd.dstMode (d : Nat) : Nat := slice d 14 2
def Jd.emit (d : Nat) : Nat := slice d 16 1
def Jd.anchorMode (d : Nat) : Nat := slice d 17 1
def Jd.ovfPolicy (d : Nat) : Nat := slice d 18 2
def Jd.anchorBits (d : Nat) : Nat := slice d 20 10
def Jd.rowsM1 (d : Nat) : Nat := slice d 32 11
def Jd.kValid (d : Nat) : Nat := slice d 43 9
def Jd.nValid (d : Nat) : Nat := slice d 52 8
def Jd.aAddr (d : Nat) : Nat := slice d 64 24
def Jd.aRowStride (d : Nat) : Nat := slice d 88 24
def Jd.aScaleAddr (d : Nat) : Nat := slice d 128 24
def Jd.aScaleStride (d : Nat) : Nat := slice d 152 24
def Jd.bAddr (d : Nat) : Nat := slice d 192 24
def Jd.bScaleAddr (d : Nat) : Nat := slice d 216 24
def Jd.poolBase (d : Nat) : Nat := slice d 256 18
def Jd.poolRowStride (d : Nat) : Nat := slice d 274 18
def Jd.chainAddr (d : Nat) : Nat := slice d 292 24
def Jd.scaleMaxA (d : Nat) : Nat := slice d 320 8
def Jd.scaleMaxB (d : Nat) : Nat := slice d 328 8
def Jd.tileTag (d : Nat) : Nat := slice d 352 32
def Jd.gatherAddr (d : Nat) : Nat := slice d 384 24
def Jd.aRowsTotal (d : Nat) : Nat := slice d 408 24
def Jd.descVersion (d : Nat) : Nat := slice d 448 8
/-- The reserved fields of the tile descriptor read zero. -/
def Jd.reservedZero (d : Nat) : Bool :=
  slice d 30 2 == 0 && slice d 60 4 == 0 && slice d 112 16 == 0 && slice d 176 16 == 0 && slice d 240 16 == 0 && slice d 316 4 == 0 && slice d 336 16 == 0 && slice d 432 16 == 0 && slice d 456 56 == 0

/-! Fields of the chain header, Table 5-1 (the low 64 bytes of the chain's 256). -/
def Ch.nPro (d : Nat) : Nat := slice d 0 4
def Ch.nEpi (d : Nat) : Nat := slice d 4 4
def Ch.proInFmt (d : Nat) : Nat := slice d 8 4
def Ch.version (d : Nat) : Nat := slice d 16 8
def Ch.outAddr (d : Nat) : Nat := slice d 32 24
def Ch.outRowStride (d : Nat) : Nat := slice d 64 24
def Ch.outScaleAddr (d : Nat) : Nat := slice d 96 24
def Ch.outScaleStride (d : Nat) : Nat := slice d 128 24
def Ch.rowOffset (d : Nat) : Nat := slice d 160 32
def Ch.colOffset (d : Nat) : Nat := slice d 192 32
def Ch.kOffset (d : Nat) : Nat := slice d 224 32
def Ch.dropoutSeed (d : Nat) : Nat := slice d 256 64
/-- The reserved fields of the chain header read zero. -/
def Ch.reservedZero (d : Nat) : Bool :=
  slice d 12 4 == 0 && slice d 24 8 == 0 && slice d 56 8 == 0 && slice d 88 8 == 0 && slice d 120 8 == 0 && slice d 152 8 == 0 && slice d 320 192 == 0 && slice d 1792 256 == 0

/-! Fields of the side-input descriptor, Table 5-2 (16 bytes). -/
def Si.fmt (d : Nat) : Nat := slice d 0 4
def Si.shape (d : Nat) : Nat := slice d 4 2
def Si.valid (d : Nat) : Nat := slice d 6 1
def Si.addr (d : Nat) : Nat := slice d 32 24
def Si.rowStride (d : Nat) : Nat := slice d 64 24
/-- The reserved fields of the side-input descriptor read zero. -/
def Si.reservedZero (d : Nat) : Bool :=
  slice d 7 25 == 0 && slice d 56 8 == 0 && slice d 88 40 == 0

/-! Fields of the stage entry, Table 5-3 (16 bytes). -/
def Sg.op (d : Nat) : Nat := slice d 0 4
def Sg.sub (d : Nat) : Nat := slice d 4 4
def Sg.outFmt (d : Nat) : Nat := slice d 8 2
def Sg.src (d : Nat) : Nat := slice d 10 2
def Sg.sat (d : Nat) : Nat := slice d 12 1
def Sg.ovfPolicy (d : Nat) : Nat := slice d 13 2
def Sg.imm0 (d : Nat) : Nat := slice d 32 32
def Sg.imm1 (d : Nat) : Nat := slice d 64 32
def Sg.imm2 (d : Nat) : Nat := slice d 96 32
/-- The reserved fields of the stage entry read zero. -/
def Sg.reservedZero (d : Nat) : Bool :=
  slice d 15 17 == 0

/-! Fields of the runnel pass descriptor, Table 5-6 (32 bytes). -/
def Rp.inFmt (d : Nat) : Nat := slice d 0 4
def Rp.anchorBits (d : Nat) : Nat := slice d 4 10
def Rp.rowsM1 (d : Nat) : Nat := slice d 16 12
def Rp.cols (d : Nat) : Nat := slice d 32 13
def Rp.inAddr (d : Nat) : Nat := slice d 64 24
def Rp.inRowStride (d : Nat) : Nat := slice d 88 24
def Rp.chainAddr (d : Nat) : Nat := slice d 128 24
def Rp.descVersion (d : Nat) : Nat := slice d 152 8
def Rp.tileTag (d : Nat) : Nat := slice d 160 32
/-- The reserved fields of the runnel pass descriptor read zero. -/
def Rp.reservedZero (d : Nat) : Bool :=
  slice d 14 2 == 0 && slice d 28 4 == 0 && slice d 45 19 == 0 && slice d 112 16 == 0 && slice d 192 64 == 0

/-! Fields of the variant entry, Table 6-2 (64 bytes). -/
def Ve.valid (d : Nat) : Nat := slice d 0 1
def Ve.keySlice (d : Nat) : Nat := slice d 1 7
def Ve.baseVariant (d : Nat) : Nat := slice d 8 10
def Ve.hasBase (d : Nat) : Nat := slice d 18 1
def Ve.slotMapAddr (d : Nat) : Nat := slice d 32 44
def Ve.slotCount (d : Nat) : Nat := slice d 96 21
def Ve.readerMask (d : Nat) : Nat := slice d 128 128
/-- The reserved fields of the variant entry read zero. -/
def Ve.reservedZero (d : Nat) : Bool :=
  slice d 19 13 == 0 && slice d 76 20 == 0 && slice d 117 11 == 0 && slice d 256 256 == 0

/-! Fields of the slot entry, Table 6-3 (32 bytes). -/
def Se.wAddr (d : Nat) : Nat := slice d 0 44
def Se.fmtW (d : Nat) : Nat := slice d 44 4
def Se.valid (d : Nat) : Nat := slice d 48 1
def Se.inherit (d : Nat) : Nat := slice d 49 1
def Se.wColStride (d : Nat) : Nat := slice d 64 32
def Se.scaleMaxW (d : Nat) : Nat := slice d 96 8
def Se.nTotal (d : Nat) : Nat := slice d 104 24
def Se.wScaleAddr (d : Nat) : Nat := slice d 128 44
def Se.kTotal (d : Nat) : Nat := slice d 192 24
/-- The reserved fields of the slot entry read zero. -/
def Se.reservedZero (d : Nat) : Bool :=
  slice d 50 14 == 0 && slice d 172 20 == 0 && slice d 216 40 == 0

/-! Fields of the rill tile descriptor, Table 6-4 (64 bytes). -/
def Rd.fmtA (d : Nat) : Nat := slice d 0 4
def Rd.gatherEn (d : Nat) : Nat := slice d 4 1
def Rd.scatterEn (d : Nat) : Nat := slice d 5 1
def Rd.dstMode (d : Nat) : Nat := slice d 6 2
def Rd.emit (d : Nat) : Nat := slice d 8 1
def Rd.anchorMode (d : Nat) : Nat := slice d 9 1
def Rd.ovfPolicy (d : Nat) : Nat := slice d 10 2
def Rd.anchorBits (d : Nat) : Nat := slice d 12 10
def Rd.keepA (d : Nat) : Nat := slice d 22 1
def Rd.tokensM1 (d : Nat) : Nat := slice d 24 4
def Rd.variant (d : Nat) : Nat := slice d 32 10
def Rd.slot (d : Nat) : Nat := slice d 44 20
def Rd.nFirst (d : Nat) : Nat := slice d 64 24
def Rd.nCols (d : Nat) : Nat := slice d 88 12
def Rd.kFirst (d : Nat) : Nat := slice d 104 24
def Rd.kValid (d : Nat) : Nat := slice d 128 14
def Rd.aAddr (d : Nat) : Nat := slice d 160 24
def Rd.aRowStride (d : Nat) : Nat := slice d 184 24
def Rd.aScaleAddr (d : Nat) : Nat := slice d 208 24
def Rd.aScaleStride (d : Nat) : Nat := slice d 232 24
def Rd.poolBase (d : Nat) : Nat := slice d 256 18
def Rd.poolRowStride (d : Nat) : Nat := slice d 274 18
def Rd.chainAddr (d : Nat) : Nat := slice d 292 24
def Rd.scaleMaxA (d : Nat) : Nat := slice d 320 8
def Rd.tileTag (d : Nat) : Nat := slice d 352 32
def Rd.gatherAddr (d : Nat) : Nat := slice d 384 24
def Rd.aRowsTotal (d : Nat) : Nat := slice d 408 24
def Rd.descVersion (d : Nat) : Nat := slice d 448 8
/-- The reserved fields of the rill tile descriptor read zero. -/
def Rd.reservedZero (d : Nat) : Bool :=
  slice d 23 1 == 0 && slice d 28 4 == 0 && slice d 42 2 == 0 && slice d 100 4 == 0 && slice d 142 18 == 0 && slice d 316 4 == 0 && slice d 328 24 == 0 && slice d 432 16 == 0 && slice d 456 56 == 0

/-! Fields of the cascade tile descriptor, Table 7-4 (64 bytes). -/
def Cd.op (d : Nat) : Nat := slice d 0 2
def Cd.fmtQ (d : Nat) : Nat := slice d 4 4
def Cd.fmtKv (d : Nat) : Nat := slice d 8 4
def Cd.fmtO (d : Nat) : Nat := slice d 12 4
def Cd.stateIn (d : Nat) : Nat := slice d 16 1
def Cd.stateOut (d : Nat) : Nat := slice d 17 1
def Cd.scores (d : Nat) : Nat := slice d 18 1
def Cd.anchorMode (d : Nat) : Nat := slice d 19 1
def Cd.ovfPolicy (d : Nat) : Nat := slice d 20 2
def Cd.anchorBits (d : Nat) : Nat := slice d 22 10
def Cd.maskMode (d : Nat) : Nat := slice d 32 3
def Cd.sat (d : Nat) : Nat := slice d 35 1
def Cd.gM1 (d : Nat) : Nat := slice d 36 4
def Cd.qRowsM1 (d : Nat) : Nat := slice d 40 8
def Cd.dCode (d : Nat) : Nat := slice d 48 3
def Cd.kFirst (d : Nat) : Nat := slice d 64 32
def Cd.kCount (d : Nat) : Nat := slice d 96 24
def Cd.qPos (d : Nat) : Nat := slice d 128 32
def Cd.window (d : Nat) : Nat := slice d 160 24
def Cd.qAddr (d : Nat) : Nat := slice d 192 24
def Cd.qRowStride (d : Nat) : Nat := slice d 216 24
def Cd.pageListAddr (d : Nat) : Nat := slice d 240 24
def Cd.outAddr (d : Nat) : Nat := slice d 264 24
def Cd.outRowStride (d : Nat) : Nat := slice d 288 24
def Cd.stateBase (d : Nat) : Nat := slice d 312 18
def Cd.stateRowStride (d : Nat) : Nat := slice d 330 18
def Cd.scaleC (d : Nat) : Nat := slice d 352 32
def Cd.statsAddr (d : Nat) : Nat := slice d 384 24
def Cd.scaleMaxKv (d : Nat) : Nat := slice d 408 8
def Cd.descVersion (d : Nat) : Nat := slice d 416 8
def Cd.maskAddr (d : Nat) : Nat := slice d 424 24
def Cd.tileTag (d : Nat) : Nat := slice d 448 32
def Cd.tAddr4k (d : Nat) : Nat := slice d 480 32
/-- The reserved fields of the cascade tile descriptor read zero. -/
def Cd.reservedZero (d : Nat) : Bool :=
  slice d 2 2 == 0 && slice d 51 13 == 0 && slice d 120 8 == 0 && slice d 184 8 == 0 && slice d 348 4 == 0

/-! Fields of the backward extension, Table 7-5 (64 bytes). -/
def Cx.doAddr (d : Nat) : Nat := slice d 0 24
def Cx.doRowStride (d : Nat) : Nat := slice d 24 24
def Cx.fmtDo (d : Nat) : Nat := slice d 48 4
def Cx.fmtP (d : Nat) : Nat := slice d 52 4
def Cx.fmtDs (d : Nat) : Nat := slice d 56 4
def Cx.oAddr (d : Nat) : Nat := slice d 64 24
def Cx.oRowStride (d : Nat) : Nat := slice d 88 24
def Cx.dqBase (d : Nat) : Nat := slice d 112 18
def Cx.dkBase (d : Nat) : Nat := slice d 130 18
def Cx.dvBase (d : Nat) : Nat := slice d 148 18
def Cx.anchorDq (d : Nat) : Nat := slice d 166 10
def Cx.anchorDk (d : Nat) : Nat := slice d 176 10
def Cx.anchorDv (d : Nat) : Nat := slice d 186 10
def Cx.anchorDp (d : Nat) : Nat := slice d 196 10
def Cx.gradScale (d : Nat) : Nat := slice d 224 32
def Cx.statsIn (d : Nat) : Nat := slice d 256 24
/-- The reserved fields of the backward extension read zero. -/
def Cx.reservedZero (d : Nat) : Bool :=
  slice d 60 4 == 0 && slice d 206 18 == 0 && slice d 280 232 == 0

/-! ### Ranges -/

/-- The spaces a descriptor's addresses lie in. -/
inductive Space where | cistern | pool | dev
  deriving DecidableEq, Repr

/-- A range a descriptor implies: `len` bytes or words from `lo`; nothing where `len` is 0. -/
structure Need where
  sp : Space
  lo : Nat
  len : Nat
  deriving DecidableEq, Repr

/-- The cistern and pool range of a slice in a basin (R95): low bound, and one past the high bound. -/
structure Bounds where
  cLo : Nat
  cHi : Nat
  pLo : Nat
  pHi : Nat
  deriving DecidableEq, Repr

/-- A cistern or pool range lies inside the slice's range. -/
def Need.within (b : Bounds) (n : Need) : Bool :=
  n.len == 0 ||
  match n.sp with
  | .cistern => decide (b.cLo ≤ n.lo ∧ n.lo + n.len ≤ b.cHi)
  | .pool => decide (b.pLo ≤ n.lo ∧ n.lo + n.len ≤ b.pHi)
  | .dev => true

/-- Bytes that `n` packed elements of a format touch (R46); 6-bit elements touch whole 3-byte groups (R100). -/
def runBytes (code n : Nat) : Nat :=
  if fmtBits code == 6 then (n + 3) / 4 * 3 else (n * fmtBits code + 7) / 8

/-- ceil(a / b). -/
def ceilDiv (a b : Nat) : Nat := (a + b - 1) / b

/-- Bytes or words of `rows` rows, `stride` apart, the last `width` long. -/
def spanLen (rows stride width : Nat) : Nat := if rows == 0 then 0 else (rows - 1) * stride + width

/-- R47: two floating-point or two integer operands, both allowed as operands (R43). -/
def pairOk (fa fb : Nat) : Bool := fmtOperand fa && fmtOperand fb && (fmtInt fa == fmtInt fb)

/-! ### Jet tiles -/

/-- Stationary depth (Table 3-1). -/
def jetDepth (fa fb : Nat) : Nat :=
  if fmtHalf fa || fmtHalf fb then 128 else if fmtNarrow fa && fmtNarrow fb then 256 else 128

/-- Cycles per streamed row (Table 3-1). -/
def jetCpr (fa fb : Nat) : Nat := if fmtHalf fa || fmtHalf fb then 2 else 1

/-- L_b (R77). -/
def jetLoadLen (fb depth : Nat) : Nat := depth * fmtBits fb / 8 + (if fmtMx fb then depth / 32 else 0)

def Jd.rows (d : Nat) : Nat := Jd.rowsM1 d + 1
def Jd.depth (d : Nat) : Nat := jetDepth (Jd.fmtA d) (Jd.fmtB d)
def Jd.cpr (d : Nat) : Nat := jetCpr (Jd.fmtA d) (Jd.fmtB d)
/-- The signed anchor field. -/
def Jd.anchor (d : Nat) : Int := signedOf (Jd.anchorBits d) 10
/-- The anchor in use: the field, or derive_anchor (R53). -/
def Jd.anchorOf (d : Nat) : Int :=
  if Jd.anchorMode d == 0 then Jd.anchor d
  else deriveAnchor (Jd.fmtA d) (Jd.fmtB d) (smaxOf (Jd.fmtA d) (Jd.scaleMaxA d)) (smaxOf (Jd.fmtB d) (Jd.scaleMaxB d))

/-- The duration bound D (R77). -/
def Jd.bound (d : Nat) : Nat :=
  Jd.cpr d * Jd.rows d + 384 + 128 * Jd.transposeA d + 32 * Jd.gatherEn d + jetLoadLen (Jd.fmtB d) (Jd.depth d)

/-- The jet tile hands its rows to the runnel's epilogue (R86). -/
def Jd.hands (d : Nat) : Bool := Jd.emit d == 1 || Jd.dstMode d == 2

/-- R85: no check that leads to ST_DESC_INVALID fails (the chain's own checks apart). -/
def Jd.valid (d : Nat) : Bool :=
  Jd.reservedZero d && Jd.descVersion d == 1 && pairOk (Jd.fmtA d) (Jd.fmtB d) &&
  decide (Jd.bound d ≤ 2432) &&
  decide (1 ≤ Jd.kValid d ∧ Jd.kValid d ≤ Jd.depth d ∧ 1 ≤ Jd.nValid d ∧ Jd.nValid d ≤ 128) &&
  (2 ≤ Jd.dstMode d || decide (Jd.nValid d ≤ Jd.poolRowStride d)) &&
  Jd.aAddr d % 64 == 0 && Jd.aRowStride d % 64 == 0 && Jd.bAddr d % 64 == 0 && Jd.gatherAddr d % 4 == 0 &&
  (Jd.anchorMode d == 0 || Jd.anchorBits d == 0) && Jd.dstMode d != 3 && Jd.ovfPolicy d != 3 &&
  !(Jd.transposeA d == 1 && Jd.gatherEn d == 1) &&
  !(Jd.scatterEn d == 1 && (Jd.dstMode d != 1 || Jd.emit d == 1)) &&
  !(Jd.chainAddr d == 0 && Jd.hands d)

/-- R85: the ranges of a jet tile. -/
def Jd.needs (d : Nat) : List Need :=
  let rows := Jd.rows d
  let ra := if Jd.transposeA d == 1 then Jd.kValid d else if Jd.gatherEn d == 1 then Jd.aRowsTotal d else rows
  let rs := if Jd.gatherEn d == 1 then Jd.aRowsTotal d else rows
  [⟨.cistern, Jd.aAddr d, ra * Jd.aRowStride d⟩,
   ⟨.cistern, Jd.aScaleAddr d, if fmtMx (Jd.fmtA d) then rs * Jd.aScaleStride d else 0⟩,
   ⟨.cistern, Jd.bAddr d, Jd.kValid d * 16 * fmtBits (Jd.fmtB d)⟩,
   ⟨.cistern, Jd.bScaleAddr d, if fmtMx (Jd.fmtB d) then 128 * ceilDiv (Jd.kValid d) 32 else 0⟩,
   ⟨.cistern, Jd.gatherAddr d, if Jd.gatherEn d == 1 || Jd.scatterEn d == 1 then 4 * rows else 0⟩,
   ⟨.pool, Jd.poolBase d,
     if Jd.dstMode d == 2 || Jd.scatterEn d == 1 then 0 else (rows - 1) * Jd.poolRowStride d + Jd.nValid d⟩]

/-! ### Runnel chains -/

/-- Side input `k` (0 or 1) of a chain. -/
def Ch.side (c k : Nat) : Nat := slice c (512 + 128 * k) 128
/-- Stage entry `i` of a chain. -/
def Ch.stage (c i : Nat) : Nat := slice c (768 + 128 * i) 128
/-- The stages from entry `i`, `n` of them. -/
def Ch.stages (c i n : Nat) : List Nat := (List.range n).map fun k => Ch.stage c (i + k)
/-- The prologue list. -/
def Ch.pro (c : Nat) : List Nat := Ch.stages c 0 (Ch.nPro c)
/-- The epilogue list. -/
def Ch.epi (c : Nat) : List Nat := Ch.stages c (Ch.nPro c) (Ch.nEpi c)

/-- The format a stage's out_fmt names (Table 5-3). -/
def outFmtCode (o : Nat) : Nat := match o with | 0 => 0xB | 1 => 0x9 | _ => 0xA

/-- The format of a value after a stage whose input has format `code` (R112, Table 5-4). -/
def Sg.outCode (s code : Nat) : Nat :=
  match Sg.op s with
  | 4 => code
  | 7 => Sg.sub s
  | 8 => Sg.sub s
  | _ => outFmtCode (Sg.outFmt s)

/-- Formats a cistern side input may hold (Table 5-2). -/
def sideFmtOk (f : Nat) : Bool := f == 0 || f == 1 || f == 7 || f == 9 || f == 0xA || f == 0xB

/-- A side-input descriptor that is well formed for its shape (Table 5-2). -/
def Si.ok (s : Nat) : Bool :=
  Si.valid s == 1 &&
  (if Si.shape s == 3 then Si.fmt s == 0xC
   else sideFmtOk (Si.fmt s) && Si.addr s % 64 == 0 && Si.rowStride s % 64 == 0) &&
  (Si.shape s == 2 || Si.rowStride s == 0)

/-- The source of a stage is one it accepts: an immediate, or a side input of an accepted shape. -/
def Ch.srcOk (c s : Nat) (imm : Bool) (shapes : List Nat) : Bool :=
  match Sg.src s with
  | 0 => imm
  | 3 => false
  | k => Si.ok (Ch.side c (k - 1)) && shapes.contains (Si.shape (Ch.side c (k - 1)))

/-- R122: one stage, its input in format `code`, alone in its list or last of it. -/
def Ch.stageOk (c s code : Nat) (alone last : Bool) : Bool :=
  let fp := decide (Sg.outFmt s ≤ 2)
  match Sg.op s with
  | 0 | 1 => Sg.sub s == 0 && fp && Ch.srcOk c s true [0, 1, 2]
  | 2 => decide (Sg.sub s ≤ 6) && fp && Sg.src s == 0
  | 3 => Sg.sub s == 0 && fp && Ch.srcOk c s false [2]
  | 4 => Sg.sub s == 0 && Sg.outFmt s == 0 && Sg.src s == 0 && Sg.ovfPolicy s != 3 && fmtHalf code
  | 5 => decide (Sg.sub s ≤ 1) && fp && Ch.srcOk c s false [3] && slice (Sg.imm1 s) 0 32 != 0
  | 6 =>
    let lo := valOf 0xB (Sg.imm0 s)
    let hi := valOf 0xB (Sg.imm1 s)
    Sg.sub s == 0 && fp && Sg.src s == 0 && lo != .nan && hi != .nan && !hi.lt lo
  | 7 => (Sg.sub s ≤ 1 || (7 ≤ Sg.sub s && Sg.sub s ≤ 0xC)) && Sg.outFmt s == 0 && Sg.src s == 0 &&
      (Sg.sub s != 0xC || (alone && code == 0xC))
  | 8 => fmtMx (Sg.sub s) && Sg.outFmt s == 0 && Sg.src s == 0 && last
  | 9 => Sg.sub s == 0 && fp && Sg.src s == 0
  | _ => false

/-- R121, R122: a whole list, its input in format `code`; it ends with convert or MX quantise. -/
def Ch.listOk (c : Nat) (alone : Bool) : Nat → List Nat → Bool
  | _, [] => false
  | code, [s] => Ch.stageOk c s code alone true && (Sg.op s == 7 || Sg.op s == 8)
  | code, s :: rest => Ch.stageOk c s code false false && Ch.listOk c false (Sg.outCode s code) rest

/-- The format after a list. -/
def Ch.listCode : Nat → List Nat → Nat
  | code, [] => code
  | code, s :: rest => Ch.listCode (Sg.outCode s code) rest

/-- What a chain is used for, as its checks depend on it: a jet tile, a rill tile or a runnel pass. -/
structure ChainUse where
  allowPro : Bool
  fmtA : Nat
  transposeA : Bool
  aScaleAddr : Nat
  anchorMode : Nat
  hands : Bool
  inCode : Nat
  deriving DecidableEq, Repr

/-- R122: no check of the chain that leads to ST_DESC_INVALID fails. Points that its list leaves open (DESIGN CHOICE, log entry 19):
out_addr and out_row_stride off their multiples fail it even where no epilogue writes; so do a side input's addr and row_stride
off theirs and a row_stride that its shape does not use; a reserved format code passes in a side input that no stage names, and
in pro_in_fmt without a prologue. -/
def Ch.valid (c chainAddr : Nat) (u : ChainUse) : Bool :=
  let pro := Ch.pro c
  let epi := Ch.epi c
  Ch.version c == 1 && chainAddr % 256 == 0 && Ch.reservedZero c &&
  Si.reservedZero (Ch.side c 0) && Si.reservedZero (Ch.side c 1) &&
  (Ch.stages c 0 8).all Sg.reservedZero &&
  decide (Ch.nPro c + Ch.nEpi c ≤ 8) &&
  (Ch.nPro c == 0 ||
    (u.allowPro && Ch.listOk c (Ch.nPro c == 1) (Ch.proInFmt c) pro && Ch.listCode 0 pro == u.fmtA &&
     (Ch.proInFmt c == 9 || Ch.proInFmt c == 0xA || Ch.proInFmt c == 0xB) &&
     !u.transposeA && u.aScaleAddr == 0 &&
     !(u.anchorMode == 1 && pro.any fun s => Sg.op s == 8) && !(pro.any fun s => Sg.op s == 4))) &&
  (Ch.nEpi c == 0 || Ch.listOk c (Ch.nEpi c == 1) u.inCode epi) &&
  (Ch.nEpi c == 0 || Ch.colOffset c % 32 == 0 || !(epi.any fun s => Sg.op s == 4 || Sg.op s == 8)) &&
  (u.hands == (Ch.nEpi c != 0)) &&
  Ch.outAddr c % 64 == 0 && Ch.outRowStride c % 64 == 0

/-- The ranges of the side inputs and statistic words a list reads over `rows` rows and `cols` columns. -/
def Ch.listNeeds (c rows cols : Nat) (l : List Nat) : List Need :=
  l.flatMap fun s =>
    (if Sg.op s == 4 then [⟨.pool, slice (Sg.imm1 s) 0 18, 2 * rows⟩] else []) ++
    (match Sg.src s with
     | 0 => []
     | 3 => []
     | k =>
       let si := Ch.side c (k - 1)
       match Si.shape si with
       | 0 => [⟨.cistern, Si.addr si, runBytes (Si.fmt si) rows⟩]
       | 1 => [⟨.cistern, Si.addr si, runBytes (Si.fmt si) cols⟩]
       | 2 => [⟨.cistern, Si.addr si, spanLen rows (Si.rowStride si) (runBytes (Si.fmt si) cols)⟩]
       | _ => [⟨.pool, Si.addr si, 2 * rows⟩])

/-- R122: the ranges of a chain: `proRows` by `proCols` for the prologue, `rows` by `cols` for the epilogue. -/
def Ch.needs (c proRows proCols rows cols inCode : Nat) : List Need :=
  let out := Ch.listCode inCode (Ch.epi c)
  Ch.listNeeds c proRows proCols (Ch.pro c) ++ Ch.listNeeds c rows cols (Ch.epi c) ++
  (if Ch.nEpi c == 0 then [] else
    [⟨.cistern, Ch.outAddr c, spanLen rows (Ch.outRowStride c) (runBytes out cols)⟩,
     ⟨.cistern, Ch.outScaleAddr c, if fmtMx out then spanLen rows (Ch.outScaleStride c) (ceilDiv cols 32) else 0⟩])

/-- The use a jet tile makes of its chain. -/
def Jd.use (d : Nat) : ChainUse :=
  ⟨true, Jd.fmtA d, Jd.transposeA d == 1, Jd.aScaleAddr d, Jd.anchorMode d, Jd.hands d, 0xC⟩

/-- The ranges of a jet tile's chain. -/
def Jd.chainNeeds (d c : Nat) : List Need :=
  Ch.needs c (if Jd.gatherEn d == 1 then Jd.aRowsTotal d else Jd.rows d) (Jd.kValid d) (Jd.rows d) (Jd.nValid d) 0xC

/-! ### Runnel passes (R123) -/

def Rp.rows (d : Nat) : Nat := Rp.rowsM1 d + 1
def Rp.anchor (d : Nat) : Int := signedOf (Rp.anchorBits d) 10
/-- The duration bound. -/
def Rp.bound (d : Nat) : Nat := Rp.rows d * ceilDiv (Rp.cols d) 256 + 96

/-- R123: no check of the pass descriptor fails. -/
def Rp.valid (d : Nat) : Bool :=
  Rp.reservedZero d && Rp.descVersion d == 1 && (sideFmtOk (Rp.inFmt d) || Rp.inFmt d == 0xC) &&
  (Rp.inFmt d == 0xC || Rp.anchorBits d == 0) && decide (1 ≤ Rp.cols d ∧ Rp.cols d ≤ 4096) &&
  (Rp.inFmt d == 0xC || Rp.inAddr d % 64 == 0) && decide (Rp.bound d ≤ 2432)

def Rp.use (d : Nat) : ChainUse := ⟨false, 0, false, 0, 0, true, Rp.inFmt d⟩

/-- The ranges of a pass and its chain. -/
def Rp.needs (d c : Nat) : List Need :=
  (if Rp.inFmt d == 0xC then ⟨.pool, Rp.inAddr d, spanLen (Rp.rows d) (Rp.inRowStride d) (Rp.cols d)⟩
   else ⟨.cistern, Rp.inAddr d, spanLen (Rp.rows d) (Rp.inRowStride d) (runBytes (Rp.inFmt d) (Rp.cols d))⟩) ::
  Ch.needs c 0 0 (Rp.rows d) (Rp.cols d) (Rp.inFmt d)

/-! ### Rill tiles -/

def Rd.tokens (d : Nat) : Nat := Rd.tokensM1 d + 1
def Rd.anchor (d : Nat) : Int := signedOf (Rd.anchorBits d) 10
def Rd.hands (d : Nat) : Bool := Rd.emit d == 1 || Rd.dstMode d == 2
/-- G (R130). -/
def rillG (fa fw : Nat) : Nat := if fmtHalf fa || fmtHalf fw then 10 else 20
/-- The duration bound of R143, with the weight format `fw`. -/
def Rd.bound (d fw : Nat) : Nat :=
  let groups := ceilDiv (Rd.kValid d) 32
  let rowBits := Rd.kValid d * fmtBits (Rd.fmtA d) + (if fmtMx (Rd.fmtA d) then 8 * groups else 0)
  16 * ceilDiv rowBits 2048 + ceilDiv (Rd.nCols d * groups) (rillG (Rd.fmtA d) fw) + 48 + 32 * Rd.gatherEn d
/-- Compute cycles of R143. -/
def Rd.computeCycles (d fw : Nat) : Nat :=
  ceilDiv (Rd.nCols d * ceilDiv (Rd.kValid d) 32) (rillG (Rd.fmtA d) fw)
/-- Bytes of the weight window (R143, Table 6-1). -/
def Rd.weightBytes (d fw : Nat) : Nat :=
  Rd.nCols d * ceilDiv (Rd.kValid d) 32 * (4 * fmtBits fw + (if fmtMx fw then 1 else 0))

/-- Step 1 of R144, D and the lane-store check apart. -/
def Rd.valid (d : Nat) : Bool :=
  Rd.reservedZero d && Rd.descVersion d == 1 && fmtOperand (Rd.fmtA d) &&
  decide (1 ≤ Rd.kValid d ∧ Rd.kValid d ≤ 8192 ∧ 1 ≤ Rd.nCols d) &&
  (2 ≤ Rd.dstMode d || decide (Rd.nCols d ≤ Rd.poolRowStride d)) &&
  Rd.aAddr d % 64 == 0 && Rd.aRowStride d % 64 == 0 && Rd.gatherAddr d % 4 == 0 && Rd.kFirst d % 32 == 0 &&
  (Rd.anchorMode d == 0 || Rd.anchorBits d == 0) && Rd.dstMode d != 3 && Rd.ovfPolicy d != 3 &&
  !(Rd.scatterEn d == 1 && (Rd.dstMode d != 1 || Rd.emit d == 1)) &&
  !(Rd.chainAddr d == 0 && Rd.hands d)

/-- Step 3 of R144, against the resolved slot entry `e`. -/
def Rd.slotOk (d e : Nat) : Bool :=
  pairOk (Rd.fmtA d) (Se.fmtW e) &&
  decide (Rd.nFirst d + Rd.nCols d ≤ Se.nTotal e ∧ Rd.kFirst d + Rd.kValid d ≤ Se.kTotal e ∧
    Rd.weightBytes d (Se.fmtW e) ≤ 393216)

def Rd.use (d : Nat) : ChainUse := ⟨false, 0, false, 0, 0, Rd.hands d, 0xC⟩

/-- The anchor in use (R136): derive_anchor from the tile's and the slot's scale maxima. -/
def Rd.anchorOf (d e : Nat) : Int :=
  if Rd.anchorMode d == 0 then Rd.anchor d
  else deriveAnchor (Rd.fmtA d) (Se.fmtW e) (smaxOf (Rd.fmtA d) (Rd.scaleMaxA d)) (smaxOf (Se.fmtW e) (Se.scaleMaxW e))

/-- Step 4 of R144: the ranges in the basin. -/
def Rd.needs (d : Nat) : List Need :=
  let rows := if Rd.gatherEn d == 1 then Rd.aRowsTotal d else Rd.tokens d
  [⟨.cistern, Rd.aAddr d, rows * Rd.aRowStride d⟩,
   ⟨.cistern, Rd.aScaleAddr d, if fmtMx (Rd.fmtA d) then rows * Rd.aScaleStride d else 0⟩,
   ⟨.cistern, Rd.gatherAddr d, if Rd.gatherEn d == 1 || Rd.scatterEn d == 1 then 4 * Rd.tokens d else 0⟩,
   ⟨.pool, Rd.poolBase d,
     if Rd.dstMode d == 2 || Rd.scatterEn d == 1 then 0 else (Rd.tokens d - 1) * Rd.poolRowStride d + Rd.nCols d⟩]

/-- Bytes of one column of the weight window, and its offset in the column (R46, R138). -/
def Rd.colBytes (d fw : Nat) : Nat := runBytes fw (Rd.kValid d)
def Rd.colOff (d fw : Nat) : Nat := Rd.kFirst d * fmtBits fw / 8

/-- Step 4 of R144: the weight and scale ranges, as spans of HBM addresses. -/
def Rd.weightNeeds (d e : Nat) : List Need :=
  [⟨.dev, Se.wAddr e + Rd.nFirst d * Se.wColStride e + Rd.colOff d (Se.fmtW e),
     spanLen (Rd.nCols d) (Se.wColStride e) (Rd.colBytes d (Se.fmtW e))⟩,
   ⟨.dev, Se.wScaleAddr e + Rd.nFirst d * ceilDiv (Se.kTotal e) 32 + Rd.kFirst d / 32,
     if fmtMx (Se.fmtW e) then spanLen (Rd.nCols d) (ceilDiv (Se.kTotal e) 32) (ceilDiv (Rd.kValid d) 32) else 0⟩]

/-! ### Cascade tiles -/

def Cd.d (c : Nat) : Nat := 32 * (Cd.dCode c + 1)
def Cd.g (c : Nat) : Nat := Cd.gM1 c + 1
def Cd.qRows (c : Nat) : Nat := Cd.qRowsM1 c + 1
def Cd.rows (c : Nat) : Nat := Cd.g c * Cd.qRows c
def Cd.groups (c : Nat) : Nat := ceilDiv (Cd.kCount c) 32
/-- cpr of R148. -/
def Cd.cpr (c : Nat) : Nat := if fmtHalf (Cd.fmtQ c) || fmtHalf (Cd.fmtKv c) then 2 else 1
/-- D (R163). -/
def Cd.bound (c : Nat) : Nat :=
  let mid := Cd.groups c * ceilDiv (Cd.rows c) 16 * ceilDiv (Cd.d c) 128 * Cd.cpr c
  let words := ceilDiv (Cd.rows c * (Cd.d c + 2)) 128
  if Cd.op c == 1 then 32 + 3 * words
  else 32 + (if Cd.op c == 2 then 3 * mid else mid) + 96 + 2 * words
/-- Bytes of one position's key (R156). -/
def Cd.rowBytes (c : Nat) : Nat :=
  Cd.d c * fmtBits (Cd.fmtKv c) / 8 + (if fmtMx (Cd.fmtKv c) then Cd.d c / 32 else 0)
/-- The largest power of two with P x row_bytes at most 65,536 (R156). -/
def kvPagePositions (rowBytes : Nat) : Nat := 2 ^ Nat.log2 (65536 / rowBytes)
def Cd.p (c : Nat) : Nat := kvPagePositions (Cd.rowBytes c)
/-- A_s (R149). -/
def Cd.anchorS (c : Nat) : Int :=
  if Cd.anchorMode c == 0 then signedOf (Cd.anchorBits c) 10
  else deriveAnchor (Cd.fmtQ c) (Cd.fmtKv c) 127 (smaxOf (Cd.fmtKv c) (Cd.scaleMaxKv c))
/-- Bytes of one row's mask (R155). -/
def Cd.maskStride (c : Nat) : Nat := 64 * ceilDiv (Cd.kCount c) 512
/-- Bytes of one row's retained scores (R161). -/
def Cd.tStride (c : Nat) : Nat := 4 * 32 * Cd.groups c

/-- R164: no check of the descriptor `c` (and of the extension `x` for op 2) that leads to ST_DESC_INVALID fails. -/
def Cd.valid (c x : Nat) : Bool :=
  Cd.reservedZero c && Cd.descVersion c == 1 && Cd.op c != 3 &&
  [0, 1, 9, 0xA].contains (Cd.fmtQ c) && [0, 1, 2, 3, 6, 9, 0xA].contains (Cd.fmtKv c) &&
  [0, 1, 9, 0xA, 0xB].contains (Cd.fmtO c) && decide (Cd.maskMode c ≤ 4) && Cd.ovfPolicy c != 3 &&
  decide (Cd.rows c ≤ 256) && Cd.kFirst c % 32 == 0 && (Cd.op c == 1 || Cd.kCount c != 0) &&
  (Cd.op c == 1 || decide (Cd.kCount c * 2 * Cd.rowBytes c ≤ 2 ^ 20)) &&
  decide (Cd.bound c ≤ 2432) && !(Cd.maskMode c == 2 && Cd.window c == 0) &&
  decide (Cd.d c + 2 ≤ Cd.stateRowStride c) &&
  (if Cd.op c == 1 then decide (Cd.qAddr c < 2 ^ 18) else Cd.qAddr c % 64 == 0) &&
  Cd.pageListAddr c % 4 == 0 && Cd.outAddr c % 64 == 0 && Cd.outRowStride c % 64 == 0 &&
  Cd.statsAddr c % 32 == 0 && Cd.maskAddr c % 64 == 0 &&
  (Cd.anchorMode c == 0 || Cd.anchorBits c == 0) &&
  (Cd.op c != 2 ||
    (Cx.reservedZero x && [0, 1, 9, 0xA].contains (Cx.fmtDo x) && [0, 9].contains (Cx.fmtP x) &&
     [0, 9].contains (Cx.fmtDs x) && Cx.doAddr x % 64 == 0 && Cx.doRowStride x % 64 == 0 &&
     Cd.qPos c % 32 == 0))

/-- R164: the ranges of a cascade tile. -/
def Cd.needs (c x : Nat) : List Need :=
  let rows := Cd.rows c
  let d := Cd.d c
  let st := spanLen rows (Cd.stateRowStride c) (d + 2)
  if Cd.op c == 1 then
    [⟨.pool, Cd.stateBase c, st⟩, ⟨.pool, Cd.qAddr c, spanLen rows (Cd.qRowStride c) (d + 2)⟩,
     ⟨.cistern, Cd.outAddr c, if Cd.stateOut c == 0 then spanLen rows (Cd.outRowStride c) (runBytes (Cd.fmtO c) d) else 0⟩,
     ⟨.cistern, Cd.statsAddr c, if Cd.stateOut c == 0 then 32 * rows else 0⟩]
  else
    let e0 := Cd.kFirst c / Cd.p c
    let e1 := (Cd.kFirst c + Cd.kCount c - 1) / Cd.p c
    [⟨.cistern, Cd.qAddr c, spanLen rows (Cd.qRowStride c) (runBytes (Cd.fmtQ c) d)⟩,
     ⟨.cistern, Cd.pageListAddr c + 4 * e0, 4 * (e1 - e0 + 1)⟩,
     ⟨.cistern, Cd.maskAddr c, if 3 ≤ Cd.maskMode c then Cd.qRows c * Cd.maskStride c else 0⟩,
     ⟨.dev, Cd.tAddr4k c * 4096, if Cd.scores c == 1 then rows * Cd.tStride c else 0⟩] ++
    (if Cd.op c == 0 then
      [⟨.pool, Cd.stateBase c, st⟩,
       ⟨.cistern, Cd.outAddr c, if Cd.stateOut c == 0 then spanLen rows (Cd.outRowStride c) (runBytes (Cd.fmtO c) d) else 0⟩,
       ⟨.cistern, Cd.statsAddr c, if Cd.stateOut c == 0 then 32 * rows else 0⟩]
     else
      [⟨.cistern, Cx.doAddr x, spanLen rows (Cx.doRowStride x) (runBytes (Cx.fmtDo x) d)⟩,
       ⟨.cistern, Cx.oAddr x, spanLen rows (Cx.oRowStride x) (runBytes (Cd.fmtO c) d)⟩,
       ⟨.cistern, Cx.statsIn x, 32 * rows⟩,
       ⟨.pool, Cx.dqBase x, rows * d⟩, ⟨.pool, Cx.dkBase x, Cd.kCount c * d⟩, ⟨.pool, Cx.dvBase x, Cd.kCount c * d⟩])

end Sys2Proof.Machine
end

