-- ==== Sys2Proof/Machine/Regs.lean ====
section
/-! DEFINITION. The register window of the manual: every register by its name, its place in BAR0, its fields with
their access codes and reset values, taken table by table from the chapters (R7 to R11, R36, R37, Tables 1-13 to 21-7).
A 64-bit quantity is one register here; its two words are the pair of R7. The 80-bit entries of FH_MAP and FWD
stand as two registers, low and high. -/
namespace Sys2Proof.Machine

/-- Access codes of Table 0-4 (R9). No register of the manual uses W1S. -/
inductive Access | ro | rw | w1c | wo | rc | rsv
  deriving DecidableEq, Repr

/-- Which reset clears a register (R11, R411): `kept` registers follow R394 and R427. -/
inductive Block | hub | terrace | basin | kept
  deriving DecidableEq, Repr

/-- The registers of the manual. -/
inductive RegName where
  | deviceId | terraceState | basinState | jetStatus | jetTileTag | jetSpare | jetSpareRowMap | jetSpareColMap 
  | jetFieldRemap | jetResidue | jetStreamCycles | jetBubbleCycles | jetReloads | cisternPart | cisternStalls 
  | cisternSteals | memEcc | runnelStatus | runnelTag | runnelRows | runnelProRows | runnelDropped | runnelOvf 
  | rillStatus | rillTileTag | rillResidue | rillComputeCycles | rillFetchWait | rillFetchBytes | rillReuses 
  | rillLaneReloads | cascadeStatus | cascadeTileTag | cascadeResidue | cascadeBusyCycles | cascadeFetchWait 
  | cascadeFetchBytes | cascadeRescales | cascadeCutoffs | cascadeEmptyRows | serveKvptBase | serveBackingBase 
  | serveCtrl | serveStatus | serveBacked | serveTokens | serveWasted | serveAccepted | servePageOps 
  | freelistBase | freelistCap | freelistCount | descents | tokringBase | tokringSize | tokringHead | tokringTail 
  | wcLimit | wcLease | wcNext | wcDoneCount | wcReissues | wcHeld | issueStatus | semValue | semHolder 
  | coreStatus | corePc | coreCause | coreInstret | sqBase | sqSize | sqHead | sqTail | cqBase | cqSize 
  | cqHead | cqTail | ringCtrl | ringStatus | ringCmd | ringLastEnd | sluiceStatus | timeoutRaces | packets 
  | mringDoorbell | sliceCounter | sliceCtrl | slicePasid | sliceStatus | sliceCmd | sliceViolMask | sliceViol 
  | sliceViolAddr | sliceViolStamp | sliceBasins | keyCmd | keyStatus | acctJetCycles | acctRillCycles 
  | acctCascadeCycles | acctRunnelCycles | acctSpoutCycles | acctSwitchCycles | acctHbmBytes | acctCxlBytes 
  | acctAqdBytes | acctHostBytes | acctEnergyPj | acctCommands | memRangeBase | memRangeLast | keyData 
  | schedCtrl | schedQuantum | schedV | schedShare | schedMark | schedCir | schedPir | schedCbs | schedPbs 
  | schedTc | schedTp | schedEffTier | schedSaved | schedGreen | schedYellow | schedRed | schedSaves 
  | schedRestores | saveBase | gateStatus | gatePeriod | gateGuard | gateCount | gateBase | gateNextOpen 
  | gateOverruns | gateExtensions | arbStatus | arbTaken | yields | gateEntry | radioCtrl | radioStatus 
  | radioReserved | radioStandby | engineSpare | harqBase | harqSize | planReject | planRejectSlot | engineFencedDec 
  | engineFencedEnc | engineFencedFft | plansAdmitted | slotOverruns | boundMisses | takeovers | opsSkipped 
  | measRecords | radioProtect | carCtrl | carPrb | carSlotBase | carUl | carDl | carBuf | carWin | carShift 
  | carStatus | carDropped | carGaps | timeCtrl | timeStatus | timeCount | timeRate | timeRateI | timeRateInit 
  | timeRateMax | timeServo | timeLock | timeStepNs | timeHoldover | timeSteps | timeOutliers | synceFreq 
  | trkCfg | trkAsym | trkMaster | trkMasterPort | trkSelfPort | trkSelf | trkTheta | trkMpd | trkMeas 
  | ppCtrl | ppPortnum | ppClockid | ppLat | ppTc | outCtrl | outStart | outPeriod | outFrac | outWidth 
  | capCtrl | capMeta | capOpen | capClose | capStamp | launchCtrl | launchStatus | launchCount | launchFired 
  | ethCtrl | ethStatus | ethOverhead | ethSrcTc | gclCtrl | gclCycle | gclBase | gclAct | rxFrames | txFrames 
  | rxErr | rxUnmatched | rxPause | txDiscard | txRed | tcCfg | tcCir | tcPir | tcCbs | tcPbs | tcQlimit 
  | gclEntry | fhMap | fhMapHi | fwd | fwdHi | mrxBase | mrxSize | mrxHead | mrxTail | mrxDrop | mtxBase 
  | mtxSize | mtxHead | mtxTail | aqdId | aqdCtrl | aqdLifetime | aqdMargin | aqdRetryInt | aqdQueryMax 
  | aqdRttBase | aqdSettleBase | aqdHarqJob | aqdRefuseLast | aqdIncarnation | aqdRefused | aqdExpired 
  | aqdRaces | aqdCombined | aqdDuplicates | aqdStale | aqdRetries | aqdCreditWaits | aqdBlocked | aqpStatus 
  | aqpNbr | aqpReplays | aqpTxBytes | aqpRxBytes | homeMap | route | aqdJob | aqdArrival | aqdArrivalOwner 
  | detCtrl | detMask | detStep | detNondet | detLast | detLastStamp | detShadowStatus | detShadowCmd 
  | detMatched | detUnmatched | detMismatchTag | detMismatchStep | detMismatchOwn | detMismatchPeer | spwStatus 
  | spwCtrl | spwCmd | spwMark | spwCapInfo | spwCapStamp | spwCapSynd | logHead | logTail | fenceCmd 
  | fenceArg | fenceStatus | spwQuiet | recoveries | recoverFails | siltStatus | healthEpoch | healthScore 
  | healthCapacity | classCount | policy | healthWeight | healthDecayed | hbmWithdrawn | pwrCtrl | pwrStatus 
  | fixedStep | capFloor | basinGateReq | basinWakeReq | basinGated | basinWaking | slewCfg | slewTokens 
  | rampDown | slewWaits | stretchProt | powerNow | powerAvg | energyMeter | energyCoef | islandStretch 
  | bootStatus | resetCmd | resetStatus | resetCause | bootStamp | hbmTrain | mgmtId | mgmtStatus | thermStatus 
  deriving DecidableEq, Repr

/-- A field of a register: bits `lo` to `lo + width - 1`. -/
structure Fld where
  reg : RegName
  lo : Nat
  width : Nat
  deriving DecidableEq, Repr

/-- One row of a field table: place, access code. -/
structure FieldRow where
  lo : Nat
  width : Nat
  acc : Access
  deriving DecidableEq, Repr

/-- Width of a register in bits: 32, or 64 for a pair. -/
def RegName.width : RegName → Nat
  | .jetStreamCycles | .jetBubbleCycles | .cisternStalls | .runnelRows | .runnelProRows | .runnelDropped => 64
  | .rillComputeCycles | .rillFetchWait | .rillFetchBytes | .cascadeBusyCycles | .cascadeFetchWait | .cascadeFetchBytes => 64
  | .serveKvptBase | .serveBackingBase | .serveTokens | .serveWasted | .serveAccepted | .servePageOps => 64
  | .freelistBase | .tokringBase | .corePc | .coreInstret | .sqBase | .cqBase => 64
  | .ringLastEnd | .packets | .sliceCounter | .sliceViolAddr | .sliceViolStamp | .sliceBasins => 64
  | .acctJetCycles | .acctRillCycles | .acctCascadeCycles | .acctRunnelCycles | .acctSpoutCycles | .acctSwitchCycles => 64
  | .acctHbmBytes | .acctCxlBytes | .acctAqdBytes | .acctHostBytes | .acctEnergyPj | .acctCommands => 64
  | .memRangeBase | .memRangeLast | .schedV | .schedSaved | .schedGreen | .schedYellow => 64
  | .schedRed | .saveBase | .gateBase | .gateNextOpen | .arbTaken | .gateEntry => 64
  | .radioReserved | .radioStandby | .harqBase | .planRejectSlot | .plansAdmitted | .carSlotBase => 64
  | .timeCount | .trkMaster | .trkSelf | .trkTheta | .trkMpd | .ppClockid => 64
  | .outStart | .capOpen | .capClose | .capStamp | .launchCount | .launchFired => 64
  | .gclBase | .gclAct | .rxFrames | .txFrames | .rxErr | .rxUnmatched => 64
  | .rxPause | .txDiscard | .txRed | .fhMap | .fhMapHi | .fwd => 64
  | .fwdHi | .mrxBase | .mtxBase | .aqdRttBase | .aqdSettleBase | .aqdHarqJob => 64
  | .aqdRefused | .aqdExpired | .aqdRaces | .aqdCombined | .aqdDuplicates | .aqdStale => 64
  | .aqdRetries | .aqdCreditWaits | .aqpTxBytes | .aqpRxBytes | .aqdArrival | .detStep => 64
  | .detNondet | .detLastStamp | .detMatched | .detMismatchOwn | .detMismatchPeer | .spwCapStamp => 64
  | .spwCapSynd | .healthCapacity | .classCount | .basinGateReq | .basinWakeReq | .basinGated => 64
  | .basinWaking | .slewWaits | .stretchProt | .energyMeter | .islandStretch | .bootStamp => 64
  | _ => 32

/-- The block whose reset clears a register. -/
def RegName.block : RegName → Block
  | .basinState | .jetStatus | .jetTileTag | .jetResidue | .jetStreamCycles => .basin
  | .jetBubbleCycles | .jetReloads | .cisternPart | .cisternStalls | .cisternSteals | .memEcc => .basin
  | .runnelStatus | .runnelTag | .runnelRows | .runnelProRows | .runnelDropped | .runnelOvf => .basin
  | .rillStatus | .rillTileTag | .rillResidue | .rillComputeCycles | .rillFetchWait | .rillFetchBytes => .basin
  | .rillReuses | .rillLaneReloads | .wcLimit | .wcLease | .wcNext | .wcDoneCount => .basin
  | .wcReissues | .wcHeld | .issueStatus | .semValue | .semHolder | .coreStatus => .basin
  | .corePc | .coreCause | .coreInstret | .gateStatus | .gatePeriod | .gateGuard => .basin
  | .gateCount | .gateBase | .gateNextOpen | .gateOverruns | .gateExtensions | .arbStatus => .basin
  | .arbTaken | .yields | .gateEntry => .basin
  | .terraceState | .cascadeStatus | .cascadeTileTag | .cascadeResidue | .cascadeBusyCycles | .cascadeFetchWait => .terrace
  | .cascadeFetchBytes | .cascadeRescales | .cascadeCutoffs | .cascadeEmptyRows => .terrace
  | .jetSpare | .jetSpareRowMap | .jetSpareColMap | .jetFieldRemap | .aqdId | .siltStatus | .resetCause => .kept
  | _ => .hub

/-- Fields of a register, in the order of its table; a bit in no row is reserved. -/
def RegName.fields : RegName → List FieldRow
  | .deviceId => [⟨0, 4, .ro⟩, ⟨4, 4, .ro⟩, ⟨8, 16, .ro⟩, ⟨24, 8, .ro⟩]
  | .terraceState => [⟨0, 8, .ro⟩, ⟨8, 8, .ro⟩, ⟨16, 1, .ro⟩, ⟨17, 1, .ro⟩, ⟨18, 1, .ro⟩, ⟨19, 1, .ro⟩, ⟨20, 1, .ro⟩]
  | .basinState => [⟨0, 7, .ro⟩, ⟨7, 1, .ro⟩, ⟨8, 1, .ro⟩, ⟨9, 1, .ro⟩, ⟨10, 1, .ro⟩, ⟨11, 1, .ro⟩, ⟨12, 1, .ro⟩, ⟨13, 1, .ro⟩, ⟨14, 1, .ro⟩, ⟨15, 1, .ro⟩, ⟨16, 8, .ro⟩, ⟨24, 1, .ro⟩]
  | .jetStatus => [⟨0, 1, .ro⟩, ⟨1, 1, .ro⟩, ⟨2, 1, .ro⟩, ⟨3, 1, .ro⟩, ⟨4, 1, .ro⟩]
  | .jetTileTag => [⟨0, 32, .ro⟩]
  | .jetSpare => [⟨0, 4, .ro⟩, ⟨4, 4, .ro⟩, ⟨8, 2, .ro⟩, ⟨10, 1, .ro⟩]
  | .jetSpareRowMap => [⟨0, 7, .ro⟩, ⟨8, 7, .ro⟩, ⟨16, 7, .ro⟩, ⟨24, 7, .ro⟩]
  | .jetSpareColMap => [⟨0, 7, .ro⟩, ⟨8, 7, .ro⟩, ⟨16, 7, .ro⟩, ⟨24, 7, .ro⟩]
  | .jetFieldRemap => [⟨0, 7, .wo⟩, ⟨7, 1, .wo⟩, ⟨16, 16, .wo⟩]
  | .jetResidue => [⟨0, 16, .rc⟩, ⟨16, 7, .ro⟩]
  | .jetStreamCycles => [⟨0, 64, .ro⟩]
  | .jetBubbleCycles => [⟨0, 64, .ro⟩]
  | .jetReloads => [⟨0, 32, .ro⟩]
  | .cisternPart => [⟨0, 5, .rw⟩, ⟨8, 7, .rw⟩, ⟨16, 1, .ro⟩]
  | .cisternStalls => [⟨0, 64, .ro⟩]
  | .cisternSteals => [⟨0, 32, .ro⟩]
  | .memEcc => [⟨0, 16, .rc⟩, ⟨16, 16, .rc⟩]
  | .runnelStatus => [⟨0, 1, .ro⟩, ⟨1, 1, .ro⟩, ⟨2, 1, .ro⟩, ⟨3, 1, .ro⟩, ⟨4, 1, .ro⟩]
  | .runnelTag => [⟨0, 32, .ro⟩]
  | .runnelRows => [⟨0, 64, .ro⟩]
  | .runnelProRows => [⟨0, 64, .ro⟩]
  | .runnelDropped => [⟨0, 64, .ro⟩]
  | .runnelOvf => [⟨0, 16, .rc⟩]
  | .rillStatus => [⟨0, 1, .ro⟩, ⟨1, 1, .ro⟩, ⟨2, 1, .ro⟩, ⟨3, 1, .ro⟩, ⟨4, 1, .ro⟩]
  | .rillTileTag => [⟨0, 32, .ro⟩]
  | .rillResidue => [⟨0, 16, .rc⟩, ⟨16, 4, .ro⟩]
  | .rillComputeCycles => [⟨0, 64, .ro⟩]
  | .rillFetchWait => [⟨0, 64, .ro⟩]
  | .rillFetchBytes => [⟨0, 64, .ro⟩]
  | .rillReuses => [⟨0, 32, .ro⟩]
  | .rillLaneReloads => [⟨0, 32, .ro⟩]
  | .cascadeStatus => [⟨0, 1, .ro⟩, ⟨1, 1, .ro⟩, ⟨2, 2, .ro⟩, ⟨4, 3, .ro⟩]
  | .cascadeTileTag => [⟨0, 32, .ro⟩]
  | .cascadeResidue => [⟨0, 16, .rc⟩, ⟨16, 1, .ro⟩]
  | .cascadeBusyCycles => [⟨0, 64, .ro⟩]
  | .cascadeFetchWait => [⟨0, 64, .ro⟩]
  | .cascadeFetchBytes => [⟨0, 64, .ro⟩]
  | .cascadeRescales => [⟨0, 32, .ro⟩]
  | .cascadeCutoffs => [⟨0, 32, .ro⟩]
  | .cascadeEmptyRows => [⟨0, 32, .ro⟩]
  | .serveKvptBase => [⟨0, 44, .rw⟩]
  | .serveBackingBase => [⟨0, 44, .rw⟩]
  | .serveCtrl => [⟨0, 1, .rw⟩, ⟨1, 1, .rw⟩]
  | .serveStatus => [⟨0, 13, .ro⟩, ⟨13, 1, .ro⟩]
  | .serveBacked => [⟨0, 21, .ro⟩]
  | .serveTokens => [⟨0, 64, .ro⟩]
  | .serveWasted => [⟨0, 64, .ro⟩]
  | .serveAccepted => [⟨0, 64, .ro⟩]
  | .servePageOps => [⟨0, 64, .ro⟩]
  | .freelistBase => [⟨0, 44, .rw⟩]
  | .freelistCap => [⟨0, 23, .rw⟩]
  | .freelistCount => [⟨0, 23, .ro⟩]
  | .descents => [⟨0, 32, .ro⟩]
  | .tokringBase => [⟨0, 64, .rw⟩]
  | .tokringSize => [⟨0, 5, .rw⟩]
  | .tokringHead => [⟨0, 20, .ro⟩]
  | .tokringTail => [⟨0, 20, .rw⟩]
  | .wcLimit => [⟨0, 32, .ro⟩]
  | .wcLease => [⟨0, 32, .ro⟩]
  | .wcNext => [⟨0, 32, .ro⟩]
  | .wcDoneCount => [⟨0, 32, .ro⟩]
  | .wcReissues => [⟨0, 32, .ro⟩]
  | .wcHeld => [⟨0, 32, .ro⟩]
  | .issueStatus => [⟨0, 16, .ro⟩, ⟨16, 5, .ro⟩]
  | .semValue => [⟨0, 32, .ro⟩]
  | .semHolder => [⟨0, 10, .ro⟩, ⟨16, 8, .ro⟩]
  | .coreStatus => [⟨0, 2, .ro⟩, ⟨2, 1, .ro⟩, ⟨3, 1, .ro⟩]
  | .corePc => [⟨0, 64, .ro⟩]
  | .coreCause => [⟨0, 8, .ro⟩]
  | .coreInstret => [⟨0, 64, .ro⟩]
  | .sqBase => [⟨0, 64, .rw⟩]
  | .sqSize => [⟨0, 5, .rw⟩]
  | .sqHead => [⟨0, 20, .ro⟩]
  | .sqTail => [⟨0, 20, .ro⟩]
  | .cqBase => [⟨0, 64, .rw⟩]
  | .cqSize => [⟨0, 5, .rw⟩]
  | .cqHead => [⟨0, 20, .ro⟩]
  | .cqTail => [⟨0, 20, .rw⟩]
  | .ringCtrl => [⟨0, 1, .rw⟩, ⟨1, 1, .rw⟩, ⟨2, 3, .rw⟩]
  | .ringStatus => [⟨0, 1, .ro⟩, ⟨1, 1, .ro⟩, ⟨2, 1, .ro⟩, ⟨16, 16, .ro⟩]
  | .ringCmd => [⟨0, 1, .wo⟩]
  | .ringLastEnd => [⟨0, 64, .ro⟩]
  | .sluiceStatus => [⟨0, 1, .ro⟩, ⟨1, 11, .ro⟩]
  | .timeoutRaces => [⟨0, 32, .ro⟩]
  | .packets => [⟨0, 64, .ro⟩]
  | .mringDoorbell => [⟨0, 32, .wo⟩]
  | .sliceCounter => [⟨0, 64, .ro⟩]
  | .sliceCtrl => [⟨0, 1, .rw⟩]
  | .slicePasid => [⟨0, 20, .rw⟩, ⟨20, 1, .rw⟩]
  | .sliceStatus => [⟨0, 3, .ro⟩, ⟨16, 8, .ro⟩, ⟨24, 8, .ro⟩]
  | .sliceCmd => [⟨0, 1, .wo⟩, ⟨1, 1, .wo⟩]
  | .sliceViolMask => [⟨0, 5, .rw⟩]
  | .sliceViol => [⟨0, 4, .ro⟩, ⟨16, 16, .ro⟩]
  | .sliceViolAddr => [⟨0, 64, .ro⟩]
  | .sliceViolStamp => [⟨0, 64, .ro⟩]
  | .sliceBasins => [⟨0, 64, .rw⟩]
  | .keyCmd => [⟨0, 1, .wo⟩, ⟨1, 1, .wo⟩]
  | .keyStatus => [⟨0, 1, .ro⟩, ⟨1, 1, .ro⟩, ⟨2, 2, .ro⟩]
  | .acctJetCycles => [⟨0, 64, .ro⟩]
  | .acctRillCycles => [⟨0, 64, .ro⟩]
  | .acctCascadeCycles => [⟨0, 64, .ro⟩]
  | .acctRunnelCycles => [⟨0, 64, .ro⟩]
  | .acctSpoutCycles => [⟨0, 64, .ro⟩]
  | .acctSwitchCycles => [⟨0, 64, .ro⟩]
  | .acctHbmBytes => [⟨0, 64, .ro⟩]
  | .acctCxlBytes => [⟨0, 64, .ro⟩]
  | .acctAqdBytes => [⟨0, 64, .ro⟩]
  | .acctHostBytes => [⟨0, 64, .ro⟩]
  | .acctEnergyPj => [⟨0, 64, .ro⟩]
  | .acctCommands => [⟨0, 64, .ro⟩]
  | .memRangeBase => [⟨0, 1, .rw⟩, ⟨21, 23, .rw⟩]
  | .memRangeLast => [⟨21, 23, .rw⟩]
  | .keyData => [⟨0, 32, .wo⟩]
  | .schedCtrl => [⟨0, 16, .rw⟩]
  | .schedQuantum => [⟨0, 32, .rw⟩]
  | .schedV => [⟨0, 64, .ro⟩]
  | .schedShare => [⟨0, 16, .rw⟩, ⟨16, 1, .rw⟩]
  | .schedMark => [⟨0, 1, .rw⟩, ⟨1, 1, .rw⟩, ⟨2, 8, .rw⟩]
  | .schedCir => [⟨0, 32, .rw⟩]
  | .schedPir => [⟨0, 32, .rw⟩]
  | .schedCbs => [⟨0, 32, .rw⟩]
  | .schedPbs => [⟨0, 32, .rw⟩]
  | .schedTc => [⟨0, 32, .ro⟩]
  | .schedTp => [⟨0, 32, .ro⟩]
  | .schedEffTier => [⟨0, 24, .ro⟩]
  | .schedSaved => [⟨0, 64, .ro⟩]
  | .schedGreen => [⟨0, 64, .ro⟩]
  | .schedYellow => [⟨0, 64, .ro⟩]
  | .schedRed => [⟨0, 64, .ro⟩]
  | .schedSaves => [⟨0, 32, .ro⟩]
  | .schedRestores => [⟨0, 32, .ro⟩]
  | .saveBase => [⟨0, 1, .rw⟩, ⟨24, 20, .rw⟩]
  | .gateStatus => [⟨0, 1, .ro⟩, ⟨1, 1, .ro⟩, ⟨2, 1, .ro⟩, ⟨3, 1, .ro⟩, ⟨4, 1, .ro⟩, ⟨5, 1, .ro⟩]
  | .gatePeriod => [⟨0, 32, .ro⟩]
  | .gateGuard => [⟨0, 32, .ro⟩]
  | .gateCount => [⟨0, 7, .ro⟩]
  | .gateBase => [⟨0, 64, .ro⟩]
  | .gateNextOpen => [⟨0, 64, .ro⟩]
  | .gateOverruns => [⟨0, 32, .ro⟩]
  | .gateExtensions => [⟨0, 32, .ro⟩]
  | .arbStatus => [⟨0, 3, .ro⟩, ⟨3, 1, .ro⟩, ⟨4, 7, .ro⟩]
  | .arbTaken => [⟨0, 64, .ro⟩]
  | .yields => [⟨0, 32, .ro⟩]
  | .gateEntry => [⟨0, 32, .ro⟩, ⟨32, 32, .ro⟩]
  | .radioCtrl => [⟨0, 1, .rw⟩]
  | .radioStatus => [⟨0, 1, .ro⟩, ⟨1, 17, .ro⟩]
  | .radioReserved => [⟨0, 64, .rw⟩]
  | .radioStandby => [⟨0, 64, .rw⟩]
  | .engineSpare => [⟨0, 5, .rw⟩, ⟨5, 1, .rw⟩, ⟨8, 4, .rw⟩, ⟨12, 1, .rw⟩, ⟨16, 3, .rw⟩, ⟨19, 1, .rw⟩, ⟨24, 4, .rw⟩, ⟨28, 1, .rw⟩]
  | .harqBase => [⟨0, 44, .rw⟩]
  | .harqSize => [⟨0, 14, .rw⟩]
  | .planReject => [⟨0, 8, .ro⟩, ⟨8, 4, .ro⟩, ⟨12, 12, .ro⟩]
  | .planRejectSlot => [⟨0, 64, .ro⟩]
  | .engineFencedDec => [⟨0, 32, .ro⟩]
  | .engineFencedEnc => [⟨0, 16, .ro⟩, ⟨16, 8, .ro⟩]
  | .engineFencedFft => [⟨0, 16, .ro⟩]
  | .plansAdmitted => [⟨0, 64, .ro⟩]
  | .slotOverruns => [⟨0, 32, .ro⟩]
  | .boundMisses => [⟨0, 32, .ro⟩]
  | .takeovers => [⟨0, 32, .ro⟩]
  | .opsSkipped => [⟨0, 32, .ro⟩]
  | .measRecords => [⟨0, 32, .ro⟩]
  | .radioProtect => [⟨0, 6, .rw⟩, ⟨6, 1, .rw⟩, ⟨8, 6, .ro⟩, ⟨14, 1, .ro⟩]
  | .carCtrl => [⟨0, 1, .rw⟩, ⟨1, 2, .rw⟩, ⟨3, 6, .rw⟩, ⟨9, 2, .rw⟩, ⟨11, 5, .rw⟩, ⟨16, 4, .rw⟩, ⟨20, 5, .rw⟩]
  | .carPrb => [⟨0, 9, .rw⟩, ⟨16, 16, .rw⟩]
  | .carSlotBase => [⟨0, 64, .rw⟩]
  | .carUl => [⟨0, 6, .rw⟩, ⟨6, 24, .rw⟩]
  | .carDl => [⟨0, 6, .rw⟩, ⟨6, 24, .rw⟩]
  | .carBuf => [⟨0, 24, .rw⟩]
  | .carWin => [⟨0, 16, .rw⟩, ⟨16, 16, .rw⟩]
  | .carShift => [⟨0, 5, .rw⟩, ⟨5, 5, .rw⟩, ⟨10, 22, .rw⟩]
  | .carStatus => [⟨0, 1, .ro⟩, ⟨1, 1, .ro⟩, ⟨2, 1, .rw⟩, ⟨3, 1, .ro⟩]
  | .carDropped => [⟨0, 32, .rc⟩]
  | .carGaps => [⟨0, 32, .rc⟩]
  | .timeCtrl => [⟨0, 1, .rw⟩, ⟨1, 1, .rw⟩, ⟨2, 1, .rw⟩, ⟨3, 1, .rw⟩, ⟨4, 2, .rw⟩, ⟨6, 4, .rw⟩]
  | .timeStatus => [⟨0, 2, .ro⟩, ⟨2, 1, .w1c⟩, ⟨3, 1, .ro⟩, ⟨4, 1, .ro⟩]
  | .timeCount => [⟨0, 64, .ro⟩]
  | .timeRate => [⟨0, 32, .ro⟩]
  | .timeRateI => [⟨0, 32, .ro⟩]
  | .timeRateInit => [⟨0, 32, .rw⟩]
  | .timeRateMax => [⟨0, 16, .rw⟩]
  | .timeServo => [⟨0, 5, .rw⟩, ⟨8, 5, .rw⟩]
  | .timeLock => [⟨0, 16, .rw⟩, ⟨16, 16, .rw⟩]
  | .timeStepNs => [⟨0, 32, .rw⟩]
  | .timeHoldover => [⟨0, 16, .rw⟩]
  | .timeSteps => [⟨0, 32, .ro⟩]
  | .timeOutliers => [⟨0, 32, .ro⟩]
  | .synceFreq => [⟨0, 32, .ro⟩]
  | .trkCfg => [⟨0, 1, .rw⟩, ⟨1, 2, .rw⟩, ⟨3, 8, .rw⟩, ⟨11, 4, .rw⟩, ⟨15, 1, .rw⟩]
  | .trkAsym => [⟨0, 32, .rw⟩]
  | .trkMaster => [⟨0, 64, .rw⟩]
  | .trkMasterPort => [⟨0, 16, .rw⟩]
  | .trkSelfPort => [⟨0, 16, .rw⟩]
  | .trkSelf => [⟨0, 64, .rw⟩]
  | .trkTheta => [⟨0, 64, .ro⟩]
  | .trkMpd => [⟨0, 64, .ro⟩]
  | .trkMeas => [⟨0, 32, .ro⟩]
  | .ppCtrl => [⟨0, 2, .rw⟩, ⟨2, 1, .rw⟩, ⟨3, 1, .rw⟩, ⟨4, 4, .rw⟩, ⟨8, 8, .rw⟩]
  | .ppPortnum => [⟨0, 16, .rw⟩]
  | .ppClockid => [⟨0, 64, .rw⟩]
  | .ppLat => [⟨0, 16, .rw⟩, ⟨16, 16, .rw⟩]
  | .ppTc => [⟨0, 32, .ro⟩]
  | .outCtrl => [⟨0, 1, .rw⟩, ⟨1, 1, .rw⟩, ⟨2, 1, .rw⟩, ⟨3, 1, .w1c⟩, ⟨4, 1, .w1c⟩]
  | .outStart => [⟨0, 64, .rw⟩]
  | .outPeriod => [⟨0, 32, .rw⟩]
  | .outFrac => [⟨0, 16, .rw⟩, ⟨16, 16, .rw⟩]
  | .outWidth => [⟨0, 32, .rw⟩]
  | .capCtrl => [⟨0, 1, .rw⟩, ⟨1, 2, .rw⟩, ⟨16, 16, .rc⟩]
  | .capMeta => [⟨0, 6, .rc⟩, ⟨8, 1, .rc⟩, ⟨16, 5, .rc⟩]
  | .capOpen => [⟨0, 64, .rw⟩]
  | .capClose => [⟨0, 64, .rw⟩]
  | .capStamp => [⟨0, 64, .ro⟩]
  | .launchCtrl => [⟨0, 1, .rw⟩, ⟨8, 8, .rw⟩, ⟨16, 8, .rw⟩]
  | .launchStatus => [⟨0, 1, .w1c⟩, ⟨1, 1, .w1c⟩, ⟨2, 1, .w1c⟩]
  | .launchCount => [⟨0, 64, .rw⟩]
  | .launchFired => [⟨0, 64, .ro⟩]
  | .ethCtrl => [⟨0, 1, .rw⟩, ⟨1, 1, .rw⟩]
  | .ethStatus => [⟨0, 1, .ro⟩, ⟨1, 4, .ro⟩, ⟨5, 1, .ro⟩]
  | .ethOverhead => [⟨0, 8, .rw⟩]
  | .ethSrcTc => [⟨0, 3, .rw⟩, ⟨4, 3, .rw⟩, ⟨8, 3, .rw⟩]
  | .gclCtrl => [⟨0, 1, .rw⟩, ⟨1, 8, .rw⟩, ⟨9, 1, .ro⟩, ⟨10, 1, .w1c⟩]
  | .gclCycle => [⟨0, 32, .rw⟩]
  | .gclBase => [⟨0, 64, .rw⟩]
  | .gclAct => [⟨0, 64, .rw⟩]
  | .rxFrames => [⟨0, 64, .ro⟩]
  | .txFrames => [⟨0, 64, .ro⟩]
  | .rxErr => [⟨0, 64, .ro⟩]
  | .rxUnmatched => [⟨0, 64, .ro⟩]
  | .rxPause => [⟨0, 64, .ro⟩]
  | .txDiscard => [⟨0, 64, .ro⟩]
  | .txRed => [⟨0, 64, .ro⟩]
  | .tcCfg => [⟨0, 3, .rw⟩, ⟨3, 1, .rw⟩, ⟨4, 1, .rw⟩, ⟨16, 16, .rw⟩]
  | .tcCir => [⟨0, 32, .rw⟩]
  | .tcPir => [⟨0, 32, .rw⟩]
  | .tcCbs => [⟨0, 32, .rw⟩]
  | .tcPbs => [⟨0, 32, .rw⟩]
  | .tcQlimit => [⟨0, 22, .rw⟩]
  | .gclEntry => [⟨0, 8, .rw⟩, ⟨8, 24, .rw⟩]
  | .fhMap => [⟨0, 1, .rw⟩, ⟨1, 8, .rw⟩, ⟨9, 1, .rw⟩, ⟨10, 12, .rw⟩, ⟨32, 32, .rw⟩]
  | .fhMapHi => [⟨0, 16, .rw⟩]
  | .fwd => [⟨0, 1, .rw⟩, ⟨1, 2, .rw⟩, ⟨3, 3, .rw⟩, ⟨6, 1, .rw⟩, ⟨9, 1, .rw⟩, ⟨10, 12, .rw⟩, ⟨32, 32, .rw⟩]
  | .fwdHi => [⟨0, 16, .rw⟩]
  | .mrxBase => [⟨0, 64, .rw⟩]
  | .mrxSize => [⟨0, 5, .rw⟩]
  | .mrxHead => [⟨0, 16, .ro⟩]
  | .mrxTail => [⟨0, 16, .rw⟩]
  | .mrxDrop => [⟨0, 32, .ro⟩]
  | .mtxBase => [⟨0, 64, .rw⟩]
  | .mtxSize => [⟨0, 5, .rw⟩]
  | .mtxHead => [⟨0, 16, .ro⟩]
  | .mtxTail => [⟨0, 16, .rw⟩]
  | .aqdId => [⟨0, 12, .ro⟩, ⟨12, 3, .ro⟩]
  | .aqdCtrl => [⟨0, 1, .rw⟩]
  | .aqdLifetime => [⟨0, 32, .rw⟩]
  | .aqdMargin => [⟨0, 32, .rw⟩]
  | .aqdRetryInt => [⟨0, 32, .rw⟩]
  | .aqdQueryMax => [⟨0, 4, .rw⟩]
  | .aqdRttBase => [⟨0, 44, .rw⟩]
  | .aqdSettleBase => [⟨0, 44, .rw⟩]
  | .aqdHarqJob => [⟨0, 52, .rw⟩]
  | .aqdRefuseLast => [⟨0, 4, .ro⟩, ⟨16, 12, .ro⟩]
  | .aqdIncarnation => [⟨0, 32, .rw⟩]
  | .aqdRefused => [⟨0, 64, .ro⟩]
  | .aqdExpired => [⟨0, 64, .ro⟩]
  | .aqdRaces => [⟨0, 64, .ro⟩]
  | .aqdCombined => [⟨0, 64, .ro⟩]
  | .aqdDuplicates => [⟨0, 64, .ro⟩]
  | .aqdStale => [⟨0, 64, .ro⟩]
  | .aqdRetries => [⟨0, 64, .ro⟩]
  | .aqdCreditWaits => [⟨0, 64, .ro⟩]
  | .aqdBlocked => [⟨0, 13, .ro⟩]
  | .aqpStatus => [⟨0, 1, .ro⟩, ⟨1, 4, .ro⟩, ⟨5, 1, .ro⟩]
  | .aqpNbr => [⟨0, 12, .ro⟩, ⟨12, 3, .ro⟩, ⟨15, 1, .ro⟩]
  | .aqpReplays => [⟨0, 32, .ro⟩]
  | .aqpTxBytes => [⟨0, 64, .ro⟩]
  | .aqpRxBytes => [⟨0, 64, .ro⟩]
  | .homeMap => [⟨0, 12, .rw⟩, ⟨15, 1, .rw⟩]
  | .route => [⟨0, 3, .rw⟩, ⟨3, 1, .rw⟩, ⟨4, 3, .rw⟩, ⟨7, 1, .rw⟩]
  | .aqdJob => [⟨0, 16, .rw⟩, ⟨16, 8, .rw⟩, ⟨24, 1, .rw⟩]
  | .aqdArrival => [⟨0, 64, .rw⟩]
  | .aqdArrivalOwner => [⟨0, 7, .rw⟩, ⟨7, 1, .rw⟩]
  | .detCtrl => [⟨0, 6, .rw⟩, ⟨6, 1, .rw⟩]
  | .detMask => [⟨0, 6, .rw⟩]
  | .detStep => [⟨0, 64, .rw⟩]
  | .detNondet => [⟨0, 64, .ro⟩]
  | .detLast => [⟨0, 3, .ro⟩, ⟨3, 1, .ro⟩]
  | .detLastStamp => [⟨0, 64, .ro⟩]
  | .detShadowStatus => [⟨0, 2, .ro⟩, ⟨2, 2, .ro⟩, ⟨4, 1, .ro⟩, ⟨5, 1, .ro⟩, ⟨6, 1, .ro⟩, ⟨7, 7, .ro⟩]
  | .detShadowCmd => [⟨0, 1, .wo⟩]
  | .detMatched => [⟨0, 64, .ro⟩]
  | .detUnmatched => [⟨0, 32, .ro⟩]
  | .detMismatchTag => [⟨0, 32, .ro⟩]
  | .detMismatchStep => [⟨0, 32, .ro⟩]
  | .detMismatchOwn => [⟨0, 64, .ro⟩]
  | .detMismatchPeer => [⟨0, 64, .ro⟩]
  | .spwStatus => [⟨0, 1, .ro⟩, ⟨1, 2, .ro⟩, ⟨3, 1, .w1c⟩, ⟨4, 1, .ro⟩, ⟨5, 1, .ro⟩, ⟨8, 6, .w1c⟩]
  | .spwCtrl => [⟨0, 6, .rw⟩, ⟨6, 6, .rw⟩, ⟨12, 6, .rw⟩, ⟨18, 1, .rw⟩, ⟨19, 1, .rw⟩, ⟨20, 3, .rw⟩, ⟨23, 1, .rw⟩, ⟨24, 8, .rw⟩]
  | .spwCmd => [⟨0, 1, .wo⟩, ⟨1, 1, .wo⟩, ⟨2, 1, .wo⟩, ⟨3, 1, .wo⟩, ⟨4, 1, .wo⟩, ⟨5, 1, .wo⟩]
  | .spwMark => [⟨0, 32, .wo⟩]
  | .spwCapInfo => [⟨0, 16, .ro⟩, ⟨16, 3, .ro⟩, ⟨19, 1, .w1c⟩, ⟨24, 8, .rc⟩]
  | .spwCapStamp => [⟨0, 64, .ro⟩]
  | .spwCapSynd => [⟨0, 64, .ro⟩]
  | .logHead => [⟨0, 10, .ro⟩]
  | .logTail => [⟨0, 10, .rw⟩]
  | .fenceCmd => [⟨0, 16, .wo⟩, ⟨16, 2, .wo⟩]
  | .fenceArg => [⟨0, 6, .rw⟩, ⟨6, 2, .rw⟩, ⟨8, 2, .rw⟩]
  | .fenceStatus => [⟨0, 1, .ro⟩, ⟨1, 2, .ro⟩]
  | .spwQuiet => [⟨0, 16, .rw⟩]
  | .recoveries => [⟨0, 32, .ro⟩]
  | .recoverFails => [⟨0, 32, .ro⟩]
  | .siltStatus => [⟨0, 10, .ro⟩, ⟨10, 1, .ro⟩]
  | .healthEpoch => [⟨0, 16, .rw⟩]
  | .healthScore => [⟨0, 16, .ro⟩]
  | .healthCapacity => [⟨0, 8, .ro⟩, ⟨8, 7, .ro⟩, ⟨15, 8, .ro⟩, ⟨23, 6, .ro⟩, ⟨29, 3, .ro⟩, ⟨32, 6, .ro⟩]
  | .classCount => [⟨0, 64, .ro⟩]
  | .policy => [⟨0, 4, .rw⟩, ⟨4, 12, .rw⟩, ⟨16, 1, .rw⟩, ⟨17, 4, .rw⟩]
  | .healthWeight => [⟨0, 16, .rw⟩]
  | .healthDecayed => [⟨0, 24, .ro⟩]
  | .hbmWithdrawn => [⟨0, 16, .ro⟩]
  | .pwrCtrl => [⟨0, 2, .rw⟩, ⟨2, 1, .rw⟩, ⟨3, 3, .rw⟩]
  | .pwrStatus => [⟨0, 4, .ro⟩, ⟨4, 1, .ro⟩]
  | .fixedStep => [⟨0, 4, .rw⟩]
  | .capFloor => [⟨0, 4, .rw⟩]
  | .basinGateReq => [⟨0, 64, .wo⟩]
  | .basinWakeReq => [⟨0, 64, .wo⟩]
  | .basinGated => [⟨0, 64, .ro⟩]
  | .basinWaking => [⟨0, 64, .ro⟩]
  | .slewCfg => [⟨0, 16, .rw⟩, ⟨16, 16, .rw⟩]
  | .slewTokens => [⟨0, 16, .ro⟩]
  | .rampDown => [⟨0, 12, .rw⟩]
  | .slewWaits => [⟨0, 64, .ro⟩]
  | .stretchProt => [⟨0, 64, .ro⟩]
  | .powerNow => [⟨0, 16, .ro⟩]
  | .powerAvg => [⟨0, 16, .ro⟩]
  | .energyMeter => [⟨0, 64, .ro⟩]
  | .energyCoef => [⟨0, 32, .rw⟩]
  | .islandStretch => [⟨0, 64, .ro⟩]
  | .bootStatus => [⟨0, 4, .ro⟩, ⟨4, 1, .ro⟩, ⟨5, 1, .ro⟩, ⟨6, 1, .ro⟩, ⟨7, 1, .ro⟩, ⟨8, 1, .ro⟩, ⟨9, 1, .ro⟩]
  | .resetCmd => [⟨0, 2, .wo⟩, ⟨2, 6, .wo⟩, ⟨8, 1, .wo⟩, ⟨16, 16, .wo⟩]
  | .resetStatus => [⟨0, 1, .ro⟩, ⟨1, 1, .w1c⟩, ⟨2, 3, .ro⟩]
  | .resetCause => [⟨0, 3, .ro⟩, ⟨16, 16, .ro⟩]
  | .bootStamp => [⟨0, 64, .ro⟩]
  | .hbmTrain => [⟨0, 2, .ro⟩, ⟨2, 2, .ro⟩, ⟨4, 1, .ro⟩, ⟨8, 16, .ro⟩]
  | .mgmtId => [⟨0, 32, .ro⟩]
  | .mgmtStatus => [⟨0, 1, .ro⟩, ⟨1, 1, .ro⟩, ⟨2, 8, .ro⟩, ⟨10, 1, .ro⟩]
  | .thermStatus => [⟨0, 8, .ro⟩, ⟨8, 2, .ro⟩, ⟨10, 1, .ro⟩]

/-- The bits of a register that some field of its table holds; every other bit is reserved and reads zero (R9). -/
def RegName.mask (n : RegName) : Nat := n.fields.foldl (fun m f => m ||| (2 ^ f.width - 1) * 2 ^ f.lo) 0

/-- Policy of item kind `k` at reset (Table 18-4): threshold, window, recover_en, recover_limit. -/
def policyReset (k : Nat) : Nat :=
  if k ≤ 3 ∨ k = 11 then 1 + 64 * 2 ^ 4 + 1 * 2 ^ 16 + 3 * 2 ^ 17
  else if k = 9 then 2 + 1024 * 2 ^ 4
  else if k = 13 ∨ k = 14 then 3 + 64 * 2 ^ 4 + 1 * 2 ^ 16 + 15 * 2 ^ 17
  else 1 + 64 * 2 ^ 4

/-- Health weights at reset (Table 18-12). -/
def healthWeightReset : Nat → Nat
  | 0 => 1 | 1 => 64 | 2 => 4096 | 3 => 256 | 4 => 512 | _ => 0

/-- Energy coefficients at reset (Table 19-4), in picojoules. -/
def energyCoefReset : Nat → Nat
  | 0 => 2060 | 1 => 500 | 2 => 3000 | 3 => 150 | 4 => 47 | 5 => 1000 | 6 => 1125 | 7 => 1600 | 8 => 640 | 9 => 640 | _ => 0

/-- Reset value of register `n`, number `i` (its Reset column, R11); fields marked fuse or cal take the
constants of Config. -/
def RegName.resetVal (n : RegName) (i : Nat) : Nat :=
  match n with
  | .jetSpare => Config.fuseUsed i % 256 + min (Config.fuseBudget i) 2 * 256
  | .jetSpareRowMap => Config.fuseRowMap i
  | .jetSpareColMap => Config.fuseColMap i
  | .ppLat => Config.calLat i
  | .mgmtId => Config.fuseEnterprise
  | .policy => policyReset i
  | .healthWeight => healthWeightReset i
  | .energyCoef => energyCoefReset i
  | .basinGated => 2 ^ 64 - 1
  | .deviceId => 1206501648
  | .terraceState => 65280
  | .basinState => 1024
  | .sliceViolMask => 3
  | .schedCtrl => 128
  | .schedQuantum => 983040
  | .schedShare => 1
  | .timeCtrl => 1
  | .timeStatus => 16
  | .timeRateMax => 20000
  | .timeServo => 1537
  | .timeLock => 65536020
  | .timeStepNs => 1000
  | .timeHoldover => 256
  | .trkCfg => 24768
  | .ppCtrl => 6336
  | .outFrac => 65536
  | .ethOverhead => 20
  | .ethSrcTc => 1894
  | .tcCfg => 65536
  | .tcQlimit => 262144
  | .aqdLifetime => 98304
  | .aqdMargin => 2048
  | .aqdRetryInt => 24576
  | .aqdQueryMax => 4
  | .detMask => 63
  | .spwCtrl => 2354236
  | .spwQuiet => 1024
  | .healthEpoch => 4096
  | .healthCapacity => 139859083392
  | .pwrCtrl => 18
  | .fixedStep => 15
  | .capFloor => 3
  | .slewCfg => 8388672
  | .slewTokens => 128
  | .rampDown => 256
  | _ => 0

/-- A row of the address map: where number `i` of a register lies. The number is taken apart over the dimensions
(count, stride), outermost first, after `first` is taken off. -/
structure RegPlace where
  reg : RegName
  first : Nat
  base : Nat
  dims : List (Nat × Nat)
  deriving DecidableEq, Repr

/-- Address map, part 1 (R36, R37 and the register tables of the chapters). -/
def regPlaces1 : List RegPlace := [
  ⟨.deviceId, 0, 0x0, []⟩,
  ⟨.terraceState, 0, 0x2000000, [(8, 0x400000)]⟩,
  ⟨.basinState, 0, 0x2100000, [(8, 0x400000), (8, 0x40000)]⟩,
  ⟨.jetStatus, 0, 0x2104000, [(8, 0x400000), (8, 0x40000), (2, 0x4000)]⟩,
  ⟨.jetTileTag, 0, 0x2104004, [(8, 0x400000), (8, 0x40000), (2, 0x4000)]⟩,
  ⟨.jetSpare, 0, 0x2104010, [(8, 0x400000), (8, 0x40000), (2, 0x4000)]⟩,
  ⟨.jetSpareRowMap, 0, 0x2104014, [(8, 0x400000), (8, 0x40000), (2, 0x4000)]⟩,
  ⟨.jetSpareColMap, 0, 0x2104018, [(8, 0x400000), (8, 0x40000), (2, 0x4000)]⟩,
  ⟨.jetFieldRemap, 0, 0x2104020, [(8, 0x400000), (8, 0x40000), (2, 0x4000)]⟩,
  ⟨.jetResidue, 0, 0x2104030, [(8, 0x400000), (8, 0x40000), (2, 0x4000)]⟩,
  ⟨.jetStreamCycles, 0, 0x2104040, [(8, 0x400000), (8, 0x40000), (2, 0x4000)]⟩,
  ⟨.jetBubbleCycles, 0, 0x2104048, [(8, 0x400000), (8, 0x40000), (2, 0x4000)]⟩,
  ⟨.jetReloads, 0, 0x2104050, [(8, 0x400000), (8, 0x40000), (2, 0x4000)]⟩,
  ⟨.cisternPart, 0, 0x2100100, [(8, 0x400000), (8, 0x40000)]⟩,
  ⟨.cisternStalls, 0, 0x2100108, [(8, 0x400000), (8, 0x40000)]⟩,
  ⟨.cisternSteals, 0, 0x2100110, [(8, 0x400000), (8, 0x40000)]⟩,
  ⟨.memEcc, 0, 0x2100114, [(8, 0x400000), (8, 0x40000)]⟩,
  ⟨.runnelStatus, 0, 0x2110000, [(8, 0x400000), (8, 0x40000)]⟩,
  ⟨.runnelTag, 0, 0x2110004, [(8, 0x400000), (8, 0x40000)]⟩,
  ⟨.runnelRows, 0, 0x2110040, [(8, 0x400000), (8, 0x40000)]⟩,
  ⟨.runnelProRows, 0, 0x2110048, [(8, 0x400000), (8, 0x40000)]⟩,
  ⟨.runnelDropped, 0, 0x2110050, [(8, 0x400000), (8, 0x40000)]⟩,
  ⟨.runnelOvf, 0, 0x2110058, [(8, 0x400000), (8, 0x40000)]⟩,
  ⟨.rillStatus, 0, 0x210C000, [(8, 0x400000), (8, 0x40000)]⟩,
  ⟨.rillTileTag, 0, 0x210C004, [(8, 0x400000), (8, 0x40000)]⟩,
  ⟨.rillResidue, 0, 0x210C030, [(8, 0x400000), (8, 0x40000)]⟩,
  ⟨.rillComputeCycles, 0, 0x210C040, [(8, 0x400000), (8, 0x40000)]⟩,
  ⟨.rillFetchWait, 0, 0x210C048, [(8, 0x400000), (8, 0x40000)]⟩,
  ⟨.rillFetchBytes, 0, 0x210C050, [(8, 0x400000), (8, 0x40000)]⟩,
  ⟨.rillReuses, 0, 0x210C058, [(8, 0x400000), (8, 0x40000)]⟩,
  ⟨.rillLaneReloads, 0, 0x210C05C, [(8, 0x400000), (8, 0x40000)]⟩,
  ⟨.cascadeStatus, 0, 0x20C0000, [(8, 0x400000)]⟩,
  ⟨.cascadeTileTag, 0, 0x20C0004, [(8, 0x400000)]⟩,
  ⟨.cascadeResidue, 0, 0x20C0030, [(8, 0x400000)]⟩,
  ⟨.cascadeBusyCycles, 0, 0x20C0040, [(8, 0x400000)]⟩,
  ⟨.cascadeFetchWait, 0, 0x20C0048, [(8, 0x400000)]⟩,
  ⟨.cascadeFetchBytes, 0, 0x20C0050, [(8, 0x400000)]⟩,
  ⟨.cascadeRescales, 0, 0x20C0058, [(8, 0x400000)]⟩,
  ⟨.cascadeCutoffs, 0, 0x20C005C, [(8, 0x400000)]⟩,
  ⟨.cascadeEmptyRows, 0, 0x20C0060, [(8, 0x400000)]⟩,
  ⟨.serveKvptBase, 0, 0xF00000, []⟩,
  ⟨.serveBackingBase, 0, 0xF00008, []⟩,
  ⟨.serveCtrl, 0, 0xF00010, []⟩,
  ⟨.serveStatus, 0, 0xF00014, []⟩,
  ⟨.serveBacked, 0, 0xF00018, []⟩]

/-- Address map, part 2 (R36, R37 and the register tables of the chapters). -/
def regPlaces2 : List RegPlace := [
  ⟨.serveTokens, 0, 0xF00020, []⟩,
  ⟨.serveWasted, 0, 0xF00028, []⟩,
  ⟨.serveAccepted, 0, 0xF00030, []⟩,
  ⟨.servePageOps, 0, 0xF00038, []⟩,
  ⟨.freelistBase, 0, 0x1008000, [(128, 0x10000), (3, 0x10)]⟩,
  ⟨.freelistCap, 0, 0x1008008, [(128, 0x10000), (3, 0x10)]⟩,
  ⟨.freelistCount, 0, 0x100800C, [(128, 0x10000), (3, 0x10)]⟩,
  ⟨.descents, 0, 0x1008030, [(128, 0x10000)]⟩,
  ⟨.tokringBase, 0, 0x1008040, [(128, 0x10000)]⟩,
  ⟨.tokringSize, 0, 0x1008048, [(128, 0x10000)]⟩,
  ⟨.tokringHead, 0, 0x100804C, [(128, 0x10000)]⟩,
  ⟨.tokringTail, 0, 0x1008050, [(128, 0x10000)]⟩,
  ⟨.wcLimit, 0, 0x2114000, [(8, 0x400000), (8, 0x40000)]⟩,
  ⟨.wcLease, 0, 0x2114004, [(8, 0x400000), (8, 0x40000)]⟩,
  ⟨.wcNext, 0, 0x2114008, [(8, 0x400000), (8, 0x40000)]⟩,
  ⟨.wcDoneCount, 0, 0x211400C, [(8, 0x400000), (8, 0x40000)]⟩,
  ⟨.wcReissues, 0, 0x2114010, [(8, 0x400000), (8, 0x40000)]⟩,
  ⟨.wcHeld, 0, 0x2114014, [(8, 0x400000), (8, 0x40000)]⟩,
  ⟨.issueStatus, 0, 0x2114018, [(8, 0x400000), (8, 0x40000)]⟩,
  ⟨.semValue, 0, 0x2114100, [(8, 0x400000), (8, 0x40000), (32, 0x4)]⟩,
  ⟨.semHolder, 0, 0x2114200, [(8, 0x400000), (8, 0x40000), (32, 0x4)]⟩,
  ⟨.coreStatus, 0, 0x2120000, [(8, 0x400000), (8, 0x40000), (8, 0x4000)]⟩,
  ⟨.corePc, 0, 0x2120008, [(8, 0x400000), (8, 0x40000), (8, 0x4000)]⟩,
  ⟨.coreCause, 0, 0x2120010, [(8, 0x400000), (8, 0x40000), (8, 0x4000)]⟩,
  ⟨.coreInstret, 0, 0x2120018, [(8, 0x400000), (8, 0x40000), (8, 0x4000)]⟩,
  ⟨.sqBase, 0, 0xE10000, [(1024, 0x40)]⟩,
  ⟨.sqBase, 1024, 0xE02000, [(4, 0x40)]⟩,
  ⟨.sqSize, 0, 0xE10008, [(1024, 0x40)]⟩,
  ⟨.sqSize, 1024, 0xE02008, [(4, 0x40)]⟩,
  ⟨.sqHead, 0, 0xE1000C, [(1024, 0x40)]⟩,
  ⟨.sqHead, 1024, 0xE0200C, [(4, 0x40)]⟩,
  ⟨.sqTail, 0, 0xE10010, [(1024, 0x40)]⟩,
  ⟨.sqTail, 1024, 0xE02010, [(4, 0x40)]⟩,
  ⟨.cqBase, 0, 0xE10018, [(1024, 0x40)]⟩,
  ⟨.cqBase, 1024, 0xE02018, [(4, 0x40)]⟩,
  ⟨.cqSize, 0, 0xE10020, [(1024, 0x40)]⟩,
  ⟨.cqSize, 1024, 0xE02020, [(4, 0x40)]⟩,
  ⟨.cqHead, 0, 0xE10024, [(1024, 0x40)]⟩,
  ⟨.cqHead, 1024, 0xE02024, [(4, 0x40)]⟩,
  ⟨.cqTail, 0, 0xE10028, [(1024, 0x40)]⟩,
  ⟨.cqTail, 1024, 0xE02028, [(4, 0x40)]⟩,
  ⟨.ringCtrl, 0, 0xE1002C, [(1024, 0x40)]⟩,
  ⟨.ringCtrl, 1024, 0xE0202C, [(4, 0x40)]⟩,
  ⟨.ringStatus, 0, 0xE10030, [(1024, 0x40)]⟩,
  ⟨.ringStatus, 1024, 0xE02030, [(4, 0x40)]⟩]

/-- Address map, part 3 (R36, R37 and the register tables of the chapters). -/
def regPlaces3 : List RegPlace := [
  ⟨.ringCmd, 0, 0xE10034, [(1024, 0x40)]⟩,
  ⟨.ringCmd, 1024, 0xE02034, [(4, 0x40)]⟩,
  ⟨.ringLastEnd, 0, 0xE10038, [(1024, 0x40)]⟩,
  ⟨.ringLastEnd, 1024, 0xE02038, [(4, 0x40)]⟩,
  ⟨.sluiceStatus, 0, 0xE00000, []⟩,
  ⟨.timeoutRaces, 0, 0xE00004, []⟩,
  ⟨.packets, 0, 0xE00008, []⟩,
  ⟨.mringDoorbell, 0, 0xE01000, [(4, 0x100)]⟩,
  ⟨.sliceCounter, 0, 0xE40000, [(128, 0x200), (64, 0x8)]⟩,
  ⟨.sliceCtrl, 0, 0x1000000, [(128, 0x10000)]⟩,
  ⟨.slicePasid, 0, 0x1000004, [(128, 0x10000)]⟩,
  ⟨.sliceStatus, 0, 0x1000008, [(128, 0x10000)]⟩,
  ⟨.sliceCmd, 0, 0x100000C, [(128, 0x10000)]⟩,
  ⟨.sliceViolMask, 0, 0x1000010, [(128, 0x10000)]⟩,
  ⟨.sliceViol, 0, 0x1000014, [(128, 0x10000)]⟩,
  ⟨.sliceViolAddr, 0, 0x1000018, [(128, 0x10000)]⟩,
  ⟨.sliceViolStamp, 0, 0x1000020, [(128, 0x10000)]⟩,
  ⟨.sliceBasins, 0, 0x1000028, [(128, 0x10000)]⟩,
  ⟨.keyCmd, 0, 0x1000240, [(128, 0x10000)]⟩,
  ⟨.keyStatus, 0, 0x1000244, [(128, 0x10000)]⟩,
  ⟨.acctJetCycles, 0, 0x1000300, [(128, 0x10000)]⟩,
  ⟨.acctRillCycles, 0, 0x1000308, [(128, 0x10000)]⟩,
  ⟨.acctCascadeCycles, 0, 0x1000310, [(128, 0x10000)]⟩,
  ⟨.acctRunnelCycles, 0, 0x1000318, [(128, 0x10000)]⟩,
  ⟨.acctSpoutCycles, 0, 0x1000320, [(128, 0x10000)]⟩,
  ⟨.acctSwitchCycles, 0, 0x1000328, [(128, 0x10000)]⟩,
  ⟨.acctHbmBytes, 0, 0x1000330, [(128, 0x10000)]⟩,
  ⟨.acctCxlBytes, 0, 0x1000338, [(128, 0x10000)]⟩,
  ⟨.acctAqdBytes, 0, 0x1000340, [(128, 0x10000)]⟩,
  ⟨.acctHostBytes, 0, 0x1000348, [(128, 0x10000)]⟩,
  ⟨.acctEnergyPj, 0, 0x1000350, [(128, 0x10000)]⟩,
  ⟨.acctCommands, 0, 0x1000358, [(128, 0x10000)]⟩,
  ⟨.memRangeBase, 0, 0x1000100, [(128, 0x10000), (8, 0x10)]⟩,
  ⟨.memRangeLast, 0, 0x1000108, [(128, 0x10000), (8, 0x10)]⟩,
  ⟨.keyData, 0, 0x1000200, [(128, 0x10000), (16, 0x4)]⟩,
  ⟨.schedCtrl, 0, 0xE03000, []⟩,
  ⟨.schedQuantum, 0, 0xE03004, []⟩,
  ⟨.schedV, 0, 0xE03100, [(8, 0x8)]⟩,
  ⟨.schedShare, 0, 0x1004000, [(128, 0x10000)]⟩,
  ⟨.schedMark, 0, 0x1004004, [(128, 0x10000)]⟩,
  ⟨.schedCir, 0, 0x1004008, [(128, 0x10000)]⟩,
  ⟨.schedPir, 0, 0x100400C, [(128, 0x10000)]⟩,
  ⟨.schedCbs, 0, 0x1004010, [(128, 0x10000)]⟩,
  ⟨.schedPbs, 0, 0x1004014, [(128, 0x10000)]⟩,
  ⟨.schedTc, 0, 0x1004018, [(128, 0x10000)]⟩]

/-- Address map, part 4 (R36, R37 and the register tables of the chapters). -/
def regPlaces4 : List RegPlace := [
  ⟨.schedTp, 0, 0x100401C, [(128, 0x10000)]⟩,
  ⟨.schedEffTier, 0, 0x1004020, [(128, 0x10000)]⟩,
  ⟨.schedSaved, 0, 0x1004028, [(128, 0x10000)]⟩,
  ⟨.schedGreen, 0, 0x1004040, [(128, 0x10000)]⟩,
  ⟨.schedYellow, 0, 0x1004048, [(128, 0x10000)]⟩,
  ⟨.schedRed, 0, 0x1004050, [(128, 0x10000)]⟩,
  ⟨.schedSaves, 0, 0x1004058, [(128, 0x10000)]⟩,
  ⟨.schedRestores, 0, 0x100405C, [(128, 0x10000)]⟩,
  ⟨.saveBase, 0, 0x1004100, [(128, 0x10000), (8, 0x8)]⟩,
  ⟨.gateStatus, 0, 0x2100200, [(8, 0x400000), (8, 0x40000)]⟩,
  ⟨.gatePeriod, 0, 0x2100204, [(8, 0x400000), (8, 0x40000)]⟩,
  ⟨.gateGuard, 0, 0x2100208, [(8, 0x400000), (8, 0x40000)]⟩,
  ⟨.gateCount, 0, 0x210020C, [(8, 0x400000), (8, 0x40000)]⟩,
  ⟨.gateBase, 0, 0x2100210, [(8, 0x400000), (8, 0x40000)]⟩,
  ⟨.gateNextOpen, 0, 0x2100218, [(8, 0x400000), (8, 0x40000)]⟩,
  ⟨.gateOverruns, 0, 0x2100220, [(8, 0x400000), (8, 0x40000)]⟩,
  ⟨.gateExtensions, 0, 0x2100224, [(8, 0x400000), (8, 0x40000)]⟩,
  ⟨.arbStatus, 0, 0x2100228, [(8, 0x400000), (8, 0x40000)]⟩,
  ⟨.arbTaken, 0, 0x2100230, [(8, 0x400000), (8, 0x40000)]⟩,
  ⟨.yields, 0, 0x2100238, [(8, 0x400000), (8, 0x40000)]⟩,
  ⟨.gateEntry, 0, 0x2100400, [(8, 0x400000), (8, 0x40000), (64, 0x8)]⟩,
  ⟨.radioCtrl, 0, 0x800000, []⟩,
  ⟨.radioStatus, 0, 0x800004, []⟩,
  ⟨.radioReserved, 0, 0x800008, []⟩,
  ⟨.radioStandby, 0, 0x800010, []⟩,
  ⟨.engineSpare, 0, 0x800018, []⟩,
  ⟨.harqBase, 0, 0x800020, []⟩,
  ⟨.harqSize, 0, 0x800028, []⟩,
  ⟨.planReject, 0, 0x800030, []⟩,
  ⟨.planRejectSlot, 0, 0x800038, []⟩,
  ⟨.engineFencedDec, 0, 0x800040, []⟩,
  ⟨.engineFencedEnc, 0, 0x800044, []⟩,
  ⟨.engineFencedFft, 0, 0x800048, []⟩,
  ⟨.plansAdmitted, 0, 0x800050, []⟩,
  ⟨.slotOverruns, 0, 0x800058, []⟩,
  ⟨.boundMisses, 0, 0x80005C, []⟩,
  ⟨.takeovers, 0, 0x800060, []⟩,
  ⟨.opsSkipped, 0, 0x800064, []⟩,
  ⟨.measRecords, 0, 0x800068, []⟩,
  ⟨.radioProtect, 0, 0x800100, [(64, 0x4)]⟩,
  ⟨.carCtrl, 0, 0x810000, [(192, 0x40)]⟩,
  ⟨.carPrb, 0, 0x810004, [(192, 0x40)]⟩,
  ⟨.carSlotBase, 0, 0x810008, [(192, 0x40)]⟩,
  ⟨.carUl, 0, 0x810010, [(192, 0x40)]⟩,
  ⟨.carDl, 0, 0x810014, [(192, 0x40)]⟩]

/-- Address map, part 5 (R36, R37 and the register tables of the chapters). -/
def regPlaces5 : List RegPlace := [
  ⟨.carBuf, 0, 0x810018, [(192, 0x40)]⟩,
  ⟨.carWin, 0, 0x81001C, [(192, 0x40)]⟩,
  ⟨.carShift, 0, 0x810020, [(192, 0x40)]⟩,
  ⟨.carStatus, 0, 0x810024, [(192, 0x40)]⟩,
  ⟨.carDropped, 0, 0x810028, [(192, 0x40)]⟩,
  ⟨.carGaps, 0, 0x81002C, [(192, 0x40)]⟩,
  ⟨.timeCtrl, 0, 0x100000, []⟩,
  ⟨.timeStatus, 0, 0x100004, []⟩,
  ⟨.timeCount, 0, 0x100008, []⟩,
  ⟨.timeRate, 0, 0x100010, []⟩,
  ⟨.timeRateI, 0, 0x100014, []⟩,
  ⟨.timeRateInit, 0, 0x100018, []⟩,
  ⟨.timeRateMax, 0, 0x10001C, []⟩,
  ⟨.timeServo, 0, 0x100020, []⟩,
  ⟨.timeLock, 0, 0x100024, []⟩,
  ⟨.timeStepNs, 0, 0x100028, []⟩,
  ⟨.timeHoldover, 0, 0x10002C, []⟩,
  ⟨.timeSteps, 0, 0x100040, []⟩,
  ⟨.timeOutliers, 0, 0x100044, []⟩,
  ⟨.synceFreq, 0, 0x100300, []⟩,
  ⟨.trkCfg, 0, 0x100100, [(2, 0x40)]⟩,
  ⟨.trkAsym, 0, 0x100104, [(2, 0x40)]⟩,
  ⟨.trkMaster, 0, 0x100108, [(2, 0x40)]⟩,
  ⟨.trkMasterPort, 0, 0x100110, [(2, 0x40)]⟩,
  ⟨.trkSelfPort, 0, 0x100114, [(2, 0x40)]⟩,
  ⟨.trkSelf, 0, 0x100118, [(2, 0x40)]⟩,
  ⟨.trkTheta, 0, 0x100120, [(2, 0x40)]⟩,
  ⟨.trkMpd, 0, 0x100128, [(2, 0x40)]⟩,
  ⟨.trkMeas, 0, 0x100130, [(2, 0x40)]⟩,
  ⟨.ppCtrl, 0, 0x100200, [(4, 0x40)]⟩,
  ⟨.ppPortnum, 0, 0x100204, [(4, 0x40)]⟩,
  ⟨.ppClockid, 0, 0x100208, [(4, 0x40)]⟩,
  ⟨.ppLat, 0, 0x100210, [(4, 0x40)]⟩,
  ⟨.ppTc, 0, 0x100214, [(4, 0x40)]⟩,
  ⟨.outCtrl, 0, 0x100400, [(8, 0x20)]⟩,
  ⟨.outStart, 0, 0x100408, [(8, 0x20)]⟩,
  ⟨.outPeriod, 0, 0x100410, [(8, 0x20)]⟩,
  ⟨.outFrac, 0, 0x100414, [(8, 0x20)]⟩,
  ⟨.outWidth, 0, 0x100418, [(8, 0x20)]⟩,
  ⟨.capCtrl, 0, 0x100600, [(4, 0x20)]⟩,
  ⟨.capMeta, 0, 0x100604, [(4, 0x20)]⟩,
  ⟨.capOpen, 0, 0x100608, [(4, 0x20)]⟩,
  ⟨.capClose, 0, 0x100610, [(4, 0x20)]⟩,
  ⟨.capStamp, 0, 0x100618, [(4, 0x20)]⟩,
  ⟨.launchCtrl, 0, 0x100700, [(4, 0x20)]⟩]

/-- Address map, part 6 (R36, R37 and the register tables of the chapters). -/
def regPlaces6 : List RegPlace := [
  ⟨.launchStatus, 0, 0x100704, [(4, 0x20)]⟩,
  ⟨.launchCount, 0, 0x100708, [(4, 0x20)]⟩,
  ⟨.launchFired, 0, 0x100710, [(4, 0x20)]⟩,
  ⟨.ethCtrl, 0, 0x200000, [(4, 0x40000)]⟩,
  ⟨.ethStatus, 0, 0x200004, [(4, 0x40000)]⟩,
  ⟨.ethOverhead, 0, 0x200008, [(4, 0x40000)]⟩,
  ⟨.ethSrcTc, 0, 0x20000C, [(4, 0x40000)]⟩,
  ⟨.gclCtrl, 0, 0x200010, [(4, 0x40000)]⟩,
  ⟨.gclCycle, 0, 0x200014, [(4, 0x40000)]⟩,
  ⟨.gclBase, 0, 0x200018, [(4, 0x40000)]⟩,
  ⟨.gclAct, 0, 0x200020, [(4, 0x40000)]⟩,
  ⟨.rxFrames, 0, 0x204000, [(4, 0x40000)]⟩,
  ⟨.txFrames, 0, 0x204008, [(4, 0x40000)]⟩,
  ⟨.rxErr, 0, 0x204010, [(4, 0x40000)]⟩,
  ⟨.rxUnmatched, 0, 0x204018, [(4, 0x40000)]⟩,
  ⟨.rxPause, 0, 0x204020, [(4, 0x40000)]⟩,
  ⟨.txDiscard, 0, 0x204028, [(4, 0x40000)]⟩,
  ⟨.txRed, 0, 0x204030, [(4, 0x40000)]⟩,
  ⟨.tcCfg, 0, 0x200100, [(4, 0x40000), (8, 0x20)]⟩,
  ⟨.tcCir, 0, 0x200104, [(4, 0x40000), (8, 0x20)]⟩,
  ⟨.tcPir, 0, 0x200108, [(4, 0x40000), (8, 0x20)]⟩,
  ⟨.tcCbs, 0, 0x20010C, [(4, 0x40000), (8, 0x20)]⟩,
  ⟨.tcPbs, 0, 0x200110, [(4, 0x40000), (8, 0x20)]⟩,
  ⟨.tcQlimit, 0, 0x200114, [(4, 0x40000), (8, 0x20)]⟩,
  ⟨.gclEntry, 0, 0x201000, [(4, 0x40000), (256, 0x4)]⟩,
  ⟨.fhMap, 0, 0x202000, [(4, 0x40000), (64, 0x10)]⟩,
  ⟨.fhMapHi, 0, 0x202008, [(4, 0x40000), (64, 0x10)]⟩,
  ⟨.fwd, 0, 0x203000, [(4, 0x40000), (256, 0x10)]⟩,
  ⟨.fwdHi, 0, 0x203008, [(4, 0x40000), (256, 0x10)]⟩,
  ⟨.mrxBase, 0, 0x300000, []⟩,
  ⟨.mrxSize, 0, 0x300008, []⟩,
  ⟨.mrxHead, 0, 0x30000C, []⟩,
  ⟨.mrxTail, 0, 0x300010, []⟩,
  ⟨.mrxDrop, 0, 0x300018, []⟩,
  ⟨.mtxBase, 0, 0x300020, []⟩,
  ⟨.mtxSize, 0, 0x300028, []⟩,
  ⟨.mtxHead, 0, 0x30002C, []⟩,
  ⟨.mtxTail, 0, 0x300030, []⟩,
  ⟨.aqdId, 0, 0x400000, []⟩,
  ⟨.aqdCtrl, 0, 0x400004, []⟩,
  ⟨.aqdLifetime, 0, 0x400008, []⟩,
  ⟨.aqdMargin, 0, 0x40000C, []⟩,
  ⟨.aqdRetryInt, 0, 0x400010, []⟩,
  ⟨.aqdQueryMax, 0, 0x400014, []⟩,
  ⟨.aqdRttBase, 0, 0x400018, []⟩]

/-- Address map, part 7 (R36, R37 and the register tables of the chapters). -/
def regPlaces7 : List RegPlace := [
  ⟨.aqdSettleBase, 0, 0x400020, []⟩,
  ⟨.aqdHarqJob, 0, 0x400028, []⟩,
  ⟨.aqdRefuseLast, 0, 0x400030, []⟩,
  ⟨.aqdIncarnation, 0, 0x400034, []⟩,
  ⟨.aqdRefused, 0, 0x400040, []⟩,
  ⟨.aqdExpired, 0, 0x400048, []⟩,
  ⟨.aqdRaces, 0, 0x400050, []⟩,
  ⟨.aqdCombined, 0, 0x400058, []⟩,
  ⟨.aqdDuplicates, 0, 0x400060, []⟩,
  ⟨.aqdStale, 0, 0x400068, []⟩,
  ⟨.aqdRetries, 0, 0x400070, []⟩,
  ⟨.aqdCreditWaits, 0, 0x400078, []⟩,
  ⟨.aqdBlocked, 0, 0x400080, []⟩,
  ⟨.aqpStatus, 0, 0x401000, [(8, 0x100)]⟩,
  ⟨.aqpNbr, 0, 0x401004, [(8, 0x100)]⟩,
  ⟨.aqpReplays, 0, 0x401008, [(8, 0x100)]⟩,
  ⟨.aqpTxBytes, 0, 0x401010, [(8, 0x100)]⟩,
  ⟨.aqpRxBytes, 0, 0x401018, [(8, 0x100)]⟩,
  ⟨.homeMap, 0, 0x420000, [(65536, 0x4)]⟩,
  ⟨.route, 0, 0x460000, [(4096, 0x4)]⟩,
  ⟨.aqdJob, 0, 0x470000, [(128, 0x4)]⟩,
  ⟨.aqdArrival, 0, 0x480000, [(4096, 0x8)]⟩,
  ⟨.aqdArrivalOwner, 0, 0x490000, [(4096, 0x4)]⟩,
  ⟨.detCtrl, 0, 0x100C000, [(128, 0x10000)]⟩,
  ⟨.detMask, 0, 0x100C004, [(128, 0x10000)]⟩,
  ⟨.detStep, 0, 0x100C008, [(128, 0x10000)]⟩,
  ⟨.detNondet, 0, 0x100C010, [(128, 0x10000)]⟩,
  ⟨.detLast, 0, 0x100C018, [(128, 0x10000)]⟩,
  ⟨.detLastStamp, 0, 0x100C020, [(128, 0x10000)]⟩,
  ⟨.detShadowStatus, 0, 0x100C100, [(128, 0x10000)]⟩,
  ⟨.detShadowCmd, 0, 0x100C104, [(128, 0x10000)]⟩,
  ⟨.detMatched, 0, 0x100C108, [(128, 0x10000)]⟩,
  ⟨.detUnmatched, 0, 0x100C110, [(128, 0x10000)]⟩,
  ⟨.detMismatchTag, 0, 0x100C118, [(128, 0x10000)]⟩,
  ⟨.detMismatchStep, 0, 0x100C11C, [(128, 0x10000)]⟩,
  ⟨.detMismatchOwn, 0, 0x100C120, [(128, 0x10000)]⟩,
  ⟨.detMismatchPeer, 0, 0x100C128, [(128, 0x10000)]⟩,
  ⟨.spwStatus, 0, 0xC00000, []⟩,
  ⟨.spwCtrl, 0, 0xC00004, []⟩,
  ⟨.spwCmd, 0, 0xC00008, []⟩,
  ⟨.spwMark, 0, 0xC0000C, []⟩,
  ⟨.spwCapInfo, 0, 0xC00010, []⟩,
  ⟨.spwCapStamp, 0, 0xC00018, []⟩,
  ⟨.spwCapSynd, 0, 0xC00020, []⟩,
  ⟨.logHead, 0, 0xC00030, []⟩]

/-- Address map, part 8 (R36, R37 and the register tables of the chapters). -/
def regPlaces8 : List RegPlace := [
  ⟨.logTail, 0, 0xC00034, []⟩,
  ⟨.fenceCmd, 0, 0xC00100, []⟩,
  ⟨.fenceArg, 0, 0xC00104, []⟩,
  ⟨.fenceStatus, 0, 0xC00108, []⟩,
  ⟨.spwQuiet, 0, 0xC00300, []⟩,
  ⟨.recoveries, 0, 0xC00304, []⟩,
  ⟨.recoverFails, 0, 0xC00308, []⟩,
  ⟨.siltStatus, 0, 0xC00400, []⟩,
  ⟨.healthEpoch, 0, 0xC00500, []⟩,
  ⟨.healthScore, 0, 0xC00518, []⟩,
  ⟨.healthCapacity, 0, 0xC00540, []⟩,
  ⟨.classCount, 0, 0xC00080, [(6, 0x8)]⟩,
  ⟨.policy, 0, 0xC00200, [(16, 0x4)]⟩,
  ⟨.healthWeight, 0, 0xC00504, [(5, 0x4)]⟩,
  ⟨.healthDecayed, 0, 0xC00520, [(5, 0x4)]⟩,
  ⟨.hbmWithdrawn, 0, 0xC00580, [(8, 0x4)]⟩,
  ⟨.pwrCtrl, 0, 0x1C00000, []⟩,
  ⟨.pwrStatus, 0, 0x1C00004, []⟩,
  ⟨.fixedStep, 0, 0x1C00008, []⟩,
  ⟨.capFloor, 0, 0x1C0000C, []⟩,
  ⟨.basinGateReq, 0, 0x1C00010, []⟩,
  ⟨.basinWakeReq, 0, 0x1C00018, []⟩,
  ⟨.basinGated, 0, 0x1C00020, []⟩,
  ⟨.basinWaking, 0, 0x1C00028, []⟩,
  ⟨.slewCfg, 0, 0x1C00040, []⟩,
  ⟨.slewTokens, 0, 0x1C00044, []⟩,
  ⟨.rampDown, 0, 0x1C00048, []⟩,
  ⟨.slewWaits, 0, 0x1C00050, []⟩,
  ⟨.stretchProt, 0, 0x1C00058, []⟩,
  ⟨.powerNow, 0, 0x1C00140, []⟩,
  ⟨.powerAvg, 0, 0x1C00144, []⟩,
  ⟨.energyMeter, 0, 0x1C00100, [(5, 0x8)]⟩,
  ⟨.energyCoef, 0, 0x1C00200, [(10, 0x4)]⟩,
  ⟨.islandStretch, 0, 0x1C01000, [(96, 0x8)]⟩,
  ⟨.bootStatus, 0, 0x100, []⟩,
  ⟨.resetCmd, 0, 0x108, []⟩,
  ⟨.resetStatus, 0, 0x10C, []⟩,
  ⟨.resetCause, 0, 0x110, []⟩,
  ⟨.bootStamp, 0, 0x140, [(7, 0x8)]⟩,
  ⟨.hbmTrain, 0, 0x180, [(8, 0x4)]⟩,
  ⟨.mgmtId, 0, 0x200, []⟩,
  ⟨.mgmtStatus, 0, 0x204, []⟩,
  ⟨.thermStatus, 0, 0x208, []⟩]

/-- The whole address map. -/
def regPlaces : List RegPlace :=
  regPlaces1 ++ regPlaces2 ++ regPlaces3 ++ regPlaces4 ++ regPlaces5 ++ regPlaces6 ++ regPlaces7 ++ regPlaces8

namespace Fld

/-- DEVICE_ID [3:0] RO: minor stepping. -/
def deviceIdSteppingMinor : Fld := ⟨.deviceId, 0, 4⟩
/-- DEVICE_ID [7:4] RO: major stepping. -/
def deviceIdSteppingMajor : Fld := ⟨.deviceId, 4, 4⟩
/-- DEVICE_ID [23:8] RO: Ebmusar E9, EB9-CH1200-L. -/
def deviceIdPartCode : Fld := ⟨.deviceId, 8, 16⟩
/-- DEVICE_ID [31:24] RO: Gulmor. -/
def deviceIdVendorCode : Fld := ⟨.deviceId, 24, 8⟩
/-- TERRACE_STATE [7:0] RO: bit b = 1: basin b is fenced. -/
def terraceStateBasinFenced : Fld := ⟨.terraceState, 0, 8⟩
/-- TERRACE_STATE [15:8] RO: bit b = 1: basin b is gated. -/
def terraceStateBasinGated : Fld := ⟨.terraceState, 8, 8⟩
/-- TERRACE_STATE [16:16] RO: controller 0 is trained and in service. -/
def terraceStateHbm0Ready : Fld := ⟨.terraceState, 16, 1⟩
/-- TERRACE_STATE [17:17] RO: controller 1 is trained and in service. -/
def terraceStateHbm1Ready : Fld := ⟨.terraceState, 17, 1⟩
/-- TERRACE_STATE [18:18] RO: the cascade is fenced. -/
def terraceStateCascadeFenced : Fld := ⟨.terraceState, 18, 1⟩
/-- TERRACE_STATE [19:19] RO: the terrace is fenced (R18). -/
def terraceStateTerraceFenced : Fld := ⟨.terraceState, 19, 1⟩
/-- TERRACE_STATE [20:20] RO: the terrace mesh clock is running. -/
def terraceStateMeshClockRun : Fld := ⟨.terraceState, 20, 1⟩
/-- BASIN_STATE [6:0] RO: slice that owns the basin (R22, R23). -/
def basinStateOwnerSlice : Fld := ⟨.basinState, 0, 7⟩
/-- BASIN_STATE [7:7] RO: 1: a radio window of the basin's gate list is open. -/
def basinStateRadioWindow : Fld := ⟨.basinState, 7, 1⟩
/-- BASIN_STATE [8:8] RO: 1: the basin is reserved to the radio outright. -/
def basinStateRadioReserved : Fld := ⟨.basinState, 8, 1⟩
/-- BASIN_STATE [9:9] RO: the basin is fenced. -/
def basinStateFenced : Fld := ⟨.basinState, 9, 1⟩
/-- BASIN_STATE [10:10] RO: the basin is gated. -/
def basinStateGated : Fld := ⟨.basinState, 10, 1⟩
/-- BASIN_STATE [11:11] RO: cistern and pool zeroing is in progress (R24, R25). -/
def basinStateZeroing : Fld := ⟨.basinState, 11, 1⟩
/-- BASIN_STATE [12:12] RO: J0 is fenced. -/
def basinStateJ0Fenced : Fld := ⟨.basinState, 12, 1⟩
/-- BASIN_STATE [13:13] RO: J1 is fenced. -/
def basinStateJ1Fenced : Fld := ⟨.basinState, 13, 1⟩
/-- BASIN_STATE [14:14] RO: the rill is fenced. -/
def basinStateRillFenced : Fld := ⟨.basinState, 14, 1⟩
/-- BASIN_STATE [15:15] RO: the runnel is fenced. -/
def basinStateRunnelFenced : Fld := ⟨.basinState, 15, 1⟩
/-- BASIN_STATE [23:16] RO: bit k = 1: spout core k is fenced. -/
def basinStateSpoutFenced : Fld := ⟨.basinState, 16, 8⟩
/-- BASIN_STATE [24:24] RO: a tile or spout-core task is executing. -/
def basinStateBusy : Fld := ⟨.basinState, 24, 1⟩
/-- JET_STATUS [0:0] RO: a tile or a load is in progress. -/
def jetStatusBusy : Fld := ⟨.jetStatus, 0, 1⟩
/-- JET_STATUS [1:1] RO: bank tag of the last row issued. -/
def jetStatusFrontTag : Fld := ⟨.jetStatus, 1, 1⟩
/-- JET_STATUS [2:2] RO: bank 0 is valid (R72). -/
def jetStatusBank0Valid : Fld := ⟨.jetStatus, 2, 1⟩
/-- JET_STATUS [3:3] RO: bank 1 is valid. -/
def jetStatusBank1Valid : Fld := ⟨.jetStatus, 3, 1⟩
/-- JET_STATUS [4:4] RO: the loader is writing a bank. -/
def jetStatusLoading : Fld := ⟨.jetStatus, 4, 1⟩
/-- JET_TILE_TAG [31:0] RO: tile_tag of the executing tile, or of the last tile when idle. -/
def jetTileTagTileTag : Fld := ⟨.jetTileTag, 0, 32⟩
/-- JET_SPARE [3:0] RO: bit k = 1: spare row k is assigned. -/
def jetSpareSpareRowUsed : Fld := ⟨.jetSpare, 0, 4⟩
/-- JET_SPARE [7:4] RO: bit k = 1: spare column k is assigned. -/
def jetSpareSpareColUsed : Fld := ⟨.jetSpare, 4, 4⟩
/-- JET_SPARE [9:8] RO: field remaps left, 0 to 2 (R83). -/
def jetSpareFieldBudget : Fld := ⟨.jetSpare, 8, 2⟩
/-- JET_SPARE [10:10] RO: a field fuse is being blown. -/
def jetSpareRemapBusy : Fld := ⟨.jetSpare, 10, 1⟩
/-- JET_SPARE_ROW_MAP [6:0] RO: logical row/column replaced by spare 0. -/
def jetSpareRowMapMap0 : Fld := ⟨.jetSpareRowMap, 0, 7⟩
/-- JET_SPARE_ROW_MAP [14:8] RO: logical row/column replaced by spare 1. -/
def jetSpareRowMapMap1 : Fld := ⟨.jetSpareRowMap, 8, 7⟩
/-- JET_SPARE_ROW_MAP [22:16] RO: logical row/column replaced by spare 2. -/
def jetSpareRowMapMap2 : Fld := ⟨.jetSpareRowMap, 16, 7⟩
/-- JET_SPARE_ROW_MAP [30:24] RO: logical row/column replaced by spare 3. -/
def jetSpareRowMapMap3 : Fld := ⟨.jetSpareRowMap, 24, 7⟩
/-- JET_SPARE_COL_MAP [6:0] RO: logical row/column replaced by spare 0. -/
def jetSpareColMapMap0 : Fld := ⟨.jetSpareColMap, 0, 7⟩
/-- JET_SPARE_COL_MAP [14:8] RO: logical row/column replaced by spare 1. -/
def jetSpareColMapMap1 : Fld := ⟨.jetSpareColMap, 8, 7⟩
/-- JET_SPARE_COL_MAP [22:16] RO: logical row/column replaced by spare 2. -/
def jetSpareColMapMap2 : Fld := ⟨.jetSpareColMap, 16, 7⟩
/-- JET_SPARE_COL_MAP [30:24] RO: logical row/column replaced by spare 3. -/
def jetSpareColMapMap3 : Fld := ⟨.jetSpareColMap, 24, 7⟩
/-- JET_FIELD_REMAP [6:0] WO: logical row or column to replace. -/
def jetFieldRemapIndex : Fld := ⟨.jetFieldRemap, 0, 7⟩
/-- JET_FIELD_REMAP [7:7] WO: 0: row; 1: column. -/
def jetFieldRemapKind : Fld := ⟨.jetFieldRemap, 7, 1⟩
/-- JET_FIELD_REMAP [31:16] WO: must be 0xF05E for the write to act. -/
def jetFieldRemapConfirm : Fld := ⟨.jetFieldRemap, 16, 16⟩
/-- JET_RESIDUE [15:0] RC: residue mismatches; saturates at 0xFFFF. -/
def jetResidueMismatchCount : Fld := ⟨.jetResidue, 0, 16⟩
/-- JET_RESIDUE [22:16] RO: logical column of the latest mismatch. -/
def jetResidueLastColumn : Fld := ⟨.jetResidue, 16, 7⟩
/-- JET_STREAM_CYCLES [63:0] RO: stream cycles: cpr cycles for each streamed row, the S of R78 summed over tiles. -/
def jetStreamCyclesStreamCycles : Fld := ⟨.jetStreamCycles, 0, 64⟩
/-- JET_BUBBLE_CYCLES [63:0] RO: cycles in which a queued tile waited on a load or a feeder stall (R78). -/
def jetBubbleCyclesBubbleCycles : Fld := ⟨.jetBubbleCycles, 0, 64⟩
/-- JET_RELOADS [31:0] RO: loads made by tiles with force_load 0 because the bank was not valid or its recorded extents differed from the tile's (R72); wraps. -/
def jetReloadsReloads : Fld := ⟨.jetReloads, 0, 32⟩
/-- CISTERN_PART [4:0] RW: cistern banks in the radio partition, 0 to 16 (R95, R96). -/
def cisternPartRadioBanks : Fld := ⟨.cisternPart, 0, 5⟩
/-- CISTERN_PART [14:8] RW: pool units of 1,024 words in the radio partition, 0 to 64. -/
def cisternPartRadioPoolUnits : Fld := ⟨.cisternPart, 8, 7⟩
/-- CISTERN_PART [16:16] RO: a repartition is zeroing (R96). -/
def cisternPartPartBusy : Fld := ⟨.cisternPart, 16, 1⟩
/-- CISTERN_STALLS [63:0] RO: cycles in which a request of classes 1–6 waited for a cistern bank, or a jet foot waited for a pool bank (R92, R99). -/
def cisternStallsStallCycles : Fld := ⟨.cisternStalls, 0, 64⟩
/-- CISTERN_STEALS [31:0] RO: cycles taken by a waiting class 7 or 8 request ahead of classes 1–6 (R94); wraps. -/
def cisternStealsSteals : Fld := ⟨.cisternSteals, 0, 32⟩
/-- MEM_ECC [15:0] RC: corrected single-bit errors in the cistern and pool; saturates at 0xFFFF. -/
def memEccCorrected : Fld := ⟨.memEcc, 0, 16⟩
/-- MEM_ECC [31:16] RC: uncorrected errors in the cistern and pool (R97); saturates at 0xFFFF. -/
def memEccUncorrected : Fld := ⟨.memEcc, 16, 16⟩
/-- RUNNEL_STATUS [0:0] RO: a lane holds a chain. -/
def runnelStatusBusy : Fld := ⟨.runnelStatus, 0, 1⟩
/-- RUNNEL_STATUS [1:1] RO: the J0 prologue lane is active. -/
def runnelStatusProJ0 : Fld := ⟨.runnelStatus, 1, 1⟩
/-- RUNNEL_STATUS [2:2] RO: the J1 prologue lane is active. -/
def runnelStatusProJ1 : Fld := ⟨.runnelStatus, 2, 1⟩
/-- RUNNEL_STATUS [3:3] RO: the epilogue lane serves a jet tile. -/
def runnelStatusEpiActive : Fld := ⟨.runnelStatus, 3, 1⟩
/-- RUNNEL_STATUS [4:4] RO: a runnel pass is executing. -/
def runnelStatusPassActive : Fld := ⟨.runnelStatus, 4, 1⟩
/-- RUNNEL_TAG [31:0] RO: tile_tag of the latest tile or pass whose chain was accepted. -/
def runnelTagTileTag : Fld := ⟨.runnelTag, 0, 32⟩
/-- RUNNEL_ROWS [63:0] RO: rows completed by epilogue lists and passes. -/
def runnelRowsEpiRows : Fld := ⟨.runnelRows, 0, 64⟩
/-- RUNNEL_PRO_ROWS [63:0] RO: rows completed by prologue lists. -/
def runnelProRowsProRows : Fld := ⟨.runnelProRows, 0, 64⟩
/-- RUNNEL_DROPPED [63:0] RO: elements zeroed by dropout (R120). -/
def runnelDroppedDropped : Fld := ⟨.runnelDropped, 0, 64⟩
/-- RUNNEL_OVF [15:0] RC: stage results that set convert_overflow (R114); saturates at 0xFFFF. -/
def runnelOvfOvfCount : Fld := ⟨.runnelOvf, 0, 16⟩
/-- RILL_STATUS [0:0] RO: a tile is executing. -/
def rillStatusBusy : Fld := ⟨.rillStatus, 0, 1⟩
/-- RILL_STATUS [1:1] RO: a weight fetch is in progress. -/
def rillStatusFetching : Fld := ⟨.rillStatus, 1, 1⟩
/-- RILL_STATUS [2:2] RO: buffer half 0 holds a tagged window (R134). -/
def rillStatusHalf0Valid : Fld := ⟨.rillStatus, 2, 1⟩
/-- RILL_STATUS [3:3] RO: buffer half 1 holds a tagged window. -/
def rillStatusHalf1Valid : Fld := ⟨.rillStatus, 3, 1⟩
/-- RILL_STATUS [4:4] RO: the lane stores are valid for keep_a. -/
def rillStatusLanesValid : Fld := ⟨.rillStatus, 4, 1⟩
/-- RILL_TILE_TAG [31:0] RO: tile_tag of the executing tile, or of the last tile when idle. -/
def rillTileTagTileTag : Fld := ⟨.rillTileTag, 0, 32⟩
/-- RILL_RESIDUE [15:0] RC: residue mismatches (R132); saturates at 0xFFFF. -/
def rillResidueMismatchCount : Fld := ⟨.rillResidue, 0, 16⟩
/-- RILL_RESIDUE [19:16] RO: token lane of the latest mismatch. -/
def rillResidueLastLane : Fld := ⟨.rillResidue, 16, 4⟩
/-- RILL_COMPUTE_CYCLES [63:0] RO: cycles in which weight groups entered the lanes. -/
def rillComputeCyclesComputeCycles : Fld := ⟨.rillComputeCycles, 0, 64⟩
/-- RILL_FETCH_WAIT [63:0] RO: cycles in which a queued tile waited for its fetch. -/
def rillFetchWaitFetchWait : Fld := ⟨.rillFetchWait, 0, 64⟩
/-- RILL_FETCH_BYTES [63:0] RO: weight and scale bytes fetched from HBM. -/
def rillFetchBytesFetchBytes : Fld := ⟨.rillFetchBytes, 0, 64⟩
/-- RILL_REUSES [31:0] RO: tiles served from a tagged half without a fetch; wraps. -/
def rillReusesReuses : Fld := ⟨.rillReuses, 0, 32⟩
/-- RILL_LANE_RELOADS [31:0] RO: tiles with keep_a 1 that found the lane stores invalid and loaded them (R134); wraps. -/
def rillLaneReloadsLaneReloads : Fld := ⟨.rillLaneReloads, 0, 32⟩
/-- CASCADE_STATUS [0:0] RO: a tile is executing. -/
def cascadeStatusBusy : Fld := ⟨.cascadeStatus, 0, 1⟩
/-- CASCADE_STATUS [1:1] RO: a KV fetch is in progress. -/
def cascadeStatusFetching : Fld := ⟨.cascadeStatus, 1, 1⟩
/-- CASCADE_STATUS [3:2] RO: op of the executing tile. -/
def cascadeStatusOp : Fld := ⟨.cascadeStatus, 2, 2⟩
/-- CASCADE_STATUS [6:4] RO: issuing basin of the executing or last tile. -/
def cascadeStatusBasin : Fld := ⟨.cascadeStatus, 4, 3⟩
/-- CASCADE_TILE_TAG [31:0] RO: tile_tag of the executing tile, or of the last tile when idle. -/
def cascadeTileTagTileTag : Fld := ⟨.cascadeTileTag, 0, 32⟩
/-- CASCADE_RESIDUE [15:0] RC: residue mismatches; saturates at 0xFFFF. -/
def cascadeResidueMismatchCount : Fld := ⟨.cascadeResidue, 0, 16⟩
/-- CASCADE_RESIDUE [16:16] RO: 0: score array; 1: product array. -/
def cascadeResidueLastArray : Fld := ⟨.cascadeResidue, 16, 1⟩
/-- CASCADE_BUSY_CYCLES [63:0] RO: cycles in which a tile executed. -/
def cascadeBusyCyclesBusyCycles : Fld := ⟨.cascadeBusyCycles, 0, 64⟩
/-- CASCADE_FETCH_WAIT [63:0] RO: cycles in which a queued tile waited for its fetch. -/
def cascadeFetchWaitFetchWait : Fld := ⟨.cascadeFetchWait, 0, 64⟩
/-- CASCADE_FETCH_BYTES [63:0] RO: KV bytes fetched. -/
def cascadeFetchBytesFetchBytes : Fld := ⟨.cascadeFetchBytes, 0, 64⟩
/-- CASCADE_RESCALES [31:0] RO: rises of M that shifted a state; wraps. -/
def cascadeRescalesRescales : Fld := ⟨.cascadeRescales, 0, 32⟩
/-- CASCADE_CUTOFFS [31:0] RO: weights set to zero by the cut-off of exp2_neg; wraps. -/
def cascadeCutoffsCutoffs : Fld := ⟨.cascadeCutoffs, 0, 32⟩
/-- CASCADE_EMPTY_ROWS [31:0] RO: rows finalised with has_key 0; wraps. -/
def cascadeEmptyRowsEmptyRows : Fld := ⟨.cascadeEmptyRows, 0, 32⟩
/-- SERVE_KVPT_BASE [43:0] RW: HBM address of the KV page table, multiple of 64 MiB. -/
def serveKvptBaseKvptBase : Fld := ⟨.serveKvptBase, 0, 44⟩
/-- SERVE_BACKING_BASE [43:0] RW: HBM address of the backing table, multiple of 128 MiB. -/
def serveBackingBaseBackingBase : Fld := ⟨.serveBackingBase, 0, 44⟩
/-- SERVE_CTRL [0:0] RW: 1: the session engine accepts serving commands; with 0 they complete with ST_SESSION_INVALID. -/
def serveCtrlEnable : Fld := ⟨.serveCtrl, 0, 1⟩
/-- SERVE_CTRL [1:1] RW: 1: the backing table is in use (R167). -/
def serveCtrlBackingEn : Fld := ⟨.serveCtrl, 1, 1⟩
/-- SERVE_STATUS [12:0] RO: on-chip descriptors not FREE, 0 to 4,096. -/
def serveStatusOnchipUsed : Fld := ⟨.serveStatus, 0, 13⟩
/-- SERVE_STATUS [13:13] RO: a serving command is executing. -/
def serveStatusBusy : Fld := ⟨.serveStatus, 13, 1⟩
/-- SERVE_BACKED [20:0] RO: backing entries not FREE. -/
def serveBackedBackedUsed : Fld := ⟨.serveBacked, 0, 21⟩
/-- SERVE_TOKENS [63:0] RO: token records delivered with a token. -/
def serveTokensTokens : Fld := ⟨.serveTokens, 0, 64⟩
/-- SERVE_WASTED [63:0] RO: rejected draft tokens (R181). -/
def serveWastedWasted : Fld := ⟨.serveWasted, 0, 64⟩
/-- SERVE_ACCEPTED [63:0] RO: accepted draft tokens. -/
def serveAcceptedAccepted : Fld := ⟨.serveAccepted, 0, 64⟩
/-- SERVE_PAGE_OPS [63:0] RO: page-table entries written. -/
def servePageOpsPageOps : Fld := ⟨.servePageOps, 0, 64⟩
/-- FREELIST_BASE(k) [43:0] RW: HBM address of the stack, multiple of 256, outside every slice's ranges. -/
def freelistBaseBase : Fld := ⟨.freelistBase, 0, 44⟩
/-- FREELIST_CAP(k) [22:0] RW: capacity in entries, 0 to 4,194,304. -/
def freelistCapCap : Fld := ⟨.freelistCap, 0, 23⟩
/-- FREELIST_COUNT(k) [22:0] RO: page numbers on the stack. -/
def freelistCountCount : Fld := ⟨.freelistCount, 0, 23⟩
/-- DESCENTS [31:0] RO: pages allocated from tier 1 or 2 (R173); wraps. -/
def descentsDescents : Fld := ⟨.descents, 0, 32⟩
/-- TOKRING_BASE [63:0] RW: I/O virtual address of the token ring under the slice's PASID, multiple of 4 KiB. -/
def tokringBaseBase : Fld := ⟨.tokringBase, 0, 64⟩
/-- TOKRING_SIZE [4:0] RW: ring of 2^log2_entries records, 4 to 20; other values stop delivery and STEP_END waits. -/
def tokringSizeLog2Entries : Fld := ⟨.tokringSize, 0, 5⟩
/-- TOKRING_HEAD [19:0] RO: next record index the device writes. -/
def tokringHeadHead : Fld := ⟨.tokringHead, 0, 20⟩
/-- TOKRING_TAIL [19:0] RW: next record index the host reads; the ring is full when head + 1 equals tail modulo the ring size. -/
def tokringTailTail : Fld := ⟨.tokringTail, 0, 20⟩
/-- WC_LIMIT [31:0] RO: wc_limit of the current or last task. -/
def wcLimitLimit : Fld := ⟨.wcLimit, 0, 32⟩
/-- WC_LEASE [31:0] RO: lease_counts of the current or last task. -/
def wcLeaseLease : Fld := ⟨.wcLease, 0, 32⟩
/-- WC_NEXT [31:0] RO: next fresh index. -/
def wcNextNext : Fld := ⟨.wcNext, 0, 32⟩
/-- WC_DONE [31:0] RO: indices completed in the current or last task. -/
def wcDoneCountDone : Fld := ⟨.wcDoneCount, 0, 32⟩
/-- WC_REISSUES [31:0] RO: returned indices handed out again; wraps. -/
def wcReissuesReissues : Fld := ⟨.wcReissues, 0, 32⟩
/-- WC_HELD [31:0] RO: indices leased and not completed. -/
def wcHeldHeld : Fld := ⟨.wcHeld, 0, 32⟩
/-- ISSUE_STATUS [15:0] RO: low 16 bits of the first failing status of a locally issued tile in the task (R203). -/
def issueStatusFirstFail : Fld := ⟨.issueStatus, 0, 16⟩
/-- ISSUE_STATUS [20:16] RO: descriptors in the issue queue, 0 to 16. -/
def issueStatusQueueDepth : Fld := ⟨.issueStatus, 16, 5⟩
/-- SEM_VALUE(i) [31:0] RO: value of semaphore i. -/
def semValueValue : Fld := ⟨.semValue, 0, 32⟩
/-- SEM_HOLDER(i) [9:0] RO: spout_id + 1 of the last acquirer; 0 after a signal or reset. -/
def semHolderHolder : Fld := ⟨.semHolder, 0, 10⟩
/-- SEM_HOLDER(i) [23:16] RO: cores blocked in sem.wait on semaphore i. -/
def semHolderWaiters : Fld := ⟨.semHolder, 16, 8⟩
/-- CORE_STATUS [1:0] RO: 0 idle; 1 running; 2 blocked in sem.wait; 3 saved. -/
def coreStatusState : Fld := ⟨.coreStatus, 0, 2⟩
/-- CORE_STATUS [2:2] RO: the core's last task part ended by an exception. -/
def coreStatusTrapped : Fld := ⟨.coreStatus, 2, 1⟩
/-- CORE_STATUS [3:3] RO: the core's last task part ended with a non-zero a0. -/
def coreStatusExitNonzero : Fld := ⟨.coreStatus, 3, 1⟩
/-- CORE_PC [63:0] RO: pc of the next instruction, or of the ending instruction when idle. -/
def corePcPc : Fld := ⟨.corePc, 0, 64⟩
/-- CORE_CAUSE [7:0] RO: RISC-V exception code of the last trap. -/
def coreCauseCause : Fld := ⟨.coreCause, 0, 8⟩
/-- CORE_INSTRET [63:0] RO: instructions retired. -/
def coreInstretInstret : Fld := ⟨.coreInstret, 0, 64⟩
/-- SQ_BASE [63:0] RW: I/O virtual address of slot 0, multiple of 4 KiB. -/
def sqBaseBase : Fld := ⟨.sqBase, 0, 64⟩
/-- SQ_SIZE [4:0] RW: 3 to 20; other values keep the ring from being enabled. -/
def sqSizeLog2Slots : Fld := ⟨.sqSize, 0, 5⟩
/-- SQ_HEAD [19:0] RO: next slot the sluice reads. -/
def sqHeadHead : Fld := ⟨.sqHead, 0, 20⟩
/-- SQ_TAIL [19:0] RO: last accepted doorbell value. -/
def sqTailTail : Fld := ⟨.sqTail, 0, 20⟩
/-- CQ_BASE [63:0] RW: I/O virtual address of entry 0, multiple of 4 KiB. -/
def cqBaseBase : Fld := ⟨.cqBase, 0, 64⟩
/-- CQ_SIZE [4:0] RW: 3 to 20. -/
def cqSizeLog2Entries : Fld := ⟨.cqSize, 0, 5⟩
/-- CQ_HEAD [19:0] RO: next entry the device writes. -/
def cqHeadHead : Fld := ⟨.cqHead, 0, 20⟩
/-- CQ_TAIL [19:0] RW: next entry the host reads. -/
def cqTailTail : Fld := ⟨.cqTail, 0, 20⟩
/-- RING_CTRL [0:0] RW: 1: the ring is served. -/
def ringCtrlEnable : Fld := ⟨.ringCtrl, 0, 1⟩
/-- RING_CTRL [1:1] RW: R228. -/
def ringCtrlHaltOnError : Fld := ⟨.ringCtrl, 1, 1⟩
/-- RING_CTRL [4:2] RW: scheduling tier 0–7; ignored for slice 0 and M rings. -/
def ringCtrlTier : Fld := ⟨.ringCtrl, 2, 3⟩
/-- RING_STATUS [0:0] RO: the ring is halted (R210, R228). -/
def ringStatusHalted : Fld := ⟨.ringStatus, 0, 1⟩
/-- RING_STATUS [1:1] RO: the head packet is a WAIT or FENCE in progress. -/
def ringStatusWaiting : Fld := ⟨.ringStatus, 1, 1⟩
/-- RING_STATUS [2:2] RO: dispatch stopped on a full completion ring (R208). -/
def ringStatusCqStalled : Fld := ⟨.ringStatus, 2, 1⟩
/-- RING_STATUS [31:16] RO: status code of the halt. -/
def ringStatusHaltCode : Fld := ⟨.ringStatus, 16, 16⟩
/-- RING_CMD [0:0] WO: 1: resume a halted ring (R211). -/
def ringCmdResume : Fld := ⟨.ringCmd, 0, 1⟩
/-- RING_LAST_END [63:0] RO: end count of the latest reply with dur_sat set. -/
def ringLastEndLastEnd : Fld := ⟨.ringLastEnd, 0, 64⟩
/-- SLUICE_STATUS [0:0] RO: the sluice accepts doorbells. -/
def sluiceStatusReady : Fld := ⟨.sluiceStatus, 0, 1⟩
/-- SLUICE_STATUS [11:1] RO: enabled rings with packets pending, 0 to 1,028. -/
def sluiceStatusRingsActive : Fld := ⟨.sluiceStatus, 1, 11⟩
/-- TIMEOUT_RACES [31:0] RO: timeouts recorded as not fired (R215); wraps. -/
def timeoutRacesRaces : Fld := ⟨.timeoutRaces, 0, 32⟩
/-- PACKETS [63:0] RO: packets dispatched; wraps. -/
def packetsPackets : Fld := ⟨.packets, 0, 64⟩
/-- MRING_DOORBELL [31:0] WO: doorbell of ring Mm (R207). -/
def mringDoorbellDoorbell : Fld := ⟨.mringDoorbell, 0, 32⟩
/-- SLICE_COUNTER(s, i) [63:0] RO: counter i of slice s (R220); zero after a slice reset. -/
def sliceCounterValue : Fld := ⟨.sliceCounter, 0, 64⟩
/-- SLICE_CTRL [0:0] RW: 1: bound (R230, R231). -/
def sliceCtrlEnable : Fld := ⟨.sliceCtrl, 0, 1⟩
/-- SLICE_PASID [19:0] RW: PASID of the slice. -/
def slicePasidPasid : Fld := ⟨.slicePasid, 0, 20⟩
/-- SLICE_PASID [20:20] RW: 1: pasid is in use. -/
def slicePasidPasidValid : Fld := ⟨.slicePasid, 20, 1⟩
/-- SLICE_STATUS [2:0] RO: 0 unbound; 1 active; 2 freezing; 3 frozen; 4 resetting. -/
def sliceStatusState : Fld := ⟨.sliceStatus, 0, 3⟩
/-- SLICE_STATUS [23:16] RO: violations since the last reset; saturates at 0xFF. -/
def sliceStatusViolCount : Fld := ⟨.sliceStatus, 16, 8⟩
/-- SLICE_STATUS [31:24] RO: reply writes refused (R244); saturates at 0xFF. -/
def sliceStatusRepliesLost : Fld := ⟨.sliceStatus, 24, 8⟩
/-- SLICE_CMD [0:0] WO: 1: start a slice reset (R246). -/
def sliceCmdReset : Fld := ⟨.sliceCmd, 0, 1⟩
/-- SLICE_CMD [1:1] WO: 1: squash mode; 0: drain mode. -/
def sliceCmdSquash : Fld := ⟨.sliceCmd, 1, 1⟩
/-- SLICE_VIOL_MASK [4:0] RW: freezing kinds (Table 11-2); RO 0 for slice 0. -/
def sliceViolMaskMask : Fld := ⟨.sliceViolMask, 0, 5⟩
/-- SLICE_VIOL [3:0] RO: bit number of the first violation, plus 1; 0: none. -/
def sliceViolKind : Fld := ⟨.sliceViol, 0, 4⟩
/-- SLICE_VIOL [31:16] RO: status code of the first violation's command, or of the packet whose ring read was refused (R234); 0 for a violation that involves no command: doorbell_pasid, and a refused reply write (R244). -/
def sliceViolCode : Fld := ⟨.sliceViol, 16, 16⟩
/-- SLICE_VIOL_ADDR [63:0] RO: address or doorbell page involved. -/
def sliceViolAddrAddr : Fld := ⟨.sliceViolAddr, 0, 64⟩
/-- SLICE_VIOL_STAMP [63:0] RO: common count of the violation. -/
def sliceViolStampStamp : Fld := ⟨.sliceViolStamp, 0, 64⟩
/-- SLICE_BASINS [63:0] RW: bit b = 1: global basin b is assigned (R219); a cleared bit refuses later dispatches and leaves started work running. -/
def sliceBasinsBasins : Fld := ⟨.sliceBasins, 0, 64⟩
/-- KEY_CMD [0:0] WO: 1: install KEY_DATA. -/
def keyCmdLoad : Fld := ⟨.keyCmd, 0, 1⟩
/-- KEY_CMD [1:1] WO: 1: erase the key while enable is 0. -/
def keyCmdErase : Fld := ⟨.keyCmd, 1, 1⟩
/-- KEY_STATUS [0:0] RO: a key is installed. -/
def keyStatusKeyValid : Fld := ⟨.keyStatus, 0, 1⟩
/-- KEY_STATUS [1:1] RO: the last load was refused. -/
def keyStatusKeyError : Fld := ⟨.keyStatus, 1, 1⟩
/-- KEY_STATUS [3:2] RO: cause of the last load: 0 accepted, or no load since reset; 1 K1 equals K2; 2 key in use by another slice. -/
def keyStatusCause : Fld := ⟨.keyStatus, 2, 2⟩
/-- ACCT_JET_CYCLES [63:0] RO: jet, rill, cascade, runnel, spout at +0x300, +0x308, +0x310, +0x318, +0x320. -/
def acctJetCyclesCycles : Fld := ⟨.acctJetCycles, 0, 64⟩
/-- ACCT_RILL_CYCLES [63:0] RO: . -/
def acctRillCyclesCycles : Fld := ⟨.acctRillCycles, 0, 64⟩
/-- ACCT_CASCADE_CYCLES [63:0] RO: . -/
def acctCascadeCyclesCycles : Fld := ⟨.acctCascadeCycles, 0, 64⟩
/-- ACCT_RUNNEL_CYCLES [63:0] RO: . -/
def acctRunnelCyclesCycles : Fld := ⟨.acctRunnelCycles, 0, 64⟩
/-- ACCT_SPOUT_CYCLES [63:0] RO: jet, rill, cascade, runnel, spout at +0x300, +0x308, +0x310, +0x318, +0x320. -/
def acctSpoutCyclesCycles : Fld := ⟨.acctSpoutCycles, 0, 64⟩
/-- ACCT_SWITCH_CYCLES [63:0] RO: R241. -/
def acctSwitchCyclesSwitch : Fld := ⟨.acctSwitchCycles, 0, 64⟩
/-- ACCT_HBM_BYTES [63:0] RO: HBM, CXL, aqueduct, host at +0x330, +0x338, +0x340, +0x348. -/
def acctHbmBytesBytes : Fld := ⟨.acctHbmBytes, 0, 64⟩
/-- ACCT_CXL_BYTES [63:0] RO: . -/
def acctCxlBytesBytes : Fld := ⟨.acctCxlBytes, 0, 64⟩
/-- ACCT_AQD_BYTES [63:0] RO: . -/
def acctAqdBytesBytes : Fld := ⟨.acctAqdBytes, 0, 64⟩
/-- ACCT_HOST_BYTES [63:0] RO: HBM, CXL, aqueduct, host at +0x330, +0x338, +0x340, +0x348. -/
def acctHostBytesBytes : Fld := ⟨.acctHostBytes, 0, 64⟩
/-- ACCT_ENERGY_PJ [63:0] RO: picojoules (R247). -/
def acctEnergyPjEnergy : Fld := ⟨.acctEnergyPj, 0, 64⟩
/-- ACCT_COMMANDS [63:0] RO: commands charged. -/
def acctCommandsCommands : Fld := ⟨.acctCommands, 0, 64⟩
/-- MEM_RANGE_BASE(r) [0:0] RW: the range is in force (R235). -/
def memRangeBaseEnable : Fld := ⟨.memRangeBase, 0, 1⟩
/-- MEM_RANGE_BASE(r) [43:21] RW: first 2 MiB region. -/
def memRangeBaseBase : Fld := ⟨.memRangeBase, 21, 23⟩
/-- MEM_RANGE_LAST(r) [43:21] RW: last 2 MiB region, inclusive. -/
def memRangeLastLast : Fld := ⟨.memRangeLast, 21, 23⟩
/-- KEY_DATA(i) [31:0] WO: key word i (R238). -/
def keyDataKeyWord : Fld := ⟨.keyData, 0, 32⟩
/-- SCHED_CTRL [15:0] RW: cost units added to every tenant packet (R251). -/
def schedCtrlOverhead : Fld := ⟨.schedCtrl, 0, 16⟩
/-- SCHED_QUANTUM [31:0] RW: counts an owner holds a basin against an equal-tier claimant (R258). -/
def schedQuantumQuantum : Fld := ⟨.schedQuantum, 0, 32⟩
/-- SCHED_V(k) [63:0] RO: virtual time of tier k (R252). -/
def schedVV : Fld := ⟨.schedV, 0, 64⟩
/-- SCHED_SHARE [15:0] RW: WFQ weight, 1 to 65,535 (R252, R254). -/
def schedShareWeight : Fld := ⟨.schedShare, 0, 16⟩
/-- SCHED_SHARE [16:16] RW: fixed-share mode (R259). -/
def schedShareFixedShare : Fld := ⟨.schedShare, 16, 1⟩
/-- SCHED_MARK [0:0] RW: 1: the marker acts (R255). -/
def schedMarkEnable : Fld := ⟨.schedMark, 0, 1⟩
/-- SCHED_MARK [1:1] RW: 1: ring pre-colours apply. -/
def schedMarkColourAware : Fld := ⟨.schedMark, 1, 1⟩
/-- SCHED_MARK [9:2] RW: bit q = 1: ring q's pre-colour is yellow; 0: green. -/
def schedMarkRingYellow : Fld := ⟨.schedMark, 2, 8⟩
/-- SCHED_CIR [31:0] RW: committed refill, cost units per 1,024 counts. -/
def schedCirCir : Fld := ⟨.schedCir, 0, 32⟩
/-- SCHED_PIR [31:0] RW: peak refill, cost units per 1,024 counts. -/
def schedPirPir : Fld := ⟨.schedPir, 0, 32⟩
/-- SCHED_CBS [31:0] RW: committed bucket size. -/
def schedCbsCbs : Fld := ⟨.schedCbs, 0, 32⟩
/-- SCHED_PBS [31:0] RW: peak bucket size. -/
def schedPbsPbs : Fld := ⟨.schedPbs, 0, 32⟩
/-- SCHED_TC [31:0] RO: committed bucket contents. -/
def schedTcTc : Fld := ⟨.schedTc, 0, 32⟩
/-- SCHED_TP [31:0] RO: peak bucket contents. -/
def schedTpTp : Fld := ⟨.schedTp, 0, 32⟩
/-- SCHED_EFF_TIER [23:0] RO: bits [3q+2:3q]: effective tier of ring q (R266). -/
def schedEffTierEffTier : Fld := ⟨.schedEffTier, 0, 24⟩
/-- SCHED_SAVED [63:0] RO: bit b = 1: saved state for global basin b (R264). -/
def schedSavedSaved : Fld := ⟨.schedSaved, 0, 64⟩
/-- SCHED_GREEN [63:0] RO: packets marked green. -/
def schedGreenGreen : Fld := ⟨.schedGreen, 0, 64⟩
/-- SCHED_YELLOW [63:0] RO: packets marked yellow. -/
def schedYellowYellow : Fld := ⟨.schedYellow, 0, 64⟩
/-- SCHED_RED [63:0] RO: packets marked red at least once. -/
def schedRedRed : Fld := ⟨.schedRed, 0, 64⟩
/-- SCHED_SAVES [31:0] RO: saves of the slice's jobs; wraps. -/
def schedSavesSaves : Fld := ⟨.schedSaves, 0, 32⟩
/-- SCHED_RESTORES [31:0] RO: restores of the slice's jobs; wraps. -/
def schedRestoresRestores : Fld := ⟨.schedRestores, 0, 32⟩
/-- SAVE_BASE(t) [0:0] RW: 1: save areas on terrace t's basins are in use (R261). -/
def saveBaseValid : Fld := ⟨.saveBase, 0, 1⟩
/-- SAVE_BASE(t) [43:24] RW: HBM address of the save area of basin 8t, in units of 16 MiB. -/
def saveBaseBase : Fld := ⟨.saveBase, 24, 20⟩
/-- GATE_STATUS [0:0] RO: a gate list is active. -/
def gateStatusActive : Fld := ⟨.gateStatus, 0, 1⟩
/-- GATE_STATUS [1:1] RO: a list waits for its act. -/
def gateStatusPending : Fld := ⟨.gateStatus, 1, 1⟩
/-- GATE_STATUS [2:2] RO: a guard band is in progress. -/
def gateStatusInGuard : Fld := ⟨.gateStatus, 2, 1⟩
/-- GATE_STATUS [3:3] RO: a radio window is open. -/
def gateStatusInWindow : Fld := ⟨.gateStatus, 3, 1⟩
/-- GATE_STATUS [4:4] RO: the current window runs past its close (R271). -/
def gateStatusExtended : Fld := ⟨.gateStatus, 4, 1⟩
/-- GATE_STATUS [5:5] RO: a tenant switch (R260) is in progress. -/
def gateStatusSwitching : Fld := ⟨.gateStatus, 5, 1⟩
/-- GATE_PERIOD [31:0] RO: period of the active list. -/
def gatePeriodPeriod : Fld := ⟨.gatePeriod, 0, 32⟩
/-- GATE_GUARD [31:0] RO: guard band of the active list in counts. -/
def gateGuardGuard : Fld := ⟨.gateGuard, 0, 32⟩
/-- GATE_COUNT [6:0] RO: entries of the active list. -/
def gateCountN : Fld := ⟨.gateCount, 0, 7⟩
/-- GATE_BASE [63:0] RO: base of the active list. -/
def gateBaseBase : Fld := ⟨.gateBase, 0, 64⟩
/-- GATE_NEXT_OPEN [63:0] RO: open of the next window in counts. -/
def gateNextOpenNextOpen : Fld := ⟨.gateNextOpen, 0, 64⟩
/-- GATE_OVERRUNS [31:0] RO: tenant work abandoned at an open (R272); wraps. -/
def gateOverrunsOverruns : Fld := ⟨.gateOverruns, 0, 32⟩
/-- GATE_EXTENSIONS [31:0] RO: windows extended past close; wraps. -/
def gateExtensionsExtensions : Fld := ⟨.gateExtensions, 0, 32⟩
/-- ARB_STATUS [2:0] RO: owner's effective tier on the basin (R257). -/
def arbStatusOwnerTier : Fld := ⟨.arbStatus, 0, 3⟩
/-- ARB_STATUS [3:3] RO: a claimant waits. -/
def arbStatusClaim : Fld := ⟨.arbStatus, 3, 1⟩
/-- ARB_STATUS [10:4] RO: slice of the winning claimant. -/
def arbStatusClaimant : Fld := ⟨.arbStatus, 4, 7⟩
/-- ARB_TAKEN [63:0] RO: count at which the owner last took the basin. -/
def arbTakenTaken : Fld := ⟨.arbTaken, 0, 64⟩
/-- YIELDS [31:0] RO: tenant yields of the basin; wraps. -/
def yieldsYields : Fld := ⟨.yields, 0, 32⟩
/-- GATE_ENTRY(i) [31:0] RO: open_i of the active list. -/
def gateEntryOpen : Fld := ⟨.gateEntry, 0, 32⟩
/-- GATE_ENTRY(i) [63:32] RO: close_i of the active list. -/
def gateEntryClose : Fld := ⟨.gateEntry, 32, 32⟩
/-- RADIO_CTRL [0:0] RW: 1: plans are admitted (R296). -/
def radioCtrlEnable : Fld := ⟨.radioCtrl, 0, 1⟩
/-- RADIO_STATUS [0:0] RO: the wellhead is trained and enabled. -/
def radioStatusReady : Fld := ⟨.radioStatus, 0, 1⟩
/-- RADIO_STATUS [17:1] RO: free plan-store entries, 0 to 65,536. -/
def radioStatusStoreFree : Fld := ⟨.radioStatus, 1, 17⟩
/-- RADIO_RESERVED [63:0] RW: bit b = 1: basin b is held by the radio (R280). -/
def radioReservedReserved : Fld := ⟨.radioReserved, 0, 64⟩
/-- RADIO_STANDBY [63:0] RW: bit b = 1: basin b is a standby. -/
def radioStandbyStandby : Fld := ⟨.radioStandby, 0, 64⟩
/-- ENGINE_SPARE [4:0] RW: spare LDPC decoder. -/
def engineSpareDecSpare : Fld := ⟨.engineSpare, 0, 5⟩
/-- ENGINE_SPARE [5:5] RW: spare LDPC decoder. -/
def engineSpareDecValid : Fld := ⟨.engineSpare, 5, 1⟩
/-- ENGINE_SPARE [11:8] RW: spare LDPC encoder. -/
def engineSpareEncSpare : Fld := ⟨.engineSpare, 8, 4⟩
/-- ENGINE_SPARE [12:12] RW: spare LDPC encoder. -/
def engineSpareEncValid : Fld := ⟨.engineSpare, 12, 1⟩
/-- ENGINE_SPARE [18:16] RW: spare polar unit. -/
def engineSparePolarSpare : Fld := ⟨.engineSpare, 16, 3⟩
/-- ENGINE_SPARE [19:19] RW: spare polar unit. -/
def engineSparePolarValid : Fld := ⟨.engineSpare, 19, 1⟩
/-- ENGINE_SPARE [27:24] RW: spare FFT/PRACH unit. -/
def engineSpareFftSpare : Fld := ⟨.engineSpare, 24, 4⟩
/-- ENGINE_SPARE [28:28] RW: spare FFT/PRACH unit. -/
def engineSpareFftValid : Fld := ⟨.engineSpare, 28, 1⟩
/-- HARQ_BASE [43:0] RW: device physical address, multiple of 2 MiB. -/
def harqBaseBase : Fld := ⟨.harqBase, 0, 44⟩
/-- HARQ_SIZE [13:0] RW: units of 2 MiB, 0 to 12,288. -/
def harqSizeSize : Fld := ⟨.harqSize, 0, 14⟩
/-- PLAN_REJECT [7:0] RO: carrier of the latest rejection. -/
def planRejectCarrier : Fld := ⟨.planReject, 0, 8⟩
/-- PLAN_REJECT [11:8] RO: Table 13-8. -/
def planRejectReason : Fld := ⟨.planReject, 8, 4⟩
/-- PLAN_REJECT [23:12] RO: failing operation index. -/
def planRejectOp : Fld := ⟨.planReject, 12, 12⟩
/-- PLAN_REJECT_SLOT [63:0] RO: slot_start of the latest rejection. -/
def planRejectSlotSlotStart : Fld := ⟨.planRejectSlot, 0, 64⟩
/-- ENGINE_FENCED_DEC [31:0] RO: bit i = 1: decoder i is fenced. -/
def engineFencedDecDec : Fld := ⟨.engineFencedDec, 0, 32⟩
/-- ENGINE_FENCED_ENC [15:0] RO: fenced LDPC encoders. -/
def engineFencedEncEnc : Fld := ⟨.engineFencedEnc, 0, 16⟩
/-- ENGINE_FENCED_ENC [23:16] RO: fenced polar units. -/
def engineFencedEncPolar : Fld := ⟨.engineFencedEnc, 16, 8⟩
/-- ENGINE_FENCED_FFT [15:0] RO: fenced FFT/PRACH units. -/
def engineFencedFftFft : Fld := ⟨.engineFencedFft, 0, 16⟩
/-- PLANS_ADMITTED [63:0] RO: plans admitted. -/
def plansAdmittedAdmitted : Fld := ⟨.plansAdmitted, 0, 64⟩
/-- SLOT_OVERRUNS [31:0] RO: R300; wraps. -/
def slotOverrunsOverruns : Fld := ⟨.slotOverruns, 0, 32⟩
/-- BOUND_MISSES [31:0] RO: R285; wraps. -/
def boundMissesMisses : Fld := ⟨.boundMisses, 0, 32⟩
/-- TAKEOVERS [31:0] RO: R298; wraps. -/
def takeoversTakeovers : Fld := ⟨.takeovers, 0, 32⟩
/-- OPS_SKIPPED [31:0] RO: R300; wraps. -/
def opsSkippedSkipped : Fld := ⟨.opsSkipped, 0, 32⟩
/-- MEAS_RECORDS [31:0] RO: measurement records written; wraps. -/
def measRecordsRecords : Fld := ⟨.measRecords, 0, 32⟩
/-- RADIO_PROTECT(b) [5:0] RW: standby of basin b. -/
def radioProtectStandby : Fld := ⟨.radioProtect, 0, 6⟩
/-- RADIO_PROTECT(b) [6:6] RW: 1: basin b is protected. -/
def radioProtectValid : Fld := ⟨.radioProtect, 6, 1⟩
/-- RADIO_PROTECT(b) [13:8] RO: basin that serves b's operations; b when no takeover. -/
def radioProtectAlias : Fld := ⟨.radioProtect, 8, 6⟩
/-- RADIO_PROTECT(b) [14:14] RO: a takeover of b has occurred. -/
def radioProtectTakenOver : Fld := ⟨.radioProtect, 14, 1⟩
/-- CAR_CTRL [0:0] RW: the carrier is served (R276). -/
def carCtrlEnable : Fld := ⟨.carCtrl, 0, 1⟩
/-- CAR_CTRL [2:1] RW: numerology (Table 13-1). -/
def carCtrlMu : Fld := ⟨.carCtrl, 1, 2⟩
/-- CAR_CTRL [8:3] RW: antenna ports minus 1. -/
def carCtrlNAntM1 : Fld := ⟨.carCtrl, 3, 6⟩
/-- CAR_CTRL [10:9] RW: Ethernet port. -/
def carCtrlEthPort : Fld := ⟨.carCtrl, 9, 2⟩
/-- CAR_CTRL [15:11] RW: downlink iqWidth, 8 to 16. -/
def carCtrlIqWidth : Fld := ⟨.carCtrl, 11, 5⟩
/-- CAR_CTRL [19:16] RW: intake basins: 1, 2, 4 or 8. -/
def carCtrlUlBasins : Fld := ⟨.carCtrl, 16, 4⟩
/-- CAR_CTRL [24:20] RW: symbol buffers, 1 to 28. -/
def carCtrlRingSyms : Fld := ⟨.carCtrl, 20, 5⟩
/-- CAR_PRB [8:0] RW: physical resource blocks. -/
def carPrbNPrb : Fld := ⟨.carPrb, 0, 9⟩
/-- CAR_PRB [31:16] RW: antenna a uses eAxC ID eaxc_base + a. -/
def carPrbEaxcBase : Fld := ⟨.carPrb, 16, 16⟩
/-- CAR_SLOT_BASE [63:0] RW: common count of slot 0. -/
def carSlotBaseSlotBase : Fld := ⟨.carSlotBase, 0, 64⟩
/-- CAR_UL [5:0] RW: first intake basin. -/
def carUlUlBasin : Fld := ⟨.carUl, 0, 6⟩
/-- CAR_UL [29:6] RW: intake buffer, multiple of 64. -/
def carUlUlAddr : Fld := ⟨.carUl, 6, 24⟩
/-- CAR_DL [5:0] RW: emission basin. -/
def carDlDlBasin : Fld := ⟨.carDl, 0, 6⟩
/-- CAR_DL [29:6] RW: emission buffer, multiple of 64. -/
def carDlDlAddr : Fld := ⟨.carDl, 6, 24⟩
/-- CAR_BUF [23:0] RW: bytes between symbol buffers, multiple of 64. -/
def carBufSymStride : Fld := ⟨.carBuf, 0, 24⟩
/-- CAR_WIN [15:0] RW: counts from symbol start (R277). -/
def carWinWinOpen : Fld := ⟨.carWin, 0, 16⟩
/-- CAR_WIN [31:16] RW: counts from symbol start; above win_open. -/
def carWinWinClose : Fld := ⟨.carWin, 16, 16⟩
/-- CAR_SHIFT [4:0] RW: intake scaling (R277). -/
def carShiftUlShift : Fld := ⟨.carShift, 0, 5⟩
/-- CAR_SHIFT [9:5] RW: emission scaling (R278). -/
def carShiftDlShift : Fld := ⟨.carShift, 5, 5⟩
/-- CAR_SHIFT [31:10] RW: counts before symbol start at which emission reads. -/
def carShiftDlAdvance : Fld := ⟨.carShift, 10, 22⟩
/-- CAR_STATUS [0:0] RO: intake and emission run. -/
def carStatusActive : Fld := ⟨.carStatus, 0, 1⟩
/-- CAR_STATUS [1:1] RO: a source migration is pending (R301). -/
def carStatusMigratingOut : Fld := ⟨.carStatus, 1, 1⟩
/-- CAR_STATUS [2:2] RW: set by the driver before a destination migration (R302). -/
def carStatusMigratingIn : Fld := ⟨.carStatus, 2, 1⟩
/-- CAR_STATUS [3:3] RO: the carrier has left this package. -/
def carStatusMigratedOut : Fld := ⟨.carStatus, 3, 1⟩
/-- CAR_DROPPED [31:0] RC: U-plane packets dropped (R277); saturates at 0xFFFF_FFFF. -/
def carDroppedDropped : Fld := ⟨.carDropped, 0, 32⟩
/-- CAR_GAPS [31:0] RC: symbols closed with uncovered REs; saturates at 0xFFFF_FFFF. -/
def carGapsGaps : Fld := ⟨.carGaps, 0, 32⟩
/-- TIME_CTRL [0:0] RW: 1: FREE_RUN (Table 14-1). -/
def timeCtrlFreeRun : Fld := ⟨.timeCtrl, 0, 1⟩
/-- TIME_CTRL [1:1] RW: R309. -/
def timeCtrlStepPermit : Fld := ⟨.timeCtrl, 1, 1⟩
/-- TIME_CTRL [2:2] RW: selected tracker (R315). -/
def timeCtrlTrackSel : Fld := ⟨.timeCtrl, 2, 1⟩
/-- TIME_CTRL [3:3] RW: R316. -/
def timeCtrlSynceEn : Fld := ⟨.timeCtrl, 3, 1⟩
/-- TIME_CTRL [5:4] RW: port of the recovered clock. -/
def timeCtrlSyncePort : Fld := ⟨.timeCtrl, 4, 2⟩
/-- TIME_CTRL [9:6] RW: bit p = 1: port p transmits the disciplined clock. -/
def timeCtrlSynceTx : Fld := ⟨.timeCtrl, 6, 4⟩
/-- TIME_STATUS [1:0] RO: Table 14-1. -/
def timeStatusState : Fld := ⟨.timeStatus, 0, 2⟩
/-- TIME_STATUS [2:2] W1C: a step has occurred. -/
def timeStatusStepped : Fld := ⟨.timeStatus, 2, 1⟩
/-- TIME_STATUS [3:3] RO: R316. -/
def timeStatusSynceLocked : Fld := ⟨.timeStatus, 3, 1⟩
/-- TIME_STATUS [4:4] RO: the gate, carrier, launch and output conditions of R309 hold. -/
def timeStatusQuiet : Fld := ⟨.timeStatus, 4, 1⟩
/-- COUNT [63:0] RO: common count (R305). -/
def timeCountCount : Fld := ⟨.timeCount, 0, 64⟩
/-- RATE [31:0] RO: signed, 2^−16 ppb. -/
def timeRateRate : Fld := ⟨.timeRate, 0, 32⟩
/-- RATE_I [31:0] RO: signed, 2^−16 ppb. -/
def timeRateIRateI : Fld := ⟨.timeRateI, 0, 32⟩
/-- RATE_INIT [31:0] RW: signed, 2^−16 ppb; rate at reset. -/
def timeRateInitRateInit : Fld := ⟨.timeRateInit, 0, 32⟩
/-- RATE_MAX [15:0] RW: ppb, at most 32,767. -/
def timeRateMaxRateMax : Fld := ⟨.timeRateMax, 0, 16⟩
/-- SERVO [4:0] RW: R314. -/
def timeServoKpShift : Fld := ⟨.timeServo, 0, 5⟩
/-- SERVO [12:8] RW: R314. -/
def timeServoKiShift : Fld := ⟨.timeServo, 8, 5⟩
/-- LOCK [15:0] RW: ns. -/
def timeLockLockNs : Fld := ⟨.timeLock, 0, 16⟩
/-- LOCK [31:16] RW: ns. -/
def timeLockOutlierNs : Fld := ⟨.timeLock, 16, 16⟩
/-- STEP_NS [31:0] RW: ns. -/
def timeStepNsStepNs : Fld := ⟨.timeStepNs, 0, 32⟩
/-- HOLDOVER [15:0] RW: units of 2^20 counts. -/
def timeHoldoverHoldover : Fld := ⟨.timeHoldover, 0, 16⟩
/-- STEPS [31:0] RO: R309; wraps. -/
def timeStepsSteps : Fld := ⟨.timeSteps, 0, 32⟩
/-- OUTLIERS [31:0] RO: R314; wraps. -/
def timeOutliersOutliers : Fld := ⟨.timeOutliers, 0, 32⟩
/-- SYNCE_FREQ [31:0] RO: signed, 2^−16 ppb (R316). -/
def synceFreqFreq : Fld := ⟨.synceFreq, 0, 32⟩
/-- TRK_CFG [0:0] RW: the tracker runs (R312). -/
def trkCfgEnable : Fld := ⟨.trkCfg, 0, 1⟩
/-- TRK_CFG [2:1] RW: Ethernet port. -/
def trkCfgPort : Fld := ⟨.trkCfg, 1, 2⟩
/-- TRK_CFG [10:3] RW: domainNumber. -/
def trkCfgDomain : Fld := ⟨.trkCfg, 3, 8⟩
/-- TRK_CFG [14:11] RW: signed log2 interval, −7 to 0. -/
def trkCfgDelayLog : Fld := ⟨.trkCfg, 11, 4⟩
/-- TRK_CFG [15:15] RW: 0: 01-1B-19-00-00-00; 1: 01-80-C2-00-00-0E. -/
def trkCfgDstSel : Fld := ⟨.trkCfg, 15, 1⟩
/-- TRK_ASYM [31:0] RW: signed, 2^−16 ns. -/
def trkAsymAsym : Fld := ⟨.trkAsym, 0, 32⟩
/-- TRK_MASTER [63:0] RW: master clockIdentity. -/
def trkMasterClockId : Fld := ⟨.trkMaster, 0, 64⟩
/-- TRK_MASTER_PORT [15:0] RW: master portNumber. -/
def trkMasterPortPortNumber : Fld := ⟨.trkMasterPort, 0, 16⟩
/-- TRK_SELF_PORT [15:0] RW: own portNumber. -/
def trkSelfPortPortNumber : Fld := ⟨.trkSelfPort, 0, 16⟩
/-- TRK_SELF [63:0] RW: own clockIdentity. -/
def trkSelfClockId : Fld := ⟨.trkSelf, 0, 64⟩
/-- TRK_THETA [63:0] RO: signed, 2^−16 ns (R313). -/
def trkThetaTheta : Fld := ⟨.trkTheta, 0, 64⟩
/-- TRK_MPD [63:0] RO: signed, 2^−16 ns. -/
def trkMpdMpd : Fld := ⟨.trkMpd, 0, 64⟩
/-- TRK_MEAS [31:0] RO: measurements; wraps. -/
def trkMeasMeas : Fld := ⟨.trkMeas, 0, 32⟩
/-- PP_CTRL [1:0] RW: 0 off; 1 master (R317); 2, 3 reserved. -/
def ppCtrlMode : Fld := ⟨.ppCtrl, 0, 2⟩
/-- PP_CTRL [2:2] RW: R319. -/
def ppCtrlTcEn : Fld := ⟨.ppCtrl, 2, 1⟩
/-- PP_CTRL [3:3] RW: as in TRK_CFG. -/
def ppCtrlDstSel : Fld := ⟨.ppCtrl, 3, 1⟩
/-- PP_CTRL [7:4] RW: signed, −7 to 0. -/
def ppCtrlSyncLog : Fld := ⟨.ppCtrl, 4, 4⟩
/-- PP_CTRL [15:8] RW: domainNumber. -/
def ppCtrlDomain : Fld := ⟨.ppCtrl, 8, 8⟩
/-- PP_PORTNUM [15:0] RW: portNumber sent. -/
def ppPortnumPortNumber : Fld := ⟨.ppPortnum, 0, 16⟩
/-- PP_CLOCKID [63:0] RW: clockIdentity sent. -/
def ppClockidClockId : Fld := ⟨.ppClockid, 0, 64⟩
/-- PP_LAT [15:0] RW: 1/64 count (R310). -/
def ppLatIngressLat : Fld := ⟨.ppLat, 0, 16⟩
/-- PP_LAT [31:16] RW: 1/64 count. -/
def ppLatEgressLat : Fld := ⟨.ppLat, 16, 16⟩
/-- PP_TC [31:0] RO: frames corrected; wraps. -/
def ppTcTc : Fld := ⟨.ppTc, 0, 32⟩
/-- OUT_CTRL [0:0] RW: R320. -/
def outCtrlEnable : Fld := ⟨.outCtrl, 0, 1⟩
/-- OUT_CTRL [1:1] RW: 0: one-shot. -/
def outCtrlPeriodic : Fld := ⟨.outCtrl, 1, 1⟩
/-- OUT_CTRL [2:2] RW: 1: asserted is low. -/
def outCtrlInvert : Fld := ⟨.outCtrl, 2, 1⟩
/-- OUT_CTRL [3:3] W1C: enable refused: start too near. -/
def outCtrlLate : Fld := ⟨.outCtrl, 3, 1⟩
/-- OUT_CTRL [4:4] W1C: enable refused: width or period. -/
def outCtrlBad : Fld := ⟨.outCtrl, 4, 1⟩
/-- OUT_START [63:0] RW: counts. -/
def outStartStart : Fld := ⟨.outStart, 0, 64⟩
/-- OUT_PERIOD [31:0] RW: counts. -/
def outPeriodPInt : Fld := ⟨.outPeriod, 0, 32⟩
/-- OUT_FRAC [15:0] RW: numerator. -/
def outFracPNum : Fld := ⟨.outFrac, 0, 16⟩
/-- OUT_FRAC [31:16] RW: denominator, non-zero. -/
def outFracPDen : Fld := ⟨.outFrac, 16, 16⟩
/-- OUT_WIDTH [31:0] RW: 1/64 count. -/
def outWidthWidth : Fld := ⟨.outWidth, 0, 32⟩
/-- CAP_CTRL [0:0] RW: R321. -/
def capCtrlEnable : Fld := ⟨.capCtrl, 0, 1⟩
/-- CAP_CTRL [2:1] RW: 0 rising; 1 falling; 2 both; 3 reserved. -/
def capCtrlEdgeSel : Fld := ⟨.capCtrl, 1, 2⟩
/-- CAP_CTRL [31:16] RC: edges not kept; saturates at 0xFFFF. -/
def capCtrlLost : Fld := ⟨.capCtrl, 16, 16⟩
/-- CAP_META [5:0] RC: fraction of the popped stamp. -/
def capMetaFrac : Fld := ⟨.capMeta, 0, 6⟩
/-- CAP_META [8:8] RC: 1: rising. -/
def capMetaEdge : Fld := ⟨.capMeta, 8, 1⟩
/-- CAP_META [20:16] RC: entries before the read, 0 to 16. -/
def capMetaDepth : Fld := ⟨.capMeta, 16, 5⟩
/-- CAP_OPEN [63:0] RW: counts. -/
def capOpenOpen : Fld := ⟨.capOpen, 0, 64⟩
/-- CAP_CLOSE [63:0] RW: counts; 0: no close. -/
def capCloseClose : Fld := ⟨.capClose, 0, 64⟩
/-- CAP_STAMP [63:0] RO: count of the popped stamp. -/
def capStampStamp : Fld := ⟨.capStamp, 0, 64⟩
/-- LAUNCH_CTRL [0:0] RW: R322. -/
def launchCtrlArm : Fld := ⟨.launchCtrl, 0, 1⟩
/-- LAUNCH_CTRL [15:8] RW: 0–127; 128: rings M0–M3. -/
def launchCtrlSlice : Fld := ⟨.launchCtrl, 8, 8⟩
/-- LAUNCH_CTRL [23:16] RW: bit q = 1: ring q held. -/
def launchCtrlRings : Fld := ⟨.launchCtrl, 16, 8⟩
/-- LAUNCH_STATUS [0:0] W1C: the unit released its rings. -/
def launchStatusFired : Fld := ⟨.launchStatus, 0, 1⟩
/-- LAUNCH_STATUS [1:1] W1C: arm refused. -/
def launchStatusLate : Fld := ⟨.launchStatus, 1, 1⟩
/-- LAUNCH_STATUS [2:2] W1C: disarmed by reset, unbind or freeze. -/
def launchStatusCancelled : Fld := ⟨.launchStatus, 2, 1⟩
/-- LAUNCH_COUNT [63:0] RW: counts; writable while arm is 0. -/
def launchCountCount : Fld := ⟨.launchCount, 0, 64⟩
/-- LAUNCH_FIRED [63:0] RO: stamp of the release edge. -/
def launchFiredFiredAt : Fld := ⟨.launchFired, 0, 64⟩
/-- ETH_CTRL [0:0] RW: the port trains and carries traffic. -/
def ethCtrlEnable : Fld := ⟨.ethCtrl, 0, 1⟩
/-- ETH_CTRL [1:1] RW: row 6 of Table 15-1. -/
def ethCtrlMgmtUnmatched : Fld := ⟨.ethCtrl, 1, 1⟩
/-- ETH_STATUS [0:0] RO: the link is up. -/
def ethStatusLinkUp : Fld := ⟨.ethStatus, 0, 1⟩
/-- ETH_STATUS [4:1] RO: bit l = 1: lane l is aligned. -/
def ethStatusLanesUp : Fld := ⟨.ethStatus, 1, 4⟩
/-- ETH_STATUS [5:5] RO: the port is fenced (R18). -/
def ethStatusFenced : Fld := ⟨.ethStatus, 5, 1⟩
/-- ETH_OVERHEAD [7:0] RW: bytes (R328). -/
def ethOverheadOverhead : Fld := ⟨.ethOverhead, 0, 8⟩
/-- ETH_SRC_TC [2:0] RW: R327. -/
def ethSrcTcUplaneTc : Fld := ⟨.ethSrcTc, 0, 3⟩
/-- ETH_SRC_TC [6:4] RW: R327. -/
def ethSrcTcCplaneTc : Fld := ⟨.ethSrcTc, 4, 3⟩
/-- ETH_SRC_TC [10:8] RW: R327. -/
def ethSrcTcPtpTc : Fld := ⟨.ethSrcTc, 8, 3⟩
/-- GCL_CTRL [0:0] RW: R331. -/
def gclCtrlGclEn : Fld := ⟨.gclCtrl, 0, 1⟩
/-- GCL_CTRL [8:1] RW: pending entries, 1 to 256, written as n − 1. -/
def gclCtrlN : Fld := ⟨.gclCtrl, 1, 8⟩
/-- GCL_CTRL [9:9] RO: an armed list waits for its boundary. -/
def gclCtrlPending : Fld := ⟨.gclCtrl, 9, 1⟩
/-- GCL_CTRL [10:10] W1C: an arm was refused. -/
def gclCtrlGclBad : Fld := ⟨.gclCtrl, 10, 1⟩
/-- GCL_CYCLE [31:0] RW: counts, pending bank. -/
def gclCycleCycle : Fld := ⟨.gclCycle, 0, 32⟩
/-- GCL_BASE [63:0] RW: count of cycle 0, pending bank. -/
def gclBaseBase : Fld := ⟨.gclBase, 0, 64⟩
/-- GCL_ACT [63:0] RW: a write arms the pending bank. -/
def gclActAct : Fld := ⟨.gclAct, 0, 64⟩
/-- RX_FRAMES [63:0] RO: good frames received, transmitted. -/
def rxFramesFrames : Fld := ⟨.rxFrames, 0, 64⟩
/-- TX_FRAMES [63:0] RO: good frames received, transmitted. -/
def txFramesFrames : Fld := ⟨.txFrames, 0, 64⟩
/-- RX_ERR [63:0] RO: R324, R325. -/
def rxErrCount : Fld := ⟨.rxErr, 0, 64⟩
/-- RX_UNMATCHED [63:0] RO: R324, R325. -/
def rxUnmatchedCount : Fld := ⟨.rxUnmatched, 0, 64⟩
/-- RX_PAUSE [63:0] RO: R324, R325. -/
def rxPauseCount : Fld := ⟨.rxPause, 0, 64⟩
/-- TX_DISCARD [63:0] RO: R324, R326, R329. -/
def txDiscardCount : Fld := ⟨.txDiscard, 0, 64⟩
/-- TX_RED [63:0] RO: R324, R326, R329. -/
def txRedCount : Fld := ⟨.txRed, 0, 64⟩
/-- TC_CFG(k) [2:0] RW: tier of class k. -/
def tcCfgTier : Fld := ⟨.tcCfg, 0, 3⟩
/-- TC_CFG(k) [3:3] RW: R329. -/
def tcCfgMarkerEn : Fld := ⟨.tcCfg, 3, 1⟩
/-- TC_CFG(k) [4:4] RW: R329. -/
def tcCfgColourAware : Fld := ⟨.tcCfg, 4, 1⟩
/-- TC_CFG(k) [31:16] RW: 1 to 65,535; 0 is discarded with an FC_INFO event. -/
def tcCfgWeight : Fld := ⟨.tcCfg, 16, 16⟩
/-- TC_CIR(k) [31:0] RW: bytes per 1,024 counts. -/
def tcCirCir : Fld := ⟨.tcCir, 0, 32⟩
/-- TC_PIR(k) [31:0] RW: bytes per 1,024 counts. -/
def tcPirPir : Fld := ⟨.tcPir, 0, 32⟩
/-- TC_CBS(k) [31:0] RW: bytes. -/
def tcCbsCbs : Fld := ⟨.tcCbs, 0, 32⟩
/-- TC_PBS(k) [31:0] RW: bytes. -/
def tcPbsPbs : Fld := ⟨.tcPbs, 0, 32⟩
/-- TC_QLIMIT(k) [21:0] RW: bytes; the eight limits must sum to at most 2,097,152. -/
def tcQlimitQlimit : Fld := ⟨.tcQlimit, 0, 22⟩
/-- GCL_ENTRY(i) [7:0] RW: bit k = 1: class k open. -/
def gclEntryMask : Fld := ⟨.gclEntry, 0, 8⟩
/-- GCL_ENTRY(i) [31:8] RW: counts, at least 1. -/
def gclEntryDuration : Fld := ⟨.gclEntry, 8, 24⟩
/-- FH_MAP(i) [0:0] RW: the entry matches (R325). -/
def fhMapValid : Fld := ⟨.fhMap, 0, 1⟩
/-- FH_MAP(i) [8:1] RW: carrier 0 to 191. -/
def fhMapCarrier : Fld := ⟨.fhMap, 1, 8⟩
/-- FH_MAP(i) [9:9] RW: R325. -/
def fhMapVlanMatch : Fld := ⟨.fhMap, 9, 1⟩
/-- FH_MAP(i) [21:10] RW: VID. -/
def fhMapVlan : Fld := ⟨.fhMap, 10, 12⟩
/-- FH_MAP(i) [63:32] RW: destination address. -/
def fhMapMacLo : Fld := ⟨.fhMap, 32, 32⟩
/-- FH_MAP_HI [15:0] RW: mac[47:32]. -/
def fhMapHiMacHi : Fld := ⟨.fhMapHi, 0, 16⟩
/-- FWD(i) [0:0] RW: the entry matches (R325). -/
def fwdValid : Fld := ⟨.fwd, 0, 1⟩
/-- FWD(i) [2:1] RW: R326. -/
def fwdEgress : Fld := ⟨.fwd, 1, 2⟩
/-- FWD(i) [5:3] RW: R326. -/
def fwdTc : Fld := ⟨.fwd, 3, 3⟩
/-- FWD(i) [6:6] RW: R326. -/
def fwdTcFromPcp : Fld := ⟨.fwd, 6, 1⟩
/-- FWD(i) [9:9] RW: R325. -/
def fwdVlanMatch : Fld := ⟨.fwd, 9, 1⟩
/-- FWD(i) [21:10] RW: VID. -/
def fwdVlan : Fld := ⟨.fwd, 10, 12⟩
/-- FWD(i) [63:32] RW: mac[31:0]. -/
def fwdMacLo : Fld := ⟨.fwd, 32, 32⟩
/-- FWD_HI [15:0] RW: mac[47:32]. -/
def fwdHiMacHi : Fld := ⟨.fwdHi, 0, 16⟩
/-- MRX_BASE [63:0] RW: host address of entry 0, multiple of 4 KiB; writable while the ring is disabled. -/
def mrxBaseBase : Fld := ⟨.mrxBase, 0, 64⟩
/-- MRX_SIZE [4:0] RW: 3 to 16; 0 disables the ring. -/
def mrxSizeLog2Entries : Fld := ⟨.mrxSize, 0, 5⟩
/-- MRX_HEAD [15:0] RO: next entry the device fills or reads. -/
def mrxHeadHead : Fld := ⟨.mrxHead, 0, 16⟩
/-- MRX_TAIL [15:0] RW: receive: next entry the host reads; transmit: one past the last entry written. -/
def mrxTailTail : Fld := ⟨.mrxTail, 0, 16⟩
/-- MRX_DROP [31:0] RO: frames lost to a full receive ring; wraps. -/
def mrxDropDrop : Fld := ⟨.mrxDrop, 0, 32⟩
/-- MTX_BASE [63:0] RW: host address of entry 0, multiple of 4 KiB; writable while the ring is disabled. -/
def mtxBaseBase : Fld := ⟨.mtxBase, 0, 64⟩
/-- MTX_SIZE [4:0] RW: 3 to 16; 0 disables the ring. -/
def mtxSizeLog2Entries : Fld := ⟨.mtxSize, 0, 5⟩
/-- MTX_HEAD [15:0] RO: next entry the device fills or reads. -/
def mtxHeadHead : Fld := ⟨.mtxHead, 0, 16⟩
/-- MTX_TAIL [15:0] RW: receive: next entry the host reads; transmit: one past the last entry written. -/
def mtxTailTail : Fld := ⟨.mtxTail, 0, 16⟩
/-- AQD_ID [11:0] RO: package ID (R337). -/
def aqdIdPkgId : Fld := ⟨.aqdId, 0, 12⟩
/-- AQD_ID [14:12] RO: tray position. -/
def aqdIdTrayPos : Fld := ⟨.aqdId, 12, 3⟩
/-- AQD_CTRL [0:0] RW: 1: the package issues and serves requests (R342, R353). -/
def aqdCtrlEnable : Fld := ⟨.aqdCtrl, 0, 1⟩
/-- AQD_LIFETIME [31:0] RW: counts (R345). -/
def aqdLifetimeLifetime : Fld := ⟨.aqdLifetime, 0, 32⟩
/-- AQD_MARGIN [31:0] RW: counts. -/
def aqdMarginMargin : Fld := ⟨.aqdMargin, 0, 32⟩
/-- AQD_RETRY [31:0] RW: counts between attempts (R352). -/
def aqdRetryIntRetry : Fld := ⟨.aqdRetryInt, 0, 32⟩
/-- AQD_QUERY_MAX [3:0] RW: QUERY attempts, 1 to 15. -/
def aqdQueryMaxQueryMax : Fld := ⟨.aqdQueryMax, 0, 4⟩
/-- AQD_RTT_BASE [43:0] RW: HBM address, multiple of 16 MiB. -/
def aqdRttBaseBase : Fld := ⟨.aqdRttBase, 0, 44⟩
/-- AQD_SETTLE_BASE [43:0] RW: HBM address, multiple of 16 MiB. -/
def aqdSettleBaseBase : Fld := ⟨.aqdSettleBase, 0, 44⟩
/-- AQD_HARQ_JOB [51:0] RW: job address, multiple of 2^48; the HARQ ranges of the 4,096 packages occupy the 2^48 bytes from it (R356). -/
def aqdHarqJobBase : Fld := ⟨.aqdHarqJob, 0, 52⟩
/-- AQD_REFUSE_LAST [3:0] RO: Table 16-3 reason of the latest refusal. -/
def aqdRefuseLastReason : Fld := ⟨.aqdRefuseLast, 0, 4⟩
/-- AQD_REFUSE_LAST [27:16] RO: source package of the latest refusal. -/
def aqdRefuseLastSrc : Fld := ⟨.aqdRefuseLast, 16, 12⟩
/-- AQD_INCARNATION [31:0] RW: incarnation carried by this package's atomics, bumps and queries (R351); writable while enable is 0. -/
def aqdIncarnationInc : Fld := ⟨.aqdIncarnation, 0, 32⟩
/-- AQD_REFUSED [63:0] RO: R342, R345, R348, R349. -/
def aqdRefusedCount : Fld := ⟨.aqdRefused, 0, 64⟩
/-- AQD_EXPIRED [63:0] RO: R342, R345, R348, R349. -/
def aqdExpiredCount : Fld := ⟨.aqdExpired, 0, 64⟩
/-- AQD_RACES [63:0] RO: R342, R345, R348, R349. -/
def aqdRacesCount : Fld := ⟨.aqdRaces, 0, 64⟩
/-- AQD_COMBINED [63:0] RO: R342, R345, R348, R349. -/
def aqdCombinedCount : Fld := ⟨.aqdCombined, 0, 64⟩
/-- AQD_DUPLICATES [63:0] RO: R351, R352, R347. -/
def aqdDuplicatesCount : Fld := ⟨.aqdDuplicates, 0, 64⟩
/-- AQD_STALE [63:0] RO: R351, R352, R347. -/
def aqdStaleCount : Fld := ⟨.aqdStale, 0, 64⟩
/-- AQD_RETRIES [63:0] RO: R351, R352, R347. -/
def aqdRetriesCount : Fld := ⟨.aqdRetries, 0, 64⟩
/-- AQD_CREDIT_WAITS [63:0] RO: R351, R352, R347. -/
def aqdCreditWaitsCount : Fld := ⟨.aqdCreditWaits, 0, 64⟩
/-- AQD_BLOCKED [12:0] RO: destinations with an unresolved sequence number (R352). -/
def aqdBlockedBlocked : Fld := ⟨.aqdBlocked, 0, 13⟩
/-- AQP_STATUS [0:0] RO: the link is trained and up. -/
def aqpStatusLinkUp : Fld := ⟨.aqpStatus, 0, 1⟩
/-- AQP_STATUS [4:1] RO: bit l = 1: lane l is in service. -/
def aqpStatusLanesUp : Fld := ⟨.aqpStatus, 1, 4⟩
/-- AQP_STATUS [5:5] RO: the port is fenced (R18). -/
def aqpStatusFenced : Fld := ⟨.aqpStatus, 5, 1⟩
/-- AQP_NBR [11:0] RO: partner's package ID (R337). -/
def aqpNbrPkgId : Fld := ⟨.aqpNbr, 0, 12⟩
/-- AQP_NBR [14:12] RO: partner's tray position. -/
def aqpNbrTrayPos : Fld := ⟨.aqpNbr, 12, 3⟩
/-- AQP_NBR [15:15] RO: a partner has been identified. -/
def aqpNbrValid : Fld := ⟨.aqpNbr, 15, 1⟩
/-- AQP_REPLAYS [31:0] RO: flit replays (R336); wraps. -/
def aqpReplaysReplays : Fld := ⟨.aqpReplays, 0, 32⟩
/-- AQP_TX_BYTES [63:0] RO: payload bytes sent, received. -/
def aqpTxBytesBytes : Fld := ⟨.aqpTxBytes, 0, 64⟩
/-- AQP_RX_BYTES [63:0] RO: payload bytes sent, received. -/
def aqpRxBytesBytes : Fld := ⟨.aqpRxBytes, 0, 64⟩
/-- HOME_MAP(i) [11:0] RW: home package of chunk i (R339). -/
def homeMapPkg : Fld := ⟨.homeMap, 0, 12⟩
/-- HOME_MAP(i) [15:15] RW: the chunk is mapped. -/
def homeMapValid : Fld := ⟨.homeMap, 15, 1⟩
/-- ROUTE(d) [2:0] RW: primary port (R338). -/
def routePrimary : Fld := ⟨.route, 0, 3⟩
/-- ROUTE(d) [3:3] RW: the primary port is in use. -/
def routePrimaryValid : Fld := ⟨.route, 3, 1⟩
/-- ROUTE(d) [6:4] RW: alternate port. -/
def routeAlternate : Fld := ⟨.route, 4, 3⟩
/-- ROUTE(d) [7:7] RW: the alternate port is in use. -/
def routeAlternateValid : Fld := ⟨.route, 7, 1⟩
/-- AQD_JOB(s) [15:0] RW: job number (R340). -/
def aqdJobJob : Fld := ⟨.aqdJob, 0, 16⟩
/-- AQD_JOB(s) [23:16] RW: generation; advanced by slice reset. -/
def aqdJobGen : Fld := ⟨.aqdJob, 16, 8⟩
/-- AQD_JOB(s) [24:24] RW: the slice may issue to the aqueduct. -/
def aqdJobValid : Fld := ⟨.aqdJob, 24, 1⟩
/-- AQD_ARRIVAL(i) [63:0] RW: arrival counter (R355). -/
def aqdArrivalValue : Fld := ⟨.aqdArrival, 0, 64⟩
/-- AQD_ARRIVAL_OWNER(i) [6:0] RW: owner slice. -/
def aqdArrivalOwnerSlice : Fld := ⟨.aqdArrivalOwner, 0, 7⟩
/-- AQD_ARRIVAL_OWNER(i) [7:7] RW: the counter has an owner; with 0, every BUMP is refused with reason 6. -/
def aqdArrivalOwnerValid : Fld := ⟨.aqdArrivalOwner, 7, 1⟩
/-- DET_CTRL [5:0] RW: slice counter whose COUNTER_ADD advances the step counter (R364). -/
def detCtrlStepLink : Fld := ⟨.detCtrl, 0, 6⟩
/-- DET_CTRL [6:6] RW: 1: step_link is in use. -/
def detCtrlLinkEn : Fld := ⟨.detCtrl, 6, 1⟩
/-- DET_MASK [5:0] RW: bit k = 1: kind k of Table 17-2 is counted. -/
def detMaskMask : Fld := ⟨.detMask, 0, 6⟩
/-- DET_STEP [63:0] RW: step counter; writes act as R365 states. -/
def detStepStep : Fld := ⟨.detStep, 0, 64⟩
/-- DET_NONDET [63:0] RO: non-determinism counter (R366). -/
def detNondetNondet : Fld := ⟨.detNondet, 0, 64⟩
/-- DET_LAST [2:0] RO: kind of the latest counted event. -/
def detLastKind : Fld := ⟨.detLast, 0, 3⟩
/-- DET_LAST [3:3] RO: an event has been counted. -/
def detLastValid : Fld := ⟨.detLast, 3, 1⟩
/-- DET_LAST_STAMP [63:0] RO: common count of the latest counted event. -/
def detLastStampStamp : Fld := ⟨.detLastStamp, 0, 64⟩
/-- DET_SHADOW_STATUS [1:0] RO: 0 none; 1 export; 2 compare. -/
def detShadowStatusRole : Fld := ⟨.detShadowStatus, 0, 2⟩
/-- DET_SHADOW_STATUS [3:2] RO: 0 idle; 1 FILLING; 2 COMPARING (R373). -/
def detShadowStatusState : Fld := ⟨.detShadowStatus, 2, 2⟩
/-- DET_SHADOW_STATUS [4:4] RO: compare_steps steps matched. -/
def detShadowStatusMatched : Fld := ⟨.detShadowStatus, 4, 1⟩
/-- DET_SHADOW_STATUS [5:5] RO: the source was declared lost (R375). -/
def detShadowStatusLost : Fld := ⟨.detShadowStatus, 5, 1⟩
/-- DET_SHADOW_STATUS [6:6] RO: the partial state was discarded (R376). -/
def detShadowStatusDiscarded : Fld := ⟨.detShadowStatus, 6, 1⟩
/-- DET_SHADOW_STATUS [13:7] RO: pending entries, 0 to 64. -/
def detShadowStatusPending : Fld := ⟨.detShadowStatus, 7, 7⟩
/-- DET_SHADOW_CMD [0:0] WO: 1: declare the source lost. -/
def detShadowCmdSourceLost : Fld := ⟨.detShadowCmd, 0, 1⟩
/-- DET_MATCHED [63:0] RO: digests compared equal. -/
def detMatchedMatched : Fld := ⟨.detMatched, 0, 64⟩
/-- DET_UNMATCHED [31:0] RO: pending entries that left unmatched; wraps. -/
def detUnmatchedUnmatched : Fld := ⟨.detUnmatched, 0, 32⟩
/-- DET_MISMATCH_TAG [31:0] RO: tag of the mismatching command. -/
def detMismatchTagTag : Fld := ⟨.detMismatchTag, 0, 32⟩
/-- DET_MISMATCH_STEP [31:0] RO: its step_count. -/
def detMismatchStepStep : Fld := ⟨.detMismatchStep, 0, 32⟩
/-- DET_MISMATCH_OWN [63:0] RO: the spare's digest. -/
def detMismatchOwnOwn : Fld := ⟨.detMismatchOwn, 0, 64⟩
/-- DET_MISMATCH_PEER [63:0] RO: the exported digest. -/
def detMismatchPeerPeer : Fld := ⟨.detMismatchPeer, 0, 64⟩
/-- SPW_STATUS [0:0] RO: the spillway accepts reports. -/
def spwStatusReady : Fld := ⟨.spwStatus, 0, 1⟩
/-- SPW_STATUS [2:1] RO: 0 normal; 1 inference fence; 2 safe state. -/
def spwStatusState : Fld := ⟨.spwStatus, 1, 2⟩
/-- SPW_STATUS [3:3] W1C: a report found the log full. -/
def spwStatusLogOverflow : Fld := ⟨.spwStatus, 3, 1⟩
/-- SPW_STATUS [4:4] RO: R393. -/
def spwStatusSiltFrozen : Fld := ⟨.spwStatus, 4, 1⟩
/-- SPW_STATUS [5:5] RO: the error pair is in the error state. -/
def spwStatusPinError : Fld := ⟨.spwStatus, 5, 1⟩
/-- SPW_STATUS [13:8] W1C: bit k = 1: a report of class k arrived. -/
def spwStatusSticky : Fld := ⟨.spwStatus, 8, 6⟩
/-- SPW_CTRL [5:0] RW: bit k = 1: class k raises the interrupt. -/
def spwCtrlIrqMask : Fld := ⟨.spwCtrl, 0, 6⟩
/-- SPW_CTRL [11:6] RW: bit k = 1: class k asserts the error pair. -/
def spwCtrlPinMask : Fld := ⟨.spwCtrl, 6, 6⟩
/-- SPW_CTRL [17:12] RW: bit k = 1: class k enters the silt record. -/
def spwCtrlSiltMask : Fld := ⟨.spwCtrl, 12, 6⟩
/-- SPW_CTRL [18:18] RW: 1: FC_INFO is logged. -/
def spwCtrlLogInfo : Fld := ⟨.spwCtrl, 18, 1⟩
/-- SPW_CTRL [19:19] RW: 0 first; 1 last (R392). -/
def spwCtrlCapMode : Fld := ⟨.spwCtrl, 19, 1⟩
/-- SPW_CTRL [22:20] RW: lowest class captured. -/
def spwCtrlCapMin : Fld := ⟨.spwCtrl, 20, 3⟩
/-- SPW_CTRL [23:23] RW: R393. -/
def spwCtrlSiltOnUnit : Fld := ⟨.spwCtrl, 23, 1⟩
/-- SPW_CTRL [31:24] RW: MSI-X vector. -/
def spwCtrlIrqVector : Fld := ⟨.spwCtrl, 24, 8⟩
/-- SPW_CMD [0:0] WO: 1: set the inference fence (R386). -/
def spwCmdInferFence : Fld := ⟨.spwCmd, 0, 1⟩
/-- SPW_CMD [1:1] WO: 1: clear a driver-set inference fence. -/
def spwCmdInferClear : Fld := ⟨.spwCmd, 1, 1⟩
/-- SPW_CMD [2:2] WO: 1: return the error pair to no error (R391). -/
def spwCmdPinClear : Fld := ⟨.spwCmd, 2, 1⟩
/-- SPW_CMD [3:3] WO: R393. -/
def spwCmdSiltFreeze : Fld := ⟨.spwCmd, 3, 1⟩
/-- SPW_CMD [4:4] WO: R393. -/
def spwCmdSiltRearm : Fld := ⟨.spwCmd, 4, 1⟩
/-- SPW_CMD [5:5] WO: 1: enter the safe state (R387). -/
def spwCmdEnterSafe : Fld := ⟨.spwCmd, 5, 1⟩
/-- SPW_MARK [31:0] WO: writes a kind-10 entry with this value. -/
def spwMarkMarker : Fld := ⟨.spwMark, 0, 32⟩
/-- CAP_INFO [15:0] RO: unit identifier of the captured report. -/
def spwCapInfoUnit : Fld := ⟨.spwCapInfo, 0, 16⟩
/-- CAP_INFO [18:16] RO: its class. -/
def spwCapInfoClass : Fld := ⟨.spwCapInfo, 16, 3⟩
/-- CAP_INFO [19:19] W1C: the capture registers hold a report. -/
def spwCapInfoCapValid : Fld := ⟨.spwCapInfo, 19, 1⟩
/-- CAP_INFO [31:24] RC: captures in mode 1 made while cap_valid was already 1 (R392); saturates at 0xFF. -/
def spwCapInfoCapCount : Fld := ⟨.spwCapInfo, 24, 8⟩
/-- CAP_STAMP [63:0] RO: its stamp. -/
def spwCapStampStamp : Fld := ⟨.spwCapStamp, 0, 64⟩
/-- CAP_SYND [63:0] RO: its syndrome. -/
def spwCapSyndSyndrome : Fld := ⟨.spwCapSynd, 0, 64⟩
/-- LOG_HEAD [9:0] RO: next entry the spillway writes; entry i at +0x2_0000 + 32i. -/
def logHeadHead : Fld := ⟨.logHead, 0, 10⟩
/-- LOG_TAIL [9:0] RW: next entry the driver reads. -/
def logTailTail : Fld := ⟨.logTail, 0, 10⟩
/-- FENCE_CMD [15:0] WO: unit identifier (R384). -/
def fenceCmdUnit : Fld := ⟨.fenceCmd, 0, 16⟩
/-- FENCE_CMD [17:16] WO: 1 set; 2 clear; 0, 3 discarded. -/
def fenceCmdOp : Fld := ⟨.fenceCmd, 16, 2⟩
/-- FENCE_ARG [5:0] RW: pseudo-channel, lane, or engine instance. -/
def fenceArgSub : Fld := ⟨.fenceArg, 0, 6⟩
/-- FENCE_ARG [7:6] RW: 0 none; 1 pseudo-channel; 2 lane; 3 wellhead engine, class in [9:8]. -/
def fenceArgSubKind : Fld := ⟨.fenceArg, 6, 2⟩
/-- FENCE_ARG [9:8] RW: as in R381. -/
def fenceArgEngineClass : Fld := ⟨.fenceArg, 8, 2⟩
/-- FENCE_STATUS [0:0] RO: a fence command is in progress. -/
def fenceStatusBusy : Fld := ⟨.fenceStatus, 0, 1⟩
/-- FENCE_STATUS [2:1] RO: 0 done; 1 not fencible; 2 test failed. -/
def fenceStatusResult : Fld := ⟨.fenceStatus, 1, 2⟩
/-- QUIET [15:0] RW: units of 2^20 counts. -/
def spwQuietQuiet : Fld := ⟨.spwQuiet, 0, 16⟩
/-- RECOVERIES [31:0] RO: R385; wrap. -/
def recoveriesCount : Fld := ⟨.recoveries, 0, 32⟩
/-- RECOVER_FAILS [31:0] RO: R385; wrap. -/
def recoverFailsCount : Fld := ⟨.recoverFails, 0, 32⟩
/-- SILT_STATUS [9:0] RO: valid entries, 0 to 512. -/
def siltStatusCount : Fld := ⟨.siltStatus, 0, 10⟩
/-- SILT_STATUS [10:10] RO: mirrors silt_frozen. -/
def siltStatusFrozen : Fld := ⟨.siltStatus, 10, 1⟩
/-- HEALTH_EPOCH [15:0] RW: units of 2^30 counts, at least 1; a write of 0 is discarded with an FC_INFO event (R395). -/
def healthEpochEpoch : Fld := ⟨.healthEpoch, 0, 16⟩
/-- HEALTH_SCORE [15:0] RO: R395. -/
def healthScoreScore : Fld := ⟨.healthScore, 0, 16⟩
/-- HEALTH_CAPACITY [7:0] RO: jets in service. -/
def healthCapacityJets : Fld := ⟨.healthCapacity, 0, 8⟩
/-- HEALTH_CAPACITY [14:8] RO: basins not fenced. -/
def healthCapacityBasins : Fld := ⟨.healthCapacity, 8, 7⟩
/-- HEALTH_CAPACITY [22:15] RO: HBM octets not withdrawn. -/
def healthCapacityOctets : Fld := ⟨.healthCapacity, 15, 8⟩
/-- HEALTH_CAPACITY [28:23] RO: aqueduct lanes in service. -/
def healthCapacityLanes : Fld := ⟨.healthCapacity, 23, 6⟩
/-- HEALTH_CAPACITY [31:29] RO: Ethernet ports not fenced. -/
def healthCapacityEthPorts : Fld := ⟨.healthCapacity, 29, 3⟩
/-- HEALTH_CAPACITY [37:32] RO: LDPC decoders not fenced. -/
def healthCapacityDec : Fld := ⟨.healthCapacity, 32, 6⟩
/-- CLASS_COUNT(k) [63:0] RO: reports of class k. -/
def classCountCount : Fld := ⟨.classCount, 0, 64⟩
/-- POLICY(k) [3:0] RW: R383. -/
def policyThreshold : Fld := ⟨.policy, 0, 4⟩
/-- POLICY(k) [15:4] RW: units of 2^20 counts. -/
def policyWindow : Fld := ⟨.policy, 4, 12⟩
/-- POLICY(k) [16:16] RW: R385. -/
def policyRecoverEn : Fld := ⟨.policy, 16, 1⟩
/-- POLICY(k) [20:17] RW: recovery tests per item. -/
def policyRecoverLimit : Fld := ⟨.policy, 17, 4⟩
/-- HEALTH_WEIGHT(k) [15:0] RW: for k = 0 to 4. -/
def healthWeightWeight : Fld := ⟨.healthWeight, 0, 16⟩
/-- HEALTH_DECAYED(k) [23:0] RO: decayed count, 8 fractional bits. -/
def healthDecayedD : Fld := ⟨.healthDecayed, 0, 24⟩
/-- HBM_WITHDRAWN(t) [15:0] RO: bit o = 1: octet o of terrace t is withdrawn (R35). -/
def hbmWithdrawnOctets : Fld := ⟨.hbmWithdrawn, 0, 16⟩
/-- PWR_CTRL [1:0] RW: 0: 600 W; 1: 900 W; 2: 1,200 W; 3 is discarded with an FC_INFO event. -/
def pwrCtrlCapSel : Fld := ⟨.pwrCtrl, 0, 2⟩
/-- PWR_CTRL [2:2] RW: R407. -/
def pwrCtrlAutoWake : Fld := ⟨.pwrCtrl, 2, 1⟩
/-- PWR_CTRL [5:3] RW: ramps in parallel, 1 to 8; 0 is discarded with an FC_INFO event. -/
def pwrCtrlWakePar : Fld := ⟨.pwrCtrl, 3, 3⟩
/-- PWR_STATUS [3:0] RO: governor level g (R401). -/
def pwrStatusLevel : Fld := ⟨.pwrStatus, 0, 4⟩
/-- PWR_STATUS [4:4] RO: R402. -/
def pwrStatusCapUnmet : Fld := ⟨.pwrStatus, 4, 1⟩
/-- FIXED_STEP [3:0] RW: step of fixed-share basins, 3 to 15 (R400). -/
def fixedStepStep : Fld := ⟨.fixedStep, 0, 4⟩
/-- CAP_FLOOR [3:0] RW: lowest step of capped basins, 3 to 15. -/
def capFloorFloor : Fld := ⟨.capFloor, 0, 4⟩
/-- BASIN_GATE_REQ [63:0] WO: bit b = 1: gate basin b (R406). -/
def basinGateReqGate : Fld := ⟨.basinGateReq, 0, 64⟩
/-- BASIN_WAKE_REQ [63:0] WO: bit b = 1: wake basin b (R407). -/
def basinWakeReqWake : Fld := ⟨.basinWakeReq, 0, 64⟩
/-- BASIN_GATED [63:0] RO: bit b = 1: basin b is gated. -/
def basinGatedGated : Fld := ⟨.basinGated, 0, 64⟩
/-- BASIN_WAKING [63:0] RO: bit b = 1: a wake of basin b is queued or in progress. -/
def basinWakingWaking : Fld := ⟨.basinWaking, 0, 64⟩
/-- SLEW_CFG [15:0] RW: weight units per 1,024 counts, at least 1 (R404). -/
def slewCfgSlewRate : Fld := ⟨.slewCfg, 0, 16⟩
/-- SLEW_CFG [31:16] RW: bucket size, at least 4; a write that breaks either limit is discarded with an FC_INFO event. -/
def slewCfgSlewBurst : Fld := ⟨.slewCfg, 16, 16⟩
/-- SLEW_TOKENS [15:0] RO: signed bucket contents. -/
def slewTokensTokens : Fld := ⟨.slewTokens, 0, 16⟩
/-- RAMP_DOWN [11:0] RW: cycles (R405). -/
def rampDownRampDown : Fld := ⟨.rampDown, 0, 12⟩
/-- SLEW_WAITS [63:0] RO: periods that capped starts waited. -/
def slewWaitsWaits : Fld := ⟨.slewWaits, 0, 64⟩
/-- STRETCH_PROT [63:0] RO: stretched cycles of protected islands (R403). -/
def stretchProtStretched : Fld := ⟨.stretchProt, 0, 64⟩
/-- POWER_NOW [15:0] RO: units of 1/16 W. -/
def powerNowPower : Fld := ⟨.powerNow, 0, 16⟩
/-- POWER_AVG [15:0] RO: units of 1/16 W. -/
def powerAvgPower : Fld := ⟨.powerAvg, 0, 16⟩
/-- ENERGY_METER(r) [63:0] RO: µJ (R408). -/
def energyMeterEnergy : Fld := ⟨.energyMeter, 0, 64⟩
/-- ENERGY_COEF(k) [31:0] RW: R409. -/
def energyCoefPj : Fld := ⟨.energyCoef, 0, 32⟩
/-- ISLAND_STRETCH(i) [63:0] RO: stretched cycles of island i. -/
def islandStretchStretched : Fld := ⟨.islandStretch, 0, 64⟩
/-- BOOT_STATUS [3:0] RO: phase in progress (Table 20-3); 7 after local_done. -/
def bootStatusPhase : Fld := ⟨.bootStatus, 0, 4⟩
/-- BOOT_STATUS [4:4] RO: phase 1 complete. -/
def bootStatusHubReady : Fld := ⟨.bootStatus, 4, 1⟩
/-- BOOT_STATUS [5:5] RO: phase 2 complete. -/
def bootStatusPcieReady : Fld := ⟨.bootStatus, 5, 1⟩
/-- BOOT_STATUS [6:6] RO: C0 heartbeats received. -/
def bootStatusC0Ready : Fld := ⟨.bootStatus, 6, 1⟩
/-- BOOT_STATUS [7:7] RO: C1 heartbeats received. -/
def bootStatusC1Ready : Fld := ⟨.bootStatus, 7, 1⟩
/-- BOOT_STATUS [8:8] RO: phase 6 complete. -/
def bootStatusLocalDone : Fld := ⟨.bootStatus, 8, 1⟩
/-- BOOT_STATUS [9:9] RO: 2 s have passed since local_done (R424). -/
def bootStatusAqdWindow : Fld := ⟨.bootStatus, 9, 1⟩
/-- RESET_CMD [1:0] WO: 1 warm; 2 terrace; 3 basin; 0 discarded with an FC_INFO event. -/
def resetCmdKind : Fld := ⟨.resetCmd, 0, 2⟩
/-- RESET_CMD [7:2] WO: terrace 0–7 for kind 2; global basin for kind 3. -/
def resetCmdTarget : Fld := ⟨.resetCmd, 2, 6⟩
/-- RESET_CMD [8:8] WO: kind 2: 1 selects extended training (R417). -/
def resetCmdHbmExt : Fld := ⟨.resetCmd, 8, 1⟩
/-- RESET_CMD [31:16] WO: must be 0xB007 (R419). -/
def resetCmdConfirm : Fld := ⟨.resetCmd, 16, 16⟩
/-- RESET_STATUS [0:0] RO: a terrace or basin reset is in progress. -/
def resetStatusBusy : Fld := ⟨.resetStatus, 0, 1⟩
/-- RESET_STATUS [1:1] W1C: a RESET_CMD write was discarded. -/
def resetStatusRefused : Fld := ⟨.resetStatus, 1, 1⟩
/-- RESET_STATUS [4:2] RO: 1 busy; 2 radio use of the target; 3 target not idle or fenced; 4 bad target or confirm; 5 HARQ region in the terrace. -/
def resetStatusCause : Fld := ⟨.resetStatus, 2, 3⟩
/-- RESET_CAUSE [2:0] RO: last reset that cleared the hub die: 0 power-on; 1 PKG_RST_N; 2 PERST#; 3 warm command. Set at cold reset to 0 or 1. -/
def resetCauseCause : Fld := ⟨.resetCause, 0, 3⟩
/-- RESET_CAUSE [31:16] RO: warm resets since the last cold reset; 0 at cold reset; saturates at 0xFFFF. -/
def resetCauseWarmCount : Fld := ⟨.resetCause, 16, 16⟩
/-- BOOT_STAMP(p) [63:0] RO: count at which phase p completed (R415). -/
def bootStampStamp : Fld := ⟨.bootStamp, 0, 64⟩
/-- HBM_TRAIN(t) [1:0] RO: controller 0: 0 not started; 1 training; 2 ready; 3 fenced. -/
def hbmTrainState0 : Fld := ⟨.hbmTrain, 0, 2⟩
/-- HBM_TRAIN(t) [3:2] RO: controller 1, as state0. -/
def hbmTrainState1 : Fld := ⟨.hbmTrain, 2, 2⟩
/-- HBM_TRAIN(t) [4:4] RO: the last training was extended. -/
def hbmTrainExt : Fld := ⟨.hbmTrain, 4, 1⟩
/-- HBM_TRAIN(t) [23:8] RO: bit o = 1: training withdrew octet o (R417). -/
def hbmTrainOctetFail : Fld := ⟨.hbmTrain, 8, 16⟩
/-- MGMT_ID [31:0] RO: enterprise number of vendor messages (R436). -/
def mgmtIdEnterprise : Fld := ⟨.mgmtId, 0, 32⟩
/-- MGMT_STATUS [0:0] RO: I3C transport serves requests (R440). -/
def mgmtStatusI3cReady : Fld := ⟨.mgmtStatus, 0, 1⟩
/-- MGMT_STATUS [1:1] RO: PCIe transport serves requests. -/
def mgmtStatusPcieReady : Fld := ⟨.mgmtStatus, 1, 1⟩
/-- MGMT_STATUS [9:2] RO: MCTP endpoint ID assigned. -/
def mgmtStatusEid : Fld := ⟨.mgmtStatus, 2, 8⟩
/-- MGMT_STATUS [10:10] RO: the endpoint reported FC_DEVICE. -/
def mgmtStatusFailed : Fld := ⟨.mgmtStatus, 10, 1⟩
/-- THERM_STATUS [7:0] RO: °C, hottest die reading (R429). -/
def thermStatusHottest : Fld := ⟨.thermStatus, 0, 8⟩
/-- THERM_STATUS [9:8] RO: die of that reading: 0 C0, 1 C1, 2 H. -/
def thermStatusDie : Fld := ⟨.thermStatus, 8, 2⟩
/-- THERM_STATUS [10:10] RO: the reading is at or above 100 °C. -/
def thermStatusThermAlarm : Fld := ⟨.thermStatus, 10, 1⟩

end Fld

end Sys2Proof.Machine
end

