-- ==== Sys2Proof/Machine/State.lean ====
section
/-! DEFINITION. The state of the device: its registers, its memories, and what its blocks hold beside registers. Names of
chapters are those of the manual. Model's own fields: `pending`, `readData`, `freeCtr`, `irqs` (log entries 1, 2, 7, 9). -/
namespace Sys2Proof.Machine

/-! ### Commands in flight (chapters 9, 10, 12) -/

/-- How far a dispatched command has come. -/
inductive Phase where
  | issued      -- in the basin's issue queue or at its block on H, not yet checked
  | queued      -- accepted by its engine
  | loading     -- a jet bank load or a weight or KV fetch is in progress for it
  | loaded      -- its operand window is in place
  | running     -- started
  | epilogue    -- the runnel's epilogue still writes its outputs
  | parked      -- a HANDOFF or STEP_END that waits inside the session engine (R166)
  | saved       -- an issue-queue entry saved with its basin (R262)
  deriving DecidableEq, Repr

/-- A write a started command has computed and not yet made. -/
inductive PWrite where
  | poolAdd (w : Nat) (c : Int)
  | poolSet (w : Nat) (v : Int)
  | cist (a : Nat) (bs : List Byte)
  | dev (a : Nat) (bs : List Byte)
  | poolFree (w : Nat)
  | cistFree (a n : Nat)
  | devFree (a n : Nat)
  deriving DecidableEq, Repr

/-- A command from its dispatch to its completion. -/
structure Cmd where
  id : Nat
  ring : Nat            -- ring 8 x slice + q; 1024 + m for Mm; 2048 for a tile issued by a spout core
  slice : Nat           -- 128 for the management physical function
  opcode : Nat
  target : Nat
  tag : Nat
  digestEn : Bool
  errorsOnly : Bool
  params : Nat          -- the parameter blocks, bit 0 first
  phase : Phase
  step0 : Nat           -- step counter at the start (R223)
  nondet0 : Nat
  begun : Bool          -- has started as its engine's chapter defines it (R224)
  start : Nat           -- count at the start, once begun
  sem : Option Nat      -- semaphore a tile.issue signals at completion (R203)
  unit : Nat            -- jet of a jet tile; terrace of a cascade tile
  chain : Nat           -- the chain held from acceptance (R108)
  aux : List Nat        -- what acceptance resolved: slot entry, key slice, page frames, progress
  flags : AccFlags
  outcomes : List Nat   -- status codes met
  cyc : Nat             -- engine cycles charged
  hbmB : Nat
  cxlB : Nat
  aqdB : Nat
  hostB : Nat
  writes : List PWrite
  outs : List Byte      -- output bytes in canonical order (R226)
  result : Nat
  faultAddr : Option Nat  -- the address that failed a check
  task : Nat            -- the serial of the task that issued it, for a tile of a spout core
  refused : Option Bool -- its next write of a token record will be refused; whether by a timeout (R234)
  deriving DecidableEq, Repr

/-- A packet in a stamp queue (R250 to R256). -/
structure Packet where
  header : Nat
  params : Nat
  slot : Nat
  len : Nat
  cost : Nat
  stamp : Nat
  green : Bool
  marked : Bool         -- has left the marker
  red : Bool            -- has been marked red at least once
  deriving DecidableEq, Repr

/-- The sluice's side of one ring that no register shows. -/
structure RingSt where
  readPtr : Nat := 0
  stampQ : List Packet := []
  held : List Nat := []               -- replies held while the completion ring is full (R208)
  failedLen : Option Nat := none      -- an undispatched failing packet at SQ_HEAD; its length, 0 when its header was never read
  lost : List Nat := []               -- entries whose reply write was refused (R244)
  deriving DecidableEq, Repr

/-! ### Basins (chapters 1, 4, 9, 12) -/

/-- An outstanding access of a spout core to a line of the job address space, and its answer once it has one. -/
structure CoreAcc where
  id : Nat
  store : Bool
  line : Nat
  answer : Option (List Byte)
  failed : Bool
  deriving DecidableEq, Repr

/-- A spout core: what R197 saves, and its caches and outstanding accesses. -/
structure CoreSt where
  x : List Nat := []                  -- x1 to x31
  f : List Nat := []
  v : List Nat := []                  -- v0 to v31, 512 bits each
  fcsr : Nat := 0
  vstart : Nat := 0
  vxsat : Nat := 0
  vxrm : Nat := 0
  vl : Nat := 0
  vtype : Nat := 2 ^ 63               -- vill
  deadline : Nat := 0
  cycles : Nat := 0
  inTask : Bool := false
  resv : Option (Nat × Nat) := none       -- load reservation: address, bytes
  dcache : List (Nat × Nat × Bool) := []  -- line number, 64 bytes, dirty
  icache : List (Nat × Nat) := []
  waiting : Option (Nat × Nat × Nat) := none -- blocked in sem.wait: semaphore, amount, destination register
  claiming : Option Nat := none           -- stalled wc.claim: destination register
  accs : List CoreAcc := []
  jbuf : List (Nat × List Byte) := []     -- lines of the job address space read for the instruction at pc
  deriving DecidableEq, Repr

/-- The task of a basin (R195, R196). -/
structure Task where
  cmd : Nat             -- its command, 0 for a radio operation
  radioOp : Option (Nat × Nat)
  slice : Nat
  live : Nat            -- cores that have not ended
  start : Nat           -- count at the start, moved on by the time saved; while held, the counts run so far
  held : Bool           -- its cores are saved or in the core shadow
  watchdog : Nat        -- count at which the watchdog fires, 0 for none
  addrFault : Bool
  trap : Bool
  timeout : Bool
  exitNz : Bool
  poison : Bool         -- a core of it met a poisoned read
  cyc : Nat
  serial : Nat := 0     -- a number of its own
  deriving DecidableEq, Repr

/-- A lease of the work counter (R198). -/
structure Lease where
  idx : Nat
  core : Nat
  claim : Nat
  deriving DecidableEq, Repr

/-- A range of a basin that a started command reads, writes or accumulates into (R90). -/
structure Span where
  cmd : Nat
  pool : Bool
  lo : Nat
  len : Nat
  kind : Nat            -- 0 read, 1 write, 2 accumulate
  deriving DecidableEq, Repr

/-- A gate list (Table 12-5). -/
structure GateList where
  period : Nat
  base : Nat
  guard : Nat
  windows : List (Nat × Nat)
  deriving DecidableEq, Repr

/-- A tenant switch in progress (R260). -/
structure Switch where
  incoming : Nat
  stage : Nat           -- 1 draining, 2 saving, 3 zeroing, 4 restoring
  deriving DecidableEq, Repr

/-- Why a basin is being zeroed, and up to where. -/
structure Zeroing where
  kind : Nat            -- 1 hand-over, 2 wake, 4 radio reservation or release, 5 slice reset
  units : Nat           -- pool units zeroed
  slice : Nat           -- slice the cycles are charged to
  deriving DecidableEq, Repr

/-- What the device keeps of a saved job itself: what Table 12-3 gives no place in the save area. -/
structure SavedJob where
  task : Option Task
  inTask : List Bool    -- which cores had not ended
  ran : List Nat        -- CORE_STATUS of each core
  causes : List Nat     -- CORE_CAUSE
  instrets : List Nat
  cycles : List Nat
  reissues : Nat        -- WC_REISSUES
  fail : Nat            -- first_fail of ISSUE_STATUS
  last : Nat            -- serial of the current or last task
  holders : List Nat    -- holder field of each semaphore
  semTask : List (Nat × Nat) -- the task of each semaphore's holder
  accepted : List Nat   -- saved entries that their engines had accepted
  deriving DecidableEq, Repr

/-- What a basin holds beside its registers, its cistern and its pool. -/
structure BasinSt where
  task : Option Task := none
  lastTask : Nat := 0                 -- serial of the current or last task
  semTask : List (Nat × Nat) := []    -- by semaphore: the serial of the task whose core acquired it last
  leases : List Lease := []
  waiters : List (Nat × Nat) := []    -- blocked sem.wait in the order they began: semaphore, core
  spans : List Span := []
  gateList : Option GateList := none
  pendAct : Option Nat := none        -- act of the pending slot
  pendList : Option GateList := none  -- its list; none with an act is a removal
  switch : Option Switch := none
  zeroing : Option Zeroing := none
  parting : Option (Nat × Nat) := none  -- a repartition's zeroing: radio banks and pool units to come (R96)
  tenant : Nat := 0                   -- owner outside radio windows
  woken : Bool := false               -- woken since the last cold reset
  gateReq : Bool := false             -- gating requested and not yet in effect
  wakeStage : Nat := 0                -- 0 none, 1 queued, 2 ramping, 3 zeroing
  radioWork : Nat := 0                -- radio operations executing
  stateCopy : Nat := 0                -- BASIN_STATE at the latest gating (R41)
  deriving DecidableEq, Repr

/-- One stationary bank of a jet (R72). -/
structure Bank where
  fmt : Nat := 0
  depth : Nat := 0
  k : Nat := 0
  n : Nat := 0
  data : List Byte := []
  scales : List Byte := []
  poisoned : Bool := false
  deriving DecidableEq, Repr

/-- A jet's two banks. -/
structure JetSt where
  bank0 : Bank := {}
  bank1 : Bank := {}
  stream : Nat := 0     -- stream cycles of its last tile, the S of R78
  deriving DecidableEq, Repr

/-- One half of a weight or KV buffer. -/
structure Half where
  tag : List Nat := []
  data : List Byte := []
  cmd : Nat := 0
  deriving DecidableEq, Repr

/-- A fetch in progress: its command, its half, the reads still to return, whether it has stopped for a guard band. -/
structure Fetch where
  cmd : Nat
  half : Nat
  left : Nat
  stopped : Bool
  deriving DecidableEq, Repr

/-- A rill's buffer and lane stores (R133, R134), or a cascade's buffer and service order (R147). -/
structure RillSt where
  half0 : Half := {}
  half1 : Half := {}
  lastHalf : Nat := 1
  fetch : Option Fetch := none
  lanes : List (List Byte × List Byte) := []  -- elements and scales of each token lane
  laneGather : Nat := 0
  deriving DecidableEq, Repr

/-- A cascade (R147, R148). -/
structure CascadeSt where
  half0 : Half := {}
  half1 : Half := {}
  lastHalf : Nat := 1
  fetch : Option Fetch := none
  lastBasin : Nat := 7
  lastSlice : Nat := 0
  deriving DecidableEq, Repr

/-! ### Shadows (chapter 17) -/

/-- A digest record or a pending entry. -/
structure DigestRec where
  tag : Nat
  step : Nat
  digest : Nat
  since : Nat
  deriving DecidableEq, Repr

/-- An outstanding shadow of a slice. -/
structure Shadow where
  cmd : Nat
  role : Nat            -- 1 export, 2 compare
  params : Nat
  lastFill : Nat × Nat  -- value and count of the latest advance
  lastRec : Nat × Nat
  routeLost : Option Nat
  pending : List DigestRec
  exports : List DigestRec
  stepSeen : List Nat   -- step counts, not yet passed, of commands compared and matched
  badSteps : List Nat
  matchedSteps : Nat
  lossDue : Bool        -- the source is lost on the edge of a recorded mismatch (R376)
  deriving DecidableEq, Repr

/-! ### Slices and serving (chapters 8, 11, 12) -/

/-- A mismatch that ended the compare of a slice: the edge, the compare's command and parameters, and the completion-ring entry
of its reply (none: its reply waits among those held). -/
structure Mismatch where
  at_ : Nat
  cmd : Cmd
  entry : Option Nat
  deriving DecidableEq, Repr

/-- What a slice holds beside its registers. -/
structure SliceSt where
  key : Option Nat := none            -- its key, by its place in `State.keys`
  flast : List Nat := []              -- Flast of its eight flows (R252)
  cir : Nat := 0                      -- marker rates and sizes in force (R255)
  pir : Nat := 0
  cbs : Nat := 0
  pbs : Nat := 0
  squash : Bool := false
  drained : Bool := false
  unbind : Bool := false
  stepWas : Option (Nat × Nat × Nat) := none  -- the last advance of its step counter: when, the value before and after (R364)
  mismatch : Option Mismatch := none  -- the last mismatch that ended a compare (R376)
  lostNow : Option (Nat × Shadow) := none  -- the last compare ended by a loss of its source, and the edge
  deriving DecidableEq, Repr

/-- The session engine (R166). -/
structure ServeSt where
  sessions : List (Nat × Nat) := []   -- on-chip descriptors that are not FREE: number, 1,024 bits
  marks : List (Nat × Nat) := []      -- sessions marked kv_full or page_invalid in their step: number, status
  batches : List (Nat × Nat) := []    -- rows of the batch table that STEP_BEGIN wrote, by slice x 2^44 + address
  recs : List (Nat × Nat × Nat × Bool) := []  -- token records not yet written: slice, STEP_END command or 0, record, has a token
  deriving DecidableEq, Repr

/-! ### Radio (chapter 13) -/

/-- An admitted operation. -/
structure RadioOp where
  kind : Nat
  inst : Nat            -- instance after admission; moved by a takeover
  jet : Nat
  dep0 : Nat
  dep1 : Nat
  startOff : Nat
  deadline : Nat
  params : Nat
  budget : Nat
  bound : Nat           -- bend[i]
  st : Nat              -- 0 waiting, 1 running, 2 ended, 3 failed, 4 skipped
  moved : Bool
  late : Bool           -- has overrun (R300)
  poison : Bool
  writes : List PWrite
  flags : AccFlags
  records : List (List Byte)
  start : Nat := 0      -- count at its start
  load : Nat := 0       -- cycles of the load that a JET operation began with
  deriving DecidableEq, Repr

/-- An admitted plan. -/
structure Plan where
  cmd : Nat
  carrier : Nat
  slotStart : Nat
  ops : List RadioOp
  deriving DecidableEq, Repr

/-- A cell migration in progress (R301, R302). -/
structure Migration where
  cmd : Nat
  carrier : Nat
  dest : Bool
  peer : Nat
  switch : Nat
  extents : List (Nat × Nat)
  counter : Nat
  switched : Bool
  acked : Nat           -- extents done with
  failed : Bool
  skip : Bool           -- the extent in progress has failed; its outstanding requests are awaited
  deriving DecidableEq, Repr

/-- The wellhead. -/
structure RadioSt where
  plans : List Plan := []
  tails : List (Nat × Nat) := []      -- tail[e] by engine number
  seqIds : List (Nat × Nat) := []     -- eCPRI seqId by eAxC ID
  covered : List (Nat × Nat × Nat) := []  -- REs covered in an open window: symbol key, antenna, subcarrier
  migrations : List Migration := []
  spares : List (Nat × Nat) := []     -- wellhead engines that a spare has taken over: class, instance
  deriving DecidableEq, Repr

/-! ### Time (chapter 14) -/

/-- A received PTP frame not yet used: port, ingress stamp in 1/64 counts, bytes. -/
structure PtpRx where
  port : Nat
  stamp : Nat
  frame : List Byte
  deriving DecidableEq, Repr

/-- A tracker (R312, R313). Times are in 2^-16 ns. -/
structure TrkSt where
  sync : Option (Nat × Int × Int × Int) := none   -- a two-step Sync that waits: sequenceId, t1 part, c1 so far, t2
  seq : Nat := 0
  reqOut : Option Nat := none                     -- sequenceId of the latest Delay_Req, until its response
  t3 : Option Int := none
  exch : Option (Int × Int × Int) := none         -- latest completed exchange: t3, t4, c4
  due : Nat := 0                                  -- count before which no further Delay_Req is due
  deriving DecidableEq, Repr

/-- An output (R320): the edge it waits for, and whether its pin is asserted. -/
structure OutSt where
  j : Nat := 0
  asserted : Bool := false
  deriving DecidableEq, Repr

/-- The timing block. -/
structure TimeSt where
  count64 : Nat := 0                  -- the count in 1/64 counts
  trk0 : TrkSt := {}
  trk1 : TrkSt := {}
  driving : Nat := 0                  -- tracker that drives the servo (R315)
  inRow : Nat := 0                    -- consecutive measurements within lock_ns
  outRow : Nat := 0                   -- consecutive outliers
  lastMeas : Nat := 0                 -- count of the selected tracker's latest measurement
  slewOnly : Bool := false            -- since a switch in LOCKED or HOLDOVER no measurement was within lock_ns (R315)
  synce : List Int := []              -- consecutive agreeing SyncE measurements, newest first
  synceAt : Nat := 0                  -- count at which the SyncE measurement in progress began
  rx : List PtpRx := []
  captures : List (Nat × List (Nat × Bool)) := []
  edges : List (Nat × Nat × Bool × Nat) := []  -- by capture input, its last edge: stamp, rising; 1 queued, 2 counted as lost
  fires : List (Nat × Nat × Nat × Nat) := []   -- by launch unit: the edge of its firing, LAUNCH_FIRED and fired before
  outs : List (Nat × OutSt) := []
  masterSeq : List (Nat × Nat) := []
  masterDue : List (Nat × Nat) := []
  deriving DecidableEq, Repr

/-! ### Ethernet (chapter 15) -/

/-- A frame at a source or in an egress queue; `frame` is without its FCS. -/
structure EFrame where
  frame : List Byte
  cls : Nat
  green : Bool
  stamp : Nat
  ingress : Nat         -- ingress stamp in 1/64 counts of a forwarded frame; port of a management frame
  kind : Nat            -- 0 plain; 1 forwarded; 2 Sync or one-step; 4 Delay_Req of tracker 0; 5 of tracker 1
  tc : Bool             -- ingress port had tc_en set
  mgmt : Option Nat     -- management transmit entry it came from
  deriving DecidableEq, Repr

/-- A gate control list (R331). -/
structure Gcl where
  cycle : Nat
  base : Nat
  entries : List (Nat × Nat)          -- mask, duration
  deriving DecidableEq, Repr

/-- The marker of a class: its buckets, and the rates and sizes in force (R329, R255). -/
structure TcMark where
  tc : Nat := 0
  tp : Nat := 0
  cir : Nat := 0
  pir : Nat := 0
  cbs : Nat := 0
  pbs : Nat := 0
  deriving DecidableEq, Repr

/-- One port. -/
structure EthSt where
  queue : List EFrame := []           -- all classes, in arrival order
  source : List EFrame := []          -- device-originated frames that wait at their source
  fwd : List (Nat × EFrame) := []     -- forwarded frames on their way here, with their ingress ports
  fwdLast : Nat × Nat := (0, 0)       -- count and ingress port of the last of them that reached its queue
  flast : List Nat := []
  v : List Nat := []
  marks : List (Nat × TcMark) := []   -- by class
  busyUntil : Nat := 0
  active : Option Gcl := none
  pend : Option (Nat × Gcl) := none
  wire : List Byte := []              -- the frame last transmitted, with its FCS
  wireStamp : Nat := 0
  deriving DecidableEq, Repr

/-! ### The aqueduct (chapter 16) -/

/-- A request that the home has admitted. -/
structure Arrival where
  req : AqdReq
  sid : Option Nat      -- the sender's number of it when it is this package's own
  at_ : Nat             -- count at its admission
  deriving DecidableEq, Repr

/-- An entry of a line's queue at the home. -/
structure LineOp where
  line : Nat            -- device physical address of the 128-byte line, divided by 128
  adm : Nat             -- its request's admission number
  arr : Arrival
  addr : Nat            -- device physical address of its bytes in this line
  data : List (Option Byte)  -- of a write: the 128 bytes of the line, none where it writes nothing
  owner : Nat
  raced : Bool          -- of a read: a write of another source was ahead of it in the queue
  deriving DecidableEq, Repr

/-- A request the sender has issued or holds. -/
structure SendReq where
  id : Nat
  sl : Nat              -- the slice it is charged to
  queue : Nat           -- its issuing queue: a ring, or 4096 + core, or 8192 + slice for shadow records
  owner : Nat           -- command it serves, or 2^32 + core for a spout-core access
  req : AqdReq
  dest : Nat
  lastSend : Nat
  port : Nat            -- 8 for the package's own home
  queries : Nat         -- QUERYs sent for it
  queryT0 : Nat         -- issue count of the latest QUERY
  unresolved : Bool     -- an atomic that ended with outcome unknown (R352)
  lost : Bool           -- no longer on its way: discarded at its port (R345), or admitted at this package's own home
  asks : Nat            -- a QUERY for an unresolved number: 1 it is outstanding, 2 it waits for a credit (R347)
  deriving DecidableEq, Repr

/-- A settlement entry (R351). -/
structure Settle where
  seq : Nat
  result : Nat
  pending : Bool
  deriving DecidableEq, Repr

/-- What the home holds for one source package. -/
structure SrcSt where
  inc : Option Nat := none
  high : Option Nat := none
  entries : List (Nat × Settle) := []  -- by sequence number modulo 256
  deriving DecidableEq, Repr

/-- The aqueduct block. -/
structure AqdSt where
  lines : List LineOp := []           -- all line queues, in admission order
  input : List (Arrival × Bool) := []  -- the input queues of all sources, in arrival order; of a read: its bytes are poisoned
  turn : Option Nat := none           -- the edge, in 1/64 counts, of the latest admission on arrival
  lastSrc : Option Nat := none        -- the source served last (R348)
  heldReqs : List Arrival := []       -- requests that wait for a pending settlement entry
  srcs : List (Nat × SrcSt) := []
  replies : List AqdRep := []         -- replies of the home on their way to this package's own sender
  lastReply : Option (AqdReq × AqdRep) := none  -- the latest reply sent to another package, and its request
  sent : List SendReq := []
  nextId : Nat := 0
  seqs : List (Nat × Nat) := []       -- next sequence number by destination
  lastQueue : List (Nat × Nat) := []  -- queue served last by the credit arbiter, by destination
  waiting : List SendReq := []        -- requests that wait for a credit (R347)
  bumps : List (Nat × Nat × Nat) := []  -- by arrival counter: an edge, in 1/64 counts, and what BUMPs added to it on that edge
  deriving DecidableEq, Repr

/-! ### The spillway (chapter 18) -/

/-- What the spillway keeps of one fenceable item (R382 to R385). -/
structure ItemSt where
  count : Nat := 0
  last : Option Nat := none           -- stamp of the last report that names the item
  fence : Nat := 0                    -- 0 none, 1 set by the spillway, 2 set by the driver
  since : Nat := 0                    -- capture edge that the quiet window counts from
  tests : Nat := 0                    -- recovery count
  permanent : Bool := false
  effect : Bool := false              -- the decided fence has not yet taken effect
  testing : Nat := 0                  -- 0 none, 1 quiet-window test, 2 driver clear
  named : Bool := false               -- a report named the item since its test began
  began : Nat := 0                    -- count at which its test began
  late : Bool := false                -- a report that ended its quiet-window test is still on its way to capture
  recoveries : Nat := 0               -- its health record: recoveries counted (R385)
  deriving DecidableEq, Repr

/-- The spillway beside its registers. -/
structure SpwSt where
  reportQ : List Report := []         -- reports on their way (R28)
  items : List (Nat × ItemSt) := []   -- by unit identifier + 2^16 x sub-index
  retest : List Nat := []             -- items a reset cleared, to be tested at the basin's next wake (R420)
  log : List (Nat × Nat) := []        -- the 1,024-entry log, by index: Table 18-8
  silt : List Nat := []               -- the silt ring, oldest first
  snap : Nat := 0                     -- the snapshot of Table 18-9
  seq : Nat := 0                      -- next entry sequence number
  inferBy : Nat := 0                  -- inference fence: 0 none, 1 set by the driver, 2 by FC_DEVICE
  pinDue : Bool := false              -- a capture decided the error state of the pair
  safeDue : Bool := false             -- the safe state is decided
  lost : Bool := false                -- power control has found the spillway lost
  clearItem : Option Nat := none      -- item of the clear that is in progress
  beats : List (Nat × Nat) := []      -- count of each agent's latest heartbeat: basins 0 to 63, terraces 64 to 71, dies 72, 73
  silent : List Nat := []             -- agents found missing
  spwBeat : Nat := 0                  -- count of the spillway's latest heartbeat
  deriving DecidableEq, Repr

/-! ### Power (chapter 19) -/

/-- A start that waits for the slew bucket (R404). -/
structure SlewWait where
  engine : Nat          -- 2 x basin + jet; 128 + basin a rill; 192 + terrace a cascade; 256 + basin a runnel; 320 + basin spout cores
  weight : Nat
  since : Nat
  deriving DecidableEq, Repr

/-- Power and clock control beside its registers. -/
structure PwrSt where
  steps : List (Nat × Nat) := []      -- clock step of each basin, 15 when unlisted
  nextSteps : List (Nat × Nat) := []  -- steps decided and not yet in effect
  samples : List Nat := []            -- package power of the last 64 periods, newest first
  unmet : Bool := false               -- the condition of R402 has been entered
  droops : List Nat := []             -- islands whose supply is below the threshold
  holds : List (Nat × Nat) := []      -- basins whose tile starts a droop holds, and until which count
  stretchRep : List (Nat × Nat) := [] -- count of each island's latest stretch report
  stretchNew : List Nat := []         -- protected islands with stretch not yet reported
  waits : List SlewWait := []         -- waiting starts in the order in which they began to wait
  grants : List Nat := []             -- engines whose start has taken its weight
  lastRun : List (Nat × Nat) := []    -- count at which each engine last ran
  ramps : List Nat := []              -- engines in ramp-down
  wakeQ : List Nat := []              -- queued wakes in the order they are served
  gateQ : List Nat := []              -- gate requests held behind a wake or a reset
  deriving DecidableEq, Repr

/-! ### Reset and boot (chapters 20, 21) -/

/-- Reset pins, straps and the boot sequencer. -/
structure BootSt where
  held : Bool := true                 -- PKG_RST_N is low
  perst : Bool := true                -- PERST# is low
  supplies : Bool := true             -- every supply is in its range
  cold : Bool := true                 -- the boot sequence in progress began with a cold reset
  running : Bool := false             -- the boot sequence runs
  draws : Nat := 0                    -- device keys drawn
  warmDue : Option Nat := none        -- count at which a commanded warm reset takes effect
  resetting : Option (Nat × Nat) := none  -- kind and target of the terrace or basin reset in progress
  resetAt : Nat := 0                  -- count at which it was accepted
  thermTrip : Bool := false           -- THERMTRIP_N is driven low
  pcieUp : Bool := false
  cxlUp : Bool := false
  diesDone : Nat := 0                 -- dies of phase 3 that have answered or been given up, as bits
  deriving DecidableEq, Repr

/-- The management endpoint and the test access port. -/
structure MgmtSt where
  replyI3c : List Byte := []          -- the latest response on each transport
  replyPcie : List Byte := []
  eidI3c : Nat := 0                   -- the endpoint ID set on each transport
  eidPcie : Nat := 0
  receiver : Option (Transport × Nat) := none   -- receiver of sensor events: transport and endpoint ID
  thresholds : List Nat := []         -- thresholds of sensor 4
  events : List (Nat × Nat) := []     -- sensor events sent, newest first: sensor, value
  tap : TapIns := .bypass             -- instruction in force at the test access port
  deriving DecidableEq, Repr

/-- The periodic rows that count or move something: each acts once at a count that is due. -/
inductive Tick where
  | markers | portMarkers | governor | meters | slew | thermal | health
  deriving DecidableEq, Repr

/-- The sluice's round-robin pointers (Table 12-2). -/
structure SluiceSt where
  lastS0 : Nat := 7                   -- ring of slice 0 served last
  lastM : Nat := 3                    -- management ring served last
  deriving DecidableEq, Repr

/-! ### The machine -/

/-- The device. -/
structure State where
  pending : List Instr := []          -- commands that wait, first in first out
  freeCtr : Nat := 0                  -- numbers the free values (log entry 7)
  readData : Nat := 0                 -- what the latest register read answered, or a scan of IDCODE
  irqs : List (Nat × Nat) := []       -- MSI-X messages sent: function x 65,536 + vector, number of messages
  regs : Tbl Word64 := []             -- registers that differ from their reset values: index x 512 + register number
  fresh : Tbl (Nat × Nat) := []       -- registers in which an event set a bit or counted at the present edge (R10), numbered as in
                                      -- `regs`: the value before, and what the events have set or counted
  ticked : List Tick := []            -- periodic rows that have acted at the present count
  shadows : Tbl Word64 := []          -- full pair shadows and the high words they hold (R7)
  dev : ByteMem := {}                 -- HBM and CXL memory by device physical address, as plaintext
  devKey : Tbl Nat := []              -- number of the key each 256-byte unit was last written under (R236): 2k + 1 for key k of `keys`,
                                      -- 2n + 2 for the device key of draw n; 0: never written
  keys : List (BitVec 512) := []      -- slice keys installed so far, K1 low
  cistern : ByteMem := {}             -- basin x 2^24 + byte address
  pool : Mem PoolWord := {}           -- basin x 2^18 + word index
  host : ByteMem := {}                -- host memory: (PASID + 1, or 0 without one) x 2^64 + address
  eccC : Tbl Nat := []                -- wrong bits of cistern granules: basin x 2^21 + granule (R97)
  eccP : Tbl Nat := []                -- wrong bits of pool words: basin x 2^18 + word
  cmds : List Cmd := []               -- dispatched commands, in dispatch order
  nextCmd : Nat := 1
  rings : List (Nat × RingSt) := []
  sluice : SluiceSt := {}
  basins : List (Nat × BasinSt) := []
  cores : List (Nat × CoreSt) := []   -- basin x 8 + core
  jets : List (Nat × JetSt) := []     -- basin x 2 + jet
  rills : List (Nat × RillSt) := []
  cascades : List (Nat × CascadeSt) := []
  slices : List (Nat × SliceSt) := []
  variants : List (Nat × Nat) := []   -- variant table entries by number (R137)
  serve : ServeSt := {}
  saves : List (Nat × SavedJob) := [] -- saved jobs: slice x 64 + basin (R260 to R264)
  radio : RadioSt := {}
  time : TimeSt := {}
  eth : List (Nat × EthSt) := []
  mtx : Option EFrame := none         -- the management transmit entry read and not yet released (R333)
  mtxDue : Nat := 0
  mtxOut : List (Nat × Option (Nat × Nat)) := []  -- transmit entries read and not completed, in ring order, with byte 12 and the stamp once known
  aqd : AqdSt := {}
  shadowing : List (Nat × Shadow) := []
  spw : SpwSt := {}
  pwr : PwrSt := {}
  boot : BootSt := {}
  mgmt : MgmtSt := {}
  deriving DecidableEq, Repr

/-- Why the machine would stop with a fault: it never does. The manual gives every command an effect, or lets it be
ignored. -/
inductive Fault where
  /-- Raised by nobody; safe. -/
  | unused
  deriving DecidableEq, Repr

/-- Why a command is refused. -/
inductive Refusal where
  /-- The command's row has no meaning yet; raised by `exec`; safe. -/
  | notModelled (mnemonic : String)
  /-- An operand is out of its range (`Instr.wellFormed`): no such command reaches the device; raised by every meaning; safe. -/
  | illFormed
  deriving DecidableEq, Repr

/-- The machine right after a cold reset with PKG_RST_N still low: every register at its reset value (the table is empty),
no fence, no command, every basin gated, the count at 0 and not running, memories with nothing listed. -/
def State.reset : State := {}

end Sys2Proof.Machine
end

