-- ==== Sys2Proof/WellFormed.lean ====
section
/-! DEFINITION. Which commands are commands of the device at all: operand numbers in their ranges. An ill-formed
command is refused by name before it acts. -/
namespace Sys2Proof

/-- An access in BAR0 (R8, R36): an aligned one of 4 or 8 bytes, or a narrower one within an aligned word. -/
def okBar (addr len : Nat) : Bool :=
  (((len == 4 || len == 8) && addr % len == 0) || (1 ≤ len && len < 4 && addr % 4 + len ≤ 4)) && addr + len ≤ 0x4000000

/-- A ring: 8 × slice + q, or 1024 + m for the management ring Mm (R207). -/
def okRing (r : Nat) : Bool := r < 1028

/-- The basins, terraces and compute dies there are (R2). -/
def Agent.ok : Agent → Bool
  | .basin b => b < 64
  | .terrace t => t < 8
  | .die d => d < 2

/-- A host store with an address of 64 bits and a PASID of 20. -/
def HostWrite.ok (w : HostWrite) : Bool := w.space ≤ 2 ^ 20 && w.addr + w.data.length ≤ 2 ^ 64

/-- A section with field values that an O-RAN section header can carry. -/
def Section.ok (p : Section) : Bool :=
  p.method < 16 && 1 ≤ p.width && p.width ≤ 16 && p.start < 1024 &&
  p.prbs.all fun (x, ms) => x < 16 && ms.length == 24 && ms.all fun m => decide (-(2 ^ (p.width - 1) : Int) ≤ m ∧ m < 2 ^ (p.width - 1))

/-- A packet with field values that an O-RAN header can carry. -/
def UPlane.ok (p : UPlane) : Bool :=
  p.car < 192 && p.port < 4 && p.eaxc < 65536 && p.frame < 256 && p.sub < 10 && p.slot < 64 && p.sym < 14 && p.sections.all Section.ok

/-- A request of a form that Table 16-4 and R350 allow. -/
def AqdReq.ok (q : AqdReq) : Bool :=
  q.src < 4096 && q.job < 65536 && q.gen < 256 && q.t0 < 2 ^ 64 && q.seq < 2 ^ 32 && q.inc < 2 ^ 32 && q.addr < 2 ^ 52 &&
  match q.kind with
  | .rd => q.addr % 128 == 0
  | .wr => q.addr % 128 == 0 && q.data.length == 128 && q.mask < 2 ^ 128 && q.mask != 0
  | .bw => q.addr % 128 == 0 && q.data.length % 128 == 0 && 128 ≤ q.data.length && q.data.length ≤ 2048 &&
      q.addr / 2 ^ 21 == (q.addr + q.data.length - 1) / 2 ^ 21
  | .at => q.op < 5 && q.addr % (if q.wide then 8 else 4) == 0 && q.operand < 2 ^ 64 && q.compare < 2 ^ 64
  | .bump => q.operand < 2 ^ 64
  | .query => true

/-- A reply whose fields are in range. -/
def AqdRep.ok (p : AqdRep) : Bool := p.reason < 8 && p.result < 2 ^ 64 && (p.data.length == 0 || p.data.length == 128)

/-- A report whose fields are in range (R379: classes 0 to 5). -/
def Report.ok (r : Report) : Bool := r.unit < 65536 && r.cls < 6 && r.stamp < 2 ^ 64 && r.synd < 2 ^ 64

/-- Every operand of the command is in its range. -/
def Instr.wellFormed : Instr → Bool
  | .registerWrite _ addr len _ => okBar addr len
  | .lowWordRead _ addr len => okBar addr len
  | .highWordRead _ addr len => okBar addr len
  | .rcFieldRead _ addr len => okBar addr len
  | .heartbeat _ a => a.ok
  | .heartbeatLoss _ a => a.ok
  | .dieHeartbeatLoss _ d => d < 2
  | .fenceEffect _ item => item < 2^26
  | .fencedBasinGate _ b => b < 64
  | .jetTile _ b => b < 64
  | .jetTileStart _ b j _ => b < 64 && j < 2
  | .jetBankLoadComplete _ b j _ => b < 64 && j < 2
  | .jetTileEnd _ b j _ _ _ => b < 64 && j < 2
  | .jetFieldRemap _ b j _ => b < 64 && j < 2
  | .fieldFuseBlown _ b j => b < 64 && j < 2
  | .cisternPart _ b _ => b < 64
  | .cisternPartZeroingDone _ b => b < 64
  | .cisternSteal _ b => b < 64
  | .cxlLinkDown _ => true
  | .cxlLinkUp _ => true
  | .runnelPass _ b => b < 64
  | .runnelPassStart _ b _ => b < 64
  | .runnelPassEnd _ b _ => b < 64
  | .epilogueComplete _ b u => b < 64 && u.lane < 3
  | .rillTile _ b _ => b < 64
  | .rillFetchStart _ b => b < 64
  | .rillFetchReturn _ b _ _ => b < 64
  | .rillTileStart _ b _ => b < 64
  | .rillTileEnd _ b _ _ => b < 64
  | .variantWrite _ r => okRing r
  | .cascadeForward _ b => b < 64
  | .cascadeMerge _ b => b < 64
  | .cascadeBackward _ b => b < 64
  | .cascadeFetchStart _ t => t < 8
  | .cascadeFetchReturn _ t _ _ => t < 8
  | .cascadeTileStart _ t _ _ => t < 8
  | .cascadeTileEnd _ t _ _ => t < 8
  | .sessionCreate _ => true
  | .sessionCancel _ => true
  | .sessionPause _ => true
  | .sessionRebuild _ => true
  | .sessionRelease _ => true
  | .kvProvision _ => true
  | .kvReclaim _ => true
  | .kvReserve _ => true
  | .kvAppend _ _ => true
  | .prefixSeal _ => true
  | .prefixAttach _ => true
  | .prefixDrop _ => true
  | .handoff _ => true
  | .handoffArrival _ s => s < 128
  | .handoffTimeout _ s => s < 128
  | .stepBegin _ => true
  | .stepEnd _ => true
  | .stepEndResume _ s => s < 128
  | .spoutTask _ b => b < 64
  | .spoutTaskStart _ b => b < 64
  | .spoutInstruction _ c _ poison => c < 512 && poison < 3
  | .spoutEcall _ c _ => c < 512
  | .spoutWatchdog _ b => b < 64
  | .wcClaim _ c => c < 512
  | .wcClaimResume _ c => c < 512
  | .wcDone _ c => c < 512
  | .spoutSemSignal _ c => c < 512
  | .semWait _ c => c < 512
  | .semWaitAcquire _ b i => b < 64 && i < 32
  | .semWaitDeadline _ c => c < 512
  | .semTry _ c => c < 512
  | .tileIssue _ c _ => c < 512
  | .spoutAccessReturn _ c => c < 512
  | .doorbell _ page off _ _ => page < 129 && off < 65536
  | .packetRead _ r host => okRing r && host.all HostWrite.ok
  | .packetDispatch _ => true
  | .nop _ r => okRing r
  | .fence _ r => okRing r
  | .fenceComplete _ r => okRing r
  | .wait _ r => okRing r
  | .waitSatisfied _ r => okRing r
  | .waitTimeout _ r => okRing r
  | .counterAdd _ r => okRing r
  | .semSignal _ r => okRing r
  | .copy _ r _ _ host => okRing r && host.all HostWrite.ok
  | .fill _ r => okRing r
  | .copyComplete _ r => okRing r
  | .cqTailWrite _ r _ => okRing r
  | .ringEnable _ r _ => okRing r
  | .ringResume _ r _ => okRing r
  | .sliceEnable _ s _ => s < 128
  | .sliceDisable _ s _ => s < 128
  | .hostRequestRefused _ kind _ _ => kind < 3
  | .sliceFrozen _ s => s < 128
  | .keyLoad _ s _ => s < 128
  | .keyErase _ s _ => s < 128
  | .memRangeWrite _ s i _ _ => s < 128 && i < 8
  | .sliceBasinsWrite _ s _ => s < 128
  | .sliceReset _ s _ => s < 128
  | .sliceResetDrained _ s => s < 128
  | .sliceResetComplete _ s => s < 128
  | .handoverZeroingDone _ b => b < 64
  | .markerRefill _ => true
  | .markerEnable _ s _ => s < 128
  | .weightWrite _ s _ => s < 128
  | .fixedShareWrite _ s _ => s < 128
  | .yieldRequest _ b => b < 64
  | .quantumExpiry _ b => b < 64
  | .yieldDrained _ b => b < 64
  | .saveComplete _ b _ p _ => b < 64 && p < 4
  | .restoreComplete _ b _ => b < 64
  | .effectiveTierUpdate _ => true
  | .gateList _ r _ => okRing r
  | .gateListRemove _ r => okRing r
  | .gateListAct _ b => b < 64
  | .guardBandBegin _ b => b < 64
  | .windowOpen _ b => b < 64
  | .windowClose _ b => b < 64
  | .windowExtendedClose _ b => b < 64
  | .carrierEnable _ c _ => c < 192
  | .uplaneSection _ p => p.ok
  | .receiveWindowClose _ c _ sym => c < 192 && sym < 14
  | .dlSymbolEmission _ c _ sym => c < 192 && sym < 14
  | .radioReservedWrite _ _ => true
  | .radioEnable _ _ => true
  | .slotPlan _ r _ => okRing r
  | .ldpcDec _ i _ => i < 32
  | .ldpcEnc _ i _ => i < 16
  | .polarDec _ i _ => i < 8
  | .polarEnc _ i _ => i < 8
  | .dft _ i _ => i < 16
  | .prach _ i _ => i < 16
  | .dmrsMeas _ i _ => i < 16
  | .radioJetOp _ b j _ => b < 64 && j < 2
  | .radioSpoutOp _ b => b < 64
  | .cplaneTx _ c _ => c < 192
  | .spoutBudgetStop _ b => b < 64
  | .radioOpEnd _ _ _ _ _ => true
  | .slotOverrun _ _ _ => true
  | .radioTakeover _ kind _ => kind < 5
  | .cellMigrateSource _ r _ => okRing r
  | .cellMigrateDest _ r _ => okRing r
  | .migrationSwitch _ c => c < 192
  | .migrationSourceDone _ c => c < 192
  | .migrationArrival _ c => c < 192
  | .migrationTimeout _ c => c < 192
  | .syncRx _ p => p < 4
  | .followUpRx _ p => p < 4
  | .delayRespRx _ p => p < 4
  | .delayReqRx _ p => p < 4
  | .delayReqTx _ i => i < 2
  | .masterSyncTx _ p => p < 4
  | .holdoverEntry _ => true
  | .freeRunWrite _ _ => true
  | .trackSelWrite _ _ => true
  | .synceMeasure _ freq => -(2^31) <= freq && freq < 2^31
  | .synceLoss _ => true
  | .outputEnable _ k _ => k < 8
  | .outputDisable _ k _ => k < 8
  | .outputEdge _ k => k < 8
  | .captureEdge _ j _ => j < 4
  | .capMetaRead _ j => j < 4
  | .launchArm _ u _ => u < 4
  | .launchDisarm _ u _ => u < 4
  | .launchFire _ u => u < 4
  | .ethFrameRx _ p _ _ => p < 4
  | .ethLinkChange _ p _ lanes => p < 4 && lanes < 16
  | .forwardEnqueue _ w => w.egress < 4 && w.ingress < 4
  | .egressTransmit _ p => p < 4
  | .ethMarkerRefill _ => true
  | .gclArm _ p _ => p < 4
  | .gclSwitch _ p => p < 4
  | .mgmtTxEntry _ => true
  | .mgmtTxNotBefore _ => true
  | .flitReplay _ p => p < 8
  | .aqdLinkDown _ p => p < 8
  | .aqdLinkUp _ p pkg tray lanes => p < 8 && pkg < 4096 && tray < 8 && lanes < 16
  | .aqdTrainTimeout _ p lanes => p < 8 && lanes < 16
  | .aqdRd _ q _ => q.ok && q.kind == .rd
  | .aqdWr _ q => q.ok && q.kind == .wr
  | .aqdBw _ q => q.ok && q.kind == .bw
  | .aqdAt _ q => q.ok && q.kind == .at
  | .aqdBump _ q => q.ok && q.kind == .bump
  | .aqdQuery _ q => q.ok && q.kind == .query
  | .homeLineUpdate _ line _ => line < 2^52
  | .aqdReply _ p => p.ok
  | .requestExpiry _ _ _ => true
  | .senderWaitClose _ _ => true
  | .aqdRetry _ _ => true
  | .creditGrant _ d => d < 4096
  | .aqdAtomic _ r => okRing r
  | .copyAsync _ r _ _ => okRing r
  | .aqdEnable _ _ => true
  | .arrivalCounterWrite _ i _ => i < 4096
  | .shadowExport _ r => okRing r
  | .shadowCompare _ r => okRing r
  | .shadowEnd _ r => okRing r
  | .shadowFillDone _ s => s < 128
  | .shadowPendingTimeout _ s => s < 128
  | .sourceLost _ s => s < 128
  | .sourceLostCmd _ s _ => s < 128
  | .detStepWrite _ s _ => s < 128
  | .faultReportCapture _ arisen => arisen.all Report.ok
  | .errorPairAssert _ => true
  | .fenceSet _ _ => true
  | .fenceClear _ _ => true
  | .quietWindowClose _ item => item < 2^26
  | .recoveryTestDone _ item _ => item < 2^26
  | .inferFence _ _ => true
  | .inferClear _ _ => true
  | .pinClear _ _ => true
  | .siltFreeze _ _ => true
  | .siltRearm _ _ => true
  | .enterSafe _ _ => true
  | .safeStateEntry _ => true
  | .driverMarker _ _ => true
  | .spillwayHeartbeat _ => true
  | .spillwayLoss _ => true
  | .healthDecay _ => true
  | .governorPeriod _ => true
  | .basinStepChange _ b => b < 64
  | .droop _ i _ => i < 96
  | .droopRecovery _ i _ => i < 96
  | .stretchReport _ i => i < 96
  | .slewRefill _ => true
  | .slewStartGrant _ => true
  | .rampDownEnd _ e => e < 200
  | .basinGateReq _ _ => true
  | .basinGateEffect _ b => b < 64
  | .basinWakeReq _ _ => true
  | .wakeRampDone _ b => b < 64
  | .wakeZeroingDone _ b fails => b < 64 && fails.all (· < 2^26)
  | .energyMeterSample _ uj power => uj.length == 5 && power < 65536
  | .thermalSample _ c0 c1 h => c0 < 256 && c1 < 256 && h < 256
  | .coldReset _ _ => true
  | .pkgRstRelease _ => true
  | .perstAssert _ => true
  | .perstRelease _ => true
  | .resetCmdWarm _ _ => true
  | .warmResetEffect _ => true
  | .resetCmdTerrace _ _ => true
  | .resetCmdBasin _ _ => true
  | .terraceResetDone _ => true
  | .basinResetDone _ => true
  | .fusesLoaded _ pkg tray => pkg < 4096 && tray < 8
  | .hubReady _ => true
  | .pcieReady _ => true
  | .dieReady _ d _ => d < 2
  | .hbmControllerTrained _ t c _ failed => t < 8 && c < 2 && failed.all (· < 64)
  | .localDone _ => true
  | .pcieLinkDown _ => true
  | .mctpControl _ _ _ => true
  | .pldmGetSensor _ _ id => id < 65536
  | .setEventReceiver _ _ eid thresholds => eid < 256 && thresholds.all (· < 65536)
  | .vendorSiltStatus _ _ => true
  | .vendorSiltEntry _ _ i => i < 65536
  | .vendorSiltSnap _ _ b => b < 256
  | .vendorClassCount _ _ k => k < 256
  | .vendorHealth _ _ => true
  | .jtagInstruction _ _ => true
  | .supplyRemoval _ _ => true

end Sys2Proof
end

