-- ==== Sys2Proof/Machine/Ops.lean ====
section
/-! DEFINITION. The named operations over registers, time, reports and the blocks' records that every meaning uses. -/
namespace Sys2Proof.Machine

/-! ### Registers (R7 to R11) -/

/-- The key of register `i` of name `n` in the table, and back. -/
def regKey (n : RegName) (i : Nat) : Nat := i * 512 + n.ctorIdx
def keyReg (k : Nat) : RegName := RegName.ofNat (k % 512)
def keyIdx (k : Nat) : Nat := k / 512

/-- Registers of Table 12-10 for slice 0: they read zero and discard writes (R273). -/
def noSched (n : RegName) (i : Nat) : Bool :=
  match n with
  | .schedShare | .schedMark | .schedCir | .schedPir | .schedCbs | .schedPbs | .schedTc | .schedTp | .schedEffTier
  | .schedSaved | .schedGreen | .schedYellow | .schedRed | .schedSaves | .schedRestores => i == 0
  | .saveBase => i < 8
  | _ => false

/-- The bits of register `i` of name `n` that can be other than zero: those of its fields (R9), none where the manual wires the
register to zero (R242, R273). -/
def regMask (n : RegName) (i : Nat) : Nat :=
  if noSched n i || (n == .sliceViolMask && i == 0) then 0 else n.mask

/-- The reset value of a register (R11). -/
def regReset (n : RegName) (i : Nat) : Word64 := BitVec.ofNat 64 (n.resetVal i &&& regMask n i)

def State.reg (s : State) (n : RegName) (i : Nat := 0) : Nat := (Tbl.get (regReset n i) s.regs (regKey n i)).toNat

/-- A register takes a value; bits that it does not have stay zero (R9). -/
def State.setReg (s : State) (n : RegName) (i : Nat) (v : Nat) : State :=
  { s with regs := Tbl.set (regReset n i) s.regs (regKey n i) (BitVec.ofNat 64 (v &&& regMask n i)) }

/-- An entry of the register table: not its register's reset value, and without a bit that its register does not have. -/
def regEntryOk (e : Nat × Word64) : Bool :=
  e.2 != regReset (keyReg e.1) (keyIdx e.1) && e.2.toNat &&& regMask (keyReg e.1) (keyIdx e.1) == e.2.toNat

/-- The form of the register table: keys rise, and every entry is in order. -/
def regsOk (t : Tbl Word64) : Bool := t.rising && t.all regEntryOk

/-- Replace bits `lo` to `lo + w - 1` of `x` by `v`. -/
def putBits (x lo w v : Nat) : Nat := x - slice x lo w * 2 ^ lo + v % 2 ^ w * 2 ^ lo

/-- Read a field. -/
def State.rd (s : State) (f : Fld) (i : Nat := 0) : Nat := slice (s.reg f.reg i) f.lo f.width

/-- Set a field. -/
def State.wr (s : State) (f : Fld) (i : Nat) (v : Nat) : State :=
  s.setReg f.reg i (putBits (s.reg f.reg i) f.lo f.width v)

/-- Is a one-bit field set? -/
def State.on (s : State) (f : Fld) (i : Nat := 0) : Bool := s.rd f i == 1

/-- Add to a counter field that wraps. -/
def State.bump (s : State) (f : Fld) (i : Nat) (k : Nat := 1) : State := s.wr f i (s.rd f i + k)

/-- An event sets a bit or counts `k` at the present edge: a clear at the same edge keeps it (R10). -/
def State.note (s : State) (f : Fld) (i k : Nat) : State :=
  let key := regKey f.reg i
  let (before, added) := (Tbl.find s.fresh key).getD (s.reg f.reg i, 0)
  let n := min (2 ^ f.width - 1) (slice added f.lo f.width + k)
  { s with fresh := Tbl.put s.fresh key (before, putBits added f.lo f.width n) }

/-- Add to a counter field that saturates. -/
def State.bumpSat (s : State) (f : Fld) (i : Nat) (k : Nat := 1) : State :=
  (s.note f i k).wr f i (min (2 ^ f.width - 1) (s.rd f i + k))

/-- An event sets a bit that software clears by a write or a read. -/
def State.raise (s : State) (f : Fld) (i : Nat) : State := (s.note f i 1).wr f i 1

/-- The bits of the fields with an access code of which `p` holds. -/
def RegName.bits (n : RegName) (p : Access → Bool) : Nat :=
  n.fields.foldl (fun m f => if p f.acc then m ||| (2 ^ f.width - 1) * 2 ^ f.lo else m) 0

/-- The bits of `old` outside `mask`, and those of `v` inside it. -/
def mergeBits (old v mask : Nat) : Nat := old - (old &&& mask) + (v &&& mask)

/-- What the events of the present edge have set or counted in a register: the value before them, and what they added (R10). -/
def State.freshOf (s : State) (n : RegName) (i : Nat) : Option (Nat × Nat) := Tbl.find s.fresh (regKey n i)

/-- W1C bits that an event has set at the present edge end set (R10). -/
def State.keepFresh (s : State) (n : RegName) (i : Nat) : State :=
  match s.freshOf n i with
  | some (_, added) => s.setReg n i (s.reg n i ||| (added &&& n.bits (· == .w1c)))
  | none => s

/-- Bit `b` of a register. -/
def State.regBit (s : State) (n : RegName) (i b : Nat) : Bool := bitAt (s.reg n i) b

/-- Set bit `b` of a register. -/
def State.setRegBit (s : State) (n : RegName) (i b : Nat) (v : Bool) : State :=
  s.setReg n i (putBits (s.reg n i) b 1 (nat1 v))

/-- Give back their reset values to the registers of which `p` holds (R11), and empty the shadows of their pairs (R7). -/
def State.resetRegs (s : State) (p : RegName → Nat → Bool) : State :=
  let keep (k : Nat) : Bool := ! p (keyReg k) (keyIdx k)
  { s with regs := s.regs.filter fun e => keep e.1, shadows := s.shadows.filter fun e => keep e.1,
           fresh := s.fresh.filter fun e => keep e.1 }

/-! ### Time (R17, R305) -/

/-- The common count: 64 bits. -/
def State.now (s : State) : Nat := s.time.count64 / 64 % 2 ^ 64

/-- Time passes: `dt` in 1/64 counts; a later time is another edge. The count runs from boot phase 0 on (R415). -/
def State.advance (s : State) (dt : Nat) : State :=
  let fresh := if dt = 0 then s.fresh else []
  if s.boot.running then
    let ticked := if (s.time.count64 + dt) / 64 = s.time.count64 / 64 then s.ticked else []
    { s with fresh := fresh, ticked := ticked, time := { s.time with count64 := s.time.count64 + dt } }
  else { s with fresh := fresh }

/-- Is the count a multiple of 1,024? -/
def State.tick1024 (s : State) : Bool := s.now % 1024 == 0

/-- A periodic row acts when it is due, and once at its count. -/
def State.periodic (s : State) (t : Tick) (due : Bool) (k : State → State) : State :=
  if due && !s.ticked.contains t then k { s with ticked := t :: s.ticked } else s

/-- The frame of every meaning: an ill-formed command is refused; otherwise time passes and the command acts. -/
def enterIf (ok : Bool) (dt : Nat) (s : State) (k : State → State) : Host.Outcome State Fault Refusal :=
  if ok then .next (k (s.advance dt)) else .refused .illFormed

/-- The frame of the meaning of command `c`. -/
def enter (c : Instr) (dt : Nat) (s : State) (k : State → State) : Host.Outcome State Fault Refusal :=
  enterIf c.wellFormed dt s k

/-- An event whose condition does not hold does not occur: only time passes (log entry 3). -/
def State.whenever (s : State) (p : Bool) (k : State → State) : State := if p then k s else s

/-- The same over an optional subject. -/
def State.forSome {α : Type} (s : State) (o : Option α) (k : State → α → State) : State :=
  match o with
  | some a => k s a
  | none => s

/-- A free number, and the state with the counter of free values advanced. -/
def State.free (s : State) : Nat × State := (Config.freeNat s.freeCtr, { s with freeCtr := s.freeCtr + 1 })

/-! ### Unit identifiers (Table 1-6) and reports (R27) -/

def unitBasin (b u : Nat) : Nat := b / 8 * 1024 + b % 8 * 128 + u
def unitTerrace (t u : Nat) : Nat := 8192 + t * 1024 + u
def unitHub (k : Nat) : Nat := 16384 + k
def unitDie (d : Nat) : Nat := 24576 + d

/-- A source reports: unit, class, syndrome, with the stamp of now. -/
def State.report (s : State) (unit cls synd : Nat) : State :=
  { s with spw := { s.spw with reportQ := s.spw.reportQ ++ [⟨unit, cls, s.now, synd⟩] } }

/-- A report whose syndrome the manual fixes only in its low `w` bits: the rest is free. -/
def State.reportLow (s : State) (unit cls w low : Nat) : State :=
  let (n, s) := s.free
  s.report unit cls (n % 2 ^ (64 - w) * 2 ^ w + low % 2 ^ w)

/-- An FC_INFO event (Table 18-1) whose syndrome is free. -/
def State.info (s : State) (unit : Nat) : State := s.reportLow unit 0 0 0

/-- The block whose window holds a BAR0 address, as a unit identifier: the basin agent of a basin window, the terrace
agent of a terrace window, a hub block otherwise. -/
def unitOfAddr (a : Nat) : Nat :=
  if 0x2000000 ≤ a then
    let t := (a - 0x2000000) / 0x400000 % 8
    let o := (a - 0x2000000) % 0x400000
    if 0x100000 ≤ o ∧ o < 0x300000 then unitBasin (8 * t + (o - 0x100000) / 0x40000) 16 else unitTerrace t 4
  else if 0x1C00000 ≤ a then unitHub 20
  else if 0x1800000 ≤ a then unitDie ((a - 0x1800000) / 0x100000 % 4)
  else if 0x0E00000 ≤ a then unitHub 0
  else if 0x0C00000 ≤ a then unitHub 1
  else if 0x0800000 ≤ a then unitHub 3
  else if 0x0400000 ≤ a then unitHub 8
  else if 0x0200000 ≤ a then unitHub (4 + (a - 0x200000) / 0x40000 % 4)
  else if 0x0100000 ≤ a then unitHub 2
  else unitHub 18

/-! ### Records of basins, cores, engines, slices, rings -/

def State.basin (s : State) (b : Nat) : BasinSt := Tbl.get {} s.basins b
def State.setBasin (s : State) (b : Nat) (x : BasinSt) : State := { s with basins := Tbl.set {} s.basins b x }
def State.core (s : State) (c : Nat) : CoreSt := Tbl.get {} s.cores c
def State.setCore (s : State) (c : Nat) (x : CoreSt) : State := { s with cores := Tbl.set {} s.cores c x }
def State.jet (s : State) (j : Nat) : JetSt := Tbl.get {} s.jets j
def State.setJet (s : State) (j : Nat) (x : JetSt) : State := { s with jets := Tbl.set {} s.jets j x }
def State.rill (s : State) (b : Nat) : RillSt := Tbl.get {} s.rills b
def State.setRill (s : State) (b : Nat) (x : RillSt) : State := { s with rills := Tbl.set {} s.rills b x }
def State.cascade (s : State) (t : Nat) : CascadeSt := Tbl.get {} s.cascades t
def State.setCascade (s : State) (t : Nat) (x : CascadeSt) : State := { s with cascades := Tbl.set {} s.cascades t x }
def State.sliceSt (s : State) (i : Nat) : SliceSt := Tbl.get {} s.slices i
def State.setSliceSt (s : State) (i : Nat) (x : SliceSt) : State := { s with slices := Tbl.set {} s.slices i x }
def State.ring (s : State) (r : Nat) : RingSt := Tbl.get {} s.rings r
def State.setRing (s : State) (r : Nat) (x : RingSt) : State := { s with rings := Tbl.set {} s.rings r x }
def State.ethPort (s : State) (p : Nat) : EthSt := Tbl.get {} s.eth p
def State.setEth (s : State) (p : Nat) (x : EthSt) : State := { s with eth := Tbl.set {} s.eth p x }

/-- The slice of a ring; 128 stands for the management physical function. -/
def ringSlice (r : Nat) : Nat := if r < 1024 then r / 8 else 128

/-- SLICE_STATUS.state of a slice; the management physical function counts as active. -/
def State.sliceState (s : State) (sl : Nat) : Nat := if sl = 128 then 1 else s.rd Fld.sliceStatusState sl
def State.sliceActive (s : State) (sl : Nat) : Bool := s.sliceState sl == 1

/-- Is basin `b` assigned to slice `sl` (SLICE_BASINS)? -/
def State.assigned (s : State) (sl b : Nat) : Bool := sl < 128 && s.regBit .sliceBasins sl b

def State.owner (s : State) (b : Nat) : Nat := s.rd Fld.basinStateOwnerSlice b
def State.gated (s : State) (b : Nat) : Bool := s.on Fld.basinStateGated b
def State.fencedBasin (s : State) (b : Nat) : Bool := s.on Fld.basinStateFenced b
def State.reserved (s : State) (b : Nat) : Bool := s.on Fld.basinStateRadioReserved b
def State.windowOpen (s : State) (b : Nat) : Bool := s.on Fld.basinStateRadioWindow b
def State.zeroing (s : State) (b : Nat) : Bool := s.on Fld.basinStateZeroing b

/-- Named in a gate list, active or pending (R270). -/
def State.gateListed (s : State) (b : Nat) : Bool :=
  let x := s.basin b
  x.gateList.isSome || (x.pendAct.isSome && x.pendList.isSome)

/-- In the safe state (R387)? Under the inference fence (R386)? -/
def State.safe (s : State) : Bool := s.rd Fld.spwStatusState == 2
def State.inferFenced (s : State) : Bool := s.spw.inferBy != 0

/-! ### Commands -/

/-- Change command `id`. -/
def State.modCmd (s : State) (id : Nat) (f : Cmd → Cmd) : State :=
  { s with cmds := s.cmds.map fun c => if c.id = id then f c else c }

def State.cmd? (s : State) (id : Nat) : Option Cmd := s.cmds.find? (·.id == id)
def State.dropCmd (s : State) (id : Nat) : State := { s with cmds := s.cmds.filter (·.id != id) }

/-- A field of a command's parameters. -/
def Cmd.par (c : Cmd) (lo w : Nat) : Nat := Sys2Proof.slice c.params lo w
/-- 32-bit word `i` of the parameters. -/
def Cmd.word (c : Cmd) (i : Nat) : Nat := Sys2Proof.slice c.params (32 * i) 32
/-- 64-bit quantity in words `i` and `i + 1`. -/
def Cmd.dword (c : Cmd) (i : Nat) : Nat := Sys2Proof.slice c.params (32 * i) 64

/-- Note a status code a command has met. -/
def Cmd.meet (c : Cmd) (code : Nat) : Cmd := { c with outcomes := c.outcomes ++ [code] }

/-! ### Lists -/

/-- Replace the element at `i`. -/
def setAt {α : Type} (l : List α) (i : Nat) (a : α) : List α := l.set i a

/-- Apply `f` over a list, state first. -/
def State.each {α : Type} (s : State) (l : List α) (f : State → α → State) : State := l.foldl f s

end Sys2Proof.Machine
end

