-- ==== Sys2Proof/Machine/Memory.lean ====
section
/-! DEFINITION. The memories: cistern and pool with their ranges and SECDED (R91 to R98), device physical memory with its
map, withdrawn octets and encryption (R33 to R35, R235, R236), host memory (R232), and overlapping accesses (R90). -/
namespace Sys2Proof.Machine

/-! ### Ranges in a basin (R95) -/

def poolWords : Nat := 229376
def cisternBytes : Nat := 0xC00000

/-- Banks and 1,024-word units of the radio partition of basin `b` (Table 4-4). -/
def State.radioBanks (s : State) (b : Nat) : Nat := s.rd Fld.cisternPartRadioBanks b
def State.radioUnits (s : State) (b : Nat) : Nat := s.rd Fld.cisternPartRadioPoolUnits b

/-- First byte and first word of the radio partition. -/
def State.partC (s : State) (b : Nat) : Nat := (48 - s.radioBanks b) * 0x40000
def State.partP (s : State) (b : Nat) : Nat := (224 - s.radioUnits b) * 1024

/-- R95: the ranges of the owner of an access: slice `sl` in basin `b`. Slice 0 has none in a basin that is neither
reserved nor in a radio window. -/
def State.bounds (s : State) (sl b : Nat) : Bounds :=
  if sl = 0 then
    if s.reserved b then ⟨0, cisternBytes, 0, poolWords⟩
    else if s.windowOpen b then ⟨s.partC b, cisternBytes, s.partP b, poolWords⟩
    else ⟨0, 0, 0, 0⟩
  else ⟨0, s.partC b, 0, s.partP b⟩

/-! ### Cistern and pool cells -/

def cKey (b a : Nat) : Nat := b * 2 ^ 24 + a
def pKey (b w : Nat) : Nat := b * 2 ^ 18 + w
def gKey (b g : Nat) : Nat := b * 2 ^ 21 + g

def State.cByte (s : State) (b a : Nat) : Byte := ByteMem.get s.cistern (cKey b a)
def State.cRead (s : State) (b a n : Nat) : List Byte := ByteMem.read s.cistern (cKey b a) n
/-- `n` bytes as a little-endian number (R3). -/
def State.cNat (s : State) (b a n : Nat) : Nat := leNat (s.cRead b a n)

/-- A pool word as a signed number (R57). -/
def State.pWord (s : State) (b w : Nat) : Int := (Mem.get 0 Config.freeWord s.pool (pKey b w)).toInt

/-- Element `i` of packed elements of a format that begin at byte `a` of the cistern (R46). -/
def State.cElem (s : State) (b a code i : Nat) : Nat :=
  let w := fmtBits code
  if w = 6 then Sys2Proof.slice (s.cNat b (a + i / 4 * 3) 3) (i % 4 * 6) 6
  else if w = 4 then Sys2Proof.slice (s.cByte b (a + i / 2)).toNat (i % 2 * 4) 4
  else s.cNat b (a + i * (w / 8)) (w / 8)

/-- `n` elements in a row. -/
def State.cElems (s : State) (b a code n : Nat) : List Nat := (List.range n).map fun i => s.cElem b a code i

/-- The same over bytes that have already been read. -/
def elemOf (bs : List Byte) (code i : Nat) : Nat :=
  let w := fmtBits code
  let at_ (k n : Nat) : Nat := leNat ((bs.drop k).take n)
  if w = 6 then Sys2Proof.slice (at_ (i / 4 * 3) 3) (i % 4 * 6) 6
  else if w = 4 then Sys2Proof.slice (at_ (i / 2) 1) (i % 2 * 4) 4
  else at_ (i * (w / 8)) (w / 8)

/-! ### SECDED (R97) -/

/-- An upset adds an error: two single-bit errors in one granule count as a double-bit error. -/
def State.upset (s : State) (u : Upset) : State :=
  if u.pool then
    { s with eccP := Tbl.set 0 s.eccP (pKey u.b u.unit) (if u.double then 2 else min 2 (Tbl.get 0 s.eccP (pKey u.b u.unit) + 1)) }
  else
    { s with eccC := Tbl.set 0 s.eccC (gKey u.b u.unit) (if u.double then 2 else min 2 (Tbl.get 0 s.eccC (gKey u.b u.unit) + 1)) }

def State.upsets (s : State) (us : List Upset) : State := us.foldl State.upset s

/-- Keys of the errors in bytes `lo` to `lo + n - 1` of the cistern, or in words of the pool, with what is wrong. -/
def State.errC (s : State) (b lo n : Nat) : List (Nat × Nat) :=
  if n = 0 then [] else s.eccC.filter fun e => gKey b (lo / 8) ≤ e.1 && e.1 ≤ gKey b ((lo + n - 1) / 8)
def State.errP (s : State) (b lo n : Nat) : List (Nat × Nat) :=
  s.eccP.filter fun e => pKey b lo ≤ e.1 && e.1 < pKey b (lo + n)

/-- A double-bit error lies in these bytes or words: the read is poisoned. -/
def State.badC (s : State) (b lo n : Nat) : Bool := (s.errC b lo n).any (·.2 == 2)
def State.badP (s : State) (b lo n : Nat) : Bool := (s.errP b lo n).any (·.2 == 2)

/-- One error found by a read: corrected and counted, or reported as uncorrected. -/
def State.eccFound (s : State) (b unit e : Nat) : State :=
  if e = 2 then (s.bumpSat Fld.memEccUncorrected b).reportLow (unitBasin b unit) 2 0 0
  else (s.bumpSat Fld.memEccCorrected b).reportLow (unitBasin b unit) 1 0 0

/-- The errors that reading one range finds. -/
def State.eccRead (s : State) (b : Nat) (n : Need) : State :=
  match n.sp with
  | .cistern => s.each (s.errC b n.lo n.len) fun s e => s.eccFound b 6 e.2
  | .pool => s.each (s.errP b n.lo n.len) fun s e => s.eccFound b 7 e.2
  | .dev => s

def State.eccReads (s : State) (b : Nat) (ns : List Need) : State := s.each ns fun s n => s.eccRead b n

/-- A store that these reservations see ends them: `hit` takes a core, and its reservation's first address and length. -/
def State.breakResv (s : State) (hit : Nat → Nat → Nat → Bool) : State :=
  s.each (s.cores.filter fun x => match x.2.resv with | some r => hit x.1 r.1 r.2 | none => false) fun s x =>
    s.setCore x.1 { s.core x.1 with resv := none }

/-- Bytes of the cistern of basin `b`, or of device physical memory in the spout cores' device window, are written. -/
def State.cStored (s : State) (b a n : Nat) : State := s.breakResv fun c lo m => c / 8 % 64 == b && lo < a + n && a < lo + m
def State.devStored (s : State) (a n : Nat) : State := s.breakResv fun _ lo m => lo < 2 ^ 44 + a + n && 2 ^ 44 + a < lo + m

/-- Write bytes to the cistern. A granule written only in part is read first; a double-bit error in it stops its part
of the write (second component: the access failed). -/
def State.cWrite (s : State) (b a : Nat) (bs : List Byte) : State × Bool :=
  let s := s.cStored b a bs.length
  if s.eccC.isEmpty then ({ s with cistern := ByteMem.write s.cistern (cKey b a) bs }, false) else
  let n := bs.length
  let hi := a + n
  let partFirst := a % 8 != 0 || (hi < a / 8 * 8 + 8)
  let partLast := hi % 8 != 0
  let badFirst := n != 0 && partFirst && s.badC b a 1
  let badLast := n != 0 && partLast && s.badC b (hi - 1) 1
  let s := if n != 0 && partFirst then s.eccRead b ⟨.cistern, a, 1⟩ else s
  let s := if n != 0 && partLast && (hi - 1) / 8 != a / 8 then s.eccRead b ⟨.cistern, hi - 1, 1⟩ else s
  let lo' := if badFirst then min hi (a / 8 * 8 + 8) else a
  let hi' := if badLast then max lo' ((hi - 1) / 8 * 8) else hi
  let bs' := (bs.drop (lo' - a)).take (hi' - lo')
  ({ s with
     cistern := ByteMem.write s.cistern (cKey b lo') bs'
     eccC := if bs'.isEmpty then s.eccC else
       s.eccC.filter fun e => e.1 < gKey b (lo' / 8) || gKey b ((hi' - 1) / 8) < e.1 }, badFirst || badLast)

/-- Write a pool word. -/
def State.pWrite (s : State) (b w : Nat) (v : Int) : State :=
  { s with pool := Mem.set 0 s.pool (pKey b w) (BitVec.ofInt 144 v), eccP := Tbl.del s.eccP (pKey b w) }

/-- pool_add (R58). -/
def State.pAdd (s : State) (b w : Nat) (c : Int) : State := s.pWrite b w (poolAdd (s.pWord b w) c)

/-- Bytes or words take unspecified values. -/
def State.cFree (s : State) (b a n : Nat) : State :=
  let s := s.cStored b a n
  { s with cistern := Mem.forget s.cistern (cKey b a) (cKey b a + n) s.freeCtr, freeCtr := s.freeCtr + 1 }
def State.pFree (s : State) (b w n : Nat) : State :=
  { s with pool := Mem.forget s.pool (pKey b w) (pKey b w + n) s.freeCtr, freeCtr := s.freeCtr + 1 }

/-- Zero bytes `lo` to `hi - 1` of the cistern, and words of the pool; errors in them go. -/
def State.cZero (s : State) (b lo hi : Nat) : State :=
  { s with cistern := Mem.clear s.cistern (cKey b lo) (cKey b hi)
           eccC := s.eccC.filter fun e => e.1 < gKey b (lo / 8) || gKey b (hi / 8) ≤ e.1 }
def State.pZero (s : State) (b lo hi : Nat) : State :=
  { s with pool := Mem.clear s.pool (pKey b lo) (pKey b hi)
           eccP := s.eccP.filter fun e => e.1 < pKey b lo || pKey b hi ≤ e.1 }

/-! ### Device physical memory -/

/-- Octet of an HBM address within its terrace (R34). -/
def hbmOctet (a : Nat) : Nat :=
  let r := a % 2 ^ 37 / 2 ^ 21
  (r % 16) ^^^ (r / 16 % 16) ^^^ (r / 256 % 16) ^^^ (r / 4096 % 16)

/-- hbm_place (R34): terrace, controller, pseudo-channel, slot, block within the slot, byte. -/
def hbmPlace (a : Nat) : Nat × Nat × Nat × Nat × Nat × Nat :=
  let b := a % 2 ^ 21 / 256
  (a / 2 ^ 37, hbmOctet a / 8, hbmOctet a % 8 * 8 + b % 8, a % 2 ^ 37 / 2 ^ 25, b / 8, a % 256)

def isHbm (a : Nat) : Bool := a < 2 ^ 40
def isCxl (a : Nat) : Bool := 2 ^ 40 ≤ a && a < 2 ^ 40 + min Config.cxlBytes (2 ^ 43)
/-- Table 1-9. -/
def mapped (a : Nat) : Bool := isHbm a || isCxl a

/-- Controller `c` of terrace `t` is trained and in service. -/
def State.hbmReady (s : State) (t c : Nat) : Bool :=
  if c = 0 then s.on Fld.terraceStateHbm0Ready t else s.on Fld.terraceStateHbm1Ready t

/-- An access to the 2 MiB region of `a` completes with ST_MEM_FENCED (R35, R105, R418). -/
def State.devDown (s : State) (a : Nat) : Bool :=
  if isHbm a then s.regBit .hbmWithdrawn (a / 2 ^ 37) (hbmOctet a) || !s.hbmReady (a / 2 ^ 37) (hbmOctet a / 8)
  else !s.boot.cxlUp

/-- The 2 MiB regions that `n` bytes from `a` touch, by their first addresses. -/
def regions (a n : Nat) : List Nat :=
  if n = 0 then [] else (List.range ((a + n - 1) / 2 ^ 21 - a / 2 ^ 21 + 1)).map fun i => (a / 2 ^ 21 + i) * 2 ^ 21

/-- Enabled memory ranges: slice, base address, last address (R235). -/
def State.ranges (s : State) : List (Nat × Nat × Nat) :=
  s.regs.filterMap fun e =>
    if keyReg e.1 = .memRangeBase ∧ e.2.toNat % 2 = 1 then
      let i := keyIdx e.1
      some (i / 8, e.2.toNat / 2 ^ 21 * 2 ^ 21, s.reg .memRangeLast i / 2 ^ 21 * 2 ^ 21 + (2 ^ 21 - 1))
    else none

/-- Every byte lies in an enabled range of the slice. -/
def State.inRanges (s : State) (sl a n : Nat) : Bool :=
  let rs := s.ranges.filter (·.1 == sl)
  (regions a n).all fun r => rs.any fun x => x.2.1 ≤ r && r ≤ x.2.2

/-- The access check of R193, R221 and the engine chapters: inside the slice's ranges, for the management physical
function (128) only mapped. -/
def State.devOk (s : State) (sl a n : Nat) : Bool :=
  (regions a n).all (fun r => mapped r) && mapped (a + n - 1) && (sl == 128 || s.inRanges sl a n)

/-- Some region of the access is down. -/
def State.devFenced (s : State) (a n : Nat) : Bool := (regions a n).any s.devDown

/-- The number of the key that covers the data unit of `a` (R236). -/
def State.keyOf (s : State) (a : Nat) : Nat :=
  match s.ranges.find? fun x => x.2.1 ≤ a && a ≤ x.2.2 with
  | some (sl, _) => match (s.sliceSt sl).key with
    | some k => 2 * k + 1
    | none => 2 * s.boot.draws + 2
  | none => 2 * s.boot.draws + 2

/-- The key of a number. -/
def State.keyBits (s : State) (n : Nat) : Nat :=
  if n % 2 = 1 then (s.keys.getD (n / 2) 0).toNat else (Config.deviceKey (n / 2 - 1)).toNat

/-- The plaintext that the data unit of `a` reads as under its present key (R236). -/
def State.devUnit (s : State) (a : Nat) : List Byte :=
  let u := a / 256
  let p := ByteMem.read s.dev (u * 256) 256
  let was := Tbl.get 0 s.devKey u
  let now := s.keyOf a
  if was = 0 ∨ was = now then p else xts false (s.keyBits now) u (xts true (s.keyBits was) u p)

/-- One byte of device physical memory as its present key reads it. -/
def State.devByte (s : State) (a : Nat) : Byte :=
  let was := Tbl.get 0 s.devKey (a / 256)
  if was = 0 ∨ was = s.keyOf a then ByteMem.get s.dev a else (s.devUnit a).getD (a % 256) 0

def State.devRead (s : State) (a n : Nat) : List Byte := (List.range n).map fun i => s.devByte (a + i)
def State.devNat (s : State) (a n : Nat) : Nat := leNat (s.devRead a n)

/-- Write bytes within one data unit (R236: read, decrypt, merge, encrypt, write). A write to memory that is down has no
effect (R35, R105). -/
def State.devWriteUnit (s : State) (a : Nat) (bs : List Byte) : State :=
  if s.devDown a || bs.isEmpty then s else
  let s := s.devStored a bs.length
  let u := a / 256
  let was := Tbl.get 0 s.devKey u
  let now := s.keyOf a
  let d := if was = 0 ∨ was = now then s.dev else ByteMem.write s.dev (u * 256) (s.devUnit a)
  { s with dev := ByteMem.write d a bs, devKey := Tbl.set 0 s.devKey u now }

/-- Write bytes, data unit by data unit. -/
def State.devWriteAux : Nat → State → Nat → List Byte → State
  | 0, s, _, _ => s
  | n + 1, s, a, bs =>
    let k := 256 - a % 256
    State.devWriteAux n (s.devWriteUnit a (bs.take k)) (a + k) (bs.drop k)

def State.devWrite (s : State) (a : Nat) (bs : List Byte) : State :=
  if bs.isEmpty then s else State.devWriteAux ((a + bs.length - 1) / 256 - a / 256 + 1) s a bs

/-- The data unit `u` is stored under its present key (R236). -/
def State.devRekey (s : State) (u : Nat) : State :=
  let was := Tbl.get 0 s.devKey u
  let now := s.keyOf (u * 256)
  if was = 0 ∨ was = now then s
  else { s with dev := ByteMem.write s.dev (u * 256) (s.devUnit (u * 256)), devKey := Tbl.set 0 s.devKey u now }

/-- Addresses `lo` to `hi - 1` hold undefined contents from now on; a unit they cover in part keeps its other bytes. -/
def State.devForget (s : State) (lo hi : Nat) : State :=
  let s := s.devStored lo (hi - lo)
  let s := if lo % 256 = 0 then s else s.devRekey (lo / 256)
  let s := if hi % 256 = 0 then s else s.devRekey (hi / 256)
  { s with dev := Mem.forget s.dev lo hi s.freeCtr, freeCtr := s.freeCtr + 1
           devKey := s.devKey.filter fun e => e.1 < (lo + 255) / 256 || hi / 256 ≤ e.1 }

/-! ### Host memory (R206, R232) -/

/-- The address space of a slice's host requests: its PASID, or none for M0 to M3. -/
def State.hostSpace (s : State) (sl : Nat) : Nat := if sl = 128 then 0 else s.rd Fld.slicePasidPasid sl + 1
def hKey (space a : Nat) : Nat := space * 2 ^ 64 + a % 2 ^ 64
def State.hostRead (s : State) (space a n : Nat) : List Byte := ByteMem.read s.host (hKey space a) n
def State.hostWrite (s : State) (space a : Nat) (bs : List Byte) : State :=
  { s with host := ByteMem.write s.host (hKey space a) bs }
def State.hostFree (s : State) (space a n : Nat) : State :=
  { s with host := Mem.forget s.host (hKey space a) (hKey space a + n) s.freeCtr, freeCtr := s.freeCtr + 1 }

/-! ### Overlapping accesses (R90) -/

def Span.meets (x y : Span) : Bool := x.pool == y.pool && x.lo < y.lo + y.len && y.lo < x.lo + x.len

/-- The write that leaves a span unspecified. -/
def Span.freed (x : Span) : List PWrite :=
  if x.pool then (List.range x.len).map fun i => .poolFree (x.lo + i) else [.cistFree x.lo x.len]

/-- A read's span. -/
def Need.span (id : Nat) (n : Need) : Option Span :=
  if n.len = 0 then none else match n.sp with
    | .cistern => some ⟨id, false, n.lo, n.len, 0⟩
    | .pool => some ⟨id, true, n.lo, n.len, 0⟩
    | .dev => none

/-- The part that two spans share. -/
def Span.shared (x y : Span) : Span := ⟨x.cmd, x.pool, max x.lo y.lo, min (x.lo + x.len) (y.lo + y.len) - max x.lo y.lo, 1⟩

/-- What a command with spans `own` loses of what it writes to the spans of another that runs at the same time: the bytes or
words that both access, two accumulations apart (R58). -/
def raceLoss (own other : List Span) : List PWrite :=
  own.flatMap fun x => if x.kind == 0 then [] else
    (other.filter fun y => !(x.kind == 2 && y.kind == 2) && x.meets y).flatMap fun y => (x.shared y).freed

/-- The results of a command that has read bytes before another that writes them starts: they are computed from unspecified
values (DEDUCED, log entry 13), so all that it writes is lost. -/
def readLoss (own other : List Span) : List PWrite :=
  if own.any fun x => x.kind == 0 && other.any fun y => y.kind != 0 && x.meets y then (own.filter (·.kind != 0)).flatMap Span.freed
  else []

/-- The number under which operation `i` of the plan of command `id` keeps its spans. -/
def opSpanId (id i : Nat) : Nat := 2 ^ 40 + id * 4096 + i

/-- Command or radio operation `o` loses what these writes say. -/
def State.lose (s : State) (o : Nat) (ws : List PWrite) : State :=
  if o < 2 ^ 40 then s.modCmd o fun c => { c with writes := c.writes ++ ws }
  else { s with radio := { s.radio with plans := s.radio.plans.map fun p =>
    if p.cmd = (o - 2 ^ 40) / 4096 then
      { p with ops := p.ops.mapIdx fun i x => if i = (o - 2 ^ 40) % 4096 then { x with writes := x.writes ++ ws } else x }
    else p } }

/-- Command `id` starts in basin `b` and accesses these spans: the losses of both sides join their pending writes. The
pool words of the commands in `ordered` are reached before its own (R73), so they are no overlap. -/
def State.beginSpans (s : State) (b id : Nat) (spans : List Span) (ordered : List Nat := []) : State :=
  let x := s.basin b
  let others := x.spans.filter fun y => y.cmd != id && !(y.pool && ordered.contains y.cmd)
  let s := s.lose id (raceLoss spans others)
  let s := s.each ((others.map (·.cmd)).eraseDups) fun s o =>
    let own := others.filter (·.cmd == o)
    s.lose o (raceLoss own spans ++ readLoss own spans)
  s.setBasin b { x with spans := x.spans ++ spans }

/-- Bytes and words that are about to be read and that a started command other than `id` writes take unspecified values before
the read (R90). -/
def State.raceReads (s : State) (b id : Nat) (spans : List Span) (ordered : List Nat := []) : State :=
  let others := (s.basin b).spans.filter fun y => y.kind != 0 && y.cmd != id && !(y.pool && ordered.contains y.cmd)
  s.each (spans.flatMap fun x => if x.kind == 0 then (others.filter x.meets).map x.shared else []) fun s x =>
    if x.pool then s.pFree b x.lo x.len else s.cFree b x.lo x.len

/-- Command `id` no longer accesses basin `b`. -/
def State.endSpans (s : State) (b id : Nat) : State :=
  let x := s.basin b
  s.setBasin b { x with spans := x.spans.filter (·.cmd != id) }

/-- One access of a spout core in basin `b`: other commands' losses are noted, and the answer says whether its bytes are
unspecified. -/
def State.touch (s : State) (b : Nat) (pool : Bool) (lo len : Nat) (store : Bool) : State × Bool :=
  let me : Span := ⟨0, pool, lo, len, if store then 1 else 0⟩
  let hit := (s.basin b).spans.filter fun y => y.meets me && (store || y.kind != 0)
  let s := s.each ((hit.map (·.cmd)).eraseDups) fun s o =>
    let own := (s.basin b).spans.filter (·.cmd == o)
    s.lose o (raceLoss own [me] ++ readLoss own [me])
  (s, !hit.isEmpty)

/-! ### Pending writes -/

/-- Perform one computed write in basin `b`; the answer says whether it failed (R97). -/
def State.doWrite (s : State) (b : Nat) (w : PWrite) : State × Bool :=
  match w with
  | .poolAdd w c => (s.pAdd b w c, false)
  | .poolSet w v => (s.pWrite b w v, false)
  | .cist a bs => s.cWrite b a bs
  | .dev a bs => (s.devWrite a bs, false)
  | .poolFree w => (s.pFree b w 1, false)
  | .cistFree a n => (s.cFree b a n, false)
  | .devFree a n => (s.devForget a (a + n), false)

/-- Perform the writes in order; the answer says whether one failed. -/
def State.doWrites (s : State) (b : Nat) : List PWrite → State × Bool
  | [] => (s, false)
  | w :: ws =>
    let (s, f) := s.doWrite b w
    let (s, g) := State.doWrites s b ws
    (s, f || g)

/-- Abandon a command's writes: what they would have written becomes unspecified (R19). -/
def PWrite.abandoned : PWrite → PWrite
  | .poolAdd w _ | .poolSet w _ | .poolFree w => .poolFree w
  | .cist a bs => .cistFree a bs.length
  | .dev a bs => .devFree a bs.length
  | .cistFree a n => .cistFree a n
  | .devFree a n => .devFree a n

/-! ### Bytes charged (R247) -/

/-- Whole 64-byte flits that an access touches, in bytes. -/
def flitBytes (a n : Nat) : Nat := if n = 0 then 0 else ((a + n - 1) / 64 - a / 64 + 1) * 64

end Sys2Proof.Machine
end

