-- ==== Sys2Proof/Machine/Record.lean ====
section
/-! DEFINITION. The spillway's log and silt record (R392 to R394), which other blocks' events enter too. -/
namespace Sys2Proof.Machine

/-- A log or silt entry (Table 18-8) without its sequence number. -/
def entryWord (stamp unit cls kind aux data : Nat) : Nat :=
  stamp % 2 ^ 64 + unit % 2 ^ 16 * 2 ^ 64 + cls % 8 * 2 ^ 80 + kind % 32 * 2 ^ 83 + aux % 256 * 2 ^ 88 + data % 2 ^ 64 * 2 ^ 96

/-- The entry with its sequence number. -/
def withSeq (e seq : Nat) : Nat := e + seq % 2 ^ 32 * 2 ^ 160

/-- Write an entry into the log, or note that the log is full (R392 step 3). -/
def State.logPut (s : State) (e : Nat) : State :=
  let h := s.rd Fld.logHeadHead
  if (h + 1) % 1024 = s.rd Fld.logTailTail then s.raise Fld.spwStatusLogOverflow 0
  else { s.wr Fld.logHeadHead 0 ((h + 1) % 1024) with spw := { s.spw with log := Tbl.put s.spw.log h e } }

/-- Write an entry into the silt ring; the oldest of 512 is overwritten (R393). -/
def State.siltPut (s : State) (e : Nat) : State :=
  { s with spw := { s.spw with silt := (s.spw.silt ++ [e]).drop (s.spw.silt.length + 1 - 512) } }

/-- The gate, carrier, launch and output conditions of R309: TIME_STATUS.quiet. -/
def State.quiet (s : State) : Bool :=
  (List.range 64).all (fun b => !s.gateListed b) && (List.range 192).all (fun c => !s.on Fld.carCtrlEnable c) &&
    (List.range 4).all (fun u => !s.on Fld.launchCtrlArm u) && (List.range 8).all fun k => !s.on Fld.outCtrlEnable k

/-- TIME_STATUS as it reads. -/
def State.timeStatusView (s : State) : Nat := putBits (s.reg .timeStatus) 4 1 (nat1 s.quiet)

/-- The snapshot of Table 18-9. -/
def State.snapshot (s : State) : Nat :=
  let b (l : List Byte) : List Byte := l
  leNat (b (leBytes 8 s.now) ++ leBytes 4 s.timeStatusView ++ leBytes 4 (s.reg .spwStatus) ++
    ((List.range 8).map fun t => leBytes 4 (s.reg .terraceState t)).flatten ++ leBytes 8 (s.reg .radioReserved) ++
    leBytes 4 (s.reg .slotOverruns) ++ leBytes 4 (s.reg .takeovers) ++
    ((List.range 64).map fun i => leBytes 1 (s.rd Fld.sliceStatusState (2 * i) + 16 * s.rd Fld.sliceStatusState (2 * i + 1))).flatten ++
    leBytes 8 (s.reg .packets) ++ ((List.range 64).map fun i => leBytes 1 (s.owner i)).flatten)

def State.siltFrozen (s : State) : Bool := s.on Fld.spwStatusSiltFrozen

/-- health_score (R395). -/
def State.healthScore (s : State) : Nat :=
  min 65535 (((List.range 5).map fun k => s.rd Fld.healthWeightWeight k * (s.rd Fld.healthDecayedD k / 256)).foldl (· + ·) 0)

/-- The endpoint serves this transport (R440). -/
def State.mgmtServes (s : State) (tr : Transport) : Bool :=
  (match tr with
    | .i3c => s.on Fld.mgmtStatusI3cReady
    | .pcie => s.on Fld.mgmtStatusPcieReady) && !s.on Fld.mgmtStatusFailed

/-- A PLDM sensor event is sent, where a receiver is set (R437). -/
def State.sensorEvent (s : State) (sensor value : Nat) : State :=
  match s.mgmt.receiver with
  | none => s
  | some r => if s.mgmtServes r.1 then { s with mgmt := { s.mgmt with events := (sensor, value) :: s.mgmt.events } } else s

/-- State sensor 11: SPW_STATUS.state, and silt_frozen as bit 2 (Table 21-5). -/
def State.sensor11 (s : State) : Nat := s.rd Fld.spwStatusState + 4 * nat1 s.siltFrozen

/-- A change of SPW_STATUS.state or silt_frozen, with its sensor event. -/
def State.spwChange (s : State) (k : State → State) : State :=
  let s' := k s
  if s.sensor11 = s'.sensor11 then s' else s'.sensorEvent 11 s'.sensor11

/-- A change of the health score sends an event when it crosses a threshold of the receiver (R437). -/
def State.scoreChange (s : State) (k : State → State) : State :=
  let s' := k s
  if s.mgmt.thresholds.any fun t => decide (t ≤ s.healthScore) != decide (t ≤ s'.healthScore) then s'.sensorEvent 4 s'.healthScore else s'

/-- Freeze the silt record: fill the snapshot, set silt_frozen (R393). -/
def State.freezeSilt (s : State) : State :=
  if s.siltFrozen then s else
  let s := { s with spw := { s.spw with snap := s.snapshot } }
  s.spwChange fun s => (s.wr Fld.spwStatusSiltFrozen 0 1).wr Fld.siltStatusFrozen 0 1

/-- One of the events of kinds 1 to 11 enters the log and the silt record at its edge (R392, R393). -/
def State.event (s : State) (unit kind aux data : Nat) : State :=
  let e := withSeq (entryWord s.now unit 0 kind aux data) s.spw.seq
  let s := { s with spw := { s.spw with seq := s.spw.seq + 1 } }
  let s := s.logPut e
  if s.siltFrozen then s else s.siltPut e

/-- A health event of source `k` (R395): 256 more, saturating. -/
def State.health (s : State) (k : Nat) : State := s.scoreChange fun s => s.bumpSat Fld.healthDecayedD k 256

/-- SLICE_STATUS.state changes: an event of kind 8 (Table 18-8). The unit field holds the sluice's identifier. -/
def State.setSliceState (s : State) (sl st : Nat) : State :=
  if s.rd Fld.sliceStatusState sl = st then s else (s.wr Fld.sliceStatusState sl st).event (unitHub 0) 8 sl st

/-- TIME_STATUS.state changes: an event of kind 9 (Table 18-8), and one of state sensor 10. -/
def State.setTimeState (s : State) (st : Nat) : State :=
  if s.rd Fld.timeStatusState = st then s else ((s.wr Fld.timeStatusState 0 st).event (unitHub 2) 9 st 0).sensorEvent 10 st

/-- An MSI-X message of function `fn` (the management physical function is 0) with vector `v`. -/
def State.interrupt (s : State) (fn v : Nat) : State :=
  let k := fn * 65536 + v
  { s with irqs := Tbl.put s.irqs k (Tbl.get 0 s.irqs k + 1) }

/-- An event of Table 17-2 is charged to slice `sl` (R366). -/
def State.nondet (s : State) (sl kind : Nat) : State :=
  if sl < 128 && s.regBit .detMask sl kind then
    let s := s.bump Fld.detNondetNondet sl
    let s := (s.wr Fld.detLastKind sl kind).wr Fld.detLastValid sl 1
    s.setReg .detLastStamp sl s.now
  else s

/-- Add to a semaphore as sem.signal does (R202); the answer says whether it would have overflowed. -/
def State.semAdd (s : State) (b i amount : Nat) : State × Bool :=
  let v := s.reg .semValue (b * 32 + i)
  if 2 ^ 32 ≤ v + amount then (s.info (unitBasin b 5), true) 
  else ((s.setReg .semValue (b * 32 + i) (v + amount)).wr Fld.semHolderHolder (b * 32 + i) 0, false)

end Sys2Proof.Machine
end

