-- ==== Sys2Proof/Machine/AqdSend.lean ====
section
/-! DEFINITION. The sending side of the aqueduct: home map, job tag, route, credits and sequence numbers (R338 to R340,
R344, R347, R351, R352). -/
namespace Sys2Proof

/-- The number by which a kind's flits are asked of Config. -/
def ReqKind.num : ReqKind → Nat
  | .rd => 0 | .wr => 1 | .bw => 2 | .at => 3 | .bump => 4 | .query => 5

/-- Data bytes that a request and its reply carry. -/
def AqdReq.dataBytes (q : AqdReq) : Nat :=
  match q.kind with
  | .rd => 128 | .wr => 128 | .bw => q.data.length | _ => 0

/-- Bytes charged for a request and its reply. -/
def AqdReq.charge (q : AqdReq) : Nat := Config.aqdFlits q.kind.num q.dataBytes * 64

/-- Does a request carry a sequence number of its own? -/
def AqdReq.numbered (q : AqdReq) : Bool := q.kind == .at || q.kind == .bump

/-- The lines of a write. -/
def AqdReq.lines (q : AqdReq) : List Nat :=
  match q.kind with
  | .wr => [q.addr / 128]
  | .bw => (List.range (q.data.length / 128)).map fun i => q.addr / 128 + i
  | _ => []

/-- Bytes that a request addresses at the home. -/
def AqdReq.size (q : AqdReq) : Nat :=
  match q.kind with
  | .rd | .wr => 128
  | .bw => q.data.length
  | .at => if q.wide then 8 else 4
  | .bump | .query => 0

/-- A blank request. -/
def AqdReq.blank : AqdReq := ⟨.rd, 0, 0, 0, 0, 0, 0, 0, [], 0, 0, false, 0, 0, 0⟩

end Sys2Proof

namespace Sys2Proof.Machine

/-- This package's ID (R337). -/
def State.pkg (s : State) : Nat := s.rd Fld.aqdIdPkgId

/-- The home package of a job address; none when its chunk is not mapped (R339). -/
def State.home? (s : State) (a : Nat) : Option Nat :=
  if s.on Fld.homeMapValid (a / 2 ^ 36) then some (s.rd Fld.homeMapPkg (a / 2 ^ 36)) else none

/-- Port `p` carries requests: link up, not fenced. -/
def State.portOk (s : State) (p : Nat) : Bool := s.on Fld.aqpStatusLinkUp p && !s.on Fld.aqpStatusFenced p

/-- The port for destination `d`; 8 for the package's own ID; none when no port qualifies (R338). -/
def State.routeOf (s : State) (d : Nat) : Option Nat :=
  if d = s.pkg then some 8
  else if s.on Fld.routePrimaryValid d && s.portOk (s.rd Fld.routePrimary d) then some (s.rd Fld.routePrimary d)
  else if s.on Fld.routeAlternateValid d && s.portOk (s.rd Fld.routeAlternate d) then some (s.rd Fld.routeAlternate d)
  else none

/-- Outstanding requests of a destination: they hold its credits (R347). A number whose outcome is unknown holds one while a
QUERY for it is outstanding. -/
def State.outstanding (s : State) (d : Nat) : Nat := (s.aqd.sent.filter fun r => r.dest == d && (!r.unresolved || r.asks == 1)).length

/-- A request may be issued now: a credit is free, no earlier write of its queue to one of its lines is outstanding
(R344), and its sequence number's predecessor by 256 is resolved (R352). -/
def State.mayIssue (s : State) (r : SendReq) : Bool :=
  s.outstanding r.dest < 64 &&
  s.aqd.sent.all (fun x => x.queue != r.queue || x.dest != r.dest || x.unresolved || x.req.lines.all fun l => !r.req.lines.contains l) &&
  (!r.req.numbered ||
    s.aqd.sent.all fun x => x.dest != r.dest || !x.req.numbered || x.req.inc != s.reg .aqdIncarnation ||
      x.req.seq != (Tbl.get 0 s.aqd.seqs r.dest + 2 ^ 32 - 256) % 2 ^ 32)

/-- The command that a request serves, of itself or by the task of its core; none for a shadow's export, for a radio operation's
task, and where the command is over. -/
def State.ownerCmd (s : State) (owner : Nat) : Option Nat :=
  let id := if owner < 2 ^ 32 then some owner
    else if owner < 2 ^ 33 then (s.basin ((owner - 2 ^ 32) / 8)).task.bind fun t => if t.radioOp.isNone then some t.cmd else none
    else none
  id.filter fun i => (s.cmd? i).isSome

/-- Charge aqueduct bytes (R358): to the command that a request serves, or else at once to its slice, with their energy (R247). -/
def State.chargeAqd (s : State) (owner sl n : Nat) : State :=
  match s.ownerCmd owner with
  | some id => s.modCmd id fun c => { c with aqdB := c.aqdB + n }
  | none =>
    if 128 ≤ sl then s
    else (s.bump Fld.acctAqdBytesBytes sl n).bump Fld.acctEnergyPjEnergy sl (n / 64 * s.reg .energyCoef 8)

/-- A port sends or receives bytes: how many is not fixed, since the manual gives no sizes of headers and replies. Port 8 is none. -/
def State.portTx (s : State) (p : Nat) : State :=
  if p < 8 then let (n, s) := s.free; s.bump Fld.aqpTxBytesBytes p n else s
def State.portRx (s : State) (p : Nat) : State :=
  if p < 8 then let (n, s) := s.free; s.bump Fld.aqpRxBytesBytes p n else s

/-- Issue a request on its route (R338, R340, R351). -/
def State.aqdSendNow (s : State) (r : SendReq) (port : Nat) : State :=
  let seq := Tbl.get 0 s.aqd.seqs r.dest
  let q := { r.req with
    src := s.pkg, job := s.rd Fld.aqdJobJob r.sl, gen := s.rd Fld.aqdJobGen r.sl, t0 := s.now
    seq := if r.req.numbered then seq else r.req.seq, inc := s.reg .aqdIncarnation }
  let r' := { r with req := q, lastSend := s.now, port := port }
  let s := { s with aqd := { s.aqd with
    sent := s.aqd.sent ++ [r']
    seqs := if r.req.numbered then Tbl.set 0 s.aqd.seqs r.dest ((seq + 1) % 2 ^ 32) else s.aqd.seqs } }
  let s := s.chargeAqd r.owner r.sl q.charge
  s.portTx port

/-- Send a request of slice `sl` for `owner` from `queue` to `dest`: 0 when it is issued or waits for a credit, else the
status with which it completes at once. -/
def State.aqdSend (s : State) (sl queue owner dest : Nat) (q : AqdReq) : State × Nat :=
  if !s.on Fld.aqdJobValid sl then (s, stAddrFault)
  else if !s.on Fld.aqdCtrlEnable then (s, stAqdUnreachable)
  else
    match s.routeOf dest with
    | none => (s, stAqdUnreachable)
    | some p =>
      let r : SendReq := ⟨s.aqd.nextId, sl, queue, owner, q, dest, 0, p, 0, 0, false, false, 0⟩
      let s := { s with aqd := { s.aqd with nextId := s.aqd.nextId + 1 } }
      if s.mayIssue r && s.aqd.waiting.all (fun x => x.dest != dest || (x.queue != queue && !s.mayIssue x)) then (s.aqdSendNow r p, stOk)
      else
        let s := if s.outstanding dest < 64 then s else s.bump Fld.aqdCreditWaitsCount 0
        ({ s with aqd := { s.aqd with waiting := s.aqd.waiting ++ [r] } }, stOk)

/-- The request is over: its credit is free. -/
def State.aqdForget (s : State) (id : Nat) : State :=
  { s with aqd := { s.aqd with sent := s.aqd.sent.filter (·.id != id) } }

/-- Requests of an owner that are issued or wait. -/
def State.aqdPending (s : State) (owner : Nat) : Bool :=
  s.aqd.sent.any (fun r => r.owner == owner && !r.unresolved) || s.aqd.waiting.any (·.owner == owner)

/-- Shadows note since when their peer has had no qualifying port (R375 rule 3). -/
def State.watchRoutes (s : State) : State :=
  { s with shadowing := s.shadowing.map fun e =>
    (e.1, { e.2 with routeLost := match s.routeOf (slice e.2.params 16 12) with
      | some _ => none
      | none => some (e.2.routeLost.getD s.now) }) }

/-! ### Data pushed to job addresses (R354) -/

/-- The requests that push bytes to ascending job addresses: WR for parts of a line, BW for up to 16 whole lines of one 2 MiB
region. The first argument bounds their number. -/
def pushReqs : Nat → Nat → List Byte → List AqdReq
  | 0, _, _ => []
  | n + 1, a, bs =>
    if bs.isEmpty then [] else
    let off := a % 128
    if off ≠ 0 ∨ bs.length < 128 then
      let k := min (128 - off) bs.length
      { AqdReq.blank with
        kind := .wr, addr := a - off, data := List.replicate off 0 ++ bs.take k ++ List.replicate (128 - off - k) 0
        mask := (2 ^ k - 1) * 2 ^ off } :: pushReqs n (a + k) (bs.drop k)
    else
      let k := 128 * min (min 16 (bs.length / 128)) ((2 ^ 21 - a % 2 ^ 21) / 128)
      { AqdReq.blank with kind := .bw, addr := a, data := bs.take k } :: pushReqs n (a + k) (bs.drop k)

/-- Send requests in order until one cannot be sent; the status of that one. -/
def State.pushAll (s : State) (sl queue owner dest : Nat) : List AqdReq → State × Nat
  | [] => (s, stOk)
  | q :: qs =>
    let (s, st) := s.aqdSend sl queue owner dest q
    if st ≠ stOk then (s, st) else State.pushAll s sl queue owner dest qs

/-- Push bytes to job address `a`. -/
def State.push (s : State) (sl queue owner a : Nat) (bs : List Byte) : State × Nat :=
  match s.home? a with
  | none => (s, stAddrFault)
  | some d => s.pushAll sl queue owner d (pushReqs (bs.length / 128 + 2 + bs.length / 2 ^ 21) a bs)

/-- A BUMP of counter `i` of the home of job address `a`. -/
def State.sendBump (s : State) (sl queue owner a i amount : Nat) : State × Nat :=
  match s.home? a with
  | none => (s, stAddrFault)
  | some d => s.aqdSend sl queue owner d { AqdReq.blank with kind := .bump, addr := a, counter := i, operand := amount }

/-- Requests of an owner that wait for a credit are withdrawn. -/
def State.dropWaiting (s : State) (owner : Nat) : State :=
  { s with aqd := { s.aqd with waiting := s.aqd.waiting.filter (·.owner != owner) } }

end Sys2Proof.Machine
end

