-- ==== Sys2Proof/Machine/Leave.lean ====
section
/-! DEFINITION. Engines' clocks (R404, Table 19-1), the fetches of rills and cascades as they are given up, and what leaves
with a command (R134, R135, R146, R147, R165). -/
namespace Sys2Proof.Machine

/-! ### Engines -/

/-- The engine of a command: 2b + j a jet; 128 + b a rill; 192 + t a cascade; 256 + b the runnel; 320 + b spout cores. -/
def Cmd.engine (c : Cmd) : Nat :=
  match c.opcode with
  | 0x08 => 2 * c.target + Jd.jet c.params
  | 0x09 => 128 + c.target
  | 0x0A => 192 + c.target / 8
  | 0x0B => 256 + c.target
  | _ => 320 + c.target

/-- The basin of an engine; none for a cascade or a wellhead engine. -/
def engineBasin (e : Nat) : Option Nat :=
  if e < 128 then some (e / 2) else if e < 192 then some (e - 128) else if e < 256 then none
  else if e < 320 then some (e - 256) else if e < 384 then some (e - 320) else none

/-- The clock step of a basin. -/
def State.stepOf (s : State) (b : Nat) : Nat := Tbl.get 15 s.pwr.steps b

/-- Cycles of an engine's clock in `d` counts: (n + 1) x 78.125 MHz against 983.04 MHz (Table 19-1). -/
def State.cyclesIn (s : State) (e d : Nat) : Nat :=
  d * ((match engineBasin e with | some b => s.stepOf b | none => 15) + 1) * 15625 / 196608

/-- A command of engine `e` has begun and is not over, or, for wellhead engines, an operation runs. -/
def State.engineBusy (s : State) (e : Nat) : Bool :=
  (s.cmds.any fun c => c.engine == e && basinOpcode c.opcode && (c.phase == .running || (c.phase == .loading && c.begun))) ||
    (320 ≤ e && e < 384 && ((s.basin (e - 320)).task.isSome || (s.basin (e - 256)).task.isSome))
where
  /-- Opcodes executed in a basin. -/
  basinOpcode (op : Nat) : Bool := 8 ≤ op && op ≤ 0xC

/-- Cycles in which a queued tile of engine `e` has waited for its fetch since count `since`: those in which the engine was
idle (R146, R165). -/
def State.fetchWaited (s : State) (e since : Nat) : Nat :=
  if s.engineBusy e then 0 else s.cyclesIn e (s.now - max since (Tbl.get 0 s.pwr.lastRun e))

/-! ### Rills -/

/-- What acceptance resolved: the slot entry and the key slice. -/
def Cmd.slot (c : Cmd) : Nat := c.aux.getD 0 0
def Cmd.keySlice (c : Cmd) : Nat := c.aux.getD 1 0

/-- The tag of a tile's weight window (R134). -/
def Cmd.rillTag (c : Cmd) : List Nat :=
  let e := c.slot
  let d := c.params
  [Se.wAddr e, Se.wScaleAddr e, Se.fmtW e, Rd.nFirst d, Rd.nCols d, Rd.kFirst d, Rd.kValid d]

/-- The runs of HBM bytes of a weight window: each column, then each column's scales. -/
def Cmd.rillRuns (c : Cmd) : List (Nat × Nat) :=
  let e := c.slot
  let d := c.params
  let fw := Se.fmtW e
  let cols := List.range (Rd.nCols d)
  cols.map (fun n => (Se.wAddr e + (Rd.nFirst d + n) * Se.wColStride e + Rd.colOff d fw, Rd.colBytes d fw)) ++
    (if fmtMx fw then cols.map fun n =>
      (Se.wScaleAddr e + (Rd.nFirst d + n) * ceilDiv (Se.kTotal e) 32 + Rd.kFirst d / 32, ceilDiv (Rd.kValid d) 32) else [])

/-- Reads of 256 bytes that runs take. -/
def readsOf (runs : List (Nat × Nat)) : Nat := (runs.map fun r => if r.2 = 0 then 0 else (r.1 + r.2 - 1) / 256 - r.1 / 256 + 1).foldl (· + ·) 0
/-- Bytes in whole flits that runs take. -/
def flitsOf (runs : List (Nat × Nat)) : Nat := (runs.map fun r => flitBytes r.1 r.2).foldl (· + ·) 0

/-- The sizes of the reads that runs take, in order: what lies in each aligned 256 bytes. -/
def readSizes (runs : List (Nat × Nat)) : List Nat :=
  runs.flatMap fun r => if r.2 = 0 then [] else
    (List.range ((r.1 + r.2 - 1) / 256 - r.1 / 256 + 1)).map fun i => min (r.1 + r.2) ((r.1 / 256 + i + 1) * 256) - max r.1 ((r.1 / 256 + i) * 256)

/-- Bytes of the next `n` reads of these runs when `left` of them have not returned. -/
def bytesBack (runs : List (Nat × Nat)) (left n : Nat) : Nat :=
  (((readSizes runs).drop (readsOf runs - left)).take n).foldl (· + ·) 0

/-- The tiles a rill holds, in order. -/
def State.rillTiles (s : State) (b : Nat) : List Cmd :=
  s.cmds.filter fun c => c.target == b && c.opcode == 9 && c.phase != .issued && c.phase != .saved && c.phase != .epilogue

/-- The tile queue of a rill is empty: halves and lane stores become invalid (R134). -/
def State.rillDrained (s : State) (b : Nat) : State :=
  if (s.rillTiles b).isEmpty then s.setRill b { s.rill b with half0 := {}, half1 := {}, lanes := [] } else s

/-- The fetch of rill `b` for command `c` is over before its window is whole: the cycles that its tile has waited and the bytes
that have returned count, an unstated part of the at most 256 reads outstanding among them (R135, R146). -/
def State.rillFetchLost (s : State) (b : Nat) (f : Fetch) (c : Cmd) : State :=
  let (n, s) := s.free
  let s := s.bump Fld.rillFetchBytesFetchBytes b (if f.stopped then 0 else bytesBack c.rillRuns f.left (n % (min 256 f.left + 1)))
  s.bump Fld.rillFetchWaitFetchWait b (if f.stopped then 0 else s.fetchWaited (128 + b) (c.aux.getD 2 s.now))

/-- The fetch of rill `b`, when `p` holds of its command, is given up. -/
def State.rillDropFetch (s : State) (b : Nat) (p : Nat → Bool) : State :=
  match (s.rill b).fetch.filter fun f => p f.cmd with
  | none => s
  | some f =>
    let s := match s.cmd? f.cmd with
      | some c => s.rillFetchLost b f c
      | none => s
    s.setRill b { s.rill b with fetch := none }

/-! ### Cascades -/

def Cmd.cd (c : Cmd) : Nat := c.par 0 512
def Cmd.cx (c : Cmd) : Nat := c.par 512 512

/-- The page-list entries a tile reads. -/
def Cd.entries (d : Nat) : List Nat :=
  let e0 := Cd.kFirst d / Cd.p d
  (List.range ((Cd.kFirst d + Cd.kCount d - 1) / Cd.p d - e0 + 1)).map (e0 + ·)

/-- Bytes of the elements of one position's key or value; bytes of its scales. -/
def Cd.elemLen (d : Nat) : Nat := Cd.d d * fmtBits (Cd.fmtKv d) / 8
def Cd.scaleLen (d : Nat) : Nat := if fmtMx (Cd.fmtKv d) then Cd.d d / 32 else 0

/-- The runs of a tile's KV window: kind and address of the source, and length; keys' elements of every page, then keys'
scales, values' elements, values' scales. `pages` places the pages in turn. -/
def Cd.kvRuns (d : Nat) (pages : List (Nat × Nat)) : List (Nat × Nat × Nat) :=
  let P := Cd.p d
  let es := (Cd.entries d).zip pages
  let part (at_ : Nat → Nat) (len : Nat) : List (Nat × Nat × Nat) := es.map fun e =>
    let lo := max (Cd.kFirst d) (e.1 * P)
    let n := min (Cd.kFirst d + Cd.kCount d) ((e.1 + 1) * P) - lo
    (e.2.1, e.2.2 + at_ (lo - e.1 * P), n * len)
  let el := Cd.elemLen d
  let sl := Cd.scaleLen d
  let sc (base : Nat) : List (Nat × Nat × Nat) := if sl = 0 then [] else part (fun o => base + P * el + o * sl) sl
  part (fun o => o * el) el ++ sc 0 ++ part (fun o => 65536 + o * el) el ++ sc 65536

/-- The pages a fetch resolved: `aux` holds the count of its start, then kind x 2^64 + address of each page. -/
def Cmd.kvPages (c : Cmd) : List (Nat × Nat) := (c.aux.drop 1).map fun x => (x / 2 ^ 64, x % 2 ^ 64)
def Cmd.runs (c : Cmd) : List (Nat × Nat × Nat) := Cd.kvRuns c.cd c.kvPages
def Cmd.localRuns (c : Cmd) : List (Nat × Nat) := (c.runs.filter (·.1 == 0)).map (·.2)

/-- Requests sent for an owner are nobody's any more but basin `b`'s, which drains them (R260), and those that wait are withdrawn. -/
def State.aqdDisown (s : State) (owner b : Nat) : State :=
  { s with aqd := { s.aqd with
      sent := s.aqd.sent.map fun r => if r.owner = owner then { r with owner := 2 ^ 34 + b } else r
      waiting := s.aqd.waiting.filter (·.owner != owner) } }

/-- The runs of a window in the order of its reads: local ones, then remote ones. -/
def Cmd.fetchRuns (c : Cmd) : List (Nat × Nat) := c.localRuns ++ (c.runs.filter (·.1 == 1)).map (·.2)

/-- The KV fetch of cascade `t` for command `c` is over before its window is whole (R165). -/
def State.cascadeFetchLost (s : State) (t : Nat) (f : Fetch) (c : Cmd) : State :=
  let (n, s) := s.free
  let s := s.bump Fld.cascadeFetchBytesFetchBytes t (bytesBack c.fetchRuns f.left (n % (min 256 f.left + 1)))
  s.bump Fld.cascadeFetchWaitFetchWait t (s.fetchWaited (192 + t) (c.aux.getD 0 s.now))

/-- The fetch of a tile is given up, with its tile or to start again later; its half is empty. -/
def State.cascadeDropFetch (s : State) (t id : Nat) : State :=
  let s := match (s.cascade t).fetch.filter (·.cmd == id), s.cmd? id with
    | some f, some c => s.cascadeFetchLost t f c
    | _, _ => s
  let b := match s.cmd? id with | some c => c.target | none => 8 * t
  let x := s.cascade t
  let clr (h : Half) : Half := if h.cmd = id then {} else h
  (s.setCascade t { x with fetch := x.fetch.filter (·.cmd != id), half0 := clr x.half0, half1 := clr x.half1 }).aqdDisown id b

/-! ### A command leaves -/

/-- A WAIT that acquires a semaphore (R216). -/
def Cmd.acquires (c : Cmd) : Bool := c.opcode == 2 && c.par 0 4 == 1 && bitAt c.params 4

/-- The number of WAIT `id` among the waiters of a semaphore, above those of the cores. -/
def waitNo (id : Nat) : Nat := 2 ^ 20 + id

/-- Cores among waiters stop waiting; WAITs go on. -/
def waitsLeft (l : List (Nat × Nat)) : List (Nat × Nat) := l.filter (2 ^ 20 ≤ ·.2)

/-- WAIT `id` no longer waits for a semaphore of basin `b`. -/
def State.leaveSem (s : State) (b id : Nat) : State :=
  s.each ([b, 64 + b].filter fun q => (s.basin q).waiters.any (·.2 == waitNo id)) fun s q =>
    s.setBasin q { s.basin q with waiters := (s.basin q).waiters.filter (·.2 != waitNo id) }

/-- Command `id` is no longer among the dispatched ones: a fetch for it ends with it, and a rill whose queue is empty forgets
its halves and lanes (R134, R147). -/
def State.leave (s : State) (id : Nat) : State :=
  match s.cmd? id with
  | none => s
  | some c =>
    if c.opcode = 9 then ((s.rillDropFetch c.target (· == id)).dropCmd id).rillDrained c.target
    else if c.opcode = 0xA then (s.cascadeDropFetch (c.target / 8) id).dropCmd id
    else if c.acquires then (s.leaveSem (c.par 16 16 / 32) id).dropCmd id
    else s.dropCmd id

end Sys2Proof.Machine
end

