-- ==== Sys2Proof/Machine/Sides.lean ====
section
/-! DEFINITION. The two sides of a COPY or FILL (R221), and one that stops midway (R243, R246). -/
namespace Sys2Proof.Machine

/-- One side of a transfer. -/
structure Side where
  space : Nat
  basin : Nat
  addr : Nat
  deriving DecidableEq, Repr

def Cmd.dst (c : Cmd) : Side := ⟨c.par 0 4, c.par 8 6, c.par 128 64⟩
def Cmd.src (c : Cmd) : Side := ⟨c.par 4 4, c.par 16 6, c.par 64 64⟩

/-- Bytes 18w to 18w + 17 of a pool word (R221). -/
def wordBytes (v : Int) : List Byte := leBytes 18 (BitVec.ofInt 144 v).toNat

/-- Read one side. -/
def State.sideRead (s : State) (sl : Nat) (x : Side) (n : Nat) : List Byte :=
  match x.space with
  | 0 => s.cRead x.basin x.addr n
  | 1 => ((List.range (n / 18)).map fun i => wordBytes (s.pWord x.basin (x.addr / 18 + i))).flatten
  | 2 => s.devRead x.addr n
  | _ => s.hostRead (s.hostSpace sl) x.addr n

/-- Pool words from bytes. -/
def bytesWord (bs : List Byte) : Int := (BitVec.ofNat 144 (leNat bs)).toInt

/-- Write one side; the answer says whether a write failed (R97). Pool words are stored as they come: the manual names no command
that adds a RAW144 partial input as it arrives (R59), so a copied partial is added by a tile in accumulate mode (DEDUCED, log
entry 18). -/
def State.sideWrite (s : State) (sl : Nat) (x : Side) (bs : List Byte) : State × Bool :=
  match x.space with
  | 0 => s.cWrite x.basin x.addr bs
  | 1 => (s.each (List.range (bs.length / 18)) fun s i => s.pWrite x.basin (x.addr / 18 + i) (bytesWord ((bs.drop (18 * i)).take 18)), false)
  | 2 => (s.devWrite x.addr bs, false)
  | _ => (s.hostWrite (s.hostSpace sl) x.addr bs, false)

/-- The destination takes unspecified values. -/
def State.sideFree (s : State) (sl : Nat) (x : Side) (n : Nat) : State :=
  match x.space with
  | 0 => s.cFree x.basin x.addr n
  | 1 => s.pFree x.basin (x.addr / 18) (n / 18)
  | 2 => s.devForget x.addr (x.addr + n)
  | _ => s.hostFree (s.hostSpace sl) x.addr n

/-- The range of one side in its basin. -/
def Side.need (x : Side) (n : Nat) : Need := if x.space = 1 then ⟨.pool, x.addr / 18, n / 18⟩ else ⟨.cistern, x.addr, n⟩

def Side.span (x : Side) (id n kind : Nat) : List Span :=
  match x.space with
  | 0 => [⟨id, false, x.addr, n, kind⟩]
  | 1 => [⟨id, true, x.addr / 18, n / 18, kind⟩]
  | _ => []

/-- Bytes of HBM, CXL and host that one side moves. -/
def Side.bytes (x : Side) (n : Nat) : Nat × Nat × Nat :=
  match x.space with
  | 2 => if isHbm x.addr then (flitBytes x.addr n, 0, 0) else (0, flitBytes x.addr n, 0)
  | 3 => (0, 0, flitBytes x.addr n)
  | _ => (0, 0, 0)

/-- The bytes of the destination that are source bytes too: offset and length (R221). -/
def Cmd.copyOverlap (c : Cmd) : Nat × Nat :=
  let n := c.par 32 32
  let meet := c.opcode == 0x10 && c.dst.space == c.src.space && (2 ≤ c.dst.space || c.dst.basin == c.src.basin)
  if meet then (c.src.addr - c.dst.addr, min (c.dst.addr + n) (c.src.addr + n) - max c.dst.addr c.src.addr) else (0, 0)

/-- The command with the bytes it has moved so far charged, `k` of them, and with the bytes it has written as its output (R226,
R247). -/
def State.copyMoved (s : State) (c : Cmd) (k : Nat) : Cmd :=
  let d := c.dst.bytes k
  let r := if c.opcode = 0x11 then (0, 0, 0) else c.src.bytes k
  { c with hbmB := c.hbmB + d.1 + r.1, cxlB := c.cxlB + d.2.1 + r.2.1, hostB := c.hostB + d.2.2 + r.2.2
           outs := if k = 0 then [] else s.sideRead c.slice c.dst k }

/-- The destination of a COPY or FILL takes its first `k` bytes: unspecified where its source could not be read, where another
access overlapped them, and where source and destination overlap; nothing where it is down. The answer is the command as it has
moved them, and whether a write failed. -/
def State.copyLand (s : State) (c : Cmd) (k : Nat) : State × Cmd × Bool :=
  let k := if c.dst.space = 1 then k / 18 * 18 else k
  if c.dst.space == 2 && s.devFenced c.dst.addr (c.par 32 32) then (s, { s.copyMoved c k with outs := [] }, false) else
  let (s, bad) := s.sideWrite c.slice c.dst (c.outs.take k)
  let ov := c.copyOverlap
  let s := if c.aux.headD 0 = 1 then s.sideFree c.slice c.dst k
    else if ov.2 = 0 then s else s.sideFree c.slice { c.dst with addr := c.dst.addr + ov.1 } (min ov.2 (k - ov.1))
  let (s, _) := if c.dst.space < 2 then s.doWrites c.dst.basin c.writes else (s, false)
  (s, s.copyMoved c k, bad)

/-- A COPY or FILL that has started stops: bytes already written stay, and none follows (R243, R246). How many it has written is
open (log entry 12). The answer is the command as it has moved them. -/
def State.copyStopped (s : State) (c : Cmd) : State × Cmd :=
  if c.begun && (c.opcode == 0x10 || c.opcode == 0x11) then
    let (n, s) := s.free
    let r := s.copyLand c (n % (c.par 32 32 + 1))
    (r.1, r.2.1)
  else (s, c)

end Sys2Proof.Machine
end

