-- ==== Sys2Proof/Machine/Complete.lean ====
section
/-! DEFINITION. The end of a command: reply (R223 to R228), accounting (R247, R248), shadows (R372 to R374), violations
and freezing (R242 to R245), and the end of a spout task (R196). -/
namespace Sys2Proof.Machine

/-! ### Accounting -/

/-- ENERGY_COEF number and cycle counter of an opcode's engine (Tables 11-6, 19-4). -/
def engineOf (opcode : Nat) : Option (Nat × Fld) :=
  match opcode with
  | 0x08 => some (0, Fld.acctJetCyclesCycles)
  | 0x09 => some (1, Fld.acctRillCyclesCycles)
  | 0x0A => some (2, Fld.acctCascadeCyclesCycles)
  | 0x0B => some (3, Fld.acctRunnelCyclesCycles)
  | 0x0C => some (4, Fld.acctSpoutCyclesCycles)
  | _ => none

/-- Engine cycles that a command charges: none for commands executed on H (R248). -/
def Cmd.engineCycles (c : Cmd) : Nat := if (engineOf c.opcode).isSome then c.cyc else 0

/-- Energy of amounts: engine cycles of kind `k`, bytes of HBM, CXL, aqueduct and host (R247, R409). -/
def State.energy (s : State) (k cyc hbm cxl aqd host : Nat) : Nat :=
  cyc * s.reg .energyCoef k + hbm / 64 * s.reg .energyCoef 6 + cxl / 64 * s.reg .energyCoef 7 +
    aqd / 64 * s.reg .energyCoef 8 + host / 64 * s.reg .energyCoef 9

def State.cmdEnergy (s : State) (c : Cmd) : Nat :=
  s.energy (match engineOf c.opcode with | some (k, _) => k | none => 0) c.engineCycles c.hbmB c.cxlB c.aqdB c.hostB

/-- Charge a slice for bytes and energy. -/
def State.chargeBytes (s : State) (sl hbm cxl aqd host : Nat) : State :=
  if 128 ≤ sl then s else
  let s := (s.bump Fld.acctHbmBytesBytes sl hbm).bump Fld.acctCxlBytesBytes sl cxl
  (s.bump Fld.acctAqdBytesBytes sl aqd).bump Fld.acctHostBytesBytes sl host

/-- Charge a slice with what a command has used. -/
def State.chargeCmd (s : State) (c : Cmd) : State :=
  if 128 ≤ c.slice then s else
  let s := match engineOf c.opcode with
    | some (_, f) => s.bump f c.slice c.cyc
    | none => s
  (s.chargeBytes c.slice c.hbmB c.cxlB c.aqdB c.hostB).bump Fld.acctEnergyPjEnergy c.slice (s.cmdEnergy c)

/-- Charge switch cycles: zeroing, save and restore (R241). -/
def State.chargeSwitch (s : State) (sl cyc : Nat) : State :=
  if 128 ≤ sl then s else (s.bump Fld.acctSwitchCyclesSwitch sl cyc).bump Fld.acctEnergyPjEnergy sl (cyc * s.reg .energyCoef 5)

/-! ### Replies -/

/-- The output digest, where there is one (R226). -/
def Cmd.digest (c : Cmd) : Option Nat := if c.digestEn && !c.outs.isEmpty then some (crc64 c.outs) else none

/-- The duration of a command that ends now. -/
def State.duration (s : State) (c : Cmd) : Nat := (s.now + 2 ^ 64 - c.start) % 2 ^ 64

/-- The command has read no operand: it has used no engine cycle and moved no byte beside its packet and reply. -/
def Cmd.readNothing (c : Cmd) : Bool := c.cyc == 0 && c.hbmB == 0 && c.cxlB == 0 && c.aqdB == 0 && c.outs.isEmpty

/-- The 32-byte reply (Table 10-7). Its accounting fields are what the command adds to its slice's counters: nothing for a
management ring; and they read zero for a command that fails before it reads any operand (R225). -/
def State.replyWord (s : State) (c : Cmd) (code : Nat) : Nat :=
  let d := s.duration c
  let acct := c.slice < 128 && !(0x1000 ≤ code && c.readNothing)
  let e := if acct then s.cmdEnergy c / 4000000 else 0
  let eng := if acct then c.engineCycles / 64 else 0
  let by_ := if acct then (c.hbmB + c.cxlB + c.aqdB) / 65536 else 0
  let sat := decide (255 < e) || decide (65535 < eng) || decide (255 < by_)
  let nd := c.slice < 128 && s.reg .detNondet c.slice != c.nondet0
  code + c.flags.toNat % 16 * 2 ^ 16 + nat1 c.digest.isSome * 2 ^ 20 + nat1 nd * 2 ^ 21 + nat1 sat * 2 ^ 22 +
    nat1 (decide (2 ^ 32 ≤ d)) * 2 ^ 23 + min 255 e * 2 ^ 24 + c.tag % 2 ^ 32 * 2 ^ 32 + c.step0 % 2 ^ 32 * 2 ^ 64 +
    (c.digest.getD (c.result % 2 ^ 64)) * 2 ^ 96 + c.start % 2 ^ 40 * 2 ^ 160 + min d (2 ^ 32 - 1) * 2 ^ 200 +
    min 65535 eng * 2 ^ 232 + min 255 by_ * 2 ^ 248

/-- Entries of the completion ring of ring `r`. -/
def State.cqEntries (s : State) (r : Nat) : Nat := 2 ^ s.rd Fld.cqSizeLog2Entries r
/-- The completion ring is full (R208). -/
def State.cqFull (s : State) (r : Nat) : Bool := (s.rd Fld.cqHeadHead r + 1) % s.cqEntries r == s.rd Fld.cqTailTail r

/-- Write a reply at CQ_HEAD, then advance CQ_HEAD (R208). -/
def State.replyWrite (s : State) (r word : Nat) : State :=
  let h := s.rd Fld.cqHeadHead r
  let s := s.setRing r { s.ring r with lost := (s.ring r).lost.filter (· != h) }
  (s.hostWrite (s.hostSpace (ringSlice r)) (s.reg .cqBase r + 32 * h) (leBytes 32 word)).wr Fld.cqHeadHead r ((h + 1) % s.cqEntries r)

/-- Write held replies while the completion ring has room. -/
def State.flushHeld : Nat → State → Nat → State
  | 0, s, _ => s
  | n + 1, s, r =>
    match (s.ring r).held with
    | [] => s
    | w :: ws => if s.cqFull r then s else
      State.flushHeld n ((s.replyWrite r w).setRing r { s.ring r with held := ws }) r

/-- cq_stalled: 64 replies are held (R208). -/
def State.showStall (s : State) (r : Nat) : State := s.wr Fld.ringStatusCqStalled r (nat1 (decide (64 ≤ (s.ring r).held.length)))

/-- A reply of ring `r`: written, or held on H behind earlier held ones while the completion ring is full (R208). What completes
while 64 are held waits behind them with its engine; none is dropped. -/
def State.reply (s : State) (r word : Nat) : State :=
  if (s.ring r).held.isEmpty && !s.cqFull r then s.replyWrite r word
  else (s.setRing r { s.ring r with held := (s.ring r).held ++ [word] }).showStall r

/-- Halt a ring (R210, R228). -/
def State.haltRing (s : State) (r code : Nat) : State :=
  (s.wr Fld.ringStatusHalted r 1).wr Fld.ringStatusHaltCode r code

/-- Rings of a slice; the management rings of 128. -/
def sliceRings (sl : Nat) : List Nat := if sl = 128 then (List.range 4).map (· + 1024) else (List.range 8).map (8 * sl + ·)

/-- R227: while the slice is freezing or frozen, ST_SLICE_FROZEN takes the place of every outcome but the tile outcomes
of R81. -/
def State.frozenCode (s : State) (c : Cmd) (code : Nat) : Nat :=
  if (s.sliceState c.slice == 2 || s.sliceState c.slice == 3) &&
      !(8 ≤ c.opcode && c.opcode ≤ 0xB && tileOrder.contains code) then stSliceFrozen else code

/-- Does the device still write replies for this command (R246, R231)? -/
def State.replies (s : State) (c : Cmd) : Bool :=
  c.ring < 1028 && (s.sliceState c.slice == 1 || s.sliceState c.slice == 2 || s.sliceState c.slice == 3)

/-- The reply of a command and what follows from it: suppression, RING_LAST_END, halt_on_error (R223, R228). -/
def State.replyCmd (s : State) (c : Cmd) (code : Nat) : State :=
  let s := if c.slice < 128 then s.bump Fld.acctCommandsCommands c.slice else s
  let s := if c.errorsOnly && code < 0x1000 then s else
    let s := if 2 ^ 32 ≤ s.duration c then s.setReg .ringLastEnd c.ring s.now else s
    s.reply c.ring (s.replyWord c code)
  if 0x1000 ≤ code && s.on Fld.ringCtrlHaltOnError c.ring then s.haltRing c.ring code else s

/-- The end of a tile issued by a spout core: its failing status, in the registers of its own task while that is the context's
current or last one, and its semaphore (R190, R203). -/
def State.issuedEnd (s : State) (c : Cmd) (code : Nat) : State :=
  let q := if (s.basin c.target).lastTask = c.task then c.target else 64 + c.target
  let s := if code ≠ 0 ∧ s.rd Fld.issueStatusFirstFail q = 0 ∧ (s.basin q).lastTask = c.task then
    s.wr Fld.issueStatusFirstFail q code else s
  match c.sem with
  | some i => (s.semAdd c.target i 1).1
  | none => s

/-- The step counter that a command carries which starts now: an advance takes effect on the next edge (R364). -/
def State.stepNow (s : State) (sl : Nat) : Nat :=
  let v := s.reg .detStep sl
  match (s.sliceSt sl).stepWas with
  | some (t, before, after) => if t = s.time.count64 ∧ after = v then before else v
  | none => v

/-- The command with its start: of one that has not started, this edge, with the step counter and the non-determinism counter as they
stand (R224). -/
def State.asBegun (s : State) (c : Cmd) : Cmd :=
  if c.begun then c else { c with
    begun := true, start := s.now
    step0 := if c.slice < 128 then s.stepNow c.slice else 0
    nondet0 := if c.slice < 128 then s.reg .detNondet c.slice else 0 }

/-- The bytes of the reply, where one is written, are charged too (R247). -/
def State.withReply (s : State) (c : Cmd) (code : Nat) : Cmd :=
  if c.ring != 2048 && s.replies c && !(c.errorsOnly && code < 0x1000) then { c with hostB := c.hostB + 64 } else c

/-- A command is over: it leaves the list of dispatched commands, its slice is charged, its reply goes out. -/
def State.finishBase (s : State) (c : Cmd) (code : Nat) : State :=
  let code := s.frozenCode c code
  let c := s.withReply (s.asBegun c) code
  let s := s.each ((s.basins.map (·.1)).filter fun b => (s.basin b).spans.any (·.cmd == c.id)) fun s b => s.endSpans b c.id
  let s := (s.leave c.id).chargeCmd c
  if c.ring = 2048 then s.issuedEnd c code
  else if s.replies c then s.replyCmd c code else s

/-! ### Shadows (R372 to R374) -/

def State.shadow? (s : State) (sl : Nat) : Option Shadow := Tbl.find s.shadowing sl
def State.setShadow (s : State) (sl : Nat) (x : Shadow) : State := { s with shadowing := Tbl.put s.shadowing sl x }

/-- The shadow of a slice is over: its command completes with `code`. -/
def State.endShadow (s : State) (sl code : Nat) : State :=
  match s.shadow? sl with
  | none => s
  | some x =>
    let s := { s with shadowing := Tbl.del s.shadowing sl }
    let s := (((s.wr Fld.detShadowStatusRole sl 0).wr Fld.detShadowStatusState sl 0).wr Fld.detShadowStatusPending sl 0)
    match s.cmd? x.cmd with
    | some c => s.finishBase c code
    | none => s

/-- The digest record of R372, 32 bytes. -/
def DigestRec.bytes (r : DigestRec) : List Byte := leBytes 32 (r.tag % 2 ^ 32 + r.step % 2 ^ 32 * 2 ^ 32 + r.digest % 2 ^ 64 * 2 ^ 64 + 2 ^ 128)

/-- Address of a record in the log: log_addr + 32 x (tag mod 2^log2_entries). -/
def Shadow.slot (x : Shadow) (tag : Nat) : Nat := Sys2Proof.slice x.params 64 52 + 32 * (tag % 2 ^ Sys2Proof.slice x.params 32 5)

/-- Send the first queued record of an export when none is under way; the BUMP follows its acknowledgement (R372). A slice
that is not active sends none. -/
def State.exportPump (s : State) (sl : Nat) : State :=
  match s.shadow? sl with
  | none => s
  | some x =>
    match x.exports with
    | [] => s
    | r :: _ =>
      if s.aqdPending (2 ^ 33 + sl) || !s.sliceActive sl then s else
      let (s, st) := s.push sl (8192 + sl) (2 ^ 33 + sl) (x.slot r.tag) r.bytes
      if st = stOk then s else (s.dropWaiting (2 ^ 33 + sl)).endShadow sl st

/-- Compare one digest with the log (R373): none when no record matches yet. -/
def State.shadowLook (s : State) (x : Shadow) (r : DigestRec) : Option Nat :=
  let w := s.devNat (x.slot r.tag) 32
  if bitAt w 128 && Sys2Proof.slice w 0 32 == r.tag % 2 ^ 32 && Sys2Proof.slice w 32 32 == r.step % 2 ^ 32 then some (Sys2Proof.slice w 64 64) else none

/-- source_timeout of a compare. -/
def Shadow.timeout (x : Shadow) : Nat := Sys2Proof.slice x.params 192 32

/-- The source is silent or unreachable while comparing (R375 rules 2 and 3). -/
def State.comparingLost (s : State) (x : Shadow) : Bool :=
  (!x.pending.isEmpty && x.lastRec.2 + x.timeout ≤ s.now) ||
    (match x.routeLost with | some t => t + x.timeout ≤ s.now | none => false)

/-- The compare of a slice ends with a mismatch; a loss of its source on the same edge still turns its status (R376). -/
def State.endMismatch (s : State) (sl : Nat) (x : Shadow) : State :=
  match s.cmd? x.cmd with
  | none => s.endShadow sl stShadowMismatch
  | some c =>
    let h := s.rd Fld.cqHeadHead c.ring
    let s := s.endShadow sl stShadowMismatch
    s.setSliceSt sl { s.sliceSt sl with
      mismatch := some ⟨s.time.count64, c, if s.rd Fld.cqHeadHead c.ring = h then none else some h⟩ }

/-- The DET_MISMATCH registers take a mismatch of command record `r` (R374). -/
def State.recordMismatch (s : State) (sl : Nat) (r : DigestRec) (peer : Nat) : State :=
  let s := (s.setReg .detMismatchTag sl (r.tag % 2 ^ 32)).setReg .detMismatchStep sl (r.step % 2 ^ 32)
  (s.setReg .detMismatchOwn sl r.digest).setReg .detMismatchPeer sl peer

/-- A digest is compared with the exported one (R373, R374); on an edge on which the source is lost the loss ends the shadow
(R376). -/
def State.shadowMeet (s : State) (sl : Nat) (x : Shadow) (r : DigestRec) (peer : Nat) : State :=
  if r.digest = peer then
    let ahead := (r.step + 2 ^ 32 - s.reg .detStep sl % 2 ^ 32) % 2 ^ 32 < 2 ^ 31
    (s.bump Fld.detMatchedMatched sl).setShadow sl { x with stepSeen := if ahead then (r.step :: x.stepSeen).eraseDups else x.stepSeen }
  else
    let s := s.recordMismatch sl r peer
    if s.comparingLost x then s.setShadow sl { x with lossDue := true } else s.endMismatch sl x

/-- A pending entry leaves the list unmatched (R373). -/
def State.shadowUnmatched (s : State) (sl : Nat) (x : Shadow) (r : DigestRec) : State :=
  let p := x.pending.filter (· != r)
  ((s.bump Fld.detUnmatchedUnmatched sl).wr Fld.detShadowStatusPending sl p.length).setShadow sl
    { x with pending := p, badSteps := r.step % 2 ^ 32 :: x.badSteps }

/-- A command of the slice completes with a digest: it is exported, or compared (R372, R373). -/
def State.shadowNote (s : State) (sl tag step digest : Nat) : State :=
  let r : DigestRec := ⟨tag, step % 2 ^ 32, digest, s.now⟩
  match s.shadow? sl with
  | none => match (s.sliceSt sl).lostNow.filter fun l => l.1 == s.time.count64 with
    | some l => match s.shadowLook l.2 r with
      | some peer => if r.digest = peer then s else s.recordMismatch sl r peer
      | none => s
    | none => s
  | some x =>
    if x.role = 1 then (s.setShadow sl { x with exports := x.exports ++ [r] }).exportPump sl
    else if s.rd Fld.detShadowStatusState sl = 2 && !x.lossDue then
      match s.shadowLook x r with
      | some peer => s.shadowMeet sl x r peer
      | none =>
        let s := match x.pending with
          | o :: _ => if 64 ≤ x.pending.length then s.shadowUnmatched sl x o else s
          | [] => s
        match s.shadow? sl with
        | some x => (s.setShadow sl { x with pending := x.pending ++ [r] }).wr Fld.detShadowStatusPending sl (x.pending.length + 1)
        | none => s
    else s

/-- Look up every pending entry again (R373). -/
def State.shadowRecheck (s : State) (sl : Nat) : State :=
  match s.shadow? sl with
  | none => s
  | some x => s.each x.pending fun s r =>
    match s.shadow? sl with
    | none => s
    | some x => if x.lossDue then s else match s.shadowLook x r with
      | none => s
      | some peer =>
        let x := { x with pending := x.pending.filter (· != r) }
        ((s.setShadow sl x).wr Fld.detShadowStatusPending sl x.pending.length).shadowMeet sl x r peer

/-- The fill counter of a compare reads `v`: an advance restarts rule 1's window while it is open; one at or after its close does
not, and wins only where it reaches the expected value (R375). -/
def State.fillSeen (s : State) (x : Shadow) (v : Nat) : Shadow :=
  { x with lastFill := (v, if x.lastFill.1 < v ∧ s.now < x.lastFill.2 + x.timeout then s.now else x.lastFill.2) }

/-- The same of the record counter, after pending entries were looked up again: with none of them left an advance starts a window
anew (R373, R375 rule 2). -/
def State.recSeen (s : State) (x : Shadow) (v : Nat) : Shadow :=
  { x with lastRec := (v, if x.lastRec.1 < v ∧ (x.pending.isEmpty ∨ s.now < x.lastRec.2 + x.timeout) then s.now else x.lastRec.2) }

/-- An arrival counter has advanced or was written (R355): shadows that read it see it (R373, R375). -/
def State.arrivalSeen (s : State) (i : Nat) : State :=
  let v := s.reg .aqdArrival i
  s.each (s.shadowing.map (·.1)) fun s sl =>
    match s.shadow? sl with
    | none => s
    | some x =>
      if x.role ≠ 2 then s else
      let s := if Sys2Proof.slice x.params 144 12 = i then s.setShadow sl (s.fillSeen x v) else s
      if Sys2Proof.slice x.params 128 12 = i then
        let s := if x.lastRec.1 < v then s.shadowRecheck sl else s
        match s.shadow? sl with
        | some x => s.setShadow sl (s.recSeen x v)
        | none => s
      else s

/-- The step counter of a slice advances by `k` (R364); a compare counts the matched steps it passes (R373). -/
def State.stepAdvance (s : State) (sl k : Nat) : State :=
  let v := s.reg .detStep sl
  let was := s.stepNow sl
  let s := s.setReg .detStep sl (v + k)
  let s := s.setSliceSt sl { s.sliceSt sl with stepWas := some (s.time.count64, was, s.reg .detStep sl) }
  match s.shadow? sl with
  | none => s
  | some x =>
    if x.role ≠ 2 || k = 0 then s else
    let passed (e : Nat) : Bool := (e + 2 ^ 32 - v % 2 ^ 32) % 2 ^ 32 < k
    let won := (x.stepSeen.filter fun e => passed e && !x.badSteps.contains e).length
    let n := x.matchedSteps + won
    let s := s.setShadow sl { x with matchedSteps := n, stepSeen := x.stepSeen.filter fun e => !passed e }
    let goal := Sys2Proof.slice x.params 224 32
    if won != 0 && goal != 0 && goal ≤ n then (s.wr Fld.detShadowStatusMatched sl 1).endShadow sl stOk else s

/-- A command is over, with what its completion means to the step counter and to a shadow (R364, R372, R373). -/
def State.finishCore (s : State) (c : Cmd) (code : Nat) : State :=
  let c := s.asBegun c
  let s := s.finishBase c code
  if 1028 ≤ c.ring then s else
  let s := if c.opcode = 0x2D then s.stepAdvance c.slice 1 else s
  match c.digest with
  | some d => s.shadowNote c.slice c.tag c.step0 d
  | none => s

/-! ### Spout tasks (R196) -/

/-- The command of the task in the context of core `c` is charged for `n` bytes at device address `a`. -/
def State.chargeCore (s : State) (c a n : Nat) : State :=
  match (s.basin (c / 8)).task with
  | some t => s.modCmd t.cmd fun k => if a < 2 ^ 40 then { k with hbmB := k.hbmB + n } else { k with cxlB := k.cxlB + n }
  | none => s

/-- Write back the dirty lines of a core's data cache and empty it. -/
def State.writeBack (s : State) (c : Nat) : State :=
  let k := s.core c
  let s := s.each (k.dcache.filter (·.2.2)) fun s l => (s.devWrite (l.1 * 64) (leBytes 64 l.2.1)).chargeCore c (l.1 * 64) 64
  s.setCore c { s.core c with dcache := [] }

/-- A core's part of the task is over. -/
def State.coreIdle (s : State) (c : Nat) : State :=
  let k := s.core c
  (s.setCore c { k with inTask := false, waiting := none, claiming := none, resv := none, jbuf := [] }).wr Fld.coreStatusState c 0

/-- R196: the status of a task. -/
def State.taskStatus (s : State) (b : Nat) (t : Task) : Nat :=
  if t.addrFault then stAddrFault else if t.trap then stSpoutTrap else if t.timeout then stTimeout
  else if s.rd Fld.issueStatusFirstFail b ≠ 0 then s.rd Fld.issueStatusFirstFail b
  else if t.exitNz then stSpoutExit else stOk

/-- Counts that a task has run, without the time it was saved. -/
def Task.ran (t : Task) (now : Nat) : Nat := if t.held then t.start else now - t.start

/-- Basin cycles that a task of basin `b` has run, at the basin's clock (Table 19-1). -/
def State.taskCycles (s : State) (b : Nat) (t : Task) : Nat := t.ran s.now * (Tbl.get 15 s.pwr.steps (b % 64) + 1) * 15625 / 196608

/-- The task of basin `b` ends: every core of it idle, dirty lines written back, its command over with `code` as `fin` ends it. -/
def State.taskOver (s : State) (b code : Nat) (fin : State → Cmd → Nat → State) : State :=
  let x := s.basin b
  match x.task with
  | none => s
  | some t =>
    let t := { t with cyc := t.cyc + t.live * s.taskCycles b t }
    let s := s.each (List.range 8) fun s k =>
      let s := s.writeBack (8 * b + k)
      if (s.core (8 * b + k)).inTask then s.coreIdle (8 * b + k) else s
    let s := s.setBasin b { s.basin b with task := none, waiters := waitsLeft (s.basin b).waiters }
    let s : State := { s with pwr := { s.pwr with lastRun := Tbl.put s.pwr.lastRun (320 + b % 64) s.now } }
    match s.cmd? t.cmd with
    | some c => fin s { c with cyc := t.cyc } code
    | none => s

/-! ### Freezing (R242 to R245) -/

/-- A core of the basin has an access that has not been answered (R197). -/
def State.coresDrained (s : State) (b : Nat) : Bool := (List.range 8).all fun k => (s.core (8 * b + k)).accs.isEmpty

/-- The basins whose task belongs to a slice. -/
def State.taskBasins (s : State) (sl : Nat) : List Nat :=
  (List.range 64).filter fun b => match (s.basin b).task with
    | some t => t.slice == sl
    | none => false

/-- A command on H that a freeze ends on its edge (Table 11-3): a WAIT, a FENCE, a COPY or FILL, a parked HANDOFF or STEP_END. -/
def Cmd.endsOnFreeze (c : Cmd) : Bool :=
  c.opcode == 1 || c.opcode == 2 || c.opcode == 0x10 || c.opcode == 0x11 || c.opcode == 0x2C || c.opcode == 0x2E

/-- A command on H that waits for replies over the aqueduct: AQD_ATOMIC, COPY_ASYNC, a serving command. -/
def Cmd.sends (c : Cmd) : Bool := c.opcode == 0x12 || c.opcode == 0x13 || (0x20 ≤ c.opcode && c.opcode ≤ 0x2E)

/-- Table 11-3 on the freeze edge: what has not started is discarded with a reply; waits end; requests that wait for a credit
are not issued; tasks without outstanding accesses end. -/
def State.freezeWork (s : State) (sl : Nat) : State :=
  let s := s.each (s.cmds.filter fun c => c.slice == sl && c.phase != .saved && (!c.begun || c.endsOnFreeze)) fun s c =>
    let r := s.copyStopped c
    r.1.finishCore r.2 stSliceFrozen
  let s := { s with aqd := { s.aqd with waiting := s.aqd.waiting.filter (·.sl != sl) } }
  let s := s.each (s.cmds.filter fun c => c.slice == sl && c.phase == .running && c.sends && !s.aqdPending c.id) fun s c =>
    s.finishCore c stSliceFrozen
  s.each (s.taskBasins sl) fun s b => if s.coresDrained b then s.taskOver b stSliceFrozen State.finishCore else s

/-- A launch unit names a slice, or 128 for the management rings, and a mask of 8 rings (R322). -/
def State.launchNames (s : State) (u r : Nat) : Bool :=
  s.rd Fld.launchCtrlSlice u == ringSlice r && bitAt (s.rd Fld.launchCtrlRings u) (r % 8)

/-- A ring that an armed unit holds. -/
def State.launchHeld (s : State) (r : Nat) : Bool := (List.range 4).any fun u => s.on Fld.launchCtrlArm u && s.launchNames u r

/-- Unit `u` has fired on the present edge: LAUNCH_FIRED and fired as they were before. -/
def State.firedNow (s : State) (u : Nat) : Option (Nat × Nat) :=
  (Tbl.find s.time.fires u).bind fun x => if x.1 = s.now ∧ !s.on Fld.launchCtrlArm u then some x.2 else none

/-- A slice reset, unbind or freeze disarms the units that name the slice, one that fired on the same edge too (R322). -/
def State.cancelLaunch (s : State) (sl : Nat) : State :=
  s.each (List.range 4) fun s u =>
    if s.rd Fld.launchCtrlSlice u != sl then s
    else if s.on Fld.launchCtrlArm u then (s.wr Fld.launchCtrlArm u 0).raise Fld.launchStatusCancelled u
    else match s.firedNow u with
      | some (at_, fired) =>
        let s : State := { s with time := { s.time with fires := s.time.fires.filter (·.1 != u) } }
        ((s.setReg .launchFired u at_).wr Fld.launchStatusFired u fired).raise Fld.launchStatusCancelled u
      | none => s

/-- The slice freezes (R243). -/
def State.freeze (s : State) (sl : Nat) : State :=
  let s := ((s.setSliceState sl 2).reportLow (unitHub 0) 3 0 0).cancelLaunch sl
  let s := s.each (sliceRings sl) fun s r => s.haltRing r stSliceFrozen
  s.freezeWork sl

/-- A violation of slice `sl`, kind by bit number (R242, R245). -/
def State.violation (s : State) (sl kind code addr : Nat) : State :=
  if 128 ≤ sl then s else
  let s := s.bumpSat Fld.sliceStatusViolCount sl
  let st := s.sliceState sl
  if 2 ≤ st then s else
  let s := if s.rd Fld.sliceViolKind sl = 0 then
      (((s.wr Fld.sliceViolKind sl (kind + 1)).wr Fld.sliceViolCode sl code).setReg .sliceViolAddr sl addr).setReg .sliceViolStamp sl s.now
    else s
  if st = 1 ∧ sl ≠ 0 ∧ s.regBit .sliceViolMask sl kind then s.freeze sl else s

/-- The violation that a status code is (Table 11-2). -/
def violKind (code : Nat) : Option Nat :=
  if code = stAddrFault then some 2 else if code = stAqdRejected then some 3
  else if code = stPageInvalid ∨ code = stSessionInvalid then some 4 else none

/-! ### The whole end of a command -/

/-- A command completes with `code`. Where a violation's address is not one address of the command, which of its addresses
SLICE_VIOL_ADDR holds is open (log entry 38). -/
def State.finish (s : State) (c : Cmd) (code : Nat) : State :=
  let code' := s.frozenCode c code
  let s := s.finishCore c code
  match violKind code' with
  | some k =>
    let (n, s) := s.free
    s.violation c.slice k code' (c.faultAddr.getD n)
  | none => s

/-- The task of basin `b` ends with `code`. -/
def State.taskEnd (s : State) (b code : Nat) : State := s.taskOver b code State.finish

/-- A command starts: its stamp, the step counter and the non-determinism counter as they stand (R224). -/
def State.beginCmd (s : State) (id : Nat) : State :=
  s.modCmd id fun c => { c with
    begun := true, start := s.now
    step0 := if c.slice < 128 then s.stepNow c.slice else 0
    nondet0 := if c.slice < 128 then s.reg .detNondet c.slice else 0 }

/-- A refused request is a violation of its slice and an FC_SLICE fault, which a freeze reports itself; for the management rings an
FC_INFO event (R234, R243). -/
def State.refusal (s : State) (sl code addr : Nat) : State :=
  if 128 ≤ sl then s.info (unitHub 0) else
  let t := s.violation sl 1 code addr
  if s.sliceState sl = 1 ∧ t.sliceState sl = 2 then t else t.reportLow (unitHub 0) 3 0 0

/-- The status of a refusal. -/
def refusalCode (timeout : Bool) : Nat := if timeout then stTimeout else stAddrFault

/-- Complete a command that starts and ends at one edge. -/
def State.finishNow (s : State) (c : Cmd) (code : Nat) : State :=
  let s := s.beginCmd c.id
  match s.cmd? c.id with
  | some c => s.finish c code
  | none => s

end Sys2Proof.Machine
end

