-- ==== Sys2Proof/Machine/AqdHome.lean ====
section
/-! DEFINITION. The home side of the aqueduct: translation and receive checks (R341, R342), line queues (R344, R348, R349),
settlement (R351, R353), arrival counters (R355), and the race events of Table 17-2. -/
namespace Sys2Proof.Machine

/-! ### Replies -/

/-- The home replies: to this package's own sender, or to another package. -/
def State.homeReply (s : State) (a : Arrival) (code : RepCode) (reason result : Nat) (data : List Byte) : State :=
  match a.sid with
  | some i => { s with aqd := { s.aqd with replies := s.aqd.replies ++ [⟨i, code, reason, result, data⟩] } }
  | none =>
    let (n, s) := s.free
    { s with aqd := { s.aqd with lastReply := some (a.req, ⟨0, code, reason, result, data⟩) } }.portTx (n % 8)

/-- A request is refused with a reason of Table 16-3 (R342). -/
def State.homeRefuse (s : State) (a : Arrival) (reason : Nat) : State :=
  let s := ((s.bump Fld.aqdRefusedCount 0).wr Fld.aqdRefuseLastReason 0 reason).wr Fld.aqdRefuseLastSrc 0 a.req.src
  s.homeReply a .refused reason 0 []

/-- A request that is no longer alive, or of an earlier incarnation, is dropped without reply (R345, R351). -/
def State.homeDrop (s : State) : State := s.bump Fld.aqdExpiredCount 0

/-- Alive at the edge stamped `c` (R345). -/
def State.aliveAt (s : State) (q : AqdReq) (c : Nat) : Bool := c ≤ q.t0 + s.rd Fld.aqdLifetimeLifetime

/-! ### Translation and checks (R341, R342) -/

/-- The receive translation entry that serves a job address (Table 16-2). -/
def State.rttAddr (s : State) (a : Nat) : Nat := s.rd Fld.aqdRttBaseBase + 16 * (a / 2 ^ 21 % 2 ^ 20)
def State.rttEntry (s : State) (a : Nat) : Nat := s.devNat (s.rttAddr a) 16

/-- The local address of job address `a` under entry `e`. -/
def rttPhys (e a : Nat) : Nat := slice e 64 23 * 2 ^ 21 + a % 2 ^ 21
/-- owner_slice of an entry. -/
def rttOwner (e : Nat) : Nat := slice e 16 7

/-- Does an entry permit a kind? A bump needs no bit of its own (log entry 32). -/
def rttPermits (e : Nat) : ReqKind → Bool
  | .rd => bitAt e 12
  | .wr | .bw => bitAt e 13
  | .at => bitAt e 14
  | .bump | .query => true

/-- The receive checks in the order of Table 16-3; 0 when all pass. -/
def State.receiveChecks (s : State) (q : AqdReq) : Nat :=
  let e := s.rttEntry q.addr
  let own := rttOwner e
  if !s.on Fld.aqdCtrlEnable then 7
  else if !bitAt e 0 || slice e 1 11 != q.addr / 2 ^ 41 then 1
  else if slice e 24 16 != q.job then 2
  else if slice e 40 8 != q.gen then 3
  else if !rttPermits e q.kind then 4
  else if !s.sliceActive own || (q.size != 0 && !s.devOk own (rttPhys e q.addr) q.size) then 5
  else if q.kind == .bump && !(q.counter < 4096 && s.on Fld.aqdArrivalOwnerValid q.counter &&
      s.rd Fld.aqdArrivalOwnerSlice q.counter == own) then 6
  else 0

/-! ### Line queues (R348, R349) -/

def LineOp.isWrite (o : LineOp) : Bool := o.arr.req.kind == .wr || o.arr.req.kind == .bw
def LineOp.isAt (o : LineOp) : Bool := o.arr.req.kind == .at
def LineOp.src (o : LineOp) : Nat := o.arr.req.src

/-- Does an update touch one of `n` bytes from `a`? -/
def LineOp.touches (o : LineOp) (a n : Nat) : Bool :=
  if o.isAt then o.addr < a + n && a < o.addr + o.arr.req.size
  else o.isWrite && (List.range n).any fun i => decide (128 * o.line ≤ a + i) && ((o.data.getD (a + i - 128 * o.line) none).isSome)

/-- Two writes to one line differ in a byte that both write (R367). -/
def LineOp.differs (x y : LineOp) : Bool :=
  (List.range 128).any fun i => match x.data.getD i none, y.data.getD i none with
    | some a, some b => a != b
    | _, _ => false

def State.lineQueue (s : State) (line : Nat) : List LineOp := s.aqd.lines.filter (·.line == line)

/-- Entries of a line's queue leave it. -/
def State.lineDrop (s : State) (line : Nat) (adms : List Nat) : State :=
  { s with aqd := { s.aqd with lines := s.aqd.lines.filter fun o => o.line != line || !adms.contains o.adm } }

/-- A write enters its line's queue: races with queued writes of other sources are noted (R348, R366). -/
def State.linePush (s : State) (o : LineOp) : State :=
  let rivals := (s.lineQueue o.line).filter fun x => x.isWrite && x.src != o.src
  let s := if o.isWrite && !rivals.isEmpty then
      let s := s.bump Fld.aqdRacesCount 0
      if rivals.any o.differs then s.nondet o.owner 0 else s
    else s
  { s with aqd := { s.aqd with lines := s.aqd.lines ++ [{ o with raced := !o.isWrite && !rivals.isEmpty }] } }

/-- A read at the head of its line's queue is served (R346, R348). -/
def State.lineRead (s : State) (o : LineOp) (poison : Bool) : State :=
  let s := if o.raced || (s.lineQueue o.line).any (fun x => x.isWrite && x.src != o.src) then s.nondet o.owner 2 else s
  let s := s.lineDrop o.line [o.adm]
  if s.devFenced o.addr 128 then s.homeReply o.arr .fenced 0 0 []
  else if poison then s.homeReply o.arr .poison 0 0 []
  else s.homeReply o.arr .done 0 0 (s.devRead o.addr 128)

/-- Serve the reads at the head of a line's queue. -/
def State.serveReads : Nat → State → Nat → Bool → State
  | 0, s, _, _ => s
  | n + 1, s, line, poison =>
    match s.lineQueue line with
    | o :: _ =>
      if o.arr.req.kind != .rd then s
      else State.serveReads n (if s.aliveAt o.arr.req s.now then s.lineRead o poison else (s.lineDrop line [o.adm]).homeDrop) line poison
    | [] => s

/-! ### Settlement (R351) -/

def State.srcSt (s : State) (p : Nat) : SrcSt := Tbl.get {} s.aqd.srcs p

/-- The address of entry `k` of the settlement table of source `p`. -/
def State.settleAddr (s : State) (p k : Nat) : Nat := s.rd Fld.aqdSettleBaseBase + 4096 * p + 16 * k

/-- The entry's 16 bytes are written. The manual gives them no layout, so they read as free bytes (log entry 47). -/
def State.settleTouch (s : State) (p k : Nat) : State :=
  let g := s.freeCtr
  ({ s with freeCtr := g + 1 }).devWrite (s.settleAddr p k) ((List.range 16).map (Config.freeByte g))

/-- The entries in which two records of a source differ. -/
def SrcSt.changed (x y : SrcSt) : List Nat :=
  ((x.entries ++ y.entries).map (·.1)).eraseDups.filter fun k => Tbl.find x.entries k != Tbl.find y.entries k

/-- The record of source `p`, and its image in HBM. -/
def State.setSrcSt (s : State) (p : Nat) (x : SrcSt) : State :=
  ({ s with aqd := { s.aqd with srcs := Tbl.set {} s.aqd.srcs p x } }).each ((s.srcSt p).changed x) fun s k => s.settleTouch p k

/-- What settlement makes of a request at admission. -/
inductive Settled where
  | drop
  | wait
  | stale
  | recorded (result : Nat)
  | notApplied
  | refused (reason : Nat)
  | fresh
  deriving DecidableEq, Repr

/-- The source's record once its incarnation is this request's; none while entries of the former one are pending. -/
def SrcSt.entered (x : SrcSt) (inc : Nat) : Option SrcSt :=
  if x.inc = some inc then some x
  else if x.entries.any (·.2.pending) then none
  else some { inc := some inc, high := none, entries := [] }

/-- Its incarnation is earlier than the recorded one. -/
def SrcSt.outdated (x : SrcSt) (inc : Nat) : Bool :=
  match x.inc with
  | some i => i != inc && (i + 2 ^ 32 - inc) % 2 ^ 32 < 2 ^ 31
  | none => false

/-- At least 256 behind the watermark. -/
def SrcSt.stale (x : SrcSt) (seq : Nat) : Bool :=
  match x.high with
  | some h => let d := (h + 2 ^ 32 - seq) % 2 ^ 32; 256 ≤ d && d < 2 ^ 31
  | none => false

/-- The entry that records sequence number `seq`. -/
def SrcSt.entry (x : SrcSt) (seq : Nat) : Option Settle := (Tbl.find x.entries (seq % 256)).filter (·.seq == seq)

/-- settle_admit (R351) up to the application, for a request admitted at the edge stamped `c`; with the source's record. -/
def State.settleAdmit (s : State) (q : AqdReq) (c : Nat) : Settled × SrcSt :=
  let x := s.srcSt q.src
  if x.outdated q.inc then (.drop, x) else
  match x.entered q.inc with
  | none => (.wait, x)
  | some x =>
    if x.stale q.seq then (.stale, x) else
    match x.entry q.seq with
    | some e => (if e.pending then .wait else .recorded e.result, x)
    | none =>
      if q.kind == .query then (.notApplied, x)
      else if !s.aliveAt q c then (.drop, x)
      else let r := s.receiveChecks q
        (if r != 0 then .refused r else .fresh, x)

/-- Record a sequence number; it raises the watermark when it is later. -/
def SrcSt.record (x : SrcSt) (e : Settle) : SrcSt :=
  { x with
    entries := Tbl.put x.entries (e.seq % 256) e
    high := match x.high with
      | none => some e.seq
      | some h => if (e.seq + 2 ^ 32 - h) % 2 ^ 32 < 2 ^ 31 then some e.seq else some h }

/-- What BUMPs have added to arrival counter `i` on the present edge. -/
def State.bumpedNow (s : State) (i : Nat) : Nat :=
  match Tbl.find s.aqd.bumps i with
  | some (t, n) => if t = s.time.count64 then n else 0
  | none => 0

/-- A BUMP adds to its counter (R355). -/
def State.bumpCounter (s : State) (i amount : Nat) : State :=
  let s : State := { s with aqd := { s.aqd with bumps := Tbl.put s.aqd.bumps i (s.time.count64, s.bumpedNow i + amount) } }
  (s.setReg .aqdArrival i (s.reg .aqdArrival i + amount)).arrivalSeen i

/-- A numbered request that passed settlement and the checks: a bump is applied, an atomic enters its line's queue. A
translation entry in memory that is down fences it (log entry 33). -/
def State.aqdFresh (s : State) (a : Arrival) (x : SrcSt) : State :=
  let q := a.req
  if q.kind == .bump then
    let s := (s.setSrcSt q.src (x.record ⟨q.seq, 0, false⟩)).bumpCounter q.counter q.operand
    s.homeReply a .applied 0 0 []
  else
    let e := s.rttEntry q.addr
    let p := rttPhys e q.addr
    let s := s.setSrcSt q.src (x.record ⟨q.seq, 0, true⟩)
    let n := s.aqd.nextId
    let s := { s with aqd := { s.aqd with nextId := n + 1 } }
    s.linePush ⟨p / 128, n, a, p, [], rttOwner e, false⟩

/-- An AT, BUMP or QUERY is admitted, or admitted again after a wait (R351). -/
def State.aqdAdmit (s : State) (a : Arrival) : State :=
  let (r, x) := s.settleAdmit a.req a.at_
  if r = .wait then { s with aqd := { s.aqd with heldReqs := s.aqd.heldReqs ++ [a] } } else
  let s := s.setSrcSt a.req.src x
  match r with
  | .drop | .wait => s.homeDrop
  | .stale => (s.bump Fld.aqdStaleCount 0).homeReply a .stale 0 0 []
  | .recorded v => (s.bump Fld.aqdDuplicatesCount 0).homeReply a .recorded 0 v []
  | .notApplied => s.homeReply a .notApplied 0 0 []
  | .refused n => s.homeRefuse a n
  | .fresh =>
    if s.devFenced (s.rttAddr a.req.addr) 16 || s.devFenced (s.settleAddr a.req.src (a.req.seq % 256)) 16 then s.homeReply a .fenced 0 0 []
    else s.aqdFresh a x

/-- Requests of a source that waited for a pending entry are admitted again, in their order. -/
def State.aqdReadmit (s : State) (p : Nat) : State :=
  let mine := s.aqd.heldReqs.filter (·.req.src == p)
  s.each mine fun s a => ({ s with aqd := { s.aqd with heldReqs := s.aqd.heldReqs.erase a } }).aqdAdmit a

/-! ### Updates (R348 to R350) -/

/-- The value of an atomic's word, and its new value. -/
def atomicNew (q : AqdReq) (old : Nat) : Nat :=
  let w := if q.wide then 64 else 32
  let sg (n : Nat) : Int := (BitVec.ofNat w n).toInt
  let v := q.operand % 2 ^ w
  match q.op with
  | 0 | 1 => (old + v) % 2 ^ w
  | 2 => if old = q.compare % 2 ^ w then v else old
  | 3 => if sg old < sg v then v else old
  | _ => if sg v < sg old then v else old

/-- The result of an atomic: the word before it, 0 for an add (R350). -/
def atomicResult (q : AqdReq) (old : Nat) : Nat := if q.op = 0 then 0 else old

/-- Another update to its word from another source is queued (kind 1 of Table 17-2). -/
def State.contended (s : State) (o : LineOp) : Bool :=
  o.arr.req.op != 0 && (s.lineQueue o.line).any fun x => x.adm != o.adm && x.src != o.src && x.touches o.addr o.arr.req.size

/-- The members of a group: the head and the adds and fetch-adds directly behind it on the same word (R349). -/
def combineGroup : List LineOp → List LineOp
  | [] => []
  | h :: rest =>
    let add (o : LineOp) : Bool := o.isAt && o.arr.req.op ≤ 1
    if !add h then [h] else
    h :: (rest.takeWhile fun o => add o && o.addr == h.addr && o.arr.req.wide == h.arr.req.wide).take 15

/-- One atomic acts on its word; its settlement entry holds the result, and it is answered. One that cannot reach its word
leaves no entry (log entry 33). -/
def State.atomicApply (s : State) (o : LineOp) (poison : Bool) : State :=
  let q := o.arr.req
  let n := q.size
  let x := s.srcSt q.src
  if s.devFenced o.addr n then (s.setSrcSt q.src { x with entries := Tbl.del x.entries (q.seq % 256) }).homeReply o.arr .fenced 0 0 []
  else if poison then (s.setSrcSt q.src { x with entries := Tbl.del x.entries (q.seq % 256) }).homeReply o.arr .poison 0 0 []
  else
    let old := s.devNat o.addr n
    let s := s.devWrite o.addr (leBytes n (atomicNew q old))
    let r := atomicResult q old
    let s := if (x.entry q.seq).any (·.pending) then
      s.setSrcSt q.src { x with entries := Tbl.put x.entries (q.seq % 256) ⟨q.seq, r, false⟩ } else s
    s.homeReply o.arr .applied 0 r []

/-- A write's part in its line lands; the request is acknowledged with its last part (R344). -/
def State.writeApply (s : State) (o : LineOp) : State :=
  let s := s.each ((List.range 128).filterMap fun i => (o.data.getD i none).map fun b => (128 * o.line + i, b)) fun s x => s.devWrite x.1 [x.2]
  let s := s.lineDrop o.line [o.adm]
  if s.aqd.lines.any (·.adm == o.adm) then s
  else s.homeReply o.arr (if s.devFenced o.addr 1 then .fenced else .done) 0 0 []

/-- A read or write that is no longer alive leaves the queues whole (R345). -/
def State.homeExpire (s : State) (o : LineOp) : State :=
  { s with aqd := { s.aqd with lines := s.aqd.lines.filter (·.adm != o.adm) } }.homeDrop

/-- May an entry of a line's queue be discarded? An admitted atomic stays, since its settlement entry is pending. -/
def State.homeDead (s : State) (o : LineOp) : Bool := !o.isAt && !s.aliveAt o.arr.req s.now

/-- The atomics at the head of line queue `q` act as one group; what waited for their sources is admitted. -/
def State.groupApply (s : State) (line : Nat) (q : List LineOp) (poison : Bool) : State :=
  let g := combineGroup q
  let s := s.each (g.filter s.contended) fun s o => s.nondet o.owner 1
  let s := s.each g fun s o => s.atomicApply o poison
  let s := s.lineDrop line (g.map (·.adm))
  let s := if 2 ≤ g.length then s.bump Fld.aqdCombinedCount 0 else s
  s.each ((g.map (·.src)).eraseDups) fun s p => s.aqdReadmit p

/-- The home applies the update at the head of a line's queue, a combined group as one, then serves the reads behind it. -/
def State.lineUpdate (s : State) (line : Nat) (poison : Bool) : State :=
  match s.lineQueue line with
  | [] => s
  | h :: rest =>
    if s.homeDead h then (s.homeExpire h).serveReads (rest.length + 1) line poison
    else if h.isWrite then (s.writeApply h).serveReads (rest.length + 1) line poison
    else if h.isAt then (s.groupApply line (h :: rest) poison).serveReads (rest.length + 1) line poison
    else s.serveReads (rest.length + 1) line poison

/-! ### Admission -/

/-- The request of this package's own sender that this is, when it is on its way (R338): a QUERY belongs to the request whose
number it carries. -/
def State.ownSent (s : State) (q : AqdReq) : Option SendReq :=
  s.aqd.sent.find? fun r => r.port == 8 && !r.lost &&
    (if q.kind == .query then r.queries != 0 && r.req.numbered && q.seq == r.req.seq && q.inc == r.req.inc && q.t0 == r.queryT0
      else r.queries == 0 && q == r.req)

/-- A read or write enters the queues of its lines (R348). -/
def State.lineEnter (s : State) (a : Arrival) (poison : Bool) : State :=
  let q := a.req
  let e := s.rttEntry q.addr
  let p := rttPhys e q.addr
  let n := s.aqd.nextId
  let s := { s with aqd := { s.aqd with nextId := n + 1 } }
  let part (i : Nat) : List (Option Byte) :=
    if q.kind == .rd then [] else
    (List.range 128).map fun j => if q.kind == .bw || bitAt q.mask j then some (q.data.getD (128 * i + j) 0) else none
  let s := s.each (List.range (q.size / 128)) fun s i => s.linePush ⟨p / 128 + i, n, a, p + 128 * i, part i, rttOwner e, false⟩
  if q.kind == .rd then s.serveReads 1 (p / 128) poison else s

/-- A read or write is admitted: checked, then queued on its lines (R342, R348). -/
def State.lineAdmit (s : State) (a : Arrival) (poison : Bool) : State :=
  let q := a.req
  if !s.aliveAt q s.now then s.homeDrop
  else if s.receiveChecks q ≠ 0 then s.homeRefuse a (s.receiveChecks q)
  else if s.devFenced (s.rttAddr q.addr) 16 then s.homeReply a .fenced 0 0 []
  else s.lineEnter a poison

/-- A request is admitted, in the way of its kind. -/
def State.admitReq (s : State) (a : Arrival) (poison : Bool) : State :=
  match a.req.kind with
  | .rd | .wr | .bw => s.lineAdmit a poison
  | .at | .bump | .query => s.aqdAdmit a

/-- The input queue whose turn it is, by its oldest request: in ascending source ID after the source served last (R348). -/
def AqdSt.nextInput (x : AqdSt) : Option (Arrival × Bool) :=
  let rank (p : Nat) : Nat := match x.lastSrc with
    | some l => if l < p then p else p + 4096
    | none => p
  x.input.foldl (fun b y => match b with
    | none => some y
    | some z => if rank y.1.req.src < rank z.1.req.src then some y else some z) none

/-- The home serves the input queues, one request a turn. -/
def State.turns : Nat → State → State
  | 0, s => s
  | n + 1, s =>
    match s.aqd.nextInput with
    | none => s
    | some x => State.turns n
      (({ s with aqd := { s.aqd with input := s.aqd.input.erase x, lastSrc := some x.1.req.src } }).admitReq { x.1 with at_ := s.now } x.2)

/-- What waits in the input queues since earlier edges is admitted. -/
def State.serveInput (s : State) : State := if s.aqd.turn = some s.time.count64 then s else s.turns s.aqd.input.length

/-- A request has come to the home: it is admitted, or waits in its source's input queue when another was admitted on this very
edge (DESIGN CHOICE, log entry 47: one turn on an edge). -/
def State.inputPut (s : State) (a : Arrival) (poison : Bool) : State :=
  let s := s.serveInput
  if s.aqd.turn = some s.time.count64 then { s with aqd := { s.aqd with input := s.aqd.input ++ [(a, poison)] } }
  else ({ s with aqd := { s.aqd with turn := some s.time.count64, lastSrc := some a.req.src } }).admitReq a poison

/-- A request in an input queue that is no longer alive: it is discarded, but for one that settlement looks up first (R345). -/
def State.inputDead (s : State) (a : Arrival) : Bool := !a.req.numbered && a.req.kind != .query && !s.aliveAt a.req s.now

def State.inputExpire (s : State) (x : Arrival × Bool) : State :=
  { s with aqd := { s.aqd with input := s.aqd.input.erase x } }.homeDrop

/-- A request reaches the home: one of another package as it comes, one of this package when its sender has sent it. In the safe
state it is discarded (Table 18-6). -/
def State.arrive (s : State) (q : AqdReq) (poison : Bool) : State :=
  if q.src ≠ s.pkg then
    let (n, s) := s.free
    let s := s.portRx (n % 8)
    if s.safe then s else s.inputPut ⟨q, none, s.now⟩ poison
  else s.forSome (s.ownSent q) fun s r =>
    let s := { s with aqd := { s.aqd with sent := s.aqd.sent.map fun x => if x.id = r.id then { x with lost := true } else x } }
    if s.safe then s else s.inputPut ⟨q, some r.id, s.now⟩ poison

def execAqdRd (dt : Nat) (q : AqdReq) (poison : Bool) (s : State) : Host.Outcome State Fault Refusal :=
  enter (.aqdRd dt q poison) dt s fun s => s.arrive q poison

def execAqdWr (dt : Nat) (q : AqdReq) (s : State) : Host.Outcome State Fault Refusal :=
  enter (.aqdWr dt q) dt s fun s => s.arrive q false

def execAqdBw (dt : Nat) (q : AqdReq) (s : State) : Host.Outcome State Fault Refusal :=
  enter (.aqdBw dt q) dt s fun s => s.arrive q false

def execAqdAt (dt : Nat) (q : AqdReq) (s : State) : Host.Outcome State Fault Refusal :=
  enter (.aqdAt dt q) dt s fun s => s.arrive q false

def execAqdBump (dt : Nat) (q : AqdReq) (s : State) : Host.Outcome State Fault Refusal :=
  enter (.aqdBump dt q) dt s fun s => s.arrive q false

def execAqdQuery (dt : Nat) (q : AqdReq) (s : State) : Host.Outcome State Fault Refusal :=
  enter (.aqdQuery dt q) dt s fun s => s.arrive q false

/-- The home applies the next update of a line's queue, after what waited to be admitted. -/
def execHomeLineUpdate (dt line : Nat) (poison : Bool) (s : State) : Host.Outcome State Fault Refusal :=
  enter (.homeLineUpdate dt line poison) dt s fun s => s.whenever (!s.safe) fun s => s.serveInput.lineUpdate line poison

/-! ### Enable and arrival counters (R353, R355) -/

/-- A write of AQD_CTRL: setting enable starts sequence numbers afresh and clears what settlement holds. -/
def State.aqdCtrlWrite (s : State) (v : Nat) : State :=
  let set := v % 2 == 1 && !s.on Fld.aqdCtrlEnable
  let s := s.wr Fld.aqdCtrlEnable 0 v
  if set then
    let s := s.each (s.aqd.srcs.map (·.1)) fun s p => s.setSrcSt p {}
    let s := { s with aqd := { s.aqd with seqs := [], srcs := [], sent := s.aqd.sent.filter (!·.unresolved) } }.wr Fld.aqdBlockedBlocked 0 0
    s.each ((s.aqd.heldReqs.map (·.req.src)).eraseDups) fun s p => s.aqdReadmit p
  else s

def execAqdEnable (dt v : Nat) (s : State) : Host.Outcome State Fault Refusal :=
  enter (.aqdEnable dt v) dt s fun s => s.aqdCtrlWrite v

/-- A register write to an arrival counter counts as an arrival; a BUMP on the same edge adds to the written value (R355). -/
def State.arrivalWrite (s : State) (i v : Nat) : State := (s.setReg .aqdArrival i (v + s.bumpedNow i)).arrivalSeen i

def execArrivalCounterWrite (dt i v : Nat) (s : State) : Host.Outcome State Fault Refusal :=
  enter (.arrivalCounterWrite dt i v) dt s fun s => s.arrivalWrite i v

end Sys2Proof.Machine
end

