-- ==== Sys2Proof/Machine/Chain.lean ====
section
/-! DEFINITION. What the stages of a runnel chain do to one row (R111 to R120): the stage catalogue over exact values,
statistic contributions, MX quantise and dropout. Memory is read and written by the callers. -/
namespace Sys2Proof.Machine

/-- Cuts a list into runs of 32; the last may be shorter. -/
def chunks32 {α : Type} : Nat → List α → List (List α)
  | 0, _ => []
  | n + 1, l => if l.isEmpty then [] else l.take 32 :: chunks32 n (l.drop 32)

/-- Runs of 32 of a whole list. -/
def groups32 {α : Type} (l : List α) : List (List α) := chunks32 l.length l

/-- One side input as one row sees it: its value at each column (shapes 0 to 2), or its two words (shape 3). -/
structure SideRow where
  vals : List Nat
  sum : Int
  sumSq : Int
  deriving DecidableEq, Repr

/-- What a list depends on besides the row itself. -/
structure RowCtx where
  chain : Nat
  anchor : Int
  tensorRow : Nat
  tensorCol : Nat
  statRow : Nat
  side0 : SideRow
  side1 : SideRow
  deriving DecidableEq, Repr

/-- A row between stages: a format code and one number per column, a pool word (signed) under RAW, an encoding
otherwise; with what the stages so far have raised. -/
structure RowVal where
  code : Nat
  xs : List Int
  scales : List Nat
  flags : AccFlags
  stats : List (Nat × Int)
  dropped : Nat
  ovf : Nat
  statOverflow : Bool
  deriving DecidableEq, Repr

/-- A row as it enters its first stage. -/
def RowVal.start (code : Nat) (xs : List Int) : RowVal := ⟨code, xs, [], .none, [], 0, 0, false⟩

/-- The exact value of one number of a row. -/
def rowValAt (code : Nat) (A : Int) (x : Int) : Val := if code = 0xC then wordVal x A else valOf code x.toNat

/-- Rounds the new exact values of a row into format `out`; `extra` tells which raise convert_overflow besides. -/
def RowVal.put (r : RowVal) (out : Nat) (sat : Bool) (vs : List (Val × Bool)) : RowVal :=
  let rs := vs.map fun v => (rnd v.1 out sat, v.2)
  let n := (rs.filter fun t => t.1.2 || t.2).length
  { r with
    code := out
    xs := rs.map fun t => (t.1.1 : Int)
    flags := r.flags.or ⟨false, false, false, decide (0 < n)⟩
    ovf := r.ovf + n }

/-- The second source of an element-wise stage: the immediate or the side input's value at each column (R115). -/
def stageSrc (ctx : RowCtx) (s n : Nat) : List Val :=
  match Sg.src s with
  | 1 => ctx.side0.vals.map (valOf (Si.fmt (Ch.side ctx.chain 0)))
  | 2 => ctx.side1.vals.map (valOf (Si.fmt (Ch.side ctx.chain 1)))
  | _ => List.replicate n (valOf 0xB (Sg.imm0 s))

/-- An activation of Table 5-5 (R116). -/
def activation (f : Nat) (slope x : Val) : Val :=
  match x with
  | .nan => .nan
  | _ =>
    if f = 0 then (if (Val.num 0 0).lt x then x else .num 0 0)
    else if f = 6 then (if x.lt (.num 0 0) then x.mul slope else x)
    else actSpline f x

/-- min(max(x, lo), hi); NaN stays NaN. -/
def clampVal (lo hi x : Val) : Val := if x = .nan then .nan else if x.lt lo then lo else if hi.lt x then hi else x

/-- A number, neither NaN nor infinite. -/
def Val.isNum : Val → Bool
  | .num _ _ => true
  | _ => false

/-- The statistic contributions of one row (R117): sums in word `2r`, squares in word `2r + 1` from `base`. -/
def rowStats (s code : Nat) (pol : Nat) (xs : List Nat) : List ((Int × AccFlags) × (Int × AccFlags)) :=
  let one := if code = 9 then 0x3F80 else 0x3C00
  let aSum := signedOf (slice (Sg.imm0 s) 0 10) 10
  let aSq := signedOf (slice (Sg.imm0 s) 16 10) 10
  (groups32 xs).map fun g =>
    (kgroup (g.map fun x => (x, one)) code code 127 127 aSum pol,
     kgroup (g.map fun x => (x, x)) code code 127 127 aSq pol)

/-- One stage on one row (Table 5-4). -/
def stageRow (ctx : RowCtx) (s : Nat) (r : RowVal) : RowVal :=
  let vs := r.xs.map (rowValAt r.code ctx.anchor)
  let out := outFmtCode (Sg.outFmt s)
  let sat := Sg.sat s == 1
  let src := stageSrc ctx s r.xs.length
  let both := fun f : Val → Val → Val => (vs.zip src).map fun p => (f p.1 p.2, false)
  match Sg.op s with
  | 0 => r.put out sat (both Val.mul)
  | 1 => r.put out sat (both Val.add)
  | 2 => r.put out sat (vs.map fun x => (activation (Sg.sub s) (valOf 0xB (Sg.imm0 s)) x, false))
  | 3 => r.put out sat (both Val.add)
  | 4 =>
    let cs := rowStats s r.code (Sg.ovfPolicy s) (r.xs.map Int.toNat)
    let base := slice (Sg.imm1 s) 0 18 + 2 * ctx.statRow
    let fl := cs.foldl (fun a c => (a.or c.1.2).or c.2.2) AccFlags.none
    { r with
      flags := r.flags.or fl
      stats := r.stats ++ cs.flatMap fun c => [(base, c.1.1), (base + 1, c.2.1)]
      statOverflow := r.statOverflow || (Sg.ovfPolicy s == 2 && fl.above) }
  | 5 =>
    let sd := if Sg.src s = 1 then ctx.side0 else ctx.side1
    let S := wordVal sd.sum (signedOf (slice (Sg.imm0 s) 0 10) 10)
    let Q := wordVal sd.sumSq (signedOf (slice (Sg.imm0 s) 16 10) 10)
    r.put out sat (vs.map fun x =>
      let eps := valOf 0xB (Sg.imm2 s)
      let y := normaliseVal x S Q (Sg.imm1 s) eps (Sg.sub s == 1)
      (y.1, y.2 || (x.isNum && S.isNum && Q.isNum && eps.isNum && !y.1.isNum)))
  | 6 => r.put out sat (vs.map fun x => (clampVal (valOf 0xB (Sg.imm0 s)) (valOf 0xB (Sg.imm1 s)) x, false))
  | 7 => if Sg.sub s = 0xC then r else r.put (Sg.sub s) sat (vs.map fun x => (x, false))
  | 8 =>
    let bs := (groups32 r.xs).map fun g =>
      if r.code = 0xC then mxQuantise g ctx.anchor (Sg.sub s)
      else mxQuantiseValues (g.map Int.toNat) r.code (Sg.sub s)
    let n := (bs.filter fun b => b.2.2).length
    { r with
      code := Sg.sub s
      xs := bs.flatMap fun b => b.2.1.map fun x => (x : Int)
      scales := bs.map (·.1)
      flags := r.flags.or ⟨false, false, false, decide (0 < n)⟩
      ovf := r.ovf + n }
  | _ =>
    let inv := valOf 0xB (Sg.imm1 s)
    let drop := (List.range r.xs.length).map fun n =>
      dropped ctx.tensorRow (ctx.tensorCol + n) (Ch.dropoutSeed ctx.chain) (Sg.imm0 s) (Sg.imm2 s)
    let r' := r.put out sat ((vs.zip drop).map fun p => (if p.2 then .num 0 0 else p.1.mul inv, false))
    { r' with dropped := r.dropped + (drop.filter id).length }

/-- A list applies its entries in ascending order (R110). -/
def runList (ctx : RowCtx) (l : List Nat) (r : RowVal) : RowVal := l.foldl (fun r s => stageRow ctx s r) r

end Sys2Proof.Machine
end

