-- ==== Sys2Proof/Machine/Attention.lean ====
section
/-! DEFINITION. The cascade's arithmetic on one row (R149 to R153, R159, R160): scaled scores, the one-pass fold,
finalisation, the merge of two states, and the quantities of the backward pass. -/
namespace Sys2Proof.Machine

/-- The state of one query row (Table 7-2). -/
structure RowState where
  M : Int
  hasKey : Bool
  isNan : Bool
  firstPos : Nat
  nextPos : Nat
  L : Int
  O : List Int
  deriving DecidableEq, Repr

/-- A fresh row (R153). -/
def RowState.fresh (kFirst d : Nat) : RowState := ⟨0, false, false, kFirst, kFirst, 0, List.replicate d 0⟩

/-- What folding raises besides the state: flags, rises of M, cut-offs, policy-2 overflow. -/
structure FoldNotes where
  flags : AccFlags
  rescales : Nat
  cutoffs : Nat
  deriving DecidableEq, Repr

def FoldNotes.none : FoldNotes := ⟨.none, 0, 0⟩
def FoldNotes.or (a b : FoldNotes) : FoldNotes := ⟨a.flags.or b.flags, a.rescales + b.rescales, a.cutoffs + b.cutoffs⟩

/-- `anchors` (R151). -/
def anchorL : Int := 6
def anchorO (fkv smaxV : Nat) : Int := eTop fkv + 7 + ((smaxV : Int) - 127)

/-- `rescale` (R151). -/
def rescaleWord (p : Int) (n : Nat) : Int × Bool := if p = nanWord then (nanWord, false) else shiftTrunc p (-(n : Int))

/-- The score of one row against one key (R149): `q` and `k` are the elements of the d dimensions, `ks` the key's
scale bytes, one per 32 dimensions (127 where the format has none). -/
def scoreVal (q k : List Nat) (ks : List Nat) (fq fkv : Nat) (As : Int) (policy scaleC : Nat) : Nat × AccFlags :=
  let gs := (groups32 (q.zip k)).zip ks
  let cs := gs.map fun g => kgroup g.1 fq fkv 127 g.2 As policy
  let w := cs.foldl (fun a c => poolAdd a c.1) 0
  let fl := cs.foldl (fun a c => a.or c.2) AccFlags.none
  let t := rnd ((wordVal w As).mul (valOf 0xB scaleC)) 0xB false
  (t.1, fl.or ⟨false, false, false, t.2⟩)

/-- A scaled score at or below -2^30 counts as masked (R151). -/
def tMasked (t : Val) : Bool := ! (Val.num (-(2 ^ 30)) 0).lt t
/-- A scaled score that makes the row NaN. -/
def tBad (t : Val) : Bool := t == .nan || !(t.lt (.num (2 ^ 30) 0))
/-- ceil of a dyadic number. -/
def ceilVal : Val → Int
  | .num m e => if 0 ≤ e then m * (2 : Int) ^ e.toNat else -((-m) / (2 : Int) ^ (-e).toNat)
  | _ => 0

/-- One position of a key group: its scaled score (none where masked or out of bounds), its value row and scales. -/
structure KeyVal where
  t : Option Val
  v : List Nat
  sv : List Nat
  deriving DecidableEq, Repr

/-- Raises M to `mg` where a live score asks for it, shifting L and O (R151). -/
def raiseM (st : RowState) (mg : Int) : RowState × FoldNotes :=
  if !st.hasKey then ({ st with M := mg, hasKey := true }, .none)
  else if st.M < mg then
    let n := (mg - st.M).toNat
    let l := rescaleWord st.L n
    let o := st.O.map fun w => rescaleWord w n
    ({ st with M := mg, L := l.1, O := o.map (·.1) },
     ⟨⟨false, l.2 || o.any (·.2), false, false⟩, 1, 0⟩)
  else (st, .none)

/-- The new O[c] of one dimension: `ws` the weights (significand, exponent) of the live positions with the value's
encoding and scale byte. -/
def foldDim (o : Int) (ws : List ((Int × Int) × Nat × Nat)) (fkv : Nat) (Ao : Int) (policy : Nat) : Int × AccFlags :=
  let ds := ws.map fun w => (w.1, valOf fkv w.2.1, w.2.2)
  if ds.any fun w => w.2.1.isSpecial || w.2.2 == 0xFF then (nanWord, ⟨false, false, true, false⟩)
  else
    let c := stage123 (ds.map fun w =>
      (w.1.1 * w.2.1.parts.1, w.1.2 + w.2.1.parts.2 + ((w.2.2 : Int) - 127))) 0 Ao policy
    (poolAdd o c.1, c.2)

/-- `fold_group` (R151). -/
def foldGroup (st : RowState) (ks : List KeyVal) (fkv smaxV policy : Nat) : RowState × FoldNotes :=
  if st.isNan then (st, .none)
  else if ks.any fun k => match k.t with | some t => tBad t && !(tMasked t && t != .nan) | none => false then
    ({ st with isNan := true }, ⟨⟨false, false, true, false⟩, 0, 0⟩)
  else
    let live := ks.filter fun k => match k.t with | some t => !tMasked t | none => false
    match live with
    | [] => (st, .none)
    | _ =>
      let ts := live.map fun k => k.t.getD .nan
      let mg := ts.foldl (fun a t => max a (ceilVal t)) (ceilVal (ts.headD .nan))
      let r := raiseM st mg
      let st1 := r.1
      let ps := ts.map fun t => let d := dyAdd t.parts.1 t.parts.2 (-st1.M) 0; exp2Neg d.1 d.2
      let cut := (ps.filter fun p => p.2.2).length
      let ws := ps.map fun p => (p.1, p.2.1)
      let lc := stage123 ws 0 anchorL 0
      let os := st1.O.zipIdx.map fun oc =>
        foldDim oc.1 ((ws.zip live).map fun w =>
          (w.1, w.2.v.getD oc.2 0, w.2.sv.getD (oc.2 / 32) 127)) fkv (anchorO fkv smaxV) policy
      let fl := os.foldl (fun a o => a.or o.2) (lc.2.or ⟨false, decide (0 < cut), false, false⟩)
      ({ st1 with L := poolAdd st1.L lc.1, O := os.map (·.1) }, r.2.or ⟨fl, 0, cut⟩)

/-- Folds the key groups of a tile in ascending order. -/
def foldGroups (fkv smaxV policy : Nat) : RowState → List (List KeyVal) → RowState × FoldNotes
  | st, [] => (st, .none)
  | st, g :: gs =>
    let r := foldGroup st g fkv smaxV policy
    let r' := foldGroups fkv smaxV policy r.1 gs
    (r'.1, r.2.or r'.2)

/-- Finalised outputs of a row (R153): one encoding per dimension, and convert_overflow. -/
def finalRow (st : RowState) (fkv smaxV fmtO : Nat) (sat : Bool) : List (Nat × Bool) :=
  st.O.map fun o =>
    if st.isNan then (canonicalNan fmtO, false)
    else if !st.hasKey then (0, false)
    else match wordVal o (anchorO fkv smaxV) with
      | .nan => (canonicalNan fmtO, false)
      | v => rnd (v.div (wordVal st.L anchorL)) fmtO sat

/-- `merge` (R159); none is ORDER. -/
def mergeRow (a b : RowState) : Option (RowState × FoldNotes) :=
  if a.nextPos ≠ b.firstPos then none
  else if a.isNan || b.isNan then some ({ a with isNan := true, nextPos := b.nextPos }, .none)
  else if !b.hasKey then some ({ a with nextPos := b.nextPos }, .none)
  else if !a.hasKey then some ({ b with firstPos := a.firstPos }, .none)
  else
    let m := max a.M b.M
    let la := rescaleWord a.L (m - a.M).toNat
    let lb := rescaleWord b.L (m - b.M).toNat
    let oa := a.O.map fun w => rescaleWord w (m - a.M).toNat
    let ob := b.O.map fun w => rescaleWord w (m - b.M).toNat
    let lost := la.2 || lb.2 || oa.any (·.2) || ob.any (·.2)
    some ({ a with M := m, nextPos := b.nextPos, L := poolAdd la.1 lb.1,
                   O := (oa.zip ob).map fun p => poolAdd p.1.1 p.2.1 },
          ⟨⟨false, lost, false, false⟩, nat1 (decide (a.M < m)) + nat1 (decide (b.M < m)), 0⟩)

/-- The state as its d + 2 pool words (Table 7-2), each as 144 bits unsigned. -/
def RowState.words (s : RowState) : List Nat :=
  (unsignedOf s.M 32 + nat1 s.hasKey * 2 ^ 32 + nat1 s.isNan * 2 ^ 33 + s.firstPos % 2 ^ 32 * 2 ^ 64 +
    s.nextPos % 2 ^ 32 * 2 ^ 96) :: unsignedOf s.L 144 :: s.O.map fun o => unsignedOf o 144

/-- The state read back from its words. -/
def RowState.ofWords (ws : List Nat) : RowState :=
  let w0 := ws.getD 0 0
  ⟨signedOf (slice w0 0 32) 32, bitAt w0 32, bitAt w0 33, slice w0 64 32, slice w0 96 32,
   signedOf (ws.getD 1 0) 144, (ws.drop 2).map fun w => signedOf w 144⟩

/-- The 32-byte statistics record of a row (R153), little-endian as a number. -/
def RowState.record (s : RowState) : Nat :=
  unsignedOf s.M 32 + nat1 s.hasKey * 2 ^ 32 + nat1 s.isNan * 2 ^ 33 + unsignedOf s.L 144 * 2 ^ 112

/-- A position is live for a query row (Table 7-3); `bit` is its mask bit. -/
def maskLive (mode window qp p : Nat) (bit : Bool) : Bool :=
  match mode with
  | 0 => true
  | 1 => decide (p ≤ qp)
  | 2 => decide (p ≤ qp ∧ qp - p < window)
  | 3 => bit
  | _ => decide (p ≤ qp) && bit

/-- P of the backward pass (R160): `rec` is the statistics record as a number; t the scaled score, none where not
live. The flag is inexact_below of the cut-off. -/
def backP (rec : Nat) (t : Option Val) (fmtP : Nat) : Nat × AccFlags × Nat :=
  if bitAt rec 33 then (canonicalNan fmtP, .none, 0)
  else match t with
    | none => (0, .none, 0)
    | some t =>
      if !bitAt rec 32 then (0, .none, 0)
      else
        match t with
        | .num m e =>
          if tMasked t then (0, .none, 0)
          else
            let d := dyAdd m e (-(signedOf (slice rec 0 32) 32)) 0
            if 0 < d.1 then (Config.freeNat d.1.natAbs % 2 ^ fmtBits fmtP, .none, 0)
            else
              let w := exp2Neg d.1 d.2
              let r := rnd ((Val.num w.1 w.2.1).div (wordVal (signedOf (slice rec 112 144) 144) anchorL)) fmtP true
              (r.1, ⟨false, w.2.2, false, r.2⟩, nat1 w.2.2)
        | .inf true => (0, .none, 0)
        | _ => (canonicalNan fmtP, ⟨false, false, true, false⟩, 0)

/-- A kgroup sum over the dimensions, converted to FP32 (dP and D of R160). -/
def dotFp32 (a b : List Nat) (sb : List Nat) (fa fb : Nat) (A : Int) (policy : Nat) : Nat × AccFlags :=
  let cs := ((groups32 (a.zip b)).zip sb).map fun g => kgroup g.1 fa fb 127 g.2 A policy
  let w := cs.foldl (fun x c => poolAdd x c.1) 0
  let r := rnd (wordVal w A) 0xB false
  (r.1, cs.foldl (fun x c => x.or c.2) ⟨false, false, false, r.2⟩)

/-- dS = rnd(P x (dP - D) x gamma) (R160). -/
def backDs (p dp dd : Nat) (fmtP fmtDs gamma : Nat) : Nat × Bool :=
  rnd (((valOf fmtP p).mul ((valOf 0xB dp).add (valOf 0xB dd).neg)).mul (valOf 0xB gamma)) fmtDs true

end Sys2Proof.Machine
end

