-- ==== Sys2Proof/Machine/Lanes.lean ====
section
/-! DEFINITION. The lanes of a runnel on the basin's memories (R107 to R123): what a list reads for one row, the rows it
computes, and the bytes and words it writes. -/
namespace Sys2Proof.Machine

/-- A chain as it stands in the cistern (R108: held from acceptance on). -/
def State.readChain (s : State) (b addr : Nat) : Nat := s.cNat b addr 256

/-- The values of side input `k` that row `row` of `cols` columns sees (R111). -/
def State.sideRow (s : State) (b c k row cols : Nat) : SideRow :=
  let d := Ch.side c k
  let a := Si.addr d
  if Si.valid d = 0 then ⟨[], 0, 0⟩ else
  match Si.shape d with
  | 0 => ⟨List.replicate cols (s.cElem b a (Si.fmt d) row), 0, 0⟩
  | 1 => ⟨s.cElems b a (Si.fmt d) cols, 0, 0⟩
  | 2 => ⟨s.cElems b (a + row * Si.rowStride d) (Si.fmt d) cols, 0, 0⟩
  | _ => ⟨[], s.pWord b (a + 2 * row), s.pWord b (a + 2 * row + 1)⟩

/-- What a list reads of its side inputs for one row. -/
def sideReads (c row cols : Nat) (l : List Nat) : List Need :=
  l.filterMap fun g =>
    if Sg.src g = 1 ∨ Sg.src g = 2 then
      let d := Ch.side c (Sg.src g - 1)
      let w := fmtBits (Si.fmt d) / 8
      match Si.shape d with
      | 0 => some ⟨.cistern, Si.addr d + row * w, w⟩
      | 1 => some ⟨.cistern, Si.addr d, cols * w⟩
      | 2 => some ⟨.cistern, Si.addr d + row * Si.rowStride d, cols * w⟩
      | _ => some ⟨.pool, Si.addr d + 2 * row, 2⟩
    else none

/-- The statistic words that a list adds to for row `row`, which pool_add reads (R117). -/
def statReads (row : Nat) (l : List Nat) : List Need :=
  l.filterMap fun g => if Sg.op g = 4 then some ⟨.pool, Sys2Proof.slice (Sg.imm1 g) 0 18 + 2 * row, 2⟩ else none

/-- Does one of these reads meet a double-bit error (R97)? -/
def State.poisoned (s : State) (b : Nat) (ns : List Need) : Bool :=
  ns.any fun n => match n.sp with
    | .cistern => s.badC b n.lo n.len
    | .pool => s.badP b n.lo n.len
    | .dev => false

/-- Values that stand for what a poisoned read brought. -/
def freeRow (tag cols bits : Nat) : List Int := (List.range cols).map fun i => ((Config.freeNat (tag + i) % 2 ^ bits : Nat) : Int)

/-- A row on its way through a lane: its number, its values in their format, and whether a read of it was poisoned. -/
structure LaneRow where
  row : Nat
  code : Nat
  xs : List Int
  bad : Bool
  deriving DecidableEq, Repr

/-- A row after its list. -/
structure LaneOut where
  row : Nat
  val : RowVal
  bad : Bool
  deriving DecidableEq, Repr

/-- Run list `l` of chain `c` on one row; `statRow` numbers its statistic words, `at_` its tensor row and column. -/
def State.laneRow (s : State) (b c : Nat) (A : Int) (l : List Nat) (tRow tCol : Nat) (x : LaneRow) : LaneOut :=
  let cols := x.xs.length
  let bad := x.bad || s.poisoned b (sideReads c x.row cols l ++ statReads x.row l)
  let xs := if bad then freeRow s.freeCtr cols (fmtBits x.code) else x.xs
  let ctx : RowCtx := ⟨c, A, tRow, tCol, x.row, s.sideRow b c 0 x.row cols, s.sideRow b c 1 x.row cols⟩
  ⟨x.row, runList ctx l (.start x.code xs), bad⟩

/-- An epilogue or pass: every row through the list. -/
def State.laneRows (s : State) (b c : Nat) (A : Int) (l : List Nat) (xs : List LaneRow) : List LaneOut :=
  xs.map fun x => s.laneRow b c A l (Ch.rowOffset c + x.row) (Ch.colOffset c) x

/-- Bytes that hold `n` packed elements of format `code`. -/
def packLen (code n : Nat) : Nat := (n * fmtBits code + 7) / 8

/-- Packed elements over old bytes, whose other bits stay (R46, R101). -/
def packInto (old : List Byte) (code : Nat) (xs : List Nat) : List Byte :=
  let w := fmtBits code
  let n := xs.length
  let low := xs.foldr (fun x a => x % 2 ^ w + a * 2 ^ w) 0
  leBytes (packLen code n) (low + leNat old / 2 ^ (n * w) * 2 ^ (n * w))

/-- The encodings of a finished row: pool words as 144 bits. -/
def RowVal.encs (r : RowVal) : List Nat := if r.code = 0xC then r.xs.map fun x => unsignedOf x 144 else r.xs.map Int.toNat

/-- Canonical bytes of one element (R226). -/
def elemBytes (code x : Nat) : List Byte := leBytes (max 1 (fmtBits code / 8)) x

/-- The writes of one finished row, and its bytes in canonical order. A row with a poisoned read leaves its outputs and
statistic words unspecified (R97). A RAW144 output goes to the cistern as R121 and Table 5-1 say, although Table 4-3 lists it under
the pool (DESIGN CHOICE, log entry 19). -/
def State.rowWrites (s : State) (b c : Nat) (o : LaneOut) : List PWrite × List Byte :=
  let r := o.val
  let n := r.xs.length
  let a := Ch.outAddr c + o.row * Ch.outRowStride c
  let sa := Ch.outScaleAddr c + o.row * Ch.outScaleStride c
  let len := packLen r.code n
  let canon := r.encs.flatMap (elemBytes r.code) ++ r.scales.map fun x => BitVec.ofNat 8 x
  if o.bad then
    ([.cistFree a len] ++ (if r.scales.isEmpty then [] else [.cistFree sa r.scales.length]) ++
      r.stats.map (fun t => .poolFree t.1), canon.zipIdx.map fun t => Config.freeByte s.freeCtr t.2)
  else
    (r.stats.map (fun t => .poolAdd t.1 t.2) ++ [.cist a (packInto (s.cRead b a len) r.code r.encs)] ++
      (if r.scales.isEmpty then [] else [.cist sa (r.scales.map fun x => BitVec.ofNat 8 x)]), canon)

/-- Count what lists have done in RUNNEL_DROPPED and RUNNEL_OVF. -/
def State.laneCounts (s : State) (b : Nat) (os : List LaneOut) : State :=
  let d := (os.map (·.val.dropped)).foldl (· + ·) 0
  let o := (os.map (·.val.ovf)).foldl (· + ·) 0
  (s.bump Fld.runnelDroppedDropped b d).bumpSat Fld.runnelOvfOvfCount b o

/-- Flags and status codes of lane rows (R81, R114, R117). -/
def laneFlags (os : List LaneOut) : AccFlags := os.foldl (fun a o => a.or o.val.flags) .none
def laneCodes (os : List LaneOut) : List Nat :=
  (if os.any (·.bad) then [stMemPoison] else []) ++ (if os.any (·.val.statOverflow) then [stAnchorOverflow] else [])

/-- What a list computes over its rows: writes, output bytes, flags, status codes. -/
structure EpiRes where
  writes : List PWrite
  outs : List Byte
  flags : AccFlags
  codes : List Nat
  deriving DecidableEq, Repr

/-- The list of an epilogue or a pass runs on basin `b`. -/
def State.runList (s : State) (b c : Nat) (A : Int) (xs : List LaneRow) : State × EpiRes :=
  let l := Ch.epi c
  let s := s.each xs fun s x => s.eccReads b (sideReads c x.row x.xs.length l ++ statReads x.row l)
  let os := s.laneRows b c A l xs
  let ws := os.map (s.rowWrites b c)
  let s := { s with freeCtr := s.freeCtr + 4096 }
  let s := (s.laneCounts b os).bump Fld.runnelRowsEpiRows b os.length
  (s, ⟨ws.flatMap (·.1), ws.flatMap (·.2), laneFlags os, laneCodes os⟩)

/-- The epilogue of a tile or the list of a pass is computed: its writes and outputs join command `id`. -/
def State.runEpilogue (s : State) (b id c : Nat) (A : Int) (xs : List LaneRow) : State :=
  let reads := xs.flatMap fun x => sideReads c x.row x.xs.length (Ch.epi c)
  let (s, r) := (s.raceReads b id (reads.filterMap (Need.span id))).runList b c A xs
  s.modCmd id fun k => { k with
    writes := k.writes ++ r.writes, outs := k.outs ++ r.outs, flags := k.flags.or r.flags, outcomes := k.outcomes ++ r.codes }

/-- The checks of a chain after those of its descriptor (R122, steps 2 to 4): the status, and the chain. -/
def State.chainCheckIn (s : State) (bd : Bounds) (b addr : Nat) (u : ChainUse) (needs : Nat → List Need) : Nat × Nat :=
  if addr = 0 then (if (needs 0).all (Need.within bd) then stOk else stAddrFault, 0)
  else if !Need.within bd ⟨.cistern, addr, 256⟩ then (stAddrFault, 0)
  else if s.badC b addr 256 then (stMemPoison, 0)
  else
    let c := s.readChain b addr
    if !Ch.valid c addr u then (stDescInvalid, c)
    else if (needs c).all (Need.within bd) then (stOk, c) else (stAddrFault, c)

/-- The same for a command of slice `sl`. -/
def State.chainCheck (s : State) (sl b addr : Nat) (u : ChainUse) (needs : Nat → List Need) : Nat × Nat :=
  s.chainCheckIn (s.bounds sl b) b addr u needs

end Sys2Proof.Machine
end

