-- ==== Sys2Proof/Machine/Resolve.lean ====
section
/-! DEFINITION. Variants and slots (R137 to R139). -/
namespace Sys2Proof.Machine

def variantEntry (s : State) (v : Nat) : Nat := Tbl.get 0 s.variants v

/-- A slot entry of a variant entry, read from HBM. -/
def State.slotEntry (s : State) (e i : Nat) : Nat := s.devNat (Ve.slotMapAddr e + 32 * i) 32

/-- A variant entry that slice `sl` may read slot `i` of. -/
def variantOpen (e i sl : Nat) : Bool := Ve.valid e == 1 && bitAt (Ve.readerMask e) sl && decide (i < Ve.slotCount e)

/-- resolve (R138): the slot entry, and the slice whose ranges and key hold the weights. -/
def State.resolve (s : State) (v i sl : Nat) : Option (Nat × Nat) :=
  let e := variantEntry s v
  if !variantOpen e i sl then none else
  let d := s.slotEntry e i
  if Se.valid d == 1 && Se.inherit d == 0 then some (d, Ve.keySlice e)
  else if Se.inherit d == 0 || Ve.hasBase e == 0 then none
  else
    let b := variantEntry s (Ve.baseVariant e)
    if Ve.hasBase b == 1 || !variantOpen b i sl then none else
    let d := s.slotEntry b i
    if Se.valid d == 1 && Se.inherit d == 0 then some (d, Ve.keySlice b) else none

/-- Addresses of the slot entries that a resolution reads (R139). -/
def State.resolveReads (s : State) (v i sl : Nat) : List Nat :=
  let e := variantEntry s v
  if !variantOpen e i sl then [] else
  let d := s.slotEntry e i
  let a := Ve.slotMapAddr e + 32 * i
  let b := variantEntry s (Ve.baseVariant e)
  if Se.inherit d == 1 && Ve.hasBase e == 1 && Ve.hasBase b == 0 && variantOpen b i sl then [a, Ve.slotMapAddr b + 32 * i] else [a]

end Sys2Proof.Machine
end

