-- ==== Sys2Proof/Machine/Sluice.lean ====
section
/-! DEFINITION. The sluice (chapter 10): doorbells, packets, dispatch, waits, counters, semaphores, COPY and FILL, rings. -/
namespace Sys2Proof.Machine

/-! ### Choosing commands -/

/-- The first command of ring `r` with this opcode that has been dispatched and has not acted. -/
def State.firstH (s : State) (r op : Nat) : Option Cmd := s.cmds.find? fun c => c.ring == r && c.opcode == op && c.phase == .issued

/-- The first command of ring `r` with this opcode that runs. -/
def State.runningH (s : State) (r op : Nat) : Option Cmd := s.cmds.find? fun c => c.ring == r && c.opcode == op && c.phase == .running

/-- The oldest unchecked entry of basin `b`'s issue queue, when its opcode is `op` (R213: checked in order). -/
def State.firstIssue (s : State) (b op : Nat) : Option Cmd :=
  match s.cmds.find? fun c => c.target == b && c.phase == .issued with
  | some c => if c.opcode = op then some c else none
  | none => none

/-- Entries of basin `b`'s issue queue: not yet started (R203). -/
def State.issueDepth (s : State) (b : Nat) : Nat := (s.cmds.filter fun c => c.target == b && !c.begun && c.phase != .saved).length

/-- Is basin `b` one of slice `sl`'s? Of slice 0 are also the basins it holds or shares by gate list (R23). -/
def State.ofSlice (s : State) (sl b : Nat) : Bool :=
  s.assigned sl b || (sl == 0 && (s.reserved b || s.gateListed b))

/-! ### Doorbells (R207, R233, R386) -/

/-- The bound slice whose PASID this is. -/
def State.pasidSlice (s : State) (p : Nat) : Option Nat :=
  (List.range 128).find? fun t => s.on Fld.sliceCtrlEnable t && s.on Fld.slicePasidPasidValid t && s.rd Fld.slicePasidPasid t == p

/-- A doorbell value reaches ring `r`: above the ring, or with the ring not enabled, it is discarded. -/
def State.ringBell (s : State) (r v : Nat) : State :=
  if v % 2 ^ 32 < 2 ^ s.rd Fld.sqSizeLog2Slots r && s.on Fld.ringCtrlEnable r then s.wr Fld.sqTailTail r v
  else s.info (unitHub 0)

/-- A doorbell write to page `page` at offset `off`. -/
def State.doorbell (s : State) (page off : Nat) (pasid : Option Nat) (v : Nat) : State :=
  if page = 128 then
    if off % 0x100 = 0 ∧ off / 0x100 < 4 then s.ringBell (1024 + off / 0x100) v else s
  else
    let silent := s.inferFenced && 1 ≤ page
    match pasid.bind s.pasidSlice with
    | none => if silent then s else s.info (unitHub 0)
    | some t =>
      if t ≠ page then s.violation t 0 0 page
      else if silent || !s.sliceActive page then s
      else if off % 0x100 = 0 ∧ off / 0x100 < 8 then s.ringBell (8 * page + off / 0x100) v
      else s.info (unitHub 0)

def execDoorbell (dt page off : Nat) (pasid : Option Nat) (v : Nat) (s : State) : Host.Outcome State Fault Refusal :=
  enter (.doorbell dt page off pasid v) dt s fun s => s.doorbell page off pasid v

/-! ### The catalogue (Table 10-3) -/

/-- Opcode known, and its parameter blocks allowed. -/
def opcodeOk (op n op2 : Nat) : Bool :=
  match op with
  | 0x00 => true
  | 0x08 | 0x09 | 0x12 => n == 2
  | 0x0A => if op2 = 2 then n == 4 else n == 2
  | 0x18 => n == 3
  | 0x20 => n == 4
  | 0x01 | 0x02 | 0x03 | 0x04 | 0x0B | 0x0C | 0x10 | 0x11 | 0x13 | 0x21 | 0x22 | 0x23 | 0x24 | 0x25 | 0x26 | 0x27
  | 0x28 | 0x29 | 0x2A | 0x2B | 0x2C | 0x2D | 0x2E | 0x30 | 0x31 | 0x32 | 0x38 => n == 1
  | _ => false

/-- The opcode is executed in a basin. -/
def basinOp (op : Nat) : Bool := 8 ≤ op && op ≤ 0xC
/-- A tile opcode: its reply carries the descriptor's tag (R210, R223). -/
def tileOp (op : Nat) : Bool := 8 ≤ op && op ≤ 0xB

/-- The Rings column: S any slice, S0, T slices 1 to 127, M management (R218). -/
def ringAllows (op sl : Nat) : Bool :=
  match op with
  | 0x00 | 0x01 | 0x02 | 0x10 | 0x11 => true
  | 0x03 | 0x04 | 0x12 | 0x13 => sl < 128
  | 0x18 | 0x25 | 0x26 | 0x31 | 0x38 => sl == 128
  | 0x30 | 0x32 => sl == 0
  | _ => 1 ≤ sl && sl < 128

/-- The op field of a cascade descriptor in the parameters. -/
def cascadeOp (op params : Nat) : Nat := if op = 0x0A then Cd.op params else 0

/-- A packet header is well formed (R209, R210). -/
def headerOk (h params : Nat) : Bool :=
  let op := Sys2Proof.slice h 0 8
  opcodeOk op (Sys2Proof.slice h 8 3) (cascadeOp op params) && !bitAt h 11 && !bitAt h 15 && Sys2Proof.slice h 24 8 == 0 &&
    h / 2 ^ 64 % 2 ^ 192 == 0 && (!tileOp op || Sys2Proof.slice h 32 32 == 0)

/-- The tag of the reply (R223). -/
def tagOf (h params : Nat) : Nat :=
  match Sys2Proof.slice h 0 8 with
  | 0x08 => Jd.tileTag params
  | 0x09 => Rd.tileTag params
  | 0x0A => Cd.tileTag params
  | 0x0B => Rp.tileTag params
  | _ => Sys2Proof.slice h 32 32

/-- The length of a packet for scheduling (Table 12-1). It is 64 where a failed check leaves the length's formula without a
value (R251): another descriptor version, a format or a pair of formats that no table gives, op 3, a slot that does not resolve.
DEDUCED (log 21): a descriptor that fails another check has the length its formula gives, and one longer than 2,432 counts as
2,432. -/
def State.packetLength (s : State) (sl op params : Nat) : Nat :=
  match op with
  | 0x08 => if Jd.descVersion params == 1 && pairOk (Jd.fmtA params) (Jd.fmtB params) then min 2432 (Jd.bound params) else 64
  | 0x09 =>
    if Rd.descVersion params == 1 && fmtOperand (Rd.fmtA params) then
      match s.resolve (Rd.variant params) (Rd.slot params) sl with
      | some (e, _) => if pairOk (Rd.fmtA params) (Se.fmtW e) then min 2432 (Rd.bound params (Se.fmtW e)) else 64
      | none => 64
    else 64
  | 0x0A =>
    if Cd.descVersion params == 1 && Cd.op params != 3 && [0, 1, 9, 0xA].contains (Cd.fmtQ params) &&
        [0, 1, 2, 3, 6, 9, 0xA].contains (Cd.fmtKv params) then min 2432 (Cd.bound params)
    else 64
  | 0x0B => if Rp.descVersion params == 1 then min 2432 (Rp.bound params) else 64
  | 0x0C => 2432
  | _ => 64

/-! ### Markers and stamps (R250 to R256) -/

/-- mark (R255): 0 red, 1 yellow, 2 green, and the buckets afterwards. -/
def State.mark (s : State) (sl B : Nat) (yellow : Bool) : Nat × State :=
  let x := s.sliceSt sl
  let bc := min B x.cbs
  let bp := min B x.pbs
  let tc := s.rd Fld.schedTcTc sl
  let tp := s.rd Fld.schedTpTp sl
  if tp < bp then (0, s)
  else if (s.on Fld.schedMarkColourAware sl && yellow) || tc < bc then (1, s.wr Fld.schedTpTp sl (tp - bp))
  else (2, (s.wr Fld.schedTpTp sl (tp - bp)).wr Fld.schedTcTc sl (tc - bc))

/-- The greater of two stamps, by the sign of their difference modulo 2^64 (R252). -/
def stampMax (a b : Nat) : Nat := if (a + 2 ^ 64 - b) % 2 ^ 64 < 2 ^ 63 then a else b
def stampLt (a b : Nat) : Bool := a != b && 2 ^ 63 ≤ (a + 2 ^ 64 - b) % 2 ^ 64

def State.ringTier (s : State) (r : Nat) : Nat := s.rd Fld.ringCtrlTier r

/-- stamp (R252). -/
def State.stampPacket (s : State) (sl k B : Nat) : Nat × State :=
  let x := s.sliceSt sl
  let fl := if x.flast.isEmpty then List.replicate 8 0 else x.flast
  let F := (stampMax (s.reg .schedV k) (fl.getD k 0) + (B * 65536 + s.rd Fld.schedShareWeight sl - 1) / s.rd Fld.schedShareWeight sl) % 2 ^ 64
  (F, s.setSliceSt sl { x with flast := setAt fl k F })

/-- A packet of ring `r` passes the marker, or stays red before it (R255, R256). -/
def State.passMarker (s : State) (r : Nat) (p : Packet) : Packet × State :=
  let sl := ringSlice r
  if sl = 0 ∨ sl = 128 then ({ p with marked := true, green := true }, s) else
  let (colour, s) := if s.on Fld.schedMarkEnable sl then s.mark sl p.cost (bitAt (s.rd Fld.schedMarkRingYellow sl) (r % 8)) else (2, s)
  if colour = 0 then ({ p with red := true }, if p.red then s else s.bump Fld.schedRedRed sl)
  else
    let s := if colour = 2 then s.bump Fld.schedGreenGreen sl else s.bump Fld.schedYellowYellow sl
    let (F, s) := s.stampPacket sl (s.ringTier r) p.cost
    ({ p with marked := true, green := colour == 2, stamp := F }, s)

/-! ### Reading packets (R207, R210, R212, R250) -/

/-- The ring may be read: enabled, not halted, its slice active, not in the safe state. -/
def State.ringServed (s : State) (r : Nat) : Bool :=
  s.on Fld.ringCtrlEnable r && !s.on Fld.ringStatusHalted r && s.sliceActive (ringSlice r) && !s.safe &&
    !(s.inferFenced && 1 ≤ ringSlice r && ringSlice r < 128)

/-- Slots of the submission ring. -/
def State.sqSlots (s : State) (r : Nat) : Nat := 2 ^ s.rd Fld.sqSizeLog2Slots r

/-- `n` bytes of the ring from slot `slot`. -/
def State.ringNat (s : State) (r slot n : Nat) : Nat :=
  leNat (s.hostRead (s.hostSpace (ringSlice r)) (s.reg .sqBase r + 32 * slot) n)

/-- Slots from the read pointer to the tail. -/
def State.covered (s : State) (r : Nat) : Nat := (s.rd Fld.sqTailTail r + s.sqSlots r - (s.ring r).readPtr) % s.sqSlots r

/-- The ring waits at a WAIT or FENCE that has not completed. -/
def State.ringBlocked (s : State) (r : Nat) : Bool := s.cmds.any fun c => c.ring == r && (c.opcode == 1 || c.opcode == 2)

/-- The undispatched failing packet of `n` slots at SQ_HEAD is skipped (R211). -/
def State.skipFailed (s : State) (r n : Nat) : State :=
  let h := s.rd Fld.sqHeadHead r
  let h' := if s.sqSlots r ≤ h + n then 0 else h + n
  (s.wr Fld.sqHeadHead r h').setRing r { s.ring r with failedLen := none, readPtr := h', stampQ := [] }

/-- A packet that runs past the ring's end, at its turn to be dispatched: a reply with the header's tag, and the ring halts (R210,
R212). -/
def State.pastEnd (s : State) (r h len : Nat) : State :=
  let x := s.ring r
  if !x.stampQ.isEmpty || s.ringBlocked r || 64 ≤ x.held.length || s.launchHeld r || (bitAt h 12 && s.cmds.any (·.ring == r)) then s else
  let c : Cmd := ⟨0, r, ringSlice r, Sys2Proof.slice h 0 8, 255, Sys2Proof.slice h 32 32, false, false, 0, .issued,
    if r < 1024 then s.stepNow (ringSlice r) else 0, if r < 1024 then s.reg .detNondet (ringSlice r) else 0,
    true, s.now, none, 0, 0, [], .none, [], 0, 0, 0, 0, 0, [], [], 0, none, 0, none⟩
  (((s.setRing r { x with failedLen := some len }).replyCmd c stDescInvalid)).haltRing r stDescInvalid

/-- The sluice reads the next packet of ring `r`: it passes the marker and joins the stamp queue. After a resume whose packet's header
was never read, it reads that header and skips the packet (R211). -/
def State.packetRead (s : State) (r : Nat) : State :=
  let x := s.ring r
  let blocked := x.stampQ.any fun p => !p.marked
  if !s.ringServed r || 32 ≤ x.stampQ.length || blocked || s.covered r == 0 then s else
  let h := s.ringNat r x.readPtr 32
  let len := 1 + Sys2Proof.slice h 8 3
  if x.failedLen.isSome then s.skipFailed r len
  else if s.sqSlots r < x.readPtr + len then s.pastEnd r h len
  else if s.covered r < len then s
  else
    let params := s.ringNat r (x.readPtr + 1) (32 * (len - 1))
    let sl := ringSlice r
    let cost := if sl = 0 ∨ sl = 128 then 0 else s.packetLength sl (Sys2Proof.slice h 0 8) params + s.rd Fld.schedCtrlOverhead
    let p : Packet := ⟨h, params, x.readPtr, len, cost, 0, false, false, false⟩
    let (p, s) := s.passMarker r p
    s.setRing r { x with stampQ := x.stampQ ++ [p], readPtr := (x.readPtr + len) % s.sqSlots r }

/-- The host stores bytes. -/
def State.hostStores (s : State) (ws : List HostWrite) : State := s.each ws fun s w => s.hostWrite w.space w.addr w.data

def execPacketRead (dt r : Nat) (host : List HostWrite) (s : State) : Host.Outcome State Fault Refusal :=
  enter (.packetRead dt r host) dt s fun s => (s.hostStores host).packetRead r

/-! ### Dispatch (R212, R219, R253, R257) -/

/-- The basins whose cistern, pool or semaphores the head packet names (R257). -/
def namedBasins (op params : Nat) : List Nat :=
  match op with
  | 0x10 => (if slice params 0 4 < 2 then [slice params 8 6] else []) ++ (if slice params 4 4 < 2 then [slice params 16 6] else [])
  | 0x11 => if slice params 0 4 < 2 then [slice params 8 6] else []
  | 0x02 => if slice params 0 4 = 1 ∧ slice params 16 16 < 2048 then [slice params 16 16 / 32] else []
  | 0x04 => if slice params 0 16 < 2048 then [slice params 0 16 / 32] else []
  | _ => []

/-- The basins a head packet needs its slice to own: its target, or those it names. -/
def State.claims (s : State) (sl : Nat) (p : Packet) : List Nat :=
  let op := Sys2Proof.slice p.header 0 8
  let t := Sys2Proof.slice p.header 16 8
  (if basinOp op then (if t < 64 then [t] else []) else namedBasins op p.params).filter (s.assigned sl)

/-- The head packet of ring `r`, when it may be dispatched apart from whose basin it needs. -/
def State.readyHead (s : State) (r : Nat) : Option Packet :=
  match (s.ring r).stampQ with
  | [] => none
  | p :: _ =>
    let t := Sys2Proof.slice p.header 16 8
    if s.ringServed r && p.marked && !s.ringBlocked r && !s.launchHeld r && (s.ring r).held.length < 64 &&
        (!bitAt p.header 12 || s.cmds.all (·.ring != r)) &&
        (!(basinOp (Sys2Proof.slice p.header 0 8) && t < 64) || s.issueDepth t < 16)
    then some p else none

/-- Slice `sl` holds basin `b` as its tenant, or the basin is fenced and is handed to nobody (log entry 26). A basin that is being
handed over, its queue saved, is nobody's until the switch is over (R260, R262). -/
def State.holdsBasin (s : State) (sl b : Nat) : Bool :=
  s.fencedBasin b || ((s.basin b).tenant == sl && match (s.basin b).switch with | some w => decide (w.stage < 3) | none => true)

/-- The head packet of ring `r`, when it is dispatchable: its slice is the tenant of every basin it claims. -/
def State.dispatchable (s : State) (r : Nat) : Option Packet :=
  match s.readyHead r with
  | some p => if ringSlice r = 0 || (s.claims (ringSlice r) p).all (s.holdsBasin (ringSlice r)) then some p else none
  | none => none

/-- The effective tier of a ring (R266). -/
def State.effTier (s : State) (r : Nat) : Nat := Sys2Proof.slice (s.reg .schedEffTier (r / 8)) (3 * (r % 8)) 3

/-- Ranks 3 to 6 of Table 12-2 between two tenant heads. -/
def headBefore (t1 : Nat) (p1 : Packet) (r1 : Nat) (t2 : Nat) (p2 : Packet) (r2 : Nat) : Bool :=
  if t1 ≠ t2 then t1 < t2 else if p1.green ≠ p2.green then p1.green
  else if p1.stamp ≠ p2.stamp then stampLt p1.stamp p2.stamp else r1 < r2

/-- Round-robin distance of ring number `i` after `last` among `n`. -/
def rrDist (i last n : Nat) : Nat := (i + n - 1 - last) % n

/-- The ring to dispatch from (Table 12-2). -/
def State.chooseRing (s : State) : Option (Nat × Packet) :=
  let heads := (s.rings.map (·.1)).filterMap fun r => (s.dispatchable r).map fun p => (r, p)
  let least (l : List (Nat × Packet)) (before : Nat × Packet → Nat × Packet → Bool) : Option (Nat × Packet) :=
    l.foldl (fun best x => match best with | none => some x | some y => if before x y then some x else some y) none
  let h0 := heads.filter (·.1 < 8)
  let hM := heads.filter fun x => 1024 ≤ x.1
  let hT := heads.filter fun x => 8 ≤ x.1 && x.1 < 1024
  if !h0.isEmpty then least h0 fun x y => rrDist x.1 s.sluice.lastS0 8 < rrDist y.1 s.sluice.lastS0 8
  else if !hM.isEmpty then least hM fun x y => rrDist (x.1 - 1024) s.sluice.lastM 4 < rrDist (y.1 - 1024) s.sluice.lastM 4
  else least hT fun x y => headBefore (s.effTier x.1) x.2 x.1 (s.effTier y.1) y.2 y.1

/-- The command of a packet of ring `r`; a header that fails its check keeps the header's tag (R210). -/
def State.packetCmd (s : State) (r : Nat) (p : Packet) : Cmd :=
  let h := p.header
  let a := s.reg .sqBase r + 32 * p.slot
  let tag := if headerOk h p.params then tagOf h p.params else Sys2Proof.slice h 32 32
  ⟨s.nextCmd, r, ringSlice r, Sys2Proof.slice h 0 8, Sys2Proof.slice h 16 8, tag, bitAt h 13, bitAt h 14, p.params,
    .issued, 0, 0, false, s.now, none, 0, 0, [], .none, [], 0, 0, 0, 0,
    flitBytes a (32 * p.len), [], [], 0, none, 0, none⟩

/-- The packets of ring `r` that the sluice has not read, from slot `ptr` over `left` slots, as far as they are whole. -/
def State.unread : Nat → State → Nat → Nat → Nat → List Packet
  | 0, _, _, _, _ => []
  | n + 1, s, r, ptr, left =>
    let h := s.ringNat r ptr 32
    let len := 1 + Sys2Proof.slice h 8 3
    if left < len || s.sqSlots r < ptr + len then [] else
    ⟨h, s.ringNat r (ptr + 1) (32 * (len - 1)), ptr, len, 0, 0, false, false, false⟩ ::
      State.unread n s r ((ptr + len) % s.sqSlots r) (left - len)

/-- The packet at SQ_HEAD has had its reply, or its refusal, and waits for a resume: it is passed over (R211). -/
def State.passFailed (s : State) (r : Nat) : State :=
  match (s.ring r).failedLen with
  | none => s
  | some n => s.skipFailed r (if n = 0 then 1 + Sys2Proof.slice (s.ringNat r (s.rd Fld.sqHeadHead r) 32) 8 3 else n)

/-- Every packet of ring `r` that has not been dispatched, read or unread, is discarded with a reply of `code` (R386, R387; DESIGN
CHOICE, log entry 51: also those the sluice has not read, as far as SQ_TAIL covers them whole). -/
def State.discardQueued (s : State) (r code : Nat) : State :=
  if !s.on Fld.ringCtrlEnable r || s.rd Fld.sqHeadHead r == s.rd Fld.sqTailTail r then s else
  let s := s.passFailed r
  let x := s.ring r
  let ps := x.stampQ ++ (if s.boot.pcieUp then s.unread (s.covered r) r x.readPtr (s.covered r) else [])
  s.each ps fun s p =>
    let c := s.asBegun (s.packetCmd r p)
    let head := (p.slot + p.len) % s.sqSlots r
    let s := (s.setRing r { s.ring r with stampQ := [], readPtr := head }).wr Fld.sqHeadHead r head
    if s.replies c then s.replyCmd c (s.frozenCode c code) else s

/-- The checks of dispatch, in order: header, ring, target, assignment (R210, R218, R219). -/
def State.dispatchCheck (s : State) (c : Cmd) (h : Nat) : Nat :=
  if !headerOk h c.params then stOpcodeInvalid
  else if !ringAllows c.opcode c.slice then stNotPermitted
  else if basinOp c.opcode then
    if 64 ≤ c.target then stDescInvalid else if s.assigned c.slice c.target then stOk else stBasinNotOwned
  else if c.target = 255 then stOk else stDescInvalid

/-- Dispatch the head packet of ring `r`. -/
def State.dispatch (s : State) (r : Nat) (p : Packet) : State :=
  let x := s.ring r
  let s := s.setRing r { x with stampQ := x.stampQ.drop 1 }
  let s := (s.wr Fld.sqHeadHead r ((p.slot + p.len) % s.sqSlots r)).bump Fld.packetsPackets 0
  let s := if 8 ≤ r ∧ r < 1024 then s.setReg .schedV (s.ringTier r) p.stamp else s
  let s := if r < 8 then { s with sluice := { s.sluice with lastS0 := r } }
    else if 1024 ≤ r then { s with sluice := { s.sluice with lastM := r - 1024 } } else s
  let c := s.packetCmd r p
  let s := { s with cmds := s.cmds ++ [c], nextCmd := s.nextCmd + 1 }
  let st := s.dispatchCheck c p.header
  if st = stOk then (if c.opcode = 1 ∨ c.opcode = 2 then s.wr Fld.ringStatusWaiting r 1 else s) else s.finishNow c st

/-- Queue a wake of basin `b`, unless one is queued or in progress or the basin is awake and not being gated (R407). -/
def State.queueWake (s : State) (b : Nat) : State :=
  if (s.gated b || (s.basin b).gateReq) && (s.basin b).wakeStage == 0 then
    (({ s with pwr := { s.pwr with wakeQ := s.pwr.wakeQ ++ [b] } }).setBasin b { s.basin b with wakeStage := 1 }).setRegBit .basinWaking 0 b true
  else s

/-- With auto_wake, head packets of assigned slices wake the gated basins they target (R407). -/
def State.autoWake (s : State) : State :=
  if !s.on Fld.pwrCtrlAutoWake then s else
  let queued (c : Cmd) : Bool := basinOp c.opcode && c.target < 64 && !c.begun && c.phase == .issued && s.assigned c.slice c.target
  let s := s.each ((s.cmds.filter queued).map (·.target)) fun s b => if s.gated b then s.queueWake b else s
  s.each (s.rings.map (·.1)) fun s r =>
    match s.readyHead r with
    | some p => if basinOp (Sys2Proof.slice p.header 0 8) then s.each (s.claims (ringSlice r) p) fun s b => if s.gated b then s.queueWake b else s else s
    | none => s

/-- Dispatch is stopped on full completion rings (R208). -/
def State.noteStalls (s : State) : State :=
  s.each (s.rings.map (·.1)) fun s r => s.wr Fld.ringStatusCqStalled r (nat1 (decide (64 ≤ (s.ring r).held.length)))

def execPacketDispatch (dt : Nat) (s : State) : Host.Outcome State Fault Refusal :=
  enter (.packetDispatch dt) dt s fun s =>
    let s := s.autoWake
    (match s.chooseRing with
     | some (r, p) => s.dispatch r p
     | none => s).noteStalls

/-! ### NOP, FENCE, WAIT (R214 to R217) -/

/-- The first command of ring `r` with this opcode acts: it completes with what `k` answers. -/
def State.actH (s : State) (r op : Nat) (k : State → Cmd → State) : State := s.forSome (s.firstH r op) k

def execNop (dt r : Nat) (s : State) : Host.Outcome State Fault Refusal :=
  enter (.nop dt r) dt s fun s => s.actH r 0x00 fun s c => s.finishNow c stOk

/-- A command starts and goes on running. -/
def State.startRunning (s : State) (id : Nat) : State := (s.beginCmd id).modCmd id fun c => { c with phase := .running }

def execFence (dt r : Nat) (s : State) : Host.Outcome State Fault Refusal :=
  enter (.fence dt r) dt s fun s => s.actH r 0x01 fun s c => s.startRunning c.id

/-- What a FENCE waits for: earlier packets of its ring, or with slice_wide of every ring of its slice (R217). -/
def State.fenceHolds (s : State) (c : Cmd) : Bool :=
  (s.cmds.takeWhile (·.id != c.id)).all fun e => if bitAt c.params 0 then e.slice != c.slice || 1028 ≤ e.ring else e.ring != c.ring

/-- A WAIT or FENCE of ring `r` completes. -/
def State.endWait (s : State) (c : Cmd) (code : Nat) : State := (s.wr Fld.ringStatusWaiting c.ring 0).finish c code

def execFenceComplete (dt r : Nat) (s : State) : Host.Outcome State Fault Refusal :=
  enter (.fenceComplete dt r) dt s fun s =>
    s.forSome (s.runningH r 0x01) fun s c => s.whenever (s.fenceHolds c) fun s => s.endWait c stOk

/-- Semaphore `idx` (basin x 32 + number) may be named by the slice: the basin is its own, radio semaphores are slice 0's
alone, the others of a shared basin the tenant's (R201, R216). -/
def State.semOk (s : State) (sl idx : Nat) : Bool :=
  let b := idx / 32
  let parted := s.radioBanks b != 0 || s.radioUnits b != 0
  sl < 128 && b < 64 && s.ofSlice sl b &&
    (if s.reserved b then sl == 0 else if parted && 28 ≤ idx % 32 then sl == 0 else sl != 0)

/-- The semaphores of basin `b` hold slice `sl`'s values: slice 0's always; a tenant's while it is the basin's tenant and no
switch is in progress (R257, R260). -/
def State.semReach (s : State) (sl b : Nat) : Bool := sl == 0 || ((s.basin b).tenant == sl && (s.basin b).switch.isNone)

/-- The awaited value of a WAIT (R215, R216). -/
def State.waitValue (s : State) (c : Cmd) : Nat :=
  match c.par 0 4 with
  | 0 => s.reg .sliceCounter (c.slice * 64 + c.par 16 16)
  | 1 => s.reg .semValue (c.par 16 16)
  | 2 => s.reg .aqdArrival (c.par 16 16)
  | _ => s.now

/-- The context whose cores may name semaphore `i` of basin `b`. -/
def State.semCtx (s : State) (b i : Nat) : Nat :=
  if (s.radioBanks b != 0 || s.radioUnits b != 0) && !s.reserved b && 28 ≤ i then 64 + b else b

/-- The first waiter of semaphore `i` in context `q`, of the cores and of the WAITs that reach it (R202, R216). -/
def State.firstWaiter (s : State) (q i : Nat) : Option Nat :=
  ((s.basin q).waiters.find? fun w => w.1 == i && (w.2 < 2 ^ 20 || match s.cmd? (w.2 - 2 ^ 20) with
    | some c => s.semReach c.slice (q % 64)
    | none => false)).map (·.2)

/-- It is this WAIT's turn: without acquire it takes nothing from anyone; with it the earlier waiters of the semaphore come first. -/
def State.waitTurn (s : State) (c : Cmd) : Bool :=
  !c.acquires || match s.firstWaiter (s.semCtx (c.par 16 16 / 32) (c.par 16 16 % 32)) (c.par 16 16 % 32) with
    | some w => w == waitNo c.id
    | none => true

def State.waitHolds (s : State) (c : Cmd) : Bool :=
  c.par 64 64 ≤ s.waitValue c && (c.par 0 4 != 1 || s.semReach c.slice (c.par 16 16 / 32)) && s.waitTurn c

/-- A WAIT that is not met yet takes its place among the waiters of its semaphore. -/
def State.joinSem (s : State) (c : Cmd) : State :=
  if !c.acquires then s else
  let q := s.semCtx (c.par 16 16 / 32) (c.par 16 16 % 32)
  s.setBasin q { s.basin q with waiters := (s.basin q).waiters ++ [(c.par 16 16 % 32, waitNo c.id)] }

/-- The counter belongs to the slice (R355). -/
def State.counterOk (s : State) (sl i : Nat) : Bool :=
  i < 4096 && s.on Fld.aqdArrivalOwnerValid i && s.rd Fld.aqdArrivalOwnerSlice i == sl

/-- The check of a WAIT's parameters (R216). -/
def State.waitCheck (s : State) (c : Cmd) : Nat :=
  match c.par 0 4 with
  | 0 => if c.slice < 128 && c.par 16 16 < 64 then stOk else stAddrFault
  | 1 => if s.semOk c.slice (c.par 16 16) then stOk else stAddrFault
  | 2 => if s.counterOk c.slice (c.par 16 16) then stOk else stAddrFault
  | 3 => stOk
  | _ => stDescInvalid

/-- The WAIT finds its condition true: with acquire it subtracts in the same operation (R216). -/
def State.waitMet (s : State) (c : Cmd) : State :=
  let v := s.waitValue c
  let s := if c.par 0 4 = 1 ∧ bitAt c.params 4 then
      (s.setReg .semValue (c.par 16 16) (v - c.par 64 64)).wr Fld.semHolderHolder (c.par 16 16) 0 else s
  s.endWait { c with result := v } stOk

def execWait (dt r : Nat) (s : State) : Host.Outcome State Fault Refusal :=
  enter (.wait dt r) dt s fun s => s.actH r 0x02 fun s c =>
    let st := s.waitCheck c
    if st ≠ stOk then (s.wr Fld.ringStatusWaiting r 0).finishNow c st else
    let s := s.startRunning c.id
    s.forSome (s.runningH r 0x02) fun s c => if s.waitHolds c then s.waitMet c else s.joinSem c

/-- The stamp is at or after the end of the waiting window (R214, R215). -/
def State.waitOver (s : State) (c : Cmd) : Bool := c.par 0 4 != 3 && c.par 128 64 != 0 && c.start + c.par 128 64 ≤ s.now

def execWaitSatisfied (dt r : Nat) (s : State) : Host.Outcome State Fault Refusal :=
  enter (.waitSatisfied dt r) dt s fun s =>
    s.forSome (s.runningH r 0x02) fun s c => s.whenever (s.waitHolds c) fun s =>
      (if s.waitOver c then s.bump Fld.timeoutRacesRaces 0 else s).waitMet c

def execWaitTimeout (dt r : Nat) (s : State) : Host.Outcome State Fault Refusal :=
  enter (.waitTimeout dt r) dt s fun s =>
    s.forSome (s.runningH r 0x02) fun s c => s.whenever (s.waitOver c && !s.waitHolds c) fun s =>
      let (n, s) := s.free
      let v := if c.par 0 4 = 1 ∧ !s.semReach c.slice (c.par 16 16 / 32) then n % 2 ^ 32 else s.waitValue c
      (s.nondet c.slice 5).endWait { c with result := v } stTimeout

/-! ### Counters and semaphores (R220, R202) -/

def execCounterAdd (dt r : Nat) (s : State) : Host.Outcome State Fault Refusal :=
  enter (.counterAdd dt r) dt s fun s => s.actH r 0x03 fun s c =>
    let i := c.par 0 6
    let n := c.par 64 64
    let s := s.setReg .sliceCounter (c.slice * 64 + i) (s.reg .sliceCounter (c.slice * 64 + i) + n)
    let s := s.finishNow c stOk
    if s.on Fld.detCtrlLinkEn c.slice && s.rd Fld.detCtrlStepLink c.slice == i then s.stepAdvance c.slice n else s

def execSemSignal (dt r : Nat) (s : State) : Host.Outcome State Fault Refusal :=
  enter (.semSignal dt r) dt s fun s => s.actH r 0x04 fun s c =>
    let i := c.par 0 16
    if !s.semOk c.slice i then s.finishNow c stAddrFault else
    if !s.semReach c.slice (i / 32) then s else
    let (s, ovf) := s.semAdd (i / 32) (i % 32) (c.par 32 32)
    let s := s.modCmd c.id fun c => { c with result := nat1 ovf }
    s.finishNow c stOk

/-! ### COPY and FILL (R221) -/

/-- The check of one side: reserved space, whole pool words, assignment, ranges, fence. -/
def State.sideCheck (s : State) (sl : Nat) (x : Side) (n : Nat) : Nat :=
  match x.space with
  | 0 => if !s.ofSlice sl x.basin then stBasinNotOwned else if s.fencedBasin x.basin then stUnitFenced
      else if Need.within (s.bounds sl x.basin) ⟨.cistern, x.addr, n⟩ then stOk else stAddrFault
  | 1 => if !s.ofSlice sl x.basin then stBasinNotOwned else if s.fencedBasin x.basin then stUnitFenced
      else if Need.within (s.bounds sl x.basin) ⟨.pool, x.addr / 18, n / 18⟩ then stOk else stAddrFault
  | 2 => if s.devOk sl x.addr n then stOk else stAddrFault
  | _ => stOk

/-- The parameters of a COPY or FILL are well formed. -/
def Cmd.copyFormOk (c : Cmd) : Bool :=
  let n := c.par 32 32
  let whole (x : Side) : Bool := x.space != 1 || (x.addr % 18 == 0 && n % 18 == 0)
  n != 0 && c.dst.space < 4 && whole c.dst &&
    (if c.opcode = 0x11 then c.par 4 4 == 0 else c.src.space < 4 && whole c.src)

/-- The checks of a COPY or FILL, in order. -/
def State.copyCheck (s : State) (c : Cmd) : Nat :=
  let n := c.par 32 32
  if !c.copyFormOk then stDescInvalid else
  let d := s.sideCheck c.slice c.dst n
  let r := if c.opcode = 0x11 then stOk else s.sideCheck c.slice c.src n
  if d = stBasinNotOwned ∨ r = stBasinNotOwned then stBasinNotOwned
  else if r ≠ stOk then r else d

/-- Beats to a basin pause in its guard band and window; none moves before it is awake or while another slice is its
tenant (R260, R270). -/
def State.sideHeld (s : State) (sl : Nat) (x : Side) : Bool :=
  x.space < 2 && (s.gated x.basin || s.zeroing x.basin ||
    (sl != 0 && (s.on Fld.gateStatusInGuard x.basin || s.windowOpen x.basin || (s.basin x.basin).tenant != sl)))

/-- No transfer starts either once a yield of the basin is requested; one that has started runs to its end (R260). -/
def State.sidePaused (s : State) (sl : Nat) (x : Side) : Bool :=
  s.sideHeld sl x || (x.space < 2 && sl != 0 && (s.basin x.basin).switch.isSome)

/-- A COPY reads its source as it starts; a FILL repeats its pattern. -/
def State.copyStart (s : State) (c : Cmd) (poison : Bool) : State :=
  let n := c.par 32 32
  let fill := c.opcode == 0x11
  let s := if fill then s else s.raceReads c.src.basin c.id (c.src.span c.id n 0)
  let s := if fill || 2 ≤ c.src.space then s else s.eccRead c.src.basin (c.src.need n)
  let srcBad := !fill && c.src.space < 2 && (if c.src.space = 1 then s.badP c.src.basin (c.src.addr / 18) (n / 18) else s.badC c.src.basin c.src.addr n)
  let bs := if fill then (List.range n).map fun i => BitVec.ofNat 8 (Sys2Proof.slice (c.par 64 64) (8 * (i % 8)) 8) else s.sideRead c.slice c.src n
  let met := (if poison && !fill && c.src.space == 2 || srcBad then [stMemPoison] else []) ++
    (if (!fill && c.src.space == 2 && s.devFenced c.src.addr n) || (c.dst.space == 2 && s.devFenced c.dst.addr n) then [stMemFenced] else [])
  let lost := !met.isEmpty
  let s := s.startRunning c.id
  let s := s.modCmd c.id fun c => { c with outcomes := met, outs := bs, aux := [nat1 lost] }
  let s := if fill then s else s.each (c.src.span c.id n 0) fun s x => s.beginSpans c.src.basin c.id [x]
  s.each (c.dst.span c.id n 1) fun s x => s.beginSpans c.dst.basin c.id [x]

/-- The last beat of a COPY or FILL: the destination holds the bytes. Where it is down, nothing is written and the transfer ends
with ST_MEM_FENCED (R35, R105). -/
def State.copyEnd (s : State) (c : Cmd) : State :=
  let n := c.par 32 32
  let dead := c.dst.space == 2 && s.devFenced c.dst.addr n
  let (s, c, bad) := s.copyLand c n
  let c := if dead then { c with outcomes := stMemFenced :: c.outcomes } else c
  let s := if c.src.space < 2 && c.opcode == 0x10 then s.endSpans c.src.basin c.id else s
  let s := if c.dst.space < 2 then s.endSpans c.dst.basin c.id else s
  let met := if bad then stMemPoison :: c.outcomes else c.outcomes
  s.finish c (if met.contains stMemPoison then stMemPoison else if met.contains stMemFenced then stMemFenced else stOk)

/-- A repartition of the side's basin is zeroing: what arrives then waits and does not fail (R96). -/
def State.parting (s : State) (x : Side) : Bool := x.space < 2 && s.on Fld.cisternPartPartBusy x.basin

/-- A COPY or FILL of ring `r` is checked and starts, unless a basin it names is not ready for its beats. -/
def State.copyAct (s : State) (r op : Nat) (poison : Bool) : State :=
  s.actH r op fun s c =>
    let st := s.copyCheck c
    if s.parting c.dst || (op == 0x10 && s.parting c.src) then s
    else if st ≠ stOk then
      let s := s.modCmd c.id fun c => { c with faultAddr := some (if s.sideCheck c.slice c.dst (c.par 32 32) = stAddrFault then c.dst.addr else c.src.addr) }
      s.finishNow c st
    else if s.sidePaused c.slice c.dst || (op == 0x10 && s.sidePaused c.slice c.src) then s
    else s.copyStart c poison

def execCopy (dt r : Nat) (ups : List Upset) (poison : Bool) (host : List HostWrite) (s : State) : Host.Outcome State Fault Refusal :=
  enter (.copy dt r ups poison host) dt s fun s => ((s.upsets ups).hostStores host).copyAct r 0x10 poison

def execFill (dt r : Nat) (s : State) : Host.Outcome State Fault Refusal :=
  enter (.fill dt r) dt s fun s => s.copyAct r 0x11 false

def execCopyComplete (dt r : Nat) (s : State) : Host.Outcome State Fault Refusal :=
  enter (.copyComplete dt r) dt s fun s =>
    s.forSome (s.cmds.find? fun c => c.ring == r && (c.opcode == 0x10 || c.opcode == 0x11) && c.phase == .running) fun s c =>
      s.whenever (!s.sideHeld c.slice c.dst && !(c.opcode == 0x10 && s.sideHeld c.slice c.src)) fun s => s.copyEnd c

/-! ### Rings (R208, R211, R229) -/

/-- A write of CQ_TAIL: held replies go out. -/
def State.cqTailWrite (s : State) (r v : Nat) : State :=
  if s.cqEntries r ≤ v % 2 ^ 32 then s.info (unitHub 0) else
  ((s.wr Fld.cqTailTail r v).flushHeld (s.ring r).held.length r).showStall r

def execCqTailWrite (dt r v : Nat) (s : State) : Host.Outcome State Fault Refusal :=
  enter (.cqTailWrite dt r v) dt s fun s => s.cqTailWrite r v

/-- May the ring be enabled (R229)? -/
def State.ringCanEnable (s : State) (r : Nat) : Bool :=
  let ok (n : Nat) : Bool := 3 ≤ n && n ≤ 20
  ok (s.rd Fld.sqSizeLog2Slots r) && ok (s.rd Fld.cqSizeLog2Entries r) && s.sliceActive (ringSlice r)

/-- The ring starts fresh. -/
def State.ringFresh (s : State) (r : Nat) : State :=
  let s := (((s.wr Fld.sqHeadHead r 0).wr Fld.sqTailTail r 0).wr Fld.cqHeadHead r 0).wr Fld.cqTailTail r 0
  let s := ((s.wr Fld.ringStatusHalted r 0).wr Fld.ringStatusHaltCode r 0).wr Fld.ringStatusCqStalled r 0
  (s.wr Fld.ringCtrlEnable r 1).setRing r { s.ring r with readPtr := 0, stampQ := [], failedLen := none, lost := [] }

/-- A write of RING_CTRL. -/
def State.ringCtrlWrite (s : State) (r v : Nat) : State :=
  let s := (s.wr Fld.ringCtrlHaltOnError r (v / 2)).wr Fld.ringCtrlTier r (v / 4)
  let s := if 8 ≤ r ∧ r < 1024 then s.setReg .schedEffTier (r / 8) (putBits (s.reg .schedEffTier (r / 8)) (3 * (r % 8)) 3 (v / 4)) else s
  if v % 2 = 0 then s.wr Fld.ringCtrlEnable r 0
  else if s.on Fld.ringCtrlEnable r then s
  else if s.ringCanEnable r then s.ringFresh r else s.info (unitHub 0)

def execRingEnable (dt r v : Nat) (s : State) : Host.Outcome State Fault Refusal :=
  enter (.ringEnable dt r v) dt s fun s => s.ringCtrlWrite r v

/-- A write of RING_CMD (R211, R228): an undispatched failing packet at SQ_HEAD is skipped; when its header was never read, the sluice
reads it next. -/
def State.ringResume (s : State) (r v : Nat) : State :=
  let sl := ringSlice r
  if v % 2 = 0 || !s.on Fld.ringStatusHalted r || s.sliceState sl == 2 || s.sliceState sl == 3 then s else
  let x := s.ring r
  let s := s.wr Fld.ringStatusHalted r 0
  match x.failedLen with
  | none => s
  | some n => if n = 0 then s.setRing r { x with readPtr := s.rd Fld.sqHeadHead r, stampQ := [] } else s.skipFailed r n

def execRingResume (dt r v : Nat) (s : State) : Host.Outcome State Fault Refusal :=
  enter (.ringResume dt r v) dt s fun s => s.ringResume r v

end Sys2Proof.Machine
end

