-- ==== Sys2Proof/Machine/Engine.lean ====
section
/-! DEFINITION. What the engines of a basin share: who may start work (R22 to R25, R260, R270, R386, R387), the slew
governor's starts (R404, R405), abandonment (R19), and clearing a basin (R241). -/
namespace Sys2Proof.Machine

/-! ### Fences and ownership -/

/-- Bit of BASIN_STATE that fences unit `u` of a basin (Table 1-15). -/
def fenceBit (u : Nat) : Nat := if u < 4 then 12 + u else 16 + (u - 8)

/-- Unit `u` of basin `b` is fenced on its own: J0, J1, rill, runnel or a spout core. -/
def State.unitFenced (s : State) (b u : Nat) : Bool := (u < 4 || (8 ≤ u && u < 16)) && s.regBit .basinState b (fenceBit u)

/-- The units a command names in its basin (R18). -/
def Cmd.units (c : Cmd) : List Nat :=
  match c.opcode with
  | 0x08 => Jd.jet c.params :: (if Jd.chainAddr c.params = 0 then [] else [3])
  | 0x09 => 2 :: (if Rd.chainAddr c.params = 0 then [] else [3])
  | 0x0B => [3]
  | 0x0C => (List.range 8).filterMap fun k => if bitAt (c.par 64 8) k then some (8 + k) else none
  | _ => []

/-- The command names something fenced (R18). -/
def State.cmdFenced (s : State) (c : Cmd) : Bool :=
  s.fencedBasin c.target || c.units.any (s.unitFenced c.target) ||
    (c.opcode == 0x0A && s.on Fld.terraceStateCascadeFenced (c.target / 8))

/-- The guard band of the basin is in progress. -/
def State.inGuard (s : State) (b : Nat) : Bool := s.on Fld.gateStatusInGuard b

/-- The basin is powered and nothing zeroes it, so commands for it may be checked. -/
def State.basinReady (s : State) (b : Nat) : Bool :=
  !s.gated b && !(s.basin b).gateReq && !s.zeroing b && !s.on Fld.cisternPartPartBusy b && !s.safe

/-- Slice `sl` may have commands checked in basin `b`: the basin is ready and its own. -/
def State.mayCheck (s : State) (sl b : Nat) : Bool :=
  s.basinReady b && (if sl = 0 then s.reserved b || s.windowOpen b
    else s.owner b == sl && !s.windowOpen b && (s.basin b).switch.isNone)

/-- A droop holds tile starts of the basin (R403). -/
def State.held (s : State) (b : Nat) : Bool := s.pwr.holds.any fun h => h.1 == b && s.now < h.2

/-- Work of slice `sl` may start in basin `b` now. -/
def State.mayStart (s : State) (sl b : Nat) : Bool :=
  s.mayCheck sl b && !s.fencedBasin b && !s.held b &&
    (if sl = 0 then s.reserved b || !s.on Fld.gateStatusExtended b else !s.inGuard b && !s.inferFenced)

/-! ### The slew governor -/

/-- A basin is protected (R399). -/
def State.protectedBasin (s : State) (b : Nat) : Bool :=
  s.reserved b || s.gateListed b || (List.range 128).any fun sl => s.on Fld.schedShareFixedShare sl && s.assigned sl b

/-- Basin `b` is assigned to a slice in fixed-share mode. -/
def State.fixedBasin (s : State) (b : Nat) : Bool := (List.range 128).any fun sl => s.on Fld.schedShareFixedShare sl && s.assigned sl b

/-- The step that basin `b` is to run at (R400, R401). -/
def State.stepGoal (s : State) (b : Nat) : Nat :=
  if s.reserved b || s.gateListed b then 15
  else if s.fixedBasin b then s.rd Fld.fixedStepStep
  else max (15 - s.rd Fld.pwrStatusLevel) (s.rd Fld.capFloorFloor)

/-- A step is decided for basin `b`. -/
def State.decideStep (s : State) (b n : Nat) : State :=
  let cur := Tbl.get (s.stepOf b) s.pwr.nextSteps b
  if cur = n then s else { s with pwr := { s.pwr with nextSteps := Tbl.put s.pwr.nextSteps b n } }

/-- Of the basins `bs`, those that have become protected since state `was` are to run at their protected step at once (R399, R400). -/
def State.protectNow (s was : State) (bs : List Nat) : State :=
  s.each bs fun s b => if s.protectedBasin b && !was.protectedBasin b then s.decideStep b (s.stepGoal b) else s

/-- An island is protected (R399). -/
def State.protectedIsland (s : State) (i : Nat) : Bool := 64 ≤ i || s.protectedBasin i

/-- A start of `e` would be from idle (R404, R405). -/
def State.fromIdle (s : State) (e : Nat) : Bool :=
  !s.engineBusy e && !s.pwr.ramps.contains e &&
    match Tbl.find s.pwr.lastRun e with
    | none => true
    | some t => 256 ≤ s.cyclesIn e (s.now - t)

def State.slewTokens (s : State) : Int := signedOf (s.rd Fld.slewTokensTokens) 16
def State.setSlewTokens (s : State) (v : Int) : State := s.wr Fld.slewTokensTokens 0 (unsignedOf v 16)

/-- Order of starts that began to wait on one edge (R404). -/
def slewRank (e : Nat) : Nat :=
  match engineBasin e with
  | some b => 8 * b + (if e < 128 then e % 2 else if e < 192 then 2 else if e < 320 then 3 else 4)
  | none => 1024 + e

/-- A start joins those that wait. -/
def slewInsert (w : SlewWait) : List SlewWait → List SlewWait
  | [] => [w]
  | x :: l => if w.since < x.since ∨ (w.since = x.since ∧ slewRank w.engine < slewRank x.engine) then w :: x :: l else x :: slewInsert w l

/-- A start of engine `e` with this weight (R404): whether it may begin now. One that may not joins the queue. -/
def State.takeStart (s : State) (e weight : Nat) : State × Bool :=
  let s' := { s with pwr := { s.pwr with ramps := s.pwr.ramps.filter (· != e) } }
  if !s.fromIdle e then (s', true)
  else if s.pwr.grants.contains e then ({ s with pwr := { s.pwr with grants := s.pwr.grants.filter (· != e) } }, true)
  else
    let free := match engineBasin e with | some b => s.protectedBasin b | none => true
    if free then (s.setSlewTokens (max (-(2 ^ 15)) (s.slewTokens - weight)), true)
    else if s.pwr.waits.isEmpty && weight ≤ s.slewTokens then (s.setSlewTokens (s.slewTokens - weight), true)
    else if s.pwr.waits.any (·.engine == e) then (s, false)
    else ({ s with pwr := { s.pwr with waits := slewInsert ⟨e, weight, s.now⟩ s.pwr.waits } }, false)

/-- An engine has run until now. -/
def State.ranUntilNow (s : State) (e : Nat) : State := { s with pwr := { s.pwr with lastRun := Tbl.put s.pwr.lastRun e s.now } }

/-- A jet, rill or cascade has finished a tile; without another tile it ramps down (R405). -/
def State.engineEnd (s : State) (e : Nat) : State :=
  let s := s.ranUntilNow e
  if e < 256 && !s.engineBusy e && s.rd Fld.rampDownRampDown != 0 then
    { s with pwr := { s.pwr with ramps := if s.pwr.ramps.contains e then s.pwr.ramps else s.pwr.ramps ++ [e] } }
  else s

/-! ### Jets' banks, rills' halves -/

/-- Both bank valid bits of a jet clear (R72); tiles that had loaded and not begun must load again. -/
def State.clearBanks (s : State) (b j : Nat) : State :=
  let s := (s.wr Fld.jetStatusBank0Valid (2 * b + j) 0).wr Fld.jetStatusBank1Valid (2 * b + j) 0
  { s with cmds := s.cmds.map fun c =>
      if c.target = b ∧ c.opcode = 8 ∧ Jd.jet c.params = j ∧ !c.begun ∧ (c.phase = .loading ∨ c.phase = .loaded)
      then { c with phase := .queued } else c }

/-- The rill's halves and lane stores become invalid (R134); a tile whose window was fetched must fetch it again. -/
def State.clearRill (s : State) (b : Nat) : State :=
  let s := s.rillDropFetch b fun _ => true
  let s := s.setRill b { s.rill b with half0 := {}, half1 := {}, lanes := [] }
  { s with cmds := s.cmds.map fun c =>
      if c.target = b ∧ c.opcode = 9 ∧ !c.begun ∧ (c.phase = .loading ∨ c.phase = .loaded) then { c with phase := .queued } else c }

/-- The halves and buffers of a cascade are cleared for basin `b` (R147). -/
def State.clearCascade (s : State) (b : Nat) : State :=
  let mine (id : Nat) : Bool := match s.cmd? id with | some c => c.target == b | none => true
  let s := match (s.cascade (b / 8)).fetch.filter fun f => mine f.cmd with
    | some f => s.cascadeDropFetch (b / 8) f.cmd
    | none => s
  let x := s.cascade (b / 8)
  let clr (h : Half) : Half := if mine h.cmd then {} else h
  let s := s.setCascade (b / 8) { x with half0 := clr x.half0, half1 := clr x.half1 }
  { s with cmds := s.cmds.map fun c =>
      if c.target = b ∧ c.opcode = 0xA ∧ !c.begun ∧ (c.phase = .loading ∨ c.phase = .loaded) then { c with phase := .queued } else c }

/-! ### Abandonment (R19) -/

/-- The cycles a command has run so far, by the count. -/
def State.cyclesSo (s : State) (c : Cmd) : Nat := if c.begun then s.cyclesIn c.engine (s.duration c) else 0

/-- What a command would still have written becomes unspecified. -/
def State.dropWrites (s : State) (c : Cmd) : State :=
  if c.target < 64 then (s.doWrites c.target (c.writes.map PWrite.abandoned)).1 else s

/-- The cycles of a tile that does not reach its end count in its engine's counters: how many rows or weight groups had entered
a jet or a rill is open within what its cycles allow (R78, R146, R165). -/
def State.countPartial (s : State) (c : Cmd) : State :=
  if c.phase ≠ .running then s else
  let (n, s) := s.free
  let cyc := s.cyclesSo c
  let d := c.params
  match c.opcode with
  | 8 => s.bump Fld.jetStreamCyclesStreamCycles c.engine (Jd.cpr d * (n % (min (Jd.rows d) (cyc / Jd.cpr d) + 1)))
  | 9 => s.bump Fld.rillComputeCyclesComputeCycles c.target (n % (min (Rd.computeCycles d (Se.fmtW c.slot)) cyc + 1))
  | 0xA => s.bump Fld.cascadeBusyCyclesBusyCycles (c.target / 8) cyc
  | _ => s

/-- A command of a basin is abandoned: its writes are discarded and it completes with `code`. -/
def State.abandon (s : State) (c : Cmd) (code : Nat) : State :=
  let s := ((s.dropWrites c).countPartial c).ranUntilNow c.engine
  s.finish { c with cyc := s.cyclesSo c, outs := [] } code

/-- The same without a reply (R246). -/
def State.abandonSilent (s : State) (c : Cmd) : State :=
  let s := ((s.dropWrites c).countPartial c).ranUntilNow c.engine
  let s := if c.target < 64 then s.endSpans c.target c.id else s
  (s.leave c.id).chargeCmd { c with cyc := s.cyclesSo c }

/-- Commands of basin `b` that an engine executes: jets, rill, runnel and the cascade. -/
def State.executing (s : State) (b : Nat) : List Cmd :=
  s.cmds.filter fun c => c.target == b && 8 ≤ c.opcode && c.opcode ≤ 0xB && c.begun

/-- Commands of basin `b` that wait in its queue or engines and have not begun. -/
def State.waitingIn (s : State) (b : Nat) : List Cmd :=
  s.cmds.filter fun c => c.target == b && !c.begun && c.phase != .saved

/-- Everything in basin `b` of which `p` holds ends with `code`: executing tiles abandoned, waiting ones without effect. -/
def State.endWork (s : State) (b : Nat) (p : Cmd → Bool) (code : Nat) : State :=
  let s := s.each ((s.executing b).filter p) fun s c => s.abandon c code
  s.each ((s.waitingIn b).filter p) fun s c => s.finishNow c code

/-! ### The runnel's users (R107, R145) -/

/-- The tile and the chain of a JET operation. -/
def RadioOp.tile (o : RadioOp) : Nat := o.params % 2 ^ 512
def RadioOp.chain (o : RadioOp) : Nat := o.params / 2 ^ 512

/-- A runnel pass, or a rill tile with a list: it uses the runnel alone. -/
def Cmd.lone (c : Cmd) : Bool := c.opcode == 0xB || (c.opcode == 9 && Rd.chainAddr c.params != 0)
/-- A jet tile with a list. -/
def Cmd.lists (c : Cmd) : Bool := c.opcode == 8 && Jd.chainAddr c.params != 0

/-- The running JET operations of the radio in basin `b` that have a list. -/
def State.radioLists (s : State) (b : Nat) : List RadioOp :=
  s.radio.plans.flatMap fun p => p.ops.filter fun o => o.st == 1 && o.kind == 8 && o.inst == b && Jd.chainAddr o.tile != 0

/-- No pass and no rill tile with a list runs in basin `b`. -/
def State.noLone (s : State) (b : Nat) : Bool := s.cmds.all fun c => !(c.target == b && c.begun && c.phase != .saved && c.lone)

/-! ### Is the basin at work? -/

/-- BASIN_STATE.busy: a tile or a spout-core task is executing. -/
def State.busy (s : State) (b : Nat) : Bool :=
  !(s.executing b).isEmpty || (s.basin b).task.isSome || (s.basin b).radioWork != 0

/-- A COPY, FILL or COPY_ASYNC that runs touches basin `b`. -/
def State.copiesIn (s : State) (b : Nat) : Bool :=
  s.cmds.any fun c => c.phase == .running &&
    (((c.opcode == 0x10 || c.opcode == 0x11) && ((c.par 0 4 < 2 && c.par 8 6 == b) || (c.opcode == 0x10 && c.par 4 4 < 2 && c.par 16 6 == b))) ||
     (c.opcode == 0x12 && (s.basin b).spans.any (·.cmd == c.id)))

/-! ### Clearing (R241) -/

/-- A spout core becomes idle with every register zero. -/
def State.resetCore (s : State) (c : Nat) : State :=
  let s := s.setCore c {}
  (((s.setReg .coreStatus c 0).setReg .corePc c 0).setReg .coreCause c 0).setReg .coreInstret c 0

/-- The work counter is cleared. -/
def State.clearCounter (s : State) (b : Nat) : State :=
  let s := ((s.setReg .wcLimit b 0).setReg .wcLease b 0).setReg .wcNext b 0
  (s.setReg .wcDoneCount b 0).setBasin b { s.basin b with leases := [] }

/-- Semaphores `lo` to `hi - 1` are zeroed. -/
def State.zeroSems (s : State) (b lo hi : Nat) : State :=
  s.each (List.range (hi - lo)) fun s i => (s.setReg .semValue (32 * b + lo + i) 0).setReg .semHolder (32 * b + lo + i) 0

/-- The basin has a radio partition (R95). -/
def State.parted (s : State) (b : Nat) : Bool := s.radioBanks b != 0 || s.radioUnits b != 0

/-- The contents of a whole basin, or of its tenant region, are zeroed with their semaphores. -/
def State.zeroRegion (s : State) (b : Nat) (whole : Bool) : State :=
  let s := (s.cZero b 0 (if whole then cisternBytes else s.partC b)).pZero b 0 (if whole then poolWords else s.partP b)
  s.zeroSems b 0 (if whole || !s.parted b then 32 else 28)

/-- The engines of a basin forget what a tenant left: banks, halves, lane stores, work counter, spout cores. -/
def State.clearEngines (s : State) (b : Nat) : State :=
  let s := (((s.clearBanks b 0).clearBanks b 1).clearRill b).clearCascade b
  let s := s.clearCounter b
  s.each (List.range 8) fun s k => s.resetCore (8 * b + k)

/-- Pool units that a zeroing takes, and its cycles (R241). -/
def State.zeroUnits (s : State) (b : Nat) (whole : Bool) : Nat := if whole then 224 else 224 - s.radioUnits b
def zeroCycles (u : Nat) : Nat := max 1024 (1024 * ceilDiv u 16)

/-- A zeroing begins. -/
def State.beginZero (s : State) (b kind units sl : Nat) : State :=
  (s.wr Fld.basinStateZeroing b 1).setBasin b { s.basin b with zeroing := some { kind := kind, units := units, slice := sl } }

/-- A zeroing ends; its cycles are charged to the slice it serves. -/
def State.endZero (s : State) (b : Nat) (z : Zeroing) : State :=
  let s := s.setBasin b { s.basin b with zeroing := none }
  let s := s.wr Fld.basinStateZeroing b (nat1 (s.basin b).parting.isSome)
  if z.kind = 2 then s else s.chargeSwitch z.slice (zeroCycles z.units)

end Sys2Proof.Machine
end

