-- ==== Sys2Proof/Machine/Jets.lean ====
section
/-! DEFINITION. Jet arrays (chapter 3): acceptance, bank loads, tiles, residue mismatches, field remaps. -/
namespace Sys2Proof.Machine

/-! ### What a tile computes (R68, R69, R74 to R76, R92, R97) -/

/-- A streamed row: the row of a that streams, if not zeros; the pool word of its column 0, if it is written. -/
structure JetRow where
  row : Nat
  src : Option Nat
  dst : Option Nat
  out : Bool            -- its index-list entry is out of range
  deriving DecidableEq, Repr

/-- Does the tile read an index list? -/
def Jd.listed (d : Nat) : Bool := Jd.gatherEn d == 1 || Jd.scatterEn d == 1

/-- The rows of a tile with their index-list entries (R75, R76): `n` words each from `base`, `stride` apart. With a poisoned
gather list a row without a valid entry keeps its destination, which is unspecified with the whole tile's (R97). -/
def State.listRows (s : State) (bd : Bounds) (b : Nat) (gather scatter : Bool) (list total rows base stride n : Nat) : List JetRow :=
  let keep := !scatter && s.badC b list (4 * rows)
  (List.range rows).map fun r =>
    if !gather && !scatter then ⟨r, some r, some (base + r * stride), false⟩ else
    let e := s.cNat b (list + 4 * r) 4
    let src := if gather then e else r
    let dst := base + (if scatter then e else r) * stride
    if e = 2 ^ 32 - 1 then ⟨r, none, if keep then some dst else none, false⟩
    else if (gather && total ≤ e) || (scatter && !Need.within bd ⟨.pool, dst, n⟩) then ⟨r, none, if keep then some dst else none, true⟩
    else ⟨r, some src, some dst, false⟩

def State.jetRows (s : State) (bd : Bounds) (b d : Nat) : List JetRow :=
  s.listRows bd b (Jd.gatherEn d == 1) (Jd.scatterEn d == 1) (Jd.gatherAddr d) (Jd.aRowsTotal d) (Jd.rows d) (Jd.poolBase d)
    (Jd.poolRowStride d) (Jd.nValid d)

/-- The chain's prologue list is in use. -/
def proOn (d c : Nat) : Bool := Jd.chainAddr d != 0 && Ch.nPro c != 0

/-- The bytes of element `i`, `w` bits wide, of a packed run; a 6-bit element lies in a group of 3 bytes (R100). -/
def Need.elem (a w i : Nat) : Need := if w = 6 then ⟨.cistern, a + i / 4 * 3, 3⟩ else ⟨.cistern, a + i * w / 8, (w + 7) / 8⟩

/-- What streaming row `i` of a reads. -/
def Jd.rowReads (d c i : Nat) : List Need :=
  let k := Jd.kValid d
  let w := fmtBits (Jd.fmtA d)
  let scales : List Need := if fmtMx (Jd.fmtA d) && !proOn d c then [⟨.cistern, Jd.aScaleAddr d + i * Jd.aScaleStride d, ceilDiv k 32⟩] else []
  if Jd.transposeA d = 1 then
    (List.range k).map (fun j => Need.elem (Jd.aAddr d + j * Jd.aRowStride d) w i) ++ scales
  else ⟨.cistern, Jd.aAddr d + i * Jd.aRowStride d, runBytes (if proOn d c then Ch.proInFmt c else Jd.fmtA d) k⟩ :: scales

/-- A row as it reaches the cells: elements, scale bytes, flags and counts of the prologue, and whether a read was poisoned. -/
structure CellRow where
  elems : List Nat
  scales : List Nat
  pro : Option LaneOut
  bad : Bool
  deriving DecidableEq, Repr

/-- Row `i` of a as it reaches the cells. -/
def State.jetRow (s : State) (b d c i : Nat) : CellRow :=
  let k := Jd.kValid d
  let fa := Jd.fmtA d
  let bad := s.poisoned b (Jd.rowReads d c i)
  if proOn d c then
    let xs := (s.cElems b (Jd.aAddr d + i * Jd.aRowStride d) (Ch.proInFmt c) k).map fun x => (x : Int)
    let l := Ch.pro c
    let bad := bad || s.poisoned b (sideReads c i k l)
    let o := { s.laneRow b c 0 l (Ch.rowOffset c + i) (Ch.kOffset c) ⟨i, Ch.proInFmt c, xs, bad⟩ with row := i }
    ⟨o.val.encs, if o.val.scales.isEmpty then List.replicate (ceilDiv k 32) 127 else o.val.scales, some o, bad⟩
  else
    let es := if Jd.transposeA d = 1 then (List.range k).map fun j => s.cElem b (Jd.aAddr d + j * Jd.aRowStride d) fa i
      else s.cElems b (Jd.aAddr d + i * Jd.aRowStride d) fa k
    let es := if bad then (freeRow s.freeCtr k (fmtBits fa)).map Int.toNat else es
    let ss := if fmtMx fa then (List.range (ceilDiv k 32)).map fun j => s.cNat b (Jd.aScaleAddr d + i * Jd.aScaleStride d + j) 1
      else List.replicate (ceilDiv k 32) 127
    ⟨es, ss, none, bad⟩

/-- The contributions of one row to column `n` (R69). -/
def jetColumn (d : Nat) (bank : Bank) (x : CellRow) (n : Nat) : List (Int × AccFlags) :=
  let fa := Jd.fmtA d
  let fb := Jd.fmtB d
  let k := Jd.kValid d
  (List.range (ceilDiv k 32)).map fun j =>
    let ab := (List.range (min 32 (k - 32 * j))).map fun i =>
      (x.elems.getD (32 * j + i) 0, elemOf (bank.data.drop ((32 * j + i) * 16 * fmtBits fb)) fb n)
    let sb := if fmtMx fb then (bank.scales.getD (128 * j + n) 0).toNat else 127
    kgroup ab fa fb (x.scales.getD j 127) sb (Jd.anchorOf d) (Jd.ovfPolicy d)

/-- The pool words that a tile in accumulate mode reads to add to them (R97, R104). -/
def accReads (mode : Nat) (ws : List PWrite) : List Need :=
  if mode ≠ 1 then [] else ws.filterMap fun w => match w with
    | .poolAdd w _ | .poolFree w => some ⟨.pool, w, 1⟩
    | _ => none

/-- What a tile computes when it starts. -/
structure TileRes where
  writes : List PWrite
  drained : List LaneRow   -- rows for the runnel in drain mode
  flags : AccFlags
  codes : List Nat
  bad : List Nat           -- rows whose destination is unspecified
  pro : List LaneOut
  reads : List Need
  deriving DecidableEq, Repr

/-- A tile with descriptor `d`, chain `c` and this stationary operand, for a slice with bounds `bd` in basin `b`. A row that
streams as zeros sets no flag, whatever the stationary operand holds (DEDUCED, log entry 18). -/
def State.jetCompute (s : State) (bd : Bounds) (b d c : Nat) (bank : Bank) : TileRes :=
  let rows := s.jetRows bd b d
  let listNeed : List Need := if Jd.listed d then [⟨.cistern, Jd.gatherAddr d, 4 * Jd.rows d⟩] else []
  let allBad := bank.poisoned || s.poisoned b listNeed
  let n := Jd.nValid d
  let one (r : JetRow) : List PWrite × Option LaneRow × AccFlags × List Nat × Option LaneOut :=
    match r.src, r.dst with
    | some i, some w =>
      let x := s.jetRow b d c i
      let bad := x.bad || allBad || (Jd.dstMode d == 1 && s.badP b w n)
      let cols := (List.range n).map (jetColumn d bank x)
      let fl := cols.flatten.foldl (fun a t => AccFlags.or a t.2) AccFlags.none
      let words := cols.map fun cs => cs.foldl (fun a t => poolAdd a t.1) 0
      let ws := if Jd.dstMode d = 2 then [] else if bad then (List.range n).map fun k => PWrite.poolFree (w + k)
        else (List.range n).flatMap fun k => (if Jd.dstMode d = 0 then [PWrite.poolSet (w + k) 0] else []) ++
          [PWrite.poolAdd (w + k) (words.getD k 0)]
      (ws, if Jd.dstMode d = 2 then some ⟨r.row, 0xC, words, bad⟩ else none, fl, if bad then [r.row] else [], x.pro)
    | none, some w => (if Jd.dstMode d = 2 then [] else (List.range n).map fun k => PWrite.poolFree (w + k),
        if Jd.dstMode d = 2 then some ⟨r.row, 0xC, List.replicate n 0, true⟩ else none, .none, [r.row], none)
    | _, none => ([], none, .none, [], none)
  let rs := rows.map one
  let fl := rs.foldl (fun a t => AccFlags.or a t.2.2.1) AccFlags.none
  let pro := rs.filterMap (·.2.2.2.2)
  let bad := rs.flatMap (·.2.2.2.1)
  let fl := (fl.or (laneFlags pro)).or (if bad.isEmpty then .none else .ofNat (Config.freeNat s.freeCtr % 16))
  ⟨rs.flatMap (·.1), rs.filterMap (·.2.1), fl,
    (if bad.isEmpty && !allBad then [] else [stMemPoison]) ++ (if Jd.ovfPolicy d == 2 && fl.above then [stAnchorOverflow] else []) ++
      (if rows.any (·.out) then [stGatherRange] else []),
    bad, pro,
    listNeed ++ rows.flatMap fun r => match r.src with
      | some i => Jd.rowReads d c i ++ (if proOn d c then sideReads c i (Jd.kValid d) (Ch.pro c) else [])
      | none => []⟩

/-- The stationary operand as a load brings it (R72, R92). -/
def State.jetBank (s : State) (b d : Nat) : Bank :=
  let fb := Jd.fmtB d
  let k := Jd.kValid d
  ⟨fb, Jd.depth d, k, Jd.nValid d, s.cRead b (Jd.bAddr d) (k * 16 * fmtBits fb),
    if fmtMx fb then s.cRead b (Jd.bScaleAddr d) (128 * ceilDiv k 32) else [], s.poisoned b (needs fb k)⟩
where
  /-- What the loader reads: the bytes of in-bounds columns alone (R100). -/
  needs (fb k : Nat) : List Need :=
    (List.range k).map (fun i => ⟨.cistern, Jd.bAddr d + i * 16 * fmtBits fb, runBytes fb (Jd.nValid d)⟩) ++
    (if fmtMx fb then (List.range (ceilDiv k 32)).map fun j => ⟨.cistern, Jd.bScaleAddr d + 128 * j, Jd.nValid d⟩ else [])

/-- The loader's reads. -/
def jetLoadNeeds (d : Nat) : List Need := State.jetBank.needs d (Jd.fmtB d) (Jd.kValid d)

/-- A write's span in a basin (R90). -/
def PWrite.span (id : Nat) : PWrite → Option Span
  | .poolAdd w _ => some ⟨id, true, w, 1, 2⟩
  | .poolSet w _ | .poolFree w => some ⟨id, true, w, 1, 1⟩
  | .cist a bs => some ⟨id, false, a, bs.length, 1⟩
  | .cistFree a n => some ⟨id, false, a, n, 1⟩
  | .dev _ _ | .devFree _ _ => none

/-- The spans of a chain: what its epilogue will write and read for the tile's rows. -/
def chainSpans (id c rows cols : Nat) : List Span :=
  let out := Ch.listCode 0xC (Ch.epi c)
  if Ch.nEpi c = 0 then [] else
  (List.range rows).flatMap (fun r =>
    [⟨id, false, Ch.outAddr c + r * Ch.outRowStride c, packLen out cols, 1⟩] ++
    (if fmtMx out then [⟨id, false, Ch.outScaleAddr c + r * Ch.outScaleStride c, ceilDiv cols 32, 1⟩] else []) ++
    (sideReads c r cols (Ch.epi c)).filterMap (Need.span id)) ++
  (Ch.epi c).filterMap fun g => if Sg.op g = 4 then some ⟨id, true, Sys2Proof.slice (Sg.imm1 g) 0 18, 2 * rows, 2⟩ else none

/-! ### JET_TILE (R84, R85, R122) -/

/-- The checks of a jet tile, and its chain. -/
def State.jetCheck (s : State) (c : Cmd) : Nat × Nat :=
  let d := c.params
  let b := c.target
  if s.cmdFenced c then (stUnitFenced, 0)
  else if !Jd.valid d then (stDescInvalid, 0)
  else s.chainCheck c.slice b (Jd.chainAddr d) (Jd.use d) fun ch =>
    Jd.needs d ++ (if Jd.chainAddr d = 0 then [] else Jd.chainNeeds d ch)

/-- A tile or pass is accepted with its chain. -/
def State.accept (s : State) (c : Cmd) (chainAddr chain : Nat) : State :=
  let s := if chainAddr = 0 then s else
    (s.eccRead c.target ⟨.cistern, chainAddr, 256⟩).wr Fld.runnelTagTileTag c.target c.tag
  s.modCmd c.id fun k => { k with phase := .queued, chain := chain }

/-- Check the oldest unchecked entry of basin `b`, when its opcode is `op`: it fails at once, or is accepted. A fenced
basin checks it although it is gated (R18). -/
def State.checkIssue (s : State) (b op : Nat) (check : State → Cmd → Nat × Nat) (chainAddr : Nat → Nat) : State :=
  s.forSome (s.firstIssue b op) fun s c =>
    s.whenever (s.mayCheck c.slice b || s.fencedBasin b) fun s =>
      let (st, ch) := check s c
      if st = stOk then s.accept c (chainAddr c.params) ch
      else
        let s := if st = stMemPoison && chainAddr c.params != 0 then s.eccRead b ⟨.cistern, chainAddr c.params, 256⟩ else s
        s.finishNow c st

def execJetTile (dt b : Nat) (s : State) : Host.Outcome State Fault Refusal :=
  enter (.jetTile dt b) dt s fun s => s.checkIssue b 8 State.jetCheck Jd.chainAddr

/-! ### Starts, loads, ends (R70 to R73, R77, R78) -/

/-- The tiles of jet `j` of basin `b` that the jet holds, in order. -/
def State.jetTiles (s : State) (b j : Nat) : List Cmd :=
  s.cmds.filter fun c => c.target == b && c.opcode == 8 && Jd.jet c.params == j && c.phase != .issued && c.phase != .saved && c.phase != .epilogue

/-- The bank of jet number `i` that `x` names, its valid bit, and the bank's contents. -/
def bankFld (x : Nat) : Fld := if x = 0 then Fld.jetStatusBank0Valid else Fld.jetStatusBank1Valid
def JetSt.bank (j : JetSt) (x : Nat) : Bank := if x = 0 then j.bank0 else j.bank1
def JetSt.setBank (j : JetSt) (x : Nat) (k : Bank) : JetSt := if x = 0 then { j with bank0 := k } else { j with bank1 := k }

/-- The bank holds what the tile needs (R72). -/
def State.bankUsable (s : State) (i d : Nat) : Bool :=
  let k := (s.jet i).bank (Jd.bank d)
  s.on (bankFld (Jd.bank d)) i && k.fmt == Jd.fmtB d && k.depth == Jd.depth d && k.k == Jd.kValid d && k.n == Jd.nValid d

/-- A jet tile with a runnel list excludes passes and rill tiles with a list, and each of those excludes every other, in
submission order (R107, R145). -/
def State.runnelFree (s : State) (c : Cmd) : Bool :=
  let mine (e : Cmd) : Bool := e.target == c.target && e.id != c.id && e.phase != .saved
  let earlier := (s.cmds.takeWhile (·.id != c.id)).filter mine
  let begun := s.cmds.filter fun e => mine e && e.begun
  if c.lone then (s.radioLists c.target).isEmpty && (begun ++ earlier).all fun e => !(e.lists || e.lone)
  else !c.lists || (begun ++ earlier).all fun e => !e.lone

/-- The load of a tile begins. The bank that it writes is not valid until the load completes (DEDUCED, log entry 18). -/
def State.jetLoad (s : State) (c : Cmd) (before : Option Cmd) : State :=
  let d := c.params
  let i := 2 * c.target + Jd.jet d
  let s := s.wr (bankFld (Jd.bank d)) i 0
  let s := if Jd.forceLoad d = 0 then s.bump Fld.jetReloadsReloads i else s
  let s := s.beginSpans c.target c.id ((jetLoadNeeds d).filterMap (Need.span c.id))
  match before with
  | some p => s.modCmd c.id fun k => { k with phase := .loading, aux := [Jd.cpr p.params * Jd.rows p.params] }
  | none => ((s.wr Fld.jetTileTagTileTag i (Jd.tileTag d)).beginCmd c.id).modCmd c.id fun k => { k with phase := .loading, aux := [] }

/-- Row 0 of a tile issues: its operands are read and its results computed. -/
def State.jetRun (s : State) (c : Cmd) (running : List Cmd) : State :=
  let d := c.params
  let b := c.target
  let i := 2 * b + Jd.jet d
  let bank := (s.jet i).bank (Jd.bank d)
  let bd := s.bounds c.slice b
  let s := s.raceReads b c.id ((s.jetCompute bd b d c.chain bank).reads.filterMap (Need.span c.id)) (running.map (·.id))
  let r := s.jetCompute bd b d c.chain bank
  let s := s.eccReads b (r.reads ++ accReads (Jd.dstMode d) r.writes)
  let s := { s with freeCtr := s.freeCtr + 4096 }
  let s := (s.laneCounts b r.pro).bump Fld.runnelProRowsProRows b r.pro.length
  let bubble := match c.aux with
    | sPrev :: _ => jetLoadLen (Jd.fmtB d) (Jd.depth d) - sPrev
    | [] => 0
  let s := (((s.wr Fld.jetStatusFrontTag i (Jd.bank d)).wr Fld.jetTileTagTileTag i (Jd.tileTag d)).bump Fld.jetBubbleCyclesBubbleCycles i bubble)
  let s := if c.begun then s else s.beginCmd c.id
  let s := s.modCmd c.id fun k => { k with
    phase := .running, writes := k.writes ++ r.writes, flags := k.flags.or r.flags, outcomes := k.outcomes ++ r.codes, aux := r.bad }
  let s := s.beginSpans b c.id (r.reads.filterMap (Need.span c.id) ++ r.writes.filterMap (PWrite.span c.id) ++
    (if Jd.hands d then chainSpans c.id c.chain (Jd.rows d) (Jd.nValid d) else [])) (running.map (·.id))
  if Jd.dstMode d = 2 then s.runEpilogue b c.id c.chain (Jd.anchorOf d) r.drained else s

/-- The next tile of a jet starts its load, or its row 0. -/
def State.jetStart (s : State) (b j : Nat) : State :=
  let ts := s.jetTiles b j
  let running := ts.filter (·.phase == .running)
  s.forSome (ts.find? (·.phase != .running)) fun s c =>
    let d := c.params
    if c.phase = .loading || !(s.mayStart c.slice b || (c.begun && s.basinReady b)) || !s.runnelFree c then s
    else if c.phase = .queued && (Jd.forceLoad d == 1 || !s.bankUsable (2 * b + j) d) then
      match running.getLast? with
      | some p => s.jetLoad c (some p)
      | none => let (s, ok) := s.takeStart (2 * b + j) 4; if ok then s.jetLoad c none else s
    else if c.begun then s.jetRun c running
    else let (s, ok) := s.takeStart (2 * b + j) 4; if ok then s.jetRun c running else s

def execJetTileStart (dt b j : Nat) (ups : List Upset) (s : State) : Host.Outcome State Fault Refusal :=
  enter (.jetTileStart dt b j ups) dt s fun s => (s.upsets ups).jetStart b j

def execJetBankLoadComplete (dt b j : Nat) (ups : List Upset) (s : State) : Host.Outcome State Fault Refusal :=
  enter (.jetBankLoadComplete dt b j ups) dt s fun s =>
    let s := s.upsets ups
    s.forSome ((s.jetTiles b j).find? (·.phase == .loading)) fun s c =>
      let d := c.params
      let i := 2 * b + j
      let s := s.raceReads b c.id ((jetLoadNeeds d).filterMap (Need.span c.id))
      let k := s.jetBank b d
      let s := s.eccReads b (jetLoadNeeds d)
      let s := (s.setJet i ((s.jet i).setBank (Jd.bank d) k)).wr (bankFld (Jd.bank d)) i 1
      s.modCmd c.id fun e => { e with phase := .loaded }

/-- A report with its syndrome given in bits `lo` to `lo + w - 1` by each triple and free elsewhere. -/
def State.reportBits (s : State) (unit cls : Nat) (fs : List (Nat × Nat × Nat)) : State :=
  let (n, s) := s.free
  s.report unit cls (fs.foldl (fun a f => putBits a f.1 f.2.1 f.2.2) (n % 2 ^ 64))

/-- A residue mismatch is found in a tile of an engine (R80): its destination is unspecified. -/
def State.jetMismatch (s : State) (b j col w : Nat) : State :=
  let i := 2 * b + j
  ((s.reportBits (unitBasin b j) 2 [(0, 7, col), (24, 18, w)]).bumpSat Fld.jetResidueMismatchCount i).wr Fld.jetResidueLastColumn i col

/-- Is word `w` of a tile, which adds `ws`, compared with its predicted residue (R79)? Not where the word it adds to, a
contribution or the sum is NAN_WORD. -/
def State.compared (s : State) (b w : Nat) (ws : List PWrite) (acc one : Bool) : Bool :=
  ws.any fun x => match x with
    | .poolAdd w' v => w' == w && !(acc && s.pWord b w == nanWord) && !(one && v == nanWord)
    | .poolFree w' => w' == w
    | _ => false

/-- A residue mismatch at column `x.1` and pool word `x.2` of a jet tile can occur. -/
def State.jetCompares (s : State) (b d : Nat) (rows : List JetRow) (ws : List PWrite) (x : Nat × Nat) : Bool :=
  decide (x.1 < Jd.nValid d) && (Jd.dstMode d == 2 || (decide (x.1 ≤ x.2) && rows.any (·.dst == some (x.2 - x.1)) &&
    s.compared b x.2 ws (Jd.dstMode d == 1) (decide (Jd.kValid d ≤ 32))))

/-- Feeder cycles for the lines that streamed rows cross beyond their `cpr` (R92). -/
def Jd.extraLines (d c : Nat) (rows : List JetRow) : Nat :=
  if Jd.transposeA d = 1 then 0 else
  (rows.map fun r => match r.src with
    | some i =>
      let a := Jd.aAddr d + i * Jd.aRowStride d
      let n := runBytes (if proOn d c then Ch.proInFmt c else Jd.fmtA d) (Jd.kValid d)
      if n = 0 then 0 else (a + n - 1) / 256 - a / 256 + 1 - Jd.cpr d
    | none => 0).foldl (· + ·) 0

/-- Cycles in which the feet of a jet stall under an odd row stride: two of the words of one cycle share a bank (R99). -/
def Jd.footStalls (d : Nat) (rows : List JetRow) : Nat :=
  let n := Jd.nValid d
  if Jd.dstMode d = 2 ∨ Jd.poolRowStride d % 2 = 0 then 0 else
  ((List.range (rows.length + n - 1)).filter fun m =>
    let banks := (List.range n).filterMap fun j =>
      if j ≤ m then ((rows[m - j]?).bind (·.dst)).map fun w => (w + j) % 128 else none
    decide (banks.eraseDups.length < banks.length)).length

/-- What a finished tile of jet `i` adds to its counters (R78, R92, R99): its stream, its feeder's and feet's stalls, and
`stalls` more cycles in which it waited for a bank that another request held. -/
def State.jetCycles (s : State) (i d c : Nat) (rows : List JetRow) (stalls : Nat) : State :=
  let s := (s.bump Fld.jetStreamCyclesStreamCycles i (Jd.cpr d * Jd.rows d)).setJet i { s.jet i with stream := Jd.cpr d * Jd.rows d }
  let s := s.bump Fld.jetBubbleCyclesBubbleCycles i (Jd.extraLines d c rows + stalls)
  s.bump Fld.cisternStallsStallCycles (i / 2) (Jd.extraLines d c rows + Jd.footStalls d rows + stalls)

/-- The rows of the pool that an emitting tile hands to the runnel. -/
def State.emitted (s : State) (rows : List JetRow) (b d : Nat) (bad : List Nat) (all : Bool) : List LaneRow :=
  rows.filterMap fun r =>
    match r.dst with
    | some w => some ⟨r.row, 0xC, (List.range (Jd.nValid d)).map fun n => s.pWord b (w + n), all || bad.contains r.row⟩
    | none => none

/-- A tile's last pool write, or its last hand-off. -/
def State.jetEnd (s : State) (c : Cmd) (bad : List (Nat × Nat)) (cyc stalls : Nat) : State :=
  let d := c.params
  let b := c.target
  let rows := s.jetRows (s.bounds c.slice b) b d
  let bad := bad.filter (s.jetCompares b d rows c.writes)
  let s := s.each bad fun s x => s.jetMismatch b (Jd.jet d) x.1 x.2
  let ws := if bad.isEmpty then c.writes else c.writes.map PWrite.abandoned
  let met := c.outcomes ++ (if bad.isEmpty then [] else [stResidueMismatch])
  let s := s.jetCycles (2 * b + Jd.jet d) d c.chain rows stalls
  if Jd.dstMode d = 2 then
    (s.modCmd c.id fun k => { k with phase := .epilogue, writes := ws, outcomes := met, cyc := cyc }).engineEnd (2 * b + Jd.jet d)
  else
    let (s, failed) := s.doWrites b ws
    let met := met ++ (if failed then [stMemPoison] else [])
    let c := { c with writes := [], outcomes := met, cyc := cyc }
    if Jd.hands d then
      let s := s.modCmd c.id fun _ => { c with phase := .epilogue }
      let s := s.engineEnd (2 * b + Jd.jet d)
      s.runEpilogue b c.id c.chain (Jd.anchorOf d) (s.emitted rows b d c.aux !bad.isEmpty)
    else
      let s := s.finish c (tileStatus met)
      s.engineEnd (2 * b + Jd.jet d)

def execJetTileEnd (dt b j : Nat) (bad : List (Nat × Nat)) (cyc stalls : Nat) (s : State) : Host.Outcome State Fault Refusal :=
  enter (.jetTileEnd dt b j bad cyc stalls) dt s fun s =>
    s.forSome ((s.jetTiles b j).find? (·.phase == .running)) fun s c => s.jetEnd c bad cyc stalls

/-! ### Field remaps (R82, R83) -/

/-- A spare of kind `k` (0 row, 1 column) that is unused. -/
def State.spareFree (s : State) (i k : Nat) : Option Nat :=
  let used := if k = 0 then s.rd Fld.jetSpareSpareRowUsed i else s.rd Fld.jetSpareSpareColUsed i
  (List.range 4).find? fun n => !bitAt used n

/-- A write of JET_FIELD_REMAP. -/
def State.fieldRemap (s : State) (b j v : Nat) : State :=
  let i := 2 * b + j
  let x := s.basin b
  if x.woken && s.gated b then s.info (unitBasin b 16)
  else if slice v 16 16 = 0xF05E ∧ s.rd Fld.jetSpareFieldBudget i ≠ 0 ∧ (s.spareFree i (slice v 7 1)).isSome ∧ !x.woken ∧
      !s.on Fld.jetSpareRemapBusy i then
    (s.setReg .jetFieldRemap i v).wr Fld.jetSpareRemapBusy i 1
  else s.info (unitBasin b j)

def execJetFieldRemap (dt b j v : Nat) (s : State) : Host.Outcome State Fault Refusal :=
  enter (.jetFieldRemap dt b j v) dt s fun s => s.fieldRemap b j v

def execFieldFuseBlown (dt b j : Nat) (s : State) : Host.Outcome State Fault Refusal :=
  enter (.fieldFuseBlown dt b j) dt s fun s =>
    let i := 2 * b + j
    s.whenever (s.on Fld.jetSpareRemapBusy i) fun s =>
      let kind := s.rd Fld.jetFieldRemapKind i
      let s := s.forSome (s.spareFree i kind) fun s n =>
        if kind = 0 then (s.setRegBit .jetSpare i n true).setReg .jetSpareRowMap i (putBits (s.reg .jetSpareRowMap i) (8 * n) 7 (s.rd Fld.jetFieldRemapIndex i))
        else (s.setRegBit .jetSpare i (4 + n) true).setReg .jetSpareColMap i (putBits (s.reg .jetSpareColMap i) (8 * n) 7 (s.rd Fld.jetFieldRemapIndex i))
      (s.wr Fld.jetSpareFieldBudget i (s.rd Fld.jetSpareFieldBudget i - 1)).wr Fld.jetSpareRemapBusy i 0

end Sys2Proof.Machine
end

