-- ==== Sys2Proof/Machine/Runnels.lean ====
section
/-! DEFINITION. Runnel passes and the epilogue lane (chapter 5). -/
namespace Sys2Proof.Machine

/-- The checks of a pass and of its chain (R122, R123). -/
def State.passCheck (s : State) (c : Cmd) : Nat × Nat :=
  let d := c.params
  let b := c.target
  if s.cmdFenced c then (stUnitFenced, 0)
  else if !Rp.valid d then (stDescInvalid, 0)
  else if Rp.chainAddr d = 0 then
    -- a chain at address 0 is checked like any other: every pass has one
    let ch := s.readChain b 0
    if !Need.within (s.bounds c.slice b) ⟨.cistern, 0, 256⟩ then (stAddrFault, 0)
    else if s.badC b 0 256 then (stMemPoison, 0)
    else if !Ch.valid ch 0 (Rp.use d) then (stDescInvalid, ch)
    else if (Rp.needs d ch).all (Need.within (s.bounds c.slice b)) then (stOk, ch) else (stAddrFault, ch)
  else s.chainCheck c.slice b (Rp.chainAddr d) (Rp.use d) fun ch => Rp.needs d ch

def execRunnelPass (dt b : Nat) (s : State) : Host.Outcome State Fault Refusal :=
  enter (.runnelPass dt b) dt s fun s =>
    s.forSome (s.firstIssue b 0xB) fun s c =>
      s.whenever (s.mayCheck c.slice b || s.fencedBasin b) fun s =>
        let (st, ch) := s.passCheck c
        let s := if st = stOk ∨ st = stMemPoison then s.eccRead b ⟨.cistern, Rp.chainAddr c.params, 256⟩ else s
        if st = stOk then
          (s.wr Fld.runnelTagTileTag b c.tag).modCmd c.id fun k => { k with phase := .queued, chain := ch }
        else s.finishNow c st

/-- What a pass reads of its input for row `r`. -/
def Rp.rowNeed (d r : Nat) : Need :=
  if Rp.inFmt d = 0xC then ⟨.pool, Rp.inAddr d + r * Rp.inRowStride d, Rp.cols d⟩
  else ⟨.cistern, Rp.inAddr d + r * Rp.inRowStride d, packLen (Rp.inFmt d) (Rp.cols d)⟩

/-- The rows of a pass (R123). -/
def State.passRows (s : State) (b d : Nat) : List LaneRow :=
  (List.range (Rp.rows d)).map fun r =>
    let a := Rp.inAddr d + r * Rp.inRowStride d
    let xs : List Int := if Rp.inFmt d = 0xC then (List.range (Rp.cols d)).map fun n => s.pWord b (a + n)
      else (s.cElems b a (Rp.inFmt d) (Rp.cols d)).map fun x => (x : Int)
    ⟨r, Rp.inFmt d, xs, s.poisoned b [Rp.rowNeed d r]⟩

/-- The passes of a basin that wait or run. -/
def State.passes (s : State) (b : Nat) (p : Phase) : Option Cmd := s.cmds.find? fun c => c.target == b && c.opcode == 0xB && c.phase == p

/-- A pass starts. -/
def State.passStart (s : State) (c : Cmd) : State :=
  let b := c.target
  let d := c.params
  let (s, ok) := s.takeStart (256 + b) 1
  if !ok then s else
  let needs := (List.range (Rp.rows d)).map (Rp.rowNeed d)
  let s := s.raceReads b c.id (needs.filterMap (Need.span c.id))
  let rows := s.passRows b d
  let s := s.eccReads b needs
  let s := (s.beginCmd c.id).modCmd c.id fun k => { k with phase := .running }
  let s := s.beginSpans b c.id (needs.filterMap (Need.span c.id) ++ chainSpans c.id c.chain (Rp.rows d) (Rp.cols d))
  s.runEpilogue b c.id c.chain (Rp.anchor d) rows

def execRunnelPassStart (dt b : Nat) (ups : List Upset) (s : State) : Host.Outcome State Fault Refusal :=
  enter (.runnelPassStart dt b ups) dt s fun s =>
    let s := s.upsets ups
    s.forSome (s.passes b .queued) fun s c =>
      s.whenever (s.mayStart c.slice b && s.runnelFree c) fun s => s.passStart c

/-- The last write of an epilogue or pass: its outputs land and its command completes (R124). -/
def State.laneEnd (s : State) (c : Cmd) : State :=
  let (s, failed) := s.doWrites c.target c.writes
  s.finish { c with writes := [] } (tileStatus (c.outcomes ++ if failed then [stMemPoison] else []))

def execRunnelPassEnd (dt b : Nat) (took : Took) (s : State) : Host.Outcome State Fault Refusal :=
  enter (.runnelPassEnd dt b took) dt s fun s =>
    s.forSome (s.passes b .running) fun s c =>
      ((s.bump Fld.cisternStallsStallCycles b took.stalls).laneEnd { c with cyc := took.cyc }).ranUntilNow (256 + b)

def execEpilogueComplete (dt b : Nat) (u : LaneEnd) (s : State) : Host.Outcome State Fault Refusal :=
  enter (.epilogueComplete dt b u) dt s fun s =>
    s.forSome (s.cmds.find? fun c => c.target == b && c.phase == .epilogue &&
        (if u.lane = 2 then c.opcode == 9 else c.opcode == 8 && Jd.jet c.params == u.lane)) fun s c =>
      (s.bump Fld.cisternStallsStallCycles b u.stalls).laneEnd c

end Sys2Proof.Machine
end

