-- ==== Sys2Proof/Machine/Rills.lean ====
section
/-! DEFINITION. Rills (chapter 6): acceptance and resolution, weight fetches, tiles; the variant table. -/
namespace Sys2Proof.Machine

/-! ### Acceptance (R138, R144) -/

/-- keep_a against the lane stores. -/
def State.keepOk (s : State) (b d : Nat) : Bool :=
  Rd.keepA d == 0 || (s.rill b).lanes.isEmpty || (s.rill b).laneGather == Rd.gatherEn d

/-- Step 1 of R144: the descriptor, D with the larger G that a weight format allows, and the lane stores. -/
def State.rillStep1 (s : State) (b d : Nat) : Bool := Rd.valid d && decide (Rd.bound d 0 ≤ 2432) && s.keepOk b d

/-- The status with which a read of these HBM addresses, 32 bytes each, ends. -/
def State.entryReads (s : State) (as : List Nat) (poison : Bool) : Nat :=
  if as.any fun a => !isHbm (a + 31) then stAddrFault
  else if !as.isEmpty && poison then stMemPoison
  else if as.any fun a => s.devFenced a 32 then stMemFenced else stOk

/-- The checks of a rill tile, in the order of R144 with those of its chain (R122): status, chain, what was resolved. -/
def State.rillCheck (s : State) (c : Cmd) (poison : Bool) : Nat × Nat × List Nat :=
  let d := c.params
  let b := c.target
  if s.cmdFenced c then (stUnitFenced, 0, [])
  else if !s.rillStep1 b d then (stDescInvalid, 0, [])
  else
    let reads := s.resolveReads (Rd.variant d) (Rd.slot d) c.slice
    let st := s.entryReads reads poison
    if st ≠ stOk then (st, 0, []) else
    match s.resolve (Rd.variant d) (Rd.slot d) c.slice with
    | none => (stVariantInvalid, 0, [])
    | some (e, ks) =>
      if 2432 < Rd.bound d (Se.fmtW e) || !Rd.slotOk d e then (stDescInvalid, 0, []) else
      let (st, ch) := s.chainCheck c.slice b (Rd.chainAddr d) (Rd.use d) fun ch =>
        Rd.needs d ++ (if Rd.chainAddr d = 0 then [] else Ch.needs ch 0 0 (Rd.tokens d) (Rd.nCols d) 0xC)
      if st ≠ stOk then (st, ch, []) else
      if (Rd.weightNeeds d e).all fun n => n.len == 0 || (isHbm (n.lo + n.len - 1) && s.devOk ks n.lo n.len) then (stOk, ch, [e, ks])
      else (stAddrFault, ch, [])

def execRillTile (dt b : Nat) (poison : Bool) (s : State) : Host.Outcome State Fault Refusal :=
  enter (.rillTile dt b poison) dt s fun s =>
    s.forSome (s.firstIssue b 9) fun s c =>
      s.whenever (s.mayCheck c.slice b || s.fencedBasin b) fun s =>
        let n := (s.resolveReads (Rd.variant c.params) (Rd.slot c.params) c.slice).length
        let (st, ch, aux) := s.rillCheck c poison
        let s := s.modCmd c.id fun k => { k with hbmB := k.hbmB + if s.cmdFenced c || !s.rillStep1 b c.params then 0 else 64 * n }
        s.forSome (s.cmd? c.id) fun s c =>
          if st = stOk then (s.accept c (Rd.chainAddr c.params) ch).modCmd c.id fun k => { k with aux := aux }
          else s.finishNow c st

/-! ### Weight fetches (R133 to R135) -/

/-- A half that holds this tag. -/
def RillSt.halfOf (x : RillSt) (tag : List Nat) : Option Nat :=
  if x.half0.tag = tag then some 0 else if x.half1.tag = tag then some 1 else none
def RillSt.half (x : RillSt) (i : Nat) : Half := if i = 0 then x.half0 else x.half1
def RillSt.setHalf (x : RillSt) (i : Nat) (h : Half) : RillSt := if i = 0 then { x with half0 := h } else { x with half1 := h }

/-- The tile that last used a half has ended (R77): what waits for its epilogue alone no longer uses the half. -/
def State.halfFree (s : State) (h : Half) : Bool :=
  match s.cmd? h.cmd with
  | some c => c.phase == .epilogue
  | none => true

/-- The half the next fetch goes to. -/
def State.rillFreeHalf (s : State) (x : RillSt) : Option Nat :=
  let i := 1 - x.lastHalf
  if s.halfFree (x.half i) then some i else if s.halfFree (x.half (1 - i)) then some (1 - i) else none

/-- A fetch for slice `sl` in basin `b` may issue reads (R135, R260, R270). -/
def State.mayFetch (s : State) (sl b : Nat) : Bool :=
  s.mayCheck sl b && !s.fencedBasin b && !s.inGuard b && !s.inferFenced

/-- The next queued tile's fetch starts, or a fetch that a guard band stopped starts again from its first read. -/
def State.rillFetchStart (s : State) (b : Nat) : State :=
  let x := s.rill b
  match x.fetch.filter fun f => (s.cmd? f.cmd).isSome with
  | some f =>
    s.forSome (s.cmd? f.cmd) fun s c => s.whenever (f.stopped && s.mayFetch c.slice b) fun s =>
      (s.setRill b { x with fetch := some { f with left := readsOf c.rillRuns, stopped := false } }).modCmd c.id fun k =>
        { k with aux := [c.slot, c.keySlice, s.now] }
  | none =>
    s.forSome ((s.rillTiles b).find? (·.phase == .queued)) fun s c =>
      s.whenever (s.mayFetch c.slice b && (x.halfOf c.rillTag).isNone) fun s =>
        s.forSome (s.rillFreeHalf x) fun s i =>
          let x := { x.setHalf i { tag := [], data := [], cmd := c.id } with lastHalf := i, fetch := some ⟨c.id, i, readsOf c.rillRuns, false⟩ }
          (s.setRill b x).modCmd c.id fun k => { k with phase := .loading, aux := [c.slot, c.keySlice, s.now], hbmB := k.hbmB + flitsOf c.rillRuns }

def execRillFetchStart (dt b : Nat) (s : State) : Host.Outcome State Fault Refusal :=
  enter (.rillFetchStart dt b) dt s fun s => s.rillFetchStart b

/-- A fetch is cancelled with its tile (R135). -/
def State.rillCancel (s : State) (b : Nat) (c : Cmd) (code : Nat) : State :=
  (s.rillDropFetch b (· == c.id)).finishNow c code

/-- A whole window has been fetched into its half: its weight bytes, whole groups of 32 (R143), have all been counted. -/
def State.rillFetched (s : State) (b : Nat) (f : Fetch) (c : Cmd) : State :=
  let data := c.rillRuns.flatMap fun r => s.devRead r.1 r.2
  let s := s.setRill b { (s.rill b).setHalf f.half ⟨c.rillTag, data, c.id⟩ with fetch := none }
  let s := s.bump Fld.rillFetchWaitFetchWait b (s.fetchWaited (128 + b) (c.aux.getD 2 s.now))
  let rest := Rd.weightBytes c.params (Se.fmtW c.slot) - (readSizes c.rillRuns).foldl (· + ·) 0
  (s.bump Fld.rillFetchBytesFetchBytes b rest).modCmd c.id fun k => { k with phase := .loaded }

def execRillFetchReturn (dt b n : Nat) (poison : Bool) (s : State) : Host.Outcome State Fault Refusal :=
  enter (.rillFetchReturn dt b n poison) dt s fun s =>
    s.forSome (s.rill b).fetch fun s f => s.forSome (s.cmd? f.cmd) fun s c =>
      s.whenever (!f.stopped && n != 0 && n ≤ 256) fun s =>
        if poison then s.rillCancel b c stMemPoison
        else if c.rillRuns.any fun r => s.devFenced r.1 r.2 then s.rillCancel b c stMemFenced
        else
          let s := s.bump Fld.rillFetchBytesFetchBytes b (bytesBack c.rillRuns f.left n)
          if n < f.left then s.setRill b { s.rill b with fetch := some { f with left := f.left - n } } else s.rillFetched b f c

/-! ### Tiles (R130, R131, R136, R142) -/

def State.rillRows (s : State) (bd : Bounds) (b d : Nat) : List JetRow :=
  s.listRows bd b (Rd.gatherEn d == 1) (Rd.scatterEn d == 1) (Rd.gatherAddr d) (Rd.aRowsTotal d) (Rd.tokens d) (Rd.poolBase d)
    (Rd.poolRowStride d) (Rd.nCols d)

/-- What loading the activation of row `i` reads. -/
def Rd.rowReads (d i : Nat) : List Need :=
  ⟨.cistern, Rd.aAddr d + i * Rd.aRowStride d, runBytes (Rd.fmtA d) (Rd.kValid d)⟩ ::
    (if fmtMx (Rd.fmtA d) then [⟨.cistern, Rd.aScaleAddr d + i * Rd.aScaleStride d, ceilDiv (Rd.kValid d) 32⟩] else [])

/-- The lane stores loaded from the cistern. A lane whose read was poisoned holds `([], [0])`, one that is not loaded
`([], [])`: what a later tile that keeps it would use is open. -/
def State.rillLanes (s : State) (b d : Nat) (rows : List JetRow) : List (List Byte × List Byte) :=
  rows.map fun r => match r.src with
    | some i =>
      if s.poisoned b (Rd.rowReads d i) then ([], [0]) else
      (s.cRead b (Rd.aAddr d + i * Rd.aRowStride d) (packLen (Rd.fmtA d) (Rd.kValid d)),
        if fmtMx (Rd.fmtA d) then s.cRead b (Rd.aScaleAddr d + i * Rd.aScaleStride d) (ceilDiv (Rd.kValid d) 32) else [])
    | none => ([], [])

/-- One lane's contributions to column `n`, against the weights of a half (R136). A kept lane is used unchanged (R134); elements
and scales beyond what its load brought are free. -/
def rillColumn (d fw A : Nat) (anchor : Int) (tag : Nat) (lane : List Byte × List Byte) (half : List Byte) (n : Nat) : List (Int × AccFlags) :=
  let fa := Rd.fmtA d
  let k := Rd.kValid d
  let cb := Rd.colBytes d fw
  let col := (half.drop (n * cb)).take cb
  let sc := (half.drop (Rd.nCols d * cb + n * ceilDiv k 32)).take (ceilDiv k 32)
  let w := fmtBits fa
  (List.range (ceilDiv k 32)).map fun j =>
    let ab := (List.range (min 32 (k - 32 * j))).map fun i =>
      (if w * (32 * j + i + 1) ≤ 8 * lane.1.length then elemOf lane.1 fa (32 * j + i) else Config.freeNat (tag + 32 * j + i) % 2 ^ w, elemOf col fw (32 * j + i))
    let sa := if fmtMx fa then (if j < lane.2.length then (lane.2.getD j 127).toNat else Config.freeNat (tag + 8192 + j) % 256) else 127
    let sb := if fmtMx fw then (sc.getD j 127).toNat else 127
    kgroup ab fa fw sa sb anchor A

/-- What a rill tile computes when it starts. -/
def State.rillCompute (s : State) (bd : Bounds) (b : Nat) (c : Cmd) (lanes : List (List Byte × List Byte)) (half : List Byte) : TileRes :=
  let d := c.params
  let rows := s.rillRows bd b d
  let listNeed : List Need := if Rd.gatherEn d == 1 || Rd.scatterEn d == 1 then [⟨.cistern, Rd.gatherAddr d, 4 * Rd.tokens d⟩] else []
  let allBad := s.poisoned b listNeed
  let n := Rd.nCols d
  let one (r : JetRow) : List PWrite × Option LaneRow × AccFlags × List Nat :=
    match r.src, r.dst with
    | some _, some w =>
      let lane := lanes.getD r.row ([], [])
      let bad := (lane.1.isEmpty && !lane.2.isEmpty) || allBad || (Rd.dstMode d == 1 && s.badP b w n)
      let cols := (List.range n).map (rillColumn d (Se.fmtW c.slot) (Rd.ovfPolicy d) (Rd.anchorOf d c.slot) s.freeCtr lane half)
      let fl := cols.flatten.foldl (fun a t => AccFlags.or a t.2) AccFlags.none
      let words := cols.map fun cs => cs.foldl (fun a t => poolAdd a t.1) 0
      let ws := if Rd.dstMode d = 2 then [] else if bad then (List.range n).map fun k => PWrite.poolFree (w + k)
        else (List.range n).flatMap fun k => (if Rd.dstMode d = 0 then [PWrite.poolSet (w + k) 0] else []) ++
          [PWrite.poolAdd (w + k) (words.getD k 0)]
      (ws, if Rd.dstMode d = 2 then some ⟨r.row, 0xC, words, bad⟩ else none, fl, if bad then [r.row] else [])
    | none, some w => (if Rd.dstMode d = 2 then [] else (List.range n).map fun k => PWrite.poolFree (w + k),
        if Rd.dstMode d = 2 then some ⟨r.row, 0xC, List.replicate n 0, true⟩ else none, .none, [r.row])
    | _, none => ([], none, .none, [])
  let rs := rows.map one
  let fl := rs.foldl (fun a t => AccFlags.or a t.2.2.1) AccFlags.none
  let bad := rs.flatMap (·.2.2.2)
  let fl := fl.or (if bad.isEmpty then .none else .ofNat (Config.freeNat s.freeCtr % 16))
  ⟨rs.flatMap (·.1), rs.filterMap (·.2.1), fl,
    (if bad.isEmpty && !allBad then [] else [stMemPoison]) ++ (if Rd.ovfPolicy d == 2 && fl.above then [stAnchorOverflow] else []) ++
      (if rows.any (·.out) then [stGatherRange] else []),
    bad, [], listNeed⟩

/-- A rill tile starts. -/
def State.rillStart (s : State) (b : Nat) (c : Cmd) (half : Nat) : State :=
  let (s, ok) := s.takeStart (128 + b) 2
  if !ok then s else
  let d := c.params
  let bd := s.bounds c.slice b
  let s := if c.phase = .queued then s.bump Fld.rillReusesReuses b else s
  let x := s.rill b
  let load := Rd.keepA d == 0 || x.lanes.isEmpty
  let s := if Rd.keepA d == 1 && load then s.bump Fld.rillLaneReloadsLaneReloads b else s
  let mine (rows : List JetRow) : List Need :=
    (if load then rows.flatMap fun r => match r.src with | some i => Rd.rowReads d i | none => [] else []) ++
      (if Rd.gatherEn d == 1 || Rd.scatterEn d == 1 then [⟨.cistern, Rd.gatherAddr d, 4 * Rd.tokens d⟩] else [])
  let s := s.raceReads b c.id ((mine (s.rillRows bd b d)).filterMap (Need.span c.id))
  let rows := s.rillRows bd b d
  let lanes := if load then s.rillLanes b d rows else x.lanes
  let loads := if load then rows.flatMap fun r => match r.src with | some i => Rd.rowReads d i | none => [] else []
  let r := s.rillCompute bd b c lanes (x.half half).data
  let s := s.eccReads b (loads ++ r.reads ++ accReads (Rd.dstMode d) r.writes)
  let s := { s with freeCtr := s.freeCtr + 16384 }
  let h := { x.half half with cmd := c.id }
  let s := s.setRill b { x.setHalf half h with lastHalf := half, lanes := lanes, laneGather := if load then Rd.gatherEn d else x.laneGather }
  let s := (s.wr Fld.rillTileTagTileTag b (Rd.tileTag d)).beginCmd c.id
  let s := s.modCmd c.id fun k => { k with
    phase := .running, writes := k.writes ++ r.writes, flags := k.flags.or r.flags, outcomes := k.outcomes ++ r.codes, aux := [c.slot, c.keySlice] ++ r.bad }
  let s := s.beginSpans b c.id ((loads ++ r.reads).filterMap (Need.span c.id) ++ r.writes.filterMap (PWrite.span c.id) ++
    (if Rd.hands d then chainSpans c.id c.chain (Rd.tokens d) (Rd.nCols d) else []))
  if Rd.dstMode d = 2 then s.runEpilogue b c.id c.chain (Rd.anchorOf d c.slot) r.drained else s

def execRillTileStart (dt b : Nat) (ups : List Upset) (s : State) : Host.Outcome State Fault Refusal :=
  enter (.rillTileStart dt b ups) dt s fun s =>
    let s := s.upsets ups
    let ts := s.rillTiles b
    s.forSome ts.head? fun s c =>
      s.whenever (c.phase != .running && c.phase != .loading && s.mayStart c.slice b && s.runnelFree c) fun s =>
        s.forSome ((s.rill b).halfOf c.rillTag) fun s half => s.rillStart b c half

/-- A residue mismatch in a rill tile (R132). -/
def State.rillMismatch (s : State) (b lane w : Nat) : State :=
  ((s.reportBits (unitBasin b 2) 2 [(0, 4, lane), (24, 18, w)]).bumpSat Fld.rillResidueMismatchCount b).wr Fld.rillResidueLastLane b lane

/-- The rows that an emitting rill tile hands to the runnel. -/
def State.rillEmitted (s : State) (rows : List JetRow) (b d : Nat) (bad : List Nat) (all : Bool) : List LaneRow :=
  rows.filterMap fun r =>
    match r.dst with
    | some w => some ⟨r.row, 0xC, (List.range (Rd.nCols d)).map fun n => s.pWord b (w + n), all || bad.contains r.row⟩
    | none => none

/-- A residue mismatch in token lane `x.1` at pool word `x.2` of a rill tile can occur. -/
def State.rillCompares (s : State) (b d : Nat) (rows : List JetRow) (ws : List PWrite) (x : Nat × Nat) : Bool :=
  (rows.find? (·.row == x.1)).any fun r => (r.src.isSome && Rd.dstMode d == 2) || (match r.dst with
    | some w => decide (w ≤ x.2 ∧ x.2 < w + Rd.nCols d) && s.compared b x.2 ws (Rd.dstMode d == 1) (decide (Rd.kValid d ≤ 32))
    | none => false)

/-- The last pool write of a rill tile, or its last hand-off. -/
def State.rillEnd (s : State) (c : Cmd) (bad : List (Nat × Nat)) (cyc stalls : Nat) : State :=
  let d := c.params
  let b := c.target
  let rows := s.rillRows (s.bounds c.slice b) b d
  let bad := bad.filter (s.rillCompares b d rows c.writes)
  let s := s.each bad fun s x => s.rillMismatch b x.1 x.2
  let ws := if bad.isEmpty then c.writes else c.writes.map PWrite.abandoned
  let met := c.outcomes ++ (if bad.isEmpty then [] else [stResidueMismatch])
  let s := s.bump Fld.cisternStallsStallCycles b stalls
  let s := s.bump Fld.rillComputeCyclesComputeCycles b (Rd.computeCycles d (Se.fmtW c.slot))
  if Rd.dstMode d = 2 then
    ((s.modCmd c.id fun k => { k with phase := .epilogue, writes := ws, outcomes := met, cyc := cyc }).engineEnd (128 + b)).rillDrained b
  else
    let (s, failed) := s.doWrites b ws
    let met := met ++ (if failed then [stMemPoison] else [])
    let c := { c with writes := [], outcomes := met, cyc := cyc }
    if Rd.hands d then
      let s := ((s.modCmd c.id fun _ => { c with phase := .epilogue }).engineEnd (128 + b)).rillDrained b
      s.runEpilogue b c.id c.chain (Rd.anchorOf d c.slot) (s.rillEmitted rows b d (c.aux.drop 2) !bad.isEmpty)
    else (s.finish c (tileStatus met)).engineEnd (128 + b)

def execRillTileEnd (dt b : Nat) (bad : List (Nat × Nat)) (took : Took) (s : State) : Host.Outcome State Fault Refusal :=
  enter (.rillTileEnd dt b bad took) dt s fun s =>
    s.forSome ((s.rillTiles b).find? (·.phase == .running)) fun s c => s.rillEnd c bad took.cyc took.stalls

/-! ### The variant table (R137) -/

def execVariantWrite (dt r : Nat) (s : State) : Host.Outcome State Fault Refusal :=
  enter (.variantWrite dt r) dt s fun s => s.actH r 0x18 fun s c =>
    let s := { s with variants := Tbl.set 0 s.variants (c.par 0 10) (c.par 256 512) }
    s.finishNow c stOk

end Sys2Proof.Machine
end

