-- ==== Sys2Proof/Machine/Cascades.lean ====
section
/-! DEFINITION. Cascades (chapter 7): acceptance, KV fetches through the KV page table, forward, merge and backward tiles. -/
namespace Sys2Proof.Machine

/-! ### Acceptance (R164) -/

/-- The checks of a cascade tile. -/
def State.cascadeCheck (s : State) (c : Cmd) : Nat :=
  if s.cmdFenced c then stUnitFenced
  else if !Cd.valid c.cd c.cx then stDescInvalid
  else if (Cd.needs c.cd c.cx).all fun n =>
    if n.sp = .dev then n.len == 0 || (isHbm (n.lo + n.len - 1) && s.devOk c.slice n.lo n.len)
    else Need.within (s.bounds c.slice c.target) n then stOk
  else stAddrFault

/-- The oldest unchecked entry of basin `b`'s issue queue is a cascade tile with this op. -/
def State.cascadeAccept (s : State) (b op : Nat) : State :=
  s.forSome (s.firstIssue b 0xA) fun s c =>
    s.whenever (Cd.op c.cd == op && (s.mayCheck c.slice b || s.fencedBasin b)) fun s =>
      let st := s.cascadeCheck c
      if st = stOk then s.modCmd c.id fun k => { k with phase := .queued, unit := b / 8 } else s.finishNow c st

def execCascadeForward (dt b : Nat) (s : State) : Host.Outcome State Fault Refusal :=
  enter (.cascadeForward dt b) dt s fun s => s.cascadeAccept b 0

def execCascadeMerge (dt b : Nat) (s : State) : Host.Outcome State Fault Refusal :=
  enter (.cascadeMerge dt b) dt s fun s => s.cascadeAccept b 1

def execCascadeBackward (dt b : Nat) (s : State) : Host.Outcome State Fault Refusal :=
  enter (.cascadeBackward dt b) dt s fun s => s.cascadeAccept b 2

/-! ### KV pages (R156, R157, R171) -/

/-- Entry `n` of the KV page table. -/
def State.kvpt (s : State) (n : Nat) : Nat := s.devNat (s.rd Fld.serveKvptBaseKvptBase + 16 * n) 16

/-- Where the page of a page-list entry lies for slice `sl` (Table 8-3): 0 and a device address, or 1 and a job address;
none for an invalid entry. -/
def State.kvPage (s : State) (sl e : Nat) : Option (Nat × Nat) :=
  let t := s.kvpt (e % 2 ^ 22)
  if e / 2 ^ 22 ≠ 0 ∨ !bitAt t 0 ∨ Sys2Proof.slice t 10 2 = 0 ∨ Sys2Proof.slice t 1 7 ≠ sl then none
  else some (if Sys2Proof.slice t 8 2 = 2 then (1, Sys2Proof.slice t 64 35 * 131072) else (0, Sys2Proof.slice t 64 35 * 131072))

/-- The job lines of the remote runs. -/
def Cmd.remoteLines (c : Cmd) : List Nat :=
  ((c.runs.filter fun r => r.1 == 1 && r.2.2 != 0).flatMap fun r =>
    (List.range ((r.2.1 + r.2.2 - 1) / 128 - r.2.1 / 128 + 1)).map fun i => r.2.1 / 128 + i).eraseDups

/-! ### Service order (R147) -/

/-- The tiles a cascade holds that have not begun, and the one that runs. -/
def State.cascadeTiles (s : State) (t : Nat) : List Cmd :=
  s.cmds.filter fun c => c.opcode == 0xA && c.target / 8 == t && !c.begun && (c.phase == .queued || c.phase == .loading || c.phase == .loaded)
def State.cascadeRunning (s : State) (t : Nat) : Option Cmd :=
  s.cmds.find? fun c => c.opcode == 0xA && c.target / 8 == t && c.phase == .running

/-- The tile whose turn is next: in round-robin order after the basin served last, the oldest tile of a basin that has not had
its turn, passing over basins whose tile may not be served now. A merge needs no fetch. -/
def State.cascadeNext (s : State) (t : Nat) : Option Cmd :=
  let ts := (s.cascadeTiles t).filter (·.phase == .queued)
  let may (c : Cmd) : Bool := if Cd.op c.cd = 1 then s.mayStart c.slice c.target else s.mayFetch c.slice c.target
  ((List.range 8).filterMap fun i =>
    (ts.find? (·.target == 8 * t + ((s.cascade t).lastBasin + 1 + i) % 8)).filter may).head?

def CascadeSt.half (x : CascadeSt) (i : Nat) : Half := if i = 0 then x.half0 else x.half1
def CascadeSt.setHalf (x : CascadeSt) (i : Nat) (h : Half) : CascadeSt := if i = 0 then { x with half0 := h } else { x with half1 := h }

/-- The half the next fetch goes to. -/
def State.cascadeFreeHalf (s : State) (x : CascadeSt) : Option Nat :=
  let i := 1 - x.lastHalf
  if s.halfFree (x.half i) then some i else if s.halfFree (x.half (1 - i)) then some (1 - i) else none

/-! ### KV fetches (R135, R147, R157) -/

/-- A queued tile completes without starting; nothing is written. -/
def State.cascadeCancel (s : State) (t : Nat) (c : Cmd) (code : Nat) : State := (s.cascadeDropFetch t c.id).finishNow c code

/-- The guard band of basin `b` begins: the fetch of a tile of it that has not started stops; it restarts from its first
read, in its turn, once its basin may fetch again. -/
def State.cascadeGuard (s : State) (b : Nat) : State :=
  let t := b / 8
  match (s.cascade t).fetch with
  | none => s
  | some f => match s.cmd? f.cmd with
    | none => s
    | some c =>
      if c.target ≠ b then s else
      let s := s.cascadeDropFetch t c.id
      (s.setCascade t { s.cascade t with lastBasin := (b + 7) % 8 }).modCmd c.id fun k => { k with phase := .queued, aux := [] }

/-- Send the reads of remote pages; the first failure ends it. -/
def State.kvSend (s : State) (c : Cmd) : List Nat → State × Nat
  | [] => (s, stOk)
  | l :: ls =>
    match s.home? (128 * l) with
    | none => (s, stAddrFault)
    | some h =>
      let (s, st) := s.aqdSend c.slice c.ring c.id h { AqdReq.blank with kind := .rd, addr := 128 * l }
      if st ≠ stOk then (s, st) else State.kvSend s c ls

/-- Bytes of HBM and CXL memory that runs take, in whole flits. -/
def hbmFlits (rs : List (Nat × Nat)) : Nat := flitsOf (rs.filter fun r => isHbm r.1)
def cxlFlits (rs : List (Nat × Nat)) : Nat := flitsOf (rs.filter fun r => !isHbm r.1)

/-- The page list of a tile, and its entries. -/
def Cd.listNeed (d : Nat) : Need := ⟨.cistern, Cd.pageListAddr d + 4 * (Cd.kFirst d / Cd.p d), 4 * (Cd.entries d).length⟩
def State.pageEntries (s : State) (c : Cmd) : List Nat := (Cd.entries c.cd).map fun e => s.cNat c.target (Cd.pageListAddr c.cd + 4 * e) 4

/-- What keeps the fetch of a tile from starting, by its page list (R97, R157). -/
def State.pageListCheck (s : State) (c : Cmd) : Nat :=
  let es := s.pageEntries c
  if s.poisoned c.target [Cd.listNeed c.cd] then stMemPoison
  else if es.any fun e => e / 2 ^ 22 == 0 && s.devFenced (s.rd Fld.serveKvptBaseKvptBase + 16 * e) 16 then stMemFenced
  else if (es.filterMap (s.kvPage c.slice)).length ≠ es.length then stPageInvalid else stOk

/-- The fetch of a tile from pages `ps` into half `i` begins. -/
def State.cascadeFetch (s : State) (t : Nat) (c : Cmd) (i : Nat) (ps : List (Nat × Nat)) : State :=
  let c := { c with phase := .loading, aux := s.now :: ps.map fun (p : Nat × Nat) => p.1 * 2 ^ 64 + p.2 }
  let rs := c.localRuns
  let c := { c with hbmB := c.hbmB + hbmFlits rs, cxlB := c.cxlB + cxlFlits rs }
  let s := s.modCmd c.id fun _ => c
  let len := (c.runs.map (·.2.2)).foldl (· + ·) 0
  let x := s.cascade t
  let s := s.setCascade t { x.setHalf i ⟨[], List.replicate len 0, c.id⟩ with
    lastHalf := i, fetch := some ⟨c.id, i, readsOf rs + readsOf ((c.runs.filter (·.1 == 1)).map (·.2)), false⟩ }
  let (s, st) := s.kvSend c c.remoteLines
  if st = stOk then s else match s.cmd? c.id with
    | some c => s.cascadeCancel t { c with faultAddr := (c.remoteLines.head?).map (128 * ·) } st
    | none => s

/-- The tile whose fetch comes next, and the half it goes to: a free one, and no fetch in progress. -/
def State.fetchNext (s : State) (t : Nat) : Option (Cmd × Nat) :=
  if (s.cascade t).fetch.isSome || s.on Fld.terraceStateCascadeFenced t then none else
  match (s.cascadeNext t).filter fun c => Cd.op c.cd != 1, s.cascadeFreeHalf (s.cascade t) with
  | some c, some i => some (c, i)
  | _, _ => none

/-- The next queued tile's fetch starts: the page list is read and every entry resolved. -/
def State.cascadeFetchStart (s : State) (t : Nat) : State :=
  s.forSome (s.fetchNext t) fun s x =>
    let s' := (s.setCascade t { s.cascade t with lastBasin := x.1.target % 8 }).eccRead x.1.target (Cd.listNeed x.1.cd)
    if s.pageListCheck x.1 = stOk then s'.cascadeFetch t x.1 x.2 ((s.pageEntries x.1).filterMap (s.kvPage x.1.slice))
    else s'.cascadeCancel t x.1 (s.pageListCheck x.1)

def execCascadeFetchStart (dt t : Nat) (s : State) : Host.Outcome State Fault Refusal :=
  enter (.cascadeFetchStart dt t) dt s fun s => s.cascadeFetchStart t

/-- Replace bytes of a list from place `i` on. -/
def patch (l : List Byte) (i : Nat) (bs : List Byte) : List Byte := l.take i ++ bs ++ l.drop (i + bs.length)

/-- Put what `get` answers for each run of which `p` holds into the window. -/
def patchRuns (p : Nat × Nat × Nat → Bool) (get : Nat × Nat × Nat → Nat × List Byte) : Nat → List (Nat × Nat × Nat) → List Byte → List Byte
  | _, [], data => data
  | o, r :: rs, data =>
    let g := get r
    patchRuns p get (o + r.2.2) rs (if p r && !g.2.isEmpty then patch data (o + g.1) g.2 else data)

/-- A remote line has arrived for a fetching tile: its bytes take their places in the half. -/
def State.kvLine (s : State) (c : Cmd) (line : Nat) (bs : List Byte) : State :=
  let t := c.target / 8
  let x := s.cascade t
  match x.fetch with
  | none => s
  | some f =>
    if f.cmd ≠ c.id then s else
    let a := 128 * line
    let meets (r : Nat × Nat × Nat) : Bool := r.1 == 1 && a < r.2.1 + r.2.2 && r.2.1 < a + 128
    let get (r : Nat × Nat × Nat) : Nat × List Byte :=
      let lo := max a r.2.1
      (lo - r.2.1, (bs.drop (lo - a)).take (min (a + 128) (r.2.1 + r.2.2) - lo))
    let h := x.half f.half
    s.setCascade t (x.setHalf f.half { h with data := patchRuns meets get 0 c.runs h.data })

/-- The whole window is in its half. -/
def State.cascadeFetched (s : State) (t : Nat) (f : Fetch) (c : Cmd) : State :=
  let x := s.cascade t
  let h := x.half f.half
  let data := patchRuns (fun r => r.1 == 0) (fun r => (0, s.devRead r.2.1 r.2.2)) 0 c.runs h.data
  let s := s.setCascade t { x.setHalf f.half ⟨[c.id], data, c.id⟩ with fetch := none }
  (s.bump Fld.cascadeFetchWaitFetchWait t (s.fetchWaited (192 + t) (c.aux.getD 0 s.now))).modCmd c.id fun k => { k with phase := .loaded }

def execCascadeFetchReturn (dt t n : Nat) (poison : Bool) (s : State) : Host.Outcome State Fault Refusal :=
  enter (.cascadeFetchReturn dt t n poison) dt s fun s =>
    s.forSome (s.cascade t).fetch fun s f => s.forSome (s.cmd? f.cmd) fun s c =>
      s.whenever (n != 0 && n ≤ 256) fun s =>
        if poison then s.cascadeCancel t c stMemPoison
        else if c.localRuns.any fun r => s.devFenced r.1 r.2 then s.cascadeCancel t c stMemFenced
        else
          let rest := max (f.left - n) (nat1 (s.aqdPending c.id))
          let s := s.bump Fld.cascadeFetchBytesFetchBytes t (bytesBack c.fetchRuns f.left (f.left - rest))
          if rest = 0 then s.cascadeFetched t f c else s.setCascade t { s.cascade t with fetch := some { f with left := rest } }

/-! ### One position, one row (R149 to R153, R155, R161) -/

/-- Elements and scales of the key (`v` 0) or value (`v` 1) of window position `j`. -/
def kvElems (d : Nat) (data : List Byte) (v j : Nat) : List Nat × List Nat :=
  let el := Cd.elemLen d
  let sl := Cd.scaleLen d
  let half := v * Cd.kCount d * (el + sl)
  let bs := (data.drop (half + j * el)).take el
  let ss := (data.drop (half + Cd.kCount d * el + j * sl)).take sl
  ((List.range (Cd.d d)).map (elemOf bs (Cd.fmtKv d)),
    if sl = 0 then List.replicate (Cd.d d / 32) 127 else ss.map BitVec.toNat)

/-- Bytes of the row's elements in the cistern: `n` packed elements of a format. -/
def State.rowElems (s : State) (b a code n : Nat) : List Nat := s.cElems b a code n

/-- Position and head row of query row `i`. -/
def Cd.r (d i : Nat) : Nat := i % Cd.qRows d

/-- Is window position `j` live for query row `i`? -/
def State.kvLive (s : State) (b d i j : Nat) : Bool :=
  let m := Cd.maskAddr d + Cd.r d i * Cd.maskStride d + j / 8
  let bit := decide (3 ≤ Cd.maskMode d) && bitAt (s.cByte b m).toNat (j % 8)
  maskLive (Cd.maskMode d) (Cd.window d) (Cd.qPos d + Cd.r d i) (Cd.kFirst d + j) bit

/-- Address of the retained score of row `i` and window position `j`. -/
def Cd.tAddr (d i j : Nat) : Nat := Cd.tAddr4k d * 4096 + i * Cd.tStride d + 4 * j

/-- The scaled scores of row `i`: FP32 encodings, none where not live; with the flags of the score product. -/
def State.rowScores (s : State) (b d i : Nat) (data : List Byte) (fromMem : Bool) : List (Option Nat × AccFlags) :=
  let q := s.rowElems b (Cd.qAddr d + i * Cd.qRowStride d) (Cd.fmtQ d) (Cd.d d)
  (List.range (Cd.kCount d)).map fun j =>
    if !s.kvLive b d i j then (none, AccFlags.none)
    else if fromMem then (some (s.devNat (Cd.tAddr d i j) 4), AccFlags.none)
    else
      let k := kvElems d data 0 j
      let r := scoreVal q k.1 k.2 (Cd.fmtQ d) (Cd.fmtKv d) (Cd.anchorS d) (Cd.ovfPolicy d) (Cd.scaleC d)
      (some r.1, r.2)

/-- The state of row `i` in the pool, from word `base`, `stride` words a row. -/
def State.rowState (s : State) (b d base stride i : Nat) : RowState :=
  RowState.ofWords ((List.range (Cd.d d + 2)).map fun k => unsignedOf (s.pWord b (base + i * stride + k)) 144)

/-- The largest scale that O's anchor takes. -/
def Cd.smax (d : Nat) : Nat := smaxOf (Cd.fmtKv d) (Cd.scaleMaxKv d)

/-- What one row of a tile computed. -/
structure CascRow where
  writes : List PWrite
  outs : List Byte
  flags : AccFlags
  rescales : Nat
  cutoffs : Nat
  empty : Nat
  bad : Bool
  deriving DecidableEq, Repr

/-- The writes of a row's final state: its words, or its outputs and statistics record (R153). A row with a poisoned read
leaves them unspecified (R97). -/
def State.rowFinish (s : State) (d i : Nat) (st : RowState) (fl : AccFlags) (rescales cutoffs : Nat) (bad : Bool) : CascRow :=
  let free (n : Nat) : List Byte := (List.range n).map fun k => Config.freeByte s.freeCtr (65536 * i + k)
  if Cd.stateOut d = 1 then
    let base := Cd.stateBase d + i * Cd.stateRowStride d
    let ws := st.words
    if bad then ⟨(List.range (Cd.d d + 2)).map fun k => .poolFree (base + k), free (18 * (Cd.d d + 2)), fl, rescales, cutoffs, 0, true⟩
    else ⟨ws.zipIdx.map fun w => .poolSet (base + w.2) (signedOf w.1 144), ws.flatMap (leBytes 18), fl, rescales, cutoffs, 0, false⟩
  else
    let es := finalRow st (Cd.fmtKv d) (Cd.smax d) (Cd.fmtO d) (Cd.sat d == 1)
    let ob := es.flatMap fun e => leBytes (fmtBits (Cd.fmtO d) / 8) e.1
    let rec_ := leBytes 32 st.record
    let oa := Cd.outAddr d + i * Cd.outRowStride d
    let sa := Cd.statsAddr d + 32 * i
    if bad then ⟨[.cistFree oa ob.length, .cistFree sa 32], free (ob.length + 32), fl, rescales, cutoffs, 0, true⟩
    else ⟨[.cist oa ob, .cist sa rec_], ob ++ rec_, es.foldl (fun a e => AccFlags.or a ⟨false, false, false, e.2⟩) fl,
      rescales, cutoffs, nat1 (!st.hasKey), false⟩

/-- What a forward tile reads for row `i` (R97). -/
def Cd.rowReads (d i : Nat) : List Need :=
  [⟨.cistern, Cd.qAddr d + i * Cd.qRowStride d, runBytes (Cd.fmtQ d) (Cd.d d)⟩] ++
    (if 3 ≤ Cd.maskMode d then [⟨.cistern, Cd.maskAddr d + Cd.r d i * Cd.maskStride d, (Cd.kCount d + 7) / 8⟩] else []) ++
    (if Cd.op d = 0 ∧ Cd.stateIn d = 1 then [⟨.pool, Cd.stateBase d + i * Cd.stateRowStride d, Cd.d d + 2⟩] else [])

/-- One row of a forward tile. -/
def State.forwardRow (s : State) (b d : Nat) (data : List Byte) (i : Nat) : CascRow :=
  let bad := s.poisoned b (Cd.rowReads d i)
  let ts := s.rowScores b d i data false
  let st0 := if Cd.stateIn d = 1 then s.rowState b d (Cd.stateBase d) (Cd.stateRowStride d) i else RowState.fresh (Cd.kFirst d) (Cd.d d)
  let ks : List KeyVal := ts.zipIdx.map fun t =>
    let v := kvElems d data 1 t.2
    ⟨t.1.1.map (valOf 0xB), v.1, v.2⟩
  let r := foldGroups (Cd.fmtKv d) (Cd.smax d) (Cd.ovfPolicy d) st0 (groups32 ks)
  let st := { r.1 with nextPos := Cd.kFirst d + Cd.kCount d }
  let fl := ts.foldl (fun a t => AccFlags.or a t.2) r.2.flags
  let keep : List PWrite := if Cd.scores d = 1 then
      [if bad then .devFree (Cd.tAddr d i 0) (4 * Cd.kCount d)
       else .dev (Cd.tAddr d i 0) (ts.flatMap fun t => leBytes 4 (t.1.getD 0xFF800000))]
    else []
  let o := s.rowFinish d i st fl r.2.rescales r.2.cutoffs bad
  { o with writes := o.writes ++ keep }

/-- R153: every row whose state was read continues at k_first. -/
def State.orderOk (s : State) (b d : Nat) : Bool :=
  Cd.stateIn d == 0 || (List.range (Cd.rows d)).all fun i =>
    (s.rowState b d (Cd.stateBase d) (Cd.stateRowStride d) i).nextPos == Cd.kFirst d

/-- What a merge reads for row `i`. -/
def Cd.mergeReads (d i : Nat) : List Need :=
  [⟨.pool, Cd.stateBase d + i * Cd.stateRowStride d, Cd.d d + 2⟩, ⟨.pool, Cd.qAddr d + i * Cd.qRowStride d, Cd.d d + 2⟩]

/-- The merges of a tile's rows (R159), none when one is out of order. -/
def State.mergeRows (s : State) (b d : Nat) : Option (List CascRow) :=
  let rs := (List.range (Cd.rows d)).map fun i =>
    (mergeRow (s.rowState b d (Cd.stateBase d) (Cd.stateRowStride d) i) (s.rowState b d (Cd.qAddr d) (Cd.qRowStride d) i)).map fun r =>
      s.rowFinish d i r.1 r.2.flags r.2.rescales r.2.cutoffs (s.poisoned b (Cd.mergeReads d i))
  if rs.all Option.isSome then some (rs.filterMap id) else none

/-! ### The backward pass (R160) -/

/-- kgroup whose second operand has a scale byte of its own for each element, folded into the exponents as in R151. -/
def kgroupEach (xs : List (Nat × Nat × Nat)) (fa fb : Nat) (A : Int) (policy : Nat) : Int × AccFlags :=
  let vs := xs.map fun x => (valOf fa x.1, valOf fb x.2.1, x.2.2)
  if vs.any fun v => v.1.isSpecial || v.2.1.isSpecial || v.2.2 == 0xFF then (nanWord, ⟨false, false, true, false⟩)
  else stage123 (vs.map fun v => (v.1.parts.1 * v.2.1.parts.1, v.1.parts.2 + v.2.1.parts.2 + ((v.2.2 : Int) - 127))) 0 A policy

/-- A row of a backward tile. -/
structure BackRow where
  q : List Nat
  dO : List Nat
  ps : List Nat
  ds : List Nat
  flags : AccFlags
  cutoffs : Nat
  bad : Bool
  deriving DecidableEq, Repr

/-- What a backward tile reads for row `i`. -/
def Cx.rowReads (d x i : Nat) : List Need :=
  Cd.rowReads d i ++
    [⟨.cistern, Cx.doAddr x + i * Cx.doRowStride x, runBytes (Cx.fmtDo x) (Cd.d d)⟩,
     ⟨.cistern, Cx.oAddr x + i * Cx.oRowStride x, runBytes (Cd.fmtO d) (Cd.d d)⟩, ⟨.cistern, Cx.statsIn x + 32 * i, 32⟩]

def State.backRow (s : State) (b d x : Nat) (data : List Byte) (i : Nat) : BackRow :=
  let dd := Cd.d d
  let q := s.rowElems b (Cd.qAddr d + i * Cd.qRowStride d) (Cd.fmtQ d) dd
  let dO := s.rowElems b (Cx.doAddr x + i * Cx.doRowStride x) (Cx.fmtDo x) dd
  let o := s.rowElems b (Cx.oAddr x + i * Cx.oRowStride x) (Cd.fmtO d) dd
  let rec_ := s.cNat b (Cx.statsIn x + 32 * i) 32
  let Adp := signedOf (Cx.anchorDp x) 10
  let ones := List.replicate (dd / 32) 127
  let D := dotFp32 dO o ones (Cx.fmtDo x) (Cd.fmtO d) Adp (Cd.ovfPolicy d)
  let ts := s.rowScores b d i data (Cd.scores d == 1)
  let cells := ts.zipIdx.map fun t =>
    match t.1.1 with
    | none => ((backP rec_ none (Cx.fmtP x)).1, 0, AccFlags.none, 0)
    | some e =>
      let p := backP rec_ (some (valOf 0xB e)) (Cx.fmtP x)
      let v := kvElems d data 1 t.2
      let dp := dotFp32 dO v.1 v.2 (Cx.fmtDo x) (Cd.fmtKv d) Adp (Cd.ovfPolicy d)
      let ds := backDs p.1 dp.1 D.1 (Cx.fmtP x) (Cx.fmtDs x) (Cx.gradScale x)
      (p.1, ds.1, AccFlags.or (AccFlags.or p.2.1 dp.2) (AccFlags.or t.1.2 ⟨false, false, false, ds.2⟩), p.2.2)
  ⟨q, dO, cells.map (·.1), cells.map (·.2.1), cells.foldl (fun a c => AccFlags.or a c.2.2.1) D.2,
    (cells.map (·.2.2.2)).foldl (· + ·) 0, s.poisoned b (Cx.rowReads d x i)⟩

/-- The sums over one head's rows for window position `j`: dV and dK words with their flags. -/
def backKv (d x : Nat) (rows : List BackRow) (j : Nat) : List (PWrite × AccFlags) :=
  (List.range (Cd.d d)).flatMap fun c =>
    (groups32 rows).flatMap fun g =>
      let v := kgroup (g.map fun r => (r.ps.getD j 0, r.dO.getD c 0)) (Cx.fmtP x) (Cx.fmtDo x) 127 127 (signedOf (Cx.anchorDv x) 10) (Cd.ovfPolicy d)
      let k := kgroup (g.map fun r => (r.ds.getD j 0, r.q.getD c 0)) (Cx.fmtDs x) (Cd.fmtQ d) 127 127 (signedOf (Cx.anchorDk x) 10) (Cd.ovfPolicy d)
      [(.poolAdd (Cx.dvBase x + j * Cd.d d + c) v.1, v.2), (.poolAdd (Cx.dkBase x + j * Cd.d d + c) k.1, k.2)]

/-- The sums over the window's positions for row `i`: dQ words with their flags. -/
def backQ (d x : Nat) (keys : List (List Nat × List Nat)) (i : Nat) (r : BackRow) : List (PWrite × AccFlags) :=
  (List.range (Cd.d d)).flatMap fun c =>
    (groups32 (r.ds.zip keys)).map fun g =>
      let v := kgroupEach (g.map fun e => (e.1, e.2.1.getD c 0, e.2.2.getD (c / 32) 127)) (Cx.fmtDs x) (Cd.fmtKv d)
        (signedOf (Cx.anchorDq x) 10) (Cd.ovfPolicy d)
      (.poolAdd (Cx.dqBase x + i * Cd.d d + c) v.1, v.2)

/-- A backward tile's rows. A row with a poisoned read leaves its dQ words, and every dV and dK word, unspecified; so does a
poisoned read of a word that it adds to. -/
def State.backRows (s : State) (b d x : Nat) (data : List Byte) : List CascRow :=
  let rs := (List.range (Cd.rows d)).map (s.backRow b d x data)
  let keys := (List.range (Cd.kCount d)).map (kvElems d data 0)
  let n := Cd.kCount d * Cd.d d
  let anyBad := rs.any (·.bad) || s.badP b (Cx.dvBase x) n || s.badP b (Cx.dkBase x) n
  let kv : List (PWrite × AccFlags) :=
    if anyBad then (List.range n).flatMap fun k => [(.poolFree (Cx.dvBase x + k), AccFlags.none), (.poolFree (Cx.dkBase x + k), AccFlags.none)]
    else (List.range (Cd.g d)).flatMap fun h =>
      let mine := (rs.drop (h * Cd.qRows d)).take (Cd.qRows d)
      (List.range (Cd.kCount d)).flatMap (backKv d x mine)
  ⟨kv.map (·.1), [], kv.foldl (fun a w => AccFlags.or a w.2) AccFlags.none, 0, 0, 0, anyBad⟩ ::
    rs.zipIdx.map fun r =>
      if r.1.bad || s.badP b (Cx.dqBase x + r.2 * Cd.d d) (Cd.d d) then ⟨(List.range (Cd.d d)).map fun c => .poolFree (Cx.dqBase x + r.2 * Cd.d d + c), [], r.1.flags, 0, r.1.cutoffs, 0, true⟩
      else
        let ws := backQ d x keys r.2 r.1
        ⟨ws.map (·.1), [], ws.foldl (fun a w => AccFlags.or a w.2) r.1.flags, 0, r.1.cutoffs, 0, false⟩

/-! ### Tiles -/

/-- The outcomes of rows computed now, and their pending writes, join command `c`, which has just begun. -/
def State.cascadeRun (s : State) (t : Nat) (c : Cmd) (rows : List CascRow) (reads : List Need) (extra : List Nat) : State :=
  let b := c.target
  let sum (f : CascRow → Nat) : Nat := (rows.map f).foldl (· + ·) 0
  let bad := rows.any (·.bad)
  let fl := rows.foldl (fun a r => AccFlags.or a r.flags) AccFlags.none
  let fl := fl.or (if bad then .ofNat (Config.freeNat s.freeCtr % 16) else .none)
  let codes := extra ++ (if bad then [stMemPoison] else []) ++ (if Cd.ovfPolicy c.cd == 2 && fl.above then [stAnchorOverflow] else [])
  let s := s.eccReads b (reads ++ accReads (if Cd.op c.cd = 2 then 1 else 0) (rows.flatMap (·.writes)))
  let s := { s with freeCtr := s.freeCtr + 1 }
  let s := ((s.bump Fld.cascadeRescalesRescales t (sum (·.rescales))).bump Fld.cascadeCutoffsCutoffs t (sum (·.cutoffs))).bump
    Fld.cascadeEmptyRowsEmptyRows t (sum (·.empty))
  let ws := rows.flatMap (·.writes)
  let s := s.modCmd c.id fun k => { k with
    phase := .running, writes := k.writes ++ ws, outs := rows.flatMap (·.outs), flags := k.flags.or fl, outcomes := k.outcomes ++ codes }
  s.beginSpans b c.id (reads.filterMap (Need.span c.id) ++ ws.filterMap (PWrite.span c.id))

/-- A tile of another slice than the previous one finds buffers and halves cleared, but for halves of tiles that wait (R147). -/
def State.cascadeClearFor (s : State) (t sl : Nat) : State :=
  let x := s.cascade t
  let keep (h : Half) : Half := if s.halfFree h then {} else h
  s.setCascade t (if x.lastSlice = sl then x else { x with half0 := keep x.half0, half1 := keep x.half1, lastSlice := sl })

/-- A cascade tile starts. -/
def State.cascadeStart (s : State) (t : Nat) (c : Cmd) (poison : Bool) : State :=
  let (s, _) := s.takeStart (192 + t) 4
  let d := c.cd
  let b := c.target
  let s := s.cascadeClearFor t c.slice
  let s := if Cd.op d = 1 then s.setCascade t { s.cascade t with lastBasin := b % 8 } else s
  let x := s.cascade t
  let data := if x.half0.cmd = c.id then x.half0.data else x.half1.data
  let s := ((s.wr Fld.cascadeTileTagTileTag t (Cd.tileTag d)).wr Fld.cascadeStatusBasin t (b % 8)).wr Fld.cascadeStatusOp t (Cd.op d)
  let rows := List.range (Cd.rows d)
  let reads := rows.flatMap (if Cd.op d = 1 then Cd.mergeReads d else if Cd.op d = 0 then Cd.rowReads d else Cx.rowReads d c.cx)
  let s := (s.beginCmd c.id).raceReads b c.id (reads.filterMap (Need.span c.id))
  let order (s : State) : State := match s.cmd? c.id with
    | some c => (s.cascadeDropFetch t c.id).finish c stCascadeOrder
    | none => s
  if Cd.op d = 1 then
    match s.mergeRows b d with
    | none => order s
    | some rs => s.cascadeRun t c rs reads []
  else if Cd.op d = 0 then
    if !s.orderOk b d then order s else
    let down := Cd.scores d == 1 && s.devFenced (Cd.tAddr d 0 0) (Cd.rows d * Cd.tStride d)
    let s := s.modCmd c.id fun k => { k with hbmB := k.hbmB + if Cd.scores d = 1 then flitBytes (Cd.tAddr d 0 0) (Cd.rows d * Cd.tStride d) else 0 }
    s.cascadeRun t c (rows.map (s.forwardRow b d data)) reads (if down then [stMemFenced] else [])
  else
    let kept := Cd.scores d == 1
    let down := kept && s.devFenced (Cd.tAddr d 0 0) (Cd.rows d * Cd.tStride d)
    let s := s.modCmd c.id fun k => { k with hbmB := k.hbmB + if kept then flitBytes (Cd.tAddr d 0 0) (Cd.rows d * Cd.tStride d) else 0 }
    let rs := s.backRows b d c.cx data
    let lost := kept && (poison || down)
    let rs := if lost then rs.map fun r => { r with writes := r.writes.map PWrite.abandoned, bad := poison } else rs
    s.cascadeRun t c rs reads (if down then [stMemFenced] else [])

/-- The tile that starts next, in the order of turns (R147): the tiles that the halves hold have had theirs, the one of the half
filled last after the other, and start once their windows are in; else a merge whose turn is next. -/
def State.cascadeToStart (s : State) (t : Nat) : Option Cmd :=
  let x := s.cascade t
  let held (i : Nat) : Option Cmd := (s.cascadeTiles t).find? fun c =>
    c.id == (x.half i).cmd && c.phase != .queued && s.mayStart c.slice c.target
  match [held (1 - x.lastHalf), held x.lastHalf].filterMap id with
  | c :: _ => if c.phase = .loaded then some c else none
  | [] => (s.cascadeNext t).filter fun c => Cd.op c.cd == 1

def execCascadeTileStart (dt t : Nat) (ups : List Upset) (poison : Bool) (s : State) : Host.Outcome State Fault Refusal :=
  enter (.cascadeTileStart dt t ups poison) dt s fun s =>
    let s := s.upsets ups
    s.whenever ((s.cascadeRunning t).isNone && !s.on Fld.terraceStateCascadeFenced t) fun s =>
      s.forSome (s.cascadeToStart t) fun s c => s.cascadeStart t c poison

/-- A residue mismatch in a cascade tile: array, row and pool word (R164). -/
def State.cascadeMismatch (s : State) (t arr row w : Nat) : State :=
  ((s.reportBits (unitTerrace t 3) 2 [(0, 8, row), (24, 18, w)]).bumpSat Fld.cascadeResidueMismatchCount t).wr Fld.cascadeResidueLastArray t arr

/-- The half of a tile that is over. -/
def State.cascadeDropHalf (s : State) (t id : Nat) : State :=
  let x := s.cascade t
  let clr (h : Half) : Half := if h.cmd = id then {} else h
  s.setCascade t { x with half0 := clr x.half0, half1 := clr x.half1 }

/-- A residue mismatch in array `x.1` and row `x.2.1` of a cascade tile can occur. -/
def cascadeCompares (d : Nat) (x : Nat × Nat × Nat) : Bool := decide (x.1 < 2 ∧ x.2.1 < Cd.rows d)

/-- The last write of a cascade tile. -/
def State.cascadeEnd (s : State) (t : Nat) (c : Cmd) (bad : List (Nat × Nat × Nat)) (cyc : Nat) : State :=
  let bad := bad.filter (cascadeCompares c.cd)
  let s := s.each bad fun s x => s.cascadeMismatch t x.1 x.2.1 x.2.2
  let ws := if bad.isEmpty then c.writes else c.writes.map PWrite.abandoned
  let met := c.outcomes ++ (if bad.isEmpty then [] else [stResidueMismatch])
  let (s, failed) := s.doWrites c.target ws
  let met := met ++ (if failed then [stMemPoison] else [])
  let s := s.bump Fld.cascadeBusyCyclesBusyCycles t cyc
  let s := s.finish { c with writes := [], outcomes := met, cyc := cyc } (tileStatus met)
  (s.cascadeDropHalf t c.id).engineEnd (192 + t)

def execCascadeTileEnd (dt t : Nat) (bad : List (Nat × Nat × Nat)) (cyc : Nat) (s : State) : Host.Outcome State Fault Refusal :=
  enter (.cascadeTileEnd dt t bad cyc) dt s fun s =>
    s.forSome (s.cascadeRunning t) fun s c => s.cascadeEnd t c bad cyc

end Sys2Proof.Machine
end

