-- ==== Sys2Proof/Machine/Gating.lean ====
section
/-! DEFINITION. Saved jobs (R260 to R264), gating and waking of basins (R25, R26, R406, R407), and fences at the items (R18,
R19, R382). -/
namespace Sys2Proof.Machine

/-! ### Saved jobs -/

def State.saved? (s : State) (sl b : Nat) : Option SavedJob := Tbl.find s.saves (sl * 64 + b)

/-- A saved job ends: its entries get replies, its task its status; nothing of it is kept (R264). -/
def State.endSaved (s : State) (sl b code : Nat) : State :=
  let job := s.saved? sl b
  let s := { s with saves := Tbl.del s.saves (sl * 64 + b) }
  let s := s.setRegBit .schedSaved sl b false
  let s := s.each (s.cmds.filter fun c => c.slice == sl && c.target == b && c.phase == .saved && !c.begun) fun s c => s.finishNow c code
  match job with
  | some j => match j.task with
    | some t => match s.cmd? t.cmd with
      | some c => s.finishCore { c with cyc := t.cyc } code
      | none => s
    | none => s
  | none => s

/-- The saved jobs of basin `b` end. -/
def State.endSavedAll (s : State) (b code : Nat) : State :=
  s.each ((s.saves.map (·.1)).filter fun k => k % 64 == b) fun s k => s.endSaved (k / 64) b code

/-! ### Is the basin idle? -/

/-- Nothing executes in the basin, nothing zeroes it, no tenant switch is in progress, no transfer touches it. -/
def State.idle (s : State) (b : Nat) : Bool :=
  !s.busy b && !s.zeroing b && (s.basin b).switch.isNone && !s.copiesIn b && !s.windowOpen b

/-! ### Gating and waking -/

/-- The three places that show a basin's gating. -/
def State.showGated (s : State) (b : Nat) (v : Bool) : State :=
  ((s.wr Fld.basinStateGated b (nat1 v)).setRegBit .terraceState (b / 8) (8 + b % 8) v).setRegBit .basinGated 0 b v

/-- Registers of the windows of a basin that lose their values when it is gated: all but those of its agent (R41). -/
def unitRegBasin (n : RegName) (i : Nat) : Option Nat :=
  match n with
  | .jetStatus | .jetTileTag | .jetResidue | .jetStreamCycles | .jetBubbleCycles | .jetReloads => some (i / 2)
  | .runnelStatus | .runnelTag | .runnelRows | .runnelProRows | .runnelDropped | .runnelOvf => some i
  | .rillStatus | .rillTileTag | .rillResidue | .rillComputeCycles | .rillFetchWait | .rillFetchBytes | .rillReuses
  | .rillLaneReloads => some i
  | .wcLimit | .wcLease | .wcNext | .wcDoneCount | .wcReissues | .wcHeld | .issueStatus => some (i % 64)
  | .semValue | .semHolder => some (i / 32)
  | .coreStatus | .corePc | .coreCause | .coreInstret => some (i / 8 % 64)
  | _ => none

/-- Registers of a basin's agent window. -/
def agentRegBasin (n : RegName) (i : Nat) : Option Nat :=
  match n with
  | .basinState | .cisternPart | .cisternStalls | .cisternSteals | .memEcc | .gateStatus | .gatePeriod | .gateGuard
  | .gateCount | .gateBase | .gateNextOpen | .gateOverruns | .gateExtensions | .arbStatus | .arbTaken | .yields => some i
  | .gateEntry => some (i / 64)
  | _ => none

/-- The engines of basin `b` have not run: their next starts are from idle. -/
def State.forgetRuns (s : State) (b : Nat) : State :=
  let mine (e : Nat) : Bool := engineBasin e == some b
  { s with pwr := { s.pwr with
      lastRun := s.pwr.lastRun.filter fun x => !mine x.1
      ramps := s.pwr.ramps.filter fun e => !mine e
      waits := s.pwr.waits.filter fun w => !mine w.engine
      grants := s.pwr.grants.filter fun e => !mine e } }

/-- Is training over for both controllers of a terrace (R418)? -/
def State.trained (s : State) (t : Nat) : Bool := 2 ≤ s.rd Fld.hbmTrainState0 t && 2 ≤ s.rd Fld.hbmTrainState1 t

/-- The basin is the target of a reset in progress, or lies in the terrace that is (R419). -/
def State.beingReset (s : State) (b : Nat) : Bool :=
  match s.boot.resetting with
  | some (2, t) => b / 8 == t
  | some (3, x) => b == x
  | _ => false

/-- A queued wake of basin `b` may begin its ramp. -/
def State.mayRamp (s : State) (b : Nat) : Bool :=
  let ramping := (List.range 64).filter fun x => (s.basin x).wakeStage == 2
  s.gated b && !(s.basin b).gateReq && s.trained (b / 8) && !s.beingReset b &&
    ramping.all (fun x => x / 8 != b / 8) && ramping.length < s.rd Fld.pwrCtrlWakePar

/-- Queued wakes begin their ramps, in request order, where they may (R407). -/
def State.startRamps (s : State) : State :=
  s.each s.pwr.wakeQ fun s b =>
    if s.mayRamp b then
      ({ s with pwr := { s.pwr with wakeQ := s.pwr.wakeQ.filter (· != b) } }).setBasin b { s.basin b with wakeStage := 2 }
    else s

/-- A wake of basin `b` is requested (R407). -/
def State.requestWake (s : State) (b : Nat) : State := (s.queueWake b).startRamps

/-- The cistern and the pool of basin `b` hold undefined contents (R25, R97). -/
def State.loseBasin (s : State) (b : Nat) : State :=
  let s := (s.cZero b 0 cisternBytes).pZero b 0 poolWords
  (s.cFree b 0 cisternBytes).pFree b 0 poolWords

/-- Basin `b` is gated: everything it holds beside its agent's registers is lost (R25). The shadows of the register pairs of its
unit windows are empty at the wake, like the registers themselves (DEDUCED, log entry 14). -/
def State.gateNow (s : State) (b : Nat) : State :=
  let s := (s.clearEngines b).forgetRuns b
  let s := s.resetRegs fun n i => unitRegBasin n i == some b
  let s := s.loseBasin b
  let s := (s.showGated b true).setBasin b { s.basin b with gateReq := false, leases := [], waiters := waitsLeft (s.basin b).waiters, spans := [] }
  s.startRamps

/-- A gate request acts: it is noted, and takes effect soon (R406). -/
def State.gateLater (s : State) (b : Nat) : State := s.setBasin b { s.basin b with gateReq := true }

/-- May basin `b` be gated at the driver's wish (R406)? -/
def State.mayGate (s : State) (b : Nat) : Bool :=
  s.idle b && !s.reserved b && !s.gateListed b && (List.range 128).all fun sl => !s.regBit .schedSaved sl b

/-! ### Items (R381, R382, Table 18-3) -/

/-- An item: unit identifier + 2^16 x (sub + 64 x sub_kind + 256 x engine class). -/
def itemUnit (i : Nat) : Nat := i % 2 ^ 16
def itemSub (i : Nat) : Nat := i / 2 ^ 16 % 64
def itemClass (i : Nat) : Nat := i / 2 ^ 24 % 4
def mkItem (unit sub kind cls : Nat) : Nat := unit % 2 ^ 16 + sub % 64 * 2 ^ 16 + kind % 4 * 2 ^ 22 + cls % 4 * 2 ^ 24

/-- Instances of a wellhead engine class: decoders, encoders, polar units, FFT/PRACH units. -/
def classSize (c : Nat) : Nat := if c = 0 then 32 else if c = 2 then 8 else 16

/-- The item that a unit identifier with a sub-index names, and its kind; none for what cannot be fenced. Unused parts of
the sub-index are dropped. -/
def fencible (unit sub subKind cls : Nat) : Option (Nat × Nat) :=
  let u := unit % 128
  let plain (k : Nat) : Option (Nat × Nat) := some (unit, k)
  if unit < 8192 then
    if u < 2 then plain 0 else if u = 2 then plain 1 else if u = 3 then plain 2
    else if u < 6 then plain 6 else if u = 6 then plain 4 else if u = 7 then plain 5
    else if u < 16 then plain 3 else if u = 16 then plain 7 else none
  else if unit < 16384 then
    if unit / 128 % 8 ≠ 0 then none
    else if u = 0 then plain 8
    else if u = 1 ∨ u = 2 then (if subKind = 1 then some (mkItem unit sub 1 0, 9) else plain 10)
    else if u = 3 then plain 11 else if u = 4 then plain 12 else none
  else if unit < 24576 then
    let k := unit - 16384
    if 4 ≤ k ∧ k < 8 then plain 13
    else if 8 ≤ k ∧ k < 16 then (if subKind = 2 ∧ sub < 4 then some (mkItem unit sub 2 0, 14) else none)
    else if k = 3 then (if subKind = 3 ∧ sub < classSize cls then some (mkItem unit sub 3 cls, 15) else none)
    else none
  else none

/-- The item that a report names (R382). -/
def reportItem (r : Report) : Option (Nat × Nat) :=
  let bits (lo w : Nat) : Nat := slice r.synd lo w
  if r.unit = 16387 then (if bits 28 4 = 1 then fencible r.unit (bits 16 5) 3 (bits 24 2) else none)
  else if 8192 ≤ r.unit ∧ r.unit < 16384 ∧ (r.unit % 128 = 1 ∨ r.unit % 128 = 2) then
    (if bits 6 1 = 0 then fencible r.unit (bits 0 6) 1 0 else fencible r.unit 0 0 0)
  else if 16392 ≤ r.unit ∧ r.unit < 16400 then fencible r.unit (bits 0 2) 2 0
  else fencible r.unit 0 0 0

/-- Kind of an item. -/
def itemKind (i : Nat) : Option Nat := (fencible (itemUnit i) (itemSub i) (i / 2 ^ 22 % 4) (itemClass i)).map (·.2)

/-- Basin and terrace of an item. -/
def unitBasinOf (unit : Nat) : Nat := unit / 1024 % 8 * 8 + unit / 128 % 8
def unitTerraceOf (unit : Nat) : Nat := unit / 1024 % 8

def State.item (s : State) (i : Nat) : ItemSt := Tbl.get {} s.spw.items i
def State.setItem (s : State) (i : Nat) (x : ItemSt) : State := { s with spw := { s.spw with items := Tbl.set {} s.spw.items i x } }

/-- The item is fenced, and the fence has taken effect. -/
def State.itemFenced (s : State) (i : Nat) : Bool := (s.item i).fence != 0 && !(s.item i).effect

/-! ### What fences show (Table 1-5, R34) -/

/-- A fence on one of these takes the whole terrace: mesh, cascade, agent. -/
def State.terraceFencedBy (s : State) (t : Nat) : Bool := [0, 3, 4].any fun u => s.itemFenced (unitTerrace t u)

/-- A fence on one of these takes the whole basin: work counter, semaphores, cistern, pool, agent. -/
def State.basinFencedBy (s : State) (b : Nat) : Bool :=
  s.terraceFencedBy (b / 8) || [4, 5, 6, 7, 16].any fun u => s.itemFenced (unitBasin b u)

def State.showBasinFence (s : State) (b : Nat) : State :=
  let v := s.basinFencedBy b
  (s.wr Fld.basinStateFenced b (nat1 v)).setRegBit .terraceState (b / 8) (b % 8) v

def State.showTerraceFence (s : State) (t : Nat) : State :=
  let v := nat1 (s.terraceFencedBy t)
  let s := (s.wr Fld.terraceStateTerraceFenced t v).wr Fld.terraceStateCascadeFenced t v
  s.each (List.range 8) fun s k => s.showBasinFence (8 * t + k)

/-- Octet `o` of terrace `t` is withdrawn while a pseudo-channel of it or its controller is fenced. -/
def State.showOctet (s : State) (t o : Nat) : State :=
  let u := unitTerrace t (1 + o / 8)
  s.setRegBit .hbmWithdrawn t o (s.itemFenced u || (List.range 8).any fun k => s.itemFenced (mkItem u (o % 8 * 8 + k) 1 0))

/-- Aqueduct port `p` cannot have two lanes in service: of its four lanes too few are unfenced, or of those with which its link
came up (Table 16-1). -/
def State.lanesShort (s : State) (p : Nat) : Bool :=
  let inService (l : Nat) : Bool := !s.itemFenced (mkItem (unitHub (8 + p)) l 2 0) &&
    (!s.on Fld.aqpStatusLinkUp p || bitAt (s.rd Fld.aqpStatusLanesUp p) l)
  decide (((List.range 4).filter inService).length ≤ 1)

/-- Lanes of aqueduct port `p` in service; with 0 or 1 of them the port is fenced. -/
def State.showLanes (s : State) (p : Nat) : State :=
  let bad := (List.range 4).filter fun l => s.itemFenced (mkItem (unitHub (8 + p)) l 2 0)
  let s := s.each bad fun s l => s.setRegBit .aqpStatus p (1 + l) false
  (s.wr Fld.aqpStatusFenced p (nat1 (s.lanesShort p))).watchRoutes

/-- The register bit of a wellhead engine instance. -/
def engineBit (cls i : Nat) : RegName × Nat :=
  match cls with
  | 0 => (.engineFencedDec, i)
  | 1 => (.engineFencedEnc, i)
  | 2 => (.engineFencedEnc, 16 + i)
  | _ => (.engineFencedFft, i)

/-- The level-state registers follow the fence of item `i`. -/
def State.showItem (s : State) (i : Nat) : State :=
  let unit := itemUnit i
  let u := unit % 128
  match itemKind i with
  | some 0 | some 1 | some 2 | some 3 => s.setRegBit .basinState (unitBasinOf unit) (fenceBit u) (s.itemFenced i)
  | some 4 | some 5 | some 6 | some 7 => s.showBasinFence (unitBasinOf unit)
  | some 8 | some 11 | some 12 => s.showTerraceFence (unitTerraceOf unit)
  | some 9 => s.showOctet (unitTerraceOf unit) ((u - 1) * 8 + itemSub i / 8)
  | some 10 =>
    let t := unitTerraceOf unit
    let s := s.each (List.range 8) fun s k => s.showOctet t ((u - 1) * 8 + k)
    if s.itemFenced i then
      (if u = 1 then (s.wr Fld.terraceStateHbm0Ready t 0).wr Fld.hbmTrainState0 t 3
       else (s.wr Fld.terraceStateHbm1Ready t 0).wr Fld.hbmTrainState1 t 3)
    else if u = 1 ∧ s.rd Fld.hbmTrainState0 t = 3 then (s.wr Fld.terraceStateHbm0Ready t 1).wr Fld.hbmTrainState0 t 2
    else if u = 2 ∧ s.rd Fld.hbmTrainState1 t = 3 then (s.wr Fld.terraceStateHbm1Ready t 1).wr Fld.hbmTrainState1 t 2
    else s
  | some 13 => s.wr Fld.ethStatusFenced (unit - 16388) (nat1 (s.itemFenced i))
  | some 14 => s.showLanes (unit - 16392)
  | some 15 => let r := engineBit (itemClass i) (itemSub i); s.setRegBit r.1 0 r.2 (s.itemFenced i)
  | _ => s

/-! ### The effect of a fence on work (R18, R19, R264) -/

/-- The basin that an operation writes to. -/
def RadioOp.basin (o : RadioOp) : Nat :=
  match o.kind with
  | 8 | 9 => o.inst
  | 2 => Sys2Proof.slice o.params 280 6
  | 5 => Sys2Proof.slice o.params 88 6
  | _ => Sys2Proof.slice o.params 24 6

/-- A basin operation: JET or SPOUT. -/
def RadioOp.inBasin (o : RadioOp) : Bool := o.kind == 8 || o.kind == 9

/-- The cycles of a JET operation that does not reach its end: some of its rows have streamed (R78). -/
def State.countPartialOp (s : State) (o : RadioOp) : State :=
  if o.kind ≠ 8 then s else
  let (n, s) := s.free
  let i := 2 * o.inst + o.jet
  let d := o.tile
  s.bump Fld.jetStreamCyclesStreamCycles i (Jd.cpr d * (n % (min (Jd.rows d) (s.cyclesIn i (s.now - o.start) / Jd.cpr d) + 1)))

/-- An operation as it waits again. -/
def RadioOp.again (o : RadioOp) : RadioOp := { o with st := 0, poison := false, writes := [], records := [], flags := .none }

/-- The number of an operation in its plan's spans no longer accesses basin `b`; its unit has stopped. -/
def State.opStopped (s : State) (p : Plan) (i : Nat) (o : RadioOp) : State :=
  let s := s.endSpans o.basin (opSpanId p.cmd i)
  if !o.inBasin then s else
  let s := s.setBasin o.inst { s.basin o.inst with radioWork := (s.basin o.inst).radioWork - 1 }
  if o.kind = 8 then s.ranUntilNow (2 * o.inst + o.jet)
  else s.each [o.inst, 64 + o.inst] fun s q => match (s.basin q).task with
    | some t => if t.radioOp.isSome then s.taskEnd q stUnitFenced else s
    | none => s

/-- Executing radio operations of which `q` holds are abandoned (R19); they wait again (R298 step 1). -/
def State.abandonRadio (s : State) (q : RadioOp → Bool) : State :=
  let lost (o : RadioOp) : Bool := o.st == 1 && q o
  let s := s.each s.radio.plans fun s p => s.each p.ops.zipIdx fun s x =>
    if lost x.1 then (((s.doWrites x.1.basin (x.1.writes.map PWrite.abandoned)).1).countPartialOp x.1).opStopped p x.2 x.1 else s
  { s with radio := { s.radio with plans := s.radio.plans.map fun p =>
      { p with ops := p.ops.map fun o => if lost o then o.again else o } } }

/-- The same for operations of basin `b` of which `p` holds. -/
def State.abandonOps (s : State) (b : Nat) (p : RadioOp → Bool) : State := s.abandonRadio fun o => o.inBasin && o.inst == b && p o

/-- The engine class of ENGINE_SPARE that a kind of operation uses. -/
def kindClass (k : Nat) : Option Nat :=
  match k with
  | 1 => some 0
  | 2 => some 1
  | 3 | 4 => some 2
  | 5 | 6 | 7 => some 3
  | _ => none

/-- A tenant switch in progress ends without effect: both jobs are over (R264). -/
def State.endSwitch (s : State) (b code : Nat) : State :=
  match (s.basin b).switch with
  | none => s
  | some w =>
    let s := (s.endSaved (s.owner b) b code).endSaved w.incoming b code
    let z := match (s.basin b).zeroing with | some z => z.kind == 1 | none => false
    let s := if z then s.wr Fld.basinStateZeroing b (nat1 (s.basin b).parting.isSome) else s
    (s.setBasin b { s.basin b with switch := none, zeroing := if z then none else (s.basin b).zeroing }).wr Fld.gateStatusSwitching b 0

/-- A fence of the whole basin takes effect. -/
def State.stopBasin (s : State) (b : Nat) : State :=
  let s := (s.endSwitch b stUnitFenced).endSavedAll b stUnitFenced
  let s := (s.endWork b (fun _ => true) stUnitFenced).taskEnd b stUnitFenced
  let s := s.abandonOps b fun _ => true
  let s := ((s.clearBanks b 0).clearBanks b 1).clearRill b
  s.each (s.cmds.filter fun c => c.phase == .running && (c.opcode == 0x10 || c.opcode == 0x11) &&
      ((c.dst.space < 2 && c.dst.basin == b) || (c.opcode == 0x10 && c.src.space < 2 && c.src.basin == b))) fun s c =>
    let r := s.copyStopped c
    r.1.finish r.2 stUnitFenced

/-- A fence of unit `u` of basin `b` takes effect: what names the unit and has not started completes; what the unit
executes is abandoned. A jet or a rill executes its tile up to the hand-over to the epilogue lane; the runnel executes
passes, epilogues, and the lists of running tiles. -/
def State.stopUnit (s : State) (b u : Nat) : State :=
  let s := s.each ((s.waitingIn b).filter fun c => c.phase != .issued && c.units.contains u) fun s c => s.finishNow c stUnitFenced
  let runs (c : Cmd) : Bool := c.units.contains u && (u == 3 || c.phase != .epilogue)
  let s := s.each ((s.executing b).filter runs) fun s c => s.abandon c stUnitFenced
  let names := match (s.basin b).task with
    | some t => match s.cmd? t.cmd with
      | some c => c.units.contains u
      | none => false
    | none => false
  let s := if names then s.taskEnd b stUnitFenced else s
  let s := if u < 2 then s.clearBanks b u else if u = 2 then s.clearRill b else s
  s.abandonOps b fun o =>
    if o.kind = 8 then u == o.jet || (u == 3 && Jd.chainAddr o.params != 0)
    else 8 ≤ u && bitAt o.params (64 + u - 8)

/-- A fence of the cascade of terrace `t` takes effect. -/
def State.stopCascade (s : State) (t : Nat) : State :=
  let s := s.each (s.cascadeRunning t).toList fun s c => s.abandon c stUnitFenced
  let s := s.each (s.cascadeTiles t) fun s c => (s.cascadeDropFetch t c.id).finishNow c stUnitFenced
  s.setCascade t { s.cascade t with half0 := {}, half1 := {}, fetch := none }

/-- These agents count as silent no longer (R29). -/
def State.unsilence (s : State) (ks : List Nat) : State :=
  { s with spw := { s.spw with silent := s.spw.silent.filter fun k => !ks.contains k } }

/-- The fence of item `i` takes effect. -/
def State.fenceEffect (s : State) (i : Nat) : State :=
  let unit := itemUnit i
  let s := (s.setItem i { s.item i with effect := false }).showItem i
  match itemKind i with
  | some 0 | some 1 | some 2 | some 3 => s.stopUnit (unitBasinOf unit) (unit % 128)
  | some 4 | some 5 | some 6 | some 7 => (s.stopBasin (unitBasinOf unit)).unsilence [unitBasinOf unit]
  | some 8 | some 11 | some 12 =>
    let t := unitTerraceOf unit
    let s := (s.each (List.range 8) fun s k => s.stopBasin (8 * t + k)).stopCascade t
    s.unsilence ((64 + t) :: (List.range 8).map (8 * t + ·))
  | some 15 => s.abandonRadio fun o => kindClass o.kind == some (itemClass i) && o.inst == itemSub i
  | _ => s

/-! ### Setting and clearing (R383 to R385) -/

def itemOfBasin (b i : Nat) : Bool := itemUnit i < 8192 && unitBasinOf (itemUnit i) == b
def itemOfTerrace (t i : Nat) : Bool := itemUnit i < 16384 && unitTerraceOf (itemUnit i) == t

/-- Items whose fence a reset of basins clears, and which are tested at the next wake (R420): those of basins and terraces. -/
def retestable (i : Nat) : Bool :=
  match itemKind i with
  | some k => k ≤ 8 || k == 11 || k == 12
  | none => false

/-- Item `i` lies in the target of a reset that was accepted at the present edge: the reset clears a fence of this edge too (R419). -/
def State.justReset (s : State) (i : Nat) : Bool :=
  s.boot.resetAt == s.now && match s.boot.resetting with
    | some (2, t) => itemOfTerrace t i
    | some (3, b) => itemOfBasin b i
    | _ => false

/-- A fence that falls on the edge of a reset is cleared by it, and its item is tested at the next wake (R419, R420). -/
def State.resetClears (s : State) (i : Nat) : State :=
  let s := s.setItem i { recoveries := (s.item i).recoveries }
  if retestable i && !s.spw.retest.contains i then { s with spw := { s.spw with retest := i :: s.spw.retest } } else s

/-- A fence is decided: by the spillway (1) or the driver (2). It takes effect later. A quiet-window test of an item that the
driver fences is over: a driver-set fence is never cleared automatically (R385). -/
def State.fenceDecide (s : State) (i kind by_ : Nat) : State :=
  let x := s.item i
  let s := s.setItem i { x with
    fence := by_, effect := x.effect || x.fence == 0, since := s.now, permanent := false
    testing := if by_ = 2 && x.testing == 1 then 0 else x.testing }
  let s := s.event (itemUnit i) (if by_ = 2 then 2 else 1) kind (i / 2 ^ 16)
  let s := if x.fence = 0 then s.health 3 else s
  if s.justReset i then s.resetClears i else s

/-- The fence is recorded as permanent once the recovery count has reached its limit (R385). -/
def State.notePermanent (s : State) (i kind : Nat) : State :=
  let x := s.item i
  if x.fence = 1 ∧ !x.permanent ∧ s.on Fld.policyRecoverEn kind ∧ s.rd Fld.policyRecoverLimit kind ≤ x.tests then
    (s.setItem i { x with permanent := true }).event (itemUnit i) 11 kind (i / 2 ^ 16)
  else s

/-- A recovery test of item `i` fails (silt kind 4). -/
def State.testFailed (s : State) (i kind : Nat) : State := (s.event (itemUnit i) 4 kind (i / 2 ^ 16)).health 4

/-- The addresses of octet `o` of terrace `t` hold undefined contents. -/
def State.forgetOctet (s : State) (t o : Nat) : State :=
  s.each ((List.range 65536).filter fun r => hbmOctet (r * 2 ^ 21) == o) fun s r =>
    s.devForget (t * 2 ^ 37 + r * 2 ^ 21) (t * 2 ^ 37 + (r + 1) * 2 ^ 21)

/-- Engines of a basin enter service with invalid banks, halves and lane stores. -/
def State.freshUnits (s : State) (b : Nat) : State := ((s.clearBanks b 0).clearBanks b 1).clearRill b

/-- A test of the cistern or the pool of basin `b` has passed: it is zeroed at the end (Table 18-5). -/
def State.zeroTested (s : State) (b kind : Nat) : State :=
  if kind = 4 then s.cZero b 0 cisternBytes else s.pZero b 0 poolWords

/-- The basin agent's test of basin `b`, with the tests of its units, has passed (Table 18-5). -/
def State.basinTested (s : State) (b : Nat) : State := ((s.zeroRegion b true).clearCounter b).freshUnits b

/-- A fence is cleared after a passed test; the item enters service as its test (Table 18-5) leaves it. -/
def State.fenceClear (s : State) (i kind : Nat) : State :=
  let unit := itemUnit i
  let b := unitBasinOf unit
  let basins := (List.range 8).map (8 * unitTerraceOf unit + ·)
  let s := s.setItem i { s.item i with fence := 0, effect := false, permanent := false, testing := 0, named := false }
  let s := (s.event unit 3 kind (i / 2 ^ 16)).showItem i
  match kind with
  | 0 => s.clearBanks b (unit % 128)
  | 1 => s.clearRill b
  | 4 | 5 => (s.zeroTested b kind).freshUnits b
  | 6 => ((s.zeroSems b 0 32).clearCounter b).freshUnits b
  | 7 => s.basinTested b
  | 8 | 11 => s.each basins State.freshUnits
  | 12 => s.each basins fun s b => if s.basinFencedBy b then s else s.basinTested b
  | 9 => s.forgetOctet (unitTerraceOf unit) ((unit % 128 - 1) * 8 + itemSub i / 8)
  | 10 => s.each (List.range 8) fun s k => s.forgetOctet (unitTerraceOf unit) ((unit % 128 - 1) * 8 + k)
  | 14 => if s.on Fld.aqpStatusLinkUp (unit - 16392) then s.setRegBit .aqpStatus (unit - 16392) (1 + itemSub i) true else s
  | _ => s

/-- The basins that a fence of this item takes with it (Table 1-5). -/
def itemBasins (i kind : Nat) : List Nat :=
  let unit := itemUnit i
  match kind with
  | 4 | 5 | 6 | 7 => [unitBasinOf unit]
  | 8 | 11 | 12 => (List.range 8).map (8 * unitTerraceOf unit + ·)
  | _ => []

/-- A recovery test of item `i` has failed: the march tests of a cistern and a pool leave contents that nothing zeroed (Table 18-5;
DEDUCED, log entry 50: they are undefined). -/
def State.testLeaves (s : State) (i kind : Nat) : State :=
  if kind = 4 || kind = 5 || kind = 7 || kind = 12 then
    s.each (itemBasins i kind) fun s b => if kind = 12 && [4, 5, 6, 7, 16].any (fun u => s.itemFenced (unitBasin b u)) then s else s.loseBasin b
  else s

/-- A recovery test begins; gated basins that the item's fence takes are woken first. -/
def State.testBegin (s : State) (i kind by_ : Nat) : State :=
  let s := s.setItem i { s.item i with testing := by_, named := false, began := s.now }
  (s.each (itemBasins i kind) fun s b => if s.gated b then s.queueWake b else s).startRamps

/-- A test that concerns basin `b` is under way. -/
def State.underTest (s : State) (b : Nat) : Bool :=
  s.spw.items.any fun x => x.2.testing != 0 && match itemKind x.1 with
    | some k => (itemBasins x.1 k).contains b
    | none => false

end Sys2Proof.Machine
end

