-- ==== Sys2Proof/Machine/Serving.lean ====
section
/-! DEFINITION. The session engine (chapter 8): sessions, KV pages and free lists, hand-off, steps, the token ring. -/
namespace Sys2Proof.Machine

/-! ### Accesses of the session engine -/

/-- What a serving command does on its way: the state, whether an access met memory that is down, bytes of HBM and CXL,
rows for pages in remote HBM, and whether a cistern read was poisoned. -/
structure Eng where
  s : State
  sl : Nat
  down : Bool := false
  poison : Bool := false
  hbm : Nat := 0
  cxl : Nat := 0
  sends : List (Nat × List Byte) := []
  deriving DecidableEq, Repr

/-- Note an access to device memory. -/
def Eng.note (e : Eng) (a n : Nat) : Eng :=
  { e with down := e.down || e.s.devFenced a n
           hbm := if isHbm a then e.hbm + flitBytes a n else e.hbm
           cxl := if isHbm a then e.cxl else e.cxl + flitBytes a n }

def Eng.rd (e : Eng) (a n : Nat) : Eng × Nat := (e.note a n, e.s.devNat a n)
def Eng.wrBytes (e : Eng) (a : Nat) (bs : List Byte) : Eng := let e := e.note a bs.length; { e with s := e.s.devWrite a bs }
def Eng.wr (e : Eng) (a n v : Nat) : Eng := e.wrBytes a (leBytes n v)

/-! ### Session descriptors (Table 8-1) -/

namespace Ds
def state (d : Nat) : Nat := slice d 0 3
def cancelReq (d : Nat) : Bool := bitAt d 3
def pauseReq (d : Nat) : Bool := bitAt d 4
def latched (d : Nat) : Bool := bitAt d 5
def owner (d : Nat) : Nat := slice d 8 7
def kvLen (d : Nat) : Nat := slice d 128 32
def genCount (d : Nat) : Nat := slice d 160 32
def maxTokens (d : Nat) : Nat := slice d 192 32
def dirAddr (d : Nat) : Nat := slice d 256 44
def pageShift (d : Nat) : Nat := slice d 300 4
def layers (d : Nat) : Nat := slice d 304 8 + 1
def heads (d : Nat) : Nat := slice d 312 8 + 1
def dirStride (d : Nat) : Nat := slice d 320 16
def shared (d : Nat) : Nat := slice d 336 16
def topP (d : Nat) : Nat := slice d 416 32
def stop (d i : Nat) : Nat := slice d (448 + 32 * i) 32
def nStop (d : Nat) : Nat := slice d 576 3
def wasted (d : Nat) : Nat := slice d 608 32
/-- Positions of a page. -/
def p (d : Nat) : Nat := 2 ^ pageShift d
/-- Page lists of the directory. -/
def lists (d : Nat) : Nat := layers d * heads d
/-- Address of entry `i` of list `l` (R172). -/
def entryAddr (d l i : Nat) : Nat := dirAddr d + 4 * (l * dirStride d + i)
def setState (d v : Nat) : Nat := putBits d 0 3 v
/-- The three request bits cleared. -/
def calm (d : Nat) : Nat := putBits d 3 3 0
def setKvLen (d v : Nat) : Nat := putBits d 128 32 v
def setShared (d v : Nat) : Nat := putBits d 336 16 v
end Ds

/-- Sessions on chip, and in all (R167). -/
def onChip : Nat := 4096
def sessionCount : Nat := 1052672

/-- Address of the backing entry of session `n`. -/
def State.backingAddr (s : State) (n : Nat) : Nat := s.rd Fld.serveBackingBaseBackingBase + (n - onChip) * 128

/-- The descriptor of session `n`; zero for a FREE one on chip. -/
def Eng.desc (e : Eng) (n : Nat) : Eng × Nat :=
  if n < onChip then (e, Tbl.get 0 e.s.serve.sessions n) else e.rd (e.s.backingAddr n) 128

/-- Write the descriptor of session `n`. -/
def Eng.store (e : Eng) (n d : Nat) : Eng :=
  if n < onChip then
    let t := if Ds.state d = 0 then Tbl.del e.s.serve.sessions n else Tbl.put e.s.serve.sessions n d
    { e with s := ({ e.s with serve := { e.s.serve with sessions := t } }).wr Fld.serveStatusOnchipUsed 0 t.length }
  else
    let was := Ds.state (e.desc n).2
    let e := e.wr (e.s.backingAddr n) 128 d
    let k := e.s.rd Fld.serveBackedBackedUsed
    let k := if was = 0 ∧ Ds.state d ≠ 0 then k + 1 else if was ≠ 0 ∧ Ds.state d = 0 then k - 1 else k
    { e with s := e.s.wr Fld.serveBackedBackedUsed 0 k }

/-- Session `n` as a command of slice `sl` finds it: a status other than ST_OK where it may not be named, or is not in
one of these states (R168, R170). A FREE session is no slice's. -/
def Eng.find (e : Eng) (n : Nat) (states : List Nat) (latchedOk : Bool := false) : Eng × Nat × Nat :=
  if sessionCount ≤ n || (onChip ≤ n && !e.s.on Fld.serveCtrlBackingEn) then (e, stSessionInvalid, 0) else
  let (e, d) := e.desc n
  if Ds.state d ≠ 0 ∧ Ds.owner d ≠ e.sl then (e, stSessionInvalid, d)
  else if !states.contains (Ds.state d) || (Ds.latched d && !latchedOk) then (e, stSessionState, d)
  else (e, stOk, d)

/-! ### Pages and free lists (R171, R173) -/

def nullEntry : Nat := 0xFFFFFFFF
def pageCount : Nat := 2 ^ 22

namespace Pt
def valid (t : Nat) : Bool := bitAt t 0
def owner (t : Nat) : Nat := slice t 1 7
def tier (t : Nat) : Nat := slice t 8 2
def state (t : Nat) : Nat := slice t 10 2
def refs (t : Nat) : Nat := slice t 16 16
def writer (t : Nat) : Nat := slice t 32 21
def addr (t : Nat) : Nat := slice t 64 35 * 131072
/-- The entry with another state, reference count and writer. -/
def put (t st refs writer : Nat) : Nat := putBits (putBits (putBits t 10 2 st) 16 16 refs) 32 21 writer
/-- A private page of session `n`, of slice `sl`. -/
def isPrivate (t n sl : Nat) : Bool := valid t && owner t == sl && (state t == 1 || state t == 2) && writer t == n
/-- A shared page of slice `sl`. -/
def isShared (t sl : Nat) : Bool := valid t && owner t == sl && state t == 3
end Pt

def State.kvptAddr (s : State) (n : Nat) : Nat := s.rd Fld.serveKvptBaseKvptBase + 16 * n
def Eng.pte (e : Eng) (n : Nat) : Eng × Nat := e.rd (e.s.kvptAddr n) 16
def Eng.setPte (e : Eng) (n t : Nat) : Eng :=
  let e := e.wr (e.s.kvptAddr n) 16 t
  { e with s := e.s.bump Fld.servePageOpsPageOps 0 }

/-- Number of the free-list registers of tier `k` of slice `sl`. -/
def flIdx (sl k : Nat) : Nat := 3 * sl + k

/-- Push page `n` on the free list of tier `k` of slice `sl`. -/
def Eng.push (e : Eng) (sl k n : Nat) : Eng :=
  let i := flIdx sl k
  let c := e.s.rd Fld.freelistCountCount i
  let e := e.wr (e.s.rd Fld.freelistBaseBase i + 4 * c) 4 n
  { e with s := e.s.wr Fld.freelistCountCount i (c + 1) }

/-- Pop a page. -/
def Eng.pop (e : Eng) (sl k : Nat) : Eng × Option Nat :=
  let i := flIdx sl k
  let c := e.s.rd Fld.freelistCountCount i
  if c = 0 then (e, none) else
  let (e, n) := e.rd (e.s.rd Fld.freelistBaseBase i + 4 * (c - 1)) 4
  ({ e with s := e.s.wr Fld.freelistCountCount i (c - 1) }, some n)

/-- Allocate a page for session `n` in state `st`: from tier 0, then 1, then 2. -/
def Eng.alloc (e : Eng) (n st : Nat) : Eng × Option Nat :=
  let count (k : Nat) : Nat := e.s.rd Fld.freelistCountCount (flIdx e.sl k)
  match [0, 1, 2].find? fun k => count k != 0 with
  | none => (e, none)
  | some k =>
    let (e, g) := e.pop e.sl k
    let e := if k = 0 then e else { e with s := e.s.bump Fld.descentsDescents e.sl }
    let (e, t) := e.pte (g.getD 0)
    (e.setPte (g.getD 0) (Pt.put t st 1 n), g)

/-- A page goes back to the free list of its tier. -/
def Eng.freePage (e : Eng) (g t : Nat) : Eng := (e.setPte g (Pt.put t 0 0 0)).push (Pt.owner t) (Pt.tier t) g

/-- A shared page loses one reference (R175). -/
def Eng.dropRef (e : Eng) (g t : Nat) : Eng :=
  if Pt.refs t ≤ 1 then e.freePage g t else e.setPte g (putBits t 16 16 (Pt.refs t - 1))

/-! ### Directories (R172) -/

/-- The directory lies in the slice's ranges. -/
def State.dirOk (s : State) (sl d : Nat) : Bool := s.inRanges sl (Ds.dirAddr d) (4 * Ds.lists d * Ds.dirStride d)

/-- Addresses of the directory entries with index `lo` to `hi - 1` of every list, list by list. -/
def Ds.entries (d lo hi : Nat) : List Nat :=
  (List.range (Ds.lists d)).flatMap fun l => (List.range (min hi (Ds.dirStride d) - lo)).map fun i => Ds.entryAddr d l (lo + i)

/-- Release the pages of session `n` that directory entries of these addresses name: a private page goes to its free
list, and with `all` a shared one loses a reference. -/
def Eng.releaseAt (e : Eng) (n : Nat) (all : Bool) (as : List Nat) : Eng :=
  as.foldl (fun e a =>
    let (e, g) := e.rd a 4
    if g = nullEntry then e
    else if pageCount ≤ g then (if all then e.wr a 4 nullEntry else e)
    else
      let (e, t) := e.pte g
      if Pt.isPrivate t n e.sl then (e.freePage g t).wr a 4 nullEntry
      else if !all then e
      else (if Pt.isShared t e.sl then e.dropRef g t else e).wr a 4 nullEntry) e

/-- A session leaves for PAUSED, ENDED or FREE: its pages are released (R170). -/
def Eng.leave (e : Eng) (n d st : Nat) : Eng :=
  let e := if e.s.dirOk e.sl d then e.releaseAt n true (Ds.entries d 0 (Ds.dirStride d)) else e
  e.store n (if st = 0 then 0 else Ds.setShared (Ds.calm (Ds.setState d st)) 0)

/-! ### The order of serving commands (R166) -/

def serveOp (op : Nat) : Bool := 0x20 ≤ op && op ≤ 0x2E

/-- The serving command that the session engine executes next: the first in acceptance order whose slice has none
parked; none while one executes. -/
def State.nextServe (s : State) : Option Cmd :=
  if s.cmds.any fun c => serveOp c.opcode && c.phase == .running then none else
  s.cmds.find? fun c => serveOp c.opcode && c.phase == .issued &&
    s.cmds.all fun x => x.phase != .parked || x.slice != c.slice

/-- The session engine is done with what it read and wrote: the command is charged. -/
def Eng.done (e : Eng) (id : Nat) : State :=
  e.s.modCmd id fun c => { c with hbmB := c.hbmB + e.hbm, cxlB := c.cxlB + e.cxl }

/-- Send rows for remote pages, line by line (R343); the first status that is not ST_OK. -/
def State.sendRows (s : State) (c : Cmd) : List (Nat × List Byte) → State × Nat
  | [] => (s, stOk)
  | (a, bs) :: rest =>
    let one (st : State × Nat) (l : Nat) : State × Nat :=
      let lo := max a (l * 128)
      let hi := min (a + bs.length) ((l + 1) * 128)
      let off := lo - l * 128
      let q := { AqdReq.blank with
        kind := .wr, addr := l * 128
        data := List.replicate off 0 ++ (bs.drop (lo - a)).take (hi - lo) ++ List.replicate (128 - off - (hi - lo)) 0
        mask := (2 ^ (hi - lo) - 1) * 2 ^ off }
      match st.1.home? (l * 128) with
      | none => (st.1, if st.2 = stOk then stAddrFault else st.2)
      | some h =>
        let r := st.1.aqdSend c.slice c.ring c.id h q
        (r.1, if st.2 = stOk then r.2 else st.2)
    let ls := (List.range ((a + bs.length + 127) / 128 - a / 128)).map (a / 128 + ·)
    let (s, st) := ls.foldl one (s, stOk)
    let (s, st') := State.sendRows s c rest
    (s, if st = stOk then st' else st)

/-- Complete a serving command that the engine has carried out, with `code`; one that wrote to remote pages waits for
their acknowledgements. -/
def Eng.finish (e : Eng) (c : Cmd) (code result : Nat) : State :=
  let s := (if c.begun then e.s else e.s.beginCmd c.id).modCmd c.id fun x => { x with result := result, hbmB := x.hbmB + e.hbm, cxlB := x.cxlB + e.cxl }
  let code := if code ≠ stOk then code else if e.poison then stMemPoison else if e.down then stMemFenced else stOk
  let (s, st) := s.sendRows c e.sends
  let code := if code = stOk then st else code
  if s.aqdPending c.id then s.modCmd c.id fun x => { x with phase := .running, outcomes := [code] }
  else match s.cmd? c.id with
    | some c => s.finish c code
    | none => s

/-- The remote writes of a serving command are over. -/
def State.serveWritten (s : State) (c : Cmd) : State :=
  if serveOp c.opcode && c.phase == .running && !s.aqdPending c.id then
    s.finish c ((c.outcomes.find? (· != stOk)).getD stOk)
  else s

/-- The session engine executes its next command when it has this opcode; with serving disabled the command completes with
ST_SESSION_INVALID. -/
def State.serveAct (s : State) (op : Nat) (k : State → Cmd → State) : State :=
  s.forSome (s.nextServe.filter (·.opcode == op)) fun s c =>
    if s.on Fld.serveCtrlEnable then k s c else s.finishNow c stSessionInvalid

/-- The same for a command that only works on sessions and pages: `k` answers what it did, its status and its result. -/
def State.serveRun (s : State) (op : Nat) (k : Eng → Cmd → Eng × Nat × Nat) : State :=
  s.serveAct op fun s c =>
    let (e, code, result) := k { s := s, sl := c.slice } c
    e.finish c code result

/-! ### Session commands (R167 to R170, R185, R186) -/

/-- A descriptor that SESSION_CREATE accepts (Tables 8-1, 10-6). -/
def createOk (d sl : Nat) : Bool :=
  slice d 0 6 == 0 && !bitAt d 7 && Ds.owner d == sl && !bitAt d 15 && slice d 26 6 == 0 && slice d 128 64 == 0 &&
    slice d 400 16 == 0 && slice d 579 29 == 0 && slice d 608 416 == 0 && 7 ≤ Ds.pageShift d && Ds.pageShift d ≤ 11 &&
    Ds.dirAddr d % 256 == 0 && Ds.dirStride d != 0 && Ds.nStop d ≤ 4 &&
    (match valOf 0xB (Ds.topP d) with
     | .num m e => (Val.num 0 0).lt (.num m e) && !(Val.num 1 0).lt (.num m e)
     | _ => false)

/-- The lowest-numbered FREE descriptor. -/
def State.freeSession (s : State) : Option Nat :=
  match (List.range onChip).find? fun n => Tbl.get 0 s.serve.sessions n == 0 with
  | some n => some n
  | none => if s.on Fld.serveCtrlBackingEn then
      ((List.range (sessionCount - onChip)).find? fun i => Ds.state (s.devNat (s.backingAddr (onChip + i)) 128) == 0).map (onChip + ·)
    else none

def Eng.create (e : Eng) (c : Cmd) : Eng × Nat × Nat :=
  let d := c.params % 2 ^ 1024
  if !createOk d c.slice then (e, stDescInvalid, 0) else
  match e.s.freeSession with
  | none => (e, stSessionFull, 0)
  | some n => (e.store n (Ds.setState d 1), stOk, n)

def execSessionCreate (dt : Nat) (s : State) : Host.Outcome State Fault Refusal :=
  enter (.sessionCreate dt) dt s fun s => s.serveRun 0x20 Eng.create

/-! ### Token records (Table 8-5, R182) -/

/-- A record: session, flags from bit 24 on (final, cancel_requested, paused, error, first, degenerate), token, position,
error code, rejected drafts. -/
def tokenRec (n flags token pos code wasted : Nat) : Nat :=
  n % 2 ^ 21 + flags % 64 * 2 ^ 24 + token % 2 ^ 32 * 2 ^ 32 + pos % 2 ^ 32 * 2 ^ 64 + code % 2 ^ 16 * 2 ^ 96 + wasted % 2 ^ 16 * 2 ^ 112

/-- A record joins those to be written. -/
def State.queueRec (s : State) (sl owner word : Nat) (tok : Bool) : State :=
  { s with serve := { s.serve with recs := s.serve.recs ++ [(sl, owner, word, tok)] } }

/-- Entries of the token ring; none when its size stops delivery. -/
def State.tokSize (s : State) (sl : Nat) : Option Nat :=
  let k := s.rd Fld.tokringSizeLog2Entries sl
  if 4 ≤ k ∧ k ≤ 20 then some (2 ^ k) else none

/-- The token ring has room. -/
def State.tokRoom (s : State) (sl : Nat) : Bool :=
  match s.tokSize sl with
  | some n => (s.rd Fld.tokringHeadHead sl + 1) % n != s.rd Fld.tokringTailTail sl % n
  | none => false

/-- Write queued records of slice `sl` in order, as long as `p` holds of their command, the ring has room and the slice is active;
records of a STEP_END that is over are dropped. -/
def State.deliver (p : Nat → Bool) : Nat → State → Nat → State
  | 0, s, _ => s
  | k + 1, s, sl =>
    match s.serve.recs.find? (·.1 == sl) with
    | none => s
    | some r =>
      let drop := { s with serve := { s.serve with recs := s.serve.recs.erase r } }
      if r.2.1 ≠ 0 ∧ (s.cmd? r.2.1).isNone then State.deliver p k drop sl
      else if !p r.2.1 || !s.sliceActive sl || !s.tokRoom sl then s
      else
        let h := s.rd Fld.tokringHeadHead sl
        let bs := leBytes 16 r.2.2.1
        let s := drop.hostWrite (s.hostSpace sl) (s.reg .tokringBase sl + 16 * h) bs
        let s := s.wr Fld.tokringHeadHead sl ((h + 1) % (s.tokSize sl).getD 1)
        let s := if r.2.2.2 then s.bump Fld.serveTokensTokens 0 else s
        let s := s.modCmd r.2.1 fun c => { c with outs := c.outs ++ bs, hostB := c.hostB + 64 }
        State.deliver p k s sl

/-- Records of a command that are not yet written. -/
def State.recsLeft (s : State) (id : Nat) : Nat := (s.serve.recs.filter (·.2.1 == id)).length

def State.deliverAll (s : State) (sl : Nat) : State := State.deliver (fun _ => true) s.serve.recs.length s sl

/-- A write of TOKRING_TAIL: records of cancelled and paused sessions that waited for room go out (R182); those of a parked
STEP_END follow at STEP_END_RESUME. -/
def State.tokTailWritten (s : State) (sl : Nat) : State := State.deliver (· == 0) s.serve.recs.length s sl

/-- A record of command `c` meets the refusal that waits for it: there is room for it, it is the first to be written, and its bytes
are unspecified; no further record of the command is written, and the command completes (R234). -/
def State.tokRefused (s : State) (id : Nat) : Option (State × Cmd × Bool) :=
  match s.cmd? id with
  | none => none
  | some c =>
    match c.refused with
    | none => none
    | some timeout =>
      if !(s.serve.recs.any (·.1 == c.slice)) || !s.sliceActive c.slice || !s.tokRoom c.slice then none else
      let s := s.hostFree (s.hostSpace c.slice) (s.reg .tokringBase c.slice + 16 * s.rd Fld.tokringHeadHead c.slice) 16
      some ({ s with serve := { s.serve with recs := s.serve.recs.filter fun r => r.2.1 != id } }, c, timeout)

/-- The command whose token record was refused completes. -/
def State.endRefused (s : State) (c : Cmd) (timeout : Bool) : State :=
  let a := s.reg .tokringBase c.slice + 16 * s.rd Fld.tokringHeadHead c.slice
  (s.finishCore c (refusalCode timeout)).refusal c.slice (refusalCode timeout) a

/-- SESSION_CANCEL (`true`) and SESSION_PAUSE (R185). -/
def State.cancelOrPause (s : State) (op : Nat) (cancel : Bool) : State :=
  s.serveAct op fun s c =>
    let e : Eng := { s := s, sl := c.slice }
    let n := c.word 0
    let (e, code, d) := e.find n [1, 2] true
    if code ≠ stOk then e.finish c code 0
    else if Ds.latched d then (e.store n (putBits d (if cancel then 3 else 4) 1 1)).finish c stOk 0
    else
      let e := e.leave n d (if cancel then 4 else 3)
      let s := e.s.queueRec c.slice c.id (tokenRec n (if cancel then 2 else 4) 0 0 0 0) false
      match s.tokRefused c.id with
      | some (s, k, t) => (({ e with s := s }).done c.id).endRefused k t
      | none =>
        let mine (r : Nat × Nat × Nat × Bool) := if r.2.1 = c.id then (r.1, 0, r.2.2) else r
        let s := { s with serve := { s.serve with recs := s.serve.recs.map mine } }.deliverAll c.slice
        ({ e with s := s }).finish c stOk 0

def execSessionCancel (dt : Nat) (s : State) : Host.Outcome State Fault Refusal :=
  enter (.sessionCancel dt) dt s fun s => s.cancelOrPause 0x21 true

def execSessionPause (dt : Nat) (s : State) : Host.Outcome State Fault Refusal :=
  enter (.sessionPause dt) dt s fun s => s.cancelOrPause 0x22 false

def Eng.rebuild (e : Eng) (c : Cmd) : Eng × Nat × Nat :=
  let n := c.word 0
  let (e, code, d) := e.find n [3, 4]
  if code ≠ stOk then (e, code, 0)
  else (e.store n (putBits (Ds.setState d 1) 128 64 0), stOk, 0)

def execSessionRebuild (dt : Nat) (s : State) : Host.Outcome State Fault Refusal :=
  enter (.sessionRebuild dt) dt s fun s => s.serveRun 0x23 Eng.rebuild

def Eng.release (e : Eng) (c : Cmd) : Eng × Nat × Nat :=
  let n := c.word 0
  let (e, code, d) := e.find n [1, 2, 3, 4]
  if code ≠ stOk then (e, code, 0)
  else if Ds.state d < 3 then (e.leave n d 0, stOk, 0) else (e.store n 0, stOk, 0)

def execSessionRelease (dt : Nat) (s : State) : Host.Outcome State Fault Refusal :=
  enter (.sessionRelease dt) dt s fun s => s.serveRun 0x24 Eng.release

/-! ### Provision and reclaim (R173) -/

def Eng.provision (e : Eng) (c : Cmd) : Eng × Nat × Nat :=
  let sl := c.word 0
  let k := c.par 32 2
  let n := c.word 2
  if sl = 0 ∨ 128 ≤ sl ∨ k = 3 then (e, stDescInvalid, 0) else
  let (e, raw) := if n = 0 then (e, 0) else e.rd (c.dword 3) (16 * n)
  let page (i : Nat) : Nat := slice raw (128 * i) 32
  let pages := (List.range n).map page
  let (e, used) := pages.foldl (fun (a : Eng × Bool) g =>
    if pageCount ≤ g then (a.1, true) else let r := a.1.pte g; (r.1, a.2 || Pt.valid r.2)) (e, false)
  if used || !pages.Nodup || e.s.rd Fld.freelistCapCap (flIdx sl k) < e.s.rd Fld.freelistCountCount (flIdx sl k) + n then (e, stPageInvalid, 0)
  else
    ((List.range n).foldl (fun e i =>
      (e.setPte (page i) (1 + sl * 2 + k * 256 + slice raw (128 * i + 64) 35 * 2 ^ 64)).push sl k (page i)) e, stOk, n)

def execKvProvision (dt : Nat) (s : State) : Host.Outcome State Fault Refusal :=
  enter (.kvProvision dt) dt s fun s => s.serveRun 0x25 Eng.provision

def Eng.reclaim (e : Eng) (c : Cmd) : Eng × Nat × Nat :=
  let sl := c.word 0
  let k := c.par 32 2
  if sl = 0 ∨ 128 ≤ sl ∨ k = 3 then (e, stDescInvalid, 0) else
  let n := min (c.word 2) (e.s.rd Fld.freelistCountCount (flIdx sl k))
  ((List.range n).foldl (fun e i =>
    let (e, g) := e.pop sl k
    let e := e.wr (c.dword 3 + 4 * i) 4 (g.getD 0)
    if g.getD 0 < pageCount then e.setPte (g.getD 0) 0 else e) e, stOk, n)

def execKvReclaim (dt : Nat) (s : State) : Host.Outcome State Fault Refusal :=
  enter (.kvReclaim dt) dt s fun s => s.serveRun 0x26 Eng.reclaim

/-! ### Reserve and append (R174, R178, R222) -/

/-- Allocate the pages of directory entries that name none; the answer says whether the lists have run out. -/
def Eng.fill (e : Eng) (n st : Nat) : List Nat → Eng × Bool
  | [] => (e, false)
  | a :: as =>
    let (e, g) := e.rd a 4
    if g ≠ nullEntry then Eng.fill e n st as else
    match e.alloc n st with
    | (e, some g) => Eng.fill (e.wr a 4 g) n st as
    | (e, none) => (e, true)

def Eng.reserve (e : Eng) (c : Cmd) : Eng × Nat × Nat :=
  let n := c.word 0
  let (e, code, d) := e.find n [1]
  if code ≠ stOk then (e, code, 0) else
  let top := ceilDiv (c.word 1) (Ds.p d)
  if Ds.dirStride d < top then (e, stPageInvalid, 0)
  else if !e.s.dirOk e.sl d then (e, stAddrFault, 0)
  else
    let (e, full) := e.fill n 1 (Ds.entries d 0 top)
    if full then (e, stKvFull, 0) else (e.store n (Ds.setKvLen d (max (Ds.kvLen d) (c.word 1))), stOk, 0)

def execKvReserve (dt : Nat) (s : State) : Host.Outcome State Fault Refusal :=
  enter (.kvReserve dt) dt s fun s => s.serveRun 0x27 Eng.reserve

namespace Bt
/-- Fields of a batch-table row (Table 8-4). -/
def session (r : Nat) : Nat := slice r 0 32
def valid (r : Nat) : Bool := bitAt r 32
def prompt (r : Nat) : Bool := bitAt r 33
def lastChunk (r : Nat) : Bool := bitAt r 34
def nDraft (r : Nat) : Nat := slice r 36 4
def pos0 (r : Nat) : Nat := slice r 64 32
def nPos (r : Nat) : Nat := slice r 96 16
end Bt

/-- Bytes of the elements and of the scales of one position of a head, for each head dimension and KV format with which P is the
largest power of two with P rows in 65,536 bytes (R156). -/
def kvForms (P : Nat) : List (Nat × Nat) :=
  ([(8, 0), (8, 1), (6, 1), (4, 1), (16, 0)].flatMap fun f => (List.range 8).map fun k => (4 * (k + 1) * f.1, (k + 1) * f.2)).filter fun x =>
    decide (P * (x.1 + x.2) ≤ 65536 ∧ 65536 < 2 * P * (x.1 + x.2))

/-- Those of a session's model: no parameter tells which (DESIGN CHOICE, log entry 24). -/
def Ds.kvForm (d : Nat) : Nat × Nat :=
  let l := kvForms (Ds.p d)
  l.getD (Config.kvForm (slice d 16 10) (Ds.pageShift d) % l.length) (0, 0)

/-- Bytes of one position of a head in the cistern: elements, then scales. -/
def Ds.rowLen (d : Nat) : Nat := (Ds.kvForm d).1 + (Ds.kvForm d).2

/-- The rows of a batch table with, for each, the positions of the valid rows before it (R222). -/
def batchRows (raw n : Nat) : List (Nat × Nat) :=
  ((List.range n).foldl (fun (a : List (Nat × Nat) × Nat) j =>
    let r := slice raw (512 * j) 512
    (a.1 ++ [(r, a.2)], if Bt.valid r then a.2 + Bt.nPos r else a.2)) ([], 0)).1

/-- Where KV_APPEND finds the row of position `i`, head `h`, of a batch row with `tau` positions before it. -/
def appendSrc (c : Cmd) (d tau i h : Nat) (v : Bool) : Nat := (if v then c.word 5 else c.word 4) + ((tau + i) * Ds.heads d + h) * c.word 6

/-- The pages of one batch row: allocated where there is none, and checked. -/
def Eng.rowPages (e : Eng) (c : Cmd) (n d st : Nat) : List (Nat × Nat) → Eng × Nat × List ((Nat × Nat) × Nat)
  | [] => (e, stOk, [])
  | (h, x) :: rest =>
    if x < Ds.shared d || Ds.dirStride d ≤ x then (e, stPageInvalid, []) else
    let a := Ds.entryAddr d (c.word 0 * Ds.heads d + h) x
    let (e, full) := e.fill n st [a]
    if full then (e, stKvFull, []) else
    let (e, g) := e.rd a 4
    if pageCount ≤ g then (e, stPageInvalid, []) else
    let (e, t) := e.pte g
    if !(Pt.isPrivate t n e.sl && Pt.state t == st) || Pt.tier t == 3 then (e, stPageInvalid, []) else
    let (e, code, ps) := Eng.rowPages e c n d st rest
    (e, code, ((h, x), t) :: ps)

/-- Copy `len` bytes of the cistern to byte `off` of a page. -/
def Eng.copyBytes (e : Eng) (b src len t off : Nat) : Eng :=
  if len = 0 then e else
  let bad := e.s.badC b src len
  let e := { e with s := e.s.eccRead b ⟨.cistern, src, len⟩, poison := e.poison || bad }
  let bs := if bad then (List.range len).map fun i => Config.freeByte e.s.freeCtr i else e.s.cRead b src len
  let e := if bad then { e with s := { e.s with freeCtr := e.s.freeCtr + 1 } } else e
  if Pt.tier t = 2 then { e with sends := e.sends ++ [(Pt.addr t + off, bs)] } else e.wrBytes (Pt.addr t + off) bs

/-- Copy one row of a head to position `p` of half `base` of its page: its elements, and its scales after all elements (R156). -/
def Eng.copyRow (e : Eng) (b src d t p base : Nat) : Eng :=
  let (el, sc) := Ds.kvForm d
  (e.copyBytes b src el t (base + p * el)).copyBytes b (src + el) sc t (base + Ds.p d * el + p * sc)

/-- One row of the batch table is appended; a failure marks it. -/
def Eng.appendRow (e : Eng) (c : Cmd) (row tau : Nat) : Eng × Nat :=
  let n := Bt.session row
  let mark (e : Eng) (code : Nat) : Eng × Nat :=
    ({ e with s := { e.s with serve := { e.s.serve with marks := Tbl.put e.s.serve.marks n code } } }, code)
  let (e, code, d) := e.find n [1, 2] true
  if code ≠ stOk || Ds.layers d ≤ c.word 0 || !e.s.dirOk e.sl d then mark e stPageInvalid else
  let st := if Ds.state d = 1 then 1 else 2
  let x0 := Bt.pos0 row / Ds.p d
  let nx := if Bt.nPos row = 0 then 0 else (Bt.pos0 row + Bt.nPos row - 1) / Ds.p d - x0 + 1
  let want := (List.range (Ds.heads d)).flatMap fun h => (List.range nx).map fun x => (h, x0 + x)
  let (e, code, pages) := e.rowPages c n d st want
  if code ≠ stOk then mark e code else
  let cells := (List.range (Bt.nPos row)).flatMap fun i => (List.range (Ds.heads d)).map fun h => (i, h)
  (cells.foldl (fun e x =>
    let pos := Bt.pos0 row + x.1
    let t := (pages.find? fun p => p.1 == (x.2, pos / Ds.p d)).map (·.2) |>.getD 0
    (e.copyRow (c.word 3) (appendSrc c d tau x.1 x.2 false) d t (pos % Ds.p d) 0).copyRow (c.word 3) (appendSrc c d tau x.1 x.2 true) d t
      (pos % Ds.p d) 65536) e,
   stOk)

/-- Every source row that KV_APPEND reads lies in the slice's part of the basin's cistern. -/
def Eng.appendReads (e : Eng) (c : Cmd) (rows : List (Nat × Nat)) : Bool :=
  rows.all fun r =>
    if !Bt.valid r.1 || (Tbl.find e.s.serve.marks (Bt.session r.1)).isSome || Bt.nPos r.1 == 0 then true else
    let d := (e.desc (Bt.session r.1)).2
    [false, true].all fun v =>
      let lo := appendSrc c d r.2 0 0 v
      let hi := appendSrc c d r.2 (Bt.nPos r.1 - 1) (Ds.heads d - 1) v + Ds.rowLen d
      Need.within (e.s.bounds c.slice (c.word 3)) ⟨.cistern, lo, hi - lo⟩

/-- A row that is to be appended names a session of another slice or none at all (R168). -/
def Eng.strangers (e : Eng) (rows : List (Nat × Nat)) : Bool :=
  rows.any fun r => Bt.valid r.1 && (e.find (Bt.session r.1) [1, 2] true).2.1 == stSessionInvalid

def Eng.append (e : Eng) (c : Cmd) : Eng × Nat × Nat :=
  let a := c.dword 1
  if !e.s.inRanges c.slice a 64 then (e, stAddrFault, 0) else
  match Tbl.find e.s.serve.batches (c.slice * 2 ^ 44 + a) with
  | none => (e, stDescInvalid, 0)
  | some n =>
    if !e.s.inRanges c.slice a (64 * n) then (e, stAddrFault, 0)
    else if 64 ≤ c.word 3 || !e.s.assigned c.slice (c.word 3) then (e, stAddrFault, 0)
    else if e.s.fencedBasin (c.word 3) then (e, stUnitFenced, 0)
    else
      let (e, raw) := e.rd a (64 * n)
      let rows := batchRows raw n
      if e.strangers rows then (e, stSessionInvalid, 0)
      else if !e.appendReads c rows then (e, stAddrFault, 0) else
      let (e, met) := rows.foldl (fun (x : Eng × List Nat) r =>
        if !Bt.valid r.1 || (Tbl.find x.1.s.serve.marks (Bt.session r.1)).isSome then x else
        let y := x.1.appendRow c r.1 r.2
        (y.1, x.2 ++ [y.2])) (e, [])
      (e, if met.contains stKvFull then stKvFull else if met.contains stPageInvalid then stPageInvalid else stOk, 0)

/-- KV_APPEND waits while the basin it reads is not its slice's to read. -/
def State.appendReady (s : State) : Bool :=
  match s.nextServe with
  | some c =>
    let b := c.word 3
    64 ≤ b || !s.assigned c.slice b || s.fencedBasin b || !s.sidePaused c.slice ⟨0, b, 0⟩
  | none => true

def execKvAppend (dt : Nat) (ups : List Upset) (s : State) : Host.Outcome State Fault Refusal :=
  enter (.kvAppend dt ups) dt s fun s =>
    let s := s.upsets ups
    s.whenever s.appendReady fun s => s.serveRun 0x28 Eng.append

/-! ### Shared prefixes (R175, R176) -/

/-- Page numbers of a record. -/
def recordPages (raw n : Nat) : List Nat := (List.range n).map fun i => slice raw (32 * i) 32

/-- Read the entries of pages: each with its entry, none for a number outside the table. -/
def Eng.ptes (e : Eng) : List Nat → Eng × List (Nat × Option Nat)
  | [] => (e, [])
  | g :: gs =>
    if pageCount ≤ g then let r := Eng.ptes e gs; (r.1, (g, none) :: r.2) else
    let (e, t) := e.pte g
    let r := Eng.ptes e gs
    (r.1, (g, some t) :: r.2)

def Eng.seal (e : Eng) (c : Cmd) : Eng × Nat × Nat :=
  let n := c.word 0
  let m := c.word 1
  let (e, code, d) := e.find n [1]
  if code ≠ stOk then (e, code, 0)
  else if Ds.dirStride d < m || Ds.kvLen d < m * Ds.p d then (e, stPageInvalid, 0)
  else if !e.s.dirOk e.sl d || !e.s.inRanges e.sl (c.dword 2) (4 * Ds.lists d * m) then (e, stAddrFault, 0)
  else
    let (e, gs) := (Ds.entries d 0 m).foldl (fun (x : Eng × List Nat) a => let r := x.1.rd a 4; (r.1, x.2 ++ [r.2])) (e, [])
    let (e, ts) := e.ptes gs
    let ok (x : Nat × Option Nat) : Bool := match x.2 with
      | some t => (Pt.isPrivate t n e.sl && Pt.state t == 1) || Pt.isShared t e.sl
      | none => false
    if !ts.all ok then (e, stPageInvalid, 0) else
    let e := ts.foldl (fun e x => match x.2 with
      | some t => if Pt.state t = 3 then e else e.setPte x.1 (Pt.put t 3 2 0)
      | none => e) e
    let e := gs.zipIdx.foldl (fun e x => e.wr (c.dword 2 + 4 * x.2) 4 x.1) e
    (e.store n (Ds.setShared d m), stOk, 0)

def execPrefixSeal (dt : Nat) (s : State) : Host.Outcome State Fault Refusal :=
  enter (.prefixSeal dt) dt s fun s => s.serveRun 0x29 Eng.seal

/-- The pages of a record, all of them shared pages of the slice; none where one is not. -/
def Eng.sharedRecord (e : Eng) (a n : Nat) : Eng × Option (List Nat) :=
  let (e, raw) := if n = 0 then (e, 0) else e.rd a (4 * n)
  let (e, ts) := e.ptes (recordPages raw n)
  (e, if ts.all fun x => match x.2 with | some t => Pt.isShared t e.sl | none => false then some (recordPages raw n) else none)

def Eng.attach (e : Eng) (c : Cmd) : Eng × Nat × Nat :=
  let n := c.word 0
  let m := c.word 1
  let (e, code, d) := e.find n [1]
  if code ≠ stOk then (e, code, 0)
  else if Ds.kvLen d ≠ 0 then (e, stSessionState, 0)
  else if Ds.dirStride d < m then (e, stPageInvalid, 0)
  else if !e.s.dirOk e.sl d || !e.s.inRanges e.sl (c.dword 2) (4 * Ds.lists d * m) then (e, stAddrFault, 0)
  else
    match e.sharedRecord (c.dword 2) (Ds.lists d * m) with
    | (e, none) => (e, stPageInvalid, 0)
    | (e, some gs) =>
      let full := gs.any fun g => 65535 < Pt.refs (e.pte g).2 + gs.count g
      if full then (e, stRefcountFull, 0) else
      let e := gs.foldl (fun e g => let (e, t) := e.pte g; e.setPte g (putBits t 16 16 (Pt.refs t + 1))) e
      let e := ((Ds.entries d 0 m).zip gs).foldl (fun e x => e.wr x.1 4 x.2) e
      (e.store n (Ds.setKvLen (Ds.setShared d m) (m * Ds.p d)), stOk, 0)

def execPrefixAttach (dt : Nat) (s : State) : Host.Outcome State Fault Refusal :=
  enter (.prefixAttach dt) dt s fun s => s.serveRun 0x2A Eng.attach

def Eng.dropPrefix (e : Eng) (c : Cmd) : Eng × Nat × Nat :=
  let n := c.word 4 * c.word 1
  if !e.s.inRanges e.sl (c.dword 2) (4 * n) then (e, stAddrFault, 0) else
  match e.sharedRecord (c.dword 2) n with
  | (e, none) => (e, stPageInvalid, 0)
  | (e, some gs) =>
    if gs.any fun g => Pt.refs (e.pte g).2 < gs.count g then (e, stPageInvalid, 0) else
    (gs.foldl (fun e g => let (e, t) := e.pte g; e.dropRef g t) e, stOk, 0)

def execPrefixDrop (dt : Nat) (s : State) : Host.Outcome State Fault Refusal :=
  enter (.prefixDrop dt) dt s fun s => s.serveRun 0x2B Eng.dropPrefix

/-! ### Hand-off (R177, R178) -/

/-- The hand-off acts: private pages become generation pages, the session DECODE. -/
def State.handoffAct (s : State) (c : Cmd) : State :=
  let e : Eng := { s := s, sl := c.slice }
  let n := c.word 0
  let (e, code, d) := e.find n [1]
  if code ≠ stOk then e.finish c code 0 else
  let e := if !e.s.dirOk e.sl d then e else (Ds.entries d 0 (Ds.dirStride d)).foldl (fun e a =>
    let (e, g) := e.rd a 4
    if pageCount ≤ g then e else
    let (e, t) := e.pte g
    if Pt.isPrivate t n e.sl && Pt.state t == 1 then e.setPte g (putBits t 10 2 2) else e) e
  (e.store n (Ds.setState d 2)).finish c stOk 0

/-- The arrival a HANDOFF waits for is there. -/
def State.arrived (s : State) (c : Cmd) : Bool := c.word 1 == nullEntry || c.dword 2 ≤ s.reg .aqdArrival (c.word 1)

def State.handoff (s : State) (c : Cmd) : State :=
  let e : Eng := { s := s, sl := c.slice }
  let (e, code, _) := e.find (c.word 0) [1]
  if code ≠ stOk then e.finish c code 0
  else if c.word 1 ≠ nullEntry && !s.counterOk c.slice (c.word 1) then e.finish c stAddrFault 0
  else if s.arrived c then s.handoffAct c
  else (s.beginCmd c.id).modCmd c.id fun x => { x with phase := .parked }

def execHandoff (dt : Nat) (s : State) : Host.Outcome State Fault Refusal :=
  enter (.handoff dt) dt s fun s => s.serveAct 0x2C State.handoff

/-- The parked command of slice `sl` with this opcode. -/
def State.parkedCmd (s : State) (sl op : Nat) : Option Cmd := s.cmds.find? fun c => c.slice == sl && c.opcode == op && c.phase == .parked

/-- The timeout of a parked HANDOFF has come. -/
def State.handoffOver (s : State) (c : Cmd) : Bool := c.dword 4 != 0 && c.start + c.dword 4 ≤ s.now


def execHandoffArrival (dt sl : Nat) (s : State) : Host.Outcome State Fault Refusal :=
  enter (.handoffArrival dt sl) dt s fun s =>
    s.forSome (s.parkedCmd sl 0x2C) fun s c => s.whenever (s.arrived c) fun s =>
      (if s.handoffOver c then s.bump Fld.timeoutRacesRaces 0 else s).handoffAct c

def execHandoffTimeout (dt sl : Nat) (s : State) : Host.Outcome State Fault Refusal :=
  enter (.handoffTimeout dt sl) dt s fun s =>
    s.forSome (s.parkedCmd sl 0x2C) fun s c => s.whenever (s.handoffOver c && !s.arrived c) fun s =>
      (s.nondet sl 5).finish c stTimeout

/-! ### Steps (R179 to R182) -/

/-- The batch-table row of an input entry, latching its session where it may be. -/
def Eng.latchRow (e : Eng) (kind inp : Nat) : Eng × Nat × Bool :=
  let n := slice inp 0 21
  if slice inp 0 32 = nullEntry || (kind == 1 && 65535 < slice inp 32 32) then (e, nullEntry, false) else
  let (e, code, d) := e.find n [if kind = 1 then 1 else 2]
  if code ≠ stOk || Ds.cancelReq d || Ds.pauseReq d then (e, nullEntry, false) else
  let e := e.store n (putBits d 5 1 1)
  let e := { e with s := { e.s with serve := { e.s.serve with marks := Tbl.del e.s.serve.marks n } } }
  let nd := if kind = 1 then 0 else slice inp 24 4
  let row := n + 2 ^ 32 + kind * 2 ^ 33 + (if kind = 1 then slice inp 64 1 else 0) * 2 ^ 34 + slice d 6 1 * 2 ^ 35 + nd * 2 ^ 36 +
    Ds.kvLen d * 2 ^ 64 + (if kind = 1 then slice inp 32 16 else nd + 1) * 2 ^ 96 + slice d 16 10 * 2 ^ 112 +
    (if kind = 1 then 0 else slice d 224 32) * 2 ^ 128 + slice d 32 32 * 2 ^ 160 + slice d 64 64 * 2 ^ 192 + slice d 352 32 * 2 ^ 256 +
    Ds.topP d * 2 ^ 288 + slice d 384 16 * 2 ^ 320 + Ds.pageShift d * 2 ^ 336 + Ds.dirAddr d * 2 ^ 340
  (e, row, true)

def Eng.stepBegin (e : Eng) (c : Cmd) : Eng × Nat × Nat :=
  let kind := c.par 0 1
  let n := c.word 1
  let a := c.dword 2
  let b := c.dword 4
  if n = 0 ∨ 4096 < n then (e, stDescInvalid, 0)
  else if !e.s.inRanges e.sl a (64 * n) || !e.s.inRanges e.sl b (64 * n) then (e, stAddrFault, 0)
  else
    let (e, raw) := e.rd a (64 * n)
    let (e, k) := (List.range n).foldl (fun (x : Eng × Nat) j =>
      let (e, row, ok) := x.1.latchRow kind (slice raw (512 * j) 512)
      (e.wr (b + 64 * j) 64 row, x.2 + nat1 ok)) (e, 0)
    let t := Tbl.put e.s.serve.batches (c.slice * 2 ^ 44 + b) n
    ({ e with s := { e.s with serve := { e.s.serve with batches := t } } }, stOk, k)

def execStepBegin (dt : Nat) (s : State) : Host.Outcome State Fault Refusal :=
  enter (.stepBegin dt) dt s fun s =>
    s.serveRun 0x2D Eng.stepBegin

/-- The tokens that a row emits, with their positions and whether their draw was degenerate, before stop conditions. -/
def emitted (row verdict inp : Nat) : List (Nat × Nat × Bool) :=
  let x (j : Nat) : Nat := slice verdict (32 * j) 32
  let deg := bitAt verdict 8
  if Bt.prompt row then (if Bt.lastChunk row then [(x 1, Bt.pos0 row + Bt.nPos row, deg)] else [])
  else
    let a := min (slice verdict 0 5) (Bt.nDraft row)
    ((List.range a).map fun j => (slice inp (32 * (j + 1)) 32, Bt.pos0 row + j + 1, false)) ++ [(x (a + 1), Bt.pos0 row + a + 1, deg)]

/-- The token is final for a session with `g` tokens before it. -/
def isFinal (d g token : Nat) : Bool :=
  (List.range (min 4 (Ds.nStop d))).any (fun i => Ds.stop d i == token) || (Ds.maxTokens d != 0 && g + 1 == Ds.maxTokens d)

/-- Truncate after the first final token; the second component says whether one is final. -/
def truncate (d : Nat) : Nat → List (Nat × Nat × Bool) → List (Nat × Nat × Bool) × Bool
  | _, [] => ([], false)
  | g, t :: ts => if isFinal d g t.1 then ([t], true) else let r := truncate d (g + 1) ts; (t :: r.1, r.2)

/-- The records of a row: first in the turn for the first token, final, cancel_requested and paused with the last. -/
def rowRecords (n g wasted : Nat) (fin cancel paused : Bool) : List (Nat × Nat × Bool) → List Nat
  | [] => []
  | t :: ts =>
    let last := ts.isEmpty
    let fl := nat1 (last && fin) + 2 * nat1 (last && cancel) + 4 * nat1 (last && paused) + 16 * nat1 (g == 0) + 32 * nat1 t.2.2
    tokenRec n fl t.1 t.2.1 0 wasted :: rowRecords n (g + 1) wasted fin cancel paused ts

/-- One row of STEP_END (R181). -/
def Eng.endRow (e : Eng) (id row verdict inp : Nat) : Eng :=
  let n := Bt.session row
  let rec_ (e : Eng) (w : Nat) (tok : Bool) : Eng := { e with s := e.s.queueRec e.sl id w tok }
  let (e, code, d) := e.find n [1, 2] true
  if code ≠ stOk || !Ds.latched d then e else
  match Tbl.find e.s.serve.marks n with
  | some code =>
    let e := { e with s := { e.s with serve := { e.s.serve with marks := Tbl.del e.s.serve.marks n } } }
    rec_ (e.leave n d 4) (tokenRec n 8 0 0 code 0) false
  | none =>
    let a := min (slice verdict 0 5) (Bt.nDraft row)
    let waste := if Bt.prompt row then 0 else Bt.nDraft row - a
    let d := Ds.setKvLen d (if Bt.prompt row then Bt.pos0 row + Bt.nPos row else Bt.pos0 row + a + 1)
    let d := putBits d 608 32 (Ds.wasted d + waste)
    let e := if Bt.prompt row then e else { e with s := (e.s.bump Fld.serveWastedWasted 0 waste).bump Fld.serveAcceptedAccepted 0 a }
    let (toks, fin) := truncate d (Ds.genCount d) (emitted row verdict inp)
    let cancel := Ds.cancelReq d
    let ends := fin || cancel
    let paused := !ends && Ds.pauseReq d
    let e := (rowRecords n (Ds.genCount d) waste fin cancel paused toks).foldl (fun e w => rec_ e w true) e
    let e := if toks.isEmpty && (ends || paused) then rec_ e (tokenRec n (2 * nat1 cancel + 4 * nat1 paused) 0 0 0 waste) false else e
    let d := match toks.getLast? with
      | some t => putBits (putBits d 160 32 (Ds.genCount d + toks.length)) 224 32 t.1
      | none => d
    let first := ceilDiv (Ds.kvLen d) (Ds.p d)
    let e := if e.s.dirOk e.sl d then e.releaseAt n false (Ds.entries d first (Ds.dirStride d)) else e
    if ends then e.leave n d 4 else if paused then e.leave n d 3 else e.store n (Ds.calm d)

/-- The outcome of a step is committed, and its records go out as far as the token ring has room. -/
def State.stepEnd (s : State) (c : Cmd) : State :=
  let n := c.word 0
  let e : Eng := { s := s, sl := c.slice }
  if n = 0 ∨ 4096 < n then e.finish c stDescInvalid 0
  else if !s.inRanges c.slice (c.dword 1) (64 * n) || !s.inRanges c.slice (c.dword 3) (128 * n) || !s.inRanges c.slice (c.dword 5) (64 * n) then
    e.finish c stAddrFault 0
  else
    let (e, rows) := e.rd (c.dword 1) (64 * n)
    let (e, ver) := e.rd (c.dword 3) (128 * n)
    let (e, inp) := e.rd (c.dword 5) (64 * n)
    let e := (List.range n).foldl (fun e j =>
      let row := slice rows (512 * j) 512
      if Bt.valid row then e.endRow c.id row (slice ver (1024 * j) 1024) (slice inp (512 * j) 512) else e) e
    let e : Eng := { e with s := e.s.beginCmd c.id }
    match e.s.tokRefused c.id with
    | some (s, _, t) => let s := ({ e with s := s }).done c.id; s.forSome (s.cmd? c.id) fun s c => s.endRefused c t
    | none =>
    let e : Eng := { e with s := e.s.deliverAll c.slice }
    if e.s.recsLeft c.id = 0 then
      match e.s.cmd? c.id with
      | some c => e.finish c stOk 0
      | none => e.s
    else
      (e.done c.id).modCmd c.id fun x => { x with phase := .parked, result := e.s.recsLeft c.id, outcomes := if e.down then [stMemFenced] else [] }

def execStepEnd (dt : Nat) (s : State) : Host.Outcome State Fault Refusal :=
  enter (.stepEnd dt) dt s fun s => s.serveAct 0x2E State.stepEnd

/-- A parked STEP_END goes on: more records go out, and with the last it completes. -/
def State.stepResume (s : State) (sl : Nat) : State :=
  s.forSome (s.parkedCmd sl 0x2E) fun s c =>
    let s := s.deliverAll sl
    let left := s.recsLeft c.id
    let s := s.modCmd c.id fun x => { x with result := left }
    if left ≠ 0 then s else
    match s.cmd? c.id with
    | some c => s.finish c (c.outcomes.headD stOk)
    | none => s

def execStepEndResume (dt sl : Nat) (s : State) : Host.Outcome State Fault Refusal :=
  enter (.stepEndResume dt sl) dt s fun s => s.stepResume sl

/-! ### Slice reset (R246 steps 4 and 5) -/

/-- Every session of the slice goes FREE, every page it owns becomes free, and its three free lists are rebuilt in
ascending page number. -/
def State.servingReset (s : State) (sl : Nat) : State :=
  let mine := (s.serve.sessions.filter fun x => Ds.owner x.2 == sl).map (·.1)
  let s := { s with serve := { s.serve with
      recs := s.serve.recs.filter (·.1 != sl)
      batches := s.serve.batches.filter fun x => x.1 / 2 ^ 44 != sl } }
  let e : Eng := { s := s, sl := sl }
  let e := mine.foldl (fun e n => e.store n 0) e
  let e := if !s.on Fld.serveCtrlBackingEn then e else (List.range (sessionCount - onChip)).foldl (fun e i =>
    let (e, d) := e.desc (onChip + i)
    if Ds.state d ≠ 0 ∧ Ds.owner d = sl then e.store (onChip + i) 0 else e) e
  if sl = 0 then e.s else
  let e := { e with s := e.s.each (List.range 3) fun s k => s.wr Fld.freelistCountCount (flIdx sl k) 0 }
  ((List.range pageCount).foldl (fun e g =>
    let (e, t) := e.pte g
    if Pt.valid t ∧ Pt.owner t = sl then e.freePage g t else e) e).s

end Sys2Proof.Machine
end

