-- ==== Sys2Proof/Machine/SaveArea.lean ====
section
/-! DEFINITION. The items of a basin save area (Table 12-3, R197): the work counter, its leases and the spout cores. The manual
gives each item its place and its size and prints no bytes within it: an item's fields stand in the order in which Table 12-3
and R197 name them, little-endian (DESIGN CHOICE, log entry 36). -/
namespace Sys2Proof.Machine

/-! ### What the vector CSRs may hold -/

/-- VLEN. -/
def vlen : Nat := 512

/-- LMUL in eighths of vtype `t`; 0 for none. -/
def lmul8Of (t : Nat) : Nat := match t % 8 with | 0 => 8 | 1 => 16 | 2 => 32 | 3 => 64 | 5 => 1 | 6 => 2 | 7 => 4 | _ => 0

/-- VLMAX for elements of width `w` in groups of `m8` eighths. -/
def vlmaxOf (w m8 : Nat) : Nat := vlen * m8 / 8 / w

/-- A vtype that the unit supports: SEW up to 64, and no wider than a fractional LMUL allows. -/
def vtypeOk (t : Nat) : Bool :=
  t < 256 && slice t 3 3 < 4 && lmul8Of t != 0 && 8 * 2 ^ slice t 3 3 ≤ 64 * min 8 (lmul8Of t) / 8

/-! ### Spout cores -/

/-- The bytes of a core: pc, x1 to x31, f0 to f31, v0 to v31, then fcsr, vstart, vxsat, vxrm, vl, vtype and spout_deadline. -/
def CoreSt.area (k : CoreSt) (pc : Nat) : List Byte :=
  leBytes 8 pc ++ ((List.range 31).flatMap fun i => leBytes 8 (k.x.getD i 0)) ++
    ((List.range 32).flatMap fun i => leBytes 8 (k.f.getD i 0)) ++ ((List.range 32).flatMap fun i => leBytes 64 (k.v.getD i 0)) ++
    [k.fcsr, k.vstart, k.vxsat, k.vxrm, k.vl, k.vtype, k.deadline].flatMap (leBytes 8)

/-- The pc and the core that these bytes hold. A CSR takes what it can hold; vl and vtype that do not go together read as after
an unsupported vsetvl. -/
def coreOf (bs : List Byte) : Nat × CoreSt :=
  let w (i : Nat) : Nat := leNat ((bs.drop (8 * i)).take 8)
  let c (i : Nat) : Nat := w (320 + i)
  let ok := vtypeOk (c 5) && c 4 ≤ vlmaxOf (8 * 2 ^ slice (c 5) 3 3) (lmul8Of (c 5))
  (w 0,
   { x := (List.range 31).map fun i => w (1 + i)
     f := (List.range 32).map fun i => w (32 + i)
     v := (List.range 32).map fun i => leNat ((bs.drop (512 + 64 * i)).take 64)
     fcsr := c 0 % 256, vstart := c 1 % vlen, vxsat := c 2 % 2, vxrm := c 3 % 4
     vl := if ok then c 4 else 0, vtype := if ok then c 5 else 2 ^ 63, deadline := c 6 })

/-! ### The work counter -/

/-- The work counter of basin `b`: limit, lease length, next, done, held. -/
def State.counterArea (s : State) (b : Nat) : List Byte :=
  [s.reg .wcLimit b, s.reg .wcLease b, s.reg .wcNext b, s.reg .wcDoneCount b, (s.basin b).leases.length].flatMap (leBytes 4)

/-- The lease table: index, 1 + core within the basin (0 for an entry not in use), claim stamp. -/
def leaseArea (l : List Lease) : List Byte :=
  (List.range 1024).flatMap fun i => match l[i]? with
    | some x => leBytes 4 x.idx ++ leBytes 4 (1 + x.core % 8) ++ leBytes 8 x.claim
    | none => List.replicate 16 0

/-- The leases of basin `b` that these bytes hold. -/
def leasesOf (b : Nat) (bs : List Byte) : List Lease :=
  (List.range 1024).filterMap fun i =>
    let w (o n : Nat) : Nat := leNat ((bs.drop (16 * i + o)).take n)
    if w 4 4 = 0 then none else some ⟨w 0 4, 8 * b + (w 4 4 - 1) % 8, w 8 8⟩

end Sys2Proof.Machine
end

