-- ==== Sys2Proof/Machine/RvFloat.lean ====
section
/-! DEFINITION. Floating point of the spout cores (R188, R189): the operations of the RISC-V extensions F, D, Zfh and of the
vector extension, on exact numbers, with the five rounding modes and the five exception flags. The manual names the
extensions; their definition is RISC-V's own (PRESUMED, log entry 27). -/
namespace Sys2Proof.Machine

/-- The formats by their widths: binary16, binary32, binary64; `bf` is BF16. -/
def rvFmt (w : Nat) : FpFmt := if w = 16 then ⟨5, 10, 15⟩ else if w = 32 then ⟨8, 23, 127⟩ else ⟨11, 52, 1023⟩
def rvBf : FpFmt := ⟨8, 7, 127⟩

def FpFmt.width (f : FpFmt) : Nat := 1 + f.E + f.M
/-- Canonical NaN, infinity, sign bit. -/
def FpFmt.nan (f : FpFmt) : Nat := (2 ^ f.E - 1) * 2 ^ f.M + 2 ^ (f.M - 1)
def FpFmt.infty (f : FpFmt) (neg : Bool) : Nat := (2 ^ f.E - 1) * 2 ^ f.M + nat1 neg * 2 ^ (f.E + f.M)
def FpFmt.zero (f : FpFmt) (neg : Bool) : Nat := nat1 neg * 2 ^ (f.E + f.M)
def FpFmt.neg (f : FpFmt) (x : Nat) : Bool := bitAt x (f.E + f.M)

/-- Exception flags as fcsr holds them. -/
def fNV : Nat := 16
def fDZ : Nat := 8
def fOF : Nat := 4
def fUF : Nat := 2
def fNX : Nat := 1

/-- What an encoding is worth. -/
def FpFmt.val (f : FpFmt) (x : Nat) : Val :=
  let e := slice x f.M f.E
  let fr := slice x 0 f.M
  let sg (m : Nat) : Int := if f.neg x then -(m : Int) else m
  if e = 2 ^ f.E - 1 then (if fr = 0 then .inf (f.neg x) else .nan)
  else if e = 0 then .num (sg fr) (1 - f.bias - f.M)
  else .num (sg (2 ^ f.M + fr)) ((e : Int) - f.bias - f.M)

def FpFmt.isNan (f : FpFmt) (x : Nat) : Bool := f.val x == .nan
def FpFmt.isSnan (f : FpFmt) (x : Nat) : Bool := f.isNan x && !bitAt x (f.M - 1)

/-- Is the remainder `rest` of `k` dropped bits, with `sticky` below them, rounded up? -/
def roundsUp (rm : Nat) (neg odd : Bool) (rest k : Nat) (sticky : Bool) : Bool :=
  let inexact := rest != 0 || sticky
  let half := if k = 0 then 0 else 2 ^ (k - 1)
  match rm with
  | 0 => k != 0 && (half < rest || (rest == half && (sticky || odd)))
  | 1 => false
  | 2 => neg && inexact
  | 3 => !neg && inexact
  | _ => k != 0 && half ≤ rest

/-- Round a magnitude `m * 2^e`, with `sticky` for non-zero bits below, to a multiple of `2^q`: the multiple, and inexact. -/
def roundAt (rm : Nat) (neg : Bool) (m : Nat) (e q : Int) (sticky : Bool) : Nat × Bool :=
  if q ≤ e then
    let r := m * 2 ^ (e - q).toNat
    (r + nat1 (roundsUp rm neg (r % 2 == 1) 0 0 sticky), sticky)
  else
    let k := (q - e).toNat
    let r := m / 2 ^ k
    (r + nat1 (roundsUp rm neg (r % 2 == 1) (m % 2 ^ k) k sticky), m % 2 ^ k != 0 || sticky)

/-- Round to a format: the encoding and the flags. Tininess is detected after rounding. -/
def fpRound (f : FpFmt) (rm : Nat) (neg : Bool) (m : Nat) (e : Int) (sticky : Bool) : Nat × Nat :=
  if m = 0 then (f.zero neg, 0) else
  let emin : Int := 1 - f.bias
  let x : Int := (ilog2 m : Int) + e
  let q : Int := max x emin - f.M
  let (r0, inexact) := roundAt rm neg m e q sticky
  let (r, q) := if r0 = 2 ^ (f.M + 1) then (2 ^ f.M, q + 1) else (r0, q)
  let sgn := f.zero neg
  let ex := if 2 ^ f.M ≤ r then (q + f.M + f.bias).toNat else 0
  if 2 ^ f.E - 1 ≤ ex then
    let toInf := match rm with | 1 => false | 2 => neg | 3 => !neg | _ => true
    (if toInf then f.infty neg else f.infty neg - 1, fOF + fNX)
  else
    let carry := (roundAt rm neg m e (x - f.M) sticky).1 == 2 ^ (f.M + 1)
    let tiny := decide (x < emin) && !(decide (x + 1 = emin) && carry)
    (sgn + ex * 2 ^ f.M + (if 2 ^ f.M ≤ r then r - 2 ^ f.M else r), if inexact then fNX + (if tiny then fUF else 0) else 0)

/-- A NaN result for these operands: invalid when one is signalling, or when the operation itself is. -/
def FpFmt.nanOf (f : FpFmt) (xs : List Nat) (invalid : Bool) : Nat × Nat := (f.nan, if invalid || xs.any f.isSnan then fNV else 0)

/-- a x b + c with one rounding. -/
def fpFma (f : FpFmt) (rm a b c : Nat) : Nat × Nat :=
  let pneg := f.neg a != f.neg b
  let zeroInf := match f.val a, f.val b with
    | .inf _, .num m _ => m == 0
    | .num m _, .inf _ => m == 0
    | _, _ => false
  if zeroInf then f.nanOf [a, b, c] true else
  match f.val a, f.val b, f.val c with
  | .nan, _, _ | _, .nan, _ | _, _, .nan => f.nanOf [a, b, c] false
  | .num ma ea, .num mb eb, .num mc ec =>
    let pm := ma * mb
    let pe := ea + eb
    let e := min pe ec
    let sum := pm * 2 ^ (pe - e).toNat + mc * 2 ^ (ec - e).toNat
    if sum = 0 then
      if pm = 0 ∧ mc = 0 ∧ pneg = f.neg c then (f.zero pneg, 0) else (f.zero (rm == 2), 0)
    else fpRound f rm (decide (sum < 0)) sum.natAbs e false
  | .num _ _, .num _ _, .inf n => (f.infty n, 0)
  | _, _, .inf n => if n = pneg then (f.infty n, 0) else f.nanOf [a, b, c] true
  | _, _, .num _ _ => (f.infty pneg, 0)

def FpFmt.one (f : FpFmt) : Nat := f.bias.toNat * 2 ^ f.M
/-- The operand with its sign turned. -/
def FpFmt.flip (f : FpFmt) (x : Nat) : Nat := if f.neg x then x - f.zero true else x + f.zero true

def fpAdd (f : FpFmt) (rm a b : Nat) : Nat × Nat := fpFma f rm a f.one b
def fpSub (f : FpFmt) (rm a b : Nat) : Nat × Nat := if f.isNan b then fpFma f rm a f.one b else fpFma f rm a f.one (f.flip b)
def fpMul (f : FpFmt) (rm a b : Nat) : Nat × Nat := fpFma f rm a b (f.zero (f.neg a != f.neg b))

def fpDiv (f : FpFmt) (rm a b : Nat) : Nat × Nat :=
  let neg := f.neg a != f.neg b
  match f.val a, f.val b with
  | .nan, _ | _, .nan => f.nanOf [a, b] false
  | .inf _, .inf _ => f.nanOf [a, b] true
  | .inf _, .num _ _ => (f.infty neg, 0)
  | .num _ _, .inf _ => (f.zero neg, 0)
  | .num ma ea, .num mb eb =>
    if mb = 0 then (if ma = 0 then f.nanOf [a, b] true else (f.infty neg, fDZ))
    else if ma = 0 then (f.zero neg, 0)
    else
      let k := 2 * f.M + 8
      let n := ma.natAbs * 2 ^ k
      fpRound f rm neg (n / mb.natAbs) (ea - eb - k) (n % mb.natAbs != 0)

def fpSqrt (f : FpFmt) (rm a : Nat) : Nat × Nat :=
  match f.val a with
  | .nan => f.nanOf [a] false
  | .inf n => if n then f.nanOf [a] true else (a, 0)
  | .num m e =>
    if m = 0 then (a, 0) else if m < 0 then f.nanOf [a] true else
    let k := 2 * f.M + 8
    let (m, e) := if (e - k) % 2 = 0 then (m.natAbs * 2 ^ k, e - k) else (m.natAbs * 2 ^ (k + 1), e - k - 1)
    let r := Nat.sqrt m
    fpRound f rm false r (e / 2) (r * r != m)

/-- Less than, less or equal and equal on the numbers; false on a NaN. -/
def valLt (a b : Val) : Bool :=
  match a, b with
  | .nan, _ | _, .nan => false
  | .inf n, .inf m => n && !m
  | .inf n, .num _ _ => n
  | .num _ _, .inf m => !m
  | .num ma ea, .num mb eb => let e := min ea eb; decide (ma * 2 ^ (ea - e).toNat < mb * 2 ^ (eb - e).toNat)
def valEq (a b : Val) : Bool := a != .nan && b != .nan && !valLt a b && !valLt b a

def fpLt (f : FpFmt) (a b : Nat) : Nat × Nat := (nat1 (valLt (f.val a) (f.val b)), if f.isNan a || f.isNan b then fNV else 0)
def fpLe (f : FpFmt) (a b : Nat) : Nat × Nat :=
  (nat1 (valLt (f.val a) (f.val b) || valEq (f.val a) (f.val b)), if f.isNan a || f.isNan b then fNV else 0)
def fpEq (f : FpFmt) (a b : Nat) : Nat × Nat := (nat1 (valEq (f.val a) (f.val b)), if f.isSnan a || f.isSnan b then fNV else 0)

/-- minimumNumber and maximumNumber. -/
def fpMin (f : FpFmt) (a b : Nat) : Nat × Nat :=
  let fl := if f.isSnan a || f.isSnan b then fNV else 0
  if f.isNan a ∧ f.isNan b then (f.nan, fl) else if f.isNan a then (b, fl) else if f.isNan b then (a, fl)
  else (if valLt (f.val a) (f.val b) || (valEq (f.val a) (f.val b) && f.neg a) then a else b, fl)
def fpMax (f : FpFmt) (a b : Nat) : Nat × Nat :=
  let fl := if f.isSnan a || f.isSnan b then fNV else 0
  if f.isNan a ∧ f.isNan b then (f.nan, fl) else if f.isNan a then (b, fl) else if f.isNan b then (a, fl)
  else (if valLt (f.val b) (f.val a) || (valEq (f.val a) (f.val b) && !f.neg a) then a else b, fl)

/-- Sign injection: 0 sign of b, 1 its inverse, 2 exclusive or. -/
def fpSgnj (f : FpFmt) (k a b : Nat) : Nat :=
  let s := match k with | 0 => f.neg b | 1 => !f.neg b | _ => f.neg a != f.neg b
  a % f.zero true + f.zero s

def fpClass (f : FpFmt) (x : Nat) : Nat :=
  let n := f.neg x
  match f.val x with
  | .nan => if f.isSnan x then 2 ^ 8 else 2 ^ 9
  | .inf _ => if n then 1 else 2 ^ 7
  | .num m _ =>
    if m = 0 then (if n then 2 ^ 3 else 2 ^ 4)
    else if slice x f.M f.E = 0 then (if n then 2 ^ 2 else 2 ^ 5) else (if n then 2 else 2 ^ 6)

/-- To a two's-complement or unsigned integer of `w` bits, saturating. -/
def fpToInt (f : FpFmt) (rm w : Nat) (signed : Bool) (x : Nat) : Nat × Nat :=
  let hi : Int := if signed then 2 ^ (w - 1) - 1 else 2 ^ w - 1
  let lo : Int := if signed then -(2 ^ (w - 1) : Int) else 0
  match f.val x with
  | .nan => (unsignedOf hi w, fNV)
  | .inf n => (unsignedOf (if n then lo else hi) w, fNV)
  | .num m e =>
    let (r, inexact) := roundAt rm (decide (m < 0)) m.natAbs e 0 false
    let v : Int := if m < 0 then -(r : Int) else r
    if hi < v then (unsignedOf hi w, fNV) else if v < lo then (unsignedOf lo w, fNV)
    else (unsignedOf v w, if inexact then fNX else 0)

def fpOfInt (f : FpFmt) (rm : Nat) (v : Int) : Nat × Nat := fpRound f rm (decide (v < 0)) v.natAbs 0 false

/-- Between formats. -/
def fpConv (g f : FpFmt) (rm x : Nat) : Nat × Nat :=
  match g.val x with
  | .nan => (f.nan, if g.isSnan x then fNV else 0)
  | .inf n => (f.infty n, 0)
  | .num m e => if m = 0 then (f.zero (g.neg x), 0) else fpRound f rm (decide (m < 0)) m.natAbs e false

/-- A narrower value in a 64-bit register: boxed; unboxed, or the canonical NaN. -/
def boxFp (w v : Nat) : Nat := v % 2 ^ w + (2 ^ 64 - 2 ^ w)
def unboxFp (w v : Nat) : Nat := if w = 64 then v else if v / 2 ^ w = 2 ^ (64 - w) - 1 then v % 2 ^ w else (rvFmt w).nan

end Sys2Proof.Machine
end

