-- ==== Sys2Proof/Machine/RvInt.lean ====
section
/-! DEFINITION. The scalar instructions of a spout core (R188): RV64IMAFDC with Zicsr, Zifencei, Zba, Zbb, Zbs, Zicond, Zicbom,
Zihintpause and Zfh, decoded to what they do. The manual names the extensions; their encodings and results are RISC-V's own
(PRESUMED, log entry 27). -/
namespace Sys2Proof.Machine

/-- What one instruction does to its core. -/
inductive Uop where
  | wx (rd v flags : Nat)                         -- write an integer register
  | wf (rd v flags : Nat)                         -- write a floating-point register, 64 bits
  | jump (rd target : Nat)                        -- rd takes the address of the next instruction
  | load (rd a n : Nat) (signed isFp : Bool)
  | store (a n v : Nat)
  | lr (rd a n : Nat)
  | sc (rd a n v : Nat)
  | amo (op rd a n v : Nat)
  | csr (kind rd num src : Nat) (write : Bool)    -- kind 1 write, 2 set, 3 clear
  | fence (writes : Bool)
  | fencei
  | cbo (kind a : Nat)                            -- 0 inval, 1 clean, 2 flush
  | nop
  | ecall
  | ebreak
  | custom (f3 rd rs1 rs2 : Nat)
  | vec                                           -- an instruction of the vector extension
  | illegal
  deriving DecidableEq, Repr

/-! ### Arithmetic on 64-bit registers -/

def s64 (v : Nat) : Int := signedOf v 64
def u64 (v : Int) : Nat := unsignedOf v 64
/-- A 32-bit result, sign-extended. -/
def sx32 (v : Nat) : Nat := u64 (signedOf v 32)

def clz (w v : Nat) : Nat := if v % 2 ^ w = 0 then w else w - 1 - Nat.log2 (v % 2 ^ w)
def ctz (w v : Nat) : Nat := ((List.range w).find? fun i => bitAt v i).getD w
def cpop (w v : Nat) : Nat := ((List.range w).filter fun i => bitAt v i).length

def rol (w v k : Nat) : Nat := (v * 2 ^ (k % w) + v / 2 ^ (w - k % w)) % 2 ^ w
def ror (w v k : Nat) : Nat := rol w v (w - k % w)
/-- The bytes of a doubleword mapped, or turned around. -/
def orcb (v : Nat) : Nat := ((List.range 8).map fun i => (if slice v (8 * i) 8 = 0 then 0 else 255) * 2 ^ (8 * i)).foldl (· + ·) 0
def rev8 (v : Nat) : Nat := ((List.range 8).map fun i => slice v (8 * i) 8 * 2 ^ (56 - 8 * i)).foldl (· + ·) 0

/-- Division and remainder of `w` bits: by zero, and of the least number by -1, as RISC-V has them. -/
def divS (w a b : Nat) : Int := if b % 2 ^ w = 0 then -1 else Int.tdiv (signedOf a w) (signedOf b w)
def remS (w a b : Nat) : Int := if b % 2 ^ w = 0 then signedOf a w else Int.tmod (signedOf a w) (signedOf b w)
def divU (w a b : Nat) : Nat := if b % 2 ^ w = 0 then 2 ^ w - 1 else a % 2 ^ w / (b % 2 ^ w)
def remU (w a b : Nat) : Nat := if b % 2 ^ w = 0 then a % 2 ^ w else a % 2 ^ w % (b % 2 ^ w)

/-- Arithmetic shift right of `w` bits. -/
def sra (w v k : Nat) : Nat := unsignedOf (signedOf v w / (2 : Int) ^ k) w
/-- A one-bit change at position `k`. -/
def setBit (v k : Nat) : Nat := v ||| 2 ^ k
def clrBit (v k : Nat) : Nat := if bitAt v k then v - 2 ^ k else v
def invBit (v k : Nat) : Nat := v ^^^ 2 ^ k
def not64 (v : Nat) : Nat := 2 ^ 64 - 1 - v % 2 ^ 64

/-! ### Fields -/

def rvRd (w : Nat) : Nat := slice w 7 5
def rvRs1 (w : Nat) : Nat := slice w 15 5
def rvRs2 (w : Nat) : Nat := slice w 20 5
def rvF3 (w : Nat) : Nat := slice w 12 3
def rvF7 (w : Nat) : Nat := slice w 25 7
def immI (w : Nat) : Int := signedOf (slice w 20 12) 12
def immS (w : Nat) : Int := signedOf (slice w 25 7 * 32 + slice w 7 5) 12
def immB (w : Nat) : Int := signedOf (slice w 31 1 * 4096 + slice w 7 1 * 2048 + slice w 25 6 * 32 + slice w 8 4 * 2) 13
def immU (w : Nat) : Int := signedOf (slice w 12 20 * 4096) 32
def immJ (w : Nat) : Int := signedOf (slice w 31 1 * 2 ^ 20 + slice w 12 8 * 4096 + slice w 20 1 * 2048 + slice w 21 10 * 2) 21

/-! ### Register and immediate operations -/

/-- OP: register with register. -/
def opRR (f7 f3 a b : Nat) : Option Nat :=
  let sh := b % 64
  let m := 2 ^ 64
  match f7, f3 with
  | 0x00, 0 => some ((a + b) % m)
  | 0x20, 0 => some ((a + m - b) % m)
  | 0x00, 1 => some (a * 2 ^ sh % m)
  | 0x00, 2 => some (nat1 (decide (s64 a < s64 b)))
  | 0x00, 3 => some (nat1 (decide (a < b)))
  | 0x00, 4 => some (a ^^^ b)
  | 0x00, 5 => some (a / 2 ^ sh)
  | 0x20, 5 => some (sra 64 a sh)
  | 0x00, 6 => some (a ||| b)
  | 0x00, 7 => some (a &&& b)
  | 0x01, 0 => some (a * b % m)
  | 0x01, 1 => some (u64 (s64 a * s64 b / m))
  | 0x01, 2 => some (u64 (s64 a * b / m))
  | 0x01, 3 => some (a * b / m)
  | 0x01, 4 => some (u64 (divS 64 a b))
  | 0x01, 5 => some (divU 64 a b)
  | 0x01, 6 => some (u64 (remS 64 a b))
  | 0x01, 7 => some (remU 64 a b)
  | 0x10, 2 => some ((b + a * 2) % m)
  | 0x10, 4 => some ((b + a * 4) % m)
  | 0x10, 6 => some ((b + a * 8) % m)
  | 0x20, 7 => some (a &&& not64 b)
  | 0x20, 6 => some (a ||| not64 b)
  | 0x20, 4 => some (not64 (a ^^^ b))
  | 0x05, 4 => some (if s64 a < s64 b then a else b)
  | 0x05, 5 => some (min a b)
  | 0x05, 6 => some (if s64 a < s64 b then b else a)
  | 0x05, 7 => some (max a b)
  | 0x30, 1 => some (rol 64 a sh)
  | 0x30, 5 => some (ror 64 a sh)
  | 0x24, 1 => some (clrBit a sh)
  | 0x24, 5 => some (a / 2 ^ sh % 2)
  | 0x34, 1 => some (invBit a sh)
  | 0x14, 1 => some (setBit a sh)
  | 0x07, 5 => some (if b = 0 then 0 else a)
  | 0x07, 7 => some (if b = 0 then a else 0)
  | _, _ => none

/-- OP-32. -/
def opRR32 (f7 f3 rs2 a b : Nat) : Option Nat :=
  let sh := b % 32
  let aw := a % 2 ^ 32
  match f7, f3 with
  | 0x00, 0 => some (sx32 (a + b))
  | 0x20, 0 => some (sx32 (a + 2 ^ 64 - b))
  | 0x00, 1 => some (sx32 (aw * 2 ^ sh))
  | 0x00, 5 => some (sx32 (aw / 2 ^ sh))
  | 0x20, 5 => some (sx32 (sra 32 aw sh))
  | 0x01, 0 => some (sx32 (a * b))
  | 0x01, 4 => some (u64 (signedOf (unsignedOf (divS 32 a b) 32) 32))
  | 0x01, 5 => some (sx32 (divU 32 a b))
  | 0x01, 6 => some (u64 (remS 32 a b))
  | 0x01, 7 => some (sx32 (remU 32 a b))
  | 0x04, 0 => some ((aw + b) % 2 ^ 64)
  | 0x04, 4 => if rs2 = 0 then some (a % 2 ^ 16) else none
  | 0x10, 2 => some ((b + aw * 2) % 2 ^ 64)
  | 0x10, 4 => some ((b + aw * 4) % 2 ^ 64)
  | 0x10, 6 => some ((b + aw * 8) % 2 ^ 64)
  | 0x30, 1 => some (sx32 (rol 32 aw sh))
  | 0x30, 5 => some (sx32 (ror 32 aw sh))
  | _, _ => none

/-- OP-IMM. -/
def opImm (w f3 a : Nat) : Option Nat :=
  let i := u64 (immI w)
  let sh := slice w 20 6
  let f6 := slice w 26 6
  match f3 with
  | 0 => some ((a + i) % 2 ^ 64)
  | 2 => some (nat1 (decide (s64 a < immI w)))
  | 3 => some (nat1 (decide (a < i)))
  | 4 => some (a ^^^ i)
  | 6 => some (a ||| i)
  | 7 => some (a &&& i)
  | 1 =>
    if f6 = 0 then some (a * 2 ^ sh % 2 ^ 64)
    else if f6 = 0x12 then some (clrBit a sh) else if f6 = 0x1A then some (invBit a sh) else if f6 = 0x0A then some (setBit a sh)
    else if f6 = 0x18 then
      match sh with
      | 0 => some (clz 64 a)
      | 1 => some (ctz 64 a)
      | 2 => some (cpop 64 a)
      | 4 => some (u64 (signedOf a 8))
      | 5 => some (u64 (signedOf a 16))
      | _ => none
    else none
  | _ =>
    if f6 = 0 then some (a / 2 ^ sh) else if f6 = 0x10 then some (sra 64 a sh)
    else if f6 = 0x18 then some (ror 64 a sh) else if f6 = 0x12 then some (a / 2 ^ sh % 2)
    else if slice w 20 12 = 0x287 then some (orcb a) else if slice w 20 12 = 0x6B8 then some (rev8 a) else none

/-- OP-IMM-32. -/
def opImm32 (w f3 a : Nat) : Option Nat :=
  let sh := slice w 20 5
  let aw := a % 2 ^ 32
  match f3 with
  | 0 => some (sx32 (a + u64 (immI w)))
  | 1 =>
    if rvF7 w = 0 then some (sx32 (aw * 2 ^ sh))
    else if slice w 26 6 = 0x02 then some (aw * 2 ^ slice w 20 6 % 2 ^ 64)
    else if rvF7 w = 0x30 then (match sh with | 0 => some (clz 32 aw) | 1 => some (ctz 32 aw) | 2 => some (cpop 32 aw) | _ => none)
    else none
  | 5 =>
    if rvF7 w = 0 then some (sx32 (aw / 2 ^ sh)) else if rvF7 w = 0x20 then some (sx32 (sra 32 aw sh))
    else if rvF7 w = 0x30 then some (sx32 (ror 32 aw sh)) else none
  | _ => none

/-- BRANCH. -/
def takesBranch (f3 a b : Nat) : Option Bool :=
  match f3 with
  | 0 => some (a == b)
  | 1 => some (a != b)
  | 4 => some (decide (s64 a < s64 b))
  | 5 => some (!decide (s64 a < s64 b))
  | 6 => some (decide (a < b))
  | 7 => some (!decide (a < b))
  | _ => none

/-! ### Floating point -/

/-- The width of a format field: S, D, H. -/
def fmtWidth (k : Nat) : Option Nat := match k with | 0 => some 32 | 1 => some 64 | 2 => some 16 | _ => none

/-- A result of width `w` as a register holds it. -/
def wfBox (rd w : Nat) (r : Nat × Nat) : Uop := .wf rd (if w = 64 then r.1 else boxFp w r.1) r.2

/-- OP-FP with rounding mode `rm`; `a`, `b` are register contents, `xa` the integer register. -/
def opFp (w rm : Nat) (rmOk : Bool) (a b xa : Nat) : Uop :=
  match fmtWidth (slice w 25 2) with
  | none => .illegal
  | some n =>
    let f := rvFmt n
    let rd := rvRd w
    let rs2 := rvRs2 w
    let f3 := rvF3 w
    let u := unboxFp n a
    let v := unboxFp n b
    let rounded (r : Uop) : Uop := if rmOk then r else .illegal
    match slice w 27 5 with
    | 0x00 => rounded (wfBox rd n (fpAdd f rm u v))
    | 0x01 => rounded (wfBox rd n (fpSub f rm u v))
    | 0x02 => rounded (wfBox rd n (fpMul f rm u v))
    | 0x03 => rounded (wfBox rd n (fpDiv f rm u v))
    | 0x0B => if rs2 = 0 then rounded (wfBox rd n (fpSqrt f rm u)) else .illegal
    | 0x04 => if f3 < 3 then wfBox rd n (fpSgnj f f3 u v, 0) else .illegal
    | 0x05 => if f3 = 0 then wfBox rd n (fpMin f u v) else if f3 = 1 then wfBox rd n (fpMax f u v) else .illegal
    | 0x08 =>
      match fmtWidth rs2 with
      | some g => if g = n then .illegal else rounded (wfBox rd n (fpConv (rvFmt g) f rm (unboxFp g a)))
      | none => .illegal
    | 0x14 =>
      let r := match f3 with | 0 => some (fpLe f u v) | 1 => some (fpLt f u v) | 2 => some (fpEq f u v) | _ => none
      match r with
      | some r => .wx rd r.1 r.2
      | none => .illegal
    | 0x18 =>
      if 4 ≤ rs2 then .illegal else
      let k := if rs2 < 2 then 32 else 64
      let r := fpToInt f rm k (rs2 % 2 == 0) u
      rounded (.wx rd (u64 (signedOf r.1 k)) r.2)
    | 0x1A =>
      let i : Int := match rs2 with | 0 => signedOf xa 32 | 1 => ((xa % 2 ^ 32 : Nat) : Int) | 2 => s64 xa | _ => (xa : Int)
      if 4 ≤ rs2 then .illegal else rounded (wfBox rd n (fpOfInt f rm i))
    | 0x1C =>
      if rs2 ≠ 0 then .illegal
      else if f3 = 0 then .wx rd (u64 (signedOf a n)) 0
      else if f3 = 1 then .wx rd (fpClass f u) 0 else .illegal
    | 0x1E => if rs2 = 0 ∧ f3 = 0 then wfBox rd n (xa % 2 ^ n, 0) else .illegal
    | _ => .illegal

/-- Fused multiply-add: 0 fmadd, 1 fmsub, 2 fnmsub, 3 fnmadd. -/
def opFma (w k rm a b c : Nat) : Uop :=
  match fmtWidth (slice w 25 2) with
  | none => .illegal
  | some n =>
    let f := rvFmt n
    let turn (p : Bool) (x : Nat) : Nat := if p && !f.isNan x then f.flip x else x
    let u := turn (k == 2 || k == 3) (unboxFp n a)
    let z := turn (k == 1 || k == 3) (unboxFp n c)
    wfBox (rvRd w) n (fpFma f rm u (unboxFp n b) z)

/-! ### Decoding -/

/-- What a 32-bit instruction does; `x`, `f`: the registers. -/
def rvOp (w pc frm : Nat) (x f : Nat → Nat) : Uop :=
  let rd := rvRd w
  let f3 := rvF3 w
  let a := x (rvRs1 w)
  let b := x (rvRs2 w)
  let wx (v : Option Nat) : Uop := match v with | some v => .wx rd v 0 | none => .illegal
  let at_ (i : Int) : Nat := u64 ((a : Int) + i)
  let rm := if f3 = 7 then frm else f3
  let rmOk := decide (rm ≤ 4)
  match w % 128 with
  | 0x37 => .wx rd (u64 (immU w)) 0
  | 0x17 => .wx rd (u64 ((pc : Int) + immU w)) 0
  | 0x6F => .jump rd (u64 ((pc : Int) + immJ w))
  | 0x67 => if f3 = 0 then .jump rd (at_ (immI w) / 2 * 2) else .illegal
  | 0x63 =>
    match takesBranch f3 a b with
    | some true => .jump 0 (u64 ((pc : Int) + immB w))
    | some false => .nop
    | none => .illegal
  | 0x03 => if f3 = 7 then .illegal else .load rd (at_ (immI w)) (2 ^ (f3 % 4)) (decide (f3 < 4)) false
  | 0x23 => if 4 ≤ f3 then .illegal else .store (at_ (immS w)) (2 ^ f3) b
  | 0x13 => wx (opImm w f3 a)
  | 0x1B => wx (opImm32 w f3 a)
  | 0x33 => wx (opRR (rvF7 w) f3 a b)
  | 0x3B => wx (opRR32 (rvF7 w) f3 (rvRs2 w) a b)
  | 0x0F =>
    if f3 = 0 then (if w = 0x0100000F then .nop else .fence (bitAt w 24))
    else if f3 = 1 then .fencei
    else if f3 = 2 ∧ rd = 0 ∧ slice w 20 12 < 3 then .cbo (slice w 20 12) a
    else .illegal
  | 0x73 =>
    if f3 = 0 then (if w = 0x73 then .ecall else if w = 0x100073 then .ebreak else .illegal)
    else if f3 = 4 then .illegal
    else
      let src := if f3 < 4 then a else rvRs1 w
      .csr (f3 % 4) rd (slice w 20 12) src (f3 % 4 == 1 || rvRs1 w != 0)
  | 0x2F =>
    if f3 ≠ 2 ∧ f3 ≠ 3 then .illegal else
    let n := 2 ^ f3
    match slice w 27 5 with
    | 2 => if rvRs2 w = 0 then .lr rd a n else .illegal
    | 3 => .sc rd a n b
    | k => if k = 0 ∨ k = 1 ∨ k % 4 = 0 then .amo k rd a n b else .illegal
  | 0x07 => if f3 = 1 ∨ f3 = 2 ∨ f3 = 3 then .load rd (at_ (immI w)) (2 ^ f3) false true else if f3 = 4 then .illegal else .vec
  | 0x27 => if f3 = 1 ∨ f3 = 2 ∨ f3 = 3 then .store (at_ (immS w)) (2 ^ f3) (f (rvRs2 w)) else if f3 = 4 then .illegal else .vec
  | 0x53 => opFp w rm rmOk (f (rvRs1 w)) (f (rvRs2 w)) a
  | 0x43 => if rmOk then opFma w 0 rm (f (rvRs1 w)) (f (rvRs2 w)) (f (slice w 27 5)) else .illegal
  | 0x47 => if rmOk then opFma w 1 rm (f (rvRs1 w)) (f (rvRs2 w)) (f (slice w 27 5)) else .illegal
  | 0x4B => if rmOk then opFma w 2 rm (f (rvRs1 w)) (f (rvRs2 w)) (f (slice w 27 5)) else .illegal
  | 0x4F => if rmOk then opFma w 3 rm (f (rvRs1 w)) (f (rvRs2 w)) (f (slice w 27 5)) else .illegal
  | 0x57 => .vec
  | 0x0B => if rvF7 w = 0 ∧ f3 < 6 then .custom f3 rd (rvRs1 w) (rvRs2 w) else .illegal
  | _ => .illegal

/-! ### Compressed instructions -/

/-- 32-bit encodings built from fields. -/
def encR (f7 rs2 rs1 f3 rd op : Nat) : Nat := f7 * 2 ^ 25 + rs2 * 2 ^ 20 + rs1 * 2 ^ 15 + f3 * 2 ^ 12 + rd * 2 ^ 7 + op
def encI (imm : Int) (rs1 f3 rd op : Nat) : Nat := unsignedOf imm 12 * 2 ^ 20 + rs1 * 2 ^ 15 + f3 * 2 ^ 12 + rd * 2 ^ 7 + op
def encS (imm rs2 rs1 f3 op : Nat) : Nat := imm / 32 * 2 ^ 25 + rs2 * 2 ^ 20 + rs1 * 2 ^ 15 + f3 * 2 ^ 12 + imm % 32 * 2 ^ 7 + op
def encU (imm : Int) (rd op : Nat) : Nat := unsignedOf imm 20 * 2 ^ 12 + rd * 2 ^ 7 + op
def encB (imm : Int) (rs1 f3 : Nat) : Nat :=
  let i := unsignedOf imm 13
  slice i 12 1 * 2 ^ 31 + slice i 5 6 * 2 ^ 25 + rs1 * 2 ^ 15 + f3 * 2 ^ 12 + slice i 1 4 * 2 ^ 8 + slice i 11 1 * 2 ^ 7 + 0x63
def encJ (imm : Int) (rd : Nat) : Nat :=
  let i := unsignedOf imm 21
  slice i 20 1 * 2 ^ 31 + slice i 1 10 * 2 ^ 21 + slice i 11 1 * 2 ^ 20 + slice i 12 8 * 2 ^ 12 + rd * 2 ^ 7 + 0x6F

/-- The 32-bit instruction that a 16-bit one stands for; none where it is illegal. -/
def expandC (h : Nat) : Option Nat :=
  let rdp := 8 + slice h 2 3
  let rsp := 8 + slice h 7 3
  let r := slice h 7 5
  let r2 := slice h 2 5
  let b (lo w at_ : Nat) : Nat := slice h lo w * 2 ^ at_
  let imm6 : Int := signedOf (b 12 1 5 + b 2 5 0) 6
  let sh := b 12 1 5 + b 2 5 0
  let offW := b 10 3 3 + b 6 1 2 + b 5 1 6
  let offD := b 10 3 3 + b 5 2 6
  let jmp : Int := signedOf (b 12 1 11 + b 11 1 4 + b 9 2 8 + b 8 1 10 + b 7 1 6 + b 6 1 7 + b 3 3 1 + b 2 1 5) 12
  let br : Int := signedOf (b 12 1 8 + b 10 2 3 + b 5 2 6 + b 3 2 1 + b 2 1 5) 9
  let spW := b 12 1 5 + b 4 3 2 + b 2 2 6
  let spD := b 12 1 5 + b 5 2 3 + b 2 3 6
  match h % 4, slice h 13 3 with
  | 0, 0 =>
    let n := b 11 2 4 + b 7 4 6 + b 6 1 2 + b 5 1 3
    if n = 0 then none else some (encI n 2 0 rdp 0x13)
  | 0, 1 => some (encI offD rsp 3 rdp 0x07)
  | 0, 2 => some (encI offW rsp 2 rdp 0x03)
  | 0, 3 => some (encI offD rsp 3 rdp 0x03)
  | 0, 5 => some (encS offD rdp rsp 3 0x27)
  | 0, 6 => some (encS offW rdp rsp 2 0x23)
  | 0, 7 => some (encS offD rdp rsp 3 0x23)
  | 1, 0 => some (encI imm6 r 0 r 0x13)
  | 1, 1 => if r = 0 then none else some (encI imm6 r 0 r 0x1B)
  | 1, 2 => some (encI imm6 0 0 r 0x13)
  | 1, 3 =>
    if r = 2 then
      let n : Int := signedOf (b 12 1 9 + b 6 1 4 + b 5 1 6 + b 3 2 7 + b 2 1 5) 10
      if n = 0 then none else some (encI n 2 0 2 0x13)
    else if imm6 = 0 then none else some (encU imm6 r 0x37)
  | 1, 4 =>
    match slice h 10 2 with
    | 0 => some (encI sh rsp 5 rsp 0x13)
    | 1 => some (encI (1024 + sh) rsp 5 rsp 0x13)
    | 2 => some (encI imm6 rsp 7 rsp 0x13)
    | _ =>
      match slice h 12 1, slice h 5 2 with
      | 0, 0 => some (encR 0x20 rdp rsp 0 rsp 0x33)
      | 0, 1 => some (encR 0 rdp rsp 4 rsp 0x33)
      | 0, 2 => some (encR 0 rdp rsp 6 rsp 0x33)
      | 0, _ => some (encR 0 rdp rsp 7 rsp 0x33)
      | _, 0 => some (encR 0x20 rdp rsp 0 rsp 0x3B)
      | _, 1 => some (encR 0 rdp rsp 0 rsp 0x3B)
      | _, _ => none
  | 1, 5 => some (encJ jmp 0)
  | 1, 6 => some (encB br rsp 0)
  | 1, 7 => some (encB br rsp 1)
  | 2, 0 => some (encI sh r 1 r 0x13)
  | 2, 1 => some (encI spD 2 3 r 0x07)
  | 2, 2 => if r = 0 then none else some (encI spW 2 2 r 0x03)
  | 2, 3 => if r = 0 then none else some (encI spD 2 3 r 0x03)
  | 2, 4 =>
    if slice h 12 1 = 0 then
      if r2 = 0 then (if r = 0 then none else some (encI 0 r 0 0 0x67)) else some (encR 0 r2 0 0 r 0x33)
    else if r2 = 0 then (if r = 0 then some 0x100073 else some (encI 0 r 0 1 0x67)) else some (encR 0 r2 r 0 r 0x33)
  | 2, 5 => some (encS (b 10 3 3 + b 7 3 6) r2 2 3 0x27)
  | 2, 6 => some (encS (b 9 4 2 + b 7 2 6) r2 2 2 0x23)
  | 2, 7 => some (encS (b 10 3 3 + b 7 3 6) r2 2 3 0x23)
  | _, _ => none

/-- The result that an AMO leaves in memory, of `n` bytes. -/
def amoResult (op n old v : Nat) : Nat :=
  let w := 8 * n
  let lt := decide (signedOf old w < signedOf v w)
  let o := old % 2 ^ w
  let v := v % 2 ^ w
  match op with
  | 0x00 => (o + v) % 2 ^ w
  | 0x01 => v
  | 0x04 => o ^^^ v
  | 0x0C => o &&& v
  | 0x08 => o ||| v
  | 0x10 => if lt then o else v
  | 0x14 => if lt then v else o
  | 0x18 => min o v
  | _ => max o v

end Sys2Proof.Machine
end

