-- ==== Sys2Proof/Machine/Slices.lean ====
section
/-! DEFINITION. Slices (chapter 11): binding, keys, memory ranges, assignment, refused host requests, freezing, slice reset. -/
namespace Sys2Proof.Machine

/-! ### Keys and ranges (R230, R235, R238) -/

/-- KEY_DATA of slice `sl` as one number, word 0 low. -/
def State.keyData (s : State) (sl : Nat) : Nat := ((List.range 16).map fun i => s.reg .keyData (16 * sl + i) * 2 ^ (32 * i)).foldl (· + ·) 0

def State.zeroKeyData (s : State) (sl : Nat) : State := s.each (List.range 16) fun s i => s.setReg .keyData (16 * sl + i) 0

/-- The key loaded for slice `sl`, if there is one. -/
def State.sliceKey? (s : State) (sl : Nat) : Option (BitVec 512) := (s.sliceSt sl).key.bind fun k => s.keys[k]?

/-- Install a key. -/
def State.installKey (s : State) (sl : Nat) (key : BitVec 512) : State :=
  let known := s.keys.findIdx? (· == key)
  let s := if known.isSome then s else { s with keys := s.keys ++ [key] }
  let s := s.setSliceSt sl { s.sliceSt sl with key := some (known.getD (s.keys.length - 1)) }
  ((s.wr Fld.keyStatusKeyValid sl 1).wr Fld.keyStatusKeyError sl 0).wr Fld.keyStatusCause sl 0

/-- KEY_CMD.load (R238). -/
def State.keyLoad (s : State) (sl : Nat) : State :=
  let k := s.keyData sl
  let refuse (cause : Nat) : State := (s.wr Fld.keyStatusKeyError sl 1).wr Fld.keyStatusCause sl cause
  if k % 2 ^ 256 = k / 2 ^ 256 then refuse 1
  else if (List.range 128).any fun t => t != sl && s.sliceKey? t == some (BitVec.ofNat 512 k) then refuse 2
  else s.installKey sl (BitVec.ofNat 512 k)

/-- The key of slice `sl` is erased. -/
def State.keyErase (s : State) (sl : Nat) : State := (s.setSliceSt sl { s.sliceSt sl with key := none }).wr Fld.keyStatusKeyValid sl 0

/-- A write of KEY_CMD. -/
def State.keyCmdWrite (s : State) (sl v : Nat) : State :=
  let s := if s.sliceState sl ≠ 0 then s.info (unitHub 0) else
    let s := if bitAt v 0 then s.keyLoad sl else s
    if bitAt v 1 then s.keyErase sl else s
  s.zeroKeyData sl

def execKeyLoad (dt sl v : Nat) (s : State) : Host.Outcome State Fault Refusal :=
  enter (.keyLoad dt sl v) dt s fun s => s.whenever (bitAt v 0) fun s => s.keyCmdWrite sl v

def execKeyErase (dt sl v : Nat) (s : State) : Host.Outcome State Fault Refusal :=
  enter (.keyErase dt sl v) dt s fun s => s.whenever (bitAt v 1) fun s => s.keyCmdWrite sl v

/-- May a range stand as enabled (R235)? -/
def State.rangeOk (s : State) (sl base last : Nat) : Bool :=
  let lo := base * 2 ^ 21
  let hi := last * 2 ^ 21 + (2 ^ 21 - 1)
  base ≤ last && mapped lo && mapped hi &&
    s.ranges.all fun r => r.1 == sl || r.2.2 < lo || hi < r.2.1

/-- A write of MEM_RANGE_BASE(i) or MEM_RANGE_LAST(i): checked where the range is enabled before or after it (R235). -/
def State.rangeWrite (s : State) (sl i : Nat) (last : Bool) (v : Nat) : State :=
  let k := 8 * sl + i
  let was := s.rd Fld.memRangeBaseEnable k
  let en := if last then was else v % 2
  let b := if last then s.rd Fld.memRangeBaseBase k else slice v 21 23
  let l := if last then slice v 21 23 else s.rd Fld.memRangeLastLast k
  if s.sliceState sl ≠ 0 || ((was == 1 || en == 1) && !s.rangeOk sl b l) then s.info (unitHub 0)
  else if last then s.wr Fld.memRangeLastLast k l
  else (s.wr Fld.memRangeBaseEnable k en).wr Fld.memRangeBaseBase k b

def execMemRangeWrite (dt sl ix : Nat) (last : Bool) (v : Nat) (s : State) : Host.Outcome State Fault Refusal :=
  enter (.memRangeWrite dt sl ix last v) dt s fun s => s.rangeWrite sl ix last v

/-- A write of SLICE_PASID (R230). -/
def State.pasidWrite (s : State) (sl v : Nat) : State :=
  if s.sliceState sl ≠ 0 then s.info (unitHub 0)
  else (s.wr Fld.slicePasidPasid sl v).wr Fld.slicePasidPasidValid sl (v / 2 ^ 20)

/-- Slice `sl` is in fixed-share mode (R259). -/
def State.fixedShare (s : State) (sl : Nat) : Bool := s.on Fld.schedShareFixedShare sl

/-- A write of SLICE_BASINS: it may share no basin with a slice in fixed-share mode (R259). -/
def State.basinsWrite (s : State) (sl v : Nat) : State :=
  let shares (t : Nat) : Bool := t != sl && 1 ≤ t && s.reg .sliceBasins t &&& v % 2 ^ 64 != 0
  if 1 ≤ sl && (List.range 128).any fun t => shares t && (s.fixedShare t || s.fixedShare sl) then s.info (unitHub 0)
  else (s.setReg .sliceBasins sl v).protectNow s ((List.range 64).filter fun b => s.fixedShare sl && bitAt v b)

def execSliceBasinsWrite (dt sl v : Nat) (s : State) : Host.Outcome State Fault Refusal :=
  enter (.sliceBasinsWrite dt sl v) dt s fun s => s.basinsWrite sl v

/-! ### Slice reset (R246) -/

/-- The rings of a slice stop: no packet is queued or served, no reply is owed. -/
def State.clearRings (s : State) (sl : Nat) : State :=
  s.each (sliceRings sl) fun s r =>
    (s.wr Fld.ringCtrlEnable r 0).setRing r { s.ring r with stampQ := [], held := [], failedLen := none }

/-- A command of a slice under reset ends without a reply. -/
def State.resetEnd (s : State) (c : Cmd) : State :=
  let r := s.copyStopped c
  (if c.opcode = 0xA ∧ !c.begun then r.1.cascadeDropFetch (c.target / 8) c.id else r.1).abandonSilent r.2

/-- A command that only waits: it holds no transfer (WAIT, FENCE, a parked serving command). -/
def Cmd.onlyWaits (c : Cmd) : Bool := c.opcode == 1 || c.opcode == 2 || c.phase == .parked

/-- The saved jobs of slice `sl` are gone (R264). -/
def State.dropSaves (s : State) (sl : Nat) : State :=
  let s := s.each (s.saves.filter fun x => x.1 / 64 == sl) fun s x =>
    match x.2.task with
    | some t => s.leave t.cmd
    | none => s
  let s := { s with saves := s.saves.filter fun x => x.1 / 64 != sl }
  (s.each (s.cmds.filter fun c => c.slice == sl && c.phase == .saved) fun s c => s.leave c.id).setReg .schedSaved sl 0

/-- Tasks of a slice whose cores have no access outstanding end (R246 step 2, R243). -/
def State.stopTasks (s : State) (sl code : Nat) : State :=
  s.each (s.taskBasins sl) fun s b => if s.coresDrained b then s.taskEnd b code else s

/-- Squash mode: executing tiles are abandoned, COPY and FILL stop, and so does what only waits; requests not yet issued are dropped
(R246 step 2). -/
def State.squashWork (s : State) (sl : Nat) : State :=
  let s := { s with aqd := { s.aqd with waiting := s.aqd.waiting.filter (·.sl != sl) }
                    serve := { s.serve with recs := s.serve.recs.filter (·.1 != sl) } }
  s.each (s.cmds.filter fun c => c.slice == sl && c.begun && (tileOp c.opcode || c.opcode == 0x10 || c.opcode == 0x11 || c.onlyWaits)) fun s c =>
    s.resetEnd c

/-- A slice reset starts (steps 1 and 2); in drain mode what executes, and what H has accepted, runs to its end. -/
def State.resetStart (s : State) (sl : Nat) (squash : Bool) : State :=
  let s := ((s.setSliceState sl 4).clearRings sl).cancelLaunch sl
  let s := s.setSliceSt sl { s.sliceSt sl with squash := squash, drained := false }
  let s := s.dropSaves sl
  let s := s.each (s.cmds.filter fun c => c.slice == sl && !c.begun) fun s c => s.resetEnd c
  let s := s.stopTasks sl stSliceFrozen
  if squash then s.squashWork sl else s

/-- Turn a reset in drain mode into one in squash mode, at an unbind. -/
def State.resetSquash (s : State) (sl : Nat) : State := (s.setSliceSt sl { s.sliceSt sl with squash := true }).squashWork sl

/-- A write of SLICE_CMD. -/
def State.sliceCmdWrite (s : State) (sl v : Nat) : State :=
  if v % 2 = 0 then s
  else if s.sliceState sl = 0 || s.sliceState sl = 4 then s.info (unitHub 0)
  else s.resetStart sl (bitAt v 1)

def execSliceReset (dt sl v : Nat) (s : State) : Host.Outcome State Fault Refusal :=
  enter (.sliceReset dt sl v) dt s fun s => s.sliceCmdWrite sl v

/-- Every transfer issued for the slice has ended: no command, task, core access or request of it is left, and no tenant
switch moves its state. -/
def State.sliceDrained (s : State) (sl : Nat) : Bool :=
  s.cmds.all (·.slice != sl) && (s.taskBasins sl).isEmpty &&
    s.aqd.sent.all (fun r => r.sl != sl || r.unresolved) && s.aqd.waiting.all (·.sl != sl) &&
    (List.range 64).all fun b => match (s.basin b).switch with
      | some w => s.owner b != sl && w.incoming != sl
      | none => true

/-- Basins whose cistern, pool and semaphores a reset of the slice zeroes in its part (R246 step 5). -/
def State.resetBasins (s : State) (sl : Nat) : List Nat :=
  (List.range 64).filter fun b => !s.gated b &&
    (if sl = 0 then s.reserved b || s.gateListed b else (s.basin b).tenant == sl)

/-- What a slice reset clears (Table 11-5), beside memories. -/
def State.clearSlice (s : State) (sl : Nat) : State :=
  let s := s.each (sliceRings sl) fun s r =>
    let s := (((s.wr Fld.sqHeadHead r 0).wr Fld.sqTailTail r 0).wr Fld.cqHeadHead r 0).wr Fld.cqTailTail r 0
    (s.setReg .ringStatus r 0).setRing r {}
  let s := s.each (List.range 64) fun s i => s.setReg .sliceCounter (64 * sl + i) 0
  let s := ((s.setReg .detStep sl 0).setReg .tokringHead sl 0).setReg .tokringTail sl 0
  let s := ((s.setReg .sliceViol sl 0).setReg .sliceViolAddr sl 0).setReg .sliceViolStamp sl 0
  (s.wr Fld.sliceStatusViolCount sl 0).wr Fld.sliceStatusRepliesLost sl 0

/-- Shadow registers of a slice (R378); the reset of an unbind that discarded a partial state leaves lost and discarded set
(R376). -/
def State.clearShadowRegs (s : State) (sl : Nat) : State :=
  let keep := (s.sliceSt sl).unbind && s.on Fld.detShadowStatusDiscarded sl
  let s := ((s.setReg .detShadowStatus sl (if keep then s.reg .detShadowStatus sl / 32 % 4 * 32 else 0)).setReg .detMatched sl 0).setReg .detUnmatched sl 0
  (((s.setReg .detMismatchTag sl 0).setReg .detMismatchStep sl 0).setReg .detMismatchOwn sl 0).setReg .detMismatchPeer sl 0

/-- Steps 3 to 5 of a slice reset: the generation advances, sessions and pages are freed, what Table 11-5 lists is
cleared, and zeroing begins. -/
def State.resetDrained (s : State) (sl : Nat) : State :=
  let s := (s.bump Fld.aqdJobGen sl).servingReset sl
  let s := (s.clearSlice sl).clearShadowRegs sl
  let s := s.each (s.resetBasins sl) fun s b =>
    s.beginZero b 5 (if sl = 0 then (if s.reserved b then 224 else s.radioUnits b) else s.zeroUnits b false) sl
  s.setSliceSt sl { s.sliceSt sl with drained := true }

def execSliceResetDrained (dt sl : Nat) (s : State) : Host.Outcome State Fault Refusal :=
  enter (.sliceResetDrained dt sl) dt s fun s =>
    s.whenever (s.sliceState sl == 4 && !(s.sliceSt sl).drained && s.sliceDrained sl) fun s => s.resetDrained sl

/-- The zeroing of one basin at a slice reset ends: the slice's own part is zero (R246 step 5). -/
def State.resetZeroed (s : State) (b : Nat) (z : Zeroing) : State :=
  let s := if z.slice = 0 then
      if s.reserved b then s.zeroRegion b true
      else ((s.cZero b (s.partC b) cisternBytes).pZero b (s.partP b) poolWords).zeroSems b 28 32
    else s.zeroRegion b false
  s.endZero b z

/-- The slice is unbound (R231). -/
def State.unbound (s : State) (sl : Nat) : State :=
  let s := ((s.keyErase sl).zeroKeyData sl).setReg .sliceBasins sl 0
  let s := s.each (List.range 8) fun s i => (s.setReg .memRangeBase (8 * sl + i) 0).setReg .memRangeLast (8 * sl + i) 0
  let s := (s.wr Fld.slicePasidPasidValid sl 0).setSliceState sl 0
  s.setSliceSt sl { s.sliceSt sl with squash := false, drained := false, unbind := false }

/-- A slice reset completes: the slice is active, or unbound. -/
def State.resetComplete (s : State) (sl : Nat) : State :=
  if (s.sliceSt sl).unbind then s.unbound sl
  else (s.setSliceState sl 1).setSliceSt sl { s.sliceSt sl with squash := false, drained := false }

/-- A zeroing for the slice's reset is under way. -/
def State.resetZeroing (s : State) (sl : Nat) : Bool :=
  (List.range 64).any fun b => match (s.basin b).zeroing with
    | some z => z.kind == 5 && z.slice == sl
    | none => false

def execSliceResetComplete (dt sl : Nat) (s : State) : Host.Outcome State Fault Refusal :=
  enter (.sliceResetComplete dt sl) dt s fun s =>
    s.whenever (s.sliceState sl == 4 && (s.sliceSt sl).drained && !s.resetZeroing sl) fun s => s.resetComplete sl

/-! ### Binding (R230, R231) -/

/-- The conditions under which a slice may be bound. -/
def State.mayBind (s : State) (sl : Nat) : Bool :=
  s.sliceState sl == 0 && s.on Fld.slicePasidPasidValid sl &&
    (List.range 128).all (fun t => t == sl || !s.on Fld.sliceCtrlEnable t || s.rd Fld.slicePasidPasid t != s.rd Fld.slicePasidPasid sl) &&
    s.on Fld.keyStatusKeyValid sl && s.ranges.any (·.1 == sl)

/-- The unbind of a bound slice begins (R231, R376). -/
def State.unbindStart (s : State) (sl : Nat) : State :=
  let s := ((s.wr Fld.sliceCtrlEnable sl 0).setSliceSt sl { s.sliceSt sl with unbind := true }).cancelLaunch sl
  if s.sliceState sl = 4 then s.resetSquash sl else s.resetStart sl true

/-- A write of SLICE_CTRL. -/
def State.sliceCtrlWrite (s : State) (sl v : Nat) : State :=
  if v % 2 = 1 then (if s.mayBind sl then (s.wr Fld.sliceCtrlEnable sl 1).setSliceState sl 1 else s.info (unitHub 0))
  else if s.on Fld.sliceCtrlEnable sl then s.unbindStart sl else s

def execSliceEnable (dt sl v : Nat) (s : State) : Host.Outcome State Fault Refusal :=
  enter (.sliceEnable dt sl v) dt s fun s => s.whenever (v % 2 == 1) fun s => s.sliceCtrlWrite sl v

def execSliceDisable (dt sl v : Nat) (s : State) : Host.Outcome State Fault Refusal :=
  enter (.sliceDisable dt sl v) dt s fun s => s.whenever (v % 2 == 0) fun s => s.sliceCtrlWrite sl v

/-! ### Freezing (R243) -/

/-- Every engine of the freezing slice has stopped, and every transfer issued for it has ended. -/
def State.sliceStopped (s : State) (sl : Nat) : Bool :=
  s.cmds.all (fun c => c.slice != sl || c.phase == .saved) && (s.taskBasins sl).isEmpty &&
    s.aqd.sent.all fun r => r.sl != sl || r.unresolved

def execSliceFrozen (dt sl : Nat) (s : State) : Host.Outcome State Fault Refusal :=
  enter (.sliceFrozen dt sl) dt s fun s =>
    s.whenever (s.sliceState sl == 2 && s.sliceStopped sl) fun s => s.setSliceState sl 3

/-! ### Refused host requests (R234, R244) -/

/-- The command has host requests of its own under way. -/
def Cmd.usesHost (c : Cmd) : Bool :=
  ((c.opcode == 0x10 || c.opcode == 0x11) && c.phase == .running && (c.dst.space == 3 || (c.opcode == 0x10 && c.src.space == 3))) ||
    (c.opcode == 0x2E && c.phase == .parked)

/-- The command will write token records at its turn. -/
def Cmd.willDeliver (c : Cmd) : Bool := (c.opcode == 0x21 || c.opcode == 0x22 || c.opcode == 0x2E) && c.phase != .parked

/-- The host address of the refused request of a command: a flit of a COPY's or FILL's host side, which one is open; or the token
record. -/
def State.refusedAt (s : State) (c : Cmd) (n : Nat) : Nat :=
  if c.opcode = 0x2E then s.reg .tokringBase c.slice + 16 * s.rd Fld.tokringHeadHead c.slice
  else
    let x := if c.dst.space = 3 then c.dst else c.src
    x.addr + n % max 1 (c.par 32 32)

/-- A host request of command `id` is refused: the command completes; one whose token records are still to be written completes when
the first of them is. -/
def State.refuseCommand (s : State) (id : Nat) (timeout : Bool) : State :=
  s.forSome (s.cmd? id) fun s c =>
    if c.usesHost then
      let (n, s) := s.free
      let code := refusalCode timeout
      let r := s.copyStopped c
      (r.1.finishCore r.2 code).refusal c.slice code (s.refusedAt c n)
    else if c.willDeliver then s.modCmd id fun c => { c with refused := some timeout }
    else s

/-- A read of ring `r` is refused: the packet at SQ_HEAD is not dispatched, and the ring halts. -/
def State.refuseRead (s : State) (r : Nat) (timeout : Bool) : State :=
  let x := s.ring r
  s.whenever (s.ringServed r && x.stampQ.isEmpty && s.covered r != 0) fun s =>
    let code := refusalCode timeout
    let s := (s.haltRing r code).setRing r { x with failedLen := some 0 }
    s.refusal (ringSlice r) code (s.reg .sqBase r + 32 * x.readPtr)

/-- The reply write that lies `k` entries before the latest one of ring `r` is refused: the entry's bytes are unspecified. Only an
entry that a reply was written to and that the driver has not taken is there to be refused. -/
def State.refuseReply (s : State) (r k : Nat) : State :=
  let n := s.cqEntries r
  let h := (s.rd Fld.cqHeadHead r + n - 1 - k % n) % n
  let filled := (s.rd Fld.cqHeadHead r + n - s.rd Fld.cqTailTail r % n) % n
  s.whenever (k < filled && !(s.ring r).lost.contains h) fun s =>
    let a := s.reg .cqBase r + 32 * h
    let s := (s.hostFree (s.hostSpace (ringSlice r)) a 32).setRing r { s.ring r with lost := h :: (s.ring r).lost }
    let s := if ringSlice r < 128 then s.bumpSat Fld.sliceStatusRepliesLost (ringSlice r) else s
    s.refusal (ringSlice r) 0 a

def execHostRequestRefused (dt kind x : Nat) (timeout : Bool) (s : State) : Host.Outcome State Fault Refusal :=
  enter (.hostRequestRefused dt kind x timeout) dt s fun s =>
    match kind with
    | 0 => s.refuseCommand x timeout
    | 1 => s.whenever (x < 1028) fun s => s.refuseRead x timeout
    | k + 2 => s.whenever (x < 1028) fun s => s.refuseReply x k

end Sys2Proof.Machine
end

