-- ==== Sys2Proof/Machine/Sched.lean ====
section
/-! DEFINITION. Engine scheduling (chapter 12): markers, shares, claims and the basin arbiter, yields with save and restore,
effective tiers, gate lists and radio windows. -/
namespace Sys2Proof.Machine

/-! ### Markers (R254 to R256, R259) -/

/-- The rates and sizes written since the last refill come into force; the buckets stay within them. -/
def State.markerRates (s : State) (sl : Nat) : State :=
  let x := s.sliceSt sl
  let cbs := s.reg .schedCbs sl
  let pbs := s.reg .schedPbs sl
  let s := s.setSliceSt sl { x with cir := s.reg .schedCir sl, pir := s.reg .schedPir sl, cbs := cbs, pbs := pbs }
  (s.wr Fld.schedTcTc sl (min cbs (s.rd Fld.schedTcTc sl))).wr Fld.schedTpTp sl (min pbs (s.rd Fld.schedTpTp sl))

/-- Both buckets of slice `sl` refill. -/
def State.markerRefill (s : State) (sl : Nat) : State :=
  let s := s.markerRates sl
  let x := s.sliceSt sl
  (s.wr Fld.schedTcTc sl (min x.cbs (s.rd Fld.schedTcTc sl + x.cir))).wr Fld.schedTpTp sl (min x.pbs (s.rd Fld.schedTpTp sl + x.pir))

/-- The red packet of ring `r` is marked again. -/
def State.remark (s : State) (r : Nat) : State :=
  let q := (s.ring r).stampQ
  match q.getLast? with
  | some p =>
    if p.marked then s else
    let (p, s) := s.passMarker r p
    s.setRing r { s.ring r with stampQ := q.dropLast ++ [p] }
  | none => s

def execMarkerRefill (dt : Nat) (s : State) : Host.Outcome State Fault Refusal :=
  enter (.markerRefill dt) dt s fun s =>
    s.periodic .markers s.tick1024 fun s =>
      let s := s.each ((List.range 127).map (· + 1)) State.markerRefill
      s.each (s.rings.map (·.1)) State.remark

/-- A write of SCHED_MARK: enabling fills both buckets, at the newest sizes. -/
def State.schedMarkWrite (s : State) (sl v : Nat) : State :=
  if sl = 0 then s else
  let fill := v % 2 == 1 && !s.on Fld.schedMarkEnable sl
  let s := ((s.wr Fld.schedMarkEnable sl v).wr Fld.schedMarkColourAware sl (v / 2)).wr Fld.schedMarkRingYellow sl (v / 4)
  if fill then
    let s := s.markerRates sl
    (s.wr Fld.schedTcTc sl (s.reg .schedCbs sl)).wr Fld.schedTpTp sl (s.reg .schedPbs sl)
  else s

def execMarkerEnable (dt sl v : Nat) (s : State) : Host.Outcome State Fault Refusal :=
  enter (.markerEnable dt sl v) dt s fun s => s.schedMarkWrite sl v

/-- A basin of slice `sl` is assigned to another tenant slice as well. -/
def State.sharesBasin (s : State) (sl : Nat) : Bool :=
  (List.range 128).any fun t => 1 ≤ t && t != sl && s.reg .sliceBasins t &&& s.reg .sliceBasins sl != 0

/-- A write of SCHED_SHARE. -/
def State.shareWrite (s : State) (sl v : Nat) : State :=
  if sl = 0 then s
  else if v % 2 ^ 16 = 0 || (bitAt v 16 && !s.fixedShare sl && s.sharesBasin sl) then s.info (unitHub 0)
  else
    let t := (s.wr Fld.schedShareWeight sl v).wr Fld.schedShareFixedShare sl (v / 2 ^ 16)
    t.protectNow s ((List.range 64).filter fun b => t.fixedShare sl && s.assigned sl b)

def execWeightWrite (dt sl v : Nat) (s : State) : Host.Outcome State Fault Refusal :=
  enter (.weightWrite dt sl v) dt s fun s => s.shareWrite sl v

def execFixedShareWrite (dt sl v : Nat) (s : State) : Host.Outcome State Fault Refusal :=
  enter (.fixedShareWrite dt sl v) dt s fun s => s.shareWrite sl v

/-! ### Priority inheritance (R266) -/

/-- The ring of the task whose core holds semaphore `i` of slice `sl` in basin `b`, running or saved; none once the task that
acquired it is over. -/
def State.holderRing (s : State) (sl b i : Nat) : Option Nat :=
  let named (h serial : Nat) (t : Option Task) : Option Nat :=
    match t with
    | some t => if h != 0 && t.serial == serial then (s.cmd? t.cmd).map (·.ring) else none
    | none => none
  if (s.basin b).tenant = sl then named (s.rd Fld.semHolderHolder (32 * b + i)) (Tbl.get 0 (s.basin b).semTask i) (s.basin b).task
  else match s.saved? sl b with
    | some j => named (j.holders.getD i 0) (Tbl.get 0 j.semTask i) j.task
    | none => none

/-- What waits for a semaphore: slice, basin, semaphore, the ring whose tier it passes on. -/
def State.semWaits (s : State) : List (Nat × Nat × Nat × Nat) :=
  let cores := (List.range 64).flatMap fun b => match (s.basin b).task with
    | some t => match s.cmd? t.cmd with
      | some c => ((s.basin b).waiters.filter (·.2 < 2 ^ 20)).map fun w => (t.slice, b, w.1, c.ring)
      | none => []
    | none => []
  let cmds := (s.cmds.filter fun c => c.opcode == 2 && c.par 0 4 == 1).map fun c => (c.slice, c.par 16 16 / 32, c.par 16 16 % 32, c.ring)
  let heads := (s.rings.map (·.1)).filterMap fun r => match s.readyHead r with
    | some p => if slice p.header 0 8 = 2 ∧ slice p.params 0 4 = 1 then
        some (ringSlice r, slice p.params 16 16 / 32, slice p.params 16 16 % 32, r) else none
    | none => none
  cores ++ cmds ++ heads

/-- One pass of inheritance over the eight tiers of slice `sl`. -/
def State.inheritOnce (s : State) (sl : Nat) (ws : List (Nat × Nat × Nat × Nat)) (tiers : List Nat) : List Nat :=
  ws.foldl (fun ts w => match s.holderRing sl w.2.1 w.2.2.1 with
    | some r => if r < 1024 ∧ r / 8 = sl then setAt ts (r % 8) (min (ts.getD (r % 8) 7) (ts.getD (w.2.2.2 % 8) 7)) else ts
    | none => ts) tiers

/-- The effective tiers of slice `sl`'s rings: inheritance is transitive among its eight rings. -/
def State.effTiers (s : State) (sl : Nat) (ws : List (Nat × Nat × Nat × Nat)) : List Nat :=
  let mine := ws.filter (·.1 == sl)
  (List.range 8).foldl (fun ts _ => s.inheritOnce sl mine ts) ((List.range 8).map fun q => s.ringTier (8 * sl + q))

/-- Effective tiers are evaluated anew. -/
def State.updateTiers (s : State) : State :=
  let ws := s.semWaits
  s.each ((List.range 127).map (· + 1)) fun s sl =>
    s.setReg .schedEffTier sl ((s.effTiers sl ws).foldr (fun t n => t % 8 + 8 * n) 0)

def execEffectiveTierUpdate (dt : Nat) (s : State) : Host.Outcome State Fault Refusal :=
  enter (.effectiveTierUpdate dt) dt s fun s => s.updateTiers

/-! ### Save areas (R261, R265) -/

/-- A slice's save area for basin `b`, when it is valid. -/
def State.saveArea (s : State) (sl b : Nat) : Option Nat :=
  let i := 8 * sl + b / 8
  let a := (s.rd Fld.saveBaseBase i + b % 8) * 2 ^ 24
  if sl < 128 && s.on Fld.saveBaseValid i && s.inRanges sl a (2 ^ 24) then some a else none

/-- A live mask of `n` bytes: all ones when its read returns poison or finds memory down. -/
def State.liveMask (s : State) (a n : Nat) (poison : Bool) : Nat :=
  if poison || s.devFenced a n then 2 ^ (8 * n) - 1 else s.devNat a n

/-- The live granules and pool units of the area at `a`, outside the radio partition of basin `b`. `poison`: bit 0 the cistern's
mask read as poison, bit 1 the pool's. -/
def State.liveParts (s : State) (b a poison : Nat) : List Nat × List Nat :=
  let cm := s.liveMask (a + 0x40) 24 (bitAt poison 0)
  let pm := s.liveMask (a + 0x58) 28 (bitAt poison 1)
  ((List.range 192).filter fun i => bitAt cm i && (i + 1) * 0x10000 ≤ s.partC b,
   (List.range 224).filter fun u => bitAt pm u && (u + 1) * 1024 ≤ s.partP b)

/-- Bytes of a save, and its cycles (R265). -/
def saveBytes (p : List Nat × List Nat) : Nat := 0xA400 + 0x10000 * p.1.length + 0x4800 * p.2.length
def moveCycles (n : Nat) : Nat := 256 + ceilDiv n 512

/-- Where a save or restore reads and writes memory: address, bytes. -/
def savePieces (a : Nat) (p : List Nat × List Nat) : List (Nat × Nat) :=
  (a, 0xA400) :: (p.1.map (fun i => (a + 0x10000 + i * 0x10000, 0x10000)) ++ p.2.map fun u => (a + 0xC10000 + u * 0x4800, 0x4800))

/-- Charge the slice whose state moves for its cycles, its bytes and their energy (R241, R247). -/
def State.chargeMove (s : State) (sl a n : Nat) : State :=
  let h := if isHbm a then n else 0
  ((s.chargeSwitch sl (moveCycles n)).chargeBytes sl h (n - h) 0 0).bump Fld.acctEnergyPjEnergy sl (if sl < 128 then s.energy 0 0 h (n - h) 0 0 else 0)

/-! ### Claims and the arbiter (R257, R258, R271) -/

/-- A claim on a basin: slice, effective tier, the packet that competes, its ring. -/
structure Claim where
  slice : Nat
  tier : Nat
  pkt : Packet
  ring : Nat
  deriving DecidableEq, Repr

/-- A claim without a head packet of its own: it competes with stamp 0. -/
def Claim.bare (sl tier ring : Nat) : Claim := ⟨sl, tier, ⟨0, 0, 0, 0, 0, 0, true, true, false⟩, ring⟩

/-- May slice `sl` claim basin `b`? -/
def State.mayClaim (s : State) (sl b : Nat) : Bool :=
  1 ≤ sl && sl < 128 && (s.basin b).tenant != sl && s.sliceActive sl && s.assigned sl b && !s.fixedShare sl

/-- A command at its ring's head on H that needs basin `b`: a transfer or signal not yet begun, a WAIT that waits. -/
def Cmd.headOn (c : Cmd) (b : Nat) : Bool := (!c.begun || c.opcode == 2) && (namedBasins c.opcode c.params).contains b

/-- The tier at which saved work of slice `sl` on basin `b` claims; none when nothing saved had work left. -/
def State.savedTier (s : State) (sl b : Nat) : Option Nat :=
  match s.saved? sl b with
  | none => none
  | some j =>
    let entries := s.cmds.filter fun c => c.slice == sl && c.target == b && c.phase == .saved && !c.begun
    let rings := entries.map (·.ring) ++ (match j.task with
      | some t => ((s.cmd? t.cmd).map (·.ring)).toList
      | none => [])
    if j.task.isNone && entries.isEmpty then none
    else some (((rings.filter (· < 1024)).map s.effTier).foldl min 7)

/-- The claims on basin `b`. -/
def State.claimsOn (s : State) (b : Nat) : List Claim :=
  let heads := (s.rings.map (·.1)).filterMap fun r => match s.readyHead r with
    | some p => if (s.claims (ringSlice r) p).contains b then some ⟨ringSlice r, s.effTier r, p, r⟩ else none
    | none => none
  let cmds := (s.cmds.filter fun c => c.ring < 1024 && c.headOn b).map fun c => Claim.bare c.slice (s.effTier c.ring) c.ring
  let saved := (s.saves.filter fun x => x.1 % 64 == b).filterMap fun x =>
    (s.savedTier (x.1 / 64) b).map fun t => Claim.bare (x.1 / 64) t (8 * (x.1 / 64))
  let withHead := heads ++ cmds
  (withHead ++ saved.filter fun c => withHead.all (·.slice != c.slice)).filter fun c => s.mayClaim c.slice b

/-- The winning claim, by ranks 3 to 6 of Table 12-2. -/
def bestClaim (l : List Claim) : Option Claim :=
  l.foldl (fun best x => match best with
    | none => some x
    | some y => if headBefore x.tier x.pkt x.ring y.tier y.pkt y.ring then some x else some y) none

/-- The basins whose cistern, pool or semaphores a dispatched command uses: those it names, and where COPY_ASYNC and KV_APPEND
read (R354, R174). -/
def Cmd.uses (c : Cmd) : List Nat :=
  if c.opcode = 0x12 then (if c.par 0 4 < 2 then [c.par 4 6] else []) else if c.opcode = 0x28 then [c.word 3]
  else namedBasins c.opcode c.params

/-- The effective tiers of the owner's work on basin `b`; empty when it has none. -/
def State.ownerWork (s : State) (b : Nat) : List Nat :=
  let sl := (s.basin b).tenant
  if sl = 0 then [] else
  let tier (r : Nat) : Nat := if r < 1024 then s.effTier r else 7
  let cmds := (s.cmds.filter fun c => c.slice == sl && c.phase != .saved &&
    ((basinOp c.opcode && c.target == b) || c.uses.contains b)).map fun c => tier c.ring
  let heads := (s.rings.map (·.1)).filterMap fun r => if ringSlice r = sl then
      match s.dispatchable r with
      | some p => if (s.claims sl p).contains b then some (tier r) else none
      | none => none
    else none
  cmds ++ heads

/-- The owner's effective tier (R257). -/
def State.ownerTier (s : State) (b : Nat) : Nat := (s.ownerWork b).foldl min 7

/-- ARB_STATUS as it reads now. -/
def State.arbView (s : State) (b : Nat) : Nat :=
  let best := bestClaim (s.claimsOn b)
  (if (s.ownerWork b).isEmpty then 0 else s.ownerTier b) + 8 * nat1 best.isSome + 16 * (match best with | some c => c.slice | none => 0)

/-- Basin `b` is gated; the terrace agent keeps what its agent's window shows (R41). -/
def State.gateBasin (s : State) (b : Nat) : State :=
  let s := (s.setReg .arbStatus b (s.arbView b)).setBasin b { s.basin b with stateCopy := s.reg .basinState b }
  s.gateNow b

/-! ### Gate lists as functions of time (R267) -/

/-- Windows that close at a period's end and open at the next period's start form one. -/
def GateList.joined (l : GateList) : Bool :=
  (match l.windows.head? with | some w => w.1 == 0 | none => false) && (match l.windows.getLast? with | some w => w.2 == l.period | none => false)

/-- The count lies in a window. -/
def GateList.inWindow (l : GateList) (t : Nat) : Bool :=
  l.base ≤ t && l.windows.any fun w => w.1 ≤ (t - l.base) % l.period && (t - l.base) % l.period < w.2

/-- The opens of period `k`. -/
def GateList.opens (l : GateList) (k : Nat) : List Nat :=
  (l.windows.filter fun w => w.1 != 0 || k == 0 || !l.joined).map fun w => l.base + k * l.period + w.1

/-- The first open after `t`. -/
def GateList.nextOpen (l : GateList) (t : Nat) : Option Nat :=
  let k := (t - l.base) / l.period
  (l.opens k ++ l.opens (k + 1) ++ l.opens (k + 2)).find? (t < ·)

/-- The count lies in a guard band or a window. -/
def GateList.inBand (l : GateList) (t : Nat) : Bool :=
  l.inWindow t || match l.nextOpen t with | some o => o ≤ t + l.guard | none => false

/-- The index of the entry that opens at `o`. -/
def GateList.entryAt (l : GateList) (o : Nat) : Nat := (l.windows.findIdx? fun w => w.1 == (o - l.base) % l.period).getD 0

/-! ### Yields (R258 to R264) -/

/-- Counts that `n` basin cycles take at nominal clock, rounded up. -/
def nominalCounts (n : Nat) : Nat := ceilDiv (n * 196608) 250000

/-- The cycles of a tenant switch of basin `b` to slice `sl` (R271). -/
def State.switchBound (s : State) (b sl : Nat) : Nat :=
  let out := match s.saveArea (s.basin b).tenant b with
    | some a => moveCycles (saveBytes (s.liveParts b a 0))
    | none => 0
  let inn := match s.saved? sl b, s.saveArea sl b with
    | some _, some a => moveCycles (saveBytes (s.liveParts b a 0))
    | _, _ => 0
  2528 + out + zeroCycles (s.zeroUnits b false) + inn

/-- The start of the first guard band of `l` whose window opens after `t`. -/
def GateList.nextGuard (l : GateList) (t : Nat) : Option Nat := (l.nextOpen t).map (· - l.guard)

/-- The start of the next guard band of basin `b`: of the active list before the pending slot's act, of the pending list from
its act on (R268). -/
def State.nextGuard (s : State) (b : Nat) : Option Nat :=
  let x := s.basin b
  let cur := x.gateList.bind (·.nextGuard s.now)
  match x.pendAct with
  | none => cur
  | some a =>
    match cur.filter (· < a) with
    | some g => some g
    | none => x.pendList.bind (·.nextGuard (max s.now (a - 1)))

/-- The switch would reach past the start of the next guard band (R271). -/
def State.deferSwitch (s : State) (b sl : Nat) : Bool :=
  match s.nextGuard b with
  | none => false
  | some g => g < s.now + nominalCounts (s.switchBound b sl)

/-- The basin is in a state in which its tenant may change. -/
def State.maySwitch (s : State) (b : Nat) : Bool :=
  s.basinReady b && !s.reserved b && !s.fencedBasin b && (s.basin b).switch.isNone && !s.inGuard b && !s.windowOpen b &&
    !s.fixedShare (s.basin b).tenant

/-- The rill's and the cascade's fetches for basin `b` stop (R135, R147). -/
def State.stopFetches (s : State) (b : Nat) : State :=
  let x := s.rill b
  let s := match x.fetch with
    | some f =>
      let s := match s.cmd? f.cmd with
        | some c => s.rillFetchLost b f c
        | none => s
      s.setRill b { x with fetch := some { f with stopped := true } }
    | none => s
  s.cascadeGuard b

/-- A yield of basin `b` to slice `sl` is requested (R260 step 1). -/
def State.requestYield (s : State) (b sl : Nat) : State :=
  let s := s.setBasin b { s.basin b with switch := some ⟨sl, 1⟩ }
  (s.wr Fld.gateStatusSwitching b 1).stopFetches b

/-- The owner yields to the winning claim when `p` of it holds. -/
def State.arbitrate (s : State) (b : Nat) (p : Claim → Bool) : State :=
  s.forSome (bestClaim (s.claimsOn b)) fun s c =>
    s.whenever (s.maySwitch b && p c && !s.deferSwitch b c.slice) fun s => s.requestYield b c.slice

/-- The owner has held the basin for SCHED_QUANTUM counts. -/
def State.quantumOver (s : State) (b : Nat) : Bool := s.reg .arbTaken b + s.rd Fld.schedQuantumQuantum ≤ s.now

def execYieldRequest (dt b : Nat) (s : State) : Host.Outcome State Fault Refusal :=
  enter (.yieldRequest dt b) dt s fun s =>
    s.arbitrate b fun c => (s.ownerWork b).isEmpty || ((s.saveArea (s.basin b).tenant b).isSome && c.tier < s.ownerTier b)

def execQuantumExpiry (dt b : Nat) (s : State) : Host.Outcome State Fault Refusal :=
  enter (.quantumExpiry dt b) dt s fun s =>
    s.arbitrate b fun c =>
      !(s.ownerWork b).isEmpty && (s.saveArea (s.basin b).tenant b).isSome && c.tier == s.ownerTier b && s.quantumOver b

/-- The switch is over without a hand-over: the owner continues. -/
def State.dropSwitch (s : State) (b : Nat) : State :=
  (s.setBasin b { s.basin b with switch := none }).wr Fld.gateStatusSwitching b 0

/-- The switch reaches stage `n`. -/
def State.setStage (s : State) (b n : Nat) : State :=
  match (s.basin b).switch with
  | some w => s.setBasin b { s.basin b with switch := some { w with stage := n } }
  | none => s

/-- Step 4: the engines forget the outgoing owner, and the zeroing begins. -/
def State.switchZero (s : State) (b sl : Nat) : State :=
  ((s.clearEngines b).beginZero b 1 (s.zeroUnits b false) sl).setStage b 3

/-- Nothing of the owner executes in basin `b`, and nothing is outstanding (step 2). -/
def State.drained (s : State) (b : Nat) : Bool :=
  (s.executing b).isEmpty && s.coresDrained b && !s.copiesIn b &&
    s.cmds.all (fun c => !(c.opcode == 0x28 && c.phase == .running && c.word 3 == b)) && s.aqd.sent.all (·.owner != 2 ^ 34 + b)

/-- The claim for which basin `b` yields has been withdrawn. -/
def State.withdrawn (s : State) (b : Nat) (w : Switch) : Bool := (s.claimsOn b).all (·.slice != w.incoming)

/-- The yield ends with its claim; or, the drain over, the save begins, or where the owner has no valid save area, the zeroing. -/
def State.yieldDrained (s : State) (b : Nat) (w : Switch) : State :=
  if s.withdrawn b w then s.dropSwitch b
  else if (s.saveArea (s.basin b).tenant b).isSome then s.setStage b 2
  else s.switchZero b w.incoming

def execYieldDrained (dt b : Nat) (s : State) : Host.Outcome State Fault Refusal :=
  enter (.yieldDrained dt b) dt s fun s =>
    s.forSome ((s.basin b).switch.filter (·.stage == 1)) fun s w =>
      s.whenever (s.drained b || s.withdrawn b w) fun s => s.yieldDrained b w

/-- Cores stopped between two instructions: one that waits executes its instruction again on resume (R197). -/
def State.preempt (s : State) (b : Nat) : State :=
  let s := s.each (List.range 8) fun s k =>
    let c := s.core (8 * b + k)
    if c.inTask then (s.setCore (8 * b + k) { c with waiting := none, claiming := none }).wr Fld.coreStatusState (8 * b + k) 3 else s
  let x := s.basin b
  s.setBasin b { x with waiters := waitsLeft x.waiters, task := x.task.map fun t => if t.held then t else { t with start := s.now - t.start, held := true } }

/-- The task of basin `b` goes on running. -/
def State.taskResume (s : State) (b : Nat) : State :=
  let x := s.basin b
  s.setBasin b { x with task := x.task.map fun t => if t.held then { t with start := s.now - t.start, held := false } else t }

/-- The job of slice `sl` on basin `b` stands still: dirty lines are written back, and every core is at an instruction boundary. -/
def State.haltJob (s : State) (b : Nat) : State := (s.each (List.range 8) fun s k => s.writeBack (8 * b + k)).preempt b

/-- A queue entry of slice `sl` for basin `b` that has not started (R262). -/
def Cmd.waits (c : Cmd) (b sl : Nat) : Bool := c.target == b && basinOp c.opcode && c.slice == sl && !c.begun && c.phase != .saved

/-- The job of slice `sl` leaves basin `b`: its task, its cores, its queue entries (R262). -/
def State.packJob (s : State) (b sl : Nat) : State :=
  let x := s.basin b
  let task := match x.task with | some t => t.cmd | none => 0
  let cs := (List.range 8).map (8 * b + ·)
  let j : SavedJob :=
    { task := x.task, inTask := cs.map fun c => (s.core c).inTask, ran := cs.map (s.reg .coreStatus), causes := cs.map (s.reg .coreCause)
      instrets := cs.map (s.reg .coreInstret), cycles := cs.map fun c => (s.core c).cycles, reissues := s.reg .wcReissues b
      fail := s.rd Fld.issueStatusFirstFail b, last := x.lastTask
      holders := (List.range 32).map fun i => s.rd Fld.semHolderHolder (32 * b + i), semTask := x.semTask
      accepted := (s.cmds.filter fun c => c.waits b sl && c.phase != .issued).map (·.id) }
  let s := { s with
    cmds := s.cmds.map fun c : Cmd => if c.waits b sl || (task != 0 && c.id == task) then { c with phase := .saved } else c
    saves := Tbl.put s.saves (sl * 64 + b) j }
  s.setBasin b { s.basin b with task := none, lastTask := 0, leases := [] }

/-- The save area at `a` is written: the fixed region, then what is live (Table 12-3). Bytes of the fixed region that the table
gives nothing are unspecified. -/
def State.writeArea (s : State) (b sl a : Nat) (p : List Nat × List Nat) (poison : Nat) : State :=
  let cm := s.liveMask (a + 0x40) 24 (bitAt poison 0)
  let pm := s.liveMask (a + 0x58) 28 (bitAt poison 1)
  let entries := s.cmds.filter fun c => c.waits b sl
  let s := s.devForget a (a + 0xA400)
  let s := s.devWrite a (leBytes 2 (1 + 2 * sl + 256 * b))
  let s := (s.devWrite (a + 8) (leBytes 8 s.now)).devWrite (a + 16) (leBytes 1 entries.length)
  let s := (s.devWrite (a + 0x40) (leBytes 24 cm)).devWrite (a + 0x58) (leBytes 28 pm)
  let s := s.devWrite (a + 0x100) ((List.range 32).flatMap fun i => leBytes 4 (s.reg .semValue (32 * b + i)))
  let s := (s.devWrite (a + 0x180) (s.counterArea b)).devWrite (a + 0x800) (entries.flatMap fun c => leBytes 128 c.params)
  let s := s.devWrite (a + 0x1000) (leaseArea (s.basin b).leases)
  let s := s.each (List.range 8) fun s k => s.devWrite (a + 0x5000 + 2688 * k) ((s.core (8 * b + k)).area (s.reg .corePc (8 * b + k)))
  let s := s.each p.1 fun s i => s.devWrite (a + 0x10000 + i * 0x10000) (s.cRead b (i * 0x10000) 0x10000)
  s.each p.2 fun s u =>
    s.devWrite (a + 0xC10000 + u * 0x4800) ((List.range 1024).flatMap fun i => wordBytes (s.pWord b (1024 * u + i)))

/-- The parts of a basin that a save reads. -/
def saveNeeds (p : List Nat × List Nat) : List Need :=
  p.1.map (fun i => ⟨.cistern, i * 0x10000, 0x10000⟩) ++ p.2.map fun u => ⟨.pool, u * 1024, 1024⟩

/-- The status with which a save fails (R264). -/
def State.saveFails (s : State) (b a : Nat) (p : List Nat × List Nat) (fail : Bool) : Option Nat :=
  if (savePieces a p).any fun x => s.devFenced x.1 x.2 then some stMemFenced
  else if fail || s.poisoned b (saveNeeds p) then some stMemPoison
  else none

/-- Step 3 ends: the owner's job is saved, or its save has failed and the job is over. Step 4 begins. -/
def State.saveDone (s : State) (b : Nat) (w : Switch) (fail : Bool) (maskPoison : Nat) : State :=
  let sl := (s.basin b).tenant
  match s.saveArea sl b with
  | none => s.switchZero b w.incoming
  | some a =>
    let p := s.liveParts b a maskPoison
    let s := (s.eccReads b (saveNeeds p)).haltJob b
    let s := match s.saveFails b a p fail with
      | some code => ((s.packJob b sl).endSaved sl b code).reportLow (unitHub 0) 3 0 0
      | none => (((s.writeArea b sl a p maskPoison).packJob b sl).setRegBit .schedSaved sl b true).bump Fld.schedSavesSaves sl
    (s.chargeMove sl a (saveBytes p)).switchZero b w.incoming

def execSaveComplete (dt b : Nat) (fail : Bool) (maskPoison : Nat) (ups : List Upset) (s : State) : Host.Outcome State Fault Refusal :=
  enter (.saveComplete dt b fail maskPoison ups) dt s fun s =>
    s.forSome ((s.basin b).switch.filter (·.stage == 2)) fun s w => (s.upsets ups).saveDone b w fail maskPoison

/-- owner_slice as it reads: 0 in a radio window (R23). -/
def State.showOwner (s : State) (b : Nat) : State :=
  s.wr Fld.basinStateOwnerSlice b (if s.windowOpen b || s.reserved b then 0 else (s.basin b).tenant)

/-- Step 6: the incoming slice takes the basin. -/
def State.handOver (s : State) (b sl : Nat) : State :=
  let s := s.setBasin b { s.basin b with tenant := sl, switch := none }
  (((s.showOwner b).wr Fld.gateStatusSwitching b 0).setReg .arbTaken b s.now).bump Fld.yieldsYields b

/-- The hand-over zeroing ends: the incoming slice's saved state is restored, or it takes the basin. -/
def State.handoverZeroed (s : State) (b : Nat) (z : Zeroing) : State :=
  let s := (s.zeroRegion b false).endZero b z
  match (s.basin b).switch with
  | some w => if (s.saved? w.incoming b).isSome then s.setStage b 4 else s.handOver b w.incoming
  | none => s

def execHandoverZeroingDone (dt b : Nat) (s : State) : Host.Outcome State Fault Refusal :=
  enter (.handoverZeroingDone dt b) dt s fun s =>
    s.forSome (s.basin b).zeroing fun s z =>
      match z.kind with
      | 1 => s.handoverZeroed b z
      | 4 => (s.zeroRegion b true).endZero b z
      | 5 => s.whenever (!s.windowOpen b && !s.inGuard b) fun s => s.resetZeroed b z
      | _ => s

/-- A saved queue entry goes on from the 128 bytes that its place in the save area holds: where they are not those it was saved
with, its engine checks it anew. -/
def Cmd.fromArea (c : Cmd) (params : Nat) (accepted : Bool) : Cmd :=
  if params = c.params % 2 ^ 1024 then { c with phase := if accepted then .queued else .issued }
  else { c with params := params, tag := if c.opcode < 0xC then tagOf c.opcode params else c.tag, phase := .issued }

/-- The saved job goes on in the basin, from what the save area at `a` holds. -/
def State.unpackJob (s : State) (b sl a : Nat) (j : SavedJob) : State :=
  let s := s.each (List.range 8) fun s k =>
    let i := 8 * b + k
    let c := coreOf (s.devRead (a + 0x5000 + 2688 * k) 2688)
    let run := j.inTask.getD k false
    let s := (s.setCore i { c.2 with inTask := run, cycles := j.cycles.getD k 0 }).setReg .corePc i c.1
    let s := ((s.setReg .coreInstret i (j.instrets.getD k 0)).setReg .coreStatus i (j.ran.getD k 0)).setReg .coreCause i (j.causes.getD k 0)
    if run then s.wr Fld.coreStatusState i 1 else s
  let w (i : Nat) : Nat := s.devNat (a + 0x180 + 4 * i) 4
  let s := ((s.setReg .wcLimit b (w 0)).setReg .wcLease b (w 1)).setReg .wcNext b (w 2)
  let s := ((s.setReg .wcDoneCount b (w 3)).setReg .wcReissues b j.reissues).wr Fld.issueStatusFirstFail b j.fail
  let n := if s.parted b then 28 else 32
  let s := s.each (List.range n) fun s i => s.wr Fld.semHolderHolder (32 * b + i) (j.holders.getD i 0)
  let task := match j.task with | some t => t.cmd | none => 0
  let mine := (s.cmds.filter fun c => c.slice == sl && c.target == b && c.phase == .saved && c.id != task).map (·.id)
  let back (c : Cmd) : Cmd :=
    if mine.contains c.id then c.fromArea (s.devNat (a + 0x800 + 128 * mine.idxOf c.id) 128) (j.accepted.contains c.id)
    else if task ≠ 0 ∧ c.id = task then { c with phase := .running } else c
  let x := s.basin b
  let s : State := { s with saves := Tbl.del s.saves (sl * 64 + b), cmds := s.cmds.map back }
  (s.setBasin b { x with
    task := j.task, lastTask := j.last, leases := leasesOf b (s.devRead (a + 0x1000) 0x4000)
    semTask := j.semTask.filter (·.1 < n) ++ x.semTask.filter (n ≤ ·.1) }).taskResume b

/-- What the save area holds returns to the basin (R262, R263). -/
def State.readArea (s : State) (b a : Nat) (p : List Nat × List Nat) : State :=
  let s := s.each p.1 fun s i => (s.cWrite b (i * 0x10000) (s.devRead (a + 0x10000 + i * 0x10000) 0x10000)).1
  let s := s.each p.2 fun s u =>
    let bs := s.devRead (a + 0xC10000 + u * 0x4800) 0x4800
    s.each (List.range 1024) fun s i => s.pWrite b (1024 * u + i) (bytesWord ((bs.drop (18 * i)).take 18))
  s.each (List.range (if s.parted b then 28 else 32)) fun s i =>
    s.setReg .semValue (32 * b + i) (s.devNat (a + 0x100 + 4 * i) 4)

/-- The header names the slice and the basin, and every read of the area succeeds (R264). -/
def State.areaOk (s : State) (b sl a : Nat) (p : List Nat × List Nat) (poison : Bool) : Bool :=
  !poison && (savePieces a p).all (fun x => !s.devFenced x.1 x.2) && s.devNat a 2 == 1 + 2 * sl + 256 * b

/-- Step 5 ends: the state is restored and the slice takes the basin; or the check fails, the saved job is over and the
basin is zeroed again. -/
def State.restoreDone (s : State) (b : Nat) (w : Switch) (poison : Bool) : State :=
  let sl := w.incoming
  match s.saved? sl b with
  | none => s.handOver b sl
  | some j =>
    let failed (s : State) : State :=
      let s := (s.endSaved sl b stMemPoison).reportLow (unitHub 0) 3 0 0
      s.switchZero b sl
    match s.saveArea sl b with
    | none => failed s
    | some a =>
      let p := s.liveParts b a 0
      if !s.areaOk b sl a p poison then failed s else
      let s := ((s.readArea b a p).unpackJob b sl a j).setRegBit .schedSaved sl b false
      ((s.bump Fld.schedRestoresRestores sl).chargeMove sl a (saveBytes p)).handOver b sl

def execRestoreComplete (dt b : Nat) (poison : Bool) (s : State) : Host.Outcome State Fault Refusal :=
  enter (.restoreComplete dt b poison) dt s fun s =>
    s.forSome ((s.basin b).switch.filter (·.stage == 4)) fun s w => s.restoreDone b w poison

/-! ### GATE_LIST (R268, R269) -/

/-- Two slots at 30 kHz. -/
def gateLead : Nat := 983040

/-- The act is late, or falls in a guard band or a window of the active list. -/
def State.actBad (s : State) (c : Cmd) (b : Nat) : Bool :=
  c.par 64 64 < c.start + gateLead || match (s.basin b).gateList with
    | some l => l.inBand (c.par 64 64)
    | none => false

/-- The checks on the parameter block. -/
def State.gateParamsOk (s : State) (c : Cmd) : Bool :=
  let b := c.par 0 6
  let remove := bitAt c.params 8
  c.par 6 2 == 0 && c.par 9 55 == 0 && c.par 172 84 == 0 && !s.reserved b && !s.actBad c b &&
    (remove || (c.par 128 6 == 0 && !s.fencedBasin b && !s.gated b && s.parted b))

/-- The gate list at address `a` (Table 12-5). -/
def State.gateListAt (s : State) (a : Nat) : GateList :=
  let h := s.devNat a 32
  let g := slice h 128 32
  { period := slice h 0 32, base := slice h 64 64, guard := if g = 0 then 2360 else g
    windows := (List.range (slice h 32 7)).map fun i =>
      let e := s.devNat (a + 32 + 8 * i) 8
      (e % 2 ^ 32, e / 2 ^ 32) }

/-- The gaps between windows suffice (R269). -/
def GateList.gapsOk (l : GateList) : Bool :=
  let need := l.guard + 2048
  let rec go : List (Nat × Nat) → Bool
    | w :: x :: t => w.2 + need ≤ x.1 && go (x :: t)
    | _ => true
  go l.windows && (l.joined || match l.windows.head?, l.windows.getLast? with
    | some f, some t => t.2 + need ≤ l.period + f.1
    | _, _ => true)

/-- The checks on the contents of a list whose header is `h`. -/
def GateList.ok (l : GateList) (h act : Nat) : Bool :=
  slice h 39 25 == 0 && slice h 160 96 == 0 && 4096 ≤ l.period && 1 ≤ l.windows.length && l.windows.length ≤ 64 &&
    l.windows.all (fun w => w.1 < w.2 && w.2 ≤ l.period) && l.gapsOk && 2360 ≤ l.guard && l.guard < l.period && !l.inBand act

/-- Bytes of the list. -/
def gateListBytes (h : Nat) : Nat := 32 + 8 * (if slice h 32 7 ≤ 64 then slice h 32 7 else 0)

/-- The outcome of the list's read and of the checks on its contents. -/
def State.gateListStatus (s : State) (c : Cmd) (poison : Bool) : Nat :=
  let a := c.par 128 44
  let n := gateListBytes (s.devNat a 32)
  if !mapped a || !mapped (a + n - 1) then stAddrFault
  else if poison then stMemPoison
  else if s.devFenced a n then stMemFenced
  else if (s.gateListAt a).ok (s.devNat a 32) (c.par 64 64) then stOk else stDescInvalid

/-- The pending slot of basin `b` takes a list, or a removal. -/
def State.setPending (s : State) (b act : Nat) (l : Option GateList) : State :=
  let req := (s.basin b).gateReq && l.isNone
  (s.setBasin b { s.basin b with pendAct := some act, pendList := l, gateReq := req }).wr Fld.gateStatusPending b (nat1 l.isSome)

/-- GATE_LIST acts. -/
def State.gateListAct (s : State) (c : Cmd) (poison : Bool) : State :=
  if !s.gateParamsOk c then s.finishNow c stDescInvalid
  else if bitAt c.params 8 then (s.setPending (c.par 0 6) (c.par 64 64) none).finishNow c stOk
  else
    let a := c.par 128 44
    let st := s.gateListStatus c poison
    let s := s.modCmd c.id fun k => { k with faultAddr := some a, hbmB := k.hbmB + gateListBytes (s.devNat a 32) }
    s.forSome (s.cmd? c.id) fun s c =>
      if st = stOk then ((s.setPending (c.par 0 6) (c.par 64 64) (some (s.gateListAt a))).protectNow s [c.par 0 6]).finishNow c stOk
      else s.finishNow c st

def execGateList (dt r : Nat) (poison : Bool) (s : State) : Host.Outcome State Fault Refusal :=
  enter (.gateList dt r poison) dt s fun s =>
    s.actH r 0x31 fun s c => s.whenever (!bitAt c.params 8) fun s => s.gateListAct c poison

def execGateListRemove (dt r : Nat) (s : State) : Host.Outcome State Fault Refusal :=
  enter (.gateListRemove dt r) dt s fun s =>
    s.actH r 0x31 fun s c => s.whenever (bitAt c.params 8) fun s => s.gateListAct c false

/-- GATE_NEXT_OPEN after count `t`; free where the list never opens again. -/
def State.showNextOpen (s : State) (b t : Nat) : State :=
  match (s.basin b).gateList with
  | none => s.setReg .gateNextOpen b 0
  | some l => match l.nextOpen t with
    | some o => s.setReg .gateNextOpen b o
    | none =>
      let (n, s) := s.free
      s.setReg .gateNextOpen b n

/-- The registers of the active list of basin `b`. -/
def State.showList (s : State) (b : Nat) : State :=
  let l := (s.basin b).gateList.getD ⟨0, 0, 0, []⟩
  let s := (s.wr Fld.gateStatusActive b (nat1 (s.basin b).gateList.isSome)).wr Fld.gatePeriodPeriod b l.period
  let s := ((s.wr Fld.gateGuardGuard b l.guard).wr Fld.gateCountN b l.windows.length).setReg .gateBase b l.base
  s.each (List.range 64) fun s i =>
    let w := l.windows.getD i (0, 0)
    s.setReg .gateEntry (64 * b + i) (w.1 + w.2 * 2 ^ 32)

def execGateListAct (dt b : Nat) (s : State) : Host.Outcome State Fault Refusal :=
  enter (.gateListAct dt b) dt s fun s =>
    s.forSome (s.basin b).pendAct fun s t =>
      s.whenever (t ≤ s.now && !s.inGuard b && !(s.windowOpen b && !s.on Fld.gateStatusExtended b)) fun s =>
        let x := s.basin b
        let s := s.setBasin b { x with gateList := x.pendList, pendAct := none, pendList := none }
        ((s.wr Fld.gateStatusPending b 0).showList b).showNextOpen b (t - 1)

/-! ### Guard bands and windows (R270 to R272) -/

/-- The guard band of basin `b` begins: fetches stop, the tenant's cores move to the core shadow. -/
def State.guardBegin (s : State) (b : Nat) : State := ((s.wr Fld.gateStatusInGuard b 1).stopFetches b).preempt b

def execGuardBandBegin (dt b : Nat) (s : State) : Host.Outcome State Fault Refusal :=
  enter (.guardBandBegin dt b) dt s fun s =>
    s.forSome (s.basin b).gateList fun s l =>
      s.whenever (!s.inGuard b && !s.windowOpen b && s.reg .gateNextOpen b ≤ s.now + l.guard) fun s => s.guardBegin b

/-- What an abandoned command is, in the syndrome of R272. -/
def overrunKind (c : Cmd) : Nat :=
  match c.opcode with
  | 0x8 => Jd.jet c.params
  | 0x9 => 2
  | 0xB => 3
  | _ => 4

/-- One piece of tenant work is abandoned at an open. -/
def State.overrun (s : State) (b what i core tag : Nat) : State :=
  (s.report (unitBasin b 16) 2 (what + 16 * i + 1024 * core + 2 ^ 32 * (tag % 2 ^ 32))).bump Fld.gateOverrunsOverruns b

/-- Tenant work still executing at an open is abandoned; a core outside the shadow ends its task. -/
def State.abandonTenant (s : State) (b i : Nat) : State :=
  let s := s.each ((s.executing b).filter (·.slice != 0)) fun s c => (s.overrun b (overrunKind c) i 0 c.tag).abandon c stTimeout
  let late := (List.range 8).filter fun k => (s.core (8 * b + k)).inTask && s.rd Fld.coreStatusState (8 * b + k) != 3
  let s := s.each late fun s k => s.overrun b 5 i k 0
  if late.isEmpty then s else s.taskEnd b stTimeout

/-- Both banks, the halves and the lane stores become invalid as owner_slice changes (R72, R134). -/
def State.ownerChanged (s : State) (b : Nat) : State := (((s.clearBanks b 0).clearBanks b 1).clearRill b).showOwner b

/-- The window of basin `b` opens. -/
def State.openWindow (s : State) (b : Nat) (l : GateList) : State :=
  let o := s.reg .gateNextOpen b
  let s := s.abandonTenant b (l.entryAt o)
  let s := ((s.wr Fld.basinStateRadioWindow b 1).wr Fld.gateStatusInWindow b 1).wr Fld.gateStatusInGuard b 0
  (s.ownerChanged b).showNextOpen b o

def execWindowOpen (dt b : Nat) (s : State) : Host.Outcome State Fault Refusal :=
  enter (.windowOpen dt b) dt s fun s =>
    s.forSome (s.basin b).gateList fun s l =>
      s.whenever (!s.windowOpen b && s.reg .gateNextOpen b ≤ s.now) fun s => s.openWindow b l

/-- Radio work executes in basin `b`. -/
def State.radioBusy (s : State) (b : Nat) : Bool :=
  (s.basin b).radioWork != 0 || (s.executing b).any (·.slice == 0) || (s.basin (64 + b)).task.isSome

/-- The window is over: the tenant resumes. -/
def State.closeWindow (s : State) (b : Nat) : State :=
  let s := ((s.wr Fld.basinStateRadioWindow b 0).wr Fld.gateStatusInWindow b 0).wr Fld.gateStatusExtended b 0
  let s := (s.ownerChanged b).taskResume b
  s.each (List.range 8) fun s k =>
    if (s.core (8 * b + k)).inTask then s.wr Fld.coreStatusState (8 * b + k) 1 else s

/-- The count is past the close of the open window. -/
def State.pastClose (s : State) (b : Nat) : Bool :=
  match (s.basin b).gateList with
  | some l => !l.inWindow s.now
  | none => true

def execWindowClose (dt b : Nat) (s : State) : Host.Outcome State Fault Refusal :=
  enter (.windowClose dt b) dt s fun s =>
    s.whenever (s.windowOpen b && !s.on Fld.gateStatusExtended b && s.pastClose b) fun s =>
      if s.radioBusy b then (s.wr Fld.gateStatusExtended b 1).bump Fld.gateExtensionsExtensions b else s.closeWindow b

def execWindowExtendedClose (dt b : Nat) (s : State) : Host.Outcome State Fault Refusal :=
  enter (.windowExtendedClose dt b) dt s fun s =>
    s.whenever (s.windowOpen b && s.on Fld.gateStatusExtended b && !s.radioBusy b) fun s => s.closeWindow b

end Sys2Proof.Machine
end

