-- ==== Sys2Proof/Machine/SpoutMem.lean ====
section
/-! DEFINITION. What a spout core reads and writes (R191 to R194): its windows, its caches, its accesses over the aqueduct, its
registers, and how its part of a task ends (R196). -/
namespace Sys2Proof.Machine

/-! ### Contexts

A core is numbered 8 x basin + k. During a radio window of a gateable basin the radio's tasks run beside the core shadow
that holds the tenant's: their cores are numbered from 512 on, and their task, work counter and leases stand at
64 + basin (R270; log entry 28). -/

/-- The context in which basin `b` runs tasks now. -/
def State.ctx (s : State) (b : Nat) : Nat := if s.windowOpen b && !s.reserved b then 64 + b else b

/-- The core of that context that has the number `c` of a physical core. -/
def State.ctxCore (s : State) (c : Nat) : Nat := 8 * s.ctx (c / 8) + c % 8

/-- The basin of core `c` of any context, and its context. -/
def coreBasin (c : Nat) : Nat := c / 8 % 64
def coreCtx (c : Nat) : Nat := c / 8

/-- The task that core `c` belongs to. -/
def State.coreTask (s : State) (c : Nat) : Option Task := (s.basin (coreCtx c)).task

/-- The slice a core runs for. -/
def State.coreSlice (s : State) (c : Nat) : Nat := match s.coreTask c with | some t => t.slice | none => 0

/-- Context `q` may execute instructions: its basin is ready and its own, outside guard bands, windows and switches for a
tenant, and its slice is active (R243, R260, R270, R386, R387). -/
def State.ctxRuns (s : State) (q : Nat) : Bool :=
  let b := q % 64
  match (s.basin q).task with
  | none => false
  | some t => !s.safe && !s.fencedBasin b && !s.gated b && !s.zeroing b &&
    (if t.slice = 0 then s.reserved b || s.windowOpen b
     else !s.inGuard b && !s.windowOpen b && (s.basin b).switch.isNone && s.sliceActive t.slice && !s.inferFenced)

/-- Core `c` is at an instruction boundary and may execute its next instruction. -/
def State.coreRuns (s : State) (c : Nat) : Bool :=
  let k := s.core c
  k.inTask && k.waiting.isNone && k.claiming.isNone && k.accs.all (·.store) && s.ctxRuns (coreCtx c)

/-! ### Registers -/

def CoreSt.xr (k : CoreSt) (i : Nat) : Nat := if i = 0 then 0 else k.x.getD (i - 1) 0
def CoreSt.fr (k : CoreSt) (i : Nat) : Nat := k.f.getD i 0
def padSet (n i v : Nat) (l : List Nat) : List Nat := setAt (l ++ List.replicate (n - l.length) 0) i v
def CoreSt.setX (k : CoreSt) (i v : Nat) : CoreSt := if i = 0 then k else { k with x := padSet 31 (i - 1) (v % 2 ^ 64) k.x }
def CoreSt.setF (k : CoreSt) (i v : Nat) : CoreSt := { k with f := padSet 32 i (v % 2 ^ 64) k.f }
def CoreSt.orFlags (k : CoreSt) (fl : Nat) : CoreSt := { k with fcsr := k.fcsr ||| fl }

def State.modCore (s : State) (c : Nat) (g : CoreSt → CoreSt) : State := s.setCore c (g (s.core c))

/-- The instruction at pc is over: `n` bytes on, one more retired. -/
def State.retire (s : State) (c n : Nat) : State :=
  let s := s.setReg .corePc c ((s.reg .corePc c + n) % 2 ^ 64)
  (s.setReg .coreInstret c (s.reg .coreInstret c + 1)).modCore c fun k => { k with jbuf := [] }

/-! ### The end of a core's part (R196) -/

/-- A task whose cores have all ended and whose accesses have drained completes; a radio operation's end is its own event. -/
def State.taskCheck (s : State) (q : Nat) : State :=
  match (s.basin q).task with
  | some t => if t.live = 0 && t.radioOp.isNone && s.coresDrained q then s.taskEnd q (s.taskStatus q t) else s
  | none => s

/-- Core `c` ends its part after `cyc` cycles; `g` notes why. -/
def State.coreEnd (s : State) (c cyc : Nat) (g : Task → Task) : State :=
  let q := coreCtx c
  let s := s.coreIdle c
  match (s.basin q).task with
  | none => s
  | some t => (s.setBasin q { s.basin q with task := some { g t with live := t.live - 1, cyc := t.cyc + cyc } }).taskCheck q

/-- Core `c` takes an exception: the access faults of RISC-V are causes 1, 5 and 7. -/
def State.trap (s : State) (c cause : Nat) : State :=
  let s := ((s.wr Fld.coreCauseCause c cause).wr Fld.coreStatusTrapped c 1).wr Fld.coreStatusExitNonzero c 0
  let cyc := match s.coreTask c with | some t => s.taskCycles (coreCtx c) t | none => 0
  s.coreEnd c cyc fun t => if cause = 1 ∨ cause = 5 ∨ cause = 7 then { t with addrFault := true } else { t with trap := true }

/-! ### Windows (Table 9-1) -/

/-- A window of the spout address space. -/
inductive Win where
  | cist
  | pool
  | dev
  | job
  deriving DecidableEq, Repr

def devWin : Nat := 2 ^ 44
def jobWin : Nat := 2 ^ 52

/-- The window that holds all `n` bytes from `a`. -/
def winOf (a n : Nat) : Option Win :=
  let e := a + n
  if e ≤ 0xC00000 then some .cist
  else if 0x1000000 ≤ a ∧ e ≤ 0x1700000 then some .pool
  else if devWin ≤ a ∧ e ≤ 2 * devWin then some .dev
  else if jobWin ≤ a ∧ e ≤ 2 * jobWin then some .job
  else none

/-! ### Caches (R194) -/

/-- Drop one line of the data cache, writing it back when it is dirty. -/
def State.evictLine (s : State) (c line : Nat) : State :=
  let k := s.core c
  let s := match k.dcache.find? (·.1 == line) with
    | some (l, v, true) => (s.devWrite (l * 64) (leBytes 64 v)).chargeCore c (l * 64) 64
    | _ => s
  s.modCore c fun k => { k with dcache := k.dcache.filter (·.1 != line) }

/-- Which line a fill replaces, if any, is the cache's own: a full cache replaces one. -/
def State.makeRoom (s : State) (c : Nat) : State :=
  let (n, s) := s.free
  let d := (s.core c).dcache
  if d.isEmpty || (n % 2 == 0 && d.length < 512) then s else
  match d[n / 2 % d.length]? with
  | some l => s.evictLine c l.1
  | none => s

/-- The line of device memory in the data cache, filled when it is absent; none when its read is poisoned. -/
def State.lineOf (s : State) (c line : Nat) (poison : Bool) : State × Option Nat :=
  match (s.core c).dcache.find? (·.1 == line) with
  | some (_, v, _) => (s, some v)
  | none =>
    let s := s.chargeCore c (line * 64) 64
    if poison || s.devFenced (line * 64) 64 then (s, none) else
    let s := s.makeRoom c
    let v := s.devNat (line * 64) 64
    (s.modCore c fun k => { k with dcache := (line, v, false) :: k.dcache }, some v)

/-- The lines that `n` bytes from device address `a` touch. -/
def linesOf (a n : Nat) : List Nat := if n = 0 then [] else (List.range ((a + n - 1) / 64 - a / 64 + 1)).map (a / 64 + ·)

/-- Read through the data cache. -/
def State.cachedRead (s : State) (c a n : Nat) (poison : Bool) : State × Option (List Byte) :=
  let go (acc : State × Option (List Byte)) (line : Nat) : State × Option (List Byte) :=
    match acc.2 with
    | none => acc
    | some bs => match acc.1.lineOf c line poison with
      | (s, some v) => (s, some (bs ++ leBytes 64 v))
      | (s, none) => (s, none)
  let (s, r) := (linesOf a n).foldl go (s, some [])
  (s, r.map fun bs => (bs.drop (a % 64)).take n)

/-- Write one line's share of some bytes: those that lie at line offset `o`. -/
def mergeLine (v o : Nat) (bs : List Byte) : Nat :=
  let old := leBytes 64 v
  leNat (old.take o ++ bs ++ old.drop (o + bs.length))

/-- Write through the data cache, which allocates. -/
def State.cachedWrite (s : State) (c a : Nat) (bs : List Byte) (poison : Bool) : State × Bool :=
  let go (acc : State × Bool) (line : Nat) : State × Bool :=
    if !acc.2 then acc else
    match acc.1.lineOf c line poison with
    | (s, none) => (s, false)
    | (s, some v) =>
      let lo := max a (line * 64)
      let hi := min (a + bs.length) (line * 64 + 64)
      let v' := mergeLine v (lo - line * 64) ((bs.drop (lo - a)).take (hi - lo))
      (s.modCore c fun k => { k with dcache := k.dcache.map fun l => if l.1 = line then (line, v', true) else l }, true)
  (linesOf a bs.length).foldl go (s, true)

/-- A cache-block operation on the line of device address `a`: 0 inval, 1 clean, 2 flush. -/
def State.cboLine (s : State) (c a kind : Nat) : State :=
  let line := a / 64
  match kind with
  | 0 => s.modCore c fun k => { k with dcache := k.dcache.filter (·.1 != line) }
  | 1 =>
    let k := s.core c
    match k.dcache.find? (·.1 == line) with
    | some (_, v, true) =>
      ((s.devWrite (line * 64) (leBytes 64 v)).chargeCore c a 64).modCore c fun k =>
        { k with dcache := k.dcache.map fun l => if l.1 = line then (line, v, false) else l }
    | _ => s
  | _ => s.evictLine c line

/-! ### Cistern and pool (R192, R193) -/

/-- Pool words that `n` bytes from window address `a` touch: 32-byte slots of 18 bytes. -/
def slotsOf (a n : Nat) : List Nat :=
  let o := a - 0x1000000
  (List.range ((o + n - 1) / 32 - o / 32 + 1)).map (o / 32 + ·)

/-- Bytes of a slot: the word's 18, then zeros. -/
def slotBytes (v : Int) : List Byte := wordBytes v ++ List.replicate 14 0

/-- The accesses of a basin that the bytes are, for the checks of R95 and R97. -/
def basinNeeds (w : Win) (a n : Nat) : List Need :=
  match w with
  | .cist => [⟨.cistern, a, n⟩]
  | _ => (slotsOf a n).map fun x => ⟨.pool, x, 1⟩

/-- Read bytes of the core's own basin; none on an access fault. Bytes under another command's writes are unspecified (R90). -/
def State.basinRead (s : State) (c : Nat) (w : Win) (a n : Nat) : State × Option (List Byte) :=
  let b := coreBasin c
  let needs := basinNeeds w a n
  if !(needs.all (Need.within (s.bounds (s.coreSlice c) b))) then (s, none) else
  let bad := s.poisoned b needs
  let s := s.eccReads b needs
  if bad then (s, none) else
  let (s, hit) := needs.foldl (fun x d => let (s, h) := x.1.touch b (d.sp == .pool) d.lo d.len false; (s, x.2 || h)) (s, false)
  if hit then
    ({ s with freeCtr := s.freeCtr + 1 }, some ((List.range n).map fun i => Config.freeByte s.freeCtr i))
  else match w with
    | .cist => (s, some (s.cRead b a n))
    | _ => (s, some ((((slotsOf a n).flatMap fun x => slotBytes (s.pWord b x)).drop (a % 32)).take n))

/-- Write bytes of the core's own basin; false on an access fault. -/
def State.basinWrite (s : State) (c : Nat) (w : Win) (a : Nat) (bs : List Byte) : State × Bool :=
  let b := coreBasin c
  let needs := basinNeeds w a bs.length
  if !(needs.all (Need.within (s.bounds (s.coreSlice c) b))) then (s, false) else
  let (s, hit) := needs.foldl (fun x d => let (s, h) := x.1.touch b (d.sp == .pool) d.lo d.len true; (s, x.2 || h)) (s, false)
  match w with
  | .cist =>
    let (s, bad) := s.cWrite b a bs
    (if hit then s.cFree b a bs.length else s, !bad)
  | _ =>
    let go (acc : State × Bool) (x : Nat) : State × Bool :=
      let s := acc.1
      let base := 0x1000000 + 32 * x
      let lo := max a base
      let hi := min (a + bs.length) (base + 18)
      if hi ≤ lo then acc else
      let part := hi - lo < 18
      let bad := part && s.badP b x 1
      let s := if part then s.eccRead b ⟨.pool, x, 1⟩ else s
      if bad then (s, false) else
      let old := wordBytes (s.pWord b x)
      let new := old.take (lo - base) ++ (bs.drop (lo - a)).take (hi - lo) ++ old.drop (hi - base)
      let s := s.pWrite b x (bytesWord new)
      (if hit then s.pFree b x 1 else s, acc.2)
    (slotsOf a bs.length).foldl go (s, true)

/-! ### The job address space (R191, R344) -/

/-- The 128-byte lines that `n` bytes from job address `a` touch. -/
def jobLines (a n : Nat) : List Nat := (List.range ((a + n - 1) / 128 - a / 128 + 1)).map (a / 128 + ·)

/-- Lines that the instruction of core `c` still needs. -/
def State.jobMissing (s : State) (c a n : Nat) : List Nat := (jobLines a n).filter fun l => (s.core c).jbuf.all (·.1 != l)

/-- A line that these bytes touch could not be read: its read was refused or failed. -/
def State.jobFailed (s : State) (c a n : Nat) : Bool := (jobLines a n).any fun l => (s.core c).jbuf.any fun x => x.1 == l && x.2.isEmpty

/-- The read of a line for the instruction of core `c` has answered these bytes, or failed with none. -/
def State.jobGot (s : State) (c line : Nat) (bs : List Byte) : State := s.modCore c fun k => { k with jbuf := k.jbuf ++ [(line, bs)] }

/-- Bytes of the lines read for the instruction. -/
def State.jobBytes (s : State) (c a n : Nat) : List Byte :=
  (List.range n).map fun i => match (s.core c).jbuf.find? (·.1 == (a + i) / 128) with
    | some l => l.2.getD ((a + i) % 128) 0
    | none => 0

/-- Core `c` sends one request for line `line`; false when it cannot be sent. -/
def State.coreSend (s : State) (c line : Nat) (q : AqdReq) : State × Bool :=
  match s.home? (128 * line) with
  | none => (s, false)
  | some d =>
    let id := s.aqd.nextId
    let (s, st) := s.aqdSend (s.coreSlice c) (4096 + c) (2 ^ 32 + c) d q
    if st ≠ stOk then (s, false)
    else (s.modCore c fun k => { k with accs := k.accs ++ [⟨id, q.kind == .wr, line, none, false⟩] }, true)

/-- Read these lines; a line whose read cannot be sent has failed. -/
def State.jobFetch (s : State) (c : Nat) (lines : List Nat) : State :=
  s.each lines fun s l =>
    let r := s.coreSend c l { AqdReq.blank with kind := .rd, addr := 128 * l }
    if r.2 then r.1 else r.1.jobGot c l []

/-- Store bytes: one write for each line. -/
def State.jobStore (s : State) (c a : Nat) (bs : List Byte) : State × Bool :=
  (jobLines a bs.length).foldl (fun x l =>
    if !x.2 then x else
    let lo := max a (128 * l)
    let hi := min (a + bs.length) (128 * l + 128)
    let o := lo - 128 * l
    let mine := (bs.drop (lo - a)).take (hi - lo)
    x.1.coreSend c l { AqdReq.blank with
      kind := .wr, addr := 128 * l, data := List.replicate o 0 ++ mine ++ List.replicate (128 - o - mine.length) 0,
      mask := (2 ^ (hi - lo) - 1) * 2 ^ o }) (s, true)

/-! ### Loads and stores -/

/-- The device addresses of a window access. -/
def State.coreDevOk (s : State) (c a n : Nat) : Bool := s.devOk (s.coreSlice c) (a % devWin) n && !s.devFenced (a % devWin) n

/-- What a core's read answers. -/
inductive Got where
  | bytes (bs : List Byte)
  | fault
  | wait                -- it must wait for lines of the job address space, or for earlier stores
  deriving DecidableEq, Repr

/-- Core `c` reads `n` bytes at `a`. -/
def State.coreRead (s : State) (c a n : Nat) (poison : Bool) : State × Got :=
  match winOf a n with
  | none => (s, .fault)
  | some .dev =>
    if !s.coreDevOk c a n then (s, .fault) else
    match s.cachedRead c (a % devWin) n poison with
    | (s, some bs) => (s, .bytes bs)
    | (s, none) => (s, .fault)
  | some .job =>
    let miss := s.jobMissing c (a % jobWin) n
    if !miss.isEmpty && (s.core c).accs.any (·.store) then (s, .wait) else
    let s := s.jobFetch c miss
    (s, if !(s.jobMissing c (a % jobWin) n).isEmpty then .wait
        else if s.jobFailed c (a % jobWin) n then .fault else .bytes (s.jobBytes c (a % jobWin) n))
  | some w =>
    match s.basinRead c w a n with
    | (s, some bs) => (s, .bytes bs)
    | (s, none) => (s, .fault)

/-- What core `c` itself has stored leaves its reservation as it was in `old`. -/
def State.ownStore (s : State) (c : Nat) (old : State) : State := s.modCore c fun k => { k with resv := (old.core c).resv }

/-- Core `c` writes bytes at `a`; false on an access fault. -/
def State.coreWrite (s : State) (c a : Nat) (bs : List Byte) (poison : Bool) : State × Bool :=
  match winOf a bs.length with
  | none => (s, false)
  | some .dev =>
    if !s.coreDevOk c a bs.length then (s, false) else
    let r := s.cachedWrite c (a % devWin) bs poison
    (r.1.ownStore c s, r.2)
  | some .job => s.jobStore c (a % jobWin) bs
  | some w =>
    let r := s.basinWrite c w a bs
    (r.1.ownStore c s, r.2)

/-- Fetch `n` bytes of an instruction: device memory through the instruction cache, everything else directly. -/
def State.coreFetch (s : State) (c a n : Nat) (poison : Bool) : State × Got :=
  match winOf a n with
  | some .dev =>
    if !s.coreDevOk c a n then (s, .fault) else
    let line := (a % devWin) / 64
    match (s.core c).icache.find? (·.1 == line) with
    | some l => (s, .bytes (((leBytes 64 l.2).drop (a % 64)).take n))
    | none =>
      if poison then (s, .fault) else
      let v := s.devNat (line * 64) 64
      let (k, s) := s.free
      let s := (s.chargeCore c (line * 64) 64).modCore c fun x =>
        { x with icache := (line, v) :: (if k % 2 = 0 ∧ x.icache.length < 512 then x.icache else x.icache.eraseIdx (k / 2 % max 1 x.icache.length)) }
      (s, .bytes (((leBytes 64 v).drop (a % 64)).take n))
  | _ => s.coreRead c a n false

end Sys2Proof.Machine
end

