-- ==== Sys2Proof/Machine/RvVector.lean ====
section
/-! DEFINITION. The vector extension of the spout cores (R188): version 1.0, VLEN 512, ELEN 64, with Zvfh and Zvfbfmin. The
manual names the extension; encodings and results are RISC-V's own (PRESUMED, log entry 27). A reserved encoding is an
illegal instruction. Elements that the extension calls agnostic keep their value or read all ones, as a function of what the instruction finds says: no result depends on timing (R189). -/
namespace Sys2Proof.Machine

/-! ### The vector unit's registers -/

def CoreSt.vr (k : CoreSt) (r : Nat) : Nat := k.v.getD r 0
/-- Element `i` of width `w` of the group that begins at register `r`. -/
def CoreSt.vget (k : CoreSt) (r w i : Nat) : Nat := slice (k.vr (r + i * w / vlen)) (i * w % vlen) w
def CoreSt.vset (k : CoreSt) (r w i x : Nat) : CoreSt :=
  let j := r + i * w / vlen
  let o := i * w % vlen
  { k with v := padSet 32 j (k.vr j - slice (k.vr j) o w * 2 ^ o + x % 2 ^ w * 2 ^ o) k.v }

/-- SEW, LMUL in eighths, tail and mask policy of vtype. -/
def CoreSt.sew (k : CoreSt) : Nat := 8 * 2 ^ slice k.vtype 3 3
def CoreSt.lmul8 (k : CoreSt) : Nat := lmul8Of k.vtype
def CoreSt.vill (k : CoreSt) : Bool := bitAt k.vtype 63
def CoreSt.vmask (k : CoreSt) (i : Nat) : Bool := bitAt (k.vr 0) i

/-- vsetvl: the vector length for `avl`. -/
def vlFor (avl vlmax : Nat) : Nat :=
  if avl ≤ vlmax then avl else if 2 * vlmax ≤ avl then vlmax
  else min vlmax (max (ceilDiv avl 2) (Config.vlChoice avl vlmax))

/-- Set vl and vtype; `avl` none keeps vl. -/
def CoreSt.setVl (k : CoreSt) (avl : Option Nat) (t : Nat) : CoreSt :=
  if !vtypeOk t then { k with vl := 0, vtype := 2 ^ 63, vstart := 0 }
  else
    let m := vlmaxOf (8 * 2 ^ slice t 3 3) (lmul8Of t)
    match avl with
    | some a => { k with vl := vlFor a m, vtype := t, vstart := 0 }
    | none => if k.vl ≤ m && !k.vill then { k with vtype := t, vstart := 0 } else { k with vl := 0, vtype := 2 ^ 63, vstart := 0 }

/-- What a vector instruction does to its core. -/
inductive VOut where
  | illegal
  | core (k : CoreSt) (flags : Nat)
  | wx (k : CoreSt) (rd v : Nat)
  | wf (k : CoreSt) (rd v : Nat)
  deriving DecidableEq, Repr

/-! ### Writing results -/

/-- One vector instruction: its core, its mask bit vm, and what its agnostic elements are chosen by. -/
structure VCtx where
  k : CoreSt
  vm : Bool
  found : List Nat
  deriving DecidableEq, Repr

/-- What the instruction `w` finds. -/
def CoreSt.found (k : CoreSt) (w : Nat) : List Nat := w :: k.vl :: k.vstart :: k.vtype :: k.fcsr :: (k.x ++ k.f ++ k.v)

def VCtx.active (c : VCtx) (i : Nat) : Bool := c.vm || c.k.vmask i
/-- An agnostic element is overwritten with ones. -/
def VCtx.ones (c : VCtx) (i : Nat) : Bool := Config.agnosticOnes c.found i
def VCtx.vta (c : VCtx) : Bool := bitAt c.k.vtype 6
def VCtx.vma (c : VCtx) : Bool := bitAt c.k.vtype 7
/-- Body elements. -/
def VCtx.body (c : VCtx) : List Nat := (List.range c.k.vl).filter (c.k.vstart ≤ ·)
def VCtx.actives (c : VCtx) : List Nat := c.body.filter c.active

/-- Write the body of a group of elements of width `w`, `m8` eighths; `val` of active elements. -/
def VCtx.commit (c : VCtx) (vd w m8 vl : Nat) (act : Nat → Bool) (val : Nat → Nat) : CoreSt :=
  let k := c.k
  if vl ≤ k.vstart then { k with vstart := 0 } else
  let k' := (List.range (max (vlmaxOf w m8) (vlen / w))).foldl (fun r i =>
    if i < k.vstart then r
    else if i < vl then (if act i then r.vset vd w i (val i) else if c.vma && c.ones i then r.vset vd w i (2 ^ w - 1) else r)
    else if c.vta && c.ones i then r.vset vd w i (2 ^ w - 1) else r) k
  { k' with vstart := 0 }

/-- Write a mask: bits past vl are agnostic. -/
def VCtx.commitMask (c : VCtx) (vd : Nat) (act : Nat → Bool) (val : Nat → Bool) : CoreSt :=
  let k := c.k
  if k.vl ≤ k.vstart then { k with vstart := 0 } else
  let k' := (List.range vlen).foldl (fun r i =>
    if i < k.vstart then r
    else if i < k.vl then (if act i then r.vset vd 1 i (nat1 (val i)) else if c.vma && c.ones i then r.vset vd 1 i 1 else r)
    else if c.ones i then r.vset vd 1 i 1 else r) k
  { k' with vstart := 0 }

/-! ### Register groups -/

/-- Registers of a group. -/
def groupLen (m8 : Nat) : Nat := max 1 (m8 / 8)
/-- A group of `m8` eighths may begin at `r`. -/
def aligned (r m8 : Nat) : Bool := 1 ≤ m8 && m8 ≤ 64 && r % groupLen m8 == 0
def disjoint (a m b n : Nat) : Bool := a + groupLen m ≤ b || b + groupLen n ≤ a

/-- A destination of width `dw` may overlap a source of width `sw` so. -/
def overlapOk (vd dm dw vs sm sw : Nat) : Bool :=
  disjoint vd dm vs sm || dw == sw || (dw < sw && vd == vs) ||
    (sw < dw && 8 ≤ sm && vs + groupLen sm == vd + groupLen dm)

/-! ### Element arithmetic -/

/-- roundoff of the fixed-point operations, by vxrm. -/
def roundoff (rm : Nat) (v : Int) (d : Nat) : Int :=
  if d = 0 then v else
  let q := v / (2 : Int) ^ d
  let r := v % (2 : Int) ^ d
  let half : Int := 2 ^ (d - 1)
  let up := match rm with
    | 0 => decide (half ≤ r)
    | 1 => decide (half < r) || (decide (r = half) && q % 2 == 1)
    | 2 => false
    | _ => q % 2 == 0 && r != 0
  if up then q + 1 else q

/-- Saturate to `w` bits, signed or not; whether it did. -/
def satTo (signed : Bool) (w : Nat) (v : Int) : Nat × Bool :=
  let hi : Int := if signed then 2 ^ (w - 1) - 1 else 2 ^ w - 1
  let lo : Int := if signed then -(2 ^ (w - 1) : Int) else 0
  if hi < v then (unsignedOf hi w, true) else if v < lo then (unsignedOf lo w, true) else (unsignedOf v w, false)

/-- OPI: results of one width; the flag is vxsat. `a` is of vs2, `b` the other operand. -/
def vIntOp (f6 w rm a b : Nat) : Option (Nat × Bool) :=
  let A := signedOf a w
  let B := signedOf b w
  let m := 2 ^ w
  let sh := b % w
  let plain (v : Nat) : Option (Nat × Bool) := some (v % m, false)
  match f6 with
  | 0x00 => plain (a + b)
  | 0x02 => plain (a + m - b)
  | 0x03 => plain (b + m - a)
  | 0x04 => plain (min a b)
  | 0x05 => plain (if A < B then a else b)
  | 0x06 => plain (max a b)
  | 0x07 => plain (if A < B then b else a)
  | 0x09 => plain (a &&& b)
  | 0x0A => plain (a ||| b)
  | 0x0B => plain (a ^^^ b)
  | 0x20 => some (satTo false w ((a : Int) + b))
  | 0x21 => some (satTo true w (A + B))
  | 0x22 => some (satTo false w ((a : Int) - b))
  | 0x23 => some (satTo true w (A - B))
  | 0x25 => plain (a * 2 ^ sh)
  | 0x27 => some (satTo true w (roundoff rm (A * B) (w - 1)))
  | 0x28 => plain (a / 2 ^ sh)
  | 0x29 => plain (sra w a sh)
  | 0x2A => plain (unsignedOf (roundoff rm a sh) w)
  | 0x2B => plain (unsignedOf (roundoff rm A sh) w)
  | _ => none

/-- OPI narrowing: `a` is twice as wide. -/
def vNarrowOp (f6 w rm a b : Nat) : Option (Nat × Bool) :=
  let sh := b % (2 * w)
  match f6 with
  | 0x2C => some (a / 2 ^ sh % 2 ^ w, false)
  | 0x2D => some (sra (2 * w) a sh % 2 ^ w, false)
  | 0x2E => some (satTo false w (roundoff rm a sh))
  | 0x2F => some (satTo true w (roundoff rm (signedOf a (2 * w)) sh))
  | _ => none

/-- OPI comparisons. -/
def vCompare (f6 w a b : Nat) : Option Bool :=
  let A := signedOf a w
  let B := signedOf b w
  match f6 with
  | 0x18 => some (a == b)
  | 0x19 => some (a != b)
  | 0x1A => some (decide (a < b))
  | 0x1B => some (decide (A < B))
  | 0x1C => some (decide (a ≤ b))
  | 0x1D => some (decide (A ≤ B))
  | 0x1E => some (decide (b < a))
  | 0x1F => some (decide (B < A))
  | _ => none

/-- OPM: results of one width; `d` is of vd. -/
def vMulOp (f6 w rm a b d : Nat) : Option Nat :=
  let A := signedOf a w
  let B := signedOf b w
  let u (v : Int) : Option Nat := some (unsignedOf v w)
  match f6 with
  | 0x08 => u (roundoff rm ((a : Int) + b) 1)
  | 0x09 => u (roundoff rm (A + B) 1)
  | 0x0A => u (roundoff rm ((a : Int) - b) 1)
  | 0x0B => u (roundoff rm (A - B) 1)
  | 0x20 => some (divU w a b)
  | 0x21 => u (divS w a b)
  | 0x22 => some (remU w a b)
  | 0x23 => u (remS w a b)
  | 0x24 => some (a * b / 2 ^ w)
  | 0x25 => some (a * b % 2 ^ w)
  | 0x26 => u (A * b / (2 : Int) ^ w)
  | 0x27 => u (A * B / (2 : Int) ^ w)
  | 0x29 => some ((b * d + a) % 2 ^ w)
  | 0x2B => u ((a : Int) - b * d)
  | 0x2D => some ((b * a + d) % 2 ^ w)
  | 0x2F => u ((d : Int) - b * a)
  | _ => none

/-- OPM widening: results of `2 w`; with `.w`, `a` is already that wide. `d` is of vd. -/
def vWideOp (f6 w a b d : Nat) : Option Nat :=
  let A := signedOf a w
  let B := signedOf b w
  let u (v : Int) : Option Nat := some (unsignedOf v (2 * w))
  let D := (d : Int)
  match f6 with
  | 0x30 => u (a + b)
  | 0x31 => u (A + B)
  | 0x32 => u ((a : Int) - b)
  | 0x33 => u (A - B)
  | 0x34 => u (a + b)
  | 0x35 => u (signedOf a (2 * w) + B)
  | 0x36 => u ((a : Int) - b)
  | 0x37 => u (signedOf a (2 * w) - B)
  | 0x38 => u (a * b)
  | 0x3A => u (A * b)
  | 0x3B => u (A * B)
  | 0x3C => u (D + a * b)
  | 0x3D => u (D + A * B)
  | 0x3E => u (D + A * b)
  | 0x3F => u (D + a * B)
  | _ => none

/-- Reductions of OPM. -/
def vReduce (f6 w a b : Nat) : Nat :=
  match f6 with
  | 0 => (a + b) % 2 ^ w
  | 1 => a &&& b
  | 2 => a ||| b
  | 3 => a ^^^ b
  | 4 => min a b
  | 5 => if signedOf a w < signedOf b w then a else b
  | 6 => max a b
  | _ => if signedOf a w < signedOf b w then b else a

/-- Mask operations of OPM: `a` of vs2, `b` of vs1. -/
def vMaskOp (f6 : Nat) (a b : Bool) : Bool :=
  match f6 with
  | 0x18 => a && !b
  | 0x19 => a && b
  | 0x1A => a || b
  | 0x1B => a != b
  | 0x1C => a || !b
  | 0x1D => !(a && b)
  | 0x1E => !(a || b)
  | _ => a == b

/-! ### Integer instructions -/

/-- The fields of a vector instruction. -/
def vF6 (w : Nat) : Nat := slice w 26 6
def vVd (w : Nat) : Nat := slice w 7 5
def vVs1 (w : Nat) : Nat := slice w 15 5
def vVs2 (w : Nat) : Nat := slice w 20 5

/-- A destination that is no mask must not be v0 under a mask. -/
def VCtx.maskFree (c : VCtx) (vd : Nat) : Bool := c.vm || vd != 0

/-- Results of one width from `val i`, which may set vxsat. -/
def VCtx.single (c : VCtx) (w : Nat) (srcs : List Nat) (val : Nat → Nat × Bool) : VOut :=
  let k := c.k
  let m := k.lmul8
  if !(aligned (vVd w) m && srcs.all (aligned · m) && c.maskFree (vVd w)) then .illegal else
  let sat := c.actives.any fun i => (val i).2
  let r := c.commit (vVd w) k.sew m k.vl c.active fun i => (val i).1
  .core { r with vxsat := if sat then 1 else r.vxsat } 0

/-- A mask result. -/
def VCtx.toMask (c : VCtx) (w : Nat) (srcs : List Nat) (act : Nat → Bool) (val : Nat → Bool) : VOut :=
  let k := c.k
  if !(srcs.all fun s => aligned s k.lmul8 && overlapOk (vVd w) 8 1 s k.lmul8 k.sew) then .illegal
  else .core (c.commitMask (vVd w) act val) 0

/-- The gathers and slides of OPI; `x` is the scalar or immediate of the .vx and .vi forms. -/
def VCtx.permute (c : VCtx) (w x : Nat) : VOut :=
  let k := c.k
  let n := k.sew
  let m := k.lmul8
  let vd := vVd w
  let vs1 := vVs1 w
  let vs2 := vVs2 w
  let max_ := vlmaxOf n m
  let at_ (i : Nat) : Nat := if i < max_ then k.vget vs2 n i else 0
  let vv := rvF3 w == 0
  let ok := aligned vd m && aligned vs2 m && c.maskFree vd
  match vF6 w with
  | 0x0C =>
    if !(ok && disjoint vd m vs2 m && (!vv || (aligned vs1 m && disjoint vd m vs1 m))) then .illegal
    else .core (c.commit vd n m k.vl c.active fun i => at_ (if vv then k.vget vs1 n i else x)) 0
  | 0x0E =>
    if vv then
      let m1 := m * 16 / n
      if !(ok && aligned vs1 m1 && disjoint vd m vs2 m && disjoint vd m vs1 m1) then .illegal
      else .core (c.commit vd n m k.vl c.active fun i => at_ (k.vget vs1 16 i)) 0
    else if !(ok && disjoint vd m vs2 m) then .illegal
    else
      -- elements below the offset are left alone, masked off or not
      let c' := { c with k := { k with vstart := max k.vstart (min x k.vl) } }
      .core (c'.commit vd n m k.vl c.active fun i => k.vget vs2 n (i - x)) 0
  | _ => if vv || !ok then .illegal else .core (c.commit vd n m k.vl c.active fun i => at_ (i + x)) 0

/-- Slides by one of OPM and OPF, with the scalar `x`. -/
def VCtx.slide1 (c : VCtx) (w x : Nat) (up : Bool) : VOut :=
  let k := c.k
  let n := k.sew
  let m := k.lmul8
  let vs2 := vVs2 w
  if !(aligned (vVd w) m && aligned vs2 m && c.maskFree (vVd w) && (!up || disjoint (vVd w) m vs2 m)) then .illegal
  else .core (c.commit (vVd w) n m k.vl c.active fun i =>
    if up then (if i = 0 then x else k.vget vs2 n (i - 1)) else if i + 1 = k.vl then x else k.vget vs2 n (i + 1)) 0

/-- Copy whole registers: vmv<nr>r.v. Elements of SEW before vstart stay as they are. -/
def VCtx.moveRegs (c : VCtx) (w : Nat) : VOut :=
  let n := vVs1 w + 1
  if !(c.vm && [1, 2, 4, 8].contains n && vVd w % n == 0 && vVs2 w % n == 0) then .illegal else
  let k := c.k
  let k' := ((List.range (n * vlen / k.sew)).filter (k.vstart ≤ ·)).foldl (fun r i => r.vset (vVd w) k.sew i (k.vget (vVs2 w) k.sew i)) k
  .core { k' with vstart := 0 } 0

/-- A reduction into element 0 of vd, of width `w`: the elements after it are tail. -/
def VCtx.reduceTo (c : VCtx) (vd w x : Nat) : CoreSt :=
  { ({ c with k := { c.k with vl := 1 } }.commit vd w 8 1 (fun _ => true) fun _ => x) with vl := c.k.vl }

/-- OPIVV, OPIVX and OPIVI; `xv` is the scalar of rs1. -/
def VCtx.opI (c : VCtx) (w xv : Nat) : VOut :=
  let k := c.k
  let n := k.sew
  let m := k.lmul8
  let f3 := rvF3 w
  let f6 := vF6 w
  let vd := vVd w
  let vs1 := vVs1 w
  let vs2 := vVs2 w
  let vv := f3 == 0
  let simm := unsignedOf (signedOf vs1 5) n
  let b (i : Nat) : Nat := if vv then k.vget vs1 n i else if f3 = 3 then simm else xv % 2 ^ n
  let ub (i : Nat) : Nat := if vv then k.vget vs1 n i else if f3 = 3 then vs1 else xv
  let a (i : Nat) : Nat := k.vget vs2 n i
  let srcs := if vv then [vs1, vs2] else [vs2]
  let carry (i : Nat) : Nat := nat1 (k.vmask i)
  let shift := f6 == 0x25 || f6 == 0x28 || f6 == 0x29 || f6 == 0x2A || f6 == 0x2B
  if f6 = 0x27 ∧ f3 = 3 then c.moveRegs w
  else if f6 = 0x0C ∨ f6 = 0x0E ∨ f6 = 0x0F then c.permute w (if f3 = 3 then vs1 else xv)
  else if f6 = 0x17 then
    if if c.vm then vs2 != 0 else vd == 0 then .illegal
    else { c with vm := true }.single w (if vv then (if c.vm then [vs1] else [vs1, vs2]) else if c.vm then [] else [vs2])
      fun i => (if c.vm || k.vmask i then b i else a i, false)
  else if f6 = 0x10 ∨ f6 = 0x12 then
    if c.vm || vd == 0 || (f6 == 0x12 && f3 == 3) then .illegal
    else { c with vm := true }.single w srcs fun i =>
      ((if f6 = 0x10 then a i + b i + carry i else a i + 2 * 2 ^ n - b i - carry i) % 2 ^ n, false)
  else if f6 = 0x11 ∨ f6 = 0x13 then
    if f6 == 0x13 && f3 == 3 then .illegal else
    let cin (i : Nat) : Nat := if c.vm then 0 else carry i
    c.toMask w srcs (fun _ => true) fun i => if f6 = 0x11 then decide (2 ^ n ≤ a i + b i + cin i) else decide (a i < b i + cin i)
  else if 0x18 ≤ f6 ∧ f6 ≤ 0x1F then
    if (vv && 0x1E ≤ f6) || (f3 == 3 && (f6 == 0x1A || f6 == 0x1B)) then .illegal
    else c.toMask w srcs c.active fun i => (vCompare f6 n (a i) (b i)).getD false
  else if 0x2C ≤ f6 ∧ f6 ≤ 0x2F then
    if 32 < n || !(aligned vd m && aligned vs2 (2 * m) && (!vv || aligned vs1 m) && c.maskFree vd &&
        overlapOk vd m n vs2 (2 * m) (2 * n)) then .illegal else
    let val (i : Nat) : Nat × Bool := (vNarrowOp f6 n k.vxrm (k.vget vs2 (2 * n) i) (ub i)).getD (0, false)
    let sat := c.actives.any fun i => (val i).2
    let r := c.commit vd n m k.vl c.active fun i => (val i).1
    .core { r with vxsat := if sat then 1 else r.vxsat } 0
  else if f6 = 0x30 ∨ f6 = 0x31 then
    if !vv || 32 < n || k.vstart != 0 || !aligned vs2 m then .illegal
    else if k.vl = 0 then .core k 0 else
    let ext (x : Nat) : Nat := if f6 = 0x30 then x else unsignedOf (signedOf x n) (2 * n)
    let t := c.actives.foldl (fun t i => (t + ext (a i)) % 2 ^ (2 * n)) (k.vget vs1 (2 * n) 0)
    .core (c.reduceTo vd (2 * n) t) 0
  else if (vIntOp f6 n 0 0 0).isNone || (f6 == 0x03 && vv) || (f3 == 3 && (f6 == 0x02 || (4 ≤ f6 && f6 ≤ 7) || f6 == 0x22 || f6 == 0x23))
  then .illegal
  else c.single w srcs fun i => (vIntOp f6 n k.vxrm (a i) (if shift then ub i else b i)).getD (0, false)

/-- vmsbf, vmsif, vmsof: what precedes the first set active bit. -/
def VCtx.firstBits (c : VCtx) (w : Nat) : VOut :=
  let k := c.k
  let vs2 := vVs2 w
  if k.vstart ≠ 0 ∨ vVd w = vs2 ∨ !c.maskFree (vVd w) then .illegal else
  let first := (c.actives.find? fun i => bitAt (k.vr vs2) i).getD k.vl
  .core (c.commitMask (vVd w) c.active fun i =>
    match vVs1 w with | 1 => decide (i < first) | 3 => decide (i ≤ first) | _ => decide (i = first)) 0

/-- viota and vid. -/
def VCtx.iota (c : VCtx) (w : Nat) : VOut :=
  let k := c.k
  let m := k.lmul8
  let vs2 := vVs2 w
  if vVs1 w = 17 then
    if !(aligned (vVd w) m && c.maskFree (vVd w) && vs2 == 0) then .illegal
    else .core (c.commit (vVd w) k.sew m k.vl c.active fun i => i) 0
  else if k.vstart != 0 || !(aligned (vVd w) m && c.maskFree (vVd w) && disjoint (vVd w) m vs2 8) then .illegal
  else .core (c.commit (vVd w) k.sew m k.vl c.active fun i =>
    ((List.range i).filter fun j => c.active j && bitAt (k.vr vs2) j).length) 0

/-- OPMVV and OPMVX. -/
def VCtx.opM (c : VCtx) (w xv : Nat) : VOut :=
  let k := c.k
  let n := k.sew
  let m := k.lmul8
  let f6 := vF6 w
  let vd := vVd w
  let vs1 := vVs1 w
  let vs2 := vVs2 w
  let vv := rvF3 w == 2
  let b (i : Nat) : Nat := if vv then k.vget vs1 n i else xv % 2 ^ n
  let a (i : Nat) : Nat := k.vget vs2 n i
  let srcs := if vv then [vs1, vs2] else [vs2]
  if f6 < 8 then
    if !vv || k.vstart != 0 || !aligned vs2 m then .illegal
    else if k.vl = 0 then .core k 0
    else .core (c.reduceTo vd n (c.actives.foldl (fun t i => vReduce f6 n t (a i)) (k.vget vs1 n 0))) 0
  else if f6 = 0x0E ∨ f6 = 0x0F then (if vv then .illegal else c.slide1 w (xv % 2 ^ n) (f6 == 0x0E))
  else if f6 = 0x10 then
    if vv then
      match vs1 with
      | 0 => if c.vm then .wx { k with vstart := 0 } vd (u64 (signedOf (k.vget vs2 n 0) n)) else .illegal
      | 16 => if k.vstart ≠ 0 then .illegal else .wx k vd (c.actives.filter fun i => bitAt (k.vr vs2) i).length
      | 17 => if k.vstart ≠ 0 then .illegal else
        .wx k vd (match c.actives.find? fun i => bitAt (k.vr vs2) i with | some i => i | none => 2 ^ 64 - 1)
      | _ => .illegal
    else if !c.vm || vs2 != 0 then .illegal
    else if k.vl ≤ k.vstart then .core { k with vstart := 0 } 0 else .core (c.reduceTo vd n (xv % 2 ^ n)) 0
  else if f6 = 0x12 then
    let d := match vs1 / 2 with | 1 => 8 | 2 => 4 | 3 => 2 | _ => 0
    if !vv || d == 0 || n < 8 * d || !(aligned vd m && 1 ≤ m / d && aligned vs2 (m / d) && c.maskFree vd &&
        overlapOk vd m n vs2 (m / d) (n / d)) then .illegal
    else .core (c.commit vd n m k.vl c.active fun i =>
      let x := k.vget vs2 (n / d) i
      if vs1 % 2 = 1 then unsignedOf (signedOf x (n / d)) n else x) 0
  else if f6 = 0x14 then
    if !vv then .illegal else if vs1 = 1 ∨ vs1 = 2 ∨ vs1 = 3 then c.firstBits w else if vs1 = 16 ∨ vs1 = 17 then c.iota w else .illegal
  else if f6 = 0x17 then
    if !vv || !c.vm || k.vstart != 0 || !(aligned vd m && aligned vs2 m && disjoint vd m vs2 m && disjoint vd m vs1 8) then .illegal else
    let xs := ((List.range k.vl).filter fun i => bitAt (k.vr vs1) i).map a
    .core { (c.commit vd n m xs.length (fun _ => true) fun i => xs.getD i 0) with vstart := 0 } 0
  else if 0x18 ≤ f6 ∧ f6 ≤ 0x1F then
    if !vv || !c.vm then .illegal
    else .core (c.commitMask vd (fun _ => true) fun i => vMaskOp f6 (bitAt (k.vr vs2) i) (bitAt (k.vr vs1) i)) 0
  else if 0x30 ≤ f6 then
    let wideA := 0x34 ≤ f6 && f6 ≤ 0x37
    let am := if wideA then 2 * m else m
    if 32 < n || f6 == 0x39 || (f6 == 0x3E && vv) || !(aligned vd (2 * m) && aligned vs2 am && (!vv || aligned vs1 m) && c.maskFree vd &&
        overlapOk vd (2 * m) (2 * n) vs2 am (if wideA then 2 * n else n) && (!vv || overlapOk vd (2 * m) (2 * n) vs1 m n)) then .illegal
    else .core (c.commit vd (2 * n) (2 * m) k.vl c.active fun i =>
      (vWideOp f6 n (k.vget vs2 (if wideA then 2 * n else n) i) (b i) (k.vget vd (2 * n) i)).getD 0) 0
  else if (vMulOp f6 n 0 0 0 0).isNone then .illegal
  else c.single w srcs fun i => ((vMulOp f6 n k.vxrm (a i) (b i) (k.vget vd n i)).getD 0, false)

/-! ### Floating-point instructions -/

/-- Results with flags: those of active elements are collected. -/
def VCtx.fpCommit (c : VCtx) (vd w m8 : Nat) (val : Nat → Nat × Nat) : VOut :=
  let fl := c.actives.foldl (fun t i => t ||| (val i).2) 0
  .core (c.commit vd w m8 c.k.vl c.active fun i => (val i).1) fl

/-- The product a x b with the sign turned by `np`, plus c with the sign turned by `nc`. -/
def fmaSigned (f : FpFmt) (rm : Nat) (np nc : Bool) (a b c : Nat) : Nat × Nat :=
  let t (p : Bool) (x : Nat) : Nat := if p && !f.isNan x then f.flip x else x
  fpFma f rm (t np a) b (t nc c)

/-- OPF: results of one width; `a` of vs2, `b` the other operand, `d` of vd. -/
def vFpOp (f : FpFmt) (f6 rm a b d : Nat) : Option (Nat × Nat) :=
  match f6 with
  | 0x00 => some (fpAdd f rm a b)
  | 0x02 => some (fpSub f rm a b)
  | 0x04 => some (fpMin f a b)
  | 0x06 => some (fpMax f a b)
  | 0x08 => some (fpSgnj f 0 a b, 0)
  | 0x09 => some (fpSgnj f 1 a b, 0)
  | 0x0A => some (fpSgnj f 2 a b, 0)
  | 0x20 => some (fpDiv f rm a b)
  | 0x21 => some (fpDiv f rm b a)
  | 0x24 => some (fpMul f rm a b)
  | 0x27 => some (fpSub f rm b a)
  | 0x28 => some (fmaSigned f rm false false b d a)
  | 0x29 => some (fmaSigned f rm true true b d a)
  | 0x2A => some (fmaSigned f rm false true b d a)
  | 0x2B => some (fmaSigned f rm true false b d a)
  | 0x2C => some (fmaSigned f rm false false b a d)
  | 0x2D => some (fmaSigned f rm true true b a d)
  | 0x2E => some (fmaSigned f rm false true b a d)
  | 0x2F => some (fmaSigned f rm true false b a d)
  | _ => none

/-- OPF comparisons. -/
def vFpCompare (f : FpFmt) (f6 a b : Nat) : Option (Nat × Nat) :=
  match f6 with
  | 0x18 => some (fpEq f a b)
  | 0x19 => some (fpLe f a b)
  | 0x1B => some (fpLt f a b)
  | 0x1C => let r := fpEq f a b; some (1 - r.1, r.2)
  | 0x1D => some (fpLt f b a)
  | 0x1F => some (fpLe f b a)
  | _ => none

/-- OPF widening: operands already of the wide format. -/
def vFpWide (f : FpFmt) (f6 rm a b d : Nat) : Option (Nat × Nat) :=
  match f6 with
  | 0x30 | 0x34 => some (fpAdd f rm a b)
  | 0x32 | 0x36 => some (fpSub f rm a b)
  | 0x38 => some (fpMul f rm a b)
  | 0x3C => some (fmaSigned f rm false false b a d)
  | 0x3D => some (fmaSigned f rm true true b a d)
  | 0x3E => some (fmaSigned f rm false true b a d)
  | 0x3F => some (fmaSigned f rm true false b a d)
  | _ => none

/-- The 7-bit estimates: of 1 / x for a significand 1 + i / 128, of 1 / sqrt x for 1 + i / 64 with an odd or even exponent:
the estimate at the middle of the interval, rounded to nearest. -/
def rec7 (i : Nat) : Nat := (2 ^ 17 + 257 + 2 * i) / (2 * (257 + 2 * i)) - 128
def rsqrt7 (odd : Bool) (i : Nat) : Nat :=
  let num := 2 ^ 16 * 128 * 2 ^ 40
  let den := (129 + 2 * i) * (if odd then 1 else 2)
  (Nat.sqrt (num / den) + 2 ^ 19) / 2 ^ 20 - 128

/-- Normalise a subnormal: exponent and 7 high bits of the significand are taken from here. -/
def normFrac (f : FpFmt) (x : Nat) : Int × Nat :=
  let e := slice x f.M f.E
  let fr := slice x 0 f.M
  if e ≠ 0 then (e, fr)
  else let k := f.M - Nat.log2 fr; (1 - (k : Int), fr * 2 ^ k % 2 ^ f.M)

/-- vfrec7. -/
def fpRec7 (f : FpFmt) (rm x : Nat) : Nat × Nat :=
  let n := f.neg x
  match f.val x with
  | .nan => f.nanOf [x] false
  | .inf _ => (f.zero n, 0)
  | .num m _ =>
    if m = 0 then (f.infty n, fDZ) else
    let (e, fr) := normFrac f x
    let out : Int := 2 * f.bias - 1 - e
    if 2 * f.bias < out then
      let toInf := match rm with | 1 => false | 2 => n | 3 => !n | _ => true
      (if toInf then f.infty n else f.infty n - 1, fNX + fOF)
    else
      let s := rec7 (fr / 2 ^ (f.M - 7)) * 2 ^ (f.M - 7)
      if out ≤ 0 then (f.zero n + (2 ^ f.M + s) / 2 ^ (1 - out).toNat, 0) else (f.zero n + out.toNat * 2 ^ f.M + s, 0)

/-- vfrsqrt7. -/
def fpRsqrt7 (f : FpFmt) (x : Nat) : Nat × Nat :=
  match f.val x with
  | .nan => f.nanOf [x] false
  | .inf n => if n then f.nanOf [x] true else (0, 0)
  | .num m _ =>
    if m = 0 then (f.infty (f.neg x), fDZ) else if m < 0 then f.nanOf [x] true else
    let (e, fr) := normFrac f x
    let odd := e % 2 == 1
    let out : Int := (3 * f.bias - 1 - e) / 2
    (out.toNat * 2 ^ f.M + rsqrt7 odd (fr / 2 ^ (f.M - 6)) * 2 ^ (f.M - 7), 0)

/-- Round to odd. -/
def fpRod (g f : FpFmt) (x : Nat) : Nat × Nat :=
  let r := fpConv g f 1 x
  (if r.2 % 2 = 1 ∧ r.1 % 2 = 0 then r.1 + 1 else r.1, r.2)

/-- The conversions of VFUNARY0, of which `k` selects one: source width, destination width, the conversion. -/
def vConvert (k n rm : Nat) : Option (Nat × Nat × (Nat → Nat × Nat)) :=
  let g := rvFmt
  let int (sw dw r : Nat) (s : Bool) : Option (Nat × Nat × (Nat → Nat × Nat)) :=
    if sw = 8 ∨ 64 < sw ∨ 64 < dw then none else some (sw, dw, fun x => fpToInt (g sw) r dw s x)
  let flt (sw dw : Nat) (s : Bool) : Option (Nat × Nat × (Nat → Nat × Nat)) :=
    if dw = 8 ∨ 64 < sw ∨ 64 < dw then none else some (sw, dw, fun x => fpOfInt (g dw) rm (if s then signedOf x sw else x))
  let ff (sw dw : Nat) (h : Nat → Nat × Nat) : Option (Nat × Nat × (Nat → Nat × Nat)) :=
    if sw = 8 ∨ dw = 8 ∨ 64 < sw ∨ 64 < dw then none else some (sw, dw, h)
  match k with
  | 0 => int n n rm false
  | 1 => int n n rm true
  | 2 => flt n n false
  | 3 => flt n n true
  | 6 => int n n 1 false
  | 7 => int n n 1 true
  | 8 => int n (2 * n) rm false
  | 9 => int n (2 * n) rm true
  | 10 => flt n (2 * n) false
  | 11 => flt n (2 * n) true
  | 12 => ff n (2 * n) fun x => fpConv (g n) (g (2 * n)) rm x
  | 13 => if n = 16 then some (16, 32, fun x => fpConv rvBf (g 32) rm x) else none
  | 14 => int n (2 * n) 1 false
  | 15 => int n (2 * n) 1 true
  | 16 => int (2 * n) n rm false
  | 17 => int (2 * n) n rm true
  | 18 => flt (2 * n) n false
  | 19 => flt (2 * n) n true
  | 20 => ff (2 * n) n fun x => fpConv (g (2 * n)) (g n) rm x
  | 21 => ff (2 * n) n fun x => fpRod (g (2 * n)) (g n) x
  | 22 => int (2 * n) n 1 false
  | 23 => int (2 * n) n 1 true
  | 29 => if n = 16 then some (32, 16, fun x => fpConv (g 32) rvBf rm x) else none
  | _ => none

/-- A conversion instruction. -/
def VCtx.convert (c : VCtx) (w rm : Nat) : VOut :=
  let k := c.k
  let n := k.sew
  let m := k.lmul8
  match vConvert (vVs1 w) n rm with
  | none => .illegal
  | some (sw, dw, h) =>
    let sm := m * sw / n
    let dm := m * dw / n
    if !(aligned (vVd w) dm && aligned (vVs2 w) sm && c.maskFree (vVd w) && overlapOk (vVd w) dm dw (vVs2 w) sm sw) then .illegal
    else c.fpCommit (vVd w) dw dm fun i => h (k.vget (vVs2 w) sw i)

/-- Ordered sums and other reductions of OPF. -/
def VCtx.fpReduce (c : VCtx) (w rm : Nat) : VOut :=
  let k := c.k
  let n := k.sew
  let f6 := vF6 w
  let wide := 0x30 ≤ f6
  let dw := if wide then 2 * n else n
  if k.vstart != 0 || !aligned (vVs2 w) k.lmul8 || 64 < dw then .illegal
  else if k.vl = 0 then .core k 0 else
  let f := rvFmt dw
  let one (t : Nat × Nat) (i : Nat) : Nat × Nat :=
    let x := k.vget (vVs2 w) n i
    let (x, fx) := if wide then fpConv (rvFmt n) f rm x else (x, 0)
    let r := match f6 with | 0x05 => fpMin f t.1 x | 0x07 => fpMax f t.1 x | _ => fpAdd f rm t.1 x
    (r.1, t.2 ||| fx ||| r.2)
  let (v, fl) := c.actives.foldl one (k.vget (vVs1 w) dw 0, 0)
  .core (c.reduceTo (vVd w) dw v) fl

/-- OPFVV and OPFVF; `fv` is the scalar of rs1, unboxed. -/
def VCtx.opF (c : VCtx) (w rm fv : Nat) : VOut :=
  let k := c.k
  let n := k.sew
  let m := k.lmul8
  let f6 := vF6 w
  let vd := vVd w
  let vs1 := vVs1 w
  let vs2 := vVs2 w
  let vv := rvF3 w == 1
  let b (i : Nat) : Nat := if vv then k.vget vs1 n i else fv
  let a (i : Nat) : Nat := k.vget vs2 n i
  let srcs := if vv then [vs1, vs2] else [vs2]
  if f6 = 0x12 ∧ vv then c.convert w rm
  else if n = 8 then .illegal
  else
  let f := rvFmt n
  if f6 = 0x01 ∨ f6 = 0x03 ∨ f6 = 0x05 ∨ f6 = 0x07 ∨ f6 = 0x31 ∨ f6 = 0x33 then (if vv then c.fpReduce w rm else .illegal)
  else if f6 = 0x0E ∨ f6 = 0x0F then (if vv then .illegal else c.slide1 w fv (f6 == 0x0E))
  else if f6 = 0x10 then
    if !c.vm then .illegal
    else if vv then (if vs1 = 0 then .wf { k with vstart := 0 } vd (if n = 64 then a 0 else boxFp n (a 0)) else .illegal)
    else if vs2 ≠ 0 then .illegal
    else if k.vl ≤ k.vstart then .core { k with vstart := 0 } 0 else .core (c.reduceTo vd n fv) 0
  else if f6 = 0x13 then
    if !vv || !(aligned vd m && aligned vs2 m && c.maskFree vd) then .illegal else
    match vs1 with
    | 0 => c.fpCommit vd n m fun i => fpSqrt f rm (a i)
    | 4 => c.fpCommit vd n m fun i => fpRsqrt7 f (a i)
    | 5 => c.fpCommit vd n m fun i => fpRec7 f rm (a i)
    | 16 => c.fpCommit vd n m fun i => (fpClass f (a i), 0)
    | _ => .illegal
  else if f6 = 0x17 then
    if vv || (c.vm && vs2 != 0) || (!c.vm && (vd == 0)) || !(aligned vd m && aligned vs2 m) then .illegal
    else .core ({ c with vm := true }.commit vd n m k.vl (fun _ => true) fun i => if c.vm || k.vmask i then fv else a i) 0
  else if 0x18 ≤ f6 ∧ f6 ≤ 0x1F then
    if (vFpCompare f f6 0 0).isNone || (vv && 0x1D ≤ f6) || !(srcs.all fun s => aligned s m && overlapOk vd 8 1 s m n) then .illegal else
    let r (i : Nat) : Nat × Nat := (vFpCompare f f6 (a i) (b i)).getD (0, 0)
    .core (c.commitMask vd c.active fun i => (r i).1 == 1) (c.actives.foldl (fun t i => t ||| (r i).2) 0)
  else if 0x30 ≤ f6 then
    let wideA := f6 == 0x34 || f6 == 0x36
    let am := if wideA then 2 * m else m
    if 32 < n || (vFpWide f f6 0 0 0 0).isNone || !(aligned vd (2 * m) && aligned vs2 am && (!vv || aligned vs1 m) && c.maskFree vd &&
        overlapOk vd (2 * m) (2 * n) vs2 am (if wideA then 2 * n else n) && (!vv || overlapOk vd (2 * m) (2 * n) vs1 m n)) then .illegal
    else
      let g := rvFmt (2 * n)
      c.fpCommit vd (2 * n) (2 * m) fun i =>
        let (x, fx) := if wideA then (k.vget vs2 (2 * n) i, 0) else fpConv f g rm (a i)
        let (y, fy) := fpConv f g rm (b i)
        let r := (vFpWide g f6 rm x y (k.vget vd (2 * n) i)).getD (0, 0)
        (r.1, fx ||| fy ||| r.2)
  else if (vFpOp f f6 0 0 0 0).isNone || (vv && (f6 == 0x21 || f6 == 0x27)) || !(aligned vd m && srcs.all (aligned · m) && c.maskFree vd)
  then .illegal
  else c.fpCommit vd n m fun i => (vFpOp f f6 rm (a i) (b i) (k.vget vd n i)).getD (0, 0)

/-! ### The instructions under OP-V -/

/-- vsetvli, vsetivli, vsetvl. -/
def CoreSt.vConfig (k : CoreSt) (w : Nat) : VOut :=
  let rd := rvRd w
  let rs1 := rvRs1 w
  let go (avl : Option Nat) (t : Nat) : VOut := let k' := k.setVl avl t; .wx k' rd k'.vl
  let avl := if rs1 ≠ 0 then some (k.xr rs1) else if rd ≠ 0 then some (2 ^ 64 - 1) else none
  if !bitAt w 31 then go avl (slice w 20 11)
  else if bitAt w 30 then go (some rs1) (slice w 20 10)
  else if slice w 25 6 = 0 then go avl (k.xr (rvRs2 w))
  else .illegal

/-- An instruction under OP-V. -/
def CoreSt.opV (k : CoreSt) (w : Nat) : VOut :=
  let f3 := rvF3 w
  if f3 = 7 then k.vConfig w else
  let c : VCtx := ⟨k, bitAt w 25, k.found w⟩
  let whole := f3 == 3 && vF6 w == 0x27
  let rm := slice k.fcsr 5 3
  if k.vill && !whole then .illegal
  else match f3 with
    | 0 | 3 | 4 => c.opI w (k.xr (vVs1 w))
    | 2 | 6 => c.opM w (k.xr (vVs1 w))
    | _ => if 4 < rm then .illegal else c.opF w rm (unboxFp (max 16 k.sew) (k.fr (vVs1 w)))

/-! ### Vector loads and stores -/

/-- One element of a vector access: its index, the register that its field's group begins at, its address. -/
structure VElem where
  i : Nat
  reg : Nat
  addr : Nat
  deriving DecidableEq, Repr

/-- The plan of a vector access: element width, eighths of a group, elements, and whether faults past the first shorten vl. -/
structure VMem where
  eew : Nat
  m8 : Nat
  elems : List VElem
  first : Bool
  vl : Nat
  whole : Bool
  deriving DecidableEq, Repr

/-- The plan of an instruction under LOAD-FP or STORE-FP; none when it is illegal. -/
def CoreSt.vMemPlan (k : CoreSt) (w : Nat) (store : Bool) : Option VMem :=
  let c : VCtx := ⟨k, bitAt w 25, []⟩
  let eew := match rvF3 w with | 0 => 8 | 5 => 16 | 6 => 32 | _ => 64
  let nf := slice w 29 3 + 1
  let mop := slice w 26 2
  let base := k.xr (rvRs1 w)
  let vd := vVd w
  let sub := slice w 20 5
  let wrap (a : Nat) : Nat := a % 2 ^ 64
  if bitAt w 28 then none
  else if mop = 0 ∧ sub = 8 then
    -- whole registers
    if !c.vm || !([1, 2, 4, 8].contains nf) || vd % nf != 0 || (store && eew != 8) then none
    else
      let n := nf * vlen / eew
      some ⟨eew, 8 * nf, ((List.range n).filter (k.vstart ≤ ·)).map fun i => ⟨i, vd, wrap (base + i * eew / 8)⟩, false, n, true⟩
  else if k.vill then none
  else if mop = 0 ∧ sub = 11 then
    if !c.vm || nf != 1 || eew != 8 then none
    else
      let n := ceilDiv k.vl 8
      some ⟨8, 8, ((List.range n).filter (k.vstart ≤ ·)).map fun i => ⟨i, vd, wrap (base + i)⟩, false, n, true⟩
  else
    let indexed := mop == 1 || mop == 3
    let dw := if indexed then k.sew else eew
    let dm := if indexed then k.lmul8 else k.lmul8 * eew / k.sew
    let im := k.lmul8 * eew / k.sew
    let g := groupLen dm
    if (mop == 0 && sub != 0 && !(sub == 16 && !store)) || !aligned vd dm || 64 < nf * dm || 32 < vd + nf * g ||
        (!store && !c.maskFree vd) || (indexed && !aligned sub im) ||
        (indexed && !store && (if nf = 1 then !overlapOk vd dm dw sub im eew else !(vd + nf * g ≤ sub || sub + groupLen im ≤ vd))) then none
    else
      let off (i : Nat) : Nat :=
        if mop = 2 then unsignedOf (s64 (k.xr sub) * i) 64 else if indexed then k.vget sub eew i else i * nf * dw / 8
      some ⟨dw, dm, c.actives.flatMap fun i => (List.range nf).map fun j => ⟨i, vd + j * g, wrap (base + off i + j * dw / 8)⟩,
        mop == 0 && sub == 16, k.vl, false⟩

/-- How a vector access ends. -/
inductive VAcc where
  | done
  | wait
  | fault
  | illegal
  deriving DecidableEq, Repr

/-- The lines of the job address space that a vector load still needs. -/
def State.vMissing (s : State) (c : Nat) (p : VMem) : List Nat :=
  (p.elems.flatMap fun e => match winOf e.addr (p.eew / 8) with
    | some .job => s.jobMissing c (e.addr % jobWin) (p.eew / 8)
    | _ => []).eraseDups

/-- Load the elements one after another: the state, the core's registers, and the element that faulted. -/
def State.vLoadElems (s : State) (c : Nat) (p : VMem) (poison : Bool) : State × CoreSt × Option Nat :=
  p.elems.foldl (fun x e =>
    match x with
    | (s, k, some i) => (s, k, some i)
    | (s, k, none) => match s.coreRead c e.addr (p.eew / 8) poison with
      | (s, .bytes bs) => (s, k.vset e.reg p.eew e.i (leNat bs), none)
      | (s, _) => (s, k, some e.i)) (s, s.core c, none)

/-- A vector load. A fault-only-first load that faults past element 0 shortens vl. -/
def State.vLoad (s : State) (c w : Nat) (poison : Bool) : State × VAcc :=
  match (s.core c).vMemPlan w false with
  | none => (s, .illegal)
  | some p =>
    let miss := s.vMissing c p
    if !miss.isEmpty && (s.core c).accs.any (·.store) then (s, .wait) else
    let s := s.jobFetch c miss
    if !(s.vMissing c p).isEmpty then (s, .wait)
    else
      let found := (s.core c).found w
      let (s, k, bad) := s.vLoadElems c p poison
      let (k, bad) := match bad with
        | some i => if p.first && 0 < i then ({ k with vl := i }, none) else (k, some i)
        | none => (k, none)
      match bad with
      | some i => (s.modCore c fun x => { x with v := k.v, vstart := i }, .fault)
      | none =>
        let v : VCtx := ⟨k, bitAt w 25, found⟩
        let k := if p.whole then { k with vstart := 0 }
          else (p.elems.map (·.reg)).eraseDups.foldl (fun k r => { v with k := k }.commit r p.eew p.m8 k.vl v.active fun i => k.vget r p.eew i) k
        (s.modCore c fun x => { x with v := k.v, vl := k.vl, vstart := 0 }, .done)

/-- A vector store. -/
def State.vStore (s : State) (c w : Nat) (poison : Bool) : State × VAcc :=
  match (s.core c).vMemPlan w true with
  | none => (s, .illegal)
  | some p =>
    let k := s.core c
    let (s, bad) := p.elems.foldl (fun x e =>
      match x with
      | (s, some i) => (s, some i)
      | (s, none) =>
        let (s, ok) := s.coreWrite c e.addr (leBytes (p.eew / 8) (k.vget e.reg p.eew e.i)) poison
        (s, if ok then none else some e.i)) (s, none)
    match bad with
    | some i => (s.modCore c fun x => { x with vstart := i }, .fault)
    | none => (s.modCore c fun x => { x with vstart := 0 }, .done)

end Sys2Proof.Machine
end

