-- ==== Sys2Proof/Machine/Spout.lean ====
section
/-! DEFINITION. Spout cores at work (chapter 9): tasks, instructions, the work counter, semaphores, tile.issue, and accesses
that return. -/
namespace Sys2Proof.Machine

/-! ### Tasks (R195, R196) -/

/-- The check of a task's parameters (R18, R195). -/
def State.taskCheckStatus (s : State) (c : Cmd) : Nat :=
  if s.cmdFenced c then stUnitFenced
  else if c.par 64 8 = 0 ∨ c.par 0 1 ≠ 0 ∨ c.par 72 24 ≠ 0 then stDescInvalid else stOk

def execSpoutTask (dt b : Nat) (s : State) : Host.Outcome State Fault Refusal :=
  enter (.spoutTask dt b) dt s fun s =>
    s.forSome (s.firstIssue b 0xC) fun s c =>
      s.whenever (s.mayCheck c.slice b || s.fencedBasin b) fun s =>
        if s.taskCheckStatus c = stOk then s.modCmd c.id fun k => { k with phase := .queued }
        else s.finishNow c (s.taskCheckStatus c)

/-- Core `c` starts a task at `entry` with a0 = `arg` and a1 = its index; the CSRs that R195 does not name keep their values. -/
def State.startCore (s : State) (c arg entry : Nat) : State :=
  let k := s.core c
  let x := setAt (setAt (List.replicate 31 0) 9 arg) 10 (c % 8)
  let s := s.setCore c
    { x := x, deadline := k.deadline, cycles := k.cycles, vstart := k.vstart, vxsat := k.vxsat, vxrm := k.vxrm, inTask := true }
  (s.setReg .corePc c entry).wr Fld.coreStatusState c 1

/-- The work counter as a task finds it (R198). -/
def State.startCounter (s : State) (q limit lease : Nat) : State :=
  let s := ((s.wr Fld.wcLimitLimit q limit).wr Fld.wcLeaseLease q lease).wr Fld.wcNextNext q 0
  ((s.wr Fld.wcDoneCountDone q 0).wr Fld.issueStatusFirstFail q 0).setBasin q { s.basin q with leases := [], waiters := waitsLeft (s.basin q).waiters }

/-- A task takes context `q`, with a serial number of its own. -/
def State.beginTask (s : State) (q : Nat) (t : Task) (params : Nat) : State :=
  let ks := (List.range 8).filter fun k => bitAt params (64 + k)
  let s := s.startCounter q (slice params 96 32) (slice params 128 32)
  let n := s.nextCmd
  let s := { s with nextCmd := n + 1 }
  let s := s.setBasin q { s.basin q with task := some { t with live := ks.length, serial := n }, lastTask := n }
  s.each ks fun s k => s.startCore (8 * q + k) (slice params 192 64) (slice params 0 64)

/-- The task of command `c` starts, when its cores get their weight (R404). -/
def State.taskStart (s : State) (c : Cmd) : State :=
  let b := c.target
  let (s, ok) := s.takeStart (320 + b) ((List.range 8).filter fun k => bitAt (c.par 64 8) k).length
  if !ok then s else
  let s := s.startRunning c.id
  let w := c.par 160 32
  s.beginTask (s.ctx b)
    { cmd := c.id, radioOp := none, slice := c.slice, live := 0, start := s.now, held := false,
      watchdog := if w = 0 then 0 else s.now + 1024 * w, addrFault := false, trap := false, timeout := false, exitNz := false, poison := false, cyc := 0 }
    c.params

def execSpoutTaskStart (dt b : Nat) (s : State) : Host.Outcome State Fault Refusal :=
  enter (.spoutTaskStart dt b) dt s fun s =>
    s.forSome (s.cmds.find? fun c => c.target == b && c.opcode == 0xC && c.phase == .queued && s.mayStart c.slice b) fun s c =>
      s.whenever (s.basin (s.ctx b)).task.isNone fun s => s.taskStart c

/-- The cores of context `q` that still run stop. -/
def State.stopCores (s : State) (q : Nat) : State :=
  s.each ((List.range 8).map (8 * q + ·)) fun s c =>
    if (s.core c).inTask then ((s.coreIdle c).wr Fld.coreStatusTrapped c 0).wr Fld.coreStatusExitNonzero c 0 else s

/-- The watchdog of the task in context `q` fires. -/
def State.watchdog (s : State) (q : Nat) (t : Task) : State :=
  let cyc := t.cyc + t.live * s.taskCycles q t
  let s := s.stopCores q
  (s.setBasin q { s.basin q with task := some { t with live := 0, timeout := true, cyc := cyc }, waiters := waitsLeft (s.basin q).waiters }).taskCheck q

def execSpoutWatchdog (dt b : Nat) (s : State) : Host.Outcome State Fault Refusal :=
  enter (.spoutWatchdog dt b) dt s fun s =>
    let q := s.ctx b
    s.forSome (s.basin q).task fun s t =>
      s.whenever (t.watchdog != 0 && decide (t.watchdog ≤ s.now) && t.live != 0 && s.ctxRuns q) fun s => s.watchdog q t

/-! ### Fetching (R188, R191) -/

/-- What stands at pc: an instruction of `len` bytes as its 32-bit form, an access fault, a wait for the job address
space, or no legal 16-bit instruction. -/
inductive Fetched where
  | word (w len : Nat)
  | fault
  | wait
  | bad
  deriving DecidableEq, Repr

/-- Fetch the instruction at pc of core `c`. -/
def State.fetchInstr (s : State) (c : Nat) (poison : Bool) : State × Fetched :=
  let pc := s.reg .corePc c
  match s.coreFetch c pc 2 poison with
  | (s, .fault) => (s, .fault)
  | (s, .wait) => (s, .wait)
  | (s, .bytes lo) =>
    if leNat lo % 4 ≠ 3 then (s, match expandC (leNat lo) with | some w => .word w 2 | none => .bad) else
    match s.coreFetch c ((pc + 2) % 2 ^ 64) 2 poison with
    | (s, .fault) => (s, .fault)
    | (s, .wait) => (s, .wait)
    | (s, .bytes hi) => (s, .word (leNat lo + 2 ^ 16 * leNat hi) 4)

/-- What the instruction `w` at pc of core `c` does. -/
def State.opOf (s : State) (c w : Nat) : Uop :=
  let k := s.core c
  rvOp w (s.reg .corePc c) (slice k.fcsr 5 3) k.xr k.fr

/-! ### Atomics (R188) -/

/-- LR, SC and AMO: aligned, in the cistern or the device physical window. -/
def atomicOk (a n : Nat) : Bool := a % n == 0 && (winOf a n == some .cist || winOf a n == some .dev)

/-- An atomic's read; in device memory it acts on memory itself. -/
def State.atomRead (s : State) (c a n : Nat) (poison : Bool) : State × Option (List Byte) :=
  if !atomicOk a n then (s, none) else
  if winOf a n = some .dev then
    if !s.coreDevOk c a n then (s, none) else
    let s := (s.evictLine c ((a % devWin) / 64)).chargeCore c (a % devWin) 64
    (s, if poison then none else some (s.devRead (a % devWin) n))
  else s.basinRead c .cist a n

/-- An atomic's write. -/
def State.atomWrite (s : State) (c a : Nat) (bs : List Byte) : State × Bool :=
  if winOf a bs.length = some .dev then (((s.devWrite (a % devWin) bs).ownStore c s).chargeCore c (a % devWin) 64, true)
  else
    let r := s.basinWrite c .cist a bs
    (r.1.ownStore c s, r.2)

/-- SC: it fails without a reservation of all its bytes, which a store of any other agent to them ends; whether it succeeds where
nothing forbids it is the core's own (R189). -/
def State.storeCond (s : State) (c rd a n v len : Nat) (poison : Bool) : State :=
  let resv := (s.core c).resv
  match s.atomRead c a n poison with
  | (s, none) => s.trap c 7
  | (s, some _) =>
    let s := s.modCore c fun k => { k with resv := none }
    let (f, s) := s.free
    let held := match resv with | some r => r.1 ≤ a && a + n ≤ r.1 + r.2 | none => false
    if held && f % 2 == 0 then
      let (s, ok) := s.atomWrite c a (leBytes n v)
      if ok then (s.modCore c fun k => k.setX rd 0).retire c len else s.trap c 7
    else (s.modCore c fun k => k.setX rd 1).retire c len

/-- AMO. -/
def State.amo (s : State) (c op rd a n v len : Nat) (poison : Bool) : State :=
  match s.atomRead c a n poison with
  | (s, none) => s.trap c 7
  | (s, some old) =>
    let (s, ok) := s.atomWrite c a (leBytes n (amoResult op n (leNat old) v))
    if ok then (s.modCore c fun k => k.setX rd (u64 (signedOf (leNat old) (8 * n)))).retire c len else s.trap c 7

/-! ### CSRs (R190) -/

/-- The CSRs whose reads depend on time (R366, kind 3). -/
def timedCsr (n : Nat) : Bool := n == 0xC00 || n == 0xC01 || n == 0xC02

/-- The value of a CSR of core `c`; none when there is no such CSR. How fast cycle runs is free; it never runs backwards. -/
def State.csrValue (s : State) (c n : Nat) : Option Nat :=
  let k := s.core c
  match n with
  | 0x001 => some (k.fcsr % 32)
  | 0x002 => some (slice k.fcsr 5 3)
  | 0x003 => some (k.fcsr % 256)
  | 0x008 => some k.vstart
  | 0x009 => some (k.vxsat % 2)
  | 0x00A => some (k.vxrm % 4)
  | 0x00F => some (k.vxsat % 2 + 2 * (k.vxrm % 4))
  | 0xC20 => some k.vl
  | 0xC21 => some k.vtype
  | 0xC22 => some 64
  | 0xC00 => some (k.cycles % 2 ^ 64)
  | 0xC01 => some s.now
  | 0xC02 => some (s.reg .coreInstret c)
  | 0x800 => some k.deadline
  | 0xCC0 => some (c % 512)
  | 0xCC1 => some (s.owner (coreBasin c))
  | 0xCC2 => some (s.rd Fld.issueStatusFirstFail (coreCtx c))
  | _ => none

/-- Write a CSR. -/
def CoreSt.csrPut (k : CoreSt) (n v : Nat) : CoreSt :=
  match n with
  | 0x001 => { k with fcsr := putBits k.fcsr 0 5 v }
  | 0x002 => { k with fcsr := putBits k.fcsr 5 3 v }
  | 0x003 => { k with fcsr := v % 256 }
  | 0x008 => { k with vstart := v % vlen }
  | 0x009 => { k with vxsat := v % 2 }
  | 0x00A => { k with vxrm := v % 4 }
  | 0x00F => { k with vxsat := v % 2, vxrm := slice v 1 2 }
  | 0x800 => { k with deadline := v % 2 ^ 64 }
  | _ => k

/-- Time has passed for the cycle counter of core `c`. -/
def State.tickCore (s : State) (c : Nat) : State :=
  let (n, s) := s.free
  s.modCore c fun k => { k with cycles := k.cycles + n }

/-- A CSR instruction: kind 1 write, 2 set, 3 clear. -/
def State.csrOp (s : State) (c kind rd n src len : Nat) (write : Bool) : State :=
  let reads := kind != 1 || rd != 0
  let s' := if n = 0xC00 then s.tickCore c else s
  match s'.csrValue c n with
  | none => s.trap c 2
  | some old =>
    if write && n / 1024 == 3 then s.trap c 2 else
    let s := if reads && timedCsr n then s'.nondet (s.coreSlice c) 3 else s'
    let new := match kind with | 1 => src | 2 => old ||| src | _ => old &&& not64 src
    (s.modCore c fun k => (if write then k.csrPut n new else k).setX rd old).retire c len

/-! ### Instructions -/

/-- A load of core `c`. -/
def State.loadOp (s : State) (c rd a n len : Nat) (signed isFp poison : Bool) : State :=
  match s.coreRead c a n poison with
  | (s, .wait) => s
  | (s, .fault) => s.trap c 5
  | (s, .bytes bs) =>
    let v := leNat bs
    (s.modCore c fun k =>
      if isFp then k.setF rd (if n = 8 then v else boxFp (8 * n) v)
      else k.setX rd (if signed then u64 (signedOf v (8 * n)) else v)).retire c len

/-- The end of a vector access. -/
def State.vecDone (s : State) (c len cause : Nat) (r : VAcc) : State :=
  match r with
  | .done => s.retire c len
  | .wait => s
  | .fault => s.trap c cause
  | .illegal => s.trap c 2

/-- An instruction of the vector extension. -/
def State.vecOp (s : State) (c w len : Nat) (poison : Bool) : State :=
  match w % 128 with
  | 0x07 => let (s, r) := s.vLoad c w poison; s.vecDone c len 5 r
  | 0x27 => let (s, r) := s.vStore c w poison; s.vecDone c len 7 r
  | _ =>
    match (s.core c).opV w with
    | .illegal => s.trap c 2
    | .core k fl => (s.setCore c (k.orFlags fl)).retire c len
    | .wx k rd v => (s.setCore c (k.setX rd v)).retire c len
    | .wf k rd v => (s.setCore c (k.setF rd v)).retire c len

/-- A cache-block operation: only the device physical window is cached (R194). -/
def State.cboOp (s : State) (c kind a len : Nat) : State :=
  match winOf a 1 with
  | none => s.trap c 7
  | some .dev => if s.coreDevOk c (a / 64 * 64) 64 then (s.cboLine c (a % devWin) kind).retire c len else s.trap c 7
  | some _ => s.retire c len

/-- Core `c` executes an instruction of `len` bytes. ecall and the spout instructions have commands of their own. -/
def State.runOp (s : State) (c w len : Nat) (poison : Bool) : Uop → State
  | .wx rd v fl => (s.modCore c fun k => (k.setX rd v).orFlags fl).retire c len
  | .wf rd v fl => (s.modCore c fun k => (k.setF rd v).orFlags fl).retire c len
  | .jump rd t =>
    let next := (s.reg .corePc c + len) % 2 ^ 64
    ((s.modCore c fun k => k.setX rd next).retire c len).setReg .corePc c t
  | .load rd a n signed isFp => s.loadOp c rd a n len signed isFp poison
  | .store a n v =>
    let (s, ok) := s.coreWrite c a (leBytes n v) poison
    if ok then s.retire c len else s.trap c 7
  | .lr rd a n =>
    match s.atomRead c a n poison with
    | (s, none) => s.trap c 5
    | (s, some bs) =>
      (s.modCore c fun k => ({ k with resv := some (a, n) }).setX rd (u64 (signedOf (leNat bs) (8 * n)))).retire c len
  | .sc rd a n v => s.storeCond c rd a n v len poison
  | .amo op rd a n v => s.amo c op rd a n v len poison
  | .csr kind rd n src write => s.csrOp c kind rd n src len write
  | .fence writes => if writes && (s.core c).accs.any (·.store) then s else s.retire c len
  | .fencei => (s.modCore c fun k => { k with icache := [] }).retire c len
  | .cbo kind a => s.cboOp c kind a len
  | .nop => s.retire c len
  | .ebreak => s.trap c 3
  | .vec => s.vecOp c w len poison
  | .illegal => s.trap c 2
  | .ecall => s
  | .custom _ _ _ _ => s

/-- The commands ecall and Table 9-5 have of their own. -/
def Uop.ownRow : Uop → Bool
  | .ecall => true
  | .custom _ _ _ _ => true
  | _ => false

/-- Core `c` executes one instruction, or stops on its fetch. -/
def State.coreStep (s : State) (c : Nat) (poison : Nat) : State :=
  match s.fetchInstr c (poison == 1) with
  | (s, .fault) => s.trap c 1
  | (s, .wait) => s
  | (s, .bad) => s.trap c 2
  | (s, .word w len) => s.runOp c w len (poison == 2) (s.opOf c w)

/-- The instruction at pc has a command of its own. -/
def State.ownRow (s : State) (c : Nat) : Bool :=
  match s.fetchInstr c false with
  | (s, .word w _) => (s.opOf c w).ownRow
  | _ => false

/-- Uncorrected errors reported and not yet captured. -/
def State.badReads (s : State) : Nat := s.spw.reportQ.countP (·.cls == 2)

/-- An instruction of a radio task that ends its core on a poisoned read fails the operation (R300). -/
def State.notePoison (s : State) (c poison : Nat) (before : State) : State :=
  let cause := s.rd Fld.coreCauseCause c
  if (poison != 0 || before.badReads < s.badReads) && (before.core c).inTask && !(s.core c).inTask &&
      (cause == 1 || cause == 5 || cause == 7) then
    let q := coreCtx c
    match (s.basin q).task with
    | some t => s.setBasin q { s.basin q with task := some { t with poison := true } }
    | none => s
  else s

def execSpoutInstruction (dt c : Nat) (ups : List Upset) (poison : Nat) (s : State) : Host.Outcome State Fault Refusal :=
  enter (.spoutInstruction dt c ups poison) dt s fun s =>
    let c := s.ctxCore c
    s.whenever (s.coreRuns c && (poison == 1 || !s.ownRow c)) fun s =>
      let s := s.upsets ups
      (s.coreStep c poison).notePoison c poison s

/-- The instruction at pc of core `c` has a command of its own, and `k` is what it does. -/
def State.atOwn (s : State) (c : Nat) (k : State → Uop → State) : State :=
  if !s.coreRuns c then s else
  match s.fetchInstr c false with
  | (s', .word w _) => if (s'.opOf c w).ownRow then k s' (s'.opOf c w) else s
  | _ => s

def execSpoutEcall (dt c cyc : Nat) (s : State) : Host.Outcome State Fault Refusal :=
  enter (.spoutEcall dt c cyc) dt s fun s =>
    let c := s.ctxCore c
    s.atOwn c fun s' u => match u with
      | .ecall =>
        let nz := (s'.core c).xr 10 != 0
        let s := (s'.wr Fld.coreStatusTrapped c 0).wr Fld.coreStatusExitNonzero c (nat1 nz)
        s.coreEnd c cyc fun t => { t with exitNz := t.exitNz || nz }
      | _ => s

/-- The spout instruction with this funct3: `k` takes rd and the values of rs1 and rs2. -/
def State.atCustom (s : State) (c f3 : Nat) (k : State → Nat → Nat → Nat → State) : State :=
  s.atOwn c fun s' u => match u with
    | .custom f rd rs1 rs2 => if f = f3 then k s' rd ((s'.core c).xr rs1) ((s'.core c).xr rs2) else s
    | _ => s

/-- A spout instruction ends with this result. -/
def State.result (s : State) (c rd v : Nat) : State := (s.modCore c fun k => k.setX rd v).retire c 4

/-! ### The work counter (R198, R199, R262) -/

/-- The lease has closed. -/
def State.leaseOver (s : State) (q : Nat) (l : Lease) : Bool :=
  s.rd Fld.wcLeaseLease q != 0 && l.claim + s.rd Fld.wcLeaseLease q ≤ s.now

/-- The lowest returned index. -/
def leastLease (l : List Lease) : Option Lease :=
  l.foldl (fun best x => match best with | some y => if x.idx < y.idx then some x else some y | none => some x) none

/-- A claim of core `c`: the index, or none when the lease table is full. -/
def State.claim (s : State) (c : Nat) : Option (State × Nat) :=
  let q := coreCtx c
  let x := s.basin q
  match leastLease (x.leases.filter (s.leaseOver q)) with
  | some l => some ((s.setBasin q { x with leases := ⟨l.idx, c, s.now⟩ :: x.leases.filter (·.idx != l.idx) }).bump Fld.wcReissuesReissues q, l.idx)
  | none =>
    if 1024 ≤ x.leases.length then none else
    let n := s.rd Fld.wcNextNext q
    if n < s.rd Fld.wcLimitLimit q then
      some ((s.setBasin q { x with leases := ⟨n, c, s.now⟩ :: x.leases }).wr Fld.wcNextNext q (n + 1), n)
    else some (s, 2 ^ 64 - 1)

def execWcClaim (dt c : Nat) (s : State) : Host.Outcome State Fault Refusal :=
  enter (.wcClaim dt c) dt s fun s =>
    let c := s.ctxCore c
    s.atCustom c 0 fun s rd _ _ => match s.claim c with
      | some (s, v) => s.result c rd v
      | none => s.modCore c fun k => { k with claiming := some rd }

def execWcClaimResume (dt c : Nat) (s : State) : Host.Outcome State Fault Refusal :=
  enter (.wcClaimResume dt c) dt s fun s =>
    let c := s.ctxCore c
    s.forSome (s.core c).claiming fun s rd =>
      s.whenever (s.ctxRuns (coreCtx c)) fun s =>
        s.forSome (s.claim c) fun _ r => (r.1.modCore c fun k => { k with claiming := none }).result c rd r.2

/-- wc.done of index `i` by core `c`: whether it is accepted. -/
def State.claimDone (s : State) (c i : Nat) : State × Bool :=
  let q := coreCtx c
  let x := s.basin q
  if x.leases.any fun l => l.idx == i && l.core == c then
    ((s.setBasin q { x with leases := x.leases.filter (·.idx != i) }).bump Fld.wcDoneCountDone q, true)
  else (s, false)

def execWcDone (dt c : Nat) (s : State) : Host.Outcome State Fault Refusal :=
  enter (.wcDone dt c) dt s fun s =>
    let c := s.ctxCore c
    s.atCustom c 1 fun s rd i _ =>
      let (s, ok) := s.claimDone c i
      s.result c rd (nat1 ok)

/-! ### Semaphores (R201, R202) -/

/-- Core `c` may name semaphore `i`. -/
def State.semMine (s : State) (c i : Nat) : Bool :=
  let b := coreBasin c
  i < 32 && (s.reserved b || !s.parted b || ((28 ≤ i) == (s.coreSlice c == 0)))

/-- The register index of semaphore `i` of core `c`'s basin. -/
def semIdx (c i : Nat) : Nat := 32 * coreBasin c + i

/-- Core `c` acquires `n` of semaphore `i`. -/
def State.semTake (s : State) (c i n : Nat) : State :=
  let b := coreBasin c
  let s := s.setBasin b { s.basin b with semTask := Tbl.set 0 (s.basin b).semTask i (s.basin (coreCtx c)).lastTask }
  (s.setReg .semValue (semIdx c i) (s.reg .semValue (semIdx c i) - n)).wr Fld.semHolderHolder (semIdx c i) (c % 512 + 1)

/-- The value suffices. -/
def State.semHas (s : State) (c i n : Nat) : Bool := n ≤ s.reg .semValue (semIdx c i)

/-- The deadline of core `c` has come. -/
def State.pastDeadline (s : State) (c : Nat) : Bool := (s.core c).deadline != 0 && (s.core c).deadline ≤ s.now

/-- An acquisition at or after the deadline is a race that the signal wins (R215). -/
def State.noteRace (s : State) (c : Nat) : State := if s.pastDeadline c then s.bump Fld.timeoutRacesRaces 0 else s

def execSpoutSemSignal (dt c : Nat) (s : State) : Host.Outcome State Fault Refusal :=
  enter (.spoutSemSignal dt c) dt s fun s =>
    let c := s.ctxCore c
    s.atCustom c 2 fun s rd i n =>
      if !s.semMine c i then s.trap c 5 else
      let (s, ovf) := s.semAdd (coreBasin c) i n
      s.result c rd (nat1 ovf)

def execSemTry (dt c : Nat) (s : State) : Host.Outcome State Fault Refusal :=
  enter (.semTry dt c) dt s fun s =>
    let c := s.ctxCore c
    s.atCustom c 4 fun s rd i n =>
      if !s.semMine c i then s.trap c 5
      else if s.semHas c i n then (s.semTake c i n).result c rd 0
      else (s.nondet (s.coreSlice c) 4).result c rd 1

/-- Core `c` blocks in sem.wait. -/
def State.block (s : State) (c i n rd : Nat) : State :=
  let q := coreCtx c
  let s := s.modCore c fun k => { k with waiting := some (i, n, rd) }
  (s.setBasin q { s.basin q with waiters := (s.basin q).waiters ++ [(i, c)] }).wr Fld.coreStatusState c 2

/-- Core `c` no longer waits. -/
def State.unblock (s : State) (c : Nat) : State :=
  let q := coreCtx c
  let s := s.modCore c fun k => { k with waiting := none }
  (s.setBasin q { s.basin q with waiters := (s.basin q).waiters.filter (·.2 != c) }).wr Fld.coreStatusState c 1

def execSemWait (dt c : Nat) (s : State) : Host.Outcome State Fault Refusal :=
  enter (.semWait dt c) dt s fun s =>
    let c := s.ctxCore c
    s.atCustom c 3 fun s rd i n =>
      if !s.semMine c i then s.trap c 5
      else if s.semHas c i n && (s.firstWaiter (coreCtx c) i).isNone then ((s.noteRace c).semTake c i n).result c rd 0
      else if s.pastDeadline c then (s.nondet (s.coreSlice c) 4).result c rd 1
      else s.block c i n rd

def execSemWaitAcquire (dt b i : Nat) (s : State) : Host.Outcome State Fault Refusal :=
  enter (.semWaitAcquire dt b i) dt s fun s =>
    let q := s.semCtx b i
    s.forSome (s.firstWaiter q i) fun s c =>
      s.forSome (s.core c).waiting fun s w =>
        s.whenever (s.ctxRuns q && s.semHas c i w.2.1) fun s =>
          (((s.noteRace c).semTake c i w.2.1).unblock c).result c w.2.2 0

def execSemWaitDeadline (dt c : Nat) (s : State) : Host.Outcome State Fault Refusal :=
  enter (.semWaitDeadline dt c) dt s fun s =>
    let c := s.ctxCore c
    s.forSome (s.core c).waiting fun s w =>
      let wins := s.firstWaiter (coreCtx c) w.1 == some c && s.semHas c w.1 w.2.1
      s.whenever (s.ctxRuns (coreCtx c) && s.pastDeadline c && !wins) fun s =>
        ((s.unblock c).nondet (s.coreSlice c) 4).result c w.2.2 1

/-! ### tile.issue (R203) -/

/-- A descriptor from the cistern joins the basin's issue queue. -/
def State.enqueueTile (s : State) (c op params : Nat) (sem : Option Nat) : State :=
  let k : Cmd := ⟨s.nextCmd, 2048, s.coreSlice c, op, coreBasin c, tagOf op params, false, false, params,
    .issued, 0, 0, false, s.now, sem, 0, 0, [], .none, [], 0, 0, 0, 0, 0, [], [], 0, none, (s.basin (coreCtx c)).lastTask, none⟩
  { s with cmds := s.cmds ++ [k], nextCmd := s.nextCmd + 1 }

/-- The descriptor at cistern address `a` for engine `e`: 128 bytes for a cascade backward tile, 64 otherwise. -/
def State.readTile (s : State) (c a e : Nat) : State × Option Nat :=
  if winOf a 64 ≠ some .cist then (s, none) else
  match s.basinRead c .cist a 64 with
  | (s, none) => (s, none)
  | (s, some bs) =>
    let d := leNat bs
    if e = 2 ∧ Cd.op d = 2 then
      if winOf (a + 64) 64 ≠ some .cist then (s, none) else
      match s.basinRead c .cist (a + 64) 64 with
      | (s, none) => (s, none)
      | (s, some more) => (s, some (d + 2 ^ 512 * leNat more))
    else (s, some (if e = 3 then d % 2 ^ 256 else d))

def execTileIssue (dt c : Nat) (ups : List Upset) (s : State) : Host.Outcome State Fault Refusal :=
  enter (.tileIssue dt c ups) dt s fun s =>
    let c := s.ctxCore c
    s.atCustom c 5 fun s rd a w =>
      let s := s.upsets ups
      let sem := if bitAt w 13 then some (slice w 8 5) else none
      if (match sem with | some i => !s.semMine c i | none => false) then s.trap c 5 else
      match s.readTile c a (w % 4) with
      | (s, none) => s.trap c 5
      | (s, some d) =>
        if 16 ≤ s.issueDepth (coreBasin c) then s.result c rd 1
        else (s.enqueueTile c (8 + w % 4) d sem).result c rd 0

/-! ### Accesses that return (R194, R197, R270) -/

/-- The oldest answered access of core `c`. -/
def State.answered (s : State) (c : Nat) : Option CoreAcc := (s.core c).accs.find? fun a => a.failed || a.answer.isSome

/-- The load at pc of core `c` has all its lines: its register is written, in the core shadow too. -/
def State.completeLoad (s : State) (c : Nat) : State :=
  match s.fetchInstr c false with
  | (s', .word w len) =>
    match s'.opOf c w with
    | .load rd a n signed isFp =>
      if winOf a n = some .job ∧ (s'.jobMissing c (a % jobWin) n).isEmpty then s'.loadOp c rd a n len signed isFp false else s
    | .vec =>
      if w % 128 ≠ 7 then s else
      match (s'.core c).vMemPlan w false with
      | some p =>
        if (s'.vMissing c p).isEmpty && p.elems.any (fun e => winOf e.addr (p.eew / 8) == some .job) then s'.vecOp c w len false else s
      | none => s
    | _ => s
  | _ => s

/-- A failed access: the core takes an access fault; a core whose part is over still makes its task fail. -/
def State.accessFailed (s : State) (c cause : Nat) : State :=
  if (s.core c).inTask then s.trap c cause else
  let q := coreCtx c
  let s := (s.wr Fld.coreCauseCause c cause).wr Fld.coreStatusTrapped c 1
  match (s.basin q).task with
  | some t => s.setBasin q { s.basin q with task := some { t with addrFault := true } }
  | none => s

/-- Access `a` of core `c` is answered. -/
def State.accessReturn (s : State) (c : Nat) (a : CoreAcc) : State :=
  let s := s.modCore c fun k => { k with accs := k.accs.filter (·.id != a.id) }
  let s :=
    if a.store then (if a.failed then s.accessFailed c 7 else s)
    else if !(s.core c).inTask then (if a.failed then s.accessFailed c 5 else s)
    else
      let s := s.jobGot c a.line (if a.failed then [] else a.answer.getD [])
      if (s.core c).accs.all (·.store) then s.completeLoad c else s
  let q := coreCtx c
  if 2 ≤ s.sliceState (s.coreSlice c) && s.coresDrained q then s.taskEnd q stSliceFrozen else s.taskCheck q

/-- The core of physical core `c` whose answered access is the oldest: in the basin or in the core shadow. -/
def State.answeredCore (s : State) (c : Nat) : Option (Nat × CoreAcc) :=
  match s.answered c, s.answered (512 + c) with
  | some a, some d => if a.id < d.id then some (c, a) else some (512 + c, d)
  | some a, none => some (c, a)
  | none, some d => some (512 + c, d)
  | none, none => none

def execSpoutAccessReturn (dt c : Nat) (s : State) : Host.Outcome State Fault Refusal :=
  enter (.spoutAccessReturn dt c) dt s fun s =>
    s.forSome (s.answeredCore c) fun s x => s.accessReturn x.1 x.2

end Sys2Proof.Machine
end

