-- ==== Sys2Proof/Machine/AqdSender.lean ====
section
/-! DEFINITION. What the sender does with replies, waits, retries and credits (R345 to R347, R352), AQD_ATOMIC (R350) and
COPY_ASYNC (R354). -/
namespace Sys2Proof.Machine

/-! ### What a finished request means to what it served -/

/-- A request of a COPY_ASYNC is over: after a failure no more data goes out; after the last acknowledgement the BUMP goes
out; then the command completes. A slice that freezes issues no BUMP (R243). -/
def State.copyAsyncDone (s : State) (c : Cmd) (r : SendReq) (st : Nat) : State :=
  let c := if st ≠ stOk then c.meet st else c
  let s := s.modCmd c.id fun _ => c
  let s := if st ≠ stOk then s.dropWaiting c.id else s
  if s.aqdPending c.id then s
  else if r.req.kind == .bump || !c.outcomes.isEmpty || !bitAt c.params 16 || !s.sliceActive c.slice then
    s.finish c (c.outcomes.headD stOk)
  else
    let (s, st) := s.sendBump c.slice c.ring c.id (c.par 128 52) (c.par 256 16) (c.par 288 32)
    if st = stOk then s else s.finish c st

/-- Put back the record of a migration. -/
def State.setMigration (s : State) (m : Migration) : State :=
  { s with radio := { s.radio with migrations := s.radio.migrations.map fun x => if x.cmd = m.cmd then m else x } }

/-- Job address of HARQ offset `off` of the peer (R356). -/
def State.migAddr (s : State) (m : Migration) (off : Nat) : Nat := s.rd Fld.aqdHarqJobBase + m.peer * 2 ^ 36 + off

/-- The ring of a migration's command: its issuing queue. -/
def State.migQueue (s : State) (m : Migration) : Nat := ((s.cmd? m.cmd).map (·.ring)).getD 0

/-- Extent `m.acked` of a source migration is pushed to the peer's HARQ range, an extent without bytes is only counted (R301,
R356). What cannot be sent fails, and the next extent follows. The first argument bounds the extents. -/
def State.migPush : Nat → State → Migration → State
  | 0, s, m => s.setMigration m
  | n + 1, s, m =>
    match m.extents[m.acked]? with
    | none => s.setMigration m
    | some (off, len) =>
      let src := s.rd Fld.harqBaseBase + off
      let (s, st) :=
        if s.devFenced src len then (s, stMemFenced)
        else if len = 0 then s.sendBump 0 (s.migQueue m) m.cmd (s.migAddr m off) m.counter 1
        else s.push 0 (s.migQueue m) m.cmd (s.migAddr m off) (s.devRead src len)
      if st = stOk then s.setMigration m
      else
        let s := s.dropWaiting m.cmd
        if s.aqdPending m.cmd then s.setMigration { m with failed := true, skip := true }
        else State.migPush n s { m with acked := m.acked + 1, failed := true }

/-- The extent in progress is over; the next one follows. -/
def State.migNext (s : State) (m : Migration) : State := s.migPush (m.extents.length + 1) { m with acked := m.acked + 1, skip := false }

/-- A request of a source migration is over: an extent's last write is followed by its BUMP, its BUMP by the next extent. -/
def State.migDone (s : State) (r : SendReq) (st : Nat) : State :=
  match s.radio.migrations.find? fun m => m.cmd == r.owner with
  | none => s
  | some m =>
    let m := if st ≠ stOk then { m with failed := true, skip := true } else m
    let s := (if st ≠ stOk then s.dropWaiting m.cmd else s).setMigration m
    if s.aqdPending m.cmd then s
    else if m.skip || r.req.kind == .bump then s.migNext m
    else
      let (s, st) := s.sendBump 0 r.queue m.cmd (s.migAddr m 0) m.counter 1
      if st = stOk then s else s.migNext { m with failed := true }

/-- A request of a command is over. -/
def State.cmdReqDone (s : State) (r : SendReq) (st result : Nat) (data : List Byte) : State :=
  match s.cmd? r.owner with
  | none => s
  | some c =>
    match c.opcode with
    | 0x13 => s.finish { c with result := result, faultAddr := some r.req.addr } st
    | 0x12 => s.copyAsyncDone { c with faultAddr := some r.req.addr } r st
    | 0x0A => if st = stOk then s.kvLine c (r.req.addr / 128) data else s.cascadeCancel (c.target / 8) { c with faultAddr := some r.req.addr } st
    | 0x32 => s.migDone r st
    | _ =>
      let c := if st ≠ stOk then { c.meet st with faultAddr := some r.req.addr } else c
      (s.modCmd c.id fun _ => c).serveWritten c

/-- An access of a spout core is answered, or has failed (R193). -/
def State.coreReqDone (s : State) (r : SendReq) (st : Nat) (data : List Byte) : State :=
  s.modCore (r.owner - 2 ^ 32) fun k => { k with accs := k.accs.map fun a =>
    if a.id = r.id then (if st = stOk then { a with answer := some data } else { a with failed := true }) else a }

/-- A request of a shadow's export is over: the record's BUMP, then the next record (R372). -/
def State.exportReqDone (s : State) (r : SendReq) (st : Nat) : State :=
  let sl := r.owner - 2 ^ 33
  if 0x1000 ≤ st then s.endShadow sl st else
  match s.shadow? sl with
  | none => s
  | some x =>
    if r.req.kind == .bump then (s.setShadow sl { x with exports := x.exports.drop 1 }).exportPump sl
    else if s.aqdPending r.owner || !s.sliceActive sl then s
    else
      let (s, st) := s.sendBump sl r.queue r.owner r.req.addr (Sys2Proof.slice x.params 128 12) 1
      if st = stOk then s else s.endShadow sl st

/-- A request is over with a status: what it served goes on. -/
def State.reqDone (s : State) (r : SendReq) (st result : Nat) (data : List Byte) : State :=
  if r.owner < 2 ^ 32 then s.cmdReqDone r st result data
  else if r.owner < 2 ^ 33 then s.coreReqDone r st data
  else if r.owner < 2 ^ 34 then s.exportReqDone r st
  else s

/-! ### Replies (R345, R346, R352) -/

/-- The count at which the wait for a reply closes: of the request, or of its latest QUERY. -/
def State.waitEnd (s : State) (r : SendReq) : Nat :=
  (if r.queries = 0 then r.req.t0 else r.queryT0) + s.rd Fld.aqdLifetimeLifetime + s.rd Fld.aqdMarginMargin

/-- A reply that a home gives to this request. -/
def SendReq.fits (r : SendReq) (p : AqdRep) : Bool :=
  match p.code with
  | .done => (r.req.kind == .rd && p.data.length == 128) || r.req.kind == .wr || r.req.kind == .bw
  | .applied | .recorded | .stale => r.req.numbered
  | .notApplied => r.req.numbered && r.queries != 0
  | .refused => p.reason != 0
  | .poison | .fenced => true

/-- The status that a reply gives (R342, R346, Table 16-6). -/
def repStatus (c : RepCode) : Nat :=
  match c with
  | .done | .applied | .recorded => stOk
  | .stale => stSettledStale
  | .notApplied => stTimeout
  | .refused => stAqdRejected
  | .poison => stMemPoison
  | .fenced => stMemFenced

/-- AQD_BLOCKED counts the destinations with an unresolved sequence number. -/
def State.countBlocked (s : State) : State :=
  s.wr Fld.aqdBlockedBlocked 0 ((s.aqd.sent.filter (·.unresolved)).map (·.dest)).eraseDups.length

/-- A reply is accepted: its request's credit is free, and what it served goes on. -/
def State.replyTaken (s : State) (r : SendReq) (p : AqdRep) : State :=
  let s := (s.aqdForget r.id).portRx r.port
  if r.unresolved then s.countBlocked else
  let s := if s.now = s.waitEnd r then s.bump Fld.timeoutRacesRaces 0 else s
  s.reqDone r (repStatus p.code) (if p.code == .applied || p.code == .recorded then p.result else 0) p.data

/-- Is the reply on its way? Those of this package's own home are known. -/
def State.replyComes (s : State) (r : SendReq) (p : AqdRep) : Bool := r.port != 8 || s.aqd.replies.contains p

def execAqdReply (dt : Nat) (p : AqdRep) (s : State) : Host.Outcome State Fault Refusal :=
  enter (.aqdReply dt p) dt s fun s =>
    let s' : State := { s with aqd := { s.aqd with replies := s.aqd.replies.erase p } }
    match s.aqd.sent.find? (·.id == p.id) with
    | none => s'
    | some r =>
      if r.fits p && s.replyComes r p && (r.unresolved || s.now ≤ s.waitEnd r) then s'.replyTaken r p else s'

/-! ### Expiry, waits, retries, credits (R345, R347, R352) -/

/-- The issue count of what is on its way for a request: its own, or its latest QUERY's. -/
def SendReq.issued (r : SendReq) : Nat := if r.queries = 0 then r.req.t0 else r.queryT0

/-- A request, or the QUERY for it, that has left its sender's queue and is no longer alive is discarded at its port. -/
def State.portExpire (s : State) (i : Nat) : State :=
  s.forSome (s.aqd.sent[i]?) fun s r =>
    s.whenever (!r.lost && !s.aliveAt { r.req with t0 := r.issued } s.now) fun s =>
      { s with aqd := { s.aqd with sent := s.aqd.sent.map fun (x : SendReq) => if x.id = r.id then { x with lost := true } else x } }.homeDrop

def execRequestExpiry (dt : Nat) (home : Bool) (i : Nat) (s : State) : Host.Outcome State Fault Refusal :=
  enter (.requestExpiry dt home i) dt s fun s =>
    if !home then s.portExpire i
    else if i < s.aqd.lines.length then s.forSome (s.aqd.lines[i]?) fun s o => s.whenever (s.homeDead o) fun s => s.homeExpire o
    else s.forSome (s.aqd.input[i - s.aqd.lines.length]?) fun s x => s.whenever (s.inputDead x.1) fun s => s.inputExpire x

/-- Change a request that has been issued. -/
def State.modSent (s : State) (id : Nat) (f : SendReq → SendReq) : State :=
  { s with aqd := { s.aqd with sent := s.aqd.sent.map fun x => if x.id = id then f x else x } }

/-- A QUERY for a request goes out with a fresh issue count, when there is a route (R352). -/
def State.sendQuery (s : State) (r : SendReq) : State :=
  match s.routeOf r.dest with
  | none => s.modSent r.id fun x => { x with queries := x.queries + 1, queryT0 := s.now, asks := 0 }
  | some p =>
    let s := s.modSent r.id fun x => { x with queries := x.queries + 1, queryT0 := s.now, port := p, lost := false, asks := nat1 x.unresolved }
    (s.chargeAqd r.owner r.sl { r.req with kind := .query }.charge).portTx p

/-- The wait of request `r` closes without a reply: a read or write fails; an atomic or bump is asked for, and after the last
QUERY its outcome is unknown. -/
def State.waitClosed (s : State) (r : SendReq) : State :=
  if !r.req.numbered then (s.aqdForget r.id).reqDone r stTimeout 0 []
  else if r.queries < s.rd Fld.aqdQueryMaxQueryMax then s.sendQuery r
  else
    let s := (s.modSent r.id fun x => { x with unresolved := true, queryT0 := s.now }).countBlocked
    s.reqDone r stAqdUnreachable 0 []

/-- A further QUERY for an unresolved number: it reuses the credit of the one before, or takes one, or waits for it (R347). -/
def State.askAgain (s : State) (r : SendReq) : State :=
  if r.asks = 1 || s.outstanding r.dest < 64 then s.sendQuery r
  else if r.asks = 2 then s
  else (s.modSent r.id fun x => { x with asks := 2 }).bump Fld.aqdCreditWaitsCount 0

def execSenderWaitClose (dt id : Nat) (s : State) : Host.Outcome State Fault Refusal :=
  enter (.senderWaitClose dt id) dt s fun s =>
    s.forSome (s.aqd.sent.find? (·.id == id)) fun s r =>
      if r.unresolved then
        s.whenever (!s.safe && r.queryT0 + s.rd Fld.aqdLifetimeLifetime ≤ s.now) fun s => s.askAgain r
      else s.whenever (s.waitEnd r ≤ s.now) fun s => s.waitClosed r

/-- A resend is due: no QUERY yet, a retry interval since the last attempt, still alive, a route. -/
def State.retryDue (s : State) (r : SendReq) : Bool :=
  r.req.numbered && r.queries == 0 && !r.unresolved && s.aliveAt r.req s.now && s.on Fld.aqdCtrlEnable && !s.safe &&
    decide (r.lastSend + s.rd Fld.aqdRetryIntRetry ≤ s.now)

def execAqdRetry (dt id : Nat) (s : State) : Host.Outcome State Fault Refusal :=
  enter (.aqdRetry dt id) dt s fun s =>
    s.forSome (s.aqd.sent.find? (·.id == id)) fun s r =>
      s.whenever (s.retryDue r) fun s =>
        s.forSome (s.routeOf r.dest) fun s p =>
          let s := s.modSent id fun x => { x with lastSend := s.now, port := p, lost := false }
          ((s.bump Fld.aqdRetriesCount 0).chargeAqd r.owner r.sl r.req.charge).portTx p

/-- A waiting request, or a QUERY that waits for a credit, may be issued now. -/
def State.mayGrant (s : State) (r : SendReq) : Bool := if r.asks = 2 then s.outstanding r.dest < 64 else s.mayIssue r

/-- The queues that may be granted a credit of destination `d`: their oldest waiting requests that may be issued. -/
def State.creditHeads (s : State) (d : Nat) : List SendReq :=
  let mine := (s.aqd.sent.filter (·.asks == 2) ++ s.aqd.waiting).filter (·.dest == d)
  (((mine.map (·.queue)).eraseDups).filterMap fun q => mine.find? (·.queue == q)).filter s.mayGrant

/-- Round-robin in ascending queue order after the queue served last. -/
def State.creditNext (s : State) (d : Nat) : Option SendReq :=
  let last := Tbl.find s.aqd.lastQueue d
  let rank (r : SendReq) : Nat := match last with
    | some l => if l < r.queue then r.queue else r.queue + 2 ^ 40
    | none => r.queue
  (s.creditHeads d).foldl (fun b r => match b with
    | none => some r
    | some x => if rank r < rank x then some r else some x) none

def execCreditGrant (dt d : Nat) (s : State) : Host.Outcome State Fault Refusal :=
  enter (.creditGrant dt d) dt s fun s =>
    s.whenever (!s.safe && s.on Fld.aqdCtrlEnable) fun s =>
      s.forSome (s.creditNext d) fun s r =>
        let s : State := { s with aqd := { s.aqd with
          waiting := s.aqd.waiting.filter (fun (x : SendReq) => x.id != r.id), lastQueue := Tbl.put s.aqd.lastQueue d r.queue } }
        if r.asks = 2 then s.sendQuery r else
        match s.routeOf d with
        | some p => s.aqdSendNow r p
        | none => s.reqDone r stAqdUnreachable 0 []

/-! ### AQD_ATOMIC (R350) -/

/-- The parameters are well formed. -/
def Cmd.atomicOk (c : Cmd) : Bool :=
  c.par 0 4 < 5 && c.par 5 59 == 0 && c.par 116 12 == 0 && c.par 64 52 % (if bitAt c.params 4 then 8 else 4) == 0

def execAqdAtomic (dt r : Nat) (s : State) : Host.Outcome State Fault Refusal :=
  enter (.aqdAtomic dt r) dt s fun s => s.actH r 0x13 fun s c =>
    if !c.atomicOk then s.finishNow c stDescInvalid else
    let a := c.par 64 52
    match s.home? a with
    | none => s.finishNow { c with faultAddr := some a } stAddrFault
    | some d =>
      let s := s.startRunning c.id
      let (s, st) := s.aqdSend c.slice c.ring c.id d { AqdReq.blank with
        kind := .at, addr := a, op := c.par 0 4, wide := bitAt c.params 4, operand := c.par 128 64, compare := c.par 192 64 }
      if st = stOk then s else s.forSome (s.cmd? c.id) fun s c => s.finish { c with faultAddr := some a } st

/-! ### COPY_ASYNC (R354) -/

def Cmd.asyncSrc (c : Cmd) : Side := ⟨c.par 0 4, c.par 4 6, c.par 64 64⟩

/-- The parameters are well formed. -/
def Cmd.asyncOk (c : Cmd) : Bool :=
  let n := c.par 32 32
  let x := c.asyncSrc
  c.par 10 6 == 0 && c.par 17 15 == 0 && c.par 180 76 == 0 && c.par 272 16 == 0 && c.par 320 192 == 0 && x.space < 3 && n != 0 &&
    (x.space != 1 || (x.addr % 18 == 0 && n % 18 == 0)) && c.par 128 52 / 2 ^ 36 == (c.par 128 52 + n - 1) / 2 ^ 36

/-- The source is poisoned, or in memory that is down. -/
def State.asyncStatus (s : State) (c : Cmd) (poison : Bool) : Nat :=
  let n := c.par 32 32
  let x := c.asyncSrc
  if (poison && x.space == 2) || (x.space < 2 && (if x.space = 1 then s.badP x.basin (x.addr / 18) (n / 18) else s.badC x.basin x.addr n))
  then stMemPoison
  else if x.space == 2 && s.devFenced x.addr n then stMemFenced else stOk

/-- A COPY_ASYNC goes on running: its bytes are charged, its source is in use. -/
def State.copyAsyncBegin (s : State) (c : Cmd) : State :=
  let n := c.par 32 32
  let x := c.asyncSrc
  let (h, cx, _) := x.bytes n
  let s := (s.startRunning c.id).modCmd c.id fun k => { k with hbmB := k.hbmB + h, cxlB := k.cxlB + cx }
  s.each (x.span c.id n 0) fun s y => s.beginSpans x.basin c.id [y]

/-- The source is read as the command starts; its data goes out; without a byte sent it completes at once. -/
def State.copyAsyncStart (s : State) (c : Cmd) (poison : Bool) : State :=
  let n := c.par 32 32
  let x := c.asyncSrc
  let s := s.raceReads x.basin c.id (x.span c.id n 0)
  let st := s.asyncStatus c poison
  let s := if x.space < 2 then s.eccRead x.basin (x.need n) else s
  let bs := s.sideRead c.slice x n
  let s := s.copyAsyncBegin c
  let (s, st) := if st ≠ stOk then (s, st) else s.push c.slice c.ring c.id (c.par 128 52) bs
  if st = stOk then s else
  let s := (s.dropWaiting c.id).modCmd c.id fun k => k.meet st
  if s.aqdPending c.id then s else s.forSome (s.cmd? c.id) fun s c => s.finish { c with faultAddr := some (c.par 128 52) } st

def execCopyAsync (dt r : Nat) (ups : List Upset) (poison : Bool) (s : State) : Host.Outcome State Fault Refusal :=
  enter (.copyAsync dt r ups poison) dt s fun s => (s.upsets ups).actH r 0x12 fun s c =>
    let x := c.asyncSrc
    if !c.asyncOk then s.finishNow c stDescInvalid
    else if s.parting x then s else
    let st := s.sideCheck c.slice x (c.par 32 32)
    if st ≠ stOk then s.finishNow { c with faultAddr := some x.addr } st
    else if (s.home? (c.par 128 52)).isNone then s.finishNow { c with faultAddr := some (c.par 128 52) } stAddrFault
    else if s.sidePaused c.slice x then s
    else s.copyAsyncStart c poison

/-! ### Links (R335 to R338, R424) -/

/-- The unit identifier of aqueduct port `p`. -/
def unitAqp (p : Nat) : Nat := unitHub (8 + p)

def execFlitReplay (dt p : Nat) (s : State) : Host.Outcome State Fault Refusal :=
  enter (.flitReplay dt p) dt s fun s => s.whenever (s.on Fld.aqpStatusLinkUp p) fun s =>
    (s.bump Fld.aqpReplaysReplays p).reportLow (unitAqp p) 1 0 0

def execAqdLinkDown (dt p : Nat) (s : State) : Host.Outcome State Fault Refusal :=
  enter (.aqdLinkDown dt p) dt s fun s =>
    ((s.wr Fld.aqpStatusLinkUp p 0).wr Fld.aqpStatusLanesUp p 0).showLanes p

/-- At least two lanes are up, none of them fenced (Table 16-1). -/
def State.lanesOk (s : State) (p lanes : Nat) : Bool :=
  let up := (List.range 4).filter fun l => bitAt lanes l
  decide (2 ≤ up.length) && up.all fun l => !s.itemFenced (mkItem (unitAqp p) l 2 0)

/-- Ports train from local_done on until their link comes up; one whose partner reports this package's own ID stays down. -/
def execAqdLinkUp (dt p pkg tray lanes : Nat) (s : State) : Host.Outcome State Fault Refusal :=
  enter (.aqdLinkUp dt p pkg tray lanes) dt s fun s =>
    s.whenever (s.on Fld.bootStatusLocalDone && !s.on Fld.aqpStatusLinkUp p && !s.on Fld.aqpStatusFenced p && s.lanesOk p lanes && !s.safe) fun s =>
      if pkg = s.pkg then s.reportLow (unitAqp p) 2 0 0 else
      let s := (s.wr Fld.aqpStatusLinkUp p 1).wr Fld.aqpStatusLanesUp p lanes
      (((s.wr Fld.aqpNbrPkgId p pkg).wr Fld.aqpNbrTrayPos p tray).wr Fld.aqpNbrValid p 1).watchRoutes

def execAqdTrainTimeout (dt p lanes : Nat) (s : State) : Host.Outcome State Fault Refusal :=
  enter (.aqdTrainTimeout dt p lanes) dt s fun s =>
    s.whenever (s.on Fld.bootStatusLocalDone && !s.on Fld.aqpStatusLinkUp p) fun s =>
      s.each ((List.range 4).filter fun l => bitAt lanes l) fun s l => s.reportLow (unitAqp p) 2 2 l

end Sys2Proof.Machine
end

