-- ==== Sys2Proof/Machine/Levels.lean ====
section
/-! DEFINITION. The six levels (chapter 1): heartbeats, fences taking effect, gating of fenced basins. -/
namespace Sys2Proof.Machine

/-- The number under which an agent's heartbeats are kept. -/
def agentBeat : Agent → Nat
  | .basin b => b
  | .terrace t => 64 + t
  | .die d => 72 + d

/-- The agent is on: a basin that is not gated, a terrace whose mesh clock runs, a die that has been started (R26, R415). -/
def State.agentOn (s : State) : Agent → Bool
  | .basin b => !s.gated b && s.on Fld.terraceStateMeshClockRun (b / 8)
  | .terrace t => s.on Fld.terraceStateMeshClockRun t
  | .die d => if d = 0 then s.on Fld.bootStatusC0Ready else s.on Fld.bootStatusC1Ready

/-- A heartbeat of agent number `k` is received now. -/
def State.beat (s : State) (k : Nat) : State :=
  { s with spw := { s.spw with beats := Tbl.put s.spw.beats k s.now, silent := s.spw.silent.filter (· != k) } }

def execHeartbeat (dt : Nat) (a : Agent) (s : State) : Host.Outcome State Fault Refusal :=
  enter (.heartbeat dt a) dt s fun s => s.whenever (s.tick1024 && s.agentOn a) fun s => s.beat (agentBeat a)

/-- A fence of its own or of what contains it is in effect on the agent. -/
def State.agentFenced (s : State) : Agent → Bool
  | .basin b => s.basinFencedBy b
  | .terrace t => s.terraceFencedBy t
  | .die _ => false

/-- Four heartbeats of agent number `k` are missing, and no one has noticed. -/
def State.beatLost (s : State) (k : Nat) : Bool := Tbl.get 0 s.spw.beats k + 4096 ≤ s.now && !s.spw.silent.contains k

/-- Agent number `k` is treated as silent. -/
def State.noteSilent (s : State) (k : Nat) : State := { s with spw := { s.spw with silent := s.spw.silent ++ [k] } }

/-- The unit identifier of an agent. -/
def agentUnit : Agent → Nat
  | .basin b => unitBasin b 16
  | .terrace t => unitTerrace t 4
  | .die d => unitDie d

/-- The loss of a compute die's heartbeat (R29, R389). -/
def State.dieLost (s : State) (d : Nat) : State :=
  s.whenever (s.agentOn (.die d) && s.beatLost (72 + d)) fun s => (s.noteSilent (72 + d)).reportLow (unitDie d) 4 0 0

def execHeartbeatLoss (dt : Nat) (a : Agent) (s : State) : Host.Outcome State Fault Refusal :=
  enter (.heartbeatLoss dt a) dt s fun s =>
    match a with
    | .die d => s.dieLost d
    | _ => s.whenever (s.agentOn a && !s.agentFenced a && s.beatLost (agentBeat a)) fun s => (s.noteSilent (agentBeat a)).reportLow (agentUnit a) 2 0 0

def execDieHeartbeatLoss (dt d : Nat) (s : State) : Host.Outcome State Fault Refusal :=
  enter (.dieHeartbeatLoss dt d) dt s fun s => s.dieLost d

def execFenceEffect (dt item : Nat) (s : State) : Host.Outcome State Fault Refusal :=
  enter (.fenceEffect dt item) dt s fun s => s.whenever (s.item item).effect fun s => s.fenceEffect item

def execFencedBasinGate (dt b : Nat) (s : State) : Host.Outcome State Fault Refusal :=
  enter (.fencedBasinGate dt b) dt s fun s =>
    s.whenever (s.fencedBasin b && !s.gated b && s.idle b && !s.reserved b && !s.gateListed b && !s.underTest b) fun s => s.gateBasin b

end Sys2Proof.Machine
end

