-- ==== Sys2Proof/Machine/Power.lean ====
section
/-! DEFINITION. Power and clock control (chapter 19, R429): the cap governor, droop, the slew bucket, gating and waking,
meters, temperatures. -/
namespace Sys2Proof.Machine

/-! ### The governor (R399 to R402) -/

/-- The cap in 1/16 W. -/
def State.cap (s : State) : Nat := match s.rd Fld.pwrCtrlCapSel with | 0 => 9600 | 1 => 14400 | _ => 19200

/-- One period of the governor. -/
def State.governor (s : State) : State :=
  let g := s.rd Fld.pwrStatusLevel
  let avg := s.rd Fld.powerAvgPower
  let g' := if s.cap < avg then min 12 (g + 1) else if avg * 16 < s.cap * 15 then g - 1 else g
  let s := s.wr Fld.pwrStatusLevel 0 g'
  let unmet := g' == 12 && decide (s.cap < avg)
  let s := if unmet && !s.on Fld.pwrStatusCapUnmet then s.info (unitHub 20) else s
  let s := s.wr Fld.pwrStatusCapUnmet 0 (nat1 unmet)
  s.each (List.range 64) fun s b => s.decideStep b (s.stepGoal b)

def execGovernorPeriod (dt : Nat) (s : State) : Host.Outcome State Fault Refusal :=
  enter (.governorPeriod dt) dt s fun s => s.periodic .governor s.tick1024 fun s => s.governor

def execBasinStepChange (dt b : Nat) (s : State) : Host.Outcome State Fault Refusal :=
  enter (.basinStepChange dt b) dt s fun s =>
    s.forSome (Tbl.find s.pwr.nextSteps b) fun s n =>
      { s with pwr := { s.pwr with steps := Tbl.set 15 s.pwr.steps b n, nextSteps := Tbl.del s.pwr.nextSteps b } }

/-! ### Droop (R403) -/

/-- The basins whose supply is that of island `i`: those of its compute die. -/
def railBasins (i : Nat) : List Nat :=
  if i < 64 then (List.range 32).map (i / 32 * 32 + ·) else if i < 72 then (List.range 32).map ((i - 64) / 4 * 32 + ·) else []

/-- `n` cycles of island `i` are stretched. -/
def State.stretch (s : State) (i n : Nat) : State :=
  let s := s.bump ⟨.islandStretch, 0, 64⟩ i n
  if n ≠ 0 ∧ s.protectedIsland i then
    ({ s with pwr := { s.pwr with stretchNew := if s.pwr.stretchNew.contains i then s.pwr.stretchNew else s.pwr.stretchNew ++ [i] } }).bump
      Fld.stretchProtStretched 0 n
  else s

/-- The supply of island `i` droops: capped basins on its rail drop to CAP_FLOOR and hold their tile starts. -/
def State.droop (s : State) (i : Nat) : State :=
  let s := { s with pwr := { s.pwr with droops := s.pwr.droops ++ [i] } }
  s.each ((railBasins i).filter fun b => !s.protectedBasin b) fun s b =>
    let s := s.decideStep b (s.rd Fld.capFloorFloor)
    { s with pwr := { s.pwr with holds := s.pwr.holds.filter (·.1 != b) ++ [(b, s.now + 1024)] } }

def execDroop (dt i n : Nat) (s : State) : Host.Outcome State Fault Refusal :=
  enter (.droop dt i n) dt s fun s => s.whenever (!s.pwr.droops.contains i) fun s => (s.droop i).stretch i n

def execDroopRecovery (dt i n : Nat) (s : State) : Host.Outcome State Fault Refusal :=
  enter (.droopRecovery dt i n) dt s fun s =>
    s.whenever (s.pwr.droops.contains i) fun s =>
      ({ s with pwr := { s.pwr with droops := s.pwr.droops.filter (· != i) } }).stretch i n

/-- The unit identifier under which an island's stretch is reported. -/
def islandUnit (i : Nat) : Nat :=
  if i < 64 then unitBasin i 16 else if i < 72 then unitTerrace (i - 64) 0
  else if i < 88 then unitTerrace ((i - 72) / 2) (1 + (i - 72) % 2)
  else unitHub (match i with | 88 => 0 | 89 => 2 | 90 => 3 | 91 => 4 | 92 => 8 | 93 => 16 | 94 => 18 | _ => 20)

def execStretchReport (dt i : Nat) (s : State) : Host.Outcome State Fault Refusal :=
  enter (.stretchReport dt i) dt s fun s =>
    let due := match Tbl.find s.pwr.stretchRep i with | some t => decide (t + 2 ^ 20 ≤ s.now) | none => true
    s.whenever (s.pwr.stretchNew.contains i && due) fun s =>
      ({ s with pwr := { s.pwr with stretchNew := s.pwr.stretchNew.filter (· != i), stretchRep := Tbl.put s.pwr.stretchRep i s.now } }).reportLow
        (islandUnit i) 1 0 0

/-! ### The slew bucket (R404, R405) -/

/-- The start that waits is still wanted: its engine holds a command that has not begun. -/
def State.startWanted (s : State) (w : SlewWait) : Bool := s.cmds.any fun c => c.engine == w.engine && !c.begun && c.phase != .saved

def execSlewRefill (dt : Nat) (s : State) : Host.Outcome State Fault Refusal :=
  enter (.slewRefill dt) dt s fun s =>
    s.periodic .slew s.tick1024 fun s =>
      (s.setSlewTokens (min (s.rd Fld.slewCfgSlewBurst) (s.slewTokens + s.rd Fld.slewCfgSlewRate))).bump Fld.slewWaitsWaits 0
        (s.pwr.waits.filter s.startWanted).length

/-- The first waiting start takes its weight when the bucket holds it; starts that are no longer wanted leave the queue. -/
def State.grantStart (s : State) : State :=
  let ws := s.pwr.waits.filter s.startWanted
  let s := { s with pwr := { s.pwr with waits := ws } }
  match ws with
  | [] => s
  | w :: rest =>
    if s.slewTokens < w.weight then s else
    ({ s with pwr := { s.pwr with waits := rest, grants := s.pwr.grants ++ [w.engine] } }).setSlewTokens (s.slewTokens - w.weight)

def execSlewStartGrant (dt : Nat) (s : State) : Host.Outcome State Fault Refusal :=
  enter (.slewStartGrant dt) dt s fun s => s.grantStart

def execRampDownEnd (dt e : Nat) (s : State) : Host.Outcome State Fault Refusal :=
  enter (.rampDownEnd dt e) dt s fun s => { s with pwr := { s.pwr with ramps := s.pwr.ramps.filter (· != e) } }

/-! ### Gating and waking (R406, R407, R418 to R420) -/

/-- A write of 1 to bit `b` of BASIN_GATE_REQ. -/
def State.gateReqBit (s : State) (b : Nat) : State :=
  if (s.basin b).wakeStage ≠ 0 || s.beingReset b then
    { s with pwr := { s.pwr with gateQ := if s.pwr.gateQ.contains b then s.pwr.gateQ else s.pwr.gateQ ++ [b] } }
  else if !s.mayGate b then s.info (unitHub 20)
  else if s.gated b then s else s.gateLater b

/-- The set bits of a 64-bit mask. -/
def maskBits (v : Nat) : List Nat := (List.range 64).filter fun b => bitAt v b

def State.gateReqWrite (s : State) (v : Nat) : State := s.each (maskBits v) fun s b => s.gateReqBit b

def execBasinGateReq (dt v : Nat) (s : State) : Host.Outcome State Fault Refusal :=
  enter (.basinGateReq dt v) dt s fun s => s.gateReqWrite v

/-- Basin `b` is due to be gated: on request, or under the inference fence (R386), which gates every basin that the radio does not
hold; a reserved basin and one named in a gate list are never gated (R26). -/
def State.gateDue (s : State) (b : Nat) : Bool :=
  ((s.basin b).gateReq || (s.inferFenced && !s.gated b && !s.underTest b)) && s.idle b && !s.reserved b && !s.gateListed b

def execBasinGateEffect (dt b : Nat) (s : State) : Host.Outcome State Fault Refusal :=
  enter (.basinGateEffect dt b) dt s fun s => s.whenever (s.gateDue b) fun s => s.gateBasin b

def State.wakeReqWrite (s : State) (v : Nat) : State := (s.each (maskBits v) fun s b => s.queueWake b).startRamps

def execBasinWakeReq (dt v : Nat) (s : State) : Host.Outcome State Fault Refusal :=
  enter (.basinWakeReq dt v) dt s fun s => s.wakeReqWrite v

def execWakeRampDone (dt b : Nat) (s : State) : Host.Outcome State Fault Refusal :=
  enter (.wakeRampDone dt b) dt s fun s =>
    s.whenever ((s.basin b).wakeStage == 2) fun s =>
      ((s.setBasin b { s.basin b with wakeStage := 3 }).beginZero b 2 224 0).startRamps

/-- A held gate request acts (R406, R419). -/
def State.heldGate (s : State) (b : Nat) : State :=
  if !s.pwr.gateQ.contains b then s else
  let s := { s with pwr := { s.pwr with gateQ := s.pwr.gateQ.filter (· != b) } }
  if s.gated b then s else if s.mayGate b then s.gateLater b else s.info (unitHub 20)

/-- A wake ends: items that a reset cleared are tested; then the basin is in service (R41, R420). -/
def State.wakeDone (s : State) (b : Nat) (fails : List Nat) (z : Zeroing) : State :=
  let mine (i : Nat) : Bool := match itemKind i with
    | some k => if k ≤ 7 then unitBasinOf (itemUnit i) == b else unitTerraceOf (itemUnit i) == b / 8
    | none => false
  let tested := s.spw.retest.filter mine
  let s := { s with spw := { s.spw with retest := s.spw.retest.filter fun i => !mine i } }
  let s := (s.cZero b 0 cisternBytes).pZero b 0 poolWords
  let s := s.resetRegs fun n i => unitRegBasin n i == some b
  let s := (s.endZero b z).showGated b false
  let s := (s.setBasin b { s.basin b with woken := true, wakeStage := 0 }).setRegBit .basinWaking 0 b false
  let s := { s with spw := { s.spw with beats := Tbl.put s.spw.beats b s.now, silent := s.spw.silent.filter (· != b) } }
  let s := s.each (tested.filter fails.contains) fun s i => match itemKind i with
    | some k => ((s.testFailed i k).fenceDecide i k 1).fenceEffect i
    | none => s
  (s.heldGate b).startRamps

def execWakeZeroingDone (dt b : Nat) (fails : List Nat) (s : State) : Host.Outcome State Fault Refusal :=
  enter (.wakeZeroingDone dt b fails) dt s fun s =>
    s.whenever ((s.basin b).wakeStage == 3) fun s =>
      s.forSome ((s.basin b).zeroing.filter (·.kind == 2)) fun s z => s.wakeDone b fails z

/-! ### Meters and temperatures (R408, R429) -/

/-- The meters and the package power of the period. -/
def State.meter (s : State) (uj : List Nat) (power : Nat) : State :=
  let s := s.each (List.range 5) fun s r => s.bump Fld.energyMeterEnergy r (uj.getD r 0)
  let xs := (power :: s.pwr.samples).take 64
  let s := { s with pwr := { s.pwr with samples := xs } }
  (s.wr Fld.powerNowPower 0 power).wr Fld.powerAvgPower 0 (xs.foldl (· + ·) 0 / 64)

def execEnergyMeterSample (dt : Nat) (uj : List Nat) (power : Nat) (s : State) : Host.Outcome State Fault Refusal :=
  enter (.energyMeterSample dt uj power) dt s fun s => s.periodic .meters s.tick1024 fun s => s.meter uj power

/-- The hottest reading is written; the alarm and the trip act on it. -/
def State.thermal (s : State) (c0 c1 h : Nat) : State :=
  let hot := max c0 (max c1 h)
  let die := if c0 = hot then 0 else if c1 = hot then 1 else 2
  let s := if 100 ≤ hot ∧ !s.on Fld.thermStatusThermAlarm then s.info (unitHub 20) else s
  let s := ((s.wr Fld.thermStatusHottest 0 hot).wr Fld.thermStatusDie 0 die).wr Fld.thermStatusThermAlarm 0 (nat1 (decide (100 ≤ hot)))
  if 115 ≤ hot then ({ s with boot := { s.boot with thermTrip := true } }).reportLow (unitHub 20) 5 0 0 else s

def execThermalSample (dt c0 c1 h : Nat) (s : State) : Host.Outcome State Fault Refusal :=
  enter (.thermalSample dt c0 c1 h) dt s fun s => s.periodic .thermal s.tick1024 fun s => s.thermal c0 c1 h

end Sys2Proof.Machine
end

