-- ==== Sys2Proof/Machine/Boot.lean ====
section
/-! DEFINITION. Resets and the boot sequence (chapter 20), pins and supplies (R430, R431, R394), the host link. -/
namespace Sys2Proof.Machine

/-! ### Resets that clear the hub die (R411 to R414) -/

/-- What is cleared and had a fence, or still waits for its test. -/
def State.toRetest (s : State) (mine : Nat → Bool) : List Nat :=
  ((s.spw.items.filter fun x => x.2.fence != 0).map (·.1)).filter (fun i => mine i && retestable i && !s.spw.retest.contains i) ++ s.spw.retest

/-- Registers that a reset of the hub die keeps (R394, R412, R427). -/
def keptReg (n : RegName) : Bool := n.block == .kept

/-- The device after a reset of the hub die, with the boot sequence not yet begun: commands are gone without a reply, HBM,
cisterns and pools are undefined, the silt record stays. -/
def State.clearHub (s : State) : State :=
  let keep (e : Nat × Word64) : Bool := keptReg (keyReg e.1)
  let t : State := {
    pending := s.pending, freeCtr := s.freeCtr + 3, readData := s.readData, irqs := s.irqs
    regs := s.regs.filter keep
    dev := Mem.forget s.dev 0 (2 ^ 40) s.freeCtr
    devKey := s.devKey.filter fun e => 2 ^ 32 ≤ e.1
    cistern := Mem.forget s.cistern 0 (cKey 64 0) (s.freeCtr + 1), pool := Mem.forget s.pool 0 (pKey 64 0) (s.freeCtr + 2)
    keys := s.keys, host := s.host, nextCmd := s.nextCmd
    basins := (s.basins.filter fun x => x.2.woken).map fun x => (x.1, { woken := true })
    spw := { silt := s.spw.silt, snap := s.spw.snap, retest := s.toRetest fun _ => true }
    boot := { held := s.boot.held, perst := s.boot.perst, supplies := s.boot.supplies, cold := s.boot.cold, draws := s.boot.draws
              thermTrip := s.boot.thermTrip, cxlUp := s.boot.cxlUp }
    mgmt := { tap := s.mgmt.tap } }
  let t := t.each (List.range 128) fun t i => t.wr Fld.jetSpareRemapBusy i 0
  t.wr Fld.spwStatusSiltFrozen 0 (t.rd Fld.siltStatusFrozen)

/-- A cold reset takes effect; the boot sequence waits for the release of PKG_RST_N. -/
def State.coldReset (s : State) (supply : Bool) : State :=
  let s := { s with boot := { s.boot with held := true, cold := true, thermTrip := false, supplies := s.boot.supplies || supply } }
  let s := { s.clearHub with basins := [] }
  (s.wr Fld.resetCauseCause 0 (if supply then 0 else 1)).wr Fld.resetCauseWarmCount 0 0

def execColdReset (dt : Nat) (supply : Bool) (s : State) : Host.Outcome State Fault Refusal :=
  enter (.coldReset dt supply) dt s fun s => s.whenever (supply || s.boot.supplies) fun s => s.coldReset supply

/-- A warm reset takes effect; the boot sequence starts at phase 0 (R413, R431). -/
def State.warmReset (s : State) (cause : Nat) : State :=
  let s := ({ s with boot := { s.boot with cold := false } }).clearHub
  let s := (s.wr Fld.resetCauseCause 0 cause).bumpSat Fld.resetCauseWarmCount 0
  { s with boot := { s.boot with running := true } }

/-- The boot sequence is in phase `p`. -/
def State.inPhase (s : State) (p : Nat) : Bool := s.boot.running && !s.boot.held && s.rd Fld.bootStatusPhase == p

def execPkgRstRelease (dt : Nat) (s : State) : Host.Outcome State Fault Refusal :=
  enter (.pkgRstRelease dt) dt s fun s =>
    s.whenever (s.boot.held && s.boot.supplies) fun s => { s with boot := { s.boot with held := false, running := true } }

/-- PERST# falls: a warm reset (R431). Straps that phase 0 of a cold reset has not latched yet are latched when it is run again (DESIGN
CHOICE, log entry 53). -/
def execPerstAssert (dt : Nat) (s : State) : Host.Outcome State Fault Refusal :=
  enter (.perstAssert dt) dt s fun s =>
    if s.boot.perst then s else
    let s := { s with boot := { s.boot with perst := true } }
    s.whenever (!s.boot.held && s.boot.supplies) fun s =>
      let unlatched := s.boot.cold && s.inPhase 0
      let s := s.warmReset 2
      { s with boot := { s.boot with cold := unlatched } }

def execPerstRelease (dt : Nat) (s : State) : Host.Outcome State Fault Refusal :=
  enter (.perstRelease dt) dt s fun s => { s with boot := { s.boot with perst := false } }

/-- Supplies fall out of their ranges (R394, R429): with the hub die's, all is lost; else the compute dies and the HBM lose
their contents. -/
def State.supplyLoss (s : State) (hub : Bool) : State :=
  if hub then
    let s := { s with boot := { s.boot with held := true, supplies := false, cxlUp := false } }.clearHub
    { s with spw := {}, regs := s.regs.filter fun e => keyReg e.1 != RegName.siltStatus } |>.wr Fld.spwStatusSiltFrozen 0 0
  else
    let s := s.each (List.range 8) fun s t => s.wr Fld.terraceStateMeshClockRun t 0
    let s := s.devForget 0 (2 ^ 40)
    { s with cistern := Mem.forget s.cistern 0 (64 * 2 ^ 24) s.freeCtr, pool := Mem.forget s.pool 0 (64 * 2 ^ 18) s.freeCtr
             freeCtr := s.freeCtr + 1 }

def execSupplyRemoval (dt : Nat) (hub : Bool) (s : State) : Host.Outcome State Fault Refusal :=
  enterIf true dt s fun s => s.supplyLoss hub

/-! ### RESET_CMD (R414, R419) -/

/-- A write of RESET_CMD is refused. -/
def State.resetRefused (s : State) (cause : Nat) : State :=
  ((s.raise Fld.resetStatusRefused 0).wr Fld.resetStatusCause 0 cause).info (unitHub 20)

/-- Radio use of a basin: reserved, a standby, or in a gate list. -/
def State.radioUse (s : State) (b : Nat) : Bool := s.reserved b || s.regBit .radioStandby 0 b || s.gateListed b

/-- The HARQ region touches the HBM of terrace `t` while the radio is enabled. -/
def State.harqIn (s : State) (t : Nat) : Bool :=
  let lo := s.rd Fld.harqBaseBase
  let n := s.rd Fld.harqSizeSize * 2 ^ 21
  s.on Fld.radioCtrlEnable && decide (0 < n ∧ lo < (t + 1) * 2 ^ 37 ∧ t * 2 ^ 37 < lo + n)

/-- Why a write of RESET_CMD is refused; 0 when it acts. -/
def State.resetCheck (s : State) (v : Nat) : Nat :=
  let kind := slice v 0 2
  let x := slice v 2 6
  let bs := if kind = 2 then (List.range 8).map (8 * x + ·) else [x]
  if slice v 16 16 ≠ 0xB007 ∨ (kind = 2 ∧ 8 ≤ x) then 4
  else if s.on Fld.resetStatusBusy then 1
  else if kind = 1 then 0
  else if bs.any s.radioUse then 2
  else if bs.any fun b => !s.idle b && !s.fencedBasin b then 3
  else if kind = 2 ∧ s.harqIn x then 5
  else 0

/-- The items of a block that a reset clears lose their fences and counts (R420); their health records stay (DESIGN CHOICE, log entry
50). -/
def State.clearItems (s : State) (mine : Nat → Bool) : State :=
  { s with spw := { s.spw with
      retest := s.toRetest mine
      items := s.spw.items.filterMap fun x => if !mine x.1 then some x else
        if x.2.recoveries = 0 then none else some (x.1, { recoveries := x.2.recoveries })
      clearItem := s.spw.clearItem.filter fun i => !mine i } }

/-- Basin `b` is gated and cleared: its registers, its units and its record. -/
def State.clearBasin (s : State) (b : Nat) : State :=
  let s := (s.gateNow b).resetRegs fun n i => n.block == .basin && (unitRegBasin n i == some b || agentRegBasin n i == some b)
  let s := s.each [2 * b, 2 * b + 1] fun s j => s.wr Fld.jetSpareRemapBusy j 0
  let s := { s with pwr := { s.pwr with gateQ := s.pwr.gateQ.filter (· != b) } }
  s.setBasin b { wakeStage := if (s.basin b).wakeStage = 1 then 1 else 0, woken := (s.basin b).woken }

/-- A basin reset acts (R419, R420); every reset zeroes KEY_DATA (R238). -/
def State.basinReset (s : State) (b : Nat) : State :=
  let s := ((s.clearItems (itemOfBasin b)).clearBasin b).showBasinFence b
  let s := s.resetRegs fun n _ => n == .keyData
  ({ s with boot := { s.boot with resetting := some (3, b), resetAt := s.now } }).wr Fld.resetStatusBusy 0 1

/-- A terrace reset acts: its basins and it are cleared, its HBM is undefined, its controllers train (R419). -/
def State.terraceReset (s : State) (t : Nat) (ext : Bool) : State :=
  let s := s.clearItems (itemOfTerrace t)
  let s := s.each (List.range 8) fun s k => s.clearBasin (8 * t + k)
  let s := s.resetRegs fun n i => (n.block == .terrace || n == .hbmTrain || n == .hbmWithdrawn) && i == t
  let s := { s with cascades := Tbl.del s.cascades t }.devForget (t * 2 ^ 37) ((t + 1) * 2 ^ 37)
  let s := (((s.wr Fld.hbmTrainState0 t 1).wr Fld.hbmTrainState1 t 1).wr Fld.hbmTrainExt t (nat1 ext))
  let s := s.resetRegs fun n _ => n == .keyData
  ({ s with boot := { s.boot with resetting := some (2, t), resetAt := s.now } }).wr Fld.resetStatusBusy 0 1

/-- Counts in the 10 µs before a commanded warm reset takes effect. -/
def warmDelay : Nat := 9831

/-- A write of RESET_CMD. -/
def State.resetCmdWrite (s : State) (v : Nat) : State :=
  let kind := slice v 0 2
  if kind = 0 then s.info (unitHub 20) else
  let why := s.resetCheck v
  if why ≠ 0 then s.resetRefused why
  else if kind = 1 then { s with boot := { s.boot with warmDue := some (s.now + warmDelay) } }
  else if kind = 2 then s.terraceReset (slice v 2 6) (bitAt v 8)
  else s.basinReset (slice v 2 6)

def execResetCmdWarm (dt v : Nat) (s : State) : Host.Outcome State Fault Refusal :=
  enter (.resetCmdWarm dt v) dt s fun s => s.whenever (slice v 0 2 == 1) fun s => s.resetCmdWrite v

def execResetCmdTerrace (dt v : Nat) (s : State) : Host.Outcome State Fault Refusal :=
  enter (.resetCmdTerrace dt v) dt s fun s => s.whenever (slice v 0 2 == 2) fun s => s.resetCmdWrite v

def execResetCmdBasin (dt v : Nat) (s : State) : Host.Outcome State Fault Refusal :=
  enter (.resetCmdBasin dt v) dt s fun s => s.whenever (slice v 0 2 == 3) fun s => s.resetCmdWrite v

def execWarmResetEffect (dt : Nat) (s : State) : Host.Outcome State Fault Refusal :=
  enter (.warmResetEffect dt) dt s fun s =>
    s.forSome s.boot.warmDue fun s d => s.whenever (d ≤ s.now) fun s => s.warmReset 3

/-- A reset of a terrace or basin is over: held gate and wake requests act (R419). -/
def State.resetOver (s : State) (bs : List Nat) : State :=
  let s := ({ s with boot := { s.boot with resetting := none } }).wr Fld.resetStatusBusy 0 0
  (s.each bs fun s b => s.heldGate b).startRamps

/-- The clock of terrace `t`'s mesh runs, and its agent begins to send heartbeats. -/
def State.startTerrace (s : State) (t : Nat) : State := (s.wr Fld.terraceStateMeshClockRun t 1).beat (64 + t)

def execTerraceResetDone (dt : Nat) (s : State) : Host.Outcome State Fault Refusal :=
  enter (.terraceResetDone dt) dt s fun s =>
    match s.boot.resetting with
    | some (2, t) => s.whenever (s.trained t) fun s => (s.startTerrace t).resetOver ((List.range 8).map (8 * t + ·))
    | _ => s

def execBasinResetDone (dt : Nat) (s : State) : Host.Outcome State Fault Refusal :=
  enter (.basinResetDone dt) dt s fun s =>
    match s.boot.resetting with
    | some (3, b) => s.resetOver [b]
    | _ => s

/-! ### The boot sequence (R415 to R417) -/

/-- Phase `p` completes. -/
def State.phaseDone (s : State) (p : Nat) : State := (s.setReg .bootStamp p s.now).wr Fld.bootStatusPhase 0 (p + 1)

def execFusesLoaded (dt pkg tray : Nat) (s : State) : Host.Outcome State Fault Refusal :=
  enter (.fusesLoaded dt pkg tray) dt s fun s =>
    s.whenever (s.inPhase 0) fun s =>
      (if s.boot.cold then (s.wr Fld.aqdIdPkgId 0 pkg).wr Fld.aqdIdTrayPos 0 tray else s).phaseDone 0

def execHubReady (dt : Nat) (s : State) : Host.Outcome State Fault Refusal :=
  enter (.hubReady dt) dt s fun s =>
    s.whenever (s.inPhase 1) fun s =>
      let s := { s with boot := { s.boot with draws := s.boot.draws + 1 }, spw := { s.spw with spwBeat := s.now } }
      let s := ((s.wr Fld.spwStatusReady 0 1).wr Fld.sluiceStatusReady 0 1).wr Fld.bootStatusHubReady 0 1
      (s.wr Fld.mgmtStatusI3cReady 0 1).phaseDone 1

def execPcieReady (dt : Nat) (s : State) : Host.Outcome State Fault Refusal :=
  enter (.pcieReady dt) dt s fun s =>
    s.whenever (s.inPhase 2 && !s.boot.perst) fun s =>
      let s := (s.wr Fld.bootStatusPcieReady 0 1).wr Fld.mgmtStatusPcieReady 0 1
      ({ s with boot := { s.boot with pcieUp := true } }).phaseDone 2

/-- Controllers of terrace `t` begin training. -/
def State.beginTraining (s : State) (t : Nat) : State := (s.wr Fld.hbmTrainState0 t 1).wr Fld.hbmTrainState1 t 1

/-- Die `d` heartbeats by the end of phase 3, or does not. -/
def State.dieReady (s : State) (d : Nat) (alive : Bool) : State :=
  let s := { s with boot := { s.boot with diesDone := s.boot.diesDone + 2 ^ d } }
  let s : State := if alive then
      let s : State := (if d = 0 then s.wr Fld.bootStatusC0Ready 0 1 else s.wr Fld.bootStatusC1Ready 0 1).beat (72 + d)
      s.each (List.range 4) fun s k => s.startTerrace (4 * d + k)
    else s.reportLow (unitDie d) 4 0 0
  if s.boot.diesDone = 3 then (s.phaseDone 3).beginTraining 0 else s

def execDieReady (dt d : Nat) (alive : Bool) (s : State) : Host.Outcome State Fault Refusal :=
  enterIf (d < 2) dt s fun s => s.whenever (s.inPhase 3 && !bitAt s.boot.diesDone d) fun s => s.dieReady d alive

/-- A failed pseudo-channel or controller is fenced at once and reported. -/
def State.trainFence (s : State) (t c : Nat) (pc : Option Nat) : State :=
  let unit := unitTerrace t (1 + c)
  match pc with
  | some p =>
    let i := mkItem unit p 1 0
    ((s.fenceDecide i 9 1).fenceEffect i).reportLow unit 2 7 p
  | none => ((s.fenceDecide unit 10 1).fenceEffect unit).reportLow unit 2 7 64

/-- Training of controller `c` of terrace `t` ends (R417). -/
def State.controllerTrained (s : State) (t c : Nat) (answers : Bool) (failed : List Nat) : State :=
  let failed := if answers then failed else []
  let octets := (List.range 8).filter fun o => failed.any fun p => p / 8 == o
  let s := s.wr Fld.hbmTrainOctetFail t ((List.range 16).foldl (fun m o =>
    if s.regBit .hbmTrain t (8 + o) || (8 * c ≤ o && octets.contains (o - 8 * c)) then m + 2 ^ o else m) 0)
  let s := s.each failed.eraseDups fun s p => s.trainFence t c (some p)
  let s := if c = 0 then (s.wr Fld.hbmTrainState0 t 2).wr Fld.terraceStateHbm0Ready t 1
    else (s.wr Fld.hbmTrainState1 t 2).wr Fld.terraceStateHbm1Ready t 1
  if !answers || octets.length = 8 then s.trainFence t c none else s

/-- Phases 4 and 5 complete when their controllers have ended training. -/
def State.trainingOver (s : State) : State :=
  if s.inPhase 4 && s.trained 0 then
    s.each (List.range 7) (fun s k => s.beginTraining (k + 1)) |>.wr Fld.radioStatusReady 0 1 |>.phaseDone 4
  else if s.inPhase 5 && (List.range 7).all (fun k => s.trained (k + 1)) then s.phaseDone 5
  else s

def execHbmControllerTrained (dt t c : Nat) (answers : Bool) (failed : List Nat) (s : State) : Host.Outcome State Fault Refusal :=
  enterIf (t < 8 && c < 2 && failed.all (· < 64)) dt s fun s =>
    s.whenever ((if c = 0 then s.rd Fld.hbmTrainState0 t else s.rd Fld.hbmTrainState1 t) == 1) fun s =>
      ((s.controllerTrained t c answers failed).trainingOver).startRamps

def execLocalDone (dt : Nat) (s : State) : Host.Outcome State Fault Refusal :=
  enterIf true dt s fun s => s.whenever (s.inPhase 6) fun s => (s.phaseDone 6).wr Fld.bootStatusLocalDone 0 1

def execPcieLinkDown (dt : Nat) (s : State) : Host.Outcome State Fault Refusal :=
  enterIf true dt s fun s =>
    s.whenever s.boot.pcieUp fun s => ({ s with boot := { s.boot with pcieUp := false } }).reportLow (unitHub 16) 4 0 0

end Sys2Proof.Machine
end

