-- ==== Sys2Proof/Machine/RadioCode.lean ====
section
/-! DEFINITION. Channel coding of the wellhead (R287 to R290): CRCs, scrambling, constellations, LLRs, LDPC and polar codes.
TS 38.211 and TS 38.212 give what the manual names by clause (PRESUMED, log entry 29); their long tables are constants of
Config (log entry 5). -/
namespace Sys2Proof.Machine

/-! ### Bits -/

/-- Bits of bytes, the most significant of each byte first (R288). -/
def bitsOf (bs : List Byte) : List Bool := bs.flatMap fun x => (List.range 8).map fun i => bitAt x.toNat (7 - i)

/-- Bits packed into bytes the same way; missing bits of the last byte are 0. -/
def packBits (l : List Bool) : List Byte :=
  (List.range ((l.length + 7) / 8)).map fun i =>
    BitVec.ofNat 8 (((List.range 8).map fun j => nat1 (l.getD (8 * i + j) false) * 2 ^ (7 - j)).foldl (· + ·) 0)

/-- A number as `n` bits, the most significant first, and back. -/
def numBits (v n : Nat) : List Bool := (List.range n).map fun i => bitAt v (n - 1 - i)
def bitsNum (l : List Bool) : Nat := l.foldl (fun a b => 2 * a + nat1 b) 0

/-- The remainder of `l` times D^n by a polynomial of degree `n` (its low `n` bits given). -/
def crcRem (poly n : Nat) (l : List Bool) : Nat :=
  l.foldl (fun r b => let t := bitAt r (n - 1) != b; (2 * r % 2 ^ n) ^^^ (if t then poly else 0)) 0

/-- CRC24A, CRC24B, CRC24C, CRC11, CRC6 of TS 38.212 clause 5.1. -/
def crc24a (l : List Bool) : Nat := crcRem 0x864CFB 24 l
def crc24b (l : List Bool) : Nat := crcRem 0x800063 24 l
def crc24c (l : List Bool) : Nat := crcRem 0xB2B117 24 l
def crc11 (l : List Bool) : Nat := crcRem 0x621 11 l
def crc6 (l : List Bool) : Nat := crcRem 0x21 6 l

/-- One step of the two shift registers of TS 38.211 clause 5.2.1. -/
def goldStep (x : Nat × Nat) : Nat × Nat :=
  let f1 := bitAt x.1 3 != bitAt x.1 0
  let f2 := (bitAt x.2 3 != bitAt x.2 2) != (bitAt x.2 1 != bitAt x.2 0)
  (x.1 / 2 + nat1 f1 * 2 ^ 30, x.2 / 2 + nat1 f2 * 2 ^ 30)

def goldSkip : Nat → Nat × Nat → Nat × Nat
  | 0, x => x
  | n + 1, x => goldSkip n (goldStep x)

def goldBits : Nat → Nat × Nat → List Bool
  | 0, _ => []
  | n + 1, x => (bitAt x.1 0 != bitAt x.2 0) :: goldBits n (goldStep x)

/-- The first `n` bits of the scrambling sequence with this c_init. -/
def scrambling (cinit n : Nat) : List Bool := goldBits n (goldSkip 1600 (1, cinit % 2 ^ 31))

/-! ### Constellations (R287) -/

/-- Bits per symbol of the code qm: QPSK, 16QAM, 64QAM, 256QAM. -/
def qmBits (qm : Nat) : Nat := 2 * (qm + 1)

/-- One coordinate of the unnormalised constellation of TS 38.211 clause 5.1 from its bits, the sign first. -/
def axisPoint (l : List Bool) : Int :=
  let rec mag : List Bool → Int
    | [] => 1
    | b :: t => (2 : Int) ^ (t.length + 1) - (if b then -1 else 1) * mag t
  match l with
  | [] => 0
  | b :: t => (if b then -1 else 1) * mag t

/-- The even and the odd bits of a symbol choose I and Q. -/
def evens {α : Type} : List α → List α
  | a :: _ :: t => a :: evens t
  | l => l

def symbolPoint (l : List Bool) : Int × Int := (axisPoint (evens l), axisPoint (evens (l.drop 1)))

/-- The FP16 encoding of an integer of a constellation. -/
def fp16Of (v : Int) : Nat := (rnd (.num v 0) 0xA true).1

/-- The LLR of bit `i` of a symbol (R287): `re`, `im` and `g` are FP16 encodings. Where one of them is no number the manual
states no result: a free value. -/
def llrOf (qm re im g i tag : Nat) : Int :=
  match valOf 0xA re, valOf 0xA im, valOf 0xA g with
  | .num rm re', .num jm je, .num gm ge =>
    let n := qmBits qm
    let dist (p : Int × Int) : Int × Int :=
      let x := dyAdd rm re' (-p.1) 0
      let y := dyAdd jm je (-p.2) 0
      dyAdd (x.1 * x.1) (2 * x.2) (y.1 * y.1) (2 * y.2)
    let less (a b : Int × Int) : Bool := decide ((dyAdd a.1 a.2 (-b.1) b.2).1 < 0)
    let least (b : Bool) : Int × Int :=
      (((List.range (2 ^ n)).map fun k => numBits k n).filter fun l => l.getD i false == b).foldl
        (fun best l => match best with
          | none => some (dist (symbolPoint l))
          | some d => if less (dist (symbolPoint l)) d then some (dist (symbolPoint l)) else some d) none |>.getD (0, 0)
    let d1 := least true
    let d0 := least false
    let d := dyAdd d1.1 d1.2 (-d0.1) d0.2
    let v := d.1 * gm
    let r := rneShift v.natAbs (d.2 + ge)
    max (-127) (min 127 (if v < 0 then -(r : Int) else r))
  | _, _, _ => ((Config.freeNat tag % 255 : Nat) : Int) - 127

/-- Saturating addition to +-127. -/
def satAdd (a b : Int) : Int := max (-127) (min 127 (a + b))

/-! ### LDPC (TS 38.212 clauses 5.2.2, 5.3.2, 5.4.2) -/

/-- Columns of information and of all bits of a base graph (R288). -/
def ldpcKb (bg : Nat) : Nat := if bg = 0 then 22 else 10
def ldpcNb (bg : Nat) : Nat := if bg = 0 then 68 else 52

/-- The lifting-size set of zc; none where zc is no lifting size. -/
def liftSet (zc : Nat) : Option Nat :=
  [2, 3, 5, 7, 9, 11, 13, 15].findIdx? fun a => zc ≤ 384 && (List.range 8).any fun j => a * 2 ^ j == zc

/-- The shift of an entry, modulo zc. -/
def ldpcEdge (bg zc m j : Nat) : Option Nat := (Config.ldpcShift bg ((liftSet zc).getD 0) m j).map (· % zc)

/-- The edges of row `m`: column and shift, in ascending columns. -/
def ldpcRow (bg zc m : Nat) : List (Nat × Nat) :=
  (List.range (ldpcNb bg)).filterMap fun j => (ldpcEdge bg zc m j).map fun h => (j, h)

/-- Entries of a whole base graph (R297). -/
def ldpcAllEdges (bg : Nat) : Nat := if bg = 0 then 316 else 197

/-- edges(BG, rows) of R297: as many as the table has, of which the manual prints the total. -/
def ldpcEdges (bg zc rows : Nat) : Nat :=
  if ldpcNb bg - ldpcKb bg ≤ rows then ldpcAllEdges bg
  else min (ldpcAllEdges bg) (((List.range rows).map fun m => (ldpcRow bg zc m).length).foldl (· + ·) 0)

/-- k0 of a redundancy version (Table 5.4.2.1-2). -/
def ldpcK0 (bg zc ncb rv : Nat) : Nat :=
  let a := match bg, rv with | _, 0 => 0 | 0, 1 => 17 | 0, 2 => 33 | 0, _ => 56 | _, 1 => 13 | _, 2 => 25 | _, _ => 43
  a * ncb / ((ldpcNb bg - 2) * zc) * zc

/-- rows of R288. -/
def ldpcRows (bg zc ncb k0 e : Nat) : Nat := max 4 (min (ldpcNb bg) (2 + (min ncb (k0 + e) + zc - 1) / zc) - ldpcKb bg)

/-- Position `p` of the circular buffer is filler: it belongs to bits K' to K - 1 of the block. -/
def ldpcFiller (bg zc kp p : Nat) : Bool := kp ≤ p + 2 * zc && p + 2 * zc < ldpcKb bg * zc

/-- The buffer positions of `e` coded bits from `p` on, skipping filler. -/
def ldpcPlaces (bg zc kp ncb : Nat) : (fuel e p : Nat) → List Nat
  | 0, _, _ => []
  | _, 0, _ => []
  | n + 1, e + 1, p =>
    let q := p % ncb
    if ldpcFiller bg zc kp q then ldpcPlaces bg zc kp ncb n (e + 1) (p + 1) else q :: ldpcPlaces bg zc kp ncb n e (p + 1)

/-- Where bit `t` of a block on air stands among its `e` coded bits: the bit interleaving of clause 5.4.2.2. -/
def ldpcDeint (e q t : Nat) : Nat := t % q * (e / q) + t / q

/-- The buffer of a block: what it held, the LLRs as they arrive, and filler. -/
def ldpcCombine (bg zc kp ncb k0 qm : Nat) (held : List Int) (llr : List Int) : List Int :=
  let e := llr.length
  let places := ldpcPlaces bg zc kp ncb (e + e * (ldpcKb bg * zc) + ncb) e k0
  let buf := (llr.zipIdx).foldl (fun b x =>
    let p := places.getD (ldpcDeint e (qmBits qm) x.2) 0
    b.set p (satAdd (b.getD p 0) x.1)) held
  buf.zipIdx.map fun x => if ldpcFiller bg zc kp x.2 then 127 else x.1

/-- sat to +-511. -/
def sat511 (v : Int) : Int := max (-511) (min 511 v)

/-- State of the decoder: lambda by bit, and r by edge (row x 128 + column) and lane. -/
structure LdpcSt where
  lam : List Int
  r : List (Nat × List Int)
  deriving DecidableEq, Repr

/-- One row of one iteration. -/
def ldpcRowStep (bg zc m : Nat) (s : LdpcSt) : LdpcSt :=
  let es := ldpcRow bg zc m
  let rOf (j z : Nat) : Int := match s.r.find? (·.1 == m * 128 + j) with | some x => x.2.getD z 0 | none => 0
  let q := es.map fun e => (List.range zc).map fun z => sat511 (s.lam.getD (e.1 * zc + (z + e.2) % zc) 0 - rOf e.1 z)
  let new := (List.range es.length).map fun k => (List.range zc).map fun z =>
    let others := ((List.range es.length).filter (· != k)).map fun i => (q.getD i []).getD z 0
    let mn := others.foldl (fun a v => min a v.natAbs) 511
    let neg := (others.filter (· < 0)).length % 2 == 1
    let v : Int := ((min 63 (mn - 1) : Nat) : Int)
    if neg then -v else v
  let lam := (es.zip (q.zip new)).foldl (fun lam x =>
    (List.range zc).foldl (fun lam z => lam.set (x.1.1 * zc + (z + x.1.2) % zc) (sat511 (x.2.1.getD z 0 + x.2.2.getD z 0))) lam) s.lam
  ⟨lam, (es.zip new).map (fun x => (m * 128 + x.1.1, x.2)) ++ s.r.filter fun x => x.1 / 128 != m⟩

/-- Every parity check of the first `rows` rows is met by the signs of lambda. -/
def ldpcMet (bg zc rows : Nat) (lam : List Int) : Bool :=
  (List.range rows).all fun m => (List.range zc).all fun z =>
    ((ldpcRow bg zc m).filter fun e => decide (lam.getD (e.1 * zc + (z + e.2) % zc) 0 < 0)).length % 2 == 0

/-- Up to `n` iterations; the answer holds the iterations used. -/
def ldpcIterate (bg zc rows : Nat) (done : List Int → Bool) : Nat → Nat → LdpcSt → LdpcSt × Nat
  | 0, used, s => (s, used)
  | n + 1, used, s =>
    let s := (List.range rows).foldl (fun s m => ldpcRowStep bg zc m s) s
    if ldpcMet bg zc rows s.lam && done s.lam then (s, used + 1) else ldpcIterate bg zc rows done n (used + 1) s

/-- `ldpc_decode` (R288): the K' bits of a block and the iterations used; `crc`: the block carries CRC24B. -/
def ldpcDecode (bg zc kp rows iMax : Nat) (crc : Bool) (buf : List Int) : List Bool × Nat :=
  let n := ldpcNb bg * zc
  let lam := (List.replicate (2 * zc) 0 ++ buf ++ List.replicate (n - 2 * zc - buf.length) 0).take n
  let bits (l : List Int) : List Bool := (l.take kp).map fun v => decide (v < 0)
  let (s, used) := ldpcIterate bg zc rows (fun l => !crc || crc24b (bits l) == 0) iMax 0 ⟨lam, []⟩
  (bits s.lam, used)

/-- One row of a system over GF(2) cleared of bit `i` by a pivot. -/
def gfClear (i p row : Nat) : Nat := if bitAt row i then row ^^^ p else row

/-- Solve equations over GF(2): unknowns are bits 0 to n - 1 of a row, the right side bit n. Unknown `i` of the answer. -/
def gfSolve (n : Nat) (rows : List Nat) : List Bool :=
  let step (acc : List (Nat × Nat) × List Nat) (i : Nat) : List (Nat × Nat) × List Nat :=
    match acc.2.find? (bitAt · i) with
    | none => acc
    | some p => ((i, p) :: acc.1.map (fun x => (x.1, gfClear i p x.2)), ((acc.2.erase p).map (gfClear i p)))
  let (pivots, _) := (List.range n).foldl step ([], rows)
  (List.range n).map fun i => match pivots.find? (·.1 == i) with | some x => bitAt x.2 n | none => false

/-- The value of the known columns of row `m` in lane `z`. -/
def ldpcKnown (bg zc m z : Nat) (known : List Bool) : Bool :=
  ((ldpcRow bg zc m).filter fun e => known.getD (e.1 * zc + (z + e.2) % zc) false).length % 2 == 1

/-- The code word of K information bits (filler as 0): the four core rows are solved together, each further row gives the
lanes of its own column. -/
def ldpcEncode (bg zc : Nat) (info : List Bool) : List Bool :=
  let kb := ldpcKb bg
  let core := (List.range 4).flatMap fun m => (List.range zc).map fun z =>
    let unknown := ((ldpcRow bg zc m).filter fun e => kb ≤ e.1 && e.1 < kb + 4).foldl
      (fun a e => a ^^^ 2 ^ ((e.1 - kb) * zc + (z + e.2) % zc)) 0
    unknown + nat1 (ldpcKnown bg zc m z info) * 2 ^ (4 * zc)
  let word := info ++ gfSolve (4 * zc) core
  (List.range (ldpcNb bg - kb - 4)).foldl (fun w m =>
    let h := (ldpcEdge bg zc (m + 4) (kb + m + 4)).getD 0
    w ++ (List.range zc).map fun y => ldpcKnown bg zc (m + 4) ((y + zc - h) % zc) w) word

/-- A transport block cut into `n` blocks of K' bits with their CRCs (clauses 5.1, 5.2.2). -/
def ldpcSegment (tb : List Bool) (n kp : Nat) : List (List Bool) :=
  let b := tb ++ numBits (crc24a tb) 24
  if n = 1 then [b] else (List.range n).map fun r =>
    let c := (b.drop (r * (kp - 24))).take (kp - 24)
    c ++ numBits (crc24b c) 24

/-- The coded bits of one block on air: encoded, rate-matched, interleaved. -/
def ldpcBlock (bg zc kp ncb k0 qm e : Nat) (block : List Bool) : List Bool :=
  let info := block ++ List.replicate (ldpcKb bg * zc - block.length) false
  let word := (ldpcEncode bg zc info).drop (2 * zc)
  let sel := (ldpcPlaces bg zc kp ncb (e + e * (ldpcKb bg * zc) + ncb) e k0).map fun p => word.getD p false
  (List.range e).map fun t => sel.getD (ldpcDeint e (qmBits qm) t) false

/-- What a decoder finds in a transport block: bits, CRC24A, iterations, failed blocks. -/
def ldpcJoin (blocks : List (List Bool)) (A : Nat) : List Bool × Bool × Nat :=
  let multi := 1 < blocks.length
  let b := if multi then blocks.flatMap fun c => c.take (c.length - 24) else blocks.flatten
  let b := b.take (A + 24)
  let ok := crc24a b == 0
  let bad := if multi then (blocks.filter fun c => crc24b c != 0).length else nat1 (!ok)
  (b.take A, ok, bad)

/-! ### Polar codes (TS 38.212 clauses 5.3.1, 5.4.1) -/

/-- CRC length of a channel (0 DCI, 1 PBCH, 2 UCI) for `k` bits with the CRC. -/
def polarCrcLen (ch k : Nat) : Nat := if ch < 2 then 24 else if k ≤ 25 then 6 else 11

/-- The CRC of a payload with the mask on its last bits; a DCI's is computed with 24 ones in front. -/
def polarCrc (ch k mask : Nat) (l : List Bool) : Nat :=
  let n := polarCrcLen ch k
  let c := if ch = 0 then crc24c (List.replicate 24 true ++ l) else if ch = 1 then crc24c l
    else if n = 6 then crc6 l else crc11 l
  c ^^^ mask % 2 ^ min n 16

def log2Up (n : Nat) : Nat := if n ≤ 1 then 0 else Nat.log2 (n - 1) + 1

/-- n of clause 5.3.1 for `k` bits on `e`. -/
def polarExp (ch k e : Nat) : Nat :=
  let c := log2Up e
  let n1 := if 8 * e ≤ 9 * 2 ^ (c - 1) ∧ 16 * k < 9 * e then c - 1 else c
  let n2 := log2Up (8 * k)
  max (min (min n1 n2) (if ch < 2 then 9 else 10)) 5
def polarN (ch k e : Nat) : Nat := 2 ^ polarExp ch k e

/-- Table 5.4.1.1-1. -/
def subBlock : List Nat :=
  [0, 1, 2, 4, 3, 5, 6, 7, 8, 16, 9, 17, 10, 18, 11, 19, 12, 20, 13, 21, 14, 22, 15, 23, 24, 25, 26, 28, 27, 29, 30, 31]
def polarJ (N n : Nat) : Nat := subBlock.getD (32 * n / N) 0 * (N / 32) + n % (N / 32)

/-- Coded bits are punctured (K/E at most 7/16), not shortened. -/
def polarPunct (k e : Nat) : Bool := 16 * k ≤ 7 * e

/-- Parity-check bits, and those of least row weight among them. -/
def polarPc (ch k e : Nat) : Nat × Nat :=
  if ch = 2 ∧ 18 ≤ k ∧ k ≤ 25 then (3, if 192 + k < e + 3 then 1 else 0) else (0, 0)

/-- Information and parity-check positions in ascending reliability. -/
def polarInfo (ch k e : Nat) : List Nat :=
  let N := polarN ch k e
  let out : List Nat :=
    if N ≤ e then [] else if polarPunct k e then
      (List.range (N - e)).map (polarJ N) ++
        List.range (if 3 * N ≤ 4 * e then (3 * N + 3 - 2 * e) / 4 else (9 * N + 15 - 4 * e) / 16)
    else (List.range (N - e)).map fun i => polarJ N (e + i)
  let seq := ((List.range 1024).map Config.polarSequence).filter fun x => x < N && !out.contains x
  seq.drop (seq.length - (k + (polarPc ch k e).1))

/-- The parity-check positions. -/
def polarPcSet (ch k e : Nat) : List Nat :=
  let q := polarInfo ch k e
  let (n, wm) := polarPc ch k e
  let best := (q.drop n).reverse
  let weight (x : Nat) : Nat := ((List.range 10).filter fun i => bitAt x i).length
  let least := best.foldl (fun a x => match a with | none => some x | some y => if weight x < weight y then some x else some y) none
  q.take (n - wm) ++ (if wm = 1 then least.toList else [])

/-- The input interleaving of clause 5.3.1.1, for DCI and PBCH. -/
def polarPerm (ch k : Nat) : List Nat :=
  if ch < 2 then ((List.range 164).map Config.polarInterleave).filterMap fun m => if 164 - k ≤ m then some (m - (164 - k)) else none
  else List.range k

/-- u from the interleaved bits: information, parity checks, frozen zeros; `y` is the register of clause 5.3.1.2. -/
def polarFill (info pc : List Nat) : (count n : Nat) → (y : List Bool) → List Bool → List Bool
  | 0, _, _, _ => []
  | c + 1, n, y, bits =>
    let y := y.drop 1 ++ y.take 1
    if info.contains n then
      if pc.contains n then
        y.headD false :: polarFill info pc c (n + 1) y bits
      else
        let u := bits.headD false
        u :: polarFill info pc c (n + 1) ((y.headD false != u) :: y.drop 1) (bits.drop 1)
    else false :: polarFill info pc c (n + 1) y bits

/-- u times the n-th Kronecker power of [[1, 0], [1, 1]]. -/
def polarXform : Nat → List Bool → List Bool
  | 0, l => l
  | n + 1, l =>
    let a := polarXform n (l.take (2 ^ n))
    let b := polarXform n (l.drop (2 ^ n))
    (a.zip b).map (fun x => x.1 != x.2) ++ b

/-- Where coded bit `t` of `e` comes from in the sub-block interleaved word. -/
def polarSel (N k e t : Nat) : Nat := if N ≤ e then t % N else if polarPunct k e then t + N - e else t

/-- The triangular interleaving of clause 5.4.1.3, for UCI: the order in which coded bits go on air. -/
def polarTri (e : Nat) : List Nat :=
  let T := ((List.range (e + 1)).find? fun t => 2 * e ≤ t * (t + 1)).getD 0
  let start (i : Nat) : Nat := i * T - i * (i - 1) / 2
  (List.range T).flatMap fun j => ((List.range (T - j)).map fun i => start i + j).filter (· < e)
def polarAir (ch e : Nat) : List Nat := if ch = 2 then polarTri e else List.range e

/-- The coded bits on air of a payload with its CRC: K bits in all. -/
def polarEncode (ch k e mask : Nat) (payload : List Bool) : List Bool :=
  let N := polarN ch k e
  let c := payload ++ numBits (polarCrc ch k mask payload) (polarCrcLen ch k)
  let c' := (polarPerm ch k).map fun i => c.getD i false
  let u := polarFill (polarInfo ch k e) (polarPcSet ch k e) N 0 (List.replicate 5 false) c'
  let d := polarXform (polarExp ch k e) u
  let y := (List.range N).map fun n => d.getD (polarJ N n) false
  let f := (List.range e).map fun t => y.getD (polarSel N k e t) false
  (polarAir ch e).map fun t => f.getD t false

/-- LLRs by code position from LLRs as they arrive: repetition adds; positions that are never received, punctured or shortened,
hold 0 (R287). -/
def polarRecover (ch k e : Nat) (llr : List Int) : List Int :=
  let N := polarN ch k e
  let y := (llr.zip (polarAir ch e)).foldl (fun b x =>
    let p := polarSel N k e x.2
    b.set p (satAdd (b.getD p 0) x.1)) (List.replicate N 0)
  (List.range N).foldl (fun d n => d.set (polarJ N n) (y.getD n 0)) (List.replicate N 0)

def polarF (a b : Int) : Int :=
  let m : Int := ((min a.natAbs b.natAbs : Nat) : Int)
  if decide (a < 0) != decide (b < 0) then -m else m
def polarG (a b : Int) (u : Bool) : Int := satAdd b (if u then -a else a)

/-- The LLR of the next bit after the decisions `us`. -/
def polarLlr : Nat → List Int → List Bool → Int
  | 0, l, _ => l.headD 0
  | n + 1, l, us =>
    let h := 2 ^ n
    let ab := (l.take h).zip (l.drop h)
    if us.length < h then polarLlr n (ab.map fun x => polarF x.1 x.2) us
    else
      let a := polarXform n (us.take h)
      polarLlr n ((ab.zip a).map fun x => polarG x.1.1 x.1.2 x.2) (us.drop h)

/-- A path of list decoding: metric, decisions, the register of parity checks. -/
structure PolarPath where
  metric : Nat
  us : List Bool
  y : List Bool
  deriving DecidableEq, Repr

/-- A path takes decision `u` against LLR `l`. -/
def PolarPath.take (p : PolarPath) (l : Int) (u info : Bool) : PolarPath :=
  let y := p.y.drop 1 ++ p.y.take 1
  ⟨min 65535 (p.metric + if u != decide (l < 0) then l.natAbs else 0), p.us ++ [u],
    if info then (y.headD false != u) :: y.drop 1 else y⟩

/-- Insert by ascending metric, later entries behind equal ones. -/
def insertPath (x : Nat × PolarPath) : List (Nat × PolarPath) → List (Nat × PolarPath)
  | [] => [x]
  | y :: l => if x.2.metric < y.2.metric then x :: y :: l else y :: insertPath x l

/-- The 8 candidates of least metric, ties to the lower index; they keep the order of their indices. -/
def keepEight (l : List PolarPath) : List PolarPath :=
  let kept := ((l.zipIdx.map fun x => (x.2, x.1)).foldl (fun a x => insertPath x a) []).take 8
  (l.zipIdx.filter fun x => kept.any (·.1 == x.2)).map (·.1)

/-- List decoding of `count` bits from bit `n` on. -/
def polarList (ex : Nat) (llr : List Int) (info pc : List Nat) : (count n : Nat) → List PolarPath → List PolarPath
  | 0, _, ps => ps
  | c + 1, n, ps =>
    let next :=
      if info.contains n && !pc.contains n then
        keepEight (ps.flatMap fun p => let l := polarLlr ex llr p.us; [p.take l false true, p.take l true true])
      else ps.map fun p =>
        let l := polarLlr ex llr p.us
        if info.contains n then p.take l ((p.y.drop 1 ++ p.y.take 1).headD false) false else p.take l false false
    polarList ex llr info pc c (n + 1) next

/-- The K - L payload bits of the first path whose CRC passes, in ascending metric. -/
def polarDecode (ch k e mask : Nat) (llr : List Int) : Option (List Bool) :=
  let info := polarInfo ch k e
  let pc := polarPcSet ch k e
  let ps := polarList (polarExp ch k e) llr info pc (polarN ch k e) 0 [⟨0, [], List.replicate 5 false⟩]
  let sorted := (ps.zipIdx.map fun x => (x.2, x.1)).foldl (fun a x => insertPath x a) []
  let perm := polarPerm ch k
  let L := polarCrcLen ch k
  sorted.findSome? fun x =>
    let c' := ((x.2.us.zipIdx).filter fun b => info.contains b.2 && !pc.contains b.2).map (·.1)
    let c := (perm.zip c').foldl (fun l b => l.set b.1 b.2) (List.replicate k false)
    let a := c.take (k - L)
    if bitsNum (c.drop (k - L)) = polarCrc ch k mask a then some a else none

end Sys2Proof.Machine
end

