-- ==== Sys2Proof/Machine/RadioDsp.lean ====
section
/-! DEFINITION. Transforms and measurements of the wellhead (R291 to R294). -/
namespace Sys2Proof.Machine

/-! ### Twiddle factors (R291) -/

/-- A signed interval on the grid 2^-k. -/
abbrev Iv := Int × Int

/-- Sum of the series of cosine (`i` = 0 at the start) or sine (1) of an angle interval below 1: from term x^i / i!. -/
def ivTrig (k : Nat) (sq : Nat × Nat) : (n i : Nat) → (term : Nat × Nat) → (neg : Bool) → Iv → Iv
  | 0, _, term, _, acc => (acc.1 - term.2, acc.2 + term.2)
  | n + 1, i, term, neg, acc =>
    let t := ivMul k term sq
    let d := (i + 1) * (i + 2)
    let t : Nat × Nat := (t.1 / d, t.2 / d + 1)
    let acc : Iv := if neg then (acc.1 - t.2, acc.2 - t.1) else (acc.1 + t.1, acc.2 + t.2)
    ivTrig k sq n (i + 2) t (!neg) acc

/-- cos or sin of 2 pi m / N for an angle of at most an eighth of a turn. -/
def ivEighth (k m N : Nat) (sine : Bool) : Iv :=
  let p := ivPi k
  let x : Nat × Nat := (p.1 * (2 * m) / N, p.2 * (2 * m) / N + 1)
  let sq := ivMul k x x
  if sine then ivTrig k sq (k / 4) 1 x true (x.1, x.2)
  else ivTrig k sq (k / 4) 0 (2 ^ k, 2 ^ k) true (2 ^ k, 2 ^ k)

/-- The FP16 value nearest to a positive number of an interval, where both ends agree; grids are refined in turn. -/
def trigRefine (m N : Nat) (sine : Bool) : List Nat → Option Nat
  | [] => none
  | k :: ks =>
    let v := ivEighth k m N sine
    let lo := (roundFp (max 1 v.1) (-(k : Int)) 0xA true).1
    let hi := (roundFp (max 1 v.2) (-(k : Int)) 0xA true).1
    if lo = hi then some lo else trigRefine m N sine ks

/-- FP16 of cos or sin of an angle m / N of at most an eighth of a turn; free where no grid of the list decides. -/
def trigEighth (m N : Nat) (sine : Bool) : Nat :=
  if m = 0 then (if sine then 0 else 0x3C00)
  else (trigRefine m N sine [64, 128, 256]).getD (Config.freeNat (m + 65536 * N) % 2 ^ 15)

/-- FP16 of cos (2 pi m / N). -/
def cos16 (m N : Nat) : Nat :=
  let m := m % N
  let m := if N < 2 * m then N - m else m            -- cos (-x) = cos x
  if 4 * m ≤ N then (if 8 * m ≤ N then trigEighth m N false else trigEighth (N - 4 * m) (4 * N) true)
  else
    let m' := N - 2 * m                              -- half a turn less, over 2 N
    let c := if 4 * m' ≤ N then trigEighth m' (2 * N) false else trigEighth (2 * N - 4 * m') (8 * N) true
    if c = 0 then 0 else c + 0x8000

/-- FP16 of sin (2 pi m / N): the cosine of a quarter of a turn less. -/
def sin16 (m N : Nat) : Nat := cos16 (4 * (m % N) + 3 * N) (4 * N)

/-- The negative of an FP16 encoding. -/
def neg16 (x : Nat) : Nat := x ^^^ 0x8000

/-- T[m] (R291): real and imaginary part. -/
def twiddle (m N : Nat) (inverse : Bool) : Nat × Nat :=
  let s := sin16 m N
  (cos16 m N, if inverse then s else neg16 s)

/-! ### DFT (R291) -/

/-- The anchored sum of products of two lists of FP16 values. -/
def sum16 (ab : List (Nat × Nat)) (A : Int) : Int × AccFlags :=
  let cs := (groups32 ab).map fun g => kgroup g 0xA 0xA 127 127 A 0
  (cs.foldl (fun a c => poolAdd a c.1) 0, cs.foldl (fun a c => AccFlags.or a c.2) AccFlags.none)

/-- A sum as an output: times 2^-shift, rounded once to `code` with sat 1. -/
def outOf (w A : Int) (shift code : Nat) : Nat × Bool :=
  rnd (match wordVal w A with | .num m e => Val.num m (e - shift) | v => v) code true

/-- Output `k` of a transform of size N over the inputs `xs`: real part, imaginary part, flags. -/
def dftOut (xs : List (Nat × Nat)) (N k : Nat) (inverse : Bool) (A : Int) (shift code : Nat) : Nat × Nat × AccFlags :=
  let ts := xs.zipIdx.map fun x => (x.1, twiddle (x.2 * k) N inverse)
  let re := sum16 (ts.flatMap fun x => [(x.1.1, x.2.1), (x.1.2, neg16 x.2.2)]) A
  let im := sum16 (ts.flatMap fun x => [(x.1.1, x.2.2), (x.1.2, x.2.1)]) A
  let r := outOf re.1 A shift code
  let i := outOf im.1 A shift code
  (r.1, i.1, (re.2.or im.2).or ⟨false, false, false, r.2 || i.2⟩)

/-- All outputs of a transform. -/
def dftAll (xs : List (Nat × Nat)) (N : Nat) (inverse : Bool) (A : Int) (shift code : Nat) : List (Nat × Nat) × AccFlags :=
  let os := (List.range N).map fun k => dftOut xs N k inverse A shift code
  (os.map fun o => (o.1, o.2.1), os.foldl (fun a o => AccFlags.or a o.2.2) AccFlags.none)

/-! ### Power profiles (R292, R293) -/

/-- |z|^2 of an FP32 pair, exactly. -/
def power (z : Nat × Nat) : Val :=
  let re := valOf 0xB z.1
  let im := valOf 0xB z.2
  (re.mul re).add (im.mul im)

def sumVals (l : List Val) : Val := l.foldl Val.add (.num 0 0)

/-- p: by bin, the power summed over the antennas and rounded to FP32. -/
def profile (zs : List (List (Nat × Nat))) (N : Nat) : List Nat :=
  (List.range N).map fun n => (rnd (sumVals (zs.map fun z => power (z.getD n (0, 0)))) 0xB false).1

/-- A value over a positive integer. -/
def Val.over (v : Val) (d : Nat) : Val :=
  match v with
  | .num m e => (match quotVal m d with | .num a b => .num a (b + e) | w => w)
  | w => w

/-- The peak among some bins: the largest p, with the first bin on ties. -/
def peak (p : List Nat) (bins : List Nat) : Option Nat :=
  bins.foldl (fun best n => match best with
    | none => some n
    | some b => if (valOf 0xB (p.getD b 0)).lt (valOf 0xB (p.getD n 0)) then some n else some b) none

/-- A measurement record (Table 13-9). -/
def measRecord (carrier kind index tag : Nat) (ta : Int) (rsrp sinr stamp : Nat) : List Byte :=
  leBytes 32 (carrier + 256 * kind + 512 * (index % 128) + 65536 * (tag % 65536) + 2 ^ 32 * unsignedOf ta 32 +
    2 ^ 64 * rsrp + 2 ^ 96 * sinr + 2 ^ 128 * stamp)

/-! ### PRACH (R292) -/

/-- A sample times a sequence value, each part exact and rounded to FP16. An overflow of this and of the other inner roundings of
PRACH and DMRS_MEAS is no conversion of a pool value and sets no flag (DEDUCED, log entry 42). -/
def mulPair (a b : Nat × Nat) : Nat × Nat :=
  let r (x : Nat) : Val := valOf 0xA x
  ((rnd (((r a.1).mul (r b.1)).add ((r a.2).mul (r b.2)).neg) 0xA true).1,
   (rnd (((r a.1).mul (r b.2)).add ((r a.2).mul (r b.1))) 0xA true).1)

/-- What one root finds: windows as (index, first bin, length); answers (window, offset of the peak in it). -/
def prachFind (p : List Nat) (nPr : Nat) (thr : Nat) (windows : List (Nat × Nat)) : List (Nat × Nat) :=
  let nu := rnd ((sumVals (p.map (valOf 0xB))).over nPr) 0xB false
  let lim := rnd ((valOf 0xB thr).mul (valOf 0xB nu.1)) 0xB false
  windows.zipIdx.filterMap fun w =>
    let bins := (List.range w.1.2).map fun i => (w.1.1 + i) % nPr
    let best := (List.range w.1.2).foldl (fun b i => match b with
      | none => some i
      | some j =>
        let x := valOf 0xB (p.getD (bins.getD i 0) 0)
        let y := valOf 0xB (p.getD (bins.getD j 0) 0)
        if y.lt x || (!x.lt y && x == y && bins.getD i 0 < bins.getD j 0) then some i else some j) none
    match best with
    | none => none
    | some i =>
      let x := valOf 0xB (p.getD (bins.getD i 0) 0)
      if x == .nan || lim.1 == canonicalNan 0xB || x.lt (valOf 0xB lim.1) then none else some (w.2, i)

/-- Delta f_RA of a df_code (Table 13-6). -/
def prachDf (code mu : Nat) : Nat := match code with | 0 => 1250 | 1 => 5000 | _ => 15000 * 2 ^ mu

/-! ### DMRS (R293) -/

/-- rsrp and sinr of a profile; none where the manual states no result: a division by zero. -/
def dmrsFind (p : List Nat) (nM W nAnt nDmrs : Nat) : Option Nat × Option Nat × Option Nat :=
  let inside := (List.range nM).filter fun n => n < W || nM - W ≤ n
  let sIn := sumVals (inside.map fun n => valOf 0xB (p.getD n 0))
  let sOut := sumVals (((List.range nM).filter fun n => !inside.contains n).map fun n => valOf 0xB (p.getD n 0))
  let k := nM - 2 * W
  -- S_in - 2 W nu, times N_m - 2 W
  let diff := (sIn.mul (.num k 0)).add (sOut.mul (.num (-(2 * W)) 0))
  let diff := if diff.lt (.num 0 0) then .num 0 0 else diff
  let rsrp := if k = 0 ∨ nAnt * nDmrs = 0 then none else some (rnd (diff.over (k * nAnt * nDmrs)) 0xB false).1
  let den := sOut.mul (.num (2 * W) 0)
  let sinr := match den with
    | .num m _ => if m = 0 then none else some (rnd (diff.div den) 0xB false).1
    | _ => some (rnd den 0xB false).1
  (peak p inside, rsrp, sinr)

end Sys2Proof.Machine
end

