-- ==== Sys2Proof/Machine/RadioOps.lean ====
section
/-! DEFINITION. The operations of the wellhead engines (R282, R286 to R294, R296, R297): their parameter blocks, what they
access, how long they take at worst, and what they compute. -/
namespace Sys2Proof.Machine

/-! ### Parameter blocks (Table 13-6) -/

/-- Every bit of a number outside these fields is 0. -/
def onlyFields (d : Nat) (fs : List (Nat × Nat)) : Bool := fs.foldl (fun x f => putBits x f.1 f.2 0) d == 0

def ldpcDecFields : List (Nat × Nat) :=
  [(0, 32), (32, 24), (56, 5), (64, 9), (73, 12), (96, 16), (112, 15), (128, 32), (160, 24), (192, 31), (224, 32), (256, 36),
   (320, 44), (384, 32)]
def ldpcEncFields : List (Nat × Nat) :=
  [(0, 44), (56, 3), (64, 9), (77, 8), (96, 16), (112, 15), (128, 32), (160, 24), (192, 31), (224, 32), (256, 32)]
def polarFields : List (Nat × Nat) := [(0, 32), (32, 26), (64, 10), (80, 10), (96, 16), (112, 31), (144, 44), (192, 32)]
def dftFields : List (Nat × Nat) := [(0, 45), (48, 7), (64, 30), (94, 18), (112, 48)]
def prachFields : List (Nat × Nat) :=
  [(0, 30), (32, 32), (64, 30), (94, 42), (160, 64), (224, 44), (288, 32)]
def dmrsFields : List (Nat × Nat) := [(0, 30), (32, 29), (61, 3), (64, 26), (96, 40), (136, 56)]

namespace Ld
def qm (d : Nat) (enc : Bool) : Nat := if enc then slice d 286 2 else slice d 30 2
def rv (d : Nat) : Nat := slice d 56 2
def bg (d : Nat) : Nat := slice d 58 1
def zc (d : Nat) : Nat := slice d 64 9
def nCbs (d : Nat) : Nat := slice d 77 8
def kPrime (d : Nat) : Nat := slice d 96 16
def nCb (d : Nat) : Nat := slice d 112 15
/-- E_r. -/
def e (d r : Nat) : Nat := if r < slice d 152 8 then slice d 128 24 else slice d 160 24
def cInit (d : Nat) : Nat := slice d 192 31
def bits (d : Nat) : Nat := slice d 224 32
def harqIn (d : Nat) : Bool := bitAt d 59
def harqOut (d : Nat) : Bool := bitAt d 60
def harqOff (d : Nat) : Nat := slice d 256 36
def iMax (d : Nat) : Nat := slice d 73 4
/-- Coded bits of all blocks. -/
def total (d : Nat) : Nat := ((List.range (nCbs d)).map (e d)).foldl (· + ·) 0
def k0 (d : Nat) : Nat := ldpcK0 (bg d) (zc d) (nCb d) (rv d)
def rows (d r : Nat) : Nat := ldpcRows (bg d) (zc d) (nCb d) (k0 d) (e d r)
/-- Bytes between blocks in the HARQ buffer, and the bytes of the buffer (R296). -/
def harqStep (d : Nat) : Nat := 256 * ceilDiv (nCb d) 256
def harqLen (d : Nat) : Nat := nCbs d * harqStep d
/-- What decoding and encoding both ask of the code's parameters. -/
def ok (d : Nat) (enc : Bool) : Bool :=
  (liftSet (zc d)).isSome && 1 ≤ nCbs d && kPrime d ≤ ldpcKb (bg d) * zc d && 1 ≤ nCb d && nCb d ≤ (ldpcNb (bg d) - 2) * zc d &&
    slice d 128 24 % qmBits (qm d enc) == 0 && slice d 160 24 % qmBits (qm d enc) == 0
end Ld

namespace Po
def qm (d : Nat) : Nat := slice d 30 2
def ch (d : Nat) : Nat := slice d 56 2
def k (d : Nat) : Nat := slice d 64 10
def e (d : Nat) : Nat := slice d 80 10
def mask (d : Nat) : Nat := slice d 96 16
def io (d : Nat) : Nat := slice d 144 44
/-- Payload bits: K without its CRC. -/
def a (d : Nat) : Nat := k d - polarCrcLen (ch d) (k d)
def res (d : Nat) : Nat := ceilDiv (e d) (qmBits (qm d))
end Po

namespace Df
def n (d : Nat) : Nat := slice d 32 13
def batch (d : Nat) : Nat := slice d 48 7
def code (d : Nat) : Nat := if bitAt d 31 then 0xB else 0xA
def pair (d : Nat) : Nat := if bitAt d 31 then 8 else 4
def inAt (d t : Nat) : Nat := slice d 0 24 + t * slice d 112 24
def outAt (d t : Nat) : Nat := slice d 64 24 + t * slice d 136 24
end Df

namespace Pr
def nAnt (d : Nat) : Nat := slice d 32 4 + 1
def len (d : Nat) : Nat := slice d 36 12
/-- N_pr: twelve bits that hold 256, 1,024 or 2,048. -/
def n (d : Nat) : Nat := slice d 48 12
def df (d : Nat) : Nat := slice d 60 4
def nRoot (d : Nat) : Nat := slice d 88 6 + 1
def nWin (d : Nat) : Nat := slice d 104 8
end Pr

namespace Dm
def nAnt (d : Nat) : Nat := slice d 32 4 + 1
def nDmrs (d : Nat) : Nat := slice d 36 12
def n (d : Nat) : Nat := slice d 48 13
def s (d : Nat) : Nat := slice d 61 3
def W (d : Nat) : Nat := slice d 64 12
def sym (d : Nat) : Nat := slice d 76 4
end Dm

/-- The parameter check of a wellhead operation (R283 step 4; a window of length 0 is found in the cistern). -/
def wellParamsOk (kind d : Nat) : Bool :=
  match kind with
  | 1 => onlyFields d ldpcDecFields && Ld.ok d false && 1 ≤ Ld.iMax d && Ld.harqOff d % 256 == 0
  | 2 => onlyFields d ldpcEncFields && Ld.ok d true
  | 3 | 4 => onlyFields d polarFields && Po.ch d < 3 && polarCrcLen (Po.ch d) (Po.k d) < Po.k d && Po.k d ≤ Po.e d &&
      (Po.ch d == 2 || Po.k d ≤ 164)
  | 5 => onlyFields d dftFields && 1 ≤ Df.n d && Df.n d ≤ 4096 && 1 ≤ Df.batch d && Df.batch d ≤ 64
  | 6 => onlyFields d prachFields && [139, 571, 839, 1151].contains (Pr.len d) && [256, 1024, 2048].contains (Pr.n d) &&
      Pr.len d ≤ Pr.n d && Pr.df d < 3 && Pr.nWin d != 0
  | 7 => onlyFields d dmrsFields && [64, 128, 256, 512, 1024, 2048, 4096].contains (Dm.n d) && [1, 2, 4].contains (Dm.s d) && Dm.sym d < 14
  | _ => onlyFields d [(0, 44), (48, 11)] && 64 ≤ slice d 48 11 && slice d 48 11 ≤ 1500

/-! ### Where operations work (R282) -/

/-- Bytes an operation reads or writes: of a cistern, or of device memory. -/
inductive Place where
  | cist (b a n : Nat)
  | dev (a n : Nat)
  deriving DecidableEq, Repr

/-- What a wellhead operation reads. -/
def State.wellReads (s : State) (kind d : Nat) : List Place :=
  let harq : List Place := if Ld.harqIn d then [.dev (s.reg .harqBase + Ld.harqOff d) (Ld.harqLen d)] else []
  let intake (re : Nat) : List Place :=
    [.cist (slice d 24 6) (slice d 0 24) (4 * re), .cist (slice d 24 6) (slice d 32 24) (2 * re)]
  let b := slice d 24 6
  match kind with
  | 1 => intake (Ld.total d / qmBits (Ld.qm d false)) ++ harq
  | 2 => [.dev (slice d 0 44) (ceilDiv (Ld.bits d) 8)]
  | 3 => intake (Po.res d)
  | 4 => [.dev (Po.io d) (ceilDiv (Po.a d) 8)]
  | 5 => (List.range (Df.batch d)).map fun t => .cist b (Df.inAt d t) (4 * Df.n d)
  | 6 => [.cist b (slice d 0 24) (4 * Pr.len d * Pr.nAnt d), .cist b (slice d 64 24) (4 * Pr.len d * Pr.nRoot d),
      .cist b (slice d 112 24) (4 * Pr.nWin d)]
  | 7 => (List.range (Dm.nAnt d)).map fun a => .cist b (slice d 0 24 + a * slice d 136 24) (4 * Dm.nDmrs d)
  | _ => [.dev (slice d 0 44) (slice d 48 11)]

/-- What it may write. -/
def State.wellWrites (s : State) (kind d : Nat) : List Place :=
  match kind with
  | 1 => .dev (slice d 320 44) (32 + ceilDiv (Ld.bits d) 8) ::
      (if Ld.harqOut d then [.dev (s.reg .harqBase + Ld.harqOff d) (Ld.harqLen d)] else [])
  | 2 => [.cist (slice d 280 6) (slice d 256 24) (4 * (Ld.total d / qmBits (Ld.qm d true)))]
  | 3 => [.dev (Po.io d) (16 + ceilDiv (Po.a d) 8)]
  | 4 => [.cist (slice d 24 6) (slice d 0 24) (4 * Po.res d)]
  | 5 => (List.range (Df.batch d)).map fun t => .cist (slice d 88 6) (Df.outAt d t) (Df.pair d * Df.n d)
  | 6 => [.dev (slice d 224 44) (32 * Pr.nRoot d * Pr.nWin d)]
  | 7 => [.dev (slice d 96 40) 32]
  | _ => []

/-- The radio's part of basin `b`: all of a reserved basin, the radio partition of a gateable one (R95, R282). -/
def State.radioBounds (s : State) (b : Nat) : Bounds :=
  if s.reserved b then ⟨0, cisternBytes, 0, poolWords⟩
  else if s.gateListed b then ⟨s.partC b, cisternBytes, s.partP b, poolWords⟩
  else ⟨0, 0, 0, 0⟩

/-- The radio may use these bytes. -/
def State.placeOk (s : State) : Place → Bool
  | .cist b a n => n == 0 || Need.within (s.radioBounds b) ⟨.cistern, a, n⟩
  | .dev a n => n == 0 || s.devOk 0 a n

/-- A HARQ buffer lies within the region (R296). -/
def State.harqOk (s : State) (kind d : Nat) : Bool :=
  kind != 1 || !(Ld.harqIn d || Ld.harqOut d) || Ld.harqOff d + Ld.harqLen d ≤ s.rd Fld.harqSizeSize * 2 ^ 21

/-- An entry of the window list of a PRACH operation. -/
def State.prachWindow (s : State) (d i : Nat) : Nat × Nat :=
  let e := s.cNat (slice d 24 6) (slice d 112 24 + 4 * i) 4
  (e % 65536, e / 65536)

/-- A read among these is poisoned: a double-bit error of a cistern, or memory that is down. -/
def State.placesBad (s : State) (l : List Place) : Bool :=
  l.any fun p => match p with
    | .cist b a n => s.badC b a n
    | .dev a n => s.devFenced a n

/-- The errors that these reads find. -/
def State.placesRead (s : State) (l : List Place) : State :=
  s.each l fun s p => match p with
    | .cist b a n => s.eccRead b ⟨.cistern, a, n⟩
    | .dev _ _ => s

/-! ### Worst-case durations (Table 13-7) -/

def sumOver (n : Nat) (f : Nat → Nat) : Nat := ((List.range n).map f).foldl (· + ·) 0

/-- wc of an operation in cycles; `budget` of a SPOUT operation. -/
def opCycles (kind d budget : Nat) : Nat :=
  match kind with
  | 1 => 32 + sumOver (Ld.nCbs d) fun r =>
      48 + ceilDiv (Ld.e d r) 512 + Ld.iMax d * (ceilDiv (ldpcEdges (Ld.bg d) (Ld.zc d) (Ld.rows d r)) 6 + 4)
  | 2 => 24 + sumOver (Ld.nCbs d) fun r => 40 + 2 * Ld.rows d r + ceilDiv (Ld.e d r) 512
  | 3 => 128 + 2 * polarN (Po.ch d) (Po.k d) (Po.e d) + 8 * Po.k d
  | 4 => 32 + polarN (Po.ch d) (Po.k d) (Po.e d) / 8 + ceilDiv (Po.e d) 64
  | 5 => 64 + Df.batch d * (ceilDiv (Df.n d * Df.n d) 8192 + 8)
  | 6 => 96 + Pr.nAnt d * Pr.nRoot d * (ceilDiv (Pr.len d * Pr.n d) 8192 + 8) + Pr.nRoot d * Pr.n d / 16
  | 7 => 96 + Dm.nAnt d * (ceilDiv (Dm.nDmrs d * Dm.n d) 8192 + 8) + Dm.n d / 16
  | 8 => Jd.bound d
  | 9 => budget
  | _ => 64

/-! ### What operations compute -/

/-- What an operation computes: its writes, flags, and measurement records. -/
structure OpRes where
  writes : List PWrite
  flags : AccFlags
  records : List (List Byte)
  deriving DecidableEq, Repr

/-- An FP16 pair of a cistern. -/
def State.pair16 (s : State) (b a : Nat) : Nat × Nat := (s.cNat b a 2, s.cNat b (a + 2) 2)
def State.pairs16 (s : State) (b a n : Nat) : List (Nat × Nat) := (List.range n).map fun i => s.pair16 b (a + 4 * i)

/-- The LLR intake (R287): `re` REs of `qm`, descrambled. -/
def State.intakeLlrs (s : State) (d qm re cinit : Nat) : List Int :=
  let b := slice d 24 6
  let q := qmBits qm
  let llr := (List.range re).flatMap fun i =>
    let x := s.pair16 b (slice d 0 24 + 4 * i)
    let g := s.cNat b (slice d 32 24 + 2 * i) 2
    (List.range q).map fun k => llrOf qm x.1 x.2 g k (s.freeCtr + q * i + k)
  (llr.zip (scrambling cinit (q * re))).map fun x => if x.2 then -x.1 else x.1

/-- A signed byte. -/
def int8 (x : Byte) : Int := signedOf x.toNat 8

/-- LDPC_DEC (R288, R296). -/
def State.ldpcDecRun (s : State) (d : Nat) : OpRes :=
  let bg := Ld.bg d
  let zc := Ld.zc d
  let ncb := Ld.nCb d
  let n := Ld.nCbs d
  let llr := s.intakeLlrs d (Ld.qm d false) (Ld.total d / qmBits (Ld.qm d false)) (Ld.cInit d)
  let base := s.reg .harqBase + Ld.harqOff d
  let blocks := (List.range n).map fun r =>
    let held := if Ld.harqIn d then (s.devRead (base + r * Ld.harqStep d) ncb).map int8 else List.replicate ncb 0
    let mine := (llr.drop (sumOver r (Ld.e d))).take (Ld.e d r)
    let buf := ldpcCombine bg zc (Ld.kPrime d) ncb (Ld.k0 d) (Ld.qm d false) held mine
    (buf, ldpcDecode bg zc (Ld.kPrime d) (Ld.rows d r) (Ld.iMax d) (1 < n) buf)
  let (bits, ok, bad) := ldpcJoin (blocks.map (·.2.1)) (Ld.bits d)
  let iters := blocks.foldl (fun a x => max a x.2.2) 0
  let head := leBytes 32 (nat1 ok + 256 * iters + 65536 * bad + 2 ^ 32 * slice d 384 32)
  let harq := if Ld.harqOut d then blocks.zipIdx.map fun x =>
      PWrite.dev (base + x.2 * Ld.harqStep d) (x.1.1.map fun v => BitVec.ofInt 8 v) else []
  ⟨.dev (slice d 320 44) (head ++ packBits bits) :: harq, .none, []⟩

/-- Bits as symbols: FP16 pairs of the unnormalised constellation. -/
def symbolBytes (qm : Nat) (bits : List Bool) : List Byte :=
  let q := qmBits qm
  (List.range (ceilDiv bits.length q)).flatMap fun i =>
    let p := symbolPoint ((List.range q).map fun k => bits.getD (q * i + k) false)
    leBytes 2 (fp16Of p.1) ++ leBytes 2 (fp16Of p.2)

/-- Bits scrambled with c_init. -/
def scrambled (cinit : Nat) (l : List Bool) : List Bool := (l.zip (scrambling cinit l.length)).map fun x => x.1 != x.2

/-- LDPC_ENC (R289). -/
def State.ldpcEncRun (s : State) (d : Nat) : OpRes :=
  let tb := (bitsOf (s.devRead (slice d 0 44) (ceilDiv (Ld.bits d) 8))).take (Ld.bits d)
  let air := (ldpcSegment tb (Ld.nCbs d) (Ld.kPrime d)).zipIdx.flatMap fun x =>
    ldpcBlock (Ld.bg d) (Ld.zc d) (Ld.kPrime d) (Ld.nCb d) (Ld.k0 d) (Ld.qm d true) (Ld.e d x.2) x.1
  ⟨[.cist (slice d 256 24) (symbolBytes (Ld.qm d true) (scrambled (Ld.cInit d) air))], .none, []⟩

/-- POLAR_DEC (R290). -/
def State.polarDecRun (s : State) (d : Nat) : OpRes :=
  let llr := (s.intakeLlrs d (Po.qm d) (Po.res d) (slice d 112 31)).take (Po.e d)
  let r := polarDecode (Po.ch d) (Po.k d) (Po.e d) (Po.mask d) (polarRecover (Po.ch d) (Po.k d) (Po.e d) llr)
  let head := leBytes 16 (nat1 r.isSome + 65536 * Po.k d + 2 ^ 32 * slice d 192 32)
  let n := ceilDiv (Po.a d) 8
  -- the payload bits of a failed decoding are not stated
  match r with
  | some l => ⟨[.dev (Po.io d) (head ++ packBits l)], .none, []⟩
  | none => ⟨[.dev (Po.io d) head, .devFree (Po.io d + 16) n], .none, []⟩

/-- POLAR_ENC (R290). -/
def State.polarEncRun (s : State) (d : Nat) : OpRes :=
  let payload := (bitsOf (s.devRead (Po.io d) (ceilDiv (Po.a d) 8))).take (Po.a d)
  let air := polarEncode (Po.ch d) (Po.k d) (Po.e d) (Po.mask d) payload
  ⟨[.cist (slice d 0 24) (symbolBytes (Po.qm d) (scrambled (slice d 112 31) air))], .none, []⟩

/-- DFT (R291). -/
def State.dftRun (s : State) (d : Nat) : OpRes :=
  let b := slice d 24 6
  let rs := (List.range (Df.batch d)).map fun t =>
    let o := dftAll (s.pairs16 b (Df.inAt d t) (Df.n d)) (Df.n d) (bitAt d 30) (signedOf (slice d 94 10) 10) (slice d 104 8) (Df.code d)
    (PWrite.cist (Df.outAt d t) (o.1.flatMap fun z => leBytes (Df.pair d / 2) z.1 ++ leBytes (Df.pair d / 2) z.2), o.2)
  ⟨rs.map (·.1), rs.foldl (fun a x => AccFlags.or a x.2) AccFlags.none, []⟩

/-- PRACH (R292, R294). rsrp and sinr of its records are not stated: free. -/
def State.prachRun (s : State) (carrier mu slotStart d : Nat) : OpRes :=
  let b := slice d 24 6
  let N := Pr.n d
  let ant (a : Nat) := s.pairs16 b (slice d 0 24 + 4 * Pr.len d * a) (Pr.len d)
  let A := signedOf (slice d 94 10) 10
  let windows := (List.range (Pr.nWin d)).map (s.prachWindow d)
  let per := (List.range (Pr.nRoot d)).map fun r =>
    let seq := s.pairs16 b (slice d 64 24 + 4 * Pr.len d * r) (Pr.len d)
    let zs := (List.range (Pr.nAnt d)).map fun a => dftAll (((ant a).zip seq).map fun x => mulPair x.1 x.2) N true A 0 0xB
    (prachFind (profile (zs.map (·.1)) N) N (slice d 160 32) windows, zs.foldl (fun f z => AccFlags.or f z.2) AccFlags.none)
  let recs := (per.flatMap (·.1)).zipIdx.map fun x =>
    let ta : Int := ((x.1.2 * 1966080000 / (N * prachDf (Pr.df d) mu) : Nat) : Int)
    measRecord carrier 0 x.1.1 (slice d 288 32) ta (Config.freeNat (s.freeCtr + 2 * x.2) % 2 ^ 32)
      (Config.freeNat (s.freeCtr + 2 * x.2 + 1) % 2 ^ 32) ((slotStart + slice d 192 32) % 2 ^ 64)
  ⟨recs.zipIdx.map fun x => .dev (slice d 224 44 + 32 * x.2) x.1, per.foldl (fun a x => AccFlags.or a x.2) AccFlags.none, recs⟩

/-- DMRS_MEAS (R293, R294). `stamp`: the start of the measured symbol. -/
def State.dmrsRun (s : State) (carrier mu stamp d : Nat) : OpRes :=
  let b := slice d 24 6
  let N := Dm.n d
  let zs := (List.range (Dm.nAnt d)).map fun a =>
    dftAll (s.pairs16 b (slice d 0 24 + a * slice d 136 24) (Dm.nDmrs d)) N true (signedOf (slice d 80 10) 10) 0 0xB
  let (pk, rsrp, sinr) := dmrsFind (profile (zs.map (·.1)) N) N (Dm.W d) (Dm.nAnt d) (Dm.nDmrs d)
  let off : Int := match pk with
    | some n => if N - Dm.W d ≤ n then (n : Int) - N else n
    | none => ((Config.freeNat s.freeCtr % N : Nat) : Int)
  let ta := Int.tdiv (off * 2 ^ (17 - mu)) (N * Dm.s d)
  let fr (k : Nat) : Nat := Config.freeNat (s.freeCtr + k) % 2 ^ 32
  let rec_ := measRecord carrier 1 0 (slice d 160 32) ta (rsrp.getD (fr 1)) (sinr.getD (fr 2)) stamp
  ⟨[.dev (slice d 96 40) rec_], zs.foldl (fun a z => AccFlags.or a z.2) AccFlags.none, [rec_]⟩

end Sys2Proof.Machine
end

