-- ==== Sys2Proof/Machine/Det.lean ====
section
/-! DEFINITION. The step counter's register and the shadows of slices (R365, R371 to R376). -/
namespace Sys2Proof.Machine

/-- A write to DET_STEP acts only while the slice has no packet in flight (R365). -/
def State.detStepWrite (s : State) (sl v : Nat) : State :=
  if s.cmds.any fun c => c.slice == sl && c.ring < 1028 then s.info (unitHub 0) else s.setReg .detStep sl v

def execDetStepWrite (dt sl v : Nat) (s : State) : Host.Outcome State Fault Refusal :=
  enter (.detStepWrite dt sl v) dt s fun s => s.detStepWrite sl v

/-! ### SHADOW_COMPARE (R371, Table 17-3) -/

namespace Sh
def role (p : Nat) : Nat := slice p 0 2
def soleCopy (p : Nat) : Bool := bitAt p 2
def slice (p : Nat) : Nat := Sys2Proof.slice p 8 7
def peer (p : Nat) : Nat := Sys2Proof.slice p 16 12
def log2 (p : Nat) : Nat := Sys2Proof.slice p 32 5
def logAddr (p : Nat) : Nat := Sys2Proof.slice p 64 52
def fillCounter (p : Nat) : Nat := Sys2Proof.slice p 144 12
def fillExpected (p : Nat) : Nat := Sys2Proof.slice p 160 32
def timeout (p : Nat) : Nat := Sys2Proof.slice p 192 32
def fields : List (Nat × Nat) := [(0, 3), (8, 7), (16, 12), (32, 5), (64, 52), (128, 12), (144, 12), (160, 96)]
end Sh

/-- The parameters are well formed. -/
def State.shadowOk (s : State) (p : Nat) : Bool :=
  onlyFields p Sh.fields && Sh.role p != 3 && s.sliceActive (Sh.slice p) && decide (4 ≤ Sh.log2 p) && Sh.log2 p ≤ 16 &&
    (Sh.role p != 1 || (Sh.logAddr p % 32 == 0 && 98304 ≤ Sh.timeout p))

/-- A shadow starts; its slice's status shows it. -/
def State.shadowStart (s : State) (c : Cmd) (role : Nat) : State :=
  let p := c.params
  let sl := Sh.slice p
  if !s.shadowOk p || (s.shadow? sl).isSome then s.finishNow c stDescInvalid else
  let x : Shadow := {
    cmd := c.id, role := role, params := p, lastFill := (s.reg .aqdArrival (Sh.fillCounter p), c.start), lastRec := (0, 0)
    routeLost := none, pending := [], exports := [], stepSeen := [], badSteps := [], matchedSteps := 0, lossDue := false }
  let s := ((s.startRunning c.id).setShadow sl x).watchRoutes
  s.setReg .detShadowStatus sl (role + 4 * (if role = 2 then 1 else 0))

/-- The first SHADOW_COMPARE of ring `r` acts when it has one of these roles. -/
def State.shadowAct (s : State) (r : Nat) (roles : List Nat) (k : State → Cmd → State) : State :=
  s.forSome ((s.firstH r 0x38).filter fun c => roles.contains (Sh.role c.params)) k

def execShadowExport (dt r : Nat) (s : State) : Host.Outcome State Fault Refusal :=
  enter (.shadowExport dt r) dt s fun s => s.shadowAct r [0] fun s c => s.shadowStart c 1

def execShadowCompare (dt r : Nat) (s : State) : Host.Outcome State Fault Refusal :=
  enter (.shadowCompare dt r) dt s fun s => s.shadowAct r [1] fun s c => s.shadowStart c 2

/-- Role 2 ends the outstanding shadow; the reserved role is refused. -/
def execShadowEnd (dt r : Nat) (s : State) : Host.Outcome State Fault Refusal :=
  enter (.shadowEnd dt r) dt s fun s => s.shadowAct r [2, 3] fun s c =>
    let sl := Sh.slice c.params
    if !s.shadowOk c.params || (s.shadow? sl).isNone then s.finishNow c stDescInvalid
    else (s.endShadow sl stOk).finishNow c stOk

/-! ### Filling, comparing, losing the source (R373, R375, R376) -/

/-- The compare of a slice in this state. -/
def State.comparing (s : State) (sl st : Nat) : Option Shadow :=
  (s.shadow? sl).filter fun x => x.role == 2 && s.rd Fld.detShadowStatusState sl == st

/-- The counter of the state transfer has reached its expected value. -/
def State.filled (s : State) (x : Shadow) : Bool := Sh.fillExpected x.params ≤ s.reg .aqdArrival (Sh.fillCounter x.params)

def execShadowFillDone (dt sl : Nat) (s : State) : Host.Outcome State Fault Refusal :=
  enter (.shadowFillDone dt sl) dt s fun s =>
    s.forSome ((s.comparing sl 1).filter fun x => s.filled x) fun s x =>
      let s := if x.lastFill.2 + x.timeout ≤ s.now then s.bump Fld.timeoutRacesRaces 0 else s
      (s.wr Fld.detShadowStatusState sl 2).setShadow sl { x with lastRec := (x.lastRec.1, s.now) }

def execShadowPendingTimeout (dt sl : Nat) (s : State) : Host.Outcome State Fault Refusal :=
  enter (.shadowPendingTimeout dt sl) dt s fun s =>
    s.forSome (s.comparing sl 2) fun s x => s.forSome (x.pending.head?) fun s r =>
      s.whenever (r.since + x.timeout ≤ s.now) fun s => s.shadowUnmatched sl x r

/-- Rules 1 to 3 of R375. -/
def State.sourceLost (s : State) (sl : Nat) (x : Shadow) : Bool :=
  x.lossDue ||
  (match s.rd Fld.detShadowStatusState sl with
    | 1 => !s.filled x && decide (x.lastFill.2 + x.timeout ≤ s.now)
    | 2 => s.comparingLost x
    | _ => false) ||
  (match x.routeLost with | some t => decide (t + x.timeout ≤ s.now) | none => false)

/-- The source of the compare with parameters `p` is lost: a sole copy's partial state is discarded (R376). -/
def State.lossShown (s : State) (sl p : Nat) : State :=
  let s := s.wr Fld.detShadowStatusLost sl 1
  if Sh.soleCopy p then (if s.on Fld.sliceCtrlEnable sl then s.unbindStart sl else s).wr Fld.detShadowStatusDiscarded sl 1 else s

/-- The source of a compare is lost: its command completes, and a mismatch of the same edge is still recorded. -/
def State.loseSource (s : State) (sl : Nat) (x : Shadow) : State :=
  let s := s.endShadow sl stShadowSourceLost
  (s.setSliceSt sl { s.sliceSt sl with lostNow := some (s.time.count64, x) }).lossShown sl x.params

/-- A loss on the edge of a mismatch that has ended the compare: the compare's reply carries ST_SHADOW_SOURCE_LOST instead. -/
def State.turnMismatch (s : State) (sl : Nat) (m : Mismatch) : State :=
  let r := m.cmd.ring
  let s := match m.entry with
    | some h => s.hostWrite (s.hostSpace (ringSlice r)) (s.reg .cqBase r + 32 * h) (leBytes 2 stShadowSourceLost)
    | none =>
      let turn (w : Nat) : Nat :=
        if slice w 0 16 = stShadowMismatch ∧ slice w 32 32 = m.cmd.tag % 2 ^ 32 then putBits w 0 16 stShadowSourceLost else w
      s.setRing r { s.ring r with held := (s.ring r).held.map turn }
  let s := if s.on Fld.ringStatusHalted r && s.rd Fld.ringStatusHaltCode r == stShadowMismatch then s.haltRing r stShadowSourceLost else s
  (s.setSliceSt sl { s.sliceSt sl with mismatch := none }).lossShown sl m.cmd.params

def execSourceLost (dt sl : Nat) (s : State) : Host.Outcome State Fault Refusal :=
  enter (.sourceLost dt sl) dt s fun s =>
    s.forSome ((s.shadow? sl).filter fun x => x.role == 2 && s.sourceLost sl x) fun s x => s.loseSource sl x

/-- A write of DET_SHADOW_CMD (R375 rule 4). -/
def State.shadowCmdWrite (s : State) (sl v : Nat) : State :=
  if v % 2 = 0 then s else
  match (s.shadow? sl).filter (·.role == 2) with
  | some x => s.loseSource sl x
  | none => s.forSome ((s.sliceSt sl).mismatch.filter (·.at_ == s.time.count64)) fun s m => s.turnMismatch sl m

def execSourceLostCmd (dt sl v : Nat) (s : State) : Host.Outcome State Fault Refusal :=
  enter (.sourceLostCmd dt sl v) dt s fun s => s.shadowCmdWrite sl v

end Sys2Proof.Machine
end

