-- ==== Sys2Proof/Machine/Ptp.lean ====
section
/-! DEFINITION. PTP: times and their conversions (R304), frames and their fields, insertions (R310, R318, R319). Frame layouts
are those of IEEE 802.3 and IEEE 1588, which the manual names (PRESUMED, log entry 31). -/
namespace Sys2Proof.Machine

/-! ### Conversions (R304) -/

/-- rne_div: a / b to the nearest integer, ties to the even one. -/
def rneDiv (a b : Nat) : Nat :=
  let q := a / b
  let r := a - q * b
  if b < 2 * r ∨ (2 * r = b ∧ q % 2 = 1) then q + 1 else q

/-- A value of 1/64 counts in units of 2^-16 ns. -/
def ptpUnits (c : Nat) : Nat := rneDiv (c * 3125) 3

/-- to_ptp: seconds, nanoseconds, fraction. -/
def toPtp (c : Nat) : Nat × Nat × Nat :=
  let T := ptpUnits c
  (T / 2 ^ 16 / 10 ^ 9, T / 2 ^ 16 % 10 ^ 9, T % 2 ^ 16)

/-- from_ptp. -/
def fromPtp (sec ns frac : Nat) : Nat := ((sec * 10 ^ 9 + ns) * 2 ^ 16 + frac) * 3 / 3125

/-- Residence time between two stamps in 1/64 counts, in units of 2^-16 ns (R319). -/
def residence (i e : Nat) : Nat := rneDiv ((e - i) * 3125) 3

/-! ### Ethernet frames -/

/-- Bytes as a big-endian number, and a number as `n` bytes. -/
def beNat (l : List Byte) : Nat := l.foldl (fun a b => a * 256 + b.toNat) 0
def beBytes (n v : Nat) : List Byte := (leBytes n v).reverse

/-- `n` bytes of a frame from `at_`, as a big-endian number. -/
def frameNat (f : List Byte) (at_ n : Nat) : Nat := beNat ((f.drop at_).take n)

/-- Replace the bytes of a frame from `at_`. -/
def framePut (f : List Byte) (at_ : Nat) (bs : List Byte) : List Byte := f.take at_ ++ bs ++ f.drop (at_ + bs.length)

/-- The tag control field of a frame with one VLAN tag. -/
def frameTag (f : List Byte) : Option Nat := if frameNat f 12 2 = 0x8100 then some (frameNat f 14 2) else none

/-- EtherType behind at most one tag, and where the payload begins. -/
def frameType (f : List Byte) : Nat := if (frameTag f).isSome then frameNat f 16 2 else frameNat f 12 2
def frameBody (f : List Byte) : Nat := if (frameTag f).isSome then 18 else 14

/-- Destination address. -/
def frameDst (f : List Byte) : Nat := frameNat f 0 6

/-! ### PTP messages -/

/-- A PTP frame. -/
def isPtp (f : List Byte) : Bool := frameType f == 0x88F7

/-- messageType: 0 Sync, 1 Delay_Req, 2 Pdelay_Req, 3 Pdelay_Resp, 8 Follow_Up, 9 Delay_Resp. -/
def ptpType (f : List Byte) : Nat := frameNat f (frameBody f) 1 % 16
/-- `n` bytes of the message from `at_`. -/
def ptpNat (f : List Byte) (at_ n : Nat) : Nat := frameNat f (frameBody f + at_) n
def ptpDomain (f : List Byte) : Nat := ptpNat f 4 1
def ptpTwoStep (f : List Byte) : Bool := bitAt (ptpNat f 6 1) 1
def ptpCorr (f : List Byte) : Int := signedOf (ptpNat f 8 8) 64
/-- sourcePortIdentity: clockIdentity and portNumber. -/
def ptpSource (f : List Byte) : Nat × Nat := (ptpNat f 20 8, ptpNat f 28 2)
def ptpSeq (f : List Byte) : Nat := ptpNat f 30 2
/-- The timestamp of the body in units of 2^-16 ns. -/
def ptpStamp (f : List Byte) : Int := ((ptpNat f 34 6 * 10 ^ 9 + ptpNat f 40 4) * 2 ^ 16 : Nat)
/-- requestingPortIdentity of a Delay_Resp. -/
def ptpRequester (f : List Byte) : Nat × Nat := (ptpNat f 44 8, ptpNat f 52 2)

/-- An event message (R319). -/
def ptpEvent (f : List Byte) : Bool := isPtp f && ptpType f < 4

/-- The two destination addresses of R311. -/
def ptpAddress (sel : Nat) : Nat := if sel = 0 then 0x011B19000000 else 0x0180C200000E

/-- A message header: type, length, domain, correction, source, sequenceId, control, interval. -/
def ptpHeader (ty len domain : Nat) (corr : Int) (src : Nat × Nat) (seq control interval : Nat) : List Byte :=
  beBytes 1 ty ++ beBytes 1 2 ++ beBytes 2 len ++ beBytes 1 domain ++ beBytes 3 0 ++ beBytes 8 (unsignedOf corr 64) ++ beBytes 4 0 ++
    beBytes 8 src.1 ++ beBytes 2 src.2 ++ beBytes 2 seq ++ beBytes 1 control ++ beBytes 1 interval

/-- A frame without its FCS around a message: `src` stands for the port's own address. -/
def ptpFrame (dst : Nat) (src : List Byte) (m : List Byte) : List Byte :=
  let f := beBytes 6 dst ++ src ++ beBytes 2 0x88F7 ++ m
  f ++ List.replicate (60 - f.length) 0

/-- Add to the correctionField. -/
def ptpAddCorr (f : List Byte) (d : Int) : List Byte :=
  framePut f (frameBody f + 8) (beBytes 8 (unsignedOf (ptpCorr f + d) 64))

/-- Write a timestamp at byte 34 of the message. -/
def ptpPutStamp (f : List Byte) (sec ns : Nat) : List Byte := framePut f (frameBody f + 34) (beBytes 6 sec ++ beBytes 4 ns)

/-- One-step insertion of egress stamp `e` (R318). -/
def oneStep (f : List Byte) (e : Nat) : List Byte :=
  let t := toPtp e
  ptpAddCorr (ptpPutStamp f t.1 t.2.1) t.2.2

/-! ### Stamps (R310) -/

/-- The ingress stamp of a frame whose time-stamp point passes the balls of port `p` now: PP_LAT against its calibration. -/
def State.ingressStamp (s : State) (p : Nat) : Nat := s.time.count64 + Config.calLat p % 65536 - s.rd Fld.ppLatIngressLat p
/-- The egress stamp. -/
def State.egressStamp (s : State) (p : Nat) : Nat := s.time.count64 + s.rd Fld.ppLatEgressLat p - slice (Config.calLat p) 16 16

/-- Six bytes that stand for the port's own address, which the manual does not give. -/
def State.ownAddress (s : State) : List Byte × State :=
  ((List.range 6).map fun i => Config.freeByte s.freeCtr i, { s with freeCtr := s.freeCtr + 1 })

end Sys2Proof.Machine
end

