-- ==== Sys2Proof/Machine/EthQueue.lean ====
section
/-! DEFINITION. Egress class queues (R324, R327 to R330): lengths, markers, stamps, and how frames reach them. -/
namespace Sys2Proof.Machine

/-! ### Lengths (R328) -/

/-- Bytes of a frame from the destination address through the FCS. -/
def frameLen (f : List Byte) : Nat := f.length + 4
/-- The length B of a frame on port `p`. -/
def State.frameCost (s : State) (p : Nat) (f : List Byte) : Nat := frameLen f + s.rd Fld.ethOverheadOverhead p
/-- tx(B) in counts. -/
def txCounts (b : Nat) : Nat := ceilDiv (b * 768) 78125

/-- The port carries frames: enabled (ETH_CTRL), its link up, not fenced. -/
def State.portUp (s : State) (p : Nat) : Bool := s.on Fld.ethCtrlEnable p && s.on Fld.ethStatusLinkUp p && !s.on Fld.ethStatusFenced p

/-- Index of a class of a port in the TC registers. -/
def tcIdx (p k : Nat) : Nat := 8 * p + k

/-- Bytes that class queue `k` of port `p` holds. -/
def State.queueBytes (s : State) (p k : Nat) : Nat :=
  ((s.ethPort p).queue.filter (·.cls == k)).foldl (fun a f => a + frameLen f.frame) 0

/-- The class queue has room for a frame. -/
def State.queueRoom (s : State) (p k : Nat) (f : List Byte) : Bool := s.queueBytes p k + frameLen f ≤ s.rd Fld.tcQlimitQlimit (tcIdx p k)

/-! ### Markers (R329) -/

def EthSt.mark (x : EthSt) (k : Nat) : TcMark := Tbl.get {} x.marks k

/-- The rates and sizes written since the last refill come into force; the buckets stay within them. -/
def State.tcRates (s : State) (p k : Nat) (m : TcMark) : TcMark :=
  let i := tcIdx p k
  let cbs := s.reg .tcCbs i
  let pbs := s.reg .tcPbs i
  ⟨min cbs m.tc, min pbs m.tp, s.reg .tcCir i, s.reg .tcPir i, cbs, pbs⟩

def State.setMark (s : State) (p k : Nat) (m : TcMark) : State :=
  let x := s.ethPort p
  s.setEth p { x with marks := Tbl.set {} x.marks k m }

/-- Both buckets of a class refill. -/
def State.tcRefill (s : State) (p k : Nat) : State :=
  let m := s.tcRates p k ((s.ethPort p).mark k)
  s.setMark p k { m with tc := min m.cbs (m.tc + m.cir), tp := min m.pbs (m.tp + m.pir) }

/-- Both buckets of a class are full, at the sizes last written: its marker is enabled (R255). -/
def State.tcFill (s : State) (p k : Nat) : State :=
  let m := s.tcRates p k ((s.ethPort p).mark k)
  s.setMark p k { m with tc := m.cbs, tp := m.pbs }

/-- mark: 0 red, 1 yellow, 2 green. -/
def State.tcMark (s : State) (p k B : Nat) (yellow : Bool) : Nat × State :=
  let m := (s.ethPort p).mark k
  let bc := min B m.cbs
  let bp := min B m.pbs
  if m.tp < bp then (0, s)
  else if (s.on Fld.tcCfgColourAware (tcIdx p k) && yellow) || m.tc < bc then (1, s.setMark p k { m with tp := m.tp - bp })
  else (2, s.setMark p k { m with tp := m.tp - bp, tc := m.tc - bc })

/-! ### Stamps (R330) -/

/-- A frame enters its class queue with this colour. -/
def State.enqueue (s : State) (p : Nat) (f : EFrame) (green : Bool) : State :=
  let x := s.ethPort p
  let i := tcIdx p f.cls
  let w := s.rd Fld.tcCfgWeight i
  let fl := if x.flast.isEmpty then List.replicate 8 0 else x.flast
  let F := (stampMax (x.v.getD (s.rd Fld.tcCfgTier i) 0) (fl.getD f.cls 0) + ceilDiv (s.frameCost p f.frame * 65536) w) % 2 ^ 64
  s.setEth p { x with queue := x.queue ++ [{ f with green := green, stamp := F }], flast := setAt fl f.cls F }

/-! ### Sources (R327) -/

/-- Device-originated frames that wait at their sources enter their queues while these have room; a frame that reaches the
queues of a port that is down is discarded. -/
def State.pumpFrom (s : State) (p : Nat) : List EFrame → List Nat → State
  | [], _ => s
  | f :: l, blocked =>
    let s' := s.setEth p { s.ethPort p with source := (s.ethPort p).source.erase f }
    if blocked.contains f.cls then State.pumpFrom s p l blocked
    else if !s.portUp p then State.pumpFrom (s'.bump Fld.txDiscardCount p) p l blocked
    else if s.queueRoom p f.cls f.frame then State.pumpFrom (s'.enqueue p f true) p l blocked
    else State.pumpFrom s p l (f.cls :: blocked)

def State.pump (s : State) (p : Nat) : State := s.pumpFrom p (s.ethPort p).source []

/-- A frame with zeros at its end up to the 64 bytes, FCS included, that a frame has at least (R324). -/
def padFrame (f : List Byte) : List Byte := f ++ List.replicate (60 - f.length) 0

/-- A frame that the device originates reaches its class queue, or waits at its source. -/
def State.originate (s : State) (p cls kind : Nat) (frame : List Byte) : State :=
  let x := s.ethPort p
  (s.setEth p { x with source := x.source ++ [⟨padFrame frame, cls, true, 0, 0, kind, false, none⟩] }).pump p

end Sys2Proof.Machine
end

