-- ==== Sys2Proof/Machine/Fronthaul.lean ====
section
/-! DEFINITION. Carriers, the fronthaul intake and emission paths, and the basins that the radio holds (R275 to R281, R296). -/
namespace Sys2Proof.Machine

/-! ### Numerologies and carriers (R275, R276) -/

/-- A slot in counts, and the offset of symbol `n` of a subframe. -/
def slotLen (mu : Nat) : Nat := 983040 / 2 ^ mu
def symOffset (mu n : Nat) : Nat := n * 70144 / 2 ^ mu + 512 * (if n = 0 then 0 else if n ≤ 7 * 2 ^ mu then 1 else 2)

def State.carMu (s : State) (c : Nat) : Nat := s.rd Fld.carCtrlMu c
def State.carSlot (s : State) (c : Nat) : Nat := slotLen (s.carMu c)

/-- The count at which symbol `l` of slot `k` of carrier `c` starts. -/
def State.symStart (s : State) (c k l : Nat) : Nat :=
  let m := 2 ^ s.carMu c
  s.reg .carSlotBase c + k / m * 983040 + symOffset (s.carMu c) (14 * (k % m) + l)

/-- The largest carrier of a numerology in PRB (Table 13-1). -/
def largestPrb (mu : Nat) : Nat := match mu with | 0 => 270 | 1 => 273 | _ => 264

def State.nAnt (s : State) (c : Nat) : Nat := s.rd Fld.carCtrlNAntM1 c + 1
/-- Bytes between the buffers of two antennas (R277). -/
def antStride (nPrb : Nat) : Nat := 64 * ceilDiv (nPrb * 48) 64
/-- Antennas in one intake basin. -/
def State.antPer (s : State) (c : Nat) : Nat := ceilDiv (s.nAnt c) (s.rd Fld.carCtrlUlBasins c)

/-- The carrier's buffers of `n` antennas from `addr` lie in basin `b`, as the radio holds it. -/
def State.carBufOk (s : State) (c b addr n : Nat) : Bool :=
  b < 64 && s.placeOk (.cist b addr ((s.rd Fld.carCtrlRingSyms c - 1) * s.rd Fld.carBufSymStride c + n * antStride (s.rd Fld.carPrbNPrb c)))

/-- The conditions of R276, on the fields as the write would leave them. -/
def State.carrierOk (s : State) (c : Nat) : Bool :=
  s.rd Fld.carPrbNPrb c ≤ largestPrb (s.carMu c) &&
    (List.range (s.rd Fld.carCtrlUlBasins c)).all (fun i => s.carBufOk c (s.rd Fld.carUlUlBasin c + i) (s.rd Fld.carUlUlAddr c) (s.antPer c)) &&
    s.carBufOk c (s.rd Fld.carDlDlBasin c) (s.rd Fld.carDlDlAddr c) (s.nAnt c) &&
    s.nAnt c * antStride (s.rd Fld.carPrbNPrb c) ≤ s.rd Fld.carBufSymStride c

/-- A write of CAR_CTRL. -/
def State.carrierWrite (s : State) (c v : Nat) : State :=
  let s' := s.setReg .carCtrl c (v % 2 ^ 25)
  if v % 2 = 0 || s'.carrierOk c then s' else s.info (unitHub 3)

def execCarrierEnable (dt c v : Nat) (s : State) : Host.Outcome State Fault Refusal :=
  enter (.carrierEnable dt c v) dt s fun s => s.carrierWrite c v

/-- The migration of carrier `c` with this role. -/
def State.migration (s : State) (c : Nat) (dest : Bool) : Option Migration :=
  s.radio.migrations.find? fun m => m.carrier == c && m.dest == dest

/-- Intake and emission of carrier `c` run: CAR_STATUS.active (R276, R301, R302). -/
def State.carServes (s : State) (c : Nat) : Bool :=
  s.on Fld.carCtrlEnable c && !s.on Fld.carStatusMigratedOut c &&
    (!s.on Fld.carStatusMigratingIn c || match s.migration c true with
      | some m => m.switch + 2 * s.carSlot c ≤ s.now
      | none => false)

/-! ### Intake (R277, R298) -/

/-- The basin that serves operations of basin `b`. -/
def State.serving (s : State) (b : Nat) : Nat :=
  if s.on Fld.radioProtectTakenOver b then s.rd Fld.radioProtectAlias b else b

/-- A fronthaul write to a basin, and to the standby of a protected one. -/
def State.intakeWrite (s : State) (b a : Nat) (bs : List Byte) : State :=
  let one (s : State) (b : Nat) : State :=
    let (s, hit) := s.touch b false a bs.length true
    if hit then s.cFree b a bs.length else (s.cWrite b a bs).1
  let s := one s b
  if s.on Fld.radioProtectValid b then one s (s.rd Fld.radioProtectStandby b) else s

/-- Basin and address of antenna `a`, symbol `l` of the intake buffer. -/
def State.ulPlace (s : State) (c a l : Nat) : Nat × Nat :=
  let per := s.antPer c
  (s.rd Fld.carUlUlBasin c + a / per,
   s.rd Fld.carUlUlAddr c + l % s.rd Fld.carCtrlRingSyms c * s.rd Fld.carBufSymStride c + a % per * antStride (s.rd Fld.carPrbNPrb c))

/-- The key of symbol `l` of slot `k` of carrier `c`. -/
def symKey (c k l : Nat) : Nat := c * 2 ^ 80 + 14 * k + l

/-- Entries of `covered` that are no PRB: a closed symbol, an emitted one. -/
def closedMark : Nat := 1024
def emittedMark : Nat := 1025

/-- The slot that a packet names, when its arrival stamp, in 1/64 counts, lies in its symbol's receive window. -/
def State.sectionSlot (s : State) (p : UPlane) (stamp : Nat) : Option Nat :=
  let m := 2 ^ s.carMu p.car
  let k0 := (stamp / 64 - s.reg .carSlotBase p.car) / s.carSlot p.car
  if m ≤ p.slot then none else
  [k0 - 1, k0, k0 + 1].find? fun k =>
    k % (2560 * m) == (p.frame * 10 + p.sub) * m + p.slot &&
      64 * (s.symStart p.car k p.sym + s.rd Fld.carWinWinOpen p.car) ≤ stamp &&
      stamp < 64 * (s.symStart p.car k p.sym + s.rd Fld.carWinWinClose p.car)

/-- The section is well formed for its carrier. -/
def State.sectionOk (s : State) (c : Nat) (p : Section) : Bool :=
  ((p.method == 0 && p.width == 16) || (p.method == 1 && 8 ≤ p.width)) && p.start + p.prbs.length ≤ s.rd Fld.carPrbNPrb c

/-- The packet is one of its carrier, and so are all its sections. -/
def State.uplaneOk (s : State) (p : UPlane) : Bool :=
  s.rd Fld.carPrbEaxcBase p.car ≤ p.eaxc && p.eaxc < s.rd Fld.carPrbEaxcBase p.car + s.nAnt p.car && p.sections.all (s.sectionOk p.car)

/-- One PRB as 24 FP16 values. -/
def prbBytes (shift : Nat) (method : Nat) (q : Nat × List Int) : List Byte :=
  q.2.flatMap fun m => leBytes 2 (rnd (.num m ((if method = 0 then 0 else (q.1 : Int)) - shift)) 0xA true).1

/-- Section `q` of packet `p`, for slot `k`, is written. -/
def State.sectionWrite (s : State) (p : UPlane) (q : Section) (k : Nat) : State :=
  let a := p.eaxc - s.rd Fld.carPrbEaxcBase p.car
  let at_ := s.ulPlace p.car a p.sym
  let s := s.intakeWrite at_.1 (at_.2 + 48 * q.start) (q.prbs.flatMap (prbBytes (s.rd Fld.carShiftUlShift p.car) q.method))
  let new := ((List.range q.prbs.length).map fun i => (symKey p.car k p.sym, a, q.start + i)).filter fun x => !s.radio.covered.contains x
  { s with radio := { s.radio with covered := s.radio.covered ++ new } }

/-- The intake takes a packet with this arrival stamp: all of its sections are written, or it is counted and nothing is. -/
def State.intake (s : State) (p : UPlane) (stamp : Nat) : State :=
  s.whenever (s.carServes p.car && !s.safe) fun s =>
    match s.sectionSlot p stamp, s.uplaneOk p with
    | some k, true => s.each p.sections fun s q => s.sectionWrite p q k
    | _, _ => s.bumpSat Fld.carDroppedDropped p.car

def execUplaneSection (dt : Nat) (p : UPlane) (s : State) : Host.Outcome State Fault Refusal :=
  enter (.uplaneSection dt p) dt s fun s => s.intake p (s.ingressStamp p.port)

/-! ### Received U-plane frames (Table 13-2) -/

/-- Signed numbers of `w` bits, packed with the most significant bit first: `n` of them from bit `i` of the value `v` of `len`
bits. -/
def unpackNums (v len w : Nat) (n i : Nat) : List Int :=
  (List.range n).map fun k => signedOf (slice v (len - i - w * (k + 1)) w) w

/-- Bytes of one PRB: a method other than 0 puts a byte with the exponent before the mantissas. -/
def prbLen (method w : Nat) : Nat := 3 * w + (if method = 0 then 0 else 1)

/-- One PRB from its bytes. -/
def prbOf (method w : Nat) (bs : List Byte) : Nat × List Int :=
  let v := beNat bs
  let len := 8 * bs.length
  if method = 0 then (0, unpackNums v len w 24 0) else (slice v (len - 8) 4, unpackNums v len w 24 8)

/-- The sections of a packet's payload, in the layout of `uplaneFrame`; at most `fuel` of them. A number of PRBs of 0 stands for
all of the carrier's, an iqWidth of 0 for 16. A section that runs past the payload has no legal method, so that the packet is
dropped (DESIGN CHOICE, log entry 30). -/
def sectionsOf (nPrb : Nat) : Nat → List Byte → List Section
  | 0, _ => []
  | fuel + 1, bs =>
    if bs.isEmpty then [] else
    let h := beNat (bs.take 6)
    let n := if slice h 16 8 = 0 then nPrb else slice h 16 8
    let w := if slice h 12 4 = 0 then 16 else slice h 12 4
    let len := prbLen (slice h 8 4) w
    if bs.length < 6 + n * len ∨ 1 < slice h 8 4 then [⟨15, 16, 0, []⟩] else
    ⟨slice h 8 4, w, slice h 24 10, (List.range n).map fun i => prbOf (slice h 8 4) w ((bs.drop (6 + i * len)).take len)⟩ ::
      sectionsOf nPrb fuel (bs.drop (6 + n * len))

/-- The U-plane packet in a frame of message type 0 of carrier `c`, received by port `p`. -/
def State.uplaneOf (s : State) (c p : Nat) (f : List Byte) : UPlane :=
  let b := frameBody f
  let n := frameNat f (b + 2) 2
  let h := frameNat f (b + 8) 4
  ⟨c, p, frameNat f (b + 4) 2, slice h 16 8, slice h 12 4, slice h 6 6, slice h 0 6,
    sectionsOf (s.rd Fld.carPrbNPrb c) f.length ((f.drop (b + 12)).take (n - 8))⟩

/-- A symbol key of the same carrier that is marked with `mark` and not older than `key`. -/
def State.markedFrom (s : State) (key mark : Nat) : Bool :=
  s.radio.covered.any fun x => x.2.1 == mark && x.1 / 2 ^ 80 == key / 2 ^ 80 && key ≤ x.1

/-- Mark a symbol; older marks of the carrier, and with `all` the coverage of the symbol, are dropped. -/
def State.markSymbol (s : State) (key mark : Nat) : State :=
  let keep (x : Nat × Nat × Nat) : Bool :=
    !(x.2.1 == mark && x.1 / 2 ^ 80 == key / 2 ^ 80) && !(mark == closedMark && x.1 == key && x.2.1 < closedMark)
  { s with radio := { s.radio with covered := s.radio.covered.filter keep ++ [(key, mark, 0)] } }

/-- The window of a symbol closes: what no section covered takes +0. -/
def State.windowClosed (s : State) (c k l : Nat) : State :=
  let key := symKey c k l
  let gaps := (List.range (s.nAnt c)).flatMap fun a =>
    ((List.range (s.rd Fld.carPrbNPrb c)).filter fun q => !s.radio.covered.contains (key, a, q)).map fun q => (a, q)
  let s := s.each gaps fun s g =>
    let at_ := s.ulPlace c g.1 l
    s.intakeWrite at_.1 (at_.2 + 48 * g.2) (List.replicate 48 0)
  (if gaps.isEmpty then s else s.bumpSat Fld.carGapsGaps c).markSymbol key closedMark

def execReceiveWindowClose (dt c slot sym : Nat) (s : State) : Host.Outcome State Fault Refusal :=
  enter (.receiveWindowClose dt c slot sym) dt s fun s =>
    s.whenever (s.carServes c && !s.safe && s.symStart c slot sym + s.rd Fld.carWinWinClose c ≤ s.now && !s.markedFrom (symKey c slot sym) closedMark)
      fun s => s.windowClosed c slot sym

/-! ### Emission (R278, R279) -/

/-- The fronthaul counter of an eAxC ID (U-plane: 65,536 + ID): its next seqId. -/
def State.nextSeq (s : State) (id : Nat) : Nat × State :=
  let v := Tbl.get 0 s.radio.seqIds id
  (v, { s with radio := { s.radio with seqIds := Tbl.set 0 s.radio.seqIds id ((v + 1) % 256) } })

/-- rne(v x 2^(shift - x)) of an FP16 encoding; an infinity counts as the first value outside [-lim, lim - 1]; none for a
NaN. -/
def mantissa (v shift x : Nat) (lim : Int) : Option Int :=
  match valOf 0xA v with
  | .num m e =>
    let r : Int := rneShift m.natAbs (e + shift - x)
    some (if m < 0 then -r else r)
  | .inf neg => some (if neg then -lim - 1 else lim)
  | .nan => none

/-- Block floating point of a PRB (R278): exponent and mantissas of width `w`. An infinity and a NaN lie in no range, so x is
15; an infinity saturates, a NaN has no stated mantissa: a free one. -/
def compressPrb (vs : List Nat) (shift w tag : Nat) : Nat × List Int :=
  let lim : Int := 2 ^ (w - 1)
  let fits (x : Nat) : Bool := vs.all fun v => match mantissa v shift x lim with | some m => -lim ≤ m && m < lim | none => false
  let x := ((List.range 16).find? fits).getD 15
  (x, vs.zipIdx.map fun v => match mantissa v.1 shift x lim with
    | some m => max (-lim) (min (lim - 1) m)
    | none => (Config.freeNat (tag + v.2) % 2 ^ w : Nat) - lim)

/-- Numbers of `w` bits packed, the most significant bit first. -/
def packNums (w : Nat) (l : List Int) : List Byte := packBits (l.flatMap fun v => numBits (unsignedOf v w) w)

/-- PRBs in one frame at iqWidth `w`: all `nPrb` where a frame of 9,216 bytes holds them (R324), else as many as it holds and the
header's 8-bit number of PRBs can say (DESIGN CHOICE, log entry 30). -/
def framePrbs (nPrb w : Nat) : Nat :=
  let room := (9216 - 4 - 32) / prbLen 1 w
  if nPrb ≤ room then nPrb else min 255 room

/-- A downlink U-plane frame of `prbs`, from PRB `first`, of one antenna and symbol: the layout is O-RAN's (PRESUMED, log entry
30); addresses are free. -/
def uplaneFrame (addrs : List Byte) (eaxc seq frame sub slot sym first w : Nat) (prbs : List (Nat × List Int)) : List Byte :=
  let body := beBytes 4 (0x90 * 2 ^ 24 + frame % 256 * 2 ^ 16 + sub * 2 ^ 12 + slot * 2 ^ 6 + sym) ++
    beBytes 6 (first * 2 ^ 24 + (if 255 < prbs.length then 0 else prbs.length) * 2 ^ 16 + w % 16 * 2 ^ 12 + 2 ^ 8) ++
    prbs.flatMap fun q => BitVec.ofNat 8 q.1 :: packNums w q.2
  addrs ++ beBytes 2 0xAEFE ++ beBytes 4 (0x10 * 2 ^ 24 + (body.length + 4)) ++ beBytes 2 eaxc ++ beBytes 2 (seq * 256 + 0x80) ++ body

/-- The emission path sends symbol `l` of slot `k`: the frames of each antenna. A standby serves the buffer of its basin. -/
def State.emitSymbol (s : State) (c k l : Nat) : State :=
  let b := s.serving (s.rd Fld.carDlDlBasin c)
  let nPrb := s.rd Fld.carPrbNPrb c
  let base := s.rd Fld.carDlDlAddr c + l % s.rd Fld.carCtrlRingSyms c * s.rd Fld.carBufSymStride c
  let m := 2 ^ s.carMu c
  s.each (List.range (s.nAnt c)) fun s a =>
    let at_ := base + a * antStride nPrb
    let s := s.eccRead b ⟨.cistern, at_, 48 * nPrb⟩
    let tag := s.freeCtr
    let bad := s.badC b at_ (48 * nPrb)
    let s := { s with freeCtr := tag + 2 }
    let prbs := (List.range nPrb).map fun q =>
      let vs := (List.range 24).map fun i =>
        if bad then Config.freeNat (tag + 24 * q + i) % 65536 else s.cNat b (at_ + 48 * q + 2 * i) 2
      compressPrb vs (s.rd Fld.carShiftDlShift c) (s.rd Fld.carCtrlIqWidth c) (tag + 24 * q)
    let id := s.rd Fld.carPrbEaxcBase c + a
    let addrs := (List.range 12).map fun i => Config.freeByte tag i
    let w := s.rd Fld.carCtrlIqWidth c
    let per := framePrbs nPrb w
    s.each (List.range (ceilDiv nPrb per)) fun s i =>
      let (seq, s) := s.nextSeq (65536 + id)
      s.originate (s.rd Fld.carCtrlEthPort c) (s.rd Fld.ethSrcTcUplaneTc (s.rd Fld.carCtrlEthPort c)) 0
        (uplaneFrame addrs id seq (k / (10 * m)) (k / m % 10) (k % m) l (per * i) w ((prbs.drop (per * i)).take per))

def execDlSymbolEmission (dt c slot sym : Nat) (s : State) : Host.Outcome State Fault Refusal :=
  enter (.dlSymbolEmission dt c slot sym) dt s fun s =>
    s.whenever (s.carServes c && !s.safe && s.symStart c slot sym ≤ s.now + s.rd Fld.carShiftDlAdvance c && !s.markedFrom (symKey c slot sym) emittedMark)
      fun s => (s.emitSymbol c slot sym).markSymbol (symKey c slot sym) emittedMark

/-! ### Basins held by the radio (R280), RADIO_CTRL (R296) -/

/-- An admitted operation names basin `b`. -/
def State.opNames (s : State) (b : Nat) : Bool :=
  s.radio.plans.any fun p => p.ops.any fun o =>
    ((o.kind == 8 || o.kind == 9) && o.inst == b) ||
      (1 ≤ o.kind && o.kind ≤ 7 && (s.wellReads o.kind o.params ++ s.wellWrites o.kind o.params).any fun x => match x with
        | .cist b' _ _ => b' == b
        | .dev _ _ => false)

/-- Basin `b` may become reserved, or be released. -/
def State.mayReserve (s : State) (b : Nat) : Bool :=
  s.idle b && !s.gated b && !s.fencedBasin b && ((List.range 128).all fun sl => sl == 0 || !s.assigned sl b) && !s.gateListed b
def State.mayRelease (s : State) (b : Nat) : Bool :=
  !s.opNames b && !s.regBit .radioStandby 0 b && !s.on Fld.radioProtectValid b

/-- A basin changes between the radio and its tenants: it is cleared and zeroed as R241 states. -/
def State.reserveBasin (s : State) (b : Nat) (v : Bool) : State :=
  let s := (s.setRegBit .radioReserved 0 b v).wr Fld.basinStateRadioReserved b (nat1 v)
  let s := s.setBasin b { s.basin b with tenant := 0, gateReq := false }
  ((s.ownerChanged b).clearEngines b).beginZero b 4 (s.zeroUnits b true) 0

/-- A write of RADIO_RESERVED. -/
def State.reservedWrite (s : State) (v : Nat) : State :=
  let sets := (List.range 64).filter fun b => bitAt v b && !s.regBit .radioReserved 0 b
  let clears := (List.range 64).filter fun b => !bitAt v b && s.regBit .radioReserved 0 b
  if sets.all s.mayReserve && clears.all s.mayRelease then
    ((s.each sets fun s b => s.reserveBasin b true).each clears fun s b => s.reserveBasin b false).protectNow s sets
  else s.info (unitHub 3)

def execRadioReservedWrite (dt v : Nat) (s : State) : Host.Outcome State Fault Refusal :=
  enter (.radioReservedWrite dt v) dt s fun s => s.reservedWrite v

/-- The HARQ region lies in HBM, in slice 0's enabled ranges. A HARQ_SIZE above 12,288 units, of which the manual says nothing, is
taken as a region of that size (DESIGN CHOICE, log entry 42). -/
def State.harqRegionOk (s : State) : Bool :=
  let n := s.rd Fld.harqSizeSize * 2 ^ 21
  let a := s.rd Fld.harqBaseBase
  n == 0 || (isHbm (a + n - 1) && s.inRanges 0 a n)

/-- A write of RADIO_CTRL. -/
def State.radioCtrlWrite (s : State) (v : Nat) : State :=
  if v % 2 = 1 ∧ !s.harqRegionOk then s.info (unitHub 3)
  else s.wr Fld.radioCtrlEnable 0 v

def execRadioEnable (dt v : Nat) (s : State) : Host.Outcome State Fault Refusal :=
  enter (.radioEnable dt v) dt s fun s => s.radioCtrlWrite v

end Sys2Proof.Machine
end

