-- ==== Sys2Proof/Machine/Time.lean ====
section
/-! DEFINITION. The timing block (chapter 14): trackers, servo, SyncE, master ports, outputs, capture inputs, launches. -/
namespace Sys2Proof.Machine

/-! ### Rates and states (R307 to R309, R314) -/

/-- A rate within RATE_MAX; a RATE_MAX above 32,767, which the field may not hold, counts as 32,767 (DEDUCED, log entry 44: the
range of rate, R307). -/
def State.clampRate (s : State) (r : Int) : Int :=
  let m : Int := min (s.rd Fld.timeRateMaxRateMax) 32767 * 65536
  max (-m) (min m r)

/-- Signed registers; the rate stays within RATE_MAX. -/
def State.rate (s : State) : Int := signedOf (s.reg .timeRate) 32
def State.rateI (s : State) : Int := signedOf (s.reg .timeRateI) 32
def State.setRate (s : State) (r : Int) : State := s.setReg .timeRate 0 (unsignedOf (s.clampRate r) 32)
def State.setRateI (s : State) (r : Int) : State := s.setReg .timeRateI 0 (unsignedOf r 32)

/-- asr: rounds toward minus infinity. -/
def asr (x : Int) (k : Nat) : Int := Int.fdiv x (2 ^ k)

/-- The step of a measurement: -theta, toward zero to 1/64 count (R309). -/
def stepSize (theta : Int) : Int := -Int.tdiv (theta * 3) 3125

/-- The count steps. The event's syndrome is the step in 1/64 counts, signed (DESIGN CHOICE, log entry 44: R309 gives it no
form). -/
def State.stepCount (s : State) (theta : Int) : State :=
  let c : Int := s.time.count64 + stepSize theta
  let s : State := { s with time := { s.time with count64 := (c % 2 ^ 70).toNat } }
  ((s.raise Fld.timeStatusStepped 0).bump Fld.timeStepsSteps 0).report (unitHub 2) 0 (unsignedOf (stepSize theta) 64)

/-- Does this measurement step the count? -/
def State.mayStep (s : State) (theta : Int) : Bool :=
  s.rd Fld.timeStatusState == 1 && !s.time.slewOnly && s.on Fld.timeCtrlStepPermit && decide (s.rd Fld.timeStepNsStepNs * 65536 < theta.natAbs) && s.quiet

/-- This measurement is an outlier (R314). -/
def State.outlier (s : State) (theta : Int) : Bool :=
  s.rd Fld.timeStatusState == 2 && decide (s.rd Fld.timeLockOutlierNs * 65536 < theta.natAbs)

/-- The servo. -/
def State.servo (s : State) (theta : Int) : State :=
  if s.outlier theta then s.bump Fld.timeOutliersOutliers 0 else
  let s := if s.on Fld.timeStatusSynceLocked then s
    else s.setRateI (s.clampRate (s.rateI - asr theta (s.rd Fld.timeServoKiShift)))
  s.setRate (s.clampRate (s.rateI - asr theta (s.rd Fld.timeServoKpShift)))

/-- The lock counting of Table 14-1 after a measurement; `out` says it was an outlier. -/
def State.lockCount (s : State) (theta : Int) (out : Bool) : State :=
  let near := decide (theta.natAbs ≤ s.rd Fld.timeLockLockNs * 65536)
  let inRow := if near then s.time.inRow + 1 else 0
  let outRow := if out then s.time.outRow + 1 else 0
  let s : State := { s with time := { s.time with inRow := inRow, outRow := outRow, slewOnly := s.time.slewOnly && !near } }
  let clear (s : State) : State := { s with time := { s.time with inRow := 0, outRow := 0 } }
  if s.rd Fld.timeStatusState = 1 ∧ 16 ≤ inRow then clear (s.setTimeState 2)
  else if s.rd Fld.timeStatusState = 2 ∧ 16 ≤ outRow then clear (s.setTimeState 1) else s

/-- What a measurement of the tracker that drives the servo does to state, rate and count; a first one after a switch (`fresh`)
does not step the count (R315). -/
def State.driveBy (s : State) (theta : Int) (fresh : Bool) : State :=
  let st := s.rd Fld.timeStatusState
  if st = 0 ∧ s.on Fld.timeCtrlFreeRun then s else
  let s := if st = 0 ∨ st = 3 then ({ s with time := { s.time with inRow := 0, outRow := 0 } }).setTimeState 1 else s
  if !fresh && s.mayStep theta then (s.stepCount theta).lockCount theta false
  else
    let out := s.outlier theta
    (s.servo theta).lockCount theta out

/-- A measurement of the tracker that drives the servo; the time without one counts from here. -/
def State.drive (s : State) (theta : Int) (fresh : Bool) : State :=
  let s := s.driveBy theta fresh
  { s with time := { s.time with lastMeas := s.now } }

/-- Tracker `i` drives the servo from its present measurement on: lock counting begins anew, and in LOCKED and HOLDOVER the
count moves toward the new master by slew alone (R315). -/
def State.switchTo (s : State) (i : Nat) : State :=
  { s with time := { s.time with
      driving := i, inRow := 0, outRow := 0, slewOnly := s.time.slewOnly || decide (2 ≤ s.rd Fld.timeStatusState) } }

/-! ### Trackers (R312, R313) -/

def State.tracker (s : State) (i : Nat) : TrkSt := if i = 0 then s.time.trk0 else s.time.trk1
def State.setTracker (s : State) (i : Nat) (x : TrkSt) : State :=
  { s with time := if i = 0 then { s.time with trk0 := x } else { s.time with trk1 := x } }

/-- Saturation to the signed 64-bit range, as TRK_THETA and TRK_MPD hold it. -/
def sat64 (x : Int) : Nat := unsignedOf (max (-(2 ^ 63)) (min (2 ^ 63 - 1) x)) 64

/-- measure: theta and the mean path delay. -/
def measure (t1 c1 t2 t3 t4 c4 a : Int) : Int × Int :=
  let ms := t2 - t1 - c1
  let sm := t4 - c4 - t3
  let mpd := asr (ms + sm) 1
  (ms - mpd - a, mpd)

/-- Tracker `i` has a Sync with these times; with a completed delay exchange it yields a measurement. -/
def State.measured (s : State) (i : Nat) (t1 c1 t2 : Int) : State :=
  match (s.tracker i).exch with
  | none => s
  | some (t3, t4, c4) =>
    let m := measure t1 c1 t2 t3 t4 c4 (signedOf (s.reg .trkAsym i) 32)
    let s := ((s.setReg .trkTheta i (sat64 m.1)).setReg .trkMpd i (sat64 m.2)).bump Fld.trkMeasMeas i
    let fresh := s.rd Fld.timeCtrlTrackSel == i && s.time.driving != i
    let s := if fresh then s.switchTo i else s
    if s.time.driving = i then s.drive m.1 fresh else s

/-- The oldest PTP frame of port `p` that no one has used yet, when it is of this type. -/
def State.ptpHead (s : State) (p ty : Nat) : Option PtpRx :=
  match s.time.rx.find? (·.port == p) with
  | some r => if ptpType r.frame = ty then some r else none
  | none => none

/-- It has been used. -/
def State.ptpUsed (s : State) (r : PtpRx) : State := { s with time := { s.time with rx := s.time.rx.erase r } }

/-- The trackers that act on a frame of port `p`. -/
def State.trackersOf (s : State) (p : Nat) (f : List Byte) : List Nat :=
  (List.range 2).filter fun i =>
    s.on Fld.trkCfgEnable i && s.rd Fld.trkCfgPort i == p && s.rd Fld.trkCfgDomain i == ptpDomain f &&
      ptpSource f == (s.reg .trkMaster i, s.rd Fld.trkMasterPortPortNumber i)

/-- Tracker `i` takes a Sync. -/
def State.takeSync (s : State) (i : Nat) (r : PtpRx) : State :=
  let f := r.frame
  let t2 : Int := ptpUnits r.stamp
  let x := s.tracker i
  if ptpTwoStep f then s.setTracker i { x with sync := some (ptpSeq f, 0, ptpCorr f, t2) }
  else (s.setTracker i { x with sync := none }).measured i (ptpStamp f) (ptpCorr f) t2

def execSyncRx (dt p : Nat) (s : State) : Host.Outcome State Fault Refusal :=
  enter (.syncRx dt p) dt s fun s =>
    s.forSome (s.ptpHead p 0) fun s r => (s.ptpUsed r).each (s.trackersOf p r.frame) fun s i => s.takeSync i r

/-- Tracker `i` takes a Follow_Up. -/
def State.takeFollowUp (s : State) (i : Nat) (f : List Byte) : State :=
  let x := s.tracker i
  match x.sync with
  | some (seq, _, c1, t2) =>
    if seq = ptpSeq f then (s.setTracker i { x with sync := none }).measured i (ptpStamp f) (c1 + ptpCorr f) t2 else s
  | none => s

def execFollowUpRx (dt p : Nat) (s : State) : Host.Outcome State Fault Refusal :=
  enter (.followUpRx dt p) dt s fun s =>
    s.forSome (s.ptpHead p 8) fun s r => (s.ptpUsed r).each (s.trackersOf p r.frame) fun s i => s.takeFollowUp i r.frame

/-- Tracker `i` takes a Delay_Resp: it completes the exchange of its latest Delay_Req. -/
def State.takeDelayResp (s : State) (i : Nat) (f : List Byte) : State :=
  let x := s.tracker i
  match x.t3 with
  | some t3 =>
    if x.reqOut = some (ptpSeq f) ∧ ptpRequester f = (s.reg .trkSelf i, s.rd Fld.trkSelfPortPortNumber i) then
      s.setTracker i { x with exch := some (t3, ptpStamp f, ptpCorr f), reqOut := none, t3 := none }
    else s
  | none => s

def execDelayRespRx (dt p : Nat) (s : State) : Host.Outcome State Fault Refusal :=
  enter (.delayRespRx dt p) dt s fun s =>
    s.forSome (s.ptpHead p 9) fun s r => (s.ptpUsed r).each (s.trackersOf p r.frame) fun s i => s.takeDelayResp i r.frame

/-- Counts between messages whose logarithmic interval is the 4-bit field `v`, -7 to 0. -/
def logInterval (v : Nat) : Nat :=
  let l := signedOf v 4
  if l < 0 then 983040000 / 2 ^ l.natAbs else 983040000 * 2 ^ l.natAbs

/-- Tracker `i` sends a Delay_Req. -/
def State.sendDelayReq (s : State) (i : Nat) : State :=
  let x := s.tracker i
  let seq := x.seq % 65536
  let (src, s) := s.ownAddress
  let f := ptpFrame (ptpAddress (s.rd Fld.trkCfgDstSel i)) src
    (ptpHeader 1 44 (s.rd Fld.trkCfgDomain i) 0 (s.reg .trkSelf i, s.rd Fld.trkSelfPortPortNumber i) seq 1 0x7F ++ beBytes 10 0)
  let s := s.setTracker i { x with seq := (seq + 1) % 65536, reqOut := some seq, t3 := none, due := s.now + logInterval (s.rd Fld.trkCfgDelayLog i) }
  s.originate (s.rd Fld.trkCfgPort i) (s.rd Fld.ethSrcTcPtpTc (s.rd Fld.trkCfgPort i)) (4 + i) f

def execDelayReqTx (dt i : Nat) (s : State) : Host.Outcome State Fault Refusal :=
  enter (.delayReqTx dt i) dt s fun s =>
    s.whenever (s.on Fld.trkCfgEnable i && decide ((s.tracker i).due ≤ s.now)) fun s => s.sendDelayReq i

def execHoldoverEntry (dt : Nat) (s : State) : Host.Outcome State Fault Refusal :=
  enter (.holdoverEntry dt) dt s fun s =>
    let st := s.rd Fld.timeStatusState
    s.whenever ((st == 1 || st == 2) && decide (s.time.lastMeas + s.rd Fld.timeHoldoverHoldover * 2 ^ 20 ≤ s.now)) fun s =>
      (s.setTimeState 3).setRate s.rateI

/-- A write of TIME_CTRL; a SyncE measurement begins as synce_en is set, and anew as its port changes. -/
def State.timeCtrlWrite (s : State) (v : Nat) : State :=
  let anew := bitAt v 3 && (!s.on Fld.timeCtrlSynceEn || s.rd Fld.timeCtrlSyncePort != slice v 4 2)
  let s := s.setReg .timeCtrl 0 (v % 2 ^ 10)
  let s : State := if anew then { s with time := { s.time with synceAt := s.now } } else s
  if v % 2 = 1 ∧ s.rd Fld.timeStatusState ≠ 0 then
    ({ s with time := { s.time with slewOnly := false } }.setTimeState 0).setRate s.rateI
  else s

/-- A write of RATE_MAX, which bounds the present rate too. -/
def State.rateMaxWritten (s : State) : State := s.setRate s.rate

def execFreeRunWrite (dt v : Nat) (s : State) : Host.Outcome State Fault Refusal :=
  enter (.freeRunWrite dt v) dt s fun s => s.timeCtrlWrite v

def execTrackSelWrite (dt v : Nat) (s : State) : Host.Outcome State Fault Refusal :=
  enter (.trackSelWrite dt v) dt s fun s => s.timeCtrlWrite v

/-! ### SyncE (R316) -/

/-- One ppb. -/
def ppb : Nat := 65536

/-- Whether these measurements, newest first, differ from one another by at most 1 ppb. -/
def agree (l : List Int) : Bool := l.all fun x => l.all fun y => (x - y).natAbs ≤ ppb

/-- A measurement of the recovered clock. -/
def State.synceTake (s : State) (freq : Int) : State :=
  let s := s.setReg .synceFreq 0 (unsignedOf freq 32)
  let jump := match s.time.synce with
    | p :: _ => decide (ppb < (freq - p).natAbs)
    | [] => false
  let l := if jump then [freq] else (freq :: s.time.synce).take 4
  let s : State := { s with time := { s.time with synce := l } }
  let s := s.wr Fld.timeStatusSynceLocked 0 (nat1 (!jump && (s.on Fld.timeStatusSynceLocked || (l.length == 4 && agree l))))
  if !s.on Fld.timeStatusSynceLocked then s else
  let s := s.setRateI (s.clampRate freq)
  if s.rd Fld.timeStatusState = 3 then s.setRate s.rateI else s

def execSynceMeasure (dt : Nat) (freq : Int) (s : State) : Host.Outcome State Fault Refusal :=
  enter (.synceMeasure dt freq) dt s fun s =>
    s.whenever (s.on Fld.timeCtrlSynceEn && decide (s.time.synceAt + 2 ^ 26 ≤ s.now)) fun s =>
      ({ s with time := { s.time with synceAt := s.now } }).synceTake freq

def execSynceLoss (dt : Nat) (s : State) : Host.Outcome State Fault Refusal :=
  enter (.synceLoss dt) dt s fun s =>
    ({ s with time := { s.time with synce := [] } }).wr Fld.timeStatusSynceLocked 0 0

/-! ### Master ports (R317, R318) -/

/-- Port `p` is a master port. -/
def State.masterPort (s : State) (p : Nat) : Bool := s.rd Fld.ppCtrlMode p == 1

/-- The Delay_Resp to the Delay_Req `r`: receiveTimestamp and correctionField as R318 computes them from its ingress stamp. -/
def State.answerDelayReq (s : State) (p : Nat) (r : PtpRx) : State :=
  let f := r.frame
  let t := toPtp r.stamp
  let (src, s) := s.ownAddress
  let m := ptpHeader 9 54 (s.rd Fld.ppCtrlDomain p) (ptpCorr f - t.2.2) (s.reg .ppClockid p, s.rd Fld.ppPortnumPortNumber p) (ptpSeq f) 3 0x7F ++
    beBytes 6 t.1 ++ beBytes 4 t.2.1 ++ beBytes 8 (ptpSource f).1 ++ beBytes 2 (ptpSource f).2
  s.originate p (s.rd Fld.ethSrcTcPtpTc p) 0 (ptpFrame (frameNat f 6 6) src m)

def execDelayReqRx (dt p : Nat) (s : State) : Host.Outcome State Fault Refusal :=
  enter (.delayReqRx dt p) dt s fun s =>
    s.forSome (s.ptpHead p 1) fun s r =>
      let s := s.ptpUsed r
      if s.masterPort p && s.rd Fld.ppCtrlDomain p == ptpDomain r.frame then s.answerDelayReq p r else s

/-- Port `p` sends a Sync; its times are inserted as it leaves. -/
def State.sendSync (s : State) (p : Nat) : State :=
  let seq := Tbl.get 0 s.time.masterSeq p
  let due := s.now + logInterval (s.rd Fld.ppCtrlSyncLog p)
  let (src, s) := s.ownAddress
  let m := ptpHeader 0 44 (s.rd Fld.ppCtrlDomain p) 0 (s.reg .ppClockid p, s.rd Fld.ppPortnumPortNumber p) seq 0
    (240 * slice (s.rd Fld.ppCtrlSyncLog p) 3 1 + s.rd Fld.ppCtrlSyncLog p) ++ beBytes 10 0
  let s : State := { s with time := { s.time with
    masterSeq := Tbl.set 0 s.time.masterSeq p ((seq + 1) % 65536), masterDue := Tbl.set 0 s.time.masterDue p due } }
  s.originate p (s.rd Fld.ethSrcTcPtpTc p) 2 (ptpFrame (ptpAddress (s.rd Fld.ppCtrlDstSel p)) src m)

def execMasterSyncTx (dt p : Nat) (s : State) : Host.Outcome State Fault Refusal :=
  enter (.masterSyncTx dt p) dt s fun s =>
    s.whenever (s.masterPort p && decide (Tbl.get 0 s.time.masterDue p ≤ s.now)) fun s => s.sendSync p

/-! ### Outputs (R320) -/

def State.out (s : State) (k : Nat) : OutSt := Tbl.get {} s.time.outs k
def State.setOut (s : State) (k : Nat) (x : OutSt) : State := { s with time := { s.time with outs := Tbl.set {} s.time.outs k x } }

/-- The edge time E_j of output `k`, in 1/64 counts. -/
def State.edgeTime (s : State) (k j : Nat) : Nat :=
  let den := s.rd Fld.outFracPDen k
  s.rd Fld.outStartStart k * 64 + 64 * j * (s.rd Fld.outPeriodPInt k * den + s.rd Fld.outFracPNum k) / den

/-- The start is too near. -/
def State.outLate (s : State) (k : Nat) : Bool := s.rd Fld.outStartStart k < s.now + 1024

/-- Width or period is wrong for the mode that `v` sets. -/
def State.outBad (s : State) (k v : Nat) : Bool :=
  let den := s.rd Fld.outFracPDen k
  s.rd Fld.outWidthWidth k < 256 ||
    (bitAt v 1 && !(s.rd Fld.outWidthWidth k * den < 64 * (s.rd Fld.outPeriodPInt k * den + s.rd Fld.outFracPNum k) &&
      s.rd Fld.outFracPNum k < den))

/-- A write of OUT_CTRL. -/
def State.outCtrlWrite (s : State) (k v : Nat) : State :=
  let fields (s : State) : State :=
    let s := ((s.wr Fld.outCtrlEnable k v).wr Fld.outCtrlPeriodic k (v / 2)).wr Fld.outCtrlInvert k (v / 4)
    let s := if bitAt v 3 then s.wr Fld.outCtrlLate k 0 else s
    (if bitAt v 4 then s.wr Fld.outCtrlBad k 0 else s).keepFresh .outCtrl k
  if v % 2 = 0 then (fields s).setOut k {}
  else if s.on Fld.outCtrlEnable k then fields s
  else if s.outLate k || s.outBad k v then
    let s := if s.outLate k then s.raise Fld.outCtrlLate k else s
    let s := if s.outBad k v then s.raise Fld.outCtrlBad k else s
    s.info (unitHub 2)
  else (fields s).setOut k {}

def execOutputEnable (dt k v : Nat) (s : State) : Host.Outcome State Fault Refusal :=
  enter (.outputEnable dt k v) dt s fun s => s.outCtrlWrite k v

def execOutputDisable (dt k v : Nat) (s : State) : Host.Outcome State Fault Refusal :=
  enter (.outputDisable dt k v) dt s fun s => s.outCtrlWrite k v

/-- The time of the next pin edge of output `k`. -/
def State.nextPinEdge (s : State) (k : Nat) : Nat :=
  let x := s.out k
  s.edgeTime k x.j + if x.asserted then s.rd Fld.outWidthWidth k else 0

/-- Output `k` asserts, or deasserts and turns to its next edge. -/
def State.pinEdge (s : State) (k : Nat) : State :=
  let x := s.out k
  if !x.asserted then s.setOut k { x with asserted := true }
  else if s.on Fld.outCtrlPeriodic k then s.setOut k ⟨x.j + 1, false⟩
  else (s.setOut k {}).wr Fld.outCtrlEnable k 0

def execOutputEdge (dt k : Nat) (s : State) : Host.Outcome State Fault Refusal :=
  enter (.outputEdge dt k) dt s fun s =>
    s.whenever (s.on Fld.outCtrlEnable k && !s.safe && decide (s.nextPinEdge k ≤ s.time.count64)) fun s => s.pinEdge k

/-! ### Captures (R321) -/

def State.captures (s : State) (j : Nat) : List (Nat × Bool) := Tbl.get [] s.time.captures j
def State.setCaptures (s : State) (j : Nat) (l : List (Nat × Bool)) : State :=
  { s with time := { s.time with captures := Tbl.set [] s.time.captures j l } }

/-- An edge of input `j` is of a selected polarity and lies in the sampling window. -/
def State.captureTaken (s : State) (j : Nat) (rising : Bool) : Bool :=
  let sel := s.rd Fld.capCtrlEdgeSel j
  let t := s.time.count64
  s.on Fld.capCtrlEnable j && ((sel == 0 && rising) || (sel == 1 && !rising) || sel == 2) &&
    s.rd Fld.capOpenOpen j * 64 ≤ t && (s.rd Fld.capCloseClose j == 0 || t < s.rd Fld.capCloseClose j * 64)

/-- 8 ns in 1/64 counts, rounded up: an edge that much before the present one ends no ignored pulse. -/
def pulseMin : Nat := 504

/-- Remember the last edge of input `j`, and what became of it. -/
def State.setEdge (s : State) (j : Nat) (rising : Bool) (what : Nat) : State :=
  { s with time := { s.time with edges := Tbl.put s.time.edges j (s.time.count64, rising, what) } }

/-- An edge of input `j` is stamped, when it is to be; a full queue loses it. -/
def State.takeEdge (s : State) (j : Nat) (rising : Bool) : State :=
  if !s.captureTaken j rising then s.setEdge j rising 0
  else if (s.captures j).length < 16 then (s.setCaptures j (s.captures j ++ [(s.time.count64, rising)])).setEdge j rising 1
  else (s.bumpSat Fld.capCtrlLost j).setEdge j rising (if s.rd Fld.capCtrlLost j = 65535 then 0 else 2)

/-- The pulse that began with the last edge of input `j`, of stamp `t` and polarity `up`, proves too short: nothing came of that
edge. -/
def State.dropEdge (s : State) (j t : Nat) (up : Bool) (what : Nat) : State :=
  let s : State := { s with time := { s.time with edges := s.time.edges.filter (·.1 != j) } }
  if what = 1 then s.setCaptures j ((s.captures j).erase (t, up))
  else if what = 2 then s.wr Fld.capCtrlLost j (s.rd Fld.capCtrlLost j - 1)
  else s

/-- An edge at the pin of input `j`: it ends a pulse that is ignored, or is taken. Two edges of one polarity so close together are
none of one pin. -/
def State.captureEdge (s : State) (j : Nat) (rising : Bool) : State :=
  match Tbl.find s.time.edges j with
  | some (t, up, what) =>
    if t + pulseMin ≤ s.time.count64 then s.takeEdge j rising
    else if up = rising then s
    else s.dropEdge j t up what
  | none => s.takeEdge j rising

def execCaptureEdge (dt j : Nat) (rising : Bool) (s : State) : Host.Outcome State Fault Refusal :=
  enter (.captureEdge dt j rising) dt s fun s => s.captureEdge j rising

/-- The stamps that have reached the queue of input `j`: those of edges that no later edge can turn into an ignored pulse
(DEDUCED, log entry 44). -/
def State.captured (s : State) (j : Nat) : List (Nat × Bool) := (s.captures j).filter fun x => x.1 + pulseMin ≤ s.time.count64

/-- A read of CAP_META. -/
def State.capMetaRead (s : State) (j : Nat) : State :=
  match s.captured j with
  | [] => { s with readData := 0 }
  | (t, rising) :: l =>
    let s := (s.setCaptures j ((s.captures j).erase (t, rising))).setReg .capStamp j (t / 64)
    { s with readData := t % 64 + 2 ^ 8 * nat1 rising + 2 ^ 16 * (l.length + 1) }

def execCapMetaRead (dt j : Nat) (s : State) : Host.Outcome State Fault Refusal :=
  enter (.capMetaRead dt j) dt s fun s => s.capMetaRead j

/-! ### Launches (R322) -/

/-- A write of LAUNCH_CTRL. -/
def State.launchCtrlWrite (s : State) (u v : Nat) : State :=
  let fields (s : State) : State := ((s.wr Fld.launchCtrlArm u v).wr Fld.launchCtrlSlice u (v / 2 ^ 8)).wr Fld.launchCtrlRings u (v / 2 ^ 16)
  if v % 2 = 1 && !s.on Fld.launchCtrlArm u && s.rd Fld.launchCountCount u < s.now + 1024 then
    (s.raise Fld.launchStatusLate u).info (unitHub 2)
  else fields s

def execLaunchArm (dt u v : Nat) (s : State) : Host.Outcome State Fault Refusal :=
  enter (.launchArm dt u v) dt s fun s => s.launchCtrlWrite u v

def execLaunchDisarm (dt u v : Nat) (s : State) : Host.Outcome State Fault Refusal :=
  enter (.launchDisarm dt u v) dt s fun s => s.launchCtrlWrite u v

def execLaunchFire (dt u : Nat) (s : State) : Host.Outcome State Fault Refusal :=
  enter (.launchFire dt u) dt s fun s =>
    s.whenever (s.on Fld.launchCtrlArm u && decide (s.rd Fld.launchCountCount u ≤ s.now)) fun s =>
      let before := (s.now, s.reg .launchFired u, s.rd Fld.launchStatusFired u)
      let s : State := { s with time := { s.time with fires := Tbl.put s.time.fires u before } }
      ((s.setReg .launchFired u s.now).wr Fld.launchCtrlArm u 0).raise Fld.launchStatusFired u

end Sys2Proof.Machine
end

