-- ==== Sys2Proof/Machine/Eth.lean ====
section
/-! DEFINITION. Ethernet ports (chapter 15): receive classification, forwarding, gates and egress, management queues. -/
namespace Sys2Proof.Machine

/-! ### Frame check sequence -/

/-- CRC-32 of IEEE 802.3. -/
def crc32 (l : List Byte) : Nat :=
  let bit (c : Nat) : Nat := if c % 2 = 1 then (c / 2) ^^^ 0xEDB88320 else c / 2
  let step (c : Nat) (b : Byte) : Nat := bit (bit (bit (bit (bit (bit (bit (bit (c ^^^ b.toNat))))))))
  l.foldl step 0xFFFFFFFF ^^^ 0xFFFFFFFF

/-- A frame with its FCS. -/
def withFcs (f : List Byte) : List Byte := f ++ leBytes 4 (crc32 f)

/-! ### Receive classification (R325, Table 15-1) -/

/-- An entry of FH_MAP or FWD, with its address, matches a frame. -/
def entryMatches (valid vlanMatch : Bool) (vlan mac : Nat) (f : List Byte) : Bool :=
  valid && mac == frameDst f && match frameTag f with
    | some t => vlanMatch && t % 4096 == vlan
    | none => !vlanMatch

/-- The FH_MAP entry of port `p` that a frame uses. -/
def State.fhEntry (s : State) (p : Nat) (f : List Byte) : Option Nat :=
  (List.range 64).find? fun i =>
    let e := 64 * p + i
    entryMatches (s.on Fld.fhMapValid e) (s.on Fld.fhMapVlanMatch e) (s.rd Fld.fhMapVlan e)
      (s.rd Fld.fhMapMacLo e + 2 ^ 32 * s.rd Fld.fhMapHiMacHi e) f

/-- The FWD entry of port `p` that a frame uses. -/
def State.fwdEntry (s : State) (p : Nat) (f : List Byte) : Option Nat :=
  ((List.range 256).find? fun i =>
    let e := 256 * p + i
    entryMatches (s.on Fld.fwdValid e) (s.on Fld.fwdVlanMatch e) (s.rd Fld.fwdVlan e)
      (s.rd Fld.fwdMacLo e + 2 ^ 32 * s.rd Fld.fwdHiMacHi e) f && s.rd Fld.fwdEgress e != p).map (256 * p + ·)

/-- A frame reaches the management receive queue (R333). -/
def State.mrxPut (s : State) (p stamp : Nat) (f : List Byte) : State :=
  let n := 2 ^ s.rd Fld.mrxSizeLog2Entries
  let h := s.rd Fld.mrxHeadHead
  if s.rd Fld.mrxSizeLog2Entries = 0 then s
  else if (h + 1) % n = s.rd Fld.mrxTailTail % n then s.bump Fld.mrxDropDrop 0
  else
    let e := s.reg .mrxBase + 32 * h
    let buf := leNat (s.hostRead 0 e 8)
    let g := s.freeCtr
    let fill (k : Nat) : List Byte := (List.range k).map fun i => Config.freeByte g (16 * k + i)
    let s := { s with freeCtr := g + 1 }
    let s := s.hostWrite 0 buf (withFcs f)
    let s := s.hostWrite 0 (e + 8) (leBytes 2 (frameLen f) ++ leBytes 1 p ++ leBytes 1 1 ++ fill 4 ++ leBytes 8 stamp ++ fill 8)
    s.wr Fld.mrxHeadHead 0 ((h + 1) % n)

/-- A frame is forwarded by FWD entry `e` (R326). -/
def State.forward (s : State) (p e stamp : Nat) (f : List Byte) : State :=
  let q := s.rd Fld.fwdEgress e
  let tag := (frameTag f).getD 0
  let cls := if s.on Fld.fwdTcFromPcp e then tag / 2 ^ 13 else s.rd Fld.fwdTc e
  let x := s.ethPort q
  s.setEth q { x with fwd := x.fwd ++ [(p, ⟨f, cls, !bitAt tag 12, 0, stamp, 1, s.on Fld.ppCtrlTcEn p && ptpEvent f, none⟩)] }

/-- A frame is forwarded where an entry of its ingress port names it; `other` where none does. -/
def State.forwardOr (s : State) (p stamp : Nat) (f : List Byte) (other : State) : State :=
  match s.fwdEntry p f with
  | some e => s.forward p e stamp f
  | none => other

/-- A good frame is handled by the first row of Table 15-1 that matches. -/
def State.classify (s : State) (p : Nat) (f : List Byte) : State :=
  let stamp := s.ingressStamp p
  let ty := frameType f
  if ty = 0x8808 then s.bump Fld.rxPauseCount p
  else if ty = 0x88F7 then
    let s : State := if [0, 1, 8, 9].contains (ptpType f) then
      { s with time := { s.time with rx := s.time.rx ++ [⟨p, stamp, f⟩] } } else s
    let s := s.mrxPut p stamp f
    s.forwardOr p stamp f s
  else if ty = 0xAEFE then
    match s.fhEntry p f, frameNat f (frameBody f + 1) 1 with
    | some i, 0 => s.intake (s.uplaneOf (s.rd Fld.fhMapCarrier (64 * p + i)) p f) stamp
    | _, _ => s.bump Fld.rxUnmatchedCount p
  else s.forwardOr p stamp f (if s.on Fld.ethCtrlMgmtUnmatched p then s.mrxPut p stamp f else s.bump Fld.rxUnmatchedCount p)

def execEthFrameRx (dt p : Nat) (frame : List Byte) (fcsOk : Bool) (s : State) : Host.Outcome State Fault Refusal :=
  enter (.ethFrameRx dt p frame fcsOk) dt s fun s =>
    s.whenever (s.portUp p && !s.safe) fun s =>
      if !fcsOk || 9216 < frameLen frame then s.bump Fld.rxErrCount p
      else (s.bump Fld.rxFramesFrames p).classify p frame

def execEthLinkChange (dt p : Nat) (up : Bool) (lanes : Nat) (s : State) : Host.Outcome State Fault Refusal :=
  enter (.ethLinkChange dt p up lanes) dt s fun s =>
    s.whenever (!up || s.on Fld.ethCtrlEnable p) fun s =>
      (s.wr Fld.ethStatusLinkUp p (nat1 up)).wr Fld.ethStatusLanesUp p lanes

/-! ### Egress queues (R326, R329) -/

/-- A frame with a pre-colour meets the marker of its class: none when it is red. A class without a marker lets every frame
leave green (R256). -/
def State.colour (s : State) (p : Nat) (f : EFrame) : State × Option Bool :=
  if !s.on Fld.tcCfgMarkerEn (tcIdx p f.cls) then (s, some true)
  else match s.tcMark p f.cls (s.frameCost p f.frame) (!f.green) with
    | (0, s) => (s.bump Fld.txRedCount p, none)
    | (1, s) => (s, some false)
    | (_, s) => (s, some true)

/-- A forwarded frame of ingress port `i` may reach the queues of port `p` on this edge: none of a higher port has (R326). -/
def State.mayReach (s : State) (p i : Nat) : Bool :=
  (s.ethPort p).fwdLast.1 != s.now || decide ((s.ethPort p).fwdLast.2 ≤ i)

/-- A forwarded frame reaches its class queue. -/
def State.reach (s : State) (p : Nat) (f : EFrame) : State :=
  if !s.portUp p || !s.queueRoom p f.cls f.frame then s.bump Fld.txDiscardCount p
  else match s.colour p f with
    | (s, some g) => s.enqueue p f g
    | (s, none) => s

def execForwardEnqueue (dt : Nat) (w : FwdWay) (s : State) : Host.Outcome State Fault Refusal :=
  enter (.forwardEnqueue dt w) dt s fun s =>
    let p := w.egress
    let s := s.pump p
    s.forSome ((s.ethPort p).fwd.find? (·.1 == w.ingress)) fun s f =>
      s.whenever (s.mayReach p w.ingress) fun s =>
        (s.setEth p { s.ethPort p with fwd := (s.ethPort p).fwd.erase f, fwdLast := (s.now, w.ingress) }).reach p f.2

def execEthMarkerRefill (dt : Nat) (s : State) : Host.Outcome State Fault Refusal :=
  enter (.ethMarkerRefill dt) dt s fun s =>
    s.periodic .portMarkers s.tick1024 fun s => s.each (List.range 4) fun s p => s.each (List.range 8) fun s k => s.tcRefill p k

/-! ### Gates (R331, R332) -/

/-- Counts since the start of the cycle that holds `t`. -/
def Gcl.offset (g : Gcl) (t : Nat) : Nat := (((t : Int) - g.base) % g.cycle).toNat

/-- The entries from the one at offset `o` on, round the cycle, and what of the first has passed. -/
def Gcl.from (o : Nat) : List (Nat × Nat) → List (Nat × Nat) → List (Nat × Nat) × Nat
  | done, e :: l => if o < e.2 then (e :: l ++ done.reverse, o) else Gcl.from (o - e.2) (e :: done) l
  | done, [] => (done.reverse, 0)

/-- Is class `k` open at `t`, and until when: a count, or for ever (none). -/
def Gcl.openUntil (g : Gcl) (k t : Nat) : Option (Option Nat) :=
  let (es, past) := Gcl.from (g.offset t) [] g.entries
  let run := es.takeWhile fun e => bitAt e.1 k
  if run.isEmpty then none
  else if run.length = es.length then some none
  else some (some (t - past + run.foldl (fun a e => a + e.2) 0))

/-- When a list armed for `act` takes over: the first cycle boundary of the active list at or after it. -/
def switchAt (active : Option Gcl) (act : Nat) : Nat :=
  match active with
  | some g => (g.base + ceilDiv (((act : Int) - g.base).toNat) g.cycle * g.cycle)
  | none => act

/-- Is class `k` open at `t` under list `g`, and until when; without a list it is open for ever. -/
def openIn (g : Option Gcl) (k t : Nat) : Option (Option Nat) := g.elim (some none) (·.openUntil k t)

/-- The end `c` of an open interval of class `k` when list `g` takes over at `a`: one that reaches `a` goes on as `g` has it. -/
def openPast (g : Gcl) (k a : Nat) (c : Option Nat) : Option Nat :=
  if c.elim true (a ≤ ·) then (g.openUntil k a).getD (some a) else c

/-- The same at `t` for port `p`, through the take-over of an armed list. -/
def EthSt.gateOpen (x : EthSt) (k t : Nat) : Option (Option Nat) :=
  match x.pend with
  | none => openIn x.active k t
  | some (act, g) =>
    let a := switchAt x.active act
    if a ≤ t then g.openUntil k t else (openIn x.active k t).map (openPast g k a)

/-- The gate of class `k` of port `p` lets a transmission of `d` counts begin now. -/
def State.gateFits (s : State) (p k d : Nat) : Bool :=
  if !s.on Fld.gclCtrlGclEn p then true else
  match (s.ethPort p).gateOpen k s.now with
  | some c => c.elim true (s.now + d ≤ ·)
  | none => false

/-- Table 15-2. -/
def State.egressBefore (s : State) (p : Nat) (a b : EFrame) : Bool :=
  let ta := s.rd Fld.tcCfgTier (tcIdx p a.cls)
  let tb := s.rd Fld.tcCfgTier (tcIdx p b.cls)
  if ta ≠ tb then ta < tb else if a.green ≠ b.green then a.green
  else if a.stamp ≠ b.stamp then stampLt a.stamp b.stamp else a.cls < b.cls

/-- The frame that port `p` transmits at this edge. -/
def State.egressPick (s : State) (p : Nat) : Option EFrame :=
  let x := s.ethPort p
  let heads := (List.range 8).filterMap fun k => x.queue.find? (·.cls == k)
  (heads.filter fun f => s.gateFits p f.cls (txCounts (s.frameCost p f.frame))).foldl (fun best f => match best with
    | some b => if s.egressBefore p f b then some f else some b
    | none => some f) none

/-! ### Management transmit entries (R333) -/

/-- Completions are written in ring order. -/
def State.flushMtx (s : State) : List (Nat × Option (Nat × Nat)) → State
  | (i, some (fl, st)) :: l =>
    let e := s.reg .mtxBase + 32 * i
    let s := s.hostWrite 0 (e + 12) (leBytes 1 fl)
    let s := if bitAt fl 1 then s else s.hostWrite 0 (e + 24) (leBytes 8 st)
    State.flushMtx { s with mtxOut := l } l
  | _ => s

/-- Transmit entry `i` is over. -/
def State.mtxEnd (s : State) (i : Nat) (c : Nat × Nat) : State :=
  let s : State := { s with mtxOut := s.mtxOut.map fun e => if e.1 = i ∧ e.2 = none then (i, some c) else e }
  s.flushMtx s.mtxOut

/-- It is refused: whether done is written too is not stated. -/
def State.mtxRefuse (s : State) (i : Nat) : State :=
  let (n, s) := s.free
  s.mtxEnd i (2 + n % 2, 0)

/-- The entry at the head of the transmit ring. -/
def State.mtxWord (s : State) : Nat := leNat (s.hostRead 0 (s.reg .mtxBase + 32 * s.rd Fld.mtxHeadHead) 32)

/-- The head of the transmit ring is read, and advances. -/
def State.mtxAdvance (s : State) : State :=
  let h := s.rd Fld.mtxHeadHead
  { s.wr Fld.mtxHeadHead 0 ((h + 1) % 2 ^ s.rd Fld.mtxSizeLog2Entries) with mtxOut := s.mtxOut ++ [(h, none)] }

/-- Entry `h`, with the words `w`, waits for its time. -/
def State.mtxTake (s : State) (h w : Nat) : State :=
  { s with
    mtx := some ⟨s.hostRead 0 (slice w 0 64) (slice w 64 16), slice w 84 3, !bitAt w 87, 0, slice w 80 2, if bitAt w 88 then 2 else 0, false, some h⟩
    mtxDue := slice w 128 64 }

/-- The entry may be sent: its length, and a port that is up. -/
def State.mtxOk (s : State) (w : Nat) : Bool := 60 ≤ slice w 64 16 && slice w 64 16 ≤ 9212 && s.portUp (slice w 80 2)

def State.mtxEntry (s : State) : State :=
  let h := s.rd Fld.mtxHeadHead
  let w := s.mtxWord
  let s := s.mtxAdvance
  if s.mtxOk w then s.mtxTake h w else s.mtxRefuse h

def execMgmtTxEntry (dt : Nat) (s : State) : Host.Outcome State Fault Refusal :=
  enter (.mgmtTxEntry dt) dt s fun s =>
    s.whenever (s.mtx.isNone && s.rd Fld.mtxSizeLog2Entries != 0 && !s.safe &&
      s.rd Fld.mtxHeadHead != s.rd Fld.mtxTailTail % 2 ^ s.rd Fld.mtxSizeLog2Entries) State.mtxEntry

/-- The entry read is queued; one whose queue is at its limit waits. -/
def State.mtxRelease (s : State) (f : EFrame) : State :=
  let p := f.ingress
  let i := f.mgmt.getD 0
  let out (s : State) : State := { s with mtx := none }
  if !s.portUp p then (out s).mtxRefuse i
  else if !s.queueRoom p f.cls f.frame then s
  else match (out s).colour p f with
    | (s, some g) => s.enqueue p f g
    | (s, none) =>
      let (n, s) := s.free
      s.mtxEnd i (n % 4, n / 4)

def execMgmtTxNotBefore (dt : Nat) (s : State) : Host.Outcome State Fault Refusal :=
  enter (.mgmtTxNotBefore dt) dt s fun s =>
    s.forSome s.mtx fun s f => s.whenever (s.mtxDue ≤ s.now) fun s => (s.pump f.ingress).mtxRelease f

/-! ### Transmission (R318, R319, R332) -/

/-- The frame, without its FCS, as it leaves with egress stamp `e`: insertion, transparent-clock correction. -/
def State.onWire (s : State) (p e : Nat) (f : EFrame) : List Byte :=
  if f.kind = 2 then oneStep f.frame e
  else if f.kind = 1 && f.tc && s.on Fld.ppCtrlTcEn p then ptpAddCorr f.frame (residence f.ingress e)
  else f.frame

/-- Port `p` transmits frame `f`. -/
def State.transmit (s : State) (p : Nat) (f : EFrame) : State :=
  let e := s.egressStamp p
  let w := s.onWire p e f
  let x := s.ethPort p
  let v := if x.v.isEmpty then List.replicate 8 0 else x.v
  let s := s.setEth p { x with
    queue := x.queue.erase f, v := setAt v (s.rd Fld.tcCfgTier (tcIdx p f.cls)) f.stamp
    busyUntil := s.now + txCounts (s.frameCost p f.frame), wire := withFcs w, wireStamp := e }
  let s := s.bump Fld.txFramesFrames p
  let s := if f.kind = 1 && f.tc && s.on Fld.ppCtrlTcEn p then s.bump Fld.ppTcTc p else s
  let s := if f.kind = 4 ∨ f.kind = 5 then
      let t := s.tracker (f.kind - 4)
      if t.reqOut = some (ptpSeq f.frame) then s.setTracker (f.kind - 4) { t with t3 := some (ptpUnits e) } else s
    else s
  let s := match f.mgmt with
    | some i => s.mtxEnd i (1, e)
    | none => s
  s.pump p

def execEgressTransmit (dt p : Nat) (s : State) : Host.Outcome State Fault Refusal :=
  enter (.egressTransmit dt p) dt s fun s =>
    s.whenever (s.portUp p && !s.safe && decide ((s.ethPort p).busyUntil ≤ s.now)) fun s =>
      let s := s.pump p
      s.forSome (s.egressPick p) fun s f => s.transmit p f

/-! ### Gate control lists (R331) -/

/-- The list in the pending bank of port `p`. -/
def State.pendingGcl (s : State) (p : Nat) : Gcl :=
  ⟨s.rd Fld.gclCycleCycle p, s.reg .gclBase p,
    (List.range (s.rd Fld.gclCtrlN p + 1)).map fun i => (s.rd Fld.gclEntryMask (256 * p + i), s.rd Fld.gclEntryDuration (256 * p + i))⟩

/-- Its durations are at least 1 and sum to the cycle. -/
def Gcl.ok (g : Gcl) : Bool := g.entries.all (1 ≤ ·.2) && g.entries.foldl (fun a e => a + e.2) 0 == g.cycle

/-- A write of GCL_ACT. -/
def State.gclActWrite (s : State) (p v : Nat) : State :=
  let g := s.pendingGcl p
  if g.ok && s.now + 1024 ≤ v % 2 ^ 64 then
    ((s.setReg .gclAct p v).wr Fld.gclCtrlPending p 1).setEth p { s.ethPort p with pend := some (v % 2 ^ 64, g) }
  else (s.raise Fld.gclCtrlGclBad p).info (unitHub (4 + p))

def execGclArm (dt p v : Nat) (s : State) : Host.Outcome State Fault Refusal :=
  enter (.gclArm dt p v) dt s fun s => s.gclActWrite p v

def execGclSwitch (dt p : Nat) (s : State) : Host.Outcome State Fault Refusal :=
  enter (.gclSwitch dt p) dt s fun s =>
    let x := s.ethPort p
    s.forSome x.pend fun s a =>
      s.whenever (switchAt x.active a.1 ≤ s.now) fun s =>
        (s.setEth p { x with active := some a.2, pend := none }).wr Fld.gclCtrlPending p 0

end Sys2Proof.Machine
end

