-- ==== Sys2Proof/Machine/Plans.lean ====
section
/-! DEFINITION. Slot plans: their entries, the checks of admission, and the bounds (R282 to R284, R286, R297). -/
namespace Sys2Proof.Machine

/-! ### Entries (Tables 13-3, 13-4) -/

namespace Pe
def kind (d : Nat) : Nat := slice d 0 4
def inst (d : Nat) : Nat := slice d 4 6
def jet (d : Nat) : Nat := slice d 10 1
def dep0 (d : Nat) : Nat := slice d 16 12
def dep1 (d : Nat) : Nat := slice d 28 12
def startOff (d : Nat) : Nat := slice d 64 32
def deadline (d : Nat) : Nat := slice d 96 32
def paramAddr (d : Nat) : Nat := slice d 128 44
def budget (d : Nat) : Nat := slice d 192 32
def fields : List (Nat × Nat) := [(0, 11), (16, 24), (64, 108), (192, 32)]
end Pe

namespace Pl
def carrier (p : Nat) : Nat := slice p 0 8
def nOps (p : Nat) : Nat := slice p 8 12 + 1
def slotStart (p : Nat) : Nat := slice p 64 64
def planAddr (p : Nat) : Nat := slice p 128 44
end Pl

/-- Instances of each kind (Table 13-5); 0 for the reserved kinds. -/
def kindSize (k : Nat) : Nat :=
  match k with
  | 1 => 32
  | 2 => 16
  | 3 | 4 => 8
  | 5 | 6 | 7 => 16
  | 8 | 9 => 64
  | 10 => 1
  | _ => 0

/-- The number of the engine that executes an operation. -/
def opEngine (carrier kind inst jet : Nat) : Nat :=
  match kind with
  | 1 => inst
  | 2 => 32 + inst
  | 3 | 4 => 48 + inst
  | 5 | 6 | 7 => 56 + inst
  | 8 => 128 + 2 * inst + jet % 2
  | 9 => 256 + inst
  | _ => 320 + carrier

/-! ### Aliases, standbys and spares (R298) -/

/-- The spare of a wellhead engine class, when the driver has named one. -/
def State.spareOf (s : State) (cls : Nat) : Option Nat :=
  match cls with
  | 0 => if s.on Fld.engineSpareDecValid then some (s.rd Fld.engineSpareDecSpare) else none
  | 1 => if s.on Fld.engineSpareEncValid then some (s.rd Fld.engineSpareEncSpare) else none
  | 2 => if s.on Fld.engineSparePolarValid then some (s.rd Fld.engineSparePolarSpare) else none
  | _ => if s.on Fld.engineSpareFftValid then some (s.rd Fld.engineSpareFftSpare) else none

/-- The instance that serves operations of instance `i` of a kind. -/
def State.resolveInst (s : State) (kind i : Nat) : Nat :=
  if kind = 8 ∨ kind = 9 then s.serving i
  else match kindClass kind with
    | some c => if s.radio.spares.contains (c, i) then (s.spareOf c).getD i else i
    | none => i

/-- The parameters with the basins they name resolved: work of a basin that a standby has taken over lies on the standby. -/
def State.resolveParams (s : State) (kind d : Nat) : Nat :=
  let at_ (lo : Nat) (d : Nat) : Nat := putBits d lo 6 (s.serving (slice d lo 6))
  match kind with
  | 1 | 3 | 4 | 6 | 7 => at_ 24 d
  | 2 => at_ 280 d
  | 5 => at_ 88 (at_ 24 d)
  | _ => d

/-- A wellhead engine instance is fenced. -/
def State.engineFenced (s : State) (cls i : Nat) : Bool := s.regBit (engineBit cls i).1 0 (engineBit cls i).2

/-- The units of its basin that an operation uses (Table 1-15 numbers). -/
def opUnits (kind jet params : Nat) : List Nat :=
  if kind = 8 then jet :: (if Jd.chainAddr params = 0 then [] else [3])
  else if kind = 9 then (List.range 8).filterMap fun k => if bitAt params (64 + k) then some (8 + k) else none
  else []

/-- The basins whose cisterns a wellhead operation names. -/
def State.wellBasins (s : State) (kind d : Nat) : List Nat :=
  ((s.wellReads kind d ++ s.wellWrites kind d).filterMap fun x => match x with
    | .cist b _ _ => some b
    | .dev _ _ => none).eraseDups

/-- Something that the operation uses, with its parameters resolved, is fenced. -/
def State.opFenced (s : State) (kind inst jet params : Nat) : Bool :=
  if kind = 8 ∨ kind = 9 then s.fencedBasin inst || (opUnits kind jet params).any (s.unitFenced inst)
  else (match kindClass kind with
    | some c => s.engineFenced c inst
    | none => false) || (s.wellBasins kind params).any s.fencedBasin

/-- A standby or a spare is named. -/
def State.namesStandby (s : State) (kind i params : Nat) : Bool :=
  if kind = 8 ∨ kind = 9 then s.regBit .radioStandby 0 i
  else (match kindClass kind with
    | some c => s.spareOf c == some i
    | none => false) || (s.wellBasins kind params).any (s.regBit .radioStandby 0)

/-! ### Admission (R283) -/

/-- Why admission ends: a status, and with ST_PLAN_REJECTED a reason of Table 13-8 and the operation. -/
structure Denial where
  code : Nat
  reason : Nat
  op : Option Nat
  deriving DecidableEq, Repr

def denyOp (reason i : Nat) : Option Denial := some ⟨stPlanRejected, reason, some i⟩
def denyPlan (reason : Nat) : Option Denial := some ⟨stPlanRejected, reason, none⟩

/-- The fields of entry `i`. -/
def Pe.ok (d i slot : Nat) : Bool :=
  onlyFields d Pe.fields && decide (Pe.inst d < kindSize (Pe.kind d)) && Pe.dep0 d ≤ i && Pe.dep1 d ≤ i &&
    Pe.deadline d ≤ 4 * slot && Pe.paramAddr d % 64 == 0 && (Pe.kind d == 9 || Pe.budget d == 0)

/-- The parameter block of a JET operation with the jet of its entry. -/
def jetParams (d p : Nat) : Nat := putBits p 8 1 (Pe.jet d)

/-- The checks of a JET operation's tile in basin `b`: status, and chain. -/
def State.radioJetCheck (s : State) (b d : Nat) : Nat × Nat :=
  if !Jd.valid d then (stDescInvalid, 0)
  else s.chainCheckIn (s.radioBounds b) b (Jd.chainAddr d) (Jd.use d) fun ch =>
    Jd.needs d ++ (if Jd.chainAddr d = 0 then [] else Jd.chainNeeds d ch)

/-- The first instruction of a SPOUT operation on basin `b` lies where slice 0 may have it (R282): the radio's part of the cistern
or the pool, or slice 0's ranges. A job address is checked at its receiver (R193). -/
def State.entryPcOk (s : State) (b pc : Nat) : Bool :=
  if pc < cisternBytes then Need.within (s.radioBounds b) ⟨.cistern, pc, 2⟩
  else if 0x1000000 ≤ pc && pc < 0x1000000 + 32 * poolWords then Need.within (s.radioBounds b) ⟨.pool, (pc - 0x1000000) / 32, 1⟩
  else if pc / 2 ^ 44 = 1 then s.devOk 0 (pc % 2 ^ 44) 2
  else pc / 2 ^ 52 == 1

/-- The parameter check of a SPOUT operation (R195). -/
def spoutOpOk (p : Nat) : Bool := slice p 64 8 != 0 && slice p 0 1 == 0 && slice p 72 24 == 0 && slice p 256 256 == 0

/-- The parameter check and the addresses of entry `d` with parameters `p`, in its resolved basin or engine. -/
def State.paramCheck (s : State) (i d p : Nat) : Option Denial :=
  let k := Pe.kind d
  if k = 8 then
    match (s.radioJetCheck (s.resolveInst 8 (Pe.inst d)) (jetParams d p)).1 with
    | 0 => none
    | c => if c = stDescInvalid then denyOp 4 i else if c = stAddrFault then denyOp 5 i else some ⟨c, 0, some i⟩
  else if k = 9 then
    if !spoutOpOk p then denyOp 4 i else if s.entryPcOk (s.resolveInst 9 (Pe.inst d)) (slice p 0 64) then none else denyOp 5 i
  else
    let q := s.resolveParams k p
    if !wellParamsOk k p then denyOp 4 i
    else if !((s.wellReads k q ++ s.wellWrites k q).all s.placeOk) || !s.harqOk k q then denyOp 5 i
    else if k = 6 && (List.range (Pr.nWin q)).any fun w => (s.prachWindow q w).2 == 0 then denyOp 4 i
    else none

/-- The checks of entry `i`, in order: fields, parameters and addresses, engine. -/
def State.opCheck (s : State) (slot i d : Nat) : Option Denial :=
  if !Pe.ok d i slot then denyOp 3 i
  else if !s.devOk 0 (Pe.paramAddr d) 64 then denyOp 5 i
  else if s.devFenced (Pe.paramAddr d) 64 then some ⟨stMemFenced, 0, some i⟩
  else
    let p := s.devNat (Pe.paramAddr d) 64
    let r := s.resolveInst (Pe.kind d) (Pe.inst d)
    match s.paramCheck i d p with
    | some x => some x
    | none =>
      if s.namesStandby (Pe.kind d) (Pe.inst d) p || s.opFenced (Pe.kind d) r (Pe.jet d) (s.resolveParams (Pe.kind d) p) then denyOp 9 i
      else none

/-- The first denial of entries `i` on. -/
def State.opChecks (s : State) (slot : Nat) : Nat → List Nat → Option Denial
  | _, [] => none
  | i, d :: ds => match s.opCheck slot i d with
    | some x => some x
    | none => State.opChecks s slot (i + 1) ds

/-- An operation as its entry and parameters give it, before its bound. -/
def State.opOfEntry (s : State) (d : Nat) : RadioOp :=
  let k := Pe.kind d
  let p := s.devNat (Pe.paramAddr d) 64
  let r := s.resolveInst k (Pe.inst d)
  let p := if k = 8 then jetParams d p + 2 ^ 512 * (if Jd.chainAddr p = 0 then 0 else s.readChain r (Jd.chainAddr p)) else p
  ⟨k, r, Pe.jet d, Pe.dep0 d, Pe.dep1 d, Pe.startOff d, Pe.deadline d, p, Pe.budget d, 0, 0, false, false, false, [], .none, [], 0, 0⟩

/-! ### Bounds (admit_bounds) -/

/-- Window pieces of periods `k` to `k + 2`: open and close in counts. -/
def GateList.pieces (l : GateList) (k : Nat) : List (Nat × Nat) :=
  (List.range 3).flatMap fun j => l.windows.map fun w => (l.base + (k + j) * l.period + w.1, l.base + (k + j) * l.period + w.2)

/-- The first window that ends after `t`; one that joins the next period's first ends where that one does. -/
def GateList.windowAfter (l : GateList) (t : Nat) : Option (Nat × Nat) :=
  match (l.pieces ((t - l.base) / l.period)).find? (t < ·.2) with
  | some w => match l.windows.head? with
    | some f => if l.joined && (w.2 - l.base) % l.period == 0 then some (w.1, w.2 + f.2) else some w
    | none => some w
  | none => none

/-- The gate list of basin `b` in force at `t`. -/
def State.gateListIn (s : State) (b t : Nat) : Option GateList :=
  let x := s.basin b
  match x.pendAct with
  | some a => if a ≤ t then x.pendList else x.gateList
  | none => x.gateList

/-- The carry of admit_bounds: tentative tails, and the bound ends so far. -/
structure Bend where
  tails : List (Nat × Nat)
  bends : List Nat
  deriving DecidableEq, Repr

/-- Bound end of dependency `d` of a plan, 0 where there is none. -/
def Bend.dep (x : Bend) (d : Nat) : Nat := if d = 0 then 0 else x.bends.getD (d - 1) 0

/-- One operation of admit_bounds: the new carry, or the denial. -/
def State.boundOp (s : State) (carrier slotStart i : Nat) (x : Bend) (o : RadioOp) : Bend ⊕ Denial :=
  let e := opEngine carrier o.kind o.inst o.jet
  let t := max (max (slotStart + o.startOff) (Tbl.get 0 x.tails e)) (max (x.dep o.dep0) (x.dep o.dep1))
  let gate := (o.kind == 8 || o.kind == 9) && !s.reserved o.inst
  let win := if gate then (s.gateListIn o.inst t).bind (·.windowAfter t) else none
  let t := match win with | some w => max t w.1 | none => t
  let done := t + ceilDiv (13 * opCycles o.kind o.params o.budget) 16
  let fits := match win with | some w => done ≤ w.2 | none => !gate
  if !fits then .inr ⟨stPlanRejected, 7, some i⟩
  else if slotStart + o.deadline < done then .inr ⟨stPlanRejected, 6, some i⟩
  else .inl ⟨Tbl.set 0 x.tails e done, x.bends ++ [done]⟩

/-- admit_bounds. -/
def State.boundOps (s : State) (carrier slotStart : Nat) : Nat → Bend → List RadioOp → Bend ⊕ Denial
  | _, x, [] => .inl x
  | i, x, o :: l => match s.boundOp carrier slotStart i x o with
    | .inl x => State.boundOps s carrier slotStart (i + 1) x l
    | .inr d => .inr d

/-! ### SLOT_PLAN -/

/-- Entries of the plan store that plans hold. -/
def State.storeUsed (s : State) : Nat := s.radio.plans.foldl (fun a p => a + p.ops.length) 0

/-- RADIO_STATUS.store_free. -/
def State.storeFree (s : State) : Nat := 65536 - s.storeUsed

/-- A plan that starts at `t` and whose latest deadline is `last` lies outside the service of carrier `c` (R301, R302). -/
def State.migrationDenies (s : State) (c t last : Nat) : Bool :=
  s.on Fld.carStatusMigratedOut c ||
    (match s.migration c false with
      | some m => m.switch ≤ t || m.switch < last
      | none => false) ||
    (s.on Fld.carStatusMigratingIn c && match s.migration c true with
      | some m => t < m.switch + 2 * s.carSlot c
      | none => true)

/-- Checks 1 to 3, the plan's place, and the carrier's service, for a plan with parameters `p`. -/
def State.planCheck (s : State) (p stamp : Nat) : Option Denial :=
  let c := Pl.carrier p
  let S := Pl.slotStart p
  let n := Pl.nOps p
  if !onlyFields p [(0, 20), (64, 108)] || !s.on Fld.radioCtrlEnable || 192 ≤ c || !s.on Fld.carCtrlEnable c || Pl.planAddr p % 32 != 0 ||
      S < s.reg .carSlotBase c || (S - s.reg .carSlotBase c) % s.carSlot c != 0 then denyPlan 1
  else if S < stamp + 2 * s.carSlot c then some ⟨stPlanLate, 0, none⟩
  else if s.storeFree < n then denyPlan 2
  else if !s.devOk 0 (Pl.planAddr p) (32 * n) then denyPlan 5
  else none

/-- The entries of a plan. -/
def State.planEntries (s : State) (p : Nat) : List Nat := (List.range (Pl.nOps p)).map fun i => s.devNat (Pl.planAddr p + 32 * i) 32

/-- Admission: the operations with their bounds and the tails, or the denial. -/
def State.admission (s : State) (p stamp : Nat) (poison : Bool) : (List RadioOp × List (Nat × Nat)) ⊕ Denial :=
  let c := Pl.carrier p
  let S := Pl.slotStart p
  match s.planCheck p stamp with
  | some d => .inr d
  | none =>
    if poison then .inr ⟨stMemPoison, 0, none⟩
    else if s.devFenced (Pl.planAddr p) (32 * Pl.nOps p) then .inr ⟨stMemFenced, 0, none⟩
    else
      let es := s.planEntries p
      if s.migrationDenies c S (S + (es.map Pe.deadline).foldl max 0) then .inr ⟨stPlanRejected, 8, none⟩
      else match s.opChecks (s.carSlot c) 0 es with
        | some d => .inr d
        | none =>
          let os := es.map s.opOfEntry
          match s.boundOps c S 0 ⟨s.radio.tails, []⟩ os with
          | .inr d => .inr d
          | .inl x => .inl ((os.zip x.bends).map fun t => { t.1 with bound := t.2 }, x.tails)

/-- A rejection shows in PLAN_REJECT; the operation of a rejection that no operation caused is not stated. -/
def State.showReject (s : State) (p : Nat) (d : Denial) : State :=
  let (n, s) := s.free
  (((s.wr Fld.planRejectCarrier 0 (Pl.carrier p)).wr Fld.planRejectReason 0 d.reason).wr Fld.planRejectOp 0 (d.op.getD n)).setReg
    .planRejectSlot 0 (Pl.slotStart p)

/-- An admitted plan is kept, with the tails it leaves. -/
def State.planAdmitted (s : State) (c : Cmd) (os : List RadioOp) (tails : List (Nat × Nat)) : State :=
  let p := c.params
  let s := s.modCmd c.id fun k => { k with hbmB := k.hbmB + flitBytes (Pl.planAddr p) (32 * os.length) + 64 * os.length }
  let s := (s.startRunning c.id).bump Fld.plansAdmittedAdmitted 0
  let s := s.each (os.filter fun o => o.kind == 8 && Jd.chainAddr o.tile != 0) fun s o =>
    s.wr Fld.runnelTagTileTag o.inst (Jd.tileTag o.tile)
  { s with radio := { s.radio with tails := tails, plans := s.radio.plans ++ [⟨c.id, Pl.carrier p, Pl.slotStart p, os⟩] } }

/-- How admission ends a SLOT_PLAN: admitted, or completed with its status. -/
def State.planEnds (s : State) (c : Cmd) : (List RadioOp × List (Nat × Nat)) ⊕ Denial → State
  | .inr d => (if d.code = stPlanRejected then s.showReject c.params d else s).finishNow c d.code
  | .inl x => s.planAdmitted c x.1 x.2

/-- SLOT_PLAN acts. -/
def State.slotPlanAct (s : State) (c : Cmd) (poison : Bool) : State := s.planEnds c (s.admission c.params c.start poison)

def execSlotPlan (dt r : Nat) (poison : Bool) (s : State) : Host.Outcome State Fault Refusal :=
  enter (.slotPlan dt r poison) dt s fun s => s.actH r 0x30 fun s c => s.slotPlanAct c poison

end Sys2Proof.Machine
end

