-- ==== Sys2Proof/Machine/RadioRun.lean ====
section
/-! DEFINITION. Execution of admitted operations, overruns and takeovers (R279, R281, R284 to R286, R298, R300). -/
namespace Sys2Proof.Machine

/-! ### Operations in their plans -/

/-- Change operation `i` of the plan of command `id`. -/
def State.modOp (s : State) (id i : Nat) (f : RadioOp → RadioOp) : State :=
  { s with radio := { s.radio with plans := s.radio.plans.map fun p =>
      if p.cmd = id then { p with ops := p.ops.mapIdx fun k o => if k = i then f o else o } else p } }

/-- Change every operation of the plan of command `id`, by its index. -/
def State.modOps (s : State) (id : Nat) (f : Nat → RadioOp → RadioOp) : State :=
  { s with radio := { s.radio with plans := s.radio.plans.map fun p =>
      if p.cmd = id then { p with ops := p.ops.mapIdx f } else p } }

def State.plan? (s : State) (id : Nat) : Option Plan := s.radio.plans.find? (·.cmd == id)

/-- Operation `i` of the `k`-th admitted plan. -/
def State.opAt (s : State) (k i : Nat) : Option (Plan × RadioOp) :=
  match s.radio.plans[k]? with
  | some p => (p.ops[i]?).map fun o => (p, o)
  | none => none

/-- The engine of an operation. -/
def Plan.engineOf (p : Plan) (o : RadioOp) : Nat := opEngine p.carrier o.kind o.inst o.jet

/-- The next operation of an engine in admission order: the first that has not ended. -/
def State.nextOp (s : State) (e : Nat) : Option (Plan × Nat × RadioOp) :=
  s.radio.plans.findSome? fun p => (p.ops.zipIdx.find? fun x => p.engineOf x.1 == e && x.1.st < 2).map fun x => (p, x.2, x.1)

/-- The dependencies of an operation have ended. -/
def Plan.depsEnded (p : Plan) (o : RadioOp) : Bool :=
  [o.dep0, o.dep1].all fun d => d == 0 || match p.ops[d - 1]? with | some x => x.st == 2 | none => false

/-- The next operation of engine `e`, when it is of this kind and may start now (R284). -/
def State.startable (s : State) (e kind : Nat) : Option (Plan × Nat × RadioOp) :=
  (s.nextOp e).filter fun x =>
    let o := x.2.2
    o.kind == kind && o.st == 0 && decide (x.1.slotStart + o.startOff ≤ s.now) && x.1.depsEnded o && !s.safe &&
      !s.opFenced kind o.inst o.jet (s.resolveParams kind o.params) && (!o.inBasin || s.mayStart 0 o.inst)

/-! ### What follows from an operation that fails (R300) -/

/-- Waiting operations that depend on operation `i`, directly or transitively. -/
def Plan.dependants (p : Plan) (i : Nat) : List Nat :=
  (p.ops.zipIdx.foldl (fun (acc : List Nat) x =>
    if x.1.st == 0 && (acc.contains (x.1.dep0 - 1) && x.1.dep0 != 0 || acc.contains (x.1.dep1 - 1) && x.1.dep1 != 0) then acc ++ [x.2] else acc)
    [i]).drop 1

/-- They are skipped. -/
def State.skipDependants (s : State) (p : Plan) (i : Nat) : State :=
  let l := p.dependants i
  (s.modOps p.cmd fun k o => if l.contains k then { o with st := 4 } else o).bump Fld.opsSkippedSkipped 0 l.length

/-- A slot overrun of operation `i`. -/
def State.overrunOp (s : State) (p : Plan) (i : Nat) : State :=
  let s := (s.modOp p.cmd i fun o => { o with late := true }).skipDependants p i
  (s.reportBits (unitHub 3) 2 [(0, 8, p.carrier), (16, 12, i), (28, 4, 0), (32, 32, p.slotStart)]).bump Fld.slotOverrunsOverruns 0

/-- The status of a plan whose operations have all ended or been skipped (R286). An overflow under policy 2 shows in acc_flags
alone, since R286 lists no ST_ANCHOR_OVERFLOW though R55 names it (DESIGN CHOICE, log entry 42). -/
def Plan.status (p : Plan) : Nat :=
  if p.ops.any (·.late) then stSlotOverrun else if p.ops.any (·.poison) then stMemPoison else stOk

/-- The plan of command `id` completes when every operation of it has ended or been skipped. -/
def State.planCheckEnd (s : State) (id : Nat) : State :=
  s.forSome (s.plan? id) fun s p =>
    if p.ops.any (·.st < 2) then s else
    let s := { s with radio := { s.radio with plans := s.radio.plans.filter (·.cmd != id) } }
    s.forSome (s.cmd? id) fun s c =>
      s.finish { c with flags := p.ops.foldl (fun a o => AccFlags.or a o.flags) c.flags } p.status

/-! ### Starting wellhead operations (R287 to R293) -/

/-- The start of DMRS symbol `l` of the plan's slot. -/
def State.planSymbol (s : State) (p : Plan) (l : Nat) : Nat :=
  s.symStart p.carrier ((p.slotStart - s.reg .carSlotBase p.carrier) / s.carSlot p.carrier) l

/-- What a wellhead operation computes. -/
def State.wellRun (s : State) (p : Plan) (kind d : Nat) : OpRes :=
  match kind with
  | 1 => s.ldpcDecRun d
  | 2 => s.ldpcEncRun d
  | 3 => s.polarDecRun d
  | 4 => s.polarEncRun d
  | 5 => s.dftRun d
  | 6 => s.prachRun p.carrier (s.carMu p.carrier) p.slotStart d
  | 7 => s.dmrsRun p.carrier (s.carMu p.carrier) (s.planSymbol p (Dm.sym d)) d
  | _ => ⟨[], .none, []⟩

/-- Spans of the cisterns that an operation reads and writes. -/
def placeSpans (id kind : Nat) (l : List Place) : List (Nat × Span) :=
  l.filterMap fun p => match p with
    | .cist b a n => if n = 0 then none else some (b, ⟨id, false, a, n, kind⟩)
    | .dev _ _ => none

/-- The basins that a wellhead operation touches. -/
def State.wellSpans (s : State) (id kind d : Nat) : List (Nat × Span) :=
  placeSpans id 0 (s.wellReads kind d) ++ placeSpans id 1 (s.wellWrites kind d)

/-- Operation `i` starts: its operands are read and its results computed. -/
def State.wellStart (s : State) (p : Plan) (i : Nat) (o : RadioOp) (poison : Bool) : State :=
  let d := s.resolveParams o.kind o.params
  let reads := s.wellReads o.kind d
  let race := placeSpans (opSpanId p.cmd i) 0 reads
  let s := s.each ((race.map (·.1)).eraseDups) fun s b => s.raceReads b (opSpanId p.cmd i) ((race.filter (·.1 == b)).map (·.2))
  let bad := poison || s.placesBad reads
  let r := s.wellRun p o.kind d
  let s := s.placesRead reads
  let s := { s with freeCtr := s.freeCtr + 2 ^ 24 }
  let s := s.modOp p.cmd i fun o => { o with
    st := 1, params := d, poison := bad, writes := if bad then r.writes.map PWrite.abandoned else r.writes,
    flags := if bad then .none else r.flags, records := if bad then [] else r.records }
  let sp := s.wellSpans (opSpanId p.cmd i) o.kind d
  s.each ((sp.map (·.1)).eraseDups) fun s b =>
    s.beginSpans b (opSpanId p.cmd i) ((sp.filter (·.1 == b)).map (·.2))

/-- The next operation of engine `e` starts, when it is of this kind. -/
def State.startWell (s : State) (e kind : Nat) (poison : Bool) : State :=
  s.forSome (s.startable e kind) fun s x => s.wellStart x.1 x.2.1 x.2.2 poison

def execLdpcDec (dt i : Nat) (poison : Bool) (s : State) : Host.Outcome State Fault Refusal :=
  enter (.ldpcDec dt i poison) dt s fun s => s.startWell (opEngine 0 1 i 0) 1 poison
def execLdpcEnc (dt i : Nat) (poison : Bool) (s : State) : Host.Outcome State Fault Refusal :=
  enter (.ldpcEnc dt i poison) dt s fun s => s.startWell (opEngine 0 2 i 0) 2 poison
def execPolarDec (dt i : Nat) (poison : Bool) (s : State) : Host.Outcome State Fault Refusal :=
  enter (.polarDec dt i poison) dt s fun s => s.startWell (opEngine 0 3 i 0) 3 poison
def execPolarEnc (dt i : Nat) (poison : Bool) (s : State) : Host.Outcome State Fault Refusal :=
  enter (.polarEnc dt i poison) dt s fun s => s.startWell (opEngine 0 4 i 0) 4 poison
def execDft (dt i : Nat) (poison : Bool) (s : State) : Host.Outcome State Fault Refusal :=
  enter (.dft dt i poison) dt s fun s => s.startWell (opEngine 0 5 i 0) 5 poison
def execPrach (dt i : Nat) (poison : Bool) (s : State) : Host.Outcome State Fault Refusal :=
  enter (.prach dt i poison) dt s fun s => s.startWell (opEngine 0 6 i 0) 6 poison
def execDmrsMeas (dt i : Nat) (poison : Bool) (s : State) : Host.Outcome State Fault Refusal :=
  enter (.dmrsMeas dt i poison) dt s fun s => s.startWell (opEngine 0 7 i 0) 7 poison

/-! ### C-plane messages (R279) -/

/-- The offset of the eCPRI header: after one VLAN tag, where there is one. -/
def ecpriAt (m : List Byte) : Nat := if m.getD 12 0 = 0x81 ∧ m.getD 13 0 = 0 then 18 else 14

/-- The message with its seqId from the counter of its eAxC ID, and the state with the counter advanced. -/
def State.cplaneFrame (s : State) (m : List Byte) : List Byte × State :=
  let h := ecpriAt m
  let id := (m.getD (h + 4) 0).toNat * 256 + (m.getD (h + 5) 0).toNat
  let (seq, s) := s.nextSeq id
  (setAt m (h + 6) (BitVec.ofNat 8 seq), s)

/-- A C-plane message is transmitted. -/
def State.cplaneStart (s : State) (p : Plan) (i : Nat) (o : RadioOp) (poison : Bool) : State :=
  let a := slice o.params 0 44
  let n := slice o.params 48 11
  let bad := poison || s.devFenced a n
  let s := s.modOp p.cmd i fun o => { o with st := 1, poison := bad }
  if bad then s else
  let (m, s) := s.cplaneFrame (s.devRead a n)
  let port := s.rd Fld.carCtrlEthPort p.carrier
  s.originate port (s.rd Fld.ethSrcTcCplaneTc port) 0 m

def execCplaneTx (dt c : Nat) (poison : Bool) (s : State) : Host.Outcome State Fault Refusal :=
  enter (.cplaneTx dt c poison) dt s fun s =>
    s.forSome (s.startable (opEngine c 10 0 0) 10) fun s x => s.cplaneStart x.1 x.2.1 x.2.2 poison

/-! ### JET and SPOUT operations (R281) -/

/-- Radio work begins in basin `b`. -/
def State.workBegins (s : State) (b : Nat) : State := s.setBasin b { s.basin b with radioWork := (s.basin b).radioWork + 1 }

/-- The cycles of the load with which a JET operation begins: none where the bank holds its operand. -/
def State.radioLoadLen (s : State) (i d : Nat) : Nat :=
  if Jd.forceLoad d = 0 && s.bankUsable i d then 0 else jetLoadLen (Jd.fmtB d) (Jd.depth d)

/-- The stationary operand of a JET operation is loaded, unless the bank holds it. -/
def State.radioLoad (s : State) (i d : Nat) : State :=
  if Jd.forceLoad d = 0 && s.bankUsable i d then s else
  let k := s.jetBank (i / 2) d
  let s := if Jd.forceLoad d = 0 then s.bump Fld.jetReloadsReloads i else s
  let s := s.eccReads (i / 2) (jetLoadNeeds d)
  (s.setJet i ((s.jet i).setBank (Jd.bank d) k)).wr (bankFld (Jd.bank d)) i 1

/-- A JET operation starts. -/
def State.radioJetStart (s : State) (p : Plan) (n : Nat) (o : RadioOp) : State :=
  let b := o.inst
  let i := 2 * b + o.jet
  let d := o.tile
  let c := o.chain
  let id := opSpanId p.cmd n
  let load := s.radioLoadLen i d
  -- a load that follows the jet's last tile at once is a bubble of what that tile's stream does not cover (R78)
  let s := if Tbl.find s.pwr.lastRun i = some s.now then s.bump Fld.jetBubbleCyclesBubbleCycles i (load - (s.jet i).stream) else s
  let s := ((s.workBegins b).raceReads b id ((jetLoadNeeds d).filterMap (Need.span id))).radioLoad i d
  let bank := (s.jet i).bank (Jd.bank d)
  let s := s.raceReads b id ((s.jetCompute (s.radioBounds b) b d c bank).reads.filterMap (Need.span id))
  let r := s.jetCompute (s.radioBounds b) b d c bank
  let s := s.eccReads b r.reads
  let s := { s with freeCtr := s.freeCtr + 4096 }
  let s := (s.laneCounts b r.pro).bump Fld.runnelProRowsProRows b r.pro.length
  let s := (s.wr Fld.jetStatusFrontTag i (Jd.bank d)).wr Fld.jetTileTagTileTag i (Jd.tileTag d)
  let (s, e) := if Jd.dstMode d = 2 then s.runList b c (Jd.anchorOf d) r.drained else (s, ⟨[], [], .none, []⟩)
  let s := s.modOp p.cmd n fun o => { o with
    st := 1, start := s.now, load := load, writes := r.writes ++ e.writes, flags := r.flags.or e.flags, poison := (r.codes ++ e.codes).contains stMemPoison
    records := [] }
  s.beginSpans b id (jetLoadNeeds d |>.filterMap (Need.span id) |>.append (r.reads.filterMap (Need.span id)) |>.append
    (r.writes.filterMap (PWrite.span id)) |>.append (if Jd.hands d then chainSpans id c (Jd.rows d) (Jd.nValid d) else []))

def execRadioJetOp (dt b j : Nat) (ups : List Upset) (s : State) : Host.Outcome State Fault Refusal :=
  enter (.radioJetOp dt b j ups) dt s fun s =>
    let s := s.upsets ups
    s.forSome ((s.startable (opEngine 0 8 b j) 8).filter fun x => Jd.chainAddr x.2.2.tile == 0 || s.noLone b) fun s x =>
      let (s, ok) := s.takeStart (2 * b + j) 4
      if ok then s.radioJetStart x.1 x.2.1 x.2.2 else s

/-- A SPOUT operation starts: its cores run in the context of the basin. -/
def State.radioSpoutStart (s : State) (p : Plan) (i : Nat) (o : RadioOp) : State :=
  let b := o.inst
  let w := slice o.params 160 32
  let s := (s.workBegins b).modOp p.cmd i fun o => { o with st := 1 }
  s.beginTask (s.ctx b)
    { cmd := 0, radioOp := some (p.cmd, i), slice := 0, live := 0, start := s.now, held := false,
      watchdog := if w = 0 then 0 else s.now + 1024 * w, addrFault := false, trap := false, timeout := false, exitNz := false, poison := false,
      cyc := 0 }
    o.params

def execRadioSpoutOp (dt b : Nat) (s : State) : Host.Outcome State Fault Refusal :=
  enter (.radioSpoutOp dt b) dt s fun s =>
    s.forSome (s.startable (opEngine 0 9 b 0) 9) fun s x =>
      s.whenever (s.basin (s.ctx b)).task.isNone fun s =>
        let (s, ok) := s.takeStart (320 + b) ((List.range 8).filter fun k => bitAt x.2.2.params (64 + k)).length
        if ok then s.radioSpoutStart x.1 x.2.1 x.2.2 else s

/-- The context of basin `b` whose task is a radio operation, with the task and the operation's place. -/
def State.radioTask (s : State) (b : Nat) : Option (Nat × Task × Nat × Nat) :=
  [b, 64 + b].findSome? fun q => match (s.basin q).task with
    | some t => t.radioOp.map fun r => (q, t, r.1, r.2)
    | none => none

def execSpoutBudgetStop (dt b : Nat) (s : State) : Host.Outcome State Fault Refusal :=
  enter (.spoutBudgetStop dt b) dt s fun s =>
    s.forSome (s.radioTask b) fun s x =>
      s.forSome ((s.plan? x.2.2.1).bind (·.ops[x.2.2.2]?)) fun s o =>
        s.whenever (x.2.1.live != 0 && decide (o.budget ≤ s.taskCycles x.1 x.2.1)) fun s =>
          (s.stopCores x.1).setBasin x.1 { s.basin x.1 with task := some { x.2.1 with live := 0 }, waiters := waitsLeft (s.basin x.1).waiters }

/-! ### Ends (R285, R286, R300) -/

/-- The last writes of a JET operation; an emitting tile's epilogue follows its pool writes. -/
def State.radioJetEnd (s : State) (o : RadioOp) (bad : List (Nat × Nat)) (stalls : Nat) : State × RadioOp :=
  let b := o.inst
  let d := o.tile
  let rows := s.jetRows (s.radioBounds b) b d
  let bad := bad.filter (s.jetCompares b d rows o.writes)
  let s := s.each bad fun s x => s.jetMismatch b o.jet x.1 x.2
  let (s, failed) := s.doWrites b (if bad.isEmpty then o.writes else o.writes.map PWrite.abandoned)
  let s := s.jetCycles (2 * b + o.jet) d o.chain rows stalls
  if Jd.dstMode d != 2 && Jd.hands d then
    let (s, e) := s.runList b o.chain (Jd.anchorOf d) (s.emitted rows b d [] (!bad.isEmpty || o.poison))
    let (s, failed') := s.doWrites b e.writes
    (s, { o with flags := o.flags.or e.flags, poison := o.poison || failed || failed' || e.codes.contains stMemPoison })
  else (s, { o with poison := o.poison || failed })

/-- What an operation's end writes: the state, the operation; none while a SPOUT operation still runs. -/
def State.opWrites (s : State) (p : Plan) (i : Nat) (o : RadioOp) (bad : List (Nat × Nat)) (stalls : Nat) : Option (State × RadioOp) :=
  if o.kind = 8 then some (s.radioJetEnd o bad stalls)
  else if o.kind = 9 then
    match s.radioTask o.inst with
    | some (q, t, id, k) =>
      if id = p.cmd ∧ k = i ∧ t.live = 0 ∧ s.coresDrained q then some (s.taskEnd q stOk, { o with poison := t.poison }) else none
    | none => none
  else
    let (s, failed) := s.doWrites o.basin o.writes
    some (s, { o with poison := o.poison || failed })

/-- Operation `i` of plan `p` has ended. -/
def State.opEnded (s : State) (p : Plan) (i : Nat) (o : RadioOp) : State :=
  let overdue := decide (p.slotStart + o.deadline < s.now)
  let fails := o.late || overdue || o.poison
  let s := s.opStopped p i o
  let s := s.each ((s.wellSpans 0 o.kind o.params).map (·.1)).eraseDups fun s b => s.endSpans b (opSpanId p.cmd i)
  let s := s.bump Fld.measRecordsRecords 0 (if o.poison then 0 else o.records.length)
  let s := s.modOp p.cmd i fun _ => { o with st := if fails then 3 else 2, writes := [], records := [] }
  let s := if overdue && !o.late then s.overrunOp p i else if o.poison && !o.late then s.skipDependants p i else s
  let s := if o.bound < s.now && !overdue && !o.moved then s.bump Fld.boundMissesMisses 0 else s
  s.planCheckEnd p.cmd

def execRadioOpEnd (dt k i : Nat) (ups : List Upset) (met : OpMet) (s : State) : Host.Outcome State Fault Refusal :=
  enter (.radioOpEnd dt k i ups met) dt s fun s =>
    let s := s.upsets ups
    s.forSome (s.opAt k i) fun s x =>
      s.whenever (x.2.st == 1) fun s =>
        s.forSome (s.opWrites x.1 i x.2 met.bad met.stalls) fun _ r => r.1.opEnded x.1 i r.2

/-! ### Takeovers (R298) -/

/-- Something of basin `b` is fenced that concerns the radio: the basin, or a unit that an admitted operation names. -/
def State.basinHit (s : State) (b : Nat) : Bool :=
  s.fencedBasin b || s.radio.plans.any fun p => p.ops.any fun o =>
    o.inBasin && o.inst == b && (opUnits o.kind o.jet o.params).any (s.unitFenced b)

/-- The standby that may take over basin `b`: in service, and serving no takeover yet. -/
def State.standbyFor (s : State) (b : Nat) : Option Nat :=
  let t := s.rd Fld.radioProtectStandby b
  if s.on Fld.radioProtectValid b && !s.on Fld.radioProtectTakenOver b && !s.fencedBasin t &&
      (List.range 64).all (fun x => !(s.on Fld.radioProtectTakenOver x && s.rd Fld.radioProtectAlias x == t)) then some t else none

/-- The spare that may take over instance `i` of a class. -/
def State.spareFor (s : State) (cls i : Nat) : Option Nat :=
  (s.spareOf cls).filter fun t => t != i && !s.engineFenced cls t && s.radio.spares.all (·.1 != cls)

/-- The operation's unit is fenced and nothing can take it over. -/
def State.cannotRun (s : State) (o : RadioOp) : Bool :=
  if o.inBasin then s.opFenced o.kind o.inst o.jet o.params && (s.standbyFor o.inst).isNone
  else (match kindClass o.kind with
    | some c => s.engineFenced c o.inst && (s.spareFor c o.inst).isNone
    | none => false) || (s.wellBasins o.kind (s.resolveParams o.kind o.params)).any fun b => s.fencedBasin b && (s.standbyFor b).isNone

def execSlotOverrun (dt k i : Nat) (s : State) : Host.Outcome State Fault Refusal :=
  enter (.slotOverrun dt k i) dt s fun s =>
    s.forSome (s.opAt k i) fun s x =>
      let stuck := x.2.st == 0 && s.cannotRun x.2
      s.whenever (x.2.st < 2 && !x.2.late && (stuck || decide (x.1.slotStart + x.2.deadline < s.now))) fun s =>
        let s := if stuck then s.modOp x.1.cmd i fun o => { o with st := 3 } else s
        (s.overrunOp x.1 i).planCheckEnd x.1.cmd

/-- The plan with its operations of basin `b` on `t`, those that had ended, failed or not, among them, if one of them has not
ended. One that was skipped stays skipped (DEDUCED, log entry 42: it has not ended, R286). -/
def Plan.moveBasin (p : Plan) (b t : Nat) : Plan :=
  let mine (o : RadioOp) : Bool := o.inBasin && o.inst == b
  let open_ := p.ops.any fun o => mine o && o.st < 2
  { p with ops := p.ops.map fun o => if open_ && mine o && o.st < 4 then { o.again with inst := t, moved := true } else o }

/-- The operations of basin `b` move to its standby `t`. -/
def State.moveBasin (s : State) (b t : Nat) : State :=
  { s with radio := { s.radio with plans := s.radio.plans.map (·.moveBasin b t) } }

/-- The standby of basin `b` takes over. -/
def State.takeBasin (s : State) (b t : Nat) : State :=
  let s := (s.abandonOps b fun _ => true).moveBasin b t
  let s := (s.wr Fld.radioProtectAlias b t).wr Fld.radioProtectTakenOver b 1
  s.bump Fld.takeoversTakeovers 0

/-- The plan with the unfinished operations of instance `i` of class `cls` on `t`. -/
def Plan.moveEngine (p : Plan) (cls i t : Nat) : Plan :=
  { p with ops := p.ops.map fun o =>
      if kindClass o.kind = some cls ∧ o.inst = i ∧ o.st < 2 then { o with inst := t, moved := true } else o }

/-- The spare takes the queue of instance `i`. -/
def State.takeEngine (s : State) (cls i t : Nat) : State :=
  let s := s.abandonRadio fun o => kindClass o.kind == some cls && o.inst == i
  let r := s.radio
  let s : State := { s with radio := { r with spares := r.spares ++ [(cls, i)], plans := r.plans.map (·.moveEngine cls i t) } }
  s.bump Fld.takeoversTakeovers 0

def execRadioTakeover (dt kind x : Nat) (s : State) : Host.Outcome State Fault Refusal :=
  enter (.radioTakeover dt kind x) dt s fun s =>
    if kind = 0 then s.whenever (s.basinHit x) fun s => s.forSome (s.standbyFor x) fun s t => s.takeBasin x t
    else s.whenever (s.engineFenced (kind - 1) x) fun s => s.forSome (s.spareFor (kind - 1) x) fun s t => s.takeEngine (kind - 1) x t

end Sys2Proof.Machine
end

