-- ==== Sys2Proof/Machine/Spillway.lean ====
section
/-! DEFINITION. The spillway (chapter 18): capture of reports, fence policy, recovery, the inference fence, the safe state, the
error pair, the silt record, health counters. -/
namespace Sys2Proof.Machine

/-! ### The inference fence (R386) -/

/-- The inference fence is set by the driver (1) or FC_DEVICE (2). -/
def State.setInferFence (s : State) (by_ : Nat) : State :=
  if s.safe then s else
  let new := !s.inferFenced
  let s := { s with spw := { s.spw with inferBy := max s.spw.inferBy by_ } }
  if !new then s else
  let s := (s.spwChange fun s => s.wr Fld.spwStatusState 0 1).event (unitHub 1) 5 0 0
  let s := s.each (List.range 127) fun s k => s.each (sliceRings (k + 1)) fun s r => s.haltRing r stUnitFenced
  let tenant (c : Cmd) : Bool := 1 ≤ c.slice && c.slice < 128
  let s := s.each s.saves fun s x => if 64 ≤ x.1 then s.endSaved (x.1 / 64) (x.1 % 64) stUnitFenced else s
  let s := s.each (s.cmds.filter fun c => tenant c && !c.begun) fun s c =>
    (if c.opcode = 0xA then s.cascadeDropFetch (c.target / 8 % 8) c.id else s).finishNow c stUnitFenced
  let s := s.each (List.range 64) fun s b =>
    let s := s.each ((s.executing b).filter tenant) fun s c => s.abandon c stUnitFenced
    match (s.basin b).task with
    | some t => if 1 ≤ t.slice ∧ t.slice < 128 then s.taskEnd b stUnitFenced else s
    | none => s
  let s := s.each ((List.range 1016).map (· + 8)) fun s r => s.discardQueued r stUnitFenced
  s.each (List.range 64) fun s b => if s.reserved b || s.gateListed b || s.gated b then s else s.gateLater b

/-- The write of infer_clear. -/
def State.clearInferFence (s : State) : State :=
  if s.spw.inferBy = 2 then s.info (unitHub 1)
  else if s.spw.inferBy = 1 then
    let s := { s with spw := { s.spw with inferBy := 0 } }
    (if s.safe then s else s.spwChange fun s => s.wr Fld.spwStatusState 0 0).event (unitHub 1) 6 0 0
  else s

/-! ### The safe state (R387) -/

/-- A command is over without a reply where the host port is down, and with ST_DEVICE_SAFE otherwise. -/
def State.safeEnd (s : State) (c : Cmd) : State :=
  let r := (s.dropWrites c).copyStopped c
  let s := r.1
  let c := r.2
  if s.boot.pcieUp then s.finish { c with outs := [] } stDeviceSafe else s.abandonSilent c

/-- The device enters its safe state (Table 18-6). -/
def State.enterSafe (s : State) : State :=
  if s.safe then { s with spw := { s.spw with safeDue := false } } else
  let s := { s with spw := { s.spw with safeDue := false, pinDue := false } }
  let s := s.spwChange fun s => s.wr Fld.spwStatusState 0 2
  let s := (s.event (unitHub 1) 7 0 0).freezeSilt
  let s := s.wr Fld.spwStatusPinError 0 1
  let s := s.each (List.range 1028) fun s r => s.haltRing r stDeviceSafe
  let s := s.abandonRadio fun _ => true
  let s := s.each (List.range 64) fun s b => s.taskEnd b stDeviceSafe
  let s := s.each s.saves fun s x => s.endSaved (x.1 / 64) (x.1 % 64) stDeviceSafe
  let s := s.each s.cmds fun s c => if (s.cmd? c.id).isSome then s.safeEnd c else s
  let s := if s.boot.pcieUp then s.each (List.range 1028) fun s r => s.discardQueued r stDeviceSafe else s
  let s := { s with radio := { s.radio with plans := [], migrations := [], tails := [] }, shadowing := [], cascades := [], rills := [] }
  let s := s.each (List.range 64) fun s b => s.setBasin b { s.basin b with switch := none, radioWork := 0 }
  { s with time := { s.time with outs := s.time.outs.map fun o => (o.1, { o.2 with asserted := false }) } }

/-! ### Capture (R392) -/

/-- The first report in the order of R28. -/
def firstReport : List Report → Option Report
  | [] => none
  | r :: rs =>
    match firstReport rs with
    | some x => if r.stamp < x.stamp ∨ (r.stamp = x.stamp ∧ r.unit ≤ x.unit) then some r else some x
    | none => some r

/-- An FC_UNIT report is counted against its item (R383, R384, R385). -/
def State.countReport (s : State) (r : Report) : State :=
  match reportItem r with
  | none => s
  | some (i, k) =>
    let x := s.item i
    let old := match x.last with
      | some t => decide (t + s.rd Fld.policyWindow k * 2 ^ 20 ≤ r.stamp)
      | none => true
    let n := (if old then 0 else x.count) + 1
    let s := s.setItem i { x with
      count := n, last := some r.stamp, named := x.testing != 0 || x.named, late := false
      since := if x.testing ≠ 0 || x.late then s.now else x.since }
    if x.fence = 0 ∧ s.rd Fld.policyThreshold k ≠ 0 ∧ s.rd Fld.policyThreshold k ≤ n then (s.fenceDecide i k 1).notePermanent i k else s

/-- The capture registers take a report (step 2 of R392). -/
def State.captureRegs (s : State) (r : Report) : State :=
  if r.cls < s.rd Fld.spwCtrlCapMin then s else
  let held := s.on Fld.spwCapInfoCapValid
  let last := s.on Fld.spwCtrlCapMode
  if held && !last then s else
  let s := (((s.wr Fld.spwCapInfoUnit 0 r.unit).wr Fld.spwCapInfoClass 0 r.cls).raise Fld.spwCapInfoCapValid 0)
  let s := (s.setReg .spwCapStamp 0 r.stamp).setReg .spwCapSynd 0 r.synd
  if held then s.bumpSat Fld.spwCapInfoCapCount 0 else s

/-- The report freezes the silt record (R393). -/
def State.freezes (s : State) (cls : Nat) : Bool := cls == 4 || cls == 5 || (cls == 2 && s.on Fld.spwCtrlSiltOnUnit)

/-- The report's entry is written where it belongs. -/
def State.entryReport (s : State) (r : Report) : State :=
  let log := r.cls != 0 || s.on Fld.spwCtrlLogInfo
  let silt := !s.siltFrozen && (bitAt (s.rd Fld.spwCtrlSiltMask) r.cls || s.freezes r.cls)
  if !log && !silt then s else
  let e := withSeq (entryWord r.stamp r.unit r.cls 0 0 r.synd) s.spw.seq
  let s := { s with spw := { s.spw with seq := s.spw.seq + 1 } }
  let s := if log then s.logPut e else s
  if silt then s.siltPut e else s

/-- The agents below which a unit lies, by the numbers of their heartbeats. -/
def agentsAbove (unit : Nat) : List Nat :=
  let t := 64 + unitTerraceOf unit
  if unit < 8192 then (if unit % 128 = 16 then [t] else [unitBasinOf unit, t])
  else if unit < 16384 ∧ unit % 128 ≠ 4 then [t] else []

/-- The report's source counts as unreporting: it is below an agent whose fourth heartbeat was missing when the report was
stamped, and that is neither fenced nor back (R29; DEDUCED, log entry 50: such a report is dropped). -/
def State.unreporting (s : State) (r : Report) : Bool :=
  (agentsAbove r.unit).any fun k => s.spw.silent.contains k && Tbl.get 0 s.spw.beats k + 4096 ≤ r.stamp

/-- The spillway processes one report. -/
def State.capture (s : State) (r : Report) : State :=
  if s.unreporting r then s else
  let s := (s.bump ⟨.classCount, 0, 64⟩ r.cls).raise ⟨.spwStatus, 8 + r.cls, 1⟩ 0
  let s := (s.captureRegs r).entryReport r
  let s := if bitAt (s.rd Fld.spwCtrlIrqMask) r.cls then s.interrupt 0 (s.rd Fld.spwCtrlIrqVector) else s
  let s := if bitAt (s.rd Fld.spwCtrlPinMask) r.cls then { s with spw := { s.spw with pinDue := true } } else s
  let s := if s.freezes r.cls then s.freezeSilt else s
  match r.cls with
  | 1 => s.health 0
  | 2 => (s.health 1).countReport r
  | 4 =>
    let s := s.health 2
    let s := if r.unit = unitDie 0 ∨ r.unit = unitDie 1 then
        s.each (List.range 4) fun s k =>
          let i := unitTerrace (4 * (r.unit - unitDie 0) + k) 4
          if (s.item i).fence = 0 then s.fenceDecide i 12 1 else s
      else s
    s.setInferFence 2
  | 5 => { s with spw := { s.spw with safeDue := true } }
  | _ => s

/-- Reports arise and one is processed. A report of the management endpoint itself ends its service (R440). -/
def execFaultReportCapture (dt : Nat) (arisen : List Report) (s : State) : Host.Outcome State Fault Refusal :=
  enter (.faultReportCapture dt arisen) dt s fun s =>
    let s := { s with spw := { s.spw with reportQ := s.spw.reportQ ++ arisen } }
    let s := if arisen.any fun r => r.unit == unitHub 19 && r.cls == 4 then s.wr Fld.mgmtStatusFailed 0 1 else s
    s.whenever (s.on Fld.spwStatusReady) fun s =>
      s.forSome (firstReport s.spw.reportQ) fun s r =>
        ({ s with spw := { s.spw with reportQ := s.spw.reportQ.erase r } }).capture r

def execErrorPairAssert (dt : Nat) (s : State) : Host.Outcome State Fault Refusal :=
  enter (.errorPairAssert dt) dt s fun s =>
    s.whenever s.spw.pinDue fun s => ({ s with spw := { s.spw with pinDue := false } }).wr Fld.spwStatusPinError 0 1

/-! ### FENCE_CMD (R384) -/

/-- A write of FENCE_CMD. -/
def State.fenceCmdWrite (s : State) (v : Nat) : State :=
  let op := slice v 16 2
  if s.on Fld.fenceStatusBusy || op == 0 || op == 3 then s.info (unitHub 1) else
  match fencible (slice v 0 16) (s.rd Fld.fenceArgSub) (s.rd Fld.fenceArgSubKind) (s.rd Fld.fenceArgEngineClass) with
  | none => s.wr Fld.fenceStatusResult 0 1
  | some (i, k) =>
    if op = 1 then (s.fenceDecide i k 2).wr Fld.fenceStatusResult 0 0
    else if (s.item i).fence = 0 then s.wr Fld.fenceStatusResult 0 0
    else
      let s := { s with spw := { s.spw with clearItem := some i } }
      (s.wr Fld.fenceStatusBusy 0 1).testBegin i k 2

def execFenceSet (dt v : Nat) (s : State) : Host.Outcome State Fault Refusal :=
  enter (.fenceSet dt v) dt s fun s => s.whenever (slice v 16 2 == 1) fun s => s.fenceCmdWrite v

def execFenceClear (dt v : Nat) (s : State) : Host.Outcome State Fault Refusal :=
  enter (.fenceClear dt v) dt s fun s => s.whenever (slice v 16 2 == 2) fun s => s.fenceCmdWrite v

/-! ### Recovery (R385) -/

/-- The basin or terrace that contains an item is fenced, by another item than itself. -/
def State.containerFenced (s : State) (i k : Nat) : Bool :=
  let unit := itemUnit i
  let b := unitBasinOf unit
  let t := unitTerraceOf unit
  match k with
  | 0 | 1 | 2 | 3 => s.basinFencedBy b
  | 4 | 5 | 6 | 7 => s.terraceFencedBy (b / 8) || [4, 5, 6, 7, 16].any fun u => u != unit % 128 && s.itemFenced (unitBasin b u)
  | 8 | 11 | 12 => [0, 3, 4].any fun u => u != unit % 128 && s.itemFenced (unitTerrace t u)
  | 9 | 10 => s.terraceFencedBy t
  | _ => false

/-- The FC_UNIT reports that name item `i` and are on their way to capture. -/
def State.namedBy (s : State) (i : Nat) : List Report :=
  s.spw.reportQ.filter fun r => r.cls == 2 && ((reportItem r).any fun y => y.1 == i) && !s.unreporting r

/-- The close of the item's quiet window: a report stamped before it holds the fence, one stamped at it does not (R385, R306). -/
def State.quietClose (s : State) (i : Nat) : Nat :=
  let q := s.rd Fld.spwQuietQuiet * 2 ^ 20
  (s.namedBy i).foldl (fun close r => if r.stamp < close then max close (r.stamp + q) else close)
    (max (s.item i).since ((s.item i).last.getD 0) + q)

/-- The item's quiet window has closed, and it may be tested. -/
def State.quietOver (s : State) (i k : Nat) : Bool :=
  let x := s.item i
  x.fence == 1 && !x.effect && !x.permanent && x.testing == 0 && s.on Fld.policyRecoverEn k && x.tests < s.rd Fld.policyRecoverLimit k &&
    s.quietClose i ≤ s.now && !s.containerFenced i k

def execQuietWindowClose (dt item : Nat) (s : State) : Host.Outcome State Fault Refusal :=
  enter (.quietWindowClose dt item) dt s fun s =>
    s.forSome (itemKind item) fun s k => s.whenever (s.quietOver item k) fun s =>
      (s.setItem item { s.item item with tests := (s.item item).tests + 1 }).testBegin item k 1

/-- A report on its way to capture was stamped since the test of item `i` began: it wins (R384, R385). For a quiet-window test the
stamps from the close of the window on count, for a driver's clear those from its start on. -/
def State.reportWins (s : State) (i : Nat) : Bool :=
  let x := s.item i
  (s.namedBy i).any fun r => decide ((if x.testing = 1 then s.quietClose i else x.began) ≤ r.stamp)

/-- A recovery test ends. -/
def State.testEnd (s : State) (i k : Nat) (pass : Bool) : State :=
  let x := s.item i
  let late := s.reportWins i
  let ok := pass && !x.named && !late
  if x.testing = 1 then
    if ok then
      let s := s.fenceClear i k
      (s.setItem i { s.item i with recoveries := (s.item i).recoveries + 1 }).bump Fld.recoveriesCount 0
    else
      let s := s.setItem i { x with testing := 0, named := false, late := late, since := if x.named then x.since else s.now }
      (((s.testLeaves i k).bump Fld.recoverFailsCount 0).testFailed i k).notePermanent i k
  else
    let s := ({ s with spw := { s.spw with clearItem := none } }).wr Fld.fenceStatusBusy 0 0
    if ok then (s.fenceClear i k).wr Fld.fenceStatusResult 0 0
    else
      let s := s.setItem i { x with testing := 0, named := false }
      ((s.testLeaves i k).testFailed i k).wr Fld.fenceStatusResult 0 2

def execRecoveryTestDone (dt item : Nat) (pass : Bool) (s : State) : Host.Outcome State Fault Refusal :=
  enter (.recoveryTestDone dt item pass) dt s fun s =>
    s.forSome (itemKind item) fun s k =>
      s.whenever ((s.item item).testing != 0 && (itemBasins item k).all fun b => !s.gated b) fun s => s.testEnd item k pass

/-! ### The error pair (Table 18-7) -/

/-- The levels of ERR_OUT and ERR_OUT_N: both low while the spillway is lost or not yet ready, otherwise complementary, ERR_OUT high
in the error state (R390, R391). -/
def State.errPair (s : State) : Bool × Bool :=
  if s.spw.lost || !s.on Fld.spwStatusReady then (false, false)
  else (s.on Fld.spwStatusPinError, !s.on Fld.spwStatusPinError)

/-! ### SPW_CMD (R386, R387, R391, R393) -/

/-- pin_clear. -/
def State.pinClear (s : State) : State := if s.spw.inferBy = 2 || s.safe then s else s.wr Fld.spwStatusPinError 0 0

/-- silt_rearm. -/
def State.siltRearm (s : State) : State :=
  if s.safe then s.info (unitHub 1) else
  ({ s with spw := { s.spw with silt := [] } }).spwChange fun s => (s.wr Fld.spwStatusSiltFrozen 0 0).wr Fld.siltStatusFrozen 0 0

/-- A write of SPW_CMD: each bit acts, the lowest first. -/
def State.spwCmdWrite (s : State) (v : Nat) : State :=
  let s := if bitAt v 0 then s.setInferFence 1 else s
  let s := if bitAt v 1 then s.clearInferFence else s
  let s := if bitAt v 2 then s.pinClear else s
  let s := if bitAt v 3 then s.freezeSilt else s
  let s := if bitAt v 4 then s.siltRearm else s
  if bitAt v 5 then { s with spw := { s.spw with safeDue := true } } else s

def execInferFence (dt v : Nat) (s : State) : Host.Outcome State Fault Refusal :=
  enter (.inferFence dt v) dt s fun s => s.whenever (bitAt v 0) fun s => s.spwCmdWrite v

def execInferClear (dt v : Nat) (s : State) : Host.Outcome State Fault Refusal :=
  enter (.inferClear dt v) dt s fun s => s.whenever (bitAt v 1) fun s => s.spwCmdWrite v

def execPinClear (dt v : Nat) (s : State) : Host.Outcome State Fault Refusal :=
  enter (.pinClear dt v) dt s fun s => s.whenever (bitAt v 2) fun s => s.spwCmdWrite v

def execSiltFreeze (dt v : Nat) (s : State) : Host.Outcome State Fault Refusal :=
  enter (.siltFreeze dt v) dt s fun s => s.whenever (bitAt v 3) fun s => s.spwCmdWrite v

def execSiltRearm (dt v : Nat) (s : State) : Host.Outcome State Fault Refusal :=
  enter (.siltRearm dt v) dt s fun s => s.whenever (bitAt v 4) fun s => s.spwCmdWrite v

def execEnterSafe (dt v : Nat) (s : State) : Host.Outcome State Fault Refusal :=
  enter (.enterSafe dt v) dt s fun s => s.whenever (bitAt v 5) fun s => s.spwCmdWrite v

def execSafeStateEntry (dt : Nat) (s : State) : Host.Outcome State Fault Refusal :=
  enter (.safeStateEntry dt) dt s fun s => s.whenever s.spw.safeDue fun s => s.enterSafe

/-- A write of SPW_MARK. -/
def State.markWrite (s : State) (v : Nat) : State := s.event (unitHub 1) 10 0 (v % 2 ^ 32)

def execDriverMarker (dt v : Nat) (s : State) : Host.Outcome State Fault Refusal :=
  enter (.driverMarker dt v) dt s fun s => s.markWrite v

/-! ### The spillway's own heartbeat (R390), health (R395) -/

def execSpillwayHeartbeat (dt : Nat) (s : State) : Host.Outcome State Fault Refusal :=
  enter (.spillwayHeartbeat dt) dt s fun s =>
    s.whenever (s.tick1024 && s.on Fld.spwStatusReady && !s.spw.lost) fun s => { s with spw := { s.spw with spwBeat := s.now } }

def execSpillwayLoss (dt : Nat) (s : State) : Host.Outcome State Fault Refusal :=
  enter (.spillwayLoss dt) dt s fun s =>
    s.whenever (s.on Fld.spwStatusReady && !s.spw.lost && s.spw.spwBeat + 4096 ≤ s.now) fun s =>
      ({ s with spw := { s.spw with lost := true, safeDue := true } }).freezeSilt

/-- Decayed count `k` shifted right by 1; an event of the same edge is added after the shift (R395). -/
def State.decayed (s : State) (k : Nat) : Nat :=
  let v := s.rd Fld.healthDecayedD k
  match s.freshOf .healthDecayed k with
  | some (before, _) => slice before 0 24 / 2 + (v - slice before 0 24)
  | none => v / 2

def execHealthDecay (dt : Nat) (s : State) : Host.Outcome State Fault Refusal :=
  enter (.healthDecay dt) dt s fun s =>
    s.periodic .health (s.now % (s.rd Fld.healthEpochEpoch * 2 ^ 30) == 0) fun s =>
      s.scoreChange fun s => s.each (List.range 5) fun s k => s.wr Fld.healthDecayedD k (s.decayed k)

end Sys2Proof.Machine
end

