-- ==== Sys2Proof/Machine/Views.lean ====
section
/-! DEFINITION. What a register reads as: its stored fields, and those fields that show what a block holds. -/
namespace Sys2Proof.Machine

/-- Bits of a list of conditions, the first lowest. -/
def bitsNat (l : List Bool) : Nat := l.foldr (fun b n => nat1 b + 2 * n) 0

/-- A radio operation runs on basin `b` with this kind and jet. -/
def State.radioRuns (s : State) (b kind jet : Nat) : Bool :=
  s.radio.plans.any fun p => p.ops.any fun o => o.st == 1 && o.kind == kind && o.inst == b && o.jet % 2 == jet

/-- JET_STATUS of jet `j` of basin `b` (Table 3-5). -/
def State.jetView (s : State) (b j : Nat) : Nat :=
  let mine := s.cmds.filter fun c => c.target == b && c.opcode == 8 && Jd.jet c.params == j
  let op := s.radio.plans.any fun p => p.ops.any fun o =>
    o.st == 1 && o.kind == 8 && o.inst == b && o.jet == j && decide (s.cyclesIn (2 * b + j) (s.now - o.start) < o.load)
  let loading := mine.any (·.phase == .loading) || op
  let busy := loading || mine.any (fun c => c.begun && (c.phase == .running || c.phase == .loaded)) || s.radioRuns b 8 j
  putBits (putBits (s.reg .jetStatus (2 * b + j)) 0 1 (nat1 busy)) 4 1 (nat1 loading)

/-- RUNNEL_STATUS of basin `b` (Table 5-10): its prologue lanes, its epilogue lane, a pass. -/
def State.runnelView (s : State) (b : Nat) : Nat :=
  let mine := s.cmds.filter fun c => c.target == b
  let ops := s.radioLists b
  let active (c : Cmd) : Bool := c.phase == .running || c.phase == .epilogue
  let pro (j : Nat) : Bool :=
    (mine.any fun c => c.lists && Jd.jet c.params == j && c.phase == .running && Ch.nPro c.chain != 0) ||
      ops.any fun o => o.jet == j && Ch.nPro o.chain != 0
  let epi := (mine.any fun c => c.lists && Ch.nEpi c.chain != 0 && active c) || ops.any fun o => Ch.nEpi o.chain != 0
  let pass := mine.any fun c => c.opcode == 0xB && c.phase == .running
  let rill := mine.any fun c => c.opcode == 9 && c.lone && active c
  bitsNat [pro 0 || pro 1 || epi || pass || rill, pro 0, pro 1, epi, pass]

/-- RILL_STATUS of basin `b` (Table 6-5). -/
def State.rillView (s : State) (b : Nat) : Nat :=
  let x := s.rill b
  bitsNat [s.cmds.any fun c => c.target == b && c.opcode == 9 && c.phase == .running, x.fetch.any (!·.stopped), !x.half0.tag.isEmpty,
    !x.half1.tag.isEmpty, !x.lanes.isEmpty]

/-- CASCADE_STATUS of terrace `t` (Table 7-7). -/
def State.cascadeView (s : State) (t : Nat) : Nat :=
  let busy := s.cmds.any fun c => c.target / 8 == t && c.opcode == 0xA && c.phase == .running
  putBits (putBits (s.reg .cascadeStatus t) 0 1 (nat1 busy)) 1 1 (nat1 (s.cascade t).fetch.isSome)

/-- Enabled rings with packets pending. -/
def State.ringsActive (s : State) : Nat :=
  ((List.range 1028).filter fun r => s.on Fld.ringCtrlEnable r && s.rd Fld.sqHeadHead r != s.rd Fld.sqTailTail r).length

/-- HEALTH_CAPACITY (Table 18-12): what is in service. -/
def State.capacityView (s : State) : Nat :=
  let jets := ((List.range 128).filter fun i => !s.fencedBasin (i / 2) && !s.regBit .basinState (i / 2) (12 + i % 2)).length
  let basins := ((List.range 64).filter fun b => !s.fencedBasin b).length
  let octets := ((List.range 128).filter fun i => !s.regBit .hbmWithdrawn (i / 16) (i % 16)).length
  let lanes := ((List.range 32).filter fun i => !s.itemFenced (mkItem (unitHub (8 + i / 4)) (i % 4) 2 0)).length
  let ports := ((List.range 4).filter fun p => !s.on Fld.ethStatusFenced p).length
  let dec := ((List.range 32).filter fun i => !s.regBit .engineFencedDec 0 i).length
  jets + basins * 2 ^ 8 + octets * 2 ^ 15 + lanes * 2 ^ 23 + ports * 2 ^ 29 + dec * 2 ^ 32

/-- 2 s have passed since local_done (R424). -/
def State.aqdWindow (s : State) : Bool := s.on Fld.bootStatusLocalDone && s.reg .bootStamp 6 + 1966080000 ≤ s.now

/-- What register `n` number `i` shows: every readable field, WO fields as zero. -/
def State.view (s : State) (n : RegName) (i : Nat) : Nat :=
  match n with
  | .basinState => if s.gated i then putBits (s.basin i).stateCopy 10 1 1 else putBits (s.reg n i) 24 1 (nat1 (s.busy i))
  | .jetStatus => s.jetView (i / 2) (i % 2)
  | .runnelStatus => s.runnelView i
  | .rillStatus => s.rillView i
  | .cascadeStatus => s.cascadeView i
  | .wcHeld => (s.basin i).leases.length
  | .issueStatus => putBits (s.reg n i) 16 5 (s.issueDepth i)
  | .semHolder => putBits (s.reg n i) 16 8
      (((s.basin (i / 32)).waiters ++ (s.basin (64 + i / 32)).waiters).filter fun w => w.1 == i % 32 && w.2 < 2 ^ 20).length
  | .sluiceStatus => putBits (s.reg n i) 1 11 s.ringsActive
  | .serveStatus => putBits (s.reg n i) 13 1 (nat1 (s.cmds.any fun c => serveOp c.opcode && c.phase == .running))
  | .arbStatus => if s.gated i then s.reg n i else s.arbView i
  | .radioStatus => putBits (s.reg n i) 1 17 (if bitAt (s.reg n i) 0 then s.storeFree else 0)
  | .radioProtect => if s.on Fld.radioProtectTakenOver i then s.reg n i else putBits (s.reg n i) 8 6 i
  | .carStatus => putBits (s.reg n i) 0 1 (nat1 (s.carServes i))
  | .timeStatus => s.timeStatusView
  | .timeCount => s.now
  | .siltStatus => putBits (s.reg n i) 0 10 s.spw.silt.length
  | .healthScore => s.healthScore
  | .healthCapacity => s.capacityView
  | .bootStatus => putBits (s.reg n i) 9 1 (nat1 s.aqdWindow)
  | .jetFieldRemap | .ringCmd | .mringDoorbell | .sliceCmd | .keyCmd | .keyData | .detShadowCmd | .spwCmd | .spwMark
  | .fenceCmd | .basinGateReq | .basinWakeReq | .resetCmd => 0
  | _ => s.reg n i

/-! ### Windows that hold no registers of their own -/

/-- Byte `k` of entry `i` of the log, of the silt ring (oldest first), of the snapshot. -/
def State.logEntry (s : State) (i : Nat) : Nat := (Tbl.find s.spw.log i).getD 0
def State.siltEntry (s : State) (i : Nat) : Nat := s.spw.silt.getD i 0

/-- The 32-bit word at offset `o` of a number of many words. -/
def wordOf (v o : Nat) : Nat := slice v (8 * o) 32

/-- The word at BAR0 address `a` of LOG, SILT_ENTRY, SILT_SNAP or VARIANT_VIEW. -/
def State.windowWord (s : State) (a : Nat) : Option Nat :=
  if 0xC20000 ≤ a ∧ a < 0xC28000 then some (wordOf (s.logEntry ((a - 0xC20000) / 32)) (a % 32))
  else if 0xC10000 ≤ a ∧ a < 0xC14000 then some (wordOf (s.siltEntry ((a - 0xC10000) / 32)) (a % 32))
  else if 0xC14000 ≤ a ∧ a < 0xC14100 then some (wordOf s.spw.snap (a - 0xC14000))
  else if 0x2000000 ≤ a ∧ 0x10000 ≤ a % 0x400000 ∧ a % 0x400000 < 0x20000 then
    some (wordOf (variantEntry s (a % 0x10000 / 64)) (a % 64))
  else none

end Sys2Proof.Machine
end

