-- ==== Sys2Proof/Machine/Mgmt.lean ====
section
/-! DEFINITION. The management endpoint and the test access port (R435 to R440). The bytes of MCTP and PLDM messages are those of
DSP0236, DSP0240 and DSP0248 (PRESUMED, log entry 34). -/
namespace Sys2Proof.Machine

/-- The response of transport `tr`, without its message type. A request on one transport changes nothing of the other's (R436). -/
def MgmtSt.answered (m : MgmtSt) (tr : Transport) (bs : List Byte) : MgmtSt :=
  match tr with
  | .i3c => { m with replyI3c := bs }
  | .pcie => { m with replyPcie := bs }

/-- The endpoint ID of transport `tr`. -/
def MgmtSt.eid (m : MgmtSt) (tr : Transport) : Nat := match tr with | .i3c => m.eidI3c | .pcie => m.eidPcie

/-- Transport `tr` gets an endpoint ID; MGMT_STATUS shows the one set last (DESIGN CHOICE, log entry 34). -/
def State.setEid (s : State) (tr : Transport) (eid : Nat) : State :=
  let s := s.wr Fld.mgmtStatusEid 0 eid
  { s with mgmt := match tr with
    | .i3c => { s.mgmt with eidI3c := eid }
    | .pcie => { s.mgmt with eidPcie := eid } }

/-- A request is served where the endpoint serves its transport. -/
def State.answer (s : State) (tr : Transport) (k : State → State × List Byte) : State :=
  s.whenever (s.mgmtServes tr) fun s =>
    let (s, bs) := k s
    { s with mgmt := s.mgmt.answered tr bs }

def byte (n : Nat) : Byte := BitVec.ofNat 8 n

/-- Bytes of a response whose values the manual leaves open. -/
def State.freeReply (s : State) (n : Nat) : State × List Byte :=
  ({ s with freeCtr := s.freeCtr + 1 }, (List.range n).map (Config.freeByte s.freeCtr))

/-- An MCTP control response: the request's header with Rq and D clear, its command, what follows. -/
def mctpHead (req : List Byte) : List Byte := [byte ((req.getD 0 0).toNat % 32), req.getD 1 0]

/-- MCTP control (DSP0236): Set and Get Endpoint ID, Get Version Support, Get Message Type Support; any other command
is unsupported. The only state written is the endpoint ID (R439). -/
def State.mctpServe (s : State) (tr : Transport) (req : List Byte) : State × List Byte :=
  let h := mctpHead req
  match (req.getD 1 0).toNat with
  | 1 =>
    let op := (req.getD 2 0).toNat % 4
    let eid := (req.getD 3 0).toNat
    if op ≤ 1 then
      if eid = 0 ∨ eid = 255 then (s, h ++ [2]) else (s.setEid tr eid, h ++ [0, 0, byte eid, 0])
    else (s, h ++ [2])
  | 2 =>
    let (s', l) := s.freeReply 2
    (s', h ++ [0, byte (s.mgmt.eid tr)] ++ l)
  | 4 =>
    let (s', l) := s.freeReply 5
    (s', h ++ [0] ++ l)
  | 5 => (s, h ++ [0, 2, 0x01, 0x7F])
  | _ => (s, h ++ [5])

def execMctpControl (dt : Nat) (tr : Transport) (req : List Byte) (s : State) : Host.Outcome State Fault Refusal :=
  enterIf true dt s fun s => s.answer tr fun s => s.mctpServe tr req

/-! ### Sensors (Table 21-5) -/

/-- What sensor `id` reads. -/
def State.sensor (s : State) (id : Nat) : Option Nat :=
  let cap (f : Fld) : Nat := slice (s.view .healthCapacity 0) f.lo f.width
  match id with
  | 1 => some (s.rd Fld.powerNowPower)
  | 2 => some (s.rd Fld.powerAvgPower)
  | 3 => some (s.rd Fld.thermStatusHottest)
  | 4 => some s.healthScore
  | 5 => some (cap Fld.healthCapacityJets)
  | 6 => some (cap Fld.healthCapacityBasins)
  | 7 => some (cap Fld.healthCapacityOctets)
  | 8 => some (cap Fld.healthCapacityLanes)
  | 9 => some (cap Fld.healthCapacityDec)
  | 10 => some (s.rd Fld.timeStatusState)
  | 11 => some s.sensor11
  | _ => none

/-- GetSensorReading of a numeric sensor, GetStateSensorReadings of a state sensor: the state or the reading is given; what
DSP0248 puts beside it is left open. -/
def State.sensorServe (s : State) (id : Nat) : State × List Byte :=
  match s.sensor id with
  | none => (s, [0x80])
  | some v =>
    if 10 ≤ id then
      let (s, l) := s.freeReply 2
      (s, [0, 1, 0, byte v] ++ l)
    else
      let (s, l) := s.freeReply 4
      (s, [0, 4, 0] ++ l ++ leBytes 4 v)

def execPldmGetSensor (dt : Nat) (tr : Transport) (id : Nat) (s : State) : Host.Outcome State Fault Refusal :=
  enterIf (id < 65536) dt s fun s => s.answer tr fun s => s.sensorServe id

def execSetEventReceiver (dt : Nat) (tr : Transport) (eid : Nat) (thresholds : List Nat) (s : State) : Host.Outcome State Fault Refusal :=
  enterIf (eid < 256 && thresholds.all (· < 65536)) dt s fun s =>
    s.answer tr fun s => ({ s with mgmt := { s.mgmt with receiver := some (tr, eid), thresholds := thresholds } }, [0])

/-! ### Vendor commands (Table 21-6) -/

def execVendorSiltStatus (dt : Nat) (tr : Transport) (s : State) : Host.Outcome State Fault Refusal :=
  enterIf true dt s fun s => s.answer tr fun s => (s, 0 :: (leBytes 4 (s.view .siltStatus 0) ++ leBytes 4 (s.view .spwStatus 0)))

def execVendorSiltEntry (dt : Nat) (tr : Transport) (i : Nat) (s : State) : Host.Outcome State Fault Refusal :=
  enterIf (i < 65536) dt s fun s => s.answer tr fun s =>
    (s, if i < s.spw.silt.length then 0 :: leBytes 32 (s.siltEntry i) else [2])

def execVendorSiltSnap (dt : Nat) (tr : Transport) (b : Nat) (s : State) : Host.Outcome State Fault Refusal :=
  enterIf (b < 256) dt s fun s => s.answer tr fun s =>
    (s, if b < 8 then 0 :: leBytes 32 (s.spw.snap / 2 ^ (256 * b)) else [2])

def execVendorClassCount (dt : Nat) (tr : Transport) (k : Nat) (s : State) : Host.Outcome State Fault Refusal :=
  enterIf (k < 256) dt s fun s => s.answer tr fun s => (s, if k < 6 then 0 :: leBytes 8 (s.view .classCount k) else [2])

def execVendorHealth (dt : Nat) (tr : Transport) (s : State) : Host.Outcome State Fault Refusal :=
  enterIf true dt s fun s => s.answer tr fun s => (s, 0 :: ((List.range 5).map fun k => leBytes 4 (s.view .healthDecayed k)).flatten)

/-! ### The test access port (R435) -/

/-- The device's IDCODE. -/
def tapIdcode : Nat := 0x1E9C1C9D

/-- What the instruction in the port acts as: EXTEST and its variants act only while PKG_RST_N is low. -/
def State.tapActs (s : State) : TapIns :=
  match s.mgmt.tap with
  | .extest | .extestPulse | .extestTrain => if s.boot.held then s.mgmt.tap else .bypass
  | t => t

def execJtagInstruction (dt : Nat) (ins : TapIns) (s : State) : Host.Outcome State Fault Refusal :=
  enterIf true dt s fun s =>
    let s := { s with mgmt := { s.mgmt with tap := ins } }
    if ins = .idcode then { s with readData := tapIdcode } else s

end Sys2Proof.Machine
end

