-- ==== Sys2Proof/Machine/Migration.lean ====
section
/-! DEFINITION. Cell migration: CELL_MIGRATE at the source and at the destination (R301, R302, R356). -/
namespace Sys2Proof.Machine

namespace Mg
def carrier (p : Nat) : Nat := slice p 0 8
def dest (p : Nat) : Bool := bitAt p 8
def peer (p : Nat) : Nat := slice p 16 12
def switch (p : Nat) : Nat := slice p 64 64
def extAddr (p : Nat) : Nat := slice p 128 44
def nExt (p : Nat) : Nat := slice p 176 8
def counter (p : Nat) : Nat := slice p 192 16
def fields : List (Nat × Nat) := [(0, 9), (16, 12), (64, 108), (176, 8), (192, 16)]
end Mg

/-- The extents: HARQ offset and length (Table 13-11). -/
def State.extents (s : State) (p : Nat) : List (Nat × Nat) :=
  (List.range (Mg.nExt p)).map fun i =>
    let e := s.devNat (Mg.extAddr p + 16 * i) 16
    (slice e 0 36, slice e 64 32)

/-- The parameters, without the extents, are well formed: X is a slot boundary two slots or more after the dispatch stamp. -/
def State.migFormOk (s : State) (p stamp : Nat) : Bool :=
  let c := Mg.carrier p
  onlyFields p Mg.fields && decide (c < 192) && Mg.nExt p != 0 && stamp + 2 * s.carSlot c ≤ Mg.switch p &&
    s.reg .carSlotBase c ≤ Mg.switch p && (Mg.switch p - s.reg .carSlotBase c) % s.carSlot c == 0

/-- The extents are multiples of 256, lie in the HARQ region and total at most 2^(27 - mu) bytes. -/
def State.extentsOk (s : State) (p : Nat) (es : List (Nat × Nat)) : Bool :=
  es.all (fun e => e.1 % 256 == 0 && e.2 % 256 == 0 && e.1 + e.2 ≤ s.rd Fld.harqSizeSize * 2 ^ 21) &&
    (es.map (·.2)).foldl (· + ·) 0 ≤ 2 ^ (27 - s.carMu (Mg.carrier p))

/-- The checks of a CELL_MIGRATE in order. -/
def State.migCheck (s : State) (p stamp : Nat) (poison : Bool) : Nat :=
  let n := 16 * Mg.nExt p
  if !s.migFormOk p stamp then stDescInvalid
  else if !s.devOk 0 (Mg.extAddr p) n || (Mg.dest p && 4096 ≤ Mg.counter p) then stAddrFault
  else if poison then stMemPoison
  else if s.devFenced (Mg.extAddr p) n then stMemFenced
  else if s.extentsOk p (s.extents p) then stOk else stDescInvalid

/-- A CELL_MIGRATE whose checks passed goes on running, in the role of `dest`; an earlier record of the carrier in that role is
replaced once its command has completed. -/
def State.migrationStart (s : State) (c : Cmd) (dest : Bool) : State :=
  let p := c.params
  let m : Migration := ⟨c.id, Mg.carrier p, dest, Mg.peer p, Mg.switch p, s.extents p, Mg.counter p, false, 0, false, false⟩
  let s := (s.startRunning c.id).modCmd c.id fun k => { k with hbmB := k.hbmB + flitBytes (Mg.extAddr p) (16 * Mg.nExt p) }
  let old (x : Migration) : Bool := x.carrier == m.carrier && x.dest == dest && (s.cmd? x.cmd).isNone
  let s : State := { s with radio := { s.radio with migrations := s.radio.migrations.filter (fun x => !old x) ++ [m] } }
  if dest then s else s.wr Fld.carStatusMigratingOut m.carrier 1

/-- CELL_MIGRATE of ring `r` acts, in the role of `dest`. -/
def State.migrateAct (s : State) (r : Nat) (dest poison : Bool) : State :=
  s.forSome ((s.firstH r 0x32).filter fun c => Mg.dest c.params == dest) fun s c =>
    let st := s.migCheck c.params c.start poison
    if st ≠ stOk then s.finishNow { c with faultAddr := some (Mg.extAddr c.params) } st else s.migrationStart c dest

def execCellMigrateSource (dt r : Nat) (poison : Bool) (s : State) : Host.Outcome State Fault Refusal :=
  enter (.cellMigrateSource dt r poison) dt s fun s => s.migrateAct r false poison

def execCellMigrateDest (dt r : Nat) (poison : Bool) (s : State) : Host.Outcome State Fault Refusal :=
  enter (.cellMigrateDest dt r poison) dt s fun s => s.migrateAct r true poison

/-- The carrier's migration in this role whose command has not completed. -/
def State.liveMigration (s : State) (c : Nat) (dest : Bool) : Option Migration :=
  s.radio.migrations.find? fun m => m.carrier == c && m.dest == dest && (s.cmd? m.cmd).isSome

/-- The source switches: the carrier has migrated out, and the extents go out. -/
def State.migSwitch (s : State) (m : Migration) : State :=
  let bytes := (m.extents.map fun e => flitBytes (s.rd Fld.harqBaseBase + e.1) e.2).foldl (· + ·) 0
  let s := (s.wr Fld.carStatusMigratedOut m.carrier 1).modCmd m.cmd fun k => { k with hbmB := k.hbmB + bytes }
  s.migPush (m.extents.length + 1) { m with switched := true }

def execMigrationSwitch (dt c : Nat) (s : State) : Host.Outcome State Fault Refusal :=
  enter (.migrationSwitch dt c) dt s fun s =>
    s.forSome (s.liveMigration c false) fun s m =>
      s.whenever (!m.switched && m.switch ≤ s.now && !s.safe) fun s =>
        s.migSwitch m

def execMigrationSourceDone (dt c : Nat) (s : State) : Host.Outcome State Fault Refusal :=
  enter (.migrationSourceDone dt c) dt s fun s =>
    s.forSome (s.liveMigration c false) fun s m =>
      s.whenever (m.switched && m.extents.length ≤ m.acked && !s.aqdPending m.cmd) fun s =>
        s.forSome (s.cmd? m.cmd) fun s k =>
          let s : State := { s with radio := { s.radio with migrations := s.radio.migrations.filter fun x => x.cmd != m.cmd } }
          (s.wr Fld.carStatusMigratingOut c 0).finish k (if m.failed then stMigrateFailed else stOk)

/-- The destination's counter has reached n_ext. -/
def State.extentsHere (s : State) (m : Migration) : Bool := m.extents.length ≤ s.reg .aqdArrival m.counter

/-- The count at which the destination's wait times out. -/
def State.migLimit (s : State) (m : Migration) : Nat := m.switch + 2 * s.carSlot m.carrier

def execMigrationArrival (dt c : Nat) (s : State) : Host.Outcome State Fault Refusal :=
  enter (.migrationArrival dt c) dt s fun s =>
    s.forSome (s.liveMigration c true) fun s m =>
      s.whenever (s.extentsHere m) fun s =>
        let s := if s.migLimit m ≤ s.now then s.bump Fld.timeoutRacesRaces 0 else s
        s.forSome (s.cmd? m.cmd) fun s k => s.finish k stOk

def execMigrationTimeout (dt c : Nat) (s : State) : Host.Outcome State Fault Refusal :=
  enter (.migrationTimeout dt c) dt s fun s =>
    s.forSome (s.liveMigration c true) fun s m =>
      s.whenever (s.migLimit m ≤ s.now && !s.extentsHere m) fun s =>
        let s := s.each m.extents fun s e => s.devWrite (s.rd Fld.harqBaseBase + e.1) (List.replicate e.2 0)
        s.forSome (s.cmd? m.cmd) fun s k => s.finish k stMigrateFailed

end Sys2Proof.Machine
end

