-- ==== Sys2Proof/Machine/Tiles.lean ====
section
/-! DEFINITION. Repartitioning the cistern and pool, bank steals, the CXL link (chapter 4). -/
namespace Sys2Proof.Machine

/-- A write of CISTERN_PART (R41, R96). -/
def State.partWrite (s : State) (b v : Nat) : State :=
  let banks := slice v 0 5
  let units := slice v 8 7
  let ok := !s.gated b && !s.busy b && !s.windowOpen b && !s.on Fld.cisternPartPartBusy b && !s.reserved b && !s.gateListed b &&
    decide (banks ≤ 16 ∧ units ≤ 64)
  if !ok then s.info (unitBasin b 16) else
  ((s.wr Fld.cisternPartPartBusy b 1).wr Fld.basinStateZeroing b 1).setBasin b { s.basin b with parting := some (banks, units) }

def execCisternPart (dt b v : Nat) (s : State) : Host.Outcome State Fault Refusal :=
  enter (.cisternPart dt b v) dt s fun s => s.partWrite b v

/-- The repartition's zeroing ends: what changes sides is zero, and the new boundary applies. -/
def State.partDone (s : State) (b banks units : Nat) : State :=
  let s := s.cZero b ((48 - max banks (s.radioBanks b)) * 0x40000) ((48 - min banks (s.radioBanks b)) * 0x40000)
  let s := s.pZero b ((224 - max units (s.radioUnits b)) * 1024) ((224 - min units (s.radioUnits b)) * 1024)
  let s := (s.wr Fld.cisternPartRadioBanks b banks).wr Fld.cisternPartRadioPoolUnits b units
  let s := (s.wr Fld.cisternPartPartBusy b 0).setBasin b { s.basin b with parting := none }
  s.wr Fld.basinStateZeroing b (nat1 (s.basin b).zeroing.isSome)

def execCisternPartZeroingDone (dt b : Nat) (s : State) : Host.Outcome State Fault Refusal :=
  enter (.cisternPartZeroingDone dt b) dt s fun s =>
    s.forSome (s.basin b).parting fun s z => s.partDone b z.1 z.2

def execCisternSteal (dt b : Nat) (s : State) : Host.Outcome State Fault Refusal :=
  enter (.cisternSteal dt b) dt s fun s => s.whenever (!s.gated b) fun s => s.bump Fld.cisternStealsSteals b

def execCxlLinkDown (dt : Nat) (s : State) : Host.Outcome State Fault Refusal :=
  enter (.cxlLinkDown dt) dt s fun s =>
    s.whenever s.boot.cxlUp fun s => ({ s with boot := { s.boot with cxlUp := false } }).reportLow (unitHub 17) 2 0 0

def execCxlLinkUp (dt : Nat) (s : State) : Host.Outcome State Fault Refusal :=
  enter (.cxlLinkUp dt) dt s fun s => { s with boot := { s.boot with cxlUp := true } }

end Sys2Proof.Machine
end

