-- ==== Sys2Proof/Machine/RegAccess.lean ====
section
/-! DEFINITION. The register window (R7 to R10, R36, R37, R41): where an address lies, what a read returns and changes, what a
write does, with the acceptance conditions that the chapters give their registers. -/
namespace Sys2Proof.Machine

/-! ### The address map -/

/-- The number that an offset has in nested arrays of registers, and the offset inside the last. -/
def locDims : List (Nat × Nat) → Nat → Nat → Option (Nat × Nat)
  | [], off, acc => some (acc, off)
  | (n, stride) :: ds, off, acc => if off / stride < n then locDims ds (off % stride) (acc * n + off / stride) else none

/-- A 32-bit word of a register: its register, its number, 1 for the high word of 64 bits. -/
structure RegWord where
  reg : RegName
  i : Nat
  hi : Nat
  deriving DecidableEq, Repr

/-- The word of a place at address `a`. -/
def RegPlace.word (p : RegPlace) (a : Nat) : Option RegWord :=
  if a < p.base then none else
  (locDims p.dims (a - p.base) 0).bind fun x => if x.2 < p.reg.width / 8 then some ⟨p.reg, p.first + x.1, x.2 / 4⟩ else none

/-- The register word at BAR0 address `a`. -/
def regAt (a : Nat) : Option RegWord := regPlaces.findSome? fun p => p.word a

/-- A pair in the sense of R7; an entry of FH_MAP or FWD is a quantity of 80 bits. -/
def RegName.isPair (n : RegName) : Bool :=
  n.width == 64 && !(n == .fhMap || n == .fhMapHi || n == .fwd || n == .fwdHi)

/-- The basin whose window holds `a`, and the offset in that window (Table 1-12). -/
def basinOfAddr (a : Nat) : Option (Nat × Nat) :=
  let o := a % 0x400000
  if 0x2000000 ≤ a ∧ 0x100000 ≤ o ∧ o < 0x300000 then
    some ((a - 0x2000000) / 0x400000 * 8 + (o - 0x100000) / 0x40000, (o - 0x100000) % 0x40000) else none

/-- In the safe state only the spillway, hub and timing blocks can be read (Table 18-6). -/
def State.blockShown (s : State) (a : Nat) : Bool := !s.safe || a < 0x200000 || (0xC00000 ≤ a && a < 0xE00000)

/-! ### Reads -/

/-- The fuse registers of a jet, which the terrace agent answers until the basin's first wake (R41). -/
def fuseReg (n : RegName) : Bool := n == .jetSpare || n == .jetSpareRowMap || n == .jetSpareColMap

/-- A read shows RC fields as they stood before the present edge (R10). -/
def State.shown (s : State) (n : RegName) (i v : Nat) : Nat :=
  match s.freshOf n i with
  | some (before, _) => mergeBits v before (n.bits (· == .rc))
  | none => v

/-- The RC fields of a register are cleared by a read (R9); what the present edge added stays (R10). -/
def State.clearRc (s : State) (n : RegName) (i : Nat) : State :=
  let m := n.bits (· == .rc)
  if m = 0 then s else
  match s.freshOf n i with
  | some (before, added) =>
    ({ s with fresh := Tbl.put s.fresh (regKey n i) (mergeBits before 0 m, added) }).setReg n i (mergeBits (s.reg n i) added m)
  | none => s.setReg n i (mergeBits (s.reg n i) 0 m)


/-- What a read of the whole register returns and changes. -/
def State.readReg (s : State) (n : RegName) (i : Nat) : Nat × State :=
  if n = .capMeta then
    let t := s.capMetaRead i
    (t.readData, t)
  else (s.shown n i (s.view n i), s.clearRc n i)

/-- A word of a value of 64 bits. -/
def word32 (v hi : Nat) : Nat := slice v (32 * hi) 32

/-- A read of one word: a low word latches the high word into the shadow of the pair; a high word takes the shadow when it is
full (R7). -/
def State.readWord32 (s : State) (x : RegWord) : Nat × State :=
  let (v, s') := s.readReg x.reg x.i
  if !x.reg.isPair then (word32 v x.hi, s')
  else
    let k := regKey x.reg x.i
    if x.hi = 0 then (word32 v 0, { s' with shadows := Tbl.put s'.shadows k (BitVec.ofNat 64 (word32 v 1)) })
    else match Tbl.find s'.shadows k with
      | some h => (h.toNat, { s' with shadows := s'.shadows.filter fun e => e.1 != k })
      | none => (word32 v 1, s')

/-- How a gated basin's window answers a read (R41): from the agent's copy, from a jet's fuses, or with zero. -/
def State.readGated (s : State) (b o : Nat) (x : RegWord) : Nat × State :=
  if o < 0x4000 || (fuseReg x.reg && !(s.basin b).woken) then
    let k := regKey x.reg x.i
    let v := s.view x.reg x.i
    if !x.reg.isPair then (word32 v x.hi, s)
    else if x.hi = 0 then (word32 v 0, { s with shadows := Tbl.put s.shadows k (BitVec.ofNat 64 (word32 v 1)) })
    else match Tbl.find s.shadows k with
      | some h => (h.toNat, { s with shadows := s.shadows.filter fun e => e.1 != k })
      | none => (word32 v 1, s)
  else (0, s)

/-- A basin that is gated and whose window holds `a`. -/
def State.gatedAt (s : State) (a : Nat) : Option (Nat × Nat) := (basinOfAddr a).filter fun x => s.gated x.1

/-- A read of the aligned word at `a`. -/
def State.readWordAt (s : State) (a : Nat) : Nat × State :=
  if !s.blockShown a then (0, s) else
  match s.windowWord a with
  | some w => (w, s)
  | none => match regAt a with
    | none => (0, s)
    | some x => match s.gatedAt a with
      | some (b, o) => s.readGated b o x
      | none => s.readWord32 x

/-- A pair read by one access of 8 bytes at `a`: its value, and the state after it. -/
def State.readPair (s : State) (a : Nat) : Option (Nat × State) :=
  match regAt a with
  | some x =>
    if !(x.reg.isPair && x.hi == 0 && s.blockShown a && (s.windowWord a).isNone) then none
    else match s.gatedAt a with
      | some (_, o) => some (if o < 0x4000 then (s.view x.reg x.i, s) else (0, s))
      | none => some (s.readReg x.reg x.i)
  | none => none

/-- A read of `len` bytes at BAR0 address `a` (R8). -/
def State.barRead (s : State) (a len : Nat) : State :=
  if len = 8 then
    match s.readPair a with
    | some (v, s) => { s with readData := v }
    | none =>
      let (lo, s) := s.readWordAt a
      let (hi, s) := s.readWordAt (a + 4)
      { s with readData := lo + 2 ^ 32 * hi }
  else
    let (v, s) := s.readWordAt (a / 4 * 4)
    { s with readData := slice v (8 * (a % 4)) (8 * len) }

def execLowWordRead (dt addr len : Nat) (s : State) : Host.Outcome State Fault Refusal :=
  enter (.lowWordRead dt addr len) dt s fun s => s.barRead addr len

def execHighWordRead (dt addr len : Nat) (s : State) : Host.Outcome State Fault Refusal :=
  enter (.highWordRead dt addr len) dt s fun s => s.barRead addr len

def execRcFieldRead (dt addr len : Nat) (s : State) : Host.Outcome State Fault Refusal :=
  enter (.rcFieldRead dt addr len) dt s fun s => s.barRead addr len

/-! ### Writes -/

/-- What a write of the bits `mask` of `v` leaves, by the access codes of Table 0-4. -/
def storeBits (n : RegName) (old v mask : Nat) : Nat :=
  let x := mergeBits old v (mask &&& n.bits (· == .rw))
  x - (x &&& (v &&& mask &&& n.bits (· == .w1c)))

/-- An operation of an admitted plan names instance `x` of a wellhead engine class. -/
def State.engineNamed (s : State) (cls x : Nat) : Bool :=
  s.radio.plans.any fun p => p.ops.any fun o => kindClass o.kind == some cls && o.inst == x

/-- A basin that RADIO_STANDBY or RADIO_PROTECT may name (R303). -/
def State.mayName (s : State) (b : Nat) : Bool := s.idle b && s.reserved b && !s.opNames b

/-- The spares that a value of ENGINE_SPARE names: class, instance. -/
def sparesNamed (v : Nat) : List (Nat × Nat) :=
  (if bitAt v 5 then [(0, slice v 0 5)] else []) ++ (if bitAt v 12 then [(1, slice v 8 4)] else []) ++
    (if bitAt v 19 then [(2, slice v 16 3)] else []) ++ (if bitAt v 28 then [(3, slice v 24 4)] else [])

/-- What a write of the bits `mask` of `v` to register `i` of name `n` does by the rules of the register. -/
def State.regAct (s : State) (n : RegName) (i v mask : Nat) : State :=
  let w := v &&& mask
  let m := mergeBits (s.reg n i) v mask
  let plain := s.setReg n i (storeBits n (s.reg n i) v mask)
  let only (ok : Bool) (unit : Nat) : State := if ok then plain else s.info unit
  if noSched n i then s else
  match n with
  | .jetFieldRemap => s.fieldRemap (i / 2) (i % 2) w
  | .cisternPart => s.partWrite i w
  | .serveKvptBase | .serveBackingBase => only (!s.on Fld.serveCtrlEnable) (unitHub 0)
  | .freelistBase | .freelistCap => only (s.rd Fld.freelistCountCount i == 0) (unitHub 0)
  | .sqBase | .sqSize | .cqBase | .cqSize => only (!s.on Fld.ringCtrlEnable i) (unitHub 0)
  | .cqTail => s.cqTailWrite i w
  | .tokringTail => plain.tokTailWritten i
  | .ringCtrl => s.ringCtrlWrite i w
  | .ringCmd => s.ringResume i w
  | .mringDoorbell => s.doorbell 128 (0x100 * i) none w
  | .sliceCtrl => s.sliceCtrlWrite i w
  | .slicePasid => s.pasidWrite i w
  | .sliceCmd => s.sliceCmdWrite i w
  | .sliceBasins => s.basinsWrite i m
  | .keyCmd => s.keyCmdWrite i w
  | .keyData => if s.sliceState (i / 16) = 0 then s.setReg n i w else s.info (unitHub 0)
  | .memRangeBase => s.rangeWrite (i / 8) (i % 8) false m
  | .memRangeLast => s.rangeWrite (i / 8) (i % 8) true m
  | .schedShare => s.shareWrite i w
  | .schedMark => s.schedMarkWrite i w
  | .radioCtrl => s.radioCtrlWrite w
  | .radioReserved => s.reservedWrite m
  | .radioStandby => only (((List.range 64).filter fun b => bitAt m b).all s.mayName) (unitHub 3)
  | .radioProtect => only (!bitAt w 6 || s.mayName (w % 64)) (unitHub 3)
  | .engineSpare => only ((sparesNamed w).all fun x => !s.engineNamed x.1 x.2) (unitHub 3)
  | .harqBase | .harqSize => only (!s.on Fld.radioCtrlEnable) (unitHub 3)
  | .carCtrl => s.carrierWrite i w
  | .timeCtrl => s.timeCtrlWrite w
  | .outCtrl => s.outCtrlWrite i w
  | .outStart | .outPeriod | .outWidth => only (!s.on Fld.outCtrlEnable i) (unitHub 2)
  | .launchCtrl => s.launchCtrlWrite i w
  | .launchCount => only (!s.on Fld.launchCtrlArm i) (unitHub 2)
  | .timeRateMax => plain.rateMaxWritten
  | .gclAct => s.gclActWrite i m
  | .gclEntry => only (!s.on Fld.gclCtrlPending (i / 256)) (unitHub (4 + i / 256))
  | .tcCfg =>
    if slice w 16 16 = 0 then s.info (unitHub (4 + i / 8))
    else if bitAt w 3 && !s.on Fld.tcCfgMarkerEn i then plain.tcFill (i / 8) (i % 8) else plain
  | .mrxBase => only (s.rd Fld.mrxSizeLog2Entries == 0) (unitOfAddr 0x300000)
  | .mtxBase => only (s.rd Fld.mtxSizeLog2Entries == 0) (unitOfAddr 0x300000)
  | .aqdCtrl => s.aqdCtrlWrite w
  | .aqdRttBase | .aqdSettleBase | .aqdIncarnation => only (!s.on Fld.aqdCtrlEnable) (unitHub 8)
  | .aqdArrival => s.arrivalWrite i m
  | .route => plain.watchRoutes
  | .detStep => s.detStepWrite i m
  | .detShadowCmd => s.shadowCmdWrite i w
  | .spwCmd => s.spwCmdWrite w
  | .spwMark => s.markWrite w
  | .fenceCmd => s.fenceCmdWrite w
  | .healthEpoch => only (w % 2 ^ 16 != 0) (unitHub 1)
  | .healthWeight => s.scoreChange fun s => s.setReg n i (storeBits n (s.reg n i) v mask)
  | .pwrCtrl => if w % 4 = 3 ∨ slice w 3 3 = 0 then s.info (unitHub 20) else plain.startRamps
  | .slewCfg => only (slice w 0 16 != 0 && decide (4 ≤ slice w 16 16)) (unitHub 20)
  | .basinGateReq => s.gateReqWrite w
  | .basinWakeReq => s.wakeReqWrite w
  | .resetCmd => s.resetCmdWrite w
  | _ => plain

/-- A write of the bits `mask` of `v` to register `i` of name `n`. -/
def State.regWrite (s : State) (n : RegName) (i v mask : Nat) : State := (s.regAct n i v mask).keepFresh n i

/-- A write of the bits `mask` of `v` to the register at `a`; `none` where there is none. In the window of a gated basin only
JET_FIELD_REMAP accepts a write, until the basin's first wake (R41). -/
def State.writeAt (s : State) (a v mask : Nat) (x : RegWord) : State :=
  match s.gatedAt a with
  | some (b, _) => if x.reg = .jetFieldRemap ∧ !(s.basin b).woken then s.regWrite x.reg x.i v mask else s.info (unitBasin b 16)
  | none => s.regWrite x.reg x.i v mask

/-- A write of one aligned word; the variant view is read-only (R146). -/
def State.writeWordAt (s : State) (a v : Nat) : State :=
  match regAt a with
  | some x => s.writeAt a (v % 2 ^ 32 * 2 ^ (32 * x.hi)) ((2 ^ 32 - 1) * 2 ^ (32 * x.hi)) x
  | none =>
    if (s.windowWord a).isSome && 0x2000000 ≤ a then s.info (unitOfAddr a)
    else match s.gatedAt a with
      | some (b, _) => s.info (unitBasin b 16)
      | none => s

/-- A write of `len` bytes at BAR0 address `a` (R8): one narrower than 4 bytes is discarded, with an FC_INFO event. The
event holds the address in the low 26 bits of its syndrome (DESIGN CHOICE, log entry 15). -/
def State.barWrite (s : State) (a len v : Nat) : State :=
  if len < 4 then s.reportLow (unitOfAddr a) 0 26 a
  else if len = 8 then
    match regAt a with
    | some x =>
      if x.reg.isPair ∧ x.hi = 0 then s.writeAt a v (2 ^ 64 - 1) x
      else (s.writeWordAt a v).writeWordAt (a + 4) (v / 2 ^ 32)
    | none => (s.writeWordAt a v).writeWordAt (a + 4) (v / 2 ^ 32)
  else s.writeWordAt a v

def execRegisterWrite (dt addr len value : Nat) (s : State) : Host.Outcome State Fault Refusal :=
  enter (.registerWrite dt addr len value) dt s fun s => s.barWrite addr len value

end Sys2Proof.Machine
end

