-- ==== Sys2Proof/Machine/Dispatch.lean ====
section
/-! DEFINITION. The effect of every command on everything but the queue: one arm for each row of the table of operations and
events. -/
namespace Sys2Proof.Machine

def exec (i : Instr) (s : State) : Host.Outcome State Fault Refusal :=
  match i with
  | .registerWrite dt addr len value => Sys2Proof.Machine.execRegisterWrite dt addr len value s
  | .lowWordRead dt addr len => Sys2Proof.Machine.execLowWordRead dt addr len s
  | .highWordRead dt addr len => Sys2Proof.Machine.execHighWordRead dt addr len s
  | .rcFieldRead dt addr len => Sys2Proof.Machine.execRcFieldRead dt addr len s
  | .heartbeat dt a => Sys2Proof.Machine.execHeartbeat dt a s
  | .heartbeatLoss dt a => Sys2Proof.Machine.execHeartbeatLoss dt a s
  | .dieHeartbeatLoss dt d => Sys2Proof.Machine.execDieHeartbeatLoss dt d s
  | .fenceEffect dt item => Sys2Proof.Machine.execFenceEffect dt item s
  | .fencedBasinGate dt b => Sys2Proof.Machine.execFencedBasinGate dt b s
  | .jetTile dt b => Sys2Proof.Machine.execJetTile dt b s
  | .jetTileStart dt b j ups => Sys2Proof.Machine.execJetTileStart dt b j ups s
  | .jetBankLoadComplete dt b j ups => Sys2Proof.Machine.execJetBankLoadComplete dt b j ups s
  | .jetTileEnd dt b j bad cyc stalls => Sys2Proof.Machine.execJetTileEnd dt b j bad cyc stalls s
  | .jetFieldRemap dt b j v => Sys2Proof.Machine.execJetFieldRemap dt b j v s
  | .fieldFuseBlown dt b j => Sys2Proof.Machine.execFieldFuseBlown dt b j s
  | .cisternPart dt b v => Sys2Proof.Machine.execCisternPart dt b v s
  | .cisternPartZeroingDone dt b => Sys2Proof.Machine.execCisternPartZeroingDone dt b s
  | .cisternSteal dt b => Sys2Proof.Machine.execCisternSteal dt b s
  | .cxlLinkDown dt => Sys2Proof.Machine.execCxlLinkDown dt s
  | .cxlLinkUp dt => Sys2Proof.Machine.execCxlLinkUp dt s
  | .runnelPass dt b => Sys2Proof.Machine.execRunnelPass dt b s
  | .runnelPassStart dt b ups => Sys2Proof.Machine.execRunnelPassStart dt b ups s
  | .runnelPassEnd dt b took => Sys2Proof.Machine.execRunnelPassEnd dt b took s
  | .epilogueComplete dt b u => Sys2Proof.Machine.execEpilogueComplete dt b u s
  | .rillTile dt b poison => Sys2Proof.Machine.execRillTile dt b poison s
  | .rillFetchStart dt b => Sys2Proof.Machine.execRillFetchStart dt b s
  | .rillFetchReturn dt b n poison => Sys2Proof.Machine.execRillFetchReturn dt b n poison s
  | .rillTileStart dt b ups => Sys2Proof.Machine.execRillTileStart dt b ups s
  | .rillTileEnd dt b bad took => Sys2Proof.Machine.execRillTileEnd dt b bad took s
  | .variantWrite dt r => Sys2Proof.Machine.execVariantWrite dt r s
  | .cascadeForward dt b => Sys2Proof.Machine.execCascadeForward dt b s
  | .cascadeMerge dt b => Sys2Proof.Machine.execCascadeMerge dt b s
  | .cascadeBackward dt b => Sys2Proof.Machine.execCascadeBackward dt b s
  | .cascadeFetchStart dt t => Sys2Proof.Machine.execCascadeFetchStart dt t s
  | .cascadeFetchReturn dt t n poison => Sys2Proof.Machine.execCascadeFetchReturn dt t n poison s
  | .cascadeTileStart dt t ups poison => Sys2Proof.Machine.execCascadeTileStart dt t ups poison s
  | .cascadeTileEnd dt t bad cyc => Sys2Proof.Machine.execCascadeTileEnd dt t bad cyc s
  | .sessionCreate dt => Sys2Proof.Machine.execSessionCreate dt s
  | .sessionCancel dt => Sys2Proof.Machine.execSessionCancel dt s
  | .sessionPause dt => Sys2Proof.Machine.execSessionPause dt s
  | .sessionRebuild dt => Sys2Proof.Machine.execSessionRebuild dt s
  | .sessionRelease dt => Sys2Proof.Machine.execSessionRelease dt s
  | .kvProvision dt => Sys2Proof.Machine.execKvProvision dt s
  | .kvReclaim dt => Sys2Proof.Machine.execKvReclaim dt s
  | .kvReserve dt => Sys2Proof.Machine.execKvReserve dt s
  | .kvAppend dt ups => Sys2Proof.Machine.execKvAppend dt ups s
  | .prefixSeal dt => Sys2Proof.Machine.execPrefixSeal dt s
  | .prefixAttach dt => Sys2Proof.Machine.execPrefixAttach dt s
  | .prefixDrop dt => Sys2Proof.Machine.execPrefixDrop dt s
  | .handoff dt => Sys2Proof.Machine.execHandoff dt s
  | .handoffArrival dt sl => Sys2Proof.Machine.execHandoffArrival dt sl s
  | .handoffTimeout dt sl => Sys2Proof.Machine.execHandoffTimeout dt sl s
  | .stepBegin dt => Sys2Proof.Machine.execStepBegin dt s
  | .stepEnd dt => Sys2Proof.Machine.execStepEnd dt s
  | .stepEndResume dt sl => Sys2Proof.Machine.execStepEndResume dt sl s
  | .spoutTask dt b => Sys2Proof.Machine.execSpoutTask dt b s
  | .spoutTaskStart dt b => Sys2Proof.Machine.execSpoutTaskStart dt b s
  | .spoutInstruction dt c ups poison => Sys2Proof.Machine.execSpoutInstruction dt c ups poison s
  | .spoutEcall dt c cyc => Sys2Proof.Machine.execSpoutEcall dt c cyc s
  | .spoutWatchdog dt b => Sys2Proof.Machine.execSpoutWatchdog dt b s
  | .wcClaim dt c => Sys2Proof.Machine.execWcClaim dt c s
  | .wcClaimResume dt c => Sys2Proof.Machine.execWcClaimResume dt c s
  | .wcDone dt c => Sys2Proof.Machine.execWcDone dt c s
  | .spoutSemSignal dt c => Sys2Proof.Machine.execSpoutSemSignal dt c s
  | .semWait dt c => Sys2Proof.Machine.execSemWait dt c s
  | .semWaitAcquire dt b ix => Sys2Proof.Machine.execSemWaitAcquire dt b ix s
  | .semWaitDeadline dt c => Sys2Proof.Machine.execSemWaitDeadline dt c s
  | .semTry dt c => Sys2Proof.Machine.execSemTry dt c s
  | .tileIssue dt c ups => Sys2Proof.Machine.execTileIssue dt c ups s
  | .spoutAccessReturn dt c => Sys2Proof.Machine.execSpoutAccessReturn dt c s
  | .doorbell dt page off pasid v => Sys2Proof.Machine.execDoorbell dt page off pasid v s
  | .packetRead dt r host => Sys2Proof.Machine.execPacketRead dt r host s
  | .packetDispatch dt => Sys2Proof.Machine.execPacketDispatch dt s
  | .nop dt r => Sys2Proof.Machine.execNop dt r s
  | .fence dt r => Sys2Proof.Machine.execFence dt r s
  | .fenceComplete dt r => Sys2Proof.Machine.execFenceComplete dt r s
  | .wait dt r => Sys2Proof.Machine.execWait dt r s
  | .waitSatisfied dt r => Sys2Proof.Machine.execWaitSatisfied dt r s
  | .waitTimeout dt r => Sys2Proof.Machine.execWaitTimeout dt r s
  | .counterAdd dt r => Sys2Proof.Machine.execCounterAdd dt r s
  | .semSignal dt r => Sys2Proof.Machine.execSemSignal dt r s
  | .copy dt r ups poison host => Sys2Proof.Machine.execCopy dt r ups poison host s
  | .fill dt r => Sys2Proof.Machine.execFill dt r s
  | .copyComplete dt r => Sys2Proof.Machine.execCopyComplete dt r s
  | .cqTailWrite dt r v => Sys2Proof.Machine.execCqTailWrite dt r v s
  | .ringEnable dt r v => Sys2Proof.Machine.execRingEnable dt r v s
  | .ringResume dt r v => Sys2Proof.Machine.execRingResume dt r v s
  | .sliceEnable dt sl v => Sys2Proof.Machine.execSliceEnable dt sl v s
  | .sliceDisable dt sl v => Sys2Proof.Machine.execSliceDisable dt sl v s
  | .hostRequestRefused dt kind x timeout => Sys2Proof.Machine.execHostRequestRefused dt kind x timeout s
  | .sliceFrozen dt sl => Sys2Proof.Machine.execSliceFrozen dt sl s
  | .keyLoad dt sl v => Sys2Proof.Machine.execKeyLoad dt sl v s
  | .keyErase dt sl v => Sys2Proof.Machine.execKeyErase dt sl v s
  | .memRangeWrite dt sl ix last v => Sys2Proof.Machine.execMemRangeWrite dt sl ix last v s
  | .sliceBasinsWrite dt sl v => Sys2Proof.Machine.execSliceBasinsWrite dt sl v s
  | .sliceReset dt sl v => Sys2Proof.Machine.execSliceReset dt sl v s
  | .sliceResetDrained dt sl => Sys2Proof.Machine.execSliceResetDrained dt sl s
  | .sliceResetComplete dt sl => Sys2Proof.Machine.execSliceResetComplete dt sl s
  | .handoverZeroingDone dt b => Sys2Proof.Machine.execHandoverZeroingDone dt b s
  | .markerRefill dt => Sys2Proof.Machine.execMarkerRefill dt s
  | .markerEnable dt sl v => Sys2Proof.Machine.execMarkerEnable dt sl v s
  | .weightWrite dt sl v => Sys2Proof.Machine.execWeightWrite dt sl v s
  | .fixedShareWrite dt sl v => Sys2Proof.Machine.execFixedShareWrite dt sl v s
  | .yieldRequest dt b => Sys2Proof.Machine.execYieldRequest dt b s
  | .quantumExpiry dt b => Sys2Proof.Machine.execQuantumExpiry dt b s
  | .yieldDrained dt b => Sys2Proof.Machine.execYieldDrained dt b s
  | .saveComplete dt b fail maskPoison ups => Sys2Proof.Machine.execSaveComplete dt b fail maskPoison ups s
  | .restoreComplete dt b poison => Sys2Proof.Machine.execRestoreComplete dt b poison s
  | .effectiveTierUpdate dt => Sys2Proof.Machine.execEffectiveTierUpdate dt s
  | .gateList dt r poison => Sys2Proof.Machine.execGateList dt r poison s
  | .gateListRemove dt r => Sys2Proof.Machine.execGateListRemove dt r s
  | .gateListAct dt b => Sys2Proof.Machine.execGateListAct dt b s
  | .guardBandBegin dt b => Sys2Proof.Machine.execGuardBandBegin dt b s
  | .windowOpen dt b => Sys2Proof.Machine.execWindowOpen dt b s
  | .windowClose dt b => Sys2Proof.Machine.execWindowClose dt b s
  | .windowExtendedClose dt b => Sys2Proof.Machine.execWindowExtendedClose dt b s
  | .carrierEnable dt c v => Sys2Proof.Machine.execCarrierEnable dt c v s
  | .uplaneSection dt p => Sys2Proof.Machine.execUplaneSection dt p s
  | .receiveWindowClose dt c slot sym => Sys2Proof.Machine.execReceiveWindowClose dt c slot sym s
  | .dlSymbolEmission dt c slot sym => Sys2Proof.Machine.execDlSymbolEmission dt c slot sym s
  | .radioReservedWrite dt v => Sys2Proof.Machine.execRadioReservedWrite dt v s
  | .radioEnable dt v => Sys2Proof.Machine.execRadioEnable dt v s
  | .slotPlan dt r poison => Sys2Proof.Machine.execSlotPlan dt r poison s
  | .ldpcDec dt ix poison => Sys2Proof.Machine.execLdpcDec dt ix poison s
  | .ldpcEnc dt ix poison => Sys2Proof.Machine.execLdpcEnc dt ix poison s
  | .polarDec dt ix poison => Sys2Proof.Machine.execPolarDec dt ix poison s
  | .polarEnc dt ix poison => Sys2Proof.Machine.execPolarEnc dt ix poison s
  | .dft dt ix poison => Sys2Proof.Machine.execDft dt ix poison s
  | .prach dt ix poison => Sys2Proof.Machine.execPrach dt ix poison s
  | .dmrsMeas dt ix poison => Sys2Proof.Machine.execDmrsMeas dt ix poison s
  | .radioJetOp dt b j ups => Sys2Proof.Machine.execRadioJetOp dt b j ups s
  | .radioSpoutOp dt b => Sys2Proof.Machine.execRadioSpoutOp dt b s
  | .cplaneTx dt c poison => Sys2Proof.Machine.execCplaneTx dt c poison s
  | .spoutBudgetStop dt b => Sys2Proof.Machine.execSpoutBudgetStop dt b s
  | .radioOpEnd dt k ix ups met => Sys2Proof.Machine.execRadioOpEnd dt k ix ups met s
  | .slotOverrun dt k ix => Sys2Proof.Machine.execSlotOverrun dt k ix s
  | .radioTakeover dt kind x => Sys2Proof.Machine.execRadioTakeover dt kind x s
  | .cellMigrateSource dt r poison => Sys2Proof.Machine.execCellMigrateSource dt r poison s
  | .cellMigrateDest dt r poison => Sys2Proof.Machine.execCellMigrateDest dt r poison s
  | .migrationSwitch dt c => Sys2Proof.Machine.execMigrationSwitch dt c s
  | .migrationSourceDone dt c => Sys2Proof.Machine.execMigrationSourceDone dt c s
  | .migrationArrival dt c => Sys2Proof.Machine.execMigrationArrival dt c s
  | .migrationTimeout dt c => Sys2Proof.Machine.execMigrationTimeout dt c s
  | .syncRx dt p => Sys2Proof.Machine.execSyncRx dt p s
  | .followUpRx dt p => Sys2Proof.Machine.execFollowUpRx dt p s
  | .delayRespRx dt p => Sys2Proof.Machine.execDelayRespRx dt p s
  | .delayReqRx dt p => Sys2Proof.Machine.execDelayReqRx dt p s
  | .delayReqTx dt ix => Sys2Proof.Machine.execDelayReqTx dt ix s
  | .masterSyncTx dt p => Sys2Proof.Machine.execMasterSyncTx dt p s
  | .holdoverEntry dt => Sys2Proof.Machine.execHoldoverEntry dt s
  | .freeRunWrite dt v => Sys2Proof.Machine.execFreeRunWrite dt v s
  | .trackSelWrite dt v => Sys2Proof.Machine.execTrackSelWrite dt v s
  | .synceMeasure dt freq => Sys2Proof.Machine.execSynceMeasure dt freq s
  | .synceLoss dt => Sys2Proof.Machine.execSynceLoss dt s
  | .outputEnable dt k v => Sys2Proof.Machine.execOutputEnable dt k v s
  | .outputDisable dt k v => Sys2Proof.Machine.execOutputDisable dt k v s
  | .outputEdge dt k => Sys2Proof.Machine.execOutputEdge dt k s
  | .captureEdge dt j rising => Sys2Proof.Machine.execCaptureEdge dt j rising s
  | .capMetaRead dt j => Sys2Proof.Machine.execCapMetaRead dt j s
  | .launchArm dt u v => Sys2Proof.Machine.execLaunchArm dt u v s
  | .launchDisarm dt u v => Sys2Proof.Machine.execLaunchDisarm dt u v s
  | .launchFire dt u => Sys2Proof.Machine.execLaunchFire dt u s
  | .ethFrameRx dt p frame fcsOk => Sys2Proof.Machine.execEthFrameRx dt p frame fcsOk s
  | .ethLinkChange dt p up lanes => Sys2Proof.Machine.execEthLinkChange dt p up lanes s
  | .forwardEnqueue dt w => Sys2Proof.Machine.execForwardEnqueue dt w s
  | .egressTransmit dt p => Sys2Proof.Machine.execEgressTransmit dt p s
  | .ethMarkerRefill dt => Sys2Proof.Machine.execEthMarkerRefill dt s
  | .gclArm dt p v => Sys2Proof.Machine.execGclArm dt p v s
  | .gclSwitch dt p => Sys2Proof.Machine.execGclSwitch dt p s
  | .mgmtTxEntry dt => Sys2Proof.Machine.execMgmtTxEntry dt s
  | .mgmtTxNotBefore dt => Sys2Proof.Machine.execMgmtTxNotBefore dt s
  | .flitReplay dt p => Sys2Proof.Machine.execFlitReplay dt p s
  | .aqdLinkDown dt p => Sys2Proof.Machine.execAqdLinkDown dt p s
  | .aqdLinkUp dt p pkg tray lanes => Sys2Proof.Machine.execAqdLinkUp dt p pkg tray lanes s
  | .aqdTrainTimeout dt p lanes => Sys2Proof.Machine.execAqdTrainTimeout dt p lanes s
  | .aqdRd dt q poison => Sys2Proof.Machine.execAqdRd dt q poison s
  | .aqdWr dt q => Sys2Proof.Machine.execAqdWr dt q s
  | .aqdBw dt q => Sys2Proof.Machine.execAqdBw dt q s
  | .aqdAt dt q => Sys2Proof.Machine.execAqdAt dt q s
  | .aqdBump dt q => Sys2Proof.Machine.execAqdBump dt q s
  | .aqdQuery dt q => Sys2Proof.Machine.execAqdQuery dt q s
  | .homeLineUpdate dt line poison => Sys2Proof.Machine.execHomeLineUpdate dt line poison s
  | .aqdReply dt p => Sys2Proof.Machine.execAqdReply dt p s
  | .requestExpiry dt home ix => Sys2Proof.Machine.execRequestExpiry dt home ix s
  | .senderWaitClose dt id => Sys2Proof.Machine.execSenderWaitClose dt id s
  | .aqdRetry dt id => Sys2Proof.Machine.execAqdRetry dt id s
  | .creditGrant dt d => Sys2Proof.Machine.execCreditGrant dt d s
  | .aqdAtomic dt r => Sys2Proof.Machine.execAqdAtomic dt r s
  | .copyAsync dt r ups poison => Sys2Proof.Machine.execCopyAsync dt r ups poison s
  | .aqdEnable dt v => Sys2Proof.Machine.execAqdEnable dt v s
  | .arrivalCounterWrite dt ix v => Sys2Proof.Machine.execArrivalCounterWrite dt ix v s
  | .shadowExport dt r => Sys2Proof.Machine.execShadowExport dt r s
  | .shadowCompare dt r => Sys2Proof.Machine.execShadowCompare dt r s
  | .shadowEnd dt r => Sys2Proof.Machine.execShadowEnd dt r s
  | .shadowFillDone dt sl => Sys2Proof.Machine.execShadowFillDone dt sl s
  | .shadowPendingTimeout dt sl => Sys2Proof.Machine.execShadowPendingTimeout dt sl s
  | .sourceLost dt sl => Sys2Proof.Machine.execSourceLost dt sl s
  | .sourceLostCmd dt sl v => Sys2Proof.Machine.execSourceLostCmd dt sl v s
  | .detStepWrite dt sl v => Sys2Proof.Machine.execDetStepWrite dt sl v s
  | .faultReportCapture dt arisen => Sys2Proof.Machine.execFaultReportCapture dt arisen s
  | .errorPairAssert dt => Sys2Proof.Machine.execErrorPairAssert dt s
  | .fenceSet dt v => Sys2Proof.Machine.execFenceSet dt v s
  | .fenceClear dt v => Sys2Proof.Machine.execFenceClear dt v s
  | .quietWindowClose dt item => Sys2Proof.Machine.execQuietWindowClose dt item s
  | .recoveryTestDone dt item pass => Sys2Proof.Machine.execRecoveryTestDone dt item pass s
  | .inferFence dt v => Sys2Proof.Machine.execInferFence dt v s
  | .inferClear dt v => Sys2Proof.Machine.execInferClear dt v s
  | .pinClear dt v => Sys2Proof.Machine.execPinClear dt v s
  | .siltFreeze dt v => Sys2Proof.Machine.execSiltFreeze dt v s
  | .siltRearm dt v => Sys2Proof.Machine.execSiltRearm dt v s
  | .enterSafe dt v => Sys2Proof.Machine.execEnterSafe dt v s
  | .safeStateEntry dt => Sys2Proof.Machine.execSafeStateEntry dt s
  | .driverMarker dt v => Sys2Proof.Machine.execDriverMarker dt v s
  | .spillwayHeartbeat dt => Sys2Proof.Machine.execSpillwayHeartbeat dt s
  | .spillwayLoss dt => Sys2Proof.Machine.execSpillwayLoss dt s
  | .healthDecay dt => Sys2Proof.Machine.execHealthDecay dt s
  | .governorPeriod dt => Sys2Proof.Machine.execGovernorPeriod dt s
  | .basinStepChange dt b => Sys2Proof.Machine.execBasinStepChange dt b s
  | .droop dt ix n => Sys2Proof.Machine.execDroop dt ix n s
  | .droopRecovery dt ix n => Sys2Proof.Machine.execDroopRecovery dt ix n s
  | .stretchReport dt ix => Sys2Proof.Machine.execStretchReport dt ix s
  | .slewRefill dt => Sys2Proof.Machine.execSlewRefill dt s
  | .slewStartGrant dt => Sys2Proof.Machine.execSlewStartGrant dt s
  | .rampDownEnd dt e => Sys2Proof.Machine.execRampDownEnd dt e s
  | .basinGateReq dt v => Sys2Proof.Machine.execBasinGateReq dt v s
  | .basinGateEffect dt b => Sys2Proof.Machine.execBasinGateEffect dt b s
  | .basinWakeReq dt v => Sys2Proof.Machine.execBasinWakeReq dt v s
  | .wakeRampDone dt b => Sys2Proof.Machine.execWakeRampDone dt b s
  | .wakeZeroingDone dt b fails => Sys2Proof.Machine.execWakeZeroingDone dt b fails s
  | .energyMeterSample dt uj power => Sys2Proof.Machine.execEnergyMeterSample dt uj power s
  | .thermalSample dt c0 c1 h => Sys2Proof.Machine.execThermalSample dt c0 c1 h s
  | .coldReset dt supply => Sys2Proof.Machine.execColdReset dt supply s
  | .pkgRstRelease dt => Sys2Proof.Machine.execPkgRstRelease dt s
  | .perstAssert dt => Sys2Proof.Machine.execPerstAssert dt s
  | .perstRelease dt => Sys2Proof.Machine.execPerstRelease dt s
  | .resetCmdWarm dt v => Sys2Proof.Machine.execResetCmdWarm dt v s
  | .warmResetEffect dt => Sys2Proof.Machine.execWarmResetEffect dt s
  | .resetCmdTerrace dt v => Sys2Proof.Machine.execResetCmdTerrace dt v s
  | .resetCmdBasin dt v => Sys2Proof.Machine.execResetCmdBasin dt v s
  | .terraceResetDone dt => Sys2Proof.Machine.execTerraceResetDone dt s
  | .basinResetDone dt => Sys2Proof.Machine.execBasinResetDone dt s
  | .fusesLoaded dt pkg tray => Sys2Proof.Machine.execFusesLoaded dt pkg tray s
  | .hubReady dt => Sys2Proof.Machine.execHubReady dt s
  | .pcieReady dt => Sys2Proof.Machine.execPcieReady dt s
  | .dieReady dt d alive => Sys2Proof.Machine.execDieReady dt d alive s
  | .hbmControllerTrained dt t c answers failed => Sys2Proof.Machine.execHbmControllerTrained dt t c answers failed s
  | .localDone dt => Sys2Proof.Machine.execLocalDone dt s
  | .pcieLinkDown dt => Sys2Proof.Machine.execPcieLinkDown dt s
  | .mctpControl dt tr req => Sys2Proof.Machine.execMctpControl dt tr req s
  | .pldmGetSensor dt tr id => Sys2Proof.Machine.execPldmGetSensor dt tr id s
  | .setEventReceiver dt tr eid thresholds => Sys2Proof.Machine.execSetEventReceiver dt tr eid thresholds s
  | .vendorSiltStatus dt tr => Sys2Proof.Machine.execVendorSiltStatus dt tr s
  | .vendorSiltEntry dt tr ix => Sys2Proof.Machine.execVendorSiltEntry dt tr ix s
  | .vendorSiltSnap dt tr b => Sys2Proof.Machine.execVendorSiltSnap dt tr b s
  | .vendorClassCount dt tr k => Sys2Proof.Machine.execVendorClassCount dt tr k s
  | .vendorHealth dt tr => Sys2Proof.Machine.execVendorHealth dt tr s
  | .jtagInstruction dt ins => Sys2Proof.Machine.execJtagInstruction dt ins s
  | .supplyRemoval dt hub => Sys2Proof.Machine.execSupplyRemoval dt hub s

end Sys2Proof.Machine
end

