-- ==== Sys2Proof/Safety.lean ====
section
/-! DEFINITION. What counts as a safe state of the device, and the conditions on a state that claims use. -/
namespace Sys2Proof.Machine

/-- The command's operands are in their ranges. -/
abbrev Ok (c : Instr) : Prop := c.wellFormed = true

/-- Command `c` in state `s` answers the next state `t`. -/
abbrev Does (c : Instr) (s t : State) : Prop := exec c s = .next t

/-- Every memory keeps its canonical form, and the register table is in order: keys rise, no entry is its register's reset value,
and no entry holds a bit that its register does not have (R9, R242, R273). -/
def State.inOrder (s : State) : Bool :=
  regsOk s.regs && Mem.wf 0 s.dev && Mem.wf 0 s.cistern && Mem.wf 0 s.pool && Mem.wf 0 s.host

/-- A read at BAR0 address `a` reaches the live register word `x`: no safe state hides it, no basin that holds it is gated. -/
def State.live (s : State) (a : Nat) (x : RegWord) : Bool :=
  s.blockShown a && (s.windowWord a).isNone && regAt a == some x && (s.gatedAt a).isNone

/-- Registers whose writes have no condition beyond the access codes of Table 0-4: the stored value is all that changes. -/
def RegName.unconditioned : RegName → Bool
  | .jetFieldRemap | .cisternPart | .serveKvptBase | .serveBackingBase | .freelistBase | .freelistCap | .sqBase | .sqSize | .cqBase
  | .cqSize | .cqTail | .ringCtrl | .ringCmd | .mringDoorbell | .sliceCtrl | .slicePasid | .sliceCmd | .sliceBasins | .keyCmd | .keyData
  | .memRangeBase | .memRangeLast | .schedShare | .schedMark | .radioCtrl | .radioReserved | .radioStandby | .radioProtect
  | .engineSpare | .harqBase | .harqSize | .carCtrl | .timeCtrl | .outCtrl | .outStart | .outPeriod | .outWidth | .launchCtrl
  | .launchCount | .gclAct | .gclEntry | .tcCfg | .mrxBase | .mtxBase | .aqdCtrl | .aqdRttBase | .aqdSettleBase | .aqdIncarnation
  | .aqdArrival | .route | .detStep | .detShadowCmd | .spwCmd | .spwMark | .fenceCmd | .healthEpoch | .healthWeight | .pwrCtrl
  | .slewCfg | .basinGateReq | .basinWakeReq | .resetCmd | .tokringTail | .timeRateMax => false
  | _ => true

/-- Core `c` runs, the word at its pc stands for `u`, and its fetch leaves state `t`. -/
def State.fetches (s : State) (c : Nat) (u : Uop) (t : State) : Prop :=
  s.coreRuns c = true ∧ ∃ w len, s.fetchInstr c false = (t, .word w len) ∧ t.opOf c w = u

/-- Request `q` reaches the home, which is not in the safe state and has served what waited in its input queues, and is admitted at once as
`a` in state `t`, no other request having been admitted on this edge: it comes from another package, or this package's own sender has
sent it. -/
def State.receives (s : State) (q : AqdReq) (t : State) (a : Arrival) : Prop :=
  ∃ u v : State, u.safe = false ∧ v = u.serveInput ∧ v.aqd.turn ≠ some v.time.count64 ∧
    t = { v with aqd := { v.aqd with turn := some v.time.count64, lastSrc := some q.src } } ∧
    ((q.src ≠ s.pkg ∧ u = s.free.2.portRx (s.free.1 % 8) ∧ a = ⟨q, none, u.now⟩) ∨
      (q.src = s.pkg ∧ ∃ r, s.ownSent q = some r ∧ u = s.modSent r.id (fun x => { x with lost := true }) ∧ a = ⟨q, some r.id, u.now⟩))

/-- Register `i` of name `n` reads the same in `t` as in `s`. -/
abbrev sameReg (s t : State) (n : RegName) (i : Nat) : Prop := t.reg n i = s.reg n i

/-- Every byte of device memory, of the cisterns and of host memory, and every pool word, reads the same in `t` as in `s`. -/
def sameMemory (s t : State) : Prop :=
  (∀ a, ByteMem.get t.dev a = ByteMem.get s.dev a) ∧ (∀ a, ByteMem.get t.cistern a = ByteMem.get s.cistern a) ∧
  (∀ a, Mem.get 0 Config.freeWord t.pool a = Mem.get 0 Config.freeWord s.pool a) ∧ ∀ a, ByteMem.get t.host a = ByteMem.get s.host a

/-- Commands that touch no memory of the device and none of the host: they act on registers and on the blocks' own records. -/
def leavesMemory (c : Instr) : Bool :=
  match c with
  | .lowWordRead .. | .highWordRead .. | .rcFieldRead .. | .heartbeat .. | .heartbeatLoss .. | .dieHeartbeatLoss .. |
  .jetFieldRemap .. | .fieldFuseBlown .. | .cisternPart .. | .cisternSteal .. | .cxlLinkDown .. | .cxlLinkUp .. |
  .rillFetchStart .. | .spoutTaskStart .. | .wcClaimResume .. | .semWaitAcquire .. | .semWaitDeadline .. | .fence .. |
  .ringEnable .. | .ringResume .. | .sliceFrozen .. | .keyLoad .. | .keyErase .. | .memRangeWrite .. | .sliceBasinsWrite .. |
  .sliceResetComplete .. | .markerRefill .. | .markerEnable .. | .weightWrite .. | .fixedShareWrite .. | .yieldRequest .. |
  .quantumExpiry .. | .yieldDrained .. | .effectiveTierUpdate .. | .gateListAct .. | .guardBandBegin .. | .windowClose .. |
  .windowExtendedClose .. | .carrierEnable .. | .dlSymbolEmission .. | .radioReservedWrite .. | .radioEnable .. |
  .radioSpoutOp .. | .cplaneTx .. | .spoutBudgetStop .. | .migrationSwitch .. | .syncRx .. | .followUpRx .. | .delayRespRx ..
  | .delayReqRx .. | .delayReqTx .. | .masterSyncTx .. | .holdoverEntry .. | .freeRunWrite .. | .trackSelWrite .. |
  .synceMeasure .. | .synceLoss .. | .outputEnable .. | .outputDisable .. | .outputEdge .. | .captureEdge .. | .capMetaRead ..
  | .launchArm .. | .launchDisarm .. | .launchFire .. | .ethLinkChange .. | .forwardEnqueue .. | .ethMarkerRefill .. |
  .gclArm .. | .gclSwitch .. | .flitReplay .. | .aqdLinkDown .. | .aqdLinkUp .. | .aqdTrainTimeout .. | .requestExpiry .. |
  .aqdRetry .. | .shadowFillDone .. | .shadowPendingTimeout .. | .detStepWrite .. | .errorPairAssert .. | .fenceSet .. |
  .fenceClear .. | .quietWindowClose .. | .driverMarker .. | .spillwayHeartbeat .. | .spillwayLoss .. | .healthDecay .. |
  .governorPeriod .. | .basinStepChange .. | .droop .. | .droopRecovery .. | .stretchReport .. | .slewRefill .. |
  .slewStartGrant .. | .rampDownEnd .. | .basinGateReq .. | .basinWakeReq .. | .wakeRampDone .. | .energyMeterSample .. |
  .thermalSample .. | .pkgRstRelease .. | .perstRelease .. | .terraceResetDone .. | .basinResetDone .. | .fusesLoaded .. |
  .hubReady .. | .pcieReady .. | .dieReady .. | .localDone .. | .pcieLinkDown .. | .mctpControl .. | .pldmGetSensor .. |
  .setEventReceiver .. | .vendorSiltStatus .. | .vendorSiltEntry .. | .vendorSiltSnap .. | .vendorClassCount .. |
  .vendorHealth .. | .jtagInstruction .. => true
  | _ => false

/-- Commands that change no register: what they change is in the blocks' own records. -/
def leavesRegisters (c : Instr) : Bool :=
  match c with
  | .heartbeat .. | .heartbeatLoss .. | .dieHeartbeatLoss .. | .cxlLinkDown .. | .cxlLinkUp .. | .rillFetchStart ..
  | .fence .. | .delayRespRx .. | .ethMarkerRefill .. | .aqdTrainTimeout .. | .spillwayHeartbeat .. | .basinStepChange ..
  | .stretchReport .. | .rampDownEnd .. | .basinGateReq .. | .pkgRstRelease .. | .perstRelease .. | .pcieLinkDown ..
  | .pldmGetSensor .. | .setEventReceiver .. | .vendorSiltStatus .. | .vendorSiltEntry .. | .vendorSiltSnap ..
  | .vendorClassCount .. | .vendorHealth .. | .jtagInstruction .. => true
  | _ => false

/-- Requests to the management endpoint (R435, R437, R438). -/
def management (c : Instr) : Bool :=
  match c with
  | .mctpControl .. | .pldmGetSensor .. | .setEventReceiver .. | .vendorSiltStatus .. | .vendorSiltEntry .. | .vendorSiltSnap ..
  | .vendorClassCount .. | .vendorHealth .. => true
  | _ => false

end Sys2Proof.Machine
end

