-- ==== Sys2Proof/Certificates/Slice0/Obligations.lean ====
section
/-! DEFINITION. The statements for the provers. -/

open Sys2Proof Sys2Proof.Machine

/-- In every state, with command c at the front of the queue, step is exec of c on the state with the queue's rest; the queue is
the model's own (log entry 1). (00_scope.md, log entry 1) -/
def Obligations.StepRunsTheFrontCommand : Prop :=
  ∀ (c : Instr) (rest : List Instr) (s : State), s.pending = c :: rest → step s = exec c { s with pending := rest }

/-- A step on an empty queue answers the same state: the model's choice (log entry 1). (00_scope.md, log entry 1) -/
def Obligations.EmptyQueueIdles : Prop :=
  ∀ s : State, s.pending = [] → step s = .next s

/-- For every command and state, exec answers a next state exactly if the command's operands are in their ranges; otherwise it
refuses the command as ill-formed. No command faults. (00_scope.md, log entry 3) -/
def Obligations.RunsIffWellFormed : Prop :=
  ∀ (c : Instr) (s : State),
    (c.wellFormed = true → ∃ t, exec c s = .next t) ∧ (c.wellFormed = false → exec c s = .refused .illFormed)

/-- At reset the register table and every memory have their canonical form, no register holds a bit that it does not have, and no
command waits. (R9, R11, R242, R273) -/
def Obligations.ResetIsInOrder : Prop :=
  State.reset.inOrder = true ∧ State.reset.pending = []

/-- From every state in order, whatever command is at the front of the queue, a step that answers a next state leaves the register
table and every memory in canonical form, every reserved bit zero, and the registers that the manual wires to zero (R242, R273)
zero; and the queue loses exactly its front command. (R9, R242, R273) -/
def Obligations.StepKeepsOrder : Prop :=
  ∀ s t : State, s.inOrder = true → step s = .next t → t.inOrder = true ∧ t.pending = s.pending.tail

/-- In every state in order, every register holds only bits of its fields: RSV bits hold zero, and registers wired to zero hold
zero (SLICE_VIOL_MASK of slice 0 by R242, the registers of Table 12-10 of slice 0 by R273). (R9, R242, R273) -/
def Obligations.RegistersHoldOnlyTheirBits : Prop :=
  ∀ s : State, s.inOrder = true →
    (∀ (n : RegName) (i : Nat), s.reg n i &&& n.mask = s.reg n i) ∧
    s.reg .sliceViolMask 0 = 0 ∧ s.reg .schedShare 0 = 0 ∧ s.reg .schedMark 0 = 0 ∧ s.reg .schedEffTier 0 = 0 ∧
    s.reg .schedSaved 0 = 0 ∧ ∀ i, i < 8 → s.reg .saveBase i = 0

/-- For a live pair without fields that a read clears, at the addresses a and a + 4: a 4-byte read of the low word returns the low
word and fills the shadow with the high word; a 4-byte read of the high word returns the shadow if it is full and leaves it empty,
and else returns the live high word; an 8-byte read returns the whole value and leaves every shadow as it is. No read changes a
register or memory. (R7, 00_scope.md) -/
def Obligations.PairReadsUseTheShadow : Prop :=
  ∀ (dt a i : Nat) (n : RegName) (s x : State), x = s.advance dt → n.isPair = true → n.bits (· == .rc) = 0 → n ≠ .capMeta →
    ((Instr.lowWordRead dt a 4).wellFormed = true → x.live a ⟨n, i, 0⟩ = true →
      ∃ t, exec (.lowWordRead dt a 4) s = .next t ∧ t.readData = x.view n i % 2 ^ 32 ∧
        Tbl.find t.shadows (regKey n i) = some (BitVec.ofNat 64 (slice (x.view n i) 32 32)) ∧ t.regs = s.regs ∧ sameMemory s t) ∧
    ((Instr.highWordRead dt a 4).wellFormed = true → x.live a ⟨n, i, 1⟩ = true →
      ∃ t, exec (.highWordRead dt a 4) s = .next t ∧
        (∀ h, Tbl.find s.shadows (regKey n i) = some h → t.readData = h.toNat % 2 ^ 32) ∧
        (Tbl.find s.shadows (regKey n i) = none → t.readData = slice (x.view n i) 32 32) ∧
        Tbl.find t.shadows (regKey n i) = none ∧ t.regs = s.regs ∧ sameMemory s t) ∧
    ((Instr.lowWordRead dt a 8).wellFormed = true → x.live a ⟨n, i, 0⟩ = true →
      exec (.lowWordRead dt a 8) s = .next { x with readData := x.view n i })

/-- A read of 1, 2 or 4 bytes of a live 32-bit register, CAP_META apart, returns the addressed bytes of its word, its RC fields as
they were before the events of the present edge; whatever its length, afterwards its fields with access code RC hold only what the
events of the present edge have added (zero where there are none), and its other bits are as before. Every other register, every
shadow and all memory are unchanged. (R8, R9, R10) -/
def Obligations.ReadsClearRcFields : Prop :=
  ∀ (dt a len i : Nat) (n : RegName) (s x : State), x = s.advance dt → s.inOrder = true → n.width = 32 → n ≠ .capMeta → len ≤ 4 →
    (Instr.rcFieldRead dt a len).wellFormed = true → x.live (a / 4 * 4) ⟨n, i, 0⟩ = true →
    ∃ t, exec (.rcFieldRead dt a len) s = .next t ∧ t.readData = slice (slice (x.shown n i (x.view n i)) 0 32) (8 * (a % 4)) (8 * len) ∧
      (∀ k, bitAt (n.bits (· == .rc)) k = true → bitAt (t.reg n i) k = bitAt ((x.freshOf n i).elim 0 (·.2)) k) ∧
      (x.freshOf n i = none → x.shown n i (x.view n i) = x.view n i) ∧
      (∀ k, bitAt (n.bits (· == .rc)) k = false → bitAt (t.reg n i) k = bitAt (s.reg n i) k) ∧
      (∀ m j, ¬ (m = n ∧ j = i) → sameReg s t m j) ∧ t.shadows = s.shadows ∧ sameMemory s t

/-- A 4-byte write of a live 32-bit register, or an 8-byte write of a pair, whose chapter gives it no condition: RW bits take the
written value, W1C bits written 1 are cleared unless an event of the present edge has set them, every other bit stays; in a
register wired to zero (R242, R273) nothing is written. Every other register, every shadow and all memory are unchanged. (R8, R9,
R10) -/
def Obligations.WritesActByAccessCode : Prop :=
  ∀ (dt a len v i : Nat) (n : RegName) (s x : State), x = s.advance dt → s.inOrder = true → n.unconditioned = true →
    (Instr.registerWrite dt a len v).wellFormed = true → regAt a = some ⟨n, i, 0⟩ → (x.gatedAt a).isNone = true →
    (len = 4 ∧ n.width = 32 ∨ len = 8 ∧ n.isPair = true) →
    ∃ t, exec (.registerWrite dt a len v) s = .next t ∧
      (∀ k, k < 8 * len → bitAt (regMask n i) k = true →
        (bitAt (n.bits (· == .rw)) k = true → bitAt (t.reg n i) k = bitAt v k) ∧
        (bitAt (n.bits (· == .w1c)) k = true → bitAt (t.reg n i) k = (bitAt (s.reg n i) k && !bitAt v k || bitAt ((x.freshOf n i).elim 0 (·.2)) k)) ∧
        (bitAt (n.bits (· == .rw)) k = false → bitAt (n.bits (· == .w1c)) k = false → bitAt (t.reg n i) k = bitAt (s.reg n i) k)) ∧
      (regMask n i = 0 → t.reg n i = 0) ∧
      (∀ m j, ¬ (m = n ∧ j = i) → sameReg s t m j) ∧ t.shadows = s.shadows ∧ t.readData = s.readData ∧ sameMemory s t

/-- A write narrower than 4 bytes changes nothing and records an FC_INFO event whose syndrome holds the address. At an address
that holds no register and no window, outside a gated basin, an aligned 4-byte read returns zero and changes nothing else, and a
write is discarded. (R8) -/
def Obligations.NarrowAndUnmappedAccesses : Prop :=
  ∀ (dt a len v : Nat) (s x : State), x = s.advance dt →
    (len < 4 → (Instr.registerWrite dt a len v).wellFormed = true →
      ∃ n, exec (.registerWrite dt a len v) s = .next ({ x with freeCtr := x.freeCtr + 1 }.report (unitOfAddr a) 0 (n * 2 ^ 26 + a))) ∧
    (regAt a = none → x.windowWord a = none → (x.gatedAt a).isNone = true →
      ((Instr.registerWrite dt a 4 v).wellFormed = true → exec (.registerWrite dt a 4 v) s = .next x) ∧
      ((Instr.lowWordRead dt a 4).wellFormed = true → exec (.lowWordRead dt a 4) s = .next { x with readData := 0 }))

/-- Each of the 119 commands of leavesMemory (register reads, starts and ends of engines, timers, markers, pins and management
among them) leaves every byte of device memory, of the cisterns and of host memory and every pool word as it was; each of the 26
commands of leavesRegisters leaves every register as it was. (00_scope.md, R9) -/
def Obligations.RecordsLeaveMemory : Prop :=
  ∀ (c : Instr) (s t : State), Does c s t →
    (leavesMemory c = true → sameMemory s t) ∧ (leavesRegisters c = true → ∀ n i, sameReg s t n i)

/-- After reset DEVICE_ID, the recommended policies of Table 18-4, the health weights and epoch, the capture control, the quiet
time, the power control's, the slew bucket's and the aqueduct's parameters hold the values of their tables; no slice is bound,
every basin is gated, and the device is not in the safe state. (R11, R39, R345, R382, R395, R413) -/
def Obligations.ResetValues : Prop :=
  State.reset.reg .deviceId = 0x47E9C110 ∧
  (∀ k, k ∈ [0, 1, 2, 3, 11] → State.reset.reg .policy k = 1 + 64 * 2 ^ 4 + 2 ^ 16 + 3 * 2 ^ 17) ∧
  (∀ k, k ∈ [4, 5, 6, 7, 8, 10, 12, 15] → State.reset.reg .policy k = 1 + 64 * 2 ^ 4) ∧
  State.reset.reg .policy 9 = 2 + 1024 * 2 ^ 4 ∧
  (∀ k, k ∈ [13, 14] → State.reset.reg .policy k = 3 + 64 * 2 ^ 4 + 2 ^ 16 + 15 * 2 ^ 17) ∧
  (List.range 5).map (State.reset.reg .healthWeight ·) = [1, 64, 4096, 256, 512] ∧
  State.reset.reg .healthEpoch = 4096 ∧ State.reset.reg .spwQuiet = 1024 ∧
  State.reset.reg .aqdLifetime = 98304 ∧ State.reset.reg .aqdQueryMax = 4 ∧ State.reset.reg .sliceViolMask 1 = 3 ∧
  (∀ sl, sl < 128 → State.reset.sliceState sl = 0) ∧ (∀ b, b < 64 → State.reset.gated b = true) ∧ State.reset.safe = false

/-! ### Levels -/

/-- At a multiple of 1,024 counts an agent that is on gives its heartbeat; after four missing heartbeats its loss is reported,
FC_UNIT for a basin or terrace agent on which no fence is in effect and FC_DEVICE for a compute die; a fence that is due takes
effect; a fenced basin that is idle, neither reserved nor in a gate list nor under test, is gated. In each case the command
answers the state that its own effect gives. (R18, R25, R26, R29) -/
def Obligations.LevelsComplete : Prop :=
  ∀ (dt : Nat) (s x : State), x = s.advance dt →
    (∀ a, Ok (.heartbeat dt a) → x.tick1024 = true → x.agentOn a = true → Does (.heartbeat dt a) s (x.beat (agentBeat a))) ∧
    (∀ a, Ok (.heartbeatLoss dt a) → x.agentOn a = true → x.agentFenced a = false → x.beatLost (agentBeat a) = true →
      Does (.heartbeatLoss dt a) s
        ((x.noteSilent (agentBeat a)).reportLow (agentUnit a) (match a with | .die _ => 4 | _ => 2) 0 0)) ∧
    (∀ d, Ok (.dieHeartbeatLoss dt d) → x.agentOn (.die d) = true → x.beatLost (72 + d) = true →
      Does (.dieHeartbeatLoss dt d) s ((x.noteSilent (72 + d)).reportLow (unitDie d) 4 0 0)) ∧
    (∀ i, Ok (.fenceEffect dt i) → (x.item i).effect = true → Does (.fenceEffect dt i) s (x.fenceEffect i)) ∧
    (∀ b, Ok (.fencedBasinGate dt b) → x.fencedBasin b = true → x.gated b = false → x.idle b = true → x.reserved b = false →
      x.gateListed b = false → x.underTest b = false → Does (.fencedBasinGate dt b) s (x.gateBasin b))

/-- A heartbeat off the multiples of 1,024 counts does not occur. After a heartbeat of a basin or terrace agent at count n the
agent is not silent, no loss is noticed before count n + 4,096, and its loss is reported once that count is reached with the agent
on and no fence in effect on it: one report with the agent's unit identifier and class FC_UNIT joins the queue, and the agent is
silent. (R29) -/
def Obligations.HeartbeatsAreCounted : Prop :=
  ∀ (dt : Nat) (a : Agent) (s x : State), x = s.advance dt → Ok (.heartbeat dt a) → (∀ d, a ≠ .die d) →
    (x.now % 1024 ≠ 0 → Does (.heartbeat dt a) s x) ∧
    (x.now % 1024 = 0 → x.agentOn a = true →
      ∃ t, Does (.heartbeat dt a) s t ∧ t.spw.silent.contains (agentBeat a) = false ∧ t.regs = s.regs ∧ sameMemory s t ∧
        ∀ (e : Nat) (y : State), y = t.advance e → y.agentOn a = true → y.agentFenced a = false →
          (y.now < x.now + 4096 → Does (.heartbeatLoss e a) t y) ∧
          (x.now + 4096 ≤ y.now → ∃ (u : State) (d : Nat), Does (.heartbeatLoss e a) t u ∧ u.spw.silent.contains (agentBeat a) = true ∧
            u.spw.reportQ = t.spw.reportQ ++ [⟨agentUnit a, 2, y.now, d⟩] ∧ u.regs = s.regs ∧ sameMemory s u))

/-! ### Anchored accumulation -/

/-- The sum by pool_add of at most 2^31 K-group contributions of which none is NAN_WORD is their exact sum, stays below 2^135 in
magnitude, and so is a word of 144 bits that is not NAN_WORD. (R51) -/
def Obligations.FinitePoolWordsStayBelow : Prop :=
  ∀ cs : List Int, (∀ c, c ∈ cs → ∃ ab fa fb sa sb A p, c = (kgroup ab fa fb sa sb A p).1) → cs.length ≤ 2 ^ 31 → nanWord ∉ cs →
    cs.foldl poolAdd 0 = cs.sum ∧ (cs.foldl poolAdd 0).natAbs < 2 ^ 135 ∧ cs.foldl poolAdd 0 ≠ nanWord ∧
    signedOf (unsignedOf (cs.foldl poolAdd 0) 144) 144 = cs.foldl poolAdd 0

/-- For at most 2^31 K-group contributions the pool word is the same in every order, and adding two partial words gives the word
of all contributions. The flags accumulated over them are the same in every order. (R50, R58, R59) -/
def Obligations.AccumulationIsOrderFree : Prop :=
  (∀ cs ds : List Int, (∀ c, c ∈ cs → ∃ ab fa fb sa sb A p, c = (kgroup ab fa fb sa sb A p).1) → cs.length ≤ 2 ^ 31 →
    (cs.Perm ds → ds.foldl poolAdd 0 = cs.foldl poolAdd 0) ∧
    ∀ as bs, cs = as ++ bs → cs.foldl poolAdd 0 = poolAdd (as.foldl poolAdd 0) (bs.foldl poolAdd 0)) ∧
  ∀ fs gs : List AccFlags, fs.Perm gs → fs.foldl AccFlags.or .none = gs.foldl AccFlags.or .none

/-- A K-group with a SPECIAL element, or with scale byte 0xFF on either side, contributes NAN_WORD and sets the special flag;
whether the element is an infinity or NaN makes no difference. A pool word that NAN_WORD reaches is NAN_WORD whatever else is
added, and converts to the format's canonical NaN, or to scale 0xFF of an MX block. (R52) -/
def Obligations.SpecialOperandsGiveNan : Prop :=
  (∀ (ab : List (Nat × Nat)) (fa fb sa sb p : Nat) (A : Int),
    sa = 0xFF ∨ sb = 0xFF ∨ (∃ e, e ∈ ab ∧ (isNanEnc fa e.1 = true ∨ isInfEnc fa e.1 = true ∨ isNanEnc fb e.2 = true ∨ isInfEnc fb e.2 = true)) →
    kgroup ab fa fb sa sb A p = (nanWord, ⟨false, false, true, false⟩)) ∧
  (∀ (w : Int) (as bs : List Int), (as ++ nanWord :: bs).foldl poolAdd w = nanWord) ∧
  (∀ (A : Int) (code : Nat) (sat : Bool), rnd (wordVal nanWord A) code sat = (canonicalNan code, false)) ∧
  ∀ (ps : List Int) (A : Int) (ef : Nat), nanWord ∈ ps → mxQuantise ps A ef = (0xFF, ps.map (fun _ => 0), false)

/-- The residue of a finite pool value is its remainder modulo 255, from 0 to 254. It equals the sum of the 18 bytes of the
two's-complement word, minus 1 for a negative value, modulo 255. The residue of the sum of two finite words is the sum of their
residues modulo 255. (R60) -/
def Obligations.ResiduesOfPoolWords : Prop :=
  (∀ v : Int, -(2 : Int) ^ 143 < v → v < (2 : Int) ^ 143 →
    (res255 v : Int) = v % 255 ∧ res255 v < 255 ∧
    (res255 v : Int) =
      ((((List.range 18).map fun k => slice (unsignedOf v 144) (8 * k) 8).sum : Nat) - (if v < 0 then 1 else 0)) % 255) ∧
  ∀ P c : Int, P ≠ nanWord → c ≠ nanWord → res255 (poolAdd P c) = (res255 P + res255 c) % 255

/-! ### Jets and tiles -/

/-- The oldest unchecked entry of a basin's issue queue, a jet tile that passes its checks, is accepted with its chain. The jet's
next tile that does not run yet issues row 0 when its bank is loaded, or begins its bank load when its bank does not hold its
operand and the jet is idle and may start. A bank load ends with the operand in the bank and the bank valid. A running tile ends.
A remap with the key 0xF05E, a budget, an unused spare and no remap in progress, before the basin's first wake, is accepted; when
its fuse has blown the spare is used, the budget is one less and remap_busy is clear. (R70, R71, R72, R77, R78, R82, R83, R85) -/
def Obligations.JetCommandsComplete : Prop :=
  ∀ (dt b j : Nat) (s x : State), x = s.advance dt → b < 64 → j < 2 →
    (∀ c ch, x.firstIssue b 8 = some c → x.mayCheck c.slice b = true → x.jetCheck c = (stOk, ch) →
      Does (.jetTile dt b) s (x.accept c (Jd.chainAddr c.params) ch)) ∧
    (∀ ups y c, y = x.upsets ups → Ok (.jetTileStart dt b j ups) → (y.jetTiles b j).find? (·.phase != .running) = some c →
      y.mayStart c.slice b = true → y.runnelFree c = true →
      (c.phase = .loaded → c.begun = true →
        Does (.jetTileStart dt b j ups) s (y.jetRun c ((y.jetTiles b j).filter (·.phase == .running)))) ∧
      (c.phase = .queued → y.bankUsable (2 * b + j) c.params = false → (y.jetTiles b j).filter (·.phase == .running) = [] →
        (y.takeStart (2 * b + j) 4).2 = true →
        Does (.jetTileStart dt b j ups) s ((y.takeStart (2 * b + j) 4).1.jetLoad c none)) ∧
      (c.phase = .queued → y.bankUsable (2 * b + j) c.params = true → Jd.forceLoad c.params = 0 → c.begun = false →
        (y.takeStart (2 * b + j) 4).2 = true →
        Does (.jetTileStart dt b j ups) s
          ((y.takeStart (2 * b + j) 4).1.jetRun c ((y.jetTiles b j).filter (·.phase == .running))))) ∧
    (∀ ups y c, y = x.upsets ups → Ok (.jetBankLoadComplete dt b j ups) → (y.jetTiles b j).find? (·.phase == .loading) = some c →
      ∃ t, Does (.jetBankLoadComplete dt b j ups) s t ∧ (t.jet (2 * b + j)).bank (Jd.bank c.params) =
          (y.raceReads b c.id ((jetLoadNeeds c.params).filterMap (Need.span c.id))).jetBank b c.params ∧
        t.on (bankFld (Jd.bank c.params)) (2 * b + j) = true) ∧
    (∀ bad cyc stalls c, Ok (.jetTileEnd dt b j bad cyc stalls) → (x.jetTiles b j).find? (·.phase == .running) = some c →
      Does (.jetTileEnd dt b j bad cyc stalls) s (x.jetEnd c bad cyc stalls)) ∧
    (∀ v, Ok (.jetFieldRemap dt b j v) → (x.basin b).woken = false → slice v 16 16 = 0xF05E →
      x.rd Fld.jetSpareFieldBudget (2 * b + j) ≠ 0 → (x.spareFree (2 * b + j) (slice v 7 1)).isSome = true →
      x.on Fld.jetSpareRemapBusy (2 * b + j) = false →
      Does (.jetFieldRemap dt b j v) s ((x.setReg .jetFieldRemap (2 * b + j) v).wr Fld.jetSpareRemapBusy (2 * b + j) 1)) ∧
    (∀ n, x.on Fld.jetSpareRemapBusy (2 * b + j) = true → x.spareFree (2 * b + j) (x.rd Fld.jetFieldRemapKind (2 * b + j)) = some n →
      n < 4 → x.rd Fld.jetSpareFieldBudget (2 * b + j) ≠ 0 →
      ∃ t, Does (.fieldFuseBlown dt b j) s t ∧ t.on Fld.jetSpareRemapBusy (2 * b + j) = false ∧
        t.rd Fld.jetSpareFieldBudget (2 * b + j) + 1 = x.rd Fld.jetSpareFieldBudget (2 * b + j) ∧
        (x.rd Fld.jetFieldRemapKind (2 * b + j) = 0 → bitAt (t.rd Fld.jetSpareSpareRowUsed (2 * b + j)) n = true) ∧
        (x.rd Fld.jetFieldRemapKind (2 * b + j) ≠ 0 → bitAt (t.rd Fld.jetSpareSpareColUsed (2 * b + j)) n = true) ∧ sameMemory s t)

/-- A legal repartition of a basin that is awake, idle, neither reserved nor in a gate list nor open nor being repartitioned sets
part_busy and zeroing and records the new sizes; when its zeroing ends the repartition is done. A steal is counted. The CXL link
goes down with a report of class FC_UNIT, and comes up. (R94, R95, R96, R105) -/
def Obligations.TilesComplete : Prop :=
  ∀ (dt b : Nat) (s x : State), x = s.advance dt → b < 64 →
    (∀ v, Ok (.cisternPart dt b v) → x.gated b = false → x.busy b = false → x.windowOpen b = false →
      x.on Fld.cisternPartPartBusy b = false → x.reserved b = false → x.gateListed b = false →
      slice v 0 5 ≤ 16 → slice v 8 7 ≤ 64 →
      ∃ t, Does (.cisternPart dt b v) s t ∧ t.on Fld.cisternPartPartBusy b = true ∧ t.zeroing b = true ∧
        (t.basin b).parting = some (slice v 0 5, slice v 8 7) ∧ sameMemory s t) ∧
    (∀ banks units, (x.basin b).parting = some (banks, units) →
      Does (.cisternPartZeroingDone dt b) s (x.partDone b banks units)) ∧
    (x.gated b = false → Does (.cisternSteal dt b) s (x.bump Fld.cisternStealsSteals b)) ∧
    (x.boot.cxlUp = true → ∃ t d, Does (.cxlLinkDown dt) s t ∧ t.boot.cxlUp = false ∧
      t.spw.reportQ = x.spw.reportQ ++ [⟨unitHub 17, 2, x.now, d⟩] ∧ t.regs = s.regs ∧ sameMemory s t) ∧
    Does (.cxlLinkUp dt) s { x with boot := { x.boot with cxlUp := true } }

/-- Of the outcomes that a tile met its status is the first in the order of R81, and ST_OK if it met none. The reply holds the
status in its low 16 bits, acc_flags in the 4 bits above whatever the status, and the packet's tag and the low half of the step
counter in its words 1 and 2. (R81, R223) -/
def Obligations.TileStatusInOrder : Prop :=
  (∀ (met pre post : List Nat) (x : Nat), tileOrder = pre ++ x :: post → x ∈ met → (∀ y, y ∈ pre → y ∉ met) → tileStatus met = x) ∧
  (∀ met : List Nat, (∀ y, y ∈ tileOrder → y ∉ met) → tileStatus met = stOk) ∧
  tileOrder = [0x3001, 0x6001, 0x3002, 0x2003, 0x2002, 0x4001, 0x2004] ∧
  ∀ (s : State) (c : Cmd) (code : Nat), code < 2 ^ 16 →
    slice (s.replyWord c code) 0 16 = code ∧ slice (s.replyWord c code) 16 4 = c.flags.toNat ∧
    slice (s.replyWord c code) 32 32 = c.tag % 2 ^ 32 ∧ slice (s.replyWord c code) 64 32 = c.step0 % 2 ^ 32

/-! ### Runnels and rills -/

/-- The oldest unchecked entry of a basin's issue queue, a pass that passes its checks, is accepted with its chain and shows its
tag; a queued pass that may start and excludes nothing, with its start granted, starts; a running pass and an epilogue end with
their last write, which counts the waits at cistern banks, makes their pending writes and completes their command. (R107, R122,
R123, R124) -/
def Obligations.RunnelCommandsComplete : Prop :=
  ∀ (dt b : Nat) (s x : State), x = s.advance dt → b < 64 →
    (∀ c ch, x.firstIssue b 0xB = some c → x.mayCheck c.slice b = true → x.passCheck c = (stOk, ch) →
      Does (.runnelPass dt b) s (((x.eccRead b ⟨.cistern, Rp.chainAddr c.params, 256⟩).wr Fld.runnelTagTileTag b c.tag).modCmd c.id
        fun k => { k with phase := .queued, chain := ch })) ∧
    (∀ ups y c, y = x.upsets ups → Ok (.runnelPassStart dt b ups) → y.passes b .queued = some c → y.mayStart c.slice b = true →
      y.runnelFree c = true → (y.takeStart (256 + c.target) 1).2 = true →
      Does (.runnelPassStart dt b ups) s (y.passStart c)) ∧
    (∀ cyc stalls c, Ok (.runnelPassEnd dt b ⟨cyc, stalls⟩) → x.passes b .running = some c →
      Does (.runnelPassEnd dt b ⟨cyc, stalls⟩) s
        (((x.bump Fld.cisternStallsStallCycles b stalls).laneEnd { c with cyc := cyc }).ranUntilNow (256 + b))) ∧
    (∀ u stalls c, Ok (.epilogueComplete dt b ⟨u, stalls⟩) → (x.cmds.find? fun c => c.target == b && c.phase == .epilogue &&
        (if u = 2 then c.opcode == 9 else c.opcode == 8 && Jd.jet c.params == u)) = some c →
      Does (.epilogueComplete dt b ⟨u, stalls⟩) s ((x.bump Fld.cisternStallsStallCycles b stalls).laneEnd c))

/-- The oldest unchecked entry of a basin's issue queue, a rill tile that passes its checks, is accepted with what it resolved.
The first queued tile whose window is in no half starts a fetch into a free half; reads that return count down and their bytes are
counted, and the last one leaves the window in its half and the tile loaded. The oldest tile of the rill, loaded or with its
window in a half, starts when it may; a running tile ends. VARIANT_WRITE stores its 512 bits in the entry it names and completes.
(R130, R131, R134, R135, R136, R137, R142) -/
def Obligations.RillCommandsComplete : Prop :=
  ∀ (dt b : Nat) (s x : State), x = s.advance dt → b < 64 →
    (∀ poison c d y ch aux, x.firstIssue b 9 = some c → x.mayCheck c.slice b = true → x.cmdFenced c = false → x.rillStep1 b c.params = true →
      x.rillCheck c poison = (stOk, ch, aux) → y = x.modCmd c.id (fun k => { k with
        hbmB := k.hbmB + 64 * (x.resolveReads (Rd.variant c.params) (Rd.slot c.params) c.slice).length }) → y.cmd? c.id = some d →
      Does (.rillTile dt b poison) s ((y.accept d (Rd.chainAddr d.params) ch).modCmd d.id fun k => { k with aux := aux })) ∧
    (∀ c i, ((x.rill b).fetch.filter fun f => (x.cmd? f.cmd).isSome) = none → (x.rillTiles b).find? (·.phase == .queued) = some c →
      x.mayFetch c.slice b = true → (x.rill b).halfOf c.rillTag = none → x.rillFreeHalf (x.rill b) = some i →
      ∃ t, Does (.rillFetchStart dt b) s t ∧ (t.rill b).fetch = some ⟨c.id, i, readsOf c.rillRuns, false⟩ ∧ (t.rill b).lastHalf = i ∧
        t.regs = s.regs ∧ sameMemory s t) ∧
    (∀ n f c y, Ok (.rillFetchReturn dt b n false) → (x.rill b).fetch = some f → x.cmd? f.cmd = some c → f.stopped = false → 0 < n →
      n ≤ 256 → (c.rillRuns.any fun r => x.devFenced r.1 r.2) = false → y = x.bump Fld.rillFetchBytesFetchBytes b (bytesBack c.rillRuns f.left n) →
      (n < f.left → Does (.rillFetchReturn dt b n false) s
        (y.setRill b { y.rill b with fetch := some { f with left := f.left - n } })) ∧
      (f.left ≤ n → Does (.rillFetchReturn dt b n false) s (y.rillFetched b f c))) ∧
    (∀ ups y c half, y = x.upsets ups → Ok (.rillTileStart dt b ups) → (y.rillTiles b).head? = some c → c.phase ≠ .running →
      c.phase ≠ .loading → y.mayStart c.slice b = true → y.runnelFree c = true → (y.rill b).halfOf c.rillTag = some half →
      (y.takeStart (128 + b) 2).2 = true → Does (.rillTileStart dt b ups) s (y.rillStart b c half)) ∧
    (∀ bad cyc stalls c, Ok (.rillTileEnd dt b bad ⟨cyc, stalls⟩) → (x.rillTiles b).find? (·.phase == .running) = some c →
      Does (.rillTileEnd dt b bad ⟨cyc, stalls⟩) s (x.rillEnd c bad cyc stalls)) ∧
    (∀ r c, Ok (.variantWrite dt r) → x.firstH r 0x18 = some c →
      ∃ t, Does (.variantWrite dt r) s t ∧
        t = ({ x with variants := Tbl.set 0 x.variants (c.par 0 10) (c.par 256 512) } : State).finishNow c stOk)

/-! ### Cascades -/

/-- The oldest unchecked entry of a basin's issue queue, a cascade tile of the operation that the command names, that passes its
checks, is accepted by its terrace's cascade. The next tile by the service order starts its fetch into a free half when its page
list is readable and every entry valid; reads that return count down and their bytes are counted, and the last one, local and
remote, leaves the window in its half and the tile loaded. The tile that is to start starts when no other runs and the cascade is
not fenced; the running tile ends. (R147, R154, R156, R157, R158, R159) -/
def Obligations.CascadeCommandsComplete : Prop :=
  ∀ (dt : Nat) (s x : State), x = s.advance dt →
    (∀ b c, b < 64 → x.firstIssue b 0xA = some c → x.mayCheck c.slice b = true → x.cascadeCheck c = stOk →
      (Cd.op c.cd = 0 → Does (.cascadeForward dt b) s (x.modCmd c.id fun k => { k with phase := .queued, unit := b / 8 })) ∧
      (Cd.op c.cd = 1 → Does (.cascadeMerge dt b) s (x.modCmd c.id fun k => { k with phase := .queued, unit := b / 8 })) ∧
      (Cd.op c.cd = 2 → Does (.cascadeBackward dt b) s (x.modCmd c.id fun k => { k with phase := .queued, unit := b / 8 }))) ∧
    (∀ t c i, t < 8 → x.fetchNext t = some (c, i) → x.pageListCheck c = stOk →
      Does (.cascadeFetchStart dt t) s
        (((x.setCascade t { x.cascade t with lastBasin := c.target % 8 }).eccRead c.target (Cd.listNeed c.cd)).cascadeFetch t c i
          ((x.pageEntries c).filterMap (x.kvPage c.slice)))) ∧
    (∀ t n f c rest y, Ok (.cascadeFetchReturn dt t n false) → (x.cascade t).fetch = some f → x.cmd? f.cmd = some c → n ≠ 0 → n ≤ 256 →
      (c.localRuns.any fun r => x.devFenced r.1 r.2) = false → rest = max (f.left - n) (nat1 (x.aqdPending c.id)) →
      y = x.bump Fld.cascadeFetchBytesFetchBytes t (bytesBack c.fetchRuns f.left (f.left - rest)) →
      (rest ≠ 0 → Does (.cascadeFetchReturn dt t n false) s
        (y.setCascade t { y.cascade t with fetch := some { f with left := rest } })) ∧
      (rest = 0 → Does (.cascadeFetchReturn dt t n false) s (y.cascadeFetched t f c))) ∧
    (∀ t ups poison y c, y = x.upsets ups → Ok (.cascadeTileStart dt t ups poison) → y.cascadeRunning t = none →
      y.on Fld.terraceStateCascadeFenced t = false → y.cascadeToStart t = some c →
      Does (.cascadeTileStart dt t ups poison) s (y.cascadeStart t c poison)) ∧
    (∀ t bad cyc c, Ok (.cascadeTileEnd dt t bad cyc) → x.cascadeRunning t = some c →
      Does (.cascadeTileEnd dt t bad cyc) s (x.cascadeEnd t c bad cyc))

/-! ### Serving -/

/-- For the command that the session engine takes next, with the engine enabled: each session, page and prefix command whose work
answers ST_OK completes with ST_OK and the result of that work; SESSION_CANCEL and SESSION_PAUSE mark a latched session for the
end of its step and end any other one at once with its token record, when no refusal of that record waits; HANDOFF acts at once
when the arrival it waits for is there, is parked when it is not, acts when it comes, and completes with ST_TIMEOUT once its
window has closed without it; STEP_BEGIN latches the sessions of its batch; STEP_END and its resumption deliver the token records.
(R166, R167, R168, R169, R170, R172, R173, R175, R176, R178, R179, R182) -/
def Obligations.ServingCommandsComplete : Prop :=
  ∀ (dt : Nat) (s x : State), x = s.advance dt →
    (∀ c e r, x.nextServe = some c → x.on Fld.serveCtrlEnable = true →
      (c.opcode = 0x20 → Eng.create { s := x, sl := c.slice } c = (e, stOk, r) → Does (.sessionCreate dt) s (e.finish c stOk r)) ∧
      (c.opcode = 0x23 → Eng.rebuild { s := x, sl := c.slice } c = (e, stOk, r) → Does (.sessionRebuild dt) s (e.finish c stOk r)) ∧
      (c.opcode = 0x24 → Eng.release { s := x, sl := c.slice } c = (e, stOk, r) → Does (.sessionRelease dt) s (e.finish c stOk r)) ∧
      (c.opcode = 0x25 → Eng.provision { s := x, sl := c.slice } c = (e, stOk, r) → Does (.kvProvision dt) s (e.finish c stOk r)) ∧
      (c.opcode = 0x26 → Eng.reclaim { s := x, sl := c.slice } c = (e, stOk, r) → Does (.kvReclaim dt) s (e.finish c stOk r)) ∧
      (c.opcode = 0x27 → Eng.reserve { s := x, sl := c.slice } c = (e, stOk, r) → Does (.kvReserve dt) s (e.finish c stOk r)) ∧
      (c.opcode = 0x29 → Eng.seal { s := x, sl := c.slice } c = (e, stOk, r) → Does (.prefixSeal dt) s (e.finish c stOk r)) ∧
      (c.opcode = 0x2A → Eng.attach { s := x, sl := c.slice } c = (e, stOk, r) → Does (.prefixAttach dt) s (e.finish c stOk r)) ∧
      (c.opcode = 0x2B → Eng.dropPrefix { s := x, sl := c.slice } c = (e, stOk, r) → Does (.prefixDrop dt) s (e.finish c stOk r)) ∧
      (c.opcode = 0x2D → Eng.stepBegin { s := x, sl := c.slice } c = (e, stOk, r) →
        Does (.stepBegin dt) s (e.finish c stOk r)) ∧
      (c.opcode = 0x2C → Does (.handoff dt) s (x.handoff c)) ∧
      (c.opcode = 0x2E → Does (.stepEnd dt) s (x.stepEnd c))) ∧
    (∀ ups y c e r, y = x.upsets ups → Ok (.kvAppend dt ups) → y.appendReady = true → y.nextServe = some c →
      y.on Fld.serveCtrlEnable = true → c.opcode = 0x28 → Eng.append { s := y, sl := c.slice } c = (e, stOk, r) →
      Does (.kvAppend dt ups) s (e.finish c stOk r)) ∧
    (∀ c e d, x.nextServe = some c → x.on Fld.serveCtrlEnable = true →
      Eng.find { s := x, sl := c.slice } (c.word 0) [1, 2] true = (e, stOk, d) →
      (c.opcode = 0x21 →
        (Ds.latched d = true → Does (.sessionCancel dt) s ((e.store (c.word 0) (putBits d 3 1 1)).finish c stOk 0)) ∧
        (Ds.latched d = false → ∀ y z, y = e.leave (c.word 0) d 4 →
          z = y.s.queueRec c.slice c.id (tokenRec (c.word 0) 2 0 0 0 0) false → z.tokRefused c.id = none → Does (.sessionCancel dt) s
          (Eng.finish { y with s := ({ z with serve := { z.serve with recs := z.serve.recs.map fun r =>
            if r.2.1 = c.id then (r.1, 0, r.2.2) else r } } : State).deliverAll c.slice } c stOk 0))) ∧
      (c.opcode = 0x22 →
        (Ds.latched d = true → Does (.sessionPause dt) s ((e.store (c.word 0) (putBits d 4 1 1)).finish c stOk 0)) ∧
        (Ds.latched d = false → ∀ y z, y = e.leave (c.word 0) d 3 →
          z = y.s.queueRec c.slice c.id (tokenRec (c.word 0) 4 0 0 0 0) false → z.tokRefused c.id = none → Does (.sessionPause dt) s
          (Eng.finish { y with s := ({ z with serve := { z.serve with recs := z.serve.recs.map fun r =>
            if r.2.1 = c.id then (r.1, 0, r.2.2) else r } } : State).deliverAll c.slice } c stOk 0)))) ∧
    (∀ c e d, Eng.find { s := x, sl := c.slice } (c.word 0) [1] false = (e, stOk, d) → (c.word 1 = nullEntry ∨ x.counterOk c.slice (c.word 1) = true) →
      (x.arrived c = true → x.handoff c = x.handoffAct c) ∧
      (x.arrived c = false → x.handoff c = (x.beginCmd c.id).modCmd c.id fun k => { k with phase := .parked })) ∧
    (∀ sl c, sl < 128 → x.parkedCmd sl 0x2C = some c →
      (x.arrived c = true → x.handoffOver c = false → Does (.handoffArrival dt sl) s (x.handoffAct c)) ∧
      (x.arrived c = true → x.handoffOver c = true → Does (.handoffArrival dt sl) s ((x.bump Fld.timeoutRacesRaces 0).handoffAct c)) ∧
      (x.arrived c = false → x.handoffOver c = true → Does (.handoffTimeout dt sl) s ((x.nondet sl 5).finish c stTimeout))) ∧
    (∀ sl c y, Ok (.stepEndResume dt sl) → x.parkedCmd sl 0x2E = some c → y = x.deliverAll sl → y.recsLeft c.id = 0 →
      ∀ d, (y.modCmd c.id fun k => { k with result := 0 }).cmd? c.id = some d →
      Does (.stepEndResume dt sl) s ((y.modCmd c.id fun k => { k with result := 0 }).finish d (d.outcomes.headD stOk)))

/-! ### Spout cores -/

/-- A task whose parameters are in order is queued, and starts when no task holds its context and its cores get their weight. A
core that runs executes the instruction at its pc; a fired watchdog and ecall end cores. wc.claim, wc.done, sem.signal, sem.wait,
sem.try and tile.issue give their results in rd; a waiting acquisition completes with 0 when the value suffices and with 1 at its
deadline; a claim stalled on a full lease table resumes; an answered access returns to its core. (R188, R194, R195, R196, R198,
R199, R201, R202, R203, R262) -/
def Obligations.SpoutCommandsComplete : Prop :=
  ∀ (dt k c : Nat) (s x : State), x = s.advance dt → k < 512 → c = x.ctxCore k →
    (∀ b t, b < 64 → x.firstIssue b 0xC = some t → (x.mayCheck t.slice b = true ∨ x.fencedBasin b = true) → x.taskCheckStatus t = stOk →
      Does (.spoutTask dt b) s (x.modCmd t.id fun k => { k with phase := .queued })) ∧
    (∀ b t y, b < 64 → x.cmds.find? (fun c => c.target == b && c.opcode == 0xC && c.phase == .queued && x.mayStart c.slice b) = some t →
      (x.basin (x.ctx b)).task = none →
      x.takeStart (320 + t.target) ((List.range 8).filter fun k => bitAt (t.par 64 8) k).length = (y, true) →
      Does (.spoutTaskStart dt b) s
        ((y.startRunning t.id).beginTask ((y.startRunning t.id).ctx t.target)
          { cmd := t.id, radioOp := none, slice := t.slice, live := 0, start := (y.startRunning t.id).now, held := false,
            watchdog := if t.par 160 32 = 0 then 0 else (y.startRunning t.id).now + 1024 * t.par 160 32, addrFault := false, trap := false,
            timeout := false, exitNz := false, poison := false, cyc := 0 } t.params)) ∧
    (∀ b t, b < 64 → (x.basin (x.ctx b)).task = some t → t.watchdog ≠ 0 → t.watchdog ≤ x.now → t.live ≠ 0 → x.ctxRuns (x.ctx b) = true →
      Does (.spoutWatchdog dt b) s (x.watchdog (x.ctx b) t)) ∧
    (∀ ups y z w len, Ok (.spoutInstruction dt k ups 0) → x.coreRuns c = true → x.ownRow c = false → y = x.upsets ups →
      y.fetchInstr c false = (z, .word w len) →
      (∀ rd v fl, z.opOf c w = .wx rd v fl →
        Does (.spoutInstruction dt k ups 0) s (((z.modCore c fun k => (k.setX rd v).orFlags fl).retire c len).notePoison c 0 y)) ∧
      Does (.spoutInstruction dt k ups 0) s ((z.runOp c w len false (z.opOf c w)).notePoison c 0 y)) ∧
    (∀ cyc y, x.fetches c .ecall y → Does (.spoutEcall dt k cyc) s
      (((y.wr Fld.coreStatusTrapped c 0).wr Fld.coreStatusExitNonzero c (nat1 ((y.core c).xr 10 != 0))).coreEnd c cyc
        fun t => { t with exitNz := t.exitNz || (y.core c).xr 10 != 0 })) ∧
    (∀ rd a n y, x.fetches c (.custom 0 rd a n) y →
      (∀ z v, y.claim c = some (z, v) → Does (.wcClaim dt k) s (z.result c rd v)) ∧
      (y.claim c = none → Does (.wcClaim dt k) s (y.modCore c fun k => { k with claiming := some rd }))) ∧
    (∀ rd z v, (x.core c).claiming = some rd → x.ctxRuns (coreCtx c) = true → x.claim c = some (z, v) →
      Does (.wcClaimResume dt k) s ((z.modCore c fun k => { k with claiming := none }).result c rd v)) ∧
    (∀ rd a n y z ok, x.fetches c (.custom 1 rd a n) y → y.claimDone c ((y.core c).xr a) = (z, ok) →
      Does (.wcDone dt k) s (z.result c rd (nat1 ok))) ∧
    (∀ rd a n y z ovf, x.fetches c (.custom 2 rd a n) y → y.semMine c ((y.core c).xr a) = true →
      y.semAdd (coreBasin c) ((y.core c).xr a) ((y.core c).xr n) = (z, ovf) →
      Does (.spoutSemSignal dt k) s (z.result c rd (nat1 ovf))) ∧
    (∀ rd a n y i v, x.fetches c (.custom 4 rd a n) y → i = (y.core c).xr a → v = (y.core c).xr n → y.semMine c i = true →
      (y.semHas c i v = true → Does (.semTry dt k) s ((y.semTake c i v).result c rd 0)) ∧
      (y.semHas c i v = false → Does (.semTry dt k) s ((y.nondet (y.coreSlice c) 4).result c rd 1))) ∧
    (∀ rd a n y i v, x.fetches c (.custom 3 rd a n) y → i = (y.core c).xr a → v = (y.core c).xr n → y.semMine c i = true →
      (y.semHas c i v = true → y.firstWaiter (coreCtx c) i = none → Does (.semWait dt k) s (((y.noteRace c).semTake c i v).result c rd 0)) ∧
      (y.semHas c i v = false ∨ (y.firstWaiter (coreCtx c) i).isSome = true →
        (y.pastDeadline c = true → Does (.semWait dt k) s ((y.nondet (y.coreSlice c) 4).result c rd 1)) ∧
        (y.pastDeadline c = false → Does (.semWait dt k) s (y.block c i v rd)))) ∧
    (∀ b i q d w, Ok (.semWaitAcquire dt b i) → q = x.semCtx b i → x.firstWaiter q i = some d → (x.core d).waiting = some w →
      x.ctxRuns q = true → x.semHas d i w.2.1 = true →
      Does (.semWaitAcquire dt b i) s ((((x.noteRace d).semTake d i w.2.1).unblock d).result d w.2.2 0)) ∧
    (∀ w, (x.core c).waiting = some w → x.ctxRuns (coreCtx c) = true → x.pastDeadline c = true →
      (x.firstWaiter (coreCtx c) w.1 ≠ some c ∨ x.semHas c w.1 w.2.1 = false) →
      Does (.semWaitDeadline dt k) s (((x.unblock c).nondet (x.coreSlice c) 4).result c w.2.2 1)) ∧
    (∀ rd a n y z u d v ups, Ok (.tileIssue dt k ups) → x.fetches c (.custom 5 rd a n) y → z = y.upsets ups → v = (y.core c).xr n →
      (bitAt v 13 = true → z.semMine c (slice v 8 5) = true) → z.readTile c ((y.core c).xr a) (v % 4) = (u, some d) →
      (u.issueDepth (coreBasin c) < 16 →
        Does (.tileIssue dt k ups) s ((u.enqueueTile c (8 + v % 4) d (if bitAt v 13 then some (slice v 8 5) else none)).result c rd 0)) ∧
      (16 ≤ u.issueDepth (coreBasin c) → Does (.tileIssue dt k ups) s (u.result c rd 1))) ∧
    (∀ q a, x.answeredCore k = some (q, a) → Does (.spoutAccessReturn dt k) s (x.accessReturn q a))

/-- sem.signal adds its amount, returns 0 and empties the holder when the sum fits in 32 bits; otherwise the value stays, it
returns 1 and an FC_INFO event of the basin's semaphores is recorded. sem.try takes its amount and returns 0 when the value holds
it; otherwise it returns 1 and the value stays. No other semaphore changes, and no memory. (R202) -/
def Obligations.SemaphoreValues : Prop :=
  ∀ (c i v rd a n dt k : Nat) (s x y : State), x = s.advance dt → k < 512 → c = x.ctxCore k → s.inOrder = true →
    i = (y.core c).xr a → v = (y.core c).xr n → y.semMine c i = true →
    (x.fetches c (.custom 2 rd a n) y →
      ∃ t, (∀ j, j ≠ coreBasin c * 32 + i → t.reg .semValue j = y.reg .semValue j) ∧
        (y.reg .semValue (coreBasin c * 32 + i) + v < 2 ^ 32 →
          Does (.spoutSemSignal dt k) s (t.result c rd 0) ∧ t.reg .semValue (coreBasin c * 32 + i) = y.reg .semValue (coreBasin c * 32 + i) + v ∧
          t.rd Fld.semHolderHolder (coreBasin c * 32 + i) = 0 ∧ sameMemory y t) ∧
        (2 ^ 32 ≤ y.reg .semValue (coreBasin c * 32 + i) + v →
          Does (.spoutSemSignal dt k) s (t.result c rd 1) ∧ t.regs = y.regs ∧ sameMemory y t ∧
          ∃ d, t.spw.reportQ = y.spw.reportQ ++ [⟨unitBasin (coreBasin c) 5, 0, y.now, d⟩])) ∧
    (x.fetches c (.custom 4 rd a n) y →
      ∃ t, (∀ j, j ≠ coreBasin c * 32 + i → t.reg .semValue j = y.reg .semValue j) ∧ sameMemory y t ∧
        (v ≤ y.reg .semValue (coreBasin c * 32 + i) →
          Does (.semTry dt k) s (t.result c rd 0) ∧ t.reg .semValue (coreBasin c * 32 + i) = y.reg .semValue (coreBasin c * 32 + i) - v) ∧
        (y.reg .semValue (coreBasin c * 32 + i) < v →
          Does (.semTry dt k) s (t.result c rd 1) ∧ t.reg .semValue (coreBasin c * 32 + i) = y.reg .semValue (coreBasin c * 32 + i)))

/-! ### The sluice -/

/-- A doorbell with the PASID of the page's own active slice, at the offset of one of its eight rings, with a value below the size
of an enabled ring, sets the ring's SQ_TAIL to the value. A packet read of a served ring that no resumed failing packet holds and
whose tail covers a whole packet appends that packet, header and parameters as they stand in the ring, to the ring's stamp queue
and moves the read pointer over it. A packet dispatch takes the ring that the dispatch order chooses. (R207, R210, R212, R233) -/
def Obligations.SluiceReadsAndDispatches : Prop :=
  ∀ (dt : Nat) (s x : State), x = s.advance dt →
    (∀ page off pasid v, Ok (.doorbell dt page off pasid v) → page < 128 → off % 0x100 = 0 → off / 0x100 < 8 →
      pasid.bind x.pasidSlice = some page → x.sliceActive page = true → (page = 0 ∨ x.inferFenced = false) →
      x.on Fld.ringCtrlEnable (8 * page + off / 0x100) = true →
      v % 2 ^ 32 < 2 ^ x.rd Fld.sqSizeLog2Slots (8 * page + off / 0x100) →
      Does (.doorbell dt page off pasid v) s (x.wr Fld.sqTailTail (8 * page + off / 0x100) v)) ∧
    (∀ r host y len, Ok (.packetRead dt r host) → y = x.hostStores host → y.ringServed r = true → (y.ring r).stampQ.length < 32 →
      (y.ring r).stampQ.all (·.marked) = true → len = 1 + slice (y.ringNat r (y.ring r).readPtr 32) 8 3 →
      (y.ring r).failedLen = none → len ≤ y.covered r → (y.ring r).readPtr + len ≤ y.sqSlots r →
      ∃ (p : Packet) (t : State), Does (.packetRead dt r host) s t ∧ (t.ring r).stampQ = (y.ring r).stampQ ++ [p] ∧
        (t.ring r).readPtr = ((y.ring r).readPtr + len) % y.sqSlots r ∧ p.header = y.ringNat r (y.ring r).readPtr 32 ∧
        p.params = y.ringNat r ((y.ring r).readPtr + 1) (32 * (len - 1)) ∧ p.slot = (y.ring r).readPtr ∧ p.len = len) ∧
    (∀ r p, (x.autoWake).chooseRing = some (r, p) → Does (.packetDispatch dt) s ((x.autoWake.dispatch r p).noteStalls))

/-- For the first command of its ring that has been dispatched: NOP completes with ST_OK; FENCE starts, and completes once every
earlier packet it waits for has completed; WAIT starts if its parameters are in order, completes at once if its condition holds,
and else joins the waiters of its semaphore and completes later when the condition holds, or with ST_TIMEOUT once its window has
closed without it; COUNTER_ADD adds to the counter, completes, and advances a linked step counter; SEM_SIGNAL adds to a semaphore
that its slice may reach and completes; COPY and FILL start when their checks pass and no basin holds them back, and end with
their last beat. (R215, R216, R217, R220, R221) -/
def Obligations.SluiceCommandsComplete : Prop :=
  ∀ (dt r : Nat) (s x : State), x = s.advance dt → r < 1028 →
    (∀ c, x.firstH r 0x00 = some c → Does (.nop dt r) s (x.finishNow c stOk)) ∧
    (∀ c, x.firstH r 0x01 = some c → Does (.fence dt r) s (x.startRunning c.id)) ∧
    (∀ c, x.runningH r 0x01 = some c → x.fenceHolds c = true → Does (.fenceComplete dt r) s (x.endWait c stOk)) ∧
    (∀ c d y, x.firstH r 0x02 = some c → x.waitCheck c = stOk → y = x.startRunning c.id → y.runningH r 0x02 = some d →
      (y.waitHolds d = true → Does (.wait dt r) s (y.waitMet d)) ∧ (y.waitHolds d = false → Does (.wait dt r) s (y.joinSem d))) ∧
    (∀ c, x.runningH r 0x02 = some c → x.waitHolds c = true →
      (x.waitOver c = false → Does (.waitSatisfied dt r) s (x.waitMet c)) ∧
      (x.waitOver c = true → Does (.waitSatisfied dt r) s ((x.bump Fld.timeoutRacesRaces 0).waitMet c))) ∧
    (∀ c, x.runningH r 0x02 = some c → x.waitOver c = true → x.waitHolds c = false →
      ∃ v, Does (.waitTimeout dt r) s (((x.free.2).nondet c.slice 5).endWait { c with result := v } stTimeout) ∧
        (c.par 0 4 ≠ 1 → v = x.waitValue c)) ∧
    (∀ c y, x.firstH r 0x03 = some c →
      y = (x.setReg .sliceCounter (c.slice * 64 + c.par 0 6)
        (x.reg .sliceCounter (c.slice * 64 + c.par 0 6) + c.par 64 64)).finishNow c stOk →
      (y.on Fld.detCtrlLinkEn c.slice = true → y.rd Fld.detCtrlStepLink c.slice = c.par 0 6 →
        Does (.counterAdd dt r) s (y.stepAdvance c.slice (c.par 64 64))) ∧
      (y.on Fld.detCtrlLinkEn c.slice = false → Does (.counterAdd dt r) s y)) ∧
    (∀ c, x.firstH r 0x04 = some c → x.semOk c.slice (c.par 0 16) = true → x.semReach c.slice (c.par 0 16 / 32) = true →
      Does (.semSignal dt r) s
        (((x.semAdd (c.par 0 16 / 32) (c.par 0 16 % 32) (c.par 32 32)).1.modCmd c.id fun d =>
          { d with result := nat1 (x.semAdd (c.par 0 16 / 32) (c.par 0 16 % 32) (c.par 32 32)).2 }).finishNow c stOk)) ∧
    (∀ ups poison host c y, Ok (.copy dt r ups poison host) → y = (x.upsets ups).hostStores host → y.firstH r 0x10 = some c →
      y.copyCheck c = stOk → y.parting c.dst = false → y.parting c.src = false →
      y.sidePaused c.slice c.dst = false → y.sidePaused c.slice c.src = false →
      Does (.copy dt r ups poison host) s (y.copyStart c poison)) ∧
    (∀ c, x.firstH r 0x11 = some c → x.copyCheck c = stOk → x.parting c.dst = false → x.sidePaused c.slice c.dst = false →
      Does (.fill dt r) s (x.copyStart c false)) ∧
    (∀ c, (x.cmds.find? fun c => c.ring == r && (c.opcode == 0x10 || c.opcode == 0x11) && c.phase == .running) = some c →
      x.sideHeld c.slice c.dst = false → (c.opcode = 0x10 → x.sideHeld c.slice c.src = false) →
      Does (.copyComplete dt r) s (x.copyEnd c))

/-- A CQ_TAIL value below the ring's entry count is stored, the held replies go out as far as there is room, and cq_stalled shows
whether 64 or more are still held; a value at or above it is discarded and reported. Enabling a ring that is not enabled, with
both sizes from 3 to 20 and its slice active, starts it fresh: the four pointers are zero, it is not halted, and its stamp queue
is empty; otherwise it stays not enabled. Clearing enable stops the ring and keeps its pointers. A resume of a halted ring of a
slice that is neither freezing nor frozen clears halted, and skips the failing packet at SQ_HEAD, or reads it again when its
header was never read. (R208, R211, R229) -/
def Obligations.RingRegisters : Prop :=
  ∀ (dt r v : Nat) (s x : State), x = s.advance dt → r < 1028 →
    (Ok (.cqTailWrite dt r v) → v % 2 ^ 32 < x.cqEntries r →
      ∃ y t, y = (x.wr Fld.cqTailTail r v).flushHeld (x.ring r).held.length r ∧ Does (.cqTailWrite dt r v) s t ∧
        t = y.wr Fld.ringStatusCqStalled r (nat1 (decide (64 ≤ (y.ring r).held.length)))) ∧
    (Ok (.cqTailWrite dt r v) → x.cqEntries r ≤ v % 2 ^ 32 → Does (.cqTailWrite dt r v) s (x.info (unitHub 0))) ∧
    (Ok (.ringEnable dt r v) → v % 2 = 1 → x.on Fld.ringCtrlEnable r = false → x.ringCanEnable r = true →
      ∃ t, Does (.ringEnable dt r v) s t ∧ t.on Fld.ringCtrlEnable r = true ∧ t.rd Fld.ringCtrlTier r = v / 4 % 8 ∧
        t.rd Fld.ringCtrlHaltOnError r = v / 2 % 2 ∧ t.rd Fld.sqHeadHead r = 0 ∧ t.rd Fld.sqTailTail r = 0 ∧
        t.rd Fld.cqHeadHead r = 0 ∧ t.rd Fld.cqTailTail r = 0 ∧ t.on Fld.ringStatusHalted r = false ∧ (t.ring r).stampQ = [] ∧
        (t.ring r).readPtr = 0 ∧ sameMemory s t) ∧
    (Ok (.ringEnable dt r v) → v % 2 = 1 → x.on Fld.ringCtrlEnable r = false → x.ringCanEnable r = false →
      ∃ t, Does (.ringEnable dt r v) s t ∧ t.on Fld.ringCtrlEnable r = false) ∧
    (Ok (.ringEnable dt r v) → v % 2 = 0 →
      ∃ t, Does (.ringEnable dt r v) s t ∧ t.on Fld.ringCtrlEnable r = false ∧ t.reg .sqHead r = s.reg .sqHead r ∧
        t.reg .sqTail r = s.reg .sqTail r ∧ t.reg .cqHead r = s.reg .cqHead r ∧ t.reg .cqTail r = s.reg .cqTail r ∧
        t.rings = s.rings ∧ sameMemory s t) ∧
    (Ok (.ringResume dt r v) → v % 2 = 1 → x.on Fld.ringStatusHalted r = true → x.sliceState (ringSlice r) ≠ 2 →
      x.sliceState (ringSlice r) ≠ 3 →
      ∃ t, Does (.ringResume dt r v) s t ∧ t.on Fld.ringStatusHalted r = false ∧
        ((x.ring r).failedLen = none → t = x.wr Fld.ringStatusHalted r 0) ∧
        (∀ n, (x.ring r).failedLen = some (n + 1) → t = (x.wr Fld.ringStatusHalted r 0).skipFailed r (n + 1)) ∧
        ((x.ring r).failedLen = some 0 → (t.ring r).readPtr = x.rd Fld.sqHeadHead r) ∧ sameMemory s t)

/-! ### Slices -/

/-- SLICE_CMD resets a slice that is neither unbound nor resetting; when all its transfers have ended the reset clears its state,
and when no zeroing of it is left the slice is active again, or unbound where the reset is an unbind. Clearing enable of a bound
slice clears enable, cancels its armed launch units and starts a reset in squash mode, or turns the one in progress into squash
mode. A freezing slice whose engines have stopped is frozen. A refused host request ends its command (when its token record is
written, of one that still waits to write it), halts its ring with nothing dispatched, or loses its reply. (R231, R243, R244,
R246) -/
def Obligations.SliceCommandsComplete : Prop :=
  ∀ (dt sl : Nat) (s x : State), x = s.advance dt → sl < 128 →
    (∀ v, Ok (.sliceReset dt sl v) → v % 2 = 1 → x.sliceState sl ≠ 0 → x.sliceState sl ≠ 4 →
      Does (.sliceReset dt sl v) s (x.resetStart sl (bitAt v 1))) ∧
    (x.sliceState sl = 4 → (x.sliceSt sl).drained = false → x.sliceDrained sl = true →
      Does (.sliceResetDrained dt sl) s (x.resetDrained sl)) ∧
    (x.sliceState sl = 4 → (x.sliceSt sl).drained = true → x.resetZeroing sl = false →
      ((x.sliceSt sl).unbind = true → Does (.sliceResetComplete dt sl) s (x.unbound sl)) ∧
      ((x.sliceSt sl).unbind = false → Does (.sliceResetComplete dt sl) s
        ((x.setSliceState sl 1).setSliceSt sl { x.sliceSt sl with squash := false, drained := false }))) ∧
    (∀ v y, Ok (.sliceDisable dt sl v) → v % 2 = 0 → x.on Fld.sliceCtrlEnable sl = true →
      y = ((x.wr Fld.sliceCtrlEnable sl 0).setSliceSt sl { x.sliceSt sl with unbind := true }).cancelLaunch sl →
      (y.sliceState sl ≠ 4 → Does (.sliceDisable dt sl v) s (y.resetStart sl true)) ∧
      (y.sliceState sl = 4 → Does (.sliceDisable dt sl v) s (y.resetSquash sl))) ∧
    (x.sliceState sl = 2 → x.sliceStopped sl = true → Does (.sliceFrozen dt sl) s (x.setSliceState sl 3)) ∧
    (∀ c timeout, Ok (.hostRequestRefused dt 0 c.id timeout) → x.cmd? c.id = some c → c.usesHost = true →
      Does (.hostRequestRefused dt 0 c.id timeout) s
        (((x.free.2.copyStopped c).1.finishCore (x.free.2.copyStopped c).2 (refusalCode timeout)).refusal c.slice (refusalCode timeout)
          (x.free.2.refusedAt c x.free.1))) ∧
    (∀ c timeout, Ok (.hostRequestRefused dt 0 c.id timeout) → x.cmd? c.id = some c → c.usesHost = false → c.willDeliver = true →
      Does (.hostRequestRefused dt 0 c.id timeout) s (x.modCmd c.id fun d => { d with refused := some timeout })) ∧
    (∀ r timeout, Ok (.hostRequestRefused dt 1 r timeout) → r < 1028 → x.ringServed r = true → (x.ring r).stampQ = [] → x.covered r ≠ 0 →
      ∃ y, y = (x.haltRing r (refusalCode timeout)).setRing r { x.ring r with failedLen := some 0 } ∧
        Does (.hostRequestRefused dt 1 r timeout) s
          (y.refusal (ringSlice r) (refusalCode timeout) (y.reg .sqBase r + 32 * (x.ring r).readPtr))) ∧
    (∀ r k timeout, Ok (.hostRequestRefused dt (k + 2) r timeout) → r < 1028 →
      Does (.hostRequestRefused dt (k + 2) r timeout) s (x.refuseReply r k))

/-- A write that sets enable acts exactly if the slice is unbound, pasid_valid is 1 and its PASID is bound to no other slice,
key_valid is 1 and one of its ranges is enabled: then enable is 1 and the slice is active; otherwise the write is discarded and an
FC_INFO event is recorded. Writes to SLICE_PASID, the memory ranges and KEY_DATA, and a load or erase by KEY_CMD, of a slice that
is not unbound are discarded with an FC_INFO event; KEY_CMD leaves keys and KEY_STATUS unchanged. (R230) -/
def Obligations.BindingASlice : Prop :=
  ∀ (dt sl v : Nat) (s x : State), x = s.advance dt → s.inOrder = true → sl < 128 →
    (Ok (.sliceEnable dt sl v) → v % 2 = 1 →
      ((x.sliceState sl = 0 ∧ x.on Fld.slicePasidPasidValid sl = true ∧
          (∀ t, t < 128 → t ≠ sl → x.on Fld.sliceCtrlEnable t = true → x.rd Fld.slicePasidPasid t ≠ x.rd Fld.slicePasidPasid sl) ∧
          x.on Fld.keyStatusKeyValid sl = true ∧ ∃ i, i < 8 ∧ x.on Fld.memRangeBaseEnable (8 * sl + i) = true) →
        ∃ t, Does (.sliceEnable dt sl v) s t ∧ t.on Fld.sliceCtrlEnable sl = true ∧ t.sliceState sl = 1 ∧
          (∀ n i, ¬ ((n = .sliceCtrl ∨ n = .sliceStatus) ∧ i = sl) → sameReg s t n i) ∧ sameMemory s t) ∧
      (¬ (x.sliceState sl = 0 ∧ x.on Fld.slicePasidPasidValid sl = true ∧
          (∀ t, t < 128 → t ≠ sl → x.on Fld.sliceCtrlEnable t = true → x.rd Fld.slicePasidPasid t ≠ x.rd Fld.slicePasidPasid sl) ∧
          x.on Fld.keyStatusKeyValid sl = true ∧ ∃ i, i < 8 ∧ x.on Fld.memRangeBaseEnable (8 * sl + i) = true) →
        Does (.sliceEnable dt sl v) s (x.info (unitHub 0)))) ∧
    (x.sliceState sl ≠ 0 →
      (∀ i last, Ok (.memRangeWrite dt sl i last v) → Does (.memRangeWrite dt sl i last v) s (x.info (unitHub 0))) ∧
      (∀ a, Ok (.registerWrite dt a 4 v) → regAt a = some ⟨.slicePasid, sl, 0⟩ →
        Does (.registerWrite dt a 4 v) s (x.info (unitHub 0))) ∧
      (∀ a i, Ok (.registerWrite dt a 4 v) → i < 16 → regAt a = some ⟨.keyData, 16 * sl + i, 0⟩ →
        Does (.registerWrite dt a 4 v) s (x.info (unitHub 0))) ∧
      (Ok (.keyLoad dt sl v) → (bitAt v 0 = true → Does (.keyLoad dt sl v) s ((x.info (unitHub 0)).zeroKeyData sl)) ∧
        (bitAt v 1 = true → Does (.keyErase dt sl v) s ((x.info (unitHub 0)).zeroKeyData sl))))

/-- On an unbound slice, a load of a key whose halves differ and that no other slice holds installs the key in KEY_DATA, sets
key_valid, clears key_error and sets cause to 0. A load of a key with equal halves sets key_error with cause 1; one that another
slice holds sets key_error with cause 2; key_valid and the slice's key stay. An erase clears key_valid and takes the key away.
After every write of KEY_CMD, KEY_DATA is zero. (R238) -/
def Obligations.LoadingAKey : Prop :=
  ∀ (dt sl v k : Nat) (s x : State), x = s.advance dt → sl < 128 → x.sliceState sl = 0 → k = x.keyData sl →
    (Ok (.keyLoad dt sl v) → v % 4 = 1 →
      ∃ t, Does (.keyLoad dt sl v) s t ∧ (∀ i, i < 16 → t.reg .keyData (16 * sl + i) = 0) ∧ sameMemory s t ∧
        (k % 2 ^ 256 ≠ k / 2 ^ 256 → (∀ u, u < 128 → u ≠ sl → x.sliceKey? u ≠ some (BitVec.ofNat 512 k)) →
          t.sliceKey? sl = some (BitVec.ofNat 512 k) ∧ t.rd Fld.keyStatusKeyValid sl = 1 ∧ t.rd Fld.keyStatusKeyError sl = 0 ∧
          t.rd Fld.keyStatusCause sl = 0 ∧ ∀ u key, u ≠ sl → x.sliceKey? u = some key → t.sliceKey? u = some key) ∧
        (k % 2 ^ 256 = k / 2 ^ 256 → t.slices = s.slices ∧ t.rd Fld.keyStatusKeyError sl = 1 ∧ t.rd Fld.keyStatusCause sl = 1 ∧
          t.rd Fld.keyStatusKeyValid sl = s.rd Fld.keyStatusKeyValid sl) ∧
        (k % 2 ^ 256 ≠ k / 2 ^ 256 → (∃ u, u < 128 ∧ u ≠ sl ∧ x.sliceKey? u = some (BitVec.ofNat 512 k)) →
          t.slices = s.slices ∧ t.rd Fld.keyStatusKeyError sl = 1 ∧ t.rd Fld.keyStatusCause sl = 2 ∧
          t.rd Fld.keyStatusKeyValid sl = s.rd Fld.keyStatusKeyValid sl)) ∧
    (Ok (.keyErase dt sl v) → v % 4 = 2 →
      ∃ t, Does (.keyErase dt sl v) s t ∧ (∀ i, i < 16 → t.reg .keyData (16 * sl + i) = 0) ∧ t.sliceKey? sl = none ∧
        t.rd Fld.keyStatusKeyValid sl = 0 ∧ (∀ u, u ≠ sl → t.sliceKey? u = x.sliceKey? u) ∧ sameMemory s t)

/-- On an unbound slice a write to base or last of a range that is enabled before or after it acts exactly if the range as it
would stand has its base not above its last, lies in memory, and meets no enabled range of another slice; then the written fields
take their values. A write to a range that is disabled before and after it always acts. Any other is discarded with an FC_INFO
event. A write of SLICE_BASINS that shares no basin between a slice in fixed-share mode and another is stored, slice 0's always;
any other is discarded with an FC_INFO event. (R230, R235, R259) -/
def Obligations.RangeWrites : Prop :=
  ∀ (dt sl i v : Nat) (s x : State), x = s.advance dt → sl < 128 → i < 8 →
    (Ok (.memRangeWrite dt sl i false v) → x.sliceState sl = 0 →
      ((x.rd Fld.memRangeBaseEnable (8 * sl + i) = 0 ∧ v % 2 = 0) ∨
          x.rangeOk sl (slice v 21 23) (x.rd Fld.memRangeLastLast (8 * sl + i)) = true →
        ∃ t, Does (.memRangeWrite dt sl i false v) s t ∧ t.rd Fld.memRangeBaseEnable (8 * sl + i) = v % 2 ∧
          t.rd Fld.memRangeBaseBase (8 * sl + i) = slice v 21 23 ∧
          (∀ n j, ¬ (n = .memRangeBase ∧ j = 8 * sl + i) → sameReg s t n j) ∧ sameMemory s t) ∧
      (x.rd Fld.memRangeBaseEnable (8 * sl + i) = 1 ∨ v % 2 = 1 →
        x.rangeOk sl (slice v 21 23) (x.rd Fld.memRangeLastLast (8 * sl + i)) = false →
        Does (.memRangeWrite dt sl i false v) s (x.info (unitHub 0)))) ∧
    (Ok (.memRangeWrite dt sl i true v) → x.sliceState sl = 0 →
      (x.rd Fld.memRangeBaseEnable (8 * sl + i) = 0 ∨
          x.rangeOk sl (x.rd Fld.memRangeBaseBase (8 * sl + i)) (slice v 21 23) = true →
        ∃ t, Does (.memRangeWrite dt sl i true v) s t ∧ t.rd Fld.memRangeLastLast (8 * sl + i) = slice v 21 23 ∧
          (∀ n j, ¬ (n = .memRangeLast ∧ j = 8 * sl + i) → sameReg s t n j) ∧ sameMemory s t) ∧
      (x.rd Fld.memRangeBaseEnable (8 * sl + i) = 1 →
        x.rangeOk sl (x.rd Fld.memRangeBaseBase (8 * sl + i)) (slice v 21 23) = false →
        Does (.memRangeWrite dt sl i true v) s (x.info (unitHub 0)))) ∧
    (Ok (.sliceBasinsWrite dt sl v) → v < 2 ^ 64 →
      ((sl = 0 ∨ ∀ t, t < 128 → t ≠ sl → 1 ≤ t → x.reg .sliceBasins t &&& v ≠ 0 → x.fixedShare t = false ∧ x.fixedShare sl = false) →
        ∃ t, Does (.sliceBasinsWrite dt sl v) s t ∧ t.reg .sliceBasins sl = v ∧
          (∀ n j, ¬ (n = .sliceBasins ∧ j = sl) → sameReg s t n j) ∧ sameMemory s t) ∧
      (1 ≤ sl → (∃ t, t < 128 ∧ t ≠ sl ∧ 1 ≤ t ∧ x.reg .sliceBasins t &&& v ≠ 0 ∧ (x.fixedShare t = true ∨ x.fixedShare sl = true)) →
        Does (.sliceBasinsWrite dt sl v) s (x.info (unitHub 0))))

/-- An access of a tenant slice to device memory is permitted exactly if every byte of it lies in enabled ranges of that slice,
and what it was permitted is not changed by a write of another slice's ranges. (R235, R239) -/
def Obligations.RangesBoundAccess : Prop :=
  ∀ (s : State) (sl a n : Nat), 1 ≤ sl → sl < 128 → s.devOk sl a n = true →
    (∀ k, k < n → ∃ r, r ∈ s.ranges ∧ r.1 = sl ∧ r.2.1 ≤ a + k ∧ a + k ≤ r.2.2) ∧
    ∀ (dt u i v : Nat) (last : Bool) (t : State), u ≠ sl → Does (.memRangeWrite dt u i last v) s t → t.devOk sl a n = true

/-! ### Scheduling -/

/-- At a multiple of 1,024 counts, once, every tenant slice's buckets refill and every ring's red packet is marked again. Writes
of SCHED_MARK and of SCHED_SHARE to a tenant slice act, and basins that a fixed share makes protected are to run at their
protected step; effective tiers are evaluated anew. A basin whose owner may be pre-empted by the winning claim, at once or by its
quantum, is asked to yield to it. When the claim has been withdrawn the switch ends; otherwise, when the drain ends, the save
begins, or without a save area the zeroing. The save, the zeroing and the restore of a switch end with their effects. (R252, R255,
R258, R259, R260, R264, R266) -/
def Obligations.SchedulingCommandsComplete : Prop :=
  ∀ (dt b : Nat) (s x : State), x = s.advance dt → b < 64 →
    (∀ y, x.tick1024 = true → x.ticked.contains .markers = false →
      y = ({ x with ticked := .markers :: x.ticked } : State).each ((List.range 127).map (· + 1)) State.markerRefill →
      Does (.markerRefill dt) s (y.each (y.rings.map (·.1)) State.remark)) ∧
    (∀ sl v, 1 ≤ sl → Ok (.markerEnable dt sl v) → v % 2 = 1 → x.on Fld.schedMarkEnable sl = false →
      ∃ y, y = (((x.wr Fld.schedMarkEnable sl v).wr Fld.schedMarkColourAware sl (v / 2)).wr Fld.schedMarkRingYellow sl (v / 4)).markerRates sl ∧
        Does (.markerEnable dt sl v) s ((y.wr Fld.schedTcTc sl (y.reg .schedCbs sl)).wr Fld.schedTpTp sl (y.reg .schedPbs sl))) ∧
    (∀ sl v, 1 ≤ sl → v % 2 ^ 16 ≠ 0 → (bitAt v 16 = false ∨ x.fixedShare sl = true ∨ x.sharesBasin sl = false) →
      ∀ y, y = (x.wr Fld.schedShareWeight sl v).wr Fld.schedShareFixedShare sl (v / 2 ^ 16) →
      (Ok (.weightWrite dt sl v) → Does (.weightWrite dt sl v) s
        (y.protectNow x ((List.range 64).filter fun k => y.fixedShare sl && x.assigned sl k))) ∧
      (Ok (.fixedShareWrite dt sl v) → Does (.fixedShareWrite dt sl v) s
        (y.protectNow x ((List.range 64).filter fun k => y.fixedShare sl && x.assigned sl k)))) ∧
    Does (.effectiveTierUpdate dt) s x.updateTiers ∧
    (∀ c, bestClaim (x.claimsOn b) = some c → x.maySwitch b = true → x.deferSwitch b c.slice = false →
      (x.ownerWork b = [] ∨ ((x.saveArea (x.basin b).tenant b).isSome = true ∧ c.tier < x.ownerTier b) →
        Does (.yieldRequest dt b) s (x.requestYield b c.slice)) ∧
      (x.ownerWork b ≠ [] → (x.saveArea (x.basin b).tenant b).isSome = true → c.tier = x.ownerTier b → x.quantumOver b = true →
        Does (.quantumExpiry dt b) s (x.requestYield b c.slice))) ∧
    (∀ w, (x.basin b).switch = some w → w.stage = 1 →
      ((∀ c, c ∈ x.claimsOn b → c.slice ≠ w.incoming) → Does (.yieldDrained dt b) s (x.dropSwitch b)) ∧
      (x.drained b = true → (∃ c, c ∈ x.claimsOn b ∧ c.slice = w.incoming) →
        ((x.saveArea (x.basin b).tenant b).isSome = true → Does (.yieldDrained dt b) s (x.setStage b 2)) ∧
        (x.saveArea (x.basin b).tenant b = none → Does (.yieldDrained dt b) s (x.switchZero b w.incoming)))) ∧
    (∀ w ups y a, Ok (.saveComplete dt b false 0 ups) → (x.basin b).switch = some w → w.stage = 2 → y = x.upsets ups →
      y.saveArea (y.basin b).tenant b = some a → y.saveFails b a (y.liveParts b a 0) false = none →
      Does (.saveComplete dt b false 0 ups) s (y.saveDone b w false 0)) ∧
    (∀ z w, (x.basin b).zeroing = some z → z.kind = 1 → (((x.zeroRegion b false).endZero b z).basin b).switch = some w →
      ∃ y, y = (x.zeroRegion b false).endZero b z ∧
        (y.saved? w.incoming b = none → Does (.handoverZeroingDone dt b) s (y.handOver b w.incoming)) ∧
        ((y.saved? w.incoming b).isSome = true → Does (.handoverZeroingDone dt b) s (y.setStage b 4))) ∧
    (∀ w j a, (x.basin b).switch = some w → w.stage = 4 → x.saved? w.incoming b = some j → x.saveArea w.incoming b = some a →
      x.areaOk b w.incoming a (x.liveParts b a 0) false = true →
      Does (.restoreComplete dt b false) s
        ((((((x.readArea b a (x.liveParts b a 0)).unpackJob b w.incoming a j).setRegBit .schedSaved w.incoming b false).bump
          Fld.schedRestoresRestores w.incoming).chargeMove w.incoming a (saveBytes (x.liveParts b a 0))).handOver b w.incoming))

/-- GATE_LIST with parameters and contents in order puts its list, or a removal, in the basin's pending slot, from when the basin
is protected, and completes with ST_OK. The pending slot acts at its count. Guard bands begin, windows open and close; a window
with radio work executing at its close is extended, and closes when that work is over. (R268, R269, R270, R271, R272) -/
def Obligations.GateCommandsComplete : Prop :=
  ∀ (dt b : Nat) (s x : State), x = s.advance dt → b < 64 →
    (∀ r c d y, x.firstH r 0x31 = some c → x.gateParamsOk c = true →
      y = x.modCmd c.id (fun k => { k with faultAddr := some (c.par 128 44), hbmB := k.hbmB + gateListBytes (x.devNat (c.par 128 44) 32) }) →
      (Ok (.gateList dt r false) → bitAt c.params 8 = false → x.gateListStatus c false = stOk → y.cmd? c.id = some d →
        Does (.gateList dt r false) s
          (((y.setPending (d.par 0 6) (d.par 64 64) (some (y.gateListAt (c.par 128 44)))).protectNow y [d.par 0 6]).finishNow d stOk)) ∧
      (Ok (.gateListRemove dt r) → bitAt c.params 8 = true →
        Does (.gateListRemove dt r) s ((x.setPending (c.par 0 6) (c.par 64 64) none).finishNow c stOk))) ∧
    (∀ t, (x.basin b).pendAct = some t → t ≤ x.now → x.inGuard b = false → (x.windowOpen b = false ∨ x.on Fld.gateStatusExtended b = true) →
      ∃ y, y = x.setBasin b { x.basin b with gateList := (x.basin b).pendList, pendAct := none, pendList := none } ∧
        Does (.gateListAct dt b) s (((y.wr Fld.gateStatusPending b 0).showList b).showNextOpen b (t - 1))) ∧
    (∀ l, (x.basin b).gateList = some l → x.windowOpen b = false →
      (x.inGuard b = false → x.reg .gateNextOpen b ≤ x.now + l.guard → Does (.guardBandBegin dt b) s (x.guardBegin b)) ∧
      (x.reg .gateNextOpen b ≤ x.now → Does (.windowOpen dt b) s (x.openWindow b l))) ∧
    (x.windowOpen b = true → x.on Fld.gateStatusExtended b = false → x.pastClose b = true →
      (x.radioBusy b = false → Does (.windowClose dt b) s (x.closeWindow b)) ∧
      (x.radioBusy b = true → Does (.windowClose dt b) s
        ((x.wr Fld.gateStatusExtended b 1).bump Fld.gateExtensionsExtensions b))) ∧
    (x.windowOpen b = true → x.on Fld.gateStatusExtended b = true → x.radioBusy b = false →
      Does (.windowExtendedClose dt b) s (x.closeWindow b))

/-- A refill makes the committed bucket the lesser of CBS and its content plus CIR, the peak bucket the lesser of PBS and its
content plus PIR, and changes no other register. Setting enable fills both, at the sizes written. A packet is red and takes
nothing if the peak bucket holds less than its cost cut to PBS; else yellow, taking from the peak bucket, if the slice minds
colours and its ring is yellow, or the committed bucket holds less than its cost cut to CBS; else green, taking from both. (R255,
R256) -/
def Obligations.MarkerBuckets : Prop :=
  ∀ (dt sl : Nat) (s x : State), x = s.advance dt → s.inOrder = true → 1 ≤ sl → sl < 128 →
    ((x.markerRefill sl).reg .schedTc sl = min (s.reg .schedCbs sl) (s.reg .schedTc sl + s.reg .schedCir sl) ∧
      (x.markerRefill sl).reg .schedTp sl = min (s.reg .schedPbs sl) (s.reg .schedTp sl + s.reg .schedPir sl) ∧
      ∀ n i, ¬ ((n = .schedTc ∨ n = .schedTp) ∧ i = sl) → sameReg s (x.markerRefill sl) n i) ∧
    (∀ v, Ok (.markerEnable dt sl v) → v % 2 = 1 → s.on Fld.schedMarkEnable sl = false →
      ∃ t, Does (.markerEnable dt sl v) s t ∧ t.on Fld.schedMarkEnable sl = true ∧ t.reg .schedTc sl = s.reg .schedCbs sl ∧
        t.reg .schedTp sl = s.reg .schedPbs sl ∧ (t.sliceSt sl).cbs = s.reg .schedCbs sl ∧ (t.sliceSt sl).pbs = s.reg .schedPbs sl ∧
        (t.sliceSt sl).cir = s.reg .schedCir sl ∧ (t.sliceSt sl).pir = s.reg .schedPir sl ∧
        (∀ n i, ¬ ((n = .schedMark ∨ n = .schedTc ∨ n = .schedTp) ∧ i = sl) → sameReg s t n i) ∧ sameMemory s t) ∧
    ∀ (B bc bp : Nat) (yellow : Bool), bc = min B (x.sliceSt sl).cbs → bp = min B (x.sliceSt sl).pbs →
      (s.reg .schedTp sl < bp → x.mark sl B yellow = (0, x)) ∧
      (bp ≤ s.reg .schedTp sl → (s.on Fld.schedMarkColourAware sl = true ∧ yellow = true) ∨ s.reg .schedTc sl < bc →
        (x.mark sl B yellow).1 = 1 ∧ (x.mark sl B yellow).2.reg .schedTp sl = s.reg .schedTp sl - bp ∧
        (x.mark sl B yellow).2.reg .schedTc sl = s.reg .schedTc sl) ∧
      (bp ≤ s.reg .schedTp sl → (s.on Fld.schedMarkColourAware sl = false ∨ yellow = false) → bc ≤ s.reg .schedTc sl →
        (x.mark sl B yellow).1 = 2 ∧ (x.mark sl B yellow).2.reg .schedTp sl = s.reg .schedTp sl - bp ∧
        (x.mark sl B yellow).2.reg .schedTc sl = s.reg .schedTc sl - bc)

/-! ### Radio -/

/-- A write of CAR_CTRL whose carrier is in order, of RADIO_CTRL with the HARQ region in order and of RADIO_RESERVED whose basins
may change acts. On a carrier in service, outside the safe state, every section of a packet in its window whose sections are all
in order is written, a symbol's window closes, and a downlink symbol is emitted. SLOT_PLAN completes admission: an admitted plan
is kept. (R276, R277, R278, R279, R280, R282, R283, R286, R296) -/
def Obligations.CarrierCommandsComplete : Prop :=
  ∀ (dt : Nat) (s x : State), x = s.advance dt →
    (∀ c v, Ok (.carrierEnable dt c v) → (v % 2 = 0 ∨ (x.setReg .carCtrl c (v % 2 ^ 25)).carrierOk c = true) →
      Does (.carrierEnable dt c v) s (x.setReg .carCtrl c (v % 2 ^ 25))) ∧
    (∀ p k, Ok (.uplaneSection dt p) → x.carServes p.car = true → x.safe = false → x.sectionSlot p (x.ingressStamp p.port) = some k →
      x.uplaneOk p = true → Does (.uplaneSection dt p) s (x.each p.sections fun s q => s.sectionWrite p q k)) ∧
    (∀ c slot sym, x.carServes c = true → x.safe = false →
      (Ok (.receiveWindowClose dt c slot sym) → x.symStart c slot sym + x.rd Fld.carWinWinClose c ≤ x.now →
        x.markedFrom (symKey c slot sym) closedMark = false →
        Does (.receiveWindowClose dt c slot sym) s (x.windowClosed c slot sym)) ∧
      (Ok (.dlSymbolEmission dt c slot sym) → x.symStart c slot sym ≤ x.now + x.rd Fld.carShiftDlAdvance c →
        x.markedFrom (symKey c slot sym) emittedMark = false →
        Does (.dlSymbolEmission dt c slot sym) s ((x.emitSymbol c slot sym).markSymbol (symKey c slot sym) emittedMark))) ∧
    (∀ v sets clears, Ok (.radioReservedWrite dt v) →
      sets = (List.range 64).filter (fun b => bitAt v b && !x.regBit .radioReserved 0 b) →
      clears = (List.range 64).filter (fun b => !bitAt v b && x.regBit .radioReserved 0 b) →
      (∀ b, b ∈ sets → x.mayReserve b = true) → (∀ b, b ∈ clears → x.mayRelease b = true) →
      Does (.radioReservedWrite dt v) s (((x.each sets fun s b => s.reserveBasin b true).each clears fun s b => s.reserveBasin b false).protectNow x sets)) ∧
    (∀ v, Ok (.radioEnable dt v) → (v % 2 = 0 ∨ x.harqRegionOk = true) →
      Does (.radioEnable dt v) s (x.wr Fld.radioCtrlEnable 0 v)) ∧
    (∀ r poison c os tails, Ok (.slotPlan dt r poison) → x.firstH r 0x30 = some c → x.admission c.params c.start poison = .inl (os, tails) →
      Does (.slotPlan dt r poison) s (x.planAdmitted c os tails))

/-- The next operation of an engine starts when its start time, its dependencies and its unit permit: a wellhead operation of each
kind, a C-plane message, a JET or SPOUT operation. A SPOUT operation at its budget is stopped. An executing operation ends; one
whose deadline has passed, or that nothing can run, is a slot overrun. A standby or a spare takes over. (R279, R281, R284, R285,
R288, R289, R290, R291, R292, R293, R298, R300) -/
def Obligations.RadioOperationsComplete : Prop :=
  ∀ (dt i : Nat) (poison : Bool) (s x : State), x = s.advance dt →
    (∀ p n o, 
      (Ok (.ldpcDec dt i poison) → x.startable (opEngine 0 1 i 0) 1 = some (p, n, o) → Does (.ldpcDec dt i poison) s (x.wellStart p n o poison)) ∧
      (Ok (.ldpcEnc dt i poison) → x.startable (opEngine 0 2 i 0) 2 = some (p, n, o) → Does (.ldpcEnc dt i poison) s (x.wellStart p n o poison)) ∧
      (Ok (.polarDec dt i poison) → x.startable (opEngine 0 3 i 0) 3 = some (p, n, o) → Does (.polarDec dt i poison) s (x.wellStart p n o poison)) ∧
      (Ok (.polarEnc dt i poison) → x.startable (opEngine 0 4 i 0) 4 = some (p, n, o) → Does (.polarEnc dt i poison) s (x.wellStart p n o poison)) ∧
      (Ok (.dft dt i poison) → x.startable (opEngine 0 5 i 0) 5 = some (p, n, o) → Does (.dft dt i poison) s (x.wellStart p n o poison)) ∧
      (Ok (.prach dt i poison) → x.startable (opEngine 0 6 i 0) 6 = some (p, n, o) → Does (.prach dt i poison) s (x.wellStart p n o poison)) ∧
      (Ok (.dmrsMeas dt i poison) → x.startable (opEngine 0 7 i 0) 7 = some (p, n, o) → Does (.dmrsMeas dt i poison) s (x.wellStart p n o poison)) ∧
      (Ok (.cplaneTx dt i false) → x.startable (opEngine i 10 0 0) 10 = some (p, n, o) →
        x.devFenced (slice o.params 0 44) (slice o.params 48 11) = false →
        ∃ y z m port, y = x.modOp p.cmd n (fun o => { o with st := 1, poison := false }) ∧
          y.cplaneFrame (y.devRead (slice o.params 0 44) (slice o.params 48 11)) = (m, z) ∧ port = z.rd Fld.carCtrlEthPort p.carrier ∧
          Does (.cplaneTx dt i false) s (z.originate port (z.rd Fld.ethSrcTcCplaneTc port) 0 m)) ∧
      (∀ j ups y z, Ok (.radioJetOp dt i j ups) → y = x.upsets ups → y.startable (opEngine 0 8 i j) 8 = some (p, n, o) →
        (Jd.chainAddr o.tile = 0 ∨ y.noLone i = true) →
        y.takeStart (2 * i + j) 4 = (z, true) → Does (.radioJetOp dt i j ups) s (z.radioJetStart p n o)) ∧
      (∀ z, Ok (.radioSpoutOp dt i) → x.startable (opEngine 0 9 i 0) 9 = some (p, n, o) → (x.basin (x.ctx i)).task = none →
        x.takeStart (320 + i) ((List.range 8).filter fun k => bitAt o.params (64 + k)).length = (z, true) →
        Does (.radioSpoutOp dt i) s (z.radioSpoutStart p n o))) ∧
    (∀ q t id k p o, Ok (.spoutBudgetStop dt i) → x.radioTask i = some (q, t, id, k) → x.plan? id = some p → p.ops[k]? = some o →
      t.live ≠ 0 → o.budget ≤ x.taskCycles q t →
      Does (.spoutBudgetStop dt i) s
        ((x.stopCores q).setBasin q { x.basin q with task := some { t with live := 0 }, waiters := waitsLeft (x.basin q).waiters })) ∧
    (∀ k ups bad stalls y p o z o', Ok (.radioOpEnd dt k i ups ⟨bad, stalls⟩) → y = x.upsets ups → y.opAt k i = some (p, o) → o.st = 1 →
      y.opWrites p i o bad stalls = some (z, o') → Does (.radioOpEnd dt k i ups ⟨bad, stalls⟩) s (z.opEnded p i o')) ∧
    (∀ k p o, Ok (.slotOverrun dt k i) → x.opAt k i = some (p, o) → o.late = false →
      (o.st < 2 → p.slotStart + o.deadline < x.now → (o.st = 0 → x.cannotRun o = false) →
        Does (.slotOverrun dt k i) s ((x.overrunOp p i).planCheckEnd p.cmd)) ∧
      (o.st = 0 → x.cannotRun o = true →
        Does (.slotOverrun dt k i) s (((x.modOp p.cmd i fun o => { o with st := 3 }).overrunOp p i).planCheckEnd p.cmd))) ∧
    (∀ t, Ok (.radioTakeover dt 0 i) → x.basinHit i = true → x.standbyFor i = some t →
      Does (.radioTakeover dt 0 i) s (x.takeBasin i t)) ∧
    (∀ cls t, Ok (.radioTakeover dt (cls + 1) i) → x.engineFenced cls i = true → x.spareFor cls i = some t →
      Does (.radioTakeover dt (cls + 1) i) s (x.takeEngine cls i t))

/-- CELL_MIGRATE with parameters and extents in order goes on running in its role. At its switch count the source has migrated out
and pushes its extents; when all are acknowledged it completes, with ST_MIGRATE_FAILED after a failure. The destination completes
with ST_OK when its counter has reached the number of extents, and with ST_MIGRATE_FAILED, its extents zero, when two slots after
the switch it has not. (R301, R302, R356) -/
def Obligations.MigrationCommandsComplete : Prop :=
  ∀ (dt c : Nat) (s x : State), x = s.advance dt → c < 192 →
    (∀ r poison k, x.firstH r 0x32 = some k → x.migCheck k.params k.start poison = stOk →
      (Ok (.cellMigrateSource dt r poison) → Mg.dest k.params = false → Does (.cellMigrateSource dt r poison) s (x.migrationStart k false)) ∧
      (Ok (.cellMigrateDest dt r poison) → Mg.dest k.params = true → Does (.cellMigrateDest dt r poison) s (x.migrationStart k true))) ∧
    (∀ m, x.liveMigration c false = some m →
      (m.switched = false → m.switch ≤ x.now → x.safe = false → Does (.migrationSwitch dt c) s (x.migSwitch m)) ∧
      (∀ k, m.switched = true → m.extents.length ≤ m.acked → x.aqdPending m.cmd = false → x.cmd? m.cmd = some k →
        Does (.migrationSourceDone dt c) s
          ((({ x with radio := { x.radio with migrations := x.radio.migrations.filter fun y => y.cmd != m.cmd } } : State).wr
            Fld.carStatusMigratingOut c 0).finish k (if m.failed then stMigrateFailed else stOk)))) ∧
    (∀ m k, x.liveMigration c true = some m → x.cmd? m.cmd = some k →
      (x.extentsHere m = true → x.now < x.migLimit m → Does (.migrationArrival dt c) s (x.finish k stOk)) ∧
      (x.migLimit m ≤ x.now → x.extentsHere m = false →
        ∀ y d, y = x.each m.extents (fun s e => s.devWrite (s.rd Fld.harqBaseBase + e.1) (List.replicate e.2 0)) → y.cmd? m.cmd = some d →
          Does (.migrationTimeout dt c) s (y.finish d stMigrateFailed)))

/-! ### Time -/

/-- Sync, Follow_Up and Delay_Resp frames reach the trackers that their port, domain and source name; trackers and master ports
send their messages when these are due; a Delay_Req on a master port of its domain is answered. HOLDOVER is entered when
measurements have been missing for HOLDOVER x 2^20 counts; free_run is set and TRACK_SEL written by TIME_CTRL. A SyncE measurement
is taken, 2^26 counts after the last or later, and a loss drops the lock. An output is enabled with start, period and width in
order, asserts and deasserts at its edge times and is disabled; an edge of a capture input in its window, 8 ns after the last or
later, is queued and read once no edge can follow it that soon, and one that follows sooner takes back the edge before it; a
launch is armed in time, fires and is disarmed. (R307, R308, R310, R312, R313, R316, R317, R318, R320, R321, R322) -/
def Obligations.TimingCommandsComplete : Prop :=
  ∀ (dt p : Nat) (s x : State), x = s.advance dt →
    (∀ r, (x.ptpHead p 0 = some r → Ok (.syncRx dt p) →
        Does (.syncRx dt p) s ((x.ptpUsed r).each (x.trackersOf p r.frame) fun s i => s.takeSync i r)) ∧
      (x.ptpHead p 8 = some r → Ok (.followUpRx dt p) →
        Does (.followUpRx dt p) s ((x.ptpUsed r).each (x.trackersOf p r.frame) fun s i => s.takeFollowUp i r.frame)) ∧
      (x.ptpHead p 9 = some r → Ok (.delayRespRx dt p) →
        Does (.delayRespRx dt p) s ((x.ptpUsed r).each (x.trackersOf p r.frame) fun s i => s.takeDelayResp i r.frame)) ∧
      (x.ptpHead p 1 = some r → Ok (.delayReqRx dt p) → x.masterPort p = true → x.rd Fld.ppCtrlDomain p = ptpDomain r.frame →
        Does (.delayReqRx dt p) s ((x.ptpUsed r).answerDelayReq p r))) ∧
    (Ok (.delayReqTx dt p) → x.on Fld.trkCfgEnable p = true → (x.tracker p).due ≤ x.now → Does (.delayReqTx dt p) s (x.sendDelayReq p)) ∧
    (Ok (.masterSyncTx dt p) → x.masterPort p = true → Tbl.get 0 x.time.masterDue p ≤ x.now → Does (.masterSyncTx dt p) s (x.sendSync p)) ∧
    ((x.rd Fld.timeStatusState = 1 ∨ x.rd Fld.timeStatusState = 2) → x.time.lastMeas + x.rd Fld.timeHoldoverHoldover * 2 ^ 20 ≤ x.now →
      Does (.holdoverEntry dt) s ((x.setTimeState 3).setRate x.rateI)) ∧
    (∀ v since y, since = (if bitAt v 3 && (!x.on Fld.timeCtrlSynceEn || x.rd Fld.timeCtrlSyncePort != slice v 4 2) then x.now
        else x.time.synceAt) →
      y = { x.setReg .timeCtrl 0 (v % 2 ^ 10) with time := { x.time with synceAt := since } } →
      (Ok (.freeRunWrite dt v) → v % 2 = 1 → x.rd Fld.timeStatusState ≠ 0 →
        Does (.freeRunWrite dt v) s ((({ y with time := { y.time with slewOnly := false } } : State).setTimeState 0).setRate y.rateI)) ∧
      (Ok (.trackSelWrite dt v) → v % 2 = 0 → Does (.trackSelWrite dt v) s y)) ∧
    (∀ freq, Ok (.synceMeasure dt freq) → x.on Fld.timeCtrlSynceEn = true → x.time.synceAt + 2 ^ 26 ≤ x.now →
      Does (.synceMeasure dt freq) s (({ x with time := { x.time with synceAt := x.now } } : State).synceTake freq)) ∧
    Does (.synceLoss dt) s (({ x with time := { x.time with synce := [] } } : State).wr Fld.timeStatusSynceLocked 0 0) ∧
    (∀ v, Ok (.outputEnable dt p v) → v % 32 = 1 → x.on Fld.outCtrlEnable p = false → x.outLate p = false → x.outBad p v = false →
      Does (.outputEnable dt p v) s
        (((((x.wr Fld.outCtrlEnable p v).wr Fld.outCtrlPeriodic p (v / 2)).wr Fld.outCtrlInvert p (v / 4)).keepFresh .outCtrl p).setOut p {})) ∧
    (∀ v, Ok (.outputDisable dt p v) → v % 32 = 0 →
      Does (.outputDisable dt p v) s
        (((((x.wr Fld.outCtrlEnable p v).wr Fld.outCtrlPeriodic p (v / 2)).wr Fld.outCtrlInvert p (v / 4)).keepFresh .outCtrl p).setOut p {})) ∧
    (Ok (.outputEdge dt p) → x.on Fld.outCtrlEnable p = true → x.safe = false → x.nextPinEdge p ≤ x.time.count64 →
      Does (.outputEdge dt p) s (x.pinEdge p)) ∧
    (∀ rising, Ok (.captureEdge dt p rising) →
      ((∀ e, Tbl.find x.time.edges p = some e → e.1 + pulseMin ≤ x.time.count64) → x.captureTaken p rising = true →
        ((x.captures p).length < 16 → Does (.captureEdge dt p rising) s
          ((x.setCaptures p (x.captures p ++ [(x.time.count64, rising)])).setEdge p rising 1)) ∧
        (16 ≤ (x.captures p).length → Does (.captureEdge dt p rising) s ((x.bumpSat Fld.capCtrlLost p).setEdge p rising
          (if x.rd Fld.capCtrlLost p = 65535 then 0 else 2)))) ∧
      (∀ t up what, Tbl.find x.time.edges p = some (t, up, what) → x.time.count64 < t + pulseMin → up ≠ rising →
        Does (.captureEdge dt p rising) s (x.dropEdge p t up what))) ∧
    (∀ t rising l, Ok (.capMetaRead dt p) → x.captured p = (t, rising) :: l →
      Does (.capMetaRead dt p) s
        { (x.setCaptures p ((x.captures p).erase (t, rising))).setReg .capStamp p (t / 64) with readData := t % 64 + 2 ^ 8 * nat1 rising + 2 ^ 16 * (l.length + 1) }) ∧
    (∀ v, (Ok (.launchArm dt p v) → v % 2 = 1 → x.now + 1024 ≤ x.rd Fld.launchCountCount p →
        Does (.launchArm dt p v) s
          (((x.wr Fld.launchCtrlArm p v).wr Fld.launchCtrlSlice p (v / 2 ^ 8)).wr Fld.launchCtrlRings p (v / 2 ^ 16))) ∧
      (Ok (.launchDisarm dt p v) → v % 2 = 0 →
        Does (.launchDisarm dt p v) s
          (((x.wr Fld.launchCtrlArm p v).wr Fld.launchCtrlSlice p (v / 2 ^ 8)).wr Fld.launchCtrlRings p (v / 2 ^ 16)))) ∧
    (Ok (.launchFire dt p) → x.on Fld.launchCtrlArm p = true → x.rd Fld.launchCountCount p ≤ x.now →
      ∃ y, y = { x with time := { x.time with
          fires := Tbl.put x.time.fires p (x.now, x.reg .launchFired p, x.rd Fld.launchStatusFired p) } } ∧
        Does (.launchFire dt p) s (((y.setReg .launchFired p x.now).wr Fld.launchCtrlArm p 0).raise Fld.launchStatusFired p))

/-! ### Ethernet -/

/-- A good frame of at most 9,216 bytes on a port that is up is counted and classified; link changes show; the next forwarded
frame of an ingress port, when none of a higher port has reached the egress port's queues on this edge, is enqueued where its
queue and its marker take it; a port that is up and idle transmits the frame that its gates and Table 15-2 pick. At a multiple of
1,024 counts, once, every class's buckets refill. A gate list in order that is armed 1,024 counts ahead or more is pending, and
takes over at its boundary. An entry of the management transmit ring is read, and enqueued when its time has come. (R324, R325,
R326, R327, R329, R331, R332, R333) -/
def Obligations.EthernetCommandsComplete : Prop :=
  ∀ (dt p : Nat) (s x : State), x = s.advance dt →
    (∀ frame, Ok (.ethFrameRx dt p frame true) → x.portUp p = true → x.safe = false → frameLen frame ≤ 9216 →
      Does (.ethFrameRx dt p frame true) s ((x.bump Fld.rxFramesFrames p).classify p frame)) ∧
    (∀ up lanes, Ok (.ethLinkChange dt p up lanes) → (up = false ∨ x.on Fld.ethCtrlEnable p = true) →
      Does (.ethLinkChange dt p up lanes) s ((x.wr Fld.ethStatusLinkUp p (nat1 up)).wr Fld.ethStatusLanesUp p lanes)) ∧
    (∀ i f w y z g, Ok (.forwardEnqueue dt ⟨p, i⟩) → w = x.pump p → (w.ethPort p).fwd.find? (·.1 == i) = some f → w.mayReach p i = true →
      y = w.setEth p { w.ethPort p with fwd := (w.ethPort p).fwd.erase f, fwdLast := (w.now, i) } →
      y.portUp p = true → y.queueRoom p f.2.cls f.2.frame = true → y.colour p f.2 = (z, some g) →
      Does (.forwardEnqueue dt ⟨p, i⟩) s (z.enqueue p f.2 g)) ∧
    (∀ f, Ok (.egressTransmit dt p) → x.portUp p = true → x.safe = false → (x.ethPort p).busyUntil ≤ x.now →
      (x.pump p).egressPick p = some f → Does (.egressTransmit dt p) s ((x.pump p).transmit p f)) ∧
    (x.tick1024 = true → x.ticked.contains .portMarkers = false → Does (.ethMarkerRefill dt) s
      (({ x with ticked := .portMarkers :: x.ticked } : State).each (List.range 4) fun s p => s.each (List.range 8) fun s k => s.tcRefill p k)) ∧
    (∀ v, Ok (.gclArm dt p v) → (x.pendingGcl p).ok = true → x.now + 1024 ≤ v → v < 2 ^ 64 →
      Does (.gclArm dt p v) s
        (((x.setReg .gclAct p v).wr Fld.gclCtrlPending p 1).setEth p { x.ethPort p with pend := some (v, x.pendingGcl p) })) ∧
    (∀ a g, Ok (.gclSwitch dt p) → (x.ethPort p).pend = some (a, g) → switchAt (x.ethPort p).active a ≤ x.now →
      Does (.gclSwitch dt p) s ((x.setEth p { x.ethPort p with active := some g, pend := none }).wr Fld.gclCtrlPending p 0)) ∧
    (x.mtx = none → x.rd Fld.mtxSizeLog2Entries ≠ 0 → x.safe = false →
      x.rd Fld.mtxHeadHead ≠ x.rd Fld.mtxTailTail % 2 ^ x.rd Fld.mtxSizeLog2Entries → x.mtxAdvance.mtxOk x.mtxWord = true →
      Does (.mgmtTxEntry dt) s (x.mtxAdvance.mtxTake (x.rd Fld.mtxHeadHead) x.mtxWord)) ∧
    (∀ f y z g, x.mtx = some f → x.mtxDue ≤ x.now → y = x.pump f.ingress → y.portUp f.ingress = true →
      y.queueRoom f.ingress f.cls f.frame = true → ({ y with mtx := none } : State).colour f.ingress f = (z, some g) →
      Does (.mgmtTxNotBefore dt) s (z.enqueue f.ingress f g))

/-! ### Aqueduct -/

/-- A request that reaches the home when no other has been admitted on this edge finds the input queues served. A read or write
that passes the receive checks while alive enters its line queues; an atomic or bump that settlement finds new acts; a query of a
recorded number gets the recorded result, and one of an unknown number NOT_APPLIED; the update at the head of a line queue is
applied, a combined group as one; what is no longer alive leaves the line queues and the input queues and is counted. Setting
enable of AQD_CTRL starts sequence numbers and settlement afresh, and a write of an arrival counter counts as an arrival, to which
BUMPs of the same edge add. (R342, R345, R346, R348, R349, R350, R351, R353, R355) -/
def Obligations.AqueductHomeCommandsComplete : Prop :=
  ∀ (dt : Nat) (s x : State), x = s.advance dt →
    (∀ q y a, x.receives q y a → y.aliveAt q y.now = true → y.receiveChecks q = 0 → y.devFenced (y.rttAddr q.addr) 16 = false →
      (∀ poison, Ok (.aqdRd dt q poison) → Does (.aqdRd dt q poison) s (y.lineEnter a poison)) ∧
      (Ok (.aqdWr dt q) → Does (.aqdWr dt q) s (y.lineEnter a false)) ∧
      (Ok (.aqdBw dt q) → Does (.aqdBw dt q) s (y.lineEnter a false))) ∧
    (∀ q y a src, x.receives q y a →
      (∀ z, y.settleAdmit q a.at_ = (.fresh, src) → z = y.setSrcSt q.src src → z.devFenced (z.rttAddr q.addr) 16 = false →
        z.devFenced (z.settleAddr q.src (q.seq % 256)) 16 = false →
        (Ok (.aqdAt dt q) → Does (.aqdAt dt q) s (z.aqdFresh a src)) ∧
        (Ok (.aqdBump dt q) → Does (.aqdBump dt q) s (z.aqdFresh a src))) ∧
      (Ok (.aqdQuery dt q) →
        (∀ v, y.settleAdmit q a.at_ = (.recorded v, src) →
          Does (.aqdQuery dt q) s (((y.setSrcSt q.src src).bump Fld.aqdDuplicatesCount 0).homeReply a .recorded 0 v [])) ∧
        (y.settleAdmit q a.at_ = (.notApplied, src) →
          Does (.aqdQuery dt q) s ((y.setSrcSt q.src src).homeReply a .notApplied 0 0 [])))) ∧
    (∀ line poison h rest z, Ok (.homeLineUpdate dt line poison) → x.safe = false → z = x.serveInput → z.lineQueue line = h :: rest →
      z.homeDead h = false →
      (h.isWrite = true → Does (.homeLineUpdate dt line poison) s ((z.writeApply h).serveReads (rest.length + 1) line poison)) ∧
      (h.isWrite = false → h.isAt = true →
        Does (.homeLineUpdate dt line poison) s ((z.groupApply line (h :: rest) poison).serveReads (rest.length + 1) line poison))) ∧
    (∀ i o, Ok (.requestExpiry dt true i) → x.aqd.lines[i]? = some o → x.homeDead o = true →
      Does (.requestExpiry dt true i) s (x.homeExpire o)) ∧
    (∀ i e, Ok (.requestExpiry dt true (x.aqd.lines.length + i)) → x.aqd.input[i]? = some e → x.inputDead e.1 = true →
      Does (.requestExpiry dt true (x.aqd.lines.length + i)) s (x.inputExpire e)) ∧
    (∀ v, Ok (.aqdEnable dt v) → v % 2 = 1 → x.on Fld.aqdCtrlEnable = false →
      ∃ w y : State, w = (x.wr Fld.aqdCtrlEnable 0 v).each (x.aqd.srcs.map (·.1)) (fun s p => s.setSrcSt p {}) ∧
        y = (({ w with aqd := { w.aqd with seqs := [], srcs := [], sent := w.aqd.sent.filter (!·.unresolved) } } : State).wr
          Fld.aqdBlockedBlocked 0 0) ∧
        Does (.aqdEnable dt v) s (y.each ((y.aqd.heldReqs.map (·.req.src)).eraseDups) fun s p => s.aqdReadmit p)) ∧
    (∀ i v, Ok (.arrivalCounterWrite dt i v) → Does (.arrivalCounterWrite dt i v) s ((x.setReg .aqdArrival i (v + x.bumpedNow i)).arrivalSeen i))

/-- A reply that fits and comes before the wait closes ends its request; a request or QUERY no longer alive is discarded at its
port; the close of a wait fails a read or write and asks for an atomic or bump, whose outcome is unknown after the last query, and
is asked for again with a credit of its destination; a resend that is due goes out on its route; a free credit goes to the next
queue in turn. AQD_ATOMIC and COPY_ASYNC with parameters in order start and send. Links go down and come up, replays and lanes
that do not train are reported. (R336, R337, R344, R345, R346, R347, R350, R352, R354) -/
def Obligations.AqueductSenderCommandsComplete : Prop :=
  ∀ (dt : Nat) (s x : State), x = s.advance dt →
    (∀ (p : AqdRep) (r : SendReq), Ok (.aqdReply dt p) → x.aqd.sent.find? (·.id == p.id) = some r → r.fits p = true → x.replyComes r p = true →
      (r.unresolved = true ∨ x.now ≤ x.waitEnd r) →
      Does (.aqdReply dt p) s ({ x with aqd := { x.aqd with replies := x.aqd.replies.erase p } }.replyTaken r p)) ∧
    (∀ i r, Ok (.requestExpiry dt false i) → x.aqd.sent[i]? = some r → r.lost = false → x.aliveAt { r.req with t0 := r.issued } x.now = false →
      Does (.requestExpiry dt false i) s (x.modSent r.id fun y => { y with lost := true }).homeDrop) ∧
    (∀ id r, x.aqd.sent.find? (·.id == id) = some r →
      (r.unresolved = false → x.waitEnd r ≤ x.now →
        (r.req.numbered = false → Does (.senderWaitClose dt id) s ((x.aqdForget r.id).reqDone r stTimeout 0 [])) ∧
        (r.req.numbered = true → r.queries < x.rd Fld.aqdQueryMaxQueryMax → Does (.senderWaitClose dt id) s (x.sendQuery r)) ∧
        (r.req.numbered = true → x.rd Fld.aqdQueryMaxQueryMax ≤ r.queries → Does (.senderWaitClose dt id) s
          ((x.modSent r.id fun y => { y with unresolved := true, queryT0 := x.now }).countBlocked.reqDone r stAqdUnreachable 0 []))) ∧
      (r.unresolved = true → x.safe = false → r.queryT0 + x.rd Fld.aqdLifetimeLifetime ≤ x.now →
        (r.asks = 1 ∨ x.outstanding r.dest < 64 → Does (.senderWaitClose dt id) s (x.sendQuery r)) ∧
        (r.asks ≠ 1 → r.asks ≠ 2 → 64 ≤ x.outstanding r.dest → Does (.senderWaitClose dt id) s
          ((x.modSent r.id fun y => { y with asks := 2 }).bump Fld.aqdCreditWaitsCount 0))) ∧
      (∀ p, x.retryDue r = true → x.routeOf r.dest = some p → Does (.aqdRetry dt id) s
        ((((x.modSent id fun y => { y with lastSend := x.now, port := p, lost := false }).bump Fld.aqdRetriesCount 0).chargeAqd
          r.owner r.sl r.req.charge).portTx p))) ∧
    (∀ d r y, Ok (.creditGrant dt d) → x.safe = false → x.on Fld.aqdCtrlEnable = true → x.creditNext d = some r →
      y = { x with aqd := { x.aqd with
          waiting := x.aqd.waiting.filter (fun (y : SendReq) => y.id != r.id), lastQueue := Tbl.put x.aqd.lastQueue d r.queue } } →
      (r.asks = 2 → Does (.creditGrant dt d) s (y.sendQuery r)) ∧
      (∀ p, r.asks ≠ 2 → y.routeOf d = some p → Does (.creditGrant dt d) s (y.aqdSendNow r p))) ∧
    (∀ r c d z, Ok (.aqdAtomic dt r) → x.firstH r 0x13 = some c → c.atomicOk = true → x.home? (c.par 64 52) = some d →
      (x.startRunning c.id).aqdSend c.slice c.ring c.id d { AqdReq.blank with
        kind := .at, addr := c.par 64 52, op := c.par 0 4, wide := bitAt c.params 4, operand := c.par 128 64, compare := c.par 192 64 } = (z, stOk) →
      Does (.aqdAtomic dt r) s z) ∧
    (∀ r ups poison c y w z u, Ok (.copyAsync dt r ups poison) → y = x.upsets ups → y.firstH r 0x12 = some c → c.asyncOk = true →
      y.parting c.asyncSrc = false → y.sideCheck c.slice c.asyncSrc (c.par 32 32) = stOk → (y.home? (c.par 128 52)).isSome = true →
      y.sidePaused c.slice c.asyncSrc = false →
      w = y.raceReads c.asyncSrc.basin c.id (c.asyncSrc.span c.id (c.par 32 32) 0) → w.asyncStatus c poison = stOk →
      z = (if c.asyncSrc.space < 2 then w.eccRead c.asyncSrc.basin (c.asyncSrc.need (c.par 32 32)) else w) →
      (z.copyAsyncBegin c).push c.slice c.ring c.id (c.par 128 52) (z.sideRead c.slice c.asyncSrc (c.par 32 32)) = (u, stOk) →
      Does (.copyAsync dt r ups poison) s u) ∧
    (∀ p, p < 8 → x.on Fld.aqpStatusLinkUp p = true →
      Does (.flitReplay dt p) s ((x.bump Fld.aqpReplaysReplays p).reportLow (unitAqp p) 1 0 0)) ∧
    (∀ p, p < 8 → Does (.aqdLinkDown dt p) s (((x.wr Fld.aqpStatusLinkUp p 0).wr Fld.aqpStatusLanesUp p 0).showLanes p)) ∧
    (∀ p pkg tray lanes, Ok (.aqdLinkUp dt p pkg tray lanes) → x.on Fld.bootStatusLocalDone = true → x.on Fld.aqpStatusLinkUp p = false →
      x.on Fld.aqpStatusFenced p = false → x.lanesOk p lanes = true → x.safe = false →
      (pkg ≠ x.pkg → Does (.aqdLinkUp dt p pkg tray lanes) s
        (((((x.wr Fld.aqpStatusLinkUp p 1).wr Fld.aqpStatusLanesUp p lanes).wr Fld.aqpNbrPkgId p pkg).wr Fld.aqpNbrTrayPos p tray).wr
          Fld.aqpNbrValid p 1).watchRoutes) ∧
      (pkg = x.pkg → Does (.aqdLinkUp dt p pkg tray lanes) s (x.reportLow (unitAqp p) 2 0 0))) ∧
    (∀ p lanes, Ok (.aqdTrainTimeout dt p lanes) → x.on Fld.bootStatusLocalDone = true → x.on Fld.aqpStatusLinkUp p = false →
      Does (.aqdTrainTimeout dt p lanes) s
        (x.each ((List.range 4).filter fun l => bitAt lanes l) fun s l => s.reportLow (unitAqp p) 2 2 l))

/-- Compared with the state in which it is admitted: an atomic or bump from another package whose sequence number the home has
recorded in its incarnation, and which is not pending, gets the recorded result, counts in AQD_DUPLICATES, and changes no memory,
no queued update, no arrival counter and no record. One of an earlier incarnation is dropped: no reply, no record, no change of
memory, and AQD_EXPIRED counts it. One at least 256 behind the watermark is answered SETTLED_STALE and counts in AQD_STALE. (R351)
-/
def Obligations.SettledRequestsActOnce : Prop :=
  ∀ (dt : Nat) (s x y : State) (q : AqdReq) (a : Arrival) (c : Instr) (z : SrcSt), x = s.advance dt → s.inOrder = true → q.src ≠ x.pkg →
    x.receives q y a → (c = .aqdAt dt q ∨ c = .aqdBump dt q) → Ok c → z = y.srcSt q.src →
    ((∃ h, z.inc = some h ∧ h ≠ q.inc ∧ (h + 2 ^ 32 - q.inc) % 2 ^ 32 < 2 ^ 31) →
      ∃ t, Does c s t ∧ t.aqd.lastReply = y.aqd.lastReply ∧ t.aqd.lines = y.aqd.lines ∧ t.srcSt q.src = z ∧ sameMemory y t ∧
        (∀ i, sameReg y t .aqdArrival i) ∧ t.rd Fld.aqdExpiredCount = (y.rd Fld.aqdExpiredCount + 1) % 2 ^ Fld.aqdExpiredCount.width) ∧
    (z.inc = some q.inc → (∃ h, z.high = some h ∧ 256 ≤ (h + 2 ^ 32 - q.seq) % 2 ^ 32 ∧ (h + 2 ^ 32 - q.seq) % 2 ^ 32 < 2 ^ 31) →
      ∃ t, Does c s t ∧ t.aqd.lastReply = some (q, ⟨0, .stale, 0, 0, []⟩) ∧ t.aqd.lines = y.aqd.lines ∧
        t.srcSt q.src = z ∧ sameMemory y t ∧ (∀ i, sameReg y t .aqdArrival i) ∧
        t.rd Fld.aqdStaleCount = (y.rd Fld.aqdStaleCount + 1) % 2 ^ Fld.aqdStaleCount.width) ∧
    (∀ e, z.inc = some q.inc → (∀ h, z.high = some h → (h + 2 ^ 32 - q.seq) % 2 ^ 32 < 256 ∨ 2 ^ 31 ≤ (h + 2 ^ 32 - q.seq) % 2 ^ 32) →
      Tbl.find z.entries (q.seq % 256) = some e → e.seq = q.seq → e.pending = false →
      ∃ t, Does c s t ∧ t.aqd.lastReply = some (q, ⟨0, .recorded, 0, e.result, []⟩) ∧ t.aqd.lines = y.aqd.lines ∧
        t.srcSt q.src = z ∧ sameMemory y t ∧ (∀ i, sameReg y t .aqdArrival i) ∧
        t.rd Fld.aqdDuplicatesCount = (y.rd Fld.aqdDuplicatesCount + 1) % 2 ^ Fld.aqdDuplicatesCount.width)

/-! ### Determinism -/

/-- A STEP_BEGIN that is over, a packet without a digest, advances its slice's step counter by one, and an advance by k adds k to
DET_STEP modulo 2^64 where no shadow watches the slice. DET_STEP of a slice without a packet in flight takes the written value.
SHADOW_COMPARE with parameters in order starts an export or a compare of a slice that has no shadow, and in role 2 ends the one it
has. A compare that has filled begins to match; a record pending for the timeout is unmatched; a source that is lost by the rules
of R375, or by the driver, ends its compare. (R364, R365, R371, R373, R375, R376) -/
def Obligations.DeterminismCommandsComplete : Prop :=
  ∀ (dt sl : Nat) (s x : State), x = s.advance dt → sl < 128 →
    (∀ c code, c.opcode = 0x2D → c.ring < 1028 → c.digest = none →
      x.finishCore c code = (x.finishBase (x.asBegun c) code).stepAdvance c.slice 1) ∧
    (∀ k, x.shadow? sl = none → (x.stepAdvance sl k).reg .detStep sl = (x.reg .detStep sl + k) % 2 ^ 64) ∧
    (∀ v, Ok (.detStepWrite dt sl v) → (∀ c, c ∈ x.cmds → c.slice = sl → 1028 ≤ c.ring) →
      Does (.detStepWrite dt sl v) s (x.setReg .detStep sl v)) ∧
    (∀ r c, x.firstH r 0x38 = some c → x.shadowOk c.params = true →
      (x.shadow? (Sh.slice c.params) = none → ∀ role y, y = (x.startRunning c.id).setShadow (Sh.slice c.params) {
          cmd := c.id, role := role, params := c.params, lastFill := (x.reg .aqdArrival (Sh.fillCounter c.params), c.start), lastRec := (0, 0),
          routeLost := none, pending := [], exports := [], stepSeen := [], badSteps := [], matchedSteps := 0, lossDue := false } →
        (Ok (.shadowExport dt r) → Sh.role c.params = 0 → role = 1 →
          Does (.shadowExport dt r) s (y.watchRoutes.setReg .detShadowStatus (Sh.slice c.params) 1)) ∧
        (Ok (.shadowCompare dt r) → Sh.role c.params = 1 → role = 2 →
          Does (.shadowCompare dt r) s (y.watchRoutes.setReg .detShadowStatus (Sh.slice c.params) 6))) ∧
      (Ok (.shadowEnd dt r) → Sh.role c.params = 2 → (x.shadow? (Sh.slice c.params)).isSome = true →
        Does (.shadowEnd dt r) s ((x.endShadow (Sh.slice c.params) stOk).finishNow c stOk))) ∧
    (∀ w, x.shadow? sl = some w → w.role = 2 →
      (x.rd Fld.detShadowStatusState sl = 1 → x.filled w = true → x.now < w.lastFill.2 + w.timeout →
        Does (.shadowFillDone dt sl) s ((x.wr Fld.detShadowStatusState sl 2).setShadow sl { w with lastRec := (w.lastRec.1, x.now) })) ∧
      (∀ r l, x.rd Fld.detShadowStatusState sl = 2 → w.pending = r :: l → r.since + w.timeout ≤ x.now →
        Does (.shadowPendingTimeout dt sl) s (x.shadowUnmatched sl w r)) ∧
      (x.sourceLost sl w = true → Does (.sourceLost dt sl) s (x.loseSource sl w)) ∧
      (∀ v, Ok (.sourceLostCmd dt sl v) → v % 2 = 1 → Does (.sourceLostCmd dt sl v) s (x.loseSource sl w)))

/-- A write to DET_STEP while the slice has no packet that has been dispatched and has not completed stores the value and changes
no other register and no memory. Any other write is discarded: every register and all memory stay, and an FC_INFO event is
recorded. (R365) -/
def Obligations.DetStepWrites : Prop :=
  ∀ (dt sl v : Nat) (s x : State), x = s.advance dt → Ok (.detStepWrite dt sl v) →
    ((∀ c, c ∈ x.cmds → c.ring < 1028 → c.slice ≠ sl) →
      ∃ t, Does (.detStepWrite dt sl v) s t ∧ t.reg .detStep sl = v ∧ (∀ n i, ¬ (n = .detStep ∧ i = sl) → sameReg s t n i) ∧
        t.spw = s.spw ∧ sameMemory s t) ∧
    ((∃ c, c ∈ x.cmds ∧ c.ring < 1028 ∧ c.slice = sl) →
      ∃ t d, Does (.detStepWrite dt sl v) s t ∧ (∀ n i, sameReg s t n i) ∧ sameMemory s t ∧
        t.spw.reportQ = s.spw.reportQ ++ [⟨unitHub 0, 0, x.now, d⟩])

/-! ### Spillway -/

/-- The first report in order is captured, of a source that counts as unreporting dropped; the error pair asserts when it is due,
ERR_OUT high and ERR_OUT_N low, and falls to its lost levels with the spillway; the driver's fence command sets a fence or begins
the clear's test; a quiet window that closes begins the recovery test, and the test ends. Each bit of SPW_CMD acts where the state
permits it; the safe state is entered when it is due; a marker enters the records. The spillway's heartbeat is given and its loss
acted on, and once at every epoch the decayed counts are halved. A report of the management endpoint's failure sets
MGMT_STATUS.failed. (R384, R385, R386, R387, R390, R391, R392, R393, R395) -/
def Obligations.SpillwayCommandsComplete : Prop :=
  ∀ (dt : Nat) (s x : State), x = s.advance dt →
    (∀ (l : List Report) (y : State) (r : Report), Ok (.faultReportCapture dt l) →
      y = ({ x with spw := { x.spw with reportQ := x.spw.reportQ ++ l } } : State) →
      (∀ r, r ∈ l → ¬ (r.unit = unitHub 19 ∧ r.cls = 4)) → y.on Fld.spwStatusReady = true → firstReport y.spw.reportQ = some r →
      Does (.faultReportCapture dt l) s (({ y with spw := { y.spw with reportQ := y.spw.reportQ.erase r } } : State).capture r)) ∧
    (∀ (l : List Report) (r : Report), Ok (.faultReportCapture dt l) → r ∈ l → r.unit = unitHub 19 → r.cls = 4 →
      x.on Fld.spwStatusReady = false → Does (.faultReportCapture dt l) s
        (({ x with spw := { x.spw with reportQ := x.spw.reportQ ++ l } } : State).wr Fld.mgmtStatusFailed 0 1)) ∧
    (∀ (y : State) (r : Report), (y.unreporting r = true → y.capture r = y)) ∧
    (x.spw.pinDue = true → ∃ t : State, t = ({ x with spw := { x.spw with pinDue := false } } : State).wr Fld.spwStatusPinError 0 1 ∧
      Does (.errorPairAssert dt) s t ∧
      (x.on Fld.spwStatusReady = true → x.spw.lost = false → t.errPair = (true, false))) ∧
    (∀ v i k, x.on Fld.fenceStatusBusy = false →
      fencible (slice v 0 16) (x.rd Fld.fenceArgSub) (x.rd Fld.fenceArgSubKind) (x.rd Fld.fenceArgEngineClass) = some (i, k) →
      (Ok (.fenceSet dt v) → slice v 16 2 = 1 → Does (.fenceSet dt v) s ((x.fenceDecide i k 2).wr Fld.fenceStatusResult 0 0)) ∧
      (Ok (.fenceClear dt v) → slice v 16 2 = 2 → (x.item i).fence ≠ 0 →
        Does (.fenceClear dt v) s
          ((({ x with spw := { x.spw with clearItem := some i } } : State).wr Fld.fenceStatusBusy 0 1).testBegin i k 2)) ∧
      (Ok (.fenceClear dt v) → slice v 16 2 = 2 → (x.item i).fence = 0 →
        Does (.fenceClear dt v) s (x.wr Fld.fenceStatusResult 0 0))) ∧
    (∀ i k, itemKind i = some k →
      (Ok (.quietWindowClose dt i) → x.quietOver i k = true →
        Does (.quietWindowClose dt i) s ((x.setItem i { x.item i with tests := (x.item i).tests + 1 }).testBegin i k 1)) ∧
      (∀ pass, Ok (.recoveryTestDone dt i pass) → (x.item i).testing ≠ 0 → (∀ b, b ∈ itemBasins i k → x.gated b = false) →
        Does (.recoveryTestDone dt i pass) s (x.testEnd i k pass))) ∧
    (Ok (.inferFence dt 1) → x.safe = false → Does (.inferFence dt 1) s (x.setInferFence 1)) ∧
    (Ok (.inferClear dt 2) → x.spw.inferBy = 1 → x.safe = false →
      ∃ y : State, y = { x with spw := { x.spw with inferBy := 0 } } ∧
        Does (.inferClear dt 2) s ((y.spwChange fun s => s.wr Fld.spwStatusState 0 0).event (unitHub 1) 6 0 0)) ∧
    (Ok (.pinClear dt 4) → x.spw.inferBy ≠ 2 → x.safe = false → Does (.pinClear dt 4) s (x.wr Fld.spwStatusPinError 0 0)) ∧
    (Ok (.siltFreeze dt 8) → x.siltFrozen = false → Does (.siltFreeze dt 8) s
      (({ x with spw := { x.spw with snap := x.snapshot } } : State).spwChange fun s =>
        (s.wr Fld.spwStatusSiltFrozen 0 1).wr Fld.siltStatusFrozen 0 1)) ∧
    (Ok (.siltRearm dt 16) → x.safe = false → Does (.siltRearm dt 16) s
      (({ x with spw := { x.spw with silt := [] } } : State).spwChange fun s =>
        (s.wr Fld.spwStatusSiltFrozen 0 0).wr Fld.siltStatusFrozen 0 0)) ∧
    (Ok (.enterSafe dt 32) → Does (.enterSafe dt 32) s { x with spw := { x.spw with safeDue := true } }) ∧
    (x.spw.safeDue = true → Does (.safeStateEntry dt) s x.enterSafe) ∧
    (∀ v, Ok (.driverMarker dt v) → Does (.driverMarker dt v) s (x.event (unitHub 1) 10 0 (v % 2 ^ 32))) ∧
    (x.on Fld.spwStatusReady = true → x.spw.lost = false →
      (x.tick1024 = true → Does (.spillwayHeartbeat dt) s { x with spw := { x.spw with spwBeat := x.now } }) ∧
      (x.spw.spwBeat + 4096 ≤ x.now → ∃ t : State, t = ({ x with spw := { x.spw with lost := true, safeDue := true } } : State).freezeSilt ∧
        Does (.spillwayLoss dt) s t ∧ t.errPair = (false, false))) ∧
    (x.now % (x.rd Fld.healthEpochEpoch * 2 ^ 30) = 0 → x.ticked.contains .health = false → ∀ y : State,
      y = { x with ticked := .health :: x.ticked } → Does (.healthDecay dt) s
      (y.scoreChange fun s => s.each (List.range 5) fun s k => s.wr Fld.healthDecayedD k (s.decayed k)))

/-- A write of SPW_MARK makes an entry with the count of now, unit 0x4001, kind 10, the value and the next sequence number, by
Table 18-8. A log that is not full takes it at LOG_HEAD, which advances modulo 1,024; a full log only sets log_overflow. A silt
record that is not frozen takes it as its newest, and at 512 entries loses its oldest. Every other register and all memory stay.
(R391, R392, R393, R394) -/
def Obligations.MarkerEntersTheRecords : Prop :=
  ∀ (dt v head : Nat) (s x : State), x = s.advance dt → s.inOrder = true → Ok (.driverMarker dt v) → head = s.reg .logHead →
    ∃ t e, Does (.driverMarker dt v) s t ∧
      slice e 0 64 = x.now ∧ slice e 64 16 = 0x4001 ∧ slice e 80 3 = 0 ∧ slice e 83 5 = 10 ∧ slice e 88 8 = 0 ∧
      slice e 96 64 = v % 2 ^ 32 ∧ slice e 160 32 = s.spw.seq % 2 ^ 32 ∧ e < 2 ^ 192 ∧ t.spw.seq = s.spw.seq + 1 ∧
      ((head + 1) % 1024 ≠ s.reg .logTail →
        t.reg .logHead = (head + 1) % 1024 ∧ Tbl.find t.spw.log head = some e ∧ t.reg .spwStatus = s.reg .spwStatus ∧
        ∀ j, j ≠ head → Tbl.find t.spw.log j = Tbl.find s.spw.log j) ∧
      ((head + 1) % 1024 = s.reg .logTail →
        t.reg .logHead = head ∧ t.spw.log = s.spw.log ∧ t.rd Fld.spwStatusLogOverflow = 1 ∧
        ∀ k, k ≠ 3 → bitAt (t.reg .spwStatus) k = bitAt (s.reg .spwStatus) k) ∧
      (s.siltFrozen = true → t.spw.silt = s.spw.silt) ∧
      (s.siltFrozen = false →
        (s.spw.silt.length < 512 → t.spw.silt = s.spw.silt ++ [e]) ∧
        (s.spw.silt.length = 512 → t.spw.silt = s.spw.silt.tail ++ [e])) ∧
      (∀ n i, ¬ (n = .logHead ∧ i = 0) → ¬ (n = .spwStatus ∧ i = 0) → sameReg s t n i) ∧ sameMemory s t

/-- The first report in order leaves the reports on their way; where its source does not count as unreporting, CLASS_COUNT of its
class rises by 1 modulo 2^64 and its sticky bit is set. A class below cap_min, or a capture held in mode first, leaves the capture
registers; otherwise they take the report's unit, class, stamp and syndrome and cap_valid is set, and in mode last a capture that
was held counts in cap_count, which saturates. The management function's vector irq_vector gets a message exactly if irq_mask has
the class's bit. No memory changes. (R392) -/
def Obligations.CapturedReport : Prop :=
  ∀ (dt : Nat) (l : List Report) (s x y : State) (r : Report), x = s.advance dt → s.inOrder = true → Ok (.faultReportCapture dt l) →
    y = { x with spw := { x.spw with reportQ := x.spw.reportQ ++ l } } → x.on Fld.spwStatusReady = true →
    firstReport y.spw.reportQ = some r → x.unreporting r = false → r.cls = 0 ∨ r.cls = 1 ∨ r.cls = 3 → r.unit < 2 ^ 16 → r.stamp < 2 ^ 64 → r.synd < 2 ^ 64 →
    ∃ t, Does (.faultReportCapture dt l) s t ∧ t.spw.reportQ = y.spw.reportQ.erase r ∧
      t.reg .classCount r.cls = (s.reg .classCount r.cls + 1) % 2 ^ 64 ∧ bitAt (t.reg .spwStatus) (8 + r.cls) = true ∧
      (r.cls < s.rd Fld.spwCtrlCapMin ∨ (s.on Fld.spwCapInfoCapValid = true ∧ s.on Fld.spwCtrlCapMode = false) →
        sameReg s t .spwCapInfo 0 ∧ sameReg s t .spwCapStamp 0 ∧ sameReg s t .spwCapSynd 0) ∧
      (s.rd Fld.spwCtrlCapMin ≤ r.cls → s.on Fld.spwCapInfoCapValid = false ∨ s.on Fld.spwCtrlCapMode = true →
        t.rd Fld.spwCapInfoUnit = r.unit ∧ t.rd Fld.spwCapInfoClass = r.cls ∧ t.rd Fld.spwCapInfoCapValid = 1 ∧
        t.reg .spwCapStamp = r.stamp ∧ t.reg .spwCapSynd = r.synd ∧
        t.rd Fld.spwCapInfoCapCount = (if s.on Fld.spwCapInfoCapValid = true then
            min (2 ^ Fld.spwCapInfoCapCount.width - 1) (s.rd Fld.spwCapInfoCapCount + 1) else s.rd Fld.spwCapInfoCapCount)) ∧
      (∀ k, Tbl.get 0 t.irqs k = Tbl.get 0 s.irqs k +
        (if bitAt (s.rd Fld.spwCtrlIrqMask) r.cls = true ∧ k = s.rd Fld.spwCtrlIrqVector then 1 else 0)) ∧
      sameMemory s t

/-- While busy is 1 a write of FENCE_CMD changes no register and records an FC_INFO event. One that names an item that is not
fencible leaves every item and gives result 1. A set marks the item's fence driver-set, whoever had set it before, leaves every
other item and gives result 0; on the edge of a reset that takes the item in, the reset clears the fence. A clear of an item that
is not fenced changes no item and gives result 0. Without a set no other register changes, and never memory. (R384) -/
def Obligations.FenceCommandOutcomes : Prop :=
  ∀ (dt v : Nat) (s x : State) (c : Instr), x = s.advance dt → s.inOrder = true →
    (c = .fenceSet dt v ∧ slice v 16 2 = 1 ∨ c = .fenceClear dt v ∧ slice v 16 2 = 2) → Ok c →
    (x.on Fld.fenceStatusBusy = true →
      ∃ t d, Does c s t ∧ (∀ n i, sameReg s t n i) ∧ t.spw.reportQ = s.spw.reportQ ++ [⟨unitHub 1, 0, x.now, d⟩] ∧
        t.spw.items = s.spw.items ∧ sameMemory s t) ∧
    (x.on Fld.fenceStatusBusy = false →
      (fencible (slice v 0 16) (x.rd Fld.fenceArgSub) (x.rd Fld.fenceArgSubKind) (x.rd Fld.fenceArgEngineClass) = none →
        ∃ t, Does c s t ∧ t.rd Fld.fenceStatusResult = 1 ∧ t.on Fld.fenceStatusBusy = false ∧ t.spw = s.spw ∧
          (∀ n i, ¬ (n = .fenceStatus ∧ i = 0) → sameReg s t n i) ∧ sameMemory s t) ∧
      ∀ i k, fencible (slice v 0 16) (x.rd Fld.fenceArgSub) (x.rd Fld.fenceArgSubKind) (x.rd Fld.fenceArgEngineClass) = some (i, k) →
        (c = .fenceSet dt v → x.justReset i = true → ∃ t, Does c s t ∧ (t.item i).fence = 0 ∧ sameMemory s t) ∧
        (c = .fenceSet dt v → x.justReset i = false → ∃ t, Does c s t ∧ (t.item i).fence = 2 ∧ (∀ j, j ≠ i → t.item j = s.item j) ∧
          t.rd Fld.fenceStatusResult = 0 ∧ t.on Fld.fenceStatusBusy = false ∧ sameMemory s t) ∧
        (c = .fenceClear dt v → (s.item i).fence = 0 → ∃ t, Does c s t ∧ t.rd Fld.fenceStatusResult = 0 ∧
          t.on Fld.fenceStatusBusy = false ∧ t.spw = s.spw ∧ (∀ n i, ¬ (n = .fenceStatus ∧ i = 0) → sameReg s t n i) ∧ sameMemory s t))

/-- A health event of source k adds 256 to its decayed count, up to 2^24 - 1. Once at a common count that is a multiple of
HEALTH_EPOCH x 2^30 every decayed count is halved, an event of the same edge being added after it, and nothing else changes in
registers or memory; at any other count, and a second time at one count, the event does not occur. HEALTH_SCORE reads the sum of
the weights times the whole parts of the decayed counts, at most 65,535. A write of 0 to HEALTH_EPOCH is discarded with an FC_INFO
event. (R395) -/
def Obligations.HealthCounts : Prop :=
  ∀ (dt : Nat) (s x : State), x = s.advance dt → s.inOrder = true →
    (∀ k, k < 5 → (x.health k).reg .healthDecayed k = min (2 ^ 24 - 1) (s.reg .healthDecayed k + 256) ∧
      ∀ n i, ¬ (n = .healthDecayed ∧ i = k) → sameReg s (x.health k) n i) ∧
    (Ok (.healthDecay dt) →
      (x.now % (s.reg .healthEpoch * 2 ^ 30) = 0 → x.ticked.contains .health = false → ∃ t, Does (.healthDecay dt) s t ∧
        (∀ k, k < 5 →
          (x.freshOf .healthDecayed k = none → t.reg .healthDecayed k = s.reg .healthDecayed k / 2) ∧
          ∀ before added, x.freshOf .healthDecayed k = some (before, added) → before < 2 ^ 24 →
            t.reg .healthDecayed k = before / 2 + (s.reg .healthDecayed k - before)) ∧
        (∀ n i, n ≠ .healthDecayed → sameReg s t n i) ∧ sameMemory s t) ∧
      (x.now % (s.reg .healthEpoch * 2 ^ 30) ≠ 0 ∨ x.ticked.contains .health = true → Does (.healthDecay dt) s x)) ∧
    x.view .healthScore 0 = min 65535 (
      s.reg .healthWeight 0 * (s.reg .healthDecayed 0 / 256) + s.reg .healthWeight 1 * (s.reg .healthDecayed 1 / 256) +
      s.reg .healthWeight 2 * (s.reg .healthDecayed 2 / 256) + s.reg .healthWeight 3 * (s.reg .healthDecayed 3 / 256) +
      s.reg .healthWeight 4 * (s.reg .healthDecayed 4 / 256)) ∧
    (∀ v, Ok (.registerWrite dt 0xC00500 4 v) → v % 2 ^ 16 = 0 →
      ∃ t d, Does (.registerWrite dt 0xC00500 4 v) s t ∧ (∀ n i, sameReg s t n i) ∧ sameMemory s t ∧
        t.spw.reportQ = s.spw.reportQ ++ [⟨unitHub 1, 0, x.now, d⟩])

/-- In the safe state no ring is served; a read of 1, 2 or 4 bytes of a block other than the hub's, the spillway's and timing's
returns zero and changes nothing else; silt_rearm is discarded with an FC_INFO event; infer_fence changes nothing; and an aqueduct
read, write, atomic or bump from another package gets no reply and changes no memory. (R387, R393) -/
def Obligations.SafeStateForbids : Prop :=
  ∀ (dt : Nat) (s x : State), x = s.advance dt → s.inOrder = true → s.safe = true →
    (∀ r, x.ringServed r = false) ∧
    (∀ a len, Ok (.lowWordRead dt a len) → len ≤ 4 → 0x200000 ≤ a → ¬ (0xC00000 ≤ a ∧ a < 0xE00000) →
      Does (.lowWordRead dt a len) s { x with readData := 0 }) ∧
    (Ok (.siltRearm dt 16) → ∃ t d, Does (.siltRearm dt 16) s t ∧ t.spw.silt = s.spw.silt ∧ (∀ n i, sameReg s t n i) ∧
      t.spw.reportQ = s.spw.reportQ ++ [⟨unitHub 1, 0, x.now, d⟩]) ∧
    (Ok (.inferFence dt 1) → Does (.inferFence dt 1) s x) ∧
    ∀ (q : AqdReq) (c : Instr), q.src ≠ x.pkg → ((∃ p, c = .aqdRd dt q p) ∨ c = .aqdWr dt q ∨ c = .aqdAt dt q ∨ c = .aqdBump dt q) → Ok c →
      ∃ t, Does c s t ∧ t.aqd.lastReply = s.aqd.lastReply ∧ t.aqd.lines = s.aqd.lines ∧ t.aqd.srcs = s.aqd.srcs ∧ sameMemory s t

/-! ### Power -/

/-- Once at a multiple of 1,024 counts the governor runs, the slew bucket refills, the meters and the thermal readings are taken.
A basin's step changes as decided; an island droops, recovers, and its stretch is reported. The first waiting start that the
bucket can serve is granted; an engine's ramp ends. Gate and wake requests act; an idle basin with a request, or under the
inference fence, that is neither reserved nor in a gate list is gated; a wake's ramp and zeroing end. (R399, R402, R403, R404,
R406, R407, R408) -/
def Obligations.PowerCommandsComplete : Prop :=
  ∀ (dt : Nat) (s x : State), x = s.advance dt →
    (x.tick1024 = true →
      (x.ticked.contains .governor = false → Does (.governorPeriod dt) s ({ x with ticked := .governor :: x.ticked } : State).governor) ∧
      (x.ticked.contains .slew = false → ∀ y : State, y = { x with ticked := .slew :: x.ticked } → Does (.slewRefill dt) s
        ((y.setSlewTokens (min (y.rd Fld.slewCfgSlewBurst) (y.slewTokens + y.rd Fld.slewCfgSlewRate))).bump
          Fld.slewWaitsWaits 0 (y.pwr.waits.filter y.startWanted).length)) ∧
      (∀ uj power, Ok (.energyMeterSample dt uj power) → x.ticked.contains .meters = false →
        Does (.energyMeterSample dt uj power) s (({ x with ticked := .meters :: x.ticked } : State).meter uj power)) ∧
      (∀ c0 c1 h, Ok (.thermalSample dt c0 c1 h) → x.ticked.contains .thermal = false →
        Does (.thermalSample dt c0 c1 h) s (({ x with ticked := .thermal :: x.ticked } : State).thermal c0 c1 h))) ∧
    (∀ b n, b < 64 → Tbl.find x.pwr.nextSteps b = some n → Does (.basinStepChange dt b) s
      { x with pwr := { x.pwr with steps := Tbl.set 15 x.pwr.steps b n, nextSteps := Tbl.del x.pwr.nextSteps b } }) ∧
    (∀ i n, (Ok (.droop dt i n) → x.pwr.droops.contains i = false → Does (.droop dt i n) s ((x.droop i).stretch i n)) ∧
      (Ok (.droopRecovery dt i n) → x.pwr.droops.contains i = true → Does (.droopRecovery dt i n) s
        (({ x with pwr := { x.pwr with droops := x.pwr.droops.filter (· != i) } } : State).stretch i n)) ∧
      (Ok (.stretchReport dt i) → x.pwr.stretchNew.contains i = true → (∀ t, Tbl.find x.pwr.stretchRep i = some t → t + 2 ^ 20 ≤ x.now) →
        Does (.stretchReport dt i) s
          (({ x with pwr := { x.pwr with stretchNew := x.pwr.stretchNew.filter (· != i), stretchRep := Tbl.put x.pwr.stretchRep i x.now } } :
            State).reportLow (islandUnit i) 1 0 0))) ∧
    (∀ (w : SlewWait) (rest : List SlewWait), x.pwr.waits.filter x.startWanted = w :: rest → w.weight ≤ x.slewTokens → Does (.slewStartGrant dt) s
      (({ x with pwr := { x.pwr with waits := rest, grants := x.pwr.grants ++ [w.engine] } } : State).setSlewTokens (x.slewTokens - w.weight))) ∧
    (∀ e, Ok (.rampDownEnd dt e) → Does (.rampDownEnd dt e) s { x with pwr := { x.pwr with ramps := x.pwr.ramps.filter (· != e) } }) ∧
    (∀ b v, b < 64 → v = 2 ^ b →
      ((x.basin b).wakeStage = 0 → x.beingReset b = false → x.mayGate b = true → x.gated b = false →
        Ok (.basinGateReq dt v) → Does (.basinGateReq dt v) s (x.gateLater b)) ∧
      (Ok (.basinWakeReq dt v) → Does (.basinWakeReq dt v) s (x.requestWake b))) ∧
    (∀ b, b < 64 →
      ((x.basin b).gateReq = true ∨ (x.inferFenced = true ∧ x.gated b = false ∧ x.underTest b = false) → x.idle b = true →
        x.reserved b = false → x.gateListed b = false → Does (.basinGateEffect dt b) s (x.gateBasin b)) ∧
      ((x.basin b).wakeStage = 2 →
        Does (.wakeRampDone dt b) s ((x.setBasin b { x.basin b with wakeStage := 3 }).beginZero b 2 224 0).startRamps) ∧
      (∀ fails z, Ok (.wakeZeroingDone dt b fails) → (x.basin b).wakeStage = 3 → (x.basin b).zeroing = some z → z.kind = 2 →
        Does (.wakeZeroingDone dt b fails) s (x.wakeDone b fails z)))

/-! ### Resets and boot -/

/-- A cold reset, the release of PKG_RST_N, the edges of PERST_N, RESET_CMD in each of its kinds, the effect of the warm reset it
asks for, the ends of a terrace reset and of a basin reset, and the removal of supplies act as the state permits. (R411, R412,
R413, R414, R419, R430, R431) -/
def Obligations.ResetCommandsComplete : Prop :=
  ∀ (dt : Nat) (s x : State), x = s.advance dt →
    (∀ supply, (supply = true ∨ x.boot.supplies = true) → Does (.coldReset dt supply) s (x.coldReset supply)) ∧
    (x.boot.held = true → x.boot.supplies = true →
      Does (.pkgRstRelease dt) s { x with boot := { x.boot with held := false, running := true } }) ∧
    (x.boot.perst = false → x.boot.held = false → x.boot.supplies = true →
      ∃ y : State, y = ({ x with boot := { x.boot with perst := true } } : State).warmReset 2 ∧
        Does (.perstAssert dt) s { y with boot := { y.boot with cold := x.boot.cold && x.inPhase 0 } }) ∧
    Does (.perstRelease dt) s { x with boot := { x.boot with perst := false } } ∧
    (∀ v, x.resetCheck v = 0 →
      (Ok (.resetCmdWarm dt v) → slice v 0 2 = 1 → Does (.resetCmdWarm dt v) s
        { x with boot := { x.boot with warmDue := some (x.now + warmDelay) } }) ∧
      (Ok (.resetCmdTerrace dt v) → slice v 0 2 = 2 →
        Does (.resetCmdTerrace dt v) s (x.terraceReset (slice v 2 6) (bitAt v 8))) ∧
      (Ok (.resetCmdBasin dt v) → slice v 0 2 = 3 → Does (.resetCmdBasin dt v) s (x.basinReset (slice v 2 6)))) ∧
    (∀ d, x.boot.warmDue = some d → d ≤ x.now → Does (.warmResetEffect dt) s (x.warmReset 3)) ∧
    (∀ t, x.boot.resetting = some (2, t) → x.trained t = true →
      Does (.terraceResetDone dt) s ((x.startTerrace t).resetOver ((List.range 8).map (8 * t + ·)))) ∧
    (∀ b, x.boot.resetting = some (3, b) → Does (.basinResetDone dt) s (x.resetOver [b])) ∧
    (∀ hub, Does (.supplyRemoval dt hub) s (x.supplyLoss hub))

/-- Each phase of the boot sequence completes in its turn: fuses, hub, host port, compute dies, training of terrace 0, training of
the others, local_done. A controller in training ends it. A host link that is up goes down. (R415, R416, R417) -/
def Obligations.BootCommandsComplete : Prop :=
  ∀ (dt : Nat) (s x : State), x = s.advance dt →
    (∀ pkg tray, Ok (.fusesLoaded dt pkg tray) → x.inPhase 0 = true →
      (x.boot.cold = true →
        Does (.fusesLoaded dt pkg tray) s (((x.wr Fld.aqdIdPkgId 0 pkg).wr Fld.aqdIdTrayPos 0 tray).phaseDone 0)) ∧
      (x.boot.cold = false → Does (.fusesLoaded dt pkg tray) s (x.phaseDone 0))) ∧
    (x.inPhase 1 = true → ∃ y : State, y = { x with boot := { x.boot with draws := x.boot.draws + 1 }, spw := { x.spw with spwBeat := x.now } } ∧
      Does (.hubReady dt) s (((((y.wr Fld.spwStatusReady 0 1).wr Fld.sluiceStatusReady 0 1).wr Fld.bootStatusHubReady 0 1).wr
        Fld.mgmtStatusI3cReady 0 1).phaseDone 1)) ∧
    (x.inPhase 2 = true → x.boot.perst = false → ∃ y, y = (x.wr Fld.bootStatusPcieReady 0 1).wr Fld.mgmtStatusPcieReady 0 1 ∧
      Does (.pcieReady dt) s (({ y with boot := { y.boot with pcieUp := true } } : State).phaseDone 2)) ∧
    (∀ d alive, d < 2 → x.inPhase 3 = true → bitAt x.boot.diesDone d = false → Does (.dieReady dt d alive) s (x.dieReady d alive)) ∧
    (∀ t c answers failed, t < 8 → c < 2 → (∀ p, p ∈ failed → p < 64) →
      (if c = 0 then x.rd Fld.hbmTrainState0 t else x.rd Fld.hbmTrainState1 t) = 1 →
      Does (.hbmControllerTrained dt t c answers failed) s ((x.controllerTrained t c answers failed).trainingOver).startRamps) ∧
    (x.inPhase 6 = true → Does (.localDone dt) s ((x.phaseDone 6).wr Fld.bootStatusLocalDone 0 1)) ∧
    (x.boot.pcieUp = true → Does (.pcieLinkDown dt) s
      (({ x with boot := { x.boot with pcieUp := false } } : State).reportLow (unitHub 16) 4 0 0))

/-- When the warm reset that RESET_CMD asked for takes effect, every register takes its reset value but those of fuses, straps,
the silt record and the reset cause; no command, ring state, slice, session, saved job, plan, gate list or fence is left, the
spillway state is normal, every basin is gated and the count restarts at 0. The silt record and host memory stay. RESET_CAUSE
shows a command's warm reset and counts it, up to its limit. (R394, R411, R412, R413, R414) -/
def Obligations.WarmResetKeepsAndClears : Prop :=
  ∀ (dt d : Nat) (s x : State), x = s.advance dt → s.inOrder = true → Ok (.warmResetEffect dt) → x.boot.warmDue = some d → d ≤ x.now →
    ∃ t, Does (.warmResetEffect dt) s t ∧
      (∀ n i, n.block ≠ .kept → ¬ (n = .spwStatus ∧ i = 0) → t.reg n i = State.reset.reg n i) ∧
      (∀ n i, n.block = .kept → n ≠ .jetSpare → n ≠ .resetCause → sameReg s t n i) ∧
      t.safe = false ∧ t.on Fld.spwStatusReady = false ∧ t.now = 0 ∧ (∀ b, b < 64 → t.gated b = true) ∧
      (∀ sl, sl < 128 → t.sliceState sl = 0 ∧ t.sliceKey? sl = none) ∧ (∀ i, t.item i = {}) ∧
      (∀ b, (t.basin b).gateList = none ∧ (t.basin b).task = none) ∧
      t.cmds = [] ∧ t.rings = [] ∧ t.slices = [] ∧ t.serve = {} ∧ t.saves = [] ∧ t.radio = {} ∧ t.aqd = {} ∧ t.spw.reportQ = [] ∧
      t.spw.silt = s.spw.silt ∧ t.spw.snap = s.spw.snap ∧ (∀ a, ByteMem.get t.host a = ByteMem.get s.host a) ∧ t.pending = s.pending ∧
      t.rd Fld.resetCauseCause = 3 ∧
      t.rd Fld.resetCauseWarmCount = min (2 ^ Fld.resetCauseWarmCount.width - 1) (s.rd Fld.resetCauseWarmCount + 1)

/-! ### Management and test -/

/-- Over a transport that the endpoint serves, each management command is answered with the bytes of its response in the
endpoint's reply on that transport; of the vendor commands, an entry, block or class beyond its range gets completion code 2. An
instruction shifted into the test access port is held, and IDCODE gives the device's code. (R435, R436, R437, R438, R440) -/
def Obligations.ManagementCommandsComplete : Prop :=
  ∀ (dt : Nat) (tr : Transport) (s x : State), x = s.advance dt →
    (x.mgmtServes tr = true →
      (∀ bytes y l, Ok (.mctpControl dt tr bytes) → x.mctpServe tr bytes = (y, l) →
        Does (.mctpControl dt tr bytes) s { y with mgmt := y.mgmt.answered tr l }) ∧
      (∀ id y l, id < 65536 → x.sensorServe id = (y, l) →
        Does (.pldmGetSensor dt tr id) s { y with mgmt := y.mgmt.answered tr l }) ∧
      (∀ eid l, eid < 256 → (∀ t, t ∈ l → t < 65536) → Does (.setEventReceiver dt tr eid l) s
        { x with mgmt := { x.mgmt with receiver := some (tr, eid), thresholds := l }.answered tr [0] }) ∧
      Does (.vendorSiltStatus dt tr) s
        { x with mgmt := x.mgmt.answered tr (0 :: (leBytes 4 (x.view .siltStatus 0) ++ leBytes 4 (x.view .spwStatus 0))) } ∧
      (∀ i, i < 65536 →
        (i < x.spw.silt.length → Does (.vendorSiltEntry dt tr i) s
          { x with mgmt := x.mgmt.answered tr (0 :: leBytes 32 (x.siltEntry i)) }) ∧
        (x.spw.silt.length ≤ i → Does (.vendorSiltEntry dt tr i) s { x with mgmt := x.mgmt.answered tr ([2]) })) ∧
      (∀ b, b < 256 →
        (b < 8 → Does (.vendorSiltSnap dt tr b) s
          { x with mgmt := x.mgmt.answered tr (0 :: leBytes 32 (x.spw.snap / 2 ^ (256 * b))) }) ∧
        (8 ≤ b → Does (.vendorSiltSnap dt tr b) s { x with mgmt := x.mgmt.answered tr ([2]) })) ∧
      (∀ k, k < 256 →
        (k < 6 → Does (.vendorClassCount dt tr k) s
          { x with mgmt := x.mgmt.answered tr (0 :: leBytes 8 (x.view .classCount k)) }) ∧
        (6 ≤ k → Does (.vendorClassCount dt tr k) s { x with mgmt := x.mgmt.answered tr ([2]) })) ∧
      Does (.vendorHealth dt tr) s
        { x with mgmt := x.mgmt.answered tr (0 :: ((List.range 5).map fun k => leBytes 4 (x.view .healthDecayed k)).flatten) }) ∧
    (∀ ins, ins ≠ .idcode → Does (.jtagInstruction dt ins) s { x with mgmt := { x.mgmt with tap := ins } }) ∧
    Does (.jtagInstruction dt .idcode) s { x with mgmt := { x.mgmt with tap := .idcode }, readData := tapIdcode }

/-- A management command changes nothing but its endpoint's own state: its reply, and of the session the endpoint ID, which only
MCTP control writes, the event receiver and the sensor thresholds. What it does, its reply included, is the same whatever the
device memory, the cisterns, the pools, host memory, the keys, the slices' and the sessions' records hold, and leaves them as they
are. (R439) -/
def Obligations.ManagementWritesItsSessionOnly : Prop :=
  ∀ (c : Instr) (s t : State), management c = true → Does c s t →
    (∃ dt, t = { s.advance dt with
      regs := t.regs, freeCtr := t.freeCtr
      mgmt := { s.mgmt with
        replyI3c := t.mgmt.replyI3c, replyPcie := t.mgmt.replyPcie, eidI3c := t.mgmt.eidI3c, eidPcie := t.mgmt.eidPcie
        receiver := t.mgmt.receiver, thresholds := t.mgmt.thresholds } }) ∧
    (∀ n i, ¬ (n = .mgmtStatus ∧ i = 0) → sameReg s t n i) ∧
    (s.inOrder = true → ∀ k, k < 2 ∨ 10 ≤ k → bitAt (t.reg .mgmtStatus) k = bitAt (s.reg .mgmtStatus) k) ∧
    ((∀ dt tr bytes, c ≠ .mctpControl dt tr bytes) → t.regs = s.regs ∧ t.mgmt.eidI3c = s.mgmt.eidI3c ∧ t.mgmt.eidPcie = s.mgmt.eidPcie) ∧
    ∀ (dev : ByteMem) (devKey : Tbl Nat) (keys : List (BitVec 512)) (cistern : ByteMem) (pool : Mem PoolWord) (host : ByteMem)
        (slices : List (Nat × SliceSt)) (serve : ServeSt),
      Does c { s with dev := dev, devKey := devKey, keys := keys, cistern := cistern, pool := pool, host := host,
                      slices := slices, serve := serve }
        { t with dev := dev, devKey := devKey, keys := keys, cistern := cistern, pool := pool, host := host,
                 slices := slices, serve := serve }
end

