-- ==== Sys2Proof/Laws/Aqueduct.lean ====
section
/-! SUPPORT. What a request that reaches the home acts on. -/
namespace Sys2Proof.Machine

theorem State.arrive_of_receives {s t : State} {q : AqdReq} {a : Arrival} (h : s.receives q t a) (poison : Bool) :
    s.arrive q poison = t.admitReq a poison := by
  obtain ⟨u, v, hs, rfl, ht, rfl, ⟨hp, rfl, rfl⟩ | ⟨hp, r, hr, rfl, rfl⟩⟩ := h
  · simp [State.arrive, State.inputPut, hp, hs, ht]
  · simp only [State.arrive, hp, ne_eq, not_true, if_false, hr, State.forSome]
    rw [State.modSent] at hs ht ⊢
    simp only [hs, State.inputPut, ht, hp]
    rfl

theorem State.receives_req {s t : State} {q : AqdReq} {a : Arrival} (h : s.receives q t a) : a.req = q := by
  obtain ⟨_, _, _, _, _, _, ⟨_, _, rfl⟩ | ⟨_, _, _, _, rfl⟩⟩ := h <;> rfl

end Sys2Proof.Machine
end

