-- ==== Sys2Proof/Laws/Sparse.lean ====
section
/-! SUPPORT. Laws of tables and memories: what is read after a write, and that every operation keeps the canonical form. -/
namespace Sys2Proof.Machine

variable {β : Type}

/-! ### Tables: read after write -/

@[simp] theorem Tbl.get_nil (d : β) (k : Nat) : Tbl.get d [] k = d := rfl

theorem Tbl.get_put_same (d : β) (t : Tbl β) (k : Nat) (v : β) : Tbl.get d (Tbl.put t k v) k = v := by
  induction t with
  | nil => simp [Tbl.put, Tbl.get]
  | cons e t ih =>
    obtain ⟨j, x⟩ := e
    simp only [Tbl.put]
    split
    · simp [Tbl.get]
    · split
      · simp [Tbl.get]
      · rename_i h _; simp [Tbl.get, h, ih]

theorem Tbl.get_put_other (d : β) (t : Tbl β) {k k' : Nat} (v : β) (h : k' ≠ k) :
    Tbl.get d (Tbl.put t k v) k' = Tbl.get d t k' := by
  induction t with
  | nil => simp [Tbl.put, Tbl.get, h]
  | cons e t ih =>
    obtain ⟨j, x⟩ := e
    simp only [Tbl.put]
    split
    · rename_i hk; subst hk; simp [Tbl.get, h]
    · split
      · simp [Tbl.get, h]
      · simp [Tbl.get, ih]

theorem Tbl.get_del_same (d : β) (t : Tbl β) (k : Nat) : Tbl.get d (Tbl.del t k) k = d := by
  induction t with
  | nil => rfl
  | cons e t ih =>
    obtain ⟨j, x⟩ := e
    by_cases h : j = k
    · simpa [Tbl.del, List.filter_cons, h] using ih
    · have h' : k ≠ j := fun e => h e.symm
      simpa [Tbl.del, List.filter_cons, h, Tbl.get, h'] using ih

theorem Tbl.get_del_other (d : β) (t : Tbl β) {k k' : Nat} (h : k' ≠ k) : Tbl.get d (Tbl.del t k) k' = Tbl.get d t k' := by
  induction t with
  | nil => rfl
  | cons e t ih =>
    obtain ⟨j, x⟩ := e
    by_cases hj : j = k
    · subst hj; simpa [Tbl.del, List.filter_cons, Tbl.get, h] using ih
    · simp only [Tbl.del, List.filter_cons, bne_iff_ne, ne_eq, hj, not_false_eq_true, if_true, Tbl.get]
      split
      · rfl
      · simpa [Tbl.del] using ih

variable [DecidableEq β]

@[simp] theorem Tbl.get_set_same (d : β) (t : Tbl β) (k : Nat) (v : β) : Tbl.get d (Tbl.set d t k v) k = v := by
  unfold Tbl.set
  split
  · rename_i h; rw [Tbl.get_del_same, h]
  · exact Tbl.get_put_same ..

theorem Tbl.get_set_other (d d' : β) (t : Tbl β) {k k' : Nat} (v : β) (h : k' ≠ k) :
    Tbl.get d (Tbl.set d' t k v) k' = Tbl.get d t k' := by
  unfold Tbl.set
  split
  · exact Tbl.get_del_other d t h
  · exact Tbl.get_put_other d t v h

/-! ### Tables: the canonical form -/

omit [DecidableEq β] in
theorem Tbl.rising_iff (t : Tbl β) : Tbl.rising t = true ↔ t.Pairwise fun a b => a.1 < b.1 := by
  induction t with
  | nil => simp [Tbl.rising]
  | cons e t ih =>
    cases t with
    | nil => simp [Tbl.rising]
    | cons f t =>
      simp only [Tbl.rising, Bool.and_eq_true, decide_eq_true_eq, ih]
      constructor
      · rintro ⟨h, h'⟩
        refine List.pairwise_cons.2 ⟨fun a ha => ?_, h'⟩
        rcases List.mem_cons.1 ha with rfl | ha
        · exact h
        · exact Nat.lt_trans h ((List.pairwise_cons.1 h').1 a ha)
      · intro h
        exact ⟨(List.pairwise_cons.1 h).1 f (List.mem_cons_self ..), (List.pairwise_cons.1 h).2⟩

omit [DecidableEq β] in
theorem Tbl.mem_put {t : Tbl β} {k : Nat} {v : β} {e : Nat × β} (h : e ∈ Tbl.put t k v) : e = (k, v) ∨ e ∈ t := by
  induction t with
  | nil => simpa [Tbl.put] using h
  | cons f t ih =>
    obtain ⟨j, x⟩ := f
    simp only [Tbl.put] at h
    split at h
    · rcases List.mem_cons.1 h with h | h
      · exact .inl h
      · exact .inr (List.mem_cons_of_mem _ h)
    · split at h
      · rcases List.mem_cons.1 h with h | h
        · exact .inl h
        · exact .inr h
      · rcases List.mem_cons.1 h with h | h
        · exact .inr (h ▸ List.mem_cons_self ..)
        · exact (ih h).imp id (List.mem_cons_of_mem _)

omit [DecidableEq β] in
theorem Tbl.rising_put {t : Tbl β} (k : Nat) (v : β) (h : Tbl.rising t = true) : Tbl.rising (Tbl.put t k v) = true := by
  rw [Tbl.rising_iff] at h ⊢
  induction t with
  | nil => simp [Tbl.put]
  | cons f t ih =>
    obtain ⟨j, x⟩ := f
    have hp := List.pairwise_cons.1 h
    simp only [Tbl.put]
    split
    · rename_i hk; subst hk; exact List.pairwise_cons.2 ⟨hp.1, hp.2⟩
    · split
      · rename_i _ hk
        refine List.pairwise_cons.2 ⟨fun a ha => ?_, h⟩
        rcases List.mem_cons.1 ha with rfl | ha
        · exact hk
        · exact Nat.lt_trans hk (hp.1 a ha)
      · refine List.pairwise_cons.2 ⟨fun a ha => ?_, ih hp.2⟩
        rcases Tbl.mem_put ha with rfl | ha
        · omega
        · exact hp.1 a ha

omit [DecidableEq β] in
theorem Tbl.rising_filter {t : Tbl β} (p : Nat × β → Bool) (h : Tbl.rising t = true) : Tbl.rising (t.filter p) = true := by
  rw [Tbl.rising_iff] at h ⊢
  exact h.filter p

theorem Tbl.wf_filter {d : β} {t : Tbl β} (p : Nat × β → Bool) (h : Tbl.wf d t = true) : Tbl.wf d (t.filter p) = true := by
  simp only [Tbl.wf, Bool.and_eq_true, List.all_eq_true] at h ⊢
  exact ⟨Tbl.rising_filter p h.1, fun e he => h.2 e (List.mem_filter.1 he).1⟩

theorem Tbl.wf_set {d : β} {t : Tbl β} (k : Nat) (v : β) (h : Tbl.wf d t = true) : Tbl.wf d (Tbl.set d t k v) = true := by
  unfold Tbl.set
  split
  · exact Tbl.wf_filter _ h
  · rename_i hv
    simp only [Tbl.wf, Bool.and_eq_true, List.all_eq_true] at h ⊢
    refine ⟨Tbl.rising_put k v h.1, fun e he => ?_⟩
    rcases Tbl.mem_put he with rfl | he
    · simpa using hv
    · exact h.2 e he

/-! ### Memories -/

theorem mem_punch {lo hi : Nat} {u : List Undef} {r : Undef} (h : r ∈ punch lo hi u) :
    ∃ q ∈ u, q.lo ≤ r.lo ∧ r.hi ≤ q.hi ∧ r.tag = q.tag ∧ (q.lo < q.hi → r.lo < r.hi) ∧ (r.hi ≤ lo ∨ hi ≤ r.lo) := by
  simp only [punch, List.mem_flatMap] at h
  obtain ⟨q, hq, h⟩ := h
  refine ⟨q, hq, ?_⟩
  split at h
  · rename_i hc
    simp only [List.mem_singleton] at h
    subst h
    simp only [Bool.or_eq_true, decide_eq_true_eq] at hc
    exact ⟨Nat.le_refl _, Nat.le_refl _, rfl, id, hc⟩
  · rename_i hc
    simp only [Bool.or_eq_true, decide_eq_true_eq, not_or, Nat.not_le] at hc
    simp only [List.mem_append] at h
    rcases h with h | h
    · split at h
      · simp only [List.mem_singleton] at h; subst h; exact ⟨Nat.le_refl _, by dsimp only; omega, rfl, fun _ => by dsimp only; omega, .inl (Nat.le_refl _)⟩
      · simp at h
    · split at h
      · simp only [List.mem_singleton] at h; subst h; exact ⟨by dsimp only; omega, Nat.le_refl _, rfl, fun _ => by dsimp only; omega, .inr (Nat.le_refl _)⟩
      · simp at h

/-- Every address of a range that `punch` leaves lies outside what it takes out. -/
theorem punch_disjoint {lo hi a : Nat} {u : List Undef} (h1 : lo ≤ a) (h2 : a < hi) :
    (punch lo hi u).find? (fun r => r.lo ≤ a && a < r.hi) = none := by
  rw [List.find?_eq_none]
  intro r hr
  obtain ⟨q, _, _, _, _, _, h⟩ := mem_punch hr
  simp only [Bool.and_eq_true, decide_eq_true_eq]
  omega

theorem Mem.get_set_same (d : β) (free : Nat → Nat → β) (m : Mem β) (a : Nat) (v : β) : Mem.get d free (Mem.set d m a v) a = v := by
  unfold Mem.get Mem.set
  by_cases h : m.undef.isEmpty
  · simp [h]
  · simp only [h, Bool.false_eq_true, if_false]
    rw [punch_disjoint (Nat.le_refl a) (Nat.lt_succ_self a)]
    simp

omit [DecidableEq β] in
/-- Outside what is taken out, the range that holds an address keeps its tag. -/
theorem punch_find {lo hi a : Nat} (u : List Undef) (h : a < lo ∨ hi ≤ a) :
    ((punch lo hi u).find? (fun r => r.lo ≤ a && a < r.hi)).map (·.tag) = (u.find? (fun r => r.lo ≤ a && a < r.hi)).map (·.tag) := by
  induction u with
  | nil => rfl
  | cons r u ih =>
    have hp : punch lo hi (r :: u) = (if r.hi ≤ lo || hi ≤ r.lo then [r] else
      (if r.lo < lo then [⟨r.lo, lo, r.tag⟩] else []) ++ (if hi < r.hi then [⟨hi, r.hi, r.tag⟩] else [])) ++ punch lo hi u := by
      simp [punch]
    rw [hp, List.find?_append, List.find?_cons]
    by_cases hc : (r.hi ≤ lo || hi ≤ r.lo) = true
    · rw [if_pos hc]
      by_cases hr : (r.lo ≤ a && a < r.hi) = true
      · simp [hr]
      · simp only [Bool.not_eq_true] at hr
        simp [hr, ih]
    · rw [if_neg hc]
      simp only [Bool.or_eq_true, decide_eq_true_eq, not_or, Nat.not_le] at hc
      by_cases hr : (r.lo ≤ a && a < r.hi) = true
      · simp only [hr]
        simp only [Bool.and_eq_true, decide_eq_true_eq] at hr
        rcases h with h | h
        · have h1 : r.lo < lo := by omega
          have h2 : (decide (r.lo ≤ a) && decide (a < lo)) = true := by simp; omega
          simp [h1, h2]
        · have h1 : hi < r.hi := by omega
          have h2 : (decide (hi ≤ a) && decide (a < r.hi)) = true := by simp; omega
          by_cases hl : r.lo < lo
          · by_cases h3 : (decide (r.lo ≤ a) && decide (a < lo)) = true
            · simp [h1, hl, h3]
            · simp only [Bool.not_eq_true] at h3
              simp [h1, hl, h2, h3]
          · simp [h1, hl, h2]
      · have hn : List.find? (fun x : Undef => decide (x.lo ≤ a) && decide (a < x.hi))
            ((if r.lo < lo then [⟨r.lo, lo, r.tag⟩] else []) ++ (if hi < r.hi then [⟨hi, r.hi, r.tag⟩] else [])) = none := by
          rw [List.find?_eq_none]
          intro x hx
          simp only [Bool.and_eq_true, decide_eq_true_eq] at hr ⊢
          simp only [List.mem_append] at hx
          rcases hx with hx | hx
          all_goals (split at hx; · (simp at hx; subst hx; dsimp only; omega)); simp at hx
        simp only [Bool.not_eq_true] at hr
        rw [hn, hr]
        simpa using ih

theorem Mem.get_set_other (d : β) (free : Nat → Nat → β) (m : Mem β) {a a' : Nat} (v : β) (h : a' ≠ a) :
    Mem.get d free (Mem.set d m a v) a' = Mem.get d free m a' := by
  have hf : ((Mem.set d m a v).undef.find? (fun r => r.lo ≤ a' && a' < r.hi)).map (·.tag) =
      (m.undef.find? (fun r => r.lo ≤ a' && a' < r.hi)).map (·.tag) := by
    simp only [Mem.set]
    split
    · rename_i he
      rw [List.isEmpty_iff.1 he]
    · exact punch_find m.undef (by omega)
  have hg := Tbl.get_set_other d d m.cells v h
  unfold Mem.get
  revert hf
  cases (Mem.set d m a v).undef.find? (fun r => r.lo ≤ a' && a' < r.hi) <;>
    cases m.undef.find? (fun r => r.lo ≤ a' && a' < r.hi) <;> intro hf
  · exact hg
  · simp at hf
  · simp at hf
  · simp only [Option.map_some, Option.some.injEq] at hf
    simp only [hf]

theorem Mem.wf_set {d : β} {m : Mem β} (a : Nat) (v : β) (h : Mem.wf d m = true) : Mem.wf d (Mem.set d m a v) = true := by
  simp only [Mem.wf, Bool.and_eq_true, List.all_eq_true, decide_eq_true_eq, Bool.or_eq_true] at h ⊢
  refine ⟨Tbl.wf_set a v h.1, fun r hr => ?_⟩
  simp only [Mem.set] at hr ⊢
  split at hr
  · simp at hr
  · obtain ⟨q, hq, h1, h2, _, h4, h5⟩ := mem_punch hr
    refine ⟨h4 (h.2 q hq).1, fun c hc => ?_⟩
    have hcell : c.1 = a ∨ c ∈ m.cells := by
      unfold Tbl.set at hc
      split at hc
      · exact .inr (List.mem_filter.1 hc).1
      · exact (Tbl.mem_put hc).imp (fun e => by rw [e]) id
    rcases hcell with hc | hc
    · omega
    · have := (h.2 q hq).2 c hc
      omega

theorem Mem.wf_clear {d : β} {m : Mem β} (lo hi : Nat) (h : Mem.wf d m = true) : Mem.wf d (Mem.clear m lo hi) = true := by
  simp only [Mem.wf, Mem.clear, Bool.and_eq_true, List.all_eq_true, decide_eq_true_eq, Bool.or_eq_true] at h ⊢
  refine ⟨Tbl.wf_filter _ h.1, fun r hr => ?_⟩
  obtain ⟨q, hq, h1, h2, _, h4, _⟩ := mem_punch hr
  refine ⟨h4 (h.2 q hq).1, fun c hc => ?_⟩
  have := (h.2 q hq).2 c (List.mem_filter.1 hc).1
  omega

theorem Mem.wf_forget {d : β} {m : Mem β} (lo hi tag : Nat) (h : Mem.wf d m = true) : Mem.wf d (Mem.forget m lo hi tag) = true := by
  unfold Mem.forget
  split
  · exact h
  · rename_i hlt
    simp only [Mem.wf, Bool.and_eq_true, List.all_eq_true, decide_eq_true_eq, Bool.or_eq_true] at h ⊢
    refine ⟨Tbl.wf_filter _ h.1, fun r hr => ?_⟩
    simp only [List.mem_append, List.mem_singleton] at hr
    rcases hr with hr | hr
    · obtain ⟨q, hq, h1, h2, _, h4, _⟩ := mem_punch hr
      refine ⟨h4 (h.2 q hq).1, fun c hc => ?_⟩
      have := (h.2 q hq).2 c (List.mem_filter.1 hc).1
      omega
    · subst hr
      refine ⟨by simp only; omega, fun c hc => ?_⟩
      have := (List.mem_filter.1 hc).2
      simpa using this

theorem ByteMem.wf_write {m : ByteMem} (bs : List Byte) : ∀ a : Nat, Mem.wf 0 m = true → Mem.wf 0 (ByteMem.write m a bs) = true := by
  induction bs generalizing m with
  | nil => intro a h; exact h
  | cons b bs ih => intro a h; exact ih (a + 1) (Mem.wf_set a b h)

/-! ### Bytes -/

theorem ByteMem.get_set_same (m : ByteMem) (a : Nat) (v : Byte) : ByteMem.get (ByteMem.set m a v) a = v := Mem.get_set_same ..
theorem ByteMem.get_set_other (m : ByteMem) {a a' : Nat} (v : Byte) (h : a' ≠ a) :
    ByteMem.get (ByteMem.set m a v) a' = ByteMem.get m a' := Mem.get_set_other 0 _ m v h

/-- A write leaves every byte outside it alone. -/
theorem ByteMem.get_write_other (bs : List Byte) : ∀ (m : ByteMem) (a a' : Nat), a' < a ∨ a + bs.length ≤ a' →
    ByteMem.get (ByteMem.write m a bs) a' = ByteMem.get m a' := by
  induction bs with
  | nil => intro m a a' _; rfl
  | cons b bs ih =>
    intro m a a' h
    simp only [List.length_cons] at h
    rw [ByteMem.write, ih _ _ _ (by omega), ByteMem.get_set_other _ _ (by omega)]

/-- A write is read back. -/
theorem ByteMem.get_write (bs : List Byte) : ∀ (m : ByteMem) (a i : Nat) (h : i < bs.length),
    ByteMem.get (ByteMem.write m a bs) (a + i) = bs[i] := by
  induction bs with
  | nil => intro m a i h; simp at h
  | cons b bs ih =>
    intro m a i h
    cases i with
    | zero => rw [ByteMem.write, Nat.add_zero, ByteMem.get_write_other _ _ _ _ (by omega)]; exact ByteMem.get_set_same ..
    | succ i =>
      rw [ByteMem.write]
      have := ih (ByteMem.set m a b) (a + 1) i (by simpa using h)
      rw [show a + (i + 1) = a + 1 + i by omega]
      simpa using this

end Sys2Proof.Machine
end

