-- ==== Sys2Proof/Laws/Regs.lean ====
section
/-! SUPPORT. Laws of registers and fields: what a read finds after a write, in every state. -/
namespace Sys2Proof.Machine

/-! ### Keys -/

theorem RegName.ctorIdx_lt (n : RegName) : n.ctorIdx < 512 := by cases n <;> decide

theorem keyIdx_regKey (n : RegName) (i : Nat) : keyIdx (regKey n i) = i := by
  have := n.ctorIdx_lt
  unfold keyIdx regKey
  omega

theorem keyReg_regKey (n : RegName) (i : Nat) : keyReg (regKey n i) = n := by
  have := n.ctorIdx_lt
  unfold keyReg regKey
  rw [show (i * 512 + n.ctorIdx) % 512 = n.ctorIdx by omega]
  exact RegName.ofNat_ctorIdx n

theorem regKey_inj {n m : RegName} {i j : Nat} (h : regKey n i = regKey m j) : n = m ∧ i = j :=
  ⟨by rw [← keyReg_regKey n i, h, keyReg_regKey], by rw [← keyIdx_regKey n i, h, keyIdx_regKey]⟩

/-! ### Whole registers -/

theorem State.reg_setReg_same (s : State) (n : RegName) (i v : Nat) : (s.setReg n i v).reg n i = (v &&& regMask n i) % 2 ^ 64 := by
  simp only [State.reg, State.setReg, Tbl.get_set_same, BitVec.toNat_ofNat]

theorem State.reg_setReg_other (s : State) {n m : RegName} {i j : Nat} (v : Nat) (h : ¬ (m = n ∧ j = i)) :
    (s.setReg n i v).reg m j = s.reg m j := by
  have hk : regKey m j ≠ regKey n i := fun e => h (regKey_inj e)
  simp only [State.reg, State.setReg]
  rw [Tbl.get_set_other _ _ _ _ hk]

@[simp] theorem State.reg_setReg_name (s : State) {n m : RegName} (i j v : Nat) (h : m ≠ n) : (s.setReg n i v).reg m j = s.reg m j :=
  s.reg_setReg_other v fun e => h e.1

/-! ### Fields -/

theorem slice_lt (x lo w : Nat) : slice x lo w < 2 ^ w := Nat.mod_lt _ (Nat.two_pow_pos w)

theorem putBits_eq (x lo w v : Nat) : putBits x lo w v = x % 2 ^ lo + 2 ^ lo * (v % 2 ^ w + 2 ^ w * (x / 2 ^ lo / 2 ^ w)) := by
  unfold putBits slice
  have h1 := Nat.div_add_mod x (2 ^ lo)
  have h2 := Nat.div_add_mod (x / 2 ^ lo) (2 ^ w)
  generalize x / 2 ^ lo = q at h1 h2 ⊢
  generalize q / 2 ^ w = r at h2 ⊢
  generalize q % 2 ^ w = m at h2 ⊢
  generalize x % 2 ^ lo = a at h1 ⊢
  generalize v % 2 ^ w = b
  generalize 2 ^ lo = p at h1 ⊢
  generalize 2 ^ w = t at h2 ⊢
  subst h2
  have h3 : p * (t * r + m) = p * (t * r) + p * m := Nat.mul_add ..
  have h4 : p * (b + t * r) = p * b + p * (t * r) := Nat.mul_add ..
  have h5 : m * p = p * m := Nat.mul_comm ..
  have h6 : b * p = p * b := Nat.mul_comm ..
  omega

theorem testBit_slice (x lo w k : Nat) : (slice x lo w).testBit k = (decide (k < w) && x.testBit (lo + k)) := by
  unfold slice
  rw [Nat.testBit_mod_two_pow, Nat.testBit_div_two_pow, Nat.add_comm]

theorem testBit_putBits (x lo w v k : Nat) :
    (putBits x lo w v).testBit k = if lo ≤ k ∧ k < lo + w then v.testBit (k - lo) else x.testBit k := by
  rw [putBits_eq, Nat.add_comm, Nat.testBit_two_pow_mul_add _ (Nat.mod_lt _ (Nat.two_pow_pos lo)), Nat.add_comm,
    Nat.testBit_two_pow_mul_add _ (Nat.mod_lt _ (Nat.two_pow_pos w))]
  by_cases h1 : k < lo
  · rw [if_pos h1, Nat.testBit_mod_two_pow, if_neg (by omega)]; simp [h1]
  · rw [if_neg h1]
    by_cases h2 : k - lo < w
    · rw [if_pos h2, Nat.testBit_mod_two_pow, if_pos (by omega)]; simp [h2]
    · rw [if_neg h2, Nat.testBit_div_two_pow, Nat.testBit_div_two_pow, if_neg (by omega)]
      congr 1; omega

theorem slice_putBits_same (x lo w v : Nat) : slice (putBits x lo w v) lo w = v % 2 ^ w := by
  apply Nat.eq_of_testBit_eq
  intro k
  rw [testBit_slice, testBit_putBits, Nat.testBit_mod_two_pow]
  by_cases h : k < w
  · simp [h]
  · simp [h]

theorem slice_putBits_other (x lo w v lo' w' : Nat) (h : lo' + w' ≤ lo ∨ lo + w ≤ lo') :
    slice (putBits x lo w v) lo' w' = slice x lo' w' := by
  apply Nat.eq_of_testBit_eq
  intro k
  rw [testBit_slice, testBit_slice, testBit_putBits]
  by_cases hk : k < w'
  · rw [if_neg (by omega)]
  · simp [hk]

theorem slice_and (x m lo w : Nat) : slice (x &&& m) lo w = slice x lo w &&& slice m lo w := by
  apply Nat.eq_of_testBit_eq
  intro k
  simp only [testBit_slice, Nat.testBit_and]
  cases decide (k < w) <;> simp

theorem slice_mod (x n lo w : Nat) (h : lo + w ≤ n) : slice (x % 2 ^ n) lo w = slice x lo w := by
  apply Nat.eq_of_testBit_eq
  intro k
  simp only [testBit_slice, Nat.testBit_mod_two_pow]
  by_cases hk : k < w
  · simp [show lo + k < n by omega]
  · simp [hk]

theorem and_full {x w : Nat} (h : x < 2 ^ w) : x &&& (2 ^ w - 1) = x := by
  rw [Nat.and_two_pow_sub_one_eq_mod, Nat.mod_eq_of_lt h]

/-- A field of its register's table: its bits are bits the register has. -/
def Fld.fits (f : Fld) (i : Nat) : Prop := f.lo + f.width ≤ 64 ∧ slice (regMask f.reg i) f.lo f.width = 2 ^ f.width - 1

theorem State.rd_setReg (s : State) (f : Fld) (i v : Nat) (h : f.fits i) : (s.setReg f.reg i v).rd f i = slice v f.lo f.width := by
  unfold State.rd
  rw [State.reg_setReg_same, slice_mod _ _ _ _ h.1, slice_and, h.2, and_full (slice_lt ..)]

/-- A field reads what was written to it. -/
theorem State.rd_wr_same (s : State) (f : Fld) (i v : Nat) (h : f.fits i) : (s.wr f i v).rd f i = v % 2 ^ f.width := by
  unfold State.wr
  rw [State.rd_setReg _ _ _ _ h, slice_putBits_same]

/-- Another field of the same register keeps its value. -/
theorem State.rd_wr_field (s : State) (f g : Fld) (i v : Nat) (hr : g.reg = f.reg) (h : g.fits i)
    (hd : g.lo + g.width ≤ f.lo ∨ f.lo + f.width ≤ g.lo) : (s.wr f i v).rd g i = s.rd g i := by
  unfold State.wr
  rw [← hr, State.rd_setReg _ _ _ _ h, slice_putBits_other _ _ _ _ _ _ hd]
  rfl

/-- A field of another register keeps its value. -/
theorem State.rd_wr_reg (s : State) (f g : Fld) (i j v : Nat) (h : ¬ (g.reg = f.reg ∧ j = i)) : (s.wr f i v).rd g j = s.rd g j := by
  unfold State.rd State.wr
  rw [State.reg_setReg_other _ _ h]

theorem State.reg_wr_other (s : State) (f : Fld) {m : RegName} {i j : Nat} (v : Nat) (h : ¬ (m = f.reg ∧ j = i)) :
    (s.wr f i v).reg m j = s.reg m j := State.reg_setReg_other _ _ h

theorem State.reg_wr_name (s : State) (f : Fld) {m : RegName} (i j v : Nat) (h : m ≠ f.reg) :
    (s.wr f i v).reg m j = s.reg m j := State.reg_setReg_name _ _ _ _ h

/-! ### Reserved bits (R9) -/

/-- The register table: keys rise, no entry is its register's reset value, and no entry holds a bit its register does not
have. -/
theorem regsOk_set {t : Tbl Word64} (n : RegName) (i v : Nat) (h : regsOk t = true) :
    regsOk (Tbl.set (regReset n i) t (regKey n i) (BitVec.ofNat 64 (v &&& regMask n i))) = true := by
  simp only [regsOk, Bool.and_eq_true, List.all_eq_true] at h ⊢
  unfold Tbl.set
  split
  · exact ⟨Tbl.rising_filter _ h.1, fun e he => h.2 e (List.mem_filter.1 he).1⟩
  · rename_i hv
    refine ⟨Tbl.rising_put _ _ h.1, fun e he => ?_⟩
    rcases Tbl.mem_put he with rfl | he
    · simp only [regEntryOk, keyReg_regKey, keyIdx_regKey, Bool.and_eq_true, bne_iff_ne, ne_eq, beq_iff_eq]
      refine ⟨hv, ?_⟩
      rw [BitVec.toNat_ofNat]
      apply Nat.eq_of_testBit_eq
      intro k
      simp only [Nat.testBit_and, Nat.testBit_mod_two_pow]
      cases decide (k < 64) <;> cases (regMask n i).testBit k <;> simp
    · exact h.2 e he

theorem regsOk_filter {t : Tbl Word64} (p : Nat × Word64 → Bool) (h : regsOk t = true) : regsOk (t.filter p) = true := by
  simp only [regsOk, Bool.and_eq_true, List.all_eq_true] at h ⊢
  exact ⟨Tbl.rising_filter p h.1, fun e he => h.2 e (List.mem_filter.1 he).1⟩

theorem Tbl.get_cases {β : Type} (d : β) (t : Tbl β) (k : Nat) : Tbl.get d t k = d ∨ (k, Tbl.get d t k) ∈ t := by
  induction t with
  | nil => exact .inl rfl
  | cons e t ih =>
    obtain ⟨j, x⟩ := e
    simp only [Tbl.get]
    split
    · rename_i h; subst h; exact .inr (List.mem_cons_self ..)
    · exact ih.imp id (List.mem_cons_of_mem _)

/-- While the table is in order, no register holds a bit it does not have. -/
theorem State.reg_masked (s : State) (h : regsOk s.regs = true) (n : RegName) (i : Nat) : s.reg n i &&& regMask n i = s.reg n i := by
  simp only [regsOk, Bool.and_eq_true, List.all_eq_true] at h
  unfold State.reg
  rcases Tbl.get_cases (regReset n i) s.regs (regKey n i) with e | e
  · rw [e, regReset, BitVec.toNat_ofNat]
    apply Nat.eq_of_testBit_eq
    intro k
    simp only [Nat.testBit_and, Nat.testBit_mod_two_pow]
    cases decide (k < 64) <;> cases (regMask n i).testBit k <;> simp
  · have := h.2 _ e
    simp only [regEntryOk, keyReg_regKey, keyIdx_regKey, Bool.and_eq_true, beq_iff_eq] at this
    exact this.2

end Sys2Proof.Machine
end

