-- ==== Sys2Proof/Laws/Bits.lean ====
section
/-! SUPPORT. Bit laws of register writes and reads: what each bit becomes, by its field's access code. -/
namespace Sys2Proof.Machine

theorem bitAt_eq (n i : Nat) : bitAt n i = n.testBit i := by
  rw [Nat.testBit_eq_decide_div_mod_eq]; rfl

theorem testBit_add_disjoint (k : Nat) : ∀ {a b : Nat}, a &&& b = 0 → (a + b).testBit k = (a.testBit k || b.testBit k) := by
  induction k with
  | zero =>
    intro a b h
    have h0 : (a.testBit 0 && b.testBit 0) = false := by rw [← Nat.testBit_and, h, Nat.zero_testBit]
    simp only [Nat.testBit_zero] at h0 ⊢
    rcases Nat.mod_two_eq_zero_or_one a with ha | ha <;> rcases Nat.mod_two_eq_zero_or_one b with hb | hb <;>
      simp_all [Nat.add_mod]
  | succ k ih =>
    intro a b h
    have h0 : (a.testBit 0 && b.testBit 0) = false := by rw [← Nat.testBit_and, h, Nat.zero_testBit]
    have h2 : a / 2 &&& b / 2 = 0 := by rw [← Nat.and_div_two, h]
    simp only [Nat.testBit_zero] at h0
    have e : (a + b) / 2 = a / 2 + b / 2 := by
      rcases Nat.mod_two_eq_zero_or_one a with ha | ha <;> rcases Nat.mod_two_eq_zero_or_one b with hb | hb <;> simp_all <;> omega
    rw [Nat.testBit_succ, Nat.testBit_succ, Nat.testBit_succ, e, ih h2]

theorem testBit_minus_and (x m k : Nat) : (x - (x &&& m)).testBit k = (x.testBit k && !m.testBit k) := by
  have hd : (x ^^^ (x &&& m)) &&& (x &&& m) = 0 := by
    apply Nat.eq_of_testBit_eq; intro j
    simp only [Nat.testBit_and, Nat.testBit_xor, Nat.zero_testBit]
    cases x.testBit j <;> cases m.testBit j <;> rfl
  have he : (x ^^^ (x &&& m)) + (x &&& m) = x := by
    apply Nat.eq_of_testBit_eq; intro j
    rw [testBit_add_disjoint j hd]
    simp only [Nat.testBit_and, Nat.testBit_xor]
    cases x.testBit j <;> cases m.testBit j <;> rfl
  rw [show x - (x &&& m) = x ^^^ (x &&& m) by omega]
  simp only [Nat.testBit_and, Nat.testBit_xor]
  cases x.testBit k <;> cases m.testBit k <;> rfl

theorem testBit_mergeBits (old v mask k : Nat) : (mergeBits old v mask).testBit k = if mask.testBit k then v.testBit k else old.testBit k := by
  unfold mergeBits
  have hd : (old - (old &&& mask)) &&& (v &&& mask) = 0 := by
    apply Nat.eq_of_testBit_eq; intro j
    simp only [Nat.testBit_and, testBit_minus_and, Nat.zero_testBit]
    cases old.testBit j <;> cases mask.testBit j <;> simp
  rw [testBit_add_disjoint k hd, testBit_minus_and, Nat.testBit_and]
  cases old.testBit k <;> cases mask.testBit k <;> cases v.testBit k <;> rfl

/-- What a write leaves in each bit. -/
theorem testBit_storeBits (n : RegName) (old v mask k : Nat) :
    (storeBits n old v mask).testBit k =
      ((if mask.testBit k && (n.bits (· == .rw)).testBit k then v.testBit k else old.testBit k) &&
        !(v.testBit k && mask.testBit k && (n.bits (· == .w1c)).testBit k)) := by
  unfold storeBits
  simp only [testBit_minus_and, testBit_mergeBits, Nat.testBit_and]

/-- No bit has two access codes, and every field's bits belong to its register. -/
theorem RegName.bits_facts (n : RegName) :
    n.bits (· == .rw) &&& n.bits (· == .w1c) = 0 ∧ n.bits (· == .rw) &&& n.bits (· == .rc) = 0 ∧
    n.bits (· == .w1c) &&& n.bits (· == .rc) = 0 ∧ n.bits (· == .rc) &&& n.mask = n.bits (· == .rc) ∧ n.mask < 2 ^ 64 := by
  cases n <;> decide

end Sys2Proof.Machine
end

