-- ==== Sys2Proof/Laws/Keeps.lean ====
section
/-! SUPPORT. What every operation of the model keeps: the queue of waiting commands, and the order of registers and memories. Here
the relation and its steps; the operations follow in the files `Keeps1` and on. -/
namespace Sys2Proof.Machine

/-- From `s` to `t` the queue stays, and what is in order stays in order. -/
def Keeps (s t : State) : Prop := t.pending = s.pending ∧ (s.inOrder = true → t.inOrder = true)

theorem Keeps.rfl' (s : State) : Keeps s s := ⟨rfl, id⟩
theorem Keeps.trans {a b c : State} (h : Keeps a b) (g : Keeps b c) : Keeps a c := ⟨g.1.trans h.1, fun x => g.2 (h.2 x)⟩

variable {s0 : State}

theorem keeps_ite {c : Prop} [Decidable c] {a b : State} (ha : Keeps s0 a) (hb : Keeps s0 b) : Keeps s0 (if c then a else b) := by
  split
  · exact ha
  · exact hb

/-- A change of fields that neither the queue nor the order rests on. -/
theorem keeps_mk {t : State} (h : Keeps s0 t) {f r i fr tk sh dk ky ec ep cm nc rg sl ba co je ri ca sc va se sv ra ti et mt md mo aq sw sp pw bo
    mg} : Keeps s0 (State.mk t.pending f r i t.regs fr tk sh t.dev dk ky t.cistern t.pool t.host ec ep cm nc rg sl ba co je ri ca sc va se sv
      ra ti et mt md mo aq sw sp pw bo mg) := h

theorem keeps_regs {t : State} (h : Keeps s0 t) {f r i rs fr tk sh dk ky ec ep cm nc rg sl ba co je ri ca sc va se sv ra ti et mt md mo aq sw
    sp pw bo mg} (hr : regsOk t.regs = true → regsOk rs = true) :
    Keeps s0 (State.mk t.pending f r i rs fr tk sh t.dev dk ky t.cistern t.pool t.host ec ep cm nc rg sl ba co je ri ca sc va se sv
      ra ti et mt md mo aq sw sp pw bo mg) := by
  refine ⟨h.1, fun x => ?_⟩
  have := h.2 x
  simp only [State.inOrder, Bool.and_eq_true] at this ⊢
  exact ⟨⟨⟨⟨hr this.1.1.1.1, this.1.1.1.2⟩, this.1.1.2⟩, this.1.2⟩, this.2⟩

theorem keeps_mems {t : State} (h : Keeps s0 t) {f r i fr tk sh d c p ho dk ky ec ep cm nc rg sl ba co je ri ca sc va se sv ra ti et mt md mo
    aq sw sp pw bo mg} (hd : Mem.wf 0 t.dev = true → Mem.wf 0 d = true) (hc : Mem.wf 0 t.cistern = true → Mem.wf 0 c = true)
    (hp : Mem.wf 0 t.pool = true → Mem.wf 0 p = true) (hh : Mem.wf 0 t.host = true → Mem.wf 0 ho = true) :
    Keeps s0 (State.mk t.pending f r i t.regs fr tk sh d dk ky c p ho ec ep cm nc rg sl ba co je ri ca sc va se sv
      ra ti et mt md mo aq sw sp pw bo mg) := by
  refine ⟨h.1, fun x => ?_⟩
  have := h.2 x
  simp only [State.inOrder, Bool.and_eq_true] at this ⊢
  exact ⟨⟨⟨⟨this.1.1.1.1, hd this.1.1.1.2⟩, hc this.1.1.2⟩, hp this.1.2⟩, hh this.2⟩

/-- The second part of a pair. -/
theorem keeps_snd {α : Type} {p : α × State} {a : α} {t : State} (e : p = (a, t)) (h : Keeps s0 p.2) : Keeps s0 t := by
  subst e; exact h
theorem keeps_fst {α : Type} {p : State × α} {a : α} {t : State} (e : p = (t, a)) (h : Keeps s0 p.1) : Keeps s0 t := by
  subst e; exact h

theorem keeps_foldl {α : Type} {f : State → α → State} (hf : ∀ s a, Keeps s0 s → Keeps s0 (f s a)) :
    ∀ (l : List α) (s : State), Keeps s0 s → Keeps s0 (l.foldl f s)
  | [], _, h => h
  | a :: l, s, h => keeps_foldl hf l (f s a) (hf s a h)

/-- The same over a pair whose first part is the state. -/
theorem keeps_foldl1 {α β : Type} {f : State × β → α → State × β} (hf : ∀ s a, Keeps s0 s.1 → Keeps s0 (f s a).1) :
    ∀ (l : List α) (s : State × β), Keeps s0 s.1 → Keeps s0 (l.foldl f s).1
  | [], _, h => h
  | a :: l, s, h => keeps_foldl1 hf l (f s a) (hf s a h)

theorem keeps_foldl2 {α β : Type} {f : β × State → α → β × State} (hf : ∀ s a, Keeps s0 s.2 → Keeps s0 (f s a).2) :
    ∀ (l : List α) (s : β × State), Keeps s0 s.2 → Keeps s0 (l.foldl f s).2
  | [], _, h => h
  | a :: l, s, h => keeps_foldl2 hf l (f s a) (hf s a h)

theorem keeps_each {α : Type} {f : State → α → State} {s : State} {l : List α} (h : Keeps s0 s)
    (hf : ∀ s a, Keeps s0 s → Keeps s0 (f s a)) : Keeps s0 (s.each l f) := keeps_foldl hf l s h

theorem keeps_whenever {s : State} {p : Bool} {k : State → State} (h : Keeps s0 s) (hk : ∀ s, Keeps s0 s → Keeps s0 (k s)) :
    Keeps s0 (s.whenever p k) := by
  unfold State.whenever; split
  · exact hk s h
  · exact h

theorem keeps_periodic {s : State} {k : State → State} (h : Keeps s0 s) (hk : ∀ s, Keeps s0 s → Keeps s0 (k s)) :
    ∀ t due, Keeps s0 (s.periodic t due k) := by
  intro t due
  unfold State.periodic; split
  · exact hk _ h
  · exact h

theorem keeps_forSome {α : Type} {s : State} {o : Option α} {k : State → α → State} (h : Keeps s0 s)
    (hk : ∀ s a, Keeps s0 s → Keeps s0 (k s a)) : Keeps s0 (s.forSome o k) := by
  unfold State.forSome; split
  · exact hk s _ h
  · exact h

theorem keeps_setReg {s : State} {n : RegName} {i v : Nat} (h : Keeps s0 s) : Keeps s0 (s.setReg n i v) :=
  keeps_regs h fun hr => regsOk_set n i v hr

theorem keeps_resetRegs {s : State} {p : RegName → Nat → Bool} (h : Keeps s0 s) : Keeps s0 (s.resetRegs p) :=
  keeps_regs h fun hr => regsOk_filter _ hr

end Sys2Proof.Machine
end

