-- ==== Sys2Proof/Laws/Keeps1.lean ====
section
/-! SUPPORT. What every operation keeps, part 1: the queue, and the order of registers and memories. -/
namespace Sys2Proof.Machine

variable {s0 : State}

theorem State.wr_keeps {s : State} (h : Keeps s0 s) :
    ∀ a2 a3 a4, Keeps s0 (State.wr s a2 a3 a4) := by
  intro a2 a3 a4
  unfold State.wr
  repeat' first
      | with_reducible assumption | intro _ | with_reducible apply keeps_ite | with_reducible apply keeps_setReg

theorem State.bump_keeps {s : State} (h : Keeps s0 s) :
    ∀ a2 a3 a4, Keeps s0 (State.bump s a2 a3 a4) := by
  intro a2 a3 a4
  unfold State.bump
  repeat' first
      | with_reducible assumption | intro _ | with_reducible apply keeps_ite | with_reducible apply State.wr_keeps

theorem State.note_keeps {s : State} (h : Keeps s0 s) :
    ∀ a2 a3 a4, Keeps s0 (State.note s a2 a3 a4) := by
  intro a2 a3 a4
  unfold State.note
  repeat' first
      | with_reducible assumption | intro _ | with_reducible apply keeps_ite | with_reducible apply keeps_foldl
      | with_reducible apply keeps_foldl1 | with_reducible apply keeps_foldl2 | with_reducible refine keeps_fst (by assumption) ?_
      | with_reducible refine keeps_snd (by assumption) ?_ | fail_if_no_progress with_reducible apply keeps_mk

theorem State.bumpSat_keeps {s : State} (h : Keeps s0 s) :
    ∀ a2 a3 a4, Keeps s0 (State.bumpSat s a2 a3 a4) := by
  intro a2 a3 a4
  unfold State.bumpSat
  repeat' first
      | with_reducible assumption | intro _ | with_reducible apply keeps_ite | with_reducible apply State.wr_keeps
      | with_reducible apply State.note_keeps

theorem State.raise_keeps {s : State} (h : Keeps s0 s) :
    ∀ a2 a3, Keeps s0 (State.raise s a2 a3) := by
  intro a2 a3
  unfold State.raise
  repeat' first
      | with_reducible assumption | intro _ | with_reducible apply keeps_ite | with_reducible apply State.wr_keeps
      | with_reducible apply State.note_keeps

theorem State.keepFresh_keeps {s : State} (h : Keeps s0 s) :
    ∀ a2 a3, Keeps s0 (State.keepFresh s a2 a3) := by
  intro a2 a3
  unfold State.keepFresh
  repeat' first
      | with_reducible assumption | intro _ | with_reducible apply keeps_ite | with_reducible apply keeps_setReg
      | with_reducible apply keeps_foldl | with_reducible apply keeps_foldl1 | with_reducible apply keeps_foldl2
      | with_reducible refine keeps_fst (by assumption) ?_ | with_reducible refine keeps_snd (by assumption) ?_
      | fail_if_no_progress with_reducible apply keeps_mk | dsimp only | split

theorem State.setRegBit_keeps {s : State} (h : Keeps s0 s) :
    ∀ a2 a3 a4 a5, Keeps s0 (State.setRegBit s a2 a3 a4 a5) := by
  intro a2 a3 a4 a5
  unfold State.setRegBit
  repeat' first
      | with_reducible assumption | intro _ | with_reducible apply keeps_ite | with_reducible apply keeps_setReg

theorem State.advance_keeps {s : State} (h : Keeps s0 s) :
    ∀ a2, Keeps s0 (State.advance s a2) := by
  intro a2
  unfold State.advance
  repeat' first
      | with_reducible assumption | intro _ | with_reducible apply keeps_ite | with_reducible apply keeps_foldl
      | with_reducible apply keeps_foldl1 | with_reducible apply keeps_foldl2 | with_reducible refine keeps_fst (by assumption) ?_
      | with_reducible refine keeps_snd (by assumption) ?_ | fail_if_no_progress with_reducible apply keeps_mk

theorem enterIf_keeps {s : State} {k : State → State} (h : Keeps s0 s) (hk : ∀ x, Keeps s0 x → Keeps s0 (k x)) :
    ∀ ok dt t, enterIf ok dt s k = .next t → Keeps s0 t := by
  intro ok dt t ht
  unfold enterIf at ht
  split at ht
  · cases ht; exact hk _ (State.advance_keeps h _)
  · cases ht

theorem enter_keeps {s : State} {k : State → State} (h : Keeps s0 s) (hk : ∀ x, Keeps s0 x → Keeps s0 (k x)) :
    ∀ c dt t, enter c dt s k = .next t → Keeps s0 t := fun _ _ t => enterIf_keeps h hk _ _ t

theorem State.free_keeps {s : State} (h : Keeps s0 s) :
    Keeps s0 (State.free s).2 := by
  unfold State.free
  repeat' first
      | with_reducible assumption | intro _ | with_reducible apply keeps_ite | with_reducible apply keeps_foldl
      | with_reducible apply keeps_foldl1 | with_reducible apply keeps_foldl2 | with_reducible refine keeps_fst (by assumption) ?_
      | with_reducible refine keeps_snd (by assumption) ?_ | fail_if_no_progress with_reducible apply keeps_mk

theorem State.report_keeps {s : State} (h : Keeps s0 s) :
    ∀ a2 a3 a4, Keeps s0 (State.report s a2 a3 a4) := by
  intro a2 a3 a4
  unfold State.report
  repeat' first
      | with_reducible assumption | intro _ | with_reducible apply keeps_ite | with_reducible apply keeps_foldl
      | with_reducible apply keeps_foldl1 | with_reducible apply keeps_foldl2 | with_reducible refine keeps_fst (by assumption) ?_
      | with_reducible refine keeps_snd (by assumption) ?_ | fail_if_no_progress with_reducible apply keeps_mk

theorem State.reportLow_keeps {s : State} (h : Keeps s0 s) :
    ∀ a2 a3 a4 a5, Keeps s0 (State.reportLow s a2 a3 a4 a5) := by
  intro a2 a3 a4 a5
  unfold State.reportLow
  repeat' first
      | with_reducible assumption | intro _ | with_reducible apply keeps_ite | with_reducible apply State.free_keeps
      | with_reducible apply State.report_keeps

theorem State.info_keeps {s : State} (h : Keeps s0 s) :
    ∀ a2, Keeps s0 (State.info s a2) := by
  intro a2
  unfold State.info
  repeat' first
      | with_reducible assumption | intro _ | with_reducible apply keeps_ite | with_reducible apply State.reportLow_keeps

theorem State.setBasin_keeps {s : State} (h : Keeps s0 s) :
    ∀ a2 a3, Keeps s0 (State.setBasin s a2 a3) := by
  intro a2 a3
  unfold State.setBasin
  repeat' first
      | with_reducible assumption | intro _ | with_reducible apply keeps_ite | with_reducible apply keeps_foldl
      | with_reducible apply keeps_foldl1 | with_reducible apply keeps_foldl2 | with_reducible refine keeps_fst (by assumption) ?_
      | with_reducible refine keeps_snd (by assumption) ?_ | fail_if_no_progress with_reducible apply keeps_mk

theorem State.setCore_keeps {s : State} (h : Keeps s0 s) :
    ∀ a2 a3, Keeps s0 (State.setCore s a2 a3) := by
  intro a2 a3
  unfold State.setCore
  repeat' first
      | with_reducible assumption | intro _ | with_reducible apply keeps_ite | with_reducible apply keeps_foldl
      | with_reducible apply keeps_foldl1 | with_reducible apply keeps_foldl2 | with_reducible refine keeps_fst (by assumption) ?_
      | with_reducible refine keeps_snd (by assumption) ?_ | fail_if_no_progress with_reducible apply keeps_mk

theorem State.setJet_keeps {s : State} (h : Keeps s0 s) :
    ∀ a2 a3, Keeps s0 (State.setJet s a2 a3) := by
  intro a2 a3
  unfold State.setJet
  repeat' first
      | with_reducible assumption | intro _ | with_reducible apply keeps_ite | with_reducible apply keeps_foldl
      | with_reducible apply keeps_foldl1 | with_reducible apply keeps_foldl2 | with_reducible refine keeps_fst (by assumption) ?_
      | with_reducible refine keeps_snd (by assumption) ?_ | fail_if_no_progress with_reducible apply keeps_mk

theorem State.setRill_keeps {s : State} (h : Keeps s0 s) :
    ∀ a2 a3, Keeps s0 (State.setRill s a2 a3) := by
  intro a2 a3
  unfold State.setRill
  repeat' first
      | with_reducible assumption | intro _ | with_reducible apply keeps_ite | with_reducible apply keeps_foldl
      | with_reducible apply keeps_foldl1 | with_reducible apply keeps_foldl2 | with_reducible refine keeps_fst (by assumption) ?_
      | with_reducible refine keeps_snd (by assumption) ?_ | fail_if_no_progress with_reducible apply keeps_mk

theorem State.setCascade_keeps {s : State} (h : Keeps s0 s) :
    ∀ a2 a3, Keeps s0 (State.setCascade s a2 a3) := by
  intro a2 a3
  unfold State.setCascade
  repeat' first
      | with_reducible assumption | intro _ | with_reducible apply keeps_ite | with_reducible apply keeps_foldl
      | with_reducible apply keeps_foldl1 | with_reducible apply keeps_foldl2 | with_reducible refine keeps_fst (by assumption) ?_
      | with_reducible refine keeps_snd (by assumption) ?_ | fail_if_no_progress with_reducible apply keeps_mk

theorem State.setSliceSt_keeps {s : State} (h : Keeps s0 s) :
    ∀ a2 a3, Keeps s0 (State.setSliceSt s a2 a3) := by
  intro a2 a3
  unfold State.setSliceSt
  repeat' first
      | with_reducible assumption | intro _ | with_reducible apply keeps_ite | with_reducible apply keeps_foldl
      | with_reducible apply keeps_foldl1 | with_reducible apply keeps_foldl2 | with_reducible refine keeps_fst (by assumption) ?_
      | with_reducible refine keeps_snd (by assumption) ?_ | fail_if_no_progress with_reducible apply keeps_mk

theorem State.setRing_keeps {s : State} (h : Keeps s0 s) :
    ∀ a2 a3, Keeps s0 (State.setRing s a2 a3) := by
  intro a2 a3
  unfold State.setRing
  repeat' first
      | with_reducible assumption | intro _ | with_reducible apply keeps_ite | with_reducible apply keeps_foldl
      | with_reducible apply keeps_foldl1 | with_reducible apply keeps_foldl2 | with_reducible refine keeps_fst (by assumption) ?_
      | with_reducible refine keeps_snd (by assumption) ?_ | fail_if_no_progress with_reducible apply keeps_mk

theorem State.setEth_keeps {s : State} (h : Keeps s0 s) :
    ∀ a2 a3, Keeps s0 (State.setEth s a2 a3) := by
  intro a2 a3
  unfold State.setEth
  repeat' first
      | with_reducible assumption | intro _ | with_reducible apply keeps_ite | with_reducible apply keeps_foldl
      | with_reducible apply keeps_foldl1 | with_reducible apply keeps_foldl2 | with_reducible refine keeps_fst (by assumption) ?_
      | with_reducible refine keeps_snd (by assumption) ?_ | fail_if_no_progress with_reducible apply keeps_mk

theorem State.modCmd_keeps {s : State} (h : Keeps s0 s) :
    ∀ a2 a3, Keeps s0 (State.modCmd s a2 a3) := by
  intro a2 a3
  unfold State.modCmd
  repeat' first
      | with_reducible assumption | intro _ | with_reducible apply keeps_ite | with_reducible apply keeps_foldl
      | with_reducible apply keeps_foldl1 | with_reducible apply keeps_foldl2 | with_reducible refine keeps_fst (by assumption) ?_
      | with_reducible refine keeps_snd (by assumption) ?_ | fail_if_no_progress with_reducible apply keeps_mk

theorem State.dropCmd_keeps {s : State} (h : Keeps s0 s) :
    ∀ a2, Keeps s0 (State.dropCmd s a2) := by
  intro a2
  unfold State.dropCmd
  repeat' first
      | with_reducible assumption | intro _ | with_reducible apply keeps_ite | with_reducible apply keeps_foldl
      | with_reducible apply keeps_foldl1 | with_reducible apply keeps_foldl2 | with_reducible refine keeps_fst (by assumption) ?_
      | with_reducible refine keeps_snd (by assumption) ?_ | fail_if_no_progress with_reducible apply keeps_mk

theorem State.upset_keeps {s : State} (h : Keeps s0 s) :
    ∀ a2, Keeps s0 (State.upset s a2) := by
  intro a2
  unfold State.upset
  repeat' first
      | with_reducible assumption | intro _ | with_reducible apply keeps_ite | with_reducible apply keeps_foldl
      | with_reducible apply keeps_foldl1 | with_reducible apply keeps_foldl2 | with_reducible refine keeps_fst (by assumption) ?_
      | with_reducible refine keeps_snd (by assumption) ?_ | fail_if_no_progress with_reducible apply keeps_mk

theorem State.upsets_keeps {s : State} (h : Keeps s0 s) :
    ∀ a2, Keeps s0 (State.upsets s a2) := by
  intro a2
  unfold State.upsets
  repeat' first
      | with_reducible assumption | intro _ | with_reducible apply keeps_ite | with_reducible apply State.upset_keeps
      | with_reducible apply keeps_foldl

theorem State.eccFound_keeps {s : State} (h : Keeps s0 s) :
    ∀ a2 a3 a4, Keeps s0 (State.eccFound s a2 a3 a4) := by
  intro a2 a3 a4
  unfold State.eccFound
  repeat' first
      | with_reducible assumption | intro _ | with_reducible apply keeps_ite | with_reducible apply State.bumpSat_keeps
      | with_reducible apply State.reportLow_keeps

theorem State.eccRead_keeps {s : State} (h : Keeps s0 s) :
    ∀ a2 a3, Keeps s0 (State.eccRead s a2 a3) := by
  intro a2 a3
  unfold State.eccRead
  repeat' first
      | with_reducible assumption | intro _ | with_reducible apply keeps_ite | with_reducible apply keeps_each
      | with_reducible apply State.eccFound_keeps | with_reducible apply keeps_foldl | with_reducible apply keeps_foldl1
      | with_reducible apply keeps_foldl2 | with_reducible refine keeps_fst (by assumption) ?_
      | with_reducible refine keeps_snd (by assumption) ?_ | fail_if_no_progress with_reducible apply keeps_mk | dsimp only | split

theorem State.eccReads_keeps {s : State} (h : Keeps s0 s) :
    ∀ a2 a3, Keeps s0 (State.eccReads s a2 a3) := by
  intro a2 a3
  unfold State.eccReads
  repeat' first
      | with_reducible assumption | intro _ | with_reducible apply keeps_ite | with_reducible apply keeps_each
      | with_reducible apply State.eccRead_keeps

theorem State.breakResv_keeps {s : State} (h : Keeps s0 s) :
    ∀ a2, Keeps s0 (State.breakResv s a2) := by
  intro a2
  unfold State.breakResv
  repeat' first
      | with_reducible assumption | intro _ | with_reducible apply keeps_ite | with_reducible apply State.setCore_keeps
      | with_reducible apply keeps_each

theorem State.cStored_keeps {s : State} (h : Keeps s0 s) :
    ∀ a2 a3 a4, Keeps s0 (State.cStored s a2 a3 a4) := by
  intro a2 a3 a4
  unfold State.cStored
  repeat' first
      | with_reducible assumption | intro _ | with_reducible apply keeps_ite | with_reducible apply State.breakResv_keeps

theorem State.devStored_keeps {s : State} (h : Keeps s0 s) :
    ∀ a2 a3, Keeps s0 (State.devStored s a2 a3) := by
  intro a2 a3
  unfold State.devStored
  repeat' first
      | with_reducible assumption | intro _ | with_reducible apply keeps_ite | with_reducible apply State.breakResv_keeps

theorem State.cWrite_keeps {s : State} (h : Keeps s0 s) : ∀ b a bs, Keeps s0 (s.cWrite b a bs).1 := by
  intro b a bs
  have key : ∀ (x : State) (k : Nat) (l : List Byte) (e : Tbl Nat), Keeps s0 x →
      Keeps s0 { x with cistern := ByteMem.write x.cistern k l, eccC := e } := fun x k l e hx =>
    keeps_mems hx id (ByteMem.wf_write l k) id id
  have h' := State.cStored_keeps h b a bs.length
  unfold State.cWrite
  dsimp only
  split
  · exact key _ _ _ _ h'
  · refine key _ _ _ _ ?_
    repeat' first
        | with_reducible assumption | with_reducible apply keeps_ite | with_reducible apply State.eccRead_keeps

theorem State.pWrite_keeps {s : State} (h : Keeps s0 s) : ∀ b w v, Keeps s0 (s.pWrite b w v) := fun _ _ _ =>
  keeps_mems h id id (Mem.wf_set _ _) id

theorem State.pAdd_keeps {s : State} (h : Keeps s0 s) :
    ∀ a2 a3 a4, Keeps s0 (State.pAdd s a2 a3 a4) := by
  intro a2 a3 a4
  unfold State.pAdd
  repeat' first
      | with_reducible assumption | intro _ | with_reducible apply keeps_ite | with_reducible apply State.pWrite_keeps

theorem State.cFree_keeps {s : State} (h : Keeps s0 s) : ∀ b a n, Keeps s0 (s.cFree b a n) := fun b a n =>
  keeps_mems (State.cStored_keeps h b a n) id (Mem.wf_forget _ _ _) id id

theorem State.pFree_keeps {s : State} (h : Keeps s0 s) : ∀ b w n, Keeps s0 (s.pFree b w n) := fun _ _ _ =>
  keeps_mems h id id (Mem.wf_forget _ _ _) id

theorem State.cZero_keeps {s : State} (h : Keeps s0 s) : ∀ b lo hi, Keeps s0 (s.cZero b lo hi) := fun _ _ _ =>
  keeps_mems h id (Mem.wf_clear _ _) id id

theorem State.pZero_keeps {s : State} (h : Keeps s0 s) : ∀ b lo hi, Keeps s0 (s.pZero b lo hi) := fun _ _ _ =>
  keeps_mems h id id (Mem.wf_clear _ _) id

theorem State.devWriteUnit_keeps {s : State} (h : Keeps s0 s) : ∀ a bs, Keeps s0 (s.devWriteUnit a bs) := by
  intro a bs
  have h' := State.devStored_keeps h a bs.length
  unfold State.devWriteUnit
  split
  · exact h
  · refine keeps_mems h' (fun hd => ?_) id id id
    refine ByteMem.wf_write _ _ ?_
    split
    · exact hd
    · exact ByteMem.wf_write _ _ hd

theorem State.devWriteAux_keeps : ∀ (n : Nat) {s : State} (_ : Keeps s0 s), ∀ a bs, Keeps s0 (State.devWriteAux n s a bs)
  | 0, _, h, _, _ => h
  | n + 1, _, h, _, _ => State.devWriteAux_keeps n (State.devWriteUnit_keeps h _ _) _ _

theorem State.devWrite_keeps {s : State} (h : Keeps s0 s) :
    ∀ a2 a3, Keeps s0 (State.devWrite s a2 a3) := by
  intro a2 a3
  unfold State.devWrite
  repeat' first
      | with_reducible assumption | intro _ | with_reducible apply keeps_ite | with_reducible apply State.devWriteAux_keeps

theorem State.devRekey_keeps {s : State} (h : Keeps s0 s) : ∀ u, Keeps s0 (s.devRekey u) := by
  intro u
  unfold State.devRekey
  dsimp only
  split
  · exact h
  · exact keeps_mems h (ByteMem.wf_write _ _) id id id

theorem State.devForget_keeps {s : State} (h : Keeps s0 s) : ∀ lo hi, Keeps s0 (s.devForget lo hi) := by
  intro lo hi
  unfold State.devForget
  refine keeps_mems ?_ (Mem.wf_forget _ _ _) id id id
  exact keeps_ite (keeps_ite (State.devStored_keeps h _ _) (State.devRekey_keeps (State.devStored_keeps h _ _) _))
    (State.devRekey_keeps (keeps_ite (State.devStored_keeps h _ _) (State.devRekey_keeps (State.devStored_keeps h _ _) _)) _)

theorem State.hostWrite_keeps {s : State} (h : Keeps s0 s) : ∀ sp a bs, Keeps s0 (s.hostWrite sp a bs) := fun _ _ bs =>
  keeps_mems h id id id (ByteMem.wf_write bs _)

theorem State.hostFree_keeps {s : State} (h : Keeps s0 s) : ∀ sp a n, Keeps s0 (s.hostFree sp a n) := fun _ _ _ =>
  keeps_mems h id id id (Mem.wf_forget _ _ _)

theorem State.lose_keeps {s : State} (h : Keeps s0 s) :
    ∀ a2 a3, Keeps s0 (State.lose s a2 a3) := by
  intro a2 a3
  unfold State.lose
  repeat' first
      | with_reducible assumption | intro _ | with_reducible apply keeps_ite | with_reducible apply State.modCmd_keeps
      | with_reducible apply keeps_foldl | with_reducible apply keeps_foldl1 | with_reducible apply keeps_foldl2
      | with_reducible refine keeps_fst (by assumption) ?_ | with_reducible refine keeps_snd (by assumption) ?_
      | fail_if_no_progress with_reducible apply keeps_mk

theorem State.beginSpans_keeps {s : State} (h : Keeps s0 s) :
    ∀ a2 a3 a4 a5, Keeps s0 (State.beginSpans s a2 a3 a4 a5) := by
  intro a2 a3 a4 a5
  unfold State.beginSpans
  repeat' first
      | with_reducible assumption | intro _ | with_reducible apply keeps_ite | with_reducible apply State.setBasin_keeps
      | with_reducible apply keeps_each | with_reducible apply State.lose_keeps

theorem State.raceReads_keeps {s : State} (h : Keeps s0 s) :
    ∀ a2 a3 a4 a5, Keeps s0 (State.raceReads s a2 a3 a4 a5) := by
  intro a2 a3 a4 a5
  unfold State.raceReads
  repeat' first
      | with_reducible assumption | intro _ | with_reducible apply keeps_ite | with_reducible apply keeps_each
      | with_reducible apply State.cFree_keeps | with_reducible apply State.pFree_keeps

theorem State.endSpans_keeps {s : State} (h : Keeps s0 s) :
    ∀ a2 a3, Keeps s0 (State.endSpans s a2 a3) := by
  intro a2 a3
  unfold State.endSpans
  repeat' first
      | with_reducible assumption | intro _ | with_reducible apply keeps_ite | with_reducible apply State.setBasin_keeps

theorem State.touch_keeps {s : State} (h : Keeps s0 s) :
    ∀ a2 a3 a4 a5 a6, Keeps s0 (State.touch s a2 a3 a4 a5 a6).1 := by
  intro a2 a3 a4 a5 a6
  unfold State.touch
  repeat' first
      | with_reducible assumption | intro _ | with_reducible apply keeps_ite | with_reducible apply keeps_each
      | with_reducible apply State.lose_keeps

theorem State.doWrite_keeps {s : State} (h : Keeps s0 s) :
    ∀ a2 a3, Keeps s0 (State.doWrite s a2 a3).1 := by
  intro a2 a3
  unfold State.doWrite
  repeat' first
      | with_reducible assumption | intro _ | with_reducible apply keeps_ite | with_reducible apply State.cWrite_keeps
      | with_reducible apply State.pWrite_keeps | with_reducible apply State.pAdd_keeps | with_reducible apply State.cFree_keeps
      | with_reducible apply State.pFree_keeps | with_reducible apply State.devWrite_keeps | with_reducible apply State.devForget_keeps
      | with_reducible apply keeps_foldl | with_reducible apply keeps_foldl1 | with_reducible apply keeps_foldl2
      | with_reducible refine keeps_fst (by assumption) ?_ | with_reducible refine keeps_snd (by assumption) ?_
      | fail_if_no_progress with_reducible apply keeps_mk | dsimp only | split

theorem State.doWrites_keeps {s : State} (h : Keeps s0 s) : ∀ b l, Keeps s0 (State.doWrites s b l).1 := by
  intro b l
  induction l generalizing s with
  | nil => exact h
  | cons a l ih =>
  unfold State.doWrites
  repeat' first
      | with_reducible assumption | intro _ | with_reducible apply keeps_ite | with_reducible apply ih
      | with_reducible apply State.doWrite_keeps

theorem State.logPut_keeps {s : State} (h : Keeps s0 s) :
    ∀ a2, Keeps s0 (State.logPut s a2) := by
  intro a2
  unfold State.logPut
  repeat' first
      | with_reducible assumption | intro _ | with_reducible apply keeps_ite | with_reducible apply State.wr_keeps
      | with_reducible apply State.raise_keeps | with_reducible apply keeps_foldl | with_reducible apply keeps_foldl1
      | with_reducible apply keeps_foldl2 | with_reducible refine keeps_fst (by assumption) ?_
      | with_reducible refine keeps_snd (by assumption) ?_ | fail_if_no_progress with_reducible apply keeps_mk

theorem State.siltPut_keeps {s : State} (h : Keeps s0 s) :
    ∀ a2, Keeps s0 (State.siltPut s a2) := by
  intro a2
  unfold State.siltPut
  repeat' first
      | with_reducible assumption | intro _ | with_reducible apply keeps_ite | with_reducible apply keeps_foldl
      | with_reducible apply keeps_foldl1 | with_reducible apply keeps_foldl2 | with_reducible refine keeps_fst (by assumption) ?_
      | with_reducible refine keeps_snd (by assumption) ?_ | fail_if_no_progress with_reducible apply keeps_mk

theorem State.sensorEvent_keeps {s : State} (h : Keeps s0 s) :
    ∀ a2 a3, Keeps s0 (State.sensorEvent s a2 a3) := by
  intro a2 a3
  unfold State.sensorEvent
  repeat' first
      | with_reducible assumption | intro _ | with_reducible apply keeps_ite | with_reducible apply keeps_foldl
      | with_reducible apply keeps_foldl1 | with_reducible apply keeps_foldl2 | with_reducible refine keeps_fst (by assumption) ?_
      | with_reducible refine keeps_snd (by assumption) ?_ | fail_if_no_progress with_reducible apply keeps_mk | dsimp only | split

theorem State.spwChange_keeps {s : State} {k2 : State → State} (h : Keeps s0 s) (hk2 : ∀ x0, Keeps s0 x0 → Keeps s0 (k2 x0)) :
    Keeps s0 (State.spwChange s k2) := by
  unfold State.spwChange
  repeat' first
      | with_reducible assumption | intro _ | with_reducible apply keeps_ite | with_reducible apply State.sensorEvent_keeps
      | with_reducible apply hk2

theorem State.scoreChange_keeps {s : State} {k2 : State → State} (h : Keeps s0 s) (hk2 : ∀ x0, Keeps s0 x0 → Keeps s0 (k2 x0)) :
    Keeps s0 (State.scoreChange s k2) := by
  unfold State.scoreChange
  repeat' first
      | with_reducible assumption | intro _ | with_reducible apply keeps_ite | with_reducible apply State.sensorEvent_keeps
      | with_reducible apply hk2

theorem State.freezeSilt_keeps {s : State} (h : Keeps s0 s) :
    Keeps s0 (State.freezeSilt s) := by
  unfold State.freezeSilt
  repeat' first
      | with_reducible assumption | intro _ | with_reducible apply keeps_ite | with_reducible apply State.wr_keeps
      | with_reducible apply State.spwChange_keeps | with_reducible apply keeps_foldl | with_reducible apply keeps_foldl1
      | with_reducible apply keeps_foldl2 | with_reducible refine keeps_fst (by assumption) ?_
      | with_reducible refine keeps_snd (by assumption) ?_ | fail_if_no_progress with_reducible apply keeps_mk

theorem State.event_keeps {s : State} (h : Keeps s0 s) :
    ∀ a2 a3 a4 a5, Keeps s0 (State.event s a2 a3 a4 a5) := by
  intro a2 a3 a4 a5
  unfold State.event
  repeat' first
      | with_reducible assumption | intro _ | with_reducible apply keeps_ite | with_reducible apply State.logPut_keeps
      | with_reducible apply State.siltPut_keeps | with_reducible apply keeps_foldl | with_reducible apply keeps_foldl1
      | with_reducible apply keeps_foldl2 | with_reducible refine keeps_fst (by assumption) ?_
      | with_reducible refine keeps_snd (by assumption) ?_ | fail_if_no_progress with_reducible apply keeps_mk

theorem State.health_keeps {s : State} (h : Keeps s0 s) :
    ∀ a2, Keeps s0 (State.health s a2) := by
  intro a2
  unfold State.health
  repeat' first
      | with_reducible assumption | intro _ | with_reducible apply keeps_ite | with_reducible apply State.bumpSat_keeps
      | with_reducible apply State.scoreChange_keeps

theorem State.setSliceState_keeps {s : State} (h : Keeps s0 s) :
    ∀ a2 a3, Keeps s0 (State.setSliceState s a2 a3) := by
  intro a2 a3
  unfold State.setSliceState
  repeat' first
      | with_reducible assumption | intro _ | with_reducible apply keeps_ite | with_reducible apply State.wr_keeps
      | with_reducible apply State.event_keeps

theorem State.setTimeState_keeps {s : State} (h : Keeps s0 s) :
    ∀ a2, Keeps s0 (State.setTimeState s a2) := by
  intro a2
  unfold State.setTimeState
  repeat' first
      | with_reducible assumption | intro _ | with_reducible apply keeps_ite | with_reducible apply State.wr_keeps
      | with_reducible apply State.sensorEvent_keeps | with_reducible apply State.event_keeps

theorem State.interrupt_keeps {s : State} (h : Keeps s0 s) :
    ∀ a2 a3, Keeps s0 (State.interrupt s a2 a3) := by
  intro a2 a3
  unfold State.interrupt
  repeat' first
      | with_reducible assumption | intro _ | with_reducible apply keeps_ite | with_reducible apply keeps_foldl
      | with_reducible apply keeps_foldl1 | with_reducible apply keeps_foldl2 | with_reducible refine keeps_fst (by assumption) ?_
      | with_reducible refine keeps_snd (by assumption) ?_ | fail_if_no_progress with_reducible apply keeps_mk

theorem State.nondet_keeps {s : State} (h : Keeps s0 s) :
    ∀ a2 a3, Keeps s0 (State.nondet s a2 a3) := by
  intro a2 a3
  unfold State.nondet
  repeat' first
      | with_reducible assumption | intro _ | with_reducible apply keeps_ite | with_reducible apply keeps_setReg
      | with_reducible apply State.wr_keeps | with_reducible apply State.bump_keeps

theorem State.semAdd_keeps {s : State} (h : Keeps s0 s) :
    ∀ a2 a3 a4, Keeps s0 (State.semAdd s a2 a3 a4).1 := by
  intro a2 a3 a4
  unfold State.semAdd
  repeat' first
      | with_reducible assumption | intro _ | with_reducible apply keeps_ite | with_reducible apply keeps_setReg
      | with_reducible apply State.wr_keeps | with_reducible apply State.info_keeps | with_reducible apply keeps_foldl
      | with_reducible apply keeps_foldl1 | with_reducible apply keeps_foldl2 | with_reducible refine keeps_fst (by assumption) ?_
      | with_reducible refine keeps_snd (by assumption) ?_ | fail_if_no_progress with_reducible apply keeps_mk | dsimp only | split

theorem State.chargeAqd_keeps {s : State} (h : Keeps s0 s) :
    ∀ a2 a3 a4, Keeps s0 (State.chargeAqd s a2 a3 a4) := by
  intro a2 a3 a4
  unfold State.chargeAqd
  repeat' first
      | with_reducible assumption | intro _ | with_reducible apply keeps_ite | with_reducible apply State.bump_keeps
      | with_reducible apply State.modCmd_keeps | with_reducible apply keeps_foldl | with_reducible apply keeps_foldl1
      | with_reducible apply keeps_foldl2 | with_reducible refine keeps_fst (by assumption) ?_
      | with_reducible refine keeps_snd (by assumption) ?_ | fail_if_no_progress with_reducible apply keeps_mk | dsimp only | split

theorem State.portTx_keeps {s : State} (h : Keeps s0 s) :
    ∀ a2, Keeps s0 (State.portTx s a2) := by
  intro a2
  unfold State.portTx
  repeat' first
      | with_reducible assumption | intro _ | with_reducible apply keeps_ite | with_reducible apply State.bump_keeps
      | with_reducible apply State.free_keeps

theorem State.portRx_keeps {s : State} (h : Keeps s0 s) :
    ∀ a2, Keeps s0 (State.portRx s a2) := by
  intro a2
  unfold State.portRx
  repeat' first
      | with_reducible assumption | intro _ | with_reducible apply keeps_ite | with_reducible apply State.bump_keeps
      | with_reducible apply State.free_keeps

theorem State.aqdSendNow_keeps {s : State} (h : Keeps s0 s) :
    ∀ a2 a3, Keeps s0 (State.aqdSendNow s a2 a3) := by
  intro a2 a3
  unfold State.aqdSendNow
  repeat' first
      | with_reducible assumption | intro _ | with_reducible apply keeps_ite | with_reducible apply State.chargeAqd_keeps
      | with_reducible apply State.portTx_keeps | with_reducible apply keeps_foldl | with_reducible apply keeps_foldl1
      | with_reducible apply keeps_foldl2 | with_reducible refine keeps_fst (by assumption) ?_
      | with_reducible refine keeps_snd (by assumption) ?_ | fail_if_no_progress with_reducible apply keeps_mk

theorem State.aqdSend_keeps {s : State} (h : Keeps s0 s) :
    ∀ a2 a3 a4 a5 a6, Keeps s0 (State.aqdSend s a2 a3 a4 a5 a6).1 := by
  intro a2 a3 a4 a5 a6
  unfold State.aqdSend
  repeat' first
      | with_reducible assumption | intro _ | with_reducible apply keeps_ite | with_reducible apply State.bump_keeps
      | with_reducible apply State.aqdSendNow_keeps | with_reducible apply keeps_foldl | with_reducible apply keeps_foldl1
      | with_reducible apply keeps_foldl2 | with_reducible refine keeps_fst (by assumption) ?_
      | with_reducible refine keeps_snd (by assumption) ?_ | fail_if_no_progress with_reducible apply keeps_mk | dsimp only | split

theorem State.aqdForget_keeps {s : State} (h : Keeps s0 s) :
    ∀ a2, Keeps s0 (State.aqdForget s a2) := by
  intro a2
  unfold State.aqdForget
  repeat' first
      | with_reducible assumption | intro _ | with_reducible apply keeps_ite | with_reducible apply keeps_foldl
      | with_reducible apply keeps_foldl1 | with_reducible apply keeps_foldl2 | with_reducible refine keeps_fst (by assumption) ?_
      | with_reducible refine keeps_snd (by assumption) ?_ | fail_if_no_progress with_reducible apply keeps_mk

theorem State.watchRoutes_keeps {s : State} (h : Keeps s0 s) :
    Keeps s0 (State.watchRoutes s) := by
  unfold State.watchRoutes
  repeat' first
      | with_reducible assumption | intro _ | with_reducible apply keeps_ite | with_reducible apply keeps_foldl
      | with_reducible apply keeps_foldl1 | with_reducible apply keeps_foldl2 | with_reducible refine keeps_fst (by assumption) ?_
      | with_reducible refine keeps_snd (by assumption) ?_ | fail_if_no_progress with_reducible apply keeps_mk

theorem State.pushAll_keeps {s : State} (h : Keeps s0 s) : ∀ sl q o d l, Keeps s0 (State.pushAll s sl q o d l).1 := by
  intro sl q o d l
  induction l generalizing s with
  | nil => exact h
  | cons a l ih =>
  unfold State.pushAll
  repeat' first
      | with_reducible assumption | intro _ | with_reducible apply keeps_ite | with_reducible apply ih
      | with_reducible apply State.aqdSend_keeps | with_reducible refine keeps_fst (by assumption) ?_
      | with_reducible refine keeps_snd (by assumption) ?_ | fail_if_no_progress with_reducible apply keeps_mk | dsimp only | split

theorem State.push_keeps {s : State} (h : Keeps s0 s) :
    ∀ a2 a3 a4 a5 a6, Keeps s0 (State.push s a2 a3 a4 a5 a6).1 := by
  intro a2 a3 a4 a5 a6
  unfold State.push
  repeat' first
      | with_reducible assumption | intro _ | with_reducible apply keeps_ite | with_reducible apply State.pushAll_keeps
      | with_reducible apply keeps_foldl | with_reducible apply keeps_foldl1 | with_reducible apply keeps_foldl2
      | with_reducible refine keeps_fst (by assumption) ?_ | with_reducible refine keeps_snd (by assumption) ?_
      | fail_if_no_progress with_reducible apply keeps_mk | dsimp only | split

theorem State.sendBump_keeps {s : State} (h : Keeps s0 s) :
    ∀ a2 a3 a4 a5 a6 a7, Keeps s0 (State.sendBump s a2 a3 a4 a5 a6 a7).1 := by
  intro a2 a3 a4 a5 a6 a7
  unfold State.sendBump
  repeat' first
      | with_reducible assumption | intro _ | with_reducible apply keeps_ite | with_reducible apply State.aqdSend_keeps
      | with_reducible apply keeps_foldl | with_reducible apply keeps_foldl1 | with_reducible apply keeps_foldl2
      | with_reducible refine keeps_fst (by assumption) ?_ | with_reducible refine keeps_snd (by assumption) ?_
      | fail_if_no_progress with_reducible apply keeps_mk | dsimp only | split

theorem State.dropWaiting_keeps {s : State} (h : Keeps s0 s) :
    ∀ a2, Keeps s0 (State.dropWaiting s a2) := by
  intro a2
  unfold State.dropWaiting
  repeat' first
      | with_reducible assumption | intro _ | with_reducible apply keeps_ite | with_reducible apply keeps_foldl
      | with_reducible apply keeps_foldl1 | with_reducible apply keeps_foldl2 | with_reducible refine keeps_fst (by assumption) ?_
      | with_reducible refine keeps_snd (by assumption) ?_ | fail_if_no_progress with_reducible apply keeps_mk

theorem State.rillDrained_keeps {s : State} (h : Keeps s0 s) :
    ∀ a2, Keeps s0 (State.rillDrained s a2) := by
  intro a2
  unfold State.rillDrained
  repeat' first
      | with_reducible assumption | intro _ | with_reducible apply keeps_ite | with_reducible apply State.setRill_keeps

theorem State.rillFetchLost_keeps {s : State} (h : Keeps s0 s) :
    ∀ a2 a3 a4, Keeps s0 (State.rillFetchLost s a2 a3 a4) := by
  intro a2 a3 a4
  unfold State.rillFetchLost
  repeat' first
      | with_reducible assumption | intro _ | with_reducible apply keeps_ite | with_reducible apply State.bump_keeps
      | with_reducible apply State.free_keeps

theorem State.rillDropFetch_keeps {s : State} (h : Keeps s0 s) :
    ∀ a2 a3, Keeps s0 (State.rillDropFetch s a2 a3) := by
  intro a2 a3
  unfold State.rillDropFetch
  repeat' first
      | with_reducible assumption | intro _ | with_reducible apply keeps_ite | with_reducible apply State.setRill_keeps
      | with_reducible apply State.rillFetchLost_keeps | with_reducible apply keeps_foldl | with_reducible apply keeps_foldl1
      | with_reducible apply keeps_foldl2 | with_reducible refine keeps_fst (by assumption) ?_
      | with_reducible refine keeps_snd (by assumption) ?_ | fail_if_no_progress with_reducible apply keeps_mk | dsimp only | split

theorem State.aqdDisown_keeps {s : State} (h : Keeps s0 s) :
    ∀ a2 a3, Keeps s0 (State.aqdDisown s a2 a3) := by
  intro a2 a3
  unfold State.aqdDisown
  repeat' first
      | with_reducible assumption | intro _ | with_reducible apply keeps_ite | with_reducible apply keeps_foldl
      | with_reducible apply keeps_foldl1 | with_reducible apply keeps_foldl2 | with_reducible refine keeps_fst (by assumption) ?_
      | with_reducible refine keeps_snd (by assumption) ?_ | fail_if_no_progress with_reducible apply keeps_mk

theorem State.cascadeFetchLost_keeps {s : State} (h : Keeps s0 s) :
    ∀ a2 a3 a4, Keeps s0 (State.cascadeFetchLost s a2 a3 a4) := by
  intro a2 a3 a4
  unfold State.cascadeFetchLost
  repeat' first
      | with_reducible assumption | intro _ | with_reducible apply keeps_ite | with_reducible apply State.bump_keeps
      | with_reducible apply State.free_keeps

theorem State.cascadeDropFetch_keeps {s : State} (h : Keeps s0 s) :
    ∀ a2 a3, Keeps s0 (State.cascadeDropFetch s a2 a3) := by
  intro a2 a3
  unfold State.cascadeDropFetch
  repeat' first
      | with_reducible assumption | intro _ | with_reducible apply keeps_ite | with_reducible apply State.setCascade_keeps
      | with_reducible apply State.aqdDisown_keeps | with_reducible apply State.cascadeFetchLost_keeps | with_reducible apply keeps_foldl
      | with_reducible apply keeps_foldl1 | with_reducible apply keeps_foldl2 | with_reducible refine keeps_fst (by assumption) ?_
      | with_reducible refine keeps_snd (by assumption) ?_ | fail_if_no_progress with_reducible apply keeps_mk | dsimp only | split

theorem State.leaveSem_keeps {s : State} (h : Keeps s0 s) :
    ∀ a2 a3, Keeps s0 (State.leaveSem s a2 a3) := by
  intro a2 a3
  unfold State.leaveSem
  repeat' first
      | with_reducible assumption | intro _ | with_reducible apply keeps_ite | with_reducible apply State.setBasin_keeps
      | with_reducible apply keeps_each

theorem State.leave_keeps {s : State} (h : Keeps s0 s) :
    ∀ a2, Keeps s0 (State.leave s a2) := by
  intro a2
  unfold State.leave
  repeat' first
      | with_reducible assumption | intro _ | with_reducible apply keeps_ite | with_reducible apply State.dropCmd_keeps
      | with_reducible apply State.rillDrained_keeps | with_reducible apply State.rillDropFetch_keeps
      | with_reducible apply State.cascadeDropFetch_keeps | with_reducible apply State.leaveSem_keeps | with_reducible apply keeps_foldl
      | with_reducible apply keeps_foldl1 | with_reducible apply keeps_foldl2 | with_reducible refine keeps_fst (by assumption) ?_
      | with_reducible refine keeps_snd (by assumption) ?_ | fail_if_no_progress with_reducible apply keeps_mk | dsimp only | split

theorem State.sideWrite_keeps {s : State} (h : Keeps s0 s) :
    ∀ a2 a3 a4, Keeps s0 (State.sideWrite s a2 a3 a4).1 := by
  intro a2 a3 a4
  unfold State.sideWrite
  repeat' first
      | with_reducible assumption | intro _ | with_reducible apply keeps_ite | with_reducible apply keeps_each
      | with_reducible apply State.cWrite_keeps | with_reducible apply State.pWrite_keeps | with_reducible apply State.devWrite_keeps
      | with_reducible apply State.hostWrite_keeps | with_reducible apply keeps_foldl | with_reducible apply keeps_foldl1
      | with_reducible apply keeps_foldl2 | with_reducible refine keeps_fst (by assumption) ?_
      | with_reducible refine keeps_snd (by assumption) ?_ | fail_if_no_progress with_reducible apply keeps_mk | dsimp only | split

theorem State.sideFree_keeps {s : State} (h : Keeps s0 s) :
    ∀ a2 a3 a4, Keeps s0 (State.sideFree s a2 a3 a4) := by
  intro a2 a3 a4
  unfold State.sideFree
  repeat' first
      | with_reducible assumption | intro _ | with_reducible apply keeps_ite | with_reducible apply State.cFree_keeps
      | with_reducible apply State.pFree_keeps | with_reducible apply State.devForget_keeps | with_reducible apply State.hostFree_keeps
      | with_reducible apply keeps_foldl | with_reducible apply keeps_foldl1 | with_reducible apply keeps_foldl2
      | with_reducible refine keeps_fst (by assumption) ?_ | with_reducible refine keeps_snd (by assumption) ?_
      | fail_if_no_progress with_reducible apply keeps_mk | dsimp only | split

theorem State.copyLand_keeps {s : State} (h : Keeps s0 s) :
    ∀ a2 a3, Keeps s0 (State.copyLand s a2 a3).1 := by
  intro a2 a3
  unfold State.copyLand
  repeat' first
      | with_reducible assumption | intro _ | with_reducible apply keeps_ite | with_reducible apply State.doWrites_keeps
      | with_reducible apply State.sideWrite_keeps | with_reducible apply State.sideFree_keeps | with_reducible apply keeps_foldl
      | with_reducible apply keeps_foldl1 | with_reducible apply keeps_foldl2 | with_reducible refine keeps_fst (by assumption) ?_
      | with_reducible refine keeps_snd (by assumption) ?_ | fail_if_no_progress with_reducible apply keeps_mk | dsimp only | split

theorem State.copyStopped_keeps {s : State} (h : Keeps s0 s) :
    ∀ a2, Keeps s0 (State.copyStopped s a2).1 := by
  intro a2
  unfold State.copyStopped
  repeat' first
      | with_reducible assumption | intro _ | with_reducible apply keeps_ite | with_reducible apply State.free_keeps
      | with_reducible apply State.copyLand_keeps | with_reducible apply keeps_foldl | with_reducible apply keeps_foldl1
      | with_reducible apply keeps_foldl2 | with_reducible refine keeps_fst (by assumption) ?_
      | with_reducible refine keeps_snd (by assumption) ?_ | fail_if_no_progress with_reducible apply keeps_mk | dsimp only | split

theorem State.chargeBytes_keeps {s : State} (h : Keeps s0 s) :
    ∀ a2 a3 a4 a5 a6, Keeps s0 (State.chargeBytes s a2 a3 a4 a5 a6) := by
  intro a2 a3 a4 a5 a6
  unfold State.chargeBytes
  repeat' first
      | with_reducible assumption | intro _ | with_reducible apply keeps_ite | with_reducible apply State.bump_keeps

theorem State.chargeCmd_keeps {s : State} (h : Keeps s0 s) :
    ∀ a2, Keeps s0 (State.chargeCmd s a2) := by
  intro a2
  unfold State.chargeCmd
  repeat' first
      | with_reducible assumption | intro _ | with_reducible apply keeps_ite | with_reducible apply State.bump_keeps
      | with_reducible apply State.chargeBytes_keeps | with_reducible apply keeps_foldl | with_reducible apply keeps_foldl1
      | with_reducible apply keeps_foldl2 | with_reducible refine keeps_fst (by assumption) ?_
      | with_reducible refine keeps_snd (by assumption) ?_ | fail_if_no_progress with_reducible apply keeps_mk | dsimp only | split

theorem State.chargeSwitch_keeps {s : State} (h : Keeps s0 s) :
    ∀ a2 a3, Keeps s0 (State.chargeSwitch s a2 a3) := by
  intro a2 a3
  unfold State.chargeSwitch
  repeat' first
      | with_reducible assumption | intro _ | with_reducible apply keeps_ite | with_reducible apply State.bump_keeps

theorem State.replyWrite_keeps {s : State} (h : Keeps s0 s) :
    ∀ a2 a3, Keeps s0 (State.replyWrite s a2 a3) := by
  intro a2 a3
  unfold State.replyWrite
  repeat' first
      | with_reducible assumption | intro _ | with_reducible apply keeps_ite | with_reducible apply State.wr_keeps
      | with_reducible apply State.setRing_keeps | with_reducible apply State.hostWrite_keeps

theorem State.flushHeld_keeps {s : State} (h : Keeps s0 s) : ∀ n r, Keeps s0 (State.flushHeld n s r) := by
  intro n
  induction n generalizing s with
  | zero => exact fun _ => h
  | succ n ih =>
  intro r
  unfold State.flushHeld
  repeat' first
      | with_reducible assumption | intro _ | with_reducible apply keeps_ite | with_reducible apply ih
      | with_reducible apply State.setRing_keeps | with_reducible apply State.replyWrite_keeps
      | with_reducible refine keeps_fst (by assumption) ?_ | with_reducible refine keeps_snd (by assumption) ?_
      | fail_if_no_progress with_reducible apply keeps_mk | dsimp only | split

theorem State.showStall_keeps {s : State} (h : Keeps s0 s) :
    ∀ a2, Keeps s0 (State.showStall s a2) := by
  intro a2
  unfold State.showStall
  repeat' first
      | with_reducible assumption | intro _ | with_reducible apply keeps_ite | with_reducible apply State.wr_keeps

theorem State.reply_keeps {s : State} (h : Keeps s0 s) :
    ∀ a2 a3, Keeps s0 (State.reply s a2 a3) := by
  intro a2 a3
  unfold State.reply
  repeat' first
      | with_reducible assumption | intro _ | with_reducible apply keeps_ite | with_reducible apply State.setRing_keeps
      | with_reducible apply State.replyWrite_keeps | with_reducible apply State.showStall_keeps

theorem State.haltRing_keeps {s : State} (h : Keeps s0 s) :
    ∀ a2 a3, Keeps s0 (State.haltRing s a2 a3) := by
  intro a2 a3
  unfold State.haltRing
  repeat' first
      | with_reducible assumption | intro _ | with_reducible apply keeps_ite | with_reducible apply State.wr_keeps

theorem State.replyCmd_keeps {s : State} (h : Keeps s0 s) :
    ∀ a2 a3, Keeps s0 (State.replyCmd s a2 a3) := by
  intro a2 a3
  unfold State.replyCmd
  repeat' first
      | with_reducible assumption | intro _ | with_reducible apply keeps_ite | with_reducible apply keeps_setReg
      | with_reducible apply State.bump_keeps | with_reducible apply State.reply_keeps | with_reducible apply State.haltRing_keeps

theorem State.issuedEnd_keeps {s : State} (h : Keeps s0 s) :
    ∀ a2 a3, Keeps s0 (State.issuedEnd s a2 a3) := by
  intro a2 a3
  unfold State.issuedEnd
  repeat' first
      | with_reducible assumption | intro _ | with_reducible apply keeps_ite | with_reducible apply State.wr_keeps
      | with_reducible apply State.semAdd_keeps | with_reducible apply keeps_foldl | with_reducible apply keeps_foldl1
      | with_reducible apply keeps_foldl2 | with_reducible refine keeps_fst (by assumption) ?_
      | with_reducible refine keeps_snd (by assumption) ?_ | fail_if_no_progress with_reducible apply keeps_mk | dsimp only | split

theorem State.finishBase_keeps {s : State} (h : Keeps s0 s) :
    ∀ a2 a3, Keeps s0 (State.finishBase s a2 a3) := by
  intro a2 a3
  unfold State.finishBase
  repeat' first
      | with_reducible assumption | intro _ | with_reducible apply keeps_ite | with_reducible apply keeps_each
      | with_reducible apply State.endSpans_keeps | with_reducible apply State.leave_keeps | with_reducible apply State.chargeCmd_keeps
      | with_reducible apply State.replyCmd_keeps | with_reducible apply State.issuedEnd_keeps

theorem State.setShadow_keeps {s : State} (h : Keeps s0 s) :
    ∀ a2 a3, Keeps s0 (State.setShadow s a2 a3) := by
  intro a2 a3
  unfold State.setShadow
  repeat' first
      | with_reducible assumption | intro _ | with_reducible apply keeps_ite | with_reducible apply keeps_foldl
      | with_reducible apply keeps_foldl1 | with_reducible apply keeps_foldl2 | with_reducible refine keeps_fst (by assumption) ?_
      | with_reducible refine keeps_snd (by assumption) ?_ | fail_if_no_progress with_reducible apply keeps_mk

theorem State.endShadow_keeps {s : State} (h : Keeps s0 s) :
    ∀ a2 a3, Keeps s0 (State.endShadow s a2 a3) := by
  intro a2 a3
  unfold State.endShadow
  repeat' first
      | with_reducible assumption | intro _ | with_reducible apply keeps_ite | with_reducible apply State.wr_keeps
      | with_reducible apply State.finishBase_keeps | with_reducible apply keeps_foldl | with_reducible apply keeps_foldl1
      | with_reducible apply keeps_foldl2 | with_reducible refine keeps_fst (by assumption) ?_
      | with_reducible refine keeps_snd (by assumption) ?_ | fail_if_no_progress with_reducible apply keeps_mk | dsimp only | split

theorem State.exportPump_keeps {s : State} (h : Keeps s0 s) :
    ∀ a2, Keeps s0 (State.exportPump s a2) := by
  intro a2
  unfold State.exportPump
  repeat' first
      | with_reducible assumption | intro _ | with_reducible apply keeps_ite | with_reducible apply State.push_keeps
      | with_reducible apply State.dropWaiting_keeps | with_reducible apply State.endShadow_keeps | with_reducible apply keeps_foldl
      | with_reducible apply keeps_foldl1 | with_reducible apply keeps_foldl2 | with_reducible refine keeps_fst (by assumption) ?_
      | with_reducible refine keeps_snd (by assumption) ?_ | fail_if_no_progress with_reducible apply keeps_mk | dsimp only | split

theorem State.endMismatch_keeps {s : State} (h : Keeps s0 s) :
    ∀ a2 a3, Keeps s0 (State.endMismatch s a2 a3) := by
  intro a2 a3
  unfold State.endMismatch
  repeat' first
      | with_reducible assumption | intro _ | with_reducible apply keeps_ite | with_reducible apply State.setSliceSt_keeps
      | with_reducible apply State.endShadow_keeps | with_reducible apply keeps_foldl | with_reducible apply keeps_foldl1
      | with_reducible apply keeps_foldl2 | with_reducible refine keeps_fst (by assumption) ?_
      | with_reducible refine keeps_snd (by assumption) ?_ | fail_if_no_progress with_reducible apply keeps_mk | dsimp only | split

theorem State.recordMismatch_keeps {s : State} (h : Keeps s0 s) :
    ∀ a2 a3 a4, Keeps s0 (State.recordMismatch s a2 a3 a4) := by
  intro a2 a3 a4
  unfold State.recordMismatch
  repeat' first
      | with_reducible assumption | intro _ | with_reducible apply keeps_ite | with_reducible apply keeps_setReg

theorem State.shadowMeet_keeps {s : State} (h : Keeps s0 s) :
    ∀ a2 a3 a4 a5, Keeps s0 (State.shadowMeet s a2 a3 a4 a5) := by
  intro a2 a3 a4 a5
  unfold State.shadowMeet
  repeat' first
      | with_reducible assumption | intro _ | with_reducible apply keeps_ite | with_reducible apply State.bump_keeps
      | with_reducible apply State.setShadow_keeps | with_reducible apply State.endMismatch_keeps
      | with_reducible apply State.recordMismatch_keeps

end Sys2Proof.Machine
end

