-- ==== Sys2Proof/Laws/Keeps2.lean ====
section
/-! SUPPORT. What every operation keeps, part 2: the queue, and the order of registers and memories. -/
namespace Sys2Proof.Machine

variable {s0 : State}

theorem State.shadowUnmatched_keeps {s : State} (h : Keeps s0 s) :
    ∀ a2 a3 a4, Keeps s0 (State.shadowUnmatched s a2 a3 a4) := by
  intro a2 a3 a4
  unfold State.shadowUnmatched
  repeat' first
      | with_reducible assumption | intro _ | with_reducible apply keeps_ite | with_reducible apply State.wr_keeps
      | with_reducible apply State.bump_keeps | with_reducible apply State.setShadow_keeps

theorem State.shadowNote_keeps {s : State} (h : Keeps s0 s) :
    ∀ a2 a3 a4 a5, Keeps s0 (State.shadowNote s a2 a3 a4 a5) := by
  intro a2 a3 a4 a5
  unfold State.shadowNote
  repeat' first
      | with_reducible assumption | intro _ | with_reducible apply keeps_ite | with_reducible apply State.wr_keeps
      | with_reducible apply State.setShadow_keeps | with_reducible apply State.exportPump_keeps
      | with_reducible apply State.recordMismatch_keeps | with_reducible apply State.shadowMeet_keeps
      | with_reducible apply State.shadowUnmatched_keeps | with_reducible apply keeps_foldl | with_reducible apply keeps_foldl1
      | with_reducible apply keeps_foldl2 | with_reducible refine keeps_fst (by assumption) ?_
      | with_reducible refine keeps_snd (by assumption) ?_ | fail_if_no_progress with_reducible apply keeps_mk | dsimp only | split

theorem State.shadowRecheck_keeps {s : State} (h : Keeps s0 s) :
    ∀ a2, Keeps s0 (State.shadowRecheck s a2) := by
  intro a2
  unfold State.shadowRecheck
  repeat' first
      | with_reducible assumption | intro _ | with_reducible apply keeps_ite | with_reducible apply State.wr_keeps
      | with_reducible apply keeps_each | with_reducible apply State.setShadow_keeps | with_reducible apply State.shadowMeet_keeps
      | with_reducible apply keeps_foldl | with_reducible apply keeps_foldl1 | with_reducible apply keeps_foldl2
      | with_reducible refine keeps_fst (by assumption) ?_ | with_reducible refine keeps_snd (by assumption) ?_
      | fail_if_no_progress with_reducible apply keeps_mk | dsimp only | split

theorem State.arrivalSeen_keeps {s : State} (h : Keeps s0 s) :
    ∀ a2, Keeps s0 (State.arrivalSeen s a2) := by
  intro a2
  unfold State.arrivalSeen
  repeat' first
      | with_reducible assumption | intro _ | with_reducible apply keeps_ite | with_reducible apply keeps_each
      | with_reducible apply State.setShadow_keeps | with_reducible apply State.shadowRecheck_keeps | with_reducible apply keeps_foldl
      | with_reducible apply keeps_foldl1 | with_reducible apply keeps_foldl2 | with_reducible refine keeps_fst (by assumption) ?_
      | with_reducible refine keeps_snd (by assumption) ?_ | fail_if_no_progress with_reducible apply keeps_mk | dsimp only | split

theorem State.stepAdvance_keeps {s : State} (h : Keeps s0 s) :
    ∀ a2 a3, Keeps s0 (State.stepAdvance s a2 a3) := by
  intro a2 a3
  unfold State.stepAdvance
  repeat' first
      | with_reducible assumption | intro _ | with_reducible apply keeps_ite | with_reducible apply keeps_setReg
      | with_reducible apply State.wr_keeps | with_reducible apply State.setSliceSt_keeps | with_reducible apply State.setShadow_keeps
      | with_reducible apply State.endShadow_keeps | with_reducible apply keeps_foldl | with_reducible apply keeps_foldl1
      | with_reducible apply keeps_foldl2 | with_reducible refine keeps_fst (by assumption) ?_
      | with_reducible refine keeps_snd (by assumption) ?_ | fail_if_no_progress with_reducible apply keeps_mk | dsimp only | split

theorem State.finishCore_keeps {s : State} (h : Keeps s0 s) :
    ∀ a2 a3, Keeps s0 (State.finishCore s a2 a3) := by
  intro a2 a3
  unfold State.finishCore
  repeat' first
      | with_reducible assumption | intro _ | with_reducible apply keeps_ite | with_reducible apply State.finishBase_keeps
      | with_reducible apply State.shadowNote_keeps | with_reducible apply State.stepAdvance_keeps | with_reducible apply keeps_foldl
      | with_reducible apply keeps_foldl1 | with_reducible apply keeps_foldl2 | with_reducible refine keeps_fst (by assumption) ?_
      | with_reducible refine keeps_snd (by assumption) ?_ | fail_if_no_progress with_reducible apply keeps_mk | dsimp only | split

theorem State.chargeCore_keeps {s : State} (h : Keeps s0 s) :
    ∀ a2 a3 a4, Keeps s0 (State.chargeCore s a2 a3 a4) := by
  intro a2 a3 a4
  unfold State.chargeCore
  repeat' first
      | with_reducible assumption | intro _ | with_reducible apply keeps_ite | with_reducible apply State.modCmd_keeps
      | with_reducible apply keeps_foldl | with_reducible apply keeps_foldl1 | with_reducible apply keeps_foldl2
      | with_reducible refine keeps_fst (by assumption) ?_ | with_reducible refine keeps_snd (by assumption) ?_
      | fail_if_no_progress with_reducible apply keeps_mk | dsimp only | split

theorem State.writeBack_keeps {s : State} (h : Keeps s0 s) :
    ∀ a2, Keeps s0 (State.writeBack s a2) := by
  intro a2
  unfold State.writeBack
  repeat' first
      | with_reducible assumption | intro _ | with_reducible apply keeps_ite | with_reducible apply State.setCore_keeps
      | with_reducible apply keeps_each | with_reducible apply State.devWrite_keeps | with_reducible apply State.chargeCore_keeps

theorem State.coreIdle_keeps {s : State} (h : Keeps s0 s) :
    ∀ a2, Keeps s0 (State.coreIdle s a2) := by
  intro a2
  unfold State.coreIdle
  repeat' first
      | with_reducible assumption | intro _ | with_reducible apply keeps_ite | with_reducible apply State.wr_keeps
      | with_reducible apply State.setCore_keeps

theorem State.taskOver_keeps {s : State} {k4 : State → Cmd → ℕ → State} (h : Keeps s0 s) (hk4 : ∀ x0 x1 x2, Keeps s0 x0 → Keeps s0 (k4 x0 x1 x2)) :
    ∀ a2 a3, Keeps s0 (State.taskOver s a2 a3 k4) := by
  intro a2 a3
  unfold State.taskOver
  repeat' first
      | with_reducible assumption | intro _ | with_reducible apply keeps_ite | with_reducible apply State.setBasin_keeps
      | with_reducible apply keeps_each | with_reducible apply State.writeBack_keeps | with_reducible apply State.coreIdle_keeps
      | with_reducible apply hk4 | with_reducible apply keeps_foldl | with_reducible apply keeps_foldl1
      | with_reducible apply keeps_foldl2 | with_reducible refine keeps_fst (by assumption) ?_
      | with_reducible refine keeps_snd (by assumption) ?_ | fail_if_no_progress with_reducible apply keeps_mk | dsimp only | split

theorem State.freezeWork_keeps {s : State} (h : Keeps s0 s) :
    ∀ a2, Keeps s0 (State.freezeWork s a2) := by
  intro a2
  unfold State.freezeWork
  repeat' first
      | with_reducible assumption | intro _ | with_reducible apply keeps_ite | with_reducible apply keeps_each
      | with_reducible apply State.copyStopped_keeps | with_reducible apply State.finishCore_keeps
      | with_reducible apply State.taskOver_keeps | with_reducible apply keeps_foldl | with_reducible apply keeps_foldl1
      | with_reducible apply keeps_foldl2 | with_reducible refine keeps_fst (by assumption) ?_
      | with_reducible refine keeps_snd (by assumption) ?_ | fail_if_no_progress with_reducible apply keeps_mk

theorem State.cancelLaunch_keeps {s : State} (h : Keeps s0 s) :
    ∀ a2, Keeps s0 (State.cancelLaunch s a2) := by
  intro a2
  unfold State.cancelLaunch
  repeat' first
      | with_reducible assumption | intro _ | with_reducible apply keeps_ite | with_reducible apply keeps_setReg
      | with_reducible apply State.wr_keeps | with_reducible apply State.raise_keeps | with_reducible apply keeps_each
      | with_reducible apply keeps_foldl | with_reducible apply keeps_foldl1 | with_reducible apply keeps_foldl2
      | with_reducible refine keeps_fst (by assumption) ?_ | with_reducible refine keeps_snd (by assumption) ?_
      | fail_if_no_progress with_reducible apply keeps_mk | dsimp only | split

theorem State.freeze_keeps {s : State} (h : Keeps s0 s) :
    ∀ a2, Keeps s0 (State.freeze s a2) := by
  intro a2
  unfold State.freeze
  repeat' first
      | with_reducible assumption | intro _ | with_reducible apply keeps_ite | with_reducible apply State.reportLow_keeps
      | with_reducible apply keeps_each | with_reducible apply State.setSliceState_keeps | with_reducible apply State.haltRing_keeps
      | with_reducible apply State.freezeWork_keeps | with_reducible apply State.cancelLaunch_keeps

theorem State.violation_keeps {s : State} (h : Keeps s0 s) :
    ∀ a2 a3 a4 a5, Keeps s0 (State.violation s a2 a3 a4 a5) := by
  intro a2 a3 a4 a5
  unfold State.violation
  repeat' first
      | with_reducible assumption | intro _ | with_reducible apply keeps_ite | with_reducible apply keeps_setReg
      | with_reducible apply State.wr_keeps | with_reducible apply State.bumpSat_keeps | with_reducible apply State.freeze_keeps

theorem State.finish_keeps {s : State} (h : Keeps s0 s) :
    ∀ a2 a3, Keeps s0 (State.finish s a2 a3) := by
  intro a2 a3
  unfold State.finish
  repeat' first
      | with_reducible assumption | intro _ | with_reducible apply keeps_ite | with_reducible apply State.free_keeps
      | with_reducible apply State.finishCore_keeps | with_reducible apply State.violation_keeps | with_reducible apply keeps_foldl
      | with_reducible apply keeps_foldl1 | with_reducible apply keeps_foldl2 | with_reducible refine keeps_fst (by assumption) ?_
      | with_reducible refine keeps_snd (by assumption) ?_ | fail_if_no_progress with_reducible apply keeps_mk | dsimp only | split

theorem State.taskEnd_keeps {s : State} (h : Keeps s0 s) :
    ∀ a2 a3, Keeps s0 (State.taskEnd s a2 a3) := by
  intro a2 a3
  unfold State.taskEnd
  repeat' first
      | with_reducible assumption | intro _ | with_reducible apply keeps_ite | with_reducible apply State.taskOver_keeps
      | with_reducible apply State.finish_keeps

theorem State.beginCmd_keeps {s : State} (h : Keeps s0 s) :
    ∀ a2, Keeps s0 (State.beginCmd s a2) := by
  intro a2
  unfold State.beginCmd
  repeat' first
      | with_reducible assumption | intro _ | with_reducible apply keeps_ite | with_reducible apply State.modCmd_keeps

theorem State.refusal_keeps {s : State} (h : Keeps s0 s) :
    ∀ a2 a3 a4, Keeps s0 (State.refusal s a2 a3 a4) := by
  intro a2 a3 a4
  unfold State.refusal
  repeat' first
      | with_reducible assumption | intro _ | with_reducible apply keeps_ite | with_reducible apply State.reportLow_keeps
      | with_reducible apply State.info_keeps | with_reducible apply State.violation_keeps

theorem State.finishNow_keeps {s : State} (h : Keeps s0 s) :
    ∀ a2 a3, Keeps s0 (State.finishNow s a2 a3) := by
  intro a2 a3
  unfold State.finishNow
  repeat' first
      | with_reducible assumption | intro _ | with_reducible apply keeps_ite | with_reducible apply State.finish_keeps
      | with_reducible apply State.beginCmd_keeps | with_reducible apply keeps_foldl | with_reducible apply keeps_foldl1
      | with_reducible apply keeps_foldl2 | with_reducible refine keeps_fst (by assumption) ?_
      | with_reducible refine keeps_snd (by assumption) ?_ | fail_if_no_progress with_reducible apply keeps_mk | dsimp only | split

theorem State.homeReply_keeps {s : State} (h : Keeps s0 s) :
    ∀ a2 a3 a4 a5 a6, Keeps s0 (State.homeReply s a2 a3 a4 a5 a6) := by
  intro a2 a3 a4 a5 a6
  unfold State.homeReply
  repeat' first
      | with_reducible assumption | intro _ | with_reducible apply keeps_ite | with_reducible apply State.free_keeps
      | with_reducible apply State.portTx_keeps | with_reducible apply keeps_foldl | with_reducible apply keeps_foldl1
      | with_reducible apply keeps_foldl2 | with_reducible refine keeps_fst (by assumption) ?_
      | with_reducible refine keeps_snd (by assumption) ?_ | fail_if_no_progress with_reducible apply keeps_mk | dsimp only | split

theorem State.homeRefuse_keeps {s : State} (h : Keeps s0 s) :
    ∀ a2 a3, Keeps s0 (State.homeRefuse s a2 a3) := by
  intro a2 a3
  unfold State.homeRefuse
  repeat' first
      | with_reducible assumption | intro _ | with_reducible apply keeps_ite | with_reducible apply State.wr_keeps
      | with_reducible apply State.bump_keeps | with_reducible apply State.homeReply_keeps

theorem State.homeDrop_keeps {s : State} (h : Keeps s0 s) :
    Keeps s0 (State.homeDrop s) := by
  unfold State.homeDrop
  repeat' first
      | with_reducible assumption | intro _ | with_reducible apply keeps_ite | with_reducible apply State.bump_keeps

theorem State.lineDrop_keeps {s : State} (h : Keeps s0 s) :
    ∀ a2 a3, Keeps s0 (State.lineDrop s a2 a3) := by
  intro a2 a3
  unfold State.lineDrop
  repeat' first
      | with_reducible assumption | intro _ | with_reducible apply keeps_ite | with_reducible apply keeps_foldl
      | with_reducible apply keeps_foldl1 | with_reducible apply keeps_foldl2 | with_reducible refine keeps_fst (by assumption) ?_
      | with_reducible refine keeps_snd (by assumption) ?_ | fail_if_no_progress with_reducible apply keeps_mk

theorem State.linePush_keeps {s : State} (h : Keeps s0 s) :
    ∀ a2, Keeps s0 (State.linePush s a2) := by
  intro a2
  unfold State.linePush
  repeat' first
      | with_reducible assumption | intro _ | with_reducible apply keeps_ite | with_reducible apply State.bump_keeps
      | with_reducible apply State.nondet_keeps | with_reducible apply keeps_foldl | with_reducible apply keeps_foldl1
      | with_reducible apply keeps_foldl2 | with_reducible refine keeps_fst (by assumption) ?_
      | with_reducible refine keeps_snd (by assumption) ?_ | fail_if_no_progress with_reducible apply keeps_mk

theorem State.lineRead_keeps {s : State} (h : Keeps s0 s) :
    ∀ a2 a3, Keeps s0 (State.lineRead s a2 a3) := by
  intro a2 a3
  unfold State.lineRead
  repeat' first
      | with_reducible assumption | intro _ | with_reducible apply keeps_ite | with_reducible apply State.nondet_keeps
      | with_reducible apply State.homeReply_keeps | with_reducible apply State.lineDrop_keeps

theorem State.serveReads_keeps {s : State} (h : Keeps s0 s) : ∀ n line poison, Keeps s0 (State.serveReads n s line poison) := by
  intro n
  induction n generalizing s with
  | zero => exact fun _ _ => h
  | succ n ih =>
  intro line poison
  unfold State.serveReads
  repeat' first
      | with_reducible assumption | intro _ | with_reducible apply keeps_ite | with_reducible apply ih
      | with_reducible apply State.lineRead_keeps | with_reducible apply State.homeDrop_keeps | with_reducible apply State.lineDrop_keeps
      | with_reducible refine keeps_fst (by assumption) ?_ | with_reducible refine keeps_snd (by assumption) ?_
      | fail_if_no_progress with_reducible apply keeps_mk | dsimp only | split

theorem State.settleTouch_keeps {s : State} (h : Keeps s0 s) :
    ∀ a2 a3, Keeps s0 (State.settleTouch s a2 a3) := by
  intro a2 a3
  unfold State.settleTouch
  repeat' first
      | with_reducible assumption | intro _ | with_reducible apply keeps_ite | with_reducible apply State.devWrite_keeps
      | with_reducible apply keeps_foldl | with_reducible apply keeps_foldl1 | with_reducible apply keeps_foldl2
      | with_reducible refine keeps_fst (by assumption) ?_ | with_reducible refine keeps_snd (by assumption) ?_
      | fail_if_no_progress with_reducible apply keeps_mk

theorem State.setSrcSt_keeps {s : State} (h : Keeps s0 s) :
    ∀ a2 a3, Keeps s0 (State.setSrcSt s a2 a3) := by
  intro a2 a3
  unfold State.setSrcSt
  repeat' first
      | with_reducible assumption | intro _ | with_reducible apply keeps_ite | with_reducible apply keeps_each
      | with_reducible apply State.settleTouch_keeps | with_reducible apply keeps_foldl | with_reducible apply keeps_foldl1
      | with_reducible apply keeps_foldl2 | with_reducible refine keeps_fst (by assumption) ?_
      | with_reducible refine keeps_snd (by assumption) ?_ | fail_if_no_progress with_reducible apply keeps_mk

theorem State.bumpCounter_keeps {s : State} (h : Keeps s0 s) :
    ∀ a2 a3, Keeps s0 (State.bumpCounter s a2 a3) := by
  intro a2 a3
  unfold State.bumpCounter
  repeat' first
      | with_reducible assumption | intro _ | with_reducible apply keeps_ite | with_reducible apply keeps_setReg
      | with_reducible apply State.arrivalSeen_keeps | with_reducible apply keeps_foldl | with_reducible apply keeps_foldl1
      | with_reducible apply keeps_foldl2 | with_reducible refine keeps_fst (by assumption) ?_
      | with_reducible refine keeps_snd (by assumption) ?_ | fail_if_no_progress with_reducible apply keeps_mk

theorem State.aqdFresh_keeps {s : State} (h : Keeps s0 s) :
    ∀ a2 a3, Keeps s0 (State.aqdFresh s a2 a3) := by
  intro a2 a3
  unfold State.aqdFresh
  repeat' first
      | with_reducible assumption | intro _ | with_reducible apply keeps_ite | with_reducible apply State.homeReply_keeps
      | with_reducible apply State.linePush_keeps | with_reducible apply State.setSrcSt_keeps
      | with_reducible apply State.bumpCounter_keeps | with_reducible apply keeps_foldl | with_reducible apply keeps_foldl1
      | with_reducible apply keeps_foldl2 | with_reducible refine keeps_fst (by assumption) ?_
      | with_reducible refine keeps_snd (by assumption) ?_ | fail_if_no_progress with_reducible apply keeps_mk

theorem State.aqdAdmit_keeps {s : State} (h : Keeps s0 s) :
    ∀ a2, Keeps s0 (State.aqdAdmit s a2) := by
  intro a2
  unfold State.aqdAdmit
  repeat' first
      | with_reducible assumption | intro _ | with_reducible apply keeps_ite | with_reducible apply State.bump_keeps
      | with_reducible apply State.homeReply_keeps | with_reducible apply State.homeRefuse_keeps
      | with_reducible apply State.homeDrop_keeps | with_reducible apply State.setSrcSt_keeps | with_reducible apply State.aqdFresh_keeps
      | with_reducible apply keeps_foldl | with_reducible apply keeps_foldl1 | with_reducible apply keeps_foldl2
      | with_reducible refine keeps_fst (by assumption) ?_ | with_reducible refine keeps_snd (by assumption) ?_
      | fail_if_no_progress with_reducible apply keeps_mk | dsimp only | split

theorem State.aqdReadmit_keeps {s : State} (h : Keeps s0 s) :
    ∀ a2, Keeps s0 (State.aqdReadmit s a2) := by
  intro a2
  unfold State.aqdReadmit
  repeat' first
      | with_reducible assumption | intro _ | with_reducible apply keeps_ite | with_reducible apply keeps_each
      | with_reducible apply State.aqdAdmit_keeps | with_reducible apply keeps_foldl | with_reducible apply keeps_foldl1
      | with_reducible apply keeps_foldl2 | with_reducible refine keeps_fst (by assumption) ?_
      | with_reducible refine keeps_snd (by assumption) ?_ | fail_if_no_progress with_reducible apply keeps_mk

theorem State.atomicApply_keeps {s : State} (h : Keeps s0 s) :
    ∀ a2 a3, Keeps s0 (State.atomicApply s a2 a3) := by
  intro a2 a3
  unfold State.atomicApply
  repeat' first
      | with_reducible assumption | intro _ | with_reducible apply keeps_ite | with_reducible apply State.devWrite_keeps
      | with_reducible apply State.homeReply_keeps | with_reducible apply State.setSrcSt_keeps

theorem State.writeApply_keeps {s : State} (h : Keeps s0 s) :
    ∀ a2, Keeps s0 (State.writeApply s a2) := by
  intro a2
  unfold State.writeApply
  repeat' first
      | with_reducible assumption | intro _ | with_reducible apply keeps_ite | with_reducible apply keeps_each
      | with_reducible apply State.devWrite_keeps | with_reducible apply State.homeReply_keeps | with_reducible apply State.lineDrop_keeps

theorem State.homeExpire_keeps {s : State} (h : Keeps s0 s) :
    ∀ a2, Keeps s0 (State.homeExpire s a2) := by
  intro a2
  unfold State.homeExpire
  repeat' first
      | with_reducible assumption | intro _ | with_reducible apply keeps_ite | with_reducible apply State.homeDrop_keeps
      | with_reducible apply keeps_foldl | with_reducible apply keeps_foldl1 | with_reducible apply keeps_foldl2
      | with_reducible refine keeps_fst (by assumption) ?_ | with_reducible refine keeps_snd (by assumption) ?_
      | fail_if_no_progress with_reducible apply keeps_mk

theorem State.groupApply_keeps {s : State} (h : Keeps s0 s) :
    ∀ a2 a3 a4, Keeps s0 (State.groupApply s a2 a3 a4) := by
  intro a2 a3 a4
  unfold State.groupApply
  repeat' first
      | with_reducible assumption | intro _ | with_reducible apply keeps_ite | with_reducible apply State.bump_keeps
      | with_reducible apply keeps_each | with_reducible apply State.nondet_keeps | with_reducible apply State.lineDrop_keeps
      | with_reducible apply State.aqdReadmit_keeps | with_reducible apply State.atomicApply_keeps

theorem State.lineUpdate_keeps {s : State} (h : Keeps s0 s) :
    ∀ a2 a3, Keeps s0 (State.lineUpdate s a2 a3) := by
  intro a2 a3
  unfold State.lineUpdate
  repeat' first
      | with_reducible assumption | intro _ | with_reducible apply keeps_ite | with_reducible apply State.serveReads_keeps
      | with_reducible apply State.writeApply_keeps | with_reducible apply State.homeExpire_keeps
      | with_reducible apply State.groupApply_keeps | with_reducible apply keeps_foldl | with_reducible apply keeps_foldl1
      | with_reducible apply keeps_foldl2 | with_reducible refine keeps_fst (by assumption) ?_
      | with_reducible refine keeps_snd (by assumption) ?_ | fail_if_no_progress with_reducible apply keeps_mk | dsimp only | split

theorem State.lineEnter_keeps {s : State} (h : Keeps s0 s) :
    ∀ a2 a3, Keeps s0 (State.lineEnter s a2 a3) := by
  intro a2 a3
  unfold State.lineEnter
  repeat' first
      | with_reducible assumption | intro _ | with_reducible apply keeps_ite | with_reducible apply keeps_each
      | with_reducible apply State.linePush_keeps | with_reducible apply State.serveReads_keeps | with_reducible apply keeps_foldl
      | with_reducible apply keeps_foldl1 | with_reducible apply keeps_foldl2 | with_reducible refine keeps_fst (by assumption) ?_
      | with_reducible refine keeps_snd (by assumption) ?_ | fail_if_no_progress with_reducible apply keeps_mk

theorem State.lineAdmit_keeps {s : State} (h : Keeps s0 s) :
    ∀ a2 a3, Keeps s0 (State.lineAdmit s a2 a3) := by
  intro a2 a3
  unfold State.lineAdmit
  repeat' first
      | with_reducible assumption | intro _ | with_reducible apply keeps_ite | with_reducible apply State.homeReply_keeps
      | with_reducible apply State.homeRefuse_keeps | with_reducible apply State.homeDrop_keeps
      | with_reducible apply State.lineEnter_keeps

theorem State.admitReq_keeps {s : State} (h : Keeps s0 s) :
    ∀ a2 a3, Keeps s0 (State.admitReq s a2 a3) := by
  intro a2 a3
  unfold State.admitReq
  repeat' first
      | with_reducible assumption | intro _ | with_reducible apply keeps_ite | with_reducible apply State.aqdAdmit_keeps
      | with_reducible apply State.lineAdmit_keeps | with_reducible apply keeps_foldl | with_reducible apply keeps_foldl1
      | with_reducible apply keeps_foldl2 | with_reducible refine keeps_fst (by assumption) ?_
      | with_reducible refine keeps_snd (by assumption) ?_ | fail_if_no_progress with_reducible apply keeps_mk | dsimp only | split

theorem State.turns_keeps : ∀ (n : Nat) {s : State} (_ : Keeps s0 s), Keeps s0 (State.turns n s)
  | 0, _, h => h
  | n + 1, s, h => by
    unfold State.turns
    split
    · exact h
    · exact State.turns_keeps n (State.admitReq_keeps (keeps_mk h) _ _)

theorem State.serveInput_keeps {s : State} (h : Keeps s0 s) :
    Keeps s0 (State.serveInput s) := by
  unfold State.serveInput
  repeat' first
      | with_reducible assumption | intro _ | with_reducible apply keeps_ite | with_reducible apply State.turns_keeps

theorem State.inputPut_keeps {s : State} (h : Keeps s0 s) :
    ∀ a2 a3, Keeps s0 (State.inputPut s a2 a3) := by
  intro a2 a3
  unfold State.inputPut
  repeat' first
      | with_reducible assumption | intro _ | with_reducible apply keeps_ite | with_reducible apply State.admitReq_keeps
      | with_reducible apply State.serveInput_keeps | with_reducible apply keeps_foldl | with_reducible apply keeps_foldl1
      | with_reducible apply keeps_foldl2 | with_reducible refine keeps_fst (by assumption) ?_
      | with_reducible refine keeps_snd (by assumption) ?_ | fail_if_no_progress with_reducible apply keeps_mk

theorem State.inputExpire_keeps {s : State} (h : Keeps s0 s) :
    ∀ a2, Keeps s0 (State.inputExpire s a2) := by
  intro a2
  unfold State.inputExpire
  repeat' first
      | with_reducible assumption | intro _ | with_reducible apply keeps_ite | with_reducible apply State.homeDrop_keeps
      | with_reducible apply keeps_foldl | with_reducible apply keeps_foldl1 | with_reducible apply keeps_foldl2
      | with_reducible refine keeps_fst (by assumption) ?_ | with_reducible refine keeps_snd (by assumption) ?_
      | fail_if_no_progress with_reducible apply keeps_mk

theorem State.arrive_keeps {s : State} (h : Keeps s0 s) :
    ∀ a2 a3, Keeps s0 (State.arrive s a2 a3) := by
  intro a2 a3
  unfold State.arrive
  repeat' first
      | with_reducible assumption | intro _ | with_reducible apply keeps_ite | with_reducible apply keeps_forSome
      | with_reducible apply State.free_keeps | with_reducible apply State.portRx_keeps | with_reducible apply State.inputPut_keeps
      | with_reducible apply keeps_foldl | with_reducible apply keeps_foldl1 | with_reducible apply keeps_foldl2
      | with_reducible refine keeps_fst (by assumption) ?_ | with_reducible refine keeps_snd (by assumption) ?_
      | fail_if_no_progress with_reducible apply keeps_mk

theorem State.aqdCtrlWrite_keeps {s : State} (h : Keeps s0 s) :
    ∀ a2, Keeps s0 (State.aqdCtrlWrite s a2) := by
  intro a2
  unfold State.aqdCtrlWrite
  repeat' first
      | with_reducible assumption | intro _ | with_reducible apply keeps_ite | with_reducible apply State.wr_keeps
      | with_reducible apply keeps_each | with_reducible apply State.setSrcSt_keeps | with_reducible apply State.aqdReadmit_keeps
      | with_reducible apply keeps_foldl | with_reducible apply keeps_foldl1 | with_reducible apply keeps_foldl2
      | with_reducible refine keeps_fst (by assumption) ?_ | with_reducible refine keeps_snd (by assumption) ?_
      | fail_if_no_progress with_reducible apply keeps_mk

theorem State.arrivalWrite_keeps {s : State} (h : Keeps s0 s) :
    ∀ a2 a3, Keeps s0 (State.arrivalWrite s a2 a3) := by
  intro a2 a3
  unfold State.arrivalWrite
  repeat' first
      | with_reducible assumption | intro _ | with_reducible apply keeps_ite | with_reducible apply keeps_setReg
      | with_reducible apply State.arrivalSeen_keeps

theorem State.laneCounts_keeps {s : State} (h : Keeps s0 s) :
    ∀ a2 a3, Keeps s0 (State.laneCounts s a2 a3) := by
  intro a2 a3
  unfold State.laneCounts
  repeat' first
      | with_reducible assumption | intro _ | with_reducible apply keeps_ite | with_reducible apply State.bump_keeps
      | with_reducible apply State.bumpSat_keeps

theorem State.runList_keeps {s : State} (h : Keeps s0 s) :
    ∀ a2 a3 a4 a5, Keeps s0 (State.runList s a2 a3 a4 a5).1 := by
  intro a2 a3 a4 a5
  unfold State.runList
  repeat' first
      | with_reducible assumption | intro _ | with_reducible apply keeps_ite | with_reducible apply State.bump_keeps
      | with_reducible apply keeps_each | with_reducible apply State.eccReads_keeps | with_reducible apply State.laneCounts_keeps
      | with_reducible apply keeps_foldl | with_reducible apply keeps_foldl1 | with_reducible apply keeps_foldl2
      | with_reducible refine keeps_fst (by assumption) ?_ | with_reducible refine keeps_snd (by assumption) ?_
      | fail_if_no_progress with_reducible apply keeps_mk

theorem State.runEpilogue_keeps {s : State} (h : Keeps s0 s) :
    ∀ a2 a3 a4 a5 a6, Keeps s0 (State.runEpilogue s a2 a3 a4 a5 a6) := by
  intro a2 a3 a4 a5 a6
  unfold State.runEpilogue
  repeat' first
      | with_reducible assumption | intro _ | with_reducible apply keeps_ite | with_reducible apply State.modCmd_keeps
      | with_reducible apply State.raceReads_keeps | with_reducible apply State.runList_keeps

theorem State.ringBell_keeps {s : State} (h : Keeps s0 s) :
    ∀ a2 a3, Keeps s0 (State.ringBell s a2 a3) := by
  intro a2 a3
  unfold State.ringBell
  repeat' first
      | with_reducible assumption | intro _ | with_reducible apply keeps_ite | with_reducible apply State.wr_keeps
      | with_reducible apply State.info_keeps

theorem State.doorbell_keeps {s : State} (h : Keeps s0 s) :
    ∀ a2 a3 a4 a5, Keeps s0 (State.doorbell s a2 a3 a4 a5) := by
  intro a2 a3 a4 a5
  unfold State.doorbell
  repeat' first
      | with_reducible assumption | intro _ | with_reducible apply keeps_ite | with_reducible apply State.info_keeps
      | with_reducible apply State.violation_keeps | with_reducible apply State.ringBell_keeps | with_reducible apply keeps_foldl
      | with_reducible apply keeps_foldl1 | with_reducible apply keeps_foldl2 | with_reducible refine keeps_fst (by assumption) ?_
      | with_reducible refine keeps_snd (by assumption) ?_ | fail_if_no_progress with_reducible apply keeps_mk | dsimp only | split

theorem State.mark_keeps {s : State} (h : Keeps s0 s) :
    ∀ a2 a3 a4, Keeps s0 (State.mark s a2 a3 a4).2 := by
  intro a2 a3 a4
  unfold State.mark
  repeat' first
      | with_reducible assumption | intro _ | with_reducible apply keeps_ite | with_reducible apply State.wr_keeps
      | with_reducible apply keeps_foldl | with_reducible apply keeps_foldl1 | with_reducible apply keeps_foldl2
      | with_reducible refine keeps_fst (by assumption) ?_ | with_reducible refine keeps_snd (by assumption) ?_
      | fail_if_no_progress with_reducible apply keeps_mk | dsimp only | split

theorem State.stampPacket_keeps {s : State} (h : Keeps s0 s) :
    ∀ a2 a3 a4, Keeps s0 (State.stampPacket s a2 a3 a4).2 := by
  intro a2 a3 a4
  unfold State.stampPacket
  repeat' first
      | with_reducible assumption | intro _ | with_reducible apply keeps_ite | with_reducible apply State.setSliceSt_keeps

theorem State.passMarker_keeps {s : State} (h : Keeps s0 s) :
    ∀ a2 a3, Keeps s0 (State.passMarker s a2 a3).2 := by
  intro a2 a3
  unfold State.passMarker
  repeat' first
      | with_reducible assumption | intro _ | with_reducible apply keeps_ite | with_reducible apply State.bump_keeps
      | with_reducible apply State.mark_keeps | with_reducible apply State.stampPacket_keeps | with_reducible apply keeps_foldl
      | with_reducible apply keeps_foldl1 | with_reducible apply keeps_foldl2 | with_reducible refine keeps_fst (by assumption) ?_
      | with_reducible refine keeps_snd (by assumption) ?_ | fail_if_no_progress with_reducible apply keeps_mk | dsimp only | split

theorem State.skipFailed_keeps {s : State} (h : Keeps s0 s) :
    ∀ a2 a3, Keeps s0 (State.skipFailed s a2 a3) := by
  intro a2 a3
  unfold State.skipFailed
  repeat' first
      | with_reducible assumption | intro _ | with_reducible apply keeps_ite | with_reducible apply State.wr_keeps
      | with_reducible apply State.setRing_keeps

theorem State.pastEnd_keeps {s : State} (h : Keeps s0 s) :
    ∀ a2 a3 a4, Keeps s0 (State.pastEnd s a2 a3 a4) := by
  intro a2 a3 a4
  unfold State.pastEnd
  repeat' first
      | with_reducible assumption | intro _ | with_reducible apply keeps_ite | with_reducible apply State.setRing_keeps
      | with_reducible apply State.haltRing_keeps | with_reducible apply State.replyCmd_keeps

theorem State.packetRead_keeps {s : State} (h : Keeps s0 s) :
    ∀ a2, Keeps s0 (State.packetRead s a2) := by
  intro a2
  unfold State.packetRead
  repeat' first
      | with_reducible assumption | intro _ | with_reducible apply keeps_ite | with_reducible apply State.setRing_keeps
      | with_reducible apply State.passMarker_keeps | with_reducible apply State.skipFailed_keeps
      | with_reducible apply State.pastEnd_keeps

theorem State.hostStores_keeps {s : State} (h : Keeps s0 s) :
    ∀ a2, Keeps s0 (State.hostStores s a2) := by
  intro a2
  unfold State.hostStores
  repeat' first
      | with_reducible assumption | intro _ | with_reducible apply keeps_ite | with_reducible apply keeps_each
      | with_reducible apply State.hostWrite_keeps

theorem State.passFailed_keeps {s : State} (h : Keeps s0 s) :
    ∀ a2, Keeps s0 (State.passFailed s a2) := by
  intro a2
  unfold State.passFailed
  repeat' first
      | with_reducible assumption | intro _ | with_reducible apply keeps_ite | with_reducible apply State.skipFailed_keeps
      | with_reducible apply keeps_foldl | with_reducible apply keeps_foldl1 | with_reducible apply keeps_foldl2
      | with_reducible refine keeps_fst (by assumption) ?_ | with_reducible refine keeps_snd (by assumption) ?_
      | fail_if_no_progress with_reducible apply keeps_mk | dsimp only | split

theorem State.discardQueued_keeps {s : State} (h : Keeps s0 s) :
    ∀ a2 a3, Keeps s0 (State.discardQueued s a2 a3) := by
  intro a2 a3
  unfold State.discardQueued
  repeat' first
      | with_reducible assumption | intro _ | with_reducible apply keeps_ite | with_reducible apply State.wr_keeps
      | with_reducible apply State.setRing_keeps | with_reducible apply keeps_each | with_reducible apply State.replyCmd_keeps
      | with_reducible apply State.passFailed_keeps

theorem State.dispatch_keeps {s : State} (h : Keeps s0 s) :
    ∀ a2 a3, Keeps s0 (State.dispatch s a2 a3) := by
  intro a2 a3
  unfold State.dispatch
  repeat' first
      | with_reducible assumption | intro _ | with_reducible apply keeps_ite | with_reducible apply keeps_setReg
      | with_reducible apply State.wr_keeps | with_reducible apply State.bump_keeps | with_reducible apply State.setRing_keeps
      | with_reducible apply State.finishNow_keeps | with_reducible apply keeps_foldl | with_reducible apply keeps_foldl1
      | with_reducible apply keeps_foldl2 | with_reducible refine keeps_fst (by assumption) ?_
      | with_reducible refine keeps_snd (by assumption) ?_ | fail_if_no_progress with_reducible apply keeps_mk

theorem State.queueWake_keeps {s : State} (h : Keeps s0 s) :
    ∀ a2, Keeps s0 (State.queueWake s a2) := by
  intro a2
  unfold State.queueWake
  repeat' first
      | with_reducible assumption | intro _ | with_reducible apply keeps_ite | with_reducible apply State.setRegBit_keeps
      | with_reducible apply State.setBasin_keeps | with_reducible apply keeps_foldl | with_reducible apply keeps_foldl1
      | with_reducible apply keeps_foldl2 | with_reducible refine keeps_fst (by assumption) ?_
      | with_reducible refine keeps_snd (by assumption) ?_ | fail_if_no_progress with_reducible apply keeps_mk

theorem State.autoWake_keeps {s : State} (h : Keeps s0 s) :
    Keeps s0 (State.autoWake s) := by
  unfold State.autoWake
  repeat' first
      | with_reducible assumption | intro _ | with_reducible apply keeps_ite | with_reducible apply keeps_each
      | with_reducible apply State.queueWake_keeps | with_reducible apply keeps_foldl | with_reducible apply keeps_foldl1
      | with_reducible apply keeps_foldl2 | with_reducible refine keeps_fst (by assumption) ?_
      | with_reducible refine keeps_snd (by assumption) ?_ | fail_if_no_progress with_reducible apply keeps_mk | dsimp only | split

theorem State.noteStalls_keeps {s : State} (h : Keeps s0 s) :
    Keeps s0 (State.noteStalls s) := by
  unfold State.noteStalls
  repeat' first
      | with_reducible assumption | intro _ | with_reducible apply keeps_ite | with_reducible apply State.wr_keeps
      | with_reducible apply keeps_each

theorem State.actH_keeps {s : State} {k4 : State → Cmd → State} (h : Keeps s0 s) (hk4 : ∀ x0 x1, Keeps s0 x0 → Keeps s0 (k4 x0 x1)) :
    ∀ a2 a3, Keeps s0 (State.actH s a2 a3 k4) := by
  intro a2 a3
  unfold State.actH
  repeat' first
      | with_reducible assumption | intro _ | with_reducible apply keeps_ite | with_reducible apply keeps_forSome

theorem State.startRunning_keeps {s : State} (h : Keeps s0 s) :
    ∀ a2, Keeps s0 (State.startRunning s a2) := by
  intro a2
  unfold State.startRunning
  repeat' first
      | with_reducible assumption | intro _ | with_reducible apply keeps_ite | with_reducible apply State.modCmd_keeps
      | with_reducible apply State.beginCmd_keeps

theorem State.endWait_keeps {s : State} (h : Keeps s0 s) :
    ∀ a2 a3, Keeps s0 (State.endWait s a2 a3) := by
  intro a2 a3
  unfold State.endWait
  repeat' first
      | with_reducible assumption | intro _ | with_reducible apply keeps_ite | with_reducible apply State.wr_keeps
      | with_reducible apply State.finish_keeps

theorem State.joinSem_keeps {s : State} (h : Keeps s0 s) :
    ∀ a2, Keeps s0 (State.joinSem s a2) := by
  intro a2
  unfold State.joinSem
  repeat' first
      | with_reducible assumption | intro _ | with_reducible apply keeps_ite | with_reducible apply State.setBasin_keeps

theorem State.waitMet_keeps {s : State} (h : Keeps s0 s) :
    ∀ a2, Keeps s0 (State.waitMet s a2) := by
  intro a2
  unfold State.waitMet
  repeat' first
      | with_reducible assumption | intro _ | with_reducible apply keeps_ite | with_reducible apply keeps_setReg
      | with_reducible apply State.wr_keeps | with_reducible apply State.endWait_keeps

theorem State.copyStart_keeps {s : State} (h : Keeps s0 s) :
    ∀ a2 a3, Keeps s0 (State.copyStart s a2 a3) := by
  intro a2 a3
  unfold State.copyStart
  repeat' first
      | with_reducible assumption | intro _ | with_reducible apply keeps_ite | with_reducible apply State.modCmd_keeps
      | with_reducible apply keeps_each | with_reducible apply State.eccRead_keeps | with_reducible apply State.beginSpans_keeps
      | with_reducible apply State.raceReads_keeps | with_reducible apply State.startRunning_keeps

theorem State.copyEnd_keeps {s : State} (h : Keeps s0 s) :
    ∀ a2, Keeps s0 (State.copyEnd s a2) := by
  intro a2
  unfold State.copyEnd
  repeat' first
      | with_reducible assumption | intro _ | with_reducible apply keeps_ite | with_reducible apply State.endSpans_keeps
      | with_reducible apply State.copyLand_keeps | with_reducible apply State.finish_keeps

theorem State.copyAct_keeps {s : State} (h : Keeps s0 s) :
    ∀ a2 a3 a4, Keeps s0 (State.copyAct s a2 a3 a4) := by
  intro a2 a3 a4
  unfold State.copyAct
  repeat' first
      | with_reducible assumption | intro _ | with_reducible apply keeps_ite | with_reducible apply State.modCmd_keeps
      | with_reducible apply State.finishNow_keeps | with_reducible apply State.actH_keeps | with_reducible apply State.copyStart_keeps

theorem State.cqTailWrite_keeps {s : State} (h : Keeps s0 s) :
    ∀ a2 a3, Keeps s0 (State.cqTailWrite s a2 a3) := by
  intro a2 a3
  unfold State.cqTailWrite
  repeat' first
      | with_reducible assumption | intro _ | with_reducible apply keeps_ite | with_reducible apply State.wr_keeps
      | with_reducible apply State.info_keeps | with_reducible apply State.flushHeld_keeps | with_reducible apply State.showStall_keeps

theorem State.ringFresh_keeps {s : State} (h : Keeps s0 s) :
    ∀ a2, Keeps s0 (State.ringFresh s a2) := by
  intro a2
  unfold State.ringFresh
  repeat' first
      | with_reducible assumption | intro _ | with_reducible apply keeps_ite | with_reducible apply State.wr_keeps
      | with_reducible apply State.setRing_keeps

theorem State.ringCtrlWrite_keeps {s : State} (h : Keeps s0 s) :
    ∀ a2 a3, Keeps s0 (State.ringCtrlWrite s a2 a3) := by
  intro a2 a3
  unfold State.ringCtrlWrite
  repeat' first
      | with_reducible assumption | intro _ | with_reducible apply keeps_ite | with_reducible apply keeps_setReg
      | with_reducible apply State.wr_keeps | with_reducible apply State.info_keeps | with_reducible apply State.ringFresh_keeps

theorem State.ringResume_keeps {s : State} (h : Keeps s0 s) :
    ∀ a2 a3, Keeps s0 (State.ringResume s a2 a3) := by
  intro a2 a3
  unfold State.ringResume
  repeat' first
      | with_reducible assumption | intro _ | with_reducible apply keeps_ite | with_reducible apply State.wr_keeps
      | with_reducible apply State.setRing_keeps | with_reducible apply State.skipFailed_keeps | with_reducible apply keeps_foldl
      | with_reducible apply keeps_foldl1 | with_reducible apply keeps_foldl2 | with_reducible refine keeps_fst (by assumption) ?_
      | with_reducible refine keeps_snd (by assumption) ?_ | fail_if_no_progress with_reducible apply keeps_mk | dsimp only | split

theorem State.decideStep_keeps {s : State} (h : Keeps s0 s) :
    ∀ a2 a3, Keeps s0 (State.decideStep s a2 a3) := by
  intro a2 a3
  unfold State.decideStep
  repeat' first
      | with_reducible assumption | intro _ | with_reducible apply keeps_ite | with_reducible apply keeps_foldl
      | with_reducible apply keeps_foldl1 | with_reducible apply keeps_foldl2 | with_reducible refine keeps_fst (by assumption) ?_
      | with_reducible refine keeps_snd (by assumption) ?_ | fail_if_no_progress with_reducible apply keeps_mk

theorem State.protectNow_keeps {s was : State} (h : Keeps s0 s) : ∀ bs, Keeps s0 (s.protectNow was bs) := fun _ =>
  keeps_each h fun _ _ hs => keeps_ite (State.decideStep_keeps hs _ _) hs

theorem State.setSlewTokens_keeps {s : State} (h : Keeps s0 s) :
    ∀ a2, Keeps s0 (State.setSlewTokens s a2) := by
  intro a2
  unfold State.setSlewTokens
  repeat' first
      | with_reducible assumption | intro _ | with_reducible apply keeps_ite | with_reducible apply State.wr_keeps

theorem State.takeStart_keeps {s : State} (h : Keeps s0 s) :
    ∀ a2 a3, Keeps s0 (State.takeStart s a2 a3).1 := by
  intro a2 a3
  unfold State.takeStart
  repeat' first
      | with_reducible assumption | intro _ | with_reducible apply keeps_ite | with_reducible apply State.setSlewTokens_keeps
      | with_reducible apply keeps_foldl | with_reducible apply keeps_foldl1 | with_reducible apply keeps_foldl2
      | with_reducible refine keeps_fst (by assumption) ?_ | with_reducible refine keeps_snd (by assumption) ?_
      | fail_if_no_progress with_reducible apply keeps_mk | dsimp only | split

theorem State.ranUntilNow_keeps {s : State} (h : Keeps s0 s) :
    ∀ a2, Keeps s0 (State.ranUntilNow s a2) := by
  intro a2
  unfold State.ranUntilNow
  repeat' first
      | with_reducible assumption | intro _ | with_reducible apply keeps_ite | with_reducible apply keeps_foldl
      | with_reducible apply keeps_foldl1 | with_reducible apply keeps_foldl2 | with_reducible refine keeps_fst (by assumption) ?_
      | with_reducible refine keeps_snd (by assumption) ?_ | fail_if_no_progress with_reducible apply keeps_mk

theorem State.engineEnd_keeps {s : State} (h : Keeps s0 s) :
    ∀ a2, Keeps s0 (State.engineEnd s a2) := by
  intro a2
  unfold State.engineEnd
  repeat' first
      | with_reducible assumption | intro _ | with_reducible apply keeps_ite | with_reducible apply State.ranUntilNow_keeps
      | with_reducible apply keeps_foldl | with_reducible apply keeps_foldl1 | with_reducible apply keeps_foldl2
      | with_reducible refine keeps_fst (by assumption) ?_ | with_reducible refine keeps_snd (by assumption) ?_
      | fail_if_no_progress with_reducible apply keeps_mk

theorem State.clearBanks_keeps {s : State} (h : Keeps s0 s) :
    ∀ a2 a3, Keeps s0 (State.clearBanks s a2 a3) := by
  intro a2 a3
  unfold State.clearBanks
  repeat' first
      | with_reducible assumption | intro _ | with_reducible apply keeps_ite | with_reducible apply State.wr_keeps
      | with_reducible apply keeps_foldl | with_reducible apply keeps_foldl1 | with_reducible apply keeps_foldl2
      | with_reducible refine keeps_fst (by assumption) ?_ | with_reducible refine keeps_snd (by assumption) ?_
      | fail_if_no_progress with_reducible apply keeps_mk

theorem State.clearRill_keeps {s : State} (h : Keeps s0 s) :
    ∀ a2, Keeps s0 (State.clearRill s a2) := by
  intro a2
  unfold State.clearRill
  repeat' first
      | with_reducible assumption | intro _ | with_reducible apply keeps_ite | with_reducible apply State.setRill_keeps
      | with_reducible apply State.rillDropFetch_keeps | with_reducible apply keeps_foldl | with_reducible apply keeps_foldl1
      | with_reducible apply keeps_foldl2 | with_reducible refine keeps_fst (by assumption) ?_
      | with_reducible refine keeps_snd (by assumption) ?_ | fail_if_no_progress with_reducible apply keeps_mk

theorem State.clearCascade_keeps {s : State} (h : Keeps s0 s) :
    ∀ a2, Keeps s0 (State.clearCascade s a2) := by
  intro a2
  unfold State.clearCascade
  repeat' first
      | with_reducible assumption | intro _ | with_reducible apply keeps_ite | with_reducible apply State.setCascade_keeps
      | with_reducible apply State.cascadeDropFetch_keeps | with_reducible apply keeps_foldl | with_reducible apply keeps_foldl1
      | with_reducible apply keeps_foldl2 | with_reducible refine keeps_fst (by assumption) ?_
      | with_reducible refine keeps_snd (by assumption) ?_ | fail_if_no_progress with_reducible apply keeps_mk | dsimp only | split

theorem State.dropWrites_keeps {s : State} (h : Keeps s0 s) :
    ∀ a2, Keeps s0 (State.dropWrites s a2) := by
  intro a2
  unfold State.dropWrites
  repeat' first
      | with_reducible assumption | intro _ | with_reducible apply keeps_ite | with_reducible apply State.doWrites_keeps

theorem State.countPartial_keeps {s : State} (h : Keeps s0 s) :
    ∀ a2, Keeps s0 (State.countPartial s a2) := by
  intro a2
  unfold State.countPartial
  repeat' first
      | with_reducible assumption | intro _ | with_reducible apply keeps_ite | with_reducible apply State.bump_keeps
      | with_reducible apply State.free_keeps | with_reducible apply keeps_foldl | with_reducible apply keeps_foldl1
      | with_reducible apply keeps_foldl2 | with_reducible refine keeps_fst (by assumption) ?_
      | with_reducible refine keeps_snd (by assumption) ?_ | fail_if_no_progress with_reducible apply keeps_mk | dsimp only | split

theorem State.abandon_keeps {s : State} (h : Keeps s0 s) :
    ∀ a2 a3, Keeps s0 (State.abandon s a2 a3) := by
  intro a2 a3
  unfold State.abandon
  repeat' first
      | with_reducible assumption | intro _ | with_reducible apply keeps_ite | with_reducible apply State.finish_keeps
      | with_reducible apply State.ranUntilNow_keeps | with_reducible apply State.dropWrites_keeps
      | with_reducible apply State.countPartial_keeps

theorem State.abandonSilent_keeps {s : State} (h : Keeps s0 s) :
    ∀ a2, Keeps s0 (State.abandonSilent s a2) := by
  intro a2
  unfold State.abandonSilent
  repeat' first
      | with_reducible assumption | intro _ | with_reducible apply keeps_ite | with_reducible apply State.endSpans_keeps
      | with_reducible apply State.leave_keeps | with_reducible apply State.chargeCmd_keeps | with_reducible apply State.ranUntilNow_keeps
      | with_reducible apply State.dropWrites_keeps | with_reducible apply State.countPartial_keeps

theorem State.endWork_keeps {s : State} (h : Keeps s0 s) :
    ∀ a2 a3 a4, Keeps s0 (State.endWork s a2 a3 a4) := by
  intro a2 a3 a4
  unfold State.endWork
  repeat' first
      | with_reducible assumption | intro _ | with_reducible apply keeps_ite | with_reducible apply keeps_each
      | with_reducible apply State.finishNow_keeps | with_reducible apply State.abandon_keeps

theorem State.resetCore_keeps {s : State} (h : Keeps s0 s) :
    ∀ a2, Keeps s0 (State.resetCore s a2) := by
  intro a2
  unfold State.resetCore
  repeat' first
      | with_reducible assumption | intro _ | with_reducible apply keeps_ite | with_reducible apply keeps_setReg
      | with_reducible apply State.setCore_keeps

theorem State.clearCounter_keeps {s : State} (h : Keeps s0 s) :
    ∀ a2, Keeps s0 (State.clearCounter s a2) := by
  intro a2
  unfold State.clearCounter
  repeat' first
      | with_reducible assumption | intro _ | with_reducible apply keeps_ite | with_reducible apply keeps_setReg
      | with_reducible apply State.setBasin_keeps

theorem State.zeroSems_keeps {s : State} (h : Keeps s0 s) :
    ∀ a2 a3 a4, Keeps s0 (State.zeroSems s a2 a3 a4) := by
  intro a2 a3 a4
  unfold State.zeroSems
  repeat' first
      | with_reducible assumption | intro _ | with_reducible apply keeps_ite | with_reducible apply keeps_setReg
      | with_reducible apply keeps_each

theorem State.zeroRegion_keeps {s : State} (h : Keeps s0 s) :
    ∀ a2 a3, Keeps s0 (State.zeroRegion s a2 a3) := by
  intro a2 a3
  unfold State.zeroRegion
  repeat' first
      | with_reducible assumption | intro _ | with_reducible apply keeps_ite | with_reducible apply State.cZero_keeps
      | with_reducible apply State.pZero_keeps | with_reducible apply State.zeroSems_keeps

theorem State.clearEngines_keeps {s : State} (h : Keeps s0 s) :
    ∀ a2, Keeps s0 (State.clearEngines s a2) := by
  intro a2
  unfold State.clearEngines
  repeat' first
      | with_reducible assumption | intro _ | with_reducible apply keeps_ite | with_reducible apply keeps_each
      | with_reducible apply State.clearBanks_keeps | with_reducible apply State.clearRill_keeps
      | with_reducible apply State.clearCascade_keeps | with_reducible apply State.resetCore_keeps
      | with_reducible apply State.clearCounter_keeps

theorem State.beginZero_keeps {s : State} (h : Keeps s0 s) :
    ∀ a2 a3 a4 a5, Keeps s0 (State.beginZero s a2 a3 a4 a5) := by
  intro a2 a3 a4 a5
  unfold State.beginZero
  repeat' first
      | with_reducible assumption | intro _ | with_reducible apply keeps_ite | with_reducible apply State.wr_keeps
      | with_reducible apply State.setBasin_keeps

theorem State.endZero_keeps {s : State} (h : Keeps s0 s) :
    ∀ a2 a3, Keeps s0 (State.endZero s a2 a3) := by
  intro a2 a3
  unfold State.endZero
  repeat' first
      | with_reducible assumption | intro _ | with_reducible apply keeps_ite | with_reducible apply State.wr_keeps
      | with_reducible apply State.setBasin_keeps | with_reducible apply State.chargeSwitch_keeps

theorem State.accept_keeps {s : State} (h : Keeps s0 s) :
    ∀ a2 a3 a4, Keeps s0 (State.accept s a2 a3 a4) := by
  intro a2 a3 a4
  unfold State.accept
  repeat' first
      | with_reducible assumption | intro _ | with_reducible apply keeps_ite | with_reducible apply State.wr_keeps
      | with_reducible apply State.modCmd_keeps | with_reducible apply State.eccRead_keeps

theorem State.checkIssue_keeps {s : State} (h : Keeps s0 s) :
    ∀ a2 a3 a4 a5, Keeps s0 (State.checkIssue s a2 a3 a4 a5) := by
  intro a2 a3 a4 a5
  unfold State.checkIssue
  repeat' first
      | with_reducible assumption | intro _ | with_reducible apply keeps_ite | with_reducible apply keeps_whenever
      | with_reducible apply keeps_forSome | with_reducible apply State.eccRead_keeps | with_reducible apply State.finishNow_keeps
      | with_reducible apply State.accept_keeps

theorem State.jetLoad_keeps {s : State} (h : Keeps s0 s) :
    ∀ a2 a3, Keeps s0 (State.jetLoad s a2 a3) := by
  intro a2 a3
  unfold State.jetLoad
  repeat' first
      | with_reducible assumption | intro _ | with_reducible apply keeps_ite | with_reducible apply State.wr_keeps
      | with_reducible apply State.bump_keeps | with_reducible apply State.modCmd_keeps | with_reducible apply State.beginSpans_keeps
      | with_reducible apply State.beginCmd_keeps | with_reducible apply keeps_foldl | with_reducible apply keeps_foldl1
      | with_reducible apply keeps_foldl2 | with_reducible refine keeps_fst (by assumption) ?_
      | with_reducible refine keeps_snd (by assumption) ?_ | fail_if_no_progress with_reducible apply keeps_mk | dsimp only | split

theorem State.jetRun_keeps {s : State} (h : Keeps s0 s) :
    ∀ a2 a3, Keeps s0 (State.jetRun s a2 a3) := by
  intro a2 a3
  unfold State.jetRun
  repeat' first
      | with_reducible assumption | intro _ | with_reducible apply keeps_ite | with_reducible apply State.wr_keeps
      | with_reducible apply State.bump_keeps | with_reducible apply State.modCmd_keeps | with_reducible apply State.eccReads_keeps
      | with_reducible apply State.beginSpans_keeps | with_reducible apply State.raceReads_keeps
      | with_reducible apply State.beginCmd_keeps | with_reducible apply State.laneCounts_keeps
      | with_reducible apply State.runEpilogue_keeps | with_reducible apply keeps_foldl | with_reducible apply keeps_foldl1
      | with_reducible apply keeps_foldl2 | with_reducible refine keeps_fst (by assumption) ?_
      | with_reducible refine keeps_snd (by assumption) ?_ | fail_if_no_progress with_reducible apply keeps_mk

theorem State.jetStart_keeps {s : State} (h : Keeps s0 s) :
    ∀ a2 a3, Keeps s0 (State.jetStart s a2 a3) := by
  intro a2 a3
  unfold State.jetStart
  repeat' first
      | with_reducible assumption | intro _ | with_reducible apply keeps_ite | with_reducible apply keeps_forSome
      | with_reducible apply State.takeStart_keeps | with_reducible apply State.jetLoad_keeps | with_reducible apply State.jetRun_keeps
      | with_reducible apply keeps_foldl | with_reducible apply keeps_foldl1 | with_reducible apply keeps_foldl2
      | with_reducible refine keeps_fst (by assumption) ?_ | with_reducible refine keeps_snd (by assumption) ?_
      | fail_if_no_progress with_reducible apply keeps_mk | dsimp only | split

theorem State.reportBits_keeps {s : State} (h : Keeps s0 s) :
    ∀ a2 a3 a4, Keeps s0 (State.reportBits s a2 a3 a4) := by
  intro a2 a3 a4
  unfold State.reportBits
  repeat' first
      | with_reducible assumption | intro _ | with_reducible apply keeps_ite | with_reducible apply State.free_keeps
      | with_reducible apply State.report_keeps

theorem State.jetMismatch_keeps {s : State} (h : Keeps s0 s) :
    ∀ a2 a3 a4 a5, Keeps s0 (State.jetMismatch s a2 a3 a4 a5) := by
  intro a2 a3 a4 a5
  unfold State.jetMismatch
  repeat' first
      | with_reducible assumption | intro _ | with_reducible apply keeps_ite | with_reducible apply State.wr_keeps
      | with_reducible apply State.bumpSat_keeps | with_reducible apply State.reportBits_keeps

theorem State.jetCycles_keeps {s : State} (h : Keeps s0 s) :
    ∀ a2 a3 a4 a5 a6, Keeps s0 (State.jetCycles s a2 a3 a4 a5 a6) := by
  intro a2 a3 a4 a5 a6
  unfold State.jetCycles
  repeat' first
      | with_reducible assumption | intro _ | with_reducible apply keeps_ite | with_reducible apply State.bump_keeps
      | with_reducible apply State.setJet_keeps

end Sys2Proof.Machine
end

