-- ==== Sys2Proof/Laws/Keeps3.lean ====
section
/-! SUPPORT. What every operation keeps, part 3: the queue, and the order of registers and memories. -/
namespace Sys2Proof.Machine

variable {s0 : State}

theorem State.jetEnd_keeps {s : State} (h : Keeps s0 s) :
    ∀ a2 a3 a4 a5, Keeps s0 (State.jetEnd s a2 a3 a4 a5) := by
  intro a2 a3 a4 a5
  unfold State.jetEnd
  repeat' first
      | with_reducible assumption | intro _ | with_reducible apply keeps_ite | with_reducible apply State.modCmd_keeps
      | with_reducible apply keeps_each | with_reducible apply State.doWrites_keeps | with_reducible apply State.finish_keeps
      | with_reducible apply State.runEpilogue_keeps | with_reducible apply State.engineEnd_keeps
      | with_reducible apply State.jetMismatch_keeps | with_reducible apply State.jetCycles_keeps

theorem State.fieldRemap_keeps {s : State} (h : Keeps s0 s) :
    ∀ a2 a3 a4, Keeps s0 (State.fieldRemap s a2 a3 a4) := by
  intro a2 a3 a4
  unfold State.fieldRemap
  repeat' first
      | with_reducible assumption | intro _ | with_reducible apply keeps_ite | with_reducible apply keeps_setReg
      | with_reducible apply State.wr_keeps | with_reducible apply State.info_keeps

theorem State.passStart_keeps {s : State} (h : Keeps s0 s) :
    ∀ a2, Keeps s0 (State.passStart s a2) := by
  intro a2
  unfold State.passStart
  repeat' first
      | with_reducible assumption | intro _ | with_reducible apply keeps_ite | with_reducible apply State.modCmd_keeps
      | with_reducible apply State.eccReads_keeps | with_reducible apply State.beginSpans_keeps
      | with_reducible apply State.raceReads_keeps | with_reducible apply State.beginCmd_keeps
      | with_reducible apply State.runEpilogue_keeps | with_reducible apply State.takeStart_keeps

theorem State.laneEnd_keeps {s : State} (h : Keeps s0 s) :
    ∀ a2, Keeps s0 (State.laneEnd s a2) := by
  intro a2
  unfold State.laneEnd
  repeat' first
      | with_reducible assumption | intro _ | with_reducible apply keeps_ite | with_reducible apply State.doWrites_keeps
      | with_reducible apply State.finish_keeps

theorem State.rillFetchStart_keeps {s : State} (h : Keeps s0 s) :
    ∀ a2, Keeps s0 (State.rillFetchStart s a2) := by
  intro a2
  unfold State.rillFetchStart
  repeat' first
      | with_reducible assumption | intro _ | with_reducible apply keeps_ite | with_reducible apply keeps_whenever
      | with_reducible apply keeps_forSome | with_reducible apply State.setRill_keeps | with_reducible apply State.modCmd_keeps
      | with_reducible apply keeps_foldl | with_reducible apply keeps_foldl1 | with_reducible apply keeps_foldl2
      | with_reducible refine keeps_fst (by assumption) ?_ | with_reducible refine keeps_snd (by assumption) ?_
      | fail_if_no_progress with_reducible apply keeps_mk | dsimp only | split

theorem State.rillCancel_keeps {s : State} (h : Keeps s0 s) :
    ∀ a2 a3 a4, Keeps s0 (State.rillCancel s a2 a3 a4) := by
  intro a2 a3 a4
  unfold State.rillCancel
  repeat' first
      | with_reducible assumption | intro _ | with_reducible apply keeps_ite | with_reducible apply State.rillDropFetch_keeps
      | with_reducible apply State.finishNow_keeps

theorem State.rillFetched_keeps {s : State} (h : Keeps s0 s) :
    ∀ a2 a3 a4, Keeps s0 (State.rillFetched s a2 a3 a4) := by
  intro a2 a3 a4
  unfold State.rillFetched
  repeat' first
      | with_reducible assumption | intro _ | with_reducible apply keeps_ite | with_reducible apply State.bump_keeps
      | with_reducible apply State.setRill_keeps | with_reducible apply State.modCmd_keeps

theorem State.rillStart_keeps {s : State} (h : Keeps s0 s) :
    ∀ a2 a3 a4, Keeps s0 (State.rillStart s a2 a3 a4) := by
  intro a2 a3 a4
  unfold State.rillStart
  repeat' first
      | with_reducible assumption | intro _ | with_reducible apply keeps_ite | with_reducible apply State.wr_keeps
      | with_reducible apply State.bump_keeps | with_reducible apply State.setRill_keeps | with_reducible apply State.modCmd_keeps
      | with_reducible apply State.eccReads_keeps | with_reducible apply State.beginSpans_keeps
      | with_reducible apply State.raceReads_keeps | with_reducible apply State.beginCmd_keeps
      | with_reducible apply State.runEpilogue_keeps | with_reducible apply State.takeStart_keeps | with_reducible apply keeps_foldl
      | with_reducible apply keeps_foldl1 | with_reducible apply keeps_foldl2 | with_reducible refine keeps_fst (by assumption) ?_
      | with_reducible refine keeps_snd (by assumption) ?_ | fail_if_no_progress with_reducible apply keeps_mk

theorem State.rillMismatch_keeps {s : State} (h : Keeps s0 s) :
    ∀ a2 a3 a4, Keeps s0 (State.rillMismatch s a2 a3 a4) := by
  intro a2 a3 a4
  unfold State.rillMismatch
  repeat' first
      | with_reducible assumption | intro _ | with_reducible apply keeps_ite | with_reducible apply State.wr_keeps
      | with_reducible apply State.bumpSat_keeps | with_reducible apply State.reportBits_keeps

theorem State.rillEnd_keeps {s : State} (h : Keeps s0 s) :
    ∀ a2 a3 a4 a5, Keeps s0 (State.rillEnd s a2 a3 a4 a5) := by
  intro a2 a3 a4 a5
  unfold State.rillEnd
  repeat' first
      | with_reducible assumption | intro _ | with_reducible apply keeps_ite | with_reducible apply State.bump_keeps
      | with_reducible apply State.modCmd_keeps | with_reducible apply keeps_each | with_reducible apply State.doWrites_keeps
      | with_reducible apply State.rillDrained_keeps | with_reducible apply State.finish_keeps
      | with_reducible apply State.runEpilogue_keeps | with_reducible apply State.engineEnd_keeps
      | with_reducible apply State.rillMismatch_keeps

theorem State.cascadeAccept_keeps {s : State} (h : Keeps s0 s) :
    ∀ a2 a3, Keeps s0 (State.cascadeAccept s a2 a3) := by
  intro a2 a3
  unfold State.cascadeAccept
  repeat' first
      | with_reducible assumption | intro _ | with_reducible apply keeps_ite | with_reducible apply keeps_whenever
      | with_reducible apply keeps_forSome | with_reducible apply State.modCmd_keeps | with_reducible apply State.finishNow_keeps

theorem State.cascadeCancel_keeps {s : State} (h : Keeps s0 s) :
    ∀ a2 a3 a4, Keeps s0 (State.cascadeCancel s a2 a3 a4) := by
  intro a2 a3 a4
  unfold State.cascadeCancel
  repeat' first
      | with_reducible assumption | intro _ | with_reducible apply keeps_ite | with_reducible apply State.cascadeDropFetch_keeps
      | with_reducible apply State.finishNow_keeps

theorem State.cascadeGuard_keeps {s : State} (h : Keeps s0 s) :
    ∀ a2, Keeps s0 (State.cascadeGuard s a2) := by
  intro a2
  unfold State.cascadeGuard
  repeat' first
      | with_reducible assumption | intro _ | with_reducible apply keeps_ite | with_reducible apply State.setCascade_keeps
      | with_reducible apply State.modCmd_keeps | with_reducible apply State.cascadeDropFetch_keeps | with_reducible apply keeps_foldl
      | with_reducible apply keeps_foldl1 | with_reducible apply keeps_foldl2 | with_reducible refine keeps_fst (by assumption) ?_
      | with_reducible refine keeps_snd (by assumption) ?_ | fail_if_no_progress with_reducible apply keeps_mk | dsimp only | split

theorem State.kvSend_keeps {s : State} (h : Keeps s0 s) : ∀ c l, Keeps s0 (State.kvSend s c l).1 := by
  intro c l
  induction l generalizing s with
  | nil => exact h
  | cons a l ih =>
  unfold State.kvSend
  repeat' first
      | with_reducible assumption | intro _ | with_reducible apply keeps_ite | with_reducible apply ih
      | with_reducible apply State.aqdSend_keeps | with_reducible refine keeps_fst (by assumption) ?_
      | with_reducible refine keeps_snd (by assumption) ?_ | fail_if_no_progress with_reducible apply keeps_mk | dsimp only | split

theorem State.cascadeFetch_keeps {s : State} (h : Keeps s0 s) :
    ∀ a2 a3 a4 a5, Keeps s0 (State.cascadeFetch s a2 a3 a4 a5) := by
  intro a2 a3 a4 a5
  unfold State.cascadeFetch
  repeat' first
      | with_reducible assumption | intro _ | with_reducible apply keeps_ite | with_reducible apply State.setCascade_keeps
      | with_reducible apply State.modCmd_keeps | with_reducible apply State.cascadeCancel_keeps | with_reducible apply State.kvSend_keeps
      | with_reducible apply keeps_foldl | with_reducible apply keeps_foldl1 | with_reducible apply keeps_foldl2
      | with_reducible refine keeps_fst (by assumption) ?_ | with_reducible refine keeps_snd (by assumption) ?_
      | fail_if_no_progress with_reducible apply keeps_mk | dsimp only | split

theorem State.cascadeFetchStart_keeps {s : State} (h : Keeps s0 s) :
    ∀ a2, Keeps s0 (State.cascadeFetchStart s a2) := by
  intro a2
  unfold State.cascadeFetchStart
  repeat' first
      | with_reducible assumption | intro _ | with_reducible apply keeps_ite | with_reducible apply keeps_forSome
      | with_reducible apply State.setCascade_keeps | with_reducible apply State.eccRead_keeps
      | with_reducible apply State.cascadeCancel_keeps | with_reducible apply State.cascadeFetch_keeps

theorem State.kvLine_keeps {s : State} (h : Keeps s0 s) :
    ∀ a2 a3 a4, Keeps s0 (State.kvLine s a2 a3 a4) := by
  intro a2 a3 a4
  unfold State.kvLine
  repeat' first
      | with_reducible assumption | intro _ | with_reducible apply keeps_ite | with_reducible apply State.setCascade_keeps
      | with_reducible apply keeps_foldl | with_reducible apply keeps_foldl1 | with_reducible apply keeps_foldl2
      | with_reducible refine keeps_fst (by assumption) ?_ | with_reducible refine keeps_snd (by assumption) ?_
      | fail_if_no_progress with_reducible apply keeps_mk | dsimp only | split

theorem State.cascadeFetched_keeps {s : State} (h : Keeps s0 s) :
    ∀ a2 a3 a4, Keeps s0 (State.cascadeFetched s a2 a3 a4) := by
  intro a2 a3 a4
  unfold State.cascadeFetched
  repeat' first
      | with_reducible assumption | intro _ | with_reducible apply keeps_ite | with_reducible apply State.bump_keeps
      | with_reducible apply State.setCascade_keeps | with_reducible apply State.modCmd_keeps

theorem State.cascadeRun_keeps {s : State} (h : Keeps s0 s) :
    ∀ a2 a3 a4 a5 a6, Keeps s0 (State.cascadeRun s a2 a3 a4 a5 a6) := by
  intro a2 a3 a4 a5 a6
  unfold State.cascadeRun
  repeat' first
      | with_reducible assumption | intro _ | with_reducible apply keeps_ite | with_reducible apply State.bump_keeps
      | with_reducible apply State.modCmd_keeps | with_reducible apply State.eccReads_keeps | with_reducible apply State.beginSpans_keeps
      | with_reducible apply keeps_foldl | with_reducible apply keeps_foldl1 | with_reducible apply keeps_foldl2
      | with_reducible refine keeps_fst (by assumption) ?_ | with_reducible refine keeps_snd (by assumption) ?_
      | fail_if_no_progress with_reducible apply keeps_mk

theorem State.cascadeClearFor_keeps {s : State} (h : Keeps s0 s) :
    ∀ a2 a3, Keeps s0 (State.cascadeClearFor s a2 a3) := by
  intro a2 a3
  unfold State.cascadeClearFor
  repeat' first
      | with_reducible assumption | intro _ | with_reducible apply keeps_ite | with_reducible apply State.setCascade_keeps

theorem State.cascadeStart_keeps {s : State} (h : Keeps s0 s) :
    ∀ a2 a3 a4, Keeps s0 (State.cascadeStart s a2 a3 a4) := by
  intro a2 a3 a4
  unfold State.cascadeStart
  repeat' first
      | with_reducible assumption | intro _ | with_reducible apply keeps_ite | with_reducible apply State.wr_keeps
      | with_reducible apply State.setCascade_keeps | with_reducible apply State.modCmd_keeps | with_reducible apply State.raceReads_keeps
      | with_reducible apply State.cascadeDropFetch_keeps | with_reducible apply State.finish_keeps
      | with_reducible apply State.beginCmd_keeps | with_reducible apply State.takeStart_keeps
      | with_reducible apply State.cascadeRun_keeps | with_reducible apply State.cascadeClearFor_keeps | with_reducible apply keeps_foldl
      | with_reducible apply keeps_foldl1 | with_reducible apply keeps_foldl2 | with_reducible refine keeps_fst (by assumption) ?_
      | with_reducible refine keeps_snd (by assumption) ?_ | fail_if_no_progress with_reducible apply keeps_mk | dsimp only | split

theorem State.cascadeMismatch_keeps {s : State} (h : Keeps s0 s) :
    ∀ a2 a3 a4 a5, Keeps s0 (State.cascadeMismatch s a2 a3 a4 a5) := by
  intro a2 a3 a4 a5
  unfold State.cascadeMismatch
  repeat' first
      | with_reducible assumption | intro _ | with_reducible apply keeps_ite | with_reducible apply State.wr_keeps
      | with_reducible apply State.bumpSat_keeps | with_reducible apply State.reportBits_keeps

theorem State.cascadeDropHalf_keeps {s : State} (h : Keeps s0 s) :
    ∀ a2 a3, Keeps s0 (State.cascadeDropHalf s a2 a3) := by
  intro a2 a3
  unfold State.cascadeDropHalf
  repeat' first
      | with_reducible assumption | intro _ | with_reducible apply keeps_ite | with_reducible apply State.setCascade_keeps

theorem State.cascadeEnd_keeps {s : State} (h : Keeps s0 s) :
    ∀ a2 a3 a4 a5, Keeps s0 (State.cascadeEnd s a2 a3 a4 a5) := by
  intro a2 a3 a4 a5
  unfold State.cascadeEnd
  repeat' first
      | with_reducible assumption | intro _ | with_reducible apply keeps_ite | with_reducible apply State.bump_keeps
      | with_reducible apply keeps_each | with_reducible apply State.doWrites_keeps | with_reducible apply State.finish_keeps
      | with_reducible apply State.engineEnd_keeps | with_reducible apply State.cascadeMismatch_keeps
      | with_reducible apply State.cascadeDropHalf_keeps

theorem State.endSaved_keeps {s : State} (h : Keeps s0 s) :
    ∀ a2 a3 a4, Keeps s0 (State.endSaved s a2 a3 a4) := by
  intro a2 a3 a4
  unfold State.endSaved
  repeat' first
      | with_reducible assumption | intro _ | with_reducible apply keeps_ite | with_reducible apply State.setRegBit_keeps
      | with_reducible apply keeps_each | with_reducible apply State.finishCore_keeps | with_reducible apply State.finishNow_keeps
      | with_reducible apply keeps_foldl | with_reducible apply keeps_foldl1 | with_reducible apply keeps_foldl2
      | with_reducible refine keeps_fst (by assumption) ?_ | with_reducible refine keeps_snd (by assumption) ?_
      | fail_if_no_progress with_reducible apply keeps_mk | dsimp only | split

theorem State.endSavedAll_keeps {s : State} (h : Keeps s0 s) :
    ∀ a2 a3, Keeps s0 (State.endSavedAll s a2 a3) := by
  intro a2 a3
  unfold State.endSavedAll
  repeat' first
      | with_reducible assumption | intro _ | with_reducible apply keeps_ite | with_reducible apply keeps_each
      | with_reducible apply State.endSaved_keeps

theorem State.showGated_keeps {s : State} (h : Keeps s0 s) :
    ∀ a2 a3, Keeps s0 (State.showGated s a2 a3) := by
  intro a2 a3
  unfold State.showGated
  repeat' first
      | with_reducible assumption | intro _ | with_reducible apply keeps_ite | with_reducible apply State.wr_keeps
      | with_reducible apply State.setRegBit_keeps

theorem State.forgetRuns_keeps {s : State} (h : Keeps s0 s) :
    ∀ a2, Keeps s0 (State.forgetRuns s a2) := by
  intro a2
  unfold State.forgetRuns
  repeat' first
      | with_reducible assumption | intro _ | with_reducible apply keeps_ite | with_reducible apply keeps_foldl
      | with_reducible apply keeps_foldl1 | with_reducible apply keeps_foldl2 | with_reducible refine keeps_fst (by assumption) ?_
      | with_reducible refine keeps_snd (by assumption) ?_ | fail_if_no_progress with_reducible apply keeps_mk

theorem State.startRamps_keeps {s : State} (h : Keeps s0 s) :
    Keeps s0 (State.startRamps s) := by
  unfold State.startRamps
  repeat' first
      | with_reducible assumption | intro _ | with_reducible apply keeps_ite | with_reducible apply State.setBasin_keeps
      | with_reducible apply keeps_each | with_reducible apply keeps_foldl | with_reducible apply keeps_foldl1
      | with_reducible apply keeps_foldl2 | with_reducible refine keeps_fst (by assumption) ?_
      | with_reducible refine keeps_snd (by assumption) ?_ | fail_if_no_progress with_reducible apply keeps_mk

theorem State.requestWake_keeps {s : State} (h : Keeps s0 s) :
    ∀ a2, Keeps s0 (State.requestWake s a2) := by
  intro a2
  unfold State.requestWake
  repeat' first
      | with_reducible assumption | intro _ | with_reducible apply keeps_ite | with_reducible apply State.queueWake_keeps
      | with_reducible apply State.startRamps_keeps

theorem State.loseBasin_keeps {s : State} (h : Keeps s0 s) :
    ∀ a2, Keeps s0 (State.loseBasin s a2) := by
  intro a2
  unfold State.loseBasin
  repeat' first
      | with_reducible assumption | intro _ | with_reducible apply keeps_ite | with_reducible apply State.cFree_keeps
      | with_reducible apply State.pFree_keeps | with_reducible apply State.cZero_keeps | with_reducible apply State.pZero_keeps

theorem State.gateNow_keeps {s : State} (h : Keeps s0 s) :
    ∀ a2, Keeps s0 (State.gateNow s a2) := by
  intro a2
  unfold State.gateNow
  repeat' first
      | with_reducible assumption | intro _ | with_reducible apply keeps_ite | with_reducible apply keeps_resetRegs
      | with_reducible apply State.setBasin_keeps | with_reducible apply State.clearEngines_keeps
      | with_reducible apply State.showGated_keeps | with_reducible apply State.forgetRuns_keeps
      | with_reducible apply State.startRamps_keeps | with_reducible apply State.loseBasin_keeps

theorem State.gateLater_keeps {s : State} (h : Keeps s0 s) :
    ∀ a2, Keeps s0 (State.gateLater s a2) := by
  intro a2
  unfold State.gateLater
  repeat' first
      | with_reducible assumption | intro _ | with_reducible apply keeps_ite | with_reducible apply State.setBasin_keeps

theorem State.setItem_keeps {s : State} (h : Keeps s0 s) :
    ∀ a2 a3, Keeps s0 (State.setItem s a2 a3) := by
  intro a2 a3
  unfold State.setItem
  repeat' first
      | with_reducible assumption | intro _ | with_reducible apply keeps_ite | with_reducible apply keeps_foldl
      | with_reducible apply keeps_foldl1 | with_reducible apply keeps_foldl2 | with_reducible refine keeps_fst (by assumption) ?_
      | with_reducible refine keeps_snd (by assumption) ?_ | fail_if_no_progress with_reducible apply keeps_mk

theorem State.showBasinFence_keeps {s : State} (h : Keeps s0 s) :
    ∀ a2, Keeps s0 (State.showBasinFence s a2) := by
  intro a2
  unfold State.showBasinFence
  repeat' first
      | with_reducible assumption | intro _ | with_reducible apply keeps_ite | with_reducible apply State.wr_keeps
      | with_reducible apply State.setRegBit_keeps

theorem State.showTerraceFence_keeps {s : State} (h : Keeps s0 s) :
    ∀ a2, Keeps s0 (State.showTerraceFence s a2) := by
  intro a2
  unfold State.showTerraceFence
  repeat' first
      | with_reducible assumption | intro _ | with_reducible apply keeps_ite | with_reducible apply State.wr_keeps
      | with_reducible apply keeps_each | with_reducible apply State.showBasinFence_keeps

theorem State.showOctet_keeps {s : State} (h : Keeps s0 s) :
    ∀ a2 a3, Keeps s0 (State.showOctet s a2 a3) := by
  intro a2 a3
  unfold State.showOctet
  repeat' first
      | with_reducible assumption | intro _ | with_reducible apply keeps_ite | with_reducible apply State.setRegBit_keeps

theorem State.showLanes_keeps {s : State} (h : Keeps s0 s) :
    ∀ a2, Keeps s0 (State.showLanes s a2) := by
  intro a2
  unfold State.showLanes
  repeat' first
      | with_reducible assumption | intro _ | with_reducible apply keeps_ite | with_reducible apply State.wr_keeps
      | with_reducible apply State.setRegBit_keeps | with_reducible apply keeps_each | with_reducible apply State.watchRoutes_keeps

theorem State.showItem_keeps {s : State} (h : Keeps s0 s) :
    ∀ a2, Keeps s0 (State.showItem s a2) := by
  intro a2
  unfold State.showItem
  repeat' first
      | with_reducible assumption | intro _ | with_reducible apply keeps_ite | with_reducible apply State.wr_keeps
      | with_reducible apply State.setRegBit_keeps | with_reducible apply keeps_each | with_reducible apply State.showBasinFence_keeps
      | with_reducible apply State.showTerraceFence_keeps | with_reducible apply State.showOctet_keeps
      | with_reducible apply State.showLanes_keeps | with_reducible apply keeps_foldl | with_reducible apply keeps_foldl1
      | with_reducible apply keeps_foldl2 | with_reducible refine keeps_fst (by assumption) ?_
      | with_reducible refine keeps_snd (by assumption) ?_ | fail_if_no_progress with_reducible apply keeps_mk | dsimp only | split

theorem State.countPartialOp_keeps {s : State} (h : Keeps s0 s) :
    ∀ a2, Keeps s0 (State.countPartialOp s a2) := by
  intro a2
  unfold State.countPartialOp
  repeat' first
      | with_reducible assumption | intro _ | with_reducible apply keeps_ite | with_reducible apply State.bump_keeps
      | with_reducible apply State.free_keeps

theorem State.opStopped_keeps {s : State} (h : Keeps s0 s) :
    ∀ a2 a3 a4, Keeps s0 (State.opStopped s a2 a3 a4) := by
  intro a2 a3 a4
  unfold State.opStopped
  repeat' first
      | with_reducible assumption | intro _ | with_reducible apply keeps_ite | with_reducible apply State.setBasin_keeps
      | with_reducible apply keeps_each | with_reducible apply State.endSpans_keeps | with_reducible apply State.taskEnd_keeps
      | with_reducible apply State.ranUntilNow_keeps | with_reducible apply keeps_foldl | with_reducible apply keeps_foldl1
      | with_reducible apply keeps_foldl2 | with_reducible refine keeps_fst (by assumption) ?_
      | with_reducible refine keeps_snd (by assumption) ?_ | fail_if_no_progress with_reducible apply keeps_mk | dsimp only | split

theorem State.abandonRadio_keeps {s : State} (h : Keeps s0 s) :
    ∀ a2, Keeps s0 (State.abandonRadio s a2) := by
  intro a2
  unfold State.abandonRadio
  repeat' first
      | with_reducible assumption | intro _ | with_reducible apply keeps_ite | with_reducible apply keeps_each
      | with_reducible apply State.doWrites_keeps | with_reducible apply State.countPartialOp_keeps
      | with_reducible apply State.opStopped_keeps | with_reducible apply keeps_foldl | with_reducible apply keeps_foldl1
      | with_reducible apply keeps_foldl2 | with_reducible refine keeps_fst (by assumption) ?_
      | with_reducible refine keeps_snd (by assumption) ?_ | fail_if_no_progress with_reducible apply keeps_mk

theorem State.abandonOps_keeps {s : State} (h : Keeps s0 s) :
    ∀ a2 a3, Keeps s0 (State.abandonOps s a2 a3) := by
  intro a2 a3
  unfold State.abandonOps
  repeat' first
      | with_reducible assumption | intro _ | with_reducible apply keeps_ite | with_reducible apply State.abandonRadio_keeps

theorem State.endSwitch_keeps {s : State} (h : Keeps s0 s) :
    ∀ a2 a3, Keeps s0 (State.endSwitch s a2 a3) := by
  intro a2 a3
  unfold State.endSwitch
  repeat' first
      | with_reducible assumption | intro _ | with_reducible apply keeps_ite | with_reducible apply State.wr_keeps
      | with_reducible apply State.setBasin_keeps | with_reducible apply State.endSaved_keeps | with_reducible apply keeps_foldl
      | with_reducible apply keeps_foldl1 | with_reducible apply keeps_foldl2 | with_reducible refine keeps_fst (by assumption) ?_
      | with_reducible refine keeps_snd (by assumption) ?_ | fail_if_no_progress with_reducible apply keeps_mk | dsimp only | split

theorem State.stopBasin_keeps {s : State} (h : Keeps s0 s) :
    ∀ a2, Keeps s0 (State.stopBasin s a2) := by
  intro a2
  unfold State.stopBasin
  repeat' first
      | with_reducible assumption | intro _ | with_reducible apply keeps_ite | with_reducible apply keeps_each
      | with_reducible apply State.copyStopped_keeps | with_reducible apply State.finish_keeps | with_reducible apply State.taskEnd_keeps
      | with_reducible apply State.clearBanks_keeps | with_reducible apply State.clearRill_keeps
      | with_reducible apply State.endWork_keeps | with_reducible apply State.endSavedAll_keeps
      | with_reducible apply State.abandonOps_keeps | with_reducible apply State.endSwitch_keeps

theorem State.stopUnit_keeps {s : State} (h : Keeps s0 s) :
    ∀ a2 a3, Keeps s0 (State.stopUnit s a2 a3) := by
  intro a2 a3
  unfold State.stopUnit
  repeat' first
      | with_reducible assumption | intro _ | with_reducible apply keeps_ite | with_reducible apply keeps_each
      | with_reducible apply State.taskEnd_keeps | with_reducible apply State.finishNow_keeps
      | with_reducible apply State.clearBanks_keeps | with_reducible apply State.clearRill_keeps
      | with_reducible apply State.abandon_keeps | with_reducible apply State.abandonOps_keeps

theorem State.stopCascade_keeps {s : State} (h : Keeps s0 s) :
    ∀ a2, Keeps s0 (State.stopCascade s a2) := by
  intro a2
  unfold State.stopCascade
  repeat' first
      | with_reducible assumption | intro _ | with_reducible apply keeps_ite | with_reducible apply State.setCascade_keeps
      | with_reducible apply keeps_each | with_reducible apply State.cascadeDropFetch_keeps | with_reducible apply State.finishNow_keeps
      | with_reducible apply State.abandon_keeps

theorem State.unsilence_keeps {s : State} (h : Keeps s0 s) :
    ∀ a2, Keeps s0 (State.unsilence s a2) := by
  intro a2
  unfold State.unsilence
  repeat' first
      | with_reducible assumption | intro _ | with_reducible apply keeps_ite | with_reducible apply keeps_foldl
      | with_reducible apply keeps_foldl1 | with_reducible apply keeps_foldl2 | with_reducible refine keeps_fst (by assumption) ?_
      | with_reducible refine keeps_snd (by assumption) ?_ | fail_if_no_progress with_reducible apply keeps_mk

theorem State.fenceEffect_keeps {s : State} (h : Keeps s0 s) :
    ∀ a2, Keeps s0 (State.fenceEffect s a2) := by
  intro a2
  unfold State.fenceEffect
  repeat' first
      | with_reducible assumption | intro _ | with_reducible apply keeps_ite | with_reducible apply keeps_each
      | with_reducible apply State.setItem_keeps | with_reducible apply State.showItem_keeps
      | with_reducible apply State.abandonRadio_keeps | with_reducible apply State.stopBasin_keeps
      | with_reducible apply State.stopUnit_keeps | with_reducible apply State.stopCascade_keeps
      | with_reducible apply State.unsilence_keeps | with_reducible apply keeps_foldl | with_reducible apply keeps_foldl1
      | with_reducible apply keeps_foldl2 | with_reducible refine keeps_fst (by assumption) ?_
      | with_reducible refine keeps_snd (by assumption) ?_ | fail_if_no_progress with_reducible apply keeps_mk | dsimp only | split

theorem State.resetClears_keeps {s : State} (h : Keeps s0 s) :
    ∀ a2, Keeps s0 (State.resetClears s a2) := by
  intro a2
  unfold State.resetClears
  repeat' first
      | with_reducible assumption | intro _ | with_reducible apply keeps_ite | with_reducible apply State.setItem_keeps
      | with_reducible apply keeps_foldl | with_reducible apply keeps_foldl1 | with_reducible apply keeps_foldl2
      | with_reducible refine keeps_fst (by assumption) ?_ | with_reducible refine keeps_snd (by assumption) ?_
      | fail_if_no_progress with_reducible apply keeps_mk

theorem State.fenceDecide_keeps {s : State} (h : Keeps s0 s) :
    ∀ a2 a3 a4, Keeps s0 (State.fenceDecide s a2 a3 a4) := by
  intro a2 a3 a4
  unfold State.fenceDecide
  repeat' first
      | with_reducible assumption | intro _ | with_reducible apply keeps_ite | with_reducible apply State.event_keeps
      | with_reducible apply State.health_keeps | with_reducible apply State.setItem_keeps | with_reducible apply State.resetClears_keeps

theorem State.notePermanent_keeps {s : State} (h : Keeps s0 s) :
    ∀ a2 a3, Keeps s0 (State.notePermanent s a2 a3) := by
  intro a2 a3
  unfold State.notePermanent
  repeat' first
      | with_reducible assumption | intro _ | with_reducible apply keeps_ite | with_reducible apply State.event_keeps
      | with_reducible apply State.setItem_keeps

theorem State.testFailed_keeps {s : State} (h : Keeps s0 s) :
    ∀ a2 a3, Keeps s0 (State.testFailed s a2 a3) := by
  intro a2 a3
  unfold State.testFailed
  repeat' first
      | with_reducible assumption | intro _ | with_reducible apply keeps_ite | with_reducible apply State.event_keeps
      | with_reducible apply State.health_keeps

theorem State.forgetOctet_keeps {s : State} (h : Keeps s0 s) :
    ∀ a2 a3, Keeps s0 (State.forgetOctet s a2 a3) := by
  intro a2 a3
  unfold State.forgetOctet
  repeat' first
      | with_reducible assumption | intro _ | with_reducible apply keeps_ite | with_reducible apply keeps_each
      | with_reducible apply State.devForget_keeps

theorem State.freshUnits_keeps {s : State} (h : Keeps s0 s) :
    ∀ a2, Keeps s0 (State.freshUnits s a2) := by
  intro a2
  unfold State.freshUnits
  repeat' first
      | with_reducible assumption | intro _ | with_reducible apply keeps_ite | with_reducible apply State.clearBanks_keeps
      | with_reducible apply State.clearRill_keeps

theorem State.zeroTested_keeps {s : State} (h : Keeps s0 s) :
    ∀ a2 a3, Keeps s0 (State.zeroTested s a2 a3) := by
  intro a2 a3
  unfold State.zeroTested
  repeat' first
      | with_reducible assumption | intro _ | with_reducible apply keeps_ite | with_reducible apply State.cZero_keeps
      | with_reducible apply State.pZero_keeps

theorem State.basinTested_keeps {s : State} (h : Keeps s0 s) :
    ∀ a2, Keeps s0 (State.basinTested s a2) := by
  intro a2
  unfold State.basinTested
  repeat' first
      | with_reducible assumption | intro _ | with_reducible apply keeps_ite | with_reducible apply State.clearCounter_keeps
      | with_reducible apply State.zeroRegion_keeps | with_reducible apply State.freshUnits_keeps

theorem State.fenceClear_keeps {s : State} (h : Keeps s0 s) :
    ∀ a2 a3, Keeps s0 (State.fenceClear s a2 a3) := by
  intro a2 a3
  unfold State.fenceClear
  repeat' first
      | with_reducible assumption | intro _ | with_reducible apply keeps_ite | with_reducible apply State.setRegBit_keeps
      | with_reducible apply keeps_each | with_reducible apply State.event_keeps | with_reducible apply State.clearBanks_keeps
      | with_reducible apply State.clearRill_keeps | with_reducible apply State.clearCounter_keeps
      | with_reducible apply State.zeroSems_keeps | with_reducible apply State.setItem_keeps | with_reducible apply State.showItem_keeps
      | with_reducible apply State.forgetOctet_keeps | with_reducible apply State.freshUnits_keeps
      | with_reducible apply State.zeroTested_keeps | with_reducible apply State.basinTested_keeps | with_reducible apply keeps_foldl
      | with_reducible apply keeps_foldl1 | with_reducible apply keeps_foldl2 | with_reducible refine keeps_fst (by assumption) ?_
      | with_reducible refine keeps_snd (by assumption) ?_ | fail_if_no_progress with_reducible apply keeps_mk | dsimp only | split

theorem State.testLeaves_keeps {s : State} (h : Keeps s0 s) :
    ∀ a2 a3, Keeps s0 (State.testLeaves s a2 a3) := by
  intro a2 a3
  unfold State.testLeaves
  repeat' first
      | with_reducible assumption | intro _ | with_reducible apply keeps_ite | with_reducible apply keeps_each
      | with_reducible apply State.loseBasin_keeps

theorem State.testBegin_keeps {s : State} (h : Keeps s0 s) :
    ∀ a2 a3 a4, Keeps s0 (State.testBegin s a2 a3 a4) := by
  intro a2 a3 a4
  unfold State.testBegin
  repeat' first
      | with_reducible assumption | intro _ | with_reducible apply keeps_ite | with_reducible apply keeps_each
      | with_reducible apply State.queueWake_keeps | with_reducible apply State.startRamps_keeps
      | with_reducible apply State.setItem_keeps

theorem Eng.note_keeps {e : Eng} (h : Keeps s0 e.s) : ∀ a n, Keeps s0 (Eng.note e a n).s := fun _ _ => h

theorem keeps_foldlE {α : Type} {f : Eng → α → Eng} (hf : ∀ e a, Keeps s0 e.s → Keeps s0 (f e a).s) :
    ∀ (l : List α) (e : Eng), Keeps s0 e.s → Keeps s0 (l.foldl f e).s
  | [], _, h => h
  | a :: l, e, h => keeps_foldlE hf l (f e a) (hf e a h)

theorem keeps_foldlE1 {α β : Type} {f : Eng × β → α → Eng × β} (hf : ∀ e a, Keeps s0 e.1.s → Keeps s0 (f e a).1.s) :
    ∀ (l : List α) (e : Eng × β), Keeps s0 e.1.s → Keeps s0 (l.foldl f e).1.s
  | [], _, h => h
  | a :: l, e, h => keeps_foldlE1 hf l (f e a) (hf e a h)

theorem keeps_fstE {α : Type} {p : Eng × α} {a : α} {e : Eng} (q : p = (e, a)) (h : Keeps s0 p.1.s) : Keeps s0 e.s := by
  subst q; exact h

theorem Eng.rd_keeps {e : Eng} (h : Keeps s0 e.s) :
    ∀ a2 a3, Keeps s0 (Eng.rd e a2 a3).1.s := by
  intro a2 a3
  unfold Eng.rd
  repeat' first
      | with_reducible assumption | intro _ | with_reducible apply keeps_ite | with_reducible apply Eng.note_keeps

theorem Eng.wrBytes_keeps {e : Eng} (h : Keeps s0 e.s) :
    ∀ a2 a3, Keeps s0 (Eng.wrBytes e a2 a3).s := by
  intro a2 a3
  unfold Eng.wrBytes
  repeat' first
      | with_reducible assumption | intro _ | with_reducible apply keeps_ite | with_reducible apply State.devWrite_keeps
      | with_reducible apply Eng.note_keeps

theorem Eng.wr_keeps {e : Eng} (h : Keeps s0 e.s) :
    ∀ a2 a3 a4, Keeps s0 (Eng.wr e a2 a3 a4).s := by
  intro a2 a3 a4
  unfold Eng.wr
  repeat' first
      | with_reducible assumption | intro _ | with_reducible apply keeps_ite | with_reducible apply Eng.wrBytes_keeps

theorem Eng.desc_keeps {e : Eng} (h : Keeps s0 e.s) :
    ∀ a2, Keeps s0 (Eng.desc e a2).1.s := by
  intro a2
  unfold Eng.desc
  repeat' first
      | with_reducible assumption | intro _ | with_reducible apply keeps_ite | with_reducible apply Eng.rd_keeps
      | with_reducible apply keeps_foldlE | with_reducible apply keeps_foldlE1 | with_reducible refine keeps_fstE (by assumption) ?_
      | with_reducible apply keeps_foldl | with_reducible apply keeps_foldl1 | with_reducible apply keeps_foldl2
      | with_reducible refine keeps_fst (by assumption) ?_ | with_reducible refine keeps_snd (by assumption) ?_
      | fail_if_no_progress with_reducible apply keeps_mk | dsimp only | split

theorem Eng.store_keeps {e : Eng} (h : Keeps s0 e.s) :
    ∀ a2 a3, Keeps s0 (Eng.store e a2 a3).s := by
  intro a2 a3
  unfold Eng.store
  repeat' first
      | with_reducible assumption | intro _ | with_reducible apply keeps_ite | with_reducible apply State.wr_keeps
      | with_reducible apply Eng.wr_keeps | with_reducible apply Eng.desc_keeps | with_reducible apply keeps_foldlE
      | with_reducible apply keeps_foldlE1 | with_reducible refine keeps_fstE (by assumption) ?_ | with_reducible apply keeps_foldl
      | with_reducible apply keeps_foldl1 | with_reducible apply keeps_foldl2 | with_reducible refine keeps_fst (by assumption) ?_
      | with_reducible refine keeps_snd (by assumption) ?_ | fail_if_no_progress with_reducible apply keeps_mk | dsimp only | split

theorem Eng.find_keeps {e : Eng} (h : Keeps s0 e.s) :
    ∀ a2 a3 a4, Keeps s0 (Eng.find e a2 a3 a4).1.s := by
  intro a2 a3 a4
  unfold Eng.find
  repeat' first
      | with_reducible assumption | intro _ | with_reducible apply keeps_ite | with_reducible apply Eng.desc_keeps
      | with_reducible apply keeps_foldlE | with_reducible apply keeps_foldlE1 | with_reducible refine keeps_fstE (by assumption) ?_
      | with_reducible apply keeps_foldl | with_reducible apply keeps_foldl1 | with_reducible apply keeps_foldl2
      | with_reducible refine keeps_fst (by assumption) ?_ | with_reducible refine keeps_snd (by assumption) ?_
      | fail_if_no_progress with_reducible apply keeps_mk | dsimp only | split

theorem Eng.pte_keeps {e : Eng} (h : Keeps s0 e.s) :
    ∀ a2, Keeps s0 (Eng.pte e a2).1.s := by
  intro a2
  unfold Eng.pte
  repeat' first
      | with_reducible assumption | intro _ | with_reducible apply keeps_ite | with_reducible apply Eng.rd_keeps

theorem Eng.setPte_keeps {e : Eng} (h : Keeps s0 e.s) :
    ∀ a2 a3, Keeps s0 (Eng.setPte e a2 a3).s := by
  intro a2 a3
  unfold Eng.setPte
  repeat' first
      | with_reducible assumption | intro _ | with_reducible apply keeps_ite | with_reducible apply State.bump_keeps
      | with_reducible apply Eng.wr_keeps

theorem Eng.push_keeps {e : Eng} (h : Keeps s0 e.s) :
    ∀ a2 a3 a4, Keeps s0 (Eng.push e a2 a3 a4).s := by
  intro a2 a3 a4
  unfold Eng.push
  repeat' first
      | with_reducible assumption | intro _ | with_reducible apply keeps_ite | with_reducible apply State.wr_keeps
      | with_reducible apply Eng.wr_keeps

theorem Eng.pop_keeps {e : Eng} (h : Keeps s0 e.s) :
    ∀ a2 a3, Keeps s0 (Eng.pop e a2 a3).1.s := by
  intro a2 a3
  unfold Eng.pop
  repeat' first
      | with_reducible assumption | intro _ | with_reducible apply keeps_ite | with_reducible apply State.wr_keeps
      | with_reducible apply Eng.rd_keeps | with_reducible apply keeps_foldlE | with_reducible apply keeps_foldlE1
      | with_reducible refine keeps_fstE (by assumption) ?_ | with_reducible apply keeps_foldl | with_reducible apply keeps_foldl1
      | with_reducible apply keeps_foldl2 | with_reducible refine keeps_fst (by assumption) ?_
      | with_reducible refine keeps_snd (by assumption) ?_ | fail_if_no_progress with_reducible apply keeps_mk | dsimp only | split

theorem Eng.alloc_keeps {e : Eng} (h : Keeps s0 e.s) :
    ∀ a2 a3, Keeps s0 (Eng.alloc e a2 a3).1.s := by
  intro a2 a3
  unfold Eng.alloc
  repeat' first
      | with_reducible assumption | intro _ | with_reducible apply keeps_ite | with_reducible apply State.bump_keeps
      | with_reducible apply Eng.pte_keeps | with_reducible apply Eng.setPte_keeps | with_reducible apply Eng.pop_keeps
      | with_reducible apply keeps_foldlE | with_reducible apply keeps_foldlE1 | with_reducible refine keeps_fstE (by assumption) ?_
      | with_reducible apply keeps_foldl | with_reducible apply keeps_foldl1 | with_reducible apply keeps_foldl2
      | with_reducible refine keeps_fst (by assumption) ?_ | with_reducible refine keeps_snd (by assumption) ?_
      | fail_if_no_progress with_reducible apply keeps_mk | dsimp only | split

theorem Eng.freePage_keeps {e : Eng} (h : Keeps s0 e.s) :
    ∀ a2 a3, Keeps s0 (Eng.freePage e a2 a3).s := by
  intro a2 a3
  unfold Eng.freePage
  repeat' first
      | with_reducible assumption | intro _ | with_reducible apply keeps_ite | with_reducible apply Eng.setPte_keeps
      | with_reducible apply Eng.push_keeps

theorem Eng.dropRef_keeps {e : Eng} (h : Keeps s0 e.s) :
    ∀ a2 a3, Keeps s0 (Eng.dropRef e a2 a3).s := by
  intro a2 a3
  unfold Eng.dropRef
  repeat' first
      | with_reducible assumption | intro _ | with_reducible apply keeps_ite | with_reducible apply Eng.setPte_keeps
      | with_reducible apply Eng.freePage_keeps | with_reducible apply keeps_foldlE | with_reducible apply keeps_foldlE1
      | with_reducible refine keeps_fstE (by assumption) ?_ | with_reducible apply keeps_foldl | with_reducible apply keeps_foldl1
      | with_reducible apply keeps_foldl2 | with_reducible refine keeps_fst (by assumption) ?_
      | with_reducible refine keeps_snd (by assumption) ?_ | fail_if_no_progress with_reducible apply keeps_mk | dsimp only | split

theorem Eng.releaseAt_keeps {e : Eng} (h : Keeps s0 e.s) :
    ∀ a2 a3 a4, Keeps s0 (Eng.releaseAt e a2 a3 a4).s := by
  intro a2 a3 a4
  unfold Eng.releaseAt
  repeat' first
      | with_reducible assumption | intro _ | with_reducible apply keeps_ite | with_reducible apply Eng.rd_keeps
      | with_reducible apply Eng.wr_keeps | with_reducible apply Eng.pte_keeps | with_reducible apply Eng.freePage_keeps
      | with_reducible apply Eng.dropRef_keeps | with_reducible apply keeps_foldlE | with_reducible apply keeps_foldlE1
      | with_reducible refine keeps_fstE (by assumption) ?_ | with_reducible apply keeps_foldl | with_reducible apply keeps_foldl1
      | with_reducible apply keeps_foldl2 | with_reducible refine keeps_fst (by assumption) ?_
      | with_reducible refine keeps_snd (by assumption) ?_ | fail_if_no_progress with_reducible apply keeps_mk | dsimp only | split

theorem Eng.leave_keeps {e : Eng} (h : Keeps s0 e.s) :
    ∀ a2 a3 a4, Keeps s0 (Eng.leave e a2 a3 a4).s := by
  intro a2 a3 a4
  unfold Eng.leave
  repeat' first
      | with_reducible assumption | intro _ | with_reducible apply keeps_ite | with_reducible apply Eng.store_keeps
      | with_reducible apply Eng.releaseAt_keeps | with_reducible apply keeps_foldlE | with_reducible apply keeps_foldlE1
      | with_reducible refine keeps_fstE (by assumption) ?_ | with_reducible apply keeps_foldl | with_reducible apply keeps_foldl1
      | with_reducible apply keeps_foldl2 | with_reducible refine keeps_fst (by assumption) ?_
      | with_reducible refine keeps_snd (by assumption) ?_ | fail_if_no_progress with_reducible apply keeps_mk | dsimp only | split

theorem Eng.done_keeps {e : Eng} (h : Keeps s0 e.s) :
    ∀ a2, Keeps s0 (Eng.done e a2) := by
  intro a2
  unfold Eng.done
  repeat' first
      | with_reducible assumption | intro _ | with_reducible apply keeps_ite | with_reducible apply State.modCmd_keeps

theorem State.sendRows_keeps {s : State} (h : Keeps s0 s) : ∀ c l, Keeps s0 (State.sendRows s c l).1 := by
  intro c l
  induction l generalizing s with
  | nil => exact h
  | cons a l ih =>
  unfold State.sendRows
  repeat' first
      | with_reducible assumption | intro _ | with_reducible apply keeps_ite | with_reducible apply ih
      | with_reducible apply State.aqdSend_keeps | with_reducible apply keeps_foldl1 | with_reducible refine keeps_fst (by assumption) ?_
      | with_reducible refine keeps_snd (by assumption) ?_ | fail_if_no_progress with_reducible apply keeps_mk | dsimp only | split

theorem Eng.finish_keeps {e : Eng} (h : Keeps s0 e.s) :
    ∀ a2 a3 a4, Keeps s0 (Eng.finish e a2 a3 a4) := by
  intro a2 a3 a4
  unfold Eng.finish
  repeat' first
      | with_reducible assumption | intro _ | with_reducible apply keeps_ite | with_reducible apply State.modCmd_keeps
      | with_reducible apply State.finish_keeps | with_reducible apply State.beginCmd_keeps | with_reducible apply State.sendRows_keeps
      | with_reducible apply keeps_foldlE | with_reducible apply keeps_foldlE1 | with_reducible refine keeps_fstE (by assumption) ?_
      | with_reducible apply keeps_foldl | with_reducible apply keeps_foldl1 | with_reducible apply keeps_foldl2
      | with_reducible refine keeps_fst (by assumption) ?_ | with_reducible refine keeps_snd (by assumption) ?_
      | fail_if_no_progress with_reducible apply keeps_mk | dsimp only | split

theorem State.serveWritten_keeps {s : State} (h : Keeps s0 s) :
    ∀ a2, Keeps s0 (State.serveWritten s a2) := by
  intro a2
  unfold State.serveWritten
  repeat' first
      | with_reducible assumption | intro _ | with_reducible apply keeps_ite | with_reducible apply State.finish_keeps

theorem State.serveAct_keeps {s : State} {k3 : State → Cmd → State} (h : Keeps s0 s) (hk3 : ∀ x0 x1, Keeps s0 x0 → Keeps s0 (k3 x0 x1)) :
    ∀ a2, Keeps s0 (State.serveAct s a2 k3) := by
  intro a2
  unfold State.serveAct
  repeat' first
      | with_reducible assumption | intro _ | with_reducible apply keeps_ite | with_reducible apply keeps_forSome
      | with_reducible apply State.finishNow_keeps | with_reducible apply hk3

theorem State.serveRun_keeps {s : State} {k3 : Eng → Cmd → Eng × ℕ × ℕ} (h : Keeps s0 s) (hk3 : ∀ x0 x1, Keeps s0 x0.s → Keeps s0 (k3 x0 x1).1.s) :
    ∀ a2, Keeps s0 (State.serveRun s a2 k3) := by
  intro a2
  unfold State.serveRun
  repeat' first
      | with_reducible assumption | intro _ | with_reducible apply keeps_ite | with_reducible apply Eng.finish_keeps
      | with_reducible apply State.serveAct_keeps | with_reducible apply hk3

theorem Eng.create_keeps {e : Eng} (h : Keeps s0 e.s) :
    ∀ a2, Keeps s0 (Eng.create e a2).1.s := by
  intro a2
  unfold Eng.create
  repeat' first
      | with_reducible assumption | intro _ | with_reducible apply keeps_ite | with_reducible apply Eng.store_keeps
      | with_reducible apply keeps_foldlE | with_reducible apply keeps_foldlE1 | with_reducible refine keeps_fstE (by assumption) ?_
      | with_reducible apply keeps_foldl | with_reducible apply keeps_foldl1 | with_reducible apply keeps_foldl2
      | with_reducible refine keeps_fst (by assumption) ?_ | with_reducible refine keeps_snd (by assumption) ?_
      | fail_if_no_progress with_reducible apply keeps_mk | dsimp only | split

theorem State.queueRec_keeps {s : State} (h : Keeps s0 s) :
    ∀ a2 a3 a4 a5, Keeps s0 (State.queueRec s a2 a3 a4 a5) := by
  intro a2 a3 a4 a5
  unfold State.queueRec
  repeat' first
      | with_reducible assumption | intro _ | with_reducible apply keeps_ite | with_reducible apply keeps_foldl
      | with_reducible apply keeps_foldl1 | with_reducible apply keeps_foldl2 | with_reducible refine keeps_fst (by assumption) ?_
      | with_reducible refine keeps_snd (by assumption) ?_ | fail_if_no_progress with_reducible apply keeps_mk

theorem State.deliver_keeps {s : State} (h : Keeps s0 s) : ∀ p n sl, Keeps s0 (State.deliver p n s sl) := by
  intro p n
  induction n generalizing s with
  | zero => exact fun _ => h
  | succ n ih =>
  intro sl
  unfold State.deliver
  repeat' first
      | with_reducible assumption | intro _ | with_reducible apply keeps_ite | with_reducible apply ih
      | with_reducible apply State.modCmd_keeps | with_reducible apply State.bump_keeps | with_reducible apply State.wr_keeps
      | with_reducible apply State.hostWrite_keeps | with_reducible refine keeps_fst (by assumption) ?_
      | with_reducible refine keeps_snd (by assumption) ?_ | fail_if_no_progress with_reducible apply keeps_mk | dsimp only | split

theorem State.deliverAll_keeps {s : State} (h : Keeps s0 s) :
    ∀ a2, Keeps s0 (State.deliverAll s a2) := by
  intro a2
  unfold State.deliverAll
  repeat' first
      | with_reducible assumption | intro _ | with_reducible apply keeps_ite | with_reducible apply State.deliver_keeps

theorem State.tokTailWritten_keeps {s : State} (h : Keeps s0 s) :
    ∀ a2, Keeps s0 (State.tokTailWritten s a2) := by
  intro a2
  unfold State.tokTailWritten
  repeat' first
      | with_reducible assumption | intro _ | with_reducible apply keeps_ite | with_reducible apply State.deliver_keeps

theorem State.tokRefused_keeps {s : State} (h : Keeps s0 s) : ∀ id r, s.tokRefused id = some r → Keeps s0 r.1 := by
  intro id r hr
  unfold State.tokRefused at hr
  repeat' split at hr
  all_goals cases hr
  exact keeps_mk (State.hostFree_keeps h _ _ _)

theorem State.tokRefused_some {s t : State} {id : Nat} {k : Cmd} {b : Bool} (e : s.tokRefused id = some (t, k, b)) (h : Keeps s0 s) :
    Keeps s0 t := State.tokRefused_keeps h id _ e

theorem State.endRefused_keeps {s : State} (h : Keeps s0 s) :
    ∀ a2 a3, Keeps s0 (State.endRefused s a2 a3) := by
  intro a2 a3
  unfold State.endRefused
  repeat' first
      | with_reducible assumption | intro _ | with_reducible apply keeps_ite | with_reducible apply State.finishCore_keeps
      | with_reducible apply State.refusal_keeps

theorem State.cancelOrPause_keeps {s : State} (h : Keeps s0 s) :
    ∀ a2 a3, Keeps s0 (State.cancelOrPause s a2 a3) := by
  intro a2 a3
  unfold State.cancelOrPause
  repeat' first
      | with_reducible assumption | intro _ | with_reducible apply keeps_ite | with_reducible apply Eng.store_keeps
      | with_reducible apply Eng.find_keeps | with_reducible apply Eng.leave_keeps | with_reducible apply Eng.done_keeps
      | with_reducible apply Eng.finish_keeps | with_reducible apply State.serveAct_keeps | with_reducible apply State.queueRec_keeps
      | with_reducible apply State.deliverAll_keeps | with_reducible refine State.tokRefused_some (by assumption) ?_
      | with_reducible apply State.endRefused_keeps | with_reducible apply keeps_foldlE | with_reducible apply keeps_foldlE1
      | with_reducible refine keeps_fstE (by assumption) ?_ | with_reducible apply keeps_foldl | with_reducible apply keeps_foldl1
      | with_reducible apply keeps_foldl2 | with_reducible refine keeps_fst (by assumption) ?_
      | with_reducible refine keeps_snd (by assumption) ?_ | fail_if_no_progress with_reducible apply keeps_mk | dsimp only | split

theorem Eng.rebuild_keeps {e : Eng} (h : Keeps s0 e.s) :
    ∀ a2, Keeps s0 (Eng.rebuild e a2).1.s := by
  intro a2
  unfold Eng.rebuild
  repeat' first
      | with_reducible assumption | intro _ | with_reducible apply keeps_ite | with_reducible apply Eng.store_keeps
      | with_reducible apply Eng.find_keeps | with_reducible apply keeps_foldlE | with_reducible apply keeps_foldlE1
      | with_reducible refine keeps_fstE (by assumption) ?_ | with_reducible apply keeps_foldl | with_reducible apply keeps_foldl1
      | with_reducible apply keeps_foldl2 | with_reducible refine keeps_fst (by assumption) ?_
      | with_reducible refine keeps_snd (by assumption) ?_ | fail_if_no_progress with_reducible apply keeps_mk | dsimp only | split

theorem Eng.release_keeps {e : Eng} (h : Keeps s0 e.s) :
    ∀ a2, Keeps s0 (Eng.release e a2).1.s := by
  intro a2
  unfold Eng.release
  repeat' first
      | with_reducible assumption | intro _ | with_reducible apply keeps_ite | with_reducible apply Eng.store_keeps
      | with_reducible apply Eng.find_keeps | with_reducible apply Eng.leave_keeps | with_reducible apply keeps_foldlE
      | with_reducible apply keeps_foldlE1 | with_reducible refine keeps_fstE (by assumption) ?_ | with_reducible apply keeps_foldl
      | with_reducible apply keeps_foldl1 | with_reducible apply keeps_foldl2 | with_reducible refine keeps_fst (by assumption) ?_
      | with_reducible refine keeps_snd (by assumption) ?_ | fail_if_no_progress with_reducible apply keeps_mk | dsimp only | split

theorem Eng.provision_keeps {e : Eng} (h : Keeps s0 e.s) :
    ∀ a2, Keeps s0 (Eng.provision e a2).1.s := by
  intro a2
  unfold Eng.provision
  repeat' first
      | with_reducible assumption | intro _ | with_reducible apply keeps_ite | with_reducible apply Eng.rd_keeps
      | with_reducible apply Eng.pte_keeps | with_reducible apply Eng.setPte_keeps | with_reducible apply Eng.push_keeps
      | with_reducible apply keeps_foldlE | with_reducible apply keeps_foldlE1 | with_reducible refine keeps_fstE (by assumption) ?_
      | with_reducible apply keeps_foldl | with_reducible apply keeps_foldl1 | with_reducible apply keeps_foldl2
      | with_reducible refine keeps_fst (by assumption) ?_ | with_reducible refine keeps_snd (by assumption) ?_
      | fail_if_no_progress with_reducible apply keeps_mk | dsimp only | split

theorem Eng.reclaim_keeps {e : Eng} (h : Keeps s0 e.s) :
    ∀ a2, Keeps s0 (Eng.reclaim e a2).1.s := by
  intro a2
  unfold Eng.reclaim
  repeat' first
      | with_reducible assumption | intro _ | with_reducible apply keeps_ite | with_reducible apply Eng.wr_keeps
      | with_reducible apply Eng.setPte_keeps | with_reducible apply Eng.pop_keeps | with_reducible apply keeps_foldlE
      | with_reducible apply keeps_foldlE1 | with_reducible refine keeps_fstE (by assumption) ?_ | with_reducible apply keeps_foldl
      | with_reducible apply keeps_foldl1 | with_reducible apply keeps_foldl2 | with_reducible refine keeps_fst (by assumption) ?_
      | with_reducible refine keeps_snd (by assumption) ?_ | fail_if_no_progress with_reducible apply keeps_mk | dsimp only | split

theorem Eng.fill_keeps {e : Eng} (h : Keeps s0 e.s) : ∀ n st l, Keeps s0 (Eng.fill e n st l).1.s := by
  intro n st l
  induction l generalizing e with
  | nil => exact h
  | cons a l ih =>
  unfold Eng.fill
  repeat' first
      | with_reducible assumption | intro _ | with_reducible apply keeps_ite | with_reducible apply ih | with_reducible apply Eng.rd_keeps
      | with_reducible apply Eng.wr_keeps | with_reducible apply Eng.alloc_keeps | with_reducible refine keeps_fstE (by assumption) ?_
      | with_reducible refine keeps_fst (by assumption) ?_ | with_reducible refine keeps_snd (by assumption) ?_
      | fail_if_no_progress with_reducible apply keeps_mk | dsimp only | split

theorem Eng.reserve_keeps {e : Eng} (h : Keeps s0 e.s) :
    ∀ a2, Keeps s0 (Eng.reserve e a2).1.s := by
  intro a2
  unfold Eng.reserve
  repeat' first
      | with_reducible assumption | intro _ | with_reducible apply keeps_ite | with_reducible apply Eng.store_keeps
      | with_reducible apply Eng.find_keeps | with_reducible apply Eng.fill_keeps | with_reducible apply keeps_foldlE
      | with_reducible apply keeps_foldlE1 | with_reducible refine keeps_fstE (by assumption) ?_ | with_reducible apply keeps_foldl
      | with_reducible apply keeps_foldl1 | with_reducible apply keeps_foldl2 | with_reducible refine keeps_fst (by assumption) ?_
      | with_reducible refine keeps_snd (by assumption) ?_ | fail_if_no_progress with_reducible apply keeps_mk | dsimp only | split

theorem Eng.rowPages_keeps {e : Eng} (h : Keeps s0 e.s) : ∀ c n d st l, Keeps s0 (Eng.rowPages e c n d st l).1.s := by
  intro c n d st l
  induction l generalizing e with
  | nil => exact h
  | cons a l ih =>
  unfold Eng.rowPages
  repeat' first
      | with_reducible assumption | intro _ | with_reducible apply keeps_ite | with_reducible apply ih | with_reducible apply Eng.rd_keeps
      | with_reducible apply Eng.fill_keeps | with_reducible apply Eng.pte_keeps | with_reducible refine keeps_fstE (by assumption) ?_
      | with_reducible refine keeps_fst (by assumption) ?_ | with_reducible refine keeps_snd (by assumption) ?_
      | fail_if_no_progress with_reducible apply keeps_mk | dsimp only | split

theorem Eng.copyBytes_keeps {e : Eng} (h : Keeps s0 e.s) :
    ∀ a2 a3 a4 a5 a6, Keeps s0 (Eng.copyBytes e a2 a3 a4 a5 a6).s := by
  intro a2 a3 a4 a5 a6
  unfold Eng.copyBytes
  repeat' first
      | with_reducible assumption | intro _ | with_reducible apply keeps_ite | with_reducible apply State.eccRead_keeps
      | with_reducible apply Eng.wrBytes_keeps | with_reducible apply keeps_foldlE | with_reducible apply keeps_foldlE1
      | with_reducible refine keeps_fstE (by assumption) ?_ | with_reducible apply keeps_foldl | with_reducible apply keeps_foldl1
      | with_reducible apply keeps_foldl2 | with_reducible refine keeps_fst (by assumption) ?_
      | with_reducible refine keeps_snd (by assumption) ?_ | fail_if_no_progress with_reducible apply keeps_mk | dsimp only | split

theorem Eng.copyRow_keeps {e : Eng} (h : Keeps s0 e.s) :
    ∀ a2 a3 a4 a5 a6 a7, Keeps s0 (Eng.copyRow e a2 a3 a4 a5 a6 a7).s := by
  intro a2 a3 a4 a5 a6 a7
  unfold Eng.copyRow
  repeat' first
      | with_reducible assumption | intro _ | with_reducible apply keeps_ite | with_reducible apply Eng.copyBytes_keeps

theorem Eng.appendRow_keeps {e : Eng} (h : Keeps s0 e.s) :
    ∀ a2 a3 a4, Keeps s0 (Eng.appendRow e a2 a3 a4).1.s := by
  intro a2 a3 a4
  unfold Eng.appendRow
  repeat' first
      | with_reducible assumption | intro _ | with_reducible apply keeps_ite | with_reducible apply Eng.find_keeps
      | with_reducible apply Eng.rowPages_keeps | with_reducible apply Eng.copyRow_keeps | with_reducible apply keeps_foldlE
      | with_reducible apply keeps_foldlE1 | with_reducible refine keeps_fstE (by assumption) ?_ | with_reducible apply keeps_foldl
      | with_reducible apply keeps_foldl1 | with_reducible apply keeps_foldl2 | with_reducible refine keeps_fst (by assumption) ?_
      | with_reducible refine keeps_snd (by assumption) ?_ | fail_if_no_progress with_reducible apply keeps_mk | dsimp only | split

theorem Eng.append_keeps {e : Eng} (h : Keeps s0 e.s) :
    ∀ a2, Keeps s0 (Eng.append e a2).1.s := by
  intro a2
  unfold Eng.append
  repeat' first
      | with_reducible assumption | intro _ | with_reducible apply keeps_ite | with_reducible apply Eng.rd_keeps
      | with_reducible apply Eng.appendRow_keeps | with_reducible apply keeps_foldlE | with_reducible apply keeps_foldlE1
      | with_reducible refine keeps_fstE (by assumption) ?_ | with_reducible apply keeps_foldl | with_reducible apply keeps_foldl1
      | with_reducible apply keeps_foldl2 | with_reducible refine keeps_fst (by assumption) ?_
      | with_reducible refine keeps_snd (by assumption) ?_ | fail_if_no_progress with_reducible apply keeps_mk | dsimp only | split

theorem Eng.ptes_keeps {e : Eng} (h : Keeps s0 e.s) : ∀ l, Keeps s0 (Eng.ptes e l).1.s := by
  intro l
  induction l generalizing e with
  | nil => exact h
  | cons a l ih =>
  unfold Eng.ptes
  repeat' first
      | with_reducible assumption | intro _ | with_reducible apply keeps_ite | with_reducible apply ih
      | with_reducible apply Eng.pte_keeps | with_reducible refine keeps_fstE (by assumption) ?_
      | with_reducible refine keeps_fst (by assumption) ?_ | with_reducible refine keeps_snd (by assumption) ?_
      | fail_if_no_progress with_reducible apply keeps_mk | dsimp only | split

theorem Eng.seal_keeps {e : Eng} (h : Keeps s0 e.s) :
    ∀ a2, Keeps s0 (Eng.seal e a2).1.s := by
  intro a2
  unfold Eng.seal
  repeat' first
      | with_reducible assumption | intro _ | with_reducible apply keeps_ite | with_reducible apply Eng.rd_keeps
      | with_reducible apply Eng.wr_keeps | with_reducible apply Eng.store_keeps | with_reducible apply Eng.find_keeps
      | with_reducible apply Eng.setPte_keeps | with_reducible apply Eng.ptes_keeps | with_reducible apply keeps_foldlE
      | with_reducible apply keeps_foldlE1 | with_reducible refine keeps_fstE (by assumption) ?_ | with_reducible apply keeps_foldl
      | with_reducible apply keeps_foldl1 | with_reducible apply keeps_foldl2 | with_reducible refine keeps_fst (by assumption) ?_
      | with_reducible refine keeps_snd (by assumption) ?_ | fail_if_no_progress with_reducible apply keeps_mk | dsimp only | split

theorem Eng.sharedRecord_keeps {e : Eng} (h : Keeps s0 e.s) :
    ∀ a2 a3, Keeps s0 (Eng.sharedRecord e a2 a3).1.s := by
  intro a2 a3
  unfold Eng.sharedRecord
  repeat' first
      | with_reducible assumption | intro _ | with_reducible apply keeps_ite | with_reducible apply Eng.rd_keeps
      | with_reducible apply Eng.ptes_keeps | with_reducible apply keeps_foldlE | with_reducible apply keeps_foldlE1
      | with_reducible refine keeps_fstE (by assumption) ?_ | with_reducible apply keeps_foldl | with_reducible apply keeps_foldl1
      | with_reducible apply keeps_foldl2 | with_reducible refine keeps_fst (by assumption) ?_
      | with_reducible refine keeps_snd (by assumption) ?_ | fail_if_no_progress with_reducible apply keeps_mk | dsimp only | split

theorem Eng.attach_keeps {e : Eng} (h : Keeps s0 e.s) :
    ∀ a2, Keeps s0 (Eng.attach e a2).1.s := by
  intro a2
  unfold Eng.attach
  repeat' first
      | with_reducible assumption | intro _ | with_reducible apply keeps_ite | with_reducible apply Eng.wr_keeps
      | with_reducible apply Eng.store_keeps | with_reducible apply Eng.find_keeps | with_reducible apply Eng.pte_keeps
      | with_reducible apply Eng.setPte_keeps | with_reducible apply Eng.sharedRecord_keeps | with_reducible apply keeps_foldlE
      | with_reducible apply keeps_foldlE1 | with_reducible refine keeps_fstE (by assumption) ?_ | with_reducible apply keeps_foldl
      | with_reducible apply keeps_foldl1 | with_reducible apply keeps_foldl2 | with_reducible refine keeps_fst (by assumption) ?_
      | with_reducible refine keeps_snd (by assumption) ?_ | fail_if_no_progress with_reducible apply keeps_mk | dsimp only | split

theorem Eng.dropPrefix_keeps {e : Eng} (h : Keeps s0 e.s) :
    ∀ a2, Keeps s0 (Eng.dropPrefix e a2).1.s := by
  intro a2
  unfold Eng.dropPrefix
  repeat' first
      | with_reducible assumption | intro _ | with_reducible apply keeps_ite | with_reducible apply Eng.pte_keeps
      | with_reducible apply Eng.dropRef_keeps | with_reducible apply Eng.sharedRecord_keeps | with_reducible apply keeps_foldlE
      | with_reducible apply keeps_foldlE1 | with_reducible refine keeps_fstE (by assumption) ?_ | with_reducible apply keeps_foldl
      | with_reducible apply keeps_foldl1 | with_reducible apply keeps_foldl2 | with_reducible refine keeps_fst (by assumption) ?_
      | with_reducible refine keeps_snd (by assumption) ?_ | fail_if_no_progress with_reducible apply keeps_mk | dsimp only | split

end Sys2Proof.Machine
end

