-- ==== Sys2Proof/Laws/Keeps4.lean ====
section
/-! SUPPORT. What every operation keeps, part 4: the queue, and the order of registers and memories. -/
namespace Sys2Proof.Machine

variable {s0 : State}

theorem State.handoffAct_keeps {s : State} (h : Keeps s0 s) :
    ∀ a2, Keeps s0 (State.handoffAct s a2) := by
  intro a2
  unfold State.handoffAct
  repeat' first
      | with_reducible assumption | intro _ | with_reducible apply keeps_ite | with_reducible apply Eng.rd_keeps
      | with_reducible apply Eng.store_keeps | with_reducible apply Eng.find_keeps | with_reducible apply Eng.pte_keeps
      | with_reducible apply Eng.setPte_keeps | with_reducible apply Eng.finish_keeps | with_reducible apply keeps_foldlE
      | with_reducible apply keeps_foldlE1 | with_reducible refine keeps_fstE (by assumption) ?_ | with_reducible apply keeps_foldl
      | with_reducible apply keeps_foldl1 | with_reducible apply keeps_foldl2 | with_reducible refine keeps_fst (by assumption) ?_
      | with_reducible refine keeps_snd (by assumption) ?_ | fail_if_no_progress with_reducible apply keeps_mk | dsimp only | split

theorem State.handoff_keeps {s : State} (h : Keeps s0 s) :
    ∀ a2, Keeps s0 (State.handoff s a2) := by
  intro a2
  unfold State.handoff
  repeat' first
      | with_reducible assumption | intro _ | with_reducible apply keeps_ite | with_reducible apply State.modCmd_keeps
      | with_reducible apply State.beginCmd_keeps | with_reducible apply Eng.find_keeps | with_reducible apply Eng.finish_keeps
      | with_reducible apply State.handoffAct_keeps

theorem Eng.latchRow_keeps {e : Eng} (h : Keeps s0 e.s) :
    ∀ a2 a3, Keeps s0 (Eng.latchRow e a2 a3).1.s := by
  intro a2 a3
  unfold Eng.latchRow
  repeat' first
      | with_reducible assumption | intro _ | with_reducible apply keeps_ite | with_reducible apply Eng.store_keeps
      | with_reducible apply Eng.find_keeps | with_reducible apply keeps_foldlE | with_reducible apply keeps_foldlE1
      | with_reducible refine keeps_fstE (by assumption) ?_ | with_reducible apply keeps_foldl | with_reducible apply keeps_foldl1
      | with_reducible apply keeps_foldl2 | with_reducible refine keeps_fst (by assumption) ?_
      | with_reducible refine keeps_snd (by assumption) ?_ | fail_if_no_progress with_reducible apply keeps_mk | dsimp only | split

theorem Eng.stepBegin_keeps {e : Eng} (h : Keeps s0 e.s) :
    ∀ a2, Keeps s0 (Eng.stepBegin e a2).1.s := by
  intro a2
  unfold Eng.stepBegin
  repeat' first
      | with_reducible assumption | intro _ | with_reducible apply keeps_ite | with_reducible apply Eng.rd_keeps
      | with_reducible apply Eng.wr_keeps | with_reducible apply Eng.latchRow_keeps | with_reducible apply keeps_foldlE
      | with_reducible apply keeps_foldlE1 | with_reducible refine keeps_fstE (by assumption) ?_ | with_reducible apply keeps_foldl
      | with_reducible apply keeps_foldl1 | with_reducible apply keeps_foldl2 | with_reducible refine keeps_fst (by assumption) ?_
      | with_reducible refine keeps_snd (by assumption) ?_ | fail_if_no_progress with_reducible apply keeps_mk | dsimp only | split

theorem Eng.endRow_keeps {e : Eng} (h : Keeps s0 e.s) :
    ∀ a2 a3 a4 a5, Keeps s0 (Eng.endRow e a2 a3 a4 a5).s := by
  intro a2 a3 a4 a5
  unfold Eng.endRow
  repeat' first
      | with_reducible assumption | intro _ | with_reducible apply keeps_ite | with_reducible apply State.bump_keeps
      | with_reducible apply Eng.store_keeps | with_reducible apply Eng.find_keeps | with_reducible apply Eng.releaseAt_keeps
      | with_reducible apply Eng.leave_keeps | with_reducible apply State.queueRec_keeps | with_reducible apply keeps_foldlE
      | with_reducible apply keeps_foldlE1 | with_reducible refine keeps_fstE (by assumption) ?_ | with_reducible apply keeps_foldl
      | with_reducible apply keeps_foldl1 | with_reducible apply keeps_foldl2 | with_reducible refine keeps_fst (by assumption) ?_
      | with_reducible refine keeps_snd (by assumption) ?_ | fail_if_no_progress with_reducible apply keeps_mk | dsimp only | split

theorem State.stepEnd_keeps {s : State} (h : Keeps s0 s) :
    ∀ a2, Keeps s0 (State.stepEnd s a2) := by
  intro a2
  unfold State.stepEnd
  repeat' first
      | with_reducible assumption | intro _ | with_reducible apply keeps_ite | with_reducible apply keeps_forSome
      | with_reducible apply State.modCmd_keeps | with_reducible apply State.beginCmd_keeps | with_reducible apply Eng.rd_keeps
      | with_reducible apply Eng.done_keeps | with_reducible apply Eng.finish_keeps | with_reducible apply State.deliverAll_keeps
      | with_reducible refine State.tokRefused_some (by assumption) ?_ | with_reducible apply State.endRefused_keeps
      | with_reducible apply Eng.endRow_keeps | with_reducible apply keeps_foldlE | with_reducible apply keeps_foldlE1
      | with_reducible refine keeps_fstE (by assumption) ?_ | with_reducible apply keeps_foldl | with_reducible apply keeps_foldl1
      | with_reducible apply keeps_foldl2 | with_reducible refine keeps_fst (by assumption) ?_
      | with_reducible refine keeps_snd (by assumption) ?_ | fail_if_no_progress with_reducible apply keeps_mk | dsimp only | split

theorem State.stepResume_keeps {s : State} (h : Keeps s0 s) :
    ∀ a2, Keeps s0 (State.stepResume s a2) := by
  intro a2
  unfold State.stepResume
  repeat' first
      | with_reducible assumption | intro _ | with_reducible apply keeps_ite | with_reducible apply keeps_forSome
      | with_reducible apply State.modCmd_keeps | with_reducible apply State.finish_keeps | with_reducible apply State.deliverAll_keeps
      | with_reducible apply keeps_foldlE | with_reducible apply keeps_foldlE1 | with_reducible refine keeps_fstE (by assumption) ?_
      | with_reducible apply keeps_foldl | with_reducible apply keeps_foldl1 | with_reducible apply keeps_foldl2
      | with_reducible refine keeps_fst (by assumption) ?_ | with_reducible refine keeps_snd (by assumption) ?_
      | fail_if_no_progress with_reducible apply keeps_mk | dsimp only | split

theorem State.servingReset_keeps {s : State} (h : Keeps s0 s) :
    ∀ a2, Keeps s0 (State.servingReset s a2) := by
  intro a2
  unfold State.servingReset
  repeat' first
      | with_reducible assumption | intro _ | with_reducible apply keeps_ite | with_reducible apply State.wr_keeps
      | with_reducible apply keeps_each | with_reducible apply Eng.desc_keeps | with_reducible apply Eng.store_keeps
      | with_reducible apply Eng.pte_keeps | with_reducible apply Eng.freePage_keeps | with_reducible apply keeps_foldlE
      | with_reducible apply keeps_foldlE1 | with_reducible refine keeps_fstE (by assumption) ?_ | with_reducible apply keeps_foldl
      | with_reducible apply keeps_foldl1 | with_reducible apply keeps_foldl2 | with_reducible refine keeps_fst (by assumption) ?_
      | with_reducible refine keeps_snd (by assumption) ?_ | fail_if_no_progress with_reducible apply keeps_mk | dsimp only | split

theorem State.zeroKeyData_keeps {s : State} (h : Keeps s0 s) :
    ∀ a2, Keeps s0 (State.zeroKeyData s a2) := by
  intro a2
  unfold State.zeroKeyData
  repeat' first
      | with_reducible assumption | intro _ | with_reducible apply keeps_ite | with_reducible apply keeps_setReg
      | with_reducible apply keeps_each

theorem State.installKey_keeps {s : State} (h : Keeps s0 s) :
    ∀ a2 a3, Keeps s0 (State.installKey s a2 a3) := by
  intro a2 a3
  unfold State.installKey
  repeat' first
      | with_reducible assumption | intro _ | with_reducible apply keeps_ite | with_reducible apply State.wr_keeps
      | with_reducible apply State.setSliceSt_keeps | with_reducible apply keeps_foldl | with_reducible apply keeps_foldl1
      | with_reducible apply keeps_foldl2 | with_reducible refine keeps_fst (by assumption) ?_
      | with_reducible refine keeps_snd (by assumption) ?_ | fail_if_no_progress with_reducible apply keeps_mk

theorem State.keyLoad_keeps {s : State} (h : Keeps s0 s) :
    ∀ a2, Keeps s0 (State.keyLoad s a2) := by
  intro a2
  unfold State.keyLoad
  repeat' first
      | with_reducible assumption | intro _ | with_reducible apply keeps_ite | with_reducible apply State.wr_keeps
      | with_reducible apply State.installKey_keeps

theorem State.keyErase_keeps {s : State} (h : Keeps s0 s) :
    ∀ a2, Keeps s0 (State.keyErase s a2) := by
  intro a2
  unfold State.keyErase
  repeat' first
      | with_reducible assumption | intro _ | with_reducible apply keeps_ite | with_reducible apply State.wr_keeps
      | with_reducible apply State.setSliceSt_keeps

theorem State.keyCmdWrite_keeps {s : State} (h : Keeps s0 s) :
    ∀ a2 a3, Keeps s0 (State.keyCmdWrite s a2 a3) := by
  intro a2 a3
  unfold State.keyCmdWrite
  repeat' first
      | with_reducible assumption | intro _ | with_reducible apply keeps_ite | with_reducible apply State.info_keeps
      | with_reducible apply State.zeroKeyData_keeps | with_reducible apply State.keyLoad_keeps
      | with_reducible apply State.keyErase_keeps

theorem State.rangeWrite_keeps {s : State} (h : Keeps s0 s) :
    ∀ a2 a3 a4 a5, Keeps s0 (State.rangeWrite s a2 a3 a4 a5) := by
  intro a2 a3 a4 a5
  unfold State.rangeWrite
  repeat' first
      | with_reducible assumption | intro _ | with_reducible apply keeps_ite | with_reducible apply State.wr_keeps
      | with_reducible apply State.info_keeps

theorem State.pasidWrite_keeps {s : State} (h : Keeps s0 s) :
    ∀ a2 a3, Keeps s0 (State.pasidWrite s a2 a3) := by
  intro a2 a3
  unfold State.pasidWrite
  repeat' first
      | with_reducible assumption | intro _ | with_reducible apply keeps_ite | with_reducible apply State.wr_keeps
      | with_reducible apply State.info_keeps

theorem State.basinsWrite_keeps {s : State} (h : Keeps s0 s) :
    ∀ a2 a3, Keeps s0 (State.basinsWrite s a2 a3) := by
  intro a2 a3
  unfold State.basinsWrite
  repeat' first
      | with_reducible assumption | intro _ | with_reducible apply keeps_ite | with_reducible apply keeps_setReg
      | with_reducible apply State.info_keeps | with_reducible apply State.protectNow_keeps

theorem State.clearRings_keeps {s : State} (h : Keeps s0 s) :
    ∀ a2, Keeps s0 (State.clearRings s a2) := by
  intro a2
  unfold State.clearRings
  repeat' first
      | with_reducible assumption | intro _ | with_reducible apply keeps_ite | with_reducible apply State.wr_keeps
      | with_reducible apply State.setRing_keeps | with_reducible apply keeps_each

theorem State.resetEnd_keeps {s : State} (h : Keeps s0 s) :
    ∀ a2, Keeps s0 (State.resetEnd s a2) := by
  intro a2
  unfold State.resetEnd
  repeat' first
      | with_reducible assumption | intro _ | with_reducible apply keeps_ite | with_reducible apply State.cascadeDropFetch_keeps
      | with_reducible apply State.copyStopped_keeps | with_reducible apply State.abandonSilent_keeps

theorem State.dropSaves_keeps {s : State} (h : Keeps s0 s) :
    ∀ a2, Keeps s0 (State.dropSaves s a2) := by
  intro a2
  unfold State.dropSaves
  repeat' first
      | with_reducible assumption | intro _ | with_reducible apply keeps_ite | with_reducible apply keeps_setReg
      | with_reducible apply keeps_each | with_reducible apply State.leave_keeps | with_reducible apply keeps_foldl
      | with_reducible apply keeps_foldl1 | with_reducible apply keeps_foldl2 | with_reducible refine keeps_fst (by assumption) ?_
      | with_reducible refine keeps_snd (by assumption) ?_ | fail_if_no_progress with_reducible apply keeps_mk | dsimp only | split

theorem State.stopTasks_keeps {s : State} (h : Keeps s0 s) :
    ∀ a2 a3, Keeps s0 (State.stopTasks s a2 a3) := by
  intro a2 a3
  unfold State.stopTasks
  repeat' first
      | with_reducible assumption | intro _ | with_reducible apply keeps_ite | with_reducible apply keeps_each
      | with_reducible apply State.taskEnd_keeps

theorem State.squashWork_keeps {s : State} (h : Keeps s0 s) :
    ∀ a2, Keeps s0 (State.squashWork s a2) := by
  intro a2
  unfold State.squashWork
  repeat' first
      | with_reducible assumption | intro _ | with_reducible apply keeps_ite | with_reducible apply keeps_each
      | with_reducible apply State.resetEnd_keeps | with_reducible apply keeps_foldl | with_reducible apply keeps_foldl1
      | with_reducible apply keeps_foldl2 | with_reducible refine keeps_fst (by assumption) ?_
      | with_reducible refine keeps_snd (by assumption) ?_ | fail_if_no_progress with_reducible apply keeps_mk

theorem State.resetStart_keeps {s : State} (h : Keeps s0 s) :
    ∀ a2 a3, Keeps s0 (State.resetStart s a2 a3) := by
  intro a2 a3
  unfold State.resetStart
  repeat' first
      | with_reducible assumption | intro _ | with_reducible apply keeps_ite | with_reducible apply State.setSliceSt_keeps
      | with_reducible apply keeps_each | with_reducible apply State.setSliceState_keeps | with_reducible apply State.cancelLaunch_keeps
      | with_reducible apply State.clearRings_keeps | with_reducible apply State.resetEnd_keeps
      | with_reducible apply State.dropSaves_keeps | with_reducible apply State.stopTasks_keeps
      | with_reducible apply State.squashWork_keeps

theorem State.resetSquash_keeps {s : State} (h : Keeps s0 s) :
    ∀ a2, Keeps s0 (State.resetSquash s a2) := by
  intro a2
  unfold State.resetSquash
  repeat' first
      | with_reducible assumption | intro _ | with_reducible apply keeps_ite | with_reducible apply State.setSliceSt_keeps
      | with_reducible apply State.squashWork_keeps

theorem State.sliceCmdWrite_keeps {s : State} (h : Keeps s0 s) :
    ∀ a2 a3, Keeps s0 (State.sliceCmdWrite s a2 a3) := by
  intro a2 a3
  unfold State.sliceCmdWrite
  repeat' first
      | with_reducible assumption | intro _ | with_reducible apply keeps_ite | with_reducible apply State.info_keeps
      | with_reducible apply State.resetStart_keeps

theorem State.clearSlice_keeps {s : State} (h : Keeps s0 s) :
    ∀ a2, Keeps s0 (State.clearSlice s a2) := by
  intro a2
  unfold State.clearSlice
  repeat' first
      | with_reducible assumption | intro _ | with_reducible apply keeps_ite | with_reducible apply keeps_setReg
      | with_reducible apply State.wr_keeps | with_reducible apply State.setRing_keeps | with_reducible apply keeps_each

theorem State.clearShadowRegs_keeps {s : State} (h : Keeps s0 s) :
    ∀ a2, Keeps s0 (State.clearShadowRegs s a2) := by
  intro a2
  unfold State.clearShadowRegs
  repeat' first
      | with_reducible assumption | intro _ | with_reducible apply keeps_ite | with_reducible apply keeps_setReg

theorem State.resetDrained_keeps {s : State} (h : Keeps s0 s) :
    ∀ a2, Keeps s0 (State.resetDrained s a2) := by
  intro a2
  unfold State.resetDrained
  repeat' first
      | with_reducible assumption | intro _ | with_reducible apply keeps_ite | with_reducible apply State.bump_keeps
      | with_reducible apply State.setSliceSt_keeps | with_reducible apply keeps_each | with_reducible apply State.beginZero_keeps
      | with_reducible apply State.servingReset_keeps | with_reducible apply State.clearSlice_keeps
      | with_reducible apply State.clearShadowRegs_keeps

theorem State.resetZeroed_keeps {s : State} (h : Keeps s0 s) :
    ∀ a2 a3, Keeps s0 (State.resetZeroed s a2 a3) := by
  intro a2 a3
  unfold State.resetZeroed
  repeat' first
      | with_reducible assumption | intro _ | with_reducible apply keeps_ite | with_reducible apply State.cZero_keeps
      | with_reducible apply State.pZero_keeps | with_reducible apply State.zeroSems_keeps | with_reducible apply State.zeroRegion_keeps
      | with_reducible apply State.endZero_keeps

theorem State.unbound_keeps {s : State} (h : Keeps s0 s) :
    ∀ a2, Keeps s0 (State.unbound s a2) := by
  intro a2
  unfold State.unbound
  repeat' first
      | with_reducible assumption | intro _ | with_reducible apply keeps_ite | with_reducible apply keeps_setReg
      | with_reducible apply State.wr_keeps | with_reducible apply State.setSliceSt_keeps | with_reducible apply keeps_each
      | with_reducible apply State.setSliceState_keeps | with_reducible apply State.zeroKeyData_keeps
      | with_reducible apply State.keyErase_keeps

theorem State.resetComplete_keeps {s : State} (h : Keeps s0 s) :
    ∀ a2, Keeps s0 (State.resetComplete s a2) := by
  intro a2
  unfold State.resetComplete
  repeat' first
      | with_reducible assumption | intro _ | with_reducible apply keeps_ite | with_reducible apply State.setSliceSt_keeps
      | with_reducible apply State.setSliceState_keeps | with_reducible apply State.unbound_keeps

theorem State.unbindStart_keeps {s : State} (h : Keeps s0 s) :
    ∀ a2, Keeps s0 (State.unbindStart s a2) := by
  intro a2
  unfold State.unbindStart
  repeat' first
      | with_reducible assumption | intro _ | with_reducible apply keeps_ite | with_reducible apply State.wr_keeps
      | with_reducible apply State.setSliceSt_keeps | with_reducible apply State.cancelLaunch_keeps
      | with_reducible apply State.resetStart_keeps | with_reducible apply State.resetSquash_keeps

theorem State.sliceCtrlWrite_keeps {s : State} (h : Keeps s0 s) :
    ∀ a2 a3, Keeps s0 (State.sliceCtrlWrite s a2 a3) := by
  intro a2 a3
  unfold State.sliceCtrlWrite
  repeat' first
      | with_reducible assumption | intro _ | with_reducible apply keeps_ite | with_reducible apply State.wr_keeps
      | with_reducible apply State.info_keeps | with_reducible apply State.setSliceState_keeps
      | with_reducible apply State.unbindStart_keeps

theorem State.refuseCommand_keeps {s : State} (h : Keeps s0 s) :
    ∀ a2 a3, Keeps s0 (State.refuseCommand s a2 a3) := by
  intro a2 a3
  unfold State.refuseCommand
  repeat' first
      | with_reducible assumption | intro _ | with_reducible apply keeps_ite | with_reducible apply keeps_forSome
      | with_reducible apply State.free_keeps | with_reducible apply State.modCmd_keeps | with_reducible apply State.copyStopped_keeps
      | with_reducible apply State.finishCore_keeps | with_reducible apply State.refusal_keeps

theorem State.refuseRead_keeps {s : State} (h : Keeps s0 s) :
    ∀ a2 a3, Keeps s0 (State.refuseRead s a2 a3) := by
  intro a2 a3
  unfold State.refuseRead
  repeat' first
      | with_reducible assumption | intro _ | with_reducible apply keeps_ite | with_reducible apply keeps_whenever
      | with_reducible apply State.setRing_keeps | with_reducible apply State.haltRing_keeps | with_reducible apply State.refusal_keeps

theorem State.refuseReply_keeps {s : State} (h : Keeps s0 s) :
    ∀ a2 a3, Keeps s0 (State.refuseReply s a2 a3) := by
  intro a2 a3
  unfold State.refuseReply
  repeat' first
      | with_reducible assumption | intro _ | with_reducible apply keeps_ite | with_reducible apply State.bumpSat_keeps
      | with_reducible apply keeps_whenever | with_reducible apply State.setRing_keeps | with_reducible apply State.hostFree_keeps
      | with_reducible apply State.refusal_keeps

theorem State.markerRates_keeps {s : State} (h : Keeps s0 s) :
    ∀ a2, Keeps s0 (State.markerRates s a2) := by
  intro a2
  unfold State.markerRates
  repeat' first
      | with_reducible assumption | intro _ | with_reducible apply keeps_ite | with_reducible apply State.wr_keeps
      | with_reducible apply State.setSliceSt_keeps

theorem State.markerRefill_keeps {s : State} (h : Keeps s0 s) :
    ∀ a2, Keeps s0 (State.markerRefill s a2) := by
  intro a2
  unfold State.markerRefill
  repeat' first
      | with_reducible assumption | intro _ | with_reducible apply keeps_ite | with_reducible apply State.wr_keeps
      | with_reducible apply State.markerRates_keeps

theorem State.remark_keeps {s : State} (h : Keeps s0 s) :
    ∀ a2, Keeps s0 (State.remark s a2) := by
  intro a2
  unfold State.remark
  repeat' first
      | with_reducible assumption | intro _ | with_reducible apply keeps_ite | with_reducible apply State.setRing_keeps
      | with_reducible apply State.passMarker_keeps | with_reducible apply keeps_foldl | with_reducible apply keeps_foldl1
      | with_reducible apply keeps_foldl2 | with_reducible refine keeps_fst (by assumption) ?_
      | with_reducible refine keeps_snd (by assumption) ?_ | fail_if_no_progress with_reducible apply keeps_mk | dsimp only | split

theorem State.schedMarkWrite_keeps {s : State} (h : Keeps s0 s) :
    ∀ a2 a3, Keeps s0 (State.schedMarkWrite s a2 a3) := by
  intro a2 a3
  unfold State.schedMarkWrite
  repeat' first
      | with_reducible assumption | intro _ | with_reducible apply keeps_ite | with_reducible apply State.wr_keeps
      | with_reducible apply State.markerRates_keeps

theorem State.shareWrite_keeps {s : State} (h : Keeps s0 s) :
    ∀ a2 a3, Keeps s0 (State.shareWrite s a2 a3) := by
  intro a2 a3
  unfold State.shareWrite
  repeat' first
      | with_reducible assumption | intro _ | with_reducible apply keeps_ite | with_reducible apply State.wr_keeps
      | with_reducible apply State.info_keeps | with_reducible apply State.protectNow_keeps

theorem State.updateTiers_keeps {s : State} (h : Keeps s0 s) :
    Keeps s0 (State.updateTiers s) := by
  unfold State.updateTiers
  repeat' first
      | with_reducible assumption | intro _ | with_reducible apply keeps_ite | with_reducible apply keeps_setReg
      | with_reducible apply keeps_each

theorem State.chargeMove_keeps {s : State} (h : Keeps s0 s) :
    ∀ a2 a3 a4, Keeps s0 (State.chargeMove s a2 a3 a4) := by
  intro a2 a3 a4
  unfold State.chargeMove
  repeat' first
      | with_reducible assumption | intro _ | with_reducible apply keeps_ite | with_reducible apply State.bump_keeps
      | with_reducible apply State.chargeBytes_keeps | with_reducible apply State.chargeSwitch_keeps

theorem State.gateBasin_keeps {s : State} (h : Keeps s0 s) :
    ∀ a2, Keeps s0 (State.gateBasin s a2) := by
  intro a2
  unfold State.gateBasin
  repeat' first
      | with_reducible assumption | intro _ | with_reducible apply keeps_ite | with_reducible apply keeps_setReg
      | with_reducible apply State.setBasin_keeps | with_reducible apply State.gateNow_keeps

theorem State.stopFetches_keeps {s : State} (h : Keeps s0 s) :
    ∀ a2, Keeps s0 (State.stopFetches s a2) := by
  intro a2
  unfold State.stopFetches
  repeat' first
      | with_reducible assumption | intro _ | with_reducible apply keeps_ite | with_reducible apply State.setRill_keeps
      | with_reducible apply State.rillFetchLost_keeps | with_reducible apply State.cascadeGuard_keeps | with_reducible apply keeps_foldl
      | with_reducible apply keeps_foldl1 | with_reducible apply keeps_foldl2 | with_reducible refine keeps_fst (by assumption) ?_
      | with_reducible refine keeps_snd (by assumption) ?_ | fail_if_no_progress with_reducible apply keeps_mk | dsimp only | split

theorem State.requestYield_keeps {s : State} (h : Keeps s0 s) :
    ∀ a2 a3, Keeps s0 (State.requestYield s a2 a3) := by
  intro a2 a3
  unfold State.requestYield
  repeat' first
      | with_reducible assumption | intro _ | with_reducible apply keeps_ite | with_reducible apply State.wr_keeps
      | with_reducible apply State.setBasin_keeps | with_reducible apply State.stopFetches_keeps

theorem State.arbitrate_keeps {s : State} (h : Keeps s0 s) :
    ∀ a2 a3, Keeps s0 (State.arbitrate s a2 a3) := by
  intro a2 a3
  unfold State.arbitrate
  repeat' first
      | with_reducible assumption | intro _ | with_reducible apply keeps_ite | with_reducible apply keeps_whenever
      | with_reducible apply keeps_forSome | with_reducible apply State.requestYield_keeps

theorem State.dropSwitch_keeps {s : State} (h : Keeps s0 s) :
    ∀ a2, Keeps s0 (State.dropSwitch s a2) := by
  intro a2
  unfold State.dropSwitch
  repeat' first
      | with_reducible assumption | intro _ | with_reducible apply keeps_ite | with_reducible apply State.wr_keeps
      | with_reducible apply State.setBasin_keeps

theorem State.setStage_keeps {s : State} (h : Keeps s0 s) :
    ∀ a2 a3, Keeps s0 (State.setStage s a2 a3) := by
  intro a2 a3
  unfold State.setStage
  repeat' first
      | with_reducible assumption | intro _ | with_reducible apply keeps_ite | with_reducible apply State.setBasin_keeps
      | with_reducible apply keeps_foldl | with_reducible apply keeps_foldl1 | with_reducible apply keeps_foldl2
      | with_reducible refine keeps_fst (by assumption) ?_ | with_reducible refine keeps_snd (by assumption) ?_
      | fail_if_no_progress with_reducible apply keeps_mk | dsimp only | split

theorem State.switchZero_keeps {s : State} (h : Keeps s0 s) :
    ∀ a2 a3, Keeps s0 (State.switchZero s a2 a3) := by
  intro a2 a3
  unfold State.switchZero
  repeat' first
      | with_reducible assumption | intro _ | with_reducible apply keeps_ite | with_reducible apply State.clearEngines_keeps
      | with_reducible apply State.beginZero_keeps | with_reducible apply State.setStage_keeps

theorem State.yieldDrained_keeps {s : State} (h : Keeps s0 s) :
    ∀ a2 a3, Keeps s0 (State.yieldDrained s a2 a3) := by
  intro a2 a3
  unfold State.yieldDrained
  repeat' first
      | with_reducible assumption | intro _ | with_reducible apply keeps_ite | with_reducible apply State.dropSwitch_keeps
      | with_reducible apply State.setStage_keeps | with_reducible apply State.switchZero_keeps

theorem State.preempt_keeps {s : State} (h : Keeps s0 s) :
    ∀ a2, Keeps s0 (State.preempt s a2) := by
  intro a2
  unfold State.preempt
  repeat' first
      | with_reducible assumption | intro _ | with_reducible apply keeps_ite | with_reducible apply State.wr_keeps
      | with_reducible apply State.setBasin_keeps | with_reducible apply State.setCore_keeps | with_reducible apply keeps_each

theorem State.taskResume_keeps {s : State} (h : Keeps s0 s) :
    ∀ a2, Keeps s0 (State.taskResume s a2) := by
  intro a2
  unfold State.taskResume
  repeat' first
      | with_reducible assumption | intro _ | with_reducible apply keeps_ite | with_reducible apply State.setBasin_keeps

theorem State.haltJob_keeps {s : State} (h : Keeps s0 s) :
    ∀ a2, Keeps s0 (State.haltJob s a2) := by
  intro a2
  unfold State.haltJob
  repeat' first
      | with_reducible assumption | intro _ | with_reducible apply keeps_ite | with_reducible apply keeps_each
      | with_reducible apply State.writeBack_keeps | with_reducible apply State.preempt_keeps

theorem State.packJob_keeps {s : State} (h : Keeps s0 s) :
    ∀ a2 a3, Keeps s0 (State.packJob s a2 a3) := by
  intro a2 a3
  unfold State.packJob
  repeat' first
      | with_reducible assumption | intro _ | with_reducible apply keeps_ite | with_reducible apply State.setBasin_keeps
      | with_reducible apply keeps_foldl | with_reducible apply keeps_foldl1 | with_reducible apply keeps_foldl2
      | with_reducible refine keeps_fst (by assumption) ?_ | with_reducible refine keeps_snd (by assumption) ?_
      | fail_if_no_progress with_reducible apply keeps_mk

theorem State.writeArea_keeps {s : State} (h : Keeps s0 s) :
    ∀ a2 a3 a4 a5 a6, Keeps s0 (State.writeArea s a2 a3 a4 a5 a6) := by
  intro a2 a3 a4 a5 a6
  unfold State.writeArea
  repeat' first
      | with_reducible assumption | intro _ | with_reducible apply keeps_ite | with_reducible apply keeps_each
      | with_reducible apply State.devWrite_keeps | with_reducible apply State.devForget_keeps

theorem State.saveDone_keeps {s : State} (h : Keeps s0 s) :
    ∀ a2 a3 a4 a5, Keeps s0 (State.saveDone s a2 a3 a4 a5) := by
  intro a2 a3 a4 a5
  unfold State.saveDone
  repeat' first
      | with_reducible assumption | intro _ | with_reducible apply keeps_ite | with_reducible apply State.bump_keeps
      | with_reducible apply State.setRegBit_keeps | with_reducible apply State.reportLow_keeps
      | with_reducible apply State.eccReads_keeps | with_reducible apply State.endSaved_keeps
      | with_reducible apply State.chargeMove_keeps | with_reducible apply State.switchZero_keeps
      | with_reducible apply State.haltJob_keeps | with_reducible apply State.packJob_keeps | with_reducible apply State.writeArea_keeps
      | with_reducible apply keeps_foldl | with_reducible apply keeps_foldl1 | with_reducible apply keeps_foldl2
      | with_reducible refine keeps_fst (by assumption) ?_ | with_reducible refine keeps_snd (by assumption) ?_
      | fail_if_no_progress with_reducible apply keeps_mk | dsimp only | split

theorem State.showOwner_keeps {s : State} (h : Keeps s0 s) :
    ∀ a2, Keeps s0 (State.showOwner s a2) := by
  intro a2
  unfold State.showOwner
  repeat' first
      | with_reducible assumption | intro _ | with_reducible apply keeps_ite | with_reducible apply State.wr_keeps

theorem State.handOver_keeps {s : State} (h : Keeps s0 s) :
    ∀ a2 a3, Keeps s0 (State.handOver s a2 a3) := by
  intro a2 a3
  unfold State.handOver
  repeat' first
      | with_reducible assumption | intro _ | with_reducible apply keeps_ite | with_reducible apply keeps_setReg
      | with_reducible apply State.wr_keeps | with_reducible apply State.bump_keeps | with_reducible apply State.setBasin_keeps
      | with_reducible apply State.showOwner_keeps

theorem State.handoverZeroed_keeps {s : State} (h : Keeps s0 s) :
    ∀ a2 a3, Keeps s0 (State.handoverZeroed s a2 a3) := by
  intro a2 a3
  unfold State.handoverZeroed
  repeat' first
      | with_reducible assumption | intro _ | with_reducible apply keeps_ite | with_reducible apply State.zeroRegion_keeps
      | with_reducible apply State.endZero_keeps | with_reducible apply State.setStage_keeps | with_reducible apply State.handOver_keeps
      | with_reducible apply keeps_foldl | with_reducible apply keeps_foldl1 | with_reducible apply keeps_foldl2
      | with_reducible refine keeps_fst (by assumption) ?_ | with_reducible refine keeps_snd (by assumption) ?_
      | fail_if_no_progress with_reducible apply keeps_mk | dsimp only | split

theorem State.unpackJob_keeps {s : State} (h : Keeps s0 s) :
    ∀ a2 a3 a4 a5, Keeps s0 (State.unpackJob s a2 a3 a4 a5) := by
  intro a2 a3 a4 a5
  unfold State.unpackJob
  repeat' first
      | with_reducible assumption | intro _ | with_reducible apply keeps_ite | with_reducible apply keeps_setReg
      | with_reducible apply State.wr_keeps | with_reducible apply State.setBasin_keeps | with_reducible apply State.setCore_keeps
      | with_reducible apply keeps_each | with_reducible apply State.taskResume_keeps | with_reducible apply keeps_foldl
      | with_reducible apply keeps_foldl1 | with_reducible apply keeps_foldl2 | with_reducible refine keeps_fst (by assumption) ?_
      | with_reducible refine keeps_snd (by assumption) ?_ | fail_if_no_progress with_reducible apply keeps_mk

theorem State.readArea_keeps {s : State} (h : Keeps s0 s) :
    ∀ a2 a3 a4, Keeps s0 (State.readArea s a2 a3 a4) := by
  intro a2 a3 a4
  unfold State.readArea
  repeat' first
      | with_reducible assumption | intro _ | with_reducible apply keeps_ite | with_reducible apply keeps_setReg
      | with_reducible apply keeps_each | with_reducible apply State.cWrite_keeps | with_reducible apply State.pWrite_keeps

theorem State.restoreDone_keeps {s : State} (h : Keeps s0 s) :
    ∀ a2 a3 a4, Keeps s0 (State.restoreDone s a2 a3 a4) := by
  intro a2 a3 a4
  unfold State.restoreDone
  repeat' first
      | with_reducible assumption | intro _ | with_reducible apply keeps_ite | with_reducible apply State.bump_keeps
      | with_reducible apply State.setRegBit_keeps | with_reducible apply State.reportLow_keeps
      | with_reducible apply State.endSaved_keeps | with_reducible apply State.chargeMove_keeps
      | with_reducible apply State.switchZero_keeps | with_reducible apply State.handOver_keeps
      | with_reducible apply State.unpackJob_keeps | with_reducible apply State.readArea_keeps | with_reducible apply keeps_foldl
      | with_reducible apply keeps_foldl1 | with_reducible apply keeps_foldl2 | with_reducible refine keeps_fst (by assumption) ?_
      | with_reducible refine keeps_snd (by assumption) ?_ | fail_if_no_progress with_reducible apply keeps_mk | dsimp only | split

theorem State.setPending_keeps {s : State} (h : Keeps s0 s) :
    ∀ a2 a3 a4, Keeps s0 (State.setPending s a2 a3 a4) := by
  intro a2 a3 a4
  unfold State.setPending
  repeat' first
      | with_reducible assumption | intro _ | with_reducible apply keeps_ite | with_reducible apply State.wr_keeps
      | with_reducible apply State.setBasin_keeps

theorem State.gateListAct_keeps {s : State} (h : Keeps s0 s) :
    ∀ a2 a3, Keeps s0 (State.gateListAct s a2 a3) := by
  intro a2 a3
  unfold State.gateListAct
  repeat' first
      | with_reducible assumption | intro _ | with_reducible apply keeps_ite | with_reducible apply keeps_forSome
      | with_reducible apply State.modCmd_keeps | with_reducible apply State.finishNow_keeps | with_reducible apply State.protectNow_keeps
      | with_reducible apply State.setPending_keeps

theorem State.showNextOpen_keeps {s : State} (h : Keeps s0 s) :
    ∀ a2 a3, Keeps s0 (State.showNextOpen s a2 a3) := by
  intro a2 a3
  unfold State.showNextOpen
  repeat' first
      | with_reducible assumption | intro _ | with_reducible apply keeps_ite | with_reducible apply keeps_setReg
      | with_reducible apply State.free_keeps | with_reducible apply keeps_foldl | with_reducible apply keeps_foldl1
      | with_reducible apply keeps_foldl2 | with_reducible refine keeps_fst (by assumption) ?_
      | with_reducible refine keeps_snd (by assumption) ?_ | fail_if_no_progress with_reducible apply keeps_mk | dsimp only | split

theorem State.showList_keeps {s : State} (h : Keeps s0 s) :
    ∀ a2, Keeps s0 (State.showList s a2) := by
  intro a2
  unfold State.showList
  repeat' first
      | with_reducible assumption | intro _ | with_reducible apply keeps_ite | with_reducible apply keeps_setReg
      | with_reducible apply State.wr_keeps | with_reducible apply keeps_each

theorem State.guardBegin_keeps {s : State} (h : Keeps s0 s) :
    ∀ a2, Keeps s0 (State.guardBegin s a2) := by
  intro a2
  unfold State.guardBegin
  repeat' first
      | with_reducible assumption | intro _ | with_reducible apply keeps_ite | with_reducible apply State.wr_keeps
      | with_reducible apply State.stopFetches_keeps | with_reducible apply State.preempt_keeps

theorem State.overrun_keeps {s : State} (h : Keeps s0 s) :
    ∀ a2 a3 a4 a5 a6, Keeps s0 (State.overrun s a2 a3 a4 a5 a6) := by
  intro a2 a3 a4 a5 a6
  unfold State.overrun
  repeat' first
      | with_reducible assumption | intro _ | with_reducible apply keeps_ite | with_reducible apply State.bump_keeps
      | with_reducible apply State.report_keeps

theorem State.abandonTenant_keeps {s : State} (h : Keeps s0 s) :
    ∀ a2 a3, Keeps s0 (State.abandonTenant s a2 a3) := by
  intro a2 a3
  unfold State.abandonTenant
  repeat' first
      | with_reducible assumption | intro _ | with_reducible apply keeps_ite | with_reducible apply keeps_each
      | with_reducible apply State.taskEnd_keeps | with_reducible apply State.abandon_keeps | with_reducible apply State.overrun_keeps

theorem State.ownerChanged_keeps {s : State} (h : Keeps s0 s) :
    ∀ a2, Keeps s0 (State.ownerChanged s a2) := by
  intro a2
  unfold State.ownerChanged
  repeat' first
      | with_reducible assumption | intro _ | with_reducible apply keeps_ite | with_reducible apply State.clearBanks_keeps
      | with_reducible apply State.clearRill_keeps | with_reducible apply State.showOwner_keeps

theorem State.openWindow_keeps {s : State} (h : Keeps s0 s) :
    ∀ a2 a3, Keeps s0 (State.openWindow s a2 a3) := by
  intro a2 a3
  unfold State.openWindow
  repeat' first
      | with_reducible assumption | intro _ | with_reducible apply keeps_ite | with_reducible apply State.wr_keeps
      | with_reducible apply State.showNextOpen_keeps | with_reducible apply State.abandonTenant_keeps
      | with_reducible apply State.ownerChanged_keeps

theorem State.closeWindow_keeps {s : State} (h : Keeps s0 s) :
    ∀ a2, Keeps s0 (State.closeWindow s a2) := by
  intro a2
  unfold State.closeWindow
  repeat' first
      | with_reducible assumption | intro _ | with_reducible apply keeps_ite | with_reducible apply State.wr_keeps
      | with_reducible apply keeps_each | with_reducible apply State.taskResume_keeps | with_reducible apply State.ownerChanged_keeps

theorem State.modCore_keeps {s : State} (h : Keeps s0 s) :
    ∀ a2 a3, Keeps s0 (State.modCore s a2 a3) := by
  intro a2 a3
  unfold State.modCore
  repeat' first
      | with_reducible assumption | intro _ | with_reducible apply keeps_ite | with_reducible apply State.setCore_keeps

theorem State.retire_keeps {s : State} (h : Keeps s0 s) :
    ∀ a2 a3, Keeps s0 (State.retire s a2 a3) := by
  intro a2 a3
  unfold State.retire
  repeat' first
      | with_reducible assumption | intro _ | with_reducible apply keeps_ite | with_reducible apply keeps_setReg
      | with_reducible apply State.modCore_keeps

theorem State.taskCheck_keeps {s : State} (h : Keeps s0 s) :
    ∀ a2, Keeps s0 (State.taskCheck s a2) := by
  intro a2
  unfold State.taskCheck
  repeat' first
      | with_reducible assumption | intro _ | with_reducible apply keeps_ite | with_reducible apply State.taskEnd_keeps
      | with_reducible apply keeps_foldl | with_reducible apply keeps_foldl1 | with_reducible apply keeps_foldl2
      | with_reducible refine keeps_fst (by assumption) ?_ | with_reducible refine keeps_snd (by assumption) ?_
      | fail_if_no_progress with_reducible apply keeps_mk | dsimp only | split

theorem State.coreEnd_keeps {s : State} (h : Keeps s0 s) :
    ∀ a2 a3 a4, Keeps s0 (State.coreEnd s a2 a3 a4) := by
  intro a2 a3 a4
  unfold State.coreEnd
  repeat' first
      | with_reducible assumption | intro _ | with_reducible apply keeps_ite | with_reducible apply State.setBasin_keeps
      | with_reducible apply State.coreIdle_keeps | with_reducible apply State.taskCheck_keeps | with_reducible apply keeps_foldl
      | with_reducible apply keeps_foldl1 | with_reducible apply keeps_foldl2 | with_reducible refine keeps_fst (by assumption) ?_
      | with_reducible refine keeps_snd (by assumption) ?_ | fail_if_no_progress with_reducible apply keeps_mk | dsimp only | split

theorem State.trap_keeps {s : State} (h : Keeps s0 s) :
    ∀ a2 a3, Keeps s0 (State.trap s a2 a3) := by
  intro a2 a3
  unfold State.trap
  repeat' first
      | with_reducible assumption | intro _ | with_reducible apply keeps_ite | with_reducible apply State.wr_keeps
      | with_reducible apply State.coreEnd_keeps

theorem State.evictLine_keeps {s : State} (h : Keeps s0 s) :
    ∀ a2 a3, Keeps s0 (State.evictLine s a2 a3) := by
  intro a2 a3
  unfold State.evictLine
  repeat' first
      | with_reducible assumption | intro _ | with_reducible apply keeps_ite | with_reducible apply State.devWrite_keeps
      | with_reducible apply State.chargeCore_keeps | with_reducible apply State.modCore_keeps | with_reducible apply keeps_foldl
      | with_reducible apply keeps_foldl1 | with_reducible apply keeps_foldl2 | with_reducible refine keeps_fst (by assumption) ?_
      | with_reducible refine keeps_snd (by assumption) ?_ | fail_if_no_progress with_reducible apply keeps_mk | dsimp only | split

theorem State.makeRoom_keeps {s : State} (h : Keeps s0 s) :
    ∀ a2, Keeps s0 (State.makeRoom s a2) := by
  intro a2
  unfold State.makeRoom
  repeat' first
      | with_reducible assumption | intro _ | with_reducible apply keeps_ite | with_reducible apply State.free_keeps
      | with_reducible apply State.evictLine_keeps | with_reducible apply keeps_foldl | with_reducible apply keeps_foldl1
      | with_reducible apply keeps_foldl2 | with_reducible refine keeps_fst (by assumption) ?_
      | with_reducible refine keeps_snd (by assumption) ?_ | fail_if_no_progress with_reducible apply keeps_mk | dsimp only | split

theorem State.lineOf_keeps {s : State} (h : Keeps s0 s) :
    ∀ a2 a3 a4, Keeps s0 (State.lineOf s a2 a3 a4).1 := by
  intro a2 a3 a4
  unfold State.lineOf
  repeat' first
      | with_reducible assumption | intro _ | with_reducible apply keeps_ite | with_reducible apply State.chargeCore_keeps
      | with_reducible apply State.modCore_keeps | with_reducible apply State.makeRoom_keeps | with_reducible apply keeps_foldl
      | with_reducible apply keeps_foldl1 | with_reducible apply keeps_foldl2 | with_reducible refine keeps_fst (by assumption) ?_
      | with_reducible refine keeps_snd (by assumption) ?_ | fail_if_no_progress with_reducible apply keeps_mk | dsimp only | split

theorem State.cachedRead_keeps {s : State} (h : Keeps s0 s) :
    ∀ a2 a3 a4 a5, Keeps s0 (State.cachedRead s a2 a3 a4 a5).1 := by
  intro a2 a3 a4 a5
  unfold State.cachedRead
  repeat' first
      | with_reducible assumption | intro _ | with_reducible apply keeps_ite | with_reducible apply State.lineOf_keeps
      | with_reducible apply keeps_foldl | with_reducible apply keeps_foldl1 | with_reducible apply keeps_foldl2
      | with_reducible refine keeps_fst (by assumption) ?_ | with_reducible refine keeps_snd (by assumption) ?_
      | fail_if_no_progress with_reducible apply keeps_mk | dsimp only | split

theorem State.cachedWrite_keeps {s : State} (h : Keeps s0 s) :
    ∀ a2 a3 a4 a5, Keeps s0 (State.cachedWrite s a2 a3 a4 a5).1 := by
  intro a2 a3 a4 a5
  unfold State.cachedWrite
  repeat' first
      | with_reducible assumption | intro _ | with_reducible apply keeps_ite | with_reducible apply State.modCore_keeps
      | with_reducible apply State.lineOf_keeps | with_reducible apply keeps_foldl | with_reducible apply keeps_foldl1
      | with_reducible apply keeps_foldl2 | with_reducible refine keeps_fst (by assumption) ?_
      | with_reducible refine keeps_snd (by assumption) ?_ | fail_if_no_progress with_reducible apply keeps_mk | dsimp only | split

theorem State.cboLine_keeps {s : State} (h : Keeps s0 s) :
    ∀ a2 a3 a4, Keeps s0 (State.cboLine s a2 a3 a4) := by
  intro a2 a3 a4
  unfold State.cboLine
  repeat' first
      | with_reducible assumption | intro _ | with_reducible apply keeps_ite | with_reducible apply State.devWrite_keeps
      | with_reducible apply State.chargeCore_keeps | with_reducible apply State.modCore_keeps
      | with_reducible apply State.evictLine_keeps | with_reducible apply keeps_foldl | with_reducible apply keeps_foldl1
      | with_reducible apply keeps_foldl2 | with_reducible refine keeps_fst (by assumption) ?_
      | with_reducible refine keeps_snd (by assumption) ?_ | fail_if_no_progress with_reducible apply keeps_mk | dsimp only | split

theorem State.basinRead_keeps {s : State} (h : Keeps s0 s) :
    ∀ a2 a3 a4 a5, Keeps s0 (State.basinRead s a2 a3 a4 a5).1 := by
  intro a2 a3 a4 a5
  unfold State.basinRead
  repeat' first
      | with_reducible assumption | intro _ | with_reducible apply keeps_ite | with_reducible apply State.eccReads_keeps
      | with_reducible apply State.touch_keeps | with_reducible apply keeps_foldl | with_reducible apply keeps_foldl1
      | with_reducible apply keeps_foldl2 | with_reducible refine keeps_fst (by assumption) ?_
      | with_reducible refine keeps_snd (by assumption) ?_ | fail_if_no_progress with_reducible apply keeps_mk | dsimp only | split

theorem State.basinWrite_keeps {s : State} (h : Keeps s0 s) :
    ∀ a2 a3 a4 a5, Keeps s0 (State.basinWrite s a2 a3 a4 a5).1 := by
  intro a2 a3 a4 a5
  unfold State.basinWrite
  repeat' first
      | with_reducible assumption | intro _ | with_reducible apply keeps_ite | with_reducible apply State.eccRead_keeps
      | with_reducible apply State.cWrite_keeps | with_reducible apply State.pWrite_keeps | with_reducible apply State.cFree_keeps
      | with_reducible apply State.pFree_keeps | with_reducible apply State.touch_keeps | with_reducible apply keeps_foldl
      | with_reducible apply keeps_foldl1 | with_reducible apply keeps_foldl2 | with_reducible refine keeps_fst (by assumption) ?_
      | with_reducible refine keeps_snd (by assumption) ?_ | fail_if_no_progress with_reducible apply keeps_mk | dsimp only | split

theorem State.jobGot_keeps {s : State} (h : Keeps s0 s) :
    ∀ a2 a3 a4, Keeps s0 (State.jobGot s a2 a3 a4) := by
  intro a2 a3 a4
  unfold State.jobGot
  repeat' first
      | with_reducible assumption | intro _ | with_reducible apply keeps_ite | with_reducible apply State.modCore_keeps

theorem State.coreSend_keeps {s : State} (h : Keeps s0 s) :
    ∀ a2 a3 a4, Keeps s0 (State.coreSend s a2 a3 a4).1 := by
  intro a2 a3 a4
  unfold State.coreSend
  repeat' first
      | with_reducible assumption | intro _ | with_reducible apply keeps_ite | with_reducible apply State.aqdSend_keeps
      | with_reducible apply State.modCore_keeps | with_reducible apply keeps_foldl | with_reducible apply keeps_foldl1
      | with_reducible apply keeps_foldl2 | with_reducible refine keeps_fst (by assumption) ?_
      | with_reducible refine keeps_snd (by assumption) ?_ | fail_if_no_progress with_reducible apply keeps_mk | dsimp only | split

theorem State.jobFetch_keeps {s : State} (h : Keeps s0 s) :
    ∀ a2 a3, Keeps s0 (State.jobFetch s a2 a3) := by
  intro a2 a3
  unfold State.jobFetch
  repeat' first
      | with_reducible assumption | intro _ | with_reducible apply keeps_ite | with_reducible apply keeps_each
      | with_reducible apply State.jobGot_keeps | with_reducible apply State.coreSend_keeps

theorem State.jobStore_keeps {s : State} (h : Keeps s0 s) :
    ∀ a2 a3 a4, Keeps s0 (State.jobStore s a2 a3 a4).1 := by
  intro a2 a3 a4
  unfold State.jobStore
  repeat' first
      | with_reducible assumption | intro _ | with_reducible apply keeps_ite | with_reducible apply State.coreSend_keeps
      | with_reducible apply keeps_foldl | with_reducible apply keeps_foldl1 | with_reducible apply keeps_foldl2
      | with_reducible refine keeps_fst (by assumption) ?_ | with_reducible refine keeps_snd (by assumption) ?_
      | fail_if_no_progress with_reducible apply keeps_mk | dsimp only | split

theorem State.coreRead_keeps {s : State} (h : Keeps s0 s) :
    ∀ a2 a3 a4 a5, Keeps s0 (State.coreRead s a2 a3 a4 a5).1 := by
  intro a2 a3 a4 a5
  unfold State.coreRead
  repeat' first
      | with_reducible assumption | intro _ | with_reducible apply keeps_ite | with_reducible apply State.cachedRead_keeps
      | with_reducible apply State.basinRead_keeps | with_reducible apply State.jobFetch_keeps | with_reducible apply keeps_foldl
      | with_reducible apply keeps_foldl1 | with_reducible apply keeps_foldl2 | with_reducible refine keeps_fst (by assumption) ?_
      | with_reducible refine keeps_snd (by assumption) ?_ | fail_if_no_progress with_reducible apply keeps_mk | dsimp only | split

theorem State.ownStore_keeps {s was : State} (h : Keeps s0 s) : ∀ c, Keeps s0 (s.ownStore c was) := by
  intro c
  unfold State.ownStore
  repeat' first
      | with_reducible assumption | with_reducible apply keeps_ite | with_reducible apply State.setCore_keeps
      | with_reducible apply State.modCore_keeps

theorem State.coreWrite_keeps {s : State} (h : Keeps s0 s) :
    ∀ a2 a3 a4 a5, Keeps s0 (State.coreWrite s a2 a3 a4 a5).1 := by
  intro a2 a3 a4 a5
  unfold State.coreWrite
  repeat' first
      | with_reducible assumption | intro _ | with_reducible apply keeps_ite | with_reducible apply State.cachedWrite_keeps
      | with_reducible apply State.basinWrite_keeps | with_reducible apply State.jobStore_keeps
      | with_reducible apply State.ownStore_keeps | with_reducible apply keeps_foldl | with_reducible apply keeps_foldl1
      | with_reducible apply keeps_foldl2 | with_reducible refine keeps_fst (by assumption) ?_
      | with_reducible refine keeps_snd (by assumption) ?_ | fail_if_no_progress with_reducible apply keeps_mk | dsimp only | split

theorem State.coreFetch_keeps {s : State} (h : Keeps s0 s) :
    ∀ a2 a3 a4 a5, Keeps s0 (State.coreFetch s a2 a3 a4 a5).1 := by
  intro a2 a3 a4 a5
  unfold State.coreFetch
  repeat' first
      | with_reducible assumption | intro _ | with_reducible apply keeps_ite | with_reducible apply State.free_keeps
      | with_reducible apply State.chargeCore_keeps | with_reducible apply State.modCore_keeps | with_reducible apply State.coreRead_keeps
      | with_reducible apply keeps_foldl | with_reducible apply keeps_foldl1 | with_reducible apply keeps_foldl2
      | with_reducible refine keeps_fst (by assumption) ?_ | with_reducible refine keeps_snd (by assumption) ?_
      | fail_if_no_progress with_reducible apply keeps_mk | dsimp only | split

theorem State.vLoadElems_keeps {s : State} (h : Keeps s0 s) :
    ∀ a2 a3 a4, Keeps s0 (State.vLoadElems s a2 a3 a4).1 := by
  intro a2 a3 a4
  unfold State.vLoadElems
  repeat' first
      | with_reducible assumption | intro _ | with_reducible apply keeps_ite | with_reducible apply State.coreRead_keeps
      | with_reducible apply keeps_foldl | with_reducible apply keeps_foldl1 | with_reducible apply keeps_foldl2
      | with_reducible refine keeps_fst (by assumption) ?_ | with_reducible refine keeps_snd (by assumption) ?_
      | fail_if_no_progress with_reducible apply keeps_mk | dsimp only | split

theorem State.vLoad_keeps {s : State} (h : Keeps s0 s) :
    ∀ a2 a3 a4, Keeps s0 (State.vLoad s a2 a3 a4).1 := by
  intro a2 a3 a4
  unfold State.vLoad
  repeat' first
      | with_reducible assumption | intro _ | with_reducible apply keeps_ite | with_reducible apply State.modCore_keeps
      | with_reducible apply State.jobFetch_keeps | with_reducible apply State.vLoadElems_keeps | with_reducible apply keeps_foldl
      | with_reducible apply keeps_foldl1 | with_reducible apply keeps_foldl2 | with_reducible refine keeps_fst (by assumption) ?_
      | with_reducible refine keeps_snd (by assumption) ?_ | fail_if_no_progress with_reducible apply keeps_mk | dsimp only | split

theorem State.vStore_keeps {s : State} (h : Keeps s0 s) :
    ∀ a2 a3 a4, Keeps s0 (State.vStore s a2 a3 a4).1 := by
  intro a2 a3 a4
  unfold State.vStore
  repeat' first
      | with_reducible assumption | intro _ | with_reducible apply keeps_ite | with_reducible apply State.modCore_keeps
      | with_reducible apply State.coreWrite_keeps | with_reducible apply keeps_foldl | with_reducible apply keeps_foldl1
      | with_reducible apply keeps_foldl2 | with_reducible refine keeps_fst (by assumption) ?_
      | with_reducible refine keeps_snd (by assumption) ?_ | fail_if_no_progress with_reducible apply keeps_mk | dsimp only | split

theorem State.startCore_keeps {s : State} (h : Keeps s0 s) :
    ∀ a2 a3 a4, Keeps s0 (State.startCore s a2 a3 a4) := by
  intro a2 a3 a4
  unfold State.startCore
  repeat' first
      | with_reducible assumption | intro _ | with_reducible apply keeps_ite | with_reducible apply keeps_setReg
      | with_reducible apply State.wr_keeps | with_reducible apply State.setCore_keeps

theorem State.startCounter_keeps {s : State} (h : Keeps s0 s) :
    ∀ a2 a3 a4, Keeps s0 (State.startCounter s a2 a3 a4) := by
  intro a2 a3 a4
  unfold State.startCounter
  repeat' first
      | with_reducible assumption | intro _ | with_reducible apply keeps_ite | with_reducible apply State.wr_keeps
      | with_reducible apply State.setBasin_keeps

theorem State.beginTask_keeps {s : State} (h : Keeps s0 s) :
    ∀ a2 a3 a4, Keeps s0 (State.beginTask s a2 a3 a4) := by
  intro a2 a3 a4
  unfold State.beginTask
  repeat' first
      | with_reducible assumption | intro _ | with_reducible apply keeps_ite | with_reducible apply State.setBasin_keeps
      | with_reducible apply keeps_each | with_reducible apply State.startCore_keeps | with_reducible apply State.startCounter_keeps
      | with_reducible apply keeps_foldl | with_reducible apply keeps_foldl1 | with_reducible apply keeps_foldl2
      | with_reducible refine keeps_fst (by assumption) ?_ | with_reducible refine keeps_snd (by assumption) ?_
      | fail_if_no_progress with_reducible apply keeps_mk

theorem State.taskStart_keeps {s : State} (h : Keeps s0 s) :
    ∀ a2, Keeps s0 (State.taskStart s a2) := by
  intro a2
  unfold State.taskStart
  repeat' first
      | with_reducible assumption | intro _ | with_reducible apply keeps_ite | with_reducible apply State.startRunning_keeps
      | with_reducible apply State.takeStart_keeps | with_reducible apply State.beginTask_keeps

theorem State.stopCores_keeps {s : State} (h : Keeps s0 s) :
    ∀ a2, Keeps s0 (State.stopCores s a2) := by
  intro a2
  unfold State.stopCores
  repeat' first
      | with_reducible assumption | intro _ | with_reducible apply keeps_ite | with_reducible apply State.wr_keeps
      | with_reducible apply keeps_each | with_reducible apply State.coreIdle_keeps

theorem State.watchdog_keeps {s : State} (h : Keeps s0 s) :
    ∀ a2 a3, Keeps s0 (State.watchdog s a2 a3) := by
  intro a2 a3
  unfold State.watchdog
  repeat' first
      | with_reducible assumption | intro _ | with_reducible apply keeps_ite | with_reducible apply State.setBasin_keeps
      | with_reducible apply State.taskCheck_keeps | with_reducible apply State.stopCores_keeps

theorem State.fetchInstr_keeps {s : State} (h : Keeps s0 s) :
    ∀ a2 a3, Keeps s0 (State.fetchInstr s a2 a3).1 := by
  intro a2 a3
  unfold State.fetchInstr
  repeat' first
      | with_reducible assumption | intro _ | with_reducible apply keeps_ite | with_reducible apply State.coreFetch_keeps
      | with_reducible apply keeps_foldl | with_reducible apply keeps_foldl1 | with_reducible apply keeps_foldl2
      | with_reducible refine keeps_fst (by assumption) ?_ | with_reducible refine keeps_snd (by assumption) ?_
      | fail_if_no_progress with_reducible apply keeps_mk | dsimp only | split

theorem State.atomRead_keeps {s : State} (h : Keeps s0 s) :
    ∀ a2 a3 a4 a5, Keeps s0 (State.atomRead s a2 a3 a4 a5).1 := by
  intro a2 a3 a4 a5
  unfold State.atomRead
  repeat' first
      | with_reducible assumption | intro _ | with_reducible apply keeps_ite | with_reducible apply State.chargeCore_keeps
      | with_reducible apply State.evictLine_keeps | with_reducible apply State.basinRead_keeps | with_reducible apply keeps_foldl
      | with_reducible apply keeps_foldl1 | with_reducible apply keeps_foldl2 | with_reducible refine keeps_fst (by assumption) ?_
      | with_reducible refine keeps_snd (by assumption) ?_ | fail_if_no_progress with_reducible apply keeps_mk | dsimp only | split

theorem State.atomWrite_keeps {s : State} (h : Keeps s0 s) :
    ∀ a2 a3 a4, Keeps s0 (State.atomWrite s a2 a3 a4).1 := by
  intro a2 a3 a4
  unfold State.atomWrite
  repeat' first
      | with_reducible assumption | intro _ | with_reducible apply keeps_ite | with_reducible apply State.devWrite_keeps
      | with_reducible apply State.chargeCore_keeps | with_reducible apply State.basinWrite_keeps
      | with_reducible apply State.ownStore_keeps | with_reducible apply keeps_foldl | with_reducible apply keeps_foldl1
      | with_reducible apply keeps_foldl2 | with_reducible refine keeps_fst (by assumption) ?_
      | with_reducible refine keeps_snd (by assumption) ?_ | fail_if_no_progress with_reducible apply keeps_mk | dsimp only | split

theorem State.storeCond_keeps {s : State} (h : Keeps s0 s) :
    ∀ a2 a3 a4 a5 a6 a7 a8, Keeps s0 (State.storeCond s a2 a3 a4 a5 a6 a7 a8) := by
  intro a2 a3 a4 a5 a6 a7 a8
  unfold State.storeCond
  repeat' first
      | with_reducible assumption | intro _ | with_reducible apply keeps_ite | with_reducible apply State.free_keeps
      | with_reducible apply State.modCore_keeps | with_reducible apply State.retire_keeps | with_reducible apply State.trap_keeps
      | with_reducible apply State.atomRead_keeps | with_reducible apply State.atomWrite_keeps | with_reducible apply keeps_foldl
      | with_reducible apply keeps_foldl1 | with_reducible apply keeps_foldl2 | with_reducible refine keeps_fst (by assumption) ?_
      | with_reducible refine keeps_snd (by assumption) ?_ | fail_if_no_progress with_reducible apply keeps_mk | dsimp only | split

end Sys2Proof.Machine
end

