-- ==== Sys2Proof/Laws/Keeps5.lean ====
section
/-! SUPPORT. What every operation keeps, part 5: the queue, and the order of registers and memories. -/
namespace Sys2Proof.Machine

variable {s0 : State}

theorem State.amo_keeps {s : State} (h : Keeps s0 s) :
    ∀ a2 a3 a4 a5 a6 a7 a8 a9, Keeps s0 (State.amo s a2 a3 a4 a5 a6 a7 a8 a9) := by
  intro a2 a3 a4 a5 a6 a7 a8 a9
  unfold State.amo
  repeat' first
      | with_reducible assumption | intro _ | with_reducible apply keeps_ite | with_reducible apply State.modCore_keeps
      | with_reducible apply State.retire_keeps | with_reducible apply State.trap_keeps | with_reducible apply State.atomRead_keeps
      | with_reducible apply State.atomWrite_keeps | with_reducible apply keeps_foldl | with_reducible apply keeps_foldl1
      | with_reducible apply keeps_foldl2 | with_reducible refine keeps_fst (by assumption) ?_
      | with_reducible refine keeps_snd (by assumption) ?_ | fail_if_no_progress with_reducible apply keeps_mk | dsimp only | split

theorem State.tickCore_keeps {s : State} (h : Keeps s0 s) :
    ∀ a2, Keeps s0 (State.tickCore s a2) := by
  intro a2
  unfold State.tickCore
  repeat' first
      | with_reducible assumption | intro _ | with_reducible apply keeps_ite | with_reducible apply State.free_keeps
      | with_reducible apply State.modCore_keeps

theorem State.csrOp_keeps {s : State} (h : Keeps s0 s) :
    ∀ a2 a3 a4 a5 a6 a7 a8, Keeps s0 (State.csrOp s a2 a3 a4 a5 a6 a7 a8) := by
  intro a2 a3 a4 a5 a6 a7 a8
  unfold State.csrOp
  repeat' first
      | with_reducible assumption | intro _ | with_reducible apply keeps_ite | with_reducible apply State.nondet_keeps
      | with_reducible apply State.modCore_keeps | with_reducible apply State.retire_keeps | with_reducible apply State.trap_keeps
      | with_reducible apply State.tickCore_keeps | with_reducible apply keeps_foldl | with_reducible apply keeps_foldl1
      | with_reducible apply keeps_foldl2 | with_reducible refine keeps_fst (by assumption) ?_
      | with_reducible refine keeps_snd (by assumption) ?_ | fail_if_no_progress with_reducible apply keeps_mk | dsimp only | split

theorem State.loadOp_keeps {s : State} (h : Keeps s0 s) :
    ∀ a2 a3 a4 a5 a6 a7 a8 a9, Keeps s0 (State.loadOp s a2 a3 a4 a5 a6 a7 a8 a9) := by
  intro a2 a3 a4 a5 a6 a7 a8 a9
  unfold State.loadOp
  repeat' first
      | with_reducible assumption | intro _ | with_reducible apply keeps_ite | with_reducible apply State.modCore_keeps
      | with_reducible apply State.retire_keeps | with_reducible apply State.trap_keeps | with_reducible apply State.coreRead_keeps
      | with_reducible apply keeps_foldl | with_reducible apply keeps_foldl1 | with_reducible apply keeps_foldl2
      | with_reducible refine keeps_fst (by assumption) ?_ | with_reducible refine keeps_snd (by assumption) ?_
      | fail_if_no_progress with_reducible apply keeps_mk | dsimp only | split

theorem State.vecDone_keeps {s : State} (h : Keeps s0 s) :
    ∀ a2 a3 a4 a5, Keeps s0 (State.vecDone s a2 a3 a4 a5) := by
  intro a2 a3 a4 a5
  unfold State.vecDone
  repeat' first
      | with_reducible assumption | intro _ | with_reducible apply keeps_ite | with_reducible apply State.retire_keeps
      | with_reducible apply State.trap_keeps | with_reducible apply keeps_foldl | with_reducible apply keeps_foldl1
      | with_reducible apply keeps_foldl2 | with_reducible refine keeps_fst (by assumption) ?_
      | with_reducible refine keeps_snd (by assumption) ?_ | fail_if_no_progress with_reducible apply keeps_mk | dsimp only | split

theorem State.vecOp_keeps {s : State} (h : Keeps s0 s) :
    ∀ a2 a3 a4 a5, Keeps s0 (State.vecOp s a2 a3 a4 a5) := by
  intro a2 a3 a4 a5
  unfold State.vecOp
  repeat' first
      | with_reducible assumption | intro _ | with_reducible apply keeps_ite | with_reducible apply State.setCore_keeps
      | with_reducible apply State.retire_keeps | with_reducible apply State.trap_keeps | with_reducible apply State.vLoad_keeps
      | with_reducible apply State.vStore_keeps | with_reducible apply State.vecDone_keeps | with_reducible apply keeps_foldl
      | with_reducible apply keeps_foldl1 | with_reducible apply keeps_foldl2 | with_reducible refine keeps_fst (by assumption) ?_
      | with_reducible refine keeps_snd (by assumption) ?_ | fail_if_no_progress with_reducible apply keeps_mk | dsimp only | split

theorem State.cboOp_keeps {s : State} (h : Keeps s0 s) :
    ∀ a2 a3 a4 a5, Keeps s0 (State.cboOp s a2 a3 a4 a5) := by
  intro a2 a3 a4 a5
  unfold State.cboOp
  repeat' first
      | with_reducible assumption | intro _ | with_reducible apply keeps_ite | with_reducible apply State.retire_keeps
      | with_reducible apply State.trap_keeps | with_reducible apply State.cboLine_keeps | with_reducible apply keeps_foldl
      | with_reducible apply keeps_foldl1 | with_reducible apply keeps_foldl2 | with_reducible refine keeps_fst (by assumption) ?_
      | with_reducible refine keeps_snd (by assumption) ?_ | fail_if_no_progress with_reducible apply keeps_mk | dsimp only | split

theorem State.runOp_keeps {s : State} (h : Keeps s0 s) :
    ∀ a2 a3 a4 a5 a6, Keeps s0 (State.runOp s a2 a3 a4 a5 a6) := by
  intro a2 a3 a4 a5 a6
  unfold State.runOp
  repeat' first
      | with_reducible assumption | intro _ | with_reducible apply keeps_ite | with_reducible apply keeps_setReg
      | with_reducible apply State.modCore_keeps | with_reducible apply State.retire_keeps | with_reducible apply State.trap_keeps
      | with_reducible apply State.coreWrite_keeps | with_reducible apply State.atomRead_keeps
      | with_reducible apply State.storeCond_keeps | with_reducible apply State.amo_keeps | with_reducible apply State.csrOp_keeps
      | with_reducible apply State.loadOp_keeps | with_reducible apply State.vecOp_keeps | with_reducible apply State.cboOp_keeps
      | with_reducible apply keeps_foldl | with_reducible apply keeps_foldl1 | with_reducible apply keeps_foldl2
      | with_reducible refine keeps_fst (by assumption) ?_ | with_reducible refine keeps_snd (by assumption) ?_
      | fail_if_no_progress with_reducible apply keeps_mk | dsimp only | split

theorem State.coreStep_keeps {s : State} (h : Keeps s0 s) :
    ∀ a2 a3, Keeps s0 (State.coreStep s a2 a3) := by
  intro a2 a3
  unfold State.coreStep
  repeat' first
      | with_reducible assumption | intro _ | with_reducible apply keeps_ite | with_reducible apply State.trap_keeps
      | with_reducible apply State.fetchInstr_keeps | with_reducible apply State.runOp_keeps | with_reducible apply keeps_foldl
      | with_reducible apply keeps_foldl1 | with_reducible apply keeps_foldl2 | with_reducible refine keeps_fst (by assumption) ?_
      | with_reducible refine keeps_snd (by assumption) ?_ | fail_if_no_progress with_reducible apply keeps_mk | dsimp only | split

theorem State.notePoison_keeps {s : State} (h : Keeps s0 s) : ∀ c p b, Keeps s0 (State.notePoison s c p b) := by
  intro c p b
  unfold State.notePoison
  repeat' first | with_reducible assumption | with_reducible apply keeps_ite | with_reducible apply State.setBasin_keeps | dsimp only | split

theorem State.atOwn_keeps {s : State} {k3 : State → Uop → State} (h : Keeps s0 s) (hk3 : ∀ x0 x1, Keeps s0 x0 → Keeps s0 (k3 x0 x1)) :
    ∀ a2, Keeps s0 (State.atOwn s a2 k3) := by
  intro a2
  unfold State.atOwn
  repeat' first
      | with_reducible assumption | intro _ | with_reducible apply keeps_ite | with_reducible apply State.fetchInstr_keeps
      | with_reducible apply hk3 | with_reducible apply keeps_foldl | with_reducible apply keeps_foldl1
      | with_reducible apply keeps_foldl2 | with_reducible refine keeps_fst (by assumption) ?_
      | with_reducible refine keeps_snd (by assumption) ?_ | fail_if_no_progress with_reducible apply keeps_mk | dsimp only | split

theorem State.atCustom_keeps {s : State} {k4 : State → ℕ → ℕ → ℕ → State} (h : Keeps s0 s) (hk4 : ∀ x0 x1 x2 x3, Keeps s0 x0 → Keeps s0 (k4 x0 x1 x2 x3)) :
    ∀ a2 a3, Keeps s0 (State.atCustom s a2 a3 k4) := by
  intro a2 a3
  unfold State.atCustom
  repeat' first
      | with_reducible assumption | intro _ | with_reducible apply keeps_ite | with_reducible apply State.atOwn_keeps
      | with_reducible apply hk4 | with_reducible apply keeps_foldl | with_reducible apply keeps_foldl1
      | with_reducible apply keeps_foldl2 | with_reducible refine keeps_fst (by assumption) ?_
      | with_reducible refine keeps_snd (by assumption) ?_ | fail_if_no_progress with_reducible apply keeps_mk | dsimp only | split

theorem State.result_keeps {s : State} (h : Keeps s0 s) :
    ∀ a2 a3 a4, Keeps s0 (State.result s a2 a3 a4) := by
  intro a2 a3 a4
  unfold State.result
  repeat' first
      | with_reducible assumption | intro _ | with_reducible apply keeps_ite | with_reducible apply State.modCore_keeps
      | with_reducible apply State.retire_keeps

theorem State.claim_keeps {s : State} (h : Keeps s0 s) : ∀ c r, s.claim c = some r → Keeps s0 r.1 := by
  intro c r hr
  unfold State.claim at hr
  dsimp only at hr
  split at hr
  · cases hr; exact State.bump_keeps (State.setBasin_keeps h _ _) _ _ _
  · split at hr
    · cases hr
    · split at hr
      · cases hr; exact State.wr_keeps (State.setBasin_keeps h _ _) _ _ _
      · cases hr; exact h

theorem State.claimDone_keeps {s : State} (h : Keeps s0 s) :
    ∀ a2 a3, Keeps s0 (State.claimDone s a2 a3).1 := by
  intro a2 a3
  unfold State.claimDone
  repeat' first
      | with_reducible assumption | intro _ | with_reducible apply keeps_ite | with_reducible apply State.bump_keeps
      | with_reducible apply State.setBasin_keeps | with_reducible apply keeps_foldl | with_reducible apply keeps_foldl1
      | with_reducible apply keeps_foldl2 | with_reducible refine keeps_fst (by assumption) ?_
      | with_reducible refine keeps_snd (by assumption) ?_ | fail_if_no_progress with_reducible apply keeps_mk | dsimp only | split

theorem State.semTake_keeps {s : State} (h : Keeps s0 s) :
    ∀ a2 a3 a4, Keeps s0 (State.semTake s a2 a3 a4) := by
  intro a2 a3 a4
  unfold State.semTake
  repeat' first
      | with_reducible assumption | intro _ | with_reducible apply keeps_ite | with_reducible apply keeps_setReg
      | with_reducible apply State.wr_keeps | with_reducible apply State.setBasin_keeps

theorem State.noteRace_keeps {s : State} (h : Keeps s0 s) :
    ∀ a2, Keeps s0 (State.noteRace s a2) := by
  intro a2
  unfold State.noteRace
  repeat' first
      | with_reducible assumption | intro _ | with_reducible apply keeps_ite | with_reducible apply State.bump_keeps

theorem State.block_keeps {s : State} (h : Keeps s0 s) :
    ∀ a2 a3 a4 a5, Keeps s0 (State.block s a2 a3 a4 a5) := by
  intro a2 a3 a4 a5
  unfold State.block
  repeat' first
      | with_reducible assumption | intro _ | with_reducible apply keeps_ite | with_reducible apply State.wr_keeps
      | with_reducible apply State.setBasin_keeps | with_reducible apply State.modCore_keeps

theorem State.unblock_keeps {s : State} (h : Keeps s0 s) :
    ∀ a2, Keeps s0 (State.unblock s a2) := by
  intro a2
  unfold State.unblock
  repeat' first
      | with_reducible assumption | intro _ | with_reducible apply keeps_ite | with_reducible apply State.wr_keeps
      | with_reducible apply State.setBasin_keeps | with_reducible apply State.modCore_keeps

theorem State.enqueueTile_keeps {s : State} (h : Keeps s0 s) :
    ∀ a2 a3 a4 a5, Keeps s0 (State.enqueueTile s a2 a3 a4 a5) := by
  intro a2 a3 a4 a5
  unfold State.enqueueTile
  repeat' first
      | with_reducible assumption | intro _ | with_reducible apply keeps_ite | with_reducible apply keeps_foldl
      | with_reducible apply keeps_foldl1 | with_reducible apply keeps_foldl2 | with_reducible refine keeps_fst (by assumption) ?_
      | with_reducible refine keeps_snd (by assumption) ?_ | fail_if_no_progress with_reducible apply keeps_mk

theorem State.readTile_keeps {s : State} (h : Keeps s0 s) :
    ∀ a2 a3 a4, Keeps s0 (State.readTile s a2 a3 a4).1 := by
  intro a2 a3 a4
  unfold State.readTile
  repeat' first
      | with_reducible assumption | intro _ | with_reducible apply keeps_ite | with_reducible apply State.basinRead_keeps
      | with_reducible apply keeps_foldl | with_reducible apply keeps_foldl1 | with_reducible apply keeps_foldl2
      | with_reducible refine keeps_fst (by assumption) ?_ | with_reducible refine keeps_snd (by assumption) ?_
      | fail_if_no_progress with_reducible apply keeps_mk | dsimp only | split

theorem State.completeLoad_keeps {s : State} (h : Keeps s0 s) :
    ∀ a2, Keeps s0 (State.completeLoad s a2) := by
  intro a2
  unfold State.completeLoad
  repeat' first
      | with_reducible assumption | intro _ | with_reducible apply keeps_ite | with_reducible apply State.fetchInstr_keeps
      | with_reducible apply State.loadOp_keeps | with_reducible apply State.vecOp_keeps | with_reducible apply keeps_foldl
      | with_reducible apply keeps_foldl1 | with_reducible apply keeps_foldl2 | with_reducible refine keeps_fst (by assumption) ?_
      | with_reducible refine keeps_snd (by assumption) ?_ | fail_if_no_progress with_reducible apply keeps_mk | dsimp only | split

theorem State.accessFailed_keeps {s : State} (h : Keeps s0 s) :
    ∀ a2 a3, Keeps s0 (State.accessFailed s a2 a3) := by
  intro a2 a3
  unfold State.accessFailed
  repeat' first
      | with_reducible assumption | intro _ | with_reducible apply keeps_ite | with_reducible apply State.wr_keeps
      | with_reducible apply State.setBasin_keeps | with_reducible apply State.trap_keeps | with_reducible apply keeps_foldl
      | with_reducible apply keeps_foldl1 | with_reducible apply keeps_foldl2 | with_reducible refine keeps_fst (by assumption) ?_
      | with_reducible refine keeps_snd (by assumption) ?_ | fail_if_no_progress with_reducible apply keeps_mk | dsimp only | split

theorem State.accessReturn_keeps {s : State} (h : Keeps s0 s) :
    ∀ a2 a3, Keeps s0 (State.accessReturn s a2 a3) := by
  intro a2 a3
  unfold State.accessReturn
  repeat' first
      | with_reducible assumption | intro _ | with_reducible apply keeps_ite | with_reducible apply State.taskEnd_keeps
      | with_reducible apply State.modCore_keeps | with_reducible apply State.taskCheck_keeps | with_reducible apply State.jobGot_keeps
      | with_reducible apply State.completeLoad_keeps | with_reducible apply State.accessFailed_keeps

theorem State.copyAsyncDone_keeps {s : State} (h : Keeps s0 s) :
    ∀ a2 a3 a4, Keeps s0 (State.copyAsyncDone s a2 a3 a4) := by
  intro a2 a3 a4
  unfold State.copyAsyncDone
  repeat' first
      | with_reducible assumption | intro _ | with_reducible apply keeps_ite | with_reducible apply State.modCmd_keeps
      | with_reducible apply State.sendBump_keeps | with_reducible apply State.dropWaiting_keeps | with_reducible apply State.finish_keeps

theorem State.setMigration_keeps {s : State} (h : Keeps s0 s) :
    ∀ a2, Keeps s0 (State.setMigration s a2) := by
  intro a2
  unfold State.setMigration
  repeat' first
      | with_reducible assumption | intro _ | with_reducible apply keeps_ite | with_reducible apply keeps_foldl
      | with_reducible apply keeps_foldl1 | with_reducible apply keeps_foldl2 | with_reducible refine keeps_fst (by assumption) ?_
      | with_reducible refine keeps_snd (by assumption) ?_ | fail_if_no_progress with_reducible apply keeps_mk

theorem State.migPush_keeps {s : State} (h : Keeps s0 s) : ∀ n m, Keeps s0 (State.migPush n s m) := by
  intro n
  induction n generalizing s with
  | zero => exact fun _ => State.setMigration_keeps h _
  | succ n ih =>
  intro m
  unfold State.migPush
  repeat' first
      | with_reducible assumption | intro _ | with_reducible apply keeps_ite | with_reducible apply ih
      | with_reducible apply State.setMigration_keeps | with_reducible apply State.sendBump_keeps | with_reducible apply State.push_keeps
      | with_reducible apply State.dropWaiting_keeps | with_reducible refine keeps_fst (by assumption) ?_
      | with_reducible refine keeps_snd (by assumption) ?_ | fail_if_no_progress with_reducible apply keeps_mk | dsimp only | split

theorem State.migNext_keeps {s : State} (h : Keeps s0 s) :
    ∀ a2, Keeps s0 (State.migNext s a2) := by
  intro a2
  unfold State.migNext
  repeat' first
      | with_reducible assumption | intro _ | with_reducible apply keeps_ite | with_reducible apply State.migPush_keeps

theorem State.migDone_keeps {s : State} (h : Keeps s0 s) :
    ∀ a2 a3, Keeps s0 (State.migDone s a2 a3) := by
  intro a2 a3
  unfold State.migDone
  repeat' first
      | with_reducible assumption | intro _ | with_reducible apply keeps_ite | with_reducible apply State.sendBump_keeps
      | with_reducible apply State.dropWaiting_keeps | with_reducible apply State.setMigration_keeps
      | with_reducible apply State.migNext_keeps | with_reducible apply keeps_foldl | with_reducible apply keeps_foldl1
      | with_reducible apply keeps_foldl2 | with_reducible refine keeps_fst (by assumption) ?_
      | with_reducible refine keeps_snd (by assumption) ?_ | fail_if_no_progress with_reducible apply keeps_mk | dsimp only | split

theorem State.cmdReqDone_keeps {s : State} (h : Keeps s0 s) :
    ∀ a2 a3 a4 a5, Keeps s0 (State.cmdReqDone s a2 a3 a4 a5) := by
  intro a2 a3 a4 a5
  unfold State.cmdReqDone
  repeat' first
      | with_reducible assumption | intro _ | with_reducible apply keeps_ite | with_reducible apply State.modCmd_keeps
      | with_reducible apply State.finish_keeps | with_reducible apply State.cascadeCancel_keeps | with_reducible apply State.kvLine_keeps
      | with_reducible apply State.serveWritten_keeps | with_reducible apply State.copyAsyncDone_keeps
      | with_reducible apply State.migDone_keeps | with_reducible apply keeps_foldl | with_reducible apply keeps_foldl1
      | with_reducible apply keeps_foldl2 | with_reducible refine keeps_fst (by assumption) ?_
      | with_reducible refine keeps_snd (by assumption) ?_ | fail_if_no_progress with_reducible apply keeps_mk | dsimp only | split

theorem State.coreReqDone_keeps {s : State} (h : Keeps s0 s) :
    ∀ a2 a3 a4, Keeps s0 (State.coreReqDone s a2 a3 a4) := by
  intro a2 a3 a4
  unfold State.coreReqDone
  repeat' first
      | with_reducible assumption | intro _ | with_reducible apply keeps_ite | with_reducible apply State.modCore_keeps

theorem State.exportReqDone_keeps {s : State} (h : Keeps s0 s) :
    ∀ a2 a3, Keeps s0 (State.exportReqDone s a2 a3) := by
  intro a2 a3
  unfold State.exportReqDone
  repeat' first
      | with_reducible assumption | intro _ | with_reducible apply keeps_ite | with_reducible apply State.sendBump_keeps
      | with_reducible apply State.setShadow_keeps | with_reducible apply State.endShadow_keeps
      | with_reducible apply State.exportPump_keeps | with_reducible apply keeps_foldl | with_reducible apply keeps_foldl1
      | with_reducible apply keeps_foldl2 | with_reducible refine keeps_fst (by assumption) ?_
      | with_reducible refine keeps_snd (by assumption) ?_ | fail_if_no_progress with_reducible apply keeps_mk | dsimp only | split

theorem State.reqDone_keeps {s : State} (h : Keeps s0 s) :
    ∀ a2 a3 a4 a5, Keeps s0 (State.reqDone s a2 a3 a4 a5) := by
  intro a2 a3 a4 a5
  unfold State.reqDone
  repeat' first
      | with_reducible assumption | intro _ | with_reducible apply keeps_ite | with_reducible apply State.cmdReqDone_keeps
      | with_reducible apply State.coreReqDone_keeps | with_reducible apply State.exportReqDone_keeps

theorem State.countBlocked_keeps {s : State} (h : Keeps s0 s) :
    Keeps s0 (State.countBlocked s) := by
  unfold State.countBlocked
  repeat' first
      | with_reducible assumption | intro _ | with_reducible apply keeps_ite | with_reducible apply State.wr_keeps

theorem State.replyTaken_keeps {s : State} (h : Keeps s0 s) :
    ∀ a2 a3, Keeps s0 (State.replyTaken s a2 a3) := by
  intro a2 a3
  unfold State.replyTaken
  repeat' first
      | with_reducible assumption | intro _ | with_reducible apply keeps_ite | with_reducible apply State.bump_keeps
      | with_reducible apply State.portRx_keeps | with_reducible apply State.aqdForget_keeps | with_reducible apply State.reqDone_keeps
      | with_reducible apply State.countBlocked_keeps

theorem State.portExpire_keeps {s : State} (h : Keeps s0 s) :
    ∀ a2, Keeps s0 (State.portExpire s a2) := by
  intro a2
  unfold State.portExpire
  repeat' first
      | with_reducible assumption | intro _ | with_reducible apply keeps_ite | with_reducible apply keeps_whenever
      | with_reducible apply keeps_forSome | with_reducible apply State.homeDrop_keeps | with_reducible apply keeps_foldl
      | with_reducible apply keeps_foldl1 | with_reducible apply keeps_foldl2 | with_reducible refine keeps_fst (by assumption) ?_
      | with_reducible refine keeps_snd (by assumption) ?_ | fail_if_no_progress with_reducible apply keeps_mk

theorem State.modSent_keeps {s : State} (h : Keeps s0 s) :
    ∀ a2 a3, Keeps s0 (State.modSent s a2 a3) := by
  intro a2 a3
  unfold State.modSent
  repeat' first
      | with_reducible assumption | intro _ | with_reducible apply keeps_ite | with_reducible apply keeps_foldl
      | with_reducible apply keeps_foldl1 | with_reducible apply keeps_foldl2 | with_reducible refine keeps_fst (by assumption) ?_
      | with_reducible refine keeps_snd (by assumption) ?_ | fail_if_no_progress with_reducible apply keeps_mk

theorem State.sendQuery_keeps {s : State} (h : Keeps s0 s) :
    ∀ a2, Keeps s0 (State.sendQuery s a2) := by
  intro a2
  unfold State.sendQuery
  repeat' first
      | with_reducible assumption | intro _ | with_reducible apply keeps_ite | with_reducible apply State.chargeAqd_keeps
      | with_reducible apply State.portTx_keeps | with_reducible apply State.modSent_keeps | with_reducible apply keeps_foldl
      | with_reducible apply keeps_foldl1 | with_reducible apply keeps_foldl2 | with_reducible refine keeps_fst (by assumption) ?_
      | with_reducible refine keeps_snd (by assumption) ?_ | fail_if_no_progress with_reducible apply keeps_mk | dsimp only | split

theorem State.waitClosed_keeps {s : State} (h : Keeps s0 s) :
    ∀ a2, Keeps s0 (State.waitClosed s a2) := by
  intro a2
  unfold State.waitClosed
  repeat' first
      | with_reducible assumption | intro _ | with_reducible apply keeps_ite | with_reducible apply State.aqdForget_keeps
      | with_reducible apply State.reqDone_keeps | with_reducible apply State.countBlocked_keeps
      | with_reducible apply State.modSent_keeps | with_reducible apply State.sendQuery_keeps

theorem State.askAgain_keeps {s : State} (h : Keeps s0 s) :
    ∀ a2, Keeps s0 (State.askAgain s a2) := by
  intro a2
  unfold State.askAgain
  repeat' first
      | with_reducible assumption | intro _ | with_reducible apply keeps_ite | with_reducible apply State.bump_keeps
      | with_reducible apply State.modSent_keeps | with_reducible apply State.sendQuery_keeps

theorem State.copyAsyncBegin_keeps {s : State} (h : Keeps s0 s) :
    ∀ a2, Keeps s0 (State.copyAsyncBegin s a2) := by
  intro a2
  unfold State.copyAsyncBegin
  repeat' first
      | with_reducible assumption | intro _ | with_reducible apply keeps_ite | with_reducible apply State.modCmd_keeps
      | with_reducible apply keeps_each | with_reducible apply State.beginSpans_keeps | with_reducible apply State.startRunning_keeps

theorem State.copyAsyncStart_keeps {s : State} (h : Keeps s0 s) :
    ∀ a2 a3, Keeps s0 (State.copyAsyncStart s a2 a3) := by
  intro a2 a3
  unfold State.copyAsyncStart
  repeat' first
      | with_reducible assumption | with_reducible apply State.raceReads_keeps | intro _ | with_reducible apply keeps_ite | with_reducible apply keeps_forSome
      | with_reducible apply State.modCmd_keeps | with_reducible apply State.eccRead_keeps | with_reducible apply State.push_keeps
      | with_reducible apply State.dropWaiting_keeps | with_reducible apply State.finish_keeps
      | with_reducible apply State.copyAsyncBegin_keeps | with_reducible apply keeps_foldl | with_reducible apply keeps_foldl1
      | with_reducible apply keeps_foldl2 | with_reducible refine keeps_fst (by assumption) ?_
      | with_reducible refine keeps_snd (by assumption) ?_ | fail_if_no_progress with_reducible apply keeps_mk | dsimp only | split

theorem State.beat_keeps {s : State} (h : Keeps s0 s) :
    ∀ a2, Keeps s0 (State.beat s a2) := by
  intro a2
  unfold State.beat
  repeat' first
      | with_reducible assumption | intro _ | with_reducible apply keeps_ite | with_reducible apply keeps_foldl
      | with_reducible apply keeps_foldl1 | with_reducible apply keeps_foldl2 | with_reducible refine keeps_fst (by assumption) ?_
      | with_reducible refine keeps_snd (by assumption) ?_ | fail_if_no_progress with_reducible apply keeps_mk

theorem State.noteSilent_keeps {s : State} (h : Keeps s0 s) :
    ∀ a2, Keeps s0 (State.noteSilent s a2) := by
  intro a2
  unfold State.noteSilent
  repeat' first
      | with_reducible assumption | intro _ | with_reducible apply keeps_ite | with_reducible apply keeps_foldl
      | with_reducible apply keeps_foldl1 | with_reducible apply keeps_foldl2 | with_reducible refine keeps_fst (by assumption) ?_
      | with_reducible refine keeps_snd (by assumption) ?_ | fail_if_no_progress with_reducible apply keeps_mk

theorem State.dieLost_keeps {s : State} (h : Keeps s0 s) :
    ∀ a2, Keeps s0 (State.dieLost s a2) := by
  intro a2
  unfold State.dieLost
  repeat' first
      | with_reducible assumption | intro _ | with_reducible apply keeps_ite | with_reducible apply keeps_whenever
      | with_reducible apply State.reportLow_keeps | with_reducible apply State.noteSilent_keeps

theorem State.governor_keeps {s : State} (h : Keeps s0 s) :
    Keeps s0 (State.governor s) := by
  unfold State.governor
  repeat' first
      | with_reducible assumption | intro _ | with_reducible apply keeps_ite | with_reducible apply State.wr_keeps
      | with_reducible apply State.info_keeps | with_reducible apply keeps_each | with_reducible apply State.decideStep_keeps

theorem State.stretch_keeps {s : State} (h : Keeps s0 s) :
    ∀ a2 a3, Keeps s0 (State.stretch s a2 a3) := by
  intro a2 a3
  unfold State.stretch
  repeat' first
      | with_reducible assumption | intro _ | with_reducible apply keeps_ite | with_reducible apply State.bump_keeps
      | with_reducible apply keeps_foldl | with_reducible apply keeps_foldl1 | with_reducible apply keeps_foldl2
      | with_reducible refine keeps_fst (by assumption) ?_ | with_reducible refine keeps_snd (by assumption) ?_
      | fail_if_no_progress with_reducible apply keeps_mk

theorem State.droop_keeps {s : State} (h : Keeps s0 s) :
    ∀ a2, Keeps s0 (State.droop s a2) := by
  intro a2
  unfold State.droop
  repeat' first
      | with_reducible assumption | intro _ | with_reducible apply keeps_ite | with_reducible apply keeps_each
      | with_reducible apply State.decideStep_keeps | with_reducible apply keeps_foldl | with_reducible apply keeps_foldl1
      | with_reducible apply keeps_foldl2 | with_reducible refine keeps_fst (by assumption) ?_
      | with_reducible refine keeps_snd (by assumption) ?_ | fail_if_no_progress with_reducible apply keeps_mk

theorem State.grantStart_keeps {s : State} (h : Keeps s0 s) :
    Keeps s0 (State.grantStart s) := by
  unfold State.grantStart
  repeat' first
      | with_reducible assumption | intro _ | with_reducible apply keeps_ite | with_reducible apply State.setSlewTokens_keeps
      | with_reducible apply keeps_foldl | with_reducible apply keeps_foldl1 | with_reducible apply keeps_foldl2
      | with_reducible refine keeps_fst (by assumption) ?_ | with_reducible refine keeps_snd (by assumption) ?_
      | fail_if_no_progress with_reducible apply keeps_mk | dsimp only | split

theorem State.gateReqBit_keeps {s : State} (h : Keeps s0 s) :
    ∀ a2, Keeps s0 (State.gateReqBit s a2) := by
  intro a2
  unfold State.gateReqBit
  repeat' first
      | with_reducible assumption | intro _ | with_reducible apply keeps_ite | with_reducible apply State.info_keeps
      | with_reducible apply State.gateLater_keeps | with_reducible apply keeps_foldl | with_reducible apply keeps_foldl1
      | with_reducible apply keeps_foldl2 | with_reducible refine keeps_fst (by assumption) ?_
      | with_reducible refine keeps_snd (by assumption) ?_ | fail_if_no_progress with_reducible apply keeps_mk

theorem State.gateReqWrite_keeps {s : State} (h : Keeps s0 s) :
    ∀ a2, Keeps s0 (State.gateReqWrite s a2) := by
  intro a2
  unfold State.gateReqWrite
  repeat' first
      | with_reducible assumption | intro _ | with_reducible apply keeps_ite | with_reducible apply keeps_each
      | with_reducible apply State.gateReqBit_keeps

theorem State.wakeReqWrite_keeps {s : State} (h : Keeps s0 s) :
    ∀ a2, Keeps s0 (State.wakeReqWrite s a2) := by
  intro a2
  unfold State.wakeReqWrite
  repeat' first
      | with_reducible assumption | intro _ | with_reducible apply keeps_ite | with_reducible apply keeps_each
      | with_reducible apply State.queueWake_keeps | with_reducible apply State.startRamps_keeps

theorem State.heldGate_keeps {s : State} (h : Keeps s0 s) :
    ∀ a2, Keeps s0 (State.heldGate s a2) := by
  intro a2
  unfold State.heldGate
  repeat' first
      | with_reducible assumption | intro _ | with_reducible apply keeps_ite | with_reducible apply State.info_keeps
      | with_reducible apply State.gateLater_keeps | with_reducible apply keeps_foldl | with_reducible apply keeps_foldl1
      | with_reducible apply keeps_foldl2 | with_reducible refine keeps_fst (by assumption) ?_
      | with_reducible refine keeps_snd (by assumption) ?_ | fail_if_no_progress with_reducible apply keeps_mk

theorem State.wakeDone_keeps {s : State} (h : Keeps s0 s) :
    ∀ a2 a3 a4, Keeps s0 (State.wakeDone s a2 a3 a4) := by
  intro a2 a3 a4
  unfold State.wakeDone
  repeat' first
      | with_reducible assumption | intro _ | with_reducible apply keeps_ite | with_reducible apply State.setRegBit_keeps
      | with_reducible apply keeps_resetRegs | with_reducible apply State.setBasin_keeps | with_reducible apply keeps_each
      | with_reducible apply State.cZero_keeps | with_reducible apply State.pZero_keeps | with_reducible apply State.endZero_keeps
      | with_reducible apply State.showGated_keeps | with_reducible apply State.startRamps_keeps
      | with_reducible apply State.fenceEffect_keeps | with_reducible apply State.fenceDecide_keeps
      | with_reducible apply State.testFailed_keeps | with_reducible apply State.heldGate_keeps | with_reducible apply keeps_foldl
      | with_reducible apply keeps_foldl1 | with_reducible apply keeps_foldl2 | with_reducible refine keeps_fst (by assumption) ?_
      | with_reducible refine keeps_snd (by assumption) ?_ | fail_if_no_progress with_reducible apply keeps_mk | dsimp only | split

theorem State.meter_keeps {s : State} (h : Keeps s0 s) :
    ∀ a2 a3, Keeps s0 (State.meter s a2 a3) := by
  intro a2 a3
  unfold State.meter
  repeat' first
      | with_reducible assumption | intro _ | with_reducible apply keeps_ite | with_reducible apply State.wr_keeps
      | with_reducible apply State.bump_keeps | with_reducible apply keeps_each | with_reducible apply keeps_foldl
      | with_reducible apply keeps_foldl1 | with_reducible apply keeps_foldl2 | with_reducible refine keeps_fst (by assumption) ?_
      | with_reducible refine keeps_snd (by assumption) ?_ | fail_if_no_progress with_reducible apply keeps_mk

theorem State.thermal_keeps {s : State} (h : Keeps s0 s) :
    ∀ a2 a3 a4, Keeps s0 (State.thermal s a2 a3 a4) := by
  intro a2 a3 a4
  unfold State.thermal
  repeat' first
      | with_reducible assumption | intro _ | with_reducible apply keeps_ite | with_reducible apply State.wr_keeps
      | with_reducible apply State.reportLow_keeps | with_reducible apply State.info_keeps | with_reducible apply keeps_foldl
      | with_reducible apply keeps_foldl1 | with_reducible apply keeps_foldl2 | with_reducible refine keeps_fst (by assumption) ?_
      | with_reducible refine keeps_snd (by assumption) ?_ | fail_if_no_progress with_reducible apply keeps_mk

theorem keeps_all {p f r i rs fr tk sh d dk ky c po ho ec ep cm nc rg sl ba co je ri ca sc va se sv ra ti et mt md mo
    aq sw sp pw bo mg} {t : State} (h : Keeps s0 t) (hp : p = t.pending) (hr : regsOk t.regs = true → regsOk rs = true)
    (hd : Mem.wf 0 t.dev = true → Mem.wf 0 d = true) (hc : Mem.wf 0 t.cistern = true → Mem.wf 0 c = true)
    (hw : Mem.wf 0 t.pool = true → Mem.wf 0 po = true) (hh : Mem.wf 0 t.host = true → Mem.wf 0 ho = true) :
    Keeps s0 (State.mk p f r i rs fr tk sh d dk ky c po ho ec ep cm nc rg sl ba co je ri ca sc va se sv
      ra ti et mt md mo aq sw sp pw bo mg) := by
  refine ⟨hp.trans h.1, fun x => ?_⟩
  have := h.2 x
  simp only [State.inOrder, Bool.and_eq_true] at this ⊢
  exact ⟨⟨⟨⟨hr this.1.1.1.1, hd this.1.1.1.2⟩, hc this.1.1.2⟩, hw this.1.2⟩, hh this.2⟩

theorem State.clearHub_keeps {s : State} (h : Keeps s0 s) : Keeps s0 s.clearHub := by
  unfold State.clearHub
  refine State.wr_keeps (keeps_each ?_ fun s a hs => State.wr_keeps hs _ _ _) _ _ _
  exact keeps_all h rfl (regsOk_filter _) (Mem.wf_forget _ _ _) (Mem.wf_forget _ _ _) (Mem.wf_forget _ _ _) id

theorem State.coldReset_keeps {s : State} (h : Keeps s0 s) :
    ∀ a2, Keeps s0 (State.coldReset s a2) := by
  intro a2
  unfold State.coldReset
  repeat' first
      | with_reducible assumption | intro _ | with_reducible apply keeps_ite | with_reducible apply State.wr_keeps
      | with_reducible apply State.clearHub_keeps | with_reducible apply keeps_foldl | with_reducible apply keeps_foldl1
      | with_reducible apply keeps_foldl2 | with_reducible refine keeps_fst (by assumption) ?_
      | with_reducible refine keeps_snd (by assumption) ?_ | fail_if_no_progress with_reducible apply keeps_mk

theorem State.warmReset_keeps {s : State} (h : Keeps s0 s) :
    ∀ a2, Keeps s0 (State.warmReset s a2) := by
  intro a2
  unfold State.warmReset
  repeat' first
      | with_reducible assumption | intro _ | with_reducible apply keeps_ite | with_reducible apply State.wr_keeps
      | with_reducible apply State.bumpSat_keeps | with_reducible apply State.clearHub_keeps | with_reducible apply keeps_foldl
      | with_reducible apply keeps_foldl1 | with_reducible apply keeps_foldl2 | with_reducible refine keeps_fst (by assumption) ?_
      | with_reducible refine keeps_snd (by assumption) ?_ | fail_if_no_progress with_reducible apply keeps_mk

theorem State.supplyLoss_keeps {s : State} (h : Keeps s0 s) : ∀ hub, Keeps s0 (s.supplyLoss hub) := by
  intro hub
  unfold State.supplyLoss
  split
  · refine State.wr_keeps ?_ _ _ _
    refine keeps_regs (State.clearHub_keeps (s := _) ?_) (regsOk_filter _)
    exact h
  · refine keeps_mems (State.devForget_keeps (keeps_each h fun s a hs => State.wr_keeps hs _ _ _) _ _) id (Mem.wf_forget _ _ _)
      (Mem.wf_forget _ _ _) id

theorem State.resetRefused_keeps {s : State} (h : Keeps s0 s) :
    ∀ a2, Keeps s0 (State.resetRefused s a2) := by
  intro a2
  unfold State.resetRefused
  repeat' first
      | with_reducible assumption | intro _ | with_reducible apply keeps_ite | with_reducible apply State.wr_keeps
      | with_reducible apply State.raise_keeps | with_reducible apply State.info_keeps

theorem State.clearItems_keeps {s : State} (h : Keeps s0 s) :
    ∀ a2, Keeps s0 (State.clearItems s a2) := by
  intro a2
  unfold State.clearItems
  repeat' first
      | with_reducible assumption | intro _ | with_reducible apply keeps_ite | with_reducible apply keeps_foldl
      | with_reducible apply keeps_foldl1 | with_reducible apply keeps_foldl2 | with_reducible refine keeps_fst (by assumption) ?_
      | with_reducible refine keeps_snd (by assumption) ?_ | fail_if_no_progress with_reducible apply keeps_mk

theorem State.clearBasin_keeps {s : State} (h : Keeps s0 s) :
    ∀ a2, Keeps s0 (State.clearBasin s a2) := by
  intro a2
  unfold State.clearBasin
  repeat' first
      | with_reducible assumption | intro _ | with_reducible apply keeps_ite | with_reducible apply State.wr_keeps
      | with_reducible apply keeps_resetRegs | with_reducible apply State.setBasin_keeps | with_reducible apply keeps_each
      | with_reducible apply State.gateNow_keeps | with_reducible apply keeps_foldl | with_reducible apply keeps_foldl1
      | with_reducible apply keeps_foldl2 | with_reducible refine keeps_fst (by assumption) ?_
      | with_reducible refine keeps_snd (by assumption) ?_ | fail_if_no_progress with_reducible apply keeps_mk

theorem State.basinReset_keeps {s : State} (h : Keeps s0 s) :
    ∀ a2, Keeps s0 (State.basinReset s a2) := by
  intro a2
  unfold State.basinReset
  repeat' first
      | with_reducible assumption | intro _ | with_reducible apply keeps_ite | with_reducible apply State.wr_keeps
      | with_reducible apply keeps_resetRegs | with_reducible apply State.showBasinFence_keeps
      | with_reducible apply State.clearItems_keeps | with_reducible apply State.clearBasin_keeps | with_reducible apply keeps_foldl
      | with_reducible apply keeps_foldl1 | with_reducible apply keeps_foldl2 | with_reducible refine keeps_fst (by assumption) ?_
      | with_reducible refine keeps_snd (by assumption) ?_ | fail_if_no_progress with_reducible apply keeps_mk

theorem State.terraceReset_keeps {s : State} (h : Keeps s0 s) :
    ∀ a2 a3, Keeps s0 (State.terraceReset s a2 a3) := by
  intro a2 a3
  unfold State.terraceReset
  repeat' first
      | with_reducible assumption | intro _ | with_reducible apply keeps_ite | with_reducible apply State.wr_keeps
      | with_reducible apply keeps_resetRegs | with_reducible apply keeps_each | with_reducible apply State.devForget_keeps
      | with_reducible apply State.clearItems_keeps | with_reducible apply State.clearBasin_keeps | with_reducible apply keeps_foldl
      | with_reducible apply keeps_foldl1 | with_reducible apply keeps_foldl2 | with_reducible refine keeps_fst (by assumption) ?_
      | with_reducible refine keeps_snd (by assumption) ?_ | fail_if_no_progress with_reducible apply keeps_mk

theorem State.resetCmdWrite_keeps {s : State} (h : Keeps s0 s) :
    ∀ a2, Keeps s0 (State.resetCmdWrite s a2) := by
  intro a2
  unfold State.resetCmdWrite
  repeat' first
      | with_reducible assumption | intro _ | with_reducible apply keeps_ite | with_reducible apply State.info_keeps
      | with_reducible apply State.resetRefused_keeps | with_reducible apply State.basinReset_keeps
      | with_reducible apply State.terraceReset_keeps | with_reducible apply keeps_foldl | with_reducible apply keeps_foldl1
      | with_reducible apply keeps_foldl2 | with_reducible refine keeps_fst (by assumption) ?_
      | with_reducible refine keeps_snd (by assumption) ?_ | fail_if_no_progress with_reducible apply keeps_mk

theorem State.resetOver_keeps {s : State} (h : Keeps s0 s) :
    ∀ a2, Keeps s0 (State.resetOver s a2) := by
  intro a2
  unfold State.resetOver
  repeat' first
      | with_reducible assumption | intro _ | with_reducible apply keeps_ite | with_reducible apply State.wr_keeps
      | with_reducible apply keeps_each | with_reducible apply State.startRamps_keeps | with_reducible apply State.heldGate_keeps
      | with_reducible apply keeps_foldl | with_reducible apply keeps_foldl1 | with_reducible apply keeps_foldl2
      | with_reducible refine keeps_fst (by assumption) ?_ | with_reducible refine keeps_snd (by assumption) ?_
      | fail_if_no_progress with_reducible apply keeps_mk

theorem State.startTerrace_keeps {s : State} (h : Keeps s0 s) :
    ∀ a2, Keeps s0 (State.startTerrace s a2) := by
  intro a2
  unfold State.startTerrace
  repeat' first
      | with_reducible assumption | intro _ | with_reducible apply keeps_ite | with_reducible apply State.wr_keeps
      | with_reducible apply State.beat_keeps

theorem State.phaseDone_keeps {s : State} (h : Keeps s0 s) :
    ∀ a2, Keeps s0 (State.phaseDone s a2) := by
  intro a2
  unfold State.phaseDone
  repeat' first
      | with_reducible assumption | intro _ | with_reducible apply keeps_ite | with_reducible apply keeps_setReg
      | with_reducible apply State.wr_keeps

theorem State.beginTraining_keeps {s : State} (h : Keeps s0 s) :
    ∀ a2, Keeps s0 (State.beginTraining s a2) := by
  intro a2
  unfold State.beginTraining
  repeat' first
      | with_reducible assumption | intro _ | with_reducible apply keeps_ite | with_reducible apply State.wr_keeps

theorem State.dieReady_keeps {s : State} (h : Keeps s0 s) :
    ∀ a2 a3, Keeps s0 (State.dieReady s a2 a3) := by
  intro a2 a3
  unfold State.dieReady
  repeat' first
      | with_reducible assumption | intro _ | with_reducible apply keeps_ite | with_reducible apply State.wr_keeps
      | with_reducible apply State.reportLow_keeps | with_reducible apply keeps_each | with_reducible apply State.beat_keeps
      | with_reducible apply State.startTerrace_keeps | with_reducible apply State.phaseDone_keeps
      | with_reducible apply State.beginTraining_keeps | with_reducible apply keeps_foldl | with_reducible apply keeps_foldl1
      | with_reducible apply keeps_foldl2 | with_reducible refine keeps_fst (by assumption) ?_
      | with_reducible refine keeps_snd (by assumption) ?_ | fail_if_no_progress with_reducible apply keeps_mk

theorem State.trainFence_keeps {s : State} (h : Keeps s0 s) :
    ∀ a2 a3 a4, Keeps s0 (State.trainFence s a2 a3 a4) := by
  intro a2 a3 a4
  unfold State.trainFence
  repeat' first
      | with_reducible assumption | intro _ | with_reducible apply keeps_ite | with_reducible apply State.reportLow_keeps
      | with_reducible apply State.fenceEffect_keeps | with_reducible apply State.fenceDecide_keeps | with_reducible apply keeps_foldl
      | with_reducible apply keeps_foldl1 | with_reducible apply keeps_foldl2 | with_reducible refine keeps_fst (by assumption) ?_
      | with_reducible refine keeps_snd (by assumption) ?_ | fail_if_no_progress with_reducible apply keeps_mk | dsimp only | split

theorem State.controllerTrained_keeps {s : State} (h : Keeps s0 s) :
    ∀ a2 a3 a4 a5, Keeps s0 (State.controllerTrained s a2 a3 a4 a5) := by
  intro a2 a3 a4 a5
  unfold State.controllerTrained
  repeat' first
      | with_reducible assumption | intro _ | with_reducible apply keeps_ite | with_reducible apply State.wr_keeps
      | with_reducible apply keeps_each | with_reducible apply State.trainFence_keeps

theorem State.trainingOver_keeps {s : State} (h : Keeps s0 s) :
    Keeps s0 (State.trainingOver s) := by
  unfold State.trainingOver
  repeat' first
      | with_reducible assumption | intro _ | with_reducible apply keeps_ite | with_reducible apply State.wr_keeps
      | with_reducible apply keeps_each | with_reducible apply State.phaseDone_keeps | with_reducible apply State.beginTraining_keeps

theorem State.placesRead_keeps {s : State} (h : Keeps s0 s) :
    ∀ a2, Keeps s0 (State.placesRead s a2) := by
  intro a2
  unfold State.placesRead
  repeat' first
      | with_reducible assumption | intro _ | with_reducible apply keeps_ite | with_reducible apply keeps_each
      | with_reducible apply State.eccRead_keeps | with_reducible apply keeps_foldl | with_reducible apply keeps_foldl1
      | with_reducible apply keeps_foldl2 | with_reducible refine keeps_fst (by assumption) ?_
      | with_reducible refine keeps_snd (by assumption) ?_ | fail_if_no_progress with_reducible apply keeps_mk | dsimp only | split

theorem State.detStepWrite_keeps {s : State} (h : Keeps s0 s) :
    ∀ a2 a3, Keeps s0 (State.detStepWrite s a2 a3) := by
  intro a2 a3
  unfold State.detStepWrite
  repeat' first
      | with_reducible assumption | intro _ | with_reducible apply keeps_ite | with_reducible apply keeps_setReg
      | with_reducible apply State.info_keeps

theorem State.shadowStart_keeps {s : State} (h : Keeps s0 s) :
    ∀ a2 a3, Keeps s0 (State.shadowStart s a2 a3) := by
  intro a2 a3
  unfold State.shadowStart
  repeat' first
      | with_reducible assumption | intro _ | with_reducible apply keeps_ite | with_reducible apply keeps_setReg
      | with_reducible apply State.watchRoutes_keeps | with_reducible apply State.setShadow_keeps
      | with_reducible apply State.finishNow_keeps | with_reducible apply State.startRunning_keeps

theorem State.shadowAct_keeps {s : State} {k4 : State → Cmd → State} (h : Keeps s0 s) (hk4 : ∀ x0 x1, Keeps s0 x0 → Keeps s0 (k4 x0 x1)) :
    ∀ a2 a3, Keeps s0 (State.shadowAct s a2 a3 k4) := by
  intro a2 a3
  unfold State.shadowAct
  repeat' first
      | with_reducible assumption | intro _ | with_reducible apply keeps_ite | with_reducible apply keeps_forSome

theorem State.lossShown_keeps {s : State} (h : Keeps s0 s) :
    ∀ a2 a3, Keeps s0 (State.lossShown s a2 a3) := by
  intro a2 a3
  unfold State.lossShown
  repeat' first
      | with_reducible assumption | intro _ | with_reducible apply keeps_ite | with_reducible apply State.wr_keeps
      | with_reducible apply State.unbindStart_keeps

theorem State.loseSource_keeps {s : State} (h : Keeps s0 s) :
    ∀ a2 a3, Keeps s0 (State.loseSource s a2 a3) := by
  intro a2 a3
  unfold State.loseSource
  repeat' first
      | with_reducible assumption | intro _ | with_reducible apply keeps_ite | with_reducible apply State.setSliceSt_keeps
      | with_reducible apply State.endShadow_keeps | with_reducible apply State.lossShown_keeps

theorem State.turnMismatch_keeps {s : State} (h : Keeps s0 s) :
    ∀ a2 a3, Keeps s0 (State.turnMismatch s a2 a3) := by
  intro a2 a3
  unfold State.turnMismatch
  repeat' first
      | with_reducible assumption | intro _ | with_reducible apply keeps_ite | with_reducible apply State.setSliceSt_keeps
      | with_reducible apply State.setRing_keeps | with_reducible apply State.hostWrite_keeps | with_reducible apply State.haltRing_keeps
      | with_reducible apply State.lossShown_keeps | with_reducible apply keeps_foldl | with_reducible apply keeps_foldl1
      | with_reducible apply keeps_foldl2 | with_reducible refine keeps_fst (by assumption) ?_
      | with_reducible refine keeps_snd (by assumption) ?_ | fail_if_no_progress with_reducible apply keeps_mk | dsimp only | split

theorem State.shadowCmdWrite_keeps {s : State} (h : Keeps s0 s) :
    ∀ a2 a3, Keeps s0 (State.shadowCmdWrite s a2 a3) := by
  intro a2 a3
  unfold State.shadowCmdWrite
  repeat' first
      | with_reducible assumption | intro _ | with_reducible apply keeps_ite | with_reducible apply keeps_forSome
      | with_reducible apply State.loseSource_keeps | with_reducible apply State.turnMismatch_keeps | with_reducible apply keeps_foldl
      | with_reducible apply keeps_foldl1 | with_reducible apply keeps_foldl2 | with_reducible refine keeps_fst (by assumption) ?_
      | with_reducible refine keeps_snd (by assumption) ?_ | fail_if_no_progress with_reducible apply keeps_mk | dsimp only | split

theorem State.ownAddress_keeps {s : State} (h : Keeps s0 s) :
    Keeps s0 (State.ownAddress s).2 := by
  unfold State.ownAddress
  repeat' first
      | with_reducible assumption | intro _ | with_reducible apply keeps_ite | with_reducible apply keeps_foldl
      | with_reducible apply keeps_foldl1 | with_reducible apply keeps_foldl2 | with_reducible refine keeps_fst (by assumption) ?_
      | with_reducible refine keeps_snd (by assumption) ?_ | fail_if_no_progress with_reducible apply keeps_mk

theorem State.setMark_keeps {s : State} (h : Keeps s0 s) :
    ∀ a2 a3 a4, Keeps s0 (State.setMark s a2 a3 a4) := by
  intro a2 a3 a4
  unfold State.setMark
  repeat' first
      | with_reducible assumption | intro _ | with_reducible apply keeps_ite | with_reducible apply State.setEth_keeps

theorem State.tcRefill_keeps {s : State} (h : Keeps s0 s) :
    ∀ a2 a3, Keeps s0 (State.tcRefill s a2 a3) := by
  intro a2 a3
  unfold State.tcRefill
  repeat' first
      | with_reducible assumption | intro _ | with_reducible apply keeps_ite | with_reducible apply State.setMark_keeps

theorem State.tcFill_keeps {s : State} (h : Keeps s0 s) :
    ∀ a2 a3, Keeps s0 (State.tcFill s a2 a3) := by
  intro a2 a3
  unfold State.tcFill
  repeat' first
      | with_reducible assumption | intro _ | with_reducible apply keeps_ite | with_reducible apply State.setMark_keeps

theorem State.tcMark_keeps {s : State} (h : Keeps s0 s) :
    ∀ a2 a3 a4 a5, Keeps s0 (State.tcMark s a2 a3 a4 a5).2 := by
  intro a2 a3 a4 a5
  unfold State.tcMark
  repeat' first
      | with_reducible assumption | intro _ | with_reducible apply keeps_ite | with_reducible apply State.setMark_keeps
      | with_reducible apply keeps_foldl | with_reducible apply keeps_foldl1 | with_reducible apply keeps_foldl2
      | with_reducible refine keeps_fst (by assumption) ?_ | with_reducible refine keeps_snd (by assumption) ?_
      | fail_if_no_progress with_reducible apply keeps_mk | dsimp only | split

theorem State.enqueue_keeps {s : State} (h : Keeps s0 s) :
    ∀ a2 a3 a4, Keeps s0 (State.enqueue s a2 a3 a4) := by
  intro a2 a3 a4
  unfold State.enqueue
  repeat' first
      | with_reducible assumption | intro _ | with_reducible apply keeps_ite | with_reducible apply State.setEth_keeps

theorem State.pumpFrom_keeps {s : State} (h : Keeps s0 s) : ∀ p l bl, Keeps s0 (State.pumpFrom s p l bl) := by
  intro p l
  induction l generalizing s with
  | nil => exact fun _ => h
  | cons a l ih =>
  intro bl
  unfold State.pumpFrom
  repeat' first
      | with_reducible assumption | intro _ | with_reducible apply keeps_ite | with_reducible apply ih
      | with_reducible apply State.bump_keeps | with_reducible apply State.enqueue_keeps | with_reducible apply State.setEth_keeps

theorem State.pump_keeps {s : State} (h : Keeps s0 s) :
    ∀ a2, Keeps s0 (State.pump s a2) := by
  intro a2
  unfold State.pump
  repeat' first
      | with_reducible assumption | intro _ | with_reducible apply keeps_ite | with_reducible apply State.pumpFrom_keeps

theorem State.originate_keeps {s : State} (h : Keeps s0 s) :
    ∀ a2 a3 a4 a5, Keeps s0 (State.originate s a2 a3 a4 a5) := by
  intro a2 a3 a4 a5
  unfold State.originate
  repeat' first
      | with_reducible assumption | intro _ | with_reducible apply keeps_ite | with_reducible apply State.setEth_keeps
      | with_reducible apply State.pump_keeps

theorem State.carrierWrite_keeps {s : State} (h : Keeps s0 s) :
    ∀ a2 a3, Keeps s0 (State.carrierWrite s a2 a3) := by
  intro a2 a3
  unfold State.carrierWrite
  repeat' first
      | with_reducible assumption | intro _ | with_reducible apply keeps_ite | with_reducible apply keeps_setReg
      | with_reducible apply State.info_keeps

theorem State.intakeWrite_keeps {s : State} (h : Keeps s0 s) :
    ∀ a2 a3 a4, Keeps s0 (State.intakeWrite s a2 a3 a4) := by
  intro a2 a3 a4
  unfold State.intakeWrite
  repeat' first
      | with_reducible assumption | intro _ | with_reducible apply keeps_ite | with_reducible apply State.cWrite_keeps
      | with_reducible apply State.cFree_keeps | with_reducible apply State.touch_keeps

theorem State.sectionWrite_keeps {s : State} (h : Keeps s0 s) :
    ∀ a2 a3 a4, Keeps s0 (State.sectionWrite s a2 a3 a4) := by
  intro a2 a3 a4
  unfold State.sectionWrite
  repeat' first
      | with_reducible assumption | intro _ | with_reducible apply keeps_ite | with_reducible apply State.intakeWrite_keeps
      | with_reducible apply keeps_foldl | with_reducible apply keeps_foldl1 | with_reducible apply keeps_foldl2
      | with_reducible refine keeps_fst (by assumption) ?_ | with_reducible refine keeps_snd (by assumption) ?_
      | fail_if_no_progress with_reducible apply keeps_mk

theorem State.intake_keeps {s : State} (h : Keeps s0 s) :
    ∀ a2 a3, Keeps s0 (State.intake s a2 a3) := by
  intro a2 a3
  unfold State.intake
  repeat' first
      | with_reducible assumption | intro _ | with_reducible apply keeps_ite | with_reducible apply State.bumpSat_keeps
      | with_reducible apply keeps_whenever | with_reducible apply keeps_each | with_reducible apply State.sectionWrite_keeps
      | with_reducible apply keeps_foldl | with_reducible apply keeps_foldl1 | with_reducible apply keeps_foldl2
      | with_reducible refine keeps_fst (by assumption) ?_ | with_reducible refine keeps_snd (by assumption) ?_
      | fail_if_no_progress with_reducible apply keeps_mk | dsimp only | split

theorem State.markSymbol_keeps {s : State} (h : Keeps s0 s) :
    ∀ a2 a3, Keeps s0 (State.markSymbol s a2 a3) := by
  intro a2 a3
  unfold State.markSymbol
  repeat' first
      | with_reducible assumption | intro _ | with_reducible apply keeps_ite | with_reducible apply keeps_foldl
      | with_reducible apply keeps_foldl1 | with_reducible apply keeps_foldl2 | with_reducible refine keeps_fst (by assumption) ?_
      | with_reducible refine keeps_snd (by assumption) ?_ | fail_if_no_progress with_reducible apply keeps_mk

theorem State.windowClosed_keeps {s : State} (h : Keeps s0 s) :
    ∀ a2 a3 a4, Keeps s0 (State.windowClosed s a2 a3 a4) := by
  intro a2 a3 a4
  unfold State.windowClosed
  repeat' first
      | with_reducible assumption | intro _ | with_reducible apply keeps_ite | with_reducible apply State.bumpSat_keeps
      | with_reducible apply keeps_each | with_reducible apply State.intakeWrite_keeps | with_reducible apply State.markSymbol_keeps

theorem State.nextSeq_keeps {s : State} (h : Keeps s0 s) :
    ∀ a2, Keeps s0 (State.nextSeq s a2).2 := by
  intro a2
  unfold State.nextSeq
  repeat' first
      | with_reducible assumption | intro _ | with_reducible apply keeps_ite | with_reducible apply keeps_foldl
      | with_reducible apply keeps_foldl1 | with_reducible apply keeps_foldl2 | with_reducible refine keeps_fst (by assumption) ?_
      | with_reducible refine keeps_snd (by assumption) ?_ | fail_if_no_progress with_reducible apply keeps_mk

theorem State.emitSymbol_keeps {s : State} (h : Keeps s0 s) :
    ∀ a2 a3 a4, Keeps s0 (State.emitSymbol s a2 a3 a4) := by
  intro a2 a3 a4
  unfold State.emitSymbol
  repeat' first
      | with_reducible assumption | intro _ | with_reducible apply keeps_ite | with_reducible apply keeps_each
      | with_reducible apply State.eccRead_keeps | with_reducible apply State.originate_keeps | with_reducible apply State.nextSeq_keeps
      | with_reducible apply keeps_foldl | with_reducible apply keeps_foldl1 | with_reducible apply keeps_foldl2
      | with_reducible refine keeps_fst (by assumption) ?_ | with_reducible refine keeps_snd (by assumption) ?_
      | fail_if_no_progress with_reducible apply keeps_mk

theorem State.reserveBasin_keeps {s : State} (h : Keeps s0 s) :
    ∀ a2 a3, Keeps s0 (State.reserveBasin s a2 a3) := by
  intro a2 a3
  unfold State.reserveBasin
  repeat' first
      | with_reducible assumption | intro _ | with_reducible apply keeps_ite | with_reducible apply State.wr_keeps
      | with_reducible apply State.setRegBit_keeps | with_reducible apply State.setBasin_keeps
      | with_reducible apply State.clearEngines_keeps | with_reducible apply State.beginZero_keeps
      | with_reducible apply State.ownerChanged_keeps

theorem State.reservedWrite_keeps {s : State} (h : Keeps s0 s) :
    ∀ a2, Keeps s0 (State.reservedWrite s a2) := by
  intro a2
  unfold State.reservedWrite
  repeat' first
      | with_reducible assumption | intro _ | with_reducible apply keeps_ite | with_reducible apply State.info_keeps
      | with_reducible apply keeps_each | with_reducible apply State.protectNow_keeps | with_reducible apply State.reserveBasin_keeps

theorem State.radioCtrlWrite_keeps {s : State} (h : Keeps s0 s) :
    ∀ a2, Keeps s0 (State.radioCtrlWrite s a2) := by
  intro a2
  unfold State.radioCtrlWrite
  repeat' first
      | with_reducible assumption | intro _ | with_reducible apply keeps_ite | with_reducible apply State.wr_keeps
      | with_reducible apply State.info_keeps

theorem State.setRate_keeps {s : State} (h : Keeps s0 s) :
    ∀ a2, Keeps s0 (State.setRate s a2) := by
  intro a2
  unfold State.setRate
  repeat' first
      | with_reducible assumption | intro _ | with_reducible apply keeps_ite | with_reducible apply keeps_setReg

theorem State.setRateI_keeps {s : State} (h : Keeps s0 s) :
    ∀ a2, Keeps s0 (State.setRateI s a2) := by
  intro a2
  unfold State.setRateI
  repeat' first
      | with_reducible assumption | intro _ | with_reducible apply keeps_ite | with_reducible apply keeps_setReg

theorem State.stepCount_keeps {s : State} (h : Keeps s0 s) :
    ∀ a2, Keeps s0 (State.stepCount s a2) := by
  intro a2
  unfold State.stepCount
  repeat' first
      | with_reducible assumption | intro _ | with_reducible apply keeps_ite | with_reducible apply State.bump_keeps
      | with_reducible apply State.raise_keeps | with_reducible apply State.report_keeps | with_reducible apply keeps_foldl
      | with_reducible apply keeps_foldl1 | with_reducible apply keeps_foldl2 | with_reducible refine keeps_fst (by assumption) ?_
      | with_reducible refine keeps_snd (by assumption) ?_ | fail_if_no_progress with_reducible apply keeps_mk

theorem State.servo_keeps {s : State} (h : Keeps s0 s) :
    ∀ a2, Keeps s0 (State.servo s a2) := by
  intro a2
  unfold State.servo
  repeat' first
      | with_reducible assumption | intro _ | with_reducible apply keeps_ite | with_reducible apply State.bump_keeps
      | with_reducible apply State.setRate_keeps | with_reducible apply State.setRateI_keeps

end Sys2Proof.Machine
end

