-- ==== Sys2Proof/Laws/Keeps6.lean ====
section
/-! SUPPORT. What every operation keeps, part 6: the queue, and the order of registers and memories. -/
namespace Sys2Proof.Machine

variable {s0 : State}

theorem State.lockCount_keeps {s : State} (h : Keeps s0 s) :
    ∀ a2 a3, Keeps s0 (State.lockCount s a2 a3) := by
  intro a2 a3
  unfold State.lockCount
  repeat' first
      | with_reducible assumption | intro _ | with_reducible apply keeps_ite | with_reducible apply State.setTimeState_keeps
      | with_reducible apply keeps_foldl | with_reducible apply keeps_foldl1 | with_reducible apply keeps_foldl2
      | with_reducible refine keeps_fst (by assumption) ?_ | with_reducible refine keeps_snd (by assumption) ?_
      | fail_if_no_progress with_reducible apply keeps_mk

theorem State.driveBy_keeps {s : State} (h : Keeps s0 s) :
    ∀ a2 a3, Keeps s0 (State.driveBy s a2 a3) := by
  intro a2 a3
  unfold State.driveBy
  repeat' first
      | with_reducible assumption | intro _ | with_reducible apply keeps_ite | with_reducible apply State.setTimeState_keeps
      | with_reducible apply State.stepCount_keeps | with_reducible apply State.servo_keeps | with_reducible apply State.lockCount_keeps
      | with_reducible apply keeps_foldl | with_reducible apply keeps_foldl1 | with_reducible apply keeps_foldl2
      | with_reducible refine keeps_fst (by assumption) ?_ | with_reducible refine keeps_snd (by assumption) ?_
      | fail_if_no_progress with_reducible apply keeps_mk

theorem State.drive_keeps {s : State} (h : Keeps s0 s) :
    ∀ a2 a3, Keeps s0 (State.drive s a2 a3) := by
  intro a2 a3
  unfold State.drive
  repeat' first
      | with_reducible assumption | intro _ | with_reducible apply keeps_ite | with_reducible apply State.driveBy_keeps
      | with_reducible apply keeps_foldl | with_reducible apply keeps_foldl1 | with_reducible apply keeps_foldl2
      | with_reducible refine keeps_fst (by assumption) ?_ | with_reducible refine keeps_snd (by assumption) ?_
      | fail_if_no_progress with_reducible apply keeps_mk

theorem State.switchTo_keeps {s : State} (h : Keeps s0 s) :
    ∀ a2, Keeps s0 (State.switchTo s a2) := by
  intro a2
  unfold State.switchTo
  repeat' first
      | with_reducible assumption | intro _ | with_reducible apply keeps_ite | with_reducible apply keeps_foldl
      | with_reducible apply keeps_foldl1 | with_reducible apply keeps_foldl2 | with_reducible refine keeps_fst (by assumption) ?_
      | with_reducible refine keeps_snd (by assumption) ?_ | fail_if_no_progress with_reducible apply keeps_mk

theorem State.setTracker_keeps {s : State} (h : Keeps s0 s) :
    ∀ a2 a3, Keeps s0 (State.setTracker s a2 a3) := by
  intro a2 a3
  unfold State.setTracker
  repeat' first
      | with_reducible assumption | intro _ | with_reducible apply keeps_ite | with_reducible apply keeps_foldl
      | with_reducible apply keeps_foldl1 | with_reducible apply keeps_foldl2 | with_reducible refine keeps_fst (by assumption) ?_
      | with_reducible refine keeps_snd (by assumption) ?_ | fail_if_no_progress with_reducible apply keeps_mk

theorem State.measured_keeps {s : State} (h : Keeps s0 s) :
    ∀ a2 a3 a4 a5, Keeps s0 (State.measured s a2 a3 a4 a5) := by
  intro a2 a3 a4 a5
  unfold State.measured
  repeat' first
      | with_reducible assumption | intro _ | with_reducible apply keeps_ite | with_reducible apply keeps_setReg
      | with_reducible apply State.bump_keeps | with_reducible apply State.drive_keeps | with_reducible apply State.switchTo_keeps
      | with_reducible apply keeps_foldl | with_reducible apply keeps_foldl1 | with_reducible apply keeps_foldl2
      | with_reducible refine keeps_fst (by assumption) ?_ | with_reducible refine keeps_snd (by assumption) ?_
      | fail_if_no_progress with_reducible apply keeps_mk | dsimp only | split

theorem State.ptpUsed_keeps {s : State} (h : Keeps s0 s) :
    ∀ a2, Keeps s0 (State.ptpUsed s a2) := by
  intro a2
  unfold State.ptpUsed
  repeat' first
      | with_reducible assumption | intro _ | with_reducible apply keeps_ite | with_reducible apply keeps_foldl
      | with_reducible apply keeps_foldl1 | with_reducible apply keeps_foldl2 | with_reducible refine keeps_fst (by assumption) ?_
      | with_reducible refine keeps_snd (by assumption) ?_ | fail_if_no_progress with_reducible apply keeps_mk

theorem State.takeSync_keeps {s : State} (h : Keeps s0 s) :
    ∀ a2 a3, Keeps s0 (State.takeSync s a2 a3) := by
  intro a2 a3
  unfold State.takeSync
  repeat' first
      | with_reducible assumption | intro _ | with_reducible apply keeps_ite | with_reducible apply State.setTracker_keeps
      | with_reducible apply State.measured_keeps

theorem State.takeFollowUp_keeps {s : State} (h : Keeps s0 s) :
    ∀ a2 a3, Keeps s0 (State.takeFollowUp s a2 a3) := by
  intro a2 a3
  unfold State.takeFollowUp
  repeat' first
      | with_reducible assumption | intro _ | with_reducible apply keeps_ite | with_reducible apply State.setTracker_keeps
      | with_reducible apply State.measured_keeps | with_reducible apply keeps_foldl | with_reducible apply keeps_foldl1
      | with_reducible apply keeps_foldl2 | with_reducible refine keeps_fst (by assumption) ?_
      | with_reducible refine keeps_snd (by assumption) ?_ | fail_if_no_progress with_reducible apply keeps_mk | dsimp only | split

theorem State.takeDelayResp_keeps {s : State} (h : Keeps s0 s) :
    ∀ a2 a3, Keeps s0 (State.takeDelayResp s a2 a3) := by
  intro a2 a3
  unfold State.takeDelayResp
  repeat' first
      | with_reducible assumption | intro _ | with_reducible apply keeps_ite | with_reducible apply State.setTracker_keeps
      | with_reducible apply keeps_foldl | with_reducible apply keeps_foldl1 | with_reducible apply keeps_foldl2
      | with_reducible refine keeps_fst (by assumption) ?_ | with_reducible refine keeps_snd (by assumption) ?_
      | fail_if_no_progress with_reducible apply keeps_mk | dsimp only | split

theorem State.sendDelayReq_keeps {s : State} (h : Keeps s0 s) :
    ∀ a2, Keeps s0 (State.sendDelayReq s a2) := by
  intro a2
  unfold State.sendDelayReq
  repeat' first
      | with_reducible assumption | intro _ | with_reducible apply keeps_ite | with_reducible apply State.ownAddress_keeps
      | with_reducible apply State.originate_keeps | with_reducible apply State.setTracker_keeps

theorem State.timeCtrlWrite_keeps {s : State} (h : Keeps s0 s) :
    ∀ a2, Keeps s0 (State.timeCtrlWrite s a2) := by
  intro a2
  unfold State.timeCtrlWrite
  repeat' first
      | with_reducible assumption | intro _ | with_reducible apply keeps_ite | with_reducible apply keeps_setReg
      | with_reducible apply State.setTimeState_keeps | with_reducible apply State.setRate_keeps | with_reducible apply keeps_foldl
      | with_reducible apply keeps_foldl1 | with_reducible apply keeps_foldl2 | with_reducible refine keeps_fst (by assumption) ?_
      | with_reducible refine keeps_snd (by assumption) ?_ | fail_if_no_progress with_reducible apply keeps_mk

theorem State.rateMaxWritten_keeps {s : State} (h : Keeps s0 s) :
    Keeps s0 (State.rateMaxWritten s) := by
  unfold State.rateMaxWritten
  repeat' first
      | with_reducible assumption | intro _ | with_reducible apply keeps_ite | with_reducible apply State.setRate_keeps

theorem State.synceTake_keeps {s : State} (h : Keeps s0 s) :
    ∀ a2, Keeps s0 (State.synceTake s a2) := by
  intro a2
  unfold State.synceTake
  repeat' first
      | with_reducible assumption | intro _ | with_reducible apply keeps_ite | with_reducible apply keeps_setReg
      | with_reducible apply State.wr_keeps | with_reducible apply State.setRate_keeps | with_reducible apply State.setRateI_keeps
      | with_reducible apply keeps_foldl | with_reducible apply keeps_foldl1 | with_reducible apply keeps_foldl2
      | with_reducible refine keeps_fst (by assumption) ?_ | with_reducible refine keeps_snd (by assumption) ?_
      | fail_if_no_progress with_reducible apply keeps_mk

theorem State.answerDelayReq_keeps {s : State} (h : Keeps s0 s) :
    ∀ a2 a3, Keeps s0 (State.answerDelayReq s a2 a3) := by
  intro a2 a3
  unfold State.answerDelayReq
  repeat' first
      | with_reducible assumption | intro _ | with_reducible apply keeps_ite | with_reducible apply State.ownAddress_keeps
      | with_reducible apply State.originate_keeps

theorem State.sendSync_keeps {s : State} (h : Keeps s0 s) :
    ∀ a2, Keeps s0 (State.sendSync s a2) := by
  intro a2
  unfold State.sendSync
  repeat' first
      | with_reducible assumption | intro _ | with_reducible apply keeps_ite | with_reducible apply State.ownAddress_keeps
      | with_reducible apply State.originate_keeps | with_reducible apply keeps_foldl | with_reducible apply keeps_foldl1
      | with_reducible apply keeps_foldl2 | with_reducible refine keeps_fst (by assumption) ?_
      | with_reducible refine keeps_snd (by assumption) ?_ | fail_if_no_progress with_reducible apply keeps_mk

theorem State.setOut_keeps {s : State} (h : Keeps s0 s) :
    ∀ a2 a3, Keeps s0 (State.setOut s a2 a3) := by
  intro a2 a3
  unfold State.setOut
  repeat' first
      | with_reducible assumption | intro _ | with_reducible apply keeps_ite | with_reducible apply keeps_foldl
      | with_reducible apply keeps_foldl1 | with_reducible apply keeps_foldl2 | with_reducible refine keeps_fst (by assumption) ?_
      | with_reducible refine keeps_snd (by assumption) ?_ | fail_if_no_progress with_reducible apply keeps_mk

theorem State.outCtrlWrite_keeps {s : State} (h : Keeps s0 s) :
    ∀ a2 a3, Keeps s0 (State.outCtrlWrite s a2 a3) := by
  intro a2 a3
  unfold State.outCtrlWrite
  repeat' first
      | with_reducible assumption | intro _ | with_reducible apply keeps_ite | with_reducible apply State.wr_keeps
      | with_reducible apply State.raise_keeps | with_reducible apply State.keepFresh_keeps | with_reducible apply State.info_keeps
      | with_reducible apply State.setOut_keeps

theorem State.pinEdge_keeps {s : State} (h : Keeps s0 s) :
    ∀ a2, Keeps s0 (State.pinEdge s a2) := by
  intro a2
  unfold State.pinEdge
  repeat' first
      | with_reducible assumption | intro _ | with_reducible apply keeps_ite | with_reducible apply State.wr_keeps
      | with_reducible apply State.setOut_keeps

theorem State.setCaptures_keeps {s : State} (h : Keeps s0 s) :
    ∀ a2 a3, Keeps s0 (State.setCaptures s a2 a3) := by
  intro a2 a3
  unfold State.setCaptures
  repeat' first
      | with_reducible assumption | intro _ | with_reducible apply keeps_ite | with_reducible apply keeps_foldl
      | with_reducible apply keeps_foldl1 | with_reducible apply keeps_foldl2 | with_reducible refine keeps_fst (by assumption) ?_
      | with_reducible refine keeps_snd (by assumption) ?_ | fail_if_no_progress with_reducible apply keeps_mk

theorem State.setEdge_keeps {s : State} (h : Keeps s0 s) :
    ∀ a2 a3 a4, Keeps s0 (State.setEdge s a2 a3 a4) := by
  intro a2 a3 a4
  unfold State.setEdge
  repeat' first
      | with_reducible assumption | intro _ | with_reducible apply keeps_ite | with_reducible apply keeps_foldl
      | with_reducible apply keeps_foldl1 | with_reducible apply keeps_foldl2 | with_reducible refine keeps_fst (by assumption) ?_
      | with_reducible refine keeps_snd (by assumption) ?_ | fail_if_no_progress with_reducible apply keeps_mk

theorem State.takeEdge_keeps {s : State} (h : Keeps s0 s) :
    ∀ a2 a3, Keeps s0 (State.takeEdge s a2 a3) := by
  intro a2 a3
  unfold State.takeEdge
  repeat' first
      | with_reducible assumption | intro _ | with_reducible apply keeps_ite | with_reducible apply State.bumpSat_keeps
      | with_reducible apply State.setCaptures_keeps | with_reducible apply State.setEdge_keeps

theorem State.dropEdge_keeps {s : State} (h : Keeps s0 s) :
    ∀ a2 a3 a4 a5, Keeps s0 (State.dropEdge s a2 a3 a4 a5) := by
  intro a2 a3 a4 a5
  unfold State.dropEdge
  repeat' first
      | with_reducible assumption | intro _ | with_reducible apply keeps_ite | with_reducible apply State.wr_keeps
      | with_reducible apply State.setCaptures_keeps | with_reducible apply keeps_foldl | with_reducible apply keeps_foldl1
      | with_reducible apply keeps_foldl2 | with_reducible refine keeps_fst (by assumption) ?_
      | with_reducible refine keeps_snd (by assumption) ?_ | fail_if_no_progress with_reducible apply keeps_mk

theorem State.captureEdge_keeps {s : State} (h : Keeps s0 s) :
    ∀ a2 a3, Keeps s0 (State.captureEdge s a2 a3) := by
  intro a2 a3
  unfold State.captureEdge
  repeat' first
      | with_reducible assumption | intro _ | with_reducible apply keeps_ite | with_reducible apply State.takeEdge_keeps
      | with_reducible apply State.dropEdge_keeps | with_reducible apply keeps_foldl | with_reducible apply keeps_foldl1
      | with_reducible apply keeps_foldl2 | with_reducible refine keeps_fst (by assumption) ?_
      | with_reducible refine keeps_snd (by assumption) ?_ | fail_if_no_progress with_reducible apply keeps_mk | dsimp only | split

theorem State.capMetaRead_keeps {s : State} (h : Keeps s0 s) :
    ∀ a2, Keeps s0 (State.capMetaRead s a2) := by
  intro a2
  unfold State.capMetaRead
  repeat' first
      | with_reducible assumption | intro _ | with_reducible apply keeps_ite | with_reducible apply keeps_setReg
      | with_reducible apply State.setCaptures_keeps | with_reducible apply keeps_foldl | with_reducible apply keeps_foldl1
      | with_reducible apply keeps_foldl2 | with_reducible refine keeps_fst (by assumption) ?_
      | with_reducible refine keeps_snd (by assumption) ?_ | fail_if_no_progress with_reducible apply keeps_mk | dsimp only | split

theorem State.launchCtrlWrite_keeps {s : State} (h : Keeps s0 s) :
    ∀ a2 a3, Keeps s0 (State.launchCtrlWrite s a2 a3) := by
  intro a2 a3
  unfold State.launchCtrlWrite
  repeat' first
      | with_reducible assumption | intro _ | with_reducible apply keeps_ite | with_reducible apply State.wr_keeps
      | with_reducible apply State.raise_keeps | with_reducible apply State.info_keeps

theorem State.mrxPut_keeps {s : State} (h : Keeps s0 s) :
    ∀ a2 a3 a4, Keeps s0 (State.mrxPut s a2 a3 a4) := by
  intro a2 a3 a4
  unfold State.mrxPut
  repeat' first
      | with_reducible assumption | intro _ | with_reducible apply keeps_ite | with_reducible apply State.wr_keeps
      | with_reducible apply State.bump_keeps | with_reducible apply State.hostWrite_keeps | with_reducible apply keeps_foldl
      | with_reducible apply keeps_foldl1 | with_reducible apply keeps_foldl2 | with_reducible refine keeps_fst (by assumption) ?_
      | with_reducible refine keeps_snd (by assumption) ?_ | fail_if_no_progress with_reducible apply keeps_mk

theorem State.forward_keeps {s : State} (h : Keeps s0 s) :
    ∀ a2 a3 a4 a5, Keeps s0 (State.forward s a2 a3 a4 a5) := by
  intro a2 a3 a4 a5
  unfold State.forward
  repeat' first
      | with_reducible assumption | intro _ | with_reducible apply keeps_ite | with_reducible apply State.setEth_keeps

theorem State.forwardOr_keeps {s t : State} (h : Keeps s0 s) (ht : Keeps s0 t) : ∀ p stamp f, Keeps s0 (s.forwardOr p stamp f t) := by
  intro p stamp f
  unfold State.forwardOr
  split
  · exact State.forward_keeps h _ _ _ _
  · exact ht

theorem State.classify_keeps {s : State} (h : Keeps s0 s) :
    ∀ a2 a3, Keeps s0 (State.classify s a2 a3) := by
  intro a2 a3
  unfold State.classify
  repeat' first
      | with_reducible assumption | intro _ | with_reducible apply keeps_ite | with_reducible apply State.bump_keeps
      | with_reducible apply State.intake_keeps | with_reducible apply State.mrxPut_keeps | with_reducible apply State.forwardOr_keeps
      | with_reducible apply keeps_foldl | with_reducible apply keeps_foldl1 | with_reducible apply keeps_foldl2
      | with_reducible refine keeps_fst (by assumption) ?_ | with_reducible refine keeps_snd (by assumption) ?_
      | fail_if_no_progress with_reducible apply keeps_mk | dsimp only | split

theorem State.colour_keeps {s : State} (h : Keeps s0 s) :
    ∀ a2 a3, Keeps s0 (State.colour s a2 a3).1 := by
  intro a2 a3
  unfold State.colour
  repeat' first
      | with_reducible assumption | intro _ | with_reducible apply keeps_ite | with_reducible apply State.bump_keeps
      | with_reducible apply State.tcMark_keeps | with_reducible apply keeps_foldl | with_reducible apply keeps_foldl1
      | with_reducible apply keeps_foldl2 | with_reducible refine keeps_fst (by assumption) ?_
      | with_reducible refine keeps_snd (by assumption) ?_ | fail_if_no_progress with_reducible apply keeps_mk | dsimp only | split

theorem State.reach_keeps {s : State} (h : Keeps s0 s) :
    ∀ a2 a3, Keeps s0 (State.reach s a2 a3) := by
  intro a2 a3
  unfold State.reach
  repeat' first
      | with_reducible assumption | intro _ | with_reducible apply keeps_ite | with_reducible apply State.bump_keeps
      | with_reducible apply State.enqueue_keeps | with_reducible apply State.colour_keeps | with_reducible apply keeps_foldl
      | with_reducible apply keeps_foldl1 | with_reducible apply keeps_foldl2 | with_reducible refine keeps_fst (by assumption) ?_
      | with_reducible refine keeps_snd (by assumption) ?_ | fail_if_no_progress with_reducible apply keeps_mk | dsimp only | split

theorem State.flushMtx_keeps {s : State} (h : Keeps s0 s) : ∀ l, Keeps s0 (State.flushMtx s l) := by
  intro l
  induction l generalizing s with
  | nil => exact h
  | cons a l ih =>
    obtain ⟨i, o⟩ := a
    cases o with
    | none => exact h
    | some x =>
      obtain ⟨fl, st⟩ := x
      unfold State.flushMtx
      refine ih (keeps_mk ?_)
      refine keeps_ite (State.hostWrite_keeps h _ _ _) (State.hostWrite_keeps (State.hostWrite_keeps h _ _ _) _ _ _)

theorem State.mtxEnd_keeps {s : State} (h : Keeps s0 s) :
    ∀ a2 a3, Keeps s0 (State.mtxEnd s a2 a3) := by
  intro a2 a3
  unfold State.mtxEnd
  repeat' first
      | with_reducible assumption | intro _ | with_reducible apply keeps_ite | with_reducible apply State.flushMtx_keeps
      | with_reducible apply keeps_foldl | with_reducible apply keeps_foldl1 | with_reducible apply keeps_foldl2
      | with_reducible refine keeps_fst (by assumption) ?_ | with_reducible refine keeps_snd (by assumption) ?_
      | fail_if_no_progress with_reducible apply keeps_mk

theorem State.mtxRefuse_keeps {s : State} (h : Keeps s0 s) :
    ∀ a2, Keeps s0 (State.mtxRefuse s a2) := by
  intro a2
  unfold State.mtxRefuse
  repeat' first
      | with_reducible assumption | intro _ | with_reducible apply keeps_ite | with_reducible apply State.free_keeps
      | with_reducible apply State.mtxEnd_keeps

theorem State.mtxAdvance_keeps {s : State} (h : Keeps s0 s) :
    Keeps s0 (State.mtxAdvance s) := by
  unfold State.mtxAdvance
  repeat' first
      | with_reducible assumption | intro _ | with_reducible apply keeps_ite | with_reducible apply State.wr_keeps
      | with_reducible apply keeps_foldl | with_reducible apply keeps_foldl1 | with_reducible apply keeps_foldl2
      | with_reducible refine keeps_fst (by assumption) ?_ | with_reducible refine keeps_snd (by assumption) ?_
      | fail_if_no_progress with_reducible apply keeps_mk

theorem State.mtxTake_keeps {s : State} (h : Keeps s0 s) :
    ∀ a2 a3, Keeps s0 (State.mtxTake s a2 a3) := by
  intro a2 a3
  unfold State.mtxTake
  repeat' first
      | with_reducible assumption | intro _ | with_reducible apply keeps_ite | with_reducible apply keeps_foldl
      | with_reducible apply keeps_foldl1 | with_reducible apply keeps_foldl2 | with_reducible refine keeps_fst (by assumption) ?_
      | with_reducible refine keeps_snd (by assumption) ?_ | fail_if_no_progress with_reducible apply keeps_mk

theorem State.mtxEntry_keeps {s : State} (h : Keeps s0 s) :
    Keeps s0 (State.mtxEntry s) := by
  unfold State.mtxEntry
  repeat' first
      | with_reducible assumption | intro _ | with_reducible apply keeps_ite | with_reducible apply State.mtxRefuse_keeps
      | with_reducible apply State.mtxAdvance_keeps | with_reducible apply State.mtxTake_keeps

theorem State.mtxRelease_keeps {s : State} (h : Keeps s0 s) :
    ∀ a2, Keeps s0 (State.mtxRelease s a2) := by
  intro a2
  unfold State.mtxRelease
  repeat' first
      | with_reducible assumption | intro _ | with_reducible apply keeps_ite | with_reducible apply State.free_keeps
      | with_reducible apply State.enqueue_keeps | with_reducible apply State.colour_keeps | with_reducible apply State.mtxEnd_keeps
      | with_reducible apply State.mtxRefuse_keeps | with_reducible apply keeps_foldl | with_reducible apply keeps_foldl1
      | with_reducible apply keeps_foldl2 | with_reducible refine keeps_fst (by assumption) ?_
      | with_reducible refine keeps_snd (by assumption) ?_ | fail_if_no_progress with_reducible apply keeps_mk | dsimp only | split

theorem State.transmit_keeps {s : State} (h : Keeps s0 s) :
    ∀ a2 a3, Keeps s0 (State.transmit s a2 a3) := by
  intro a2 a3
  unfold State.transmit
  repeat' first
      | with_reducible assumption | intro _ | with_reducible apply keeps_ite | with_reducible apply State.bump_keeps
      | with_reducible apply State.setEth_keeps | with_reducible apply State.pump_keeps | with_reducible apply State.setTracker_keeps
      | with_reducible apply State.mtxEnd_keeps | with_reducible apply keeps_foldl | with_reducible apply keeps_foldl1
      | with_reducible apply keeps_foldl2 | with_reducible refine keeps_fst (by assumption) ?_
      | with_reducible refine keeps_snd (by assumption) ?_ | fail_if_no_progress with_reducible apply keeps_mk | dsimp only | split

theorem State.gclActWrite_keeps {s : State} (h : Keeps s0 s) :
    ∀ a2 a3, Keeps s0 (State.gclActWrite s a2 a3) := by
  intro a2 a3
  unfold State.gclActWrite
  repeat' first
      | with_reducible assumption | intro _ | with_reducible apply keeps_ite | with_reducible apply keeps_setReg
      | with_reducible apply State.wr_keeps | with_reducible apply State.raise_keeps | with_reducible apply State.info_keeps
      | with_reducible apply State.setEth_keeps

theorem State.showReject_keeps {s : State} (h : Keeps s0 s) :
    ∀ a2 a3, Keeps s0 (State.showReject s a2 a3) := by
  intro a2 a3
  unfold State.showReject
  repeat' first
      | with_reducible assumption | intro _ | with_reducible apply keeps_ite | with_reducible apply keeps_setReg
      | with_reducible apply State.wr_keeps | with_reducible apply State.free_keeps

theorem State.planAdmitted_keeps {s : State} (h : Keeps s0 s) :
    ∀ a2 a3 a4, Keeps s0 (State.planAdmitted s a2 a3 a4) := by
  intro a2 a3 a4
  unfold State.planAdmitted
  repeat' first
      | with_reducible assumption | intro _ | with_reducible apply keeps_ite | with_reducible apply State.wr_keeps
      | with_reducible apply State.bump_keeps | with_reducible apply State.modCmd_keeps | with_reducible apply keeps_each
      | with_reducible apply State.startRunning_keeps | with_reducible apply keeps_foldl | with_reducible apply keeps_foldl1
      | with_reducible apply keeps_foldl2 | with_reducible refine keeps_fst (by assumption) ?_
      | with_reducible refine keeps_snd (by assumption) ?_ | fail_if_no_progress with_reducible apply keeps_mk

theorem State.planEnds_keeps {s : State} (h : Keeps s0 s) : ∀ c r, Keeps s0 (State.planEnds s c r) := by
  intro c r
  cases r with
  | inl x => exact State.planAdmitted_keeps h _ _ _
  | inr d => exact State.finishNow_keeps (keeps_ite (State.showReject_keeps h _ _) h) _ _

theorem State.slotPlanAct_keeps {s : State} (h : Keeps s0 s) :
    ∀ a2 a3, Keeps s0 (State.slotPlanAct s a2 a3) := by
  intro a2 a3
  unfold State.slotPlanAct
  repeat' first
      | with_reducible assumption | intro _ | with_reducible apply keeps_ite | with_reducible apply State.planEnds_keeps

theorem State.modOp_keeps {s : State} (h : Keeps s0 s) :
    ∀ a2 a3 a4, Keeps s0 (State.modOp s a2 a3 a4) := by
  intro a2 a3 a4
  unfold State.modOp
  repeat' first
      | with_reducible assumption | intro _ | with_reducible apply keeps_ite | with_reducible apply keeps_foldl
      | with_reducible apply keeps_foldl1 | with_reducible apply keeps_foldl2 | with_reducible refine keeps_fst (by assumption) ?_
      | with_reducible refine keeps_snd (by assumption) ?_ | fail_if_no_progress with_reducible apply keeps_mk

theorem State.modOps_keeps {s : State} (h : Keeps s0 s) :
    ∀ a2 a3, Keeps s0 (State.modOps s a2 a3) := by
  intro a2 a3
  unfold State.modOps
  repeat' first
      | with_reducible assumption | intro _ | with_reducible apply keeps_ite | with_reducible apply keeps_foldl
      | with_reducible apply keeps_foldl1 | with_reducible apply keeps_foldl2 | with_reducible refine keeps_fst (by assumption) ?_
      | with_reducible refine keeps_snd (by assumption) ?_ | fail_if_no_progress with_reducible apply keeps_mk

theorem State.skipDependants_keeps {s : State} (h : Keeps s0 s) :
    ∀ a2 a3, Keeps s0 (State.skipDependants s a2 a3) := by
  intro a2 a3
  unfold State.skipDependants
  repeat' first
      | with_reducible assumption | intro _ | with_reducible apply keeps_ite | with_reducible apply State.bump_keeps
      | with_reducible apply State.modOps_keeps

theorem State.overrunOp_keeps {s : State} (h : Keeps s0 s) :
    ∀ a2 a3, Keeps s0 (State.overrunOp s a2 a3) := by
  intro a2 a3
  unfold State.overrunOp
  repeat' first
      | with_reducible assumption | intro _ | with_reducible apply keeps_ite | with_reducible apply State.bump_keeps
      | with_reducible apply State.reportBits_keeps | with_reducible apply State.modOp_keeps
      | with_reducible apply State.skipDependants_keeps

theorem State.planCheckEnd_keeps {s : State} (h : Keeps s0 s) :
    ∀ a2, Keeps s0 (State.planCheckEnd s a2) := by
  intro a2
  unfold State.planCheckEnd
  repeat' first
      | with_reducible assumption | intro _ | with_reducible apply keeps_ite | with_reducible apply keeps_forSome
      | with_reducible apply State.finish_keeps | with_reducible apply keeps_foldl | with_reducible apply keeps_foldl1
      | with_reducible apply keeps_foldl2 | with_reducible refine keeps_fst (by assumption) ?_
      | with_reducible refine keeps_snd (by assumption) ?_ | fail_if_no_progress with_reducible apply keeps_mk

theorem State.wellStart_keeps {s : State} (h : Keeps s0 s) :
    ∀ a2 a3 a4 a5, Keeps s0 (State.wellStart s a2 a3 a4 a5) := by
  intro a2 a3 a4 a5
  unfold State.wellStart
  repeat' first
      | with_reducible assumption | intro _ | with_reducible apply keeps_ite | with_reducible apply keeps_each
      | with_reducible apply State.beginSpans_keeps | with_reducible apply State.raceReads_keeps
      | with_reducible apply State.placesRead_keeps | with_reducible apply State.modOp_keeps | with_reducible apply keeps_foldl
      | with_reducible apply keeps_foldl1 | with_reducible apply keeps_foldl2 | with_reducible refine keeps_fst (by assumption) ?_
      | with_reducible refine keeps_snd (by assumption) ?_ | fail_if_no_progress with_reducible apply keeps_mk

theorem State.startWell_keeps {s : State} (h : Keeps s0 s) :
    ∀ a2 a3 a4, Keeps s0 (State.startWell s a2 a3 a4) := by
  intro a2 a3 a4
  unfold State.startWell
  repeat' first
      | with_reducible assumption | intro _ | with_reducible apply keeps_ite | with_reducible apply keeps_forSome
      | with_reducible apply State.wellStart_keeps

theorem State.cplaneFrame_keeps {s : State} (h : Keeps s0 s) :
    ∀ a2, Keeps s0 (State.cplaneFrame s a2).2 := by
  intro a2
  unfold State.cplaneFrame
  repeat' first
      | with_reducible assumption | intro _ | with_reducible apply keeps_ite | with_reducible apply State.nextSeq_keeps

theorem State.cplaneStart_keeps {s : State} (h : Keeps s0 s) :
    ∀ a2 a3 a4 a5, Keeps s0 (State.cplaneStart s a2 a3 a4 a5) := by
  intro a2 a3 a4 a5
  unfold State.cplaneStart
  repeat' first
      | with_reducible assumption | intro _ | with_reducible apply keeps_ite | with_reducible apply State.originate_keeps
      | with_reducible apply State.modOp_keeps | with_reducible apply State.cplaneFrame_keeps

theorem State.workBegins_keeps {s : State} (h : Keeps s0 s) :
    ∀ a2, Keeps s0 (State.workBegins s a2) := by
  intro a2
  unfold State.workBegins
  repeat' first
      | with_reducible assumption | intro _ | with_reducible apply keeps_ite | with_reducible apply State.setBasin_keeps

theorem State.radioLoad_keeps {s : State} (h : Keeps s0 s) :
    ∀ a2 a3, Keeps s0 (State.radioLoad s a2 a3) := by
  intro a2 a3
  unfold State.radioLoad
  repeat' first
      | with_reducible assumption | intro _ | with_reducible apply keeps_ite | with_reducible apply State.wr_keeps
      | with_reducible apply State.bump_keeps | with_reducible apply State.setJet_keeps | with_reducible apply State.eccReads_keeps

theorem State.radioJetStart_keeps {s : State} (h : Keeps s0 s) :
    ∀ a2 a3 a4, Keeps s0 (State.radioJetStart s a2 a3 a4) := by
  intro a2 a3 a4
  unfold State.radioJetStart
  repeat' first
      | with_reducible assumption | intro _ | with_reducible apply keeps_ite | with_reducible apply State.wr_keeps
      | with_reducible apply State.bump_keeps | with_reducible apply State.eccReads_keeps | with_reducible apply State.beginSpans_keeps
      | with_reducible apply State.raceReads_keeps | with_reducible apply State.laneCounts_keeps
      | with_reducible apply State.runList_keeps | with_reducible apply State.modOp_keeps | with_reducible apply State.workBegins_keeps
      | with_reducible apply State.radioLoad_keeps | with_reducible apply keeps_foldl | with_reducible apply keeps_foldl1
      | with_reducible apply keeps_foldl2 | with_reducible refine keeps_fst (by assumption) ?_
      | with_reducible refine keeps_snd (by assumption) ?_ | fail_if_no_progress with_reducible apply keeps_mk | dsimp only | split

theorem State.radioSpoutStart_keeps {s : State} (h : Keeps s0 s) :
    ∀ a2 a3 a4, Keeps s0 (State.radioSpoutStart s a2 a3 a4) := by
  intro a2 a3 a4
  unfold State.radioSpoutStart
  repeat' first
      | with_reducible assumption | intro _ | with_reducible apply keeps_ite | with_reducible apply State.beginTask_keeps
      | with_reducible apply State.modOp_keeps | with_reducible apply State.workBegins_keeps

theorem State.radioJetEnd_keeps {s : State} (h : Keeps s0 s) :
    ∀ a2 a3 a4, Keeps s0 (State.radioJetEnd s a2 a3 a4).1 := by
  intro a2 a3 a4
  unfold State.radioJetEnd
  repeat' first
      | with_reducible assumption | intro _ | with_reducible apply keeps_ite | with_reducible apply keeps_each
      | with_reducible apply State.doWrites_keeps | with_reducible apply State.runList_keeps
      | with_reducible apply State.jetMismatch_keeps | with_reducible apply State.jetCycles_keeps | with_reducible apply keeps_foldl
      | with_reducible apply keeps_foldl1 | with_reducible apply keeps_foldl2 | with_reducible refine keeps_fst (by assumption) ?_
      | with_reducible refine keeps_snd (by assumption) ?_ | fail_if_no_progress with_reducible apply keeps_mk | dsimp only | split

theorem State.opWrites_keeps {s : State} (h : Keeps s0 s) :
    ∀ p i o bad st r, s.opWrites p i o bad st = some r → Keeps s0 r.1 := by
  intro p i o bad st r hr
  unfold State.opWrites at hr
  repeat' split at hr
  all_goals cases hr
  all_goals
    repeat' first
        | with_reducible assumption | intro _ | with_reducible apply keeps_ite | with_reducible apply State.free_keeps
        | with_reducible apply State.taskEnd_keeps | with_reducible apply State.radioJetEnd_keeps
        | with_reducible apply State.doWrites_keeps | with_reducible refine keeps_fst (by assumption) ?_

theorem State.opEnded_keeps {s : State} (h : Keeps s0 s) :
    ∀ a2 a3 a4, Keeps s0 (State.opEnded s a2 a3 a4) := by
  intro a2 a3 a4
  unfold State.opEnded
  repeat' first
      | with_reducible assumption | intro _ | with_reducible apply keeps_ite | with_reducible apply State.bump_keeps
      | with_reducible apply keeps_each | with_reducible apply State.endSpans_keeps | with_reducible apply State.opStopped_keeps
      | with_reducible apply State.modOp_keeps | with_reducible apply State.skipDependants_keeps
      | with_reducible apply State.overrunOp_keeps | with_reducible apply State.planCheckEnd_keeps

theorem State.moveBasin_keeps {s : State} (h : Keeps s0 s) :
    ∀ a2 a3, Keeps s0 (State.moveBasin s a2 a3) := by
  intro a2 a3
  unfold State.moveBasin
  repeat' first
      | with_reducible assumption | intro _ | with_reducible apply keeps_ite | with_reducible apply keeps_foldl
      | with_reducible apply keeps_foldl1 | with_reducible apply keeps_foldl2 | with_reducible refine keeps_fst (by assumption) ?_
      | with_reducible refine keeps_snd (by assumption) ?_ | fail_if_no_progress with_reducible apply keeps_mk

theorem State.takeBasin_keeps {s : State} (h : Keeps s0 s) :
    ∀ a2 a3, Keeps s0 (State.takeBasin s a2 a3) := by
  intro a2 a3
  unfold State.takeBasin
  repeat' first
      | with_reducible assumption | intro _ | with_reducible apply keeps_ite | with_reducible apply State.wr_keeps
      | with_reducible apply State.bump_keeps | with_reducible apply State.abandonOps_keeps | with_reducible apply State.moveBasin_keeps

theorem State.takeEngine_keeps {s : State} (h : Keeps s0 s) :
    ∀ a2 a3 a4, Keeps s0 (State.takeEngine s a2 a3 a4) := by
  intro a2 a3 a4
  unfold State.takeEngine
  repeat' first
      | with_reducible assumption | intro _ | with_reducible apply keeps_ite | with_reducible apply State.bump_keeps
      | with_reducible apply State.abandonRadio_keeps | with_reducible apply keeps_foldl | with_reducible apply keeps_foldl1
      | with_reducible apply keeps_foldl2 | with_reducible refine keeps_fst (by assumption) ?_
      | with_reducible refine keeps_snd (by assumption) ?_ | fail_if_no_progress with_reducible apply keeps_mk

theorem State.setInferFence_keeps {s : State} (h : Keeps s0 s) :
    ∀ a2, Keeps s0 (State.setInferFence s a2) := by
  intro a2
  unfold State.setInferFence
  repeat' first
      | with_reducible assumption | intro _ | with_reducible apply keeps_ite | with_reducible apply State.wr_keeps
      | with_reducible apply keeps_each | with_reducible apply State.spwChange_keeps | with_reducible apply State.event_keeps
      | with_reducible apply State.cascadeDropFetch_keeps | with_reducible apply State.haltRing_keeps
      | with_reducible apply State.taskEnd_keeps | with_reducible apply State.finishNow_keeps
      | with_reducible apply State.discardQueued_keeps | with_reducible apply State.abandon_keeps
      | with_reducible apply State.endSaved_keeps | with_reducible apply State.gateLater_keeps | with_reducible apply keeps_foldl
      | with_reducible apply keeps_foldl1 | with_reducible apply keeps_foldl2 | with_reducible refine keeps_fst (by assumption) ?_
      | with_reducible refine keeps_snd (by assumption) ?_ | fail_if_no_progress with_reducible apply keeps_mk | dsimp only | split

theorem State.clearInferFence_keeps {s : State} (h : Keeps s0 s) :
    Keeps s0 (State.clearInferFence s) := by
  unfold State.clearInferFence
  repeat' first
      | with_reducible assumption | intro _ | with_reducible apply keeps_ite | with_reducible apply State.wr_keeps
      | with_reducible apply State.info_keeps | with_reducible apply State.spwChange_keeps | with_reducible apply State.event_keeps
      | with_reducible apply keeps_foldl | with_reducible apply keeps_foldl1 | with_reducible apply keeps_foldl2
      | with_reducible refine keeps_fst (by assumption) ?_ | with_reducible refine keeps_snd (by assumption) ?_
      | fail_if_no_progress with_reducible apply keeps_mk

theorem State.safeEnd_keeps {s : State} (h : Keeps s0 s) :
    ∀ a2, Keeps s0 (State.safeEnd s a2) := by
  intro a2
  unfold State.safeEnd
  repeat' first
      | with_reducible assumption | intro _ | with_reducible apply keeps_ite | with_reducible apply State.copyStopped_keeps
      | with_reducible apply State.finish_keeps | with_reducible apply State.dropWrites_keeps
      | with_reducible apply State.abandonSilent_keeps

theorem State.enterSafe_keeps {s : State} (h : Keeps s0 s) :
    Keeps s0 (State.enterSafe s) := by
  unfold State.enterSafe
  repeat' first
      | with_reducible assumption | intro _ | with_reducible apply keeps_ite | with_reducible apply State.wr_keeps
      | with_reducible apply State.setBasin_keeps | with_reducible apply keeps_each | with_reducible apply State.spwChange_keeps
      | with_reducible apply State.freezeSilt_keeps | with_reducible apply State.event_keeps | with_reducible apply State.haltRing_keeps
      | with_reducible apply State.taskEnd_keeps | with_reducible apply State.discardQueued_keeps
      | with_reducible apply State.endSaved_keeps | with_reducible apply State.abandonRadio_keeps
      | with_reducible apply State.safeEnd_keeps | with_reducible apply keeps_foldl | with_reducible apply keeps_foldl1
      | with_reducible apply keeps_foldl2 | with_reducible refine keeps_fst (by assumption) ?_
      | with_reducible refine keeps_snd (by assumption) ?_ | fail_if_no_progress with_reducible apply keeps_mk

theorem State.countReport_keeps {s : State} (h : Keeps s0 s) :
    ∀ a2, Keeps s0 (State.countReport s a2) := by
  intro a2
  unfold State.countReport
  repeat' first
      | with_reducible assumption | intro _ | with_reducible apply keeps_ite | with_reducible apply State.setItem_keeps
      | with_reducible apply State.fenceDecide_keeps | with_reducible apply State.notePermanent_keeps | with_reducible apply keeps_foldl
      | with_reducible apply keeps_foldl1 | with_reducible apply keeps_foldl2 | with_reducible refine keeps_fst (by assumption) ?_
      | with_reducible refine keeps_snd (by assumption) ?_ | fail_if_no_progress with_reducible apply keeps_mk | dsimp only | split

theorem State.captureRegs_keeps {s : State} (h : Keeps s0 s) :
    ∀ a2, Keeps s0 (State.captureRegs s a2) := by
  intro a2
  unfold State.captureRegs
  repeat' first
      | with_reducible assumption | intro _ | with_reducible apply keeps_ite | with_reducible apply keeps_setReg
      | with_reducible apply State.wr_keeps | with_reducible apply State.bumpSat_keeps | with_reducible apply State.raise_keeps

theorem State.entryReport_keeps {s : State} (h : Keeps s0 s) :
    ∀ a2, Keeps s0 (State.entryReport s a2) := by
  intro a2
  unfold State.entryReport
  repeat' first
      | with_reducible assumption | intro _ | with_reducible apply keeps_ite | with_reducible apply State.logPut_keeps
      | with_reducible apply State.siltPut_keeps | with_reducible apply keeps_foldl | with_reducible apply keeps_foldl1
      | with_reducible apply keeps_foldl2 | with_reducible refine keeps_fst (by assumption) ?_
      | with_reducible refine keeps_snd (by assumption) ?_ | fail_if_no_progress with_reducible apply keeps_mk

theorem State.capture_keeps {s : State} (h : Keeps s0 s) :
    ∀ a2, Keeps s0 (State.capture s a2) := by
  intro a2
  unfold State.capture
  repeat' first
      | with_reducible assumption | intro _ | with_reducible apply keeps_ite | with_reducible apply State.bump_keeps
      | with_reducible apply State.raise_keeps | with_reducible apply keeps_each | with_reducible apply State.freezeSilt_keeps
      | with_reducible apply State.health_keeps | with_reducible apply State.interrupt_keeps
      | with_reducible apply State.fenceDecide_keeps | with_reducible apply State.setInferFence_keeps
      | with_reducible apply State.countReport_keeps | with_reducible apply State.captureRegs_keeps
      | with_reducible apply State.entryReport_keeps | with_reducible apply keeps_foldl | with_reducible apply keeps_foldl1
      | with_reducible apply keeps_foldl2 | with_reducible refine keeps_fst (by assumption) ?_
      | with_reducible refine keeps_snd (by assumption) ?_ | fail_if_no_progress with_reducible apply keeps_mk | dsimp only | split

theorem State.fenceCmdWrite_keeps {s : State} (h : Keeps s0 s) :
    ∀ a2, Keeps s0 (State.fenceCmdWrite s a2) := by
  intro a2
  unfold State.fenceCmdWrite
  repeat' first
      | with_reducible assumption | intro _ | with_reducible apply keeps_ite | with_reducible apply State.wr_keeps
      | with_reducible apply State.info_keeps | with_reducible apply State.fenceDecide_keeps | with_reducible apply State.testBegin_keeps
      | with_reducible apply keeps_foldl | with_reducible apply keeps_foldl1 | with_reducible apply keeps_foldl2
      | with_reducible refine keeps_fst (by assumption) ?_ | with_reducible refine keeps_snd (by assumption) ?_
      | fail_if_no_progress with_reducible apply keeps_mk | dsimp only | split

theorem State.testEnd_keeps {s : State} (h : Keeps s0 s) :
    ∀ a2 a3 a4, Keeps s0 (State.testEnd s a2 a3 a4) := by
  intro a2 a3 a4
  unfold State.testEnd
  repeat' first
      | with_reducible assumption | intro _ | with_reducible apply keeps_ite | with_reducible apply State.wr_keeps
      | with_reducible apply State.bump_keeps | with_reducible apply State.setItem_keeps | with_reducible apply State.notePermanent_keeps
      | with_reducible apply State.testFailed_keeps | with_reducible apply State.fenceClear_keeps
      | with_reducible apply State.testLeaves_keeps | with_reducible apply keeps_foldl | with_reducible apply keeps_foldl1
      | with_reducible apply keeps_foldl2 | with_reducible refine keeps_fst (by assumption) ?_
      | with_reducible refine keeps_snd (by assumption) ?_ | fail_if_no_progress with_reducible apply keeps_mk

theorem State.pinClear_keeps {s : State} (h : Keeps s0 s) :
    Keeps s0 (State.pinClear s) := by
  unfold State.pinClear
  repeat' first
      | with_reducible assumption | intro _ | with_reducible apply keeps_ite | with_reducible apply State.wr_keeps

theorem State.siltRearm_keeps {s : State} (h : Keeps s0 s) :
    Keeps s0 (State.siltRearm s) := by
  unfold State.siltRearm
  repeat' first
      | with_reducible assumption | intro _ | with_reducible apply keeps_ite | with_reducible apply State.wr_keeps
      | with_reducible apply State.info_keeps | with_reducible apply State.spwChange_keeps | with_reducible apply keeps_foldl
      | with_reducible apply keeps_foldl1 | with_reducible apply keeps_foldl2 | with_reducible refine keeps_fst (by assumption) ?_
      | with_reducible refine keeps_snd (by assumption) ?_ | fail_if_no_progress with_reducible apply keeps_mk

theorem State.spwCmdWrite_keeps {s : State} (h : Keeps s0 s) :
    ∀ a2, Keeps s0 (State.spwCmdWrite s a2) := by
  intro a2
  unfold State.spwCmdWrite
  repeat' first
      | with_reducible assumption | intro _ | with_reducible apply keeps_ite | with_reducible apply State.freezeSilt_keeps
      | with_reducible apply State.setInferFence_keeps | with_reducible apply State.clearInferFence_keeps
      | with_reducible apply State.pinClear_keeps | with_reducible apply State.siltRearm_keeps | with_reducible apply keeps_foldl
      | with_reducible apply keeps_foldl1 | with_reducible apply keeps_foldl2 | with_reducible refine keeps_fst (by assumption) ?_
      | with_reducible refine keeps_snd (by assumption) ?_ | fail_if_no_progress with_reducible apply keeps_mk

theorem State.markWrite_keeps {s : State} (h : Keeps s0 s) :
    ∀ a2, Keeps s0 (State.markWrite s a2) := by
  intro a2
  unfold State.markWrite
  repeat' first
      | with_reducible assumption | intro _ | with_reducible apply keeps_ite | with_reducible apply State.event_keeps

theorem State.setEid_keeps {s : State} (h : Keeps s0 s) :
    ∀ a2 a3, Keeps s0 (State.setEid s a2 a3) := by
  intro a2 a3
  unfold State.setEid
  repeat' first
      | with_reducible assumption | intro _ | with_reducible apply keeps_ite | with_reducible apply State.wr_keeps
      | with_reducible apply keeps_foldl | with_reducible apply keeps_foldl1 | with_reducible apply keeps_foldl2
      | with_reducible refine keeps_fst (by assumption) ?_ | with_reducible refine keeps_snd (by assumption) ?_
      | fail_if_no_progress with_reducible apply keeps_mk

theorem State.answer_keeps {s : State} {k3 : State → State × List Byte} (h : Keeps s0 s) (hk3 : ∀ x0, Keeps s0 x0 → Keeps s0 (k3 x0).1) :
    ∀ a2, Keeps s0 (State.answer s a2 k3) := by
  intro a2
  unfold State.answer
  repeat' first
      | with_reducible assumption | intro _ | with_reducible apply keeps_ite | with_reducible apply keeps_whenever
      | with_reducible apply hk3 | with_reducible apply keeps_foldl | with_reducible apply keeps_foldl1
      | with_reducible apply keeps_foldl2 | with_reducible refine keeps_fst (by assumption) ?_
      | with_reducible refine keeps_snd (by assumption) ?_ | fail_if_no_progress with_reducible apply keeps_mk

theorem State.freeReply_keeps {s : State} (h : Keeps s0 s) :
    ∀ a2, Keeps s0 (State.freeReply s a2).1 := by
  intro a2
  unfold State.freeReply
  repeat' first
      | with_reducible assumption | intro _ | with_reducible apply keeps_ite | with_reducible apply keeps_foldl
      | with_reducible apply keeps_foldl1 | with_reducible apply keeps_foldl2 | with_reducible refine keeps_fst (by assumption) ?_
      | with_reducible refine keeps_snd (by assumption) ?_ | fail_if_no_progress with_reducible apply keeps_mk

theorem State.mctpServe_keeps {s : State} (h : Keeps s0 s) :
    ∀ a2 a3, Keeps s0 (State.mctpServe s a2 a3).1 := by
  intro a2 a3
  unfold State.mctpServe
  repeat' first
      | with_reducible assumption | intro _ | with_reducible apply keeps_ite | with_reducible apply State.setEid_keeps
      | with_reducible apply State.freeReply_keeps | with_reducible apply keeps_foldl | with_reducible apply keeps_foldl1
      | with_reducible apply keeps_foldl2 | with_reducible refine keeps_fst (by assumption) ?_
      | with_reducible refine keeps_snd (by assumption) ?_ | fail_if_no_progress with_reducible apply keeps_mk | dsimp only | split

theorem State.sensorServe_keeps {s : State} (h : Keeps s0 s) :
    ∀ a2, Keeps s0 (State.sensorServe s a2).1 := by
  intro a2
  unfold State.sensorServe
  repeat' first
      | with_reducible assumption | intro _ | with_reducible apply keeps_ite | with_reducible apply State.freeReply_keeps
      | with_reducible apply keeps_foldl | with_reducible apply keeps_foldl1 | with_reducible apply keeps_foldl2
      | with_reducible refine keeps_fst (by assumption) ?_ | with_reducible refine keeps_snd (by assumption) ?_
      | fail_if_no_progress with_reducible apply keeps_mk | dsimp only | split

theorem State.migrationStart_keeps {s : State} (h : Keeps s0 s) :
    ∀ a2 a3, Keeps s0 (State.migrationStart s a2 a3) := by
  intro a2 a3
  unfold State.migrationStart
  repeat' first
      | with_reducible assumption | intro _ | with_reducible apply keeps_ite | with_reducible apply State.wr_keeps
      | with_reducible apply State.modCmd_keeps | with_reducible apply State.startRunning_keeps | with_reducible apply keeps_foldl
      | with_reducible apply keeps_foldl1 | with_reducible apply keeps_foldl2 | with_reducible refine keeps_fst (by assumption) ?_
      | with_reducible refine keeps_snd (by assumption) ?_ | fail_if_no_progress with_reducible apply keeps_mk

theorem State.migrateAct_keeps {s : State} (h : Keeps s0 s) :
    ∀ a2 a3 a4, Keeps s0 (State.migrateAct s a2 a3 a4) := by
  intro a2 a3 a4
  unfold State.migrateAct
  repeat' first
      | with_reducible assumption | intro _ | with_reducible apply keeps_ite | with_reducible apply keeps_forSome
      | with_reducible apply State.finishNow_keeps | with_reducible apply State.migrationStart_keeps

theorem State.migSwitch_keeps {s : State} (h : Keeps s0 s) :
    ∀ a2, Keeps s0 (State.migSwitch s a2) := by
  intro a2
  unfold State.migSwitch
  repeat' first
      | with_reducible assumption | intro _ | with_reducible apply keeps_ite | with_reducible apply State.wr_keeps
      | with_reducible apply State.modCmd_keeps | with_reducible apply State.migPush_keeps

theorem State.partWrite_keeps {s : State} (h : Keeps s0 s) :
    ∀ a2 a3, Keeps s0 (State.partWrite s a2 a3) := by
  intro a2 a3
  unfold State.partWrite
  repeat' first
      | with_reducible assumption | intro _ | with_reducible apply keeps_ite | with_reducible apply State.wr_keeps
      | with_reducible apply State.info_keeps | with_reducible apply State.setBasin_keeps

theorem State.partDone_keeps {s : State} (h : Keeps s0 s) :
    ∀ a2 a3 a4, Keeps s0 (State.partDone s a2 a3 a4) := by
  intro a2 a3 a4
  unfold State.partDone
  repeat' first
      | with_reducible assumption | intro _ | with_reducible apply keeps_ite | with_reducible apply State.wr_keeps
      | with_reducible apply State.setBasin_keeps | with_reducible apply State.cZero_keeps | with_reducible apply State.pZero_keeps

theorem State.clearRc_keeps {s : State} (h : Keeps s0 s) :
    ∀ a2 a3, Keeps s0 (State.clearRc s a2 a3) := by
  intro a2 a3
  unfold State.clearRc
  repeat' first
      | with_reducible assumption | intro _ | with_reducible apply keeps_ite | with_reducible apply keeps_setReg
      | with_reducible apply keeps_foldl | with_reducible apply keeps_foldl1 | with_reducible apply keeps_foldl2
      | with_reducible refine keeps_fst (by assumption) ?_ | with_reducible refine keeps_snd (by assumption) ?_
      | fail_if_no_progress with_reducible apply keeps_mk | dsimp only | split

theorem State.readReg_keeps {s : State} (h : Keeps s0 s) :
    ∀ a2 a3, Keeps s0 (State.readReg s a2 a3).2 := by
  intro a2 a3
  unfold State.readReg
  repeat' first
      | with_reducible assumption | intro _ | with_reducible apply keeps_ite | with_reducible apply State.capMetaRead_keeps
      | with_reducible apply State.clearRc_keeps | with_reducible apply keeps_foldl | with_reducible apply keeps_foldl1
      | with_reducible apply keeps_foldl2 | with_reducible refine keeps_fst (by assumption) ?_
      | with_reducible refine keeps_snd (by assumption) ?_ | fail_if_no_progress with_reducible apply keeps_mk | dsimp only | split

theorem State.readWord32_keeps {s : State} (h : Keeps s0 s) :
    ∀ a2, Keeps s0 (State.readWord32 s a2).2 := by
  intro a2
  unfold State.readWord32
  repeat' first
      | with_reducible assumption | intro _ | with_reducible apply keeps_ite | with_reducible apply State.readReg_keeps
      | with_reducible apply keeps_foldl | with_reducible apply keeps_foldl1 | with_reducible apply keeps_foldl2
      | with_reducible refine keeps_fst (by assumption) ?_ | with_reducible refine keeps_snd (by assumption) ?_
      | fail_if_no_progress with_reducible apply keeps_mk | dsimp only | split

theorem State.readGated_keeps {s : State} (h : Keeps s0 s) :
    ∀ a2 a3 a4, Keeps s0 (State.readGated s a2 a3 a4).2 := by
  intro a2 a3 a4
  unfold State.readGated
  repeat' first
      | with_reducible assumption | intro _ | with_reducible apply keeps_ite | with_reducible apply keeps_foldl
      | with_reducible apply keeps_foldl1 | with_reducible apply keeps_foldl2 | with_reducible refine keeps_fst (by assumption) ?_
      | with_reducible refine keeps_snd (by assumption) ?_ | fail_if_no_progress with_reducible apply keeps_mk | dsimp only | split

theorem State.readWordAt_keeps {s : State} (h : Keeps s0 s) :
    ∀ a2, Keeps s0 (State.readWordAt s a2).2 := by
  intro a2
  unfold State.readWordAt
  repeat' first
      | with_reducible assumption | intro _ | with_reducible apply keeps_ite | with_reducible apply State.readWord32_keeps
      | with_reducible apply State.readGated_keeps | with_reducible apply keeps_foldl | with_reducible apply keeps_foldl1
      | with_reducible apply keeps_foldl2 | with_reducible refine keeps_fst (by assumption) ?_
      | with_reducible refine keeps_snd (by assumption) ?_ | fail_if_no_progress with_reducible apply keeps_mk | dsimp only | split

theorem State.readPair_keeps {s : State} (h : Keeps s0 s) : ∀ a r, State.readPair s a = some r → Keeps s0 r.2 := by
  intro a r hr
  unfold State.readPair at hr
  split at hr
  · split at hr
    · cases hr
    · split at hr
      · cases hr; split <;> exact h
      · cases hr; exact State.readReg_keeps h _ _
  · cases hr

theorem State.barRead_keeps {s : State} (h : Keeps s0 s) : ∀ a n, Keeps s0 (State.barRead s a n) := by
  intro a n
  unfold State.barRead
  split
  · split
    · exact keeps_mk (State.readPair_keeps h _ _ (by assumption))
    · exact keeps_mk (State.readWordAt_keeps (State.readWordAt_keeps h _) _)
  · exact keeps_mk (State.readWordAt_keeps h _)

theorem State.regAct_keeps {s : State} (h : Keeps s0 s) :
    ∀ a2 a3 a4 a5, Keeps s0 (State.regAct s a2 a3 a4 a5) := by
  intro a2 a3 a4 a5
  unfold State.regAct
  repeat' first
      | with_reducible assumption | intro _ | with_reducible apply keeps_ite | with_reducible apply keeps_setReg
      | with_reducible apply State.info_keeps | with_reducible apply State.scoreChange_keeps
      | with_reducible apply State.watchRoutes_keeps | with_reducible apply State.aqdCtrlWrite_keeps
      | with_reducible apply State.arrivalWrite_keeps | with_reducible apply State.doorbell_keeps
      | with_reducible apply State.cqTailWrite_keeps | with_reducible apply State.ringCtrlWrite_keeps
      | with_reducible apply State.ringResume_keeps | with_reducible apply State.fieldRemap_keeps
      | with_reducible apply State.startRamps_keeps | with_reducible apply State.tokTailWritten_keeps
      | with_reducible apply State.keyCmdWrite_keeps | with_reducible apply State.rangeWrite_keeps
      | with_reducible apply State.pasidWrite_keeps | with_reducible apply State.basinsWrite_keeps
      | with_reducible apply State.sliceCmdWrite_keeps | with_reducible apply State.sliceCtrlWrite_keeps
      | with_reducible apply State.schedMarkWrite_keeps | with_reducible apply State.shareWrite_keeps
      | with_reducible apply State.gateReqWrite_keeps | with_reducible apply State.wakeReqWrite_keeps
      | with_reducible apply State.resetCmdWrite_keeps | with_reducible apply State.detStepWrite_keeps
      | with_reducible apply State.shadowCmdWrite_keeps | with_reducible apply State.tcFill_keeps
      | with_reducible apply State.carrierWrite_keeps | with_reducible apply State.reservedWrite_keeps
      | with_reducible apply State.radioCtrlWrite_keeps | with_reducible apply State.timeCtrlWrite_keeps
      | with_reducible apply State.rateMaxWritten_keeps | with_reducible apply State.outCtrlWrite_keeps
      | with_reducible apply State.launchCtrlWrite_keeps | with_reducible apply State.gclActWrite_keeps
      | with_reducible apply State.fenceCmdWrite_keeps | with_reducible apply State.spwCmdWrite_keeps
      | with_reducible apply State.markWrite_keeps | with_reducible apply State.partWrite_keeps | with_reducible apply keeps_foldl
      | with_reducible apply keeps_foldl1 | with_reducible apply keeps_foldl2 | with_reducible refine keeps_fst (by assumption) ?_
      | with_reducible refine keeps_snd (by assumption) ?_ | fail_if_no_progress with_reducible apply keeps_mk | dsimp only | split

theorem State.regWrite_keeps {s : State} (h : Keeps s0 s) :
    ∀ a2 a3 a4 a5, Keeps s0 (State.regWrite s a2 a3 a4 a5) := by
  intro a2 a3 a4 a5
  unfold State.regWrite
  repeat' first
      | with_reducible assumption | intro _ | with_reducible apply keeps_ite | with_reducible apply State.keepFresh_keeps
      | with_reducible apply State.regAct_keeps

theorem State.writeAt_keeps {s : State} (h : Keeps s0 s) :
    ∀ a2 a3 a4 a5, Keeps s0 (State.writeAt s a2 a3 a4 a5) := by
  intro a2 a3 a4 a5
  unfold State.writeAt
  repeat' first
      | with_reducible assumption | intro _ | with_reducible apply keeps_ite | with_reducible apply State.info_keeps
      | with_reducible apply State.regWrite_keeps | with_reducible apply keeps_foldl | with_reducible apply keeps_foldl1
      | with_reducible apply keeps_foldl2 | with_reducible refine keeps_fst (by assumption) ?_
      | with_reducible refine keeps_snd (by assumption) ?_ | fail_if_no_progress with_reducible apply keeps_mk | dsimp only | split

theorem State.writeWordAt_keeps {s : State} (h : Keeps s0 s) :
    ∀ a2 a3, Keeps s0 (State.writeWordAt s a2 a3) := by
  intro a2 a3
  unfold State.writeWordAt
  repeat' first
      | with_reducible assumption | intro _ | with_reducible apply keeps_ite | with_reducible apply State.info_keeps
      | with_reducible apply State.writeAt_keeps | with_reducible apply keeps_foldl | with_reducible apply keeps_foldl1
      | with_reducible apply keeps_foldl2 | with_reducible refine keeps_fst (by assumption) ?_
      | with_reducible refine keeps_snd (by assumption) ?_ | fail_if_no_progress with_reducible apply keeps_mk | dsimp only | split

theorem State.barWrite_keeps {s : State} (h : Keeps s0 s) :
    ∀ a2 a3 a4, Keeps s0 (State.barWrite s a2 a3 a4) := by
  intro a2 a3 a4
  unfold State.barWrite
  repeat' first
      | with_reducible assumption | intro _ | with_reducible apply keeps_ite | with_reducible apply State.reportLow_keeps
      | with_reducible apply State.writeAt_keeps | with_reducible apply State.writeWordAt_keeps | with_reducible apply keeps_foldl
      | with_reducible apply keeps_foldl1 | with_reducible apply keeps_foldl2 | with_reducible refine keeps_fst (by assumption) ?_
      | with_reducible refine keeps_snd (by assumption) ?_ | fail_if_no_progress with_reducible apply keeps_mk | dsimp only | split

end Sys2Proof.Machine
end

