-- ==== Sys2Proof/Laws/Keeps7.lean ====
section
/-! SUPPORT. What every meaning keeps: the queue, and the order of registers and memories. -/
namespace Sys2Proof.Machine

theorem execRegisterWrite_keeps {s t : State} {a0 a1 a2 a3} (ht : execRegisterWrite a0 a1 a2 a3 s = .next t) : Keeps s t := by
  unfold execRegisterWrite at ht
  refine enter_keeps (Keeps.rfl' s) (fun x hx => ?_) _ _ t ht
  repeat' first
      | with_reducible assumption | intro _ | with_reducible apply keeps_ite | with_reducible apply keeps_whenever
      | with_reducible apply keeps_forSome | with_reducible apply State.barWrite_keeps

theorem execLowWordRead_keeps {s t : State} {a0 a1 a2} (ht : execLowWordRead a0 a1 a2 s = .next t) : Keeps s t := by
  unfold execLowWordRead at ht
  refine enter_keeps (Keeps.rfl' s) (fun x hx => ?_) _ _ t ht
  repeat' first
      | with_reducible assumption | intro _ | with_reducible apply keeps_ite | with_reducible apply keeps_whenever
      | with_reducible apply keeps_forSome | with_reducible apply State.barRead_keeps

theorem execHighWordRead_keeps {s t : State} {a0 a1 a2} (ht : execHighWordRead a0 a1 a2 s = .next t) : Keeps s t := by
  unfold execHighWordRead at ht
  refine enter_keeps (Keeps.rfl' s) (fun x hx => ?_) _ _ t ht
  repeat' first
      | with_reducible assumption | intro _ | with_reducible apply keeps_ite | with_reducible apply keeps_whenever
      | with_reducible apply keeps_forSome | with_reducible apply State.barRead_keeps

theorem execRcFieldRead_keeps {s t : State} {a0 a1 a2} (ht : execRcFieldRead a0 a1 a2 s = .next t) : Keeps s t := by
  unfold execRcFieldRead at ht
  refine enter_keeps (Keeps.rfl' s) (fun x hx => ?_) _ _ t ht
  repeat' first
      | with_reducible assumption | intro _ | with_reducible apply keeps_ite | with_reducible apply keeps_whenever
      | with_reducible apply keeps_forSome | with_reducible apply State.barRead_keeps

theorem execHeartbeat_keeps {s t : State} {a0 a1} (ht : execHeartbeat a0 a1 s = .next t) : Keeps s t := by
  unfold execHeartbeat at ht
  refine enter_keeps (Keeps.rfl' s) (fun x hx => ?_) _ _ t ht
  repeat' first
      | with_reducible assumption | intro _ | with_reducible apply keeps_ite | with_reducible apply keeps_whenever
      | with_reducible apply keeps_forSome | with_reducible apply keeps_whenever | with_reducible apply State.beat_keeps

theorem execHeartbeatLoss_keeps {s t : State} {a0 a1} (ht : execHeartbeatLoss a0 a1 s = .next t) : Keeps s t := by
  unfold execHeartbeatLoss at ht
  refine enter_keeps (Keeps.rfl' s) (fun x hx => ?_) _ _ t ht
  repeat' first
      | with_reducible assumption | intro _ | with_reducible apply keeps_ite | with_reducible apply keeps_whenever
      | with_reducible apply keeps_forSome | with_reducible apply keeps_whenever | with_reducible apply State.reportLow_keeps
      | with_reducible apply State.noteSilent_keeps | with_reducible apply State.dieLost_keeps | with_reducible apply keeps_foldl
      | with_reducible apply keeps_foldl1 | with_reducible refine keeps_fst (by assumption) ?_
      | with_reducible refine keeps_snd (by assumption) ?_ | fail_if_no_progress with_reducible apply keeps_mk | dsimp only | split

theorem execDieHeartbeatLoss_keeps {s t : State} {a0 a1} (ht : execDieHeartbeatLoss a0 a1 s = .next t) : Keeps s t := by
  unfold execDieHeartbeatLoss at ht
  refine enter_keeps (Keeps.rfl' s) (fun x hx => ?_) _ _ t ht
  repeat' first
      | with_reducible assumption | intro _ | with_reducible apply keeps_ite | with_reducible apply keeps_whenever
      | with_reducible apply keeps_forSome | with_reducible apply State.dieLost_keeps

theorem execFenceEffect_keeps {s t : State} {a0 a1} (ht : execFenceEffect a0 a1 s = .next t) : Keeps s t := by
  unfold execFenceEffect at ht
  refine enter_keeps (Keeps.rfl' s) (fun x hx => ?_) _ _ t ht
  repeat' first
      | with_reducible assumption | intro _ | with_reducible apply keeps_ite | with_reducible apply keeps_whenever
      | with_reducible apply keeps_forSome | with_reducible apply keeps_whenever | with_reducible apply State.fenceEffect_keeps

theorem execFencedBasinGate_keeps {s t : State} {a0 a1} (ht : execFencedBasinGate a0 a1 s = .next t) : Keeps s t := by
  unfold execFencedBasinGate at ht
  refine enter_keeps (Keeps.rfl' s) (fun x hx => ?_) _ _ t ht
  repeat' first
      | with_reducible assumption | intro _ | with_reducible apply keeps_ite | with_reducible apply keeps_whenever
      | with_reducible apply keeps_forSome | with_reducible apply keeps_whenever | with_reducible apply State.gateBasin_keeps

theorem execJetTile_keeps {s t : State} {a0 a1} (ht : execJetTile a0 a1 s = .next t) : Keeps s t := by
  unfold execJetTile at ht
  refine enter_keeps (Keeps.rfl' s) (fun x hx => ?_) _ _ t ht
  repeat' first
      | with_reducible assumption | intro _ | with_reducible apply keeps_ite | with_reducible apply keeps_whenever
      | with_reducible apply keeps_forSome | with_reducible apply State.checkIssue_keeps

theorem execJetTileStart_keeps {s t : State} {a0 a1 a2 a3} (ht : execJetTileStart a0 a1 a2 a3 s = .next t) : Keeps s t := by
  unfold execJetTileStart at ht
  refine enter_keeps (Keeps.rfl' s) (fun x hx => ?_) _ _ t ht
  repeat' first
      | with_reducible assumption | intro _ | with_reducible apply keeps_ite | with_reducible apply keeps_whenever
      | with_reducible apply keeps_forSome | with_reducible apply State.upsets_keeps | with_reducible apply State.jetStart_keeps

theorem execJetBankLoadComplete_keeps {s t : State} {a0 a1 a2 a3} (ht : execJetBankLoadComplete a0 a1 a2 a3 s = .next t) : Keeps s t := by
  unfold execJetBankLoadComplete at ht
  refine enter_keeps (Keeps.rfl' s) (fun x hx => ?_) _ _ t ht
  repeat' first
      | with_reducible assumption | intro _ | with_reducible apply keeps_ite | with_reducible apply keeps_whenever
      | with_reducible apply keeps_forSome | with_reducible apply State.wr_keeps | with_reducible apply keeps_forSome
      | with_reducible apply State.setJet_keeps | with_reducible apply State.modCmd_keeps | with_reducible apply State.upsets_keeps
      | with_reducible apply State.eccReads_keeps | with_reducible apply State.raceReads_keeps

theorem execJetTileEnd_keeps {s t : State} {a0 a1 a2 a3 a4 a5} (ht : execJetTileEnd a0 a1 a2 a3 a4 a5 s = .next t) : Keeps s t := by
  unfold execJetTileEnd at ht
  refine enter_keeps (Keeps.rfl' s) (fun x hx => ?_) _ _ t ht
  repeat' first
      | with_reducible assumption | intro _ | with_reducible apply keeps_ite | with_reducible apply keeps_whenever
      | with_reducible apply keeps_forSome | with_reducible apply keeps_forSome | with_reducible apply State.jetEnd_keeps

theorem execJetFieldRemap_keeps {s t : State} {a0 a1 a2 a3} (ht : execJetFieldRemap a0 a1 a2 a3 s = .next t) : Keeps s t := by
  unfold execJetFieldRemap at ht
  refine enter_keeps (Keeps.rfl' s) (fun x hx => ?_) _ _ t ht
  repeat' first
      | with_reducible assumption | intro _ | with_reducible apply keeps_ite | with_reducible apply keeps_whenever
      | with_reducible apply keeps_forSome | with_reducible apply State.fieldRemap_keeps

theorem execFieldFuseBlown_keeps {s t : State} {a0 a1 a2} (ht : execFieldFuseBlown a0 a1 a2 s = .next t) : Keeps s t := by
  unfold execFieldFuseBlown at ht
  refine enter_keeps (Keeps.rfl' s) (fun x hx => ?_) _ _ t ht
  repeat' first
      | with_reducible assumption | intro _ | with_reducible apply keeps_ite | with_reducible apply keeps_whenever
      | with_reducible apply keeps_forSome | with_reducible apply keeps_setReg | with_reducible apply State.wr_keeps
      | with_reducible apply State.setRegBit_keeps

theorem execCisternPart_keeps {s t : State} {a0 a1 a2} (ht : execCisternPart a0 a1 a2 s = .next t) : Keeps s t := by
  unfold execCisternPart at ht
  refine enter_keeps (Keeps.rfl' s) (fun x hx => ?_) _ _ t ht
  repeat' first
      | with_reducible assumption | intro _ | with_reducible apply keeps_ite | with_reducible apply keeps_whenever
      | with_reducible apply keeps_forSome | with_reducible apply State.partWrite_keeps

theorem execCisternPartZeroingDone_keeps {s t : State} {a0 a1} (ht : execCisternPartZeroingDone a0 a1 s = .next t) : Keeps s t := by
  unfold execCisternPartZeroingDone at ht
  refine enter_keeps (Keeps.rfl' s) (fun x hx => ?_) _ _ t ht
  repeat' first
      | with_reducible assumption | intro _ | with_reducible apply keeps_ite | with_reducible apply keeps_whenever
      | with_reducible apply keeps_forSome | with_reducible apply keeps_forSome | with_reducible apply State.partDone_keeps

theorem execCisternSteal_keeps {s t : State} {a0 a1} (ht : execCisternSteal a0 a1 s = .next t) : Keeps s t := by
  unfold execCisternSteal at ht
  refine enter_keeps (Keeps.rfl' s) (fun x hx => ?_) _ _ t ht
  repeat' first
      | with_reducible assumption | intro _ | with_reducible apply keeps_ite | with_reducible apply keeps_whenever
      | with_reducible apply keeps_forSome | with_reducible apply State.bump_keeps

theorem execCxlLinkDown_keeps {s t : State} {a0} (ht : execCxlLinkDown a0 s = .next t) : Keeps s t := by
  unfold execCxlLinkDown at ht
  refine enter_keeps (Keeps.rfl' s) (fun x hx => ?_) _ _ t ht
  repeat' first
      | with_reducible assumption | intro _ | with_reducible apply keeps_ite | with_reducible apply keeps_whenever
      | with_reducible apply keeps_forSome | with_reducible apply keeps_whenever | with_reducible apply State.reportLow_keeps
      | with_reducible apply keeps_foldl | with_reducible apply keeps_foldl1 | with_reducible refine keeps_fst (by assumption) ?_
      | with_reducible refine keeps_snd (by assumption) ?_ | fail_if_no_progress with_reducible apply keeps_mk

theorem execCxlLinkUp_keeps {s t : State} {a0} (ht : execCxlLinkUp a0 s = .next t) : Keeps s t := by
  unfold execCxlLinkUp at ht
  refine enter_keeps (Keeps.rfl' s) (fun x hx => ?_) _ _ t ht
  repeat' first
      | with_reducible assumption | intro _ | with_reducible apply keeps_ite | with_reducible apply keeps_whenever
      | with_reducible apply keeps_forSome | with_reducible apply keeps_foldl | with_reducible apply keeps_foldl1
      | with_reducible refine keeps_fst (by assumption) ?_ | with_reducible refine keeps_snd (by assumption) ?_
      | fail_if_no_progress with_reducible apply keeps_mk

theorem execRunnelPass_keeps {s t : State} {a0 a1} (ht : execRunnelPass a0 a1 s = .next t) : Keeps s t := by
  unfold execRunnelPass at ht
  refine enter_keeps (Keeps.rfl' s) (fun x hx => ?_) _ _ t ht
  repeat' first
      | with_reducible assumption | intro _ | with_reducible apply keeps_ite | with_reducible apply keeps_whenever
      | with_reducible apply keeps_forSome | with_reducible apply State.wr_keeps | with_reducible apply keeps_whenever
      | with_reducible apply keeps_forSome | with_reducible apply State.modCmd_keeps | with_reducible apply State.eccRead_keeps
      | with_reducible apply State.finishNow_keeps

theorem execRunnelPassStart_keeps {s t : State} {a0 a1 a2} (ht : execRunnelPassStart a0 a1 a2 s = .next t) : Keeps s t := by
  unfold execRunnelPassStart at ht
  refine enter_keeps (Keeps.rfl' s) (fun x hx => ?_) _ _ t ht
  repeat' first
      | with_reducible assumption | intro _ | with_reducible apply keeps_ite | with_reducible apply keeps_whenever
      | with_reducible apply keeps_forSome | with_reducible apply keeps_whenever | with_reducible apply keeps_forSome
      | with_reducible apply State.upsets_keeps | with_reducible apply State.passStart_keeps

theorem execRunnelPassEnd_keeps {s t : State} {a0 a1 a2} (ht : execRunnelPassEnd a0 a1 a2 s = .next t) : Keeps s t := by
  unfold execRunnelPassEnd at ht
  refine enter_keeps (Keeps.rfl' s) (fun x hx => ?_) _ _ t ht
  repeat' first
      | with_reducible assumption | intro _ | with_reducible apply keeps_ite | with_reducible apply keeps_whenever
      | with_reducible apply keeps_forSome | with_reducible apply State.bump_keeps | with_reducible apply keeps_forSome
      | with_reducible apply State.ranUntilNow_keeps | with_reducible apply State.laneEnd_keeps

theorem execEpilogueComplete_keeps {s t : State} {a0 a1 a2} (ht : execEpilogueComplete a0 a1 a2 s = .next t) : Keeps s t := by
  unfold execEpilogueComplete at ht
  refine enter_keeps (Keeps.rfl' s) (fun x hx => ?_) _ _ t ht
  repeat' first
      | with_reducible assumption | intro _ | with_reducible apply keeps_ite | with_reducible apply keeps_whenever
      | with_reducible apply keeps_forSome | with_reducible apply State.bump_keeps | with_reducible apply keeps_forSome
      | with_reducible apply State.laneEnd_keeps

theorem execRillTile_keeps {s t : State} {a0 a1 a2} (ht : execRillTile a0 a1 a2 s = .next t) : Keeps s t := by
  unfold execRillTile at ht
  refine enter_keeps (Keeps.rfl' s) (fun x hx => ?_) _ _ t ht
  repeat' first
      | with_reducible assumption | intro _ | with_reducible apply keeps_ite | with_reducible apply keeps_whenever
      | with_reducible apply keeps_forSome | with_reducible apply keeps_whenever | with_reducible apply keeps_forSome
      | with_reducible apply State.modCmd_keeps | with_reducible apply State.finishNow_keeps | with_reducible apply State.accept_keeps

theorem execRillFetchStart_keeps {s t : State} {a0 a1} (ht : execRillFetchStart a0 a1 s = .next t) : Keeps s t := by
  unfold execRillFetchStart at ht
  refine enter_keeps (Keeps.rfl' s) (fun x hx => ?_) _ _ t ht
  repeat' first
      | with_reducible assumption | intro _ | with_reducible apply keeps_ite | with_reducible apply keeps_whenever
      | with_reducible apply keeps_forSome | with_reducible apply State.rillFetchStart_keeps

theorem execRillFetchReturn_keeps {s t : State} {a0 a1 a2 a3} (ht : execRillFetchReturn a0 a1 a2 a3 s = .next t) : Keeps s t := by
  unfold execRillFetchReturn at ht
  refine enter_keeps (Keeps.rfl' s) (fun x hx => ?_) _ _ t ht
  repeat' first
      | with_reducible assumption | intro _ | with_reducible apply keeps_ite | with_reducible apply keeps_whenever
      | with_reducible apply keeps_forSome | with_reducible apply State.bump_keeps | with_reducible apply keeps_whenever
      | with_reducible apply keeps_forSome | with_reducible apply State.setRill_keeps | with_reducible apply State.rillCancel_keeps
      | with_reducible apply State.rillFetched_keeps

theorem execRillTileStart_keeps {s t : State} {a0 a1 a2} (ht : execRillTileStart a0 a1 a2 s = .next t) : Keeps s t := by
  unfold execRillTileStart at ht
  refine enter_keeps (Keeps.rfl' s) (fun x hx => ?_) _ _ t ht
  repeat' first
      | with_reducible assumption | intro _ | with_reducible apply keeps_ite | with_reducible apply keeps_whenever
      | with_reducible apply keeps_forSome | with_reducible apply keeps_whenever | with_reducible apply keeps_forSome
      | with_reducible apply State.upsets_keeps | with_reducible apply State.rillStart_keeps

theorem execRillTileEnd_keeps {s t : State} {a0 a1 a2 a3} (ht : execRillTileEnd a0 a1 a2 a3 s = .next t) : Keeps s t := by
  unfold execRillTileEnd at ht
  refine enter_keeps (Keeps.rfl' s) (fun x hx => ?_) _ _ t ht
  repeat' first
      | with_reducible assumption | intro _ | with_reducible apply keeps_ite | with_reducible apply keeps_whenever
      | with_reducible apply keeps_forSome | with_reducible apply keeps_forSome | with_reducible apply State.rillEnd_keeps

theorem execVariantWrite_keeps {s t : State} {a0 a1} (ht : execVariantWrite a0 a1 s = .next t) : Keeps s t := by
  unfold execVariantWrite at ht
  refine enter_keeps (Keeps.rfl' s) (fun x hx => ?_) _ _ t ht
  repeat' first
      | with_reducible assumption | intro _ | with_reducible apply keeps_ite | with_reducible apply keeps_whenever
      | with_reducible apply keeps_forSome | with_reducible apply State.finishNow_keeps | with_reducible apply State.actH_keeps
      | with_reducible apply keeps_foldl | with_reducible apply keeps_foldl1 | with_reducible refine keeps_fst (by assumption) ?_
      | with_reducible refine keeps_snd (by assumption) ?_ | fail_if_no_progress with_reducible apply keeps_mk

theorem execCascadeForward_keeps {s t : State} {a0 a1} (ht : execCascadeForward a0 a1 s = .next t) : Keeps s t := by
  unfold execCascadeForward at ht
  refine enter_keeps (Keeps.rfl' s) (fun x hx => ?_) _ _ t ht
  repeat' first
      | with_reducible assumption | intro _ | with_reducible apply keeps_ite | with_reducible apply keeps_whenever
      | with_reducible apply keeps_forSome | with_reducible apply State.cascadeAccept_keeps

theorem execCascadeMerge_keeps {s t : State} {a0 a1} (ht : execCascadeMerge a0 a1 s = .next t) : Keeps s t := by
  unfold execCascadeMerge at ht
  refine enter_keeps (Keeps.rfl' s) (fun x hx => ?_) _ _ t ht
  repeat' first
      | with_reducible assumption | intro _ | with_reducible apply keeps_ite | with_reducible apply keeps_whenever
      | with_reducible apply keeps_forSome | with_reducible apply State.cascadeAccept_keeps

theorem execCascadeBackward_keeps {s t : State} {a0 a1} (ht : execCascadeBackward a0 a1 s = .next t) : Keeps s t := by
  unfold execCascadeBackward at ht
  refine enter_keeps (Keeps.rfl' s) (fun x hx => ?_) _ _ t ht
  repeat' first
      | with_reducible assumption | intro _ | with_reducible apply keeps_ite | with_reducible apply keeps_whenever
      | with_reducible apply keeps_forSome | with_reducible apply State.cascadeAccept_keeps

theorem execCascadeFetchStart_keeps {s t : State} {a0 a1} (ht : execCascadeFetchStart a0 a1 s = .next t) : Keeps s t := by
  unfold execCascadeFetchStart at ht
  refine enter_keeps (Keeps.rfl' s) (fun x hx => ?_) _ _ t ht
  repeat' first
      | with_reducible assumption | intro _ | with_reducible apply keeps_ite | with_reducible apply keeps_whenever
      | with_reducible apply keeps_forSome | with_reducible apply State.cascadeFetchStart_keeps

theorem execCascadeFetchReturn_keeps {s t : State} {a0 a1 a2 a3} (ht : execCascadeFetchReturn a0 a1 a2 a3 s = .next t) : Keeps s t := by
  unfold execCascadeFetchReturn at ht
  refine enter_keeps (Keeps.rfl' s) (fun x hx => ?_) _ _ t ht
  repeat' first
      | with_reducible assumption | intro _ | with_reducible apply keeps_ite | with_reducible apply keeps_whenever
      | with_reducible apply keeps_forSome | with_reducible apply State.bump_keeps | with_reducible apply keeps_whenever
      | with_reducible apply keeps_forSome | with_reducible apply State.setCascade_keeps | with_reducible apply State.cascadeCancel_keeps
      | with_reducible apply State.cascadeFetched_keeps

theorem execCascadeTileStart_keeps {s t : State} {a0 a1 a2 a3} (ht : execCascadeTileStart a0 a1 a2 a3 s = .next t) : Keeps s t := by
  unfold execCascadeTileStart at ht
  refine enter_keeps (Keeps.rfl' s) (fun x hx => ?_) _ _ t ht
  repeat' first
      | with_reducible assumption | intro _ | with_reducible apply keeps_ite | with_reducible apply keeps_whenever
      | with_reducible apply keeps_forSome | with_reducible apply keeps_whenever | with_reducible apply keeps_forSome
      | with_reducible apply State.upsets_keeps | with_reducible apply State.cascadeStart_keeps

theorem execCascadeTileEnd_keeps {s t : State} {a0 a1 a2 a3} (ht : execCascadeTileEnd a0 a1 a2 a3 s = .next t) : Keeps s t := by
  unfold execCascadeTileEnd at ht
  refine enter_keeps (Keeps.rfl' s) (fun x hx => ?_) _ _ t ht
  repeat' first
      | with_reducible assumption | intro _ | with_reducible apply keeps_ite | with_reducible apply keeps_whenever
      | with_reducible apply keeps_forSome | with_reducible apply keeps_forSome | with_reducible apply State.cascadeEnd_keeps

theorem execSessionCreate_keeps {s t : State} {a0} (ht : execSessionCreate a0 s = .next t) : Keeps s t := by
  unfold execSessionCreate at ht
  refine enter_keeps (Keeps.rfl' s) (fun x hx => ?_) _ _ t ht
  repeat' first
      | with_reducible assumption | intro _ | with_reducible apply keeps_ite | with_reducible apply keeps_whenever
      | with_reducible apply keeps_forSome | with_reducible apply State.serveRun_keeps | with_reducible apply Eng.create_keeps

theorem execSessionCancel_keeps {s t : State} {a0} (ht : execSessionCancel a0 s = .next t) : Keeps s t := by
  unfold execSessionCancel at ht
  refine enter_keeps (Keeps.rfl' s) (fun x hx => ?_) _ _ t ht
  repeat' first
      | with_reducible assumption | intro _ | with_reducible apply keeps_ite | with_reducible apply keeps_whenever
      | with_reducible apply keeps_forSome | with_reducible apply State.cancelOrPause_keeps

theorem execSessionPause_keeps {s t : State} {a0} (ht : execSessionPause a0 s = .next t) : Keeps s t := by
  unfold execSessionPause at ht
  refine enter_keeps (Keeps.rfl' s) (fun x hx => ?_) _ _ t ht
  repeat' first
      | with_reducible assumption | intro _ | with_reducible apply keeps_ite | with_reducible apply keeps_whenever
      | with_reducible apply keeps_forSome | with_reducible apply State.cancelOrPause_keeps

theorem execSessionRebuild_keeps {s t : State} {a0} (ht : execSessionRebuild a0 s = .next t) : Keeps s t := by
  unfold execSessionRebuild at ht
  refine enter_keeps (Keeps.rfl' s) (fun x hx => ?_) _ _ t ht
  repeat' first
      | with_reducible assumption | intro _ | with_reducible apply keeps_ite | with_reducible apply keeps_whenever
      | with_reducible apply keeps_forSome | with_reducible apply State.serveRun_keeps | with_reducible apply Eng.rebuild_keeps

theorem execSessionRelease_keeps {s t : State} {a0} (ht : execSessionRelease a0 s = .next t) : Keeps s t := by
  unfold execSessionRelease at ht
  refine enter_keeps (Keeps.rfl' s) (fun x hx => ?_) _ _ t ht
  repeat' first
      | with_reducible assumption | intro _ | with_reducible apply keeps_ite | with_reducible apply keeps_whenever
      | with_reducible apply keeps_forSome | with_reducible apply State.serveRun_keeps | with_reducible apply Eng.release_keeps

theorem execKvProvision_keeps {s t : State} {a0} (ht : execKvProvision a0 s = .next t) : Keeps s t := by
  unfold execKvProvision at ht
  refine enter_keeps (Keeps.rfl' s) (fun x hx => ?_) _ _ t ht
  repeat' first
      | with_reducible assumption | intro _ | with_reducible apply keeps_ite | with_reducible apply keeps_whenever
      | with_reducible apply keeps_forSome | with_reducible apply State.serveRun_keeps | with_reducible apply Eng.provision_keeps

theorem execKvReclaim_keeps {s t : State} {a0} (ht : execKvReclaim a0 s = .next t) : Keeps s t := by
  unfold execKvReclaim at ht
  refine enter_keeps (Keeps.rfl' s) (fun x hx => ?_) _ _ t ht
  repeat' first
      | with_reducible assumption | intro _ | with_reducible apply keeps_ite | with_reducible apply keeps_whenever
      | with_reducible apply keeps_forSome | with_reducible apply State.serveRun_keeps | with_reducible apply Eng.reclaim_keeps

theorem execKvReserve_keeps {s t : State} {a0} (ht : execKvReserve a0 s = .next t) : Keeps s t := by
  unfold execKvReserve at ht
  refine enter_keeps (Keeps.rfl' s) (fun x hx => ?_) _ _ t ht
  repeat' first
      | with_reducible assumption | intro _ | with_reducible apply keeps_ite | with_reducible apply keeps_whenever
      | with_reducible apply keeps_forSome | with_reducible apply State.serveRun_keeps | with_reducible apply Eng.reserve_keeps

theorem execKvAppend_keeps {s t : State} {a0 a1} (ht : execKvAppend a0 a1 s = .next t) : Keeps s t := by
  unfold execKvAppend at ht
  refine enter_keeps (Keeps.rfl' s) (fun x hx => ?_) _ _ t ht
  repeat' first
      | with_reducible assumption | intro _ | with_reducible apply keeps_ite | with_reducible apply keeps_whenever
      | with_reducible apply keeps_forSome | with_reducible apply keeps_whenever | with_reducible apply State.upsets_keeps
      | with_reducible apply State.serveRun_keeps | with_reducible apply Eng.append_keeps

theorem execPrefixSeal_keeps {s t : State} {a0} (ht : execPrefixSeal a0 s = .next t) : Keeps s t := by
  unfold execPrefixSeal at ht
  refine enter_keeps (Keeps.rfl' s) (fun x hx => ?_) _ _ t ht
  repeat' first
      | with_reducible assumption | intro _ | with_reducible apply keeps_ite | with_reducible apply keeps_whenever
      | with_reducible apply keeps_forSome | with_reducible apply State.serveRun_keeps | with_reducible apply Eng.seal_keeps

theorem execPrefixAttach_keeps {s t : State} {a0} (ht : execPrefixAttach a0 s = .next t) : Keeps s t := by
  unfold execPrefixAttach at ht
  refine enter_keeps (Keeps.rfl' s) (fun x hx => ?_) _ _ t ht
  repeat' first
      | with_reducible assumption | intro _ | with_reducible apply keeps_ite | with_reducible apply keeps_whenever
      | with_reducible apply keeps_forSome | with_reducible apply State.serveRun_keeps | with_reducible apply Eng.attach_keeps

theorem execPrefixDrop_keeps {s t : State} {a0} (ht : execPrefixDrop a0 s = .next t) : Keeps s t := by
  unfold execPrefixDrop at ht
  refine enter_keeps (Keeps.rfl' s) (fun x hx => ?_) _ _ t ht
  repeat' first
      | with_reducible assumption | intro _ | with_reducible apply keeps_ite | with_reducible apply keeps_whenever
      | with_reducible apply keeps_forSome | with_reducible apply State.serveRun_keeps | with_reducible apply Eng.dropPrefix_keeps

theorem execHandoff_keeps {s t : State} {a0} (ht : execHandoff a0 s = .next t) : Keeps s t := by
  unfold execHandoff at ht
  refine enter_keeps (Keeps.rfl' s) (fun x hx => ?_) _ _ t ht
  repeat' first
      | with_reducible assumption | intro _ | with_reducible apply keeps_ite | with_reducible apply keeps_whenever
      | with_reducible apply keeps_forSome | with_reducible apply State.serveAct_keeps | with_reducible apply State.handoff_keeps

theorem execHandoffArrival_keeps {s t : State} {a0 a1} (ht : execHandoffArrival a0 a1 s = .next t) : Keeps s t := by
  unfold execHandoffArrival at ht
  refine enter_keeps (Keeps.rfl' s) (fun x hx => ?_) _ _ t ht
  repeat' first
      | with_reducible assumption | intro _ | with_reducible apply keeps_ite | with_reducible apply keeps_whenever
      | with_reducible apply keeps_forSome | with_reducible apply State.bump_keeps | with_reducible apply keeps_whenever
      | with_reducible apply keeps_forSome | with_reducible apply State.handoffAct_keeps

theorem execHandoffTimeout_keeps {s t : State} {a0 a1} (ht : execHandoffTimeout a0 a1 s = .next t) : Keeps s t := by
  unfold execHandoffTimeout at ht
  refine enter_keeps (Keeps.rfl' s) (fun x hx => ?_) _ _ t ht
  repeat' first
      | with_reducible assumption | intro _ | with_reducible apply keeps_ite | with_reducible apply keeps_whenever
      | with_reducible apply keeps_forSome | with_reducible apply keeps_whenever | with_reducible apply keeps_forSome
      | with_reducible apply State.nondet_keeps | with_reducible apply State.finish_keeps

theorem execStepBegin_keeps {s t : State} {a0} (ht : execStepBegin a0 s = .next t) : Keeps s t := by
  unfold execStepBegin at ht
  refine enter_keeps (Keeps.rfl' s) (fun x hx => ?_) _ _ t ht
  repeat' first
      | with_reducible assumption | intro _ | with_reducible apply keeps_ite | with_reducible apply keeps_whenever
      | with_reducible apply keeps_forSome | with_reducible apply State.serveRun_keeps | with_reducible apply Eng.stepBegin_keeps

theorem execStepEnd_keeps {s t : State} {a0} (ht : execStepEnd a0 s = .next t) : Keeps s t := by
  unfold execStepEnd at ht
  refine enter_keeps (Keeps.rfl' s) (fun x hx => ?_) _ _ t ht
  repeat' first
      | with_reducible assumption | intro _ | with_reducible apply keeps_ite | with_reducible apply keeps_whenever
      | with_reducible apply keeps_forSome | with_reducible apply State.serveAct_keeps | with_reducible apply State.stepEnd_keeps

theorem execStepEndResume_keeps {s t : State} {a0 a1} (ht : execStepEndResume a0 a1 s = .next t) : Keeps s t := by
  unfold execStepEndResume at ht
  refine enter_keeps (Keeps.rfl' s) (fun x hx => ?_) _ _ t ht
  repeat' first
      | with_reducible assumption | intro _ | with_reducible apply keeps_ite | with_reducible apply keeps_whenever
      | with_reducible apply keeps_forSome | with_reducible apply State.stepResume_keeps

theorem execSpoutTask_keeps {s t : State} {a0 a1} (ht : execSpoutTask a0 a1 s = .next t) : Keeps s t := by
  unfold execSpoutTask at ht
  refine enter_keeps (Keeps.rfl' s) (fun x hx => ?_) _ _ t ht
  repeat' first
      | with_reducible assumption | intro _ | with_reducible apply keeps_ite | with_reducible apply keeps_whenever
      | with_reducible apply keeps_forSome | with_reducible apply keeps_whenever | with_reducible apply keeps_forSome
      | with_reducible apply State.modCmd_keeps | with_reducible apply State.finishNow_keeps

theorem execSpoutTaskStart_keeps {s t : State} {a0 a1} (ht : execSpoutTaskStart a0 a1 s = .next t) : Keeps s t := by
  unfold execSpoutTaskStart at ht
  refine enter_keeps (Keeps.rfl' s) (fun x hx => ?_) _ _ t ht
  repeat' first
      | with_reducible assumption | intro _ | with_reducible apply keeps_ite | with_reducible apply keeps_whenever
      | with_reducible apply keeps_forSome | with_reducible apply keeps_whenever | with_reducible apply keeps_forSome
      | with_reducible apply State.taskStart_keeps

theorem execSpoutInstruction_keeps {s t : State} {a0 a1 a2 a3} (ht : execSpoutInstruction a0 a1 a2 a3 s = .next t) : Keeps s t := by
  unfold execSpoutInstruction at ht
  refine enter_keeps (Keeps.rfl' s) (fun x hx => ?_) _ _ t ht
  repeat' first
      | with_reducible assumption | intro _ | with_reducible apply keeps_ite | with_reducible apply keeps_whenever
      | with_reducible apply keeps_forSome | with_reducible apply keeps_whenever | with_reducible apply State.upsets_keeps
      | with_reducible apply State.coreStep_keeps | with_reducible apply State.notePoison_keeps

theorem execSpoutEcall_keeps {s t : State} {a0 a1 a2} (ht : execSpoutEcall a0 a1 a2 s = .next t) : Keeps s t := by
  unfold execSpoutEcall at ht
  refine enter_keeps (Keeps.rfl' s) (fun x hx => ?_) _ _ t ht
  repeat' first
      | with_reducible assumption | intro _ | with_reducible apply keeps_ite | with_reducible apply keeps_whenever
      | with_reducible apply keeps_forSome | with_reducible apply State.wr_keeps | with_reducible apply State.coreEnd_keeps
      | with_reducible apply State.atOwn_keeps | with_reducible apply keeps_foldl | with_reducible apply keeps_foldl1
      | with_reducible refine keeps_fst (by assumption) ?_ | with_reducible refine keeps_snd (by assumption) ?_
      | fail_if_no_progress with_reducible apply keeps_mk | dsimp only | split

theorem execSpoutWatchdog_keeps {s t : State} {a0 a1} (ht : execSpoutWatchdog a0 a1 s = .next t) : Keeps s t := by
  unfold execSpoutWatchdog at ht
  refine enter_keeps (Keeps.rfl' s) (fun x hx => ?_) _ _ t ht
  repeat' first
      | with_reducible assumption | intro _ | with_reducible apply keeps_ite | with_reducible apply keeps_whenever
      | with_reducible apply keeps_forSome | with_reducible apply keeps_whenever | with_reducible apply keeps_forSome
      | with_reducible apply State.watchdog_keeps

theorem execWcClaim_keeps {s t : State} {a0 a1} (ht : execWcClaim a0 a1 s = .next t) : Keeps s t := by
  unfold execWcClaim at ht
  refine enter_keeps (Keeps.rfl' s) (fun x hx => ?_) _ _ t ht
  refine State.atCustom_keeps hx (fun y _ _ _ hy => ?_) _ _
  split
  · exact State.result_keeps (State.claim_keeps hy _ _ (by assumption)) _ _ _
  · exact State.modCore_keeps hy _ _

theorem execWcClaimResume_keeps {s t : State} {a0 a1} (ht : execWcClaimResume a0 a1 s = .next t) : Keeps s t := by
  unfold execWcClaimResume at ht
  refine enter_keeps (Keeps.rfl' s) (fun x hx => ?_) _ _ t ht
  refine keeps_forSome hx fun y _ hy => keeps_whenever hy fun z hz => ?_
  cases e : z.claim (x.ctxCore a1) with
  | none => exact hz
  | some r => exact State.result_keeps (State.modCore_keeps (State.claim_keeps hz _ r e) _ _) _ _ _

theorem execWcDone_keeps {s t : State} {a0 a1} (ht : execWcDone a0 a1 s = .next t) : Keeps s t := by
  unfold execWcDone at ht
  refine enter_keeps (Keeps.rfl' s) (fun x hx => ?_) _ _ t ht
  repeat' first
      | with_reducible assumption | intro _ | with_reducible apply keeps_ite | with_reducible apply keeps_whenever
      | with_reducible apply keeps_forSome | with_reducible apply State.atCustom_keeps | with_reducible apply State.result_keeps
      | with_reducible apply State.claimDone_keeps

theorem execSpoutSemSignal_keeps {s t : State} {a0 a1} (ht : execSpoutSemSignal a0 a1 s = .next t) : Keeps s t := by
  unfold execSpoutSemSignal at ht
  refine enter_keeps (Keeps.rfl' s) (fun x hx => ?_) _ _ t ht
  repeat' first
      | with_reducible assumption | intro _ | with_reducible apply keeps_ite | with_reducible apply keeps_whenever
      | with_reducible apply keeps_forSome | with_reducible apply State.semAdd_keeps | with_reducible apply State.trap_keeps
      | with_reducible apply State.atCustom_keeps | with_reducible apply State.result_keeps

theorem execSemWait_keeps {s t : State} {a0 a1} (ht : execSemWait a0 a1 s = .next t) : Keeps s t := by
  unfold execSemWait at ht
  refine enter_keeps (Keeps.rfl' s) (fun x hx => ?_) _ _ t ht
  repeat' first
      | with_reducible assumption | intro _ | with_reducible apply keeps_ite | with_reducible apply keeps_whenever
      | with_reducible apply keeps_forSome | with_reducible apply State.nondet_keeps | with_reducible apply State.trap_keeps
      | with_reducible apply State.atCustom_keeps | with_reducible apply State.result_keeps | with_reducible apply State.semTake_keeps
      | with_reducible apply State.noteRace_keeps | with_reducible apply State.block_keeps

theorem execSemWaitAcquire_keeps {s t : State} {a0 a1 a2} (ht : execSemWaitAcquire a0 a1 a2 s = .next t) : Keeps s t := by
  unfold execSemWaitAcquire at ht
  refine enter_keeps (Keeps.rfl' s) (fun x hx => ?_) _ _ t ht
  repeat' first
      | with_reducible assumption | intro _ | with_reducible apply keeps_ite | with_reducible apply keeps_whenever
      | with_reducible apply keeps_forSome | with_reducible apply keeps_whenever | with_reducible apply keeps_forSome
      | with_reducible apply State.result_keeps | with_reducible apply State.semTake_keeps | with_reducible apply State.noteRace_keeps
      | with_reducible apply State.unblock_keeps

theorem execSemWaitDeadline_keeps {s t : State} {a0 a1} (ht : execSemWaitDeadline a0 a1 s = .next t) : Keeps s t := by
  unfold execSemWaitDeadline at ht
  refine enter_keeps (Keeps.rfl' s) (fun x hx => ?_) _ _ t ht
  repeat' first
      | with_reducible assumption | intro _ | with_reducible apply keeps_ite | with_reducible apply keeps_whenever
      | with_reducible apply keeps_forSome | with_reducible apply keeps_whenever | with_reducible apply keeps_forSome
      | with_reducible apply State.nondet_keeps | with_reducible apply State.result_keeps | with_reducible apply State.unblock_keeps

theorem execSemTry_keeps {s t : State} {a0 a1} (ht : execSemTry a0 a1 s = .next t) : Keeps s t := by
  unfold execSemTry at ht
  refine enter_keeps (Keeps.rfl' s) (fun x hx => ?_) _ _ t ht
  repeat' first
      | with_reducible assumption | intro _ | with_reducible apply keeps_ite | with_reducible apply keeps_whenever
      | with_reducible apply keeps_forSome | with_reducible apply State.nondet_keeps | with_reducible apply State.trap_keeps
      | with_reducible apply State.atCustom_keeps | with_reducible apply State.result_keeps | with_reducible apply State.semTake_keeps

theorem execTileIssue_keeps {s t : State} {a0 a1 a2} (ht : execTileIssue a0 a1 a2 s = .next t) : Keeps s t := by
  unfold execTileIssue at ht
  refine enter_keeps (Keeps.rfl' s) (fun x hx => ?_) _ _ t ht
  repeat' first
      | with_reducible assumption | intro _ | with_reducible apply keeps_ite | with_reducible apply keeps_whenever
      | with_reducible apply keeps_forSome | with_reducible apply State.upsets_keeps | with_reducible apply State.trap_keeps
      | with_reducible apply State.atCustom_keeps | with_reducible apply State.result_keeps | with_reducible apply State.enqueueTile_keeps
      | with_reducible apply State.readTile_keeps | with_reducible apply keeps_foldl | with_reducible apply keeps_foldl1
      | with_reducible refine keeps_fst (by assumption) ?_ | with_reducible refine keeps_snd (by assumption) ?_
      | fail_if_no_progress with_reducible apply keeps_mk | dsimp only | split

theorem execSpoutAccessReturn_keeps {s t : State} {a0 a1} (ht : execSpoutAccessReturn a0 a1 s = .next t) : Keeps s t := by
  unfold execSpoutAccessReturn at ht
  refine enter_keeps (Keeps.rfl' s) (fun x hx => ?_) _ _ t ht
  repeat' first
      | with_reducible assumption | intro _ | with_reducible apply keeps_ite | with_reducible apply keeps_whenever
      | with_reducible apply keeps_forSome | with_reducible apply keeps_forSome | with_reducible apply State.accessReturn_keeps

theorem execDoorbell_keeps {s t : State} {a0 a1 a2 a3 a4} (ht : execDoorbell a0 a1 a2 a3 a4 s = .next t) : Keeps s t := by
  unfold execDoorbell at ht
  refine enter_keeps (Keeps.rfl' s) (fun x hx => ?_) _ _ t ht
  repeat' first
      | with_reducible assumption | intro _ | with_reducible apply keeps_ite | with_reducible apply keeps_whenever
      | with_reducible apply keeps_forSome | with_reducible apply State.doorbell_keeps

theorem execPacketRead_keeps {s t : State} {a0 a1 a2} (ht : execPacketRead a0 a1 a2 s = .next t) : Keeps s t := by
  unfold execPacketRead at ht
  refine enter_keeps (Keeps.rfl' s) (fun x hx => ?_) _ _ t ht
  repeat' first
      | with_reducible assumption | intro _ | with_reducible apply keeps_ite | with_reducible apply keeps_whenever
      | with_reducible apply keeps_forSome | with_reducible apply State.packetRead_keeps | with_reducible apply State.hostStores_keeps

theorem execPacketDispatch_keeps {s t : State} {a0} (ht : execPacketDispatch a0 s = .next t) : Keeps s t := by
  unfold execPacketDispatch at ht
  refine enter_keeps (Keeps.rfl' s) (fun x hx => ?_) _ _ t ht
  repeat' first
      | with_reducible assumption | intro _ | with_reducible apply keeps_ite | with_reducible apply keeps_whenever
      | with_reducible apply keeps_forSome | with_reducible apply State.dispatch_keeps | with_reducible apply State.autoWake_keeps
      | with_reducible apply State.noteStalls_keeps | with_reducible apply keeps_foldl | with_reducible apply keeps_foldl1
      | with_reducible refine keeps_fst (by assumption) ?_ | with_reducible refine keeps_snd (by assumption) ?_
      | fail_if_no_progress with_reducible apply keeps_mk | dsimp only | split

theorem execNop_keeps {s t : State} {a0 a1} (ht : execNop a0 a1 s = .next t) : Keeps s t := by
  unfold execNop at ht
  refine enter_keeps (Keeps.rfl' s) (fun x hx => ?_) _ _ t ht
  repeat' first
      | with_reducible assumption | intro _ | with_reducible apply keeps_ite | with_reducible apply keeps_whenever
      | with_reducible apply keeps_forSome | with_reducible apply State.finishNow_keeps | with_reducible apply State.actH_keeps

theorem execFence_keeps {s t : State} {a0 a1} (ht : execFence a0 a1 s = .next t) : Keeps s t := by
  unfold execFence at ht
  refine enter_keeps (Keeps.rfl' s) (fun x hx => ?_) _ _ t ht
  repeat' first
      | with_reducible assumption | intro _ | with_reducible apply keeps_ite | with_reducible apply keeps_whenever
      | with_reducible apply keeps_forSome | with_reducible apply State.actH_keeps | with_reducible apply State.startRunning_keeps

theorem execFenceComplete_keeps {s t : State} {a0 a1} (ht : execFenceComplete a0 a1 s = .next t) : Keeps s t := by
  unfold execFenceComplete at ht
  refine enter_keeps (Keeps.rfl' s) (fun x hx => ?_) _ _ t ht
  repeat' first
      | with_reducible assumption | intro _ | with_reducible apply keeps_ite | with_reducible apply keeps_whenever
      | with_reducible apply keeps_forSome | with_reducible apply keeps_whenever | with_reducible apply keeps_forSome
      | with_reducible apply State.endWait_keeps

theorem execWait_keeps {s t : State} {a0 a1} (ht : execWait a0 a1 s = .next t) : Keeps s t := by
  unfold execWait at ht
  refine enter_keeps (Keeps.rfl' s) (fun x hx => ?_) _ _ t ht
  repeat' first
      | with_reducible assumption | intro _ | with_reducible apply keeps_ite | with_reducible apply keeps_whenever
      | with_reducible apply keeps_forSome | with_reducible apply State.wr_keeps | with_reducible apply keeps_forSome
      | with_reducible apply State.finishNow_keeps | with_reducible apply State.actH_keeps | with_reducible apply State.startRunning_keeps
      | with_reducible apply State.joinSem_keeps | with_reducible apply State.waitMet_keeps

theorem execWaitSatisfied_keeps {s t : State} {a0 a1} (ht : execWaitSatisfied a0 a1 s = .next t) : Keeps s t := by
  unfold execWaitSatisfied at ht
  refine enter_keeps (Keeps.rfl' s) (fun x hx => ?_) _ _ t ht
  repeat' first
      | with_reducible assumption | intro _ | with_reducible apply keeps_ite | with_reducible apply keeps_whenever
      | with_reducible apply keeps_forSome | with_reducible apply State.bump_keeps | with_reducible apply keeps_whenever
      | with_reducible apply keeps_forSome | with_reducible apply State.waitMet_keeps

theorem execWaitTimeout_keeps {s t : State} {a0 a1} (ht : execWaitTimeout a0 a1 s = .next t) : Keeps s t := by
  unfold execWaitTimeout at ht
  refine enter_keeps (Keeps.rfl' s) (fun x hx => ?_) _ _ t ht
  repeat' first
      | with_reducible assumption | intro _ | with_reducible apply keeps_ite | with_reducible apply keeps_whenever
      | with_reducible apply keeps_forSome | with_reducible apply keeps_whenever | with_reducible apply keeps_forSome
      | with_reducible apply State.free_keeps | with_reducible apply State.nondet_keeps | with_reducible apply State.endWait_keeps

theorem execCounterAdd_keeps {s t : State} {a0 a1} (ht : execCounterAdd a0 a1 s = .next t) : Keeps s t := by
  unfold execCounterAdd at ht
  refine enter_keeps (Keeps.rfl' s) (fun x hx => ?_) _ _ t ht
  repeat' first
      | with_reducible assumption | intro _ | with_reducible apply keeps_ite | with_reducible apply keeps_whenever
      | with_reducible apply keeps_forSome | with_reducible apply keeps_setReg | with_reducible apply State.stepAdvance_keeps
      | with_reducible apply State.finishNow_keeps | with_reducible apply State.actH_keeps

theorem execSemSignal_keeps {s t : State} {a0 a1} (ht : execSemSignal a0 a1 s = .next t) : Keeps s t := by
  unfold execSemSignal at ht
  refine enter_keeps (Keeps.rfl' s) (fun x hx => ?_) _ _ t ht
  repeat' first
      | with_reducible assumption | intro _ | with_reducible apply keeps_ite | with_reducible apply keeps_whenever
      | with_reducible apply keeps_forSome | with_reducible apply State.modCmd_keeps | with_reducible apply State.semAdd_keeps
      | with_reducible apply State.finishNow_keeps | with_reducible apply State.actH_keeps

theorem execCopy_keeps {s t : State} {a0 a1 a2 a3 a4} (ht : execCopy a0 a1 a2 a3 a4 s = .next t) : Keeps s t := by
  unfold execCopy at ht
  refine enter_keeps (Keeps.rfl' s) (fun x hx => ?_) _ _ t ht
  repeat' first
      | with_reducible assumption | intro _ | with_reducible apply keeps_ite | with_reducible apply keeps_whenever
      | with_reducible apply keeps_forSome | with_reducible apply State.upsets_keeps | with_reducible apply State.hostStores_keeps
      | with_reducible apply State.copyAct_keeps

theorem execFill_keeps {s t : State} {a0 a1} (ht : execFill a0 a1 s = .next t) : Keeps s t := by
  unfold execFill at ht
  refine enter_keeps (Keeps.rfl' s) (fun x hx => ?_) _ _ t ht
  repeat' first
      | with_reducible assumption | intro _ | with_reducible apply keeps_ite | with_reducible apply keeps_whenever
      | with_reducible apply keeps_forSome | with_reducible apply State.copyAct_keeps

theorem execCopyComplete_keeps {s t : State} {a0 a1} (ht : execCopyComplete a0 a1 s = .next t) : Keeps s t := by
  unfold execCopyComplete at ht
  refine enter_keeps (Keeps.rfl' s) (fun x hx => ?_) _ _ t ht
  repeat' first
      | with_reducible assumption | intro _ | with_reducible apply keeps_ite | with_reducible apply keeps_whenever
      | with_reducible apply keeps_forSome | with_reducible apply keeps_whenever | with_reducible apply keeps_forSome
      | with_reducible apply State.copyEnd_keeps

theorem execCqTailWrite_keeps {s t : State} {a0 a1 a2} (ht : execCqTailWrite a0 a1 a2 s = .next t) : Keeps s t := by
  unfold execCqTailWrite at ht
  refine enter_keeps (Keeps.rfl' s) (fun x hx => ?_) _ _ t ht
  repeat' first
      | with_reducible assumption | intro _ | with_reducible apply keeps_ite | with_reducible apply keeps_whenever
      | with_reducible apply keeps_forSome | with_reducible apply State.cqTailWrite_keeps

theorem execRingEnable_keeps {s t : State} {a0 a1 a2} (ht : execRingEnable a0 a1 a2 s = .next t) : Keeps s t := by
  unfold execRingEnable at ht
  refine enter_keeps (Keeps.rfl' s) (fun x hx => ?_) _ _ t ht
  repeat' first
      | with_reducible assumption | intro _ | with_reducible apply keeps_ite | with_reducible apply keeps_whenever
      | with_reducible apply keeps_forSome | with_reducible apply State.ringCtrlWrite_keeps

theorem execRingResume_keeps {s t : State} {a0 a1 a2} (ht : execRingResume a0 a1 a2 s = .next t) : Keeps s t := by
  unfold execRingResume at ht
  refine enter_keeps (Keeps.rfl' s) (fun x hx => ?_) _ _ t ht
  repeat' first
      | with_reducible assumption | intro _ | with_reducible apply keeps_ite | with_reducible apply keeps_whenever
      | with_reducible apply keeps_forSome | with_reducible apply State.ringResume_keeps

theorem execSliceEnable_keeps {s t : State} {a0 a1 a2} (ht : execSliceEnable a0 a1 a2 s = .next t) : Keeps s t := by
  unfold execSliceEnable at ht
  refine enter_keeps (Keeps.rfl' s) (fun x hx => ?_) _ _ t ht
  repeat' first
      | with_reducible assumption | intro _ | with_reducible apply keeps_ite | with_reducible apply keeps_whenever
      | with_reducible apply keeps_forSome | with_reducible apply keeps_whenever | with_reducible apply State.sliceCtrlWrite_keeps

theorem execSliceDisable_keeps {s t : State} {a0 a1 a2} (ht : execSliceDisable a0 a1 a2 s = .next t) : Keeps s t := by
  unfold execSliceDisable at ht
  refine enter_keeps (Keeps.rfl' s) (fun x hx => ?_) _ _ t ht
  repeat' first
      | with_reducible assumption | intro _ | with_reducible apply keeps_ite | with_reducible apply keeps_whenever
      | with_reducible apply keeps_forSome | with_reducible apply keeps_whenever | with_reducible apply State.sliceCtrlWrite_keeps

theorem execHostRequestRefused_keeps {s t : State} {a0 a1 a2 a3} (ht : execHostRequestRefused a0 a1 a2 a3 s = .next t) : Keeps s t := by
  unfold execHostRequestRefused at ht
  refine enter_keeps (Keeps.rfl' s) (fun x hx => ?_) _ _ t ht
  repeat' first
      | with_reducible assumption | intro _ | with_reducible apply keeps_ite | with_reducible apply keeps_whenever
      | with_reducible apply keeps_forSome | with_reducible apply keeps_whenever | with_reducible apply State.refuseCommand_keeps
      | with_reducible apply State.refuseRead_keeps | with_reducible apply State.refuseReply_keeps | with_reducible apply keeps_foldl
      | with_reducible apply keeps_foldl1 | with_reducible refine keeps_fst (by assumption) ?_
      | with_reducible refine keeps_snd (by assumption) ?_ | fail_if_no_progress with_reducible apply keeps_mk | dsimp only | split

theorem execSliceFrozen_keeps {s t : State} {a0 a1} (ht : execSliceFrozen a0 a1 s = .next t) : Keeps s t := by
  unfold execSliceFrozen at ht
  refine enter_keeps (Keeps.rfl' s) (fun x hx => ?_) _ _ t ht
  repeat' first
      | with_reducible assumption | intro _ | with_reducible apply keeps_ite | with_reducible apply keeps_whenever
      | with_reducible apply keeps_forSome | with_reducible apply keeps_whenever | with_reducible apply State.setSliceState_keeps

theorem execKeyLoad_keeps {s t : State} {a0 a1 a2} (ht : execKeyLoad a0 a1 a2 s = .next t) : Keeps s t := by
  unfold execKeyLoad at ht
  refine enter_keeps (Keeps.rfl' s) (fun x hx => ?_) _ _ t ht
  repeat' first
      | with_reducible assumption | intro _ | with_reducible apply keeps_ite | with_reducible apply keeps_whenever
      | with_reducible apply keeps_forSome | with_reducible apply keeps_whenever | with_reducible apply State.keyCmdWrite_keeps

theorem execKeyErase_keeps {s t : State} {a0 a1 a2} (ht : execKeyErase a0 a1 a2 s = .next t) : Keeps s t := by
  unfold execKeyErase at ht
  refine enter_keeps (Keeps.rfl' s) (fun x hx => ?_) _ _ t ht
  repeat' first
      | with_reducible assumption | intro _ | with_reducible apply keeps_ite | with_reducible apply keeps_whenever
      | with_reducible apply keeps_forSome | with_reducible apply keeps_whenever | with_reducible apply State.keyCmdWrite_keeps

theorem execMemRangeWrite_keeps {s t : State} {a0 a1 a2 a3 a4} (ht : execMemRangeWrite a0 a1 a2 a3 a4 s = .next t) : Keeps s t := by
  unfold execMemRangeWrite at ht
  refine enter_keeps (Keeps.rfl' s) (fun x hx => ?_) _ _ t ht
  repeat' first
      | with_reducible assumption | intro _ | with_reducible apply keeps_ite | with_reducible apply keeps_whenever
      | with_reducible apply keeps_forSome | with_reducible apply State.rangeWrite_keeps

theorem execSliceBasinsWrite_keeps {s t : State} {a0 a1 a2} (ht : execSliceBasinsWrite a0 a1 a2 s = .next t) : Keeps s t := by
  unfold execSliceBasinsWrite at ht
  refine enter_keeps (Keeps.rfl' s) (fun x hx => ?_) _ _ t ht
  repeat' first
      | with_reducible assumption | intro _ | with_reducible apply keeps_ite | with_reducible apply keeps_whenever
      | with_reducible apply keeps_forSome | with_reducible apply State.basinsWrite_keeps

theorem execSliceReset_keeps {s t : State} {a0 a1 a2} (ht : execSliceReset a0 a1 a2 s = .next t) : Keeps s t := by
  unfold execSliceReset at ht
  refine enter_keeps (Keeps.rfl' s) (fun x hx => ?_) _ _ t ht
  repeat' first
      | with_reducible assumption | intro _ | with_reducible apply keeps_ite | with_reducible apply keeps_whenever
      | with_reducible apply keeps_forSome | with_reducible apply State.sliceCmdWrite_keeps

theorem execSliceResetDrained_keeps {s t : State} {a0 a1} (ht : execSliceResetDrained a0 a1 s = .next t) : Keeps s t := by
  unfold execSliceResetDrained at ht
  refine enter_keeps (Keeps.rfl' s) (fun x hx => ?_) _ _ t ht
  repeat' first
      | with_reducible assumption | intro _ | with_reducible apply keeps_ite | with_reducible apply keeps_whenever
      | with_reducible apply keeps_forSome | with_reducible apply keeps_whenever | with_reducible apply State.resetDrained_keeps

theorem execSliceResetComplete_keeps {s t : State} {a0 a1} (ht : execSliceResetComplete a0 a1 s = .next t) : Keeps s t := by
  unfold execSliceResetComplete at ht
  refine enter_keeps (Keeps.rfl' s) (fun x hx => ?_) _ _ t ht
  repeat' first
      | with_reducible assumption | intro _ | with_reducible apply keeps_ite | with_reducible apply keeps_whenever
      | with_reducible apply keeps_forSome | with_reducible apply keeps_whenever | with_reducible apply State.resetComplete_keeps

theorem execHandoverZeroingDone_keeps {s t : State} {a0 a1} (ht : execHandoverZeroingDone a0 a1 s = .next t) : Keeps s t := by
  unfold execHandoverZeroingDone at ht
  refine enter_keeps (Keeps.rfl' s) (fun x hx => ?_) _ _ t ht
  repeat' first
      | with_reducible assumption | intro _ | with_reducible apply keeps_ite | with_reducible apply keeps_whenever
      | with_reducible apply keeps_forSome | with_reducible apply keeps_whenever | with_reducible apply keeps_forSome
      | with_reducible apply State.zeroRegion_keeps | with_reducible apply State.endZero_keeps
      | with_reducible apply State.resetZeroed_keeps | with_reducible apply State.handoverZeroed_keeps | with_reducible apply keeps_foldl
      | with_reducible apply keeps_foldl1 | with_reducible refine keeps_fst (by assumption) ?_
      | with_reducible refine keeps_snd (by assumption) ?_ | fail_if_no_progress with_reducible apply keeps_mk | dsimp only | split

theorem execMarkerRefill_keeps {s t : State} {a0} (ht : execMarkerRefill a0 s = .next t) : Keeps s t := by
  unfold execMarkerRefill at ht
  refine enter_keeps (Keeps.rfl' s) (fun x hx => ?_) _ _ t ht
  repeat' first
      | with_reducible assumption | intro _ | with_reducible apply keeps_ite | with_reducible apply keeps_whenever
      | with_reducible apply keeps_forSome | with_reducible apply keeps_periodic | with_reducible apply keeps_each
      | with_reducible apply State.markerRefill_keeps | with_reducible apply State.remark_keeps

theorem execMarkerEnable_keeps {s t : State} {a0 a1 a2} (ht : execMarkerEnable a0 a1 a2 s = .next t) : Keeps s t := by
  unfold execMarkerEnable at ht
  refine enter_keeps (Keeps.rfl' s) (fun x hx => ?_) _ _ t ht
  repeat' first
      | with_reducible assumption | intro _ | with_reducible apply keeps_ite | with_reducible apply keeps_whenever
      | with_reducible apply keeps_forSome | with_reducible apply State.schedMarkWrite_keeps

theorem execWeightWrite_keeps {s t : State} {a0 a1 a2} (ht : execWeightWrite a0 a1 a2 s = .next t) : Keeps s t := by
  unfold execWeightWrite at ht
  refine enter_keeps (Keeps.rfl' s) (fun x hx => ?_) _ _ t ht
  repeat' first
      | with_reducible assumption | intro _ | with_reducible apply keeps_ite | with_reducible apply keeps_whenever
      | with_reducible apply keeps_forSome | with_reducible apply State.shareWrite_keeps

theorem execFixedShareWrite_keeps {s t : State} {a0 a1 a2} (ht : execFixedShareWrite a0 a1 a2 s = .next t) : Keeps s t := by
  unfold execFixedShareWrite at ht
  refine enter_keeps (Keeps.rfl' s) (fun x hx => ?_) _ _ t ht
  repeat' first
      | with_reducible assumption | intro _ | with_reducible apply keeps_ite | with_reducible apply keeps_whenever
      | with_reducible apply keeps_forSome | with_reducible apply State.shareWrite_keeps

theorem execYieldRequest_keeps {s t : State} {a0 a1} (ht : execYieldRequest a0 a1 s = .next t) : Keeps s t := by
  unfold execYieldRequest at ht
  refine enter_keeps (Keeps.rfl' s) (fun x hx => ?_) _ _ t ht
  repeat' first
      | with_reducible assumption | intro _ | with_reducible apply keeps_ite | with_reducible apply keeps_whenever
      | with_reducible apply keeps_forSome | with_reducible apply State.arbitrate_keeps

theorem execQuantumExpiry_keeps {s t : State} {a0 a1} (ht : execQuantumExpiry a0 a1 s = .next t) : Keeps s t := by
  unfold execQuantumExpiry at ht
  refine enter_keeps (Keeps.rfl' s) (fun x hx => ?_) _ _ t ht
  repeat' first
      | with_reducible assumption | intro _ | with_reducible apply keeps_ite | with_reducible apply keeps_whenever
      | with_reducible apply keeps_forSome | with_reducible apply State.arbitrate_keeps

theorem execYieldDrained_keeps {s t : State} {a0 a1} (ht : execYieldDrained a0 a1 s = .next t) : Keeps s t := by
  unfold execYieldDrained at ht
  refine enter_keeps (Keeps.rfl' s) (fun x hx => ?_) _ _ t ht
  repeat' first
      | with_reducible assumption | intro _ | with_reducible apply keeps_ite | with_reducible apply keeps_whenever
      | with_reducible apply keeps_forSome | with_reducible apply keeps_whenever | with_reducible apply keeps_forSome
      | with_reducible apply State.yieldDrained_keeps

theorem execSaveComplete_keeps {s t : State} {a0 a1 a2 a3 a4} (ht : execSaveComplete a0 a1 a2 a3 a4 s = .next t) : Keeps s t := by
  unfold execSaveComplete at ht
  refine enter_keeps (Keeps.rfl' s) (fun x hx => ?_) _ _ t ht
  repeat' first
      | with_reducible assumption | intro _ | with_reducible apply keeps_ite | with_reducible apply keeps_whenever
      | with_reducible apply keeps_forSome | with_reducible apply keeps_forSome | with_reducible apply State.upsets_keeps
      | with_reducible apply State.saveDone_keeps

theorem execRestoreComplete_keeps {s t : State} {a0 a1 a2} (ht : execRestoreComplete a0 a1 a2 s = .next t) : Keeps s t := by
  unfold execRestoreComplete at ht
  refine enter_keeps (Keeps.rfl' s) (fun x hx => ?_) _ _ t ht
  repeat' first
      | with_reducible assumption | intro _ | with_reducible apply keeps_ite | with_reducible apply keeps_whenever
      | with_reducible apply keeps_forSome | with_reducible apply keeps_forSome | with_reducible apply State.restoreDone_keeps

theorem execEffectiveTierUpdate_keeps {s t : State} {a0} (ht : execEffectiveTierUpdate a0 s = .next t) : Keeps s t := by
  unfold execEffectiveTierUpdate at ht
  refine enter_keeps (Keeps.rfl' s) (fun x hx => ?_) _ _ t ht
  repeat' first
      | with_reducible assumption | intro _ | with_reducible apply keeps_ite | with_reducible apply keeps_whenever
      | with_reducible apply keeps_forSome | with_reducible apply State.updateTiers_keeps

theorem execGateList_keeps {s t : State} {a0 a1 a2} (ht : execGateList a0 a1 a2 s = .next t) : Keeps s t := by
  unfold execGateList at ht
  refine enter_keeps (Keeps.rfl' s) (fun x hx => ?_) _ _ t ht
  repeat' first
      | with_reducible assumption | intro _ | with_reducible apply keeps_ite | with_reducible apply keeps_whenever
      | with_reducible apply keeps_forSome | with_reducible apply keeps_whenever | with_reducible apply State.actH_keeps
      | with_reducible apply State.gateListAct_keeps

theorem execGateListRemove_keeps {s t : State} {a0 a1} (ht : execGateListRemove a0 a1 s = .next t) : Keeps s t := by
  unfold execGateListRemove at ht
  refine enter_keeps (Keeps.rfl' s) (fun x hx => ?_) _ _ t ht
  repeat' first
      | with_reducible assumption | intro _ | with_reducible apply keeps_ite | with_reducible apply keeps_whenever
      | with_reducible apply keeps_forSome | with_reducible apply keeps_whenever | with_reducible apply State.actH_keeps
      | with_reducible apply State.gateListAct_keeps

theorem execGateListAct_keeps {s t : State} {a0 a1} (ht : execGateListAct a0 a1 s = .next t) : Keeps s t := by
  unfold execGateListAct at ht
  refine enter_keeps (Keeps.rfl' s) (fun x hx => ?_) _ _ t ht
  repeat' first
      | with_reducible assumption | intro _ | with_reducible apply keeps_ite | with_reducible apply keeps_whenever
      | with_reducible apply keeps_forSome | with_reducible apply State.wr_keeps | with_reducible apply keeps_whenever
      | with_reducible apply keeps_forSome | with_reducible apply State.setBasin_keeps | with_reducible apply State.showNextOpen_keeps
      | with_reducible apply State.showList_keeps

theorem execGuardBandBegin_keeps {s t : State} {a0 a1} (ht : execGuardBandBegin a0 a1 s = .next t) : Keeps s t := by
  unfold execGuardBandBegin at ht
  refine enter_keeps (Keeps.rfl' s) (fun x hx => ?_) _ _ t ht
  repeat' first
      | with_reducible assumption | intro _ | with_reducible apply keeps_ite | with_reducible apply keeps_whenever
      | with_reducible apply keeps_forSome | with_reducible apply keeps_whenever | with_reducible apply keeps_forSome
      | with_reducible apply State.guardBegin_keeps

theorem execWindowOpen_keeps {s t : State} {a0 a1} (ht : execWindowOpen a0 a1 s = .next t) : Keeps s t := by
  unfold execWindowOpen at ht
  refine enter_keeps (Keeps.rfl' s) (fun x hx => ?_) _ _ t ht
  repeat' first
      | with_reducible assumption | intro _ | with_reducible apply keeps_ite | with_reducible apply keeps_whenever
      | with_reducible apply keeps_forSome | with_reducible apply keeps_whenever | with_reducible apply keeps_forSome
      | with_reducible apply State.openWindow_keeps

theorem execWindowClose_keeps {s t : State} {a0 a1} (ht : execWindowClose a0 a1 s = .next t) : Keeps s t := by
  unfold execWindowClose at ht
  refine enter_keeps (Keeps.rfl' s) (fun x hx => ?_) _ _ t ht
  repeat' first
      | with_reducible assumption | intro _ | with_reducible apply keeps_ite | with_reducible apply keeps_whenever
      | with_reducible apply keeps_forSome | with_reducible apply State.wr_keeps | with_reducible apply State.bump_keeps
      | with_reducible apply keeps_whenever | with_reducible apply State.closeWindow_keeps

theorem execWindowExtendedClose_keeps {s t : State} {a0 a1} (ht : execWindowExtendedClose a0 a1 s = .next t) : Keeps s t := by
  unfold execWindowExtendedClose at ht
  refine enter_keeps (Keeps.rfl' s) (fun x hx => ?_) _ _ t ht
  repeat' first
      | with_reducible assumption | intro _ | with_reducible apply keeps_ite | with_reducible apply keeps_whenever
      | with_reducible apply keeps_forSome | with_reducible apply keeps_whenever | with_reducible apply State.closeWindow_keeps

theorem execCarrierEnable_keeps {s t : State} {a0 a1 a2} (ht : execCarrierEnable a0 a1 a2 s = .next t) : Keeps s t := by
  unfold execCarrierEnable at ht
  refine enter_keeps (Keeps.rfl' s) (fun x hx => ?_) _ _ t ht
  repeat' first
      | with_reducible assumption | intro _ | with_reducible apply keeps_ite | with_reducible apply keeps_whenever
      | with_reducible apply keeps_forSome | with_reducible apply State.carrierWrite_keeps

theorem execUplaneSection_keeps {s t : State} {a0 a1} (ht : execUplaneSection a0 a1 s = .next t) : Keeps s t := by
  unfold execUplaneSection at ht
  refine enter_keeps (Keeps.rfl' s) (fun x hx => ?_) _ _ t ht
  repeat' first
      | with_reducible assumption | intro _ | with_reducible apply keeps_ite | with_reducible apply keeps_whenever
      | with_reducible apply keeps_forSome | with_reducible apply State.intake_keeps

theorem execReceiveWindowClose_keeps {s t : State} {a0 a1 a2 a3} (ht : execReceiveWindowClose a0 a1 a2 a3 s = .next t) : Keeps s t := by
  unfold execReceiveWindowClose at ht
  refine enter_keeps (Keeps.rfl' s) (fun x hx => ?_) _ _ t ht
  repeat' first
      | with_reducible assumption | intro _ | with_reducible apply keeps_ite | with_reducible apply keeps_whenever
      | with_reducible apply keeps_forSome | with_reducible apply keeps_whenever | with_reducible apply State.windowClosed_keeps

theorem execDlSymbolEmission_keeps {s t : State} {a0 a1 a2 a3} (ht : execDlSymbolEmission a0 a1 a2 a3 s = .next t) : Keeps s t := by
  unfold execDlSymbolEmission at ht
  refine enter_keeps (Keeps.rfl' s) (fun x hx => ?_) _ _ t ht
  repeat' first
      | with_reducible assumption | intro _ | with_reducible apply keeps_ite | with_reducible apply keeps_whenever
      | with_reducible apply keeps_forSome | with_reducible apply keeps_whenever | with_reducible apply State.markSymbol_keeps
      | with_reducible apply State.emitSymbol_keeps

theorem execRadioReservedWrite_keeps {s t : State} {a0 a1} (ht : execRadioReservedWrite a0 a1 s = .next t) : Keeps s t := by
  unfold execRadioReservedWrite at ht
  refine enter_keeps (Keeps.rfl' s) (fun x hx => ?_) _ _ t ht
  repeat' first
      | with_reducible assumption | intro _ | with_reducible apply keeps_ite | with_reducible apply keeps_whenever
      | with_reducible apply keeps_forSome | with_reducible apply State.reservedWrite_keeps

theorem execRadioEnable_keeps {s t : State} {a0 a1} (ht : execRadioEnable a0 a1 s = .next t) : Keeps s t := by
  unfold execRadioEnable at ht
  refine enter_keeps (Keeps.rfl' s) (fun x hx => ?_) _ _ t ht
  repeat' first
      | with_reducible assumption | intro _ | with_reducible apply keeps_ite | with_reducible apply keeps_whenever
      | with_reducible apply keeps_forSome | with_reducible apply State.radioCtrlWrite_keeps

theorem execSlotPlan_keeps {s t : State} {a0 a1 a2} (ht : execSlotPlan a0 a1 a2 s = .next t) : Keeps s t := by
  unfold execSlotPlan at ht
  refine enter_keeps (Keeps.rfl' s) (fun x hx => ?_) _ _ t ht
  repeat' first
      | with_reducible assumption | intro _ | with_reducible apply keeps_ite | with_reducible apply keeps_whenever
      | with_reducible apply keeps_forSome | with_reducible apply State.actH_keeps | with_reducible apply State.slotPlanAct_keeps

theorem execLdpcDec_keeps {s t : State} {a0 a1 a2} (ht : execLdpcDec a0 a1 a2 s = .next t) : Keeps s t := by
  unfold execLdpcDec at ht
  refine enter_keeps (Keeps.rfl' s) (fun x hx => ?_) _ _ t ht
  repeat' first
      | with_reducible assumption | intro _ | with_reducible apply keeps_ite | with_reducible apply keeps_whenever
      | with_reducible apply keeps_forSome | with_reducible apply State.startWell_keeps

theorem execLdpcEnc_keeps {s t : State} {a0 a1 a2} (ht : execLdpcEnc a0 a1 a2 s = .next t) : Keeps s t := by
  unfold execLdpcEnc at ht
  refine enter_keeps (Keeps.rfl' s) (fun x hx => ?_) _ _ t ht
  repeat' first
      | with_reducible assumption | intro _ | with_reducible apply keeps_ite | with_reducible apply keeps_whenever
      | with_reducible apply keeps_forSome | with_reducible apply State.startWell_keeps

theorem execPolarDec_keeps {s t : State} {a0 a1 a2} (ht : execPolarDec a0 a1 a2 s = .next t) : Keeps s t := by
  unfold execPolarDec at ht
  refine enter_keeps (Keeps.rfl' s) (fun x hx => ?_) _ _ t ht
  repeat' first
      | with_reducible assumption | intro _ | with_reducible apply keeps_ite | with_reducible apply keeps_whenever
      | with_reducible apply keeps_forSome | with_reducible apply State.startWell_keeps

theorem execPolarEnc_keeps {s t : State} {a0 a1 a2} (ht : execPolarEnc a0 a1 a2 s = .next t) : Keeps s t := by
  unfold execPolarEnc at ht
  refine enter_keeps (Keeps.rfl' s) (fun x hx => ?_) _ _ t ht
  repeat' first
      | with_reducible assumption | intro _ | with_reducible apply keeps_ite | with_reducible apply keeps_whenever
      | with_reducible apply keeps_forSome | with_reducible apply State.startWell_keeps

theorem execDft_keeps {s t : State} {a0 a1 a2} (ht : execDft a0 a1 a2 s = .next t) : Keeps s t := by
  unfold execDft at ht
  refine enter_keeps (Keeps.rfl' s) (fun x hx => ?_) _ _ t ht
  repeat' first
      | with_reducible assumption | intro _ | with_reducible apply keeps_ite | with_reducible apply keeps_whenever
      | with_reducible apply keeps_forSome | with_reducible apply State.startWell_keeps

theorem execPrach_keeps {s t : State} {a0 a1 a2} (ht : execPrach a0 a1 a2 s = .next t) : Keeps s t := by
  unfold execPrach at ht
  refine enter_keeps (Keeps.rfl' s) (fun x hx => ?_) _ _ t ht
  repeat' first
      | with_reducible assumption | intro _ | with_reducible apply keeps_ite | with_reducible apply keeps_whenever
      | with_reducible apply keeps_forSome | with_reducible apply State.startWell_keeps

theorem execDmrsMeas_keeps {s t : State} {a0 a1 a2} (ht : execDmrsMeas a0 a1 a2 s = .next t) : Keeps s t := by
  unfold execDmrsMeas at ht
  refine enter_keeps (Keeps.rfl' s) (fun x hx => ?_) _ _ t ht
  repeat' first
      | with_reducible assumption | intro _ | with_reducible apply keeps_ite | with_reducible apply keeps_whenever
      | with_reducible apply keeps_forSome | with_reducible apply State.startWell_keeps

theorem execRadioJetOp_keeps {s t : State} {a0 a1 a2 a3} (ht : execRadioJetOp a0 a1 a2 a3 s = .next t) : Keeps s t := by
  unfold execRadioJetOp at ht
  refine enter_keeps (Keeps.rfl' s) (fun x hx => ?_) _ _ t ht
  repeat' first
      | with_reducible assumption | intro _ | with_reducible apply keeps_ite | with_reducible apply keeps_whenever
      | with_reducible apply keeps_forSome | with_reducible apply keeps_forSome | with_reducible apply State.upsets_keeps
      | with_reducible apply State.takeStart_keeps | with_reducible apply State.radioJetStart_keeps

theorem execRadioSpoutOp_keeps {s t : State} {a0 a1} (ht : execRadioSpoutOp a0 a1 s = .next t) : Keeps s t := by
  unfold execRadioSpoutOp at ht
  refine enter_keeps (Keeps.rfl' s) (fun x hx => ?_) _ _ t ht
  repeat' first
      | with_reducible assumption | intro _ | with_reducible apply keeps_ite | with_reducible apply keeps_whenever
      | with_reducible apply keeps_forSome | with_reducible apply keeps_whenever | with_reducible apply keeps_forSome
      | with_reducible apply State.takeStart_keeps | with_reducible apply State.radioSpoutStart_keeps

theorem execCplaneTx_keeps {s t : State} {a0 a1 a2} (ht : execCplaneTx a0 a1 a2 s = .next t) : Keeps s t := by
  unfold execCplaneTx at ht
  refine enter_keeps (Keeps.rfl' s) (fun x hx => ?_) _ _ t ht
  repeat' first
      | with_reducible assumption | intro _ | with_reducible apply keeps_ite | with_reducible apply keeps_whenever
      | with_reducible apply keeps_forSome | with_reducible apply keeps_forSome | with_reducible apply State.cplaneStart_keeps

theorem execSpoutBudgetStop_keeps {s t : State} {a0 a1} (ht : execSpoutBudgetStop a0 a1 s = .next t) : Keeps s t := by
  unfold execSpoutBudgetStop at ht
  refine enter_keeps (Keeps.rfl' s) (fun x hx => ?_) _ _ t ht
  repeat' first
      | with_reducible assumption | intro _ | with_reducible apply keeps_ite | with_reducible apply keeps_whenever
      | with_reducible apply keeps_forSome | with_reducible apply keeps_whenever | with_reducible apply keeps_forSome
      | with_reducible apply State.setBasin_keeps | with_reducible apply State.stopCores_keeps

theorem execRadioOpEnd_keeps {s t : State} {a0 a1 a2 a3 a4} (ht : execRadioOpEnd a0 a1 a2 a3 a4 s = .next t) : Keeps s t := by
  unfold execRadioOpEnd at ht
  refine enter_keeps (Keeps.rfl' s) (fun x hx => ?_) _ _ t ht
  refine keeps_forSome (State.upsets_keeps hx _) fun y v hy => keeps_whenever hy fun z hz => ?_
  cases e : z.opWrites v.1 a2 v.2 a4.bad a4.stalls with
  | none => exact hz
  | some r => exact State.opEnded_keeps (State.opWrites_keeps hz _ _ _ _ _ r e) _ _ _

theorem execSlotOverrun_keeps {s t : State} {a0 a1 a2} (ht : execSlotOverrun a0 a1 a2 s = .next t) : Keeps s t := by
  unfold execSlotOverrun at ht
  refine enter_keeps (Keeps.rfl' s) (fun x hx => ?_) _ _ t ht
  repeat' first
      | with_reducible assumption | intro _ | with_reducible apply keeps_ite | with_reducible apply keeps_whenever
      | with_reducible apply keeps_forSome | with_reducible apply keeps_whenever | with_reducible apply keeps_forSome
      | with_reducible apply State.modOp_keeps | with_reducible apply State.overrunOp_keeps
      | with_reducible apply State.planCheckEnd_keeps

theorem execRadioTakeover_keeps {s t : State} {a0 a1 a2} (ht : execRadioTakeover a0 a1 a2 s = .next t) : Keeps s t := by
  unfold execRadioTakeover at ht
  refine enter_keeps (Keeps.rfl' s) (fun x hx => ?_) _ _ t ht
  repeat' first
      | with_reducible assumption | intro _ | with_reducible apply keeps_ite | with_reducible apply keeps_whenever
      | with_reducible apply keeps_forSome | with_reducible apply keeps_whenever | with_reducible apply keeps_forSome
      | with_reducible apply State.takeBasin_keeps | with_reducible apply State.takeEngine_keeps

theorem execCellMigrateSource_keeps {s t : State} {a0 a1 a2} (ht : execCellMigrateSource a0 a1 a2 s = .next t) : Keeps s t := by
  unfold execCellMigrateSource at ht
  refine enter_keeps (Keeps.rfl' s) (fun x hx => ?_) _ _ t ht
  repeat' first
      | with_reducible assumption | intro _ | with_reducible apply keeps_ite | with_reducible apply keeps_whenever
      | with_reducible apply keeps_forSome | with_reducible apply State.migrateAct_keeps

theorem execCellMigrateDest_keeps {s t : State} {a0 a1 a2} (ht : execCellMigrateDest a0 a1 a2 s = .next t) : Keeps s t := by
  unfold execCellMigrateDest at ht
  refine enter_keeps (Keeps.rfl' s) (fun x hx => ?_) _ _ t ht
  repeat' first
      | with_reducible assumption | intro _ | with_reducible apply keeps_ite | with_reducible apply keeps_whenever
      | with_reducible apply keeps_forSome | with_reducible apply State.migrateAct_keeps

theorem execMigrationSwitch_keeps {s t : State} {a0 a1} (ht : execMigrationSwitch a0 a1 s = .next t) : Keeps s t := by
  unfold execMigrationSwitch at ht
  refine enter_keeps (Keeps.rfl' s) (fun x hx => ?_) _ _ t ht
  repeat' first
      | with_reducible assumption | intro _ | with_reducible apply keeps_ite | with_reducible apply keeps_whenever
      | with_reducible apply keeps_forSome | with_reducible apply keeps_whenever | with_reducible apply keeps_forSome
      | with_reducible apply State.migSwitch_keeps

theorem execMigrationSourceDone_keeps {s t : State} {a0 a1} (ht : execMigrationSourceDone a0 a1 s = .next t) : Keeps s t := by
  unfold execMigrationSourceDone at ht
  refine enter_keeps (Keeps.rfl' s) (fun x hx => ?_) _ _ t ht
  repeat' first
      | with_reducible assumption | intro _ | with_reducible apply keeps_ite | with_reducible apply keeps_whenever
      | with_reducible apply keeps_forSome | with_reducible apply State.wr_keeps | with_reducible apply keeps_whenever
      | with_reducible apply keeps_forSome | with_reducible apply State.finish_keeps | with_reducible apply keeps_foldl
      | with_reducible apply keeps_foldl1 | with_reducible refine keeps_fst (by assumption) ?_
      | with_reducible refine keeps_snd (by assumption) ?_ | fail_if_no_progress with_reducible apply keeps_mk

theorem execMigrationArrival_keeps {s t : State} {a0 a1} (ht : execMigrationArrival a0 a1 s = .next t) : Keeps s t := by
  unfold execMigrationArrival at ht
  refine enter_keeps (Keeps.rfl' s) (fun x hx => ?_) _ _ t ht
  repeat' first
      | with_reducible assumption | intro _ | with_reducible apply keeps_ite | with_reducible apply keeps_whenever
      | with_reducible apply keeps_forSome | with_reducible apply State.bump_keeps | with_reducible apply keeps_whenever
      | with_reducible apply keeps_forSome | with_reducible apply State.finish_keeps

theorem execMigrationTimeout_keeps {s t : State} {a0 a1} (ht : execMigrationTimeout a0 a1 s = .next t) : Keeps s t := by
  unfold execMigrationTimeout at ht
  refine enter_keeps (Keeps.rfl' s) (fun x hx => ?_) _ _ t ht
  repeat' first
      | with_reducible assumption | intro _ | with_reducible apply keeps_ite | with_reducible apply keeps_whenever
      | with_reducible apply keeps_forSome | with_reducible apply keeps_whenever | with_reducible apply keeps_forSome
      | with_reducible apply keeps_each | with_reducible apply State.devWrite_keeps | with_reducible apply State.finish_keeps

theorem execSyncRx_keeps {s t : State} {a0 a1} (ht : execSyncRx a0 a1 s = .next t) : Keeps s t := by
  unfold execSyncRx at ht
  refine enter_keeps (Keeps.rfl' s) (fun x hx => ?_) _ _ t ht
  repeat' first
      | with_reducible assumption | intro _ | with_reducible apply keeps_ite | with_reducible apply keeps_whenever
      | with_reducible apply keeps_forSome | with_reducible apply keeps_forSome | with_reducible apply keeps_each
      | with_reducible apply State.ptpUsed_keeps | with_reducible apply State.takeSync_keeps

theorem execFollowUpRx_keeps {s t : State} {a0 a1} (ht : execFollowUpRx a0 a1 s = .next t) : Keeps s t := by
  unfold execFollowUpRx at ht
  refine enter_keeps (Keeps.rfl' s) (fun x hx => ?_) _ _ t ht
  repeat' first
      | with_reducible assumption | intro _ | with_reducible apply keeps_ite | with_reducible apply keeps_whenever
      | with_reducible apply keeps_forSome | with_reducible apply keeps_forSome | with_reducible apply keeps_each
      | with_reducible apply State.ptpUsed_keeps | with_reducible apply State.takeFollowUp_keeps

theorem execDelayRespRx_keeps {s t : State} {a0 a1} (ht : execDelayRespRx a0 a1 s = .next t) : Keeps s t := by
  unfold execDelayRespRx at ht
  refine enter_keeps (Keeps.rfl' s) (fun x hx => ?_) _ _ t ht
  repeat' first
      | with_reducible assumption | intro _ | with_reducible apply keeps_ite | with_reducible apply keeps_whenever
      | with_reducible apply keeps_forSome | with_reducible apply keeps_forSome | with_reducible apply keeps_each
      | with_reducible apply State.ptpUsed_keeps | with_reducible apply State.takeDelayResp_keeps

theorem execDelayReqRx_keeps {s t : State} {a0 a1} (ht : execDelayReqRx a0 a1 s = .next t) : Keeps s t := by
  unfold execDelayReqRx at ht
  refine enter_keeps (Keeps.rfl' s) (fun x hx => ?_) _ _ t ht
  repeat' first
      | with_reducible assumption | intro _ | with_reducible apply keeps_ite | with_reducible apply keeps_whenever
      | with_reducible apply keeps_forSome | with_reducible apply keeps_forSome | with_reducible apply State.ptpUsed_keeps
      | with_reducible apply State.answerDelayReq_keeps

theorem execDelayReqTx_keeps {s t : State} {a0 a1} (ht : execDelayReqTx a0 a1 s = .next t) : Keeps s t := by
  unfold execDelayReqTx at ht
  refine enter_keeps (Keeps.rfl' s) (fun x hx => ?_) _ _ t ht
  repeat' first
      | with_reducible assumption | intro _ | with_reducible apply keeps_ite | with_reducible apply keeps_whenever
      | with_reducible apply keeps_forSome | with_reducible apply keeps_whenever | with_reducible apply State.sendDelayReq_keeps

theorem execMasterSyncTx_keeps {s t : State} {a0 a1} (ht : execMasterSyncTx a0 a1 s = .next t) : Keeps s t := by
  unfold execMasterSyncTx at ht
  refine enter_keeps (Keeps.rfl' s) (fun x hx => ?_) _ _ t ht
  repeat' first
      | with_reducible assumption | intro _ | with_reducible apply keeps_ite | with_reducible apply keeps_whenever
      | with_reducible apply keeps_forSome | with_reducible apply keeps_whenever | with_reducible apply State.sendSync_keeps

theorem execHoldoverEntry_keeps {s t : State} {a0} (ht : execHoldoverEntry a0 s = .next t) : Keeps s t := by
  unfold execHoldoverEntry at ht
  refine enter_keeps (Keeps.rfl' s) (fun x hx => ?_) _ _ t ht
  repeat' first
      | with_reducible assumption | intro _ | with_reducible apply keeps_ite | with_reducible apply keeps_whenever
      | with_reducible apply keeps_forSome | with_reducible apply keeps_whenever | with_reducible apply State.setTimeState_keeps
      | with_reducible apply State.setRate_keeps

theorem execFreeRunWrite_keeps {s t : State} {a0 a1} (ht : execFreeRunWrite a0 a1 s = .next t) : Keeps s t := by
  unfold execFreeRunWrite at ht
  refine enter_keeps (Keeps.rfl' s) (fun x hx => ?_) _ _ t ht
  repeat' first
      | with_reducible assumption | intro _ | with_reducible apply keeps_ite | with_reducible apply keeps_whenever
      | with_reducible apply keeps_forSome | with_reducible apply State.timeCtrlWrite_keeps

theorem execTrackSelWrite_keeps {s t : State} {a0 a1} (ht : execTrackSelWrite a0 a1 s = .next t) : Keeps s t := by
  unfold execTrackSelWrite at ht
  refine enter_keeps (Keeps.rfl' s) (fun x hx => ?_) _ _ t ht
  repeat' first
      | with_reducible assumption | intro _ | with_reducible apply keeps_ite | with_reducible apply keeps_whenever
      | with_reducible apply keeps_forSome | with_reducible apply State.timeCtrlWrite_keeps

theorem execSynceMeasure_keeps {s t : State} {a0 a1} (ht : execSynceMeasure a0 a1 s = .next t) : Keeps s t := by
  unfold execSynceMeasure at ht
  refine enter_keeps (Keeps.rfl' s) (fun x hx => ?_) _ _ t ht
  repeat' first
      | with_reducible assumption | intro _ | with_reducible apply keeps_ite | with_reducible apply keeps_whenever
      | with_reducible apply keeps_forSome | with_reducible apply keeps_whenever | with_reducible apply State.synceTake_keeps
      | with_reducible apply keeps_foldl | with_reducible apply keeps_foldl1 | with_reducible refine keeps_fst (by assumption) ?_
      | with_reducible refine keeps_snd (by assumption) ?_ | fail_if_no_progress with_reducible apply keeps_mk

theorem execSynceLoss_keeps {s t : State} {a0} (ht : execSynceLoss a0 s = .next t) : Keeps s t := by
  unfold execSynceLoss at ht
  refine enter_keeps (Keeps.rfl' s) (fun x hx => ?_) _ _ t ht
  repeat' first
      | with_reducible assumption | intro _ | with_reducible apply keeps_ite | with_reducible apply keeps_whenever
      | with_reducible apply keeps_forSome | with_reducible apply State.wr_keeps | with_reducible apply keeps_foldl
      | with_reducible apply keeps_foldl1 | with_reducible refine keeps_fst (by assumption) ?_
      | with_reducible refine keeps_snd (by assumption) ?_ | fail_if_no_progress with_reducible apply keeps_mk

theorem execOutputEnable_keeps {s t : State} {a0 a1 a2} (ht : execOutputEnable a0 a1 a2 s = .next t) : Keeps s t := by
  unfold execOutputEnable at ht
  refine enter_keeps (Keeps.rfl' s) (fun x hx => ?_) _ _ t ht
  repeat' first
      | with_reducible assumption | intro _ | with_reducible apply keeps_ite | with_reducible apply keeps_whenever
      | with_reducible apply keeps_forSome | with_reducible apply State.outCtrlWrite_keeps

theorem execOutputDisable_keeps {s t : State} {a0 a1 a2} (ht : execOutputDisable a0 a1 a2 s = .next t) : Keeps s t := by
  unfold execOutputDisable at ht
  refine enter_keeps (Keeps.rfl' s) (fun x hx => ?_) _ _ t ht
  repeat' first
      | with_reducible assumption | intro _ | with_reducible apply keeps_ite | with_reducible apply keeps_whenever
      | with_reducible apply keeps_forSome | with_reducible apply State.outCtrlWrite_keeps

theorem execOutputEdge_keeps {s t : State} {a0 a1} (ht : execOutputEdge a0 a1 s = .next t) : Keeps s t := by
  unfold execOutputEdge at ht
  refine enter_keeps (Keeps.rfl' s) (fun x hx => ?_) _ _ t ht
  repeat' first
      | with_reducible assumption | intro _ | with_reducible apply keeps_ite | with_reducible apply keeps_whenever
      | with_reducible apply keeps_forSome | with_reducible apply keeps_whenever | with_reducible apply State.pinEdge_keeps

theorem execCaptureEdge_keeps {s t : State} {a0 a1 a2} (ht : execCaptureEdge a0 a1 a2 s = .next t) : Keeps s t := by
  unfold execCaptureEdge at ht
  refine enter_keeps (Keeps.rfl' s) (fun x hx => ?_) _ _ t ht
  repeat' first
      | with_reducible assumption | intro _ | with_reducible apply keeps_ite | with_reducible apply keeps_whenever
      | with_reducible apply keeps_forSome | with_reducible apply State.captureEdge_keeps

theorem execCapMetaRead_keeps {s t : State} {a0 a1} (ht : execCapMetaRead a0 a1 s = .next t) : Keeps s t := by
  unfold execCapMetaRead at ht
  refine enter_keeps (Keeps.rfl' s) (fun x hx => ?_) _ _ t ht
  repeat' first
      | with_reducible assumption | intro _ | with_reducible apply keeps_ite | with_reducible apply keeps_whenever
      | with_reducible apply keeps_forSome | with_reducible apply State.capMetaRead_keeps

theorem execLaunchArm_keeps {s t : State} {a0 a1 a2} (ht : execLaunchArm a0 a1 a2 s = .next t) : Keeps s t := by
  unfold execLaunchArm at ht
  refine enter_keeps (Keeps.rfl' s) (fun x hx => ?_) _ _ t ht
  repeat' first
      | with_reducible assumption | intro _ | with_reducible apply keeps_ite | with_reducible apply keeps_whenever
      | with_reducible apply keeps_forSome | with_reducible apply State.launchCtrlWrite_keeps

theorem execLaunchDisarm_keeps {s t : State} {a0 a1 a2} (ht : execLaunchDisarm a0 a1 a2 s = .next t) : Keeps s t := by
  unfold execLaunchDisarm at ht
  refine enter_keeps (Keeps.rfl' s) (fun x hx => ?_) _ _ t ht
  repeat' first
      | with_reducible assumption | intro _ | with_reducible apply keeps_ite | with_reducible apply keeps_whenever
      | with_reducible apply keeps_forSome | with_reducible apply State.launchCtrlWrite_keeps

theorem execLaunchFire_keeps {s t : State} {a0 a1} (ht : execLaunchFire a0 a1 s = .next t) : Keeps s t := by
  unfold execLaunchFire at ht
  refine enter_keeps (Keeps.rfl' s) (fun x hx => ?_) _ _ t ht
  repeat' first
      | with_reducible assumption | intro _ | with_reducible apply keeps_ite | with_reducible apply keeps_whenever
      | with_reducible apply keeps_forSome | with_reducible apply keeps_setReg | with_reducible apply State.wr_keeps
      | with_reducible apply State.raise_keeps | with_reducible apply keeps_whenever | with_reducible apply keeps_foldl
      | with_reducible apply keeps_foldl1 | with_reducible refine keeps_fst (by assumption) ?_
      | with_reducible refine keeps_snd (by assumption) ?_ | fail_if_no_progress with_reducible apply keeps_mk

theorem execEthFrameRx_keeps {s t : State} {a0 a1 a2 a3} (ht : execEthFrameRx a0 a1 a2 a3 s = .next t) : Keeps s t := by
  unfold execEthFrameRx at ht
  refine enter_keeps (Keeps.rfl' s) (fun x hx => ?_) _ _ t ht
  repeat' first
      | with_reducible assumption | intro _ | with_reducible apply keeps_ite | with_reducible apply keeps_whenever
      | with_reducible apply keeps_forSome | with_reducible apply State.bump_keeps | with_reducible apply keeps_whenever
      | with_reducible apply State.classify_keeps

theorem execEthLinkChange_keeps {s t : State} {a0 a1 a2 a3} (ht : execEthLinkChange a0 a1 a2 a3 s = .next t) : Keeps s t := by
  unfold execEthLinkChange at ht
  refine enter_keeps (Keeps.rfl' s) (fun x hx => ?_) _ _ t ht
  repeat' first
      | with_reducible assumption | intro _ | with_reducible apply keeps_ite | with_reducible apply keeps_whenever
      | with_reducible apply keeps_forSome | with_reducible apply State.wr_keeps

theorem execForwardEnqueue_keeps {s t : State} {a0 a1} (ht : execForwardEnqueue a0 a1 s = .next t) : Keeps s t := by
  unfold execForwardEnqueue at ht
  refine enter_keeps (Keeps.rfl' s) (fun x hx => ?_) _ _ t ht
  repeat' first
      | with_reducible assumption | intro _ | with_reducible apply keeps_ite | with_reducible apply keeps_whenever
      | with_reducible apply keeps_forSome | with_reducible apply keeps_whenever | with_reducible apply keeps_forSome
      | with_reducible apply State.setEth_keeps | with_reducible apply State.pump_keeps | with_reducible apply State.reach_keeps

theorem execEgressTransmit_keeps {s t : State} {a0 a1} (ht : execEgressTransmit a0 a1 s = .next t) : Keeps s t := by
  unfold execEgressTransmit at ht
  refine enter_keeps (Keeps.rfl' s) (fun x hx => ?_) _ _ t ht
  repeat' first
      | with_reducible assumption | intro _ | with_reducible apply keeps_ite | with_reducible apply keeps_whenever
      | with_reducible apply keeps_forSome | with_reducible apply keeps_whenever | with_reducible apply keeps_forSome
      | with_reducible apply State.pump_keeps | with_reducible apply State.transmit_keeps

theorem execEthMarkerRefill_keeps {s t : State} {a0} (ht : execEthMarkerRefill a0 s = .next t) : Keeps s t := by
  unfold execEthMarkerRefill at ht
  refine enter_keeps (Keeps.rfl' s) (fun x hx => ?_) _ _ t ht
  repeat' first
      | with_reducible assumption | intro _ | with_reducible apply keeps_ite | with_reducible apply keeps_whenever
      | with_reducible apply keeps_forSome | with_reducible apply keeps_periodic | with_reducible apply keeps_each
      | with_reducible apply State.tcRefill_keeps

theorem execGclArm_keeps {s t : State} {a0 a1 a2} (ht : execGclArm a0 a1 a2 s = .next t) : Keeps s t := by
  unfold execGclArm at ht
  refine enter_keeps (Keeps.rfl' s) (fun x hx => ?_) _ _ t ht
  repeat' first
      | with_reducible assumption | intro _ | with_reducible apply keeps_ite | with_reducible apply keeps_whenever
      | with_reducible apply keeps_forSome | with_reducible apply State.gclActWrite_keeps

theorem execGclSwitch_keeps {s t : State} {a0 a1} (ht : execGclSwitch a0 a1 s = .next t) : Keeps s t := by
  unfold execGclSwitch at ht
  refine enter_keeps (Keeps.rfl' s) (fun x hx => ?_) _ _ t ht
  repeat' first
      | with_reducible assumption | intro _ | with_reducible apply keeps_ite | with_reducible apply keeps_whenever
      | with_reducible apply keeps_forSome | with_reducible apply State.wr_keeps | with_reducible apply keeps_whenever
      | with_reducible apply keeps_forSome | with_reducible apply State.setEth_keeps

theorem execMgmtTxEntry_keeps {s t : State} {a0} (ht : execMgmtTxEntry a0 s = .next t) : Keeps s t := by
  unfold execMgmtTxEntry at ht
  refine enter_keeps (Keeps.rfl' s) (fun x hx => ?_) _ _ t ht
  repeat' first
      | with_reducible assumption | intro _ | with_reducible apply keeps_ite | with_reducible apply keeps_whenever
      | with_reducible apply keeps_forSome | with_reducible apply keeps_whenever | with_reducible apply State.mtxEntry_keeps

theorem execMgmtTxNotBefore_keeps {s t : State} {a0} (ht : execMgmtTxNotBefore a0 s = .next t) : Keeps s t := by
  unfold execMgmtTxNotBefore at ht
  refine enter_keeps (Keeps.rfl' s) (fun x hx => ?_) _ _ t ht
  repeat' first
      | with_reducible assumption | intro _ | with_reducible apply keeps_ite | with_reducible apply keeps_whenever
      | with_reducible apply keeps_forSome | with_reducible apply keeps_whenever | with_reducible apply keeps_forSome
      | with_reducible apply State.pump_keeps | with_reducible apply State.mtxRelease_keeps

theorem execFlitReplay_keeps {s t : State} {a0 a1} (ht : execFlitReplay a0 a1 s = .next t) : Keeps s t := by
  unfold execFlitReplay at ht
  refine enter_keeps (Keeps.rfl' s) (fun x hx => ?_) _ _ t ht
  repeat' first
      | with_reducible assumption | intro _ | with_reducible apply keeps_ite | with_reducible apply keeps_whenever
      | with_reducible apply keeps_forSome | with_reducible apply State.bump_keeps | with_reducible apply keeps_whenever
      | with_reducible apply State.reportLow_keeps

theorem execAqdLinkDown_keeps {s t : State} {a0 a1} (ht : execAqdLinkDown a0 a1 s = .next t) : Keeps s t := by
  unfold execAqdLinkDown at ht
  refine enter_keeps (Keeps.rfl' s) (fun x hx => ?_) _ _ t ht
  repeat' first
      | with_reducible assumption | intro _ | with_reducible apply keeps_ite | with_reducible apply keeps_whenever
      | with_reducible apply keeps_forSome | with_reducible apply State.wr_keeps | with_reducible apply State.showLanes_keeps

theorem execAqdLinkUp_keeps {s t : State} {a0 a1 a2 a3 a4} (ht : execAqdLinkUp a0 a1 a2 a3 a4 s = .next t) : Keeps s t := by
  unfold execAqdLinkUp at ht
  refine enter_keeps (Keeps.rfl' s) (fun x hx => ?_) _ _ t ht
  repeat' first
      | with_reducible assumption | intro _ | with_reducible apply keeps_ite | with_reducible apply keeps_whenever
      | with_reducible apply keeps_forSome | with_reducible apply State.wr_keeps | with_reducible apply keeps_whenever
      | with_reducible apply State.reportLow_keeps | with_reducible apply State.watchRoutes_keeps

theorem execAqdTrainTimeout_keeps {s t : State} {a0 a1 a2} (ht : execAqdTrainTimeout a0 a1 a2 s = .next t) : Keeps s t := by
  unfold execAqdTrainTimeout at ht
  refine enter_keeps (Keeps.rfl' s) (fun x hx => ?_) _ _ t ht
  repeat' first
      | with_reducible assumption | intro _ | with_reducible apply keeps_ite | with_reducible apply keeps_whenever
      | with_reducible apply keeps_forSome | with_reducible apply keeps_whenever | with_reducible apply State.reportLow_keeps
      | with_reducible apply keeps_each

theorem execAqdRd_keeps {s t : State} {a0 a1 a2} (ht : execAqdRd a0 a1 a2 s = .next t) : Keeps s t := by
  unfold execAqdRd at ht
  refine enter_keeps (Keeps.rfl' s) (fun x hx => ?_) _ _ t ht
  repeat' first
      | with_reducible assumption | intro _ | with_reducible apply keeps_ite | with_reducible apply keeps_whenever
      | with_reducible apply keeps_forSome | with_reducible apply State.arrive_keeps

theorem execAqdWr_keeps {s t : State} {a0 a1} (ht : execAqdWr a0 a1 s = .next t) : Keeps s t := by
  unfold execAqdWr at ht
  refine enter_keeps (Keeps.rfl' s) (fun x hx => ?_) _ _ t ht
  repeat' first
      | with_reducible assumption | intro _ | with_reducible apply keeps_ite | with_reducible apply keeps_whenever
      | with_reducible apply keeps_forSome | with_reducible apply State.arrive_keeps

theorem execAqdBw_keeps {s t : State} {a0 a1} (ht : execAqdBw a0 a1 s = .next t) : Keeps s t := by
  unfold execAqdBw at ht
  refine enter_keeps (Keeps.rfl' s) (fun x hx => ?_) _ _ t ht
  repeat' first
      | with_reducible assumption | intro _ | with_reducible apply keeps_ite | with_reducible apply keeps_whenever
      | with_reducible apply keeps_forSome | with_reducible apply State.arrive_keeps

theorem execAqdAt_keeps {s t : State} {a0 a1} (ht : execAqdAt a0 a1 s = .next t) : Keeps s t := by
  unfold execAqdAt at ht
  refine enter_keeps (Keeps.rfl' s) (fun x hx => ?_) _ _ t ht
  repeat' first
      | with_reducible assumption | intro _ | with_reducible apply keeps_ite | with_reducible apply keeps_whenever
      | with_reducible apply keeps_forSome | with_reducible apply State.arrive_keeps

theorem execAqdBump_keeps {s t : State} {a0 a1} (ht : execAqdBump a0 a1 s = .next t) : Keeps s t := by
  unfold execAqdBump at ht
  refine enter_keeps (Keeps.rfl' s) (fun x hx => ?_) _ _ t ht
  repeat' first
      | with_reducible assumption | intro _ | with_reducible apply keeps_ite | with_reducible apply keeps_whenever
      | with_reducible apply keeps_forSome | with_reducible apply State.arrive_keeps

theorem execAqdQuery_keeps {s t : State} {a0 a1} (ht : execAqdQuery a0 a1 s = .next t) : Keeps s t := by
  unfold execAqdQuery at ht
  refine enter_keeps (Keeps.rfl' s) (fun x hx => ?_) _ _ t ht
  repeat' first
      | with_reducible assumption | intro _ | with_reducible apply keeps_ite | with_reducible apply keeps_whenever
      | with_reducible apply keeps_forSome | with_reducible apply State.arrive_keeps

theorem execHomeLineUpdate_keeps {s t : State} {a0 a1 a2} (ht : execHomeLineUpdate a0 a1 a2 s = .next t) : Keeps s t := by
  unfold execHomeLineUpdate at ht
  refine enter_keeps (Keeps.rfl' s) (fun x hx => ?_) _ _ t ht
  repeat' first
      | with_reducible assumption | intro _ | with_reducible apply keeps_ite | with_reducible apply keeps_whenever
      | with_reducible apply keeps_forSome | with_reducible apply keeps_whenever | with_reducible apply State.lineUpdate_keeps
      | with_reducible apply State.serveInput_keeps

theorem execAqdReply_keeps {s t : State} {a0 a1} (ht : execAqdReply a0 a1 s = .next t) : Keeps s t := by
  unfold execAqdReply at ht
  refine enter_keeps (Keeps.rfl' s) (fun x hx => ?_) _ _ t ht
  repeat' first
      | with_reducible assumption | intro _ | with_reducible apply keeps_ite | with_reducible apply keeps_whenever
      | with_reducible apply keeps_forSome | with_reducible apply State.replyTaken_keeps | with_reducible apply keeps_foldl
      | with_reducible apply keeps_foldl1 | with_reducible refine keeps_fst (by assumption) ?_
      | with_reducible refine keeps_snd (by assumption) ?_ | fail_if_no_progress with_reducible apply keeps_mk | dsimp only | split

theorem execRequestExpiry_keeps {s t : State} {a0 a1 a2} (ht : execRequestExpiry a0 a1 a2 s = .next t) : Keeps s t := by
  unfold execRequestExpiry at ht
  refine enter_keeps (Keeps.rfl' s) (fun x hx => ?_) _ _ t ht
  repeat' first
      | with_reducible assumption | intro _ | with_reducible apply keeps_ite | with_reducible apply keeps_whenever
      | with_reducible apply keeps_forSome | with_reducible apply keeps_whenever | with_reducible apply keeps_forSome
      | with_reducible apply State.homeExpire_keeps | with_reducible apply State.inputExpire_keeps
      | with_reducible apply State.portExpire_keeps

theorem execSenderWaitClose_keeps {s t : State} {a0 a1} (ht : execSenderWaitClose a0 a1 s = .next t) : Keeps s t := by
  unfold execSenderWaitClose at ht
  refine enter_keeps (Keeps.rfl' s) (fun x hx => ?_) _ _ t ht
  repeat' first
      | with_reducible assumption | intro _ | with_reducible apply keeps_ite | with_reducible apply keeps_whenever
      | with_reducible apply keeps_forSome | with_reducible apply keeps_whenever | with_reducible apply keeps_forSome
      | with_reducible apply State.waitClosed_keeps | with_reducible apply State.askAgain_keeps

theorem execAqdRetry_keeps {s t : State} {a0 a1} (ht : execAqdRetry a0 a1 s = .next t) : Keeps s t := by
  unfold execAqdRetry at ht
  refine enter_keeps (Keeps.rfl' s) (fun x hx => ?_) _ _ t ht
  repeat' first
      | with_reducible assumption | intro _ | with_reducible apply keeps_ite | with_reducible apply keeps_whenever
      | with_reducible apply keeps_forSome | with_reducible apply State.bump_keeps | with_reducible apply keeps_whenever
      | with_reducible apply keeps_forSome | with_reducible apply State.chargeAqd_keeps | with_reducible apply State.portTx_keeps
      | with_reducible apply State.modSent_keeps

theorem execCreditGrant_keeps {s t : State} {a0 a1} (ht : execCreditGrant a0 a1 s = .next t) : Keeps s t := by
  unfold execCreditGrant at ht
  refine enter_keeps (Keeps.rfl' s) (fun x hx => ?_) _ _ t ht
  repeat' first
      | with_reducible assumption | intro _ | with_reducible apply keeps_ite | with_reducible apply keeps_whenever
      | with_reducible apply keeps_forSome | with_reducible apply keeps_whenever | with_reducible apply keeps_forSome
      | with_reducible apply State.aqdSendNow_keeps | with_reducible apply State.reqDone_keeps
      | with_reducible apply State.sendQuery_keeps | with_reducible apply keeps_foldl | with_reducible apply keeps_foldl1
      | with_reducible refine keeps_fst (by assumption) ?_ | with_reducible refine keeps_snd (by assumption) ?_
      | fail_if_no_progress with_reducible apply keeps_mk | dsimp only | split

theorem execAqdAtomic_keeps {s t : State} {a0 a1} (ht : execAqdAtomic a0 a1 s = .next t) : Keeps s t := by
  unfold execAqdAtomic at ht
  refine enter_keeps (Keeps.rfl' s) (fun x hx => ?_) _ _ t ht
  repeat' first
      | with_reducible assumption | intro _ | with_reducible apply keeps_ite | with_reducible apply keeps_whenever
      | with_reducible apply keeps_forSome | with_reducible apply keeps_forSome | with_reducible apply State.aqdSend_keeps
      | with_reducible apply State.finish_keeps | with_reducible apply State.finishNow_keeps | with_reducible apply State.actH_keeps
      | with_reducible apply State.startRunning_keeps | with_reducible apply keeps_foldl | with_reducible apply keeps_foldl1
      | with_reducible refine keeps_fst (by assumption) ?_ | with_reducible refine keeps_snd (by assumption) ?_
      | fail_if_no_progress with_reducible apply keeps_mk | dsimp only | split

theorem execCopyAsync_keeps {s t : State} {a0 a1 a2 a3} (ht : execCopyAsync a0 a1 a2 a3 s = .next t) : Keeps s t := by
  unfold execCopyAsync at ht
  refine enter_keeps (Keeps.rfl' s) (fun x hx => ?_) _ _ t ht
  repeat' first
      | with_reducible assumption | intro _ | with_reducible apply keeps_ite | with_reducible apply keeps_whenever
      | with_reducible apply keeps_forSome | with_reducible apply State.upsets_keeps | with_reducible apply State.finishNow_keeps
      | with_reducible apply State.actH_keeps | with_reducible apply State.copyAsyncStart_keeps

theorem execAqdEnable_keeps {s t : State} {a0 a1} (ht : execAqdEnable a0 a1 s = .next t) : Keeps s t := by
  unfold execAqdEnable at ht
  refine enter_keeps (Keeps.rfl' s) (fun x hx => ?_) _ _ t ht
  repeat' first
      | with_reducible assumption | intro _ | with_reducible apply keeps_ite | with_reducible apply keeps_whenever
      | with_reducible apply keeps_forSome | with_reducible apply State.aqdCtrlWrite_keeps

theorem execArrivalCounterWrite_keeps {s t : State} {a0 a1 a2} (ht : execArrivalCounterWrite a0 a1 a2 s = .next t) : Keeps s t := by
  unfold execArrivalCounterWrite at ht
  refine enter_keeps (Keeps.rfl' s) (fun x hx => ?_) _ _ t ht
  repeat' first
      | with_reducible assumption | intro _ | with_reducible apply keeps_ite | with_reducible apply keeps_whenever
      | with_reducible apply keeps_forSome | with_reducible apply State.arrivalWrite_keeps

theorem execShadowExport_keeps {s t : State} {a0 a1} (ht : execShadowExport a0 a1 s = .next t) : Keeps s t := by
  unfold execShadowExport at ht
  refine enter_keeps (Keeps.rfl' s) (fun x hx => ?_) _ _ t ht
  repeat' first
      | with_reducible assumption | intro _ | with_reducible apply keeps_ite | with_reducible apply keeps_whenever
      | with_reducible apply keeps_forSome | with_reducible apply State.shadowStart_keeps | with_reducible apply State.shadowAct_keeps

theorem execShadowCompare_keeps {s t : State} {a0 a1} (ht : execShadowCompare a0 a1 s = .next t) : Keeps s t := by
  unfold execShadowCompare at ht
  refine enter_keeps (Keeps.rfl' s) (fun x hx => ?_) _ _ t ht
  repeat' first
      | with_reducible assumption | intro _ | with_reducible apply keeps_ite | with_reducible apply keeps_whenever
      | with_reducible apply keeps_forSome | with_reducible apply State.shadowStart_keeps | with_reducible apply State.shadowAct_keeps

theorem execShadowEnd_keeps {s t : State} {a0 a1} (ht : execShadowEnd a0 a1 s = .next t) : Keeps s t := by
  unfold execShadowEnd at ht
  refine enter_keeps (Keeps.rfl' s) (fun x hx => ?_) _ _ t ht
  repeat' first
      | with_reducible assumption | intro _ | with_reducible apply keeps_ite | with_reducible apply keeps_whenever
      | with_reducible apply keeps_forSome | with_reducible apply State.endShadow_keeps | with_reducible apply State.finishNow_keeps
      | with_reducible apply State.shadowAct_keeps

theorem execShadowFillDone_keeps {s t : State} {a0 a1} (ht : execShadowFillDone a0 a1 s = .next t) : Keeps s t := by
  unfold execShadowFillDone at ht
  refine enter_keeps (Keeps.rfl' s) (fun x hx => ?_) _ _ t ht
  repeat' first
      | with_reducible assumption | intro _ | with_reducible apply keeps_ite | with_reducible apply keeps_whenever
      | with_reducible apply keeps_forSome | with_reducible apply State.wr_keeps | with_reducible apply State.bump_keeps
      | with_reducible apply keeps_forSome | with_reducible apply State.setShadow_keeps

theorem execShadowPendingTimeout_keeps {s t : State} {a0 a1} (ht : execShadowPendingTimeout a0 a1 s = .next t) : Keeps s t := by
  unfold execShadowPendingTimeout at ht
  refine enter_keeps (Keeps.rfl' s) (fun x hx => ?_) _ _ t ht
  repeat' first
      | with_reducible assumption | intro _ | with_reducible apply keeps_ite | with_reducible apply keeps_whenever
      | with_reducible apply keeps_forSome | with_reducible apply keeps_whenever | with_reducible apply keeps_forSome
      | with_reducible apply State.shadowUnmatched_keeps

theorem execSourceLost_keeps {s t : State} {a0 a1} (ht : execSourceLost a0 a1 s = .next t) : Keeps s t := by
  unfold execSourceLost at ht
  refine enter_keeps (Keeps.rfl' s) (fun x hx => ?_) _ _ t ht
  repeat' first
      | with_reducible assumption | intro _ | with_reducible apply keeps_ite | with_reducible apply keeps_whenever
      | with_reducible apply keeps_forSome | with_reducible apply keeps_forSome | with_reducible apply State.loseSource_keeps

theorem execSourceLostCmd_keeps {s t : State} {a0 a1 a2} (ht : execSourceLostCmd a0 a1 a2 s = .next t) : Keeps s t := by
  unfold execSourceLostCmd at ht
  refine enter_keeps (Keeps.rfl' s) (fun x hx => ?_) _ _ t ht
  repeat' first
      | with_reducible assumption | intro _ | with_reducible apply keeps_ite | with_reducible apply keeps_whenever
      | with_reducible apply keeps_forSome | with_reducible apply State.shadowCmdWrite_keeps

theorem execDetStepWrite_keeps {s t : State} {a0 a1 a2} (ht : execDetStepWrite a0 a1 a2 s = .next t) : Keeps s t := by
  unfold execDetStepWrite at ht
  refine enter_keeps (Keeps.rfl' s) (fun x hx => ?_) _ _ t ht
  repeat' first
      | with_reducible assumption | intro _ | with_reducible apply keeps_ite | with_reducible apply keeps_whenever
      | with_reducible apply keeps_forSome | with_reducible apply State.detStepWrite_keeps

theorem execFaultReportCapture_keeps {s t : State} {a0 a1} (ht : execFaultReportCapture a0 a1 s = .next t) : Keeps s t := by
  unfold execFaultReportCapture at ht
  refine enter_keeps (Keeps.rfl' s) (fun x hx => ?_) _ _ t ht
  repeat' first
      | with_reducible assumption | intro _ | with_reducible apply keeps_ite | with_reducible apply keeps_whenever
      | with_reducible apply keeps_forSome | with_reducible apply State.wr_keeps | with_reducible apply keeps_whenever
      | with_reducible apply keeps_forSome | with_reducible apply State.capture_keeps | with_reducible apply keeps_foldl
      | with_reducible apply keeps_foldl1 | with_reducible refine keeps_fst (by assumption) ?_
      | with_reducible refine keeps_snd (by assumption) ?_ | fail_if_no_progress with_reducible apply keeps_mk

theorem execErrorPairAssert_keeps {s t : State} {a0} (ht : execErrorPairAssert a0 s = .next t) : Keeps s t := by
  unfold execErrorPairAssert at ht
  refine enter_keeps (Keeps.rfl' s) (fun x hx => ?_) _ _ t ht
  repeat' first
      | with_reducible assumption | intro _ | with_reducible apply keeps_ite | with_reducible apply keeps_whenever
      | with_reducible apply keeps_forSome | with_reducible apply State.wr_keeps | with_reducible apply keeps_whenever
      | with_reducible apply keeps_foldl | with_reducible apply keeps_foldl1 | with_reducible refine keeps_fst (by assumption) ?_
      | with_reducible refine keeps_snd (by assumption) ?_ | fail_if_no_progress with_reducible apply keeps_mk

theorem execFenceSet_keeps {s t : State} {a0 a1} (ht : execFenceSet a0 a1 s = .next t) : Keeps s t := by
  unfold execFenceSet at ht
  refine enter_keeps (Keeps.rfl' s) (fun x hx => ?_) _ _ t ht
  repeat' first
      | with_reducible assumption | intro _ | with_reducible apply keeps_ite | with_reducible apply keeps_whenever
      | with_reducible apply keeps_forSome | with_reducible apply keeps_whenever | with_reducible apply State.fenceCmdWrite_keeps

theorem execFenceClear_keeps {s t : State} {a0 a1} (ht : execFenceClear a0 a1 s = .next t) : Keeps s t := by
  unfold execFenceClear at ht
  refine enter_keeps (Keeps.rfl' s) (fun x hx => ?_) _ _ t ht
  repeat' first
      | with_reducible assumption | intro _ | with_reducible apply keeps_ite | with_reducible apply keeps_whenever
      | with_reducible apply keeps_forSome | with_reducible apply keeps_whenever | with_reducible apply State.fenceCmdWrite_keeps

theorem execQuietWindowClose_keeps {s t : State} {a0 a1} (ht : execQuietWindowClose a0 a1 s = .next t) : Keeps s t := by
  unfold execQuietWindowClose at ht
  refine enter_keeps (Keeps.rfl' s) (fun x hx => ?_) _ _ t ht
  repeat' first
      | with_reducible assumption | intro _ | with_reducible apply keeps_ite | with_reducible apply keeps_whenever
      | with_reducible apply keeps_forSome | with_reducible apply keeps_whenever | with_reducible apply keeps_forSome
      | with_reducible apply State.setItem_keeps | with_reducible apply State.testBegin_keeps

theorem execRecoveryTestDone_keeps {s t : State} {a0 a1 a2} (ht : execRecoveryTestDone a0 a1 a2 s = .next t) : Keeps s t := by
  unfold execRecoveryTestDone at ht
  refine enter_keeps (Keeps.rfl' s) (fun x hx => ?_) _ _ t ht
  repeat' first
      | with_reducible assumption | intro _ | with_reducible apply keeps_ite | with_reducible apply keeps_whenever
      | with_reducible apply keeps_forSome | with_reducible apply keeps_whenever | with_reducible apply keeps_forSome
      | with_reducible apply State.testEnd_keeps

theorem execInferFence_keeps {s t : State} {a0 a1} (ht : execInferFence a0 a1 s = .next t) : Keeps s t := by
  unfold execInferFence at ht
  refine enter_keeps (Keeps.rfl' s) (fun x hx => ?_) _ _ t ht
  repeat' first
      | with_reducible assumption | intro _ | with_reducible apply keeps_ite | with_reducible apply keeps_whenever
      | with_reducible apply keeps_forSome | with_reducible apply keeps_whenever | with_reducible apply State.spwCmdWrite_keeps

theorem execInferClear_keeps {s t : State} {a0 a1} (ht : execInferClear a0 a1 s = .next t) : Keeps s t := by
  unfold execInferClear at ht
  refine enter_keeps (Keeps.rfl' s) (fun x hx => ?_) _ _ t ht
  repeat' first
      | with_reducible assumption | intro _ | with_reducible apply keeps_ite | with_reducible apply keeps_whenever
      | with_reducible apply keeps_forSome | with_reducible apply keeps_whenever | with_reducible apply State.spwCmdWrite_keeps

theorem execPinClear_keeps {s t : State} {a0 a1} (ht : execPinClear a0 a1 s = .next t) : Keeps s t := by
  unfold execPinClear at ht
  refine enter_keeps (Keeps.rfl' s) (fun x hx => ?_) _ _ t ht
  repeat' first
      | with_reducible assumption | intro _ | with_reducible apply keeps_ite | with_reducible apply keeps_whenever
      | with_reducible apply keeps_forSome | with_reducible apply keeps_whenever | with_reducible apply State.spwCmdWrite_keeps

theorem execSiltFreeze_keeps {s t : State} {a0 a1} (ht : execSiltFreeze a0 a1 s = .next t) : Keeps s t := by
  unfold execSiltFreeze at ht
  refine enter_keeps (Keeps.rfl' s) (fun x hx => ?_) _ _ t ht
  repeat' first
      | with_reducible assumption | intro _ | with_reducible apply keeps_ite | with_reducible apply keeps_whenever
      | with_reducible apply keeps_forSome | with_reducible apply keeps_whenever | with_reducible apply State.spwCmdWrite_keeps

theorem execSiltRearm_keeps {s t : State} {a0 a1} (ht : execSiltRearm a0 a1 s = .next t) : Keeps s t := by
  unfold execSiltRearm at ht
  refine enter_keeps (Keeps.rfl' s) (fun x hx => ?_) _ _ t ht
  repeat' first
      | with_reducible assumption | intro _ | with_reducible apply keeps_ite | with_reducible apply keeps_whenever
      | with_reducible apply keeps_forSome | with_reducible apply keeps_whenever | with_reducible apply State.spwCmdWrite_keeps

theorem execEnterSafe_keeps {s t : State} {a0 a1} (ht : execEnterSafe a0 a1 s = .next t) : Keeps s t := by
  unfold execEnterSafe at ht
  refine enter_keeps (Keeps.rfl' s) (fun x hx => ?_) _ _ t ht
  repeat' first
      | with_reducible assumption | intro _ | with_reducible apply keeps_ite | with_reducible apply keeps_whenever
      | with_reducible apply keeps_forSome | with_reducible apply keeps_whenever | with_reducible apply State.spwCmdWrite_keeps

theorem execSafeStateEntry_keeps {s t : State} {a0} (ht : execSafeStateEntry a0 s = .next t) : Keeps s t := by
  unfold execSafeStateEntry at ht
  refine enter_keeps (Keeps.rfl' s) (fun x hx => ?_) _ _ t ht
  repeat' first
      | with_reducible assumption | intro _ | with_reducible apply keeps_ite | with_reducible apply keeps_whenever
      | with_reducible apply keeps_forSome | with_reducible apply keeps_whenever | with_reducible apply State.enterSafe_keeps

theorem execDriverMarker_keeps {s t : State} {a0 a1} (ht : execDriverMarker a0 a1 s = .next t) : Keeps s t := by
  unfold execDriverMarker at ht
  refine enter_keeps (Keeps.rfl' s) (fun x hx => ?_) _ _ t ht
  repeat' first
      | with_reducible assumption | intro _ | with_reducible apply keeps_ite | with_reducible apply keeps_whenever
      | with_reducible apply keeps_forSome | with_reducible apply State.markWrite_keeps

theorem execSpillwayHeartbeat_keeps {s t : State} {a0} (ht : execSpillwayHeartbeat a0 s = .next t) : Keeps s t := by
  unfold execSpillwayHeartbeat at ht
  refine enter_keeps (Keeps.rfl' s) (fun x hx => ?_) _ _ t ht
  repeat' first
      | with_reducible assumption | intro _ | with_reducible apply keeps_ite | with_reducible apply keeps_whenever
      | with_reducible apply keeps_forSome | with_reducible apply keeps_whenever | with_reducible apply keeps_foldl
      | with_reducible apply keeps_foldl1 | with_reducible refine keeps_fst (by assumption) ?_
      | with_reducible refine keeps_snd (by assumption) ?_ | fail_if_no_progress with_reducible apply keeps_mk

theorem execSpillwayLoss_keeps {s t : State} {a0} (ht : execSpillwayLoss a0 s = .next t) : Keeps s t := by
  unfold execSpillwayLoss at ht
  refine enter_keeps (Keeps.rfl' s) (fun x hx => ?_) _ _ t ht
  repeat' first
      | with_reducible assumption | intro _ | with_reducible apply keeps_ite | with_reducible apply keeps_whenever
      | with_reducible apply keeps_forSome | with_reducible apply keeps_whenever | with_reducible apply State.freezeSilt_keeps
      | with_reducible apply keeps_foldl | with_reducible apply keeps_foldl1 | with_reducible refine keeps_fst (by assumption) ?_
      | with_reducible refine keeps_snd (by assumption) ?_ | fail_if_no_progress with_reducible apply keeps_mk

theorem execHealthDecay_keeps {s t : State} {a0} (ht : execHealthDecay a0 s = .next t) : Keeps s t := by
  unfold execHealthDecay at ht
  refine enter_keeps (Keeps.rfl' s) (fun x hx => ?_) _ _ t ht
  repeat' first
      | with_reducible assumption | intro _ | with_reducible apply keeps_ite | with_reducible apply keeps_whenever
      | with_reducible apply keeps_forSome | with_reducible apply State.wr_keeps | with_reducible apply keeps_periodic
      | with_reducible apply keeps_each | with_reducible apply State.scoreChange_keeps

theorem execGovernorPeriod_keeps {s t : State} {a0} (ht : execGovernorPeriod a0 s = .next t) : Keeps s t := by
  unfold execGovernorPeriod at ht
  refine enter_keeps (Keeps.rfl' s) (fun x hx => ?_) _ _ t ht
  repeat' first
      | with_reducible assumption | intro _ | with_reducible apply keeps_ite | with_reducible apply keeps_whenever
      | with_reducible apply keeps_forSome | with_reducible apply keeps_periodic | with_reducible apply State.governor_keeps

theorem execBasinStepChange_keeps {s t : State} {a0 a1} (ht : execBasinStepChange a0 a1 s = .next t) : Keeps s t := by
  unfold execBasinStepChange at ht
  refine enter_keeps (Keeps.rfl' s) (fun x hx => ?_) _ _ t ht
  repeat' first
      | with_reducible assumption | intro _ | with_reducible apply keeps_ite | with_reducible apply keeps_whenever
      | with_reducible apply keeps_forSome | with_reducible apply keeps_forSome | with_reducible apply keeps_foldl
      | with_reducible apply keeps_foldl1 | with_reducible refine keeps_fst (by assumption) ?_
      | with_reducible refine keeps_snd (by assumption) ?_ | fail_if_no_progress with_reducible apply keeps_mk

theorem execDroop_keeps {s t : State} {a0 a1 a2} (ht : execDroop a0 a1 a2 s = .next t) : Keeps s t := by
  unfold execDroop at ht
  refine enter_keeps (Keeps.rfl' s) (fun x hx => ?_) _ _ t ht
  repeat' first
      | with_reducible assumption | intro _ | with_reducible apply keeps_ite | with_reducible apply keeps_whenever
      | with_reducible apply keeps_forSome | with_reducible apply keeps_whenever | with_reducible apply State.stretch_keeps
      | with_reducible apply State.droop_keeps

theorem execDroopRecovery_keeps {s t : State} {a0 a1 a2} (ht : execDroopRecovery a0 a1 a2 s = .next t) : Keeps s t := by
  unfold execDroopRecovery at ht
  refine enter_keeps (Keeps.rfl' s) (fun x hx => ?_) _ _ t ht
  repeat' first
      | with_reducible assumption | intro _ | with_reducible apply keeps_ite | with_reducible apply keeps_whenever
      | with_reducible apply keeps_forSome | with_reducible apply keeps_whenever | with_reducible apply State.stretch_keeps
      | with_reducible apply keeps_foldl | with_reducible apply keeps_foldl1 | with_reducible refine keeps_fst (by assumption) ?_
      | with_reducible refine keeps_snd (by assumption) ?_ | fail_if_no_progress with_reducible apply keeps_mk

theorem execStretchReport_keeps {s t : State} {a0 a1} (ht : execStretchReport a0 a1 s = .next t) : Keeps s t := by
  unfold execStretchReport at ht
  refine enter_keeps (Keeps.rfl' s) (fun x hx => ?_) _ _ t ht
  repeat' first
      | with_reducible assumption | intro _ | with_reducible apply keeps_ite | with_reducible apply keeps_whenever
      | with_reducible apply keeps_forSome | with_reducible apply keeps_whenever | with_reducible apply State.reportLow_keeps
      | with_reducible apply keeps_foldl | with_reducible apply keeps_foldl1 | with_reducible refine keeps_fst (by assumption) ?_
      | with_reducible refine keeps_snd (by assumption) ?_ | fail_if_no_progress with_reducible apply keeps_mk

theorem execSlewRefill_keeps {s t : State} {a0} (ht : execSlewRefill a0 s = .next t) : Keeps s t := by
  unfold execSlewRefill at ht
  refine enter_keeps (Keeps.rfl' s) (fun x hx => ?_) _ _ t ht
  repeat' first
      | with_reducible assumption | intro _ | with_reducible apply keeps_ite | with_reducible apply keeps_whenever
      | with_reducible apply keeps_forSome | with_reducible apply State.bump_keeps | with_reducible apply keeps_periodic
      | with_reducible apply State.setSlewTokens_keeps

theorem execSlewStartGrant_keeps {s t : State} {a0} (ht : execSlewStartGrant a0 s = .next t) : Keeps s t := by
  unfold execSlewStartGrant at ht
  refine enter_keeps (Keeps.rfl' s) (fun x hx => ?_) _ _ t ht
  repeat' first
      | with_reducible assumption | intro _ | with_reducible apply keeps_ite | with_reducible apply keeps_whenever
      | with_reducible apply keeps_forSome | with_reducible apply State.grantStart_keeps

theorem execRampDownEnd_keeps {s t : State} {a0 a1} (ht : execRampDownEnd a0 a1 s = .next t) : Keeps s t := by
  unfold execRampDownEnd at ht
  refine enter_keeps (Keeps.rfl' s) (fun x hx => ?_) _ _ t ht
  repeat' first
      | with_reducible assumption | intro _ | with_reducible apply keeps_ite | with_reducible apply keeps_whenever
      | with_reducible apply keeps_forSome | with_reducible apply keeps_foldl | with_reducible apply keeps_foldl1
      | with_reducible refine keeps_fst (by assumption) ?_ | with_reducible refine keeps_snd (by assumption) ?_
      | fail_if_no_progress with_reducible apply keeps_mk

theorem execBasinGateReq_keeps {s t : State} {a0 a1} (ht : execBasinGateReq a0 a1 s = .next t) : Keeps s t := by
  unfold execBasinGateReq at ht
  refine enter_keeps (Keeps.rfl' s) (fun x hx => ?_) _ _ t ht
  repeat' first
      | with_reducible assumption | intro _ | with_reducible apply keeps_ite | with_reducible apply keeps_whenever
      | with_reducible apply keeps_forSome | with_reducible apply State.gateReqWrite_keeps

theorem execBasinGateEffect_keeps {s t : State} {a0 a1} (ht : execBasinGateEffect a0 a1 s = .next t) : Keeps s t := by
  unfold execBasinGateEffect at ht
  refine enter_keeps (Keeps.rfl' s) (fun x hx => ?_) _ _ t ht
  repeat' first
      | with_reducible assumption | intro _ | with_reducible apply keeps_ite | with_reducible apply keeps_whenever
      | with_reducible apply keeps_forSome | with_reducible apply keeps_whenever | with_reducible apply State.gateBasin_keeps

theorem execBasinWakeReq_keeps {s t : State} {a0 a1} (ht : execBasinWakeReq a0 a1 s = .next t) : Keeps s t := by
  unfold execBasinWakeReq at ht
  refine enter_keeps (Keeps.rfl' s) (fun x hx => ?_) _ _ t ht
  repeat' first
      | with_reducible assumption | intro _ | with_reducible apply keeps_ite | with_reducible apply keeps_whenever
      | with_reducible apply keeps_forSome | with_reducible apply State.wakeReqWrite_keeps

theorem execWakeRampDone_keeps {s t : State} {a0 a1} (ht : execWakeRampDone a0 a1 s = .next t) : Keeps s t := by
  unfold execWakeRampDone at ht
  refine enter_keeps (Keeps.rfl' s) (fun x hx => ?_) _ _ t ht
  repeat' first
      | with_reducible assumption | intro _ | with_reducible apply keeps_ite | with_reducible apply keeps_whenever
      | with_reducible apply keeps_forSome | with_reducible apply keeps_whenever | with_reducible apply State.setBasin_keeps
      | with_reducible apply State.beginZero_keeps | with_reducible apply State.startRamps_keeps

theorem execWakeZeroingDone_keeps {s t : State} {a0 a1 a2} (ht : execWakeZeroingDone a0 a1 a2 s = .next t) : Keeps s t := by
  unfold execWakeZeroingDone at ht
  refine enter_keeps (Keeps.rfl' s) (fun x hx => ?_) _ _ t ht
  repeat' first
      | with_reducible assumption | intro _ | with_reducible apply keeps_ite | with_reducible apply keeps_whenever
      | with_reducible apply keeps_forSome | with_reducible apply keeps_whenever | with_reducible apply keeps_forSome
      | with_reducible apply State.wakeDone_keeps

theorem execEnergyMeterSample_keeps {s t : State} {a0 a1 a2} (ht : execEnergyMeterSample a0 a1 a2 s = .next t) : Keeps s t := by
  unfold execEnergyMeterSample at ht
  refine enter_keeps (Keeps.rfl' s) (fun x hx => ?_) _ _ t ht
  repeat' first
      | with_reducible assumption | intro _ | with_reducible apply keeps_ite | with_reducible apply keeps_whenever
      | with_reducible apply keeps_forSome | with_reducible apply keeps_periodic | with_reducible apply State.meter_keeps

theorem execThermalSample_keeps {s t : State} {a0 a1 a2 a3} (ht : execThermalSample a0 a1 a2 a3 s = .next t) : Keeps s t := by
  unfold execThermalSample at ht
  refine enter_keeps (Keeps.rfl' s) (fun x hx => ?_) _ _ t ht
  repeat' first
      | with_reducible assumption | intro _ | with_reducible apply keeps_ite | with_reducible apply keeps_whenever
      | with_reducible apply keeps_forSome | with_reducible apply keeps_periodic | with_reducible apply State.thermal_keeps

theorem execColdReset_keeps {s t : State} {a0 a1} (ht : execColdReset a0 a1 s = .next t) : Keeps s t := by
  unfold execColdReset at ht
  refine enter_keeps (Keeps.rfl' s) (fun x hx => ?_) _ _ t ht
  repeat' first
      | with_reducible assumption | intro _ | with_reducible apply keeps_ite | with_reducible apply keeps_whenever
      | with_reducible apply keeps_forSome | with_reducible apply keeps_whenever | with_reducible apply State.coldReset_keeps

theorem execPkgRstRelease_keeps {s t : State} {a0} (ht : execPkgRstRelease a0 s = .next t) : Keeps s t := by
  unfold execPkgRstRelease at ht
  refine enter_keeps (Keeps.rfl' s) (fun x hx => ?_) _ _ t ht
  repeat' first
      | with_reducible assumption | intro _ | with_reducible apply keeps_ite | with_reducible apply keeps_whenever
      | with_reducible apply keeps_forSome | with_reducible apply keeps_whenever | with_reducible apply keeps_foldl
      | with_reducible apply keeps_foldl1 | with_reducible refine keeps_fst (by assumption) ?_
      | with_reducible refine keeps_snd (by assumption) ?_ | fail_if_no_progress with_reducible apply keeps_mk

theorem execPerstAssert_keeps {s t : State} {a0} (ht : execPerstAssert a0 s = .next t) : Keeps s t := by
  unfold execPerstAssert at ht
  refine enter_keeps (Keeps.rfl' s) (fun x hx => ?_) _ _ t ht
  repeat' first
      | with_reducible assumption | intro _ | with_reducible apply keeps_ite | with_reducible apply keeps_whenever
      | with_reducible apply keeps_forSome | with_reducible apply keeps_whenever | with_reducible apply State.warmReset_keeps
      | with_reducible apply keeps_foldl | with_reducible apply keeps_foldl1 | with_reducible refine keeps_fst (by assumption) ?_
      | with_reducible refine keeps_snd (by assumption) ?_ | fail_if_no_progress with_reducible apply keeps_mk

theorem execPerstRelease_keeps {s t : State} {a0} (ht : execPerstRelease a0 s = .next t) : Keeps s t := by
  unfold execPerstRelease at ht
  refine enter_keeps (Keeps.rfl' s) (fun x hx => ?_) _ _ t ht
  repeat' first
      | with_reducible assumption | intro _ | with_reducible apply keeps_ite | with_reducible apply keeps_whenever
      | with_reducible apply keeps_forSome | with_reducible apply keeps_foldl | with_reducible apply keeps_foldl1
      | with_reducible refine keeps_fst (by assumption) ?_ | with_reducible refine keeps_snd (by assumption) ?_
      | fail_if_no_progress with_reducible apply keeps_mk

theorem execResetCmdWarm_keeps {s t : State} {a0 a1} (ht : execResetCmdWarm a0 a1 s = .next t) : Keeps s t := by
  unfold execResetCmdWarm at ht
  refine enter_keeps (Keeps.rfl' s) (fun x hx => ?_) _ _ t ht
  repeat' first
      | with_reducible assumption | intro _ | with_reducible apply keeps_ite | with_reducible apply keeps_whenever
      | with_reducible apply keeps_forSome | with_reducible apply keeps_whenever | with_reducible apply State.resetCmdWrite_keeps

theorem execWarmResetEffect_keeps {s t : State} {a0} (ht : execWarmResetEffect a0 s = .next t) : Keeps s t := by
  unfold execWarmResetEffect at ht
  refine enter_keeps (Keeps.rfl' s) (fun x hx => ?_) _ _ t ht
  repeat' first
      | with_reducible assumption | intro _ | with_reducible apply keeps_ite | with_reducible apply keeps_whenever
      | with_reducible apply keeps_forSome | with_reducible apply keeps_whenever | with_reducible apply keeps_forSome
      | with_reducible apply State.warmReset_keeps

theorem execResetCmdTerrace_keeps {s t : State} {a0 a1} (ht : execResetCmdTerrace a0 a1 s = .next t) : Keeps s t := by
  unfold execResetCmdTerrace at ht
  refine enter_keeps (Keeps.rfl' s) (fun x hx => ?_) _ _ t ht
  repeat' first
      | with_reducible assumption | intro _ | with_reducible apply keeps_ite | with_reducible apply keeps_whenever
      | with_reducible apply keeps_forSome | with_reducible apply keeps_whenever | with_reducible apply State.resetCmdWrite_keeps

theorem execResetCmdBasin_keeps {s t : State} {a0 a1} (ht : execResetCmdBasin a0 a1 s = .next t) : Keeps s t := by
  unfold execResetCmdBasin at ht
  refine enter_keeps (Keeps.rfl' s) (fun x hx => ?_) _ _ t ht
  repeat' first
      | with_reducible assumption | intro _ | with_reducible apply keeps_ite | with_reducible apply keeps_whenever
      | with_reducible apply keeps_forSome | with_reducible apply keeps_whenever | with_reducible apply State.resetCmdWrite_keeps

theorem execTerraceResetDone_keeps {s t : State} {a0} (ht : execTerraceResetDone a0 s = .next t) : Keeps s t := by
  unfold execTerraceResetDone at ht
  refine enter_keeps (Keeps.rfl' s) (fun x hx => ?_) _ _ t ht
  repeat' first
      | with_reducible assumption | intro _ | with_reducible apply keeps_ite | with_reducible apply keeps_whenever
      | with_reducible apply keeps_forSome | with_reducible apply keeps_whenever | with_reducible apply State.resetOver_keeps
      | with_reducible apply State.startTerrace_keeps | with_reducible apply keeps_foldl | with_reducible apply keeps_foldl1
      | with_reducible refine keeps_fst (by assumption) ?_ | with_reducible refine keeps_snd (by assumption) ?_
      | fail_if_no_progress with_reducible apply keeps_mk | dsimp only | split

theorem execBasinResetDone_keeps {s t : State} {a0} (ht : execBasinResetDone a0 s = .next t) : Keeps s t := by
  unfold execBasinResetDone at ht
  refine enter_keeps (Keeps.rfl' s) (fun x hx => ?_) _ _ t ht
  repeat' first
      | with_reducible assumption | intro _ | with_reducible apply keeps_ite | with_reducible apply keeps_whenever
      | with_reducible apply keeps_forSome | with_reducible apply State.resetOver_keeps | with_reducible apply keeps_foldl
      | with_reducible apply keeps_foldl1 | with_reducible refine keeps_fst (by assumption) ?_
      | with_reducible refine keeps_snd (by assumption) ?_ | fail_if_no_progress with_reducible apply keeps_mk | dsimp only | split

theorem execFusesLoaded_keeps {s t : State} {a0 a1 a2} (ht : execFusesLoaded a0 a1 a2 s = .next t) : Keeps s t := by
  unfold execFusesLoaded at ht
  refine enter_keeps (Keeps.rfl' s) (fun x hx => ?_) _ _ t ht
  repeat' first
      | with_reducible assumption | intro _ | with_reducible apply keeps_ite | with_reducible apply keeps_whenever
      | with_reducible apply keeps_forSome | with_reducible apply State.wr_keeps | with_reducible apply keeps_whenever
      | with_reducible apply State.phaseDone_keeps

theorem execHubReady_keeps {s t : State} {a0} (ht : execHubReady a0 s = .next t) : Keeps s t := by
  unfold execHubReady at ht
  refine enter_keeps (Keeps.rfl' s) (fun x hx => ?_) _ _ t ht
  repeat' first
      | with_reducible assumption | intro _ | with_reducible apply keeps_ite | with_reducible apply keeps_whenever
      | with_reducible apply keeps_forSome | with_reducible apply State.wr_keeps | with_reducible apply keeps_whenever
      | with_reducible apply State.phaseDone_keeps | with_reducible apply keeps_foldl | with_reducible apply keeps_foldl1
      | with_reducible refine keeps_fst (by assumption) ?_ | with_reducible refine keeps_snd (by assumption) ?_
      | fail_if_no_progress with_reducible apply keeps_mk

theorem execPcieReady_keeps {s t : State} {a0} (ht : execPcieReady a0 s = .next t) : Keeps s t := by
  unfold execPcieReady at ht
  refine enter_keeps (Keeps.rfl' s) (fun x hx => ?_) _ _ t ht
  repeat' first
      | with_reducible assumption | intro _ | with_reducible apply keeps_ite | with_reducible apply keeps_whenever
      | with_reducible apply keeps_forSome | with_reducible apply State.wr_keeps | with_reducible apply keeps_whenever
      | with_reducible apply State.phaseDone_keeps | with_reducible apply keeps_foldl | with_reducible apply keeps_foldl1
      | with_reducible refine keeps_fst (by assumption) ?_ | with_reducible refine keeps_snd (by assumption) ?_
      | fail_if_no_progress with_reducible apply keeps_mk

theorem execDieReady_keeps {s t : State} {a0 a1 a2} (ht : execDieReady a0 a1 a2 s = .next t) : Keeps s t := by
  unfold execDieReady at ht
  refine enterIf_keeps (Keeps.rfl' s) (fun x hx => ?_) _ _ t ht
  repeat' first
      | with_reducible assumption | intro _ | with_reducible apply keeps_ite | with_reducible apply keeps_whenever
      | with_reducible apply keeps_forSome | with_reducible apply keeps_whenever | with_reducible apply State.dieReady_keeps

theorem execHbmControllerTrained_keeps {s t : State} {a0 a1 a2 a3 a4} (ht : execHbmControllerTrained a0 a1 a2 a3 a4 s = .next t) : Keeps s t := by
  unfold execHbmControllerTrained at ht
  refine enterIf_keeps (Keeps.rfl' s) (fun x hx => ?_) _ _ t ht
  repeat' first
      | with_reducible assumption | intro _ | with_reducible apply keeps_ite | with_reducible apply keeps_whenever
      | with_reducible apply keeps_forSome | with_reducible apply keeps_whenever | with_reducible apply State.startRamps_keeps
      | with_reducible apply State.controllerTrained_keeps | with_reducible apply State.trainingOver_keeps

theorem execLocalDone_keeps {s t : State} {a0} (ht : execLocalDone a0 s = .next t) : Keeps s t := by
  unfold execLocalDone at ht
  refine enterIf_keeps (Keeps.rfl' s) (fun x hx => ?_) _ _ t ht
  repeat' first
      | with_reducible assumption | intro _ | with_reducible apply keeps_ite | with_reducible apply keeps_whenever
      | with_reducible apply keeps_forSome | with_reducible apply State.wr_keeps | with_reducible apply keeps_whenever
      | with_reducible apply State.phaseDone_keeps

theorem execPcieLinkDown_keeps {s t : State} {a0} (ht : execPcieLinkDown a0 s = .next t) : Keeps s t := by
  unfold execPcieLinkDown at ht
  refine enterIf_keeps (Keeps.rfl' s) (fun x hx => ?_) _ _ t ht
  repeat' first
      | with_reducible assumption | intro _ | with_reducible apply keeps_ite | with_reducible apply keeps_whenever
      | with_reducible apply keeps_forSome | with_reducible apply keeps_whenever | with_reducible apply State.reportLow_keeps
      | with_reducible apply keeps_foldl | with_reducible apply keeps_foldl1 | with_reducible refine keeps_fst (by assumption) ?_
      | with_reducible refine keeps_snd (by assumption) ?_ | fail_if_no_progress with_reducible apply keeps_mk

theorem execMctpControl_keeps {s t : State} {a0 a1 a2} (ht : execMctpControl a0 a1 a2 s = .next t) : Keeps s t := by
  unfold execMctpControl at ht
  refine enterIf_keeps (Keeps.rfl' s) (fun x hx => ?_) _ _ t ht
  repeat' first
      | with_reducible assumption | intro _ | with_reducible apply keeps_ite | with_reducible apply keeps_whenever
      | with_reducible apply keeps_forSome | with_reducible apply State.answer_keeps | with_reducible apply State.mctpServe_keeps

theorem execPldmGetSensor_keeps {s t : State} {a0 a1 a2} (ht : execPldmGetSensor a0 a1 a2 s = .next t) : Keeps s t := by
  unfold execPldmGetSensor at ht
  refine enterIf_keeps (Keeps.rfl' s) (fun x hx => ?_) _ _ t ht
  repeat' first
      | with_reducible assumption | intro _ | with_reducible apply keeps_ite | with_reducible apply keeps_whenever
      | with_reducible apply keeps_forSome | with_reducible apply State.answer_keeps | with_reducible apply State.sensorServe_keeps

theorem execSetEventReceiver_keeps {s t : State} {a0 a1 a2 a3} (ht : execSetEventReceiver a0 a1 a2 a3 s = .next t) : Keeps s t := by
  unfold execSetEventReceiver at ht
  refine enterIf_keeps (Keeps.rfl' s) (fun x hx => ?_) _ _ t ht
  repeat' first
      | with_reducible assumption | intro _ | with_reducible apply keeps_ite | with_reducible apply keeps_whenever
      | with_reducible apply keeps_forSome | with_reducible apply State.answer_keeps | with_reducible apply keeps_foldl
      | with_reducible apply keeps_foldl1 | with_reducible refine keeps_fst (by assumption) ?_
      | with_reducible refine keeps_snd (by assumption) ?_ | fail_if_no_progress with_reducible apply keeps_mk

theorem execVendorSiltStatus_keeps {s t : State} {a0 a1} (ht : execVendorSiltStatus a0 a1 s = .next t) : Keeps s t := by
  unfold execVendorSiltStatus at ht
  refine enterIf_keeps (Keeps.rfl' s) (fun x hx => ?_) _ _ t ht
  repeat' first
      | with_reducible assumption | intro _ | with_reducible apply keeps_ite | with_reducible apply keeps_whenever
      | with_reducible apply keeps_forSome | with_reducible apply State.answer_keeps

theorem execVendorSiltEntry_keeps {s t : State} {a0 a1 a2} (ht : execVendorSiltEntry a0 a1 a2 s = .next t) : Keeps s t := by
  unfold execVendorSiltEntry at ht
  refine enterIf_keeps (Keeps.rfl' s) (fun x hx => ?_) _ _ t ht
  repeat' first
      | with_reducible assumption | intro _ | with_reducible apply keeps_ite | with_reducible apply keeps_whenever
      | with_reducible apply keeps_forSome | with_reducible apply State.answer_keeps

theorem execVendorSiltSnap_keeps {s t : State} {a0 a1 a2} (ht : execVendorSiltSnap a0 a1 a2 s = .next t) : Keeps s t := by
  unfold execVendorSiltSnap at ht
  refine enterIf_keeps (Keeps.rfl' s) (fun x hx => ?_) _ _ t ht
  repeat' first
      | with_reducible assumption | intro _ | with_reducible apply keeps_ite | with_reducible apply keeps_whenever
      | with_reducible apply keeps_forSome | with_reducible apply State.answer_keeps

theorem execVendorClassCount_keeps {s t : State} {a0 a1 a2} (ht : execVendorClassCount a0 a1 a2 s = .next t) : Keeps s t := by
  unfold execVendorClassCount at ht
  refine enterIf_keeps (Keeps.rfl' s) (fun x hx => ?_) _ _ t ht
  repeat' first
      | with_reducible assumption | intro _ | with_reducible apply keeps_ite | with_reducible apply keeps_whenever
      | with_reducible apply keeps_forSome | with_reducible apply State.answer_keeps

theorem execVendorHealth_keeps {s t : State} {a0 a1} (ht : execVendorHealth a0 a1 s = .next t) : Keeps s t := by
  unfold execVendorHealth at ht
  refine enterIf_keeps (Keeps.rfl' s) (fun x hx => ?_) _ _ t ht
  repeat' first
      | with_reducible assumption | intro _ | with_reducible apply keeps_ite | with_reducible apply keeps_whenever
      | with_reducible apply keeps_forSome | with_reducible apply State.answer_keeps

theorem execJtagInstruction_keeps {s t : State} {a0 a1} (ht : execJtagInstruction a0 a1 s = .next t) : Keeps s t := by
  unfold execJtagInstruction at ht
  refine enterIf_keeps (Keeps.rfl' s) (fun x hx => ?_) _ _ t ht
  repeat' first
      | with_reducible assumption | intro _ | with_reducible apply keeps_ite | with_reducible apply keeps_whenever
      | with_reducible apply keeps_forSome | with_reducible apply keeps_foldl | with_reducible apply keeps_foldl1
      | with_reducible refine keeps_fst (by assumption) ?_ | with_reducible refine keeps_snd (by assumption) ?_
      | fail_if_no_progress with_reducible apply keeps_mk

theorem execSupplyRemoval_keeps {s t : State} {a0 a1} (ht : execSupplyRemoval a0 a1 s = .next t) : Keeps s t := by
  unfold execSupplyRemoval at ht
  refine enterIf_keeps (Keeps.rfl' s) (fun x hx => ?_) _ _ t ht
  repeat' first
      | with_reducible assumption | intro _ | with_reducible apply keeps_ite | with_reducible apply keeps_whenever
      | with_reducible apply keeps_forSome | with_reducible apply State.supplyLoss_keeps

end Sys2Proof.Machine
end

