-- ==== Sys2Proof/Laws/PerInstr.lean ====
section
/-! SUPPORT. Facts about every command as syntax, one lemma for each constructor: when a command comes has no part in whether it is
well formed (log entry 2). -/
namespace Sys2Proof.Laws.Operands

/-- Command `j` is command `i` after time `d`. -/
def After (d : Nat) (j : Instr) : Instr → Prop
  | .registerWrite _ a1 a2 a3 => j = .registerWrite d a1 a2 a3
  | .lowWordRead _ a1 a2 => j = .lowWordRead d a1 a2
  | .highWordRead _ a1 a2 => j = .highWordRead d a1 a2
  | .rcFieldRead _ a1 a2 => j = .rcFieldRead d a1 a2
  | .heartbeat _ a1 => j = .heartbeat d a1
  | .heartbeatLoss _ a1 => j = .heartbeatLoss d a1
  | .dieHeartbeatLoss _ a1 => j = .dieHeartbeatLoss d a1
  | .fenceEffect _ a1 => j = .fenceEffect d a1
  | .fencedBasinGate _ a1 => j = .fencedBasinGate d a1
  | .jetTile _ a1 => j = .jetTile d a1
  | .jetTileStart _ a1 a2 a3 => j = .jetTileStart d a1 a2 a3
  | .jetBankLoadComplete _ a1 a2 a3 => j = .jetBankLoadComplete d a1 a2 a3
  | .jetTileEnd _ a1 a2 a3 a4 a5 => j = .jetTileEnd d a1 a2 a3 a4 a5
  | .jetFieldRemap _ a1 a2 a3 => j = .jetFieldRemap d a1 a2 a3
  | .fieldFuseBlown _ a1 a2 => j = .fieldFuseBlown d a1 a2
  | .cisternPart _ a1 a2 => j = .cisternPart d a1 a2
  | .cisternPartZeroingDone _ a1 => j = .cisternPartZeroingDone d a1
  | .cisternSteal _ a1 => j = .cisternSteal d a1
  | .cxlLinkDown _ => j = .cxlLinkDown d
  | .cxlLinkUp _ => j = .cxlLinkUp d
  | .runnelPass _ a1 => j = .runnelPass d a1
  | .runnelPassStart _ a1 a2 => j = .runnelPassStart d a1 a2
  | .runnelPassEnd _ a1 a2 => j = .runnelPassEnd d a1 a2
  | .epilogueComplete _ a1 a2 => j = .epilogueComplete d a1 a2
  | .rillTile _ a1 a2 => j = .rillTile d a1 a2
  | .rillFetchStart _ a1 => j = .rillFetchStart d a1
  | .rillFetchReturn _ a1 a2 a3 => j = .rillFetchReturn d a1 a2 a3
  | .rillTileStart _ a1 a2 => j = .rillTileStart d a1 a2
  | .rillTileEnd _ a1 a2 a3 => j = .rillTileEnd d a1 a2 a3
  | .variantWrite _ a1 => j = .variantWrite d a1
  | .cascadeForward _ a1 => j = .cascadeForward d a1
  | .cascadeMerge _ a1 => j = .cascadeMerge d a1
  | .cascadeBackward _ a1 => j = .cascadeBackward d a1
  | .cascadeFetchStart _ a1 => j = .cascadeFetchStart d a1
  | .cascadeFetchReturn _ a1 a2 a3 => j = .cascadeFetchReturn d a1 a2 a3
  | .cascadeTileStart _ a1 a2 a3 => j = .cascadeTileStart d a1 a2 a3
  | .cascadeTileEnd _ a1 a2 a3 => j = .cascadeTileEnd d a1 a2 a3
  | .sessionCreate _ => j = .sessionCreate d
  | .sessionCancel _ => j = .sessionCancel d
  | .sessionPause _ => j = .sessionPause d
  | .sessionRebuild _ => j = .sessionRebuild d
  | .sessionRelease _ => j = .sessionRelease d
  | .kvProvision _ => j = .kvProvision d
  | .kvReclaim _ => j = .kvReclaim d
  | .kvReserve _ => j = .kvReserve d
  | .kvAppend _ a1 => j = .kvAppend d a1
  | .prefixSeal _ => j = .prefixSeal d
  | .prefixAttach _ => j = .prefixAttach d
  | .prefixDrop _ => j = .prefixDrop d
  | .handoff _ => j = .handoff d
  | .handoffArrival _ a1 => j = .handoffArrival d a1
  | .handoffTimeout _ a1 => j = .handoffTimeout d a1
  | .stepBegin _ => j = .stepBegin d
  | .stepEnd _ => j = .stepEnd d
  | .stepEndResume _ a1 => j = .stepEndResume d a1
  | .spoutTask _ a1 => j = .spoutTask d a1
  | .spoutTaskStart _ a1 => j = .spoutTaskStart d a1
  | .spoutInstruction _ a1 a2 a3 => j = .spoutInstruction d a1 a2 a3
  | .spoutEcall _ a1 a2 => j = .spoutEcall d a1 a2
  | .spoutWatchdog _ a1 => j = .spoutWatchdog d a1
  | .wcClaim _ a1 => j = .wcClaim d a1
  | .wcClaimResume _ a1 => j = .wcClaimResume d a1
  | .wcDone _ a1 => j = .wcDone d a1
  | .spoutSemSignal _ a1 => j = .spoutSemSignal d a1
  | .semWait _ a1 => j = .semWait d a1
  | .semWaitAcquire _ a1 a2 => j = .semWaitAcquire d a1 a2
  | .semWaitDeadline _ a1 => j = .semWaitDeadline d a1
  | .semTry _ a1 => j = .semTry d a1
  | .tileIssue _ a1 a2 => j = .tileIssue d a1 a2
  | .spoutAccessReturn _ a1 => j = .spoutAccessReturn d a1
  | .doorbell _ a1 a2 a3 a4 => j = .doorbell d a1 a2 a3 a4
  | .packetRead _ a1 a2 => j = .packetRead d a1 a2
  | .packetDispatch _ => j = .packetDispatch d
  | .nop _ a1 => j = .nop d a1
  | .fence _ a1 => j = .fence d a1
  | .fenceComplete _ a1 => j = .fenceComplete d a1
  | .wait _ a1 => j = .wait d a1
  | .waitSatisfied _ a1 => j = .waitSatisfied d a1
  | .waitTimeout _ a1 => j = .waitTimeout d a1
  | .counterAdd _ a1 => j = .counterAdd d a1
  | .semSignal _ a1 => j = .semSignal d a1
  | .copy _ a1 a2 a3 a4 => j = .copy d a1 a2 a3 a4
  | .fill _ a1 => j = .fill d a1
  | .copyComplete _ a1 => j = .copyComplete d a1
  | .cqTailWrite _ a1 a2 => j = .cqTailWrite d a1 a2
  | .ringEnable _ a1 a2 => j = .ringEnable d a1 a2
  | .ringResume _ a1 a2 => j = .ringResume d a1 a2
  | .sliceEnable _ a1 a2 => j = .sliceEnable d a1 a2
  | .sliceDisable _ a1 a2 => j = .sliceDisable d a1 a2
  | .hostRequestRefused _ a1 a2 a3 => j = .hostRequestRefused d a1 a2 a3
  | .sliceFrozen _ a1 => j = .sliceFrozen d a1
  | .keyLoad _ a1 a2 => j = .keyLoad d a1 a2
  | .keyErase _ a1 a2 => j = .keyErase d a1 a2
  | .memRangeWrite _ a1 a2 a3 a4 => j = .memRangeWrite d a1 a2 a3 a4
  | .sliceBasinsWrite _ a1 a2 => j = .sliceBasinsWrite d a1 a2
  | .sliceReset _ a1 a2 => j = .sliceReset d a1 a2
  | .sliceResetDrained _ a1 => j = .sliceResetDrained d a1
  | .sliceResetComplete _ a1 => j = .sliceResetComplete d a1
  | .handoverZeroingDone _ a1 => j = .handoverZeroingDone d a1
  | .markerRefill _ => j = .markerRefill d
  | .markerEnable _ a1 a2 => j = .markerEnable d a1 a2
  | .weightWrite _ a1 a2 => j = .weightWrite d a1 a2
  | .fixedShareWrite _ a1 a2 => j = .fixedShareWrite d a1 a2
  | .yieldRequest _ a1 => j = .yieldRequest d a1
  | .quantumExpiry _ a1 => j = .quantumExpiry d a1
  | .yieldDrained _ a1 => j = .yieldDrained d a1
  | .saveComplete _ a1 a2 a3 a4 => j = .saveComplete d a1 a2 a3 a4
  | .restoreComplete _ a1 a2 => j = .restoreComplete d a1 a2
  | .effectiveTierUpdate _ => j = .effectiveTierUpdate d
  | .gateList _ a1 a2 => j = .gateList d a1 a2
  | .gateListRemove _ a1 => j = .gateListRemove d a1
  | .gateListAct _ a1 => j = .gateListAct d a1
  | .guardBandBegin _ a1 => j = .guardBandBegin d a1
  | .windowOpen _ a1 => j = .windowOpen d a1
  | .windowClose _ a1 => j = .windowClose d a1
  | .windowExtendedClose _ a1 => j = .windowExtendedClose d a1
  | .carrierEnable _ a1 a2 => j = .carrierEnable d a1 a2
  | .uplaneSection _ a1 => j = .uplaneSection d a1
  | .receiveWindowClose _ a1 a2 a3 => j = .receiveWindowClose d a1 a2 a3
  | .dlSymbolEmission _ a1 a2 a3 => j = .dlSymbolEmission d a1 a2 a3
  | .radioReservedWrite _ a1 => j = .radioReservedWrite d a1
  | .radioEnable _ a1 => j = .radioEnable d a1
  | .slotPlan _ a1 a2 => j = .slotPlan d a1 a2
  | .ldpcDec _ a1 a2 => j = .ldpcDec d a1 a2
  | .ldpcEnc _ a1 a2 => j = .ldpcEnc d a1 a2
  | .polarDec _ a1 a2 => j = .polarDec d a1 a2
  | .polarEnc _ a1 a2 => j = .polarEnc d a1 a2
  | .dft _ a1 a2 => j = .dft d a1 a2
  | .prach _ a1 a2 => j = .prach d a1 a2
  | .dmrsMeas _ a1 a2 => j = .dmrsMeas d a1 a2
  | .radioJetOp _ a1 a2 a3 => j = .radioJetOp d a1 a2 a3
  | .radioSpoutOp _ a1 => j = .radioSpoutOp d a1
  | .cplaneTx _ a1 a2 => j = .cplaneTx d a1 a2
  | .spoutBudgetStop _ a1 => j = .spoutBudgetStop d a1
  | .radioOpEnd _ a1 a2 a3 a4 => j = .radioOpEnd d a1 a2 a3 a4
  | .slotOverrun _ a1 a2 => j = .slotOverrun d a1 a2
  | .radioTakeover _ a1 a2 => j = .radioTakeover d a1 a2
  | .cellMigrateSource _ a1 a2 => j = .cellMigrateSource d a1 a2
  | .cellMigrateDest _ a1 a2 => j = .cellMigrateDest d a1 a2
  | .migrationSwitch _ a1 => j = .migrationSwitch d a1
  | .migrationSourceDone _ a1 => j = .migrationSourceDone d a1
  | .migrationArrival _ a1 => j = .migrationArrival d a1
  | .migrationTimeout _ a1 => j = .migrationTimeout d a1
  | .syncRx _ a1 => j = .syncRx d a1
  | .followUpRx _ a1 => j = .followUpRx d a1
  | .delayRespRx _ a1 => j = .delayRespRx d a1
  | .delayReqRx _ a1 => j = .delayReqRx d a1
  | .delayReqTx _ a1 => j = .delayReqTx d a1
  | .masterSyncTx _ a1 => j = .masterSyncTx d a1
  | .holdoverEntry _ => j = .holdoverEntry d
  | .freeRunWrite _ a1 => j = .freeRunWrite d a1
  | .trackSelWrite _ a1 => j = .trackSelWrite d a1
  | .synceMeasure _ a1 => j = .synceMeasure d a1
  | .synceLoss _ => j = .synceLoss d
  | .outputEnable _ a1 a2 => j = .outputEnable d a1 a2
  | .outputDisable _ a1 a2 => j = .outputDisable d a1 a2
  | .outputEdge _ a1 => j = .outputEdge d a1
  | .captureEdge _ a1 a2 => j = .captureEdge d a1 a2
  | .capMetaRead _ a1 => j = .capMetaRead d a1
  | .launchArm _ a1 a2 => j = .launchArm d a1 a2
  | .launchDisarm _ a1 a2 => j = .launchDisarm d a1 a2
  | .launchFire _ a1 => j = .launchFire d a1
  | .ethFrameRx _ a1 a2 a3 => j = .ethFrameRx d a1 a2 a3
  | .ethLinkChange _ a1 a2 a3 => j = .ethLinkChange d a1 a2 a3
  | .forwardEnqueue _ a1 => j = .forwardEnqueue d a1
  | .egressTransmit _ a1 => j = .egressTransmit d a1
  | .ethMarkerRefill _ => j = .ethMarkerRefill d
  | .gclArm _ a1 a2 => j = .gclArm d a1 a2
  | .gclSwitch _ a1 => j = .gclSwitch d a1
  | .mgmtTxEntry _ => j = .mgmtTxEntry d
  | .mgmtTxNotBefore _ => j = .mgmtTxNotBefore d
  | .flitReplay _ a1 => j = .flitReplay d a1
  | .aqdLinkDown _ a1 => j = .aqdLinkDown d a1
  | .aqdLinkUp _ a1 a2 a3 a4 => j = .aqdLinkUp d a1 a2 a3 a4
  | .aqdTrainTimeout _ a1 a2 => j = .aqdTrainTimeout d a1 a2
  | .aqdRd _ a1 a2 => j = .aqdRd d a1 a2
  | .aqdWr _ a1 => j = .aqdWr d a1
  | .aqdBw _ a1 => j = .aqdBw d a1
  | .aqdAt _ a1 => j = .aqdAt d a1
  | .aqdBump _ a1 => j = .aqdBump d a1
  | .aqdQuery _ a1 => j = .aqdQuery d a1
  | .homeLineUpdate _ a1 a2 => j = .homeLineUpdate d a1 a2
  | .aqdReply _ a1 => j = .aqdReply d a1
  | .requestExpiry _ a1 a2 => j = .requestExpiry d a1 a2
  | .senderWaitClose _ a1 => j = .senderWaitClose d a1
  | .aqdRetry _ a1 => j = .aqdRetry d a1
  | .creditGrant _ a1 => j = .creditGrant d a1
  | .aqdAtomic _ a1 => j = .aqdAtomic d a1
  | .copyAsync _ a1 a2 a3 => j = .copyAsync d a1 a2 a3
  | .aqdEnable _ a1 => j = .aqdEnable d a1
  | .arrivalCounterWrite _ a1 a2 => j = .arrivalCounterWrite d a1 a2
  | .shadowExport _ a1 => j = .shadowExport d a1
  | .shadowCompare _ a1 => j = .shadowCompare d a1
  | .shadowEnd _ a1 => j = .shadowEnd d a1
  | .shadowFillDone _ a1 => j = .shadowFillDone d a1
  | .shadowPendingTimeout _ a1 => j = .shadowPendingTimeout d a1
  | .sourceLost _ a1 => j = .sourceLost d a1
  | .sourceLostCmd _ a1 a2 => j = .sourceLostCmd d a1 a2
  | .detStepWrite _ a1 a2 => j = .detStepWrite d a1 a2
  | .faultReportCapture _ a1 => j = .faultReportCapture d a1
  | .errorPairAssert _ => j = .errorPairAssert d
  | .fenceSet _ a1 => j = .fenceSet d a1
  | .fenceClear _ a1 => j = .fenceClear d a1
  | .quietWindowClose _ a1 => j = .quietWindowClose d a1
  | .recoveryTestDone _ a1 a2 => j = .recoveryTestDone d a1 a2
  | .inferFence _ a1 => j = .inferFence d a1
  | .inferClear _ a1 => j = .inferClear d a1
  | .pinClear _ a1 => j = .pinClear d a1
  | .siltFreeze _ a1 => j = .siltFreeze d a1
  | .siltRearm _ a1 => j = .siltRearm d a1
  | .enterSafe _ a1 => j = .enterSafe d a1
  | .safeStateEntry _ => j = .safeStateEntry d
  | .driverMarker _ a1 => j = .driverMarker d a1
  | .spillwayHeartbeat _ => j = .spillwayHeartbeat d
  | .spillwayLoss _ => j = .spillwayLoss d
  | .healthDecay _ => j = .healthDecay d
  | .governorPeriod _ => j = .governorPeriod d
  | .basinStepChange _ a1 => j = .basinStepChange d a1
  | .droop _ a1 a2 => j = .droop d a1 a2
  | .droopRecovery _ a1 a2 => j = .droopRecovery d a1 a2
  | .stretchReport _ a1 => j = .stretchReport d a1
  | .slewRefill _ => j = .slewRefill d
  | .slewStartGrant _ => j = .slewStartGrant d
  | .rampDownEnd _ a1 => j = .rampDownEnd d a1
  | .basinGateReq _ a1 => j = .basinGateReq d a1
  | .basinGateEffect _ a1 => j = .basinGateEffect d a1
  | .basinWakeReq _ a1 => j = .basinWakeReq d a1
  | .wakeRampDone _ a1 => j = .wakeRampDone d a1
  | .wakeZeroingDone _ a1 a2 => j = .wakeZeroingDone d a1 a2
  | .energyMeterSample _ a1 a2 => j = .energyMeterSample d a1 a2
  | .thermalSample _ a1 a2 a3 => j = .thermalSample d a1 a2 a3
  | .coldReset _ a1 => j = .coldReset d a1
  | .pkgRstRelease _ => j = .pkgRstRelease d
  | .perstAssert _ => j = .perstAssert d
  | .perstRelease _ => j = .perstRelease d
  | .resetCmdWarm _ a1 => j = .resetCmdWarm d a1
  | .warmResetEffect _ => j = .warmResetEffect d
  | .resetCmdTerrace _ a1 => j = .resetCmdTerrace d a1
  | .resetCmdBasin _ a1 => j = .resetCmdBasin d a1
  | .terraceResetDone _ => j = .terraceResetDone d
  | .basinResetDone _ => j = .basinResetDone d
  | .fusesLoaded _ a1 a2 => j = .fusesLoaded d a1 a2
  | .hubReady _ => j = .hubReady d
  | .pcieReady _ => j = .pcieReady d
  | .dieReady _ a1 a2 => j = .dieReady d a1 a2
  | .hbmControllerTrained _ a1 a2 a3 a4 => j = .hbmControllerTrained d a1 a2 a3 a4
  | .localDone _ => j = .localDone d
  | .pcieLinkDown _ => j = .pcieLinkDown d
  | .mctpControl _ a1 a2 => j = .mctpControl d a1 a2
  | .pldmGetSensor _ a1 a2 => j = .pldmGetSensor d a1 a2
  | .setEventReceiver _ a1 a2 a3 => j = .setEventReceiver d a1 a2 a3
  | .vendorSiltStatus _ a1 => j = .vendorSiltStatus d a1
  | .vendorSiltEntry _ a1 a2 => j = .vendorSiltEntry d a1 a2
  | .vendorSiltSnap _ a1 a2 => j = .vendorSiltSnap d a1 a2
  | .vendorClassCount _ a1 a2 => j = .vendorClassCount d a1 a2
  | .vendorHealth _ a1 => j = .vendorHealth d a1
  | .jtagInstruction _ a1 => j = .jtagInstruction d a1
  | .supplyRemoval _ a1 => j = .supplyRemoval d a1

/-- A command is well formed whenever it comes, or never. -/
def Statement (i : Instr) : Prop := ∀ d j, After d j i → j.wellFormed = i.wellFormed

theorem registerWrite {dt} {a1 a2 a3} : Statement (.registerWrite dt a1 a2 a3) := fun _ _ h => h ▸ rfl
theorem lowWordRead {dt} {a1 a2} : Statement (.lowWordRead dt a1 a2) := fun _ _ h => h ▸ rfl
theorem highWordRead {dt} {a1 a2} : Statement (.highWordRead dt a1 a2) := fun _ _ h => h ▸ rfl
theorem rcFieldRead {dt} {a1 a2} : Statement (.rcFieldRead dt a1 a2) := fun _ _ h => h ▸ rfl
theorem heartbeat {dt} {a1} : Statement (.heartbeat dt a1) := fun _ _ h => h ▸ rfl
theorem heartbeatLoss {dt} {a1} : Statement (.heartbeatLoss dt a1) := fun _ _ h => h ▸ rfl
theorem dieHeartbeatLoss {dt} {a1} : Statement (.dieHeartbeatLoss dt a1) := fun _ _ h => h ▸ rfl
theorem fenceEffect {dt} {a1} : Statement (.fenceEffect dt a1) := fun _ _ h => h ▸ rfl
theorem fencedBasinGate {dt} {a1} : Statement (.fencedBasinGate dt a1) := fun _ _ h => h ▸ rfl
theorem jetTile {dt} {a1} : Statement (.jetTile dt a1) := fun _ _ h => h ▸ rfl
theorem jetTileStart {dt} {a1 a2 a3} : Statement (.jetTileStart dt a1 a2 a3) := fun _ _ h => h ▸ rfl
theorem jetBankLoadComplete {dt} {a1 a2 a3} : Statement (.jetBankLoadComplete dt a1 a2 a3) := fun _ _ h => h ▸ rfl
theorem jetTileEnd {dt} {a1 a2 a3 a4 a5} : Statement (.jetTileEnd dt a1 a2 a3 a4 a5) := fun _ _ h => h ▸ rfl
theorem jetFieldRemap {dt} {a1 a2 a3} : Statement (.jetFieldRemap dt a1 a2 a3) := fun _ _ h => h ▸ rfl
theorem fieldFuseBlown {dt} {a1 a2} : Statement (.fieldFuseBlown dt a1 a2) := fun _ _ h => h ▸ rfl
theorem cisternPart {dt} {a1 a2} : Statement (.cisternPart dt a1 a2) := fun _ _ h => h ▸ rfl
theorem cisternPartZeroingDone {dt} {a1} : Statement (.cisternPartZeroingDone dt a1) := fun _ _ h => h ▸ rfl
theorem cisternSteal {dt} {a1} : Statement (.cisternSteal dt a1) := fun _ _ h => h ▸ rfl
theorem cxlLinkDown {dt} : Statement (.cxlLinkDown dt) := fun _ _ h => h ▸ rfl
theorem cxlLinkUp {dt} : Statement (.cxlLinkUp dt) := fun _ _ h => h ▸ rfl
theorem runnelPass {dt} {a1} : Statement (.runnelPass dt a1) := fun _ _ h => h ▸ rfl
theorem runnelPassStart {dt} {a1 a2} : Statement (.runnelPassStart dt a1 a2) := fun _ _ h => h ▸ rfl
theorem runnelPassEnd {dt} {a1 a2} : Statement (.runnelPassEnd dt a1 a2) := fun _ _ h => h ▸ rfl
theorem epilogueComplete {dt} {a1 a2} : Statement (.epilogueComplete dt a1 a2) := fun _ _ h => h ▸ rfl
theorem rillTile {dt} {a1 a2} : Statement (.rillTile dt a1 a2) := fun _ _ h => h ▸ rfl
theorem rillFetchStart {dt} {a1} : Statement (.rillFetchStart dt a1) := fun _ _ h => h ▸ rfl
theorem rillFetchReturn {dt} {a1 a2 a3} : Statement (.rillFetchReturn dt a1 a2 a3) := fun _ _ h => h ▸ rfl
theorem rillTileStart {dt} {a1 a2} : Statement (.rillTileStart dt a1 a2) := fun _ _ h => h ▸ rfl
theorem rillTileEnd {dt} {a1 a2 a3} : Statement (.rillTileEnd dt a1 a2 a3) := fun _ _ h => h ▸ rfl
theorem variantWrite {dt} {a1} : Statement (.variantWrite dt a1) := fun _ _ h => h ▸ rfl
theorem cascadeForward {dt} {a1} : Statement (.cascadeForward dt a1) := fun _ _ h => h ▸ rfl
theorem cascadeMerge {dt} {a1} : Statement (.cascadeMerge dt a1) := fun _ _ h => h ▸ rfl
theorem cascadeBackward {dt} {a1} : Statement (.cascadeBackward dt a1) := fun _ _ h => h ▸ rfl
theorem cascadeFetchStart {dt} {a1} : Statement (.cascadeFetchStart dt a1) := fun _ _ h => h ▸ rfl
theorem cascadeFetchReturn {dt} {a1 a2 a3} : Statement (.cascadeFetchReturn dt a1 a2 a3) := fun _ _ h => h ▸ rfl
theorem cascadeTileStart {dt} {a1 a2 a3} : Statement (.cascadeTileStart dt a1 a2 a3) := fun _ _ h => h ▸ rfl
theorem cascadeTileEnd {dt} {a1 a2 a3} : Statement (.cascadeTileEnd dt a1 a2 a3) := fun _ _ h => h ▸ rfl
theorem sessionCreate {dt} : Statement (.sessionCreate dt) := fun _ _ h => h ▸ rfl
theorem sessionCancel {dt} : Statement (.sessionCancel dt) := fun _ _ h => h ▸ rfl
theorem sessionPause {dt} : Statement (.sessionPause dt) := fun _ _ h => h ▸ rfl
theorem sessionRebuild {dt} : Statement (.sessionRebuild dt) := fun _ _ h => h ▸ rfl
theorem sessionRelease {dt} : Statement (.sessionRelease dt) := fun _ _ h => h ▸ rfl
theorem kvProvision {dt} : Statement (.kvProvision dt) := fun _ _ h => h ▸ rfl
theorem kvReclaim {dt} : Statement (.kvReclaim dt) := fun _ _ h => h ▸ rfl
theorem kvReserve {dt} : Statement (.kvReserve dt) := fun _ _ h => h ▸ rfl
theorem kvAppend {dt} {a1} : Statement (.kvAppend dt a1) := fun _ _ h => h ▸ rfl
theorem prefixSeal {dt} : Statement (.prefixSeal dt) := fun _ _ h => h ▸ rfl
theorem prefixAttach {dt} : Statement (.prefixAttach dt) := fun _ _ h => h ▸ rfl
theorem prefixDrop {dt} : Statement (.prefixDrop dt) := fun _ _ h => h ▸ rfl
theorem handoff {dt} : Statement (.handoff dt) := fun _ _ h => h ▸ rfl
theorem handoffArrival {dt} {a1} : Statement (.handoffArrival dt a1) := fun _ _ h => h ▸ rfl
theorem handoffTimeout {dt} {a1} : Statement (.handoffTimeout dt a1) := fun _ _ h => h ▸ rfl
theorem stepBegin {dt} : Statement (.stepBegin dt) := fun _ _ h => h ▸ rfl
theorem stepEnd {dt} : Statement (.stepEnd dt) := fun _ _ h => h ▸ rfl
theorem stepEndResume {dt} {a1} : Statement (.stepEndResume dt a1) := fun _ _ h => h ▸ rfl
theorem spoutTask {dt} {a1} : Statement (.spoutTask dt a1) := fun _ _ h => h ▸ rfl
theorem spoutTaskStart {dt} {a1} : Statement (.spoutTaskStart dt a1) := fun _ _ h => h ▸ rfl
theorem spoutInstruction {dt} {a1 a2 a3} : Statement (.spoutInstruction dt a1 a2 a3) := fun _ _ h => h ▸ rfl
theorem spoutEcall {dt} {a1 a2} : Statement (.spoutEcall dt a1 a2) := fun _ _ h => h ▸ rfl
theorem spoutWatchdog {dt} {a1} : Statement (.spoutWatchdog dt a1) := fun _ _ h => h ▸ rfl
theorem wcClaim {dt} {a1} : Statement (.wcClaim dt a1) := fun _ _ h => h ▸ rfl
theorem wcClaimResume {dt} {a1} : Statement (.wcClaimResume dt a1) := fun _ _ h => h ▸ rfl
theorem wcDone {dt} {a1} : Statement (.wcDone dt a1) := fun _ _ h => h ▸ rfl
theorem spoutSemSignal {dt} {a1} : Statement (.spoutSemSignal dt a1) := fun _ _ h => h ▸ rfl
theorem semWait {dt} {a1} : Statement (.semWait dt a1) := fun _ _ h => h ▸ rfl
theorem semWaitAcquire {dt} {a1 a2} : Statement (.semWaitAcquire dt a1 a2) := fun _ _ h => h ▸ rfl
theorem semWaitDeadline {dt} {a1} : Statement (.semWaitDeadline dt a1) := fun _ _ h => h ▸ rfl
theorem semTry {dt} {a1} : Statement (.semTry dt a1) := fun _ _ h => h ▸ rfl
theorem tileIssue {dt} {a1 a2} : Statement (.tileIssue dt a1 a2) := fun _ _ h => h ▸ rfl
theorem spoutAccessReturn {dt} {a1} : Statement (.spoutAccessReturn dt a1) := fun _ _ h => h ▸ rfl
theorem doorbell {dt} {a1 a2 a3 a4} : Statement (.doorbell dt a1 a2 a3 a4) := fun _ _ h => h ▸ rfl
theorem packetRead {dt} {a1 a2} : Statement (.packetRead dt a1 a2) := fun _ _ h => h ▸ rfl
theorem packetDispatch {dt} : Statement (.packetDispatch dt) := fun _ _ h => h ▸ rfl
theorem nop {dt} {a1} : Statement (.nop dt a1) := fun _ _ h => h ▸ rfl
theorem fence {dt} {a1} : Statement (.fence dt a1) := fun _ _ h => h ▸ rfl
theorem fenceComplete {dt} {a1} : Statement (.fenceComplete dt a1) := fun _ _ h => h ▸ rfl
theorem wait {dt} {a1} : Statement (.wait dt a1) := fun _ _ h => h ▸ rfl
theorem waitSatisfied {dt} {a1} : Statement (.waitSatisfied dt a1) := fun _ _ h => h ▸ rfl
theorem waitTimeout {dt} {a1} : Statement (.waitTimeout dt a1) := fun _ _ h => h ▸ rfl
theorem counterAdd {dt} {a1} : Statement (.counterAdd dt a1) := fun _ _ h => h ▸ rfl
theorem semSignal {dt} {a1} : Statement (.semSignal dt a1) := fun _ _ h => h ▸ rfl
theorem copy {dt} {a1 a2 a3 a4} : Statement (.copy dt a1 a2 a3 a4) := fun _ _ h => h ▸ rfl
theorem fill {dt} {a1} : Statement (.fill dt a1) := fun _ _ h => h ▸ rfl
theorem copyComplete {dt} {a1} : Statement (.copyComplete dt a1) := fun _ _ h => h ▸ rfl
theorem cqTailWrite {dt} {a1 a2} : Statement (.cqTailWrite dt a1 a2) := fun _ _ h => h ▸ rfl
theorem ringEnable {dt} {a1 a2} : Statement (.ringEnable dt a1 a2) := fun _ _ h => h ▸ rfl
theorem ringResume {dt} {a1 a2} : Statement (.ringResume dt a1 a2) := fun _ _ h => h ▸ rfl
theorem sliceEnable {dt} {a1 a2} : Statement (.sliceEnable dt a1 a2) := fun _ _ h => h ▸ rfl
theorem sliceDisable {dt} {a1 a2} : Statement (.sliceDisable dt a1 a2) := fun _ _ h => h ▸ rfl
theorem hostRequestRefused {dt} {a1 a2 a3} : Statement (.hostRequestRefused dt a1 a2 a3) := fun _ _ h => h ▸ rfl
theorem sliceFrozen {dt} {a1} : Statement (.sliceFrozen dt a1) := fun _ _ h => h ▸ rfl
theorem keyLoad {dt} {a1 a2} : Statement (.keyLoad dt a1 a2) := fun _ _ h => h ▸ rfl
theorem keyErase {dt} {a1 a2} : Statement (.keyErase dt a1 a2) := fun _ _ h => h ▸ rfl
theorem memRangeWrite {dt} {a1 a2 a3 a4} : Statement (.memRangeWrite dt a1 a2 a3 a4) := fun _ _ h => h ▸ rfl
theorem sliceBasinsWrite {dt} {a1 a2} : Statement (.sliceBasinsWrite dt a1 a2) := fun _ _ h => h ▸ rfl
theorem sliceReset {dt} {a1 a2} : Statement (.sliceReset dt a1 a2) := fun _ _ h => h ▸ rfl
theorem sliceResetDrained {dt} {a1} : Statement (.sliceResetDrained dt a1) := fun _ _ h => h ▸ rfl
theorem sliceResetComplete {dt} {a1} : Statement (.sliceResetComplete dt a1) := fun _ _ h => h ▸ rfl
theorem handoverZeroingDone {dt} {a1} : Statement (.handoverZeroingDone dt a1) := fun _ _ h => h ▸ rfl
theorem markerRefill {dt} : Statement (.markerRefill dt) := fun _ _ h => h ▸ rfl
theorem markerEnable {dt} {a1 a2} : Statement (.markerEnable dt a1 a2) := fun _ _ h => h ▸ rfl
theorem weightWrite {dt} {a1 a2} : Statement (.weightWrite dt a1 a2) := fun _ _ h => h ▸ rfl
theorem fixedShareWrite {dt} {a1 a2} : Statement (.fixedShareWrite dt a1 a2) := fun _ _ h => h ▸ rfl
theorem yieldRequest {dt} {a1} : Statement (.yieldRequest dt a1) := fun _ _ h => h ▸ rfl
theorem quantumExpiry {dt} {a1} : Statement (.quantumExpiry dt a1) := fun _ _ h => h ▸ rfl
theorem yieldDrained {dt} {a1} : Statement (.yieldDrained dt a1) := fun _ _ h => h ▸ rfl
theorem saveComplete {dt} {a1 a2 a3 a4} : Statement (.saveComplete dt a1 a2 a3 a4) := fun _ _ h => h ▸ rfl
theorem restoreComplete {dt} {a1 a2} : Statement (.restoreComplete dt a1 a2) := fun _ _ h => h ▸ rfl
theorem effectiveTierUpdate {dt} : Statement (.effectiveTierUpdate dt) := fun _ _ h => h ▸ rfl
theorem gateList {dt} {a1 a2} : Statement (.gateList dt a1 a2) := fun _ _ h => h ▸ rfl
theorem gateListRemove {dt} {a1} : Statement (.gateListRemove dt a1) := fun _ _ h => h ▸ rfl
theorem gateListAct {dt} {a1} : Statement (.gateListAct dt a1) := fun _ _ h => h ▸ rfl
theorem guardBandBegin {dt} {a1} : Statement (.guardBandBegin dt a1) := fun _ _ h => h ▸ rfl
theorem windowOpen {dt} {a1} : Statement (.windowOpen dt a1) := fun _ _ h => h ▸ rfl
theorem windowClose {dt} {a1} : Statement (.windowClose dt a1) := fun _ _ h => h ▸ rfl
theorem windowExtendedClose {dt} {a1} : Statement (.windowExtendedClose dt a1) := fun _ _ h => h ▸ rfl
theorem carrierEnable {dt} {a1 a2} : Statement (.carrierEnable dt a1 a2) := fun _ _ h => h ▸ rfl
theorem uplaneSection {dt} {a1} : Statement (.uplaneSection dt a1) := fun _ _ h => h ▸ rfl
theorem receiveWindowClose {dt} {a1 a2 a3} : Statement (.receiveWindowClose dt a1 a2 a3) := fun _ _ h => h ▸ rfl
theorem dlSymbolEmission {dt} {a1 a2 a3} : Statement (.dlSymbolEmission dt a1 a2 a3) := fun _ _ h => h ▸ rfl
theorem radioReservedWrite {dt} {a1} : Statement (.radioReservedWrite dt a1) := fun _ _ h => h ▸ rfl
theorem radioEnable {dt} {a1} : Statement (.radioEnable dt a1) := fun _ _ h => h ▸ rfl
theorem slotPlan {dt} {a1 a2} : Statement (.slotPlan dt a1 a2) := fun _ _ h => h ▸ rfl
theorem ldpcDec {dt} {a1 a2} : Statement (.ldpcDec dt a1 a2) := fun _ _ h => h ▸ rfl
theorem ldpcEnc {dt} {a1 a2} : Statement (.ldpcEnc dt a1 a2) := fun _ _ h => h ▸ rfl
theorem polarDec {dt} {a1 a2} : Statement (.polarDec dt a1 a2) := fun _ _ h => h ▸ rfl
theorem polarEnc {dt} {a1 a2} : Statement (.polarEnc dt a1 a2) := fun _ _ h => h ▸ rfl
theorem dft {dt} {a1 a2} : Statement (.dft dt a1 a2) := fun _ _ h => h ▸ rfl
theorem prach {dt} {a1 a2} : Statement (.prach dt a1 a2) := fun _ _ h => h ▸ rfl
theorem dmrsMeas {dt} {a1 a2} : Statement (.dmrsMeas dt a1 a2) := fun _ _ h => h ▸ rfl
theorem radioJetOp {dt} {a1 a2 a3} : Statement (.radioJetOp dt a1 a2 a3) := fun _ _ h => h ▸ rfl
theorem radioSpoutOp {dt} {a1} : Statement (.radioSpoutOp dt a1) := fun _ _ h => h ▸ rfl
theorem cplaneTx {dt} {a1 a2} : Statement (.cplaneTx dt a1 a2) := fun _ _ h => h ▸ rfl
theorem spoutBudgetStop {dt} {a1} : Statement (.spoutBudgetStop dt a1) := fun _ _ h => h ▸ rfl
theorem radioOpEnd {dt} {a1 a2 a3 a4} : Statement (.radioOpEnd dt a1 a2 a3 a4) := fun _ _ h => h ▸ rfl
theorem slotOverrun {dt} {a1 a2} : Statement (.slotOverrun dt a1 a2) := fun _ _ h => h ▸ rfl
theorem radioTakeover {dt} {a1 a2} : Statement (.radioTakeover dt a1 a2) := fun _ _ h => h ▸ rfl
theorem cellMigrateSource {dt} {a1 a2} : Statement (.cellMigrateSource dt a1 a2) := fun _ _ h => h ▸ rfl
theorem cellMigrateDest {dt} {a1 a2} : Statement (.cellMigrateDest dt a1 a2) := fun _ _ h => h ▸ rfl
theorem migrationSwitch {dt} {a1} : Statement (.migrationSwitch dt a1) := fun _ _ h => h ▸ rfl
theorem migrationSourceDone {dt} {a1} : Statement (.migrationSourceDone dt a1) := fun _ _ h => h ▸ rfl
theorem migrationArrival {dt} {a1} : Statement (.migrationArrival dt a1) := fun _ _ h => h ▸ rfl
theorem migrationTimeout {dt} {a1} : Statement (.migrationTimeout dt a1) := fun _ _ h => h ▸ rfl
theorem syncRx {dt} {a1} : Statement (.syncRx dt a1) := fun _ _ h => h ▸ rfl
theorem followUpRx {dt} {a1} : Statement (.followUpRx dt a1) := fun _ _ h => h ▸ rfl
theorem delayRespRx {dt} {a1} : Statement (.delayRespRx dt a1) := fun _ _ h => h ▸ rfl
theorem delayReqRx {dt} {a1} : Statement (.delayReqRx dt a1) := fun _ _ h => h ▸ rfl
theorem delayReqTx {dt} {a1} : Statement (.delayReqTx dt a1) := fun _ _ h => h ▸ rfl
theorem masterSyncTx {dt} {a1} : Statement (.masterSyncTx dt a1) := fun _ _ h => h ▸ rfl
theorem holdoverEntry {dt} : Statement (.holdoverEntry dt) := fun _ _ h => h ▸ rfl
theorem freeRunWrite {dt} {a1} : Statement (.freeRunWrite dt a1) := fun _ _ h => h ▸ rfl
theorem trackSelWrite {dt} {a1} : Statement (.trackSelWrite dt a1) := fun _ _ h => h ▸ rfl
theorem synceMeasure {dt} {a1} : Statement (.synceMeasure dt a1) := fun _ _ h => h ▸ rfl
theorem synceLoss {dt} : Statement (.synceLoss dt) := fun _ _ h => h ▸ rfl
theorem outputEnable {dt} {a1 a2} : Statement (.outputEnable dt a1 a2) := fun _ _ h => h ▸ rfl
theorem outputDisable {dt} {a1 a2} : Statement (.outputDisable dt a1 a2) := fun _ _ h => h ▸ rfl
theorem outputEdge {dt} {a1} : Statement (.outputEdge dt a1) := fun _ _ h => h ▸ rfl
theorem captureEdge {dt} {a1 a2} : Statement (.captureEdge dt a1 a2) := fun _ _ h => h ▸ rfl
theorem capMetaRead {dt} {a1} : Statement (.capMetaRead dt a1) := fun _ _ h => h ▸ rfl
theorem launchArm {dt} {a1 a2} : Statement (.launchArm dt a1 a2) := fun _ _ h => h ▸ rfl
theorem launchDisarm {dt} {a1 a2} : Statement (.launchDisarm dt a1 a2) := fun _ _ h => h ▸ rfl
theorem launchFire {dt} {a1} : Statement (.launchFire dt a1) := fun _ _ h => h ▸ rfl
theorem ethFrameRx {dt} {a1 a2 a3} : Statement (.ethFrameRx dt a1 a2 a3) := fun _ _ h => h ▸ rfl
theorem ethLinkChange {dt} {a1 a2 a3} : Statement (.ethLinkChange dt a1 a2 a3) := fun _ _ h => h ▸ rfl
theorem forwardEnqueue {dt} {a1} : Statement (.forwardEnqueue dt a1) := fun _ _ h => h ▸ rfl
theorem egressTransmit {dt} {a1} : Statement (.egressTransmit dt a1) := fun _ _ h => h ▸ rfl
theorem ethMarkerRefill {dt} : Statement (.ethMarkerRefill dt) := fun _ _ h => h ▸ rfl
theorem gclArm {dt} {a1 a2} : Statement (.gclArm dt a1 a2) := fun _ _ h => h ▸ rfl
theorem gclSwitch {dt} {a1} : Statement (.gclSwitch dt a1) := fun _ _ h => h ▸ rfl
theorem mgmtTxEntry {dt} : Statement (.mgmtTxEntry dt) := fun _ _ h => h ▸ rfl
theorem mgmtTxNotBefore {dt} : Statement (.mgmtTxNotBefore dt) := fun _ _ h => h ▸ rfl
theorem flitReplay {dt} {a1} : Statement (.flitReplay dt a1) := fun _ _ h => h ▸ rfl
theorem aqdLinkDown {dt} {a1} : Statement (.aqdLinkDown dt a1) := fun _ _ h => h ▸ rfl
theorem aqdLinkUp {dt} {a1 a2 a3 a4} : Statement (.aqdLinkUp dt a1 a2 a3 a4) := fun _ _ h => h ▸ rfl
theorem aqdTrainTimeout {dt} {a1 a2} : Statement (.aqdTrainTimeout dt a1 a2) := fun _ _ h => h ▸ rfl
theorem aqdRd {dt} {a1 a2} : Statement (.aqdRd dt a1 a2) := fun _ _ h => h ▸ rfl
theorem aqdWr {dt} {a1} : Statement (.aqdWr dt a1) := fun _ _ h => h ▸ rfl
theorem aqdBw {dt} {a1} : Statement (.aqdBw dt a1) := fun _ _ h => h ▸ rfl
theorem aqdAt {dt} {a1} : Statement (.aqdAt dt a1) := fun _ _ h => h ▸ rfl
theorem aqdBump {dt} {a1} : Statement (.aqdBump dt a1) := fun _ _ h => h ▸ rfl
theorem aqdQuery {dt} {a1} : Statement (.aqdQuery dt a1) := fun _ _ h => h ▸ rfl
theorem homeLineUpdate {dt} {a1 a2} : Statement (.homeLineUpdate dt a1 a2) := fun _ _ h => h ▸ rfl
theorem aqdReply {dt} {a1} : Statement (.aqdReply dt a1) := fun _ _ h => h ▸ rfl
theorem requestExpiry {dt} {a1 a2} : Statement (.requestExpiry dt a1 a2) := fun _ _ h => h ▸ rfl
theorem senderWaitClose {dt} {a1} : Statement (.senderWaitClose dt a1) := fun _ _ h => h ▸ rfl
theorem aqdRetry {dt} {a1} : Statement (.aqdRetry dt a1) := fun _ _ h => h ▸ rfl
theorem creditGrant {dt} {a1} : Statement (.creditGrant dt a1) := fun _ _ h => h ▸ rfl
theorem aqdAtomic {dt} {a1} : Statement (.aqdAtomic dt a1) := fun _ _ h => h ▸ rfl
theorem copyAsync {dt} {a1 a2 a3} : Statement (.copyAsync dt a1 a2 a3) := fun _ _ h => h ▸ rfl
theorem aqdEnable {dt} {a1} : Statement (.aqdEnable dt a1) := fun _ _ h => h ▸ rfl
theorem arrivalCounterWrite {dt} {a1 a2} : Statement (.arrivalCounterWrite dt a1 a2) := fun _ _ h => h ▸ rfl
theorem shadowExport {dt} {a1} : Statement (.shadowExport dt a1) := fun _ _ h => h ▸ rfl
theorem shadowCompare {dt} {a1} : Statement (.shadowCompare dt a1) := fun _ _ h => h ▸ rfl
theorem shadowEnd {dt} {a1} : Statement (.shadowEnd dt a1) := fun _ _ h => h ▸ rfl
theorem shadowFillDone {dt} {a1} : Statement (.shadowFillDone dt a1) := fun _ _ h => h ▸ rfl
theorem shadowPendingTimeout {dt} {a1} : Statement (.shadowPendingTimeout dt a1) := fun _ _ h => h ▸ rfl
theorem sourceLost {dt} {a1} : Statement (.sourceLost dt a1) := fun _ _ h => h ▸ rfl
theorem sourceLostCmd {dt} {a1 a2} : Statement (.sourceLostCmd dt a1 a2) := fun _ _ h => h ▸ rfl
theorem detStepWrite {dt} {a1 a2} : Statement (.detStepWrite dt a1 a2) := fun _ _ h => h ▸ rfl
theorem faultReportCapture {dt} {a1} : Statement (.faultReportCapture dt a1) := fun _ _ h => h ▸ rfl
theorem errorPairAssert {dt} : Statement (.errorPairAssert dt) := fun _ _ h => h ▸ rfl
theorem fenceSet {dt} {a1} : Statement (.fenceSet dt a1) := fun _ _ h => h ▸ rfl
theorem fenceClear {dt} {a1} : Statement (.fenceClear dt a1) := fun _ _ h => h ▸ rfl
theorem quietWindowClose {dt} {a1} : Statement (.quietWindowClose dt a1) := fun _ _ h => h ▸ rfl
theorem recoveryTestDone {dt} {a1 a2} : Statement (.recoveryTestDone dt a1 a2) := fun _ _ h => h ▸ rfl
theorem inferFence {dt} {a1} : Statement (.inferFence dt a1) := fun _ _ h => h ▸ rfl
theorem inferClear {dt} {a1} : Statement (.inferClear dt a1) := fun _ _ h => h ▸ rfl
theorem pinClear {dt} {a1} : Statement (.pinClear dt a1) := fun _ _ h => h ▸ rfl
theorem siltFreeze {dt} {a1} : Statement (.siltFreeze dt a1) := fun _ _ h => h ▸ rfl
theorem siltRearm {dt} {a1} : Statement (.siltRearm dt a1) := fun _ _ h => h ▸ rfl
theorem enterSafe {dt} {a1} : Statement (.enterSafe dt a1) := fun _ _ h => h ▸ rfl
theorem safeStateEntry {dt} : Statement (.safeStateEntry dt) := fun _ _ h => h ▸ rfl
theorem driverMarker {dt} {a1} : Statement (.driverMarker dt a1) := fun _ _ h => h ▸ rfl
theorem spillwayHeartbeat {dt} : Statement (.spillwayHeartbeat dt) := fun _ _ h => h ▸ rfl
theorem spillwayLoss {dt} : Statement (.spillwayLoss dt) := fun _ _ h => h ▸ rfl
theorem healthDecay {dt} : Statement (.healthDecay dt) := fun _ _ h => h ▸ rfl
theorem governorPeriod {dt} : Statement (.governorPeriod dt) := fun _ _ h => h ▸ rfl
theorem basinStepChange {dt} {a1} : Statement (.basinStepChange dt a1) := fun _ _ h => h ▸ rfl
theorem droop {dt} {a1 a2} : Statement (.droop dt a1 a2) := fun _ _ h => h ▸ rfl
theorem droopRecovery {dt} {a1 a2} : Statement (.droopRecovery dt a1 a2) := fun _ _ h => h ▸ rfl
theorem stretchReport {dt} {a1} : Statement (.stretchReport dt a1) := fun _ _ h => h ▸ rfl
theorem slewRefill {dt} : Statement (.slewRefill dt) := fun _ _ h => h ▸ rfl
theorem slewStartGrant {dt} : Statement (.slewStartGrant dt) := fun _ _ h => h ▸ rfl
theorem rampDownEnd {dt} {a1} : Statement (.rampDownEnd dt a1) := fun _ _ h => h ▸ rfl
theorem basinGateReq {dt} {a1} : Statement (.basinGateReq dt a1) := fun _ _ h => h ▸ rfl
theorem basinGateEffect {dt} {a1} : Statement (.basinGateEffect dt a1) := fun _ _ h => h ▸ rfl
theorem basinWakeReq {dt} {a1} : Statement (.basinWakeReq dt a1) := fun _ _ h => h ▸ rfl
theorem wakeRampDone {dt} {a1} : Statement (.wakeRampDone dt a1) := fun _ _ h => h ▸ rfl
theorem wakeZeroingDone {dt} {a1 a2} : Statement (.wakeZeroingDone dt a1 a2) := fun _ _ h => h ▸ rfl
theorem energyMeterSample {dt} {a1 a2} : Statement (.energyMeterSample dt a1 a2) := fun _ _ h => h ▸ rfl
theorem thermalSample {dt} {a1 a2 a3} : Statement (.thermalSample dt a1 a2 a3) := fun _ _ h => h ▸ rfl
theorem coldReset {dt} {a1} : Statement (.coldReset dt a1) := fun _ _ h => h ▸ rfl
theorem pkgRstRelease {dt} : Statement (.pkgRstRelease dt) := fun _ _ h => h ▸ rfl
theorem perstAssert {dt} : Statement (.perstAssert dt) := fun _ _ h => h ▸ rfl
theorem perstRelease {dt} : Statement (.perstRelease dt) := fun _ _ h => h ▸ rfl
theorem resetCmdWarm {dt} {a1} : Statement (.resetCmdWarm dt a1) := fun _ _ h => h ▸ rfl
theorem warmResetEffect {dt} : Statement (.warmResetEffect dt) := fun _ _ h => h ▸ rfl
theorem resetCmdTerrace {dt} {a1} : Statement (.resetCmdTerrace dt a1) := fun _ _ h => h ▸ rfl
theorem resetCmdBasin {dt} {a1} : Statement (.resetCmdBasin dt a1) := fun _ _ h => h ▸ rfl
theorem terraceResetDone {dt} : Statement (.terraceResetDone dt) := fun _ _ h => h ▸ rfl
theorem basinResetDone {dt} : Statement (.basinResetDone dt) := fun _ _ h => h ▸ rfl
theorem fusesLoaded {dt} {a1 a2} : Statement (.fusesLoaded dt a1 a2) := fun _ _ h => h ▸ rfl
theorem hubReady {dt} : Statement (.hubReady dt) := fun _ _ h => h ▸ rfl
theorem pcieReady {dt} : Statement (.pcieReady dt) := fun _ _ h => h ▸ rfl
theorem dieReady {dt} {a1 a2} : Statement (.dieReady dt a1 a2) := fun _ _ h => h ▸ rfl
theorem hbmControllerTrained {dt} {a1 a2 a3 a4} : Statement (.hbmControllerTrained dt a1 a2 a3 a4) := fun _ _ h => h ▸ rfl
theorem localDone {dt} : Statement (.localDone dt) := fun _ _ h => h ▸ rfl
theorem pcieLinkDown {dt} : Statement (.pcieLinkDown dt) := fun _ _ h => h ▸ rfl
theorem mctpControl {dt} {a1 a2} : Statement (.mctpControl dt a1 a2) := fun _ _ h => h ▸ rfl
theorem pldmGetSensor {dt} {a1 a2} : Statement (.pldmGetSensor dt a1 a2) := fun _ _ h => h ▸ rfl
theorem setEventReceiver {dt} {a1 a2 a3} : Statement (.setEventReceiver dt a1 a2 a3) := fun _ _ h => h ▸ rfl
theorem vendorSiltStatus {dt} {a1} : Statement (.vendorSiltStatus dt a1) := fun _ _ h => h ▸ rfl
theorem vendorSiltEntry {dt} {a1 a2} : Statement (.vendorSiltEntry dt a1 a2) := fun _ _ h => h ▸ rfl
theorem vendorSiltSnap {dt} {a1 a2} : Statement (.vendorSiltSnap dt a1 a2) := fun _ _ h => h ▸ rfl
theorem vendorClassCount {dt} {a1 a2} : Statement (.vendorClassCount dt a1 a2) := fun _ _ h => h ▸ rfl
theorem vendorHealth {dt} {a1} : Statement (.vendorHealth dt a1) := fun _ _ h => h ▸ rfl
theorem jtagInstruction {dt} {a1} : Statement (.jtagInstruction dt a1) := fun _ _ h => h ▸ rfl
theorem supplyRemoval {dt} {a1} : Statement (.supplyRemoval dt a1) := fun _ _ h => h ▸ rfl

end Sys2Proof.Laws.Operands
end

