-- ==== Sys2Proof/Laws/Spout.lean ====
section
/-! SUPPORT. What a spout command that finds its instruction at the pc acts on. -/
namespace Sys2Proof.Machine

theorem State.atOwn_of_fetches {s t : State} {c : Nat} {u : Uop} (h : s.fetches c u t) (hu : u.ownRow = true)
    (k : State → Uop → State) : s.atOwn c k = k t u := by
  obtain ⟨hr, w, len, hf, rfl⟩ := h
  simp [State.atOwn, hr, hf, hu]

theorem State.atCustom_of_fetches {s t : State} {c f rd a b : Nat} (h : s.fetches c (.custom f rd a b) t)
    (k : State → Nat → Nat → Nat → State) :
    s.atCustom c f k = k t rd ((t.core c).xr a) ((t.core c).xr b) := by
  simp [State.atCustom, State.atOwn_of_fetches h rfl]

end Sys2Proof.Machine
end

