-- ==== Sys2Proof/Laws/State.lean ====
section
/-! SUPPORT. What each update of the state leaves: one lemma for each field. -/
namespace Sys2Proof.Machine

/-! ### setReg -/

@[simp] theorem State.setReg_pending (s : State) (n : RegName) (i v : Nat) : (s.setReg n i v).pending = s.pending := rfl
@[simp] theorem State.setReg_freeCtr (s : State) (n : RegName) (i v : Nat) : (s.setReg n i v).freeCtr = s.freeCtr := rfl
@[simp] theorem State.setReg_readData (s : State) (n : RegName) (i v : Nat) : (s.setReg n i v).readData = s.readData := rfl
@[simp] theorem State.setReg_irqs (s : State) (n : RegName) (i v : Nat) : (s.setReg n i v).irqs = s.irqs := rfl
@[simp] theorem State.setReg_fresh (s : State) (n : RegName) (i v : Nat) : (s.setReg n i v).fresh = s.fresh := rfl
@[simp] theorem State.setReg_ticked (s : State) (n : RegName) (i v : Nat) : (s.setReg n i v).ticked = s.ticked := rfl
@[simp] theorem State.setReg_shadows (s : State) (n : RegName) (i v : Nat) : (s.setReg n i v).shadows = s.shadows := rfl
@[simp] theorem State.setReg_dev (s : State) (n : RegName) (i v : Nat) : (s.setReg n i v).dev = s.dev := rfl
@[simp] theorem State.setReg_devKey (s : State) (n : RegName) (i v : Nat) : (s.setReg n i v).devKey = s.devKey := rfl
@[simp] theorem State.setReg_keys (s : State) (n : RegName) (i v : Nat) : (s.setReg n i v).keys = s.keys := rfl
@[simp] theorem State.setReg_cistern (s : State) (n : RegName) (i v : Nat) : (s.setReg n i v).cistern = s.cistern := rfl
@[simp] theorem State.setReg_pool (s : State) (n : RegName) (i v : Nat) : (s.setReg n i v).pool = s.pool := rfl
@[simp] theorem State.setReg_host (s : State) (n : RegName) (i v : Nat) : (s.setReg n i v).host = s.host := rfl
@[simp] theorem State.setReg_eccC (s : State) (n : RegName) (i v : Nat) : (s.setReg n i v).eccC = s.eccC := rfl
@[simp] theorem State.setReg_eccP (s : State) (n : RegName) (i v : Nat) : (s.setReg n i v).eccP = s.eccP := rfl
@[simp] theorem State.setReg_cmds (s : State) (n : RegName) (i v : Nat) : (s.setReg n i v).cmds = s.cmds := rfl
@[simp] theorem State.setReg_nextCmd (s : State) (n : RegName) (i v : Nat) : (s.setReg n i v).nextCmd = s.nextCmd := rfl
@[simp] theorem State.setReg_rings (s : State) (n : RegName) (i v : Nat) : (s.setReg n i v).rings = s.rings := rfl
@[simp] theorem State.setReg_sluice (s : State) (n : RegName) (i v : Nat) : (s.setReg n i v).sluice = s.sluice := rfl
@[simp] theorem State.setReg_basins (s : State) (n : RegName) (i v : Nat) : (s.setReg n i v).basins = s.basins := rfl
@[simp] theorem State.setReg_cores (s : State) (n : RegName) (i v : Nat) : (s.setReg n i v).cores = s.cores := rfl
@[simp] theorem State.setReg_jets (s : State) (n : RegName) (i v : Nat) : (s.setReg n i v).jets = s.jets := rfl
@[simp] theorem State.setReg_rills (s : State) (n : RegName) (i v : Nat) : (s.setReg n i v).rills = s.rills := rfl
@[simp] theorem State.setReg_cascades (s : State) (n : RegName) (i v : Nat) : (s.setReg n i v).cascades = s.cascades := rfl
@[simp] theorem State.setReg_slices (s : State) (n : RegName) (i v : Nat) : (s.setReg n i v).slices = s.slices := rfl
@[simp] theorem State.setReg_variants (s : State) (n : RegName) (i v : Nat) : (s.setReg n i v).variants = s.variants := rfl
@[simp] theorem State.setReg_serve (s : State) (n : RegName) (i v : Nat) : (s.setReg n i v).serve = s.serve := rfl
@[simp] theorem State.setReg_saves (s : State) (n : RegName) (i v : Nat) : (s.setReg n i v).saves = s.saves := rfl
@[simp] theorem State.setReg_radio (s : State) (n : RegName) (i v : Nat) : (s.setReg n i v).radio = s.radio := rfl
@[simp] theorem State.setReg_time (s : State) (n : RegName) (i v : Nat) : (s.setReg n i v).time = s.time := rfl
@[simp] theorem State.setReg_eth (s : State) (n : RegName) (i v : Nat) : (s.setReg n i v).eth = s.eth := rfl
@[simp] theorem State.setReg_mtx (s : State) (n : RegName) (i v : Nat) : (s.setReg n i v).mtx = s.mtx := rfl
@[simp] theorem State.setReg_mtxDue (s : State) (n : RegName) (i v : Nat) : (s.setReg n i v).mtxDue = s.mtxDue := rfl
@[simp] theorem State.setReg_mtxOut (s : State) (n : RegName) (i v : Nat) : (s.setReg n i v).mtxOut = s.mtxOut := rfl
@[simp] theorem State.setReg_aqd (s : State) (n : RegName) (i v : Nat) : (s.setReg n i v).aqd = s.aqd := rfl
@[simp] theorem State.setReg_shadowing (s : State) (n : RegName) (i v : Nat) : (s.setReg n i v).shadowing = s.shadowing := rfl
@[simp] theorem State.setReg_spw (s : State) (n : RegName) (i v : Nat) : (s.setReg n i v).spw = s.spw := rfl
@[simp] theorem State.setReg_pwr (s : State) (n : RegName) (i v : Nat) : (s.setReg n i v).pwr = s.pwr := rfl
@[simp] theorem State.setReg_boot (s : State) (n : RegName) (i v : Nat) : (s.setReg n i v).boot = s.boot := rfl
@[simp] theorem State.setReg_mgmt (s : State) (n : RegName) (i v : Nat) : (s.setReg n i v).mgmt = s.mgmt := rfl
@[simp] theorem State.basin_setReg (s : State) (n : RegName) (i v : Nat) (k : Nat) : (s.setReg n i v).basin k = s.basin k := by
  unfold State.basin; simp
@[simp] theorem State.core_setReg (s : State) (n : RegName) (i v : Nat) (k : Nat) : (s.setReg n i v).core k = s.core k := by
  unfold State.core; simp
@[simp] theorem State.jet_setReg (s : State) (n : RegName) (i v : Nat) (k : Nat) : (s.setReg n i v).jet k = s.jet k := by
  unfold State.jet; simp
@[simp] theorem State.rill_setReg (s : State) (n : RegName) (i v : Nat) (k : Nat) : (s.setReg n i v).rill k = s.rill k := by
  unfold State.rill; simp
@[simp] theorem State.cascade_setReg (s : State) (n : RegName) (i v : Nat) (k : Nat) : (s.setReg n i v).cascade k = s.cascade k := by
  unfold State.cascade; simp
@[simp] theorem State.sliceSt_setReg (s : State) (n : RegName) (i v : Nat) (k : Nat) : (s.setReg n i v).sliceSt k = s.sliceSt k := by
  unfold State.sliceSt; simp
@[simp] theorem State.ring_setReg (s : State) (n : RegName) (i v : Nat) (k : Nat) : (s.setReg n i v).ring k = s.ring k := by
  unfold State.ring; simp
@[simp] theorem State.ethPort_setReg (s : State) (n : RegName) (i v : Nat) (k : Nat) : (s.setReg n i v).ethPort k = s.ethPort k := by
  unfold State.ethPort; simp

/-! ### wr -/

@[simp] theorem State.wr_pending (s : State) (f : Fld) (i v : Nat) : (s.wr f i v).pending = s.pending := rfl
@[simp] theorem State.wr_freeCtr (s : State) (f : Fld) (i v : Nat) : (s.wr f i v).freeCtr = s.freeCtr := rfl
@[simp] theorem State.wr_readData (s : State) (f : Fld) (i v : Nat) : (s.wr f i v).readData = s.readData := rfl
@[simp] theorem State.wr_irqs (s : State) (f : Fld) (i v : Nat) : (s.wr f i v).irqs = s.irqs := rfl
@[simp] theorem State.wr_fresh (s : State) (f : Fld) (i v : Nat) : (s.wr f i v).fresh = s.fresh := rfl
@[simp] theorem State.wr_ticked (s : State) (f : Fld) (i v : Nat) : (s.wr f i v).ticked = s.ticked := rfl
@[simp] theorem State.wr_shadows (s : State) (f : Fld) (i v : Nat) : (s.wr f i v).shadows = s.shadows := rfl
@[simp] theorem State.wr_dev (s : State) (f : Fld) (i v : Nat) : (s.wr f i v).dev = s.dev := rfl
@[simp] theorem State.wr_devKey (s : State) (f : Fld) (i v : Nat) : (s.wr f i v).devKey = s.devKey := rfl
@[simp] theorem State.wr_keys (s : State) (f : Fld) (i v : Nat) : (s.wr f i v).keys = s.keys := rfl
@[simp] theorem State.wr_cistern (s : State) (f : Fld) (i v : Nat) : (s.wr f i v).cistern = s.cistern := rfl
@[simp] theorem State.wr_pool (s : State) (f : Fld) (i v : Nat) : (s.wr f i v).pool = s.pool := rfl
@[simp] theorem State.wr_host (s : State) (f : Fld) (i v : Nat) : (s.wr f i v).host = s.host := rfl
@[simp] theorem State.wr_eccC (s : State) (f : Fld) (i v : Nat) : (s.wr f i v).eccC = s.eccC := rfl
@[simp] theorem State.wr_eccP (s : State) (f : Fld) (i v : Nat) : (s.wr f i v).eccP = s.eccP := rfl
@[simp] theorem State.wr_cmds (s : State) (f : Fld) (i v : Nat) : (s.wr f i v).cmds = s.cmds := rfl
@[simp] theorem State.wr_nextCmd (s : State) (f : Fld) (i v : Nat) : (s.wr f i v).nextCmd = s.nextCmd := rfl
@[simp] theorem State.wr_rings (s : State) (f : Fld) (i v : Nat) : (s.wr f i v).rings = s.rings := rfl
@[simp] theorem State.wr_sluice (s : State) (f : Fld) (i v : Nat) : (s.wr f i v).sluice = s.sluice := rfl
@[simp] theorem State.wr_basins (s : State) (f : Fld) (i v : Nat) : (s.wr f i v).basins = s.basins := rfl
@[simp] theorem State.wr_cores (s : State) (f : Fld) (i v : Nat) : (s.wr f i v).cores = s.cores := rfl
@[simp] theorem State.wr_jets (s : State) (f : Fld) (i v : Nat) : (s.wr f i v).jets = s.jets := rfl
@[simp] theorem State.wr_rills (s : State) (f : Fld) (i v : Nat) : (s.wr f i v).rills = s.rills := rfl
@[simp] theorem State.wr_cascades (s : State) (f : Fld) (i v : Nat) : (s.wr f i v).cascades = s.cascades := rfl
@[simp] theorem State.wr_slices (s : State) (f : Fld) (i v : Nat) : (s.wr f i v).slices = s.slices := rfl
@[simp] theorem State.wr_variants (s : State) (f : Fld) (i v : Nat) : (s.wr f i v).variants = s.variants := rfl
@[simp] theorem State.wr_serve (s : State) (f : Fld) (i v : Nat) : (s.wr f i v).serve = s.serve := rfl
@[simp] theorem State.wr_saves (s : State) (f : Fld) (i v : Nat) : (s.wr f i v).saves = s.saves := rfl
@[simp] theorem State.wr_radio (s : State) (f : Fld) (i v : Nat) : (s.wr f i v).radio = s.radio := rfl
@[simp] theorem State.wr_time (s : State) (f : Fld) (i v : Nat) : (s.wr f i v).time = s.time := rfl
@[simp] theorem State.wr_eth (s : State) (f : Fld) (i v : Nat) : (s.wr f i v).eth = s.eth := rfl
@[simp] theorem State.wr_mtx (s : State) (f : Fld) (i v : Nat) : (s.wr f i v).mtx = s.mtx := rfl
@[simp] theorem State.wr_mtxDue (s : State) (f : Fld) (i v : Nat) : (s.wr f i v).mtxDue = s.mtxDue := rfl
@[simp] theorem State.wr_mtxOut (s : State) (f : Fld) (i v : Nat) : (s.wr f i v).mtxOut = s.mtxOut := rfl
@[simp] theorem State.wr_aqd (s : State) (f : Fld) (i v : Nat) : (s.wr f i v).aqd = s.aqd := rfl
@[simp] theorem State.wr_shadowing (s : State) (f : Fld) (i v : Nat) : (s.wr f i v).shadowing = s.shadowing := rfl
@[simp] theorem State.wr_spw (s : State) (f : Fld) (i v : Nat) : (s.wr f i v).spw = s.spw := rfl
@[simp] theorem State.wr_pwr (s : State) (f : Fld) (i v : Nat) : (s.wr f i v).pwr = s.pwr := rfl
@[simp] theorem State.wr_boot (s : State) (f : Fld) (i v : Nat) : (s.wr f i v).boot = s.boot := rfl
@[simp] theorem State.wr_mgmt (s : State) (f : Fld) (i v : Nat) : (s.wr f i v).mgmt = s.mgmt := rfl
@[simp] theorem State.basin_wr (s : State) (f : Fld) (i v : Nat) (k : Nat) : (s.wr f i v).basin k = s.basin k := by
  unfold State.basin; simp
@[simp] theorem State.core_wr (s : State) (f : Fld) (i v : Nat) (k : Nat) : (s.wr f i v).core k = s.core k := by
  unfold State.core; simp
@[simp] theorem State.jet_wr (s : State) (f : Fld) (i v : Nat) (k : Nat) : (s.wr f i v).jet k = s.jet k := by
  unfold State.jet; simp
@[simp] theorem State.rill_wr (s : State) (f : Fld) (i v : Nat) (k : Nat) : (s.wr f i v).rill k = s.rill k := by
  unfold State.rill; simp
@[simp] theorem State.cascade_wr (s : State) (f : Fld) (i v : Nat) (k : Nat) : (s.wr f i v).cascade k = s.cascade k := by
  unfold State.cascade; simp
@[simp] theorem State.sliceSt_wr (s : State) (f : Fld) (i v : Nat) (k : Nat) : (s.wr f i v).sliceSt k = s.sliceSt k := by
  unfold State.sliceSt; simp
@[simp] theorem State.ring_wr (s : State) (f : Fld) (i v : Nat) (k : Nat) : (s.wr f i v).ring k = s.ring k := by
  unfold State.ring; simp
@[simp] theorem State.ethPort_wr (s : State) (f : Fld) (i v : Nat) (k : Nat) : (s.wr f i v).ethPort k = s.ethPort k := by
  unfold State.ethPort; simp

/-! ### setRegBit -/

@[simp] theorem State.setRegBit_pending (s : State) (n : RegName) (i b : Nat) (v : Bool) : (s.setRegBit n i b v).pending = s.pending := rfl
@[simp] theorem State.setRegBit_freeCtr (s : State) (n : RegName) (i b : Nat) (v : Bool) : (s.setRegBit n i b v).freeCtr = s.freeCtr := rfl
@[simp] theorem State.setRegBit_readData (s : State) (n : RegName) (i b : Nat) (v : Bool) : (s.setRegBit n i b v).readData = s.readData := rfl
@[simp] theorem State.setRegBit_irqs (s : State) (n : RegName) (i b : Nat) (v : Bool) : (s.setRegBit n i b v).irqs = s.irqs := rfl
@[simp] theorem State.setRegBit_fresh (s : State) (n : RegName) (i b : Nat) (v : Bool) : (s.setRegBit n i b v).fresh = s.fresh := rfl
@[simp] theorem State.setRegBit_ticked (s : State) (n : RegName) (i b : Nat) (v : Bool) : (s.setRegBit n i b v).ticked = s.ticked := rfl
@[simp] theorem State.setRegBit_shadows (s : State) (n : RegName) (i b : Nat) (v : Bool) : (s.setRegBit n i b v).shadows = s.shadows := rfl
@[simp] theorem State.setRegBit_dev (s : State) (n : RegName) (i b : Nat) (v : Bool) : (s.setRegBit n i b v).dev = s.dev := rfl
@[simp] theorem State.setRegBit_devKey (s : State) (n : RegName) (i b : Nat) (v : Bool) : (s.setRegBit n i b v).devKey = s.devKey := rfl
@[simp] theorem State.setRegBit_keys (s : State) (n : RegName) (i b : Nat) (v : Bool) : (s.setRegBit n i b v).keys = s.keys := rfl
@[simp] theorem State.setRegBit_cistern (s : State) (n : RegName) (i b : Nat) (v : Bool) : (s.setRegBit n i b v).cistern = s.cistern := rfl
@[simp] theorem State.setRegBit_pool (s : State) (n : RegName) (i b : Nat) (v : Bool) : (s.setRegBit n i b v).pool = s.pool := rfl
@[simp] theorem State.setRegBit_host (s : State) (n : RegName) (i b : Nat) (v : Bool) : (s.setRegBit n i b v).host = s.host := rfl
@[simp] theorem State.setRegBit_eccC (s : State) (n : RegName) (i b : Nat) (v : Bool) : (s.setRegBit n i b v).eccC = s.eccC := rfl
@[simp] theorem State.setRegBit_eccP (s : State) (n : RegName) (i b : Nat) (v : Bool) : (s.setRegBit n i b v).eccP = s.eccP := rfl
@[simp] theorem State.setRegBit_cmds (s : State) (n : RegName) (i b : Nat) (v : Bool) : (s.setRegBit n i b v).cmds = s.cmds := rfl
@[simp] theorem State.setRegBit_nextCmd (s : State) (n : RegName) (i b : Nat) (v : Bool) : (s.setRegBit n i b v).nextCmd = s.nextCmd := rfl
@[simp] theorem State.setRegBit_rings (s : State) (n : RegName) (i b : Nat) (v : Bool) : (s.setRegBit n i b v).rings = s.rings := rfl
@[simp] theorem State.setRegBit_sluice (s : State) (n : RegName) (i b : Nat) (v : Bool) : (s.setRegBit n i b v).sluice = s.sluice := rfl
@[simp] theorem State.setRegBit_basins (s : State) (n : RegName) (i b : Nat) (v : Bool) : (s.setRegBit n i b v).basins = s.basins := rfl
@[simp] theorem State.setRegBit_cores (s : State) (n : RegName) (i b : Nat) (v : Bool) : (s.setRegBit n i b v).cores = s.cores := rfl
@[simp] theorem State.setRegBit_jets (s : State) (n : RegName) (i b : Nat) (v : Bool) : (s.setRegBit n i b v).jets = s.jets := rfl
@[simp] theorem State.setRegBit_rills (s : State) (n : RegName) (i b : Nat) (v : Bool) : (s.setRegBit n i b v).rills = s.rills := rfl
@[simp] theorem State.setRegBit_cascades (s : State) (n : RegName) (i b : Nat) (v : Bool) : (s.setRegBit n i b v).cascades = s.cascades := rfl
@[simp] theorem State.setRegBit_slices (s : State) (n : RegName) (i b : Nat) (v : Bool) : (s.setRegBit n i b v).slices = s.slices := rfl
@[simp] theorem State.setRegBit_variants (s : State) (n : RegName) (i b : Nat) (v : Bool) : (s.setRegBit n i b v).variants = s.variants := rfl
@[simp] theorem State.setRegBit_serve (s : State) (n : RegName) (i b : Nat) (v : Bool) : (s.setRegBit n i b v).serve = s.serve := rfl
@[simp] theorem State.setRegBit_saves (s : State) (n : RegName) (i b : Nat) (v : Bool) : (s.setRegBit n i b v).saves = s.saves := rfl
@[simp] theorem State.setRegBit_radio (s : State) (n : RegName) (i b : Nat) (v : Bool) : (s.setRegBit n i b v).radio = s.radio := rfl
@[simp] theorem State.setRegBit_time (s : State) (n : RegName) (i b : Nat) (v : Bool) : (s.setRegBit n i b v).time = s.time := rfl
@[simp] theorem State.setRegBit_eth (s : State) (n : RegName) (i b : Nat) (v : Bool) : (s.setRegBit n i b v).eth = s.eth := rfl
@[simp] theorem State.setRegBit_mtx (s : State) (n : RegName) (i b : Nat) (v : Bool) : (s.setRegBit n i b v).mtx = s.mtx := rfl
@[simp] theorem State.setRegBit_mtxDue (s : State) (n : RegName) (i b : Nat) (v : Bool) : (s.setRegBit n i b v).mtxDue = s.mtxDue := rfl
@[simp] theorem State.setRegBit_mtxOut (s : State) (n : RegName) (i b : Nat) (v : Bool) : (s.setRegBit n i b v).mtxOut = s.mtxOut := rfl
@[simp] theorem State.setRegBit_aqd (s : State) (n : RegName) (i b : Nat) (v : Bool) : (s.setRegBit n i b v).aqd = s.aqd := rfl
@[simp] theorem State.setRegBit_shadowing (s : State) (n : RegName) (i b : Nat) (v : Bool) : (s.setRegBit n i b v).shadowing = s.shadowing := rfl
@[simp] theorem State.setRegBit_spw (s : State) (n : RegName) (i b : Nat) (v : Bool) : (s.setRegBit n i b v).spw = s.spw := rfl
@[simp] theorem State.setRegBit_pwr (s : State) (n : RegName) (i b : Nat) (v : Bool) : (s.setRegBit n i b v).pwr = s.pwr := rfl
@[simp] theorem State.setRegBit_boot (s : State) (n : RegName) (i b : Nat) (v : Bool) : (s.setRegBit n i b v).boot = s.boot := rfl
@[simp] theorem State.setRegBit_mgmt (s : State) (n : RegName) (i b : Nat) (v : Bool) : (s.setRegBit n i b v).mgmt = s.mgmt := rfl
@[simp] theorem State.basin_setRegBit (s : State) (n : RegName) (i b : Nat) (v : Bool) (k : Nat) : (s.setRegBit n i b v).basin k = s.basin k := by
  unfold State.basin; simp
@[simp] theorem State.core_setRegBit (s : State) (n : RegName) (i b : Nat) (v : Bool) (k : Nat) : (s.setRegBit n i b v).core k = s.core k := by
  unfold State.core; simp
@[simp] theorem State.jet_setRegBit (s : State) (n : RegName) (i b : Nat) (v : Bool) (k : Nat) : (s.setRegBit n i b v).jet k = s.jet k := by
  unfold State.jet; simp
@[simp] theorem State.rill_setRegBit (s : State) (n : RegName) (i b : Nat) (v : Bool) (k : Nat) : (s.setRegBit n i b v).rill k = s.rill k := by
  unfold State.rill; simp
@[simp] theorem State.cascade_setRegBit (s : State) (n : RegName) (i b : Nat) (v : Bool) (k : Nat) : (s.setRegBit n i b v).cascade k = s.cascade k := by
  unfold State.cascade; simp
@[simp] theorem State.sliceSt_setRegBit (s : State) (n : RegName) (i b : Nat) (v : Bool) (k : Nat) : (s.setRegBit n i b v).sliceSt k = s.sliceSt k := by
  unfold State.sliceSt; simp
@[simp] theorem State.ring_setRegBit (s : State) (n : RegName) (i b : Nat) (v : Bool) (k : Nat) : (s.setRegBit n i b v).ring k = s.ring k := by
  unfold State.ring; simp
@[simp] theorem State.ethPort_setRegBit (s : State) (n : RegName) (i b : Nat) (v : Bool) (k : Nat) : (s.setRegBit n i b v).ethPort k = s.ethPort k := by
  unfold State.ethPort; simp

/-! ### setBasin -/

@[simp] theorem State.setBasin_pending (s : State) (b : Nat) (x : BasinSt) : (s.setBasin b x).pending = s.pending := rfl
@[simp] theorem State.setBasin_freeCtr (s : State) (b : Nat) (x : BasinSt) : (s.setBasin b x).freeCtr = s.freeCtr := rfl
@[simp] theorem State.setBasin_readData (s : State) (b : Nat) (x : BasinSt) : (s.setBasin b x).readData = s.readData := rfl
@[simp] theorem State.setBasin_irqs (s : State) (b : Nat) (x : BasinSt) : (s.setBasin b x).irqs = s.irqs := rfl
@[simp] theorem State.setBasin_regs (s : State) (b : Nat) (x : BasinSt) : (s.setBasin b x).regs = s.regs := rfl
@[simp] theorem State.setBasin_fresh (s : State) (b : Nat) (x : BasinSt) : (s.setBasin b x).fresh = s.fresh := rfl
@[simp] theorem State.setBasin_ticked (s : State) (b : Nat) (x : BasinSt) : (s.setBasin b x).ticked = s.ticked := rfl
@[simp] theorem State.setBasin_shadows (s : State) (b : Nat) (x : BasinSt) : (s.setBasin b x).shadows = s.shadows := rfl
@[simp] theorem State.setBasin_dev (s : State) (b : Nat) (x : BasinSt) : (s.setBasin b x).dev = s.dev := rfl
@[simp] theorem State.setBasin_devKey (s : State) (b : Nat) (x : BasinSt) : (s.setBasin b x).devKey = s.devKey := rfl
@[simp] theorem State.setBasin_keys (s : State) (b : Nat) (x : BasinSt) : (s.setBasin b x).keys = s.keys := rfl
@[simp] theorem State.setBasin_cistern (s : State) (b : Nat) (x : BasinSt) : (s.setBasin b x).cistern = s.cistern := rfl
@[simp] theorem State.setBasin_pool (s : State) (b : Nat) (x : BasinSt) : (s.setBasin b x).pool = s.pool := rfl
@[simp] theorem State.setBasin_host (s : State) (b : Nat) (x : BasinSt) : (s.setBasin b x).host = s.host := rfl
@[simp] theorem State.setBasin_eccC (s : State) (b : Nat) (x : BasinSt) : (s.setBasin b x).eccC = s.eccC := rfl
@[simp] theorem State.setBasin_eccP (s : State) (b : Nat) (x : BasinSt) : (s.setBasin b x).eccP = s.eccP := rfl
@[simp] theorem State.setBasin_cmds (s : State) (b : Nat) (x : BasinSt) : (s.setBasin b x).cmds = s.cmds := rfl
@[simp] theorem State.setBasin_nextCmd (s : State) (b : Nat) (x : BasinSt) : (s.setBasin b x).nextCmd = s.nextCmd := rfl
@[simp] theorem State.setBasin_rings (s : State) (b : Nat) (x : BasinSt) : (s.setBasin b x).rings = s.rings := rfl
@[simp] theorem State.setBasin_sluice (s : State) (b : Nat) (x : BasinSt) : (s.setBasin b x).sluice = s.sluice := rfl
@[simp] theorem State.setBasin_cores (s : State) (b : Nat) (x : BasinSt) : (s.setBasin b x).cores = s.cores := rfl
@[simp] theorem State.setBasin_jets (s : State) (b : Nat) (x : BasinSt) : (s.setBasin b x).jets = s.jets := rfl
@[simp] theorem State.setBasin_rills (s : State) (b : Nat) (x : BasinSt) : (s.setBasin b x).rills = s.rills := rfl
@[simp] theorem State.setBasin_cascades (s : State) (b : Nat) (x : BasinSt) : (s.setBasin b x).cascades = s.cascades := rfl
@[simp] theorem State.setBasin_slices (s : State) (b : Nat) (x : BasinSt) : (s.setBasin b x).slices = s.slices := rfl
@[simp] theorem State.setBasin_variants (s : State) (b : Nat) (x : BasinSt) : (s.setBasin b x).variants = s.variants := rfl
@[simp] theorem State.setBasin_serve (s : State) (b : Nat) (x : BasinSt) : (s.setBasin b x).serve = s.serve := rfl
@[simp] theorem State.setBasin_saves (s : State) (b : Nat) (x : BasinSt) : (s.setBasin b x).saves = s.saves := rfl
@[simp] theorem State.setBasin_radio (s : State) (b : Nat) (x : BasinSt) : (s.setBasin b x).radio = s.radio := rfl
@[simp] theorem State.setBasin_time (s : State) (b : Nat) (x : BasinSt) : (s.setBasin b x).time = s.time := rfl
@[simp] theorem State.setBasin_eth (s : State) (b : Nat) (x : BasinSt) : (s.setBasin b x).eth = s.eth := rfl
@[simp] theorem State.setBasin_mtx (s : State) (b : Nat) (x : BasinSt) : (s.setBasin b x).mtx = s.mtx := rfl
@[simp] theorem State.setBasin_mtxDue (s : State) (b : Nat) (x : BasinSt) : (s.setBasin b x).mtxDue = s.mtxDue := rfl
@[simp] theorem State.setBasin_mtxOut (s : State) (b : Nat) (x : BasinSt) : (s.setBasin b x).mtxOut = s.mtxOut := rfl
@[simp] theorem State.setBasin_aqd (s : State) (b : Nat) (x : BasinSt) : (s.setBasin b x).aqd = s.aqd := rfl
@[simp] theorem State.setBasin_shadowing (s : State) (b : Nat) (x : BasinSt) : (s.setBasin b x).shadowing = s.shadowing := rfl
@[simp] theorem State.setBasin_spw (s : State) (b : Nat) (x : BasinSt) : (s.setBasin b x).spw = s.spw := rfl
@[simp] theorem State.setBasin_pwr (s : State) (b : Nat) (x : BasinSt) : (s.setBasin b x).pwr = s.pwr := rfl
@[simp] theorem State.setBasin_boot (s : State) (b : Nat) (x : BasinSt) : (s.setBasin b x).boot = s.boot := rfl
@[simp] theorem State.setBasin_mgmt (s : State) (b : Nat) (x : BasinSt) : (s.setBasin b x).mgmt = s.mgmt := rfl
@[simp] theorem State.reg_setBasin (s : State) (b : Nat) (x : BasinSt) (m : RegName) (k : Nat) : (s.setBasin b x).reg m k = s.reg m k := by
  unfold State.reg; simp
@[simp] theorem State.rd_setBasin (s : State) (b : Nat) (x : BasinSt) (g : Fld) (k : Nat) : (s.setBasin b x).rd g k = s.rd g k := by
  unfold State.rd; simp
@[simp] theorem State.on_setBasin (s : State) (b : Nat) (x : BasinSt) (g : Fld) (k : Nat) : (s.setBasin b x).on g k = s.on g k := by
  unfold State.on; simp
@[simp] theorem State.basin_setBasin_same (s : State) (b : Nat) (x : BasinSt) : (s.setBasin b x).basin b = x := Tbl.get_set_same ..
theorem State.basin_setBasin_other (s : State) (b : Nat) (x : BasinSt) (k : Nat) (h : k ≠ b) : (s.setBasin b x).basin k = s.basin k :=
  Tbl.get_set_other _ _ _ _ h
@[simp] theorem State.core_setBasin (s : State) (b : Nat) (x : BasinSt) (k : Nat) : (s.setBasin b x).core k = s.core k := by
  unfold State.core; simp
@[simp] theorem State.jet_setBasin (s : State) (b : Nat) (x : BasinSt) (k : Nat) : (s.setBasin b x).jet k = s.jet k := by
  unfold State.jet; simp
@[simp] theorem State.rill_setBasin (s : State) (b : Nat) (x : BasinSt) (k : Nat) : (s.setBasin b x).rill k = s.rill k := by
  unfold State.rill; simp
@[simp] theorem State.cascade_setBasin (s : State) (b : Nat) (x : BasinSt) (k : Nat) : (s.setBasin b x).cascade k = s.cascade k := by
  unfold State.cascade; simp
@[simp] theorem State.sliceSt_setBasin (s : State) (b : Nat) (x : BasinSt) (k : Nat) : (s.setBasin b x).sliceSt k = s.sliceSt k := by
  unfold State.sliceSt; simp
@[simp] theorem State.ring_setBasin (s : State) (b : Nat) (x : BasinSt) (k : Nat) : (s.setBasin b x).ring k = s.ring k := by
  unfold State.ring; simp
@[simp] theorem State.ethPort_setBasin (s : State) (b : Nat) (x : BasinSt) (k : Nat) : (s.setBasin b x).ethPort k = s.ethPort k := by
  unfold State.ethPort; simp

/-! ### setCore -/

@[simp] theorem State.setCore_pending (s : State) (c : Nat) (x : CoreSt) : (s.setCore c x).pending = s.pending := rfl
@[simp] theorem State.setCore_freeCtr (s : State) (c : Nat) (x : CoreSt) : (s.setCore c x).freeCtr = s.freeCtr := rfl
@[simp] theorem State.setCore_readData (s : State) (c : Nat) (x : CoreSt) : (s.setCore c x).readData = s.readData := rfl
@[simp] theorem State.setCore_irqs (s : State) (c : Nat) (x : CoreSt) : (s.setCore c x).irqs = s.irqs := rfl
@[simp] theorem State.setCore_regs (s : State) (c : Nat) (x : CoreSt) : (s.setCore c x).regs = s.regs := rfl
@[simp] theorem State.setCore_fresh (s : State) (c : Nat) (x : CoreSt) : (s.setCore c x).fresh = s.fresh := rfl
@[simp] theorem State.setCore_ticked (s : State) (c : Nat) (x : CoreSt) : (s.setCore c x).ticked = s.ticked := rfl
@[simp] theorem State.setCore_shadows (s : State) (c : Nat) (x : CoreSt) : (s.setCore c x).shadows = s.shadows := rfl
@[simp] theorem State.setCore_dev (s : State) (c : Nat) (x : CoreSt) : (s.setCore c x).dev = s.dev := rfl
@[simp] theorem State.setCore_devKey (s : State) (c : Nat) (x : CoreSt) : (s.setCore c x).devKey = s.devKey := rfl
@[simp] theorem State.setCore_keys (s : State) (c : Nat) (x : CoreSt) : (s.setCore c x).keys = s.keys := rfl
@[simp] theorem State.setCore_cistern (s : State) (c : Nat) (x : CoreSt) : (s.setCore c x).cistern = s.cistern := rfl
@[simp] theorem State.setCore_pool (s : State) (c : Nat) (x : CoreSt) : (s.setCore c x).pool = s.pool := rfl
@[simp] theorem State.setCore_host (s : State) (c : Nat) (x : CoreSt) : (s.setCore c x).host = s.host := rfl
@[simp] theorem State.setCore_eccC (s : State) (c : Nat) (x : CoreSt) : (s.setCore c x).eccC = s.eccC := rfl
@[simp] theorem State.setCore_eccP (s : State) (c : Nat) (x : CoreSt) : (s.setCore c x).eccP = s.eccP := rfl
@[simp] theorem State.setCore_cmds (s : State) (c : Nat) (x : CoreSt) : (s.setCore c x).cmds = s.cmds := rfl
@[simp] theorem State.setCore_nextCmd (s : State) (c : Nat) (x : CoreSt) : (s.setCore c x).nextCmd = s.nextCmd := rfl
@[simp] theorem State.setCore_rings (s : State) (c : Nat) (x : CoreSt) : (s.setCore c x).rings = s.rings := rfl
@[simp] theorem State.setCore_sluice (s : State) (c : Nat) (x : CoreSt) : (s.setCore c x).sluice = s.sluice := rfl
@[simp] theorem State.setCore_basins (s : State) (c : Nat) (x : CoreSt) : (s.setCore c x).basins = s.basins := rfl
@[simp] theorem State.setCore_jets (s : State) (c : Nat) (x : CoreSt) : (s.setCore c x).jets = s.jets := rfl
@[simp] theorem State.setCore_rills (s : State) (c : Nat) (x : CoreSt) : (s.setCore c x).rills = s.rills := rfl
@[simp] theorem State.setCore_cascades (s : State) (c : Nat) (x : CoreSt) : (s.setCore c x).cascades = s.cascades := rfl
@[simp] theorem State.setCore_slices (s : State) (c : Nat) (x : CoreSt) : (s.setCore c x).slices = s.slices := rfl
@[simp] theorem State.setCore_variants (s : State) (c : Nat) (x : CoreSt) : (s.setCore c x).variants = s.variants := rfl
@[simp] theorem State.setCore_serve (s : State) (c : Nat) (x : CoreSt) : (s.setCore c x).serve = s.serve := rfl
@[simp] theorem State.setCore_saves (s : State) (c : Nat) (x : CoreSt) : (s.setCore c x).saves = s.saves := rfl
@[simp] theorem State.setCore_radio (s : State) (c : Nat) (x : CoreSt) : (s.setCore c x).radio = s.radio := rfl
@[simp] theorem State.setCore_time (s : State) (c : Nat) (x : CoreSt) : (s.setCore c x).time = s.time := rfl
@[simp] theorem State.setCore_eth (s : State) (c : Nat) (x : CoreSt) : (s.setCore c x).eth = s.eth := rfl
@[simp] theorem State.setCore_mtx (s : State) (c : Nat) (x : CoreSt) : (s.setCore c x).mtx = s.mtx := rfl
@[simp] theorem State.setCore_mtxDue (s : State) (c : Nat) (x : CoreSt) : (s.setCore c x).mtxDue = s.mtxDue := rfl
@[simp] theorem State.setCore_mtxOut (s : State) (c : Nat) (x : CoreSt) : (s.setCore c x).mtxOut = s.mtxOut := rfl
@[simp] theorem State.setCore_aqd (s : State) (c : Nat) (x : CoreSt) : (s.setCore c x).aqd = s.aqd := rfl
@[simp] theorem State.setCore_shadowing (s : State) (c : Nat) (x : CoreSt) : (s.setCore c x).shadowing = s.shadowing := rfl
@[simp] theorem State.setCore_spw (s : State) (c : Nat) (x : CoreSt) : (s.setCore c x).spw = s.spw := rfl
@[simp] theorem State.setCore_pwr (s : State) (c : Nat) (x : CoreSt) : (s.setCore c x).pwr = s.pwr := rfl
@[simp] theorem State.setCore_boot (s : State) (c : Nat) (x : CoreSt) : (s.setCore c x).boot = s.boot := rfl
@[simp] theorem State.setCore_mgmt (s : State) (c : Nat) (x : CoreSt) : (s.setCore c x).mgmt = s.mgmt := rfl
@[simp] theorem State.reg_setCore (s : State) (c : Nat) (x : CoreSt) (m : RegName) (k : Nat) : (s.setCore c x).reg m k = s.reg m k := by
  unfold State.reg; simp
@[simp] theorem State.rd_setCore (s : State) (c : Nat) (x : CoreSt) (g : Fld) (k : Nat) : (s.setCore c x).rd g k = s.rd g k := by
  unfold State.rd; simp
@[simp] theorem State.on_setCore (s : State) (c : Nat) (x : CoreSt) (g : Fld) (k : Nat) : (s.setCore c x).on g k = s.on g k := by
  unfold State.on; simp
@[simp] theorem State.basin_setCore (s : State) (c : Nat) (x : CoreSt) (k : Nat) : (s.setCore c x).basin k = s.basin k := by
  unfold State.basin; simp
@[simp] theorem State.core_setCore_same (s : State) (c : Nat) (x : CoreSt) : (s.setCore c x).core c = x := Tbl.get_set_same ..
theorem State.core_setCore_other (s : State) (c : Nat) (x : CoreSt) (k : Nat) (h : k ≠ c) : (s.setCore c x).core k = s.core k :=
  Tbl.get_set_other _ _ _ _ h
@[simp] theorem State.jet_setCore (s : State) (c : Nat) (x : CoreSt) (k : Nat) : (s.setCore c x).jet k = s.jet k := by
  unfold State.jet; simp
@[simp] theorem State.rill_setCore (s : State) (c : Nat) (x : CoreSt) (k : Nat) : (s.setCore c x).rill k = s.rill k := by
  unfold State.rill; simp
@[simp] theorem State.cascade_setCore (s : State) (c : Nat) (x : CoreSt) (k : Nat) : (s.setCore c x).cascade k = s.cascade k := by
  unfold State.cascade; simp
@[simp] theorem State.sliceSt_setCore (s : State) (c : Nat) (x : CoreSt) (k : Nat) : (s.setCore c x).sliceSt k = s.sliceSt k := by
  unfold State.sliceSt; simp
@[simp] theorem State.ring_setCore (s : State) (c : Nat) (x : CoreSt) (k : Nat) : (s.setCore c x).ring k = s.ring k := by
  unfold State.ring; simp
@[simp] theorem State.ethPort_setCore (s : State) (c : Nat) (x : CoreSt) (k : Nat) : (s.setCore c x).ethPort k = s.ethPort k := by
  unfold State.ethPort; simp

/-! ### setJet -/

@[simp] theorem State.setJet_pending (s : State) (j : Nat) (x : JetSt) : (s.setJet j x).pending = s.pending := rfl
@[simp] theorem State.setJet_freeCtr (s : State) (j : Nat) (x : JetSt) : (s.setJet j x).freeCtr = s.freeCtr := rfl
@[simp] theorem State.setJet_readData (s : State) (j : Nat) (x : JetSt) : (s.setJet j x).readData = s.readData := rfl
@[simp] theorem State.setJet_irqs (s : State) (j : Nat) (x : JetSt) : (s.setJet j x).irqs = s.irqs := rfl
@[simp] theorem State.setJet_regs (s : State) (j : Nat) (x : JetSt) : (s.setJet j x).regs = s.regs := rfl
@[simp] theorem State.setJet_fresh (s : State) (j : Nat) (x : JetSt) : (s.setJet j x).fresh = s.fresh := rfl
@[simp] theorem State.setJet_ticked (s : State) (j : Nat) (x : JetSt) : (s.setJet j x).ticked = s.ticked := rfl
@[simp] theorem State.setJet_shadows (s : State) (j : Nat) (x : JetSt) : (s.setJet j x).shadows = s.shadows := rfl
@[simp] theorem State.setJet_dev (s : State) (j : Nat) (x : JetSt) : (s.setJet j x).dev = s.dev := rfl
@[simp] theorem State.setJet_devKey (s : State) (j : Nat) (x : JetSt) : (s.setJet j x).devKey = s.devKey := rfl
@[simp] theorem State.setJet_keys (s : State) (j : Nat) (x : JetSt) : (s.setJet j x).keys = s.keys := rfl
@[simp] theorem State.setJet_cistern (s : State) (j : Nat) (x : JetSt) : (s.setJet j x).cistern = s.cistern := rfl
@[simp] theorem State.setJet_pool (s : State) (j : Nat) (x : JetSt) : (s.setJet j x).pool = s.pool := rfl
@[simp] theorem State.setJet_host (s : State) (j : Nat) (x : JetSt) : (s.setJet j x).host = s.host := rfl
@[simp] theorem State.setJet_eccC (s : State) (j : Nat) (x : JetSt) : (s.setJet j x).eccC = s.eccC := rfl
@[simp] theorem State.setJet_eccP (s : State) (j : Nat) (x : JetSt) : (s.setJet j x).eccP = s.eccP := rfl
@[simp] theorem State.setJet_cmds (s : State) (j : Nat) (x : JetSt) : (s.setJet j x).cmds = s.cmds := rfl
@[simp] theorem State.setJet_nextCmd (s : State) (j : Nat) (x : JetSt) : (s.setJet j x).nextCmd = s.nextCmd := rfl
@[simp] theorem State.setJet_rings (s : State) (j : Nat) (x : JetSt) : (s.setJet j x).rings = s.rings := rfl
@[simp] theorem State.setJet_sluice (s : State) (j : Nat) (x : JetSt) : (s.setJet j x).sluice = s.sluice := rfl
@[simp] theorem State.setJet_basins (s : State) (j : Nat) (x : JetSt) : (s.setJet j x).basins = s.basins := rfl
@[simp] theorem State.setJet_cores (s : State) (j : Nat) (x : JetSt) : (s.setJet j x).cores = s.cores := rfl
@[simp] theorem State.setJet_rills (s : State) (j : Nat) (x : JetSt) : (s.setJet j x).rills = s.rills := rfl
@[simp] theorem State.setJet_cascades (s : State) (j : Nat) (x : JetSt) : (s.setJet j x).cascades = s.cascades := rfl
@[simp] theorem State.setJet_slices (s : State) (j : Nat) (x : JetSt) : (s.setJet j x).slices = s.slices := rfl
@[simp] theorem State.setJet_variants (s : State) (j : Nat) (x : JetSt) : (s.setJet j x).variants = s.variants := rfl
@[simp] theorem State.setJet_serve (s : State) (j : Nat) (x : JetSt) : (s.setJet j x).serve = s.serve := rfl
@[simp] theorem State.setJet_saves (s : State) (j : Nat) (x : JetSt) : (s.setJet j x).saves = s.saves := rfl
@[simp] theorem State.setJet_radio (s : State) (j : Nat) (x : JetSt) : (s.setJet j x).radio = s.radio := rfl
@[simp] theorem State.setJet_time (s : State) (j : Nat) (x : JetSt) : (s.setJet j x).time = s.time := rfl
@[simp] theorem State.setJet_eth (s : State) (j : Nat) (x : JetSt) : (s.setJet j x).eth = s.eth := rfl
@[simp] theorem State.setJet_mtx (s : State) (j : Nat) (x : JetSt) : (s.setJet j x).mtx = s.mtx := rfl
@[simp] theorem State.setJet_mtxDue (s : State) (j : Nat) (x : JetSt) : (s.setJet j x).mtxDue = s.mtxDue := rfl
@[simp] theorem State.setJet_mtxOut (s : State) (j : Nat) (x : JetSt) : (s.setJet j x).mtxOut = s.mtxOut := rfl
@[simp] theorem State.setJet_aqd (s : State) (j : Nat) (x : JetSt) : (s.setJet j x).aqd = s.aqd := rfl
@[simp] theorem State.setJet_shadowing (s : State) (j : Nat) (x : JetSt) : (s.setJet j x).shadowing = s.shadowing := rfl
@[simp] theorem State.setJet_spw (s : State) (j : Nat) (x : JetSt) : (s.setJet j x).spw = s.spw := rfl
@[simp] theorem State.setJet_pwr (s : State) (j : Nat) (x : JetSt) : (s.setJet j x).pwr = s.pwr := rfl
@[simp] theorem State.setJet_boot (s : State) (j : Nat) (x : JetSt) : (s.setJet j x).boot = s.boot := rfl
@[simp] theorem State.setJet_mgmt (s : State) (j : Nat) (x : JetSt) : (s.setJet j x).mgmt = s.mgmt := rfl
@[simp] theorem State.reg_setJet (s : State) (j : Nat) (x : JetSt) (m : RegName) (k : Nat) : (s.setJet j x).reg m k = s.reg m k := by
  unfold State.reg; simp
@[simp] theorem State.rd_setJet (s : State) (j : Nat) (x : JetSt) (g : Fld) (k : Nat) : (s.setJet j x).rd g k = s.rd g k := by
  unfold State.rd; simp
@[simp] theorem State.on_setJet (s : State) (j : Nat) (x : JetSt) (g : Fld) (k : Nat) : (s.setJet j x).on g k = s.on g k := by
  unfold State.on; simp
@[simp] theorem State.basin_setJet (s : State) (j : Nat) (x : JetSt) (k : Nat) : (s.setJet j x).basin k = s.basin k := by
  unfold State.basin; simp
@[simp] theorem State.core_setJet (s : State) (j : Nat) (x : JetSt) (k : Nat) : (s.setJet j x).core k = s.core k := by
  unfold State.core; simp
@[simp] theorem State.jet_setJet_same (s : State) (j : Nat) (x : JetSt) : (s.setJet j x).jet j = x := Tbl.get_set_same ..
theorem State.jet_setJet_other (s : State) (j : Nat) (x : JetSt) (k : Nat) (h : k ≠ j) : (s.setJet j x).jet k = s.jet k :=
  Tbl.get_set_other _ _ _ _ h
@[simp] theorem State.rill_setJet (s : State) (j : Nat) (x : JetSt) (k : Nat) : (s.setJet j x).rill k = s.rill k := by
  unfold State.rill; simp
@[simp] theorem State.cascade_setJet (s : State) (j : Nat) (x : JetSt) (k : Nat) : (s.setJet j x).cascade k = s.cascade k := by
  unfold State.cascade; simp
@[simp] theorem State.sliceSt_setJet (s : State) (j : Nat) (x : JetSt) (k : Nat) : (s.setJet j x).sliceSt k = s.sliceSt k := by
  unfold State.sliceSt; simp
@[simp] theorem State.ring_setJet (s : State) (j : Nat) (x : JetSt) (k : Nat) : (s.setJet j x).ring k = s.ring k := by
  unfold State.ring; simp
@[simp] theorem State.ethPort_setJet (s : State) (j : Nat) (x : JetSt) (k : Nat) : (s.setJet j x).ethPort k = s.ethPort k := by
  unfold State.ethPort; simp

/-! ### setRill -/

@[simp] theorem State.setRill_pending (s : State) (b : Nat) (x : RillSt) : (s.setRill b x).pending = s.pending := rfl
@[simp] theorem State.setRill_freeCtr (s : State) (b : Nat) (x : RillSt) : (s.setRill b x).freeCtr = s.freeCtr := rfl
@[simp] theorem State.setRill_readData (s : State) (b : Nat) (x : RillSt) : (s.setRill b x).readData = s.readData := rfl
@[simp] theorem State.setRill_irqs (s : State) (b : Nat) (x : RillSt) : (s.setRill b x).irqs = s.irqs := rfl
@[simp] theorem State.setRill_regs (s : State) (b : Nat) (x : RillSt) : (s.setRill b x).regs = s.regs := rfl
@[simp] theorem State.setRill_fresh (s : State) (b : Nat) (x : RillSt) : (s.setRill b x).fresh = s.fresh := rfl
@[simp] theorem State.setRill_ticked (s : State) (b : Nat) (x : RillSt) : (s.setRill b x).ticked = s.ticked := rfl
@[simp] theorem State.setRill_shadows (s : State) (b : Nat) (x : RillSt) : (s.setRill b x).shadows = s.shadows := rfl
@[simp] theorem State.setRill_dev (s : State) (b : Nat) (x : RillSt) : (s.setRill b x).dev = s.dev := rfl
@[simp] theorem State.setRill_devKey (s : State) (b : Nat) (x : RillSt) : (s.setRill b x).devKey = s.devKey := rfl
@[simp] theorem State.setRill_keys (s : State) (b : Nat) (x : RillSt) : (s.setRill b x).keys = s.keys := rfl
@[simp] theorem State.setRill_cistern (s : State) (b : Nat) (x : RillSt) : (s.setRill b x).cistern = s.cistern := rfl
@[simp] theorem State.setRill_pool (s : State) (b : Nat) (x : RillSt) : (s.setRill b x).pool = s.pool := rfl
@[simp] theorem State.setRill_host (s : State) (b : Nat) (x : RillSt) : (s.setRill b x).host = s.host := rfl
@[simp] theorem State.setRill_eccC (s : State) (b : Nat) (x : RillSt) : (s.setRill b x).eccC = s.eccC := rfl
@[simp] theorem State.setRill_eccP (s : State) (b : Nat) (x : RillSt) : (s.setRill b x).eccP = s.eccP := rfl
@[simp] theorem State.setRill_cmds (s : State) (b : Nat) (x : RillSt) : (s.setRill b x).cmds = s.cmds := rfl
@[simp] theorem State.setRill_nextCmd (s : State) (b : Nat) (x : RillSt) : (s.setRill b x).nextCmd = s.nextCmd := rfl
@[simp] theorem State.setRill_rings (s : State) (b : Nat) (x : RillSt) : (s.setRill b x).rings = s.rings := rfl
@[simp] theorem State.setRill_sluice (s : State) (b : Nat) (x : RillSt) : (s.setRill b x).sluice = s.sluice := rfl
@[simp] theorem State.setRill_basins (s : State) (b : Nat) (x : RillSt) : (s.setRill b x).basins = s.basins := rfl
@[simp] theorem State.setRill_cores (s : State) (b : Nat) (x : RillSt) : (s.setRill b x).cores = s.cores := rfl
@[simp] theorem State.setRill_jets (s : State) (b : Nat) (x : RillSt) : (s.setRill b x).jets = s.jets := rfl
@[simp] theorem State.setRill_cascades (s : State) (b : Nat) (x : RillSt) : (s.setRill b x).cascades = s.cascades := rfl
@[simp] theorem State.setRill_slices (s : State) (b : Nat) (x : RillSt) : (s.setRill b x).slices = s.slices := rfl
@[simp] theorem State.setRill_variants (s : State) (b : Nat) (x : RillSt) : (s.setRill b x).variants = s.variants := rfl
@[simp] theorem State.setRill_serve (s : State) (b : Nat) (x : RillSt) : (s.setRill b x).serve = s.serve := rfl
@[simp] theorem State.setRill_saves (s : State) (b : Nat) (x : RillSt) : (s.setRill b x).saves = s.saves := rfl
@[simp] theorem State.setRill_radio (s : State) (b : Nat) (x : RillSt) : (s.setRill b x).radio = s.radio := rfl
@[simp] theorem State.setRill_time (s : State) (b : Nat) (x : RillSt) : (s.setRill b x).time = s.time := rfl
@[simp] theorem State.setRill_eth (s : State) (b : Nat) (x : RillSt) : (s.setRill b x).eth = s.eth := rfl
@[simp] theorem State.setRill_mtx (s : State) (b : Nat) (x : RillSt) : (s.setRill b x).mtx = s.mtx := rfl
@[simp] theorem State.setRill_mtxDue (s : State) (b : Nat) (x : RillSt) : (s.setRill b x).mtxDue = s.mtxDue := rfl
@[simp] theorem State.setRill_mtxOut (s : State) (b : Nat) (x : RillSt) : (s.setRill b x).mtxOut = s.mtxOut := rfl
@[simp] theorem State.setRill_aqd (s : State) (b : Nat) (x : RillSt) : (s.setRill b x).aqd = s.aqd := rfl
@[simp] theorem State.setRill_shadowing (s : State) (b : Nat) (x : RillSt) : (s.setRill b x).shadowing = s.shadowing := rfl
@[simp] theorem State.setRill_spw (s : State) (b : Nat) (x : RillSt) : (s.setRill b x).spw = s.spw := rfl
@[simp] theorem State.setRill_pwr (s : State) (b : Nat) (x : RillSt) : (s.setRill b x).pwr = s.pwr := rfl
@[simp] theorem State.setRill_boot (s : State) (b : Nat) (x : RillSt) : (s.setRill b x).boot = s.boot := rfl
@[simp] theorem State.setRill_mgmt (s : State) (b : Nat) (x : RillSt) : (s.setRill b x).mgmt = s.mgmt := rfl
@[simp] theorem State.reg_setRill (s : State) (b : Nat) (x : RillSt) (m : RegName) (k : Nat) : (s.setRill b x).reg m k = s.reg m k := by
  unfold State.reg; simp
@[simp] theorem State.rd_setRill (s : State) (b : Nat) (x : RillSt) (g : Fld) (k : Nat) : (s.setRill b x).rd g k = s.rd g k := by
  unfold State.rd; simp
@[simp] theorem State.on_setRill (s : State) (b : Nat) (x : RillSt) (g : Fld) (k : Nat) : (s.setRill b x).on g k = s.on g k := by
  unfold State.on; simp
@[simp] theorem State.basin_setRill (s : State) (b : Nat) (x : RillSt) (k : Nat) : (s.setRill b x).basin k = s.basin k := by
  unfold State.basin; simp
@[simp] theorem State.core_setRill (s : State) (b : Nat) (x : RillSt) (k : Nat) : (s.setRill b x).core k = s.core k := by
  unfold State.core; simp
@[simp] theorem State.jet_setRill (s : State) (b : Nat) (x : RillSt) (k : Nat) : (s.setRill b x).jet k = s.jet k := by
  unfold State.jet; simp
@[simp] theorem State.rill_setRill_same (s : State) (b : Nat) (x : RillSt) : (s.setRill b x).rill b = x := Tbl.get_set_same ..
theorem State.rill_setRill_other (s : State) (b : Nat) (x : RillSt) (k : Nat) (h : k ≠ b) : (s.setRill b x).rill k = s.rill k :=
  Tbl.get_set_other _ _ _ _ h
@[simp] theorem State.cascade_setRill (s : State) (b : Nat) (x : RillSt) (k : Nat) : (s.setRill b x).cascade k = s.cascade k := by
  unfold State.cascade; simp
@[simp] theorem State.sliceSt_setRill (s : State) (b : Nat) (x : RillSt) (k : Nat) : (s.setRill b x).sliceSt k = s.sliceSt k := by
  unfold State.sliceSt; simp
@[simp] theorem State.ring_setRill (s : State) (b : Nat) (x : RillSt) (k : Nat) : (s.setRill b x).ring k = s.ring k := by
  unfold State.ring; simp
@[simp] theorem State.ethPort_setRill (s : State) (b : Nat) (x : RillSt) (k : Nat) : (s.setRill b x).ethPort k = s.ethPort k := by
  unfold State.ethPort; simp

/-! ### setCascade -/

@[simp] theorem State.setCascade_pending (s : State) (c : Nat) (x : CascadeSt) : (s.setCascade c x).pending = s.pending := rfl
@[simp] theorem State.setCascade_freeCtr (s : State) (c : Nat) (x : CascadeSt) : (s.setCascade c x).freeCtr = s.freeCtr := rfl
@[simp] theorem State.setCascade_readData (s : State) (c : Nat) (x : CascadeSt) : (s.setCascade c x).readData = s.readData := rfl
@[simp] theorem State.setCascade_irqs (s : State) (c : Nat) (x : CascadeSt) : (s.setCascade c x).irqs = s.irqs := rfl
@[simp] theorem State.setCascade_regs (s : State) (c : Nat) (x : CascadeSt) : (s.setCascade c x).regs = s.regs := rfl
@[simp] theorem State.setCascade_fresh (s : State) (c : Nat) (x : CascadeSt) : (s.setCascade c x).fresh = s.fresh := rfl
@[simp] theorem State.setCascade_ticked (s : State) (c : Nat) (x : CascadeSt) : (s.setCascade c x).ticked = s.ticked := rfl
@[simp] theorem State.setCascade_shadows (s : State) (c : Nat) (x : CascadeSt) : (s.setCascade c x).shadows = s.shadows := rfl
@[simp] theorem State.setCascade_dev (s : State) (c : Nat) (x : CascadeSt) : (s.setCascade c x).dev = s.dev := rfl
@[simp] theorem State.setCascade_devKey (s : State) (c : Nat) (x : CascadeSt) : (s.setCascade c x).devKey = s.devKey := rfl
@[simp] theorem State.setCascade_keys (s : State) (c : Nat) (x : CascadeSt) : (s.setCascade c x).keys = s.keys := rfl
@[simp] theorem State.setCascade_cistern (s : State) (c : Nat) (x : CascadeSt) : (s.setCascade c x).cistern = s.cistern := rfl
@[simp] theorem State.setCascade_pool (s : State) (c : Nat) (x : CascadeSt) : (s.setCascade c x).pool = s.pool := rfl
@[simp] theorem State.setCascade_host (s : State) (c : Nat) (x : CascadeSt) : (s.setCascade c x).host = s.host := rfl
@[simp] theorem State.setCascade_eccC (s : State) (c : Nat) (x : CascadeSt) : (s.setCascade c x).eccC = s.eccC := rfl
@[simp] theorem State.setCascade_eccP (s : State) (c : Nat) (x : CascadeSt) : (s.setCascade c x).eccP = s.eccP := rfl
@[simp] theorem State.setCascade_cmds (s : State) (c : Nat) (x : CascadeSt) : (s.setCascade c x).cmds = s.cmds := rfl
@[simp] theorem State.setCascade_nextCmd (s : State) (c : Nat) (x : CascadeSt) : (s.setCascade c x).nextCmd = s.nextCmd := rfl
@[simp] theorem State.setCascade_rings (s : State) (c : Nat) (x : CascadeSt) : (s.setCascade c x).rings = s.rings := rfl
@[simp] theorem State.setCascade_sluice (s : State) (c : Nat) (x : CascadeSt) : (s.setCascade c x).sluice = s.sluice := rfl
@[simp] theorem State.setCascade_basins (s : State) (c : Nat) (x : CascadeSt) : (s.setCascade c x).basins = s.basins := rfl
@[simp] theorem State.setCascade_cores (s : State) (c : Nat) (x : CascadeSt) : (s.setCascade c x).cores = s.cores := rfl
@[simp] theorem State.setCascade_jets (s : State) (c : Nat) (x : CascadeSt) : (s.setCascade c x).jets = s.jets := rfl
@[simp] theorem State.setCascade_rills (s : State) (c : Nat) (x : CascadeSt) : (s.setCascade c x).rills = s.rills := rfl
@[simp] theorem State.setCascade_slices (s : State) (c : Nat) (x : CascadeSt) : (s.setCascade c x).slices = s.slices := rfl
@[simp] theorem State.setCascade_variants (s : State) (c : Nat) (x : CascadeSt) : (s.setCascade c x).variants = s.variants := rfl
@[simp] theorem State.setCascade_serve (s : State) (c : Nat) (x : CascadeSt) : (s.setCascade c x).serve = s.serve := rfl
@[simp] theorem State.setCascade_saves (s : State) (c : Nat) (x : CascadeSt) : (s.setCascade c x).saves = s.saves := rfl
@[simp] theorem State.setCascade_radio (s : State) (c : Nat) (x : CascadeSt) : (s.setCascade c x).radio = s.radio := rfl
@[simp] theorem State.setCascade_time (s : State) (c : Nat) (x : CascadeSt) : (s.setCascade c x).time = s.time := rfl
@[simp] theorem State.setCascade_eth (s : State) (c : Nat) (x : CascadeSt) : (s.setCascade c x).eth = s.eth := rfl
@[simp] theorem State.setCascade_mtx (s : State) (c : Nat) (x : CascadeSt) : (s.setCascade c x).mtx = s.mtx := rfl
@[simp] theorem State.setCascade_mtxDue (s : State) (c : Nat) (x : CascadeSt) : (s.setCascade c x).mtxDue = s.mtxDue := rfl
@[simp] theorem State.setCascade_mtxOut (s : State) (c : Nat) (x : CascadeSt) : (s.setCascade c x).mtxOut = s.mtxOut := rfl
@[simp] theorem State.setCascade_aqd (s : State) (c : Nat) (x : CascadeSt) : (s.setCascade c x).aqd = s.aqd := rfl
@[simp] theorem State.setCascade_shadowing (s : State) (c : Nat) (x : CascadeSt) : (s.setCascade c x).shadowing = s.shadowing := rfl
@[simp] theorem State.setCascade_spw (s : State) (c : Nat) (x : CascadeSt) : (s.setCascade c x).spw = s.spw := rfl
@[simp] theorem State.setCascade_pwr (s : State) (c : Nat) (x : CascadeSt) : (s.setCascade c x).pwr = s.pwr := rfl
@[simp] theorem State.setCascade_boot (s : State) (c : Nat) (x : CascadeSt) : (s.setCascade c x).boot = s.boot := rfl
@[simp] theorem State.setCascade_mgmt (s : State) (c : Nat) (x : CascadeSt) : (s.setCascade c x).mgmt = s.mgmt := rfl
@[simp] theorem State.reg_setCascade (s : State) (c : Nat) (x : CascadeSt) (m : RegName) (k : Nat) : (s.setCascade c x).reg m k = s.reg m k := by
  unfold State.reg; simp
@[simp] theorem State.rd_setCascade (s : State) (c : Nat) (x : CascadeSt) (g : Fld) (k : Nat) : (s.setCascade c x).rd g k = s.rd g k := by
  unfold State.rd; simp
@[simp] theorem State.on_setCascade (s : State) (c : Nat) (x : CascadeSt) (g : Fld) (k : Nat) : (s.setCascade c x).on g k = s.on g k := by
  unfold State.on; simp
@[simp] theorem State.basin_setCascade (s : State) (c : Nat) (x : CascadeSt) (k : Nat) : (s.setCascade c x).basin k = s.basin k := by
  unfold State.basin; simp
@[simp] theorem State.core_setCascade (s : State) (c : Nat) (x : CascadeSt) (k : Nat) : (s.setCascade c x).core k = s.core k := by
  unfold State.core; simp
@[simp] theorem State.jet_setCascade (s : State) (c : Nat) (x : CascadeSt) (k : Nat) : (s.setCascade c x).jet k = s.jet k := by
  unfold State.jet; simp
@[simp] theorem State.rill_setCascade (s : State) (c : Nat) (x : CascadeSt) (k : Nat) : (s.setCascade c x).rill k = s.rill k := by
  unfold State.rill; simp
@[simp] theorem State.cascade_setCascade_same (s : State) (c : Nat) (x : CascadeSt) : (s.setCascade c x).cascade c = x := Tbl.get_set_same ..
theorem State.cascade_setCascade_other (s : State) (c : Nat) (x : CascadeSt) (k : Nat) (h : k ≠ c) : (s.setCascade c x).cascade k = s.cascade k :=
  Tbl.get_set_other _ _ _ _ h
@[simp] theorem State.sliceSt_setCascade (s : State) (c : Nat) (x : CascadeSt) (k : Nat) : (s.setCascade c x).sliceSt k = s.sliceSt k := by
  unfold State.sliceSt; simp
@[simp] theorem State.ring_setCascade (s : State) (c : Nat) (x : CascadeSt) (k : Nat) : (s.setCascade c x).ring k = s.ring k := by
  unfold State.ring; simp
@[simp] theorem State.ethPort_setCascade (s : State) (c : Nat) (x : CascadeSt) (k : Nat) : (s.setCascade c x).ethPort k = s.ethPort k := by
  unfold State.ethPort; simp

/-! ### setSliceSt -/

@[simp] theorem State.setSliceSt_pending (s : State) (i : Nat) (x : SliceSt) : (s.setSliceSt i x).pending = s.pending := rfl
@[simp] theorem State.setSliceSt_freeCtr (s : State) (i : Nat) (x : SliceSt) : (s.setSliceSt i x).freeCtr = s.freeCtr := rfl
@[simp] theorem State.setSliceSt_readData (s : State) (i : Nat) (x : SliceSt) : (s.setSliceSt i x).readData = s.readData := rfl
@[simp] theorem State.setSliceSt_irqs (s : State) (i : Nat) (x : SliceSt) : (s.setSliceSt i x).irqs = s.irqs := rfl
@[simp] theorem State.setSliceSt_regs (s : State) (i : Nat) (x : SliceSt) : (s.setSliceSt i x).regs = s.regs := rfl
@[simp] theorem State.setSliceSt_fresh (s : State) (i : Nat) (x : SliceSt) : (s.setSliceSt i x).fresh = s.fresh := rfl
@[simp] theorem State.setSliceSt_ticked (s : State) (i : Nat) (x : SliceSt) : (s.setSliceSt i x).ticked = s.ticked := rfl
@[simp] theorem State.setSliceSt_shadows (s : State) (i : Nat) (x : SliceSt) : (s.setSliceSt i x).shadows = s.shadows := rfl
@[simp] theorem State.setSliceSt_dev (s : State) (i : Nat) (x : SliceSt) : (s.setSliceSt i x).dev = s.dev := rfl
@[simp] theorem State.setSliceSt_devKey (s : State) (i : Nat) (x : SliceSt) : (s.setSliceSt i x).devKey = s.devKey := rfl
@[simp] theorem State.setSliceSt_keys (s : State) (i : Nat) (x : SliceSt) : (s.setSliceSt i x).keys = s.keys := rfl
@[simp] theorem State.setSliceSt_cistern (s : State) (i : Nat) (x : SliceSt) : (s.setSliceSt i x).cistern = s.cistern := rfl
@[simp] theorem State.setSliceSt_pool (s : State) (i : Nat) (x : SliceSt) : (s.setSliceSt i x).pool = s.pool := rfl
@[simp] theorem State.setSliceSt_host (s : State) (i : Nat) (x : SliceSt) : (s.setSliceSt i x).host = s.host := rfl
@[simp] theorem State.setSliceSt_eccC (s : State) (i : Nat) (x : SliceSt) : (s.setSliceSt i x).eccC = s.eccC := rfl
@[simp] theorem State.setSliceSt_eccP (s : State) (i : Nat) (x : SliceSt) : (s.setSliceSt i x).eccP = s.eccP := rfl
@[simp] theorem State.setSliceSt_cmds (s : State) (i : Nat) (x : SliceSt) : (s.setSliceSt i x).cmds = s.cmds := rfl
@[simp] theorem State.setSliceSt_nextCmd (s : State) (i : Nat) (x : SliceSt) : (s.setSliceSt i x).nextCmd = s.nextCmd := rfl
@[simp] theorem State.setSliceSt_rings (s : State) (i : Nat) (x : SliceSt) : (s.setSliceSt i x).rings = s.rings := rfl
@[simp] theorem State.setSliceSt_sluice (s : State) (i : Nat) (x : SliceSt) : (s.setSliceSt i x).sluice = s.sluice := rfl
@[simp] theorem State.setSliceSt_basins (s : State) (i : Nat) (x : SliceSt) : (s.setSliceSt i x).basins = s.basins := rfl
@[simp] theorem State.setSliceSt_cores (s : State) (i : Nat) (x : SliceSt) : (s.setSliceSt i x).cores = s.cores := rfl
@[simp] theorem State.setSliceSt_jets (s : State) (i : Nat) (x : SliceSt) : (s.setSliceSt i x).jets = s.jets := rfl
@[simp] theorem State.setSliceSt_rills (s : State) (i : Nat) (x : SliceSt) : (s.setSliceSt i x).rills = s.rills := rfl
@[simp] theorem State.setSliceSt_cascades (s : State) (i : Nat) (x : SliceSt) : (s.setSliceSt i x).cascades = s.cascades := rfl
@[simp] theorem State.setSliceSt_variants (s : State) (i : Nat) (x : SliceSt) : (s.setSliceSt i x).variants = s.variants := rfl
@[simp] theorem State.setSliceSt_serve (s : State) (i : Nat) (x : SliceSt) : (s.setSliceSt i x).serve = s.serve := rfl
@[simp] theorem State.setSliceSt_saves (s : State) (i : Nat) (x : SliceSt) : (s.setSliceSt i x).saves = s.saves := rfl
@[simp] theorem State.setSliceSt_radio (s : State) (i : Nat) (x : SliceSt) : (s.setSliceSt i x).radio = s.radio := rfl
@[simp] theorem State.setSliceSt_time (s : State) (i : Nat) (x : SliceSt) : (s.setSliceSt i x).time = s.time := rfl
@[simp] theorem State.setSliceSt_eth (s : State) (i : Nat) (x : SliceSt) : (s.setSliceSt i x).eth = s.eth := rfl
@[simp] theorem State.setSliceSt_mtx (s : State) (i : Nat) (x : SliceSt) : (s.setSliceSt i x).mtx = s.mtx := rfl
@[simp] theorem State.setSliceSt_mtxDue (s : State) (i : Nat) (x : SliceSt) : (s.setSliceSt i x).mtxDue = s.mtxDue := rfl
@[simp] theorem State.setSliceSt_mtxOut (s : State) (i : Nat) (x : SliceSt) : (s.setSliceSt i x).mtxOut = s.mtxOut := rfl
@[simp] theorem State.setSliceSt_aqd (s : State) (i : Nat) (x : SliceSt) : (s.setSliceSt i x).aqd = s.aqd := rfl
@[simp] theorem State.setSliceSt_shadowing (s : State) (i : Nat) (x : SliceSt) : (s.setSliceSt i x).shadowing = s.shadowing := rfl
@[simp] theorem State.setSliceSt_spw (s : State) (i : Nat) (x : SliceSt) : (s.setSliceSt i x).spw = s.spw := rfl
@[simp] theorem State.setSliceSt_pwr (s : State) (i : Nat) (x : SliceSt) : (s.setSliceSt i x).pwr = s.pwr := rfl
@[simp] theorem State.setSliceSt_boot (s : State) (i : Nat) (x : SliceSt) : (s.setSliceSt i x).boot = s.boot := rfl
@[simp] theorem State.setSliceSt_mgmt (s : State) (i : Nat) (x : SliceSt) : (s.setSliceSt i x).mgmt = s.mgmt := rfl
@[simp] theorem State.reg_setSliceSt (s : State) (i : Nat) (x : SliceSt) (m : RegName) (k : Nat) : (s.setSliceSt i x).reg m k = s.reg m k := by
  unfold State.reg; simp
@[simp] theorem State.rd_setSliceSt (s : State) (i : Nat) (x : SliceSt) (g : Fld) (k : Nat) : (s.setSliceSt i x).rd g k = s.rd g k := by
  unfold State.rd; simp
@[simp] theorem State.on_setSliceSt (s : State) (i : Nat) (x : SliceSt) (g : Fld) (k : Nat) : (s.setSliceSt i x).on g k = s.on g k := by
  unfold State.on; simp
@[simp] theorem State.basin_setSliceSt (s : State) (i : Nat) (x : SliceSt) (k : Nat) : (s.setSliceSt i x).basin k = s.basin k := by
  unfold State.basin; simp
@[simp] theorem State.core_setSliceSt (s : State) (i : Nat) (x : SliceSt) (k : Nat) : (s.setSliceSt i x).core k = s.core k := by
  unfold State.core; simp
@[simp] theorem State.jet_setSliceSt (s : State) (i : Nat) (x : SliceSt) (k : Nat) : (s.setSliceSt i x).jet k = s.jet k := by
  unfold State.jet; simp
@[simp] theorem State.rill_setSliceSt (s : State) (i : Nat) (x : SliceSt) (k : Nat) : (s.setSliceSt i x).rill k = s.rill k := by
  unfold State.rill; simp
@[simp] theorem State.cascade_setSliceSt (s : State) (i : Nat) (x : SliceSt) (k : Nat) : (s.setSliceSt i x).cascade k = s.cascade k := by
  unfold State.cascade; simp
@[simp] theorem State.sliceSt_setSliceSt_same (s : State) (i : Nat) (x : SliceSt) : (s.setSliceSt i x).sliceSt i = x := Tbl.get_set_same ..
theorem State.sliceSt_setSliceSt_other (s : State) (i : Nat) (x : SliceSt) (k : Nat) (h : k ≠ i) : (s.setSliceSt i x).sliceSt k = s.sliceSt k :=
  Tbl.get_set_other _ _ _ _ h
@[simp] theorem State.ring_setSliceSt (s : State) (i : Nat) (x : SliceSt) (k : Nat) : (s.setSliceSt i x).ring k = s.ring k := by
  unfold State.ring; simp
@[simp] theorem State.ethPort_setSliceSt (s : State) (i : Nat) (x : SliceSt) (k : Nat) : (s.setSliceSt i x).ethPort k = s.ethPort k := by
  unfold State.ethPort; simp

/-! ### setRing -/

@[simp] theorem State.setRing_pending (s : State) (r : Nat) (x : RingSt) : (s.setRing r x).pending = s.pending := rfl
@[simp] theorem State.setRing_freeCtr (s : State) (r : Nat) (x : RingSt) : (s.setRing r x).freeCtr = s.freeCtr := rfl
@[simp] theorem State.setRing_readData (s : State) (r : Nat) (x : RingSt) : (s.setRing r x).readData = s.readData := rfl
@[simp] theorem State.setRing_irqs (s : State) (r : Nat) (x : RingSt) : (s.setRing r x).irqs = s.irqs := rfl
@[simp] theorem State.setRing_regs (s : State) (r : Nat) (x : RingSt) : (s.setRing r x).regs = s.regs := rfl
@[simp] theorem State.setRing_fresh (s : State) (r : Nat) (x : RingSt) : (s.setRing r x).fresh = s.fresh := rfl
@[simp] theorem State.setRing_ticked (s : State) (r : Nat) (x : RingSt) : (s.setRing r x).ticked = s.ticked := rfl
@[simp] theorem State.setRing_shadows (s : State) (r : Nat) (x : RingSt) : (s.setRing r x).shadows = s.shadows := rfl
@[simp] theorem State.setRing_dev (s : State) (r : Nat) (x : RingSt) : (s.setRing r x).dev = s.dev := rfl
@[simp] theorem State.setRing_devKey (s : State) (r : Nat) (x : RingSt) : (s.setRing r x).devKey = s.devKey := rfl
@[simp] theorem State.setRing_keys (s : State) (r : Nat) (x : RingSt) : (s.setRing r x).keys = s.keys := rfl
@[simp] theorem State.setRing_cistern (s : State) (r : Nat) (x : RingSt) : (s.setRing r x).cistern = s.cistern := rfl
@[simp] theorem State.setRing_pool (s : State) (r : Nat) (x : RingSt) : (s.setRing r x).pool = s.pool := rfl
@[simp] theorem State.setRing_host (s : State) (r : Nat) (x : RingSt) : (s.setRing r x).host = s.host := rfl
@[simp] theorem State.setRing_eccC (s : State) (r : Nat) (x : RingSt) : (s.setRing r x).eccC = s.eccC := rfl
@[simp] theorem State.setRing_eccP (s : State) (r : Nat) (x : RingSt) : (s.setRing r x).eccP = s.eccP := rfl
@[simp] theorem State.setRing_cmds (s : State) (r : Nat) (x : RingSt) : (s.setRing r x).cmds = s.cmds := rfl
@[simp] theorem State.setRing_nextCmd (s : State) (r : Nat) (x : RingSt) : (s.setRing r x).nextCmd = s.nextCmd := rfl
@[simp] theorem State.setRing_sluice (s : State) (r : Nat) (x : RingSt) : (s.setRing r x).sluice = s.sluice := rfl
@[simp] theorem State.setRing_basins (s : State) (r : Nat) (x : RingSt) : (s.setRing r x).basins = s.basins := rfl
@[simp] theorem State.setRing_cores (s : State) (r : Nat) (x : RingSt) : (s.setRing r x).cores = s.cores := rfl
@[simp] theorem State.setRing_jets (s : State) (r : Nat) (x : RingSt) : (s.setRing r x).jets = s.jets := rfl
@[simp] theorem State.setRing_rills (s : State) (r : Nat) (x : RingSt) : (s.setRing r x).rills = s.rills := rfl
@[simp] theorem State.setRing_cascades (s : State) (r : Nat) (x : RingSt) : (s.setRing r x).cascades = s.cascades := rfl
@[simp] theorem State.setRing_slices (s : State) (r : Nat) (x : RingSt) : (s.setRing r x).slices = s.slices := rfl
@[simp] theorem State.setRing_variants (s : State) (r : Nat) (x : RingSt) : (s.setRing r x).variants = s.variants := rfl
@[simp] theorem State.setRing_serve (s : State) (r : Nat) (x : RingSt) : (s.setRing r x).serve = s.serve := rfl
@[simp] theorem State.setRing_saves (s : State) (r : Nat) (x : RingSt) : (s.setRing r x).saves = s.saves := rfl
@[simp] theorem State.setRing_radio (s : State) (r : Nat) (x : RingSt) : (s.setRing r x).radio = s.radio := rfl
@[simp] theorem State.setRing_time (s : State) (r : Nat) (x : RingSt) : (s.setRing r x).time = s.time := rfl
@[simp] theorem State.setRing_eth (s : State) (r : Nat) (x : RingSt) : (s.setRing r x).eth = s.eth := rfl
@[simp] theorem State.setRing_mtx (s : State) (r : Nat) (x : RingSt) : (s.setRing r x).mtx = s.mtx := rfl
@[simp] theorem State.setRing_mtxDue (s : State) (r : Nat) (x : RingSt) : (s.setRing r x).mtxDue = s.mtxDue := rfl
@[simp] theorem State.setRing_mtxOut (s : State) (r : Nat) (x : RingSt) : (s.setRing r x).mtxOut = s.mtxOut := rfl
@[simp] theorem State.setRing_aqd (s : State) (r : Nat) (x : RingSt) : (s.setRing r x).aqd = s.aqd := rfl
@[simp] theorem State.setRing_shadowing (s : State) (r : Nat) (x : RingSt) : (s.setRing r x).shadowing = s.shadowing := rfl
@[simp] theorem State.setRing_spw (s : State) (r : Nat) (x : RingSt) : (s.setRing r x).spw = s.spw := rfl
@[simp] theorem State.setRing_pwr (s : State) (r : Nat) (x : RingSt) : (s.setRing r x).pwr = s.pwr := rfl
@[simp] theorem State.setRing_boot (s : State) (r : Nat) (x : RingSt) : (s.setRing r x).boot = s.boot := rfl
@[simp] theorem State.setRing_mgmt (s : State) (r : Nat) (x : RingSt) : (s.setRing r x).mgmt = s.mgmt := rfl
@[simp] theorem State.reg_setRing (s : State) (r : Nat) (x : RingSt) (m : RegName) (k : Nat) : (s.setRing r x).reg m k = s.reg m k := by
  unfold State.reg; simp
@[simp] theorem State.rd_setRing (s : State) (r : Nat) (x : RingSt) (g : Fld) (k : Nat) : (s.setRing r x).rd g k = s.rd g k := by
  unfold State.rd; simp
@[simp] theorem State.on_setRing (s : State) (r : Nat) (x : RingSt) (g : Fld) (k : Nat) : (s.setRing r x).on g k = s.on g k := by
  unfold State.on; simp
@[simp] theorem State.basin_setRing (s : State) (r : Nat) (x : RingSt) (k : Nat) : (s.setRing r x).basin k = s.basin k := by
  unfold State.basin; simp
@[simp] theorem State.core_setRing (s : State) (r : Nat) (x : RingSt) (k : Nat) : (s.setRing r x).core k = s.core k := by
  unfold State.core; simp
@[simp] theorem State.jet_setRing (s : State) (r : Nat) (x : RingSt) (k : Nat) : (s.setRing r x).jet k = s.jet k := by
  unfold State.jet; simp
@[simp] theorem State.rill_setRing (s : State) (r : Nat) (x : RingSt) (k : Nat) : (s.setRing r x).rill k = s.rill k := by
  unfold State.rill; simp
@[simp] theorem State.cascade_setRing (s : State) (r : Nat) (x : RingSt) (k : Nat) : (s.setRing r x).cascade k = s.cascade k := by
  unfold State.cascade; simp
@[simp] theorem State.sliceSt_setRing (s : State) (r : Nat) (x : RingSt) (k : Nat) : (s.setRing r x).sliceSt k = s.sliceSt k := by
  unfold State.sliceSt; simp
@[simp] theorem State.ring_setRing_same (s : State) (r : Nat) (x : RingSt) : (s.setRing r x).ring r = x := Tbl.get_set_same ..
theorem State.ring_setRing_other (s : State) (r : Nat) (x : RingSt) (k : Nat) (h : k ≠ r) : (s.setRing r x).ring k = s.ring k :=
  Tbl.get_set_other _ _ _ _ h
@[simp] theorem State.ethPort_setRing (s : State) (r : Nat) (x : RingSt) (k : Nat) : (s.setRing r x).ethPort k = s.ethPort k := by
  unfold State.ethPort; simp

/-! ### setEth -/

@[simp] theorem State.setEth_pending (s : State) (p : Nat) (x : EthSt) : (s.setEth p x).pending = s.pending := rfl
@[simp] theorem State.setEth_freeCtr (s : State) (p : Nat) (x : EthSt) : (s.setEth p x).freeCtr = s.freeCtr := rfl
@[simp] theorem State.setEth_readData (s : State) (p : Nat) (x : EthSt) : (s.setEth p x).readData = s.readData := rfl
@[simp] theorem State.setEth_irqs (s : State) (p : Nat) (x : EthSt) : (s.setEth p x).irqs = s.irqs := rfl
@[simp] theorem State.setEth_regs (s : State) (p : Nat) (x : EthSt) : (s.setEth p x).regs = s.regs := rfl
@[simp] theorem State.setEth_fresh (s : State) (p : Nat) (x : EthSt) : (s.setEth p x).fresh = s.fresh := rfl
@[simp] theorem State.setEth_ticked (s : State) (p : Nat) (x : EthSt) : (s.setEth p x).ticked = s.ticked := rfl
@[simp] theorem State.setEth_shadows (s : State) (p : Nat) (x : EthSt) : (s.setEth p x).shadows = s.shadows := rfl
@[simp] theorem State.setEth_dev (s : State) (p : Nat) (x : EthSt) : (s.setEth p x).dev = s.dev := rfl
@[simp] theorem State.setEth_devKey (s : State) (p : Nat) (x : EthSt) : (s.setEth p x).devKey = s.devKey := rfl
@[simp] theorem State.setEth_keys (s : State) (p : Nat) (x : EthSt) : (s.setEth p x).keys = s.keys := rfl
@[simp] theorem State.setEth_cistern (s : State) (p : Nat) (x : EthSt) : (s.setEth p x).cistern = s.cistern := rfl
@[simp] theorem State.setEth_pool (s : State) (p : Nat) (x : EthSt) : (s.setEth p x).pool = s.pool := rfl
@[simp] theorem State.setEth_host (s : State) (p : Nat) (x : EthSt) : (s.setEth p x).host = s.host := rfl
@[simp] theorem State.setEth_eccC (s : State) (p : Nat) (x : EthSt) : (s.setEth p x).eccC = s.eccC := rfl
@[simp] theorem State.setEth_eccP (s : State) (p : Nat) (x : EthSt) : (s.setEth p x).eccP = s.eccP := rfl
@[simp] theorem State.setEth_cmds (s : State) (p : Nat) (x : EthSt) : (s.setEth p x).cmds = s.cmds := rfl
@[simp] theorem State.setEth_nextCmd (s : State) (p : Nat) (x : EthSt) : (s.setEth p x).nextCmd = s.nextCmd := rfl
@[simp] theorem State.setEth_rings (s : State) (p : Nat) (x : EthSt) : (s.setEth p x).rings = s.rings := rfl
@[simp] theorem State.setEth_sluice (s : State) (p : Nat) (x : EthSt) : (s.setEth p x).sluice = s.sluice := rfl
@[simp] theorem State.setEth_basins (s : State) (p : Nat) (x : EthSt) : (s.setEth p x).basins = s.basins := rfl
@[simp] theorem State.setEth_cores (s : State) (p : Nat) (x : EthSt) : (s.setEth p x).cores = s.cores := rfl
@[simp] theorem State.setEth_jets (s : State) (p : Nat) (x : EthSt) : (s.setEth p x).jets = s.jets := rfl
@[simp] theorem State.setEth_rills (s : State) (p : Nat) (x : EthSt) : (s.setEth p x).rills = s.rills := rfl
@[simp] theorem State.setEth_cascades (s : State) (p : Nat) (x : EthSt) : (s.setEth p x).cascades = s.cascades := rfl
@[simp] theorem State.setEth_slices (s : State) (p : Nat) (x : EthSt) : (s.setEth p x).slices = s.slices := rfl
@[simp] theorem State.setEth_variants (s : State) (p : Nat) (x : EthSt) : (s.setEth p x).variants = s.variants := rfl
@[simp] theorem State.setEth_serve (s : State) (p : Nat) (x : EthSt) : (s.setEth p x).serve = s.serve := rfl
@[simp] theorem State.setEth_saves (s : State) (p : Nat) (x : EthSt) : (s.setEth p x).saves = s.saves := rfl
@[simp] theorem State.setEth_radio (s : State) (p : Nat) (x : EthSt) : (s.setEth p x).radio = s.radio := rfl
@[simp] theorem State.setEth_time (s : State) (p : Nat) (x : EthSt) : (s.setEth p x).time = s.time := rfl
@[simp] theorem State.setEth_mtx (s : State) (p : Nat) (x : EthSt) : (s.setEth p x).mtx = s.mtx := rfl
@[simp] theorem State.setEth_mtxDue (s : State) (p : Nat) (x : EthSt) : (s.setEth p x).mtxDue = s.mtxDue := rfl
@[simp] theorem State.setEth_mtxOut (s : State) (p : Nat) (x : EthSt) : (s.setEth p x).mtxOut = s.mtxOut := rfl
@[simp] theorem State.setEth_aqd (s : State) (p : Nat) (x : EthSt) : (s.setEth p x).aqd = s.aqd := rfl
@[simp] theorem State.setEth_shadowing (s : State) (p : Nat) (x : EthSt) : (s.setEth p x).shadowing = s.shadowing := rfl
@[simp] theorem State.setEth_spw (s : State) (p : Nat) (x : EthSt) : (s.setEth p x).spw = s.spw := rfl
@[simp] theorem State.setEth_pwr (s : State) (p : Nat) (x : EthSt) : (s.setEth p x).pwr = s.pwr := rfl
@[simp] theorem State.setEth_boot (s : State) (p : Nat) (x : EthSt) : (s.setEth p x).boot = s.boot := rfl
@[simp] theorem State.setEth_mgmt (s : State) (p : Nat) (x : EthSt) : (s.setEth p x).mgmt = s.mgmt := rfl
@[simp] theorem State.reg_setEth (s : State) (p : Nat) (x : EthSt) (m : RegName) (k : Nat) : (s.setEth p x).reg m k = s.reg m k := by
  unfold State.reg; simp
@[simp] theorem State.rd_setEth (s : State) (p : Nat) (x : EthSt) (g : Fld) (k : Nat) : (s.setEth p x).rd g k = s.rd g k := by
  unfold State.rd; simp
@[simp] theorem State.on_setEth (s : State) (p : Nat) (x : EthSt) (g : Fld) (k : Nat) : (s.setEth p x).on g k = s.on g k := by
  unfold State.on; simp
@[simp] theorem State.basin_setEth (s : State) (p : Nat) (x : EthSt) (k : Nat) : (s.setEth p x).basin k = s.basin k := by
  unfold State.basin; simp
@[simp] theorem State.core_setEth (s : State) (p : Nat) (x : EthSt) (k : Nat) : (s.setEth p x).core k = s.core k := by
  unfold State.core; simp
@[simp] theorem State.jet_setEth (s : State) (p : Nat) (x : EthSt) (k : Nat) : (s.setEth p x).jet k = s.jet k := by
  unfold State.jet; simp
@[simp] theorem State.rill_setEth (s : State) (p : Nat) (x : EthSt) (k : Nat) : (s.setEth p x).rill k = s.rill k := by
  unfold State.rill; simp
@[simp] theorem State.cascade_setEth (s : State) (p : Nat) (x : EthSt) (k : Nat) : (s.setEth p x).cascade k = s.cascade k := by
  unfold State.cascade; simp
@[simp] theorem State.sliceSt_setEth (s : State) (p : Nat) (x : EthSt) (k : Nat) : (s.setEth p x).sliceSt k = s.sliceSt k := by
  unfold State.sliceSt; simp
@[simp] theorem State.ring_setEth (s : State) (p : Nat) (x : EthSt) (k : Nat) : (s.setEth p x).ring k = s.ring k := by
  unfold State.ring; simp
@[simp] theorem State.ethPort_setEth_same (s : State) (p : Nat) (x : EthSt) : (s.setEth p x).ethPort p = x := Tbl.get_set_same ..
theorem State.ethPort_setEth_other (s : State) (p : Nat) (x : EthSt) (k : Nat) (h : k ≠ p) : (s.setEth p x).ethPort k = s.ethPort k :=
  Tbl.get_set_other _ _ _ _ h

/-! ### modCmd -/

@[simp] theorem State.modCmd_pending (s : State) (c : Nat) (f : Cmd → Cmd) : (s.modCmd c f).pending = s.pending := rfl
@[simp] theorem State.modCmd_freeCtr (s : State) (c : Nat) (f : Cmd → Cmd) : (s.modCmd c f).freeCtr = s.freeCtr := rfl
@[simp] theorem State.modCmd_readData (s : State) (c : Nat) (f : Cmd → Cmd) : (s.modCmd c f).readData = s.readData := rfl
@[simp] theorem State.modCmd_irqs (s : State) (c : Nat) (f : Cmd → Cmd) : (s.modCmd c f).irqs = s.irqs := rfl
@[simp] theorem State.modCmd_regs (s : State) (c : Nat) (f : Cmd → Cmd) : (s.modCmd c f).regs = s.regs := rfl
@[simp] theorem State.modCmd_fresh (s : State) (c : Nat) (f : Cmd → Cmd) : (s.modCmd c f).fresh = s.fresh := rfl
@[simp] theorem State.modCmd_ticked (s : State) (c : Nat) (f : Cmd → Cmd) : (s.modCmd c f).ticked = s.ticked := rfl
@[simp] theorem State.modCmd_shadows (s : State) (c : Nat) (f : Cmd → Cmd) : (s.modCmd c f).shadows = s.shadows := rfl
@[simp] theorem State.modCmd_dev (s : State) (c : Nat) (f : Cmd → Cmd) : (s.modCmd c f).dev = s.dev := rfl
@[simp] theorem State.modCmd_devKey (s : State) (c : Nat) (f : Cmd → Cmd) : (s.modCmd c f).devKey = s.devKey := rfl
@[simp] theorem State.modCmd_keys (s : State) (c : Nat) (f : Cmd → Cmd) : (s.modCmd c f).keys = s.keys := rfl
@[simp] theorem State.modCmd_cistern (s : State) (c : Nat) (f : Cmd → Cmd) : (s.modCmd c f).cistern = s.cistern := rfl
@[simp] theorem State.modCmd_pool (s : State) (c : Nat) (f : Cmd → Cmd) : (s.modCmd c f).pool = s.pool := rfl
@[simp] theorem State.modCmd_host (s : State) (c : Nat) (f : Cmd → Cmd) : (s.modCmd c f).host = s.host := rfl
@[simp] theorem State.modCmd_eccC (s : State) (c : Nat) (f : Cmd → Cmd) : (s.modCmd c f).eccC = s.eccC := rfl
@[simp] theorem State.modCmd_eccP (s : State) (c : Nat) (f : Cmd → Cmd) : (s.modCmd c f).eccP = s.eccP := rfl
@[simp] theorem State.modCmd_nextCmd (s : State) (c : Nat) (f : Cmd → Cmd) : (s.modCmd c f).nextCmd = s.nextCmd := rfl
@[simp] theorem State.modCmd_rings (s : State) (c : Nat) (f : Cmd → Cmd) : (s.modCmd c f).rings = s.rings := rfl
@[simp] theorem State.modCmd_sluice (s : State) (c : Nat) (f : Cmd → Cmd) : (s.modCmd c f).sluice = s.sluice := rfl
@[simp] theorem State.modCmd_basins (s : State) (c : Nat) (f : Cmd → Cmd) : (s.modCmd c f).basins = s.basins := rfl
@[simp] theorem State.modCmd_cores (s : State) (c : Nat) (f : Cmd → Cmd) : (s.modCmd c f).cores = s.cores := rfl
@[simp] theorem State.modCmd_jets (s : State) (c : Nat) (f : Cmd → Cmd) : (s.modCmd c f).jets = s.jets := rfl
@[simp] theorem State.modCmd_rills (s : State) (c : Nat) (f : Cmd → Cmd) : (s.modCmd c f).rills = s.rills := rfl
@[simp] theorem State.modCmd_cascades (s : State) (c : Nat) (f : Cmd → Cmd) : (s.modCmd c f).cascades = s.cascades := rfl
@[simp] theorem State.modCmd_slices (s : State) (c : Nat) (f : Cmd → Cmd) : (s.modCmd c f).slices = s.slices := rfl
@[simp] theorem State.modCmd_variants (s : State) (c : Nat) (f : Cmd → Cmd) : (s.modCmd c f).variants = s.variants := rfl
@[simp] theorem State.modCmd_serve (s : State) (c : Nat) (f : Cmd → Cmd) : (s.modCmd c f).serve = s.serve := rfl
@[simp] theorem State.modCmd_saves (s : State) (c : Nat) (f : Cmd → Cmd) : (s.modCmd c f).saves = s.saves := rfl
@[simp] theorem State.modCmd_radio (s : State) (c : Nat) (f : Cmd → Cmd) : (s.modCmd c f).radio = s.radio := rfl
@[simp] theorem State.modCmd_time (s : State) (c : Nat) (f : Cmd → Cmd) : (s.modCmd c f).time = s.time := rfl
@[simp] theorem State.modCmd_eth (s : State) (c : Nat) (f : Cmd → Cmd) : (s.modCmd c f).eth = s.eth := rfl
@[simp] theorem State.modCmd_mtx (s : State) (c : Nat) (f : Cmd → Cmd) : (s.modCmd c f).mtx = s.mtx := rfl
@[simp] theorem State.modCmd_mtxDue (s : State) (c : Nat) (f : Cmd → Cmd) : (s.modCmd c f).mtxDue = s.mtxDue := rfl
@[simp] theorem State.modCmd_mtxOut (s : State) (c : Nat) (f : Cmd → Cmd) : (s.modCmd c f).mtxOut = s.mtxOut := rfl
@[simp] theorem State.modCmd_aqd (s : State) (c : Nat) (f : Cmd → Cmd) : (s.modCmd c f).aqd = s.aqd := rfl
@[simp] theorem State.modCmd_shadowing (s : State) (c : Nat) (f : Cmd → Cmd) : (s.modCmd c f).shadowing = s.shadowing := rfl
@[simp] theorem State.modCmd_spw (s : State) (c : Nat) (f : Cmd → Cmd) : (s.modCmd c f).spw = s.spw := rfl
@[simp] theorem State.modCmd_pwr (s : State) (c : Nat) (f : Cmd → Cmd) : (s.modCmd c f).pwr = s.pwr := rfl
@[simp] theorem State.modCmd_boot (s : State) (c : Nat) (f : Cmd → Cmd) : (s.modCmd c f).boot = s.boot := rfl
@[simp] theorem State.modCmd_mgmt (s : State) (c : Nat) (f : Cmd → Cmd) : (s.modCmd c f).mgmt = s.mgmt := rfl
@[simp] theorem State.reg_modCmd (s : State) (c : Nat) (f : Cmd → Cmd) (m : RegName) (k : Nat) : (s.modCmd c f).reg m k = s.reg m k := by
  unfold State.reg; simp
@[simp] theorem State.rd_modCmd (s : State) (c : Nat) (f : Cmd → Cmd) (g : Fld) (k : Nat) : (s.modCmd c f).rd g k = s.rd g k := by
  unfold State.rd; simp
@[simp] theorem State.on_modCmd (s : State) (c : Nat) (f : Cmd → Cmd) (g : Fld) (k : Nat) : (s.modCmd c f).on g k = s.on g k := by
  unfold State.on; simp
@[simp] theorem State.basin_modCmd (s : State) (c : Nat) (f : Cmd → Cmd) (k : Nat) : (s.modCmd c f).basin k = s.basin k := by
  unfold State.basin; simp
@[simp] theorem State.core_modCmd (s : State) (c : Nat) (f : Cmd → Cmd) (k : Nat) : (s.modCmd c f).core k = s.core k := by
  unfold State.core; simp
@[simp] theorem State.jet_modCmd (s : State) (c : Nat) (f : Cmd → Cmd) (k : Nat) : (s.modCmd c f).jet k = s.jet k := by
  unfold State.jet; simp
@[simp] theorem State.rill_modCmd (s : State) (c : Nat) (f : Cmd → Cmd) (k : Nat) : (s.modCmd c f).rill k = s.rill k := by
  unfold State.rill; simp
@[simp] theorem State.cascade_modCmd (s : State) (c : Nat) (f : Cmd → Cmd) (k : Nat) : (s.modCmd c f).cascade k = s.cascade k := by
  unfold State.cascade; simp
@[simp] theorem State.sliceSt_modCmd (s : State) (c : Nat) (f : Cmd → Cmd) (k : Nat) : (s.modCmd c f).sliceSt k = s.sliceSt k := by
  unfold State.sliceSt; simp
@[simp] theorem State.ring_modCmd (s : State) (c : Nat) (f : Cmd → Cmd) (k : Nat) : (s.modCmd c f).ring k = s.ring k := by
  unfold State.ring; simp
@[simp] theorem State.ethPort_modCmd (s : State) (c : Nat) (f : Cmd → Cmd) (k : Nat) : (s.modCmd c f).ethPort k = s.ethPort k := by
  unfold State.ethPort; simp

/-! ### dropCmd -/

@[simp] theorem State.dropCmd_pending (s : State) (c : Nat) : (s.dropCmd c).pending = s.pending := rfl
@[simp] theorem State.dropCmd_freeCtr (s : State) (c : Nat) : (s.dropCmd c).freeCtr = s.freeCtr := rfl
@[simp] theorem State.dropCmd_readData (s : State) (c : Nat) : (s.dropCmd c).readData = s.readData := rfl
@[simp] theorem State.dropCmd_irqs (s : State) (c : Nat) : (s.dropCmd c).irqs = s.irqs := rfl
@[simp] theorem State.dropCmd_regs (s : State) (c : Nat) : (s.dropCmd c).regs = s.regs := rfl
@[simp] theorem State.dropCmd_fresh (s : State) (c : Nat) : (s.dropCmd c).fresh = s.fresh := rfl
@[simp] theorem State.dropCmd_ticked (s : State) (c : Nat) : (s.dropCmd c).ticked = s.ticked := rfl
@[simp] theorem State.dropCmd_shadows (s : State) (c : Nat) : (s.dropCmd c).shadows = s.shadows := rfl
@[simp] theorem State.dropCmd_dev (s : State) (c : Nat) : (s.dropCmd c).dev = s.dev := rfl
@[simp] theorem State.dropCmd_devKey (s : State) (c : Nat) : (s.dropCmd c).devKey = s.devKey := rfl
@[simp] theorem State.dropCmd_keys (s : State) (c : Nat) : (s.dropCmd c).keys = s.keys := rfl
@[simp] theorem State.dropCmd_cistern (s : State) (c : Nat) : (s.dropCmd c).cistern = s.cistern := rfl
@[simp] theorem State.dropCmd_pool (s : State) (c : Nat) : (s.dropCmd c).pool = s.pool := rfl
@[simp] theorem State.dropCmd_host (s : State) (c : Nat) : (s.dropCmd c).host = s.host := rfl
@[simp] theorem State.dropCmd_eccC (s : State) (c : Nat) : (s.dropCmd c).eccC = s.eccC := rfl
@[simp] theorem State.dropCmd_eccP (s : State) (c : Nat) : (s.dropCmd c).eccP = s.eccP := rfl
@[simp] theorem State.dropCmd_nextCmd (s : State) (c : Nat) : (s.dropCmd c).nextCmd = s.nextCmd := rfl
@[simp] theorem State.dropCmd_rings (s : State) (c : Nat) : (s.dropCmd c).rings = s.rings := rfl
@[simp] theorem State.dropCmd_sluice (s : State) (c : Nat) : (s.dropCmd c).sluice = s.sluice := rfl
@[simp] theorem State.dropCmd_basins (s : State) (c : Nat) : (s.dropCmd c).basins = s.basins := rfl
@[simp] theorem State.dropCmd_cores (s : State) (c : Nat) : (s.dropCmd c).cores = s.cores := rfl
@[simp] theorem State.dropCmd_jets (s : State) (c : Nat) : (s.dropCmd c).jets = s.jets := rfl
@[simp] theorem State.dropCmd_rills (s : State) (c : Nat) : (s.dropCmd c).rills = s.rills := rfl
@[simp] theorem State.dropCmd_cascades (s : State) (c : Nat) : (s.dropCmd c).cascades = s.cascades := rfl
@[simp] theorem State.dropCmd_slices (s : State) (c : Nat) : (s.dropCmd c).slices = s.slices := rfl
@[simp] theorem State.dropCmd_variants (s : State) (c : Nat) : (s.dropCmd c).variants = s.variants := rfl
@[simp] theorem State.dropCmd_serve (s : State) (c : Nat) : (s.dropCmd c).serve = s.serve := rfl
@[simp] theorem State.dropCmd_saves (s : State) (c : Nat) : (s.dropCmd c).saves = s.saves := rfl
@[simp] theorem State.dropCmd_radio (s : State) (c : Nat) : (s.dropCmd c).radio = s.radio := rfl
@[simp] theorem State.dropCmd_time (s : State) (c : Nat) : (s.dropCmd c).time = s.time := rfl
@[simp] theorem State.dropCmd_eth (s : State) (c : Nat) : (s.dropCmd c).eth = s.eth := rfl
@[simp] theorem State.dropCmd_mtx (s : State) (c : Nat) : (s.dropCmd c).mtx = s.mtx := rfl
@[simp] theorem State.dropCmd_mtxDue (s : State) (c : Nat) : (s.dropCmd c).mtxDue = s.mtxDue := rfl
@[simp] theorem State.dropCmd_mtxOut (s : State) (c : Nat) : (s.dropCmd c).mtxOut = s.mtxOut := rfl
@[simp] theorem State.dropCmd_aqd (s : State) (c : Nat) : (s.dropCmd c).aqd = s.aqd := rfl
@[simp] theorem State.dropCmd_shadowing (s : State) (c : Nat) : (s.dropCmd c).shadowing = s.shadowing := rfl
@[simp] theorem State.dropCmd_spw (s : State) (c : Nat) : (s.dropCmd c).spw = s.spw := rfl
@[simp] theorem State.dropCmd_pwr (s : State) (c : Nat) : (s.dropCmd c).pwr = s.pwr := rfl
@[simp] theorem State.dropCmd_boot (s : State) (c : Nat) : (s.dropCmd c).boot = s.boot := rfl
@[simp] theorem State.dropCmd_mgmt (s : State) (c : Nat) : (s.dropCmd c).mgmt = s.mgmt := rfl
@[simp] theorem State.reg_dropCmd (s : State) (c : Nat) (m : RegName) (k : Nat) : (s.dropCmd c).reg m k = s.reg m k := by
  unfold State.reg; simp
@[simp] theorem State.rd_dropCmd (s : State) (c : Nat) (g : Fld) (k : Nat) : (s.dropCmd c).rd g k = s.rd g k := by
  unfold State.rd; simp
@[simp] theorem State.on_dropCmd (s : State) (c : Nat) (g : Fld) (k : Nat) : (s.dropCmd c).on g k = s.on g k := by
  unfold State.on; simp
@[simp] theorem State.basin_dropCmd (s : State) (c : Nat) (k : Nat) : (s.dropCmd c).basin k = s.basin k := by
  unfold State.basin; simp
@[simp] theorem State.core_dropCmd (s : State) (c : Nat) (k : Nat) : (s.dropCmd c).core k = s.core k := by
  unfold State.core; simp
@[simp] theorem State.jet_dropCmd (s : State) (c : Nat) (k : Nat) : (s.dropCmd c).jet k = s.jet k := by
  unfold State.jet; simp
@[simp] theorem State.rill_dropCmd (s : State) (c : Nat) (k : Nat) : (s.dropCmd c).rill k = s.rill k := by
  unfold State.rill; simp
@[simp] theorem State.cascade_dropCmd (s : State) (c : Nat) (k : Nat) : (s.dropCmd c).cascade k = s.cascade k := by
  unfold State.cascade; simp
@[simp] theorem State.sliceSt_dropCmd (s : State) (c : Nat) (k : Nat) : (s.dropCmd c).sliceSt k = s.sliceSt k := by
  unfold State.sliceSt; simp
@[simp] theorem State.ring_dropCmd (s : State) (c : Nat) (k : Nat) : (s.dropCmd c).ring k = s.ring k := by
  unfold State.ring; simp
@[simp] theorem State.ethPort_dropCmd (s : State) (c : Nat) (k : Nat) : (s.dropCmd c).ethPort k = s.ethPort k := by
  unfold State.ethPort; simp

/-! ### report -/

@[simp] theorem State.report_pending (s : State) (u c d : Nat) : (s.report u c d).pending = s.pending := rfl
@[simp] theorem State.report_freeCtr (s : State) (u c d : Nat) : (s.report u c d).freeCtr = s.freeCtr := rfl
@[simp] theorem State.report_readData (s : State) (u c d : Nat) : (s.report u c d).readData = s.readData := rfl
@[simp] theorem State.report_irqs (s : State) (u c d : Nat) : (s.report u c d).irqs = s.irqs := rfl
@[simp] theorem State.report_regs (s : State) (u c d : Nat) : (s.report u c d).regs = s.regs := rfl
@[simp] theorem State.report_fresh (s : State) (u c d : Nat) : (s.report u c d).fresh = s.fresh := rfl
@[simp] theorem State.report_ticked (s : State) (u c d : Nat) : (s.report u c d).ticked = s.ticked := rfl
@[simp] theorem State.report_shadows (s : State) (u c d : Nat) : (s.report u c d).shadows = s.shadows := rfl
@[simp] theorem State.report_dev (s : State) (u c d : Nat) : (s.report u c d).dev = s.dev := rfl
@[simp] theorem State.report_devKey (s : State) (u c d : Nat) : (s.report u c d).devKey = s.devKey := rfl
@[simp] theorem State.report_keys (s : State) (u c d : Nat) : (s.report u c d).keys = s.keys := rfl
@[simp] theorem State.report_cistern (s : State) (u c d : Nat) : (s.report u c d).cistern = s.cistern := rfl
@[simp] theorem State.report_pool (s : State) (u c d : Nat) : (s.report u c d).pool = s.pool := rfl
@[simp] theorem State.report_host (s : State) (u c d : Nat) : (s.report u c d).host = s.host := rfl
@[simp] theorem State.report_eccC (s : State) (u c d : Nat) : (s.report u c d).eccC = s.eccC := rfl
@[simp] theorem State.report_eccP (s : State) (u c d : Nat) : (s.report u c d).eccP = s.eccP := rfl
@[simp] theorem State.report_cmds (s : State) (u c d : Nat) : (s.report u c d).cmds = s.cmds := rfl
@[simp] theorem State.report_nextCmd (s : State) (u c d : Nat) : (s.report u c d).nextCmd = s.nextCmd := rfl
@[simp] theorem State.report_rings (s : State) (u c d : Nat) : (s.report u c d).rings = s.rings := rfl
@[simp] theorem State.report_sluice (s : State) (u c d : Nat) : (s.report u c d).sluice = s.sluice := rfl
@[simp] theorem State.report_basins (s : State) (u c d : Nat) : (s.report u c d).basins = s.basins := rfl
@[simp] theorem State.report_cores (s : State) (u c d : Nat) : (s.report u c d).cores = s.cores := rfl
@[simp] theorem State.report_jets (s : State) (u c d : Nat) : (s.report u c d).jets = s.jets := rfl
@[simp] theorem State.report_rills (s : State) (u c d : Nat) : (s.report u c d).rills = s.rills := rfl
@[simp] theorem State.report_cascades (s : State) (u c d : Nat) : (s.report u c d).cascades = s.cascades := rfl
@[simp] theorem State.report_slices (s : State) (u c d : Nat) : (s.report u c d).slices = s.slices := rfl
@[simp] theorem State.report_variants (s : State) (u c d : Nat) : (s.report u c d).variants = s.variants := rfl
@[simp] theorem State.report_serve (s : State) (u c d : Nat) : (s.report u c d).serve = s.serve := rfl
@[simp] theorem State.report_saves (s : State) (u c d : Nat) : (s.report u c d).saves = s.saves := rfl
@[simp] theorem State.report_radio (s : State) (u c d : Nat) : (s.report u c d).radio = s.radio := rfl
@[simp] theorem State.report_time (s : State) (u c d : Nat) : (s.report u c d).time = s.time := rfl
@[simp] theorem State.report_eth (s : State) (u c d : Nat) : (s.report u c d).eth = s.eth := rfl
@[simp] theorem State.report_mtx (s : State) (u c d : Nat) : (s.report u c d).mtx = s.mtx := rfl
@[simp] theorem State.report_mtxDue (s : State) (u c d : Nat) : (s.report u c d).mtxDue = s.mtxDue := rfl
@[simp] theorem State.report_mtxOut (s : State) (u c d : Nat) : (s.report u c d).mtxOut = s.mtxOut := rfl
@[simp] theorem State.report_aqd (s : State) (u c d : Nat) : (s.report u c d).aqd = s.aqd := rfl
@[simp] theorem State.report_shadowing (s : State) (u c d : Nat) : (s.report u c d).shadowing = s.shadowing := rfl
@[simp] theorem State.report_pwr (s : State) (u c d : Nat) : (s.report u c d).pwr = s.pwr := rfl
@[simp] theorem State.report_boot (s : State) (u c d : Nat) : (s.report u c d).boot = s.boot := rfl
@[simp] theorem State.report_mgmt (s : State) (u c d : Nat) : (s.report u c d).mgmt = s.mgmt := rfl
@[simp] theorem State.reg_report (s : State) (u c d : Nat) (m : RegName) (k : Nat) : (s.report u c d).reg m k = s.reg m k := by
  unfold State.reg; simp
@[simp] theorem State.rd_report (s : State) (u c d : Nat) (g : Fld) (k : Nat) : (s.report u c d).rd g k = s.rd g k := by
  unfold State.rd; simp
@[simp] theorem State.on_report (s : State) (u c d : Nat) (g : Fld) (k : Nat) : (s.report u c d).on g k = s.on g k := by
  unfold State.on; simp
@[simp] theorem State.basin_report (s : State) (u c d : Nat) (k : Nat) : (s.report u c d).basin k = s.basin k := by
  unfold State.basin; simp
@[simp] theorem State.core_report (s : State) (u c d : Nat) (k : Nat) : (s.report u c d).core k = s.core k := by
  unfold State.core; simp
@[simp] theorem State.jet_report (s : State) (u c d : Nat) (k : Nat) : (s.report u c d).jet k = s.jet k := by
  unfold State.jet; simp
@[simp] theorem State.rill_report (s : State) (u c d : Nat) (k : Nat) : (s.report u c d).rill k = s.rill k := by
  unfold State.rill; simp
@[simp] theorem State.cascade_report (s : State) (u c d : Nat) (k : Nat) : (s.report u c d).cascade k = s.cascade k := by
  unfold State.cascade; simp
@[simp] theorem State.sliceSt_report (s : State) (u c d : Nat) (k : Nat) : (s.report u c d).sliceSt k = s.sliceSt k := by
  unfold State.sliceSt; simp
@[simp] theorem State.ring_report (s : State) (u c d : Nat) (k : Nat) : (s.report u c d).ring k = s.ring k := by
  unfold State.ring; simp
@[simp] theorem State.ethPort_report (s : State) (u c d : Nat) (k : Nat) : (s.report u c d).ethPort k = s.ethPort k := by
  unfold State.ethPort; simp

/-! ### reportLow -/

@[simp] theorem State.reportLow_pending (s : State) (u c w l : Nat) : (s.reportLow u c w l).pending = s.pending := rfl
@[simp] theorem State.reportLow_readData (s : State) (u c w l : Nat) : (s.reportLow u c w l).readData = s.readData := rfl
@[simp] theorem State.reportLow_irqs (s : State) (u c w l : Nat) : (s.reportLow u c w l).irqs = s.irqs := rfl
@[simp] theorem State.reportLow_regs (s : State) (u c w l : Nat) : (s.reportLow u c w l).regs = s.regs := rfl
@[simp] theorem State.reportLow_fresh (s : State) (u c w l : Nat) : (s.reportLow u c w l).fresh = s.fresh := rfl
@[simp] theorem State.reportLow_ticked (s : State) (u c w l : Nat) : (s.reportLow u c w l).ticked = s.ticked := rfl
@[simp] theorem State.reportLow_shadows (s : State) (u c w l : Nat) : (s.reportLow u c w l).shadows = s.shadows := rfl
@[simp] theorem State.reportLow_dev (s : State) (u c w l : Nat) : (s.reportLow u c w l).dev = s.dev := rfl
@[simp] theorem State.reportLow_devKey (s : State) (u c w l : Nat) : (s.reportLow u c w l).devKey = s.devKey := rfl
@[simp] theorem State.reportLow_keys (s : State) (u c w l : Nat) : (s.reportLow u c w l).keys = s.keys := rfl
@[simp] theorem State.reportLow_cistern (s : State) (u c w l : Nat) : (s.reportLow u c w l).cistern = s.cistern := rfl
@[simp] theorem State.reportLow_pool (s : State) (u c w l : Nat) : (s.reportLow u c w l).pool = s.pool := rfl
@[simp] theorem State.reportLow_host (s : State) (u c w l : Nat) : (s.reportLow u c w l).host = s.host := rfl
@[simp] theorem State.reportLow_eccC (s : State) (u c w l : Nat) : (s.reportLow u c w l).eccC = s.eccC := rfl
@[simp] theorem State.reportLow_eccP (s : State) (u c w l : Nat) : (s.reportLow u c w l).eccP = s.eccP := rfl
@[simp] theorem State.reportLow_cmds (s : State) (u c w l : Nat) : (s.reportLow u c w l).cmds = s.cmds := rfl
@[simp] theorem State.reportLow_nextCmd (s : State) (u c w l : Nat) : (s.reportLow u c w l).nextCmd = s.nextCmd := rfl
@[simp] theorem State.reportLow_rings (s : State) (u c w l : Nat) : (s.reportLow u c w l).rings = s.rings := rfl
@[simp] theorem State.reportLow_sluice (s : State) (u c w l : Nat) : (s.reportLow u c w l).sluice = s.sluice := rfl
@[simp] theorem State.reportLow_basins (s : State) (u c w l : Nat) : (s.reportLow u c w l).basins = s.basins := rfl
@[simp] theorem State.reportLow_cores (s : State) (u c w l : Nat) : (s.reportLow u c w l).cores = s.cores := rfl
@[simp] theorem State.reportLow_jets (s : State) (u c w l : Nat) : (s.reportLow u c w l).jets = s.jets := rfl
@[simp] theorem State.reportLow_rills (s : State) (u c w l : Nat) : (s.reportLow u c w l).rills = s.rills := rfl
@[simp] theorem State.reportLow_cascades (s : State) (u c w l : Nat) : (s.reportLow u c w l).cascades = s.cascades := rfl
@[simp] theorem State.reportLow_slices (s : State) (u c w l : Nat) : (s.reportLow u c w l).slices = s.slices := rfl
@[simp] theorem State.reportLow_variants (s : State) (u c w l : Nat) : (s.reportLow u c w l).variants = s.variants := rfl
@[simp] theorem State.reportLow_serve (s : State) (u c w l : Nat) : (s.reportLow u c w l).serve = s.serve := rfl
@[simp] theorem State.reportLow_saves (s : State) (u c w l : Nat) : (s.reportLow u c w l).saves = s.saves := rfl
@[simp] theorem State.reportLow_radio (s : State) (u c w l : Nat) : (s.reportLow u c w l).radio = s.radio := rfl
@[simp] theorem State.reportLow_time (s : State) (u c w l : Nat) : (s.reportLow u c w l).time = s.time := rfl
@[simp] theorem State.reportLow_eth (s : State) (u c w l : Nat) : (s.reportLow u c w l).eth = s.eth := rfl
@[simp] theorem State.reportLow_mtx (s : State) (u c w l : Nat) : (s.reportLow u c w l).mtx = s.mtx := rfl
@[simp] theorem State.reportLow_mtxDue (s : State) (u c w l : Nat) : (s.reportLow u c w l).mtxDue = s.mtxDue := rfl
@[simp] theorem State.reportLow_mtxOut (s : State) (u c w l : Nat) : (s.reportLow u c w l).mtxOut = s.mtxOut := rfl
@[simp] theorem State.reportLow_aqd (s : State) (u c w l : Nat) : (s.reportLow u c w l).aqd = s.aqd := rfl
@[simp] theorem State.reportLow_shadowing (s : State) (u c w l : Nat) : (s.reportLow u c w l).shadowing = s.shadowing := rfl
@[simp] theorem State.reportLow_pwr (s : State) (u c w l : Nat) : (s.reportLow u c w l).pwr = s.pwr := rfl
@[simp] theorem State.reportLow_boot (s : State) (u c w l : Nat) : (s.reportLow u c w l).boot = s.boot := rfl
@[simp] theorem State.reportLow_mgmt (s : State) (u c w l : Nat) : (s.reportLow u c w l).mgmt = s.mgmt := rfl
@[simp] theorem State.reg_reportLow (s : State) (u c w l : Nat) (m : RegName) (k : Nat) : (s.reportLow u c w l).reg m k = s.reg m k := by
  unfold State.reg; simp
@[simp] theorem State.rd_reportLow (s : State) (u c w l : Nat) (g : Fld) (k : Nat) : (s.reportLow u c w l).rd g k = s.rd g k := by
  unfold State.rd; simp
@[simp] theorem State.on_reportLow (s : State) (u c w l : Nat) (g : Fld) (k : Nat) : (s.reportLow u c w l).on g k = s.on g k := by
  unfold State.on; simp
@[simp] theorem State.basin_reportLow (s : State) (u c w l : Nat) (k : Nat) : (s.reportLow u c w l).basin k = s.basin k := by
  unfold State.basin; simp
@[simp] theorem State.core_reportLow (s : State) (u c w l : Nat) (k : Nat) : (s.reportLow u c w l).core k = s.core k := by
  unfold State.core; simp
@[simp] theorem State.jet_reportLow (s : State) (u c w l : Nat) (k : Nat) : (s.reportLow u c w l).jet k = s.jet k := by
  unfold State.jet; simp
@[simp] theorem State.rill_reportLow (s : State) (u c w l : Nat) (k : Nat) : (s.reportLow u c w l).rill k = s.rill k := by
  unfold State.rill; simp
@[simp] theorem State.cascade_reportLow (s : State) (u c w l : Nat) (k : Nat) : (s.reportLow u c w l).cascade k = s.cascade k := by
  unfold State.cascade; simp
@[simp] theorem State.sliceSt_reportLow (s : State) (u c w l : Nat) (k : Nat) : (s.reportLow u c w l).sliceSt k = s.sliceSt k := by
  unfold State.sliceSt; simp
@[simp] theorem State.ring_reportLow (s : State) (u c w l : Nat) (k : Nat) : (s.reportLow u c w l).ring k = s.ring k := by
  unfold State.ring; simp
@[simp] theorem State.ethPort_reportLow (s : State) (u c w l : Nat) (k : Nat) : (s.reportLow u c w l).ethPort k = s.ethPort k := by
  unfold State.ethPort; simp

/-! ### advance -/

@[simp] theorem State.advance_pending (s : State) (dt : Nat) : (s.advance dt).pending = s.pending := by
  unfold State.advance; dsimp only; split <;> rfl
@[simp] theorem State.advance_freeCtr (s : State) (dt : Nat) : (s.advance dt).freeCtr = s.freeCtr := by
  unfold State.advance; dsimp only; split <;> rfl
@[simp] theorem State.advance_readData (s : State) (dt : Nat) : (s.advance dt).readData = s.readData := by
  unfold State.advance; dsimp only; split <;> rfl
@[simp] theorem State.advance_irqs (s : State) (dt : Nat) : (s.advance dt).irqs = s.irqs := by
  unfold State.advance; dsimp only; split <;> rfl
@[simp] theorem State.advance_regs (s : State) (dt : Nat) : (s.advance dt).regs = s.regs := by
  unfold State.advance; dsimp only; split <;> rfl
@[simp] theorem State.advance_shadows (s : State) (dt : Nat) : (s.advance dt).shadows = s.shadows := by
  unfold State.advance; dsimp only; split <;> rfl
@[simp] theorem State.advance_dev (s : State) (dt : Nat) : (s.advance dt).dev = s.dev := by
  unfold State.advance; dsimp only; split <;> rfl
@[simp] theorem State.advance_devKey (s : State) (dt : Nat) : (s.advance dt).devKey = s.devKey := by
  unfold State.advance; dsimp only; split <;> rfl
@[simp] theorem State.advance_keys (s : State) (dt : Nat) : (s.advance dt).keys = s.keys := by
  unfold State.advance; dsimp only; split <;> rfl
@[simp] theorem State.advance_cistern (s : State) (dt : Nat) : (s.advance dt).cistern = s.cistern := by
  unfold State.advance; dsimp only; split <;> rfl
@[simp] theorem State.advance_pool (s : State) (dt : Nat) : (s.advance dt).pool = s.pool := by
  unfold State.advance; dsimp only; split <;> rfl
@[simp] theorem State.advance_host (s : State) (dt : Nat) : (s.advance dt).host = s.host := by
  unfold State.advance; dsimp only; split <;> rfl
@[simp] theorem State.advance_eccC (s : State) (dt : Nat) : (s.advance dt).eccC = s.eccC := by
  unfold State.advance; dsimp only; split <;> rfl
@[simp] theorem State.advance_eccP (s : State) (dt : Nat) : (s.advance dt).eccP = s.eccP := by
  unfold State.advance; dsimp only; split <;> rfl
@[simp] theorem State.advance_cmds (s : State) (dt : Nat) : (s.advance dt).cmds = s.cmds := by
  unfold State.advance; dsimp only; split <;> rfl
@[simp] theorem State.advance_nextCmd (s : State) (dt : Nat) : (s.advance dt).nextCmd = s.nextCmd := by
  unfold State.advance; dsimp only; split <;> rfl
@[simp] theorem State.advance_rings (s : State) (dt : Nat) : (s.advance dt).rings = s.rings := by
  unfold State.advance; dsimp only; split <;> rfl
@[simp] theorem State.advance_sluice (s : State) (dt : Nat) : (s.advance dt).sluice = s.sluice := by
  unfold State.advance; dsimp only; split <;> rfl
@[simp] theorem State.advance_basins (s : State) (dt : Nat) : (s.advance dt).basins = s.basins := by
  unfold State.advance; dsimp only; split <;> rfl
@[simp] theorem State.advance_cores (s : State) (dt : Nat) : (s.advance dt).cores = s.cores := by
  unfold State.advance; dsimp only; split <;> rfl
@[simp] theorem State.advance_jets (s : State) (dt : Nat) : (s.advance dt).jets = s.jets := by
  unfold State.advance; dsimp only; split <;> rfl
@[simp] theorem State.advance_rills (s : State) (dt : Nat) : (s.advance dt).rills = s.rills := by
  unfold State.advance; dsimp only; split <;> rfl
@[simp] theorem State.advance_cascades (s : State) (dt : Nat) : (s.advance dt).cascades = s.cascades := by
  unfold State.advance; dsimp only; split <;> rfl
@[simp] theorem State.advance_slices (s : State) (dt : Nat) : (s.advance dt).slices = s.slices := by
  unfold State.advance; dsimp only; split <;> rfl
@[simp] theorem State.advance_variants (s : State) (dt : Nat) : (s.advance dt).variants = s.variants := by
  unfold State.advance; dsimp only; split <;> rfl
@[simp] theorem State.advance_serve (s : State) (dt : Nat) : (s.advance dt).serve = s.serve := by
  unfold State.advance; dsimp only; split <;> rfl
@[simp] theorem State.advance_saves (s : State) (dt : Nat) : (s.advance dt).saves = s.saves := by
  unfold State.advance; dsimp only; split <;> rfl
@[simp] theorem State.advance_radio (s : State) (dt : Nat) : (s.advance dt).radio = s.radio := by
  unfold State.advance; dsimp only; split <;> rfl
@[simp] theorem State.advance_eth (s : State) (dt : Nat) : (s.advance dt).eth = s.eth := by
  unfold State.advance; dsimp only; split <;> rfl
@[simp] theorem State.advance_mtx (s : State) (dt : Nat) : (s.advance dt).mtx = s.mtx := by
  unfold State.advance; dsimp only; split <;> rfl
@[simp] theorem State.advance_mtxDue (s : State) (dt : Nat) : (s.advance dt).mtxDue = s.mtxDue := by
  unfold State.advance; dsimp only; split <;> rfl
@[simp] theorem State.advance_mtxOut (s : State) (dt : Nat) : (s.advance dt).mtxOut = s.mtxOut := by
  unfold State.advance; dsimp only; split <;> rfl
@[simp] theorem State.advance_aqd (s : State) (dt : Nat) : (s.advance dt).aqd = s.aqd := by
  unfold State.advance; dsimp only; split <;> rfl
@[simp] theorem State.advance_shadowing (s : State) (dt : Nat) : (s.advance dt).shadowing = s.shadowing := by
  unfold State.advance; dsimp only; split <;> rfl
@[simp] theorem State.advance_spw (s : State) (dt : Nat) : (s.advance dt).spw = s.spw := by
  unfold State.advance; dsimp only; split <;> rfl
@[simp] theorem State.advance_pwr (s : State) (dt : Nat) : (s.advance dt).pwr = s.pwr := by
  unfold State.advance; dsimp only; split <;> rfl
@[simp] theorem State.advance_boot (s : State) (dt : Nat) : (s.advance dt).boot = s.boot := by
  unfold State.advance; dsimp only; split <;> rfl
@[simp] theorem State.advance_mgmt (s : State) (dt : Nat) : (s.advance dt).mgmt = s.mgmt := by
  unfold State.advance; dsimp only; split <;> rfl
@[simp] theorem State.reg_advance (s : State) (dt : Nat) (m : RegName) (k : Nat) : (s.advance dt).reg m k = s.reg m k := by
  unfold State.reg; simp
@[simp] theorem State.rd_advance (s : State) (dt : Nat) (g : Fld) (k : Nat) : (s.advance dt).rd g k = s.rd g k := by
  unfold State.rd; simp
@[simp] theorem State.on_advance (s : State) (dt : Nat) (g : Fld) (k : Nat) : (s.advance dt).on g k = s.on g k := by
  unfold State.on; simp
@[simp] theorem State.basin_advance (s : State) (dt : Nat) (k : Nat) : (s.advance dt).basin k = s.basin k := by
  unfold State.basin; simp
@[simp] theorem State.core_advance (s : State) (dt : Nat) (k : Nat) : (s.advance dt).core k = s.core k := by
  unfold State.core; simp
@[simp] theorem State.jet_advance (s : State) (dt : Nat) (k : Nat) : (s.advance dt).jet k = s.jet k := by
  unfold State.jet; simp
@[simp] theorem State.rill_advance (s : State) (dt : Nat) (k : Nat) : (s.advance dt).rill k = s.rill k := by
  unfold State.rill; simp
@[simp] theorem State.cascade_advance (s : State) (dt : Nat) (k : Nat) : (s.advance dt).cascade k = s.cascade k := by
  unfold State.cascade; simp
@[simp] theorem State.sliceSt_advance (s : State) (dt : Nat) (k : Nat) : (s.advance dt).sliceSt k = s.sliceSt k := by
  unfold State.sliceSt; simp
@[simp] theorem State.ring_advance (s : State) (dt : Nat) (k : Nat) : (s.advance dt).ring k = s.ring k := by
  unfold State.ring; simp
@[simp] theorem State.ethPort_advance (s : State) (dt : Nat) (k : Nat) : (s.advance dt).ethPort k = s.ethPort k := by
  unfold State.ethPort; simp

/-! ### The count -/

theorem State.advance_running (s : State) (dt : Nat) (h : s.boot.running = true) :
    s.advance dt = { s with
      fresh := if dt = 0 then s.fresh else []
      ticked := if (s.time.count64 + dt) / 64 = s.time.count64 / 64 then s.ticked else []
      time := { s.time with count64 := s.time.count64 + dt } } := by
  unfold State.advance; rw [if_pos h]

theorem State.advance_stopped (s : State) (dt : Nat) (h : s.boot.running = false) :
    s.advance dt = { s with fresh := if dt = 0 then s.fresh else [] } := by
  unfold State.advance; rw [if_neg (by rw [h]; decide)]

@[simp] theorem State.advance_zero (s : State) : s.advance 0 = s := by
  cases s; simp [State.advance]

/-! ### The frame of every meaning -/

theorem enterIf_true {dt : Nat} {s : State} {k : State → State} : enterIf true dt s k = .next (k (s.advance dt)) := rfl
theorem enterIf_false {dt : Nat} {s : State} {k : State → State} : enterIf false dt s k = .refused .illFormed := rfl

theorem enter_of_wellFormed {c : Instr} {dt : Nat} {s : State} {k : State → State} (h : c.wellFormed = true) :
    enter c dt s k = .next (k (s.advance dt)) := by
  unfold enter; rw [h]; rfl

theorem enter_of_illFormed {c : Instr} {dt : Nat} {s : State} {k : State → State} (h : c.wellFormed = false) :
    enter c dt s k = .refused .illFormed := by
  unfold enter; rw [h]; rfl

theorem State.whenever_of {s : State} {p : Bool} {k : State → State} (h : p = true) : s.whenever p k = k s := if_pos h
theorem State.whenever_not {s : State} {p : Bool} {k : State → State} (h : p = false) : s.whenever p k = s := by
  unfold State.whenever; rw [h]; rfl
theorem State.periodic_of {s : State} {t : Tick} {p : Bool} {k : State → State} (h : (p && !s.ticked.contains t) = true) :
    s.periodic t p k = k { s with ticked := t :: s.ticked } := if_pos h
theorem State.periodic_not {s : State} {t : Tick} {p : Bool} {k : State → State} (h : (p && !s.ticked.contains t) = false) :
    s.periodic t p k = s := by
  unfold State.periodic; rw [h]; rfl
@[simp] theorem State.whenever_true {s : State} {k : State → State} : s.whenever true k = k s := rfl
@[simp] theorem State.whenever_false {s : State} {k : State → State} : s.whenever false k = s := rfl
@[simp] theorem State.forSome_some {α : Type} {s : State} {a : α} {k : State → α → State} : s.forSome (some a) k = k s a := rfl
@[simp] theorem State.forSome_none {α : Type} {s : State} {k : State → α → State} : s.forSome none k = s := rfl

end Sys2Proof.Machine
end

