-- ==== Sys2Proof/Laws/Still.lean ====
section
/-! SUPPORT. What leaves every memory as it is. Here the relation and its steps; the operations follow in the files `Still1` and on. -/
namespace Sys2Proof.Machine

/-- Every memory of `t` is that of `s`. -/
def Still (s t : State) : Prop := t.dev = s.dev ∧ t.cistern = s.cistern ∧ t.pool = s.pool ∧ t.host = s.host

theorem Still.rfl' (s : State) : Still s s := ⟨rfl, rfl, rfl, rfl⟩

theorem Still.sameMemory {s t : State} (h : Still s t) : sameMemory s t := by
  obtain ⟨h1, h2, h3, h4⟩ := h
  exact ⟨fun _ => by rw [h1], fun _ => by rw [h2], fun _ => by rw [h3], fun _ => by rw [h4]⟩

variable {s0 : State}

theorem still_ite {c : Prop} [Decidable c] {a b : State} (ha : Still s0 a) (hb : Still s0 b) : Still s0 (if c then a else b) := by
  split
  · exact ha
  · exact hb

/-- A change of other fields. -/
theorem still_mk {t : State} (h : Still s0 t) {pe f r i rs fr tk sh dk ky ec ep cm nc rg sl ba co je ri ca sc va se sv ra ti et mt md mo aq sw sp pw bo
    mg} : Still s0 (State.mk pe f r i rs fr tk sh t.dev dk ky t.cistern t.pool t.host ec ep cm nc rg sl ba co je ri ca sc va se sv
      ra ti et mt md mo aq sw sp pw bo mg) := h

/-- The second part of a pair. -/
theorem still_snd {α : Type} {p : α × State} {a : α} {t : State} (e : p = (a, t)) (h : Still s0 p.2) : Still s0 t := by
  subst e; exact h
theorem still_fst {α : Type} {p : State × α} {a : α} {t : State} (e : p = (t, a)) (h : Still s0 p.1) : Still s0 t := by
  subst e; exact h

theorem still_foldl {α : Type} {f : State → α → State} (hf : ∀ s a, Still s0 s → Still s0 (f s a)) :
    ∀ (l : List α) (s : State), Still s0 s → Still s0 (l.foldl f s)
  | [], _, h => h
  | a :: l, s, h => still_foldl hf l (f s a) (hf s a h)

/-- The same over a pair whose first part is the state. -/
theorem still_foldl1 {α β : Type} {f : State × β → α → State × β} (hf : ∀ s a, Still s0 s.1 → Still s0 (f s a).1) :
    ∀ (l : List α) (s : State × β), Still s0 s.1 → Still s0 (l.foldl f s).1
  | [], _, h => h
  | a :: l, s, h => still_foldl1 hf l (f s a) (hf s a h)

theorem still_foldl2 {α β : Type} {f : β × State → α → β × State} (hf : ∀ s a, Still s0 s.2 → Still s0 (f s a).2) :
    ∀ (l : List α) (s : β × State), Still s0 s.2 → Still s0 (l.foldl f s).2
  | [], _, h => h
  | a :: l, s, h => still_foldl2 hf l (f s a) (hf s a h)

theorem still_each {α : Type} {f : State → α → State} {s : State} {l : List α} (h : Still s0 s)
    (hf : ∀ s a, Still s0 s → Still s0 (f s a)) : Still s0 (s.each l f) := still_foldl hf l s h

theorem still_whenever {s : State} {p : Bool} {k : State → State} (h : Still s0 s) (hk : ∀ s, Still s0 s → Still s0 (k s)) :
    Still s0 (s.whenever p k) := by
  unfold State.whenever; split
  · exact hk s h
  · exact h

theorem still_periodic {s : State} {k : State → State} (h : Still s0 s) (hk : ∀ s, Still s0 s → Still s0 (k s)) :
    ∀ t due, Still s0 (s.periodic t due k) := by
  intro t due
  unfold State.periodic; split
  · exact hk _ h
  · exact h

theorem still_forSome {α : Type} {s : State} {o : Option α} {k : State → α → State} (h : Still s0 s)
    (hk : ∀ s a, Still s0 s → Still s0 (k s a)) : Still s0 (s.forSome o k) := by
  unfold State.forSome; split
  · exact hk s _ h
  · exact h

theorem still_setReg {s : State} {n : RegName} {i v : Nat} (h : Still s0 s) : Still s0 (s.setReg n i v) := h

theorem still_resetRegs {s : State} {p : RegName → Nat → Bool} (h : Still s0 s) : Still s0 (s.resetRegs p) := h

end Sys2Proof.Machine
end

