-- ==== Sys2Proof/Laws/Still1.lean ====
section
/-! SUPPORT. What leaves every memory as it is, part 1. -/
namespace Sys2Proof.Machine

variable {s0 : State}

theorem State.wr_still {s : State} (h : Still s0 s) :
    ∀ a2 a3 a4, Still s0 (State.wr s a2 a3 a4) := by
  intro a2 a3 a4
  unfold State.wr
  repeat' first
      | with_reducible assumption | intro _ | with_reducible apply still_ite | with_reducible apply still_setReg

theorem State.bump_still {s : State} (h : Still s0 s) :
    ∀ a2 a3 a4, Still s0 (State.bump s a2 a3 a4) := by
  intro a2 a3 a4
  unfold State.bump
  repeat' first
      | with_reducible assumption | intro _ | with_reducible apply still_ite | with_reducible apply State.wr_still

theorem State.note_still {s : State} (h : Still s0 s) :
    ∀ a2 a3 a4, Still s0 (State.note s a2 a3 a4) := by
  intro a2 a3 a4
  unfold State.note
  repeat' first
      | with_reducible assumption | intro _ | with_reducible apply still_ite | with_reducible apply still_foldl
      | with_reducible apply still_foldl1 | with_reducible apply still_foldl2 | with_reducible refine still_fst (by assumption) ?_
      | with_reducible refine still_snd (by assumption) ?_ | fail_if_no_progress with_reducible apply still_mk

theorem State.bumpSat_still {s : State} (h : Still s0 s) :
    ∀ a2 a3 a4, Still s0 (State.bumpSat s a2 a3 a4) := by
  intro a2 a3 a4
  unfold State.bumpSat
  repeat' first
      | with_reducible assumption | intro _ | with_reducible apply still_ite | with_reducible apply State.wr_still
      | with_reducible apply State.note_still

theorem State.raise_still {s : State} (h : Still s0 s) :
    ∀ a2 a3, Still s0 (State.raise s a2 a3) := by
  intro a2 a3
  unfold State.raise
  repeat' first
      | with_reducible assumption | intro _ | with_reducible apply still_ite | with_reducible apply State.wr_still
      | with_reducible apply State.note_still

theorem State.keepFresh_still {s : State} (h : Still s0 s) :
    ∀ a2 a3, Still s0 (State.keepFresh s a2 a3) := by
  intro a2 a3
  unfold State.keepFresh
  repeat' first
      | with_reducible assumption | intro _ | with_reducible apply still_ite | with_reducible apply still_setReg
      | with_reducible apply still_foldl | with_reducible apply still_foldl1 | with_reducible apply still_foldl2
      | with_reducible refine still_fst (by assumption) ?_ | with_reducible refine still_snd (by assumption) ?_
      | fail_if_no_progress with_reducible apply still_mk | dsimp only | split

theorem State.setRegBit_still {s : State} (h : Still s0 s) :
    ∀ a2 a3 a4 a5, Still s0 (State.setRegBit s a2 a3 a4 a5) := by
  intro a2 a3 a4 a5
  unfold State.setRegBit
  repeat' first
      | with_reducible assumption | intro _ | with_reducible apply still_ite | with_reducible apply still_setReg

theorem State.advance_still {s : State} (h : Still s0 s) :
    ∀ a2, Still s0 (State.advance s a2) := by
  intro a2
  unfold State.advance
  repeat' first
      | with_reducible assumption | intro _ | with_reducible apply still_ite | with_reducible apply still_foldl
      | with_reducible apply still_foldl1 | with_reducible apply still_foldl2 | with_reducible refine still_fst (by assumption) ?_
      | with_reducible refine still_snd (by assumption) ?_ | fail_if_no_progress with_reducible apply still_mk

theorem enterIf_still {s : State} {k : State → State} (h : Still s0 s) (hk : ∀ x, Still s0 x → Still s0 (k x)) :
    ∀ ok dt t, enterIf ok dt s k = .next t → Still s0 t := by
  intro ok dt t ht
  unfold enterIf at ht
  split at ht
  · cases ht; exact hk _ (State.advance_still h _)
  · cases ht

theorem enter_still {s : State} {k : State → State} (h : Still s0 s) (hk : ∀ x, Still s0 x → Still s0 (k x)) :
    ∀ c dt t, enter c dt s k = .next t → Still s0 t := fun _ _ t => enterIf_still h hk _ _ t

theorem State.free_still {s : State} (h : Still s0 s) :
    Still s0 (State.free s).2 := by
  unfold State.free
  repeat' first
      | with_reducible assumption | intro _ | with_reducible apply still_ite | with_reducible apply still_foldl
      | with_reducible apply still_foldl1 | with_reducible apply still_foldl2 | with_reducible refine still_fst (by assumption) ?_
      | with_reducible refine still_snd (by assumption) ?_ | fail_if_no_progress with_reducible apply still_mk

theorem State.report_still {s : State} (h : Still s0 s) :
    ∀ a2 a3 a4, Still s0 (State.report s a2 a3 a4) := by
  intro a2 a3 a4
  unfold State.report
  repeat' first
      | with_reducible assumption | intro _ | with_reducible apply still_ite | with_reducible apply still_foldl
      | with_reducible apply still_foldl1 | with_reducible apply still_foldl2 | with_reducible refine still_fst (by assumption) ?_
      | with_reducible refine still_snd (by assumption) ?_ | fail_if_no_progress with_reducible apply still_mk

theorem State.reportLow_still {s : State} (h : Still s0 s) :
    ∀ a2 a3 a4 a5, Still s0 (State.reportLow s a2 a3 a4 a5) := by
  intro a2 a3 a4 a5
  unfold State.reportLow
  repeat' first
      | with_reducible assumption | intro _ | with_reducible apply still_ite | with_reducible apply State.free_still
      | with_reducible apply State.report_still

theorem State.info_still {s : State} (h : Still s0 s) :
    ∀ a2, Still s0 (State.info s a2) := by
  intro a2
  unfold State.info
  repeat' first
      | with_reducible assumption | intro _ | with_reducible apply still_ite | with_reducible apply State.reportLow_still

theorem State.setBasin_still {s : State} (h : Still s0 s) :
    ∀ a2 a3, Still s0 (State.setBasin s a2 a3) := by
  intro a2 a3
  unfold State.setBasin
  repeat' first
      | with_reducible assumption | intro _ | with_reducible apply still_ite | with_reducible apply still_foldl
      | with_reducible apply still_foldl1 | with_reducible apply still_foldl2 | with_reducible refine still_fst (by assumption) ?_
      | with_reducible refine still_snd (by assumption) ?_ | fail_if_no_progress with_reducible apply still_mk

theorem State.setCore_still {s : State} (h : Still s0 s) :
    ∀ a2 a3, Still s0 (State.setCore s a2 a3) := by
  intro a2 a3
  unfold State.setCore
  repeat' first
      | with_reducible assumption | intro _ | with_reducible apply still_ite | with_reducible apply still_foldl
      | with_reducible apply still_foldl1 | with_reducible apply still_foldl2 | with_reducible refine still_fst (by assumption) ?_
      | with_reducible refine still_snd (by assumption) ?_ | fail_if_no_progress with_reducible apply still_mk

theorem State.setRill_still {s : State} (h : Still s0 s) :
    ∀ a2 a3, Still s0 (State.setRill s a2 a3) := by
  intro a2 a3
  unfold State.setRill
  repeat' first
      | with_reducible assumption | intro _ | with_reducible apply still_ite | with_reducible apply still_foldl
      | with_reducible apply still_foldl1 | with_reducible apply still_foldl2 | with_reducible refine still_fst (by assumption) ?_
      | with_reducible refine still_snd (by assumption) ?_ | fail_if_no_progress with_reducible apply still_mk

theorem State.setCascade_still {s : State} (h : Still s0 s) :
    ∀ a2 a3, Still s0 (State.setCascade s a2 a3) := by
  intro a2 a3
  unfold State.setCascade
  repeat' first
      | with_reducible assumption | intro _ | with_reducible apply still_ite | with_reducible apply still_foldl
      | with_reducible apply still_foldl1 | with_reducible apply still_foldl2 | with_reducible refine still_fst (by assumption) ?_
      | with_reducible refine still_snd (by assumption) ?_ | fail_if_no_progress with_reducible apply still_mk

theorem State.setSliceSt_still {s : State} (h : Still s0 s) :
    ∀ a2 a3, Still s0 (State.setSliceSt s a2 a3) := by
  intro a2 a3
  unfold State.setSliceSt
  repeat' first
      | with_reducible assumption | intro _ | with_reducible apply still_ite | with_reducible apply still_foldl
      | with_reducible apply still_foldl1 | with_reducible apply still_foldl2 | with_reducible refine still_fst (by assumption) ?_
      | with_reducible refine still_snd (by assumption) ?_ | fail_if_no_progress with_reducible apply still_mk

theorem State.setRing_still {s : State} (h : Still s0 s) :
    ∀ a2 a3, Still s0 (State.setRing s a2 a3) := by
  intro a2 a3
  unfold State.setRing
  repeat' first
      | with_reducible assumption | intro _ | with_reducible apply still_ite | with_reducible apply still_foldl
      | with_reducible apply still_foldl1 | with_reducible apply still_foldl2 | with_reducible refine still_fst (by assumption) ?_
      | with_reducible refine still_snd (by assumption) ?_ | fail_if_no_progress with_reducible apply still_mk

theorem State.setEth_still {s : State} (h : Still s0 s) :
    ∀ a2 a3, Still s0 (State.setEth s a2 a3) := by
  intro a2 a3
  unfold State.setEth
  repeat' first
      | with_reducible assumption | intro _ | with_reducible apply still_ite | with_reducible apply still_foldl
      | with_reducible apply still_foldl1 | with_reducible apply still_foldl2 | with_reducible refine still_fst (by assumption) ?_
      | with_reducible refine still_snd (by assumption) ?_ | fail_if_no_progress with_reducible apply still_mk

theorem State.modCmd_still {s : State} (h : Still s0 s) :
    ∀ a2 a3, Still s0 (State.modCmd s a2 a3) := by
  intro a2 a3
  unfold State.modCmd
  repeat' first
      | with_reducible assumption | intro _ | with_reducible apply still_ite | with_reducible apply still_foldl
      | with_reducible apply still_foldl1 | with_reducible apply still_foldl2 | with_reducible refine still_fst (by assumption) ?_
      | with_reducible refine still_snd (by assumption) ?_ | fail_if_no_progress with_reducible apply still_mk

theorem State.eccFound_still {s : State} (h : Still s0 s) :
    ∀ a2 a3 a4, Still s0 (State.eccFound s a2 a3 a4) := by
  intro a2 a3 a4
  unfold State.eccFound
  repeat' first
      | with_reducible assumption | intro _ | with_reducible apply still_ite | with_reducible apply State.bumpSat_still
      | with_reducible apply State.reportLow_still

theorem State.eccRead_still {s : State} (h : Still s0 s) :
    ∀ a2 a3, Still s0 (State.eccRead s a2 a3) := by
  intro a2 a3
  unfold State.eccRead
  repeat' first
      | with_reducible assumption | intro _ | with_reducible apply still_ite | with_reducible apply still_each
      | with_reducible apply State.eccFound_still | with_reducible apply still_foldl | with_reducible apply still_foldl1
      | with_reducible apply still_foldl2 | with_reducible refine still_fst (by assumption) ?_
      | with_reducible refine still_snd (by assumption) ?_ | fail_if_no_progress with_reducible apply still_mk | dsimp only | split

theorem State.logPut_still {s : State} (h : Still s0 s) :
    ∀ a2, Still s0 (State.logPut s a2) := by
  intro a2
  unfold State.logPut
  repeat' first
      | with_reducible assumption | intro _ | with_reducible apply still_ite | with_reducible apply State.wr_still
      | with_reducible apply State.raise_still | with_reducible apply still_foldl | with_reducible apply still_foldl1
      | with_reducible apply still_foldl2 | with_reducible refine still_fst (by assumption) ?_
      | with_reducible refine still_snd (by assumption) ?_ | fail_if_no_progress with_reducible apply still_mk

theorem State.siltPut_still {s : State} (h : Still s0 s) :
    ∀ a2, Still s0 (State.siltPut s a2) := by
  intro a2
  unfold State.siltPut
  repeat' first
      | with_reducible assumption | intro _ | with_reducible apply still_ite | with_reducible apply still_foldl
      | with_reducible apply still_foldl1 | with_reducible apply still_foldl2 | with_reducible refine still_fst (by assumption) ?_
      | with_reducible refine still_snd (by assumption) ?_ | fail_if_no_progress with_reducible apply still_mk

theorem State.sensorEvent_still {s : State} (h : Still s0 s) :
    ∀ a2 a3, Still s0 (State.sensorEvent s a2 a3) := by
  intro a2 a3
  unfold State.sensorEvent
  repeat' first
      | with_reducible assumption | intro _ | with_reducible apply still_ite | with_reducible apply still_foldl
      | with_reducible apply still_foldl1 | with_reducible apply still_foldl2 | with_reducible refine still_fst (by assumption) ?_
      | with_reducible refine still_snd (by assumption) ?_ | fail_if_no_progress with_reducible apply still_mk | dsimp only | split

theorem State.spwChange_still {s : State} {k2 : State → State} (h : Still s0 s) (hk2 : ∀ x0, Still s0 x0 → Still s0 (k2 x0)) :
    Still s0 (State.spwChange s k2) := by
  unfold State.spwChange
  repeat' first
      | with_reducible assumption | intro _ | with_reducible apply still_ite | with_reducible apply State.sensorEvent_still
      | with_reducible apply hk2

theorem State.scoreChange_still {s : State} {k2 : State → State} (h : Still s0 s) (hk2 : ∀ x0, Still s0 x0 → Still s0 (k2 x0)) :
    Still s0 (State.scoreChange s k2) := by
  unfold State.scoreChange
  repeat' first
      | with_reducible assumption | intro _ | with_reducible apply still_ite | with_reducible apply State.sensorEvent_still
      | with_reducible apply hk2

theorem State.freezeSilt_still {s : State} (h : Still s0 s) :
    Still s0 (State.freezeSilt s) := by
  unfold State.freezeSilt
  repeat' first
      | with_reducible assumption | intro _ | with_reducible apply still_ite | with_reducible apply State.wr_still
      | with_reducible apply State.spwChange_still | with_reducible apply still_foldl | with_reducible apply still_foldl1
      | with_reducible apply still_foldl2 | with_reducible refine still_fst (by assumption) ?_
      | with_reducible refine still_snd (by assumption) ?_ | fail_if_no_progress with_reducible apply still_mk

theorem State.event_still {s : State} (h : Still s0 s) :
    ∀ a2 a3 a4 a5, Still s0 (State.event s a2 a3 a4 a5) := by
  intro a2 a3 a4 a5
  unfold State.event
  repeat' first
      | with_reducible assumption | intro _ | with_reducible apply still_ite | with_reducible apply State.logPut_still
      | with_reducible apply State.siltPut_still | with_reducible apply still_foldl | with_reducible apply still_foldl1
      | with_reducible apply still_foldl2 | with_reducible refine still_fst (by assumption) ?_
      | with_reducible refine still_snd (by assumption) ?_ | fail_if_no_progress with_reducible apply still_mk

theorem State.health_still {s : State} (h : Still s0 s) :
    ∀ a2, Still s0 (State.health s a2) := by
  intro a2
  unfold State.health
  repeat' first
      | with_reducible assumption | intro _ | with_reducible apply still_ite | with_reducible apply State.bumpSat_still
      | with_reducible apply State.scoreChange_still

theorem State.setSliceState_still {s : State} (h : Still s0 s) :
    ∀ a2 a3, Still s0 (State.setSliceState s a2 a3) := by
  intro a2 a3
  unfold State.setSliceState
  repeat' first
      | with_reducible assumption | intro _ | with_reducible apply still_ite | with_reducible apply State.wr_still
      | with_reducible apply State.event_still

theorem State.setTimeState_still {s : State} (h : Still s0 s) :
    ∀ a2, Still s0 (State.setTimeState s a2) := by
  intro a2
  unfold State.setTimeState
  repeat' first
      | with_reducible assumption | intro _ | with_reducible apply still_ite | with_reducible apply State.wr_still
      | with_reducible apply State.sensorEvent_still | with_reducible apply State.event_still

theorem State.nondet_still {s : State} (h : Still s0 s) :
    ∀ a2 a3, Still s0 (State.nondet s a2 a3) := by
  intro a2 a3
  unfold State.nondet
  repeat' first
      | with_reducible assumption | intro _ | with_reducible apply still_ite | with_reducible apply still_setReg
      | with_reducible apply State.wr_still | with_reducible apply State.bump_still

theorem State.chargeAqd_still {s : State} (h : Still s0 s) :
    ∀ a2 a3 a4, Still s0 (State.chargeAqd s a2 a3 a4) := by
  intro a2 a3 a4
  unfold State.chargeAqd
  repeat' first
      | with_reducible assumption | intro _ | with_reducible apply still_ite | with_reducible apply State.bump_still
      | with_reducible apply State.modCmd_still | with_reducible apply still_foldl | with_reducible apply still_foldl1
      | with_reducible apply still_foldl2 | with_reducible refine still_fst (by assumption) ?_
      | with_reducible refine still_snd (by assumption) ?_ | fail_if_no_progress with_reducible apply still_mk | dsimp only | split

theorem State.portTx_still {s : State} (h : Still s0 s) :
    ∀ a2, Still s0 (State.portTx s a2) := by
  intro a2
  unfold State.portTx
  repeat' first
      | with_reducible assumption | intro _ | with_reducible apply still_ite | with_reducible apply State.bump_still
      | with_reducible apply State.free_still

theorem State.aqdSendNow_still {s : State} (h : Still s0 s) :
    ∀ a2 a3, Still s0 (State.aqdSendNow s a2 a3) := by
  intro a2 a3
  unfold State.aqdSendNow
  repeat' first
      | with_reducible assumption | intro _ | with_reducible apply still_ite | with_reducible apply State.chargeAqd_still
      | with_reducible apply State.portTx_still | with_reducible apply still_foldl | with_reducible apply still_foldl1
      | with_reducible apply still_foldl2 | with_reducible refine still_fst (by assumption) ?_
      | with_reducible refine still_snd (by assumption) ?_ | fail_if_no_progress with_reducible apply still_mk

theorem State.aqdSend_still {s : State} (h : Still s0 s) :
    ∀ a2 a3 a4 a5 a6, Still s0 (State.aqdSend s a2 a3 a4 a5 a6).1 := by
  intro a2 a3 a4 a5 a6
  unfold State.aqdSend
  repeat' first
      | with_reducible assumption | intro _ | with_reducible apply still_ite | with_reducible apply State.bump_still
      | with_reducible apply State.aqdSendNow_still | with_reducible apply still_foldl | with_reducible apply still_foldl1
      | with_reducible apply still_foldl2 | with_reducible refine still_fst (by assumption) ?_
      | with_reducible refine still_snd (by assumption) ?_ | fail_if_no_progress with_reducible apply still_mk | dsimp only | split

theorem State.watchRoutes_still {s : State} (h : Still s0 s) :
    Still s0 (State.watchRoutes s) := by
  unfold State.watchRoutes
  repeat' first
      | with_reducible assumption | intro _ | with_reducible apply still_ite | with_reducible apply still_foldl
      | with_reducible apply still_foldl1 | with_reducible apply still_foldl2 | with_reducible refine still_fst (by assumption) ?_
      | with_reducible refine still_snd (by assumption) ?_ | fail_if_no_progress with_reducible apply still_mk

theorem State.pushAll_still {s : State} (h : Still s0 s) : ∀ sl q o d l, Still s0 (State.pushAll s sl q o d l).1 := by
  intro sl q o d l
  induction l generalizing s with
  | nil => exact h
  | cons a l ih =>
  unfold State.pushAll
  repeat' first
      | with_reducible assumption | intro _ | with_reducible apply still_ite | with_reducible apply ih
      | with_reducible apply State.aqdSend_still | with_reducible refine still_fst (by assumption) ?_
      | with_reducible refine still_snd (by assumption) ?_ | fail_if_no_progress with_reducible apply still_mk | dsimp only | split

theorem State.push_still {s : State} (h : Still s0 s) :
    ∀ a2 a3 a4 a5 a6, Still s0 (State.push s a2 a3 a4 a5 a6).1 := by
  intro a2 a3 a4 a5 a6
  unfold State.push
  repeat' first
      | with_reducible assumption | intro _ | with_reducible apply still_ite | with_reducible apply State.pushAll_still
      | with_reducible apply still_foldl | with_reducible apply still_foldl1 | with_reducible apply still_foldl2
      | with_reducible refine still_fst (by assumption) ?_ | with_reducible refine still_snd (by assumption) ?_
      | fail_if_no_progress with_reducible apply still_mk | dsimp only | split

theorem State.sendBump_still {s : State} (h : Still s0 s) :
    ∀ a2 a3 a4 a5 a6 a7, Still s0 (State.sendBump s a2 a3 a4 a5 a6 a7).1 := by
  intro a2 a3 a4 a5 a6 a7
  unfold State.sendBump
  repeat' first
      | with_reducible assumption | intro _ | with_reducible apply still_ite | with_reducible apply State.aqdSend_still
      | with_reducible apply still_foldl | with_reducible apply still_foldl1 | with_reducible apply still_foldl2
      | with_reducible refine still_fst (by assumption) ?_ | with_reducible refine still_snd (by assumption) ?_
      | fail_if_no_progress with_reducible apply still_mk | dsimp only | split

theorem State.dropWaiting_still {s : State} (h : Still s0 s) :
    ∀ a2, Still s0 (State.dropWaiting s a2) := by
  intro a2
  unfold State.dropWaiting
  repeat' first
      | with_reducible assumption | intro _ | with_reducible apply still_ite | with_reducible apply still_foldl
      | with_reducible apply still_foldl1 | with_reducible apply still_foldl2 | with_reducible refine still_fst (by assumption) ?_
      | with_reducible refine still_snd (by assumption) ?_ | fail_if_no_progress with_reducible apply still_mk

theorem State.rillFetchLost_still {s : State} (h : Still s0 s) :
    ∀ a2 a3 a4, Still s0 (State.rillFetchLost s a2 a3 a4) := by
  intro a2 a3 a4
  unfold State.rillFetchLost
  repeat' first
      | with_reducible assumption | intro _ | with_reducible apply still_ite | with_reducible apply State.bump_still
      | with_reducible apply State.free_still

theorem State.rillDropFetch_still {s : State} (h : Still s0 s) :
    ∀ a2 a3, Still s0 (State.rillDropFetch s a2 a3) := by
  intro a2 a3
  unfold State.rillDropFetch
  repeat' first
      | with_reducible assumption | intro _ | with_reducible apply still_ite | with_reducible apply State.setRill_still
      | with_reducible apply State.rillFetchLost_still | with_reducible apply still_foldl | with_reducible apply still_foldl1
      | with_reducible apply still_foldl2 | with_reducible refine still_fst (by assumption) ?_
      | with_reducible refine still_snd (by assumption) ?_ | fail_if_no_progress with_reducible apply still_mk | dsimp only | split

theorem State.aqdDisown_still {s : State} (h : Still s0 s) :
    ∀ a2 a3, Still s0 (State.aqdDisown s a2 a3) := by
  intro a2 a3
  unfold State.aqdDisown
  repeat' first
      | with_reducible assumption | intro _ | with_reducible apply still_ite | with_reducible apply still_foldl
      | with_reducible apply still_foldl1 | with_reducible apply still_foldl2 | with_reducible refine still_fst (by assumption) ?_
      | with_reducible refine still_snd (by assumption) ?_ | fail_if_no_progress with_reducible apply still_mk

theorem State.cascadeFetchLost_still {s : State} (h : Still s0 s) :
    ∀ a2 a3 a4, Still s0 (State.cascadeFetchLost s a2 a3 a4) := by
  intro a2 a3 a4
  unfold State.cascadeFetchLost
  repeat' first
      | with_reducible assumption | intro _ | with_reducible apply still_ite | with_reducible apply State.bump_still
      | with_reducible apply State.free_still

theorem State.cascadeDropFetch_still {s : State} (h : Still s0 s) :
    ∀ a2 a3, Still s0 (State.cascadeDropFetch s a2 a3) := by
  intro a2 a3
  unfold State.cascadeDropFetch
  repeat' first
      | with_reducible assumption | intro _ | with_reducible apply still_ite | with_reducible apply State.setCascade_still
      | with_reducible apply State.aqdDisown_still | with_reducible apply State.cascadeFetchLost_still | with_reducible apply still_foldl
      | with_reducible apply still_foldl1 | with_reducible apply still_foldl2 | with_reducible refine still_fst (by assumption) ?_
      | with_reducible refine still_snd (by assumption) ?_ | fail_if_no_progress with_reducible apply still_mk | dsimp only | split

theorem State.setShadow_still {s : State} (h : Still s0 s) :
    ∀ a2 a3, Still s0 (State.setShadow s a2 a3) := by
  intro a2 a3
  unfold State.setShadow
  repeat' first
      | with_reducible assumption | intro _ | with_reducible apply still_ite | with_reducible apply still_foldl
      | with_reducible apply still_foldl1 | with_reducible apply still_foldl2 | with_reducible refine still_fst (by assumption) ?_
      | with_reducible refine still_snd (by assumption) ?_ | fail_if_no_progress with_reducible apply still_mk

theorem State.shadowUnmatched_still {s : State} (h : Still s0 s) :
    ∀ a2 a3 a4, Still s0 (State.shadowUnmatched s a2 a3 a4) := by
  intro a2 a3 a4
  unfold State.shadowUnmatched
  repeat' first
      | with_reducible assumption | intro _ | with_reducible apply still_ite | with_reducible apply State.wr_still
      | with_reducible apply State.bump_still | with_reducible apply State.setShadow_still

theorem State.coreIdle_still {s : State} (h : Still s0 s) :
    ∀ a2, Still s0 (State.coreIdle s a2) := by
  intro a2
  unfold State.coreIdle
  repeat' first
      | with_reducible assumption | intro _ | with_reducible apply still_ite | with_reducible apply State.wr_still
      | with_reducible apply State.setCore_still

theorem State.beginCmd_still {s : State} (h : Still s0 s) :
    ∀ a2, Still s0 (State.beginCmd s a2) := by
  intro a2
  unfold State.beginCmd
  repeat' first
      | with_reducible assumption | intro _ | with_reducible apply still_ite | with_reducible apply State.modCmd_still

theorem State.homeDrop_still {s : State} (h : Still s0 s) :
    Still s0 (State.homeDrop s) := by
  unfold State.homeDrop
  repeat' first
      | with_reducible assumption | intro _ | with_reducible apply still_ite | with_reducible apply State.bump_still

theorem State.homeExpire_still {s : State} (h : Still s0 s) :
    ∀ a2, Still s0 (State.homeExpire s a2) := by
  intro a2
  unfold State.homeExpire
  repeat' first
      | with_reducible assumption | intro _ | with_reducible apply still_ite | with_reducible apply State.homeDrop_still
      | with_reducible apply still_foldl | with_reducible apply still_foldl1 | with_reducible apply still_foldl2
      | with_reducible refine still_fst (by assumption) ?_ | with_reducible refine still_snd (by assumption) ?_
      | fail_if_no_progress with_reducible apply still_mk

theorem State.inputExpire_still {s : State} (h : Still s0 s) :
    ∀ a2, Still s0 (State.inputExpire s a2) := by
  intro a2
  unfold State.inputExpire
  repeat' first
      | with_reducible assumption | intro _ | with_reducible apply still_ite | with_reducible apply State.homeDrop_still
      | with_reducible apply still_foldl | with_reducible apply still_foldl1 | with_reducible apply still_foldl2
      | with_reducible refine still_fst (by assumption) ?_ | with_reducible refine still_snd (by assumption) ?_
      | fail_if_no_progress with_reducible apply still_mk

theorem State.mark_still {s : State} (h : Still s0 s) :
    ∀ a2 a3 a4, Still s0 (State.mark s a2 a3 a4).2 := by
  intro a2 a3 a4
  unfold State.mark
  repeat' first
      | with_reducible assumption | intro _ | with_reducible apply still_ite | with_reducible apply State.wr_still
      | with_reducible apply still_foldl | with_reducible apply still_foldl1 | with_reducible apply still_foldl2
      | with_reducible refine still_fst (by assumption) ?_ | with_reducible refine still_snd (by assumption) ?_
      | fail_if_no_progress with_reducible apply still_mk | dsimp only | split

theorem State.stampPacket_still {s : State} (h : Still s0 s) :
    ∀ a2 a3 a4, Still s0 (State.stampPacket s a2 a3 a4).2 := by
  intro a2 a3 a4
  unfold State.stampPacket
  repeat' first
      | with_reducible assumption | intro _ | with_reducible apply still_ite | with_reducible apply State.setSliceSt_still

theorem State.passMarker_still {s : State} (h : Still s0 s) :
    ∀ a2 a3, Still s0 (State.passMarker s a2 a3).2 := by
  intro a2 a3
  unfold State.passMarker
  repeat' first
      | with_reducible assumption | intro _ | with_reducible apply still_ite | with_reducible apply State.bump_still
      | with_reducible apply State.mark_still | with_reducible apply State.stampPacket_still | with_reducible apply still_foldl
      | with_reducible apply still_foldl1 | with_reducible apply still_foldl2 | with_reducible refine still_fst (by assumption) ?_
      | with_reducible refine still_snd (by assumption) ?_ | fail_if_no_progress with_reducible apply still_mk | dsimp only | split

theorem State.skipFailed_still {s : State} (h : Still s0 s) :
    ∀ a2 a3, Still s0 (State.skipFailed s a2 a3) := by
  intro a2 a3
  unfold State.skipFailed
  repeat' first
      | with_reducible assumption | intro _ | with_reducible apply still_ite | with_reducible apply State.wr_still
      | with_reducible apply State.setRing_still

theorem State.queueWake_still {s : State} (h : Still s0 s) :
    ∀ a2, Still s0 (State.queueWake s a2) := by
  intro a2
  unfold State.queueWake
  repeat' first
      | with_reducible assumption | intro _ | with_reducible apply still_ite | with_reducible apply State.setRegBit_still
      | with_reducible apply State.setBasin_still | with_reducible apply still_foldl | with_reducible apply still_foldl1
      | with_reducible apply still_foldl2 | with_reducible refine still_fst (by assumption) ?_
      | with_reducible refine still_snd (by assumption) ?_ | fail_if_no_progress with_reducible apply still_mk

theorem State.actH_still {s : State} {k4 : State → Cmd → State} (h : Still s0 s) (hk4 : ∀ x0 x1, Still s0 x0 → Still s0 (k4 x0 x1)) :
    ∀ a2 a3, Still s0 (State.actH s a2 a3 k4) := by
  intro a2 a3
  unfold State.actH
  repeat' first
      | with_reducible assumption | intro _ | with_reducible apply still_ite | with_reducible apply still_forSome

theorem State.startRunning_still {s : State} (h : Still s0 s) :
    ∀ a2, Still s0 (State.startRunning s a2) := by
  intro a2
  unfold State.startRunning
  repeat' first
      | with_reducible assumption | intro _ | with_reducible apply still_ite | with_reducible apply State.modCmd_still
      | with_reducible apply State.beginCmd_still

theorem State.ringFresh_still {s : State} (h : Still s0 s) :
    ∀ a2, Still s0 (State.ringFresh s a2) := by
  intro a2
  unfold State.ringFresh
  repeat' first
      | with_reducible assumption | intro _ | with_reducible apply still_ite | with_reducible apply State.wr_still
      | with_reducible apply State.setRing_still

theorem State.ringCtrlWrite_still {s : State} (h : Still s0 s) :
    ∀ a2 a3, Still s0 (State.ringCtrlWrite s a2 a3) := by
  intro a2 a3
  unfold State.ringCtrlWrite
  repeat' first
      | with_reducible assumption | intro _ | with_reducible apply still_ite | with_reducible apply still_setReg
      | with_reducible apply State.wr_still | with_reducible apply State.info_still | with_reducible apply State.ringFresh_still

theorem State.ringResume_still {s : State} (h : Still s0 s) :
    ∀ a2 a3, Still s0 (State.ringResume s a2 a3) := by
  intro a2 a3
  unfold State.ringResume
  repeat' first
      | with_reducible assumption | intro _ | with_reducible apply still_ite | with_reducible apply State.wr_still
      | with_reducible apply State.setRing_still | with_reducible apply State.skipFailed_still | with_reducible apply still_foldl
      | with_reducible apply still_foldl1 | with_reducible apply still_foldl2 | with_reducible refine still_fst (by assumption) ?_
      | with_reducible refine still_snd (by assumption) ?_ | fail_if_no_progress with_reducible apply still_mk | dsimp only | split

theorem State.decideStep_still {s : State} (h : Still s0 s) :
    ∀ a2 a3, Still s0 (State.decideStep s a2 a3) := by
  intro a2 a3
  unfold State.decideStep
  repeat' first
      | with_reducible assumption | intro _ | with_reducible apply still_ite | with_reducible apply still_foldl
      | with_reducible apply still_foldl1 | with_reducible apply still_foldl2 | with_reducible refine still_fst (by assumption) ?_
      | with_reducible refine still_snd (by assumption) ?_ | fail_if_no_progress with_reducible apply still_mk

theorem State.protectNow_still {s was : State} (h : Still s0 s) : ∀ bs, Still s0 (s.protectNow was bs) := fun _ =>
  still_each h fun _ _ hs => still_ite (State.decideStep_still hs _ _) hs

theorem State.setSlewTokens_still {s : State} (h : Still s0 s) :
    ∀ a2, Still s0 (State.setSlewTokens s a2) := by
  intro a2
  unfold State.setSlewTokens
  repeat' first
      | with_reducible assumption | intro _ | with_reducible apply still_ite | with_reducible apply State.wr_still

theorem State.takeStart_still {s : State} (h : Still s0 s) :
    ∀ a2 a3, Still s0 (State.takeStart s a2 a3).1 := by
  intro a2 a3
  unfold State.takeStart
  repeat' first
      | with_reducible assumption | intro _ | with_reducible apply still_ite | with_reducible apply State.setSlewTokens_still
      | with_reducible apply still_foldl | with_reducible apply still_foldl1 | with_reducible apply still_foldl2
      | with_reducible refine still_fst (by assumption) ?_ | with_reducible refine still_snd (by assumption) ?_
      | fail_if_no_progress with_reducible apply still_mk | dsimp only | split

theorem State.clearBanks_still {s : State} (h : Still s0 s) :
    ∀ a2 a3, Still s0 (State.clearBanks s a2 a3) := by
  intro a2 a3
  unfold State.clearBanks
  repeat' first
      | with_reducible assumption | intro _ | with_reducible apply still_ite | with_reducible apply State.wr_still
      | with_reducible apply still_foldl | with_reducible apply still_foldl1 | with_reducible apply still_foldl2
      | with_reducible refine still_fst (by assumption) ?_ | with_reducible refine still_snd (by assumption) ?_
      | fail_if_no_progress with_reducible apply still_mk

theorem State.clearRill_still {s : State} (h : Still s0 s) :
    ∀ a2, Still s0 (State.clearRill s a2) := by
  intro a2
  unfold State.clearRill
  repeat' first
      | with_reducible assumption | intro _ | with_reducible apply still_ite | with_reducible apply State.setRill_still
      | with_reducible apply State.rillDropFetch_still | with_reducible apply still_foldl | with_reducible apply still_foldl1
      | with_reducible apply still_foldl2 | with_reducible refine still_fst (by assumption) ?_
      | with_reducible refine still_snd (by assumption) ?_ | fail_if_no_progress with_reducible apply still_mk

theorem State.clearCascade_still {s : State} (h : Still s0 s) :
    ∀ a2, Still s0 (State.clearCascade s a2) := by
  intro a2
  unfold State.clearCascade
  repeat' first
      | with_reducible assumption | intro _ | with_reducible apply still_ite | with_reducible apply State.setCascade_still
      | with_reducible apply State.cascadeDropFetch_still | with_reducible apply still_foldl | with_reducible apply still_foldl1
      | with_reducible apply still_foldl2 | with_reducible refine still_fst (by assumption) ?_
      | with_reducible refine still_snd (by assumption) ?_ | fail_if_no_progress with_reducible apply still_mk | dsimp only | split

theorem State.resetCore_still {s : State} (h : Still s0 s) :
    ∀ a2, Still s0 (State.resetCore s a2) := by
  intro a2
  unfold State.resetCore
  repeat' first
      | with_reducible assumption | intro _ | with_reducible apply still_ite | with_reducible apply still_setReg
      | with_reducible apply State.setCore_still

theorem State.clearCounter_still {s : State} (h : Still s0 s) :
    ∀ a2, Still s0 (State.clearCounter s a2) := by
  intro a2
  unfold State.clearCounter
  repeat' first
      | with_reducible assumption | intro _ | with_reducible apply still_ite | with_reducible apply still_setReg
      | with_reducible apply State.setBasin_still

theorem State.clearEngines_still {s : State} (h : Still s0 s) :
    ∀ a2, Still s0 (State.clearEngines s a2) := by
  intro a2
  unfold State.clearEngines
  repeat' first
      | with_reducible assumption | intro _ | with_reducible apply still_ite | with_reducible apply still_each
      | with_reducible apply State.clearBanks_still | with_reducible apply State.clearRill_still
      | with_reducible apply State.clearCascade_still | with_reducible apply State.resetCore_still
      | with_reducible apply State.clearCounter_still

theorem State.beginZero_still {s : State} (h : Still s0 s) :
    ∀ a2 a3 a4 a5, Still s0 (State.beginZero s a2 a3 a4 a5) := by
  intro a2 a3 a4 a5
  unfold State.beginZero
  repeat' first
      | with_reducible assumption | intro _ | with_reducible apply still_ite | with_reducible apply State.wr_still
      | with_reducible apply State.setBasin_still

theorem State.fieldRemap_still {s : State} (h : Still s0 s) :
    ∀ a2 a3 a4, Still s0 (State.fieldRemap s a2 a3 a4) := by
  intro a2 a3 a4
  unfold State.fieldRemap
  repeat' first
      | with_reducible assumption | intro _ | with_reducible apply still_ite | with_reducible apply still_setReg
      | with_reducible apply State.wr_still | with_reducible apply State.info_still

theorem State.rillFetchStart_still {s : State} (h : Still s0 s) :
    ∀ a2, Still s0 (State.rillFetchStart s a2) := by
  intro a2
  unfold State.rillFetchStart
  repeat' first
      | with_reducible assumption | intro _ | with_reducible apply still_ite | with_reducible apply still_whenever
      | with_reducible apply still_forSome | with_reducible apply State.setRill_still | with_reducible apply State.modCmd_still
      | with_reducible apply still_foldl | with_reducible apply still_foldl1 | with_reducible apply still_foldl2
      | with_reducible refine still_fst (by assumption) ?_ | with_reducible refine still_snd (by assumption) ?_
      | fail_if_no_progress with_reducible apply still_mk | dsimp only | split

theorem State.cascadeGuard_still {s : State} (h : Still s0 s) :
    ∀ a2, Still s0 (State.cascadeGuard s a2) := by
  intro a2
  unfold State.cascadeGuard
  repeat' first
      | with_reducible assumption | intro _ | with_reducible apply still_ite | with_reducible apply State.setCascade_still
      | with_reducible apply State.modCmd_still | with_reducible apply State.cascadeDropFetch_still | with_reducible apply still_foldl
      | with_reducible apply still_foldl1 | with_reducible apply still_foldl2 | with_reducible refine still_fst (by assumption) ?_
      | with_reducible refine still_snd (by assumption) ?_ | fail_if_no_progress with_reducible apply still_mk | dsimp only | split

theorem State.startRamps_still {s : State} (h : Still s0 s) :
    Still s0 (State.startRamps s) := by
  unfold State.startRamps
  repeat' first
      | with_reducible assumption | intro _ | with_reducible apply still_ite | with_reducible apply State.setBasin_still
      | with_reducible apply still_each | with_reducible apply still_foldl | with_reducible apply still_foldl1
      | with_reducible apply still_foldl2 | with_reducible refine still_fst (by assumption) ?_
      | with_reducible refine still_snd (by assumption) ?_ | fail_if_no_progress with_reducible apply still_mk

theorem State.gateLater_still {s : State} (h : Still s0 s) :
    ∀ a2, Still s0 (State.gateLater s a2) := by
  intro a2
  unfold State.gateLater
  repeat' first
      | with_reducible assumption | intro _ | with_reducible apply still_ite | with_reducible apply State.setBasin_still

theorem State.setItem_still {s : State} (h : Still s0 s) :
    ∀ a2 a3, Still s0 (State.setItem s a2 a3) := by
  intro a2 a3
  unfold State.setItem
  repeat' first
      | with_reducible assumption | intro _ | with_reducible apply still_ite | with_reducible apply still_foldl
      | with_reducible apply still_foldl1 | with_reducible apply still_foldl2 | with_reducible refine still_fst (by assumption) ?_
      | with_reducible refine still_snd (by assumption) ?_ | fail_if_no_progress with_reducible apply still_mk

theorem State.showLanes_still {s : State} (h : Still s0 s) :
    ∀ a2, Still s0 (State.showLanes s a2) := by
  intro a2
  unfold State.showLanes
  repeat' first
      | with_reducible assumption | intro _ | with_reducible apply still_ite | with_reducible apply State.wr_still
      | with_reducible apply State.setRegBit_still | with_reducible apply still_each | with_reducible apply State.watchRoutes_still

theorem State.resetClears_still {s : State} (h : Still s0 s) :
    ∀ a2, Still s0 (State.resetClears s a2) := by
  intro a2
  unfold State.resetClears
  repeat' first
      | with_reducible assumption | intro _ | with_reducible apply still_ite | with_reducible apply State.setItem_still
      | with_reducible apply still_foldl | with_reducible apply still_foldl1 | with_reducible apply still_foldl2
      | with_reducible refine still_fst (by assumption) ?_ | with_reducible refine still_snd (by assumption) ?_
      | fail_if_no_progress with_reducible apply still_mk

theorem State.fenceDecide_still {s : State} (h : Still s0 s) :
    ∀ a2 a3 a4, Still s0 (State.fenceDecide s a2 a3 a4) := by
  intro a2 a3 a4
  unfold State.fenceDecide
  repeat' first
      | with_reducible assumption | intro _ | with_reducible apply still_ite | with_reducible apply State.event_still
      | with_reducible apply State.health_still | with_reducible apply State.setItem_still | with_reducible apply State.resetClears_still

theorem State.testBegin_still {s : State} (h : Still s0 s) :
    ∀ a2 a3 a4, Still s0 (State.testBegin s a2 a3 a4) := by
  intro a2 a3 a4
  unfold State.testBegin
  repeat' first
      | with_reducible assumption | intro _ | with_reducible apply still_ite | with_reducible apply still_each
      | with_reducible apply State.queueWake_still | with_reducible apply State.startRamps_still
      | with_reducible apply State.setItem_still

theorem State.zeroKeyData_still {s : State} (h : Still s0 s) :
    ∀ a2, Still s0 (State.zeroKeyData s a2) := by
  intro a2
  unfold State.zeroKeyData
  repeat' first
      | with_reducible assumption | intro _ | with_reducible apply still_ite | with_reducible apply still_setReg
      | with_reducible apply still_each

theorem State.installKey_still {s : State} (h : Still s0 s) :
    ∀ a2 a3, Still s0 (State.installKey s a2 a3) := by
  intro a2 a3
  unfold State.installKey
  repeat' first
      | with_reducible assumption | intro _ | with_reducible apply still_ite | with_reducible apply State.wr_still
      | with_reducible apply State.setSliceSt_still | with_reducible apply still_foldl | with_reducible apply still_foldl1
      | with_reducible apply still_foldl2 | with_reducible refine still_fst (by assumption) ?_
      | with_reducible refine still_snd (by assumption) ?_ | fail_if_no_progress with_reducible apply still_mk

theorem State.keyLoad_still {s : State} (h : Still s0 s) :
    ∀ a2, Still s0 (State.keyLoad s a2) := by
  intro a2
  unfold State.keyLoad
  repeat' first
      | with_reducible assumption | intro _ | with_reducible apply still_ite | with_reducible apply State.wr_still
      | with_reducible apply State.installKey_still

theorem State.keyErase_still {s : State} (h : Still s0 s) :
    ∀ a2, Still s0 (State.keyErase s a2) := by
  intro a2
  unfold State.keyErase
  repeat' first
      | with_reducible assumption | intro _ | with_reducible apply still_ite | with_reducible apply State.wr_still
      | with_reducible apply State.setSliceSt_still

theorem State.keyCmdWrite_still {s : State} (h : Still s0 s) :
    ∀ a2 a3, Still s0 (State.keyCmdWrite s a2 a3) := by
  intro a2 a3
  unfold State.keyCmdWrite
  repeat' first
      | with_reducible assumption | intro _ | with_reducible apply still_ite | with_reducible apply State.info_still
      | with_reducible apply State.zeroKeyData_still | with_reducible apply State.keyLoad_still
      | with_reducible apply State.keyErase_still

theorem State.rangeWrite_still {s : State} (h : Still s0 s) :
    ∀ a2 a3 a4 a5, Still s0 (State.rangeWrite s a2 a3 a4 a5) := by
  intro a2 a3 a4 a5
  unfold State.rangeWrite
  repeat' first
      | with_reducible assumption | intro _ | with_reducible apply still_ite | with_reducible apply State.wr_still
      | with_reducible apply State.info_still

theorem State.basinsWrite_still {s : State} (h : Still s0 s) :
    ∀ a2 a3, Still s0 (State.basinsWrite s a2 a3) := by
  intro a2 a3
  unfold State.basinsWrite
  repeat' first
      | with_reducible assumption | intro _ | with_reducible apply still_ite | with_reducible apply still_setReg
      | with_reducible apply State.info_still | with_reducible apply State.protectNow_still

theorem State.unbound_still {s : State} (h : Still s0 s) :
    ∀ a2, Still s0 (State.unbound s a2) := by
  intro a2
  unfold State.unbound
  repeat' first
      | with_reducible assumption | intro _ | with_reducible apply still_ite | with_reducible apply still_setReg
      | with_reducible apply State.wr_still | with_reducible apply State.setSliceSt_still | with_reducible apply still_each
      | with_reducible apply State.setSliceState_still | with_reducible apply State.zeroKeyData_still
      | with_reducible apply State.keyErase_still

theorem State.resetComplete_still {s : State} (h : Still s0 s) :
    ∀ a2, Still s0 (State.resetComplete s a2) := by
  intro a2
  unfold State.resetComplete
  repeat' first
      | with_reducible assumption | intro _ | with_reducible apply still_ite | with_reducible apply State.setSliceSt_still
      | with_reducible apply State.setSliceState_still | with_reducible apply State.unbound_still

theorem State.markerRates_still {s : State} (h : Still s0 s) :
    ∀ a2, Still s0 (State.markerRates s a2) := by
  intro a2
  unfold State.markerRates
  repeat' first
      | with_reducible assumption | intro _ | with_reducible apply still_ite | with_reducible apply State.wr_still
      | with_reducible apply State.setSliceSt_still

theorem State.markerRefill_still {s : State} (h : Still s0 s) :
    ∀ a2, Still s0 (State.markerRefill s a2) := by
  intro a2
  unfold State.markerRefill
  repeat' first
      | with_reducible assumption | intro _ | with_reducible apply still_ite | with_reducible apply State.wr_still
      | with_reducible apply State.markerRates_still

theorem State.remark_still {s : State} (h : Still s0 s) :
    ∀ a2, Still s0 (State.remark s a2) := by
  intro a2
  unfold State.remark
  repeat' first
      | with_reducible assumption | intro _ | with_reducible apply still_ite | with_reducible apply State.setRing_still
      | with_reducible apply State.passMarker_still | with_reducible apply still_foldl | with_reducible apply still_foldl1
      | with_reducible apply still_foldl2 | with_reducible refine still_fst (by assumption) ?_
      | with_reducible refine still_snd (by assumption) ?_ | fail_if_no_progress with_reducible apply still_mk | dsimp only | split

theorem State.schedMarkWrite_still {s : State} (h : Still s0 s) :
    ∀ a2 a3, Still s0 (State.schedMarkWrite s a2 a3) := by
  intro a2 a3
  unfold State.schedMarkWrite
  repeat' first
      | with_reducible assumption | intro _ | with_reducible apply still_ite | with_reducible apply State.wr_still
      | with_reducible apply State.markerRates_still

theorem State.shareWrite_still {s : State} (h : Still s0 s) :
    ∀ a2 a3, Still s0 (State.shareWrite s a2 a3) := by
  intro a2 a3
  unfold State.shareWrite
  repeat' first
      | with_reducible assumption | intro _ | with_reducible apply still_ite | with_reducible apply State.wr_still
      | with_reducible apply State.info_still | with_reducible apply State.protectNow_still

theorem State.updateTiers_still {s : State} (h : Still s0 s) :
    Still s0 (State.updateTiers s) := by
  unfold State.updateTiers
  repeat' first
      | with_reducible assumption | intro _ | with_reducible apply still_ite | with_reducible apply still_setReg
      | with_reducible apply still_each

theorem State.stopFetches_still {s : State} (h : Still s0 s) :
    ∀ a2, Still s0 (State.stopFetches s a2) := by
  intro a2
  unfold State.stopFetches
  repeat' first
      | with_reducible assumption | intro _ | with_reducible apply still_ite | with_reducible apply State.setRill_still
      | with_reducible apply State.rillFetchLost_still | with_reducible apply State.cascadeGuard_still | with_reducible apply still_foldl
      | with_reducible apply still_foldl1 | with_reducible apply still_foldl2 | with_reducible refine still_fst (by assumption) ?_
      | with_reducible refine still_snd (by assumption) ?_ | fail_if_no_progress with_reducible apply still_mk | dsimp only | split

theorem State.requestYield_still {s : State} (h : Still s0 s) :
    ∀ a2 a3, Still s0 (State.requestYield s a2 a3) := by
  intro a2 a3
  unfold State.requestYield
  repeat' first
      | with_reducible assumption | intro _ | with_reducible apply still_ite | with_reducible apply State.wr_still
      | with_reducible apply State.setBasin_still | with_reducible apply State.stopFetches_still

theorem State.arbitrate_still {s : State} (h : Still s0 s) :
    ∀ a2 a3, Still s0 (State.arbitrate s a2 a3) := by
  intro a2 a3
  unfold State.arbitrate
  repeat' first
      | with_reducible assumption | intro _ | with_reducible apply still_ite | with_reducible apply still_whenever
      | with_reducible apply still_forSome | with_reducible apply State.requestYield_still

theorem State.dropSwitch_still {s : State} (h : Still s0 s) :
    ∀ a2, Still s0 (State.dropSwitch s a2) := by
  intro a2
  unfold State.dropSwitch
  repeat' first
      | with_reducible assumption | intro _ | with_reducible apply still_ite | with_reducible apply State.wr_still
      | with_reducible apply State.setBasin_still

theorem State.setStage_still {s : State} (h : Still s0 s) :
    ∀ a2 a3, Still s0 (State.setStage s a2 a3) := by
  intro a2 a3
  unfold State.setStage
  repeat' first
      | with_reducible assumption | intro _ | with_reducible apply still_ite | with_reducible apply State.setBasin_still
      | with_reducible apply still_foldl | with_reducible apply still_foldl1 | with_reducible apply still_foldl2
      | with_reducible refine still_fst (by assumption) ?_ | with_reducible refine still_snd (by assumption) ?_
      | fail_if_no_progress with_reducible apply still_mk | dsimp only | split

theorem State.switchZero_still {s : State} (h : Still s0 s) :
    ∀ a2 a3, Still s0 (State.switchZero s a2 a3) := by
  intro a2 a3
  unfold State.switchZero
  repeat' first
      | with_reducible assumption | intro _ | with_reducible apply still_ite | with_reducible apply State.clearEngines_still
      | with_reducible apply State.beginZero_still | with_reducible apply State.setStage_still

theorem State.yieldDrained_still {s : State} (h : Still s0 s) :
    ∀ a2 a3, Still s0 (State.yieldDrained s a2 a3) := by
  intro a2 a3
  unfold State.yieldDrained
  repeat' first
      | with_reducible assumption | intro _ | with_reducible apply still_ite | with_reducible apply State.dropSwitch_still
      | with_reducible apply State.setStage_still | with_reducible apply State.switchZero_still

theorem State.preempt_still {s : State} (h : Still s0 s) :
    ∀ a2, Still s0 (State.preempt s a2) := by
  intro a2
  unfold State.preempt
  repeat' first
      | with_reducible assumption | intro _ | with_reducible apply still_ite | with_reducible apply State.wr_still
      | with_reducible apply State.setBasin_still | with_reducible apply State.setCore_still | with_reducible apply still_each

theorem State.taskResume_still {s : State} (h : Still s0 s) :
    ∀ a2, Still s0 (State.taskResume s a2) := by
  intro a2
  unfold State.taskResume
  repeat' first
      | with_reducible assumption | intro _ | with_reducible apply still_ite | with_reducible apply State.setBasin_still

theorem State.showOwner_still {s : State} (h : Still s0 s) :
    ∀ a2, Still s0 (State.showOwner s a2) := by
  intro a2
  unfold State.showOwner
  repeat' first
      | with_reducible assumption | intro _ | with_reducible apply still_ite | with_reducible apply State.wr_still

theorem State.showNextOpen_still {s : State} (h : Still s0 s) :
    ∀ a2 a3, Still s0 (State.showNextOpen s a2 a3) := by
  intro a2 a3
  unfold State.showNextOpen
  repeat' first
      | with_reducible assumption | intro _ | with_reducible apply still_ite | with_reducible apply still_setReg
      | with_reducible apply State.free_still | with_reducible apply still_foldl | with_reducible apply still_foldl1
      | with_reducible apply still_foldl2 | with_reducible refine still_fst (by assumption) ?_
      | with_reducible refine still_snd (by assumption) ?_ | fail_if_no_progress with_reducible apply still_mk | dsimp only | split

theorem State.showList_still {s : State} (h : Still s0 s) :
    ∀ a2, Still s0 (State.showList s a2) := by
  intro a2
  unfold State.showList
  repeat' first
      | with_reducible assumption | intro _ | with_reducible apply still_ite | with_reducible apply still_setReg
      | with_reducible apply State.wr_still | with_reducible apply still_each

theorem State.guardBegin_still {s : State} (h : Still s0 s) :
    ∀ a2, Still s0 (State.guardBegin s a2) := by
  intro a2
  unfold State.guardBegin
  repeat' first
      | with_reducible assumption | intro _ | with_reducible apply still_ite | with_reducible apply State.wr_still
      | with_reducible apply State.stopFetches_still | with_reducible apply State.preempt_still

theorem State.ownerChanged_still {s : State} (h : Still s0 s) :
    ∀ a2, Still s0 (State.ownerChanged s a2) := by
  intro a2
  unfold State.ownerChanged
  repeat' first
      | with_reducible assumption | intro _ | with_reducible apply still_ite | with_reducible apply State.clearBanks_still
      | with_reducible apply State.clearRill_still | with_reducible apply State.showOwner_still

theorem State.closeWindow_still {s : State} (h : Still s0 s) :
    ∀ a2, Still s0 (State.closeWindow s a2) := by
  intro a2
  unfold State.closeWindow
  repeat' first
      | with_reducible assumption | intro _ | with_reducible apply still_ite | with_reducible apply State.wr_still
      | with_reducible apply still_each | with_reducible apply State.taskResume_still | with_reducible apply State.ownerChanged_still

theorem State.modCore_still {s : State} (h : Still s0 s) :
    ∀ a2 a3, Still s0 (State.modCore s a2 a3) := by
  intro a2 a3
  unfold State.modCore
  repeat' first
      | with_reducible assumption | intro _ | with_reducible apply still_ite | with_reducible apply State.setCore_still

theorem State.retire_still {s : State} (h : Still s0 s) :
    ∀ a2 a3, Still s0 (State.retire s a2 a3) := by
  intro a2 a3
  unfold State.retire
  repeat' first
      | with_reducible assumption | intro _ | with_reducible apply still_ite | with_reducible apply still_setReg
      | with_reducible apply State.modCore_still

theorem State.startCore_still {s : State} (h : Still s0 s) :
    ∀ a2 a3 a4, Still s0 (State.startCore s a2 a3 a4) := by
  intro a2 a3 a4
  unfold State.startCore
  repeat' first
      | with_reducible assumption | intro _ | with_reducible apply still_ite | with_reducible apply still_setReg
      | with_reducible apply State.wr_still | with_reducible apply State.setCore_still

theorem State.startCounter_still {s : State} (h : Still s0 s) :
    ∀ a2 a3 a4, Still s0 (State.startCounter s a2 a3 a4) := by
  intro a2 a3 a4
  unfold State.startCounter
  repeat' first
      | with_reducible assumption | intro _ | with_reducible apply still_ite | with_reducible apply State.wr_still
      | with_reducible apply State.setBasin_still

theorem State.beginTask_still {s : State} (h : Still s0 s) :
    ∀ a2 a3 a4, Still s0 (State.beginTask s a2 a3 a4) := by
  intro a2 a3 a4
  unfold State.beginTask
  repeat' first
      | with_reducible assumption | intro _ | with_reducible apply still_ite | with_reducible apply State.setBasin_still
      | with_reducible apply still_each | with_reducible apply State.startCore_still | with_reducible apply State.startCounter_still
      | with_reducible apply still_foldl | with_reducible apply still_foldl1 | with_reducible apply still_foldl2
      | with_reducible refine still_fst (by assumption) ?_ | with_reducible refine still_snd (by assumption) ?_
      | fail_if_no_progress with_reducible apply still_mk

theorem State.taskStart_still {s : State} (h : Still s0 s) :
    ∀ a2, Still s0 (State.taskStart s a2) := by
  intro a2
  unfold State.taskStart
  repeat' first
      | with_reducible assumption | intro _ | with_reducible apply still_ite | with_reducible apply State.startRunning_still
      | with_reducible apply State.takeStart_still | with_reducible apply State.beginTask_still

theorem State.stopCores_still {s : State} (h : Still s0 s) :
    ∀ a2, Still s0 (State.stopCores s a2) := by
  intro a2
  unfold State.stopCores
  repeat' first
      | with_reducible assumption | intro _ | with_reducible apply still_ite | with_reducible apply State.wr_still
      | with_reducible apply still_each | with_reducible apply State.coreIdle_still

theorem State.result_still {s : State} (h : Still s0 s) :
    ∀ a2 a3 a4, Still s0 (State.result s a2 a3 a4) := by
  intro a2 a3 a4
  unfold State.result
  repeat' first
      | with_reducible assumption | intro _ | with_reducible apply still_ite | with_reducible apply State.modCore_still
      | with_reducible apply State.retire_still

end Sys2Proof.Machine
end

