-- ==== Sys2Proof/Laws/Still2.lean ====
section
/-! SUPPORT. What leaves every memory as it is, part 2. -/
namespace Sys2Proof.Machine

variable {s0 : State}

theorem State.claim_still {s : State} (h : Still s0 s) : ∀ c r, s.claim c = some r → Still s0 r.1 := by
  intro c r hr
  unfold State.claim at hr
  dsimp only at hr
  split at hr
  · cases hr; exact State.bump_still (State.setBasin_still h _ _) _ _ _
  · split at hr
    · cases hr
    · split at hr
      · cases hr; exact State.wr_still (State.setBasin_still h _ _) _ _ _
      · cases hr; exact h

theorem State.semTake_still {s : State} (h : Still s0 s) :
    ∀ a2 a3 a4, Still s0 (State.semTake s a2 a3 a4) := by
  intro a2 a3 a4
  unfold State.semTake
  repeat' first
      | with_reducible assumption | intro _ | with_reducible apply still_ite | with_reducible apply still_setReg
      | with_reducible apply State.wr_still | with_reducible apply State.setBasin_still

theorem State.noteRace_still {s : State} (h : Still s0 s) :
    ∀ a2, Still s0 (State.noteRace s a2) := by
  intro a2
  unfold State.noteRace
  repeat' first
      | with_reducible assumption | intro _ | with_reducible apply still_ite | with_reducible apply State.bump_still

theorem State.unblock_still {s : State} (h : Still s0 s) :
    ∀ a2, Still s0 (State.unblock s a2) := by
  intro a2
  unfold State.unblock
  repeat' first
      | with_reducible assumption | intro _ | with_reducible apply still_ite | with_reducible apply State.wr_still
      | with_reducible apply State.setBasin_still | with_reducible apply State.modCore_still

theorem State.setMigration_still {s : State} (h : Still s0 s) :
    ∀ a2, Still s0 (State.setMigration s a2) := by
  intro a2
  unfold State.setMigration
  repeat' first
      | with_reducible assumption | intro _ | with_reducible apply still_ite | with_reducible apply still_foldl
      | with_reducible apply still_foldl1 | with_reducible apply still_foldl2 | with_reducible refine still_fst (by assumption) ?_
      | with_reducible refine still_snd (by assumption) ?_ | fail_if_no_progress with_reducible apply still_mk

theorem State.migPush_still {s : State} (h : Still s0 s) : ∀ n m, Still s0 (State.migPush n s m) := by
  intro n
  induction n generalizing s with
  | zero => exact fun _ => State.setMigration_still h _
  | succ n ih =>
  intro m
  unfold State.migPush
  repeat' first
      | with_reducible assumption | intro _ | with_reducible apply still_ite | with_reducible apply ih
      | with_reducible apply State.setMigration_still | with_reducible apply State.sendBump_still | with_reducible apply State.push_still
      | with_reducible apply State.dropWaiting_still | with_reducible refine still_fst (by assumption) ?_
      | with_reducible refine still_snd (by assumption) ?_ | fail_if_no_progress with_reducible apply still_mk | dsimp only | split

theorem State.portExpire_still {s : State} (h : Still s0 s) :
    ∀ a2, Still s0 (State.portExpire s a2) := by
  intro a2
  unfold State.portExpire
  repeat' first
      | with_reducible assumption | intro _ | with_reducible apply still_ite | with_reducible apply still_whenever
      | with_reducible apply still_forSome | with_reducible apply State.homeDrop_still | with_reducible apply still_foldl
      | with_reducible apply still_foldl1 | with_reducible apply still_foldl2 | with_reducible refine still_fst (by assumption) ?_
      | with_reducible refine still_snd (by assumption) ?_ | fail_if_no_progress with_reducible apply still_mk

theorem State.modSent_still {s : State} (h : Still s0 s) :
    ∀ a2 a3, Still s0 (State.modSent s a2 a3) := by
  intro a2 a3
  unfold State.modSent
  repeat' first
      | with_reducible assumption | intro _ | with_reducible apply still_ite | with_reducible apply still_foldl
      | with_reducible apply still_foldl1 | with_reducible apply still_foldl2 | with_reducible refine still_fst (by assumption) ?_
      | with_reducible refine still_snd (by assumption) ?_ | fail_if_no_progress with_reducible apply still_mk

theorem State.beat_still {s : State} (h : Still s0 s) :
    ∀ a2, Still s0 (State.beat s a2) := by
  intro a2
  unfold State.beat
  repeat' first
      | with_reducible assumption | intro _ | with_reducible apply still_ite | with_reducible apply still_foldl
      | with_reducible apply still_foldl1 | with_reducible apply still_foldl2 | with_reducible refine still_fst (by assumption) ?_
      | with_reducible refine still_snd (by assumption) ?_ | fail_if_no_progress with_reducible apply still_mk

theorem State.noteSilent_still {s : State} (h : Still s0 s) :
    ∀ a2, Still s0 (State.noteSilent s a2) := by
  intro a2
  unfold State.noteSilent
  repeat' first
      | with_reducible assumption | intro _ | with_reducible apply still_ite | with_reducible apply still_foldl
      | with_reducible apply still_foldl1 | with_reducible apply still_foldl2 | with_reducible refine still_fst (by assumption) ?_
      | with_reducible refine still_snd (by assumption) ?_ | fail_if_no_progress with_reducible apply still_mk

theorem State.dieLost_still {s : State} (h : Still s0 s) :
    ∀ a2, Still s0 (State.dieLost s a2) := by
  intro a2
  unfold State.dieLost
  repeat' first
      | with_reducible assumption | intro _ | with_reducible apply still_ite | with_reducible apply still_whenever
      | with_reducible apply State.reportLow_still | with_reducible apply State.noteSilent_still

theorem State.governor_still {s : State} (h : Still s0 s) :
    Still s0 (State.governor s) := by
  unfold State.governor
  repeat' first
      | with_reducible assumption | intro _ | with_reducible apply still_ite | with_reducible apply State.wr_still
      | with_reducible apply State.info_still | with_reducible apply still_each | with_reducible apply State.decideStep_still

theorem State.stretch_still {s : State} (h : Still s0 s) :
    ∀ a2 a3, Still s0 (State.stretch s a2 a3) := by
  intro a2 a3
  unfold State.stretch
  repeat' first
      | with_reducible assumption | intro _ | with_reducible apply still_ite | with_reducible apply State.bump_still
      | with_reducible apply still_foldl | with_reducible apply still_foldl1 | with_reducible apply still_foldl2
      | with_reducible refine still_fst (by assumption) ?_ | with_reducible refine still_snd (by assumption) ?_
      | fail_if_no_progress with_reducible apply still_mk

theorem State.droop_still {s : State} (h : Still s0 s) :
    ∀ a2, Still s0 (State.droop s a2) := by
  intro a2
  unfold State.droop
  repeat' first
      | with_reducible assumption | intro _ | with_reducible apply still_ite | with_reducible apply still_each
      | with_reducible apply State.decideStep_still | with_reducible apply still_foldl | with_reducible apply still_foldl1
      | with_reducible apply still_foldl2 | with_reducible refine still_fst (by assumption) ?_
      | with_reducible refine still_snd (by assumption) ?_ | fail_if_no_progress with_reducible apply still_mk

theorem State.grantStart_still {s : State} (h : Still s0 s) :
    Still s0 (State.grantStart s) := by
  unfold State.grantStart
  repeat' first
      | with_reducible assumption | intro _ | with_reducible apply still_ite | with_reducible apply State.setSlewTokens_still
      | with_reducible apply still_foldl | with_reducible apply still_foldl1 | with_reducible apply still_foldl2
      | with_reducible refine still_fst (by assumption) ?_ | with_reducible refine still_snd (by assumption) ?_
      | fail_if_no_progress with_reducible apply still_mk | dsimp only | split

theorem State.gateReqBit_still {s : State} (h : Still s0 s) :
    ∀ a2, Still s0 (State.gateReqBit s a2) := by
  intro a2
  unfold State.gateReqBit
  repeat' first
      | with_reducible assumption | intro _ | with_reducible apply still_ite | with_reducible apply State.info_still
      | with_reducible apply State.gateLater_still | with_reducible apply still_foldl | with_reducible apply still_foldl1
      | with_reducible apply still_foldl2 | with_reducible refine still_fst (by assumption) ?_
      | with_reducible refine still_snd (by assumption) ?_ | fail_if_no_progress with_reducible apply still_mk

theorem State.gateReqWrite_still {s : State} (h : Still s0 s) :
    ∀ a2, Still s0 (State.gateReqWrite s a2) := by
  intro a2
  unfold State.gateReqWrite
  repeat' first
      | with_reducible assumption | intro _ | with_reducible apply still_ite | with_reducible apply still_each
      | with_reducible apply State.gateReqBit_still

theorem State.wakeReqWrite_still {s : State} (h : Still s0 s) :
    ∀ a2, Still s0 (State.wakeReqWrite s a2) := by
  intro a2
  unfold State.wakeReqWrite
  repeat' first
      | with_reducible assumption | intro _ | with_reducible apply still_ite | with_reducible apply still_each
      | with_reducible apply State.queueWake_still | with_reducible apply State.startRamps_still

theorem State.heldGate_still {s : State} (h : Still s0 s) :
    ∀ a2, Still s0 (State.heldGate s a2) := by
  intro a2
  unfold State.heldGate
  repeat' first
      | with_reducible assumption | intro _ | with_reducible apply still_ite | with_reducible apply State.info_still
      | with_reducible apply State.gateLater_still | with_reducible apply still_foldl | with_reducible apply still_foldl1
      | with_reducible apply still_foldl2 | with_reducible refine still_fst (by assumption) ?_
      | with_reducible refine still_snd (by assumption) ?_ | fail_if_no_progress with_reducible apply still_mk

theorem State.meter_still {s : State} (h : Still s0 s) :
    ∀ a2 a3, Still s0 (State.meter s a2 a3) := by
  intro a2 a3
  unfold State.meter
  repeat' first
      | with_reducible assumption | intro _ | with_reducible apply still_ite | with_reducible apply State.wr_still
      | with_reducible apply State.bump_still | with_reducible apply still_each | with_reducible apply still_foldl
      | with_reducible apply still_foldl1 | with_reducible apply still_foldl2 | with_reducible refine still_fst (by assumption) ?_
      | with_reducible refine still_snd (by assumption) ?_ | fail_if_no_progress with_reducible apply still_mk

theorem State.thermal_still {s : State} (h : Still s0 s) :
    ∀ a2 a3 a4, Still s0 (State.thermal s a2 a3 a4) := by
  intro a2 a3 a4
  unfold State.thermal
  repeat' first
      | with_reducible assumption | intro _ | with_reducible apply still_ite | with_reducible apply State.wr_still
      | with_reducible apply State.reportLow_still | with_reducible apply State.info_still | with_reducible apply still_foldl
      | with_reducible apply still_foldl1 | with_reducible apply still_foldl2 | with_reducible refine still_fst (by assumption) ?_
      | with_reducible refine still_snd (by assumption) ?_ | fail_if_no_progress with_reducible apply still_mk

theorem State.resetOver_still {s : State} (h : Still s0 s) :
    ∀ a2, Still s0 (State.resetOver s a2) := by
  intro a2
  unfold State.resetOver
  repeat' first
      | with_reducible assumption | intro _ | with_reducible apply still_ite | with_reducible apply State.wr_still
      | with_reducible apply still_each | with_reducible apply State.startRamps_still | with_reducible apply State.heldGate_still
      | with_reducible apply still_foldl | with_reducible apply still_foldl1 | with_reducible apply still_foldl2
      | with_reducible refine still_fst (by assumption) ?_ | with_reducible refine still_snd (by assumption) ?_
      | fail_if_no_progress with_reducible apply still_mk

theorem State.startTerrace_still {s : State} (h : Still s0 s) :
    ∀ a2, Still s0 (State.startTerrace s a2) := by
  intro a2
  unfold State.startTerrace
  repeat' first
      | with_reducible assumption | intro _ | with_reducible apply still_ite | with_reducible apply State.wr_still
      | with_reducible apply State.beat_still

theorem State.phaseDone_still {s : State} (h : Still s0 s) :
    ∀ a2, Still s0 (State.phaseDone s a2) := by
  intro a2
  unfold State.phaseDone
  repeat' first
      | with_reducible assumption | intro _ | with_reducible apply still_ite | with_reducible apply still_setReg
      | with_reducible apply State.wr_still

theorem State.beginTraining_still {s : State} (h : Still s0 s) :
    ∀ a2, Still s0 (State.beginTraining s a2) := by
  intro a2
  unfold State.beginTraining
  repeat' first
      | with_reducible assumption | intro _ | with_reducible apply still_ite | with_reducible apply State.wr_still

theorem State.dieReady_still {s : State} (h : Still s0 s) :
    ∀ a2 a3, Still s0 (State.dieReady s a2 a3) := by
  intro a2 a3
  unfold State.dieReady
  repeat' first
      | with_reducible assumption | intro _ | with_reducible apply still_ite | with_reducible apply State.wr_still
      | with_reducible apply State.reportLow_still | with_reducible apply still_each | with_reducible apply State.beat_still
      | with_reducible apply State.startTerrace_still | with_reducible apply State.phaseDone_still
      | with_reducible apply State.beginTraining_still | with_reducible apply still_foldl | with_reducible apply still_foldl1
      | with_reducible apply still_foldl2 | with_reducible refine still_fst (by assumption) ?_
      | with_reducible refine still_snd (by assumption) ?_ | fail_if_no_progress with_reducible apply still_mk

theorem State.detStepWrite_still {s : State} (h : Still s0 s) :
    ∀ a2 a3, Still s0 (State.detStepWrite s a2 a3) := by
  intro a2 a3
  unfold State.detStepWrite
  repeat' first
      | with_reducible assumption | intro _ | with_reducible apply still_ite | with_reducible apply still_setReg
      | with_reducible apply State.info_still

theorem State.ownAddress_still {s : State} (h : Still s0 s) :
    Still s0 (State.ownAddress s).2 := by
  unfold State.ownAddress
  repeat' first
      | with_reducible assumption | intro _ | with_reducible apply still_ite | with_reducible apply still_foldl
      | with_reducible apply still_foldl1 | with_reducible apply still_foldl2 | with_reducible refine still_fst (by assumption) ?_
      | with_reducible refine still_snd (by assumption) ?_ | fail_if_no_progress with_reducible apply still_mk

theorem State.setMark_still {s : State} (h : Still s0 s) :
    ∀ a2 a3 a4, Still s0 (State.setMark s a2 a3 a4) := by
  intro a2 a3 a4
  unfold State.setMark
  repeat' first
      | with_reducible assumption | intro _ | with_reducible apply still_ite | with_reducible apply State.setEth_still

theorem State.tcRefill_still {s : State} (h : Still s0 s) :
    ∀ a2 a3, Still s0 (State.tcRefill s a2 a3) := by
  intro a2 a3
  unfold State.tcRefill
  repeat' first
      | with_reducible assumption | intro _ | with_reducible apply still_ite | with_reducible apply State.setMark_still

theorem State.tcMark_still {s : State} (h : Still s0 s) :
    ∀ a2 a3 a4 a5, Still s0 (State.tcMark s a2 a3 a4 a5).2 := by
  intro a2 a3 a4 a5
  unfold State.tcMark
  repeat' first
      | with_reducible assumption | intro _ | with_reducible apply still_ite | with_reducible apply State.setMark_still
      | with_reducible apply still_foldl | with_reducible apply still_foldl1 | with_reducible apply still_foldl2
      | with_reducible refine still_fst (by assumption) ?_ | with_reducible refine still_snd (by assumption) ?_
      | fail_if_no_progress with_reducible apply still_mk | dsimp only | split

theorem State.enqueue_still {s : State} (h : Still s0 s) :
    ∀ a2 a3 a4, Still s0 (State.enqueue s a2 a3 a4) := by
  intro a2 a3 a4
  unfold State.enqueue
  repeat' first
      | with_reducible assumption | intro _ | with_reducible apply still_ite | with_reducible apply State.setEth_still

theorem State.pumpFrom_still {s : State} (h : Still s0 s) : ∀ p l bl, Still s0 (State.pumpFrom s p l bl) := by
  intro p l
  induction l generalizing s with
  | nil => exact fun _ => h
  | cons a l ih =>
  intro bl
  unfold State.pumpFrom
  repeat' first
      | with_reducible assumption | intro _ | with_reducible apply still_ite | with_reducible apply ih
      | with_reducible apply State.bump_still | with_reducible apply State.enqueue_still | with_reducible apply State.setEth_still

theorem State.pump_still {s : State} (h : Still s0 s) :
    ∀ a2, Still s0 (State.pump s a2) := by
  intro a2
  unfold State.pump
  repeat' first
      | with_reducible assumption | intro _ | with_reducible apply still_ite | with_reducible apply State.pumpFrom_still

theorem State.originate_still {s : State} (h : Still s0 s) :
    ∀ a2 a3 a4 a5, Still s0 (State.originate s a2 a3 a4 a5) := by
  intro a2 a3 a4 a5
  unfold State.originate
  repeat' first
      | with_reducible assumption | intro _ | with_reducible apply still_ite | with_reducible apply State.setEth_still
      | with_reducible apply State.pump_still

theorem State.carrierWrite_still {s : State} (h : Still s0 s) :
    ∀ a2 a3, Still s0 (State.carrierWrite s a2 a3) := by
  intro a2 a3
  unfold State.carrierWrite
  repeat' first
      | with_reducible assumption | intro _ | with_reducible apply still_ite | with_reducible apply still_setReg
      | with_reducible apply State.info_still

theorem State.markSymbol_still {s : State} (h : Still s0 s) :
    ∀ a2 a3, Still s0 (State.markSymbol s a2 a3) := by
  intro a2 a3
  unfold State.markSymbol
  repeat' first
      | with_reducible assumption | intro _ | with_reducible apply still_ite | with_reducible apply still_foldl
      | with_reducible apply still_foldl1 | with_reducible apply still_foldl2 | with_reducible refine still_fst (by assumption) ?_
      | with_reducible refine still_snd (by assumption) ?_ | fail_if_no_progress with_reducible apply still_mk

theorem State.nextSeq_still {s : State} (h : Still s0 s) :
    ∀ a2, Still s0 (State.nextSeq s a2).2 := by
  intro a2
  unfold State.nextSeq
  repeat' first
      | with_reducible assumption | intro _ | with_reducible apply still_ite | with_reducible apply still_foldl
      | with_reducible apply still_foldl1 | with_reducible apply still_foldl2 | with_reducible refine still_fst (by assumption) ?_
      | with_reducible refine still_snd (by assumption) ?_ | fail_if_no_progress with_reducible apply still_mk

theorem State.emitSymbol_still {s : State} (h : Still s0 s) :
    ∀ a2 a3 a4, Still s0 (State.emitSymbol s a2 a3 a4) := by
  intro a2 a3 a4
  unfold State.emitSymbol
  repeat' first
      | with_reducible assumption | intro _ | with_reducible apply still_ite | with_reducible apply still_each
      | with_reducible apply State.eccRead_still | with_reducible apply State.originate_still | with_reducible apply State.nextSeq_still
      | with_reducible apply still_foldl | with_reducible apply still_foldl1 | with_reducible apply still_foldl2
      | with_reducible refine still_fst (by assumption) ?_ | with_reducible refine still_snd (by assumption) ?_
      | fail_if_no_progress with_reducible apply still_mk

theorem State.reserveBasin_still {s : State} (h : Still s0 s) :
    ∀ a2 a3, Still s0 (State.reserveBasin s a2 a3) := by
  intro a2 a3
  unfold State.reserveBasin
  repeat' first
      | with_reducible assumption | intro _ | with_reducible apply still_ite | with_reducible apply State.wr_still
      | with_reducible apply State.setRegBit_still | with_reducible apply State.setBasin_still
      | with_reducible apply State.clearEngines_still | with_reducible apply State.beginZero_still
      | with_reducible apply State.ownerChanged_still

theorem State.reservedWrite_still {s : State} (h : Still s0 s) :
    ∀ a2, Still s0 (State.reservedWrite s a2) := by
  intro a2
  unfold State.reservedWrite
  repeat' first
      | with_reducible assumption | intro _ | with_reducible apply still_ite | with_reducible apply State.info_still
      | with_reducible apply still_each | with_reducible apply State.protectNow_still | with_reducible apply State.reserveBasin_still

theorem State.radioCtrlWrite_still {s : State} (h : Still s0 s) :
    ∀ a2, Still s0 (State.radioCtrlWrite s a2) := by
  intro a2
  unfold State.radioCtrlWrite
  repeat' first
      | with_reducible assumption | intro _ | with_reducible apply still_ite | with_reducible apply State.wr_still
      | with_reducible apply State.info_still

theorem State.setRate_still {s : State} (h : Still s0 s) :
    ∀ a2, Still s0 (State.setRate s a2) := by
  intro a2
  unfold State.setRate
  repeat' first
      | with_reducible assumption | intro _ | with_reducible apply still_ite | with_reducible apply still_setReg

theorem State.setRateI_still {s : State} (h : Still s0 s) :
    ∀ a2, Still s0 (State.setRateI s a2) := by
  intro a2
  unfold State.setRateI
  repeat' first
      | with_reducible assumption | intro _ | with_reducible apply still_ite | with_reducible apply still_setReg

theorem State.stepCount_still {s : State} (h : Still s0 s) :
    ∀ a2, Still s0 (State.stepCount s a2) := by
  intro a2
  unfold State.stepCount
  repeat' first
      | with_reducible assumption | intro _ | with_reducible apply still_ite | with_reducible apply State.bump_still
      | with_reducible apply State.raise_still | with_reducible apply State.report_still | with_reducible apply still_foldl
      | with_reducible apply still_foldl1 | with_reducible apply still_foldl2 | with_reducible refine still_fst (by assumption) ?_
      | with_reducible refine still_snd (by assumption) ?_ | fail_if_no_progress with_reducible apply still_mk

theorem State.servo_still {s : State} (h : Still s0 s) :
    ∀ a2, Still s0 (State.servo s a2) := by
  intro a2
  unfold State.servo
  repeat' first
      | with_reducible assumption | intro _ | with_reducible apply still_ite | with_reducible apply State.bump_still
      | with_reducible apply State.setRate_still | with_reducible apply State.setRateI_still

theorem State.lockCount_still {s : State} (h : Still s0 s) :
    ∀ a2 a3, Still s0 (State.lockCount s a2 a3) := by
  intro a2 a3
  unfold State.lockCount
  repeat' first
      | with_reducible assumption | intro _ | with_reducible apply still_ite | with_reducible apply State.setTimeState_still
      | with_reducible apply still_foldl | with_reducible apply still_foldl1 | with_reducible apply still_foldl2
      | with_reducible refine still_fst (by assumption) ?_ | with_reducible refine still_snd (by assumption) ?_
      | fail_if_no_progress with_reducible apply still_mk

theorem State.driveBy_still {s : State} (h : Still s0 s) :
    ∀ a2 a3, Still s0 (State.driveBy s a2 a3) := by
  intro a2 a3
  unfold State.driveBy
  repeat' first
      | with_reducible assumption | intro _ | with_reducible apply still_ite | with_reducible apply State.setTimeState_still
      | with_reducible apply State.stepCount_still | with_reducible apply State.servo_still | with_reducible apply State.lockCount_still
      | with_reducible apply still_foldl | with_reducible apply still_foldl1 | with_reducible apply still_foldl2
      | with_reducible refine still_fst (by assumption) ?_ | with_reducible refine still_snd (by assumption) ?_
      | fail_if_no_progress with_reducible apply still_mk

theorem State.drive_still {s : State} (h : Still s0 s) :
    ∀ a2 a3, Still s0 (State.drive s a2 a3) := by
  intro a2 a3
  unfold State.drive
  repeat' first
      | with_reducible assumption | intro _ | with_reducible apply still_ite | with_reducible apply State.driveBy_still
      | with_reducible apply still_foldl | with_reducible apply still_foldl1 | with_reducible apply still_foldl2
      | with_reducible refine still_fst (by assumption) ?_ | with_reducible refine still_snd (by assumption) ?_
      | fail_if_no_progress with_reducible apply still_mk

theorem State.switchTo_still {s : State} (h : Still s0 s) :
    ∀ a2, Still s0 (State.switchTo s a2) := by
  intro a2
  unfold State.switchTo
  repeat' first
      | with_reducible assumption | intro _ | with_reducible apply still_ite | with_reducible apply still_foldl
      | with_reducible apply still_foldl1 | with_reducible apply still_foldl2 | with_reducible refine still_fst (by assumption) ?_
      | with_reducible refine still_snd (by assumption) ?_ | fail_if_no_progress with_reducible apply still_mk

theorem State.setTracker_still {s : State} (h : Still s0 s) :
    ∀ a2 a3, Still s0 (State.setTracker s a2 a3) := by
  intro a2 a3
  unfold State.setTracker
  repeat' first
      | with_reducible assumption | intro _ | with_reducible apply still_ite | with_reducible apply still_foldl
      | with_reducible apply still_foldl1 | with_reducible apply still_foldl2 | with_reducible refine still_fst (by assumption) ?_
      | with_reducible refine still_snd (by assumption) ?_ | fail_if_no_progress with_reducible apply still_mk

theorem State.measured_still {s : State} (h : Still s0 s) :
    ∀ a2 a3 a4 a5, Still s0 (State.measured s a2 a3 a4 a5) := by
  intro a2 a3 a4 a5
  unfold State.measured
  repeat' first
      | with_reducible assumption | intro _ | with_reducible apply still_ite | with_reducible apply still_setReg
      | with_reducible apply State.bump_still | with_reducible apply State.drive_still | with_reducible apply State.switchTo_still
      | with_reducible apply still_foldl | with_reducible apply still_foldl1 | with_reducible apply still_foldl2
      | with_reducible refine still_fst (by assumption) ?_ | with_reducible refine still_snd (by assumption) ?_
      | fail_if_no_progress with_reducible apply still_mk | dsimp only | split

theorem State.ptpUsed_still {s : State} (h : Still s0 s) :
    ∀ a2, Still s0 (State.ptpUsed s a2) := by
  intro a2
  unfold State.ptpUsed
  repeat' first
      | with_reducible assumption | intro _ | with_reducible apply still_ite | with_reducible apply still_foldl
      | with_reducible apply still_foldl1 | with_reducible apply still_foldl2 | with_reducible refine still_fst (by assumption) ?_
      | with_reducible refine still_snd (by assumption) ?_ | fail_if_no_progress with_reducible apply still_mk

theorem State.takeSync_still {s : State} (h : Still s0 s) :
    ∀ a2 a3, Still s0 (State.takeSync s a2 a3) := by
  intro a2 a3
  unfold State.takeSync
  repeat' first
      | with_reducible assumption | intro _ | with_reducible apply still_ite | with_reducible apply State.setTracker_still
      | with_reducible apply State.measured_still

theorem State.takeFollowUp_still {s : State} (h : Still s0 s) :
    ∀ a2 a3, Still s0 (State.takeFollowUp s a2 a3) := by
  intro a2 a3
  unfold State.takeFollowUp
  repeat' first
      | with_reducible assumption | intro _ | with_reducible apply still_ite | with_reducible apply State.setTracker_still
      | with_reducible apply State.measured_still | with_reducible apply still_foldl | with_reducible apply still_foldl1
      | with_reducible apply still_foldl2 | with_reducible refine still_fst (by assumption) ?_
      | with_reducible refine still_snd (by assumption) ?_ | fail_if_no_progress with_reducible apply still_mk | dsimp only | split

theorem State.takeDelayResp_still {s : State} (h : Still s0 s) :
    ∀ a2 a3, Still s0 (State.takeDelayResp s a2 a3) := by
  intro a2 a3
  unfold State.takeDelayResp
  repeat' first
      | with_reducible assumption | intro _ | with_reducible apply still_ite | with_reducible apply State.setTracker_still
      | with_reducible apply still_foldl | with_reducible apply still_foldl1 | with_reducible apply still_foldl2
      | with_reducible refine still_fst (by assumption) ?_ | with_reducible refine still_snd (by assumption) ?_
      | fail_if_no_progress with_reducible apply still_mk | dsimp only | split

theorem State.sendDelayReq_still {s : State} (h : Still s0 s) :
    ∀ a2, Still s0 (State.sendDelayReq s a2) := by
  intro a2
  unfold State.sendDelayReq
  repeat' first
      | with_reducible assumption | intro _ | with_reducible apply still_ite | with_reducible apply State.ownAddress_still
      | with_reducible apply State.originate_still | with_reducible apply State.setTracker_still

theorem State.timeCtrlWrite_still {s : State} (h : Still s0 s) :
    ∀ a2, Still s0 (State.timeCtrlWrite s a2) := by
  intro a2
  unfold State.timeCtrlWrite
  repeat' first
      | with_reducible assumption | intro _ | with_reducible apply still_ite | with_reducible apply still_setReg
      | with_reducible apply State.setTimeState_still | with_reducible apply State.setRate_still | with_reducible apply still_foldl
      | with_reducible apply still_foldl1 | with_reducible apply still_foldl2 | with_reducible refine still_fst (by assumption) ?_
      | with_reducible refine still_snd (by assumption) ?_ | fail_if_no_progress with_reducible apply still_mk

theorem State.synceTake_still {s : State} (h : Still s0 s) :
    ∀ a2, Still s0 (State.synceTake s a2) := by
  intro a2
  unfold State.synceTake
  repeat' first
      | with_reducible assumption | intro _ | with_reducible apply still_ite | with_reducible apply still_setReg
      | with_reducible apply State.wr_still | with_reducible apply State.setRate_still | with_reducible apply State.setRateI_still
      | with_reducible apply still_foldl | with_reducible apply still_foldl1 | with_reducible apply still_foldl2
      | with_reducible refine still_fst (by assumption) ?_ | with_reducible refine still_snd (by assumption) ?_
      | fail_if_no_progress with_reducible apply still_mk

theorem State.answerDelayReq_still {s : State} (h : Still s0 s) :
    ∀ a2 a3, Still s0 (State.answerDelayReq s a2 a3) := by
  intro a2 a3
  unfold State.answerDelayReq
  repeat' first
      | with_reducible assumption | intro _ | with_reducible apply still_ite | with_reducible apply State.ownAddress_still
      | with_reducible apply State.originate_still

theorem State.sendSync_still {s : State} (h : Still s0 s) :
    ∀ a2, Still s0 (State.sendSync s a2) := by
  intro a2
  unfold State.sendSync
  repeat' first
      | with_reducible assumption | intro _ | with_reducible apply still_ite | with_reducible apply State.ownAddress_still
      | with_reducible apply State.originate_still | with_reducible apply still_foldl | with_reducible apply still_foldl1
      | with_reducible apply still_foldl2 | with_reducible refine still_fst (by assumption) ?_
      | with_reducible refine still_snd (by assumption) ?_ | fail_if_no_progress with_reducible apply still_mk

theorem State.setOut_still {s : State} (h : Still s0 s) :
    ∀ a2 a3, Still s0 (State.setOut s a2 a3) := by
  intro a2 a3
  unfold State.setOut
  repeat' first
      | with_reducible assumption | intro _ | with_reducible apply still_ite | with_reducible apply still_foldl
      | with_reducible apply still_foldl1 | with_reducible apply still_foldl2 | with_reducible refine still_fst (by assumption) ?_
      | with_reducible refine still_snd (by assumption) ?_ | fail_if_no_progress with_reducible apply still_mk

theorem State.outCtrlWrite_still {s : State} (h : Still s0 s) :
    ∀ a2 a3, Still s0 (State.outCtrlWrite s a2 a3) := by
  intro a2 a3
  unfold State.outCtrlWrite
  repeat' first
      | with_reducible assumption | intro _ | with_reducible apply still_ite | with_reducible apply State.wr_still
      | with_reducible apply State.raise_still | with_reducible apply State.keepFresh_still | with_reducible apply State.info_still
      | with_reducible apply State.setOut_still

theorem State.pinEdge_still {s : State} (h : Still s0 s) :
    ∀ a2, Still s0 (State.pinEdge s a2) := by
  intro a2
  unfold State.pinEdge
  repeat' first
      | with_reducible assumption | intro _ | with_reducible apply still_ite | with_reducible apply State.wr_still
      | with_reducible apply State.setOut_still

theorem State.setCaptures_still {s : State} (h : Still s0 s) :
    ∀ a2 a3, Still s0 (State.setCaptures s a2 a3) := by
  intro a2 a3
  unfold State.setCaptures
  repeat' first
      | with_reducible assumption | intro _ | with_reducible apply still_ite | with_reducible apply still_foldl
      | with_reducible apply still_foldl1 | with_reducible apply still_foldl2 | with_reducible refine still_fst (by assumption) ?_
      | with_reducible refine still_snd (by assumption) ?_ | fail_if_no_progress with_reducible apply still_mk

theorem State.setEdge_still {s : State} (h : Still s0 s) :
    ∀ a2 a3 a4, Still s0 (State.setEdge s a2 a3 a4) := by
  intro a2 a3 a4
  unfold State.setEdge
  repeat' first
      | with_reducible assumption | intro _ | with_reducible apply still_ite | with_reducible apply still_foldl
      | with_reducible apply still_foldl1 | with_reducible apply still_foldl2 | with_reducible refine still_fst (by assumption) ?_
      | with_reducible refine still_snd (by assumption) ?_ | fail_if_no_progress with_reducible apply still_mk

theorem State.takeEdge_still {s : State} (h : Still s0 s) :
    ∀ a2 a3, Still s0 (State.takeEdge s a2 a3) := by
  intro a2 a3
  unfold State.takeEdge
  repeat' first
      | with_reducible assumption | intro _ | with_reducible apply still_ite | with_reducible apply State.bumpSat_still
      | with_reducible apply State.setCaptures_still | with_reducible apply State.setEdge_still

theorem State.dropEdge_still {s : State} (h : Still s0 s) :
    ∀ a2 a3 a4 a5, Still s0 (State.dropEdge s a2 a3 a4 a5) := by
  intro a2 a3 a4 a5
  unfold State.dropEdge
  repeat' first
      | with_reducible assumption | intro _ | with_reducible apply still_ite | with_reducible apply State.wr_still
      | with_reducible apply State.setCaptures_still | with_reducible apply still_foldl | with_reducible apply still_foldl1
      | with_reducible apply still_foldl2 | with_reducible refine still_fst (by assumption) ?_
      | with_reducible refine still_snd (by assumption) ?_ | fail_if_no_progress with_reducible apply still_mk

theorem State.captureEdge_still {s : State} (h : Still s0 s) :
    ∀ a2 a3, Still s0 (State.captureEdge s a2 a3) := by
  intro a2 a3
  unfold State.captureEdge
  repeat' first
      | with_reducible assumption | intro _ | with_reducible apply still_ite | with_reducible apply State.takeEdge_still
      | with_reducible apply State.dropEdge_still | with_reducible apply still_foldl | with_reducible apply still_foldl1
      | with_reducible apply still_foldl2 | with_reducible refine still_fst (by assumption) ?_
      | with_reducible refine still_snd (by assumption) ?_ | fail_if_no_progress with_reducible apply still_mk | dsimp only | split

theorem State.capMetaRead_still {s : State} (h : Still s0 s) :
    ∀ a2, Still s0 (State.capMetaRead s a2) := by
  intro a2
  unfold State.capMetaRead
  repeat' first
      | with_reducible assumption | intro _ | with_reducible apply still_ite | with_reducible apply still_setReg
      | with_reducible apply State.setCaptures_still | with_reducible apply still_foldl | with_reducible apply still_foldl1
      | with_reducible apply still_foldl2 | with_reducible refine still_fst (by assumption) ?_
      | with_reducible refine still_snd (by assumption) ?_ | fail_if_no_progress with_reducible apply still_mk | dsimp only | split

theorem State.launchCtrlWrite_still {s : State} (h : Still s0 s) :
    ∀ a2 a3, Still s0 (State.launchCtrlWrite s a2 a3) := by
  intro a2 a3
  unfold State.launchCtrlWrite
  repeat' first
      | with_reducible assumption | intro _ | with_reducible apply still_ite | with_reducible apply State.wr_still
      | with_reducible apply State.raise_still | with_reducible apply State.info_still

theorem State.colour_still {s : State} (h : Still s0 s) :
    ∀ a2 a3, Still s0 (State.colour s a2 a3).1 := by
  intro a2 a3
  unfold State.colour
  repeat' first
      | with_reducible assumption | intro _ | with_reducible apply still_ite | with_reducible apply State.bump_still
      | with_reducible apply State.tcMark_still | with_reducible apply still_foldl | with_reducible apply still_foldl1
      | with_reducible apply still_foldl2 | with_reducible refine still_fst (by assumption) ?_
      | with_reducible refine still_snd (by assumption) ?_ | fail_if_no_progress with_reducible apply still_mk | dsimp only | split

theorem State.reach_still {s : State} (h : Still s0 s) :
    ∀ a2 a3, Still s0 (State.reach s a2 a3) := by
  intro a2 a3
  unfold State.reach
  repeat' first
      | with_reducible assumption | intro _ | with_reducible apply still_ite | with_reducible apply State.bump_still
      | with_reducible apply State.enqueue_still | with_reducible apply State.colour_still | with_reducible apply still_foldl
      | with_reducible apply still_foldl1 | with_reducible apply still_foldl2 | with_reducible refine still_fst (by assumption) ?_
      | with_reducible refine still_snd (by assumption) ?_ | fail_if_no_progress with_reducible apply still_mk | dsimp only | split

theorem State.gclActWrite_still {s : State} (h : Still s0 s) :
    ∀ a2 a3, Still s0 (State.gclActWrite s a2 a3) := by
  intro a2 a3
  unfold State.gclActWrite
  repeat' first
      | with_reducible assumption | intro _ | with_reducible apply still_ite | with_reducible apply still_setReg
      | with_reducible apply State.wr_still | with_reducible apply State.raise_still | with_reducible apply State.info_still
      | with_reducible apply State.setEth_still

theorem State.modOp_still {s : State} (h : Still s0 s) :
    ∀ a2 a3 a4, Still s0 (State.modOp s a2 a3 a4) := by
  intro a2 a3 a4
  unfold State.modOp
  repeat' first
      | with_reducible assumption | intro _ | with_reducible apply still_ite | with_reducible apply still_foldl
      | with_reducible apply still_foldl1 | with_reducible apply still_foldl2 | with_reducible refine still_fst (by assumption) ?_
      | with_reducible refine still_snd (by assumption) ?_ | fail_if_no_progress with_reducible apply still_mk

theorem State.cplaneFrame_still {s : State} (h : Still s0 s) :
    ∀ a2, Still s0 (State.cplaneFrame s a2).2 := by
  intro a2
  unfold State.cplaneFrame
  repeat' first
      | with_reducible assumption | intro _ | with_reducible apply still_ite | with_reducible apply State.nextSeq_still

theorem State.cplaneStart_still {s : State} (h : Still s0 s) :
    ∀ a2 a3 a4 a5, Still s0 (State.cplaneStart s a2 a3 a4 a5) := by
  intro a2 a3 a4 a5
  unfold State.cplaneStart
  repeat' first
      | with_reducible assumption | intro _ | with_reducible apply still_ite | with_reducible apply State.originate_still
      | with_reducible apply State.modOp_still | with_reducible apply State.cplaneFrame_still

theorem State.workBegins_still {s : State} (h : Still s0 s) :
    ∀ a2, Still s0 (State.workBegins s a2) := by
  intro a2
  unfold State.workBegins
  repeat' first
      | with_reducible assumption | intro _ | with_reducible apply still_ite | with_reducible apply State.setBasin_still

theorem State.radioSpoutStart_still {s : State} (h : Still s0 s) :
    ∀ a2 a3 a4, Still s0 (State.radioSpoutStart s a2 a3 a4) := by
  intro a2 a3 a4
  unfold State.radioSpoutStart
  repeat' first
      | with_reducible assumption | intro _ | with_reducible apply still_ite | with_reducible apply State.beginTask_still
      | with_reducible apply State.modOp_still | with_reducible apply State.workBegins_still

theorem State.fenceCmdWrite_still {s : State} (h : Still s0 s) :
    ∀ a2, Still s0 (State.fenceCmdWrite s a2) := by
  intro a2
  unfold State.fenceCmdWrite
  repeat' first
      | with_reducible assumption | intro _ | with_reducible apply still_ite | with_reducible apply State.wr_still
      | with_reducible apply State.info_still | with_reducible apply State.fenceDecide_still | with_reducible apply State.testBegin_still
      | with_reducible apply still_foldl | with_reducible apply still_foldl1 | with_reducible apply still_foldl2
      | with_reducible refine still_fst (by assumption) ?_ | with_reducible refine still_snd (by assumption) ?_
      | fail_if_no_progress with_reducible apply still_mk | dsimp only | split

theorem State.markWrite_still {s : State} (h : Still s0 s) :
    ∀ a2, Still s0 (State.markWrite s a2) := by
  intro a2
  unfold State.markWrite
  repeat' first
      | with_reducible assumption | intro _ | with_reducible apply still_ite | with_reducible apply State.event_still

theorem State.setEid_still {s : State} (h : Still s0 s) :
    ∀ a2 a3, Still s0 (State.setEid s a2 a3) := by
  intro a2 a3
  unfold State.setEid
  repeat' first
      | with_reducible assumption | intro _ | with_reducible apply still_ite | with_reducible apply State.wr_still
      | with_reducible apply still_foldl | with_reducible apply still_foldl1 | with_reducible apply still_foldl2
      | with_reducible refine still_fst (by assumption) ?_ | with_reducible refine still_snd (by assumption) ?_
      | fail_if_no_progress with_reducible apply still_mk

theorem State.answer_still {s : State} {k3 : State → State × List Byte} (h : Still s0 s) (hk3 : ∀ x0, Still s0 x0 → Still s0 (k3 x0).1) :
    ∀ a2, Still s0 (State.answer s a2 k3) := by
  intro a2
  unfold State.answer
  repeat' first
      | with_reducible assumption | intro _ | with_reducible apply still_ite | with_reducible apply still_whenever
      | with_reducible apply hk3 | with_reducible apply still_foldl | with_reducible apply still_foldl1
      | with_reducible apply still_foldl2 | with_reducible refine still_fst (by assumption) ?_
      | with_reducible refine still_snd (by assumption) ?_ | fail_if_no_progress with_reducible apply still_mk

theorem State.freeReply_still {s : State} (h : Still s0 s) :
    ∀ a2, Still s0 (State.freeReply s a2).1 := by
  intro a2
  unfold State.freeReply
  repeat' first
      | with_reducible assumption | intro _ | with_reducible apply still_ite | with_reducible apply still_foldl
      | with_reducible apply still_foldl1 | with_reducible apply still_foldl2 | with_reducible refine still_fst (by assumption) ?_
      | with_reducible refine still_snd (by assumption) ?_ | fail_if_no_progress with_reducible apply still_mk

theorem State.mctpServe_still {s : State} (h : Still s0 s) :
    ∀ a2 a3, Still s0 (State.mctpServe s a2 a3).1 := by
  intro a2 a3
  unfold State.mctpServe
  repeat' first
      | with_reducible assumption | intro _ | with_reducible apply still_ite | with_reducible apply State.setEid_still
      | with_reducible apply State.freeReply_still | with_reducible apply still_foldl | with_reducible apply still_foldl1
      | with_reducible apply still_foldl2 | with_reducible refine still_fst (by assumption) ?_
      | with_reducible refine still_snd (by assumption) ?_ | fail_if_no_progress with_reducible apply still_mk | dsimp only | split

theorem State.sensorServe_still {s : State} (h : Still s0 s) :
    ∀ a2, Still s0 (State.sensorServe s a2).1 := by
  intro a2
  unfold State.sensorServe
  repeat' first
      | with_reducible assumption | intro _ | with_reducible apply still_ite | with_reducible apply State.freeReply_still
      | with_reducible apply still_foldl | with_reducible apply still_foldl1 | with_reducible apply still_foldl2
      | with_reducible refine still_fst (by assumption) ?_ | with_reducible refine still_snd (by assumption) ?_
      | fail_if_no_progress with_reducible apply still_mk | dsimp only | split

theorem State.migSwitch_still {s : State} (h : Still s0 s) :
    ∀ a2, Still s0 (State.migSwitch s a2) := by
  intro a2
  unfold State.migSwitch
  repeat' first
      | with_reducible assumption | intro _ | with_reducible apply still_ite | with_reducible apply State.wr_still
      | with_reducible apply State.modCmd_still | with_reducible apply State.migPush_still

theorem State.partWrite_still {s : State} (h : Still s0 s) :
    ∀ a2 a3, Still s0 (State.partWrite s a2 a3) := by
  intro a2 a3
  unfold State.partWrite
  repeat' first
      | with_reducible assumption | intro _ | with_reducible apply still_ite | with_reducible apply State.wr_still
      | with_reducible apply State.info_still | with_reducible apply State.setBasin_still

theorem State.clearRc_still {s : State} (h : Still s0 s) :
    ∀ a2 a3, Still s0 (State.clearRc s a2 a3) := by
  intro a2 a3
  unfold State.clearRc
  repeat' first
      | with_reducible assumption | intro _ | with_reducible apply still_ite | with_reducible apply still_setReg
      | with_reducible apply still_foldl | with_reducible apply still_foldl1 | with_reducible apply still_foldl2
      | with_reducible refine still_fst (by assumption) ?_ | with_reducible refine still_snd (by assumption) ?_
      | fail_if_no_progress with_reducible apply still_mk | dsimp only | split

theorem State.readReg_still {s : State} (h : Still s0 s) :
    ∀ a2 a3, Still s0 (State.readReg s a2 a3).2 := by
  intro a2 a3
  unfold State.readReg
  repeat' first
      | with_reducible assumption | intro _ | with_reducible apply still_ite | with_reducible apply State.capMetaRead_still
      | with_reducible apply State.clearRc_still | with_reducible apply still_foldl | with_reducible apply still_foldl1
      | with_reducible apply still_foldl2 | with_reducible refine still_fst (by assumption) ?_
      | with_reducible refine still_snd (by assumption) ?_ | fail_if_no_progress with_reducible apply still_mk | dsimp only | split

theorem State.readWord32_still {s : State} (h : Still s0 s) :
    ∀ a2, Still s0 (State.readWord32 s a2).2 := by
  intro a2
  unfold State.readWord32
  repeat' first
      | with_reducible assumption | intro _ | with_reducible apply still_ite | with_reducible apply State.readReg_still
      | with_reducible apply still_foldl | with_reducible apply still_foldl1 | with_reducible apply still_foldl2
      | with_reducible refine still_fst (by assumption) ?_ | with_reducible refine still_snd (by assumption) ?_
      | fail_if_no_progress with_reducible apply still_mk | dsimp only | split

theorem State.readGated_still {s : State} (h : Still s0 s) :
    ∀ a2 a3 a4, Still s0 (State.readGated s a2 a3 a4).2 := by
  intro a2 a3 a4
  unfold State.readGated
  repeat' first
      | with_reducible assumption | intro _ | with_reducible apply still_ite | with_reducible apply still_foldl
      | with_reducible apply still_foldl1 | with_reducible apply still_foldl2 | with_reducible refine still_fst (by assumption) ?_
      | with_reducible refine still_snd (by assumption) ?_ | fail_if_no_progress with_reducible apply still_mk | dsimp only | split

theorem State.readWordAt_still {s : State} (h : Still s0 s) :
    ∀ a2, Still s0 (State.readWordAt s a2).2 := by
  intro a2
  unfold State.readWordAt
  repeat' first
      | with_reducible assumption | intro _ | with_reducible apply still_ite | with_reducible apply State.readWord32_still
      | with_reducible apply State.readGated_still | with_reducible apply still_foldl | with_reducible apply still_foldl1
      | with_reducible apply still_foldl2 | with_reducible refine still_fst (by assumption) ?_
      | with_reducible refine still_snd (by assumption) ?_ | fail_if_no_progress with_reducible apply still_mk | dsimp only | split

theorem State.readPair_still {s : State} (h : Still s0 s) : ∀ a r, State.readPair s a = some r → Still s0 r.2 := by
  intro a r hr
  unfold State.readPair at hr
  split at hr
  · split at hr
    · cases hr
    · split at hr
      · cases hr; split <;> exact h
      · cases hr; exact State.readReg_still h _ _
  · cases hr

theorem State.barRead_still {s : State} (h : Still s0 s) : ∀ a n, Still s0 (State.barRead s a n) := by
  intro a n
  unfold State.barRead
  split
  · split
    · exact still_mk (State.readPair_still h _ _ (by assumption))
    · exact still_mk (State.readWordAt_still (State.readWordAt_still h _) _)
  · exact still_mk (State.readWordAt_still h _)

end Sys2Proof.Machine
end

