-- ==== Sys2Proof/Laws/Still3.lean ====
section
/-! SUPPORT. What leaves every memory as it is, part 3. -/
namespace Sys2Proof.Machine

variable {s0 : State}

theorem execLowWordRead_still {s t : State} {a0 a1 a2} (ht : execLowWordRead a0 a1 a2 s = .next t) : Still s t := by
  unfold execLowWordRead at ht
  refine enter_still (Still.rfl' s) (fun x hx => ?_) _ _ t ht
  repeat' first
      | with_reducible assumption | intro _ | with_reducible apply still_ite | with_reducible apply still_whenever
      | with_reducible apply still_forSome | with_reducible apply State.barRead_still

theorem execHighWordRead_still {s t : State} {a0 a1 a2} (ht : execHighWordRead a0 a1 a2 s = .next t) : Still s t := by
  unfold execHighWordRead at ht
  refine enter_still (Still.rfl' s) (fun x hx => ?_) _ _ t ht
  repeat' first
      | with_reducible assumption | intro _ | with_reducible apply still_ite | with_reducible apply still_whenever
      | with_reducible apply still_forSome | with_reducible apply State.barRead_still

theorem execRcFieldRead_still {s t : State} {a0 a1 a2} (ht : execRcFieldRead a0 a1 a2 s = .next t) : Still s t := by
  unfold execRcFieldRead at ht
  refine enter_still (Still.rfl' s) (fun x hx => ?_) _ _ t ht
  repeat' first
      | with_reducible assumption | intro _ | with_reducible apply still_ite | with_reducible apply still_whenever
      | with_reducible apply still_forSome | with_reducible apply State.barRead_still

theorem execHeartbeat_still {s t : State} {a0 a1} (ht : execHeartbeat a0 a1 s = .next t) : Still s t := by
  unfold execHeartbeat at ht
  refine enter_still (Still.rfl' s) (fun x hx => ?_) _ _ t ht
  repeat' first
      | with_reducible assumption | intro _ | with_reducible apply still_ite | with_reducible apply still_whenever
      | with_reducible apply still_forSome | with_reducible apply still_whenever | with_reducible apply State.beat_still

theorem execHeartbeatLoss_still {s t : State} {a0 a1} (ht : execHeartbeatLoss a0 a1 s = .next t) : Still s t := by
  unfold execHeartbeatLoss at ht
  refine enter_still (Still.rfl' s) (fun x hx => ?_) _ _ t ht
  repeat' first
      | with_reducible assumption | intro _ | with_reducible apply still_ite | with_reducible apply still_whenever
      | with_reducible apply still_forSome | with_reducible apply still_whenever | with_reducible apply State.reportLow_still
      | with_reducible apply State.noteSilent_still | with_reducible apply State.dieLost_still | with_reducible apply still_foldl
      | with_reducible apply still_foldl1 | with_reducible refine still_fst (by assumption) ?_
      | with_reducible refine still_snd (by assumption) ?_ | fail_if_no_progress with_reducible apply still_mk | dsimp only | split

theorem execDieHeartbeatLoss_still {s t : State} {a0 a1} (ht : execDieHeartbeatLoss a0 a1 s = .next t) : Still s t := by
  unfold execDieHeartbeatLoss at ht
  refine enter_still (Still.rfl' s) (fun x hx => ?_) _ _ t ht
  repeat' first
      | with_reducible assumption | intro _ | with_reducible apply still_ite | with_reducible apply still_whenever
      | with_reducible apply still_forSome | with_reducible apply State.dieLost_still

theorem execJetFieldRemap_still {s t : State} {a0 a1 a2 a3} (ht : execJetFieldRemap a0 a1 a2 a3 s = .next t) : Still s t := by
  unfold execJetFieldRemap at ht
  refine enter_still (Still.rfl' s) (fun x hx => ?_) _ _ t ht
  repeat' first
      | with_reducible assumption | intro _ | with_reducible apply still_ite | with_reducible apply still_whenever
      | with_reducible apply still_forSome | with_reducible apply State.fieldRemap_still

theorem execFieldFuseBlown_still {s t : State} {a0 a1 a2} (ht : execFieldFuseBlown a0 a1 a2 s = .next t) : Still s t := by
  unfold execFieldFuseBlown at ht
  refine enter_still (Still.rfl' s) (fun x hx => ?_) _ _ t ht
  repeat' first
      | with_reducible assumption | intro _ | with_reducible apply still_ite | with_reducible apply still_whenever
      | with_reducible apply still_forSome | with_reducible apply still_setReg | with_reducible apply State.wr_still
      | with_reducible apply State.setRegBit_still

theorem execCisternPart_still {s t : State} {a0 a1 a2} (ht : execCisternPart a0 a1 a2 s = .next t) : Still s t := by
  unfold execCisternPart at ht
  refine enter_still (Still.rfl' s) (fun x hx => ?_) _ _ t ht
  repeat' first
      | with_reducible assumption | intro _ | with_reducible apply still_ite | with_reducible apply still_whenever
      | with_reducible apply still_forSome | with_reducible apply State.partWrite_still

theorem execCisternSteal_still {s t : State} {a0 a1} (ht : execCisternSteal a0 a1 s = .next t) : Still s t := by
  unfold execCisternSteal at ht
  refine enter_still (Still.rfl' s) (fun x hx => ?_) _ _ t ht
  repeat' first
      | with_reducible assumption | intro _ | with_reducible apply still_ite | with_reducible apply still_whenever
      | with_reducible apply still_forSome | with_reducible apply State.bump_still

theorem execCxlLinkDown_still {s t : State} {a0} (ht : execCxlLinkDown a0 s = .next t) : Still s t := by
  unfold execCxlLinkDown at ht
  refine enter_still (Still.rfl' s) (fun x hx => ?_) _ _ t ht
  repeat' first
      | with_reducible assumption | intro _ | with_reducible apply still_ite | with_reducible apply still_whenever
      | with_reducible apply still_forSome | with_reducible apply still_whenever | with_reducible apply State.reportLow_still
      | with_reducible apply still_foldl | with_reducible apply still_foldl1 | with_reducible refine still_fst (by assumption) ?_
      | with_reducible refine still_snd (by assumption) ?_ | fail_if_no_progress with_reducible apply still_mk

theorem execCxlLinkUp_still {s t : State} {a0} (ht : execCxlLinkUp a0 s = .next t) : Still s t := by
  unfold execCxlLinkUp at ht
  refine enter_still (Still.rfl' s) (fun x hx => ?_) _ _ t ht
  repeat' first
      | with_reducible assumption | intro _ | with_reducible apply still_ite | with_reducible apply still_whenever
      | with_reducible apply still_forSome | with_reducible apply still_foldl | with_reducible apply still_foldl1
      | with_reducible refine still_fst (by assumption) ?_ | with_reducible refine still_snd (by assumption) ?_
      | fail_if_no_progress with_reducible apply still_mk

theorem execRillFetchStart_still {s t : State} {a0 a1} (ht : execRillFetchStart a0 a1 s = .next t) : Still s t := by
  unfold execRillFetchStart at ht
  refine enter_still (Still.rfl' s) (fun x hx => ?_) _ _ t ht
  repeat' first
      | with_reducible assumption | intro _ | with_reducible apply still_ite | with_reducible apply still_whenever
      | with_reducible apply still_forSome | with_reducible apply State.rillFetchStart_still

theorem execSpoutTaskStart_still {s t : State} {a0 a1} (ht : execSpoutTaskStart a0 a1 s = .next t) : Still s t := by
  unfold execSpoutTaskStart at ht
  refine enter_still (Still.rfl' s) (fun x hx => ?_) _ _ t ht
  repeat' first
      | with_reducible assumption | intro _ | with_reducible apply still_ite | with_reducible apply still_whenever
      | with_reducible apply still_forSome | with_reducible apply still_whenever | with_reducible apply still_forSome
      | with_reducible apply State.taskStart_still

theorem execWcClaimResume_still {s t : State} {a0 a1} (ht : execWcClaimResume a0 a1 s = .next t) : Still s t := by
  unfold execWcClaimResume at ht
  refine enter_still (Still.rfl' s) (fun x hx => ?_) _ _ t ht
  refine still_forSome hx fun y _ hy => still_whenever hy fun z hz => ?_
  cases e : z.claim (x.ctxCore a1) with
  | none => exact hz
  | some r => exact State.result_still (State.modCore_still (State.claim_still hz _ r e) _ _) _ _ _

theorem execSemWaitAcquire_still {s t : State} {a0 a1 a2} (ht : execSemWaitAcquire a0 a1 a2 s = .next t) : Still s t := by
  unfold execSemWaitAcquire at ht
  refine enter_still (Still.rfl' s) (fun x hx => ?_) _ _ t ht
  repeat' first
      | with_reducible assumption | intro _ | with_reducible apply still_ite | with_reducible apply still_whenever
      | with_reducible apply still_forSome | with_reducible apply still_whenever | with_reducible apply still_forSome
      | with_reducible apply State.result_still | with_reducible apply State.semTake_still | with_reducible apply State.noteRace_still
      | with_reducible apply State.unblock_still

theorem execSemWaitDeadline_still {s t : State} {a0 a1} (ht : execSemWaitDeadline a0 a1 s = .next t) : Still s t := by
  unfold execSemWaitDeadline at ht
  refine enter_still (Still.rfl' s) (fun x hx => ?_) _ _ t ht
  repeat' first
      | with_reducible assumption | intro _ | with_reducible apply still_ite | with_reducible apply still_whenever
      | with_reducible apply still_forSome | with_reducible apply still_whenever | with_reducible apply still_forSome
      | with_reducible apply State.nondet_still | with_reducible apply State.result_still | with_reducible apply State.unblock_still

theorem execFence_still {s t : State} {a0 a1} (ht : execFence a0 a1 s = .next t) : Still s t := by
  unfold execFence at ht
  refine enter_still (Still.rfl' s) (fun x hx => ?_) _ _ t ht
  repeat' first
      | with_reducible assumption | intro _ | with_reducible apply still_ite | with_reducible apply still_whenever
      | with_reducible apply still_forSome | with_reducible apply State.actH_still | with_reducible apply State.startRunning_still

theorem execRingEnable_still {s t : State} {a0 a1 a2} (ht : execRingEnable a0 a1 a2 s = .next t) : Still s t := by
  unfold execRingEnable at ht
  refine enter_still (Still.rfl' s) (fun x hx => ?_) _ _ t ht
  repeat' first
      | with_reducible assumption | intro _ | with_reducible apply still_ite | with_reducible apply still_whenever
      | with_reducible apply still_forSome | with_reducible apply State.ringCtrlWrite_still

theorem execRingResume_still {s t : State} {a0 a1 a2} (ht : execRingResume a0 a1 a2 s = .next t) : Still s t := by
  unfold execRingResume at ht
  refine enter_still (Still.rfl' s) (fun x hx => ?_) _ _ t ht
  repeat' first
      | with_reducible assumption | intro _ | with_reducible apply still_ite | with_reducible apply still_whenever
      | with_reducible apply still_forSome | with_reducible apply State.ringResume_still

theorem execSliceFrozen_still {s t : State} {a0 a1} (ht : execSliceFrozen a0 a1 s = .next t) : Still s t := by
  unfold execSliceFrozen at ht
  refine enter_still (Still.rfl' s) (fun x hx => ?_) _ _ t ht
  repeat' first
      | with_reducible assumption | intro _ | with_reducible apply still_ite | with_reducible apply still_whenever
      | with_reducible apply still_forSome | with_reducible apply still_whenever | with_reducible apply State.setSliceState_still

theorem execKeyLoad_still {s t : State} {a0 a1 a2} (ht : execKeyLoad a0 a1 a2 s = .next t) : Still s t := by
  unfold execKeyLoad at ht
  refine enter_still (Still.rfl' s) (fun x hx => ?_) _ _ t ht
  repeat' first
      | with_reducible assumption | intro _ | with_reducible apply still_ite | with_reducible apply still_whenever
      | with_reducible apply still_forSome | with_reducible apply still_whenever | with_reducible apply State.keyCmdWrite_still

theorem execKeyErase_still {s t : State} {a0 a1 a2} (ht : execKeyErase a0 a1 a2 s = .next t) : Still s t := by
  unfold execKeyErase at ht
  refine enter_still (Still.rfl' s) (fun x hx => ?_) _ _ t ht
  repeat' first
      | with_reducible assumption | intro _ | with_reducible apply still_ite | with_reducible apply still_whenever
      | with_reducible apply still_forSome | with_reducible apply still_whenever | with_reducible apply State.keyCmdWrite_still

theorem execMemRangeWrite_still {s t : State} {a0 a1 a2 a3 a4} (ht : execMemRangeWrite a0 a1 a2 a3 a4 s = .next t) : Still s t := by
  unfold execMemRangeWrite at ht
  refine enter_still (Still.rfl' s) (fun x hx => ?_) _ _ t ht
  repeat' first
      | with_reducible assumption | intro _ | with_reducible apply still_ite | with_reducible apply still_whenever
      | with_reducible apply still_forSome | with_reducible apply State.rangeWrite_still

theorem execSliceBasinsWrite_still {s t : State} {a0 a1 a2} (ht : execSliceBasinsWrite a0 a1 a2 s = .next t) : Still s t := by
  unfold execSliceBasinsWrite at ht
  refine enter_still (Still.rfl' s) (fun x hx => ?_) _ _ t ht
  repeat' first
      | with_reducible assumption | intro _ | with_reducible apply still_ite | with_reducible apply still_whenever
      | with_reducible apply still_forSome | with_reducible apply State.basinsWrite_still

theorem execSliceResetComplete_still {s t : State} {a0 a1} (ht : execSliceResetComplete a0 a1 s = .next t) : Still s t := by
  unfold execSliceResetComplete at ht
  refine enter_still (Still.rfl' s) (fun x hx => ?_) _ _ t ht
  repeat' first
      | with_reducible assumption | intro _ | with_reducible apply still_ite | with_reducible apply still_whenever
      | with_reducible apply still_forSome | with_reducible apply still_whenever | with_reducible apply State.resetComplete_still

theorem execMarkerRefill_still {s t : State} {a0} (ht : execMarkerRefill a0 s = .next t) : Still s t := by
  unfold execMarkerRefill at ht
  refine enter_still (Still.rfl' s) (fun x hx => ?_) _ _ t ht
  repeat' first
      | with_reducible assumption | intro _ | with_reducible apply still_ite | with_reducible apply still_whenever
      | with_reducible apply still_forSome | with_reducible apply still_periodic | with_reducible apply still_each
      | with_reducible apply State.markerRefill_still | with_reducible apply State.remark_still

theorem execMarkerEnable_still {s t : State} {a0 a1 a2} (ht : execMarkerEnable a0 a1 a2 s = .next t) : Still s t := by
  unfold execMarkerEnable at ht
  refine enter_still (Still.rfl' s) (fun x hx => ?_) _ _ t ht
  repeat' first
      | with_reducible assumption | intro _ | with_reducible apply still_ite | with_reducible apply still_whenever
      | with_reducible apply still_forSome | with_reducible apply State.schedMarkWrite_still

theorem execWeightWrite_still {s t : State} {a0 a1 a2} (ht : execWeightWrite a0 a1 a2 s = .next t) : Still s t := by
  unfold execWeightWrite at ht
  refine enter_still (Still.rfl' s) (fun x hx => ?_) _ _ t ht
  repeat' first
      | with_reducible assumption | intro _ | with_reducible apply still_ite | with_reducible apply still_whenever
      | with_reducible apply still_forSome | with_reducible apply State.shareWrite_still

theorem execFixedShareWrite_still {s t : State} {a0 a1 a2} (ht : execFixedShareWrite a0 a1 a2 s = .next t) : Still s t := by
  unfold execFixedShareWrite at ht
  refine enter_still (Still.rfl' s) (fun x hx => ?_) _ _ t ht
  repeat' first
      | with_reducible assumption | intro _ | with_reducible apply still_ite | with_reducible apply still_whenever
      | with_reducible apply still_forSome | with_reducible apply State.shareWrite_still

theorem execYieldRequest_still {s t : State} {a0 a1} (ht : execYieldRequest a0 a1 s = .next t) : Still s t := by
  unfold execYieldRequest at ht
  refine enter_still (Still.rfl' s) (fun x hx => ?_) _ _ t ht
  repeat' first
      | with_reducible assumption | intro _ | with_reducible apply still_ite | with_reducible apply still_whenever
      | with_reducible apply still_forSome | with_reducible apply State.arbitrate_still

theorem execQuantumExpiry_still {s t : State} {a0 a1} (ht : execQuantumExpiry a0 a1 s = .next t) : Still s t := by
  unfold execQuantumExpiry at ht
  refine enter_still (Still.rfl' s) (fun x hx => ?_) _ _ t ht
  repeat' first
      | with_reducible assumption | intro _ | with_reducible apply still_ite | with_reducible apply still_whenever
      | with_reducible apply still_forSome | with_reducible apply State.arbitrate_still

theorem execYieldDrained_still {s t : State} {a0 a1} (ht : execYieldDrained a0 a1 s = .next t) : Still s t := by
  unfold execYieldDrained at ht
  refine enter_still (Still.rfl' s) (fun x hx => ?_) _ _ t ht
  repeat' first
      | with_reducible assumption | intro _ | with_reducible apply still_ite | with_reducible apply still_whenever
      | with_reducible apply still_forSome | with_reducible apply still_whenever | with_reducible apply still_forSome
      | with_reducible apply State.yieldDrained_still

theorem execEffectiveTierUpdate_still {s t : State} {a0} (ht : execEffectiveTierUpdate a0 s = .next t) : Still s t := by
  unfold execEffectiveTierUpdate at ht
  refine enter_still (Still.rfl' s) (fun x hx => ?_) _ _ t ht
  repeat' first
      | with_reducible assumption | intro _ | with_reducible apply still_ite | with_reducible apply still_whenever
      | with_reducible apply still_forSome | with_reducible apply State.updateTiers_still

theorem execGateListAct_still {s t : State} {a0 a1} (ht : execGateListAct a0 a1 s = .next t) : Still s t := by
  unfold execGateListAct at ht
  refine enter_still (Still.rfl' s) (fun x hx => ?_) _ _ t ht
  repeat' first
      | with_reducible assumption | intro _ | with_reducible apply still_ite | with_reducible apply still_whenever
      | with_reducible apply still_forSome | with_reducible apply State.wr_still | with_reducible apply still_whenever
      | with_reducible apply still_forSome | with_reducible apply State.setBasin_still | with_reducible apply State.showNextOpen_still
      | with_reducible apply State.showList_still

theorem execGuardBandBegin_still {s t : State} {a0 a1} (ht : execGuardBandBegin a0 a1 s = .next t) : Still s t := by
  unfold execGuardBandBegin at ht
  refine enter_still (Still.rfl' s) (fun x hx => ?_) _ _ t ht
  repeat' first
      | with_reducible assumption | intro _ | with_reducible apply still_ite | with_reducible apply still_whenever
      | with_reducible apply still_forSome | with_reducible apply still_whenever | with_reducible apply still_forSome
      | with_reducible apply State.guardBegin_still

theorem execWindowClose_still {s t : State} {a0 a1} (ht : execWindowClose a0 a1 s = .next t) : Still s t := by
  unfold execWindowClose at ht
  refine enter_still (Still.rfl' s) (fun x hx => ?_) _ _ t ht
  repeat' first
      | with_reducible assumption | intro _ | with_reducible apply still_ite | with_reducible apply still_whenever
      | with_reducible apply still_forSome | with_reducible apply State.wr_still | with_reducible apply State.bump_still
      | with_reducible apply still_whenever | with_reducible apply State.closeWindow_still

theorem execWindowExtendedClose_still {s t : State} {a0 a1} (ht : execWindowExtendedClose a0 a1 s = .next t) : Still s t := by
  unfold execWindowExtendedClose at ht
  refine enter_still (Still.rfl' s) (fun x hx => ?_) _ _ t ht
  repeat' first
      | with_reducible assumption | intro _ | with_reducible apply still_ite | with_reducible apply still_whenever
      | with_reducible apply still_forSome | with_reducible apply still_whenever | with_reducible apply State.closeWindow_still

theorem execCarrierEnable_still {s t : State} {a0 a1 a2} (ht : execCarrierEnable a0 a1 a2 s = .next t) : Still s t := by
  unfold execCarrierEnable at ht
  refine enter_still (Still.rfl' s) (fun x hx => ?_) _ _ t ht
  repeat' first
      | with_reducible assumption | intro _ | with_reducible apply still_ite | with_reducible apply still_whenever
      | with_reducible apply still_forSome | with_reducible apply State.carrierWrite_still

theorem execDlSymbolEmission_still {s t : State} {a0 a1 a2 a3} (ht : execDlSymbolEmission a0 a1 a2 a3 s = .next t) : Still s t := by
  unfold execDlSymbolEmission at ht
  refine enter_still (Still.rfl' s) (fun x hx => ?_) _ _ t ht
  repeat' first
      | with_reducible assumption | intro _ | with_reducible apply still_ite | with_reducible apply still_whenever
      | with_reducible apply still_forSome | with_reducible apply still_whenever | with_reducible apply State.markSymbol_still
      | with_reducible apply State.emitSymbol_still

theorem execRadioReservedWrite_still {s t : State} {a0 a1} (ht : execRadioReservedWrite a0 a1 s = .next t) : Still s t := by
  unfold execRadioReservedWrite at ht
  refine enter_still (Still.rfl' s) (fun x hx => ?_) _ _ t ht
  repeat' first
      | with_reducible assumption | intro _ | with_reducible apply still_ite | with_reducible apply still_whenever
      | with_reducible apply still_forSome | with_reducible apply State.reservedWrite_still

theorem execRadioEnable_still {s t : State} {a0 a1} (ht : execRadioEnable a0 a1 s = .next t) : Still s t := by
  unfold execRadioEnable at ht
  refine enter_still (Still.rfl' s) (fun x hx => ?_) _ _ t ht
  repeat' first
      | with_reducible assumption | intro _ | with_reducible apply still_ite | with_reducible apply still_whenever
      | with_reducible apply still_forSome | with_reducible apply State.radioCtrlWrite_still

theorem execRadioSpoutOp_still {s t : State} {a0 a1} (ht : execRadioSpoutOp a0 a1 s = .next t) : Still s t := by
  unfold execRadioSpoutOp at ht
  refine enter_still (Still.rfl' s) (fun x hx => ?_) _ _ t ht
  repeat' first
      | with_reducible assumption | intro _ | with_reducible apply still_ite | with_reducible apply still_whenever
      | with_reducible apply still_forSome | with_reducible apply still_whenever | with_reducible apply still_forSome
      | with_reducible apply State.takeStart_still | with_reducible apply State.radioSpoutStart_still

theorem execCplaneTx_still {s t : State} {a0 a1 a2} (ht : execCplaneTx a0 a1 a2 s = .next t) : Still s t := by
  unfold execCplaneTx at ht
  refine enter_still (Still.rfl' s) (fun x hx => ?_) _ _ t ht
  repeat' first
      | with_reducible assumption | intro _ | with_reducible apply still_ite | with_reducible apply still_whenever
      | with_reducible apply still_forSome | with_reducible apply still_forSome | with_reducible apply State.cplaneStart_still

theorem execSpoutBudgetStop_still {s t : State} {a0 a1} (ht : execSpoutBudgetStop a0 a1 s = .next t) : Still s t := by
  unfold execSpoutBudgetStop at ht
  refine enter_still (Still.rfl' s) (fun x hx => ?_) _ _ t ht
  repeat' first
      | with_reducible assumption | intro _ | with_reducible apply still_ite | with_reducible apply still_whenever
      | with_reducible apply still_forSome | with_reducible apply still_whenever | with_reducible apply still_forSome
      | with_reducible apply State.setBasin_still | with_reducible apply State.stopCores_still

theorem execMigrationSwitch_still {s t : State} {a0 a1} (ht : execMigrationSwitch a0 a1 s = .next t) : Still s t := by
  unfold execMigrationSwitch at ht
  refine enter_still (Still.rfl' s) (fun x hx => ?_) _ _ t ht
  repeat' first
      | with_reducible assumption | intro _ | with_reducible apply still_ite | with_reducible apply still_whenever
      | with_reducible apply still_forSome | with_reducible apply still_whenever | with_reducible apply still_forSome
      | with_reducible apply State.migSwitch_still

theorem execSyncRx_still {s t : State} {a0 a1} (ht : execSyncRx a0 a1 s = .next t) : Still s t := by
  unfold execSyncRx at ht
  refine enter_still (Still.rfl' s) (fun x hx => ?_) _ _ t ht
  repeat' first
      | with_reducible assumption | intro _ | with_reducible apply still_ite | with_reducible apply still_whenever
      | with_reducible apply still_forSome | with_reducible apply still_forSome | with_reducible apply still_each
      | with_reducible apply State.ptpUsed_still | with_reducible apply State.takeSync_still

theorem execFollowUpRx_still {s t : State} {a0 a1} (ht : execFollowUpRx a0 a1 s = .next t) : Still s t := by
  unfold execFollowUpRx at ht
  refine enter_still (Still.rfl' s) (fun x hx => ?_) _ _ t ht
  repeat' first
      | with_reducible assumption | intro _ | with_reducible apply still_ite | with_reducible apply still_whenever
      | with_reducible apply still_forSome | with_reducible apply still_forSome | with_reducible apply still_each
      | with_reducible apply State.ptpUsed_still | with_reducible apply State.takeFollowUp_still

theorem execDelayRespRx_still {s t : State} {a0 a1} (ht : execDelayRespRx a0 a1 s = .next t) : Still s t := by
  unfold execDelayRespRx at ht
  refine enter_still (Still.rfl' s) (fun x hx => ?_) _ _ t ht
  repeat' first
      | with_reducible assumption | intro _ | with_reducible apply still_ite | with_reducible apply still_whenever
      | with_reducible apply still_forSome | with_reducible apply still_forSome | with_reducible apply still_each
      | with_reducible apply State.ptpUsed_still | with_reducible apply State.takeDelayResp_still

theorem execDelayReqRx_still {s t : State} {a0 a1} (ht : execDelayReqRx a0 a1 s = .next t) : Still s t := by
  unfold execDelayReqRx at ht
  refine enter_still (Still.rfl' s) (fun x hx => ?_) _ _ t ht
  repeat' first
      | with_reducible assumption | intro _ | with_reducible apply still_ite | with_reducible apply still_whenever
      | with_reducible apply still_forSome | with_reducible apply still_forSome | with_reducible apply State.ptpUsed_still
      | with_reducible apply State.answerDelayReq_still

theorem execDelayReqTx_still {s t : State} {a0 a1} (ht : execDelayReqTx a0 a1 s = .next t) : Still s t := by
  unfold execDelayReqTx at ht
  refine enter_still (Still.rfl' s) (fun x hx => ?_) _ _ t ht
  repeat' first
      | with_reducible assumption | intro _ | with_reducible apply still_ite | with_reducible apply still_whenever
      | with_reducible apply still_forSome | with_reducible apply still_whenever | with_reducible apply State.sendDelayReq_still

theorem execMasterSyncTx_still {s t : State} {a0 a1} (ht : execMasterSyncTx a0 a1 s = .next t) : Still s t := by
  unfold execMasterSyncTx at ht
  refine enter_still (Still.rfl' s) (fun x hx => ?_) _ _ t ht
  repeat' first
      | with_reducible assumption | intro _ | with_reducible apply still_ite | with_reducible apply still_whenever
      | with_reducible apply still_forSome | with_reducible apply still_whenever | with_reducible apply State.sendSync_still

theorem execHoldoverEntry_still {s t : State} {a0} (ht : execHoldoverEntry a0 s = .next t) : Still s t := by
  unfold execHoldoverEntry at ht
  refine enter_still (Still.rfl' s) (fun x hx => ?_) _ _ t ht
  repeat' first
      | with_reducible assumption | intro _ | with_reducible apply still_ite | with_reducible apply still_whenever
      | with_reducible apply still_forSome | with_reducible apply still_whenever | with_reducible apply State.setTimeState_still
      | with_reducible apply State.setRate_still

theorem execFreeRunWrite_still {s t : State} {a0 a1} (ht : execFreeRunWrite a0 a1 s = .next t) : Still s t := by
  unfold execFreeRunWrite at ht
  refine enter_still (Still.rfl' s) (fun x hx => ?_) _ _ t ht
  repeat' first
      | with_reducible assumption | intro _ | with_reducible apply still_ite | with_reducible apply still_whenever
      | with_reducible apply still_forSome | with_reducible apply State.timeCtrlWrite_still

theorem execTrackSelWrite_still {s t : State} {a0 a1} (ht : execTrackSelWrite a0 a1 s = .next t) : Still s t := by
  unfold execTrackSelWrite at ht
  refine enter_still (Still.rfl' s) (fun x hx => ?_) _ _ t ht
  repeat' first
      | with_reducible assumption | intro _ | with_reducible apply still_ite | with_reducible apply still_whenever
      | with_reducible apply still_forSome | with_reducible apply State.timeCtrlWrite_still

theorem execSynceMeasure_still {s t : State} {a0 a1} (ht : execSynceMeasure a0 a1 s = .next t) : Still s t := by
  unfold execSynceMeasure at ht
  refine enter_still (Still.rfl' s) (fun x hx => ?_) _ _ t ht
  repeat' first
      | with_reducible assumption | intro _ | with_reducible apply still_ite | with_reducible apply still_whenever
      | with_reducible apply still_forSome | with_reducible apply still_whenever | with_reducible apply State.synceTake_still
      | with_reducible apply still_foldl | with_reducible apply still_foldl1 | with_reducible refine still_fst (by assumption) ?_
      | with_reducible refine still_snd (by assumption) ?_ | fail_if_no_progress with_reducible apply still_mk

theorem execSynceLoss_still {s t : State} {a0} (ht : execSynceLoss a0 s = .next t) : Still s t := by
  unfold execSynceLoss at ht
  refine enter_still (Still.rfl' s) (fun x hx => ?_) _ _ t ht
  repeat' first
      | with_reducible assumption | intro _ | with_reducible apply still_ite | with_reducible apply still_whenever
      | with_reducible apply still_forSome | with_reducible apply State.wr_still | with_reducible apply still_foldl
      | with_reducible apply still_foldl1 | with_reducible refine still_fst (by assumption) ?_
      | with_reducible refine still_snd (by assumption) ?_ | fail_if_no_progress with_reducible apply still_mk

theorem execOutputEnable_still {s t : State} {a0 a1 a2} (ht : execOutputEnable a0 a1 a2 s = .next t) : Still s t := by
  unfold execOutputEnable at ht
  refine enter_still (Still.rfl' s) (fun x hx => ?_) _ _ t ht
  repeat' first
      | with_reducible assumption | intro _ | with_reducible apply still_ite | with_reducible apply still_whenever
      | with_reducible apply still_forSome | with_reducible apply State.outCtrlWrite_still

theorem execOutputDisable_still {s t : State} {a0 a1 a2} (ht : execOutputDisable a0 a1 a2 s = .next t) : Still s t := by
  unfold execOutputDisable at ht
  refine enter_still (Still.rfl' s) (fun x hx => ?_) _ _ t ht
  repeat' first
      | with_reducible assumption | intro _ | with_reducible apply still_ite | with_reducible apply still_whenever
      | with_reducible apply still_forSome | with_reducible apply State.outCtrlWrite_still

theorem execOutputEdge_still {s t : State} {a0 a1} (ht : execOutputEdge a0 a1 s = .next t) : Still s t := by
  unfold execOutputEdge at ht
  refine enter_still (Still.rfl' s) (fun x hx => ?_) _ _ t ht
  repeat' first
      | with_reducible assumption | intro _ | with_reducible apply still_ite | with_reducible apply still_whenever
      | with_reducible apply still_forSome | with_reducible apply still_whenever | with_reducible apply State.pinEdge_still

theorem execCaptureEdge_still {s t : State} {a0 a1 a2} (ht : execCaptureEdge a0 a1 a2 s = .next t) : Still s t := by
  unfold execCaptureEdge at ht
  refine enter_still (Still.rfl' s) (fun x hx => ?_) _ _ t ht
  repeat' first
      | with_reducible assumption | intro _ | with_reducible apply still_ite | with_reducible apply still_whenever
      | with_reducible apply still_forSome | with_reducible apply State.captureEdge_still

theorem execCapMetaRead_still {s t : State} {a0 a1} (ht : execCapMetaRead a0 a1 s = .next t) : Still s t := by
  unfold execCapMetaRead at ht
  refine enter_still (Still.rfl' s) (fun x hx => ?_) _ _ t ht
  repeat' first
      | with_reducible assumption | intro _ | with_reducible apply still_ite | with_reducible apply still_whenever
      | with_reducible apply still_forSome | with_reducible apply State.capMetaRead_still

theorem execLaunchArm_still {s t : State} {a0 a1 a2} (ht : execLaunchArm a0 a1 a2 s = .next t) : Still s t := by
  unfold execLaunchArm at ht
  refine enter_still (Still.rfl' s) (fun x hx => ?_) _ _ t ht
  repeat' first
      | with_reducible assumption | intro _ | with_reducible apply still_ite | with_reducible apply still_whenever
      | with_reducible apply still_forSome | with_reducible apply State.launchCtrlWrite_still

theorem execLaunchDisarm_still {s t : State} {a0 a1 a2} (ht : execLaunchDisarm a0 a1 a2 s = .next t) : Still s t := by
  unfold execLaunchDisarm at ht
  refine enter_still (Still.rfl' s) (fun x hx => ?_) _ _ t ht
  repeat' first
      | with_reducible assumption | intro _ | with_reducible apply still_ite | with_reducible apply still_whenever
      | with_reducible apply still_forSome | with_reducible apply State.launchCtrlWrite_still

theorem execLaunchFire_still {s t : State} {a0 a1} (ht : execLaunchFire a0 a1 s = .next t) : Still s t := by
  unfold execLaunchFire at ht
  refine enter_still (Still.rfl' s) (fun x hx => ?_) _ _ t ht
  repeat' first
      | with_reducible assumption | intro _ | with_reducible apply still_ite | with_reducible apply still_whenever
      | with_reducible apply still_forSome | with_reducible apply still_setReg | with_reducible apply State.wr_still
      | with_reducible apply State.raise_still | with_reducible apply still_whenever | with_reducible apply still_foldl
      | with_reducible apply still_foldl1 | with_reducible refine still_fst (by assumption) ?_
      | with_reducible refine still_snd (by assumption) ?_ | fail_if_no_progress with_reducible apply still_mk

theorem execEthLinkChange_still {s t : State} {a0 a1 a2 a3} (ht : execEthLinkChange a0 a1 a2 a3 s = .next t) : Still s t := by
  unfold execEthLinkChange at ht
  refine enter_still (Still.rfl' s) (fun x hx => ?_) _ _ t ht
  repeat' first
      | with_reducible assumption | intro _ | with_reducible apply still_ite | with_reducible apply still_whenever
      | with_reducible apply still_forSome | with_reducible apply State.wr_still

theorem execForwardEnqueue_still {s t : State} {a0 a1} (ht : execForwardEnqueue a0 a1 s = .next t) : Still s t := by
  unfold execForwardEnqueue at ht
  refine enter_still (Still.rfl' s) (fun x hx => ?_) _ _ t ht
  repeat' first
      | with_reducible assumption | intro _ | with_reducible apply still_ite | with_reducible apply still_whenever
      | with_reducible apply still_forSome | with_reducible apply still_whenever | with_reducible apply still_forSome
      | with_reducible apply State.setEth_still | with_reducible apply State.pump_still | with_reducible apply State.reach_still

theorem execEthMarkerRefill_still {s t : State} {a0} (ht : execEthMarkerRefill a0 s = .next t) : Still s t := by
  unfold execEthMarkerRefill at ht
  refine enter_still (Still.rfl' s) (fun x hx => ?_) _ _ t ht
  repeat' first
      | with_reducible assumption | intro _ | with_reducible apply still_ite | with_reducible apply still_whenever
      | with_reducible apply still_forSome | with_reducible apply still_periodic | with_reducible apply still_each
      | with_reducible apply State.tcRefill_still

theorem execGclArm_still {s t : State} {a0 a1 a2} (ht : execGclArm a0 a1 a2 s = .next t) : Still s t := by
  unfold execGclArm at ht
  refine enter_still (Still.rfl' s) (fun x hx => ?_) _ _ t ht
  repeat' first
      | with_reducible assumption | intro _ | with_reducible apply still_ite | with_reducible apply still_whenever
      | with_reducible apply still_forSome | with_reducible apply State.gclActWrite_still

theorem execGclSwitch_still {s t : State} {a0 a1} (ht : execGclSwitch a0 a1 s = .next t) : Still s t := by
  unfold execGclSwitch at ht
  refine enter_still (Still.rfl' s) (fun x hx => ?_) _ _ t ht
  repeat' first
      | with_reducible assumption | intro _ | with_reducible apply still_ite | with_reducible apply still_whenever
      | with_reducible apply still_forSome | with_reducible apply State.wr_still | with_reducible apply still_whenever
      | with_reducible apply still_forSome | with_reducible apply State.setEth_still

theorem execFlitReplay_still {s t : State} {a0 a1} (ht : execFlitReplay a0 a1 s = .next t) : Still s t := by
  unfold execFlitReplay at ht
  refine enter_still (Still.rfl' s) (fun x hx => ?_) _ _ t ht
  repeat' first
      | with_reducible assumption | intro _ | with_reducible apply still_ite | with_reducible apply still_whenever
      | with_reducible apply still_forSome | with_reducible apply State.bump_still | with_reducible apply still_whenever
      | with_reducible apply State.reportLow_still

theorem execAqdLinkDown_still {s t : State} {a0 a1} (ht : execAqdLinkDown a0 a1 s = .next t) : Still s t := by
  unfold execAqdLinkDown at ht
  refine enter_still (Still.rfl' s) (fun x hx => ?_) _ _ t ht
  repeat' first
      | with_reducible assumption | intro _ | with_reducible apply still_ite | with_reducible apply still_whenever
      | with_reducible apply still_forSome | with_reducible apply State.wr_still | with_reducible apply State.showLanes_still

theorem execAqdLinkUp_still {s t : State} {a0 a1 a2 a3 a4} (ht : execAqdLinkUp a0 a1 a2 a3 a4 s = .next t) : Still s t := by
  unfold execAqdLinkUp at ht
  refine enter_still (Still.rfl' s) (fun x hx => ?_) _ _ t ht
  repeat' first
      | with_reducible assumption | intro _ | with_reducible apply still_ite | with_reducible apply still_whenever
      | with_reducible apply still_forSome | with_reducible apply State.wr_still | with_reducible apply still_whenever
      | with_reducible apply State.reportLow_still | with_reducible apply State.watchRoutes_still

theorem execAqdTrainTimeout_still {s t : State} {a0 a1 a2} (ht : execAqdTrainTimeout a0 a1 a2 s = .next t) : Still s t := by
  unfold execAqdTrainTimeout at ht
  refine enter_still (Still.rfl' s) (fun x hx => ?_) _ _ t ht
  repeat' first
      | with_reducible assumption | intro _ | with_reducible apply still_ite | with_reducible apply still_whenever
      | with_reducible apply still_forSome | with_reducible apply still_whenever | with_reducible apply State.reportLow_still
      | with_reducible apply still_each

theorem execRequestExpiry_still {s t : State} {a0 a1 a2} (ht : execRequestExpiry a0 a1 a2 s = .next t) : Still s t := by
  unfold execRequestExpiry at ht
  refine enter_still (Still.rfl' s) (fun x hx => ?_) _ _ t ht
  repeat' first
      | with_reducible assumption | intro _ | with_reducible apply still_ite | with_reducible apply still_whenever
      | with_reducible apply still_forSome | with_reducible apply still_whenever | with_reducible apply still_forSome
      | with_reducible apply State.homeExpire_still | with_reducible apply State.inputExpire_still
      | with_reducible apply State.portExpire_still

theorem execAqdRetry_still {s t : State} {a0 a1} (ht : execAqdRetry a0 a1 s = .next t) : Still s t := by
  unfold execAqdRetry at ht
  refine enter_still (Still.rfl' s) (fun x hx => ?_) _ _ t ht
  repeat' first
      | with_reducible assumption | intro _ | with_reducible apply still_ite | with_reducible apply still_whenever
      | with_reducible apply still_forSome | with_reducible apply State.bump_still | with_reducible apply still_whenever
      | with_reducible apply still_forSome | with_reducible apply State.chargeAqd_still | with_reducible apply State.portTx_still
      | with_reducible apply State.modSent_still

theorem execShadowFillDone_still {s t : State} {a0 a1} (ht : execShadowFillDone a0 a1 s = .next t) : Still s t := by
  unfold execShadowFillDone at ht
  refine enter_still (Still.rfl' s) (fun x hx => ?_) _ _ t ht
  repeat' first
      | with_reducible assumption | intro _ | with_reducible apply still_ite | with_reducible apply still_whenever
      | with_reducible apply still_forSome | with_reducible apply State.wr_still | with_reducible apply State.bump_still
      | with_reducible apply still_forSome | with_reducible apply State.setShadow_still

theorem execShadowPendingTimeout_still {s t : State} {a0 a1} (ht : execShadowPendingTimeout a0 a1 s = .next t) : Still s t := by
  unfold execShadowPendingTimeout at ht
  refine enter_still (Still.rfl' s) (fun x hx => ?_) _ _ t ht
  repeat' first
      | with_reducible assumption | intro _ | with_reducible apply still_ite | with_reducible apply still_whenever
      | with_reducible apply still_forSome | with_reducible apply still_whenever | with_reducible apply still_forSome
      | with_reducible apply State.shadowUnmatched_still

theorem execDetStepWrite_still {s t : State} {a0 a1 a2} (ht : execDetStepWrite a0 a1 a2 s = .next t) : Still s t := by
  unfold execDetStepWrite at ht
  refine enter_still (Still.rfl' s) (fun x hx => ?_) _ _ t ht
  repeat' first
      | with_reducible assumption | intro _ | with_reducible apply still_ite | with_reducible apply still_whenever
      | with_reducible apply still_forSome | with_reducible apply State.detStepWrite_still

theorem execErrorPairAssert_still {s t : State} {a0} (ht : execErrorPairAssert a0 s = .next t) : Still s t := by
  unfold execErrorPairAssert at ht
  refine enter_still (Still.rfl' s) (fun x hx => ?_) _ _ t ht
  repeat' first
      | with_reducible assumption | intro _ | with_reducible apply still_ite | with_reducible apply still_whenever
      | with_reducible apply still_forSome | with_reducible apply State.wr_still | with_reducible apply still_whenever
      | with_reducible apply still_foldl | with_reducible apply still_foldl1 | with_reducible refine still_fst (by assumption) ?_
      | with_reducible refine still_snd (by assumption) ?_ | fail_if_no_progress with_reducible apply still_mk

theorem execFenceSet_still {s t : State} {a0 a1} (ht : execFenceSet a0 a1 s = .next t) : Still s t := by
  unfold execFenceSet at ht
  refine enter_still (Still.rfl' s) (fun x hx => ?_) _ _ t ht
  repeat' first
      | with_reducible assumption | intro _ | with_reducible apply still_ite | with_reducible apply still_whenever
      | with_reducible apply still_forSome | with_reducible apply still_whenever | with_reducible apply State.fenceCmdWrite_still

theorem execFenceClear_still {s t : State} {a0 a1} (ht : execFenceClear a0 a1 s = .next t) : Still s t := by
  unfold execFenceClear at ht
  refine enter_still (Still.rfl' s) (fun x hx => ?_) _ _ t ht
  repeat' first
      | with_reducible assumption | intro _ | with_reducible apply still_ite | with_reducible apply still_whenever
      | with_reducible apply still_forSome | with_reducible apply still_whenever | with_reducible apply State.fenceCmdWrite_still

theorem execQuietWindowClose_still {s t : State} {a0 a1} (ht : execQuietWindowClose a0 a1 s = .next t) : Still s t := by
  unfold execQuietWindowClose at ht
  refine enter_still (Still.rfl' s) (fun x hx => ?_) _ _ t ht
  repeat' first
      | with_reducible assumption | intro _ | with_reducible apply still_ite | with_reducible apply still_whenever
      | with_reducible apply still_forSome | with_reducible apply still_whenever | with_reducible apply still_forSome
      | with_reducible apply State.setItem_still | with_reducible apply State.testBegin_still

theorem execDriverMarker_still {s t : State} {a0 a1} (ht : execDriverMarker a0 a1 s = .next t) : Still s t := by
  unfold execDriverMarker at ht
  refine enter_still (Still.rfl' s) (fun x hx => ?_) _ _ t ht
  repeat' first
      | with_reducible assumption | intro _ | with_reducible apply still_ite | with_reducible apply still_whenever
      | with_reducible apply still_forSome | with_reducible apply State.markWrite_still

theorem execSpillwayHeartbeat_still {s t : State} {a0} (ht : execSpillwayHeartbeat a0 s = .next t) : Still s t := by
  unfold execSpillwayHeartbeat at ht
  refine enter_still (Still.rfl' s) (fun x hx => ?_) _ _ t ht
  repeat' first
      | with_reducible assumption | intro _ | with_reducible apply still_ite | with_reducible apply still_whenever
      | with_reducible apply still_forSome | with_reducible apply still_whenever | with_reducible apply still_foldl
      | with_reducible apply still_foldl1 | with_reducible refine still_fst (by assumption) ?_
      | with_reducible refine still_snd (by assumption) ?_ | fail_if_no_progress with_reducible apply still_mk

theorem execSpillwayLoss_still {s t : State} {a0} (ht : execSpillwayLoss a0 s = .next t) : Still s t := by
  unfold execSpillwayLoss at ht
  refine enter_still (Still.rfl' s) (fun x hx => ?_) _ _ t ht
  repeat' first
      | with_reducible assumption | intro _ | with_reducible apply still_ite | with_reducible apply still_whenever
      | with_reducible apply still_forSome | with_reducible apply still_whenever | with_reducible apply State.freezeSilt_still
      | with_reducible apply still_foldl | with_reducible apply still_foldl1 | with_reducible refine still_fst (by assumption) ?_
      | with_reducible refine still_snd (by assumption) ?_ | fail_if_no_progress with_reducible apply still_mk

theorem execHealthDecay_still {s t : State} {a0} (ht : execHealthDecay a0 s = .next t) : Still s t := by
  unfold execHealthDecay at ht
  refine enter_still (Still.rfl' s) (fun x hx => ?_) _ _ t ht
  repeat' first
      | with_reducible assumption | intro _ | with_reducible apply still_ite | with_reducible apply still_whenever
      | with_reducible apply still_forSome | with_reducible apply State.wr_still | with_reducible apply still_periodic
      | with_reducible apply still_each | with_reducible apply State.scoreChange_still

theorem execGovernorPeriod_still {s t : State} {a0} (ht : execGovernorPeriod a0 s = .next t) : Still s t := by
  unfold execGovernorPeriod at ht
  refine enter_still (Still.rfl' s) (fun x hx => ?_) _ _ t ht
  repeat' first
      | with_reducible assumption | intro _ | with_reducible apply still_ite | with_reducible apply still_whenever
      | with_reducible apply still_forSome | with_reducible apply still_periodic | with_reducible apply State.governor_still

theorem execBasinStepChange_still {s t : State} {a0 a1} (ht : execBasinStepChange a0 a1 s = .next t) : Still s t := by
  unfold execBasinStepChange at ht
  refine enter_still (Still.rfl' s) (fun x hx => ?_) _ _ t ht
  repeat' first
      | with_reducible assumption | intro _ | with_reducible apply still_ite | with_reducible apply still_whenever
      | with_reducible apply still_forSome | with_reducible apply still_forSome | with_reducible apply still_foldl
      | with_reducible apply still_foldl1 | with_reducible refine still_fst (by assumption) ?_
      | with_reducible refine still_snd (by assumption) ?_ | fail_if_no_progress with_reducible apply still_mk

theorem execDroop_still {s t : State} {a0 a1 a2} (ht : execDroop a0 a1 a2 s = .next t) : Still s t := by
  unfold execDroop at ht
  refine enter_still (Still.rfl' s) (fun x hx => ?_) _ _ t ht
  repeat' first
      | with_reducible assumption | intro _ | with_reducible apply still_ite | with_reducible apply still_whenever
      | with_reducible apply still_forSome | with_reducible apply still_whenever | with_reducible apply State.stretch_still
      | with_reducible apply State.droop_still

theorem execDroopRecovery_still {s t : State} {a0 a1 a2} (ht : execDroopRecovery a0 a1 a2 s = .next t) : Still s t := by
  unfold execDroopRecovery at ht
  refine enter_still (Still.rfl' s) (fun x hx => ?_) _ _ t ht
  repeat' first
      | with_reducible assumption | intro _ | with_reducible apply still_ite | with_reducible apply still_whenever
      | with_reducible apply still_forSome | with_reducible apply still_whenever | with_reducible apply State.stretch_still
      | with_reducible apply still_foldl | with_reducible apply still_foldl1 | with_reducible refine still_fst (by assumption) ?_
      | with_reducible refine still_snd (by assumption) ?_ | fail_if_no_progress with_reducible apply still_mk

theorem execStretchReport_still {s t : State} {a0 a1} (ht : execStretchReport a0 a1 s = .next t) : Still s t := by
  unfold execStretchReport at ht
  refine enter_still (Still.rfl' s) (fun x hx => ?_) _ _ t ht
  repeat' first
      | with_reducible assumption | intro _ | with_reducible apply still_ite | with_reducible apply still_whenever
      | with_reducible apply still_forSome | with_reducible apply still_whenever | with_reducible apply State.reportLow_still
      | with_reducible apply still_foldl | with_reducible apply still_foldl1 | with_reducible refine still_fst (by assumption) ?_
      | with_reducible refine still_snd (by assumption) ?_ | fail_if_no_progress with_reducible apply still_mk

theorem execSlewRefill_still {s t : State} {a0} (ht : execSlewRefill a0 s = .next t) : Still s t := by
  unfold execSlewRefill at ht
  refine enter_still (Still.rfl' s) (fun x hx => ?_) _ _ t ht
  repeat' first
      | with_reducible assumption | intro _ | with_reducible apply still_ite | with_reducible apply still_whenever
      | with_reducible apply still_forSome | with_reducible apply State.bump_still | with_reducible apply still_periodic
      | with_reducible apply State.setSlewTokens_still

theorem execSlewStartGrant_still {s t : State} {a0} (ht : execSlewStartGrant a0 s = .next t) : Still s t := by
  unfold execSlewStartGrant at ht
  refine enter_still (Still.rfl' s) (fun x hx => ?_) _ _ t ht
  repeat' first
      | with_reducible assumption | intro _ | with_reducible apply still_ite | with_reducible apply still_whenever
      | with_reducible apply still_forSome | with_reducible apply State.grantStart_still

theorem execRampDownEnd_still {s t : State} {a0 a1} (ht : execRampDownEnd a0 a1 s = .next t) : Still s t := by
  unfold execRampDownEnd at ht
  refine enter_still (Still.rfl' s) (fun x hx => ?_) _ _ t ht
  repeat' first
      | with_reducible assumption | intro _ | with_reducible apply still_ite | with_reducible apply still_whenever
      | with_reducible apply still_forSome | with_reducible apply still_foldl | with_reducible apply still_foldl1
      | with_reducible refine still_fst (by assumption) ?_ | with_reducible refine still_snd (by assumption) ?_
      | fail_if_no_progress with_reducible apply still_mk

theorem execBasinGateReq_still {s t : State} {a0 a1} (ht : execBasinGateReq a0 a1 s = .next t) : Still s t := by
  unfold execBasinGateReq at ht
  refine enter_still (Still.rfl' s) (fun x hx => ?_) _ _ t ht
  repeat' first
      | with_reducible assumption | intro _ | with_reducible apply still_ite | with_reducible apply still_whenever
      | with_reducible apply still_forSome | with_reducible apply State.gateReqWrite_still

theorem execBasinWakeReq_still {s t : State} {a0 a1} (ht : execBasinWakeReq a0 a1 s = .next t) : Still s t := by
  unfold execBasinWakeReq at ht
  refine enter_still (Still.rfl' s) (fun x hx => ?_) _ _ t ht
  repeat' first
      | with_reducible assumption | intro _ | with_reducible apply still_ite | with_reducible apply still_whenever
      | with_reducible apply still_forSome | with_reducible apply State.wakeReqWrite_still

theorem execWakeRampDone_still {s t : State} {a0 a1} (ht : execWakeRampDone a0 a1 s = .next t) : Still s t := by
  unfold execWakeRampDone at ht
  refine enter_still (Still.rfl' s) (fun x hx => ?_) _ _ t ht
  repeat' first
      | with_reducible assumption | intro _ | with_reducible apply still_ite | with_reducible apply still_whenever
      | with_reducible apply still_forSome | with_reducible apply still_whenever | with_reducible apply State.setBasin_still
      | with_reducible apply State.beginZero_still | with_reducible apply State.startRamps_still

theorem execEnergyMeterSample_still {s t : State} {a0 a1 a2} (ht : execEnergyMeterSample a0 a1 a2 s = .next t) : Still s t := by
  unfold execEnergyMeterSample at ht
  refine enter_still (Still.rfl' s) (fun x hx => ?_) _ _ t ht
  repeat' first
      | with_reducible assumption | intro _ | with_reducible apply still_ite | with_reducible apply still_whenever
      | with_reducible apply still_forSome | with_reducible apply still_periodic | with_reducible apply State.meter_still

theorem execThermalSample_still {s t : State} {a0 a1 a2 a3} (ht : execThermalSample a0 a1 a2 a3 s = .next t) : Still s t := by
  unfold execThermalSample at ht
  refine enter_still (Still.rfl' s) (fun x hx => ?_) _ _ t ht
  repeat' first
      | with_reducible assumption | intro _ | with_reducible apply still_ite | with_reducible apply still_whenever
      | with_reducible apply still_forSome | with_reducible apply still_periodic | with_reducible apply State.thermal_still

theorem execPkgRstRelease_still {s t : State} {a0} (ht : execPkgRstRelease a0 s = .next t) : Still s t := by
  unfold execPkgRstRelease at ht
  refine enter_still (Still.rfl' s) (fun x hx => ?_) _ _ t ht
  repeat' first
      | with_reducible assumption | intro _ | with_reducible apply still_ite | with_reducible apply still_whenever
      | with_reducible apply still_forSome | with_reducible apply still_whenever | with_reducible apply still_foldl
      | with_reducible apply still_foldl1 | with_reducible refine still_fst (by assumption) ?_
      | with_reducible refine still_snd (by assumption) ?_ | fail_if_no_progress with_reducible apply still_mk

theorem execPerstRelease_still {s t : State} {a0} (ht : execPerstRelease a0 s = .next t) : Still s t := by
  unfold execPerstRelease at ht
  refine enter_still (Still.rfl' s) (fun x hx => ?_) _ _ t ht
  repeat' first
      | with_reducible assumption | intro _ | with_reducible apply still_ite | with_reducible apply still_whenever
      | with_reducible apply still_forSome | with_reducible apply still_foldl | with_reducible apply still_foldl1
      | with_reducible refine still_fst (by assumption) ?_ | with_reducible refine still_snd (by assumption) ?_
      | fail_if_no_progress with_reducible apply still_mk

theorem execTerraceResetDone_still {s t : State} {a0} (ht : execTerraceResetDone a0 s = .next t) : Still s t := by
  unfold execTerraceResetDone at ht
  refine enter_still (Still.rfl' s) (fun x hx => ?_) _ _ t ht
  repeat' first
      | with_reducible assumption | intro _ | with_reducible apply still_ite | with_reducible apply still_whenever
      | with_reducible apply still_forSome | with_reducible apply still_whenever | with_reducible apply State.resetOver_still
      | with_reducible apply State.startTerrace_still | with_reducible apply still_foldl | with_reducible apply still_foldl1
      | with_reducible refine still_fst (by assumption) ?_ | with_reducible refine still_snd (by assumption) ?_
      | fail_if_no_progress with_reducible apply still_mk | dsimp only | split

theorem execBasinResetDone_still {s t : State} {a0} (ht : execBasinResetDone a0 s = .next t) : Still s t := by
  unfold execBasinResetDone at ht
  refine enter_still (Still.rfl' s) (fun x hx => ?_) _ _ t ht
  repeat' first
      | with_reducible assumption | intro _ | with_reducible apply still_ite | with_reducible apply still_whenever
      | with_reducible apply still_forSome | with_reducible apply State.resetOver_still | with_reducible apply still_foldl
      | with_reducible apply still_foldl1 | with_reducible refine still_fst (by assumption) ?_
      | with_reducible refine still_snd (by assumption) ?_ | fail_if_no_progress with_reducible apply still_mk | dsimp only | split

theorem execFusesLoaded_still {s t : State} {a0 a1 a2} (ht : execFusesLoaded a0 a1 a2 s = .next t) : Still s t := by
  unfold execFusesLoaded at ht
  refine enter_still (Still.rfl' s) (fun x hx => ?_) _ _ t ht
  repeat' first
      | with_reducible assumption | intro _ | with_reducible apply still_ite | with_reducible apply still_whenever
      | with_reducible apply still_forSome | with_reducible apply State.wr_still | with_reducible apply still_whenever
      | with_reducible apply State.phaseDone_still

theorem execHubReady_still {s t : State} {a0} (ht : execHubReady a0 s = .next t) : Still s t := by
  unfold execHubReady at ht
  refine enter_still (Still.rfl' s) (fun x hx => ?_) _ _ t ht
  repeat' first
      | with_reducible assumption | intro _ | with_reducible apply still_ite | with_reducible apply still_whenever
      | with_reducible apply still_forSome | with_reducible apply State.wr_still | with_reducible apply still_whenever
      | with_reducible apply State.phaseDone_still | with_reducible apply still_foldl | with_reducible apply still_foldl1
      | with_reducible refine still_fst (by assumption) ?_ | with_reducible refine still_snd (by assumption) ?_
      | fail_if_no_progress with_reducible apply still_mk

theorem execPcieReady_still {s t : State} {a0} (ht : execPcieReady a0 s = .next t) : Still s t := by
  unfold execPcieReady at ht
  refine enter_still (Still.rfl' s) (fun x hx => ?_) _ _ t ht
  repeat' first
      | with_reducible assumption | intro _ | with_reducible apply still_ite | with_reducible apply still_whenever
      | with_reducible apply still_forSome | with_reducible apply State.wr_still | with_reducible apply still_whenever
      | with_reducible apply State.phaseDone_still | with_reducible apply still_foldl | with_reducible apply still_foldl1
      | with_reducible refine still_fst (by assumption) ?_ | with_reducible refine still_snd (by assumption) ?_
      | fail_if_no_progress with_reducible apply still_mk

theorem execDieReady_still {s t : State} {a0 a1 a2} (ht : execDieReady a0 a1 a2 s = .next t) : Still s t := by
  unfold execDieReady at ht
  refine enterIf_still (Still.rfl' s) (fun x hx => ?_) _ _ t ht
  repeat' first
      | with_reducible assumption | intro _ | with_reducible apply still_ite | with_reducible apply still_whenever
      | with_reducible apply still_forSome | with_reducible apply still_whenever | with_reducible apply State.dieReady_still

theorem execLocalDone_still {s t : State} {a0} (ht : execLocalDone a0 s = .next t) : Still s t := by
  unfold execLocalDone at ht
  refine enterIf_still (Still.rfl' s) (fun x hx => ?_) _ _ t ht
  repeat' first
      | with_reducible assumption | intro _ | with_reducible apply still_ite | with_reducible apply still_whenever
      | with_reducible apply still_forSome | with_reducible apply State.wr_still | with_reducible apply still_whenever
      | with_reducible apply State.phaseDone_still

theorem execPcieLinkDown_still {s t : State} {a0} (ht : execPcieLinkDown a0 s = .next t) : Still s t := by
  unfold execPcieLinkDown at ht
  refine enterIf_still (Still.rfl' s) (fun x hx => ?_) _ _ t ht
  repeat' first
      | with_reducible assumption | intro _ | with_reducible apply still_ite | with_reducible apply still_whenever
      | with_reducible apply still_forSome | with_reducible apply still_whenever | with_reducible apply State.reportLow_still
      | with_reducible apply still_foldl | with_reducible apply still_foldl1 | with_reducible refine still_fst (by assumption) ?_
      | with_reducible refine still_snd (by assumption) ?_ | fail_if_no_progress with_reducible apply still_mk

theorem execMctpControl_still {s t : State} {a0 a1 a2} (ht : execMctpControl a0 a1 a2 s = .next t) : Still s t := by
  unfold execMctpControl at ht
  refine enterIf_still (Still.rfl' s) (fun x hx => ?_) _ _ t ht
  repeat' first
      | with_reducible assumption | intro _ | with_reducible apply still_ite | with_reducible apply still_whenever
      | with_reducible apply still_forSome | with_reducible apply State.answer_still | with_reducible apply State.mctpServe_still

theorem execPldmGetSensor_still {s t : State} {a0 a1 a2} (ht : execPldmGetSensor a0 a1 a2 s = .next t) : Still s t := by
  unfold execPldmGetSensor at ht
  refine enterIf_still (Still.rfl' s) (fun x hx => ?_) _ _ t ht
  repeat' first
      | with_reducible assumption | intro _ | with_reducible apply still_ite | with_reducible apply still_whenever
      | with_reducible apply still_forSome | with_reducible apply State.answer_still | with_reducible apply State.sensorServe_still

theorem execSetEventReceiver_still {s t : State} {a0 a1 a2 a3} (ht : execSetEventReceiver a0 a1 a2 a3 s = .next t) : Still s t := by
  unfold execSetEventReceiver at ht
  refine enterIf_still (Still.rfl' s) (fun x hx => ?_) _ _ t ht
  repeat' first
      | with_reducible assumption | intro _ | with_reducible apply still_ite | with_reducible apply still_whenever
      | with_reducible apply still_forSome | with_reducible apply State.answer_still | with_reducible apply still_foldl
      | with_reducible apply still_foldl1 | with_reducible refine still_fst (by assumption) ?_
      | with_reducible refine still_snd (by assumption) ?_ | fail_if_no_progress with_reducible apply still_mk

theorem execVendorSiltStatus_still {s t : State} {a0 a1} (ht : execVendorSiltStatus a0 a1 s = .next t) : Still s t := by
  unfold execVendorSiltStatus at ht
  refine enterIf_still (Still.rfl' s) (fun x hx => ?_) _ _ t ht
  repeat' first
      | with_reducible assumption | intro _ | with_reducible apply still_ite | with_reducible apply still_whenever
      | with_reducible apply still_forSome | with_reducible apply State.answer_still

theorem execVendorSiltEntry_still {s t : State} {a0 a1 a2} (ht : execVendorSiltEntry a0 a1 a2 s = .next t) : Still s t := by
  unfold execVendorSiltEntry at ht
  refine enterIf_still (Still.rfl' s) (fun x hx => ?_) _ _ t ht
  repeat' first
      | with_reducible assumption | intro _ | with_reducible apply still_ite | with_reducible apply still_whenever
      | with_reducible apply still_forSome | with_reducible apply State.answer_still

theorem execVendorSiltSnap_still {s t : State} {a0 a1 a2} (ht : execVendorSiltSnap a0 a1 a2 s = .next t) : Still s t := by
  unfold execVendorSiltSnap at ht
  refine enterIf_still (Still.rfl' s) (fun x hx => ?_) _ _ t ht
  repeat' first
      | with_reducible assumption | intro _ | with_reducible apply still_ite | with_reducible apply still_whenever
      | with_reducible apply still_forSome | with_reducible apply State.answer_still

theorem execVendorClassCount_still {s t : State} {a0 a1 a2} (ht : execVendorClassCount a0 a1 a2 s = .next t) : Still s t := by
  unfold execVendorClassCount at ht
  refine enterIf_still (Still.rfl' s) (fun x hx => ?_) _ _ t ht
  repeat' first
      | with_reducible assumption | intro _ | with_reducible apply still_ite | with_reducible apply still_whenever
      | with_reducible apply still_forSome | with_reducible apply State.answer_still

theorem execVendorHealth_still {s t : State} {a0 a1} (ht : execVendorHealth a0 a1 s = .next t) : Still s t := by
  unfold execVendorHealth at ht
  refine enterIf_still (Still.rfl' s) (fun x hx => ?_) _ _ t ht
  repeat' first
      | with_reducible assumption | intro _ | with_reducible apply still_ite | with_reducible apply still_whenever
      | with_reducible apply still_forSome | with_reducible apply State.answer_still

theorem execJtagInstruction_still {s t : State} {a0 a1} (ht : execJtagInstruction a0 a1 s = .next t) : Still s t := by
  unfold execJtagInstruction at ht
  refine enterIf_still (Still.rfl' s) (fun x hx => ?_) _ _ t ht
  repeat' first
      | with_reducible assumption | intro _ | with_reducible apply still_ite | with_reducible apply still_whenever
      | with_reducible apply still_forSome | with_reducible apply still_foldl | with_reducible apply still_foldl1
      | with_reducible refine still_fst (by assumption) ?_ | with_reducible refine still_snd (by assumption) ?_
      | fail_if_no_progress with_reducible apply still_mk

end Sys2Proof.Machine
end

