-- ==== Sys2Proof/Machine/Routing.lean ====
section
/-! DEFINITION. The routines of the manual that spout cores run to a fixed result: `route_topk` (R140, R141), `sample_tokens`
(R183), and the number of accepted drafts (R184). The device executes them as spout code; these are the results that the manual
states for them. -/
namespace Sys2Proof.Machine

/-- Insert by a strict order, behind its equals. -/
def insertBy {α : Type} (before : α → α → Bool) (a : α) : List α → List α
  | [] => [a]
  | b :: l => if before a b then a :: b :: l else b :: insertBy before a l

/-- Sort by a strict order. -/
def sortBy {α : Type} (before : α → α → Bool) (l : List α) : List α := l.foldl (fun acc a => insertBy before a acc) []

/-- Rank of values, largest first, NaN last, ties to the lower index: `key` of R140 and `rank_before` of R183. -/
def ranksBefore (v : Nat → Val) (i j : Nat) : Bool :=
  match v i, v j with
  | .nan, .nan => i < j
  | .nan, _ => false
  | _, .nan => true
  | a, b => if b.lt a then true else if a.lt b then false else i < j

/-! ### route_topk -/

/-- The `k` selected experts of a token with logits `l` (FP32 encodings), in rank order. -/
def topK (l : List Nat) (k : Nat) : List Nat :=
  (sortBy (ranksBefore fun i => valOf 0xB (l.getD i 0)) (List.range l.length)).take k

/-- The gates of the selected experts: mode 0 normalised sigmoid, 1 sigmoid, otherwise 1. -/
def gates (l sel : List Nat) (mode : Nat) : List Nat :=
  let s := sel.map fun e => if mode ≤ 1 then actSpline 4 (valOf 0xB (l.getD e 0)) else .num 1 0
  let sum := s.foldl Val.add (.num 0 0)
  s.map fun x => (rnd (if mode = 0 then x.div sum else x) 0xB false).1

/-- The tokens of expert `e`, ascending. -/
def expertList (sel : List (List Nat)) (e : Nat) : List Nat := (List.range sel.length).filter fun t => (sel.getD t []).contains e

/-- Runs of 16 tokens; the last is filled with nulls. The first argument bounds their number. -/
def runs16 : Nat → List Nat → List (List Nat)
  | 0, _ => []
  | n + 1, l => if l.isEmpty then [] else (l.take 16 ++ List.replicate (16 - (l.take 16).length) 0xFFFFFFFF) :: runs16 n (l.drop 16)

/-- The rill tiles of one expert: resolved owner and index list, the owners in the order of their first tokens (R141). -/
def expertTiles (owner : Nat → Nat) (tokens : List Nat) : List (Nat × List Nat) :=
  ((tokens.map owner).eraseDups.map fun o => (runs16 tokens.length (tokens.filter (owner · == o))).map fun r => (o, r)).flatten

/-- The resolved owner of a token of variant `v` at slot entry `i` (R141). -/
def State.resolvedOwner (s : State) (v i : Nat) : Nat :=
  let e := variantEntry s v
  if Se.inherit (s.slotEntry e i) = 0 then v else Ve.baseVariant e

/-! ### sample_tokens -/

/-- The least integer at or above a dyadic number. -/
def ceilDy (m e : Int) : Int := if 0 ≤ e then m * (2 : Int) ^ e.toNat else -((-m) / (2 : Int) ^ (-e).toNat)

/-- The weights w_i of the scaled logits t_i. -/
def sampleWeights (t : List Val) : List Val :=
  if t.any (· == .inf false) then t.map fun v => if v = .inf false then .num 1 0 else .num 0 0
  else
    let top := t.foldl (fun (m : Option Val) v => match v with
      | .num _ _ => (match m with | some x => some (if x.lt v then v else x) | none => some v)
      | _ => m) none
    match top with
    | some (.num m e) =>
      let c := ceilDy m e
      t.map fun v => match v with
        | .num a f =>
          let d := dyAdd a f (-c) 0
          let r := exp2Neg d.1 d.2
          .num r.1 r.2.1
        | _ => .num 0 0
    | _ => t.map fun _ => .num 0 0

/-- Find the first prefix sum of `ws` of which `p` holds: its index and the sum; the last one when none does. -/
def prefixWhere (p : Val → Bool) : List Val → Nat → Val → Nat × Val
  | [], j, c => (j, c)
  | [w], j, c => (j, c.add w)
  | w :: ws, j, c => if p (c.add w) then (j, c.add w) else prefixWhere p ws (j + 1) (c.add w)

/-- `sample_row`: the token, and whether the row is degenerate. -/
def sampleRow (t w : List Val) (topk : Nat) (topp : Val) (greedy : Bool) (u : Val) : Nat × Bool :=
  let order := sortBy (ranksBefore fun i => t.getD i .nan) (List.range t.length)
  let first := order.getD 0 0
  if greedy then (first, false) else
  let n := (w.filter fun x => (Val.num 0 0).lt x).length
  let n := if 0 < topk ∧ topk < n then topk else n
  if n = 0 then (first, true) else
  let ws := (order.take n).map fun i => w.getD i (.num 0 0)
  let total := ws.foldl Val.add (.num 0 0)
  let (m, wp) := prefixWhere (fun c => !c.lt (topp.mul total)) ws 0 (.num 0 0)
  let (j, _) := prefixWhere (fun c => (u.mul wp).lt c) (ws.take (m + 1)) 0 (.num 0 0)
  (order.getD j 0, false)

/-- The draw of position `q` (Table 8-6). -/
def sampleDraw (q key seed : Nat) : Val :=
  let r := philox (q % 2 ^ 32) key 0 0x53414D50 (seed % 2 ^ 32) (seed / 2 ^ 32)
  .num ((r.2.1 * 2 ^ 32 + r.1 : Nat) : Int) (-64)

/-- The token of one logits row (FP32 encodings). -/
def sampleToken (logits : List Nat) (invTemp topk : Nat) (topp : Val) (greedy : Bool) (q key seed : Nat) : Nat × Bool :=
  let t := logits.map fun x => valOf 0xB (rnd ((valOf 0xB x).mul (valOf 0xB invTemp)) 0xB false).1
  sampleRow t (sampleWeights t) topk topp greedy (sampleDraw q key seed)

/-- The number of leading drafts equal to the main model's tokens (R184). -/
def acceptedDrafts : List Nat → List Nat → Nat
  | d :: ds, x :: xs => if d = x then 1 + acceptedDrafts ds xs else 0
  | _, _ => 0

end Sys2Proof.Machine
end

