-- ==== Sys2Proof/Tests/Slice0.lean ====
section
/-! SUPPORT. Tests: ill-formed commands are refused, the manual's worked examples, and for every obligation with hypotheses a
state and operands that meet them (`witness_…`). -/
namespace Sys2Proof.Tests
open Sys2Proof.Machine
-- One theorem after the other: in parallel each waiting evaluation would hold a stack of its own.
set_option Elab.async false

/-- Fields take values. -/
def put (s : State) (l : List (Fld × Nat × Nat)) : State := l.foldl (fun s x => s.wr x.1 x.2.1 x.2.2) s

/-- A device that runs, with its host link up and its spillway ready. -/
def up : State :=
  put { State.reset with boot := { State.reset.boot with running := true, held := false, supplies := true, pcieUp := true, cxlUp := true } }
    [(Fld.spwStatusReady, 0, 1), (Fld.bootStatusHubReady, 0, 1), (Fld.bootStatusC0Ready, 0, 1), (Fld.bootStatusC1Ready, 0, 1),
     (Fld.bootStatusLocalDone, 0, 1), (Fld.mgmtStatusI3cReady, 0, 1), (Fld.mgmtStatusPcieReady, 0, 1)]

/-- The same with slice 1 active on basins 0 and 1, which are awake and its own, ring 8 enabled, and one memory range. -/
def busy : State :=
  (put up [(Fld.sliceStatusState, 1, 1), (Fld.sliceCtrlEnable, 1, 1), (Fld.sliceStatusState, 0, 1),
    (Fld.basinStateGated, 0, 0), (Fld.basinStateGated, 1, 0), (Fld.basinStateOwnerSlice, 0, 1), (Fld.basinStateOwnerSlice, 1, 1),
    (Fld.terraceStateMeshClockRun, 0, 1), (Fld.terraceStateHbm0Ready, 0, 1), (Fld.terraceStateHbm1Ready, 0, 1),
     (Fld.ringCtrlEnable, 8, 1), (Fld.memRangeBaseEnable, 8, 1), (Fld.memRangeLastLast, 8, 511)]
    |>.setReg .sliceBasins 1 3).setBasin 0 { tenant := 1, woken := true } |>.setBasin 1 { tenant := 1, woken := true }

/-- A command of ring 8 of slice 1. -/
def cmd (opcode target params : Nat) (phase : Phase) : Cmd :=
  { id := 1, ring := 8, slice := 1, opcode := opcode, target := target, tag := 0, digestEn := false, errorsOnly := false,
    params := params, phase := phase, step0 := 0, nondet0 := 0, begun := false, start := 0, sem := none, unit := 0, chain := 0,
    aux := [], flags := .none, outcomes := [], cyc := 0, hbmB := 0, cxlB := 0, aqdB := 0, hostB := 0, writes := [], outs := [],
    result := 0, faultAddr := none, task := 0, refused := none }

/-- The device with one dispatched command. -/
def holding (s : State) (c : Cmd) : State := { s with cmds := [c], nextCmd := 2 }

/-- A number with fields `(lowest bit, value)`. -/
def pk (l : List (Nat × Nat)) : Nat := l.foldl (fun n x => n + x.2 * 2 ^ x.1) 0

/-- The device with commands dispatched in order. -/
def held (s : State) (cs : List Cmd) : State := { s with cmds := cs, nextCmd := 100 }

/-- The non-zero bytes of a number of `n` bytes at `a`. -/
def bytesAt (a n v : Nat) : Tbl Byte := ((leBytes n v).zipIdx.map fun x => (a + x.2, x.1)).filter fun x => x.2 != 0


/-! ### Witnesses. With `dt = 0` the state after the passing of time is the state itself. -/

theorem advance_zero (s : State) : s.advance 0 = s := by cases s; simp [State.advance]

theorem witness_StepRunsTheFrontCommand : ({ up with pending := [.heartbeat 0 (.die 1)] } : State).pending = [.heartbeat 0 (.die 1)] := rfl

theorem witness_EmptyQueueIdles : up.pending = [] := by decide +kernel

theorem witness_RunsIffWellFormed :
    (Instr.heartbeat 0 (.basin 63)).wellFormed = true ∧ (Instr.heartbeat 0 (.basin 64)).wellFormed = false := by decide

theorem witness_StepKeepsOrder : busy.inOrder = true ∧ ∃ t, step { busy with pending := [.cxlLinkUp 5] } = .next t :=
  ⟨by decide +kernel, _, rfl⟩

theorem witness_RegistersHoldOnlyTheirBits : busy.inOrder = true := by decide +kernel

/-- SPW_CAP_STAMP, at 0xC00018, with its shadow empty and full, at both ends of the offsets of a read. -/
theorem witness_PairReadsUseTheShadow :
    RegName.isPair .spwCapStamp = true ∧ RegName.bits .spwCapStamp (· == .rc) = 0 ∧ RegName.spwCapStamp ≠ .capMeta ∧
    (Instr.lowWordRead 0 0xC00018 4).wellFormed = true ∧ up.live 0xC00018 ⟨.spwCapStamp, 0, 0⟩ = true ∧
    (Instr.highWordRead 0 0xC0001C 4).wellFormed = true ∧ up.live 0xC0001C ⟨.spwCapStamp, 0, 1⟩ = true ∧
    Tbl.find up.shadows (regKey .spwCapStamp 0) = none ∧
    Tbl.find ({ up with shadows := [(regKey .spwCapStamp 0, 1)] } : State).shadows (regKey .spwCapStamp 0) = some 1 ∧
    (Instr.lowWordRead 0 0xC00018 8).wellFormed = true := by decide +kernel

/-- SPW_CAP_INFO, whose count a read clears, as a word and as its last byte. -/
theorem witness_ReadsClearRcFields :
    up.inOrder = true ∧ RegName.width .spwCapInfo = 32 ∧ RegName.spwCapInfo ≠ .capMeta ∧ RegName.bits .spwCapInfo (· == .rc) ≠ 0 ∧
    (Instr.rcFieldRead 0 0xC00010 4).wellFormed = true ∧ (Instr.rcFieldRead 0 0xC00013 1).wellFormed = true ∧
    up.live 0xC00010 ⟨.spwCapInfo, 0, 0⟩ = true ∧ up.freshOf .spwCapInfo 0 = none ∧
    (up.bumpSat Fld.spwCapInfoCapCount 0).inOrder = true ∧ ((up.bumpSat Fld.spwCapInfoCapCount 0).freshOf .spwCapInfo 0).isSome = true := by
  decide +kernel

/-- SPW_STATUS (W1C), TOKRING_BASE (a pair) and SAVE_BASE 0, which has no bits. -/
theorem witness_WritesActByAccessCode :
    up.inOrder = true ∧
    (RegName.unconditioned .spwStatus = true ∧ RegName.width .spwStatus = 32 ∧ (Instr.registerWrite 0 0xC00000 4 8).wellFormed = true ∧
      regAt 0xC00000 = some ⟨.spwStatus, 0, 0⟩ ∧ (up.gatedAt 0xC00000).isNone = true ∧ bitAt (regMask .spwStatus 0) 3 = true) ∧
    (RegName.unconditioned .tokringBase = true ∧ RegName.isPair .tokringBase = true ∧
      (Instr.registerWrite 0 0x1008040 8 (2 ^ 64 - 1)).wellFormed = true ∧ regAt 0x1008040 = some ⟨.tokringBase, 0, 0⟩ ∧
      (up.gatedAt 0x1008040).isNone = true) ∧
    RegName.unconditioned .saveBase = true ∧ (Instr.registerWrite 0 16793856 8 1).wellFormed = true ∧
    regAt 16793856 = some ⟨.saveBase, 0, 0⟩ ∧ regMask .saveBase 0 = 0 := by decide +kernel

theorem witness_NarrowAndUnmappedAccesses :
    (Instr.registerWrite 0 0xC00002 3 1).wellFormed = false ∧ (Instr.registerWrite 0 0xC00001 3 1).wellFormed = true ∧ (Instr.registerWrite 0 0xC00000 2 1).wellFormed = true ∧
    regAt 0xDFFFFC = none ∧ up.windowWord 0xDFFFFC = none ∧ (up.gatedAt 0xDFFFFC).isNone = true ∧
    (Instr.registerWrite 0 0xDFFFFC 4 1).wellFormed = true ∧ (Instr.lowWordRead 0 0xDFFFFC 4).wellFormed = true := by decide +kernel

theorem witness_RecordsLeaveMemory :
    (∃ t, Does (.aqdRetry 0 1) up t) ∧ leavesMemory (.aqdRetry 0 1) = true ∧ (∃ t, Does (.heartbeat 0 (.die 0)) up t) ∧
    leavesRegisters (.heartbeat 0 (.die 0)) = true := ⟨⟨_, rfl⟩, rfl, ⟨_, rfl⟩, rfl⟩

/-- Basin 1 fenced (by its agent, item 0x90) and awake, all agents silent for 4,096 counts. -/
def fenced1 : State :=
  let s := { put busy [(Fld.basinStateFenced, 1, 1), (Fld.terraceStateMeshClockRun, 7, 1)] with time := { count64 := 64 * 4096 } }
  s.setItem 0x90 { fence := 1, effect := true }

theorem witness_LevelsComplete :
    (Ok (.heartbeat 0 (.terrace 7)) ∧ fenced1.tick1024 = true ∧ fenced1.agentOn (.terrace 7) = true) ∧
    (Ok (.heartbeatLoss 0 (.terrace 7)) ∧ fenced1.agentOn (.terrace 7) = true ∧ fenced1.agentFenced (.terrace 7) = false ∧ fenced1.beatLost (agentBeat (.terrace 7)) = true) ∧
    (Ok (.heartbeatLoss 0 (.die 1)) ∧ fenced1.agentOn (.die 1) = true ∧ fenced1.agentFenced (.die 1) = false ∧ fenced1.beatLost (agentBeat (.die 1)) = true) ∧
    (Ok (.dieHeartbeatLoss 0 1) ∧ fenced1.agentOn (.die 1) = true ∧ fenced1.beatLost (72 + 1) = true) ∧
    (Ok (.fenceEffect 0 0x90) ∧ (fenced1.item 0x90).effect = true) ∧
    (Ok (.fencedBasinGate 0 1) ∧ fenced1.fencedBasin 1 = true ∧ fenced1.gated 1 = false ∧ fenced1.idle 1 = true ∧
      fenced1.reserved 1 = false ∧ fenced1.gateListed 1 = false ∧ fenced1.underTest 1 = false) := by decide +kernel

/-- Counts 1,023 and 1,024, and the edges 4,095 and 4,096 counts after the heartbeat. -/
theorem witness_HeartbeatsAreCounted :
    Ok (.heartbeat 0 (.basin 0)) ∧ (∀ d, Agent.basin 0 ≠ .die d) ∧
    ({ busy with time := { count64 := 64 * 1023 } } : State).now % 1024 ≠ 0 ∧
    (∃ x : State, x = { busy with time := { count64 := 64 * 1024 } } ∧ x.now % 1024 = 0 ∧ x.agentOn (.basin 0) = true ∧
      ∃ t, Does (.heartbeat 0 (.basin 0)) x t ∧
        (t.advance (64 * 4095)).agentOn (.basin 0) = true ∧ (t.advance (64 * 4095)).agentFenced (.basin 0) = false ∧ (t.advance (64 * 4095)).now < x.now + 4096 ∧
        (t.advance (64 * 4096)).agentOn (.basin 0) = true ∧ (t.advance (64 * 4096)).agentFenced (.basin 0) = false ∧ x.now + 4096 ≤ (t.advance (64 * 4096)).now) := by
  refine ⟨by decide, by simp, by decide +kernel, _, rfl, by decide +kernel, by decide +kernel, _, rfl, ?_⟩
  decide +kernel

/-! ### Witnesses: anchored accumulation -/

/-- Two INT8 products. -/
def sumOfTwo : List Int := [(kgroup [(3, 5)] 8 8 127 127 12 1).1, (kgroup [(0xFF, 2), (1, 1)] 8 8 127 127 12 2).1]

theorem sumOfTwo_values : sumOfTwo.map (fun v => decide (v = nanWord)) = [false, false] ∧ sumOfTwo.map (fun v => decide (v = 0)) = [false, false] := by
  decide +kernel

theorem witness_FinitePoolWordsStayBelow :
    (∀ c, c ∈ sumOfTwo → ∃ ab fa fb sa sb A p, c = (kgroup ab fa fb sa sb A p).1) ∧ sumOfTwo.length ≤ 2 ^ 31 ∧ nanWord ∉ sumOfTwo := by
  refine ⟨?_, by decide, by decide +kernel⟩
  intro c hc
  simp only [sumOfTwo, List.mem_cons, List.not_mem_nil, or_false] at hc
  rcases hc with h | h <;> exact ⟨_, _, _, _, _, _, _, h⟩

theorem witness_AccumulationIsOrderFree :
    (∀ c, c ∈ sumOfTwo → ∃ ab fa fb sa sb A p, c = (kgroup ab fa fb sa sb A p).1) ∧ sumOfTwo.length ≤ 2 ^ 31 ∧
    sumOfTwo.Perm sumOfTwo.reverse ∧ (∃ as bs, sumOfTwo = as ++ bs ∧ as ≠ [] ∧ bs ≠ []) ∧
    [AccFlags.none, ⟨true, false, false, false⟩].Perm [⟨true, false, false, false⟩, AccFlags.none] :=
  ⟨witness_FinitePoolWordsStayBelow.1, by decide, (List.reverse_perm _).symm, ⟨[_], [_], rfl, by simp, by simp⟩, List.Perm.swap ..⟩

/-- A NaN and an infinity of E5M2. -/
theorem witness_SpecialOperandsGiveNan :
    (∃ c e, isNanEnc c e = true) ∧ (∃ c e, isInfEnc c e = true) ∧ nanWord ∈ [0, nanWord] :=
  ⟨⟨1, 0x7F, by decide +kernel⟩, ⟨1, 0x7C, by decide +kernel⟩, by decide +kernel⟩

theorem witness_ResiduesOfPoolWords :
    -(2 : Int) ^ 143 < -(2 ^ 143 - 1) ∧ (2 : Int) ^ 143 - 1 < 2 ^ 143 ∧ (0 : Int) ≠ nanWord ∧ (5 : Int) ≠ nanWord := by decide +kernel

/-- A jet tile of one row, one column, INT8 operands; with the other bank for jet 1. -/
def jetTile (jet bank : Nat) : Nat := pk [(0, 7), (4, 7), (8, jet), (9, bank), (43, 1), (52, 1), (274, 1), (448, 1)]

theorem witness_JetCommandsComplete :
    ((holding busy (cmd 8 0 (jetTile 0 0) .issued)).firstIssue 0 8 = some (cmd 8 0 (jetTile 0 0) .issued) ∧
      (holding busy (cmd 8 0 (jetTile 0 0) .issued)).mayCheck 1 0 = true ∧
      ((holding busy (cmd 8 0 (jetTile 0 0) .issued)).jetCheck (cmd 8 0 (jetTile 0 0) .issued)).1 = stOk) ∧
    (∀ c s, c = cmd 8 0 (jetTile 1 1) .queued → s = holding busy c →
      Ok (.jetTileStart 0 0 1 []) ∧ ((s.upsets []).jetTiles 0 1).find? (·.phase != .running) = some c ∧
      (s.upsets []).mayStart 1 0 = true ∧ (s.upsets []).runnelFree c = true ∧ (s.upsets []).bankUsable 1 c.params = false ∧
      ((s.upsets []).jetTiles 0 1).filter (·.phase == .running) = [] ∧ ((s.upsets []).takeStart 1 4).2 = true) ∧
    (∀ c s, c = { cmd 8 0 (jetTile 1 1) .loaded with begun := true } → s = holding busy c →
      Ok (.jetTileStart 0 0 1 []) ∧ ((s.upsets []).jetTiles 0 1).find? (·.phase != .running) = some c ∧
      (s.upsets []).mayStart 1 0 = true ∧ (s.upsets []).runnelFree c = true ∧ c.phase = .loaded ∧ c.begun = true) ∧
    (∀ c s, c = cmd 8 0 (jetTile 1 1) .queued →
      s = ((put (holding busy c) [(Fld.jetStatusBank1Valid, 1, 1)]).setJet 1 { bank1 := { fmt := 7, depth := 128, k := 1, n := 1 } }) →
      (s.upsets []).bankUsable 1 c.params = true ∧ Jd.forceLoad c.params = 0 ∧ c.begun = false ∧
      ((s.upsets []).takeStart 1 4).2 = true) ∧
    (Ok (.jetBankLoadComplete 0 0 1 []) ∧
      (((holding busy (cmd 8 0 (jetTile 1 1) .loading)).upsets []).jetTiles 0 1).find? (·.phase == .loading) =
        some (cmd 8 0 (jetTile 1 1) .loading)) ∧
    (Ok (.jetTileEnd 0 0 1 [(127, 0)] 0 0) ∧
      ((holding busy (cmd 8 0 (jetTile 1 1) .running)).jetTiles 0 1).find? (·.phase == .running) =
        some (cmd 8 0 (jetTile 1 1) .running)) := by
  refine ⟨by decide +kernel, ?_, ?_, ?_, by decide +kernel, by decide +kernel⟩
  all_goals (intro c s hc hs; subst hc; subst hs; decide +kernel)

theorem witness_TilesComplete :
    (∃ v s, v = 16 + 64 * 2 ^ 8 ∧ s = busy ∧ Ok (.cisternPart 0 0 v) ∧ s.gated 0 = false ∧ s.busy 0 = false ∧ s.windowOpen 0 = false ∧
      s.on Fld.cisternPartPartBusy 0 = false ∧ s.reserved 0 = false ∧ s.gateListed 0 = false ∧
      slice v 0 5 = 16 ∧ slice v 8 7 = 64) ∧
    ((busy.setBasin 0 { parting := some (16, 64) }).basin 0).parting = some (16, 64) ∧
    busy.gated 0 = false ∧ busy.boot.cxlUp = true := by
  refine ⟨⟨_, _, rfl, rfl, ?_⟩, ?_⟩ <;> decide +kernel

/-- Two findings met, the later of them first in the list; and none. -/
theorem witness_TileStatusInOrder :
    tileOrder = [0x3001, 0x6001] ++ 0x3002 :: [0x2003, 0x2002, 0x4001, 0x2004] ∧ 0x3002 ∈ [0x2002, 0x3002] ∧
    (∀ y, y ∈ [0x3001, 0x6001] → y ∉ [0x2002, 0x3002]) ∧ (∀ y, y ∈ tileOrder → y ∉ ([] : List Nat)) := by decide

/-- A chain whose epilogue converts to E4M3, at cistern address 256 of basin 0. -/
def chained : State := { busy with cistern := ⟨bytesAt 256 256 (pk [(4, 1), (16, 1), (768, 7)]), []⟩ }
/-- A runnel pass of one FP32 number through that chain. -/
def pass : Nat := pk [(0, 0xB), (32, 1), (128, 256), (152, 1)]

theorem witness_RunnelCommandsComplete :
    (∀ c s, c = cmd 0xB 0 pass .issued → s = holding chained c →
      s.firstIssue 0 0xB = some c ∧ s.mayCheck c.slice 0 = true ∧ (s.passCheck c).1 = stOk) ∧
    (∀ c s, c = cmd 0xB 0 pass .queued → s = holding chained c → Ok (.runnelPassStart 0 0 []) ∧
      (s.upsets []).passes 0 .queued = some c ∧ (s.upsets []).mayStart c.slice 0 = true ∧ (s.upsets []).runnelFree c = true ∧
      ((s.upsets []).takeStart 256 1).2 = true) ∧
    (∀ c s, c = cmd 0xB 0 pass .running → s = holding chained c → Ok (.runnelPassEnd 0 0 ⟨5, 9⟩) ∧ s.passes 0 .running = some c) ∧
    (∀ c s, c = cmd 9 0 0 .epilogue → s = holding chained c → Ok (.epilogueComplete 0 0 ⟨2, 9⟩) ∧
      (s.cmds.find? fun c => c.target == 0 && c.phase == .epilogue && (if 2 = 2 then c.opcode == 9 else c.opcode == 8 && Jd.jet c.params == 2)) =
        some c) ∧
    (∀ c s, c = cmd 8 0 (jetTile 1 0) .epilogue → s = holding chained c → Ok (.epilogueComplete 0 0 ⟨1, 0⟩) ∧
      (s.cmds.find? fun c => c.target == 0 && c.phase == .epilogue && (if 1 = 2 then c.opcode == 9 else c.opcode == 8 && Jd.jet c.params == 1)) =
        some c) := by
  and_intros
  all_goals (intro c s hc hs; subst hc; subst hs; decide +kernel)

/-- Variant 0, open to slice 1 and under its key, with slot 0 in HBM at address 0: one INT8 column of 32 elements at 0x1000. -/
def slot0 : Nat := pk [(0, 0x1000), (44, 7), (48, 1), (64, 32), (104, 1), (192, 32)]
def variants : State :=
  { busy with variants := [(0, pk [(0, 1), (1, 1), (96, 1), (128, 2)])], dev := ⟨bytesAt 0 32 slot0, []⟩ }
/-- A rill tile of one token on it, and what acceptance resolved for it. -/
def rillTile : Nat := pk [(0, 7), (88, 1), (128, 32), (274, 1), (448, 1)]
def rillCmd (p : Phase) : Cmd := { cmd 9 0 rillTile p with aux := [slot0, 1] }
/-- The rill with its window in half 0. -/
def rillLoaded : State := (holding variants (rillCmd .loaded)).setRill 0 { half0 := { tag := (rillCmd .loaded).rillTag, cmd := 1 } }

theorem witness_RillCommandsComplete :
    (∀ c s, c = cmd 9 0 rillTile .issued → s = holding variants c →
      s.firstIssue 0 9 = some c ∧ s.mayCheck c.slice 0 = true ∧ s.cmdFenced c = false ∧ s.rillStep1 0 c.params = true ∧
      (s.rillCheck c false).1 = stOk ∧ (s.rillCheck c false).2.2 = [slot0, 1] ∧
      ((s.modCmd c.id fun k => { k with
        hbmB := k.hbmB + 64 * (s.resolveReads (Rd.variant c.params) (Rd.slot c.params) c.slice).length }).cmd? c.id).isSome = true) ∧
    (∀ c s, c = rillCmd .queued → s = holding variants c →
      ((s.rill 0).fetch.filter fun f => (s.cmd? f.cmd).isSome) = none ∧ (s.rillTiles 0).find? (·.phase == .queued) = some c ∧
      s.mayFetch c.slice 0 = true ∧ (s.rill 0).halfOf c.rillTag = none ∧ s.rillFreeHalf (s.rill 0) = some 0) ∧
    (∀ n c s, (n = 1 ∨ n = 256) → c = rillCmd .loading → s = (holding variants c).setRill 0 { fetch := some ⟨1, 0, 2, false⟩ } →
      Ok (.rillFetchReturn 0 0 n false) ∧ (s.rill 0).fetch = some ⟨1, 0, 2, false⟩ ∧ s.cmd? 1 = some c ∧ 0 < n ∧ n ≤ 256 ∧
      (c.rillRuns.any fun r => s.devFenced r.1 r.2) = false ∧ (n = 1 → n < 2) ∧ (n = 256 → 2 ≤ n)) ∧
    (∀ c s, c = rillCmd .loaded → s = rillLoaded → Ok (.rillTileStart 0 0 []) ∧ ((s.upsets []).rillTiles 0).head? = some c ∧
      c.phase ≠ .running ∧ c.phase ≠ .loading ∧ (s.upsets []).mayStart c.slice 0 = true ∧ (s.upsets []).runnelFree c = true ∧
      ((s.upsets []).rill 0).halfOf c.rillTag = some 0 ∧ ((s.upsets []).takeStart 128 2).2 = true) ∧
    (∀ c s, c = rillCmd .running → s = holding variants c → Ok (.rillTileEnd 0 0 [(0, 0)] ⟨0, 0⟩) ∧
      (s.rillTiles 0).find? (·.phase == .running) = some c) ∧
    (∀ c s, c = cmd 0x18 0 (pk [(256, 1)]) .issued → s = holding busy c → Ok (.variantWrite 0 8) ∧ s.firstH 8 0x18 = some c) := by
  refine ⟨?_, ?_, ?_, ?_, ?_, ?_⟩
  · intro c s hc hs; subst hc; subst hs; decide +kernel
  · intro c s hc hs; subst hc; subst hs; decide +kernel
  · rintro n c s (rfl | rfl) hc hs <;> subst hc <;> subst hs <;> decide +kernel
  all_goals (intro c s hc hs; subst hc; subst hs; decide +kernel)

/-- A cascade tile of one position and one row, with this operation; page-list entry 0 names page 0, which is slice 1's. -/
def cascTile (op : Nat) : Nat := pk [(0, op), (96, 1), (330, 34), (416, 1)]
def pages : State := { busy with dev := ⟨bytesAt 0 16 (pk [(0, 1), (1, 1), (10, 1), (64, 1)]), []⟩ }

theorem witness_CascadeCommandsComplete :
    (∀ op c s, (op = 0 ∨ op = 1 ∨ op = 2) → c = cmd 0xA 0 (cascTile op) .issued → s = holding pages c →
      s.firstIssue 0 0xA = some c ∧ s.mayCheck c.slice 0 = true ∧ s.cascadeCheck c = stOk ∧ Cd.op c.cd = op) ∧
    (∀ c s, c = cmd 0xA 0 (cascTile 0) .queued → s = holding pages c → s.fetchNext 0 = some (c, 0) ∧ s.pageListCheck c = stOk) ∧
    (∀ n c s, (n = 1 ∨ n = 256) → c = { cmd 0xA 0 (cascTile 0) .loading with aux := [0, 0x20000] } →
      s = (holding pages c).setCascade 0 { fetch := some ⟨1, 0, 2, false⟩ } →
      Ok (.cascadeFetchReturn 0 0 n false) ∧ (s.cascade 0).fetch = some ⟨1, 0, 2, false⟩ ∧ s.cmd? 1 = some c ∧ n ≠ 0 ∧ n ≤ 256 ∧
      (c.localRuns.any fun r => s.devFenced r.1 r.2) = false ∧ s.aqdPending c.id = false ∧ (n = 1 → n < 2) ∧ (n = 256 → 2 ≤ n)) ∧
    (∀ c s, c = { cmd 0xA 0 (cascTile 0) .loaded with aux := [0, 0x20000] } → s = (holding pages c).setCascade 0 { half0 := ⟨[1], [], 1⟩ } →
      Ok (.cascadeTileStart 0 0 [] false) ∧ (s.upsets []).cascadeRunning 0 = none ∧
      (s.upsets []).on Fld.terraceStateCascadeFenced 0 = false ∧ (s.upsets []).cascadeToStart 0 = some c) ∧
    (∀ c s, c = cmd 0xA 0 (cascTile 0) .running → s = holding pages c → Ok (.cascadeTileEnd 0 0 [] 0) ∧
      s.cascadeRunning 0 = some c) := by
  refine ⟨?_, ?_, ?_, ?_, ?_⟩
  · rintro op c s (rfl | rfl | rfl) hc hs <;> subst hc <;> subst hs <;> decide +kernel
  · intro c s hc hs; subst hc; subst hs; decide +kernel
  · rintro n c s (rfl | rfl) hc hs <;> subst hc <;> subst hs <;> decide +kernel
  all_goals (intro c s hc hs; subst hc; subst hs; decide +kernel)

/-! ### Witnesses: serving -/

/-- A descriptor of slice 1 in a state: 1 layer, 1 head, pages of 128 positions, a directory of 4 entries at 0x10000, top_p 1. -/
def desc (st : Nat) : Nat := pk [(0, st), (8, 1), (256, 0x10000), (300, 7), (320, 4), (416, 0x3F800000)]

/-- The session engine enabled, session 5 with descriptor `d`, a free list of slice 1 with room, and one serving command. -/
def serving (d : Nat) (c : Cmd) : State :=
  let s := put (holding busy c) [(Fld.serveCtrlEnable, 0, 1), (Fld.freelistCapCap, 3, 8)]
  { s with serve := { s.serve with sessions := [(5, d)] } }

theorem witness_ServingCommandsComplete :
    (∀ c s, c = cmd 0x20 0 (desc 0) .issued → s = serving 0 c →
      s.nextServe = some c ∧ s.on Fld.serveCtrlEnable = true ∧ (Eng.create { s := s, sl := c.slice } c).2.1 = stOk) ∧
    (∀ c s, c = cmd 0x23 0 5 .issued → s = serving (desc 3) c →
      s.nextServe = some c ∧ (Eng.rebuild { s := s, sl := c.slice } c).2.1 = stOk) ∧
    (∀ c s, c = cmd 0x24 0 5 .issued → s = serving (desc 4) c →
      s.nextServe = some c ∧ (Eng.release { s := s, sl := c.slice } c).2.1 = stOk) ∧
    (∀ c s, c = cmd 0x25 0 (pk [(0, 1), (64, 1), (96, 0x20000)]) .issued → s = serving 0 c →
      s.nextServe = some c ∧ (Eng.provision { s := s, sl := c.slice } c).2.1 = stOk) ∧
    (∀ c s, c = cmd 0x26 0 (pk [(0, 1), (64, 1), (96, 0x20000)]) .issued → s = serving 0 c →
      s.nextServe = some c ∧ (Eng.reclaim { s := s, sl := c.slice } c).2.1 = stOk) ∧
    (∀ c s, c = cmd 0x27 0 (pk [(0, 5), (32, 512)]) .issued → s = serving (desc 1) c →
      s.nextServe = some c ∧ (Eng.reserve { s := s, sl := c.slice } c).2.1 = stOk) ∧
    (∀ c s, c = cmd 0x29 0 (pk [(0, 5), (64, 0x20000)]) .issued → s = serving (desc 1) c →
      s.nextServe = some c ∧ (Eng.seal { s := s, sl := c.slice } c).2.1 = stOk) ∧
    (∀ c s, c = cmd 0x2A 0 (pk [(0, 5), (64, 0x20000)]) .issued → s = serving (desc 1) c →
      s.nextServe = some c ∧ (Eng.attach { s := s, sl := c.slice } c).2.1 = stOk) ∧
    (∀ c s, c = cmd 0x2B 0 (pk [(0, 5), (64, 0x20000)]) .issued → s = serving (desc 1) c →
      s.nextServe = some c ∧ (Eng.dropPrefix { s := s, sl := c.slice } c).2.1 = stOk) ∧
    (∀ c s, c = cmd 0x2D 0 (pk [(32, 1), (64, 0x20000), (128, 0x30000)]) .issued → s = serving (desc 1) c →
      s.nextServe = some c ∧ (Eng.stepBegin { s := s, sl := c.slice } c).2.1 = stOk) ∧
    (∀ c s, c = cmd 0x28 0 (pk [(32, 0x30000)]) .issued →
      s = { serving (desc 1) c with serve := { (serving (desc 1) c).serve with batches := [(2 ^ 44 + 0x30000, 1)] } } →
      Ok (.kvAppend 0 []) ∧ (s.upsets []).appendReady = true ∧ (s.upsets []).nextServe = some c ∧
      (s.upsets []).on Fld.serveCtrlEnable = true ∧ (Eng.append { s := s.upsets [], sl := c.slice } c).2.1 = stOk) ∧
    (∀ c s, c = cmd 0x2C 0 (pk [(0, 5), (32, nullEntry)]) .issued → s = serving (desc 1) c →
      s.nextServe = some c ∧ (Eng.find { s := s, sl := c.slice } (c.word 0) [1] false).2.1 = stOk ∧ c.word 1 = nullEntry ∧ s.arrived c = true) ∧
    (∀ c s, c = cmd 0x2E 0 0 .issued → s = serving (desc 1) c → s.nextServe = some c) ∧
    (∀ c s, c = cmd 0x2C 0 (pk [(0, 5), (32, nullEntry), (128, 0)]) .parked → s = serving (desc 1) c →
      s.parkedCmd 1 0x2C = some c ∧ s.arrived c = true ∧ s.handoffOver c = false) ∧
    (∀ c s, c = cmd 0x2C 0 (pk [(0, 5), (32, nullEntry), (128, 7)]) .parked →
      s = { serving (desc 1) c with time := { count64 := 64 * 7 } } →
      s.parkedCmd 1 0x2C = some c ∧ s.arrived c = true ∧ s.handoffOver c = true) ∧
    (∀ c s, c = cmd 0x2C 0 (pk [(0, 5), (32, 64), (64, 1), (128, 7)]) .parked →
      s = { serving (desc 1) c with time := { count64 := 64 * 7 } } →
      s.parkedCmd 1 0x2C = some c ∧ s.arrived c = false ∧ s.handoffOver c = true) ∧
    (∀ c s, c = cmd 0x2E 0 0 .parked → s = serving (desc 1) c →
      Ok (.stepEndResume 0 1) ∧ s.parkedCmd 1 0x2E = some c ∧ (s.deliverAll 1).recsLeft c.id = 0 ∧
      (((s.deliverAll 1).modCmd c.id fun k => { k with result := 0 }).cmd? c.id).isSome = true) := by
  and_intros
  all_goals (intro c s hc hs; subst hc; subst hs; decide +kernel)

/-- SESSION_CANCEL and SESSION_PAUSE of a session in PREFILL, in DECODE and latched. -/
theorem witness_ServingCommandsComplete_leave (op : Nat) (h : op = 0x21 ∨ op = 0x22) :
    ([desc 1, desc 2, desc 1 + 32].all fun d =>
      let s := serving d (cmd op 0 5 .issued)
      let y := (Eng.find { s := s, sl := 1 } 5 [1, 2] true).1.leave 5 d 4
      s.nextServe == some (cmd op 0 5 .issued) && (Eng.find { s := s, sl := 1 } 5 [1, 2] true).2 == (stOk, d) &&
        (y.s.queueRec 1 1 (tokenRec 5 2 0 0 0 0) false).tokRefused 1 == none) = true ∧
    Ds.latched (desc 2) = false ∧ Ds.latched (desc 1 + 32) = true := by
  rcases h with h | h <;> subst h <;> decide +kernel

/-- HANDOFF on an arrival counter of its own slice, arrived and not. -/
theorem witness_ServingCommandsComplete_handoff :
    (∀ c s, c = cmd 0x2C 0 (pk [(0, 5), (32, 64), (64, 0)]) .issued →
      s = put (serving (desc 1) c) [(Fld.aqdArrivalOwnerValid, 64, 1), (Fld.aqdArrivalOwnerSlice, 64, 1)] →
      s.counterOk c.slice (c.word 1) = true ∧ s.arrived c = true) ∧
    (∀ c s, c = cmd 0x2C 0 (pk [(0, 5), (32, 64), (64, 1)]) .issued →
      s = put (serving (desc 1) c) [(Fld.aqdArrivalOwnerValid, 64, 1), (Fld.aqdArrivalOwnerSlice, 64, 1)] →
      s.counterOk c.slice (c.word 1) = true ∧ s.arrived c = false) := by
  refine ⟨?_, ?_⟩ <;> (intro c s hc hs; subst hc; subst hs; decide +kernel)

/-! ### Witnesses: spout cores -/

/-- A task of slice 1 in basin 0 whose watchdog is at count 5. -/
def aTask : Task :=
  { cmd := 1, radioOp := none, slice := 1, live := 1, start := 0, held := false, watchdog := 5, addrFault := false, trap := false,
    timeout := false, exitNz := false, poison := false, cyc := 0 }

/-- Core 0 of basin 0 in a task, its pc at 0x100 of its cistern, where the instruction `w` stands; x6 and x7 hold `a` and `n`. -/
def core0 (w a n : Nat) : State :=
  let s := holding busy (cmd 0xC 0 0 .running)
  ({ s with cistern := ⟨bytesAt 0x100 4 w, []⟩ }.setReg .corePc 0 0x100).setCore 0
    { x := [0, 0, 0, 0, 0, a, n], inTask := true } |>.setBasin 0 { tenant := 1, woken := true, task := some aTask }

/-- A spout instruction: rd x5, rs1 x6, rs2 x7. -/
def spout (f3 : Nat) : Nat := pk [(0, 0x0B), (7, 5), (12, f3), (15, 6), (20, 7)]

/-- What core `c` fetches, when it runs. -/
def atPc (s : State) (c : Nat) : Option Uop :=
  match s.coreRuns c, s.fetchInstr c false with
  | true, (t, .word w _) => some (t.opOf c w)
  | _, _ => none

theorem atPc_fetches (s : State) (c : Nat) (u : Uop) (h : atPc s c = some u) : s.fetches c u (s.fetchInstr c false).1 := by
  unfold atPc at h
  split at h
  · rename_i hr hf
    injection h with h
    exact ⟨hr, _, _, by rw [hf], by rw [hf]; exact h⟩
  · exact absurd h (by simp)

/-- The state after the fetch. -/
def fetched (s : State) (c : Nat) : State := (s.fetchInstr c false).1

theorem witness_SpoutCommandsComplete_tasks :
    (∀ c s, c = cmd 0xC 0 (pk [(64, 1), (160, 5)]) .issued → s = holding busy c →
      s.firstIssue 0 0xC = some c ∧ s.mayCheck c.slice 0 = true ∧ s.taskCheckStatus c = stOk) ∧
    (∀ c s, c = cmd 0xC 0 (pk [(64, 1), (160, 5)]) .queued → s = holding busy c →
      s.cmds.find? (fun c => c.target == 0 && c.opcode == 0xC && c.phase == .queued && s.mayStart c.slice 0) = some c ∧
      (s.basin (s.ctx 0)).task = none ∧
      (s.takeStart (320 + c.target) ((List.range 8).filter fun k => bitAt (c.par 64 8) k).length).2 = true) ∧
    (∀ s, s = { core0 0 0 0 with time := { count64 := 64 * 5 } } →
      (s.basin (s.ctx 0)).task = some aTask ∧ aTask.watchdog ≠ 0 ∧ aTask.watchdog ≤ s.now ∧ aTask.live ≠ 0 ∧ s.ctxRuns (s.ctx 0) = true) := by
  refine ⟨?_, ?_, ?_⟩
  · intro c s hc hs; subst hc; subst hs; decide +kernel
  · intro c s hc hs; subst hc; subst hs; decide +kernel
  · intro s hs; subst hs; decide +kernel

/-- addi x5, x6, 1 and lui x5, 1; a jump; ecall. -/
theorem witness_SpoutCommandsComplete_instructions :
    (∀ s, s = core0 0x00130293 7 0 → Ok (.spoutInstruction 0 0 [] 0) ∧ s.ctxCore 0 = 0 ∧ s.coreRuns 0 = true ∧ s.ownRow 0 = false ∧
      ((s.upsets []).fetchInstr 0 false).2 = .word 0x00130293 4 ∧ atPc s 0 = some (.wx 5 8 0)) ∧
    (∀ s, s = core0 0x00000073 0 0 → atPc s 0 = some .ecall) := by
  refine ⟨?_, ?_⟩ <;> (intro s hs; subst hs; decide +kernel)

theorem witness_SpoutCommandsComplete_counter :
    (∀ s, s = core0 (spout 0) 0 0 → atPc s 0 = some (.custom 0 5 6 7) ∧ ((fetched s 0).claim 0).isSome = true) ∧
    (∀ s, s = (core0 (spout 0) 0 0).setBasin 0 { tenant := 1, task := some aTask, leases := List.replicate 1024 ⟨0, 1, 0⟩ } →
      atPc s 0 = some (.custom 0 5 6 7) ∧ (fetched s 0).claim 0 = none) ∧
    (∀ s, s = (core0 0 0 0).setCore 0 { inTask := true, claiming := some 5 } →
      (s.core 0).claiming = some 5 ∧ s.ctxRuns (coreCtx 0) = true ∧ (s.claim 0).isSome = true) ∧
    (∀ s, s = core0 (spout 1) 0 0 → atPc s 0 = some (.custom 1 5 6 7)) := by
  refine ⟨?_, ?_, ?_, ?_⟩ <;> (intro s hs; subst hs; decide +kernel)

/-- Semaphores 0 and 31, with values one below, at and above what is asked. -/
theorem witness_SpoutCommandsComplete_semaphores :
    (∀ s, s = core0 (spout 2) 31 1 → atPc s 0 = some (.custom 2 5 6 7) ∧ (fetched s 0).semMine 0 ((fetched s 0).core 0 |>.xr 6) = true) ∧
    (∀ s, s = (core0 (spout 4) 31 3).setReg .semValue 31 3 → atPc s 0 = some (.custom 4 5 6 7) ∧
      (fetched s 0).semMine 0 31 = true ∧ (fetched s 0).semHas 0 31 3 = true ∧ (fetched s 0).semHas 0 31 4 = false) ∧
    (∀ s, s = (core0 (spout 3) 0 3).setReg .semValue 0 3 → atPc s 0 = some (.custom 3 5 6 7) ∧
      (fetched s 0).semMine 0 0 = true ∧ (fetched s 0).semHas 0 0 3 = true ∧ (fetched s 0).firstWaiter (coreCtx 0) 0 = none ∧
      (fetched s 0).pastDeadline 0 = false) ∧
    (∀ s, s = ({ core0 (spout 3) 0 4 with time := { count64 := 64 * 5 } }.modCore 0 fun k => { k with deadline := 5 }) →
      atPc s 0 = some (.custom 3 5 6 7) ∧ (fetched s 0).semHas 0 0 4 = false ∧ (fetched s 0).pastDeadline 0 = true) ∧
    (∀ s, s = (((core0 0 0 0).setCore 0 { inTask := true, waiting := some (31, 3, 5) }).setBasin 0
        { tenant := 1, task := some aTask, waiters := [(31, 0)] }).setReg .semValue 31 3 →
      Ok (.semWaitAcquire 0 0 31) ∧ s.firstWaiter (s.semCtx 0 31) 31 = some 0 ∧ (s.core 0).waiting = some (31, 3, 5) ∧
      s.ctxRuns (s.semCtx 0 31) = true ∧ s.semHas 0 31 3 = true) ∧
    (∀ s, s = ({ core0 0 0 0 with time := { count64 := 64 * 5 } }.setCore 0 { inTask := true, waiting := some (31, 3, 5), deadline := 5 }).setBasin 0
        { tenant := 1, task := some aTask, waiters := [(31, 0)] } →
      (s.core 0).waiting = some (31, 3, 5) ∧ s.ctxRuns (coreCtx 0) = true ∧ s.pastDeadline 0 = true ∧ s.semHas 0 31 3 = false) := by
  refine ⟨?_, ?_, ?_, ?_, ?_, ?_⟩ <;> (intro s hs; subst hs; decide +kernel)

/-- The issue queue with 15 and with 16 entries. -/
theorem witness_SpoutCommandsComplete_issue :
    (∀ s, s = core0 (spout 5) 0x200 (1 + 2 ^ 13 + 31 * 2 ^ 8) → atPc s 0 = some (.custom 5 5 6 7) ∧ Ok (.tileIssue 0 0 []) ∧
      ((fetched s 0).upsets []).semMine 0 31 = true ∧ (((fetched s 0).upsets []).readTile 0 0x200 1).2.isSome = true ∧
      (((fetched s 0).upsets []).readTile 0 0x200 1).1.issueDepth 0 < 16) ∧
    (∀ s, s = { core0 (spout 5) 0x200 1 with cmds := (List.range 16).map fun i => { cmd 9 0 0 .issued with id := i + 2 } } →
      atPc s 0 = some (.custom 5 5 6 7) ∧ (((fetched s 0).upsets []).readTile 0 0x200 1).2.isSome = true ∧
      16 ≤ (((fetched s 0).upsets []).readTile 0 0x200 1).1.issueDepth 0) ∧
    (∀ s, s = (core0 0 0 0).setCore 0 { inTask := true, accs := [⟨9, false, 3, some (List.replicate 128 1), false⟩] } →
      s.answeredCore 0 = some (0, ⟨9, false, 3, some (List.replicate 128 1), false⟩)) := by
  refine ⟨?_, ?_, ?_⟩ <;> (intro s hs; subst hs; decide +kernel)

/-- The sum of a signal at 2 ^ 32 - 1 and at 2 ^ 32; a try of as much as there is, and of one more. -/
theorem witness_SemaphoreValues :
    (∀ s, s = (core0 (spout 2) 0 1).setReg .semValue 0 (2 ^ 32 - 2) → s.inOrder = true ∧ atPc s 0 = some (.custom 2 5 6 7) ∧
      (fetched s 0).semMine 0 0 = true ∧ (fetched s 0).reg .semValue (coreBasin 0 * 32) + 1 < 2 ^ 32) ∧
    (∀ s, s = (core0 (spout 2) 0 1).setReg .semValue 0 (2 ^ 32 - 1) → s.inOrder = true ∧ atPc s 0 = some (.custom 2 5 6 7) ∧
      2 ^ 32 ≤ (fetched s 0).reg .semValue (coreBasin 0 * 32) + 1) ∧
    (∀ s, s = (core0 (spout 4) 0 3).setReg .semValue 0 3 → atPc s 0 = some (.custom 4 5 6 7) ∧ 3 ≤ (fetched s 0).reg .semValue (coreBasin 0 * 32)) ∧
    (∀ s, s = (core0 (spout 4) 0 4).setReg .semValue 0 3 → atPc s 0 = some (.custom 4 5 6 7) ∧ (fetched s 0).reg .semValue (coreBasin 0 * 32) < 4) := by
  refine ⟨?_, ?_, ?_, ?_⟩ <;> (intro s hs; subst hs; decide +kernel)

/-! ### Witnesses: the sluice -/

/-- Ring 8 with 8 slots and entries, slice 1 bound to PASID 7, and some commands. -/
def ringed (cs : List Cmd) : State :=
  put (held busy cs) [(Fld.sqSizeLog2Slots, 8, 3), (Fld.cqSizeLog2Entries, 8, 3), (Fld.slicePasidPasid, 1, 7), (Fld.slicePasidPasidValid, 1, 1)]

/-- A COUNTER_ADD packet in slot 0, whose tail is 2. -/
def onePacket : State :=
  put { ringed [] with host := ⟨bytesAt ((ringed []).hostSpace 1 * 2 ^ 64) 32 (pk [(0, 3), (8, 1), (16, 255)]), []⟩ } [(Fld.sqTailTail, 8, 2)]

/-- Doorbells at both ends: page 0 and page 127, value 7 of a ring of 8; a packet; a head packet that is chosen. -/
theorem witness_SluiceReadsAndDispatches :
    (∀ s, s = ringed [] → Ok (.doorbell 0 1 0 (some 7) 7) ∧ (some 7).bind s.pasidSlice = some 1 ∧ s.sliceActive 1 = true ∧
      s.inferFenced = false ∧ s.on Fld.ringCtrlEnable 8 = true ∧ 7 < 2 ^ s.rd Fld.sqSizeLog2Slots 8) ∧
    (∀ s, s = onePacket → Ok (.packetRead 0 8 []) ∧ (s.hostStores []).ringServed 8 = true ∧ ((s.hostStores []).ring 8).stampQ.length < 32 ∧
      ((s.hostStores []).ring 8).stampQ.all (·.marked) = true ∧
      ((s.hostStores []).ring 8).failedLen = none ∧ 2 = 1 + slice ((s.hostStores []).ringNat 8 ((s.hostStores []).ring 8).readPtr 32) 8 3 ∧ 2 ≤ (s.hostStores []).covered 8 ∧
      ((s.hostStores []).ring 8).readPtr + 2 ≤ (s.hostStores []).sqSlots 8) ∧
    (∀ s, s = ((ringed []).setRing 8 { stampQ := [⟨pk [(0, 3), (8, 1), (16, 255)], 0, 0, 2, 64, 5, true, true, false⟩] }) →
      ((s.autoWake).chooseRing).map (·.1) = some 8) := by
  refine ⟨?_, ?_, ?_⟩ <;> (intro s hs; subst hs; decide +kernel)

theorem witness_SluiceCommandsComplete_waits :
    (∀ c s, c = cmd 0 255 0 .issued → s = ringed [c] → s.firstH 8 0x00 = some c) ∧
    (∀ c s, c = cmd 1 255 0 .issued → s = ringed [c] → s.firstH 8 0x01 = some c) ∧
    (∀ c s, c = cmd 1 255 0 .running → s = ringed [c] → s.runningH 8 0x01 = some c ∧ s.fenceHolds c = true) ∧
    (∀ c s, c = cmd 2 255 (pk [(0, 3), (64, 5)]) .issued → s = ringed [c] → s.firstH 8 0x02 = some c ∧ s.waitCheck c = stOk ∧
      ((s.startRunning c.id).runningH 8 0x02).map (s.startRunning c.id).waitHolds = some false) ∧
    (∀ c s, c = cmd 2 255 (pk [(0, 3), (64, 5)]) .issued → s = { ringed [c] with time := { count64 := 64 * 5 } } →
      ((s.startRunning c.id).runningH 8 0x02).map (s.startRunning c.id).waitHolds = some true) ∧
    (∀ c s, c = cmd 2 255 (pk [(0, 0), (16, 63)]) .running → s = ringed [c] →
      s.runningH 8 0x02 = some c ∧ s.waitHolds c = true ∧ s.waitOver c = false) ∧
    (∀ c s, c = cmd 2 255 (pk [(0, 0), (16, 63), (128, 5)]) .running → s = { ringed [c] with time := { count64 := 64 * 5 } } →
      s.runningH 8 0x02 = some c ∧ s.waitHolds c = true ∧ s.waitOver c = true) ∧
    (∀ c s, c = cmd 2 255 (pk [(0, 0), (64, 1), (128, 5)]) .running → s = { ringed [c] with time := { count64 := 64 * 5 } } →
      s.runningH 8 0x02 = some c ∧ s.waitHolds c = false ∧ s.waitOver c = true ∧ c.par 0 4 ≠ 1) := by
  refine ⟨?_, ?_, ?_, ?_, ?_, ?_, ?_, ?_⟩ <;> (intro c s hc hs; subst hc; subst hs; decide +kernel)

/-- COUNTER_ADD with and without the link, SEM_SIGNAL of semaphore 31 of basin 1, COPY and FILL of the first and last bytes of range 8. -/
theorem witness_SluiceCommandsComplete_work :
    (∀ c s, c = cmd 3 255 (pk [(0, 63), (64, 2 ^ 64 - 1)]) .issued → s = put (ringed [c]) [(Fld.detCtrlLinkEn, 1, 1), (Fld.detCtrlStepLink, 1, 63)] →
      s.firstH 8 0x03 = some c ∧ s.on Fld.detCtrlLinkEn c.slice = true ∧ s.rd Fld.detCtrlStepLink c.slice = c.par 0 6) ∧
    (∀ c s, c = cmd 3 255 0 .issued → s = ringed [c] → s.firstH 8 0x03 = some c ∧ s.on Fld.detCtrlLinkEn c.slice = false) ∧
    (∀ c s, c = cmd 4 255 (pk [(0, 63), (32, 1)]) .issued → s = ringed [c] →
      s.firstH 8 0x04 = some c ∧ s.semOk c.slice (c.par 0 16) = true ∧ s.semReach c.slice (c.par 0 16 / 32) = true) ∧
    (∀ c s, c = cmd 0x10 255 (pk [(0, 2), (4, 2), (32, 64), (64, 0), (128, 2 ^ 30 - 64)]) .issued → s = ringed [c] →
      Ok (.copy 0 8 [] false []) ∧ ((s.upsets []).hostStores []).firstH 8 0x10 = some c ∧ ((s.upsets []).hostStores []).copyCheck c = stOk ∧
      ((s.upsets []).hostStores []).parting c.dst = false ∧ ((s.upsets []).hostStores []).parting c.src = false ∧
      ((s.upsets []).hostStores []).sidePaused c.slice c.dst = false ∧ ((s.upsets []).hostStores []).sidePaused c.slice c.src = false) ∧
    (∀ c s, c = cmd 0x11 255 (pk [(0, 0), (32, 64), (64, 1)]) .issued → s = ringed [c] →
      s.firstH 8 0x11 = some c ∧ s.copyCheck c = stOk ∧ s.parting c.dst = false ∧ s.sidePaused c.slice c.dst = false) ∧
    (∀ c s, c = cmd 0x10 255 (pk [(0, 0), (4, 2), (32, 64)]) .running → s = ringed [c] →
      (s.cmds.find? fun c => c.ring == 8 && (c.opcode == 0x10 || c.opcode == 0x11) && c.phase == .running) = some c ∧
      s.sideHeld c.slice c.dst = false ∧ s.sideHeld c.slice c.src = false) := by
  refine ⟨?_, ?_, ?_, ?_, ?_, ?_⟩ <;> (intro c s hc hs; subst hc; subst hs; decide +kernel)

/-- CQ_TAIL at 7 and 8 of 8 entries; a ring that can and one that cannot be enabled; a halted ring. -/
theorem witness_RingRegisters :
    (∀ s, s = ringed [] → Ok (.cqTailWrite 0 8 7) ∧ 7 < s.cqEntries 8 ∧ s.cqEntries 8 ≤ 8) ∧
    (∀ s, s = put (ringed []) [(Fld.ringCtrlEnable, 8, 0)] → Ok (.ringEnable 0 8 31) ∧ s.on Fld.ringCtrlEnable 8 = false ∧ s.ringCanEnable 8 = true) ∧
    (∀ s, s = put (ringed []) [(Fld.ringCtrlEnable, 8, 0), (Fld.sqSizeLog2Slots, 8, 2)] → s.on Fld.ringCtrlEnable 8 = false ∧ s.ringCanEnable 8 = false) ∧
    (Ok (.ringEnable 0 1027 0) ∧ Ok (.ringResume 0 8 1)) ∧
    (∀ s, s = put (ringed []) [(Fld.ringStatusHalted, 8, 1)] → s.on Fld.ringStatusHalted 8 = true ∧ s.sliceState (ringSlice 8) ≠ 2 ∧
      s.sliceState (ringSlice 8) ≠ 3 ∧ (s.ring 8).failedLen = none) := by
  refine ⟨?_, ?_, ?_, ?_, ?_⟩
  · intro s hs; subst hs; decide +kernel
  · intro s hs; subst hs; decide +kernel
  · intro s hs; subst hs; decide +kernel
  · decide +kernel
  · intro s hs; subst hs; decide +kernel

/-! ### Witnesses: slices -/

/-- Slice 2, unbound, with a PASID of its own, a key that is no other's, and one memory range. -/
def unbound2 : State :=
  put (((busy.setReg .keyData 32 5).setReg .keyData 40 6)) [(Fld.slicePasidPasid, 2, 9), (Fld.slicePasidPasidValid, 2, 1),
    (Fld.memRangeBaseEnable, 16, 1), (Fld.memRangeBaseBase, 16, 512), (Fld.memRangeLastLast, 16, 1023), (Fld.keyStatusKeyValid, 2, 1)]

theorem witness_SliceCommandsComplete_reset :
    (Ok (.sliceReset 0 1 3) ∧ busy.sliceState 1 ≠ 0 ∧ busy.sliceState 1 ≠ 4) ∧
    (∀ s, s = put busy [(Fld.sliceStatusState, 1, 4)] → s.sliceState 1 = 4 ∧ (s.sliceSt 1).drained = false ∧ s.sliceDrained 1 = true) ∧
    (∀ s, s = (put busy [(Fld.sliceStatusState, 1, 4)]).setSliceSt 1 { drained := true } → (s.sliceSt 1).drained = true ∧
      s.resetZeroing 1 = false ∧ (s.sliceSt 1).unbind = false) ∧
    (∀ s, s = (put busy [(Fld.sliceStatusState, 1, 4)]).setSliceSt 1 { drained := true, unbind := true } → (s.sliceSt 1).drained = true ∧
      s.resetZeroing 1 = false ∧ (s.sliceSt 1).unbind = true) ∧
    (∀ s y, s = busy → y = ((s.wr Fld.sliceCtrlEnable 1 0).setSliceSt 1 { s.sliceSt 1 with unbind := true }).cancelLaunch 1 →
      Ok (.sliceDisable 0 1 0) ∧ s.on Fld.sliceCtrlEnable 1 = true ∧ y.sliceState 1 ≠ 4) ∧
    (∀ s y, s = put busy [(Fld.sliceStatusState, 1, 4)] → y = ((s.wr Fld.sliceCtrlEnable 1 0).setSliceSt 1 { s.sliceSt 1 with unbind := true }).cancelLaunch 1 →
      s.on Fld.sliceCtrlEnable 1 = true ∧ y.sliceState 1 = 4) ∧
    (∀ s, s = put busy [(Fld.sliceStatusState, 1, 2)] → s.sliceState 1 = 2 ∧ s.sliceStopped 1 = true) := by
  refine ⟨by decide +kernel, ?_, ?_, ?_, ?_, ?_, ?_⟩
  · intro s hs; subst hs; decide +kernel
  · intro s hs; subst hs; decide +kernel
  · intro s hs; subst hs; decide +kernel
  · intro s y hs hy; subst hy; subst hs; decide +kernel
  · intro s y hs hy; subst hy; subst hs; decide +kernel
  · intro s hs; subst hs; decide +kernel

/-- A COPY to the host, the next packet of ring 8, and the last ring's latest reply are refused. -/
theorem witness_SliceCommandsComplete_refused :
    (∀ c s, c = cmd 0x10 255 (pk [(0, 3), (4, 2), (32, 64)]) .running → s = ringed [c] →
      Ok (.hostRequestRefused 0 0 c.id true) ∧ s.cmd? c.id = some c ∧ c.usesHost = true) ∧
    (∀ c s, c = cmd 0x21 0 5 .issued → s = ringed [c] → s.cmd? c.id = some c ∧ c.usesHost = false ∧ c.willDeliver = true) ∧
    (∀ s, s = onePacket → Ok (.hostRequestRefused 0 1 8 false) ∧ s.ringServed 8 = true ∧ (s.ring 8).stampQ = [] ∧ s.covered 8 ≠ 0) ∧
    Ok (.hostRequestRefused 0 2 1027 false) := by
  refine ⟨?_, ?_, ?_, by decide⟩
  · intro c s hc hs; subst hc; subst hs; decide +kernel
  · intro c s hc hs; subst hc; subst hs; decide +kernel
  · intro s hs; subst hs; decide +kernel

theorem witness_BindingASlice :
    (unbound2.inOrder = true ∧ Ok (.sliceEnable 0 2 1) ∧ unbound2.sliceState 2 = 0 ∧ unbound2.on Fld.slicePasidPasidValid 2 = true ∧
      ((List.range 128).all fun t => t == 2 || !unbound2.on Fld.sliceCtrlEnable t ||
        unbound2.rd Fld.slicePasidPasid t != unbound2.rd Fld.slicePasidPasid 2) = true ∧
      unbound2.on Fld.keyStatusKeyValid 2 = true ∧ unbound2.on Fld.memRangeBaseEnable (8 * 2 + 0) = true) ∧
    (∀ s, s = put unbound2 [(Fld.slicePasidPasid, 2, 0)] → s.rd Fld.slicePasidPasid 1 = s.rd Fld.slicePasidPasid 2 ∧
      s.on Fld.sliceCtrlEnable 1 = true) ∧
    (busy.inOrder = true ∧ busy.sliceState 1 ≠ 0 ∧ Ok (.memRangeWrite 0 1 7 true 1) ∧
      (∃ a, Ok (.registerWrite 0 a 4 1) ∧ regAt a = some ⟨.slicePasid, 1, 0⟩) ∧
      (∃ a, Ok (.registerWrite 0 a 4 1) ∧ regAt a = some ⟨.keyData, 16 * 1 + 15, 0⟩) ∧ Ok (.keyLoad 0 1 1) ∧ Ok (.keyErase 0 1 2)) := by
  refine ⟨by decide +kernel, ?_, by decide +kernel, by decide +kernel, by decide, ⟨0x1010004, by decide +kernel⟩, ⟨0x101023C, by decide +kernel⟩,
    by decide, by decide⟩
  intro s hs; subst hs; decide +kernel

theorem witness_LoadingAKey :
    (unbound2.sliceState 2 = 0 ∧ Ok (.keyLoad 0 2 1) ∧ unbound2.keyData 2 % 2 ^ 256 ≠ unbound2.keyData 2 / 2 ^ 256 ∧
      ((List.range 128).all fun u => u == 2 || unbound2.sliceKey? u != some (BitVec.ofNat 512 (unbound2.keyData 2))) = true) ∧
    (busy.keyData 2 % 2 ^ 256 = busy.keyData 2 / 2 ^ 256) ∧
    (∀ s, s = { unbound2 with keys := [BitVec.ofNat 512 (unbound2.keyData 2)] }.setSliceSt 1 { key := some 0 } →
      s.sliceKey? 1 = some (BitVec.ofNat 512 (s.keyData 2))) ∧ Ok (.keyErase 0 2 2) := by
  refine ⟨by decide +kernel, by decide +kernel, ?_, by decide⟩
  · intro s hs; subst hs; decide +kernel

/-- The range next to slice 1's, and the last of slice 1's own. -/
theorem witness_RangeWrites :
    unbound2.sliceState 2 = 0 ∧ Ok (.memRangeWrite 0 2 7 false (1 + 512 * 2 ^ 21)) ∧ Ok (.memRangeWrite 0 2 7 true 0) ∧
    unbound2.rangeOk 2 512 512 = true ∧ unbound2.rangeOk 2 511 512 = false ∧ unbound2.rangeOk 2 512 511 = false ∧
    unbound2.rd Fld.memRangeBaseEnable 16 = 1 ∧ unbound2.rd Fld.memRangeBaseEnable 23 = 0 ∧
    unbound2.rangeOk 2 (unbound2.rd Fld.memRangeBaseBase 16) 1023 = true ∧ unbound2.rangeOk 2 (unbound2.rd Fld.memRangeBaseBase 16) 511 = false ∧
    Ok (.sliceBasinsWrite 0 2 3) ∧ busy.reg .sliceBasins 1 &&& 3 ≠ 0 ∧ busy.fixedShare 1 = false ∧ busy.fixedShare 2 = false ∧
    (put busy [(Fld.schedShareFixedShare, 1, 1)]).fixedShare 1 = true := by decide +kernel

theorem witness_RangesBoundAccess :
    busy.devOk 1 0 (2 ^ 30) = true ∧ busy.devOk 1 1 (2 ^ 30) = false ∧ ∃ t, Does (.memRangeWrite 0 2 0 false 0) busy t :=
  by
  refine ⟨by decide +kernel, by decide +kernel, (busy.advance 0).rangeWrite 2 0 false 0, ?_⟩
  simp only [Does, exec, execMemRangeWrite, enter, enterIf]
  exact if_pos (by decide)

/-! ### Witnesses: scheduling -/

/-- Slice 2 claims basin 0 for a tile, at tier `t`; slice 1 holds it with the commands `cs`, at tier 5, and has a save area. -/
def rival (t : Nat) (cs : List Cmd) : State :=
  (put (held busy cs) [(Fld.sliceStatusState, 2, 1), (Fld.sliceCtrlEnable, 2, 1), (Fld.ringCtrlEnable, 16, 1), (Fld.saveBaseValid, 8, 1),
    (Fld.saveBaseBase, 8, 1), (Fld.saveBaseValid, 16, 1), (Fld.saveBaseBase, 16, 64), (Fld.memRangeBaseEnable, 16, 1),
    (Fld.memRangeBaseBase, 16, 512), (Fld.memRangeLastLast, 16, 1023), (Fld.schedQuantumQuantum, 0, 0), (Fld.hbmTrainState0, 0, 2)]
    |>.setReg .sliceBasins 2 1).setReg .schedEffTier 1 5 |>.setReg .schedEffTier 2 t
    |>.setRing 16 { stampQ := [⟨pk [(0, 8), (8, 2), (16, 0)], 0, 0, 3, 64, 5, true, true, false⟩] }

/-- Basin 0 in stage `n` of a switch to slice 2. -/
def switching (n : Nat) (cs : List Cmd) (s : State) : State := (held s cs).setBasin 0 { tenant := 1, woken := true, switch := some ⟨2, n⟩ }

theorem witness_SchedulingCommandsComplete_registers :
    State.tick1024 { busy with time := { count64 := 64 * 1024 } } = true ∧ busy.ticked.contains .markers = false ∧
    (Ok (.markerEnable 0 127 1) ∧ busy.on Fld.schedMarkEnable 127 = false) ∧
    (Ok (.weightWrite 0 1 1) ∧ Ok (.fixedShareWrite 0 127 (2 ^ 16 + 2 ^ 16 - 1)) ∧ busy.sharesBasin 1 = false ∧ busy.fixedShare 1 = false) := by
  decide +kernel

/-- A claim against an idle owner, at a better tier, and at the owner's tier after the quantum. -/
theorem witness_SchedulingCommandsComplete_claims :
    (∀ s, s = rival 7 [] → (bestClaim (s.claimsOn 0)).map (fun c => (c.slice, c.tier)) = some (2, 7) ∧ s.maySwitch 0 = true ∧
      s.deferSwitch 0 2 = false ∧ s.ownerWork 0 = []) ∧
    (∀ s, s = rival 4 [cmd 8 0 (jetTile 0 0) .running] → (bestClaim (s.claimsOn 0)).map (fun c => (c.slice, c.tier)) = some (2, 4) ∧
      s.maySwitch 0 = true ∧ s.deferSwitch 0 2 = false ∧ (s.saveArea (s.basin 0).tenant 0).isSome = true ∧ 4 < s.ownerTier 0) ∧
    (∀ s, s = rival 5 [cmd 8 0 (jetTile 0 0) .running] → (bestClaim (s.claimsOn 0)).map (fun c => (c.slice, c.tier)) = some (2, 5) ∧
      s.maySwitch 0 = true ∧ s.deferSwitch 0 2 = false ∧ s.ownerWork 0 ≠ [] ∧ (s.saveArea (s.basin 0).tenant 0).isSome = true ∧
      5 = s.ownerTier 0 ∧ s.quantumOver 0 = true) := by
  refine ⟨?_, ?_, ?_⟩ <;> (intro s hs; subst hs; decide +kernel)

theorem witness_SchedulingCommandsComplete_switch :
    (∀ s, s = switching 1 [] (rival 4 []) → (s.basin 0).switch = some ⟨2, 1⟩ ∧ s.drained 0 = true ∧
      (s.claimsOn 0).any (·.slice == 2) = true ∧ (s.saveArea (s.basin 0).tenant 0).isSome = true) ∧
    (∀ s, s = switching 1 [] (put (rival 4 []) [(Fld.saveBaseValid, 8, 0)]) → (s.saveArea (s.basin 0).tenant 0) = none) ∧
    (∀ s, s = switching 1 [] busy → s.drained 0 = true ∧ s.claimsOn 0 = []) ∧
    (∀ s, s = switching 2 [] (rival 4 []) → Ok (.saveComplete 0 0 false 0 []) ∧ (s.upsets []).saveArea 1 0 = some (2 ^ 24) ∧
      (s.upsets []).saveFails 0 (2 ^ 24) ((s.upsets []).liveParts 0 (2 ^ 24) 0) false = none) ∧
    (∀ s, s = ((rival 4 []).setBasin 0 { tenant := 1, woken := true, switch := some ⟨2, 3⟩, zeroing := some ⟨1, 224, 2⟩ }) →
      (s.basin 0).zeroing = some ⟨1, 224, 2⟩ ∧ (((s.zeroRegion 0 false).endZero 0 ⟨1, 224, 2⟩).basin 0).switch = some ⟨2, 3⟩ ∧
      ((s.zeroRegion 0 false).endZero 0 ⟨1, 224, 2⟩).saved? 2 0 = none) := by
  refine ⟨?_, ?_, ?_, ?_, ?_⟩ <;> (intro s hs; subst hs; decide +kernel)

/-- An empty saved job. -/
def emptyJob : SavedJob :=
  { task := none, inTask := [], ran := [], causes := [], instrets := [], cycles := [], reissues := 0, fail := 0, last := 0, holders := [],
    semTask := [], accepted := [] }

theorem witness_SchedulingCommandsComplete_restore :
    (∀ s, s = { (rival 4 []).setBasin 0 { tenant := 1, woken := true, switch := some ⟨2, 3⟩, zeroing := some ⟨1, 224, 2⟩ } with
        saves := [(2 * 64, emptyJob)] } →
      (((s.zeroRegion 0 false).endZero 0 ⟨1, 224, 2⟩).saved? 2 0).isSome = true) ∧
    (∀ s, s = { switching 4 [] (rival 4 []) with saves := [(2 * 64, emptyJob)], dev := ⟨[(2 ^ 30, 5)], []⟩ } →
      (s.basin 0).switch = some ⟨2, 4⟩ ∧ s.saved? 2 0 = some emptyJob ∧ s.saveArea 2 0 = some (2 ^ 30) ∧
      s.areaOk 0 2 (2 ^ 30) (s.liveParts 0 (2 ^ 30) 0) false = true) := by
  refine ⟨?_, ?_⟩ <;> (intro s hs; subst hs; decide +kernel)

/-- A gate list of one window, from 1,000,000 to 1,100,000 of a period of 2,000,000. -/
def gates : GateList := ⟨2000000, 0, 2360, [(1000000, 1100000)]⟩

/-- A GATE_LIST command, with its list at 0x40. -/
def gateCmd (remove : Nat) : Cmd := { cmd 0x31 255 (pk [(8, remove), (64, 983040 + 0), (128, 0x40)]) .issued with ring := 1024, slice := 128 }

theorem witness_GateCommandsComplete :
    (∀ s, s = { put (holding busy (gateCmd 0)) [(Fld.cisternPartRadioBanks, 0, 1)] with
        dev := ⟨bytesAt 0x40 40 (pk [(0, 2000000), (32, 1), (64, 0), (128, 2360), (256, 1000000), (288, 1100000)]), []⟩ } →
      s.firstH 1024 0x31 = some (gateCmd 0) ∧ s.gateParamsOk (gateCmd 0) = true ∧ s.gateListStatus (gateCmd 0) false = stOk) ∧
    (∀ s, s = holding busy (gateCmd 1) → s.firstH 1024 0x31 = some (gateCmd 1) ∧ s.gateParamsOk (gateCmd 1) = true ∧
      bitAt (gateCmd 1).params 8 = true) ∧
    (∀ s, s = { busy.setBasin 0 { tenant := 1, woken := true, pendAct := some 5, pendList := some gates } with time := { count64 := 64 * 5 } } →
      (s.basin 0).pendAct = some 5 ∧ 5 ≤ s.now ∧ s.inGuard 0 = false ∧ s.windowOpen 0 = false) ∧
    (∀ s, s = { (busy.setBasin 0 { tenant := 1, woken := true, gateList := some gates }).setReg .gateNextOpen 0 1000000 with
        time := { count64 := 64 * (1000000 - 2360) } } →
      (s.basin 0).gateList = some gates ∧ s.windowOpen 0 = false ∧ s.inGuard 0 = false ∧ s.reg .gateNextOpen 0 ≤ s.now + gates.guard) ∧
    (∀ s, s = { (busy.setBasin 0 { tenant := 1, woken := true, gateList := some gates }).setReg .gateNextOpen 0 1000000 with
        time := { count64 := 64 * 1000000 } } → s.windowOpen 0 = false ∧ s.reg .gateNextOpen 0 ≤ s.now) ∧
    (∀ s, s = { put (busy.setBasin 0 { tenant := 1, woken := true, gateList := some gates }) [(Fld.basinStateRadioWindow, 0, 1)] with
        time := { count64 := 64 * 1100000 } } →
      s.windowOpen 0 = true ∧ s.on Fld.gateStatusExtended 0 = false ∧ s.pastClose 0 = true ∧ s.radioBusy 0 = false) ∧
    (∀ s, s = { put (busy.setBasin 0 { tenant := 1, woken := true, gateList := some gates, radioWork := 1 }) [(Fld.basinStateRadioWindow, 0, 1)] with
        time := { count64 := 64 * 1100000 } } → s.pastClose 0 = true ∧ s.radioBusy 0 = true) ∧
    (∀ s, s = put (busy.setBasin 0 { tenant := 1, woken := true, gateList := some gates })
        [(Fld.basinStateRadioWindow, 0, 1), (Fld.gateStatusExtended, 0, 1)] →
      s.windowOpen 0 = true ∧ s.on Fld.gateStatusExtended 0 = true ∧ s.radioBusy 0 = false) := by
  refine ⟨?_, ?_, ?_, ?_, ?_, ?_, ?_, ?_⟩ <;> (intro s hs; subst hs; decide +kernel)

/-- Buckets one byte short of, at and beyond what is asked. -/
theorem witness_MarkerBuckets :
    (∀ s, s = ((busy.setReg .schedTc 1 64).setReg .schedTp 1 128).setSliceSt 1 { cbs := 4096, pbs := 4096 } →
      s.inOrder = true ∧ Ok (.markerEnable 0 1 1) ∧ s.on Fld.schedMarkEnable 1 = false ∧ s.reg .schedTp 1 < min 129 (s.sliceSt 1).pbs ∧
      (min 128 (s.sliceSt 1).pbs ≤ s.reg .schedTp 1 ∧ s.reg .schedTc 1 < min 128 (s.sliceSt 1).cbs) ∧
      (min 64 (s.sliceSt 1).pbs ≤ s.reg .schedTp 1 ∧ s.on Fld.schedMarkColourAware 1 = false ∧ min 64 (s.sliceSt 1).cbs ≤ s.reg .schedTc 1)) ∧
    (put busy [(Fld.schedMarkColourAware, 1, 1)]).on Fld.schedMarkColourAware 1 = true := by
  refine ⟨?_, by decide +kernel⟩
  intro s hs; subst hs; decide +kernel

/-! ### Witnesses: radio -/

/-- Carrier 0 enabled at 15 kHz with 1 PRB, basin 2 reserved, and a memory range of slice 0 at 2 GiB. -/
def radio (cs : List Cmd) : State :=
  (put (held busy cs) [(Fld.radioCtrlEnable, 0, 1), (Fld.carCtrlEnable, 0, 1), (Fld.carCtrlRingSyms, 0, 14), (Fld.carCtrlUlBasins, 0, 1),
    (Fld.carUlUlBasin, 0, 2), (Fld.carDlDlBasin, 0, 2), (Fld.carPrbNPrb, 0, 1), (Fld.carBufSymStride, 0, 64), (Fld.carWinWinClose, 0, 1000),
    (Fld.basinStateGated, 2, 0), (Fld.basinStateRadioReserved, 2, 1), (Fld.memRangeBaseEnable, 0, 1), (Fld.memRangeBaseBase, 0, 1024),
    (Fld.memRangeLastLast, 0, 1535)]).setRegBit .radioReserved 0 2 true

/-- A packet of one section, of one PRB of subcarrier data, for slot 0, symbol 0. -/
def aPacket : UPlane :=
  { car := 0, port := 0, eaxc := 0, frame := 0, sub := 0, slot := 0, sym := 0,
    sections := [{ method := 0, width := 16, start := 0, prbs := [(0, List.replicate 24 1)] }] }

theorem witness_CarrierCommandsComplete_carriers :
    (∀ s, s = radio [] → Ok (.carrierEnable 0 0 0) ∧ Ok (.carrierEnable 0 0 1) ∧
      ((s.setReg .carCtrl 0 (s.reg .carCtrl 0)).carrierOk 0) = true) ∧
    (∀ s, s = put (radio []) [(Fld.carWinWinClose, 0, 1024)] → Ok (.uplaneSection 0 aPacket) ∧ s.carServes 0 = true ∧ s.safe = false ∧
      s.uplaneOk aPacket = true) ∧
    (∀ s, s = { radio [] with time := { count64 := 64 * 1000 } } → Ok (.receiveWindowClose 0 0 0 0) ∧ s.carServes 0 = true ∧
      s.symStart 0 0 0 + s.rd Fld.carWinWinClose 0 ≤ s.now ∧ s.markedFrom (symKey 0 0 0) closedMark = false ∧
      Ok (.dlSymbolEmission 0 0 0 13) ∧ s.markedFrom (symKey 0 0 13) emittedMark = false) ∧
    (∀ s, s = put (radio []) [(Fld.carShiftDlAdvance, 0, 2 ^ 20)] → s.symStart 0 0 13 ≤ s.now + s.rd Fld.carShiftDlAdvance 0) ∧
    (∀ s, s = put (radio []) [(Fld.basinStateGated, 3, 0)] → Ok (.radioReservedWrite 0 8) ∧
      ((List.range 64).filter fun b => bitAt 8 b && !s.regBit .radioReserved 0 b) = [3] ∧
      ((List.range 64).filter fun b => !bitAt 8 b && s.regBit .radioReserved 0 b) = [2] ∧ s.mayReserve 3 = true ∧ s.mayRelease 2 = true) ∧
    (∀ s, s = radio [] → Ok (.radioEnable 0 1) ∧ Ok (.radioEnable 0 0) ∧ s.harqRegionOk = true) := by
  refine ⟨?_, ?_, ?_, ?_, ?_, ?_⟩ <;> (intro s hs; subst hs; decide +kernel)

/-- Its section falls in slot 0: PP_LAT holds the calibration of the port, whatever that is. -/
theorem witness_CarrierCommandsComplete_section :
    ∀ s, s = put (radio []) [(Fld.carWinWinClose, 0, 1024)] → s.sectionSlot aPacket (s.ingressStamp 0) = some 0 := by
  intro s hs
  have h : (s.carMu 0 = 0 ∧ s.reg .carSlotBase 0 = 0 ∧ s.carSlot 0 = 983040 ∧ s.symStart 0 0 0 = 0 ∧ s.rd Fld.carWinWinOpen 0 = 0) ∧
      s.rd Fld.carWinWinClose 0 = 1024 ∧ s.time.count64 = 0 ∧ (s.regs.all fun e => e.1 != regKey .ppLat 0) = true := by
    subst hs; decide +kernel
  obtain ⟨⟨h1, h2, h3, h4, h5⟩, h6, h7, h8⟩ := h
  have hi : s.rd Fld.ppLatIngressLat 0 = Config.calLat 0 % 65536 := by
    rcases Tbl.get_cases (regReset .ppLat 0) s.regs (regKey .ppLat 0) with h | h
    · rw [State.rd, State.reg, show Fld.ppLatIngressLat.reg = .ppLat from rfl, h]
      simp only [Fld.ppLatIngressLat, slice, regReset, RegName.resetVal, show regMask .ppLat 0 = 2 ^ 32 - 1 by decide +kernel,
        Nat.and_two_pow_sub_one_eq_mod, BitVec.toNat_ofNat]
      omega
    · exact absurd (List.all_eq_true.1 h8 _ h) (by simp)
  simp [State.sectionSlot, State.ingressStamp, aPacket, h1, h2, h3, h4, h5, h6, h7, hi]

/-- A command of ring 0 of slice 0. -/
def cmd0 (opcode params : Nat) (phase : Phase) : Cmd := { cmd opcode 255 params phase with ring := 0, slice := 0 }

/-- A plan of one SPOUT operation on basin 2 for the second slot to come, the first one that is not late. -/
theorem witness_CarrierCommandsComplete_plan :
    ∀ c s, c = cmd0 0x30 (pk [(64, 2 * 983040), (128, 2 ^ 31)]) .issued →
      s = { radio [c] with dev := ⟨bytesAt (2 ^ 31) 32 (pk [(0, 9), (4, 2), (96, 1000), (128, 2 ^ 31 + 64), (192, 16)]) ++
        bytesAt (2 ^ 31 + 64) 64 (pk [(64, 1)]), []⟩ } →
      Ok (.slotPlan 0 0 false) ∧ s.firstH 0 0x30 = some c ∧ (s.admission c.params c.start false).isLeft = true := by
  intro c s hc hs; subst hc; subst hs; decide +kernel

/-- An operation of a kind on an instance, in a state. -/
def radioOp (kind inst st : Nat) : RadioOp :=
  { kind := kind, inst := inst, jet := 0, dep0 := 0, dep1 := 0, startOff := 0, deadline := 100, params := pk [(64, 1)], budget := 16, bound := 0,
    st := st, moved := false, late := false, poison := false, writes := [], flags := .none, records := [] }

/-- A device with one plan of carrier 0 that holds these operations. -/
def planned (os : List RadioOp) : State := { radio [] with radio := { plans := [⟨1, 0, 0, os⟩] } }

theorem witness_RadioOperationsComplete_wellhead :
    ([(1, 31), (2, 15), (3, 7), (4, 7), (5, 15), (6, 15), (7, 15)].all fun x =>
      ((planned [radioOp x.1 x.2 0]).startable (opEngine 0 x.1 x.2 0) x.1).isSome) = true ∧
    Ok (.ldpcDec 0 31 true) ∧ Ok (.ldpcEnc 0 15 false) ∧ Ok (.polarDec 0 7 false) ∧ Ok (.polarEnc 0 7 false) ∧ Ok (.dft 0 15 false) ∧
    Ok (.prach 0 15 false) ∧ Ok (.dmrsMeas 0 15 false) ∧ Ok (.cplaneTx 0 0 false) ∧
    ((planned [{ radioOp 10 0 0 with params := 2 ^ 31 }]).startable (opEngine 0 10 0 0) 10).isSome = true ∧
    (planned []).devFenced (2 ^ 31) 0 = false := by decide +kernel

theorem witness_RadioOperationsComplete_basins :
    (∀ s, s = planned [radioOp 8 2 0, radioOp 9 2 0] → Ok (.radioJetOp 0 2 0 []) ∧
      ((s.upsets []).startable (opEngine 0 8 2 0) 8).isSome = true ∧ ((s.upsets []).takeStart (2 * 2 + 0) 4).2 = true ∧ (s.upsets []).noLone 2 = true ∧
      Ok (.radioSpoutOp 0 2) ∧ (s.startable (opEngine 0 9 2 0) 9).isSome = true ∧ (s.basin (s.ctx 2)).task = none ∧
      (s.takeStart (320 + 2) ((List.range 8).filter fun k => bitAt (radioOp 9 2 0).params (64 + k)).length).2 = true) ∧
    (∀ s, s = { (planned [radioOp 9 2 1]).setBasin 2 { task := some { aTask with cmd := 0, radioOp := some (1, 0), slice := 0 } } with
        time := { count64 := 64 * 1000 } } →
      (s.radioTask 2).map (fun x => (x.1, x.2.2.1, x.2.2.2)) = some (2, 1, 0) ∧ (s.plan? 1).isSome = true ∧
      (radioOp 9 2 1).budget ≤ s.taskCycles 2 { aTask with cmd := 0, radioOp := some (1, 0), slice := 0 }) := by
  refine ⟨?_, ?_⟩ <;> (intro s hs; subst hs; decide +kernel)

/-- An operation that ends; one whose deadline passed at 100 and has count 101; one that nothing can run; takeovers. -/
theorem witness_RadioOperationsComplete_ends :
    (∀ s, s = planned [radioOp 1 0 1] → Ok (.radioOpEnd 0 0 0 [] ⟨[], 0⟩) ∧ (s.upsets []).opAt 0 0 = some (⟨1, 0, 0, [radioOp 1 0 1]⟩, radioOp 1 0 1) ∧
      ((s.upsets []).opWrites ⟨1, 0, 0, [radioOp 1 0 1]⟩ 0 (radioOp 1 0 1) [] 0).isSome = true) ∧
    (∀ s, s = { planned [radioOp 1 0 0] with time := { count64 := 64 * 101 } } → Ok (.slotOverrun 0 0 0) ∧ (s.opAt 0 0).isSome = true ∧
      0 + (radioOp 1 0 0).deadline < s.now ∧ s.cannotRun (radioOp 1 0 0) = false) ∧
    (∀ s, s = (planned [radioOp 1 31 0]).setRegBit (engineBit 0 31).1 0 (engineBit 0 31).2 true → s.cannotRun (radioOp 1 31 0) = true) ∧
    (∀ s, s = put (planned []) [(Fld.radioProtectValid, 2, 1), (Fld.radioProtectStandby, 2, 63), (Fld.basinStateFenced, 2, 1)] →
      Ok (.radioTakeover 0 0 2) ∧ s.basinHit 2 = true ∧ s.standbyFor 2 = some 63) ∧
    (∀ s, s = (put (planned []) [(Fld.engineSpareDecValid, 0, 1), (Fld.engineSpareDecSpare, 0, 31)]).setRegBit (engineBit 0 0).1 0 (engineBit 0 0).2 true →
      Ok (.radioTakeover 0 1 0) ∧ s.engineFenced 0 0 = true ∧ s.spareFor 0 0 = some 31) := by
  refine ⟨?_, ?_, ?_, ?_, ?_⟩ <;> (intro s hs; subst hs; decide +kernel)

/-- A CELL_MIGRATE of carrier 0 at count 2 x 983,040, with one extent of 0 bytes at 2 GiB. -/
def migrate (dest : Nat) : Cmd := cmd0 0x32 (pk [(8, dest), (64, 2 * 983040), (128, 2 ^ 31), (176, 1)]) .issued

/-- A migration of carrier 0. -/
def moving (dest switched : Bool) (acked : Nat) : Migration :=
  { carrier := 0, cmd := 1, dest := dest, peer := 0, switch := 1000, extents := [(0, 0)], counter := 9, switched := switched, acked := acked,
    failed := false, skip := false }

def migrating (dest switched : Bool) (acked : Nat) (now : Nat) : State :=
  { radio [cmd0 0x32 0 .running] with radio := { migrations := [moving dest switched acked] }, time := { count64 := 64 * now } }

theorem witness_MigrationCommandsComplete :
    ([0, 1].all fun d => (radio [migrate d]).firstH 0 0x32 == some (migrate d) && (radio [migrate d]).migCheck (migrate d).params 0 false == stOk &&
      Mg.dest (migrate d).params == (d == 1)) = true ∧ Ok (.cellMigrateSource 0 0 false) ∧ Ok (.cellMigrateDest 0 0 false) ∧
    (∀ s, s = migrating false false 0 1000 → s.liveMigration 0 false = some (moving false false 0) ∧ s.safe = false) ∧
    (∀ s, s = migrating false true 1 2000 → s.liveMigration 0 false = some (moving false true 1) ∧ s.aqdPending 1 = false ∧ (s.cmd? 1).isSome = true) ∧
    (∀ s, s = (migrating true false 0 1000).setReg .aqdArrival 9 1 → s.liveMigration 0 true = some (moving true false 0) ∧ (s.cmd? 1).isSome = true ∧
      s.extentsHere (moving true false 0) = true ∧ s.now < s.migLimit (moving true false 0)) ∧
    (∀ s, s = migrating true false 0 (1000 + 2 * 983040) → s.liveMigration 0 true = some (moving true false 0) ∧ (s.cmd? 1).isSome = true ∧
      s.extentsHere (moving true false 0) = false ∧ s.migLimit (moving true false 0) ≤ s.now) := by
  refine ⟨by decide +kernel, by decide, by decide, ?_, ?_, ?_, ?_⟩ <;> (intro s hs; subst hs; decide +kernel)

/-! ### Witnesses: time -/

/-- A PTP frame of type `ty`, domain 0. -/
def ptp (ty : Nat) : List Byte := ptpFrame (ptpAddress 0) (List.replicate 6 0) (ptpHeader ty 54 0 0 (7, 1) 3 0 0 ++ List.replicate 20 0)

/-- Port 3 has received `f`. -/
def received (f : List Byte) : State := { up with time := { rx := [⟨3, 640, f⟩] } }

theorem witness_TimingCommandsComplete_ptp :
    (((received (ptp 0)).ptpHead 3 0).isSome && ((received (ptp 8)).ptpHead 3 8).isSome && ((received (ptp 9)).ptpHead 3 9).isSome &&
      ((received (ptp 1)).ptpHead 3 1).isSome) = true ∧ Ok (.syncRx 0 3) ∧ Ok (.followUpRx 0 3) ∧ Ok (.delayRespRx 0 3) ∧ Ok (.delayReqRx 0 3) ∧
    (∀ s, s = put (received (ptp 1)) [(Fld.ppCtrlMode, 3, 1), (Fld.ppCtrlDomain, 3, 0)] → s.masterPort 3 = true ∧ s.rd Fld.ppCtrlDomain 3 = ptpDomain (ptp 1) ∧
      Ok (.masterSyncTx 0 3) ∧ Tbl.get 0 s.time.masterDue 3 ≤ s.now) ∧
    (∀ s, s = put up [(Fld.trkCfgEnable, 1, 1)] → Ok (.delayReqTx 0 1) ∧ s.on Fld.trkCfgEnable 1 = true ∧ (s.tracker 1).due ≤ s.now) := by
  refine ⟨by decide +kernel, by decide, by decide, by decide, by decide, ?_, ?_⟩ <;> (intro s hs; subst hs; decide +kernel)

theorem witness_TimingCommandsComplete_servo :
    (∀ s, s = { put up [(Fld.timeStatusState, 0, 1), (Fld.timeHoldoverHoldover, 0, 1)] with time := { count64 := 64 * 2 ^ 20 } } →
      s.rd Fld.timeStatusState = 1 ∧ s.time.lastMeas + s.rd Fld.timeHoldoverHoldover * 2 ^ 20 ≤ s.now ∧ s.rd Fld.timeStatusState ≠ 0 ∧ Ok (.freeRunWrite 0 1)) ∧
    Ok (.trackSelWrite 0 (2 ^ 32 - 2)) ∧ Ok (.synceMeasure 0 (-5)) ∧
    (∀ s, s = { put up [(Fld.timeCtrlSynceEn, 0, 1)] with time := { count64 := 64 * (2 ^ 26 + 5), synceAt := 5 } } →
      s.on Fld.timeCtrlSynceEn = true ∧ s.time.synceAt + 2 ^ 26 ≤ s.now) := by
  refine ⟨?_, by decide, by decide, ?_⟩ <;> (intro s hs; subst hs; decide +kernel)

/-- An output whose start is exactly 1,024 counts away; its edge; a first capture, one 8 ns after the edge before it, and a full queue;
launches. -/
theorem witness_TimingCommandsComplete_pins :
    (∀ s, s = put up [(Fld.outStartStart, 1, 1024), (Fld.outWidthWidth, 1, 256)] → Ok (.outputEnable 0 1 1) ∧ s.on Fld.outCtrlEnable 1 = false ∧
      s.outLate 1 = false ∧ s.outBad 1 1 = false ∧ Ok (.outputDisable 0 1 0)) ∧
    (∀ s, s = { put up [(Fld.outCtrlEnable, 1, 1), (Fld.outStartStart, 1, 1024), (Fld.outFracPDen, 1, 1)] with time := { count64 := 64 * 1024 } } →
      Ok (.outputEdge 0 1) ∧ s.on Fld.outCtrlEnable 1 = true ∧ s.safe = false ∧ s.nextPinEdge 1 ≤ s.time.count64) ∧
    (∀ s, s = put up [(Fld.capCtrlEnable, 3, 1)] → Ok (.captureEdge 0 3 true) ∧ Tbl.find s.time.edges 3 = none ∧ s.captureTaken 3 true = true ∧
      (s.captures 3).length < 16) ∧
    (∀ s, s = { put up [(Fld.capCtrlEnable, 3, 1)] with time := { count64 := 64 * 9, edges := [(3, 64 * 9 - pulseMin, false, 1)] } } →
      Tbl.find s.time.edges 3 = some (64 * 9 - pulseMin, false, 1) ∧ 64 * 9 - pulseMin + pulseMin ≤ s.time.count64 ∧ s.captureTaken 3 true = true ∧
      s.time.count64 - 1 < 64 * 9 - pulseMin + pulseMin) ∧
    (∀ s, s = (put up [(Fld.capCtrlEnable, 3, 1)]).setCaptures 3 (List.replicate 16 (0, true)) → s.captureTaken 3 true = true ∧
      16 ≤ (s.captures 3).length) ∧
    (∀ s, s = { up with time := { count64 := 2000 } }.setCaptures 3 [(65, true)] → Ok (.capMetaRead 0 3) ∧ s.captured 3 = (65, true) :: []) ∧
    (∀ s, s = put up [(Fld.launchCountCount, 3, 1024)] → Ok (.launchArm 0 3 1) ∧ s.now + 1024 ≤ s.rd Fld.launchCountCount 3 ∧ Ok (.launchDisarm 0 3 0)) ∧
    (∀ s, s = put up [(Fld.launchCtrlArm, 3, 1)] → Ok (.launchFire 0 3) ∧ s.on Fld.launchCtrlArm 3 = true ∧ s.rd Fld.launchCountCount 3 ≤ s.now) := by
  refine ⟨?_, ?_, ?_, ?_, ?_, ?_, ?_, ?_⟩ <;> (intro s hs; subst hs; decide +kernel)

/-! ### Witnesses: Ethernet -/

/-- Frames of 60 and 9,212 bytes without FCS. -/
def frame (n : Nat) : List Byte := List.replicate n 1

/-- A frame at port 3 that goes to class 7. -/
def eframe : EFrame := { frame := frame 60, cls := 7, green := true, stamp := 0, ingress := 3, kind := 0, tc := false, mgmt := none }

/-- Port 3 up, with room in class 7. -/
def port3 (x : EthSt) : State := (put up [(Fld.ethCtrlEnable, 3, 1), (Fld.ethStatusLinkUp, 3, 1), (Fld.tcQlimitQlimit, 31, 64)]).setEth 3 x

theorem witness_EthernetCommandsComplete_ports :
    (∀ s, s = port3 {} → Ok (.ethFrameRx 0 3 (frame 60) true) ∧ s.portUp 3 = true ∧ s.safe = false ∧ frameLen (frame 60) = 64 ∧
      Ok (.ethLinkChange 0 3 true 15) ∧ Ok (.ethLinkChange 0 3 false 0) ∧ s.on Fld.ethCtrlEnable 3 = true) ∧
    (∀ n, frameLen (List.replicate n (1 : Byte)) = n + 4) ∧
    (∀ s, s = port3 { fwd := [(1, eframe)], fwdLast := (0, 0) } → Ok (.forwardEnqueue 0 ⟨3, 1⟩) ∧
      ((s.pump 3).ethPort 3).fwd.find? (·.1 == 1) = some (1, eframe) ∧ (s.pump 3).mayReach 3 1 = true ∧
      ((s.pump 3).setEth 3 { (s.pump 3).ethPort 3 with fwd := [], fwdLast := ((s.pump 3).now, 1) }).portUp 3 = true ∧
      ((s.pump 3).setEth 3 { (s.pump 3).ethPort 3 with fwd := [], fwdLast := ((s.pump 3).now, 1) }).queueRoom 3 7 (frame 60) = true ∧
      (((s.pump 3).setEth 3 { (s.pump 3).ethPort 3 with fwd := [], fwdLast := ((s.pump 3).now, 1) }).colour 3 eframe).2 = some true) ∧
    (∀ s, s = port3 { queue := [eframe] } → Ok (.egressTransmit 0 3) ∧ s.portUp 3 = true ∧ s.safe = false ∧ (s.ethPort 3).busyUntil ≤ s.now ∧
      (s.pump 3).egressPick 3 = some eframe) ∧
    State.tick1024 { up with time := { count64 := 64 * 2048 } } = true ∧ up.ticked.contains .portMarkers = false := by
  refine ⟨?_, fun n => by simp [frameLen], ?_, ?_, by decide +kernel⟩ <;> (intro s hs; subst hs; decide +kernel)

/-- A list armed exactly 1,024 counts ahead, its switch, and a management entry. -/
theorem witness_EthernetCommandsComplete_lists :
    (∀ s, s = put up [(Fld.gclEntryDuration, 256 * 3, 5), (Fld.gclCycleCycle, 3, 5)] → Ok (.gclArm 0 3 1024) ∧ (s.pendingGcl 3).ok = true ∧
      s.now + 1024 ≤ 1024) ∧
    (∀ s, s = { port3 { pend := some (1024, ⟨5, 0, [(1, 5)]⟩) } with time := { count64 := 64 * 1024 } } → Ok (.gclSwitch 0 3) ∧
      (s.ethPort 3).pend = some (1024, ⟨5, 0, [(1, 5)]⟩) ∧ switchAt (s.ethPort 3).active 1024 ≤ s.now) ∧
    (∀ s, s = { put (port3 {}) [(Fld.mtxSizeLog2Entries, 0, 3), (Fld.mtxTailTail, 0, 1)] with host := ⟨bytesAt 0 32 (pk [(64, 60), (80, 3)]), []⟩ } →
      s.mtx = none ∧ s.rd Fld.mtxSizeLog2Entries ≠ 0 ∧ s.safe = false ∧
      s.rd Fld.mtxHeadHead ≠ s.rd Fld.mtxTailTail % 2 ^ s.rd Fld.mtxSizeLog2Entries ∧ s.mtxAdvance.mtxOk s.mtxWord = true) ∧
    (∀ s, s = { port3 {} with mtx := some eframe } → s.mtxDue ≤ s.now ∧ (s.pump 3).portUp 3 = true ∧ (s.pump 3).queueRoom 3 7 (frame 60) = true ∧
      (({ s.pump 3 with mtx := none } : State).colour 3 eframe).2 = some true) := by
  refine ⟨?_, ?_, ?_, ?_⟩ <;> (intro s hs; subst hs; decide +kernel)

/-! ### Witnesses: the aqueduct -/

/-- An issued request of ring 8 of slice 1 for command 1. -/
def sent (q : AqdReq) (dest port : Nat) : SendReq := ⟨5, 1, 8, 1, q, dest, 0, port, 0, 0, false, false, 0⟩

/-- A translation entry that permits everything, owner slice 1, local address 0. -/
def rtt : Nat := pk [(0, 1), (12, 7), (16, 1)]

/-- The aqueduct runs with its table at 1 MiB, chunk 0 of the job addresses at package 9, which port 0 reaches, and chunk 1 at home. -/
def aqd (cs : List Cmd) (x : AqdSt) : State :=
  { put (held busy cs) [(Fld.aqdCtrlEnable, 0, 1), (Fld.aqdRttBaseBase, 0, 0x100000), (Fld.aqdJobValid, 1, 1), (Fld.homeMapValid, 0, 1),
      (Fld.homeMapPkg, 0, 9), (Fld.homeMapValid, 1, 1), (Fld.routePrimaryValid, 9, 1), (Fld.routePrimary, 9, 0), (Fld.aqpStatusLinkUp, 0, 1),
      (Fld.aqdArrivalOwnerValid, 4095, 1), (Fld.aqdArrivalOwnerSlice, 4095, 1)] with
    dev := ⟨bytesAt 0x100000 16 rtt, []⟩, aqd := x }

/-- A request of this package to its own home that the sender has issued. -/
def own (q : AqdReq) : State := aqd [] { sent := [sent q 0 8] }

/-- The home admits a request on this edge. -/
def turned (s : State) (q : AqdReq) : State := { s with aqd := { s.aqd with turn := some s.time.count64, lastSrc := some q.src } }

/-- The state in which a request of this package is admitted. -/
def ownAt (q : AqdReq) : State := turned ((own q).modSent 5 fun x => { x with lost := true }) q

theorem serves_nothing (s : State) (hi : s.aqd.input = []) : s.serveInput = s := by simp [State.serveInput, hi, State.turns]

theorem own_receives (s u : State) (q : AqdReq) (r : SendReq) (hp : q.src = s.pkg) (hr : s.ownSent q = some r)
    (hu : u = s.modSent r.id fun x => { x with lost := true }) (hs : u.safe = false) (hi : u.aqd.input = []) (ht : u.aqd.turn = none) :
    s.receives q (turned u q) ⟨q, some r.id, u.now⟩ :=
  ⟨u, u, hs, (serves_nothing u hi).symm, by simp [ht], rfl, Or.inr ⟨hp, r, hr, hu, rfl⟩⟩

/-- A read, a write, a block write, an atomic and a bump of this package, and a question for its atomic. -/
def reads : AqdReq := { AqdReq.blank with addr := 128 }
def writes : AqdReq := { AqdReq.blank with kind := .wr, addr := 128, data := List.replicate 128 1, mask := 2 ^ 128 - 1 }
def blocks : AqdReq := { AqdReq.blank with kind := .bw, addr := 128, data := List.replicate 2048 1 }
def atoms : AqdReq := { AqdReq.blank with kind := .at, addr := 128, op := 4, wide := true, operand := 7 }
def bumps : AqdReq := { AqdReq.blank with kind := .bump, counter := 4095, operand := 1 }

/-- The premises of admission for a request of this package. -/
def admitted (q : AqdReq) : Bool :=
  q.src == (own q).pkg && (own q).ownSent q == some (sent q 0 8) && !(ownAt q).safe && (ownAt q).aliveAt q (ownAt q).now &&
    (ownAt q).receiveChecks q == 0 && !(ownAt q).devFenced ((ownAt q).rttAddr q.addr) 16

/-- The premises of settlement finding it new. -/
def isFresh (q : AqdReq) : Bool :=
  let z := (ownAt q).setSrcSt q.src ((ownAt q).settleAdmit q 0).2
  ((ownAt q).settleAdmit q 0).1 == .fresh && !z.devFenced (z.rttAddr q.addr) 16 && !z.devFenced (z.settleAddr q.src (q.seq % 256)) 16

theorem witness_AqueductHomeCommandsComplete_lines :
    (admitted reads && admitted writes && admitted blocks) = true ∧ Ok (.aqdRd 0 reads true) ∧ Ok (.aqdWr 0 writes) ∧ Ok (.aqdBw 0 blocks) := by
  decide +kernel

theorem witness_AqueductHomeCommandsComplete_settled :
    (admitted atoms && admitted bumps && isFresh atoms && isFresh bumps) = true ∧
    Ok (.aqdAt 0 atoms) ∧ Ok (.aqdBump 0 bumps) ∧
    (∀ q r s, q = { AqdReq.blank with kind := .query, t0 := 0 } → r = { sent atoms 0 8 with queries := 1 } → s = aqd [] { sent := [r] } →
      Ok (.aqdQuery 0 q) ∧ q.src = s.pkg ∧ s.ownSent q = some r ∧ ((turned (s.modSent 5 fun x => { x with lost := true }) q).settleAdmit q 0).1 = .notApplied) ∧
    (∀ q r s, q = { AqdReq.blank with kind := .query, t0 := 0 } → r = { sent atoms 0 8 with queries := 1 } →
      s = aqd [] { sent := [r], srcs := [(0, { inc := some 0, high := some 0, entries := [(0, ⟨0, 77, false⟩)] })] } →
      s.ownSent q = some r ∧ ((turned (s.modSent 5 fun x => { x with lost := true }) q).settleAdmit q 0).1 = .recorded 77) := by
  refine ⟨by decide +kernel, by decide, by decide, ?_, ?_⟩ <;> (intro q r s hq hr hs; subst hq; subst hr; subst hs; decide +kernel)

/-- An entry of line 1's queue. -/
def lineOp (q : AqdReq) : LineOp := ⟨1, 3, ⟨q, some 5, 0⟩, 128, List.replicate 128 (some 1), 1, false⟩

/-- A write and an atomic at the head of line 1; a write at its last count and one later; enabling; a counter. -/
theorem witness_AqueductHomeCommandsComplete_queues :
    (∀ s, s = aqd [] { lines := [lineOp writes] } → Ok (.homeLineUpdate 0 1 false) ∧ s.safe = false ∧ s.serveInput.lineQueue 1 = lineOp writes :: [] ∧
      s.serveInput.homeDead (lineOp writes) = false ∧ (lineOp writes).isWrite = true) ∧
    (∀ s, s = aqd [] { lines := [lineOp atoms] } → s.serveInput.lineQueue 1 = lineOp atoms :: [] ∧ s.serveInput.homeDead (lineOp atoms) = false ∧
      (lineOp atoms).isWrite = false ∧ (lineOp atoms).isAt = true) ∧
    (∀ s, s = { aqd [] { lines := [lineOp writes] } with time := { count64 := 64 * 98304 } } → s.homeDead (lineOp writes) = false) ∧
    (∀ s, s = { aqd [] { lines := [lineOp writes] } with time := { count64 := 64 * 98305 } } → Ok (.requestExpiry 0 true 0) ∧
      s.aqd.lines[0]? = some (lineOp writes) ∧ s.homeDead (lineOp writes) = true) ∧
    (∀ s, s = { aqd [] { input := [(⟨writes, none, 0⟩, false)] } with time := { count64 := 64 * 98305 } } →
      s.aqd.lines.length + 0 = 0 ∧ s.aqd.input[0]? = some (⟨writes, none, 0⟩, false) ∧ s.inputDead ⟨writes, none, 0⟩ = true) ∧
    (Ok (.aqdEnable 0 1) ∧ busy.on Fld.aqdCtrlEnable = false ∧ Ok (.arrivalCounterWrite 0 4095 1)) := by
  refine ⟨?_, ?_, ?_, ?_, ?_, by decide +kernel⟩ <;> (intro s hs; subst hs; decide +kernel)

/-- A reply at the last count of the wait; a request that outlives its lifetime at its port; the wait closes; a retry. -/
theorem witness_AqueductSenderCommandsComplete_waits :
    (∀ s, s = aqd [] { sent := [sent writes 9 0] } → Ok (.aqdReply 0 ⟨5, .done, 0, 0, []⟩) ∧ s.aqd.sent.find? (·.id == 5) = some (sent writes 9 0) ∧
      (sent writes 9 0).fits ⟨5, .done, 0, 0, []⟩ = true ∧ s.replyComes (sent writes 9 0) ⟨5, .done, 0, 0, []⟩ = true ∧
      s.now ≤ s.waitEnd (sent writes 9 0) ∧ s.waitEnd (sent writes 9 0) = s.rd Fld.aqdLifetimeLifetime + s.rd Fld.aqdMarginMargin) ∧
    (∀ s, s = { aqd [] { sent := [sent writes 9 0] } with time := { count64 := 64 * 98305 } } → Ok (.requestExpiry 0 false 0) ∧
      s.aqd.sent[0]? = some (sent writes 9 0) ∧ (sent writes 9 0).lost = false ∧ s.aliveAt { writes with t0 := (sent writes 9 0).issued } s.now = false) ∧
    (∀ s, s = { aqd [] { sent := [sent writes 9 0] } with time := { count64 := 64 * 2 ^ 32 } } → s.waitEnd (sent writes 9 0) ≤ s.now ∧
      (sent writes 9 0).req.numbered = false) ∧
    (∀ s, s = { aqd [] { sent := [sent atoms 9 0] } with time := { count64 := 64 * 2 ^ 32 } } → s.waitEnd (sent atoms 9 0) ≤ s.now ∧
      (sent atoms 9 0).req.numbered = true ∧ (sent atoms 9 0).queries < s.rd Fld.aqdQueryMaxQueryMax ∧
      s.rd Fld.aqdQueryMaxQueryMax ≤ ({ sent atoms 9 0 with queries := 4 } : SendReq).queries) ∧
    (∀ s, s = { aqd [] { sent := [{ sent atoms 9 0 with unresolved := true }] } with time := { count64 := 64 * 98304 } } →
      s.safe = false ∧ 0 + s.rd Fld.aqdLifetimeLifetime ≤ s.now ∧ s.outstanding 9 < 64) ∧
    (∀ s, s = { aqd [] { sent := { sent atoms 9 0 with unresolved := true } :: (List.range 64).map fun i => { sent atoms 9 0 with id := 6 + i } } with
        time := { count64 := 64 * 98304 } } → (sent atoms 9 0).asks = 0 ∧ 64 ≤ s.outstanding 9) ∧
    (∀ s, s = put (aqd [] { sent := [sent atoms 9 0] }) [(Fld.aqdRetryIntRetry, 0, 0)] → s.retryDue (sent atoms 9 0) = true ∧ s.routeOf 9 = some 0) := by
  refine ⟨?_, ?_, ?_, ?_, ?_, ?_, ?_⟩ <;> (intro s hs; subst hs; decide +kernel)

/-- The command after it has started, and what the sending of its atomic answers. -/
def atomicSent (s : State) (c : Cmd) : Nat :=
  ((s.startRunning c.id).aqdSend c.slice c.ring c.id 9 { AqdReq.blank with
    kind := .at, addr := c.par 64 52, op := c.par 0 4, wide := bitAt c.params 4, operand := c.par 128 64, compare := c.par 192 64 }).2

/-- A COPY_ASYNC of 64 bytes of range 8 to the peer. -/
def async : Cmd := cmd 0x12 255 (pk [(0, 2), (32, 64), (64, 0x200), (128, 128)]) .issued

theorem witness_AqueductSenderCommandsComplete_commands :
    (∀ s, s = aqd [] { waiting := [sent atoms 9 0] } → Ok (.creditGrant 0 9) ∧ s.safe = false ∧ s.on Fld.aqdCtrlEnable = true ∧
      s.creditNext 9 = some (sent atoms 9 0) ∧ (sent atoms 9 0).asks ≠ 2 ∧ s.routeOf 9 = some 0) ∧
    (∀ r s, r = { sent atoms 9 0 with unresolved := true, asks := 2 } → s = aqd [] { sent := [r] } → s.creditNext 9 = some r) ∧
    (∀ c s, c = cmd 0x13 255 (pk [(0, 4), (64, 128)]) .issued → s = aqd [c] {} → Ok (.aqdAtomic 0 8) ∧ s.firstH 8 0x13 = some c ∧
      c.atomicOk = true ∧ s.home? (c.par 64 52) = some 9 ∧ atomicSent s c = stOk) ∧
    (∀ c s, c = async → s = aqd [c] {} → Ok (.copyAsync 0 8 [] false) ∧ (s.upsets []).firstH 8 0x12 = some c ∧ c.asyncOk = true ∧
      (s.upsets []).parting c.asyncSrc = false ∧
      (s.upsets []).sideCheck c.slice c.asyncSrc (c.par 32 32) = stOk ∧ ((s.upsets []).home? (c.par 128 52)).isSome = true ∧
      (s.upsets []).sidePaused c.slice c.asyncSrc = false ∧ ¬ c.asyncSrc.space < 2 ∧
      ∃ w, w = (s.upsets []).raceReads c.asyncSrc.basin c.id (c.asyncSrc.span c.id (c.par 32 32) 0) ∧ w.asyncStatus c false = stOk ∧
        ((w.copyAsyncBegin c).push c.slice c.ring c.id (c.par 128 52) (w.sideRead c.slice c.asyncSrc (c.par 32 32))).2 = stOk) := by
  refine ⟨?_, ?_, ?_, ?_⟩
  · intro s hs; subst hs; decide +kernel
  · intro r s hr hs; subst hr; subst hs; decide +kernel
  · intro c s hc hs; subst hc; subst hs; decide +kernel
  · intro c s hc hs; subst hc; subst hs
    refine ⟨by decide, ?_, ?_, ?_, ?_, ?_, ?_, ?_, _, rfl, ?_, ?_⟩ <;> decide +kernel

/-- A port that is up, one that trains with lanes 0 and 1, and a partner that reports this package's own ID. -/
theorem witness_AqueductSenderCommandsComplete_links :
    (aqd [] {}).on Fld.aqpStatusLinkUp 0 = true ∧ Ok (.flitReplay 0 7) ∧ Ok (.aqdLinkDown 0 7) ∧ Ok (.aqdLinkUp 0 7 9 1 3) ∧ Ok (.aqdTrainTimeout 0 7 15) ∧
    (aqd [] {}).on Fld.bootStatusLocalDone = true ∧ (aqd [] {}).on Fld.aqpStatusLinkUp 7 = false ∧ (aqd [] {}).on Fld.aqpStatusFenced 7 = false ∧
    (aqd [] {}).lanesOk 7 3 = true ∧ (aqd [] {}).safe = false ∧ 9 ≠ (aqd [] {}).pkg ∧ 0 = (aqd [] {}).pkg := by decide +kernel

/-! A request of another package, whose reception charges an open number of bytes to a port. -/

theorem portRx_safe (s : State) (p : Nat) : (s.portRx p).safe = s.safe := by
  unfold State.portRx
  split
  · exact congrArg (· == 2) (State.rd_wr_reg s.free.2 Fld.aqpRxBytesBytes Fld.spwStatusState p 0 _ (fun h => absurd h.1 (by decide)))
  · rfl

/-- Package 9's atomic with sequence number 300 and incarnation 5. -/
def theirs : AqdReq := { atoms with src := 9, seq := 300, inc := 5 }

/-- The home has recorded this of package 9. -/
def knows (z : SrcSt) : State := aqd [] { srcs := [(9, z)] }

theorem portRx_aqd (s : State) (p : Nat) : (s.portRx p).aqd = s.aqd := by
  unfold State.portRx; split <;> rfl

theorem theirs_received (s u : State) (q : AqdReq) (hp : q.src ≠ s.pkg) (hs : s.safe = false) (hi : s.aqd.input = []) (ht : s.aqd.turn = none)
    (hu : u = s.free.2.portRx (s.free.1 % 8)) : s.receives q (turned u q) ⟨q, none, u.now⟩ := by
  have ha : u.aqd = s.aqd := by rw [hu, portRx_aqd]; rfl
  refine ⟨u, u, ?_, (serves_nothing u (by rw [ha]; exact hi)).symm, by simp [ha, ht], rfl, Or.inl ⟨hp, hu, rfl⟩⟩
  rw [hu, portRx_safe]; exact hs

/-- A later incarnation, a watermark 256 ahead (255 is not stale), and a recorded result. -/
theorem witness_SettledRequestsActOnce :
    ((knows {}).inOrder = true ∧ theirs.src ≠ (knows {}).pkg ∧ (knows {}).safe = false ∧ (knows {}).aqd.input = [] ∧ (knows {}).aqd.turn = none ∧ Ok (.aqdAt 0 theirs)) ∧
    (∃ h, (some 6 : Option Nat) = some h ∧ h ≠ theirs.inc ∧ (h + 2 ^ 32 - theirs.inc) % 2 ^ 32 < 2 ^ 31) ∧
    (∃ h, (some 556 : Option Nat) = some h ∧ 256 ≤ (h + 2 ^ 32 - theirs.seq) % 2 ^ 32 ∧ (h + 2 ^ 32 - theirs.seq) % 2 ^ 32 < 2 ^ 31) ∧
    (∀ z : SrcSt, z = { inc := some 5, high := some 555, entries := [(300 % 256, ⟨300, 77, false⟩)] } →
      z.inc = some theirs.inc ∧ (∀ h, z.high = some h → (h + 2 ^ 32 - theirs.seq) % 2 ^ 32 < 256) ∧
      Tbl.find z.entries (theirs.seq % 256) = some ⟨300, 77, false⟩) := by
  refine ⟨by decide +kernel, ⟨6, by decide⟩, ⟨556, by decide⟩, ?_⟩
  intro z hz; subst hz
  exact ⟨rfl, by intro h hh; injection hh with hh; subst hh; decide, by decide⟩

/-! ### Witnesses: determinism -/

/-- A SHADOW_COMPARE of slice 1 with this role. -/
def shadowing (role : Nat) : Cmd :=
  { cmd 0x38 255 (pk [(0, role), (8, 1), (16, 9), (32, 4), (160, 5), (192, 98304)]) .issued with ring := 1024, slice := 128 }

/-- A compare of slice 1. -/
def compare1 : Shadow :=
  { cmd := 1, role := 2, params := (shadowing 1).params, lastFill := (0, 0), lastRec := (0, 0), routeLost := none, pending := [⟨7, 0, 9, 0⟩],
    exports := [], stepSeen := [], badSteps := [], matchedSteps := 0, lossDue := false }

theorem witness_DeterminismCommandsComplete_commands :
    ((cmd 0x2D 0 0 .running).opcode = 0x2D ∧ (cmd 0x2D 0 0 .running).ring < 1028 ∧ (cmd 0x2D 0 0 .running).digest = none ∧ busy.shadow? 1 = none) ∧
    (∀ s, s = holding busy (shadowing 0) → s.firstH 1024 0x38 = some (shadowing 0) ∧ s.shadowOk (shadowing 0).params = true ∧
      Sh.role (shadowing 0).params = 0 ∧ s.shadow? (Sh.slice (shadowing 0).params) = none ∧ Ok (.shadowExport 0 1024)) ∧
    (∀ s, s = holding busy (shadowing 1) → s.firstH 1024 0x38 = some (shadowing 1) ∧ s.shadowOk (shadowing 1).params = true ∧
      Sh.role (shadowing 1).params = 1 ∧ s.shadow? (Sh.slice (shadowing 1).params) = none ∧ Ok (.shadowCompare 0 1024)) ∧
    (∀ s, s = (holding busy (shadowing 2)).setShadow 1 compare1 → s.firstH 1024 0x38 = some (shadowing 2) ∧ s.shadowOk (shadowing 2).params = true ∧
      Sh.role (shadowing 2).params = 2 ∧ (s.shadow? (Sh.slice (shadowing 2).params)).isSome = true ∧ Ok (.shadowEnd 0 1024)) := by
  refine ⟨by decide +kernel, ?_, ?_, ?_⟩ <;> (intro s hs; subst hs; decide +kernel)

/-- A filled compare one count before its timeout; a pending entry at it; a fill that never came. -/
theorem witness_DeterminismCommandsComplete_compare :
    (∀ s, s = { (put busy [(Fld.detShadowStatusState, 1, 1)]).setShadow 1 compare1 with time := { count64 := 64 * 98303 } }.setReg .aqdArrival 0 5 →
      s.shadow? 1 = some compare1 ∧ s.rd Fld.detShadowStatusState 1 = 1 ∧ s.filled compare1 = true ∧ s.now < compare1.lastFill.2 + compare1.timeout) ∧
    (∀ s, s = { (put busy [(Fld.detShadowStatusState, 1, 2)]).setShadow 1 compare1 with time := { count64 := 64 * 98304 } } →
      s.rd Fld.detShadowStatusState 1 = 2 ∧ compare1.pending = ⟨7, 0, 9, 0⟩ :: [] ∧ 0 + compare1.timeout ≤ s.now) ∧
    (∀ s, s = { (put busy [(Fld.detShadowStatusState, 1, 1)]).setShadow 1 compare1 with time := { count64 := 64 * 98304 } } →
      s.sourceLost 1 compare1 = true) ∧ Ok (.sourceLostCmd 0 1 1) := by
  refine ⟨?_, ?_, ?_, by decide⟩ <;> (intro s hs; subst hs; decide +kernel)

/-- A slice without packets in flight, and one with a command of its own ring. -/
theorem witness_DetStepWrites :
    Ok (.detStepWrite 0 1 5) ∧ (∀ c, c ∈ busy.cmds → c.ring < 1028 → c.slice ≠ 1) ∧
    (∃ c, c ∈ (holding busy (cmd 1 255 0 .running)).cmds ∧ c.ring < 1028 ∧ c.slice = 1) := by
  refine ⟨by decide, ?_, _, List.mem_singleton.2 rfl, by decide, rfl⟩
  have h : busy.cmds = [] := by decide +kernel
  rw [h]; intro c hc; cases hc

/-! ### Witnesses: the spillway -/

/-- A report of unit 0 (a jet of basin 0) with class `cls`, stamp 5 and syndrome 9. -/
def rep (cls : Nat) : Report := ⟨0, cls, 5, 9⟩

/-- `up` at a count. -/
def upAt (n : Nat) (l : List (Fld × Nat × Nat)) : State := { put up l with time := { count64 := 64 * n } }

/-- Of two reports with one stamp the lower unit comes first. -/
theorem witness_SpillwayCommandsComplete_capture :
    (∀ y l, l = [⟨3, 2, 5, 0⟩, rep 2] → y = { up with spw := { up.spw with reportQ := up.spw.reportQ ++ l } } → Ok (.faultReportCapture 0 l) ∧
      (∀ r, r ∈ l → ¬ (r.unit = unitHub 19 ∧ r.cls = 4)) ∧ y.on Fld.spwStatusReady = true ∧ firstReport y.spw.reportQ = some (rep 2)) ∧
    (∀ l s, l = [⟨unitHub 19, 4, 0, 0⟩] → s = put up [(Fld.spwStatusReady, 0, 0)] → Ok (.faultReportCapture 0 l) ∧
      (⟨unitHub 19, 4, 0, 0⟩ : Report) ∈ l ∧ s.on Fld.spwStatusReady = false) ∧
    (∀ s, s = { up with spw := { silent := [0], beats := [(0, 1024)] } } → s.unreporting ⟨0, 2, 1024 + 4096, 0⟩ = true ∧
      s.unreporting ⟨0, 2, 1024 + 4095, 0⟩ = false) ∧
    (∀ s, s = { up with spw := { pinDue := true } } → s.spw.pinDue = true ∧ s.on Fld.spwStatusReady = true ∧ s.spw.lost = false) := by
  refine ⟨?_, ?_, ?_, ?_⟩
  · intro y l hl hy; subst hl; subst hy; decide +kernel
  · intro l s hl hs; subst hl; subst hs; decide +kernel
  all_goals (intro s hs; subst hs; decide +kernel)

/-- Jet 0 of basin 0 takes a fence and loses one; its quiet window ends at this count, one before it is open; a test runs. -/
theorem witness_SpillwayCommandsComplete_items :
    (∀ v s, v = 0x10000 → s = up → s.on Fld.fenceStatusBusy = false ∧
      fencible (slice v 0 16) (s.rd Fld.fenceArgSub) (s.rd Fld.fenceArgSubKind) (s.rd Fld.fenceArgEngineClass) = some (0, 0) ∧
      Ok (.fenceSet 0 v) ∧ slice v 16 2 = 1 ∧ Ok (.fenceClear 0 0x20000) ∧ slice 0x20000 16 2 = 2 ∧ (s.item 0).fence = 0) ∧
    (∀ s, s = up.setItem 0 { fence := 2 } → (s.item 0).fence ≠ 0) ∧
    (∀ s, s = (upAt (2 ^ 30) [(Fld.policyRecoverEn, 0, 1), (Fld.policyRecoverLimit, 0, 1), (Fld.spwQuietQuiet, 0, 1024)]).setItem 0 { fence := 1 } →
      itemKind 0 = some 0 ∧ Ok (.quietWindowClose 0 0) ∧ s.quietOver 0 0 = true) ∧
    (∀ s, s = (upAt (2 ^ 30 - 1) [(Fld.policyRecoverEn, 0, 1), (Fld.policyRecoverLimit, 0, 1), (Fld.spwQuietQuiet, 0, 1024)]).setItem 0 { fence := 1 } →
      s.quietOver 0 0 = false) ∧
    (∀ s, s = busy.setItem 6 { fence := 1, testing := 1 } → itemKind 6 = some 4 ∧ Ok (.recoveryTestDone 0 6 true) ∧ (s.item 6).testing ≠ 0 ∧
      itemBasins 6 4 = [0] ∧ s.gated 0 = false) := by
  refine ⟨?_, ?_, ?_, ?_, ?_⟩
  · intro v s hv hs; subst hv; subst hs; decide +kernel
  · intro s hs; subst hs; decide +kernel
  · intro s hs; subst hs; decide +kernel
  · intro s hs; subst hs; decide +kernel
  · intro s hs; subst hs; decide +kernel

theorem witness_SpillwayCommandsComplete_commands :
    Ok (.inferFence 0 1) ∧ up.safe = false ∧ Ok (.inferClear 0 2) ∧ (∀ s, s = { up with spw := { inferBy := 1 } } → s.spw.inferBy = 1 ∧ s.safe = false) ∧
    Ok (.pinClear 0 4) ∧ up.spw.inferBy ≠ 2 ∧ Ok (.siltFreeze 0 8) ∧ up.siltFrozen = false ∧ Ok (.siltRearm 0 16) ∧ Ok (.enterSafe 0 32) ∧
    (∀ s, s = { up with spw := { safeDue := true } } → s.spw.safeDue = true) ∧ Ok (.driverMarker 0 (2 ^ 32 - 1)) := by
  refine ⟨by decide, by decide +kernel, by decide, ?_, by decide, by decide +kernel, by decide, by decide +kernel, by decide, by decide, ?_, by decide⟩ <;>
    (intro s hs; subst hs; decide +kernel)

/-- Four heartbeats missed at 4096 counts, not at 4095; the first epoch ends at 4096 x 2^30 counts. -/
theorem witness_SpillwayCommandsComplete_clock :
    (∀ s, s = upAt 1024 [] → s.on Fld.spwStatusReady = true ∧ s.spw.lost = false ∧ s.tick1024 = true ∧ ¬ s.spw.spwBeat + 4096 ≤ s.now) ∧
    (∀ s, s = upAt 4096 [] → s.spw.spwBeat + 4096 ≤ s.now) ∧ (∀ s, s = upAt 4095 [] → ¬ s.spw.spwBeat + 4096 ≤ s.now) ∧
    (∀ s, s = upAt (4096 * 2 ^ 30) [(Fld.healthEpochEpoch, 0, 4096)] → s.now % (s.rd Fld.healthEpochEpoch * 2 ^ 30) = 0 ∧
      s.ticked.contains .health = false) := by
  refine ⟨?_, ?_, ?_, ?_⟩ <;> (intro s hs; subst hs; decide +kernel)

/-- The log takes an entry with one slot left beyond it, and not with none; the record holds 511 entries and 512; it is frozen. -/
theorem witness_MarkerEntersTheRecords :
    up.inOrder = true ∧ Ok (.driverMarker 0 7) ∧
    (∀ s, s = (up.setReg .logHead 0 1022).setReg .logTail 0 0 → (s.reg .logHead + 1) % 1024 ≠ s.reg .logTail) ∧
    (∀ s, s = (up.setReg .logHead 0 1023).setReg .logTail 0 0 → (s.reg .logHead + 1) % 1024 = s.reg .logTail) ∧
    (∀ s, s = { up with spw := { silt := List.replicate 511 0 } } → s.siltFrozen = false ∧ s.spw.silt.length < 512) ∧
    (∀ s, s = { up with spw := { silt := List.replicate 512 0 } } → s.siltFrozen = false ∧ s.spw.silt.length = 512) ∧
    (∀ s, s = put up [(Fld.spwStatusSiltFrozen, 0, 1)] → s.siltFrozen = true) := by
  refine ⟨by decide +kernel, by decide, ?_, ?_, ?_, ?_, ?_⟩ <;> (intro s hs; subst hs; decide +kernel)

/-- Classes 0, 1 and 3 with no report held and CAP_MIN 1; a held one in both modes; an interrupt that is wanted. -/
theorem witness_CapturedReport :
    (∀ k y, k < 6 → y = { up with spw := { up.spw with reportQ := up.spw.reportQ ++ [rep k] } } → up.inOrder = true ∧ Ok (.faultReportCapture 0 [rep k]) ∧
      up.on Fld.spwStatusReady = true ∧ firstReport y.spw.reportQ = some (rep k) ∧ up.unreporting (rep k) = false ∧ (rep k).unit < 2 ^ 16 ∧ (rep k).stamp < 2 ^ 64 ∧ (rep k).synd < 2 ^ 64) ∧
    (∀ s, s = put up [(Fld.spwCtrlCapMin, 0, 1)] → (rep 0).cls < s.rd Fld.spwCtrlCapMin ∧ s.rd Fld.spwCtrlCapMin ≤ (rep 1).cls ∧
      s.rd Fld.spwCtrlCapMin ≤ (rep 3).cls ∧ s.on Fld.spwCapInfoCapValid = false) ∧
    (∀ s, s = put up [(Fld.spwCapInfoCapValid, 0, 1), (Fld.spwCtrlCapMode, 0, 0)] → s.on Fld.spwCapInfoCapValid = true ∧ s.on Fld.spwCtrlCapMode = false) ∧
    (∀ s, s = put up [(Fld.spwCapInfoCapValid, 0, 1), (Fld.spwCtrlCapMode, 0, 1)] → s.on Fld.spwCtrlCapMode = true) ∧
    (∀ s, s = put up [(Fld.spwCtrlIrqMask, 0, 63)] → bitAt (s.rd Fld.spwCtrlIrqMask) 3 = true) := by
  refine ⟨?_, ?_, ?_, ?_, ?_⟩
  · intro k y hk hy; subst hy
    have h := (by decide +kernel : ∀ k : Fin 6, (up.inOrder && up.on Fld.spwStatusReady && ([rep k].all Report.ok) &&
      firstReport (up.spw.reportQ ++ [rep k]) == some (rep k) && up.unreporting (rep k) == false) = true) ⟨k, hk⟩
    simp only [Bool.and_eq_true, beq_iff_eq] at h
    exact ⟨h.1.1.1.1, h.1.1.2, h.1.1.1.2, h.1.2, h.2, (by decide : 0 < 2 ^ 16), (by decide : 5 < 2 ^ 64), (by decide : 9 < 2 ^ 64)⟩
  all_goals (intro s hs; subst hs; decide +kernel)

/-- Unit 64 of basin 0 cannot be fenced; a write while a clear runs. -/
theorem witness_FenceCommandOutcomes :
    up.inOrder = true ∧ Ok (.fenceSet 0 0x10040) ∧ slice 0x10040 16 2 = 1 ∧ Ok (.fenceClear 0 0x20040) ∧ slice 0x20040 16 2 = 2 ∧
    up.on Fld.fenceStatusBusy = false ∧ (up.item 0).fence = 0 ∧
    fencible (slice 0x10040 0 16) (up.rd Fld.fenceArgSub) (up.rd Fld.fenceArgSubKind) (up.rd Fld.fenceArgEngineClass) = none ∧
    fencible (slice 0x10000 0 16) (up.rd Fld.fenceArgSub) (up.rd Fld.fenceArgSubKind) (up.rd Fld.fenceArgEngineClass) = some (0, 0) ∧
    up.justReset 0 = false ∧
    (∀ s, s = { up with boot := { up.boot with resetting := some (3, 0) } } → s.on Fld.fenceStatusBusy = false ∧ s.justReset 0 = true) ∧
    (∀ s, s = put up [(Fld.fenceStatusBusy, 0, 1)] → s.on Fld.fenceStatusBusy = true) := by
  refine ⟨by decide +kernel, by decide, by decide, by decide, by decide, by decide +kernel, by decide +kernel, by decide +kernel, by decide +kernel,
    by decide +kernel, ?_, ?_⟩ <;>
    (intro s hs; subst hs; decide +kernel)

theorem witness_HealthCounts :
    (∀ s, s = upAt (4096 * 2 ^ 30) [(Fld.healthEpochEpoch, 0, 4096)] → s.inOrder = true ∧ Ok (.healthDecay 0) ∧
      s.now % (s.reg .healthEpoch * 2 ^ 30) = 0 ∧ s.ticked.contains .health = false ∧ s.freshOf .healthDecayed 4 = none ∧
      (s.health 4).freshOf .healthDecayed 4 = some (0, 256)) ∧
    (∀ s, s = upAt (4096 * 2 ^ 30 - 1) [(Fld.healthEpochEpoch, 0, 4096)] → s.now % (s.reg .healthEpoch * 2 ^ 30) ≠ 0) ∧
    Ok (.registerWrite 0 0xC00500 4 0) ∧ Ok (.registerWrite 0 0xC00500 4 0x10000) := by
  refine ⟨?_, ?_, by decide, by decide⟩ <;> (intro s hs; subst hs; decide +kernel)

/-- The device in its safe state. -/
def sealed : State := put up [(Fld.spwStatusState, 0, 2)]

/-- Reads at the first word of the window, at those beside the hub window and at the last word. -/
theorem witness_SafeStateForbids :
    sealed.inOrder = true ∧ sealed.safe = true ∧ Ok (.lowWordRead 0 0x200000 4) ∧ Ok (.lowWordRead 0 0xBFFFFC 4) ∧ Ok (.lowWordRead 0 0xE00000 4) ∧
    Ok (.siltRearm 0 16) ∧ Ok (.inferFence 0 1) ∧ theirs.src ≠ sealed.pkg ∧ Ok (.aqdAt 0 theirs) ∧ Ok (.aqdWr 0 { writes with src := 9 }) ∧
    Ok (.aqdRd 0 { reads with src := 9 } true) ∧ Ok (.aqdBump 0 { bumps with src := 9 }) := by
  decide +kernel

/-! ### Witnesses: power, resets, boot, management -/

/-- A tick; a step decided; a droop and its end; stretch to be reported, for the first time and 2^20 counts after the last report. -/
theorem witness_PowerCommandsComplete_levels :
    (∀ s, s = upAt 1024 [] → s.tick1024 = true ∧ s.ticked = []) ∧ Ok (.energyMeterSample 0 [1, 2, 3, 4, 5] 65535) ∧ Ok (.thermalSample 0 115 99 100) ∧
    (∀ s, s = { busy with pwr := { nextSteps := [(63, 0)] } } → Tbl.find s.pwr.nextSteps 63 = some 0) ∧
    (Ok (.droop 0 95 7) ∧ up.pwr.droops.contains 95 = false) ∧
    (∀ s, s = { up with pwr := { droops := [95] } } → Ok (.droopRecovery 0 95 0) ∧ s.pwr.droops.contains 95 = true) ∧
    (∀ s, s = { upAt (2 ^ 20) [] with pwr := { stretchNew := [5, 88], stretchRep := [(5, 0)] } } → Ok (.stretchReport 0 5) ∧ Ok (.stretchReport 0 88) ∧
      s.pwr.stretchNew.contains 5 = true ∧ s.pwr.stretchNew.contains 88 = true ∧ Tbl.find s.pwr.stretchRep 5 = some 0 ∧ 0 + 2 ^ 20 ≤ s.now ∧
      Tbl.find s.pwr.stretchRep 88 = none) := by
  refine ⟨?_, by decide, by decide, ?_, by decide +kernel, ?_, ?_⟩ <;> (intro s hs; subst hs; decide +kernel)

/-- A start of jet 1 of basin 0 that waits for exactly the tokens there are; a ramp. -/
theorem witness_PowerCommandsComplete_slew :
    (∀ s, s = { holding busy (cmd 8 0 (jetTile 1 1) .queued) with pwr := { waits := [⟨9, 1, 0⟩, ⟨1, 100, 0⟩] } }.setSlewTokens 100 →
      s.pwr.waits.filter s.startWanted = [⟨1, 100, 0⟩] ∧ (100 : Int) ≤ s.slewTokens) ∧ Ok (.rampDownEnd 0 1) := by
  refine ⟨?_, by decide⟩
  intro s hs; subst hs; decide +kernel

/-- Basin 0 is awake and idle; its gating takes effect; a wake leaves its ramp and its zeroing. -/
theorem witness_PowerCommandsComplete_gating :
    ((busy.basin 0).wakeStage = 0 ∧ busy.beingReset 0 = false ∧ busy.mayGate 0 = true ∧ busy.gated 0 = false ∧ Ok (.basinGateReq 0 (2 ^ 0))) ∧
    Ok (.basinWakeReq 0 (2 ^ 63)) ∧
    (∀ s, s = busy.setBasin 0 { gateReq := true } → (s.basin 0).gateReq = true ∧ s.idle 0 = true ∧ s.reserved 0 = false ∧ s.gateListed 0 = false) ∧
    (∀ s, s = { busy with spw := { inferBy := 1 } } → s.inferFenced = true ∧ s.gated 0 = false ∧ s.underTest 0 = false ∧ s.idle 0 = true) ∧
    (∀ s, s = busy.setBasin 63 { wakeStage := 2 } → (s.basin 63).wakeStage = 2) ∧
    (∀ s, s = busy.setBasin 63 { wakeStage := 3, zeroing := some ⟨2, 224, 0⟩ } → Ok (.wakeZeroingDone 0 63 [0]) ∧ (s.basin 63).wakeStage = 3 ∧
      (s.basin 63).zeroing = some ⟨2, 224, 0⟩) := by
  refine ⟨by decide +kernel, by decide, ?_, ?_, ?_, ?_⟩ <;> (intro s hs; subst hs; decide +kernel)

/-- Supplies in range with PKG_RST_N low and high; RESET_CMD accepted for each kind; the warm reset at its count; resets that are over. -/
theorem witness_ResetCommandsComplete :
    up.boot.supplies = true ∧ (State.reset.boot.held = true ∧ State.reset.boot.supplies = true) ∧
    (∀ s, s = { up with boot := { up.boot with perst := false } } → s.boot.perst = false ∧ s.boot.held = false ∧ s.boot.supplies = true) ∧
    (up.resetCheck 0xB0070001 = 0 ∧ Ok (.resetCmdWarm 0 0xB0070001) ∧ slice 0xB0070001 0 2 = 1) ∧
    (up.resetCheck 0xB007001E = 0 ∧ Ok (.resetCmdTerrace 0 0xB007001E) ∧ slice 0xB007001E 0 2 = 2) ∧
    (up.resetCheck 0xB00700FF = 0 ∧ Ok (.resetCmdBasin 0 0xB00700FF) ∧ slice 0xB00700FF 0 2 = 3) ∧
    (∀ s, s = { upAt 9831 [] with boot := { up.boot with warmDue := some warmDelay } } → s.boot.warmDue = some warmDelay ∧ warmDelay ≤ s.now) ∧
    (∀ s, s = { put up [(Fld.hbmTrainState0, 7, 2), (Fld.hbmTrainState1, 7, 2)] with boot := { up.boot with resetting := some (2, 7) } } →
      s.boot.resetting = some (2, 7) ∧ s.trained 7 = true) ∧
    (∀ s, s = { up with boot := { up.boot with resetting := some (3, 63) } } → s.boot.resetting = some (3, 63)) := by
  refine ⟨by decide +kernel, by decide +kernel, ?_, by decide +kernel, by decide +kernel, by decide +kernel, ?_, ?_, ?_⟩ <;>
    (intro s hs; subst hs; decide +kernel)

/-- The boot sequence in phase `p`, after a cold reset or a warm one. -/
def booting (p : Nat) (cold : Bool) : State :=
  { put State.reset [(Fld.bootStatusPhase, 0, p)] with boot := { running := true, held := false, perst := false, cold := cold } }

theorem witness_BootCommandsComplete :
    Ok (.fusesLoaded 0 4095 7) ∧
    (∀ c, (booting 0 c).inPhase 0 = true ∧ (booting 0 c).boot.cold = c ∧ (booting 1 c).inPhase 1 = true ∧ (booting 2 c).inPhase 2 = true ∧
      (booting 2 c).boot.perst = false ∧ (booting 3 c).inPhase 3 = true ∧ bitAt (booting 3 c).boot.diesDone 1 = false ∧ (booting 6 c).inPhase 6 = true) ∧
    (∀ s, s = put (booting 4 true) [(Fld.hbmTrainState0, 0, 1), (Fld.hbmTrainState1, 0, 1)] →
      (if (1 : Nat) = 0 then s.rd Fld.hbmTrainState0 0 else s.rd Fld.hbmTrainState1 0) = 1 ∧ s.rd Fld.hbmTrainState0 0 = 1) ∧
    (∀ p, p ∈ [0, 63] → p < 64) ∧ up.boot.pcieUp = true := by
  refine ⟨by decide, by decide +kernel, ?_, by decide, by decide +kernel⟩
  intro s hs; subst hs; decide +kernel

/-- A commanded warm reset at the count it is due. -/
theorem witness_WarmResetKeepsAndClears :
    ∀ s, s = { upAt 9831 [] with boot := { up.boot with warmDue := some 9831 } } →
      s.inOrder = true ∧ Ok (.warmResetEffect 0) ∧ s.boot.warmDue = some 9831 ∧ 9831 ≤ s.now := by
  intro s hs; subst hs; decide +kernel

/-- Both transports are served; a Get Endpoint ID request; sensors; entries of the record at its end. -/
theorem witness_ManagementCommandsComplete :
    (∀ tr, up.mgmtServes tr = true) ∧ Ok (.mctpControl 0 .i3c [0x80, 2]) ∧ Ok (.pldmGetSensor 0 .pcie 65535) ∧
    Ok (.setEventReceiver 0 .pcie 255 [100, 65535]) ∧
    (∀ s, s = { up with spw := { silt := [1] } } → 0 < s.spw.silt.length ∧ s.spw.silt.length ≤ 1) ∧ TapIns.bypass ≠ .idcode := by
  refine ⟨?_, by decide, by decide, by decide, ?_, by decide⟩
  · intro tr; cases tr <;> decide +kernel
  · intro s hs; subst hs; decide +kernel

/-- The endpoint ID, set and not. -/
theorem witness_ManagementWritesItsSessionOnly :
    management (.mctpControl 0 .i3c [0x80, 1, 0, 9]) = true ∧ Ok (.mctpControl 0 .i3c [0x80, 1, 0, 9]) ∧ up.inOrder = true ∧
    (∃ t, Does (.mctpControl 0 .i3c [0x80, 1, 0, 9]) up t) ∧ (∃ t, Does (.vendorHealth 0 .pcie) up t) ∧
    (∀ dt tr bytes, Instr.vendorHealth 0 .pcie ≠ .mctpControl dt tr bytes) := by
  refine ⟨by decide, by decide, by decide +kernel, ⟨_, rfl⟩, ⟨_, rfl⟩, by intro _ _ _ h; cases h⟩
/-! ### Ill-formed commands: one for each check -/

def queries : AqdReq := { AqdReq.blank with kind := .query }

theorem test_ill_formed_1 : ([
    .registerWrite 0 3 2 0, .registerWrite 0 2 3 0, .registerWrite 0 0x4000000 4 0, .lowWordRead 0 3 2, .lowWordRead 0 2 3,
    .lowWordRead 0 0x4000000 4, .highWordRead 0 3 2, .highWordRead 0 2 3, .highWordRead 0 0x4000000 4, .rcFieldRead 0 3 2,
    .rcFieldRead 0 2 3, .rcFieldRead 0 0x4000000 4, .heartbeat 0 (.basin 64), .heartbeat 0 (.terrace 8), .heartbeat 0 (.die 2),
    .heartbeatLoss 0 (.basin 64), .heartbeatLoss 0 (.terrace 8), .heartbeatLoss 0 (.die 2), .dieHeartbeatLoss 0 2, .fenceEffect 0 67108864,
    .fencedBasinGate 0 64, .jetTile 0 64, .jetTileStart 0 64 0 [], .jetTileStart 0 0 2 [], .jetBankLoadComplete 0 64 0 [],
    .jetBankLoadComplete 0 0 2 [], .jetTileEnd 0 64 0 [] 0 0, .jetTileEnd 0 0 2 [] 0 0, .jetFieldRemap 0 64 0 0, .jetFieldRemap 0 0 2 0,
    .fieldFuseBlown 0 64 0, .fieldFuseBlown 0 0 2, .cisternPart 0 64 0, .cisternPartZeroingDone 0 64, .cisternSteal 0 64, .runnelPass 0 64,
    .runnelPassStart 0 64 [], .runnelPassEnd 0 64 ⟨0, 0⟩, .epilogueComplete 0 64 ⟨0, 0⟩, .epilogueComplete 0 0 ⟨3, 0⟩] : List Instr).all (fun c => !c.wellFormed) = true := by
  decide +kernel

theorem test_ill_formed_2 : ([
    .rillTile 0 64 false, .rillFetchStart 0 64, .rillFetchReturn 0 64 0 false, .rillTileStart 0 64 [], .rillTileEnd 0 64 [] ⟨0, 0⟩,
    .variantWrite 0 1028, .cascadeForward 0 64, .cascadeMerge 0 64, .cascadeBackward 0 64, .cascadeFetchStart 0 8,
    .cascadeFetchReturn 0 8 0 false, .cascadeTileStart 0 8 [] false, .cascadeTileEnd 0 8 [] 0, .handoffArrival 0 128,
    .handoffTimeout 0 128, .stepEndResume 0 128, .spoutTask 0 64, .spoutTaskStart 0 64, .spoutInstruction 0 512 [] 0,
    .spoutInstruction 0 0 [] 3, .spoutEcall 0 512 0, .spoutWatchdog 0 64, .wcClaim 0 512, .wcClaimResume 0 512, .wcDone 0 512,
    .spoutSemSignal 0 512, .semWait 0 512, .semWaitAcquire 0 64 0, .semWaitAcquire 0 0 32, .semWaitDeadline 0 512, .semTry 0 512,
    .tileIssue 0 512 [], .spoutAccessReturn 0 512, .doorbell 0 129 0 none 0, .doorbell 0 0 65536 none 0, .packetRead 0 1028 [],
    .packetRead 0 0 [⟨2 ^ 20 + 1, 0, []⟩], .packetRead 0 0 [⟨0, 2 ^ 64, [1]⟩], .nop 0 1028, .fence 0 1028] : List Instr).all (fun c => !c.wellFormed) = true := by
  decide +kernel

theorem test_ill_formed_3 : ([
    .fenceComplete 0 1028, .wait 0 1028, .waitSatisfied 0 1028, .waitTimeout 0 1028, .counterAdd 0 1028, .semSignal 0 1028,
    .copy 0 1028 [] false [], .copy 0 0 [] false [⟨2 ^ 20 + 1, 0, []⟩], .copy 0 0 [] false [⟨0, 2 ^ 64, [1]⟩], .fill 0 1028,
    .copyComplete 0 1028, .cqTailWrite 0 1028 0, .ringEnable 0 1028 0, .ringResume 0 1028 0, .sliceEnable 0 128 0, .sliceDisable 0 128 0,
    .hostRequestRefused 0 3 0 false, .sliceFrozen 0 128, .keyLoad 0 128 0, .keyErase 0 128 0, .memRangeWrite 0 128 0 false 0,
    .memRangeWrite 0 0 8 false 0, .sliceBasinsWrite 0 128 0, .sliceReset 0 128 0, .sliceResetDrained 0 128, .sliceResetComplete 0 128,
    .handoverZeroingDone 0 64, .markerEnable 0 128 0, .weightWrite 0 128 0, .fixedShareWrite 0 128 0, .yieldRequest 0 64,
    .quantumExpiry 0 64, .yieldDrained 0 64, .saveComplete 0 64 false 0 [], .saveComplete 0 0 false 4 [], .restoreComplete 0 64 false, .gateList 0 1028 false,
    .gateListRemove 0 1028, .gateListAct 0 64, .guardBandBegin 0 64, .windowOpen 0 64] : List Instr).all (fun c => !c.wellFormed) = true := by
  decide +kernel

theorem test_ill_formed_4 : ([
    .windowClose 0 64, .windowExtendedClose 0 64, .carrierEnable 0 192 0,
    .uplaneSection 0 { aPacket with car := 192 }, .uplaneSection 0 { aPacket with port := 4 }, .uplaneSection 0 { aPacket with eaxc := 65536 },
    .uplaneSection 0 { aPacket with frame := 256 }, .uplaneSection 0 { aPacket with sub := 10 }, .uplaneSection 0 { aPacket with slot := 64 },
    .uplaneSection 0 { aPacket with sym := 14 }, .uplaneSection 0 { aPacket with sections := [⟨16, 9, 0, []⟩] },
    .uplaneSection 0 { aPacket with sections := [⟨0, 0, 0, []⟩] }, .uplaneSection 0 { aPacket with sections := [⟨0, 17, 0, []⟩] },
    .uplaneSection 0 { aPacket with sections := [⟨0, 9, 1024, []⟩] }, .uplaneSection 0 { aPacket with sections := [⟨0, 9, 0, [(16, List.replicate 24 0)]⟩] },
    .uplaneSection 0 { aPacket with sections := [⟨0, 9, 0, [(0, List.replicate 23 0)]⟩] },
    .uplaneSection 0 { aPacket with sections := [⟨0, 9, 0, [(0, 256 :: List.replicate 23 0)]⟩] },
    .uplaneSection 0 { aPacket with sections := [⟨0, 9, 0, [(0, -257 :: List.replicate 23 0)]⟩] }, .receiveWindowClose 0 192 0 0,
    .receiveWindowClose 0 0 0 14, .dlSymbolEmission 0 192 0 0, .dlSymbolEmission 0 0 0 14, .slotPlan 0 1028 false, .ldpcDec 0 32 false,
    .ldpcEnc 0 16 false, .polarDec 0 8 false, .polarEnc 0 8 false, .dft 0 16 false, .prach 0 16 false, .dmrsMeas 0 16 false,
    .radioJetOp 0 64 0 [], .radioJetOp 0 0 2 [], .radioSpoutOp 0 64, .cplaneTx 0 192 false, .spoutBudgetStop 0 64, .radioTakeover 0 5 0,
    .cellMigrateSource 0 1028 false, .cellMigrateDest 0 1028 false, .migrationSwitch 0 192, .migrationSourceDone 0 192,
    .migrationArrival 0 192] : List Instr).all (fun c => !c.wellFormed) = true := by
  decide +kernel

theorem test_ill_formed_5 : ([
    .migrationTimeout 0 192, .syncRx 0 4, .followUpRx 0 4, .delayRespRx 0 4, .delayReqRx 0 4, .delayReqTx 0 2, .masterSyncTx 0 4,
    .synceMeasure 0 (-(2 ^ 31) - 1), .synceMeasure 0 2147483648, .outputEnable 0 8 0, .outputDisable 0 8 0, .outputEdge 0 8,
    .captureEdge 0 4 false, .capMetaRead 0 4, .launchArm 0 4 0, .launchDisarm 0 4 0, .launchFire 0 4, .ethFrameRx 0 4 [] false,
    .ethLinkChange 0 4 false 0, .ethLinkChange 0 0 false 16, .forwardEnqueue 0 ⟨4, 0⟩, .egressTransmit 0 4, .gclArm 0 4 0, .gclSwitch 0 4,
    .flitReplay 0 8, .aqdLinkDown 0 8, .aqdLinkUp 0 8 0 0 0, .aqdLinkUp 0 0 4096 0 0, .aqdLinkUp 0 0 0 8 0, .aqdLinkUp 0 0 0 0 16,
    .aqdTrainTimeout 0 8 0, .aqdTrainTimeout 0 0 16, .aqdRd 0 { reads with src := 4096 } false, .aqdRd 0 { reads with job := 65536 } false,
    .aqdRd 0 { reads with gen := 256 } false, .aqdRd 0 { reads with t0 := 2 ^ 64 } false, .aqdRd 0 { reads with seq := 2 ^ 32 } false,
    .aqdRd 0 { reads with inc := 2 ^ 32 } false, .aqdRd 0 { reads with addr := 2 ^ 52 } false, .aqdRd 0 { reads with addr := 64 } false] : List Instr).all (fun c => !c.wellFormed) = true := by
  decide +kernel

theorem test_ill_formed_6 : ([
    .aqdRd 0 writes false, .aqdWr 0 { writes with addr := 64 }, .aqdWr 0 { writes with data := [1] },
    .aqdWr 0 { writes with mask := 2 ^ 128 }, .aqdWr 0 { writes with mask := 0 }, .aqdWr 0 reads, .aqdBw 0 { blocks with addr := 64 },
    .aqdBw 0 { blocks with data := [] }, .aqdBw 0 { blocks with data := List.replicate 129 0 },
    .aqdBw 0 { blocks with data := List.replicate 2176 0 }, .aqdBw 0 { blocks with addr := 2 ^ 21 - 128 }, .aqdBw 0 writes,
    .aqdAt 0 { atoms with op := 5 }, .aqdAt 0 { atoms with addr := 132 }, .aqdAt 0 { atoms with operand := 2 ^ 64 },
    .aqdAt 0 { atoms with compare := 2 ^ 64 }, .aqdAt 0 writes, .aqdBump 0 { bumps with operand := 2 ^ 64 }, .aqdBump 0 writes,
    .aqdQuery 0 { queries with src := 4096 }, .aqdQuery 0 writes, .homeLineUpdate 0 4503599627370496 false,
    .aqdReply 0 ⟨0, .done, 8, 0, []⟩, .aqdReply 0 ⟨0, .done, 0, 2 ^ 64, []⟩, .aqdReply 0 ⟨0, .done, 0, 0, [1]⟩, .creditGrant 0 4096,
    .aqdAtomic 0 1028, .copyAsync 0 1028 [] false, .arrivalCounterWrite 0 4096 0, .shadowExport 0 1028, .shadowCompare 0 1028,
    .shadowEnd 0 1028, .shadowFillDone 0 128, .shadowPendingTimeout 0 128, .sourceLost 0 128, .sourceLostCmd 0 128 0, .detStepWrite 0 128 0,
    .faultReportCapture 0 [⟨65536, 0, 0, 0⟩], .faultReportCapture 0 [⟨0, 6, 0, 0⟩], .faultReportCapture 0 [⟨0, 0, 2 ^ 64, 0⟩]] : List Instr).all (fun c => !c.wellFormed) = true := by
  decide +kernel

theorem test_ill_formed_7 : ([
    .faultReportCapture 0 [⟨0, 0, 0, 2 ^ 64⟩], .quietWindowClose 0 67108864, .recoveryTestDone 0 67108864 false, .basinStepChange 0 64,
    .droop 0 96 0, .droopRecovery 0 96 0, .stretchReport 0 96, .rampDownEnd 0 200, .basinGateEffect 0 64, .wakeRampDone 0 64,
    .wakeZeroingDone 0 64 [], .wakeZeroingDone 0 0 [67108864], .energyMeterSample 0 [1] 0, .energyMeterSample 0 [0, 0, 0, 0, 0] 65536,
    .thermalSample 0 256 0 0, .thermalSample 0 0 256 0, .thermalSample 0 0 0 256, .fusesLoaded 0 4096 0, .fusesLoaded 0 0 8,
    .dieReady 0 2 false, .hbmControllerTrained 0 8 0 false [], .hbmControllerTrained 0 0 2 false [], .hbmControllerTrained 0 0 0 false [64],
    .pldmGetSensor 0 .i3c 65536, .setEventReceiver 0 .i3c 256 [], .setEventReceiver 0 .i3c 0 [65536], .vendorSiltEntry 0 .i3c 65536,
    .vendorSiltSnap 0 .i3c 256, .vendorClassCount 0 .i3c 256] : List Instr).all (fun c => !c.wellFormed) = true := by
  decide +kernel

/-! ### The manual's worked examples -/

/-- "Conventions": BASIN_BASE(5, 3) is 0x035C_0000, and basin 3 of T5 is basin 43; Table 1-12: BASIN_STATE lies there. -/
theorem test_basin_base : (regAt 0x035C0000).map (fun w => (w.reg, w.i)) = some (RegName.basinState, 43) := by decide +kernel

/-- A read of DEVICE_ID. -/
theorem test_device_id : ∃ t, Does (.lowWordRead 0 0 4) State.reset t ∧ t.readData = 0x47E9C110 := ⟨_, rfl, by decide +kernel⟩

/-- "The device and its six levels": HBM address 0x00A2_4681_2300, in octet 4, stack 10, region slot 0x123, block 291. -/
theorem test_hbm_place : hbmPlace 0xA246812300 = (5, 0, 35, 0x123, 291 / 8, 0) ∧ hbmOctet 0xA246812300 = 4 := by decide +kernel

/-- The unit identifier of J1 of basin 43. -/
theorem test_unit_identifier : unitBasin 43 1 = 0x1581 := by decide

/-- The pool word of "Worked example: an MXFP4 tile element": derived anchor, two K-groups, the two orders of addition. -/
def mxfp4 : List Int :=
  [(kgroup ((List.range 32).map fun k => (if k % 2 = 0 then 7 else 9, 3)) 6 6 0x80 0x7C (deriveAnchor 6 6 0x80 0x84) 0).1,
   (kgroup (List.replicate 32 (1, 10)) 6 6 0x7E 0x84 (deriveAnchor 6 6 0x80 0x84) 0).1]

theorem test_mxfp4 : deriveAnchor 6 6 0x80 0x84 = 17 ∧ mxfp4 = [33 * 2 ^ 87, -256 * 2 ^ 87] ∧
    unsignedOf (mxfp4.foldl poolAdd 0) 144 = 0xFFFFFFFFFFFF90800000000000000000 * 2 ^ 16 ∧
    mxfp4.reverse.foldl poolAdd 0 = mxfp4.foldl poolAdd 0 := by decide +kernel

/-- Its conversions to FP8 E4M3 and BF16. -/
theorem test_mxfp4_convert : rnd (wordVal (-223 * 2 ^ 87) 17) 0 true = (0xF6, false) ∧ rnd (wordVal (-223 * 2 ^ 87) 17) 9 true = (0xC35F, false) := by
  decide +kernel

/-- "Worked example: a K-split across two packages": the partials and their sum. -/
theorem test_k_split :
    (kgroup [(0x6C, 0x6C), (0x3C, 0x3C)] 1 1 127 127 (deriveAnchor 1 1 127 127) 0).1 = 2 ^ 91 + 2 ^ 67 ∧
    (kgroup [(0xEC, 0x6C)] 1 1 127 127 37 0).1 = -2 ^ 91 ∧ poolAdd (2 ^ 91 + 2 ^ 67) (-2 ^ 91) = 2 ^ 67 ∧
    rnd (wordVal (2 ^ 67) 37) 9 true = (0x3F80, false) := by decide +kernel

/-- R65's example: 13.0 and 5.0 in one block of MXFP4. -/
theorem test_mx_quantise : mxQuantise [13 * 2 ^ 104, 5 * 2 ^ 104] 0 6 = (0x80, [7, 4], false) := by decide +kernel

/-- "Runnel chains": 1 + 2^-8 + 2^-9 rounds to BF16 0x3F81, and 1 + 2^-8 alone to 0x3F80. -/
theorem test_bf16_fused : (rnd (.num 515 (-9)) 9 false).1 = 0x3F81 ∧ (rnd (.num 257 (-8)) 9 false).1 = 0x3F80 := by decide +kernel

/-- R252's example: B = 2,048 at weights 3 and 1. -/
theorem test_stamps : (∀ s, s = put busy [(Fld.schedShareWeight, 7, 3)] → (s.stampPacket 7 2 2048).1 = 44739243) ∧
    (∀ s, s = put busy [(Fld.schedShareWeight, 9, 1)] → (s.stampPacket 9 2 2048).1 = 134217728) := by
  refine ⟨?_, ?_⟩ <;> (intro s hs; subst hs; decide +kernel)

/-- "Worked example: one measurement", in units of 2^-16 ns from second S: t2, and theta and the mean path delay. -/
theorem test_measurement : ptpUnits 131072 = 136533333 ∧ toPtp 131072 = (0, 2083, 21845) ∧
    measure 0 (1500 * 65536) 136533333 (10000000 * 65536) (10001833 * 65536) (1449 * 65536 + 43691) 0 = (6553600, 483 * 65536 + 21845) := by
  decide +kernel

/-- The servo of that example: rate_i and rate in LOCKED with kp_shift 1 and ki_shift 6. -/
def servoed : State := ((put up [(Fld.timeStatusState, 0, 2), (Fld.timeServoKpShift, 0, 1), (Fld.timeServoKiShift, 0, 6)]).setRateI 19660800).servo 6553600

theorem test_servo : servoed.rateI = 19558400 ∧ signedOf (servoed.reg .timeRate) 32 = 16281600 := by decide +kernel

/-- Table 18-10: the second report of J1 of basin 43 within the window fences it; at the end of the quiet window it is tested. -/
def j1policy : State := put up [(Fld.policyThreshold, 0, 2), (Fld.policyWindow, 0, 64), (Fld.policyRecoverEn, 0, 1), (Fld.policyRecoverLimit, 0, 3),
  (Fld.spwQuietQuiet, 0, 1024)]

def j1once : State := { j1policy with time := { count64 := 64 * 1500 } }.countReport ⟨0x1581, 2, 0, 0⟩
def j1twice : State := { j1once with time := { count64 := 64 * 5001500 } }.countReport ⟨0x1581, 2, 5000000, 0⟩

theorem test_fenced_jet : (j1once.item 0x1581).fence = 0 ∧ (j1once.item 0x1581).count = 1 ∧ (j1twice.item 0x1581).fence = 1 := by decide +kernel

theorem test_quiet_window :
    (∀ s, s = { j1policy.setItem 0x1581 { fence := 1, since := 5001500, last := some 5000000 } with time := { count64 := 64 * 1078743324 } } →
      s.quietOver 0x1581 0 = true) ∧
    (∀ s, s = { j1policy.setItem 0x1581 { fence := 1, since := 5001500, last := some 5000000 } with time := { count64 := 64 * 1078743323 } } →
      s.quietOver 0x1581 0 = false) := by
  refine ⟨?_, ?_⟩ <;> (intro s hs; subst hs; decide +kernel)

/-- "Worked example: one expert on one rill": D of the first tile, computed from A_load, the groups and the fixed cycles. -/
theorem test_rill_tile : Rd.bound (pk [(0, 0), (4, 1), (24, 15), (88, 120), (128, 6144)]) 6 = 1616 ∧ rillG 0 6 = 20 ∧
    Rd.weightBytes (pk [(88, 120), (128, 6144)]) 6 = 391680 ∧ deriveAnchor 0 6 127 0x81 = 19 := by decide +kernel

/-- Table 18-7: no error, error, and a spillway that is lost or not yet ready. -/
theorem test_error_pair : up.errPair = (false, true) ∧ (put up [(Fld.spwStatusPinError, 0, 1)]).errPair = (true, false) ∧
    State.reset.errPair = (false, false) ∧ (∀ s, s = { up with spw := { lost := true } } → s.errPair = (false, false)) := by
  refine ⟨by decide +kernel, by decide +kernel, by decide +kernel, ?_⟩
  intro s hs; subst hs; decide +kernel

end Sys2Proof.Tests
end

section
/-! The order that every step keeps (R9, R242, R273). -/
namespace Sys2Proof.Machine

/-- Every meaning keeps the queue that it finds and the order of registers and memories: row by row. -/
theorem exec_keeps {c : Instr} {s t : State} (h : Does c s t) : Keeps s t := by
  cases c with
  | registerWrite => exact execRegisterWrite_keeps h
  | lowWordRead => exact execLowWordRead_keeps h
  | highWordRead => exact execHighWordRead_keeps h
  | rcFieldRead => exact execRcFieldRead_keeps h
  | heartbeat => exact execHeartbeat_keeps h
  | heartbeatLoss => exact execHeartbeatLoss_keeps h
  | dieHeartbeatLoss => exact execDieHeartbeatLoss_keeps h
  | fenceEffect => exact execFenceEffect_keeps h
  | fencedBasinGate => exact execFencedBasinGate_keeps h
  | jetTile => exact execJetTile_keeps h
  | jetTileStart => exact execJetTileStart_keeps h
  | jetBankLoadComplete => exact execJetBankLoadComplete_keeps h
  | jetTileEnd => exact execJetTileEnd_keeps h
  | jetFieldRemap => exact execJetFieldRemap_keeps h
  | fieldFuseBlown => exact execFieldFuseBlown_keeps h
  | cisternPart => exact execCisternPart_keeps h
  | cisternPartZeroingDone => exact execCisternPartZeroingDone_keeps h
  | cisternSteal => exact execCisternSteal_keeps h
  | cxlLinkDown => exact execCxlLinkDown_keeps h
  | cxlLinkUp => exact execCxlLinkUp_keeps h
  | runnelPass => exact execRunnelPass_keeps h
  | runnelPassStart => exact execRunnelPassStart_keeps h
  | runnelPassEnd => exact execRunnelPassEnd_keeps h
  | epilogueComplete => exact execEpilogueComplete_keeps h
  | rillTile => exact execRillTile_keeps h
  | rillFetchStart => exact execRillFetchStart_keeps h
  | rillFetchReturn => exact execRillFetchReturn_keeps h
  | rillTileStart => exact execRillTileStart_keeps h
  | rillTileEnd => exact execRillTileEnd_keeps h
  | variantWrite => exact execVariantWrite_keeps h
  | cascadeForward => exact execCascadeForward_keeps h
  | cascadeMerge => exact execCascadeMerge_keeps h
  | cascadeBackward => exact execCascadeBackward_keeps h
  | cascadeFetchStart => exact execCascadeFetchStart_keeps h
  | cascadeFetchReturn => exact execCascadeFetchReturn_keeps h
  | cascadeTileStart => exact execCascadeTileStart_keeps h
  | cascadeTileEnd => exact execCascadeTileEnd_keeps h
  | sessionCreate => exact execSessionCreate_keeps h
  | sessionCancel => exact execSessionCancel_keeps h
  | sessionPause => exact execSessionPause_keeps h
  | sessionRebuild => exact execSessionRebuild_keeps h
  | sessionRelease => exact execSessionRelease_keeps h
  | kvProvision => exact execKvProvision_keeps h
  | kvReclaim => exact execKvReclaim_keeps h
  | kvReserve => exact execKvReserve_keeps h
  | kvAppend => exact execKvAppend_keeps h
  | prefixSeal => exact execPrefixSeal_keeps h
  | prefixAttach => exact execPrefixAttach_keeps h
  | prefixDrop => exact execPrefixDrop_keeps h
  | handoff => exact execHandoff_keeps h
  | handoffArrival => exact execHandoffArrival_keeps h
  | handoffTimeout => exact execHandoffTimeout_keeps h
  | stepBegin => exact execStepBegin_keeps h
  | stepEnd => exact execStepEnd_keeps h
  | stepEndResume => exact execStepEndResume_keeps h
  | spoutTask => exact execSpoutTask_keeps h
  | spoutTaskStart => exact execSpoutTaskStart_keeps h
  | spoutInstruction => exact execSpoutInstruction_keeps h
  | spoutEcall => exact execSpoutEcall_keeps h
  | spoutWatchdog => exact execSpoutWatchdog_keeps h
  | wcClaim => exact execWcClaim_keeps h
  | wcClaimResume => exact execWcClaimResume_keeps h
  | wcDone => exact execWcDone_keeps h
  | spoutSemSignal => exact execSpoutSemSignal_keeps h
  | semWait => exact execSemWait_keeps h
  | semWaitAcquire => exact execSemWaitAcquire_keeps h
  | semWaitDeadline => exact execSemWaitDeadline_keeps h
  | semTry => exact execSemTry_keeps h
  | tileIssue => exact execTileIssue_keeps h
  | spoutAccessReturn => exact execSpoutAccessReturn_keeps h
  | doorbell => exact execDoorbell_keeps h
  | packetRead => exact execPacketRead_keeps h
  | packetDispatch => exact execPacketDispatch_keeps h
  | nop => exact execNop_keeps h
  | fence => exact execFence_keeps h
  | fenceComplete => exact execFenceComplete_keeps h
  | wait => exact execWait_keeps h
  | waitSatisfied => exact execWaitSatisfied_keeps h
  | waitTimeout => exact execWaitTimeout_keeps h
  | counterAdd => exact execCounterAdd_keeps h
  | semSignal => exact execSemSignal_keeps h
  | copy => exact execCopy_keeps h
  | fill => exact execFill_keeps h
  | copyComplete => exact execCopyComplete_keeps h
  | cqTailWrite => exact execCqTailWrite_keeps h
  | ringEnable => exact execRingEnable_keeps h
  | ringResume => exact execRingResume_keeps h
  | sliceEnable => exact execSliceEnable_keeps h
  | sliceDisable => exact execSliceDisable_keeps h
  | hostRequestRefused => exact execHostRequestRefused_keeps h
  | sliceFrozen => exact execSliceFrozen_keeps h
  | keyLoad => exact execKeyLoad_keeps h
  | keyErase => exact execKeyErase_keeps h
  | memRangeWrite => exact execMemRangeWrite_keeps h
  | sliceBasinsWrite => exact execSliceBasinsWrite_keeps h
  | sliceReset => exact execSliceReset_keeps h
  | sliceResetDrained => exact execSliceResetDrained_keeps h
  | sliceResetComplete => exact execSliceResetComplete_keeps h
  | handoverZeroingDone => exact execHandoverZeroingDone_keeps h
  | markerRefill => exact execMarkerRefill_keeps h
  | markerEnable => exact execMarkerEnable_keeps h
  | weightWrite => exact execWeightWrite_keeps h
  | fixedShareWrite => exact execFixedShareWrite_keeps h
  | yieldRequest => exact execYieldRequest_keeps h
  | quantumExpiry => exact execQuantumExpiry_keeps h
  | yieldDrained => exact execYieldDrained_keeps h
  | saveComplete => exact execSaveComplete_keeps h
  | restoreComplete => exact execRestoreComplete_keeps h
  | effectiveTierUpdate => exact execEffectiveTierUpdate_keeps h
  | gateList => exact execGateList_keeps h
  | gateListRemove => exact execGateListRemove_keeps h
  | gateListAct => exact execGateListAct_keeps h
  | guardBandBegin => exact execGuardBandBegin_keeps h
  | windowOpen => exact execWindowOpen_keeps h
  | windowClose => exact execWindowClose_keeps h
  | windowExtendedClose => exact execWindowExtendedClose_keeps h
  | carrierEnable => exact execCarrierEnable_keeps h
  | uplaneSection => exact execUplaneSection_keeps h
  | receiveWindowClose => exact execReceiveWindowClose_keeps h
  | dlSymbolEmission => exact execDlSymbolEmission_keeps h
  | radioReservedWrite => exact execRadioReservedWrite_keeps h
  | radioEnable => exact execRadioEnable_keeps h
  | slotPlan => exact execSlotPlan_keeps h
  | ldpcDec => exact execLdpcDec_keeps h
  | ldpcEnc => exact execLdpcEnc_keeps h
  | polarDec => exact execPolarDec_keeps h
  | polarEnc => exact execPolarEnc_keeps h
  | dft => exact execDft_keeps h
  | prach => exact execPrach_keeps h
  | dmrsMeas => exact execDmrsMeas_keeps h
  | radioJetOp => exact execRadioJetOp_keeps h
  | radioSpoutOp => exact execRadioSpoutOp_keeps h
  | cplaneTx => exact execCplaneTx_keeps h
  | spoutBudgetStop => exact execSpoutBudgetStop_keeps h
  | radioOpEnd => exact execRadioOpEnd_keeps h
  | slotOverrun => exact execSlotOverrun_keeps h
  | radioTakeover => exact execRadioTakeover_keeps h
  | cellMigrateSource => exact execCellMigrateSource_keeps h
  | cellMigrateDest => exact execCellMigrateDest_keeps h
  | migrationSwitch => exact execMigrationSwitch_keeps h
  | migrationSourceDone => exact execMigrationSourceDone_keeps h
  | migrationArrival => exact execMigrationArrival_keeps h
  | migrationTimeout => exact execMigrationTimeout_keeps h
  | syncRx => exact execSyncRx_keeps h
  | followUpRx => exact execFollowUpRx_keeps h
  | delayRespRx => exact execDelayRespRx_keeps h
  | delayReqRx => exact execDelayReqRx_keeps h
  | delayReqTx => exact execDelayReqTx_keeps h
  | masterSyncTx => exact execMasterSyncTx_keeps h
  | holdoverEntry => exact execHoldoverEntry_keeps h
  | freeRunWrite => exact execFreeRunWrite_keeps h
  | trackSelWrite => exact execTrackSelWrite_keeps h
  | synceMeasure => exact execSynceMeasure_keeps h
  | synceLoss => exact execSynceLoss_keeps h
  | outputEnable => exact execOutputEnable_keeps h
  | outputDisable => exact execOutputDisable_keeps h
  | outputEdge => exact execOutputEdge_keeps h
  | captureEdge => exact execCaptureEdge_keeps h
  | capMetaRead => exact execCapMetaRead_keeps h
  | launchArm => exact execLaunchArm_keeps h
  | launchDisarm => exact execLaunchDisarm_keeps h
  | launchFire => exact execLaunchFire_keeps h
  | ethFrameRx => exact execEthFrameRx_keeps h
  | ethLinkChange => exact execEthLinkChange_keeps h
  | forwardEnqueue => exact execForwardEnqueue_keeps h
  | egressTransmit => exact execEgressTransmit_keeps h
  | ethMarkerRefill => exact execEthMarkerRefill_keeps h
  | gclArm => exact execGclArm_keeps h
  | gclSwitch => exact execGclSwitch_keeps h
  | mgmtTxEntry => exact execMgmtTxEntry_keeps h
  | mgmtTxNotBefore => exact execMgmtTxNotBefore_keeps h
  | flitReplay => exact execFlitReplay_keeps h
  | aqdLinkDown => exact execAqdLinkDown_keeps h
  | aqdLinkUp => exact execAqdLinkUp_keeps h
  | aqdTrainTimeout => exact execAqdTrainTimeout_keeps h
  | aqdRd => exact execAqdRd_keeps h
  | aqdWr => exact execAqdWr_keeps h
  | aqdBw => exact execAqdBw_keeps h
  | aqdAt => exact execAqdAt_keeps h
  | aqdBump => exact execAqdBump_keeps h
  | aqdQuery => exact execAqdQuery_keeps h
  | homeLineUpdate => exact execHomeLineUpdate_keeps h
  | aqdReply => exact execAqdReply_keeps h
  | requestExpiry => exact execRequestExpiry_keeps h
  | senderWaitClose => exact execSenderWaitClose_keeps h
  | aqdRetry => exact execAqdRetry_keeps h
  | creditGrant => exact execCreditGrant_keeps h
  | aqdAtomic => exact execAqdAtomic_keeps h
  | copyAsync => exact execCopyAsync_keeps h
  | aqdEnable => exact execAqdEnable_keeps h
  | arrivalCounterWrite => exact execArrivalCounterWrite_keeps h
  | shadowExport => exact execShadowExport_keeps h
  | shadowCompare => exact execShadowCompare_keeps h
  | shadowEnd => exact execShadowEnd_keeps h
  | shadowFillDone => exact execShadowFillDone_keeps h
  | shadowPendingTimeout => exact execShadowPendingTimeout_keeps h
  | sourceLost => exact execSourceLost_keeps h
  | sourceLostCmd => exact execSourceLostCmd_keeps h
  | detStepWrite => exact execDetStepWrite_keeps h
  | faultReportCapture => exact execFaultReportCapture_keeps h
  | errorPairAssert => exact execErrorPairAssert_keeps h
  | fenceSet => exact execFenceSet_keeps h
  | fenceClear => exact execFenceClear_keeps h
  | quietWindowClose => exact execQuietWindowClose_keeps h
  | recoveryTestDone => exact execRecoveryTestDone_keeps h
  | inferFence => exact execInferFence_keeps h
  | inferClear => exact execInferClear_keeps h
  | pinClear => exact execPinClear_keeps h
  | siltFreeze => exact execSiltFreeze_keeps h
  | siltRearm => exact execSiltRearm_keeps h
  | enterSafe => exact execEnterSafe_keeps h
  | safeStateEntry => exact execSafeStateEntry_keeps h
  | driverMarker => exact execDriverMarker_keeps h
  | spillwayHeartbeat => exact execSpillwayHeartbeat_keeps h
  | spillwayLoss => exact execSpillwayLoss_keeps h
  | healthDecay => exact execHealthDecay_keeps h
  | governorPeriod => exact execGovernorPeriod_keeps h
  | basinStepChange => exact execBasinStepChange_keeps h
  | droop => exact execDroop_keeps h
  | droopRecovery => exact execDroopRecovery_keeps h
  | stretchReport => exact execStretchReport_keeps h
  | slewRefill => exact execSlewRefill_keeps h
  | slewStartGrant => exact execSlewStartGrant_keeps h
  | rampDownEnd => exact execRampDownEnd_keeps h
  | basinGateReq => exact execBasinGateReq_keeps h
  | basinGateEffect => exact execBasinGateEffect_keeps h
  | basinWakeReq => exact execBasinWakeReq_keeps h
  | wakeRampDone => exact execWakeRampDone_keeps h
  | wakeZeroingDone => exact execWakeZeroingDone_keeps h
  | energyMeterSample => exact execEnergyMeterSample_keeps h
  | thermalSample => exact execThermalSample_keeps h
  | coldReset => exact execColdReset_keeps h
  | pkgRstRelease => exact execPkgRstRelease_keeps h
  | perstAssert => exact execPerstAssert_keeps h
  | perstRelease => exact execPerstRelease_keeps h
  | resetCmdWarm => exact execResetCmdWarm_keeps h
  | warmResetEffect => exact execWarmResetEffect_keeps h
  | resetCmdTerrace => exact execResetCmdTerrace_keeps h
  | resetCmdBasin => exact execResetCmdBasin_keeps h
  | terraceResetDone => exact execTerraceResetDone_keeps h
  | basinResetDone => exact execBasinResetDone_keeps h
  | fusesLoaded => exact execFusesLoaded_keeps h
  | hubReady => exact execHubReady_keeps h
  | pcieReady => exact execPcieReady_keeps h
  | dieReady => exact execDieReady_keeps h
  | hbmControllerTrained => exact execHbmControllerTrained_keeps h
  | localDone => exact execLocalDone_keeps h
  | pcieLinkDown => exact execPcieLinkDown_keeps h
  | mctpControl => exact execMctpControl_keeps h
  | pldmGetSensor => exact execPldmGetSensor_keeps h
  | setEventReceiver => exact execSetEventReceiver_keeps h
  | vendorSiltStatus => exact execVendorSiltStatus_keeps h
  | vendorSiltEntry => exact execVendorSiltEntry_keeps h
  | vendorSiltSnap => exact execVendorSiltSnap_keeps h
  | vendorClassCount => exact execVendorClassCount_keeps h
  | vendorHealth => exact execVendorHealth_keeps h
  | jtagInstruction => exact execJtagInstruction_keeps h
  | supplyRemoval => exact execSupplyRemoval_keeps h

/-- A step of an idle device keeps its state; any other is the front command on the state with the queue's rest. -/
theorem step_cases {s t : State} (h : step s = .next t) :
    (s.pending = [] ∧ t = s) ∨ ∃ c rest, s.pending = c :: rest ∧ Does c { s with pending := rest } t := by
  cases hp : s.pending with
  | nil =>
    simp only [step, hp, Host.Outcome.next.injEq] at h
    exact .inl ⟨rfl, h.symm⟩
  | cons c rest =>
    simp only [step, hp] at h
    exact .inr ⟨c, rest, rfl, h⟩

/-- The order does not rest on the queue. -/
theorem State.inOrder_setPending (s : State) (q : List Instr) : ({ s with pending := q } : State).inOrder = s.inOrder := rfl

/-- Settles O5: the front command runs on the queue's rest, and every meaning keeps queue and order. -/
theorem stepKeepsOrder : Obligations.StepKeepsOrder := by
  intro s t hs h
  obtain ⟨hp, rfl⟩ | ⟨c, rest, hp, hc⟩ := step_cases h
  · exact ⟨hs, by rw [hp, List.tail_nil]⟩
  · obtain ⟨hq, ho⟩ := exec_keeps hc
    exact ⟨ho (by rw [State.inOrder_setPending, hs]), by rw [hq, hp, List.tail_cons]⟩

end Sys2Proof.Machine
end

section
/-! The reset state (R11). -/
namespace Sys2Proof.Machine

/-- Settles O4: nothing is listed and nothing waits. -/
theorem resetIsInOrder : Obligations.ResetIsInOrder := by
  unfold Obligations.ResetIsInOrder
  decide

/-- At reset the table lists nothing: a register reads its reset value. -/
theorem State.reset_reg (n : RegName) (i : Nat) : State.reset.reg n i = (n.resetVal i &&& regMask n i) % 2 ^ 64 := by
  rw [State.reg, show State.reset.regs = [] from rfl, Tbl.get_nil, regReset, BitVec.toNat_ofNat]

/-- No slice is bound at reset. -/
theorem State.reset_sliceStatus (sl : Nat) : State.reset.reg .sliceStatus sl = 0 := by
  rw [State.reset_reg, show RegName.resetVal .sliceStatus sl = 0 from rfl, Nat.zero_and, Nat.zero_mod]

/-- At reset a basin's state shows that it is gated, and nothing else. -/
theorem State.reset_basinState (b : Nat) : State.reset.reg .basinState b = 2 ^ 10 := by
  rw [State.reset_reg, show RegName.resetVal .basinState b = 2 ^ 10 from rfl,
    show regMask .basinState b = RegName.mask .basinState from rfl]
  decide

/-- Settles O12: the tables' reset values, register by register. -/
theorem resetValues : Obligations.ResetValues := by
  unfold Obligations.ResetValues
  refine ⟨?_, ?_, ?_, ?_, ?_, ?_, ?_, ?_, ?_, ?_, ?_, fun sl hsl => ?_, fun b _ => ?_, ?_⟩
  case refine_12 =>
    rw [State.sliceState, if_neg (by omega), State.rd, show Fld.sliceStatusState.reg = .sliceStatus from rfl, State.reset_sliceStatus]
    decide
  case refine_13 =>
    rw [State.gated, State.on, State.rd, show Fld.basinStateGated.reg = .basinState from rfl, State.reset_basinState]
    decide
  all_goals decide

end Sys2Proof.Machine
end

section
/-! Commands that leave every memory or every register as it is: what they change stands in the blocks' own records. -/
namespace Sys2Proof.Machine

/-! ### Commands that leave all memory -/

/-- Every row of `leavesMemory` leaves every memory as it is. -/
theorem exec_still {c : Instr} {s t : State} (hc : leavesMemory c = true) (h : Does c s t) : Still s t := by
  cases c with
  | lowWordRead => exact execLowWordRead_still h
  | highWordRead => exact execHighWordRead_still h
  | rcFieldRead => exact execRcFieldRead_still h
  | heartbeat => exact execHeartbeat_still h
  | heartbeatLoss => exact execHeartbeatLoss_still h
  | dieHeartbeatLoss => exact execDieHeartbeatLoss_still h
  | jetFieldRemap => exact execJetFieldRemap_still h
  | fieldFuseBlown => exact execFieldFuseBlown_still h
  | cisternPart => exact execCisternPart_still h
  | cisternSteal => exact execCisternSteal_still h
  | cxlLinkDown => exact execCxlLinkDown_still h
  | cxlLinkUp => exact execCxlLinkUp_still h
  | rillFetchStart => exact execRillFetchStart_still h
  | spoutTaskStart => exact execSpoutTaskStart_still h
  | wcClaimResume => exact execWcClaimResume_still h
  | semWaitAcquire => exact execSemWaitAcquire_still h
  | semWaitDeadline => exact execSemWaitDeadline_still h
  | fence => exact execFence_still h
  | ringEnable => exact execRingEnable_still h
  | ringResume => exact execRingResume_still h
  | sliceFrozen => exact execSliceFrozen_still h
  | keyLoad => exact execKeyLoad_still h
  | keyErase => exact execKeyErase_still h
  | memRangeWrite => exact execMemRangeWrite_still h
  | sliceBasinsWrite => exact execSliceBasinsWrite_still h
  | sliceResetComplete => exact execSliceResetComplete_still h
  | markerRefill => exact execMarkerRefill_still h
  | markerEnable => exact execMarkerEnable_still h
  | weightWrite => exact execWeightWrite_still h
  | fixedShareWrite => exact execFixedShareWrite_still h
  | yieldRequest => exact execYieldRequest_still h
  | quantumExpiry => exact execQuantumExpiry_still h
  | yieldDrained => exact execYieldDrained_still h
  | effectiveTierUpdate => exact execEffectiveTierUpdate_still h
  | gateListAct => exact execGateListAct_still h
  | guardBandBegin => exact execGuardBandBegin_still h
  | windowClose => exact execWindowClose_still h
  | windowExtendedClose => exact execWindowExtendedClose_still h
  | carrierEnable => exact execCarrierEnable_still h
  | dlSymbolEmission => exact execDlSymbolEmission_still h
  | radioReservedWrite => exact execRadioReservedWrite_still h
  | radioEnable => exact execRadioEnable_still h
  | radioSpoutOp => exact execRadioSpoutOp_still h
  | cplaneTx => exact execCplaneTx_still h
  | spoutBudgetStop => exact execSpoutBudgetStop_still h
  | migrationSwitch => exact execMigrationSwitch_still h
  | syncRx => exact execSyncRx_still h
  | followUpRx => exact execFollowUpRx_still h
  | delayRespRx => exact execDelayRespRx_still h
  | delayReqRx => exact execDelayReqRx_still h
  | delayReqTx => exact execDelayReqTx_still h
  | masterSyncTx => exact execMasterSyncTx_still h
  | holdoverEntry => exact execHoldoverEntry_still h
  | freeRunWrite => exact execFreeRunWrite_still h
  | trackSelWrite => exact execTrackSelWrite_still h
  | synceMeasure => exact execSynceMeasure_still h
  | synceLoss => exact execSynceLoss_still h
  | outputEnable => exact execOutputEnable_still h
  | outputDisable => exact execOutputDisable_still h
  | outputEdge => exact execOutputEdge_still h
  | captureEdge => exact execCaptureEdge_still h
  | capMetaRead => exact execCapMetaRead_still h
  | launchArm => exact execLaunchArm_still h
  | launchDisarm => exact execLaunchDisarm_still h
  | launchFire => exact execLaunchFire_still h
  | ethLinkChange => exact execEthLinkChange_still h
  | forwardEnqueue => exact execForwardEnqueue_still h
  | ethMarkerRefill => exact execEthMarkerRefill_still h
  | gclArm => exact execGclArm_still h
  | gclSwitch => exact execGclSwitch_still h
  | flitReplay => exact execFlitReplay_still h
  | aqdLinkDown => exact execAqdLinkDown_still h
  | aqdLinkUp => exact execAqdLinkUp_still h
  | aqdTrainTimeout => exact execAqdTrainTimeout_still h
  | requestExpiry => exact execRequestExpiry_still h
  | aqdRetry => exact execAqdRetry_still h
  | shadowFillDone => exact execShadowFillDone_still h
  | shadowPendingTimeout => exact execShadowPendingTimeout_still h
  | detStepWrite => exact execDetStepWrite_still h
  | errorPairAssert => exact execErrorPairAssert_still h
  | fenceSet => exact execFenceSet_still h
  | fenceClear => exact execFenceClear_still h
  | quietWindowClose => exact execQuietWindowClose_still h
  | driverMarker => exact execDriverMarker_still h
  | spillwayHeartbeat => exact execSpillwayHeartbeat_still h
  | spillwayLoss => exact execSpillwayLoss_still h
  | healthDecay => exact execHealthDecay_still h
  | governorPeriod => exact execGovernorPeriod_still h
  | basinStepChange => exact execBasinStepChange_still h
  | droop => exact execDroop_still h
  | droopRecovery => exact execDroopRecovery_still h
  | stretchReport => exact execStretchReport_still h
  | slewRefill => exact execSlewRefill_still h
  | slewStartGrant => exact execSlewStartGrant_still h
  | rampDownEnd => exact execRampDownEnd_still h
  | basinGateReq => exact execBasinGateReq_still h
  | basinWakeReq => exact execBasinWakeReq_still h
  | wakeRampDone => exact execWakeRampDone_still h
  | energyMeterSample => exact execEnergyMeterSample_still h
  | thermalSample => exact execThermalSample_still h
  | pkgRstRelease => exact execPkgRstRelease_still h
  | perstRelease => exact execPerstRelease_still h
  | terraceResetDone => exact execTerraceResetDone_still h
  | basinResetDone => exact execBasinResetDone_still h
  | fusesLoaded => exact execFusesLoaded_still h
  | hubReady => exact execHubReady_still h
  | pcieReady => exact execPcieReady_still h
  | dieReady => exact execDieReady_still h
  | localDone => exact execLocalDone_still h
  | pcieLinkDown => exact execPcieLinkDown_still h
  | mctpControl => exact execMctpControl_still h
  | pldmGetSensor => exact execPldmGetSensor_still h
  | setEventReceiver => exact execSetEventReceiver_still h
  | vendorSiltStatus => exact execVendorSiltStatus_still h
  | vendorSiltEntry => exact execVendorSiltEntry_still h
  | vendorSiltSnap => exact execVendorSiltSnap_still h
  | vendorClassCount => exact execVendorClassCount_still h
  | vendorHealth => exact execVendorHealth_still h
  | jtagInstruction => exact execJtagInstruction_still h
  | _ => cases hc

/-! ### Commands that leave every register: frames and loops -/

theorem enterIf_regs {ok : Bool} {dt : Nat} {s t : State} {k : State → State} (h : enterIf ok dt s k = .next t)
    (hk : ∀ x, (k x).regs = x.regs) : t.regs = s.regs := by
  cases ok with
  | false => cases h
  | true => cases h; rw [hk, State.advance_regs]

theorem State.whenever_regs {s : State} {p : Bool} {k : State → State} (hk : ∀ x, (k x).regs = x.regs) :
    (s.whenever p k).regs = s.regs := by
  unfold State.whenever
  split
  · exact hk s
  · rfl

theorem State.forSome_regs {α : Type} {s : State} {o : Option α} {k : State → α → State} (hk : ∀ x a, (k x a).regs = x.regs) :
    (s.forSome o k).regs = s.regs := by
  cases o with
  | none => rfl
  | some a => exact hk s a

theorem State.periodic_regs {s : State} {t : Tick} {due : Bool} {k : State → State} (hk : ∀ x, (k x).regs = x.regs) :
    (s.periodic t due k).regs = s.regs := by
  unfold State.periodic
  split
  · exact hk _
  · rfl

theorem State.each_regs {α : Type} {s : State} {l : List α} {f : State → α → State} (hf : ∀ x a, (f x a).regs = x.regs) :
    (s.each l f).regs = s.regs := by
  unfold State.each
  induction l generalizing s with
  | nil => rfl
  | cons a l ih => rw [List.foldl_cons, ih, hf]

theorem State.answer_regs {s : State} {tr : Transport} {k : State → State × List Byte} (hk : ∀ x, (k x).1.regs = x.regs) :
    (s.answer tr k).regs = s.regs := State.whenever_regs hk

theorem enter_regs {c : Instr} {dt : Nat} {s t : State} {k : State → State} (h : enter c dt s k = .next t)
    (hk : ∀ x, (k x).regs = x.regs) : t.regs = s.regs := enterIf_regs h hk

/-! ### Operations -/

theorem State.rillFetchStart_regs (s : State) (b : Nat) : (s.rillFetchStart b).regs = s.regs := by
  unfold State.rillFetchStart
  dsimp only
  split
  · exact State.forSome_regs fun _ _ => State.whenever_regs fun _ => rfl
  · exact State.forSome_regs fun _ _ => State.whenever_regs fun _ => State.forSome_regs fun _ _ => rfl

theorem State.takeDelayResp_regs (s : State) (i : Nat) (f : List Byte) : (s.takeDelayResp i f).regs = s.regs := by
  unfold State.takeDelayResp
  dsimp only
  split
  · split <;> rfl
  · rfl

theorem State.gateReqBit_regs (s : State) (b : Nat) : (s.gateReqBit b).regs = s.regs := by
  unfold State.gateReqBit
  repeat' split
  all_goals rfl

theorem State.sensorServe_regs (s : State) (id : Nat) : (s.sensorServe id).1.regs = s.regs := by
  unfold State.sensorServe
  split
  · rfl
  · split <;> rfl

/-- A lost agent's record and its report are the spillway's. -/
theorem State.dieLost_regs (s : State) (d : Nat) : (s.dieLost d).regs = s.regs := State.whenever_regs fun _ => rfl

/-! ### The commands of `leavesRegisters` -/

theorem execHeartbeat_regs {s t : State} {a0 a1} (h : execHeartbeat a0 a1 s = .next t) : t.regs = s.regs := by
  unfold execHeartbeat at h
  exact enter_regs h fun _ => State.whenever_regs fun _ => rfl

theorem execHeartbeatLoss_regs {s t : State} {a0 a} (h : execHeartbeatLoss a0 a s = .next t) : t.regs = s.regs := by
  unfold execHeartbeatLoss at h
  refine enter_regs h fun x => ?_
  cases a with
  | die d => exact x.dieLost_regs d
  | basin _ | terrace _ => exact State.whenever_regs fun _ => rfl

theorem execDieHeartbeatLoss_regs {s t : State} {a0 d} (h : execDieHeartbeatLoss a0 d s = .next t) : t.regs = s.regs := by
  unfold execDieHeartbeatLoss at h
  exact enter_regs h fun _ => State.dieLost_regs _ d

theorem execCxlLinkDown_regs {s t : State} {a0} (h : execCxlLinkDown a0 s = .next t) : t.regs = s.regs := by
  unfold execCxlLinkDown at h
  exact enter_regs h fun _ => State.whenever_regs fun _ => rfl

theorem execCxlLinkUp_regs {s t : State} {a0} (h : execCxlLinkUp a0 s = .next t) : t.regs = s.regs := by
  unfold execCxlLinkUp at h
  exact enter_regs h fun _ => rfl

theorem execRillFetchStart_regs {s t : State} {a0 b} (h : execRillFetchStart a0 b s = .next t) : t.regs = s.regs := by
  unfold execRillFetchStart at h
  exact enter_regs h fun _ => State.rillFetchStart_regs _ b

theorem execFence_regs {s t : State} {a0 a1} (h : execFence a0 a1 s = .next t) : t.regs = s.regs := by
  unfold execFence at h
  exact enter_regs h fun _ => State.forSome_regs fun _ _ => rfl

theorem execDelayRespRx_regs {s t : State} {a0 a1} (h : execDelayRespRx a0 a1 s = .next t) : t.regs = s.regs := by
  unfold execDelayRespRx at h
  exact enter_regs h fun _ => State.forSome_regs fun _ r => State.each_regs fun x i => x.takeDelayResp_regs i r.frame

theorem execEthMarkerRefill_regs {s t : State} {a0} (h : execEthMarkerRefill a0 s = .next t) : t.regs = s.regs := by
  unfold execEthMarkerRefill at h
  exact enter_regs h fun _ => State.periodic_regs fun _ => State.each_regs fun _ _ => State.each_regs fun _ _ => rfl

theorem execAqdTrainTimeout_regs {s t : State} {a0 a1 a2} (h : execAqdTrainTimeout a0 a1 a2 s = .next t) : t.regs = s.regs := by
  unfold execAqdTrainTimeout at h
  exact enter_regs h fun _ => State.whenever_regs fun _ => State.each_regs fun _ _ => rfl

theorem execSpillwayHeartbeat_regs {s t : State} {a0} (h : execSpillwayHeartbeat a0 s = .next t) : t.regs = s.regs := by
  unfold execSpillwayHeartbeat at h
  exact enter_regs h fun _ => State.whenever_regs fun _ => rfl

theorem execBasinStepChange_regs {s t : State} {a0 a1} (h : execBasinStepChange a0 a1 s = .next t) : t.regs = s.regs := by
  unfold execBasinStepChange at h
  exact enter_regs h fun _ => State.forSome_regs fun _ _ => rfl

theorem execStretchReport_regs {s t : State} {a0 a1} (h : execStretchReport a0 a1 s = .next t) : t.regs = s.regs := by
  unfold execStretchReport at h
  exact enter_regs h fun _ => State.whenever_regs fun _ => rfl

theorem execRampDownEnd_regs {s t : State} {a0 a1} (h : execRampDownEnd a0 a1 s = .next t) : t.regs = s.regs := by
  unfold execRampDownEnd at h
  exact enter_regs h fun _ => rfl

theorem execBasinGateReq_regs {s t : State} {a0 a1} (h : execBasinGateReq a0 a1 s = .next t) : t.regs = s.regs := by
  unfold execBasinGateReq at h
  exact enter_regs h fun _ => State.each_regs State.gateReqBit_regs

theorem execPkgRstRelease_regs {s t : State} {a0} (h : execPkgRstRelease a0 s = .next t) : t.regs = s.regs := by
  unfold execPkgRstRelease at h
  exact enter_regs h fun _ => State.whenever_regs fun _ => rfl

theorem execPerstRelease_regs {s t : State} {a0} (h : execPerstRelease a0 s = .next t) : t.regs = s.regs := by
  unfold execPerstRelease at h
  exact enter_regs h fun _ => rfl

theorem execPcieLinkDown_regs {s t : State} {a0} (h : execPcieLinkDown a0 s = .next t) : t.regs = s.regs := by
  unfold execPcieLinkDown at h
  exact enterIf_regs h fun _ => State.whenever_regs fun _ => rfl

theorem execPldmGetSensor_regs {s t : State} {a0 a1 id} (h : execPldmGetSensor a0 a1 id s = .next t) : t.regs = s.regs := by
  unfold execPldmGetSensor at h
  exact enterIf_regs h fun _ => State.answer_regs fun x => x.sensorServe_regs id

theorem execSetEventReceiver_regs {s t : State} {a0 a1 a2 a3} (h : execSetEventReceiver a0 a1 a2 a3 s = .next t) : t.regs = s.regs := by
  unfold execSetEventReceiver at h
  exact enterIf_regs h fun _ => State.answer_regs fun _ => rfl

theorem execVendorSiltStatus_regs {s t : State} {a0 a1} (h : execVendorSiltStatus a0 a1 s = .next t) : t.regs = s.regs := by
  unfold execVendorSiltStatus at h
  exact enterIf_regs h fun _ => State.answer_regs fun _ => rfl

theorem execVendorSiltEntry_regs {s t : State} {a0 a1 a2} (h : execVendorSiltEntry a0 a1 a2 s = .next t) : t.regs = s.regs := by
  unfold execVendorSiltEntry at h
  exact enterIf_regs h fun _ => State.answer_regs fun _ => rfl

theorem execVendorSiltSnap_regs {s t : State} {a0 a1 a2} (h : execVendorSiltSnap a0 a1 a2 s = .next t) : t.regs = s.regs := by
  unfold execVendorSiltSnap at h
  exact enterIf_regs h fun _ => State.answer_regs fun _ => rfl

theorem execVendorClassCount_regs {s t : State} {a0 a1 a2} (h : execVendorClassCount a0 a1 a2 s = .next t) : t.regs = s.regs := by
  unfold execVendorClassCount at h
  exact enterIf_regs h fun _ => State.answer_regs fun _ => rfl

theorem execVendorHealth_regs {s t : State} {a0 a1} (h : execVendorHealth a0 a1 s = .next t) : t.regs = s.regs := by
  unfold execVendorHealth at h
  exact enterIf_regs h fun _ => State.answer_regs fun _ => rfl

theorem execJtagInstruction_regs {s t : State} {a0 a1} (h : execJtagInstruction a0 a1 s = .next t) : t.regs = s.regs := by
  unfold execJtagInstruction at h
  exact enterIf_regs h fun _ => by dsimp only; split <;> rfl

/-- Every row of `leavesRegisters` leaves the register table as it is. -/
theorem exec_regs {c : Instr} {s t : State} (hc : leavesRegisters c = true) (h : Does c s t) : t.regs = s.regs := by
  cases c with
  | heartbeat => exact execHeartbeat_regs h
  | heartbeatLoss => exact execHeartbeatLoss_regs h
  | dieHeartbeatLoss => exact execDieHeartbeatLoss_regs h
  | cxlLinkDown => exact execCxlLinkDown_regs h
  | cxlLinkUp => exact execCxlLinkUp_regs h
  | rillFetchStart => exact execRillFetchStart_regs h
  | fence => exact execFence_regs h
  | delayRespRx => exact execDelayRespRx_regs h
  | ethMarkerRefill => exact execEthMarkerRefill_regs h
  | aqdTrainTimeout => exact execAqdTrainTimeout_regs h
  | spillwayHeartbeat => exact execSpillwayHeartbeat_regs h
  | basinStepChange => exact execBasinStepChange_regs h
  | stretchReport => exact execStretchReport_regs h
  | rampDownEnd => exact execRampDownEnd_regs h
  | basinGateReq => exact execBasinGateReq_regs h
  | pkgRstRelease => exact execPkgRstRelease_regs h
  | perstRelease => exact execPerstRelease_regs h
  | pcieLinkDown => exact execPcieLinkDown_regs h
  | pldmGetSensor => exact execPldmGetSensor_regs h
  | setEventReceiver => exact execSetEventReceiver_regs h
  | vendorSiltStatus => exact execVendorSiltStatus_regs h
  | vendorSiltEntry => exact execVendorSiltEntry_regs h
  | vendorSiltSnap => exact execVendorSiltSnap_regs h
  | vendorClassCount => exact execVendorClassCount_regs h
  | vendorHealth => exact execVendorHealth_regs h
  | jtagInstruction => exact execJtagInstruction_regs h
  | _ => cases hc

/-- Settles O11: the rows of `leavesMemory` leave every memory, those of `leavesRegisters` the register table. -/
theorem recordsLeaveMemory : Obligations.RecordsLeaveMemory := by
  intro c s t h
  refine ⟨fun hc => (exec_still hc h).sameMemory, fun hc n i => ?_⟩
  unfold sameReg State.reg
  rw [exec_regs hc h]

end Sys2Proof.Machine
end

section
/-! The register window (R7 to R10): what a read returns and clears, what a write stores. -/
namespace Sys2Proof.Machine

/-! ### Tables and accesses -/

theorem Tbl.find_put_same {β : Type} (t : Tbl β) (k : Nat) (v : β) : Tbl.find (Tbl.put t k v) k = some v := by
  induction t with
  | nil => simp [Tbl.put, Tbl.find]
  | cons e t ih =>
    obtain ⟨j, x⟩ := e
    by_cases hj : k = j
    · simp [Tbl.put, Tbl.find, hj]
    · by_cases hl : k < j
      · simp [Tbl.put, Tbl.find, hj, hl]
      · simp [Tbl.put, Tbl.find, hj, hl, ih]

/-- A key that a table gives up is found no more. -/
theorem Tbl.find_filter_ne {β : Type} (t : Tbl β) (k : Nat) : Tbl.find (t.filter fun e => e.1 != k) k = none := by
  induction t with
  | nil => rfl
  | cons e t ih =>
    obtain ⟨j, x⟩ := e
    by_cases hj : j = k
    · simpa [List.filter_cons, hj] using ih
    · simpa [List.filter_cons, hj, Tbl.find, Ne.symm hj] using ih

/-- What an access that the device takes is: aligned and of 4 or 8 bytes, or narrower within one word, and in BAR0 (R8, R36). -/
theorem okBar_cases {a len : Nat} (h : okBar a len = true) :
    ((len = 4 ∨ len = 8) ∧ a % len = 0 ∨ 1 ≤ len ∧ len < 4 ∧ a % 4 + len ≤ 4) ∧ a + len ≤ 2 ^ 26 := by
  simpa [okBar, and_assoc] using h

theorem okBar_four {a : Nat} (h : okBar a 4 = true) : a % 4 = 0 := by
  have := (okBar_cases h).1
  omega

theorem exec_lowWordRead {dt a len : Nat} (s : State) (h : (Instr.lowWordRead dt a len).wellFormed = true) :
    exec (.lowWordRead dt a len) s = .next ((s.advance dt).barRead a len) :=
  enter_of_wellFormed (dt := dt) (k := fun x => x.barRead a len) h

theorem exec_highWordRead {dt a len : Nat} (s : State) (h : (Instr.highWordRead dt a len).wellFormed = true) :
    exec (.highWordRead dt a len) s = .next ((s.advance dt).barRead a len) :=
  enter_of_wellFormed (dt := dt) (k := fun x => x.barRead a len) h

theorem exec_rcFieldRead {dt a len : Nat} (s : State) (h : (Instr.rcFieldRead dt a len).wellFormed = true) :
    exec (.rcFieldRead dt a len) s = .next ((s.advance dt).barRead a len) :=
  enter_of_wellFormed (dt := dt) (k := fun x => x.barRead a len) h

theorem exec_registerWrite {dt a len v : Nat} (s : State) (h : (Instr.registerWrite dt a len v).wellFormed = true) :
    exec (.registerWrite dt a len v) s = .next ((s.advance dt).barWrite a len v) :=
  enter_of_wellFormed (dt := dt) (k := fun x => x.barWrite a len v) h

/-! ### Masks and fields -/

theorem mergeBits_zero (old v : Nat) : mergeBits old v 0 = old := by simp [mergeBits]

theorem slice_zero_self (x w : Nat) : slice x 0 w = x % 2 ^ w := by simp [slice]

theorem slice_zero_of_lt {x w : Nat} (h : x < 2 ^ w) : slice x 0 w = x := by rw [slice_zero_self, Nat.mod_eq_of_lt h]

theorem regMask_lt (n : RegName) (i : Nat) : regMask n i < 2 ^ 64 := by
  obtain ⟨-, -, -, -, h⟩ := n.bits_facts
  unfold regMask
  split
  · decide
  · exact h

/-- A register that R273 wires to zero has no bits. -/
theorem regMask_of_noSched {n : RegName} {i : Nat} (h : noSched n i = true) : regMask n i = 0 := by
  rw [regMask, h, Bool.true_or, if_pos rfl]

/-- No register of Table 12-10 has a field that a read clears. -/
theorem RegName.rc_of_noSched {n : RegName} {i : Nat} (h : noSched n i = true) : n.bits (· == .rc) = 0 := by
  unfold noSched at h
  split at h
  case h_17 => cases h -- a register of another table
  all_goals rfl

/-- The fields that a read clears are bits that the register has, also where others are wired to zero. -/
theorem RegName.rc_and_regMask (n : RegName) (i : Nat) : n.bits (· == .rc) &&& regMask n i = n.bits (· == .rc) := by
  obtain ⟨-, -, -, h, -⟩ := n.bits_facts
  unfold regMask
  split
  next hw =>
    rcases Bool.or_eq_true_iff.1 hw with hn | hv
    · rw [RegName.rc_of_noSched hn, Nat.zero_and]
    · rw [beq_iff_eq.1 (Bool.and_eq_true_iff.1 hv).1]; decide
  next => exact h

/-- A write stores the bits that the register has. -/
theorem State.testBit_reg_setReg (s : State) (n : RegName) (i v k : Nat) :
    ((s.setReg n i v).reg n i).testBit k = (v.testBit k && (regMask n i).testBit k) := by
  rw [State.reg_setReg_same, Nat.mod_eq_of_lt (Nat.lt_of_le_of_lt Nat.and_le_right (regMask_lt n i)), Nat.testBit_and]

/-- In a state in order a register holds no bit that it does not have. -/
theorem State.testBit_reg_le {s : State} (h : s.inOrder = true) (n : RegName) (i k : Nat) :
    (s.reg n i).testBit k = ((s.reg n i).testBit k && (regMask n i).testBit k) := by
  simp only [State.inOrder, Bool.and_eq_true] at h
  rw [← Nat.testBit_and, State.reg_masked s h.1.1.1.1]

/-! ### One register changes -/

/-- From `s` to `t` nothing changes but register `i` of name `n`, of what a register access can reach. -/
structure OnlyReg (n : RegName) (i : Nat) (s t : State) : Prop where
  others : ∀ m j, ¬ (m = n ∧ j = i) → sameReg s t m j
  shadows : t.shadows = s.shadows
  readData : t.readData = s.readData
  still : Still s t

theorem OnlyReg.refl (n : RegName) (i : Nat) (s : State) : OnlyReg n i s s := ⟨fun _ _ _ => rfl, rfl, rfl, Still.rfl' s⟩

theorem OnlyReg.trans {n : RegName} {i : Nat} {a b c : State} (h : OnlyReg n i a b) (g : OnlyReg n i b c) : OnlyReg n i a c where
  others m j hm := (g.others m j hm).trans (h.others m j hm)
  shadows := g.shadows.trans h.shadows
  readData := g.readData.trans h.readData
  still := by
    obtain ⟨h1, h2, h3, h4⟩ := h.still
    obtain ⟨g1, g2, g3, g4⟩ := g.still
    exact ⟨g1.trans h1, g2.trans h2, g3.trans h3, g4.trans h4⟩

theorem OnlyReg.setReg (n : RegName) (i v : Nat) (s : State) : OnlyReg n i s (s.setReg n i v) :=
  ⟨fun _ _ h => s.reg_setReg_other v h, rfl, rfl, still_setReg (Still.rfl' s)⟩

theorem OnlyReg.advance (n : RegName) (i dt : Nat) (s : State) : OnlyReg n i s (s.advance dt) :=
  ⟨fun _ _ _ => s.reg_advance dt _ _, s.advance_shadows dt, s.advance_readData dt, State.advance_still (Still.rfl' s) dt⟩

/-! ### What a read clears (R9, R10) -/

/-- What the events of the present edge have added to a register, zero where there were none. -/
def State.added (s : State) (n : RegName) (i : Nat) : Nat := (s.freshOf n i).elim 0 (·.2)

theorem State.shown_of_noRc (s : State) {n : RegName} (i v : Nat) (h : n.bits (· == .rc) = 0) : s.shown n i v = v := by
  unfold State.shown
  split
  · rw [h, mergeBits_zero]
  · rfl

theorem State.clearRc_of_noRc (s : State) {n : RegName} (i : Nat) (h : n.bits (· == .rc) = 0) : s.clearRc n i = s := by
  unfold State.clearRc
  rw [if_pos h]

theorem State.readReg_of_ne (s : State) {n : RegName} (i : Nat) (h : n ≠ .capMeta) :
    s.readReg n i = (s.shown n i (s.view n i), s.clearRc n i) := if_neg h

/-- A register without fields that a read clears is read as it is. -/
theorem State.readReg_of_noRc (s : State) {n : RegName} (i : Nat) (hn : n ≠ .capMeta) (h : n.bits (· == .rc) = 0) :
    s.readReg n i = (s.view n i, s) := by
  rw [State.readReg_of_ne s i hn, State.shown_of_noRc s i _ h, State.clearRc_of_noRc s i h]

theorem State.clearRc_onlyReg (s : State) (n : RegName) (i : Nat) : OnlyReg n i s (s.clearRc n i) := by
  unfold State.clearRc
  dsimp only
  split
  · exact .refl n i s
  · split
    next before added _ =>
      exact OnlyReg.trans (b := { s with fresh := Tbl.put s.fresh (regKey n i) (mergeBits before 0 (n.bits (· == .rc)), added) })
        ⟨fun _ _ _ => rfl, rfl, rfl, Still.rfl' s⟩ (.setReg n i _ _)
    next => exact .setReg n i _ s

/-- Where a register has fields that a read clears, they take what the present edge has added. -/
theorem State.reg_clearRc (s : State) {n : RegName} (i : Nat) (h : n.bits (· == .rc) ≠ 0) :
    (s.clearRc n i).reg n i = (s.setReg n i (mergeBits (s.reg n i) (s.added n i) (n.bits (· == .rc)))).reg n i := by
  unfold State.clearRc State.added
  rw [if_neg h]
  cases s.freshOf n i <;> rfl

theorem State.testBit_reg_clearRc {s : State} (hs : s.inOrder = true) (n : RegName) (i k : Nat) :
    ((s.clearRc n i).reg n i).testBit k =
      if (n.bits (· == .rc)).testBit k then (s.added n i).testBit k else (s.reg n i).testBit k := by
  by_cases h : n.bits (· == .rc) = 0
  · rw [State.clearRc_of_noRc s i h, h, Nat.zero_testBit, if_neg Bool.false_ne_true]
  · have hm : (n.bits (· == .rc)).testBit k = ((n.bits (· == .rc)).testBit k && (regMask n i).testBit k) := by
      rw [← Nat.testBit_and, n.rc_and_regMask i]
    have ho := State.testBit_reg_le hs n i k
    rw [State.reg_clearRc s i h, State.testBit_reg_setReg, testBit_mergeBits]
    split
    next hk => rw [hk, Bool.true_and] at hm; rw [← hm, Bool.and_true]
    next => exact ho.symm

/-! ### Reads of a live word -/

theorem State.live_iff {s : State} {a : Nat} {x : RegWord} :
    s.live a x = true ↔ s.blockShown a = true ∧ s.windowWord a = none ∧ regAt a = some x ∧ s.gatedAt a = none := by
  simp [State.live, and_assoc]

theorem State.readWordAt_of_live {s : State} {a : Nat} {x : RegWord} (h : s.live a x = true) : s.readWordAt a = s.readWord32 x := by
  obtain ⟨hb, hw, hr, hg⟩ := State.live_iff.1 h
  simp [State.readWordAt, hb, hw, hr, hg]

/-- A read of at most one word takes the addressed bytes of the aligned word. -/
theorem State.barRead_word (s : State) (a : Nat) {len : Nat} (h : len ≠ 8) :
    s.barRead a len =
      { (s.readWordAt (a / 4 * 4)).2 with readData := slice (s.readWordAt (a / 4 * 4)).1 (8 * (a % 4)) (8 * len) } := if_neg h

/-- An aligned read of 4 bytes of a live word. -/
theorem State.barRead_four {s : State} {a : Nat} {x : RegWord} (ha : a % 4 = 0) (h : s.live a x = true) :
    s.barRead a 4 = { (s.readWord32 x).2 with readData := (s.readWord32 x).1 % 2 ^ 32 } := by
  rw [State.barRead_word s a (by decide), show a / 4 * 4 = a by omega, State.readWordAt_of_live h, ha, Nat.mul_zero, slice_zero_self]

section Pair

variable {s : State} {n : RegName} {i : Nat} (hp : n.isPair = true) (hc : n ≠ .capMeta) (hr : n.bits (· == .rc) = 0)
include hp hc hr

/-- A read of the low word latches the high word into the shadow (R7). -/
theorem State.readWord32_low :
    s.readWord32 ⟨n, i, 0⟩ = (slice (s.view n i) 0 32,
      { s with shadows := Tbl.put s.shadows (regKey n i) (BitVec.ofNat 64 (slice (s.view n i) 32 32)) }) := by
  simp [State.readWord32, State.readReg_of_noRc s i hc hr, hp, word32]

/-- A read of the high word takes the shadow when it is full, and leaves it empty (R7). -/
theorem State.readWord32_high_full {h : Word64} (hf : Tbl.find s.shadows (regKey n i) = some h) :
    s.readWord32 ⟨n, i, 1⟩ = (h.toNat, { s with shadows := s.shadows.filter fun e => e.1 != regKey n i }) := by
  simp [State.readWord32, State.readReg_of_noRc s i hc hr, hp, hf]

/-- A read of the high word is live when the shadow is empty (R7). -/
theorem State.readWord32_high_empty (hf : Tbl.find s.shadows (regKey n i) = none) :
    s.readWord32 ⟨n, i, 1⟩ = (slice (s.view n i) 32 32, s) := by
  simp [State.readWord32, State.readReg_of_noRc s i hc hr, hp, hf, word32]

/-- One access of 8 bytes reads the whole pair (R7). -/
theorem State.barRead_pair {a : Nat} (h : s.live a ⟨n, i, 0⟩ = true) : s.barRead a 8 = { s with readData := s.view n i } := by
  obtain ⟨hb, hw, ha, hg⟩ := State.live_iff.1 h
  simp [State.barRead, State.readPair, ha, hp, hb, hw, hg, State.readReg_of_noRc s i hc hr]

end Pair

/-- Settles O7: an aligned read of a live pair, for the low word, for the high word with its shadow full and empty, and for both. -/
theorem pairReadsUseTheShadow : Obligations.PairReadsUseTheShadow := by
  rintro dt a i n s x rfl hp hr hc
  have hm : Still s (s.advance dt) := State.advance_still (Still.rfl' s) dt
  refine ⟨fun hw hl => ⟨_, exec_lowWordRead s hw, ?_⟩, fun hw hl => ⟨_, exec_highWordRead s hw, ?_⟩, fun hw hl => ?_⟩
  · rw [State.barRead_four (okBar_four hw) hl, State.readWord32_low hp hc hr]
    refine ⟨?_, Tbl.find_put_same .., s.advance_regs dt, hm.sameMemory⟩
    rw [slice_zero_self, Nat.mod_mod]
  · rw [State.barRead_four (okBar_four hw) hl, ← s.advance_shadows dt]
    cases hf : Tbl.find (s.advance dt).shadows (regKey n i) with
    | none =>
      rw [State.readWord32_high_empty hp hc hr hf]
      exact ⟨fun _ h => (Option.some_ne_none _ h.symm).elim, fun _ => Nat.mod_eq_of_lt (slice_lt ..), hf, s.advance_regs dt,
        hm.sameMemory⟩
    | some h =>
      rw [State.readWord32_high_full hp hc hr hf]
      exact ⟨fun _ e => by rw [Option.some.inj e], fun e => (Option.some_ne_none _ e).elim, Tbl.find_filter_ne .., s.advance_regs dt,
        hm.sameMemory⟩
  · rw [exec_lowWordRead s hw, State.barRead_pair hp hc hr hl]

/-- A 32-bit register is read whole, and its RC fields are cleared. -/
theorem State.readWord32_single (s : State) {n : RegName} (i : Nat) (hn : n.width = 32) (hc : n ≠ .capMeta) :
    s.readWord32 ⟨n, i, 0⟩ = (slice (s.shown n i (s.view n i)) 0 32, s.clearRc n i) := by
  simp [State.readWord32, State.readReg_of_ne s i hc, RegName.isPair, hn, word32]

theorem State.inOrder_advance {s : State} (dt : Nat) (h : s.inOrder = true) : (s.advance dt).inOrder = true :=
  (State.advance_keeps (Keeps.rfl' s) dt).2 h

/-- Settles O8: the read returns the addressed bytes, and changes the RC fields of its register only. -/
theorem readsClearRcFields : Obligations.ReadsClearRcFields := by
  rintro dt a len i n s x rfl hs hn hc hlen hw hl
  have hx : OnlyReg n i s ((s.advance dt).clearRc n i) := (OnlyReg.advance n i dt s).trans ((s.advance dt).clearRc_onlyReg n i)
  have hbit := State.testBit_reg_clearRc (State.inOrder_advance dt hs) n i
  rw [exec_rcFieldRead s hw, State.barRead_word _ a (by omega), State.readWordAt_of_live hl, State.readWord32_single _ i hn hc]
  refine ⟨_, rfl, rfl, fun k hk => ?_, fun hf => ?_, fun k hk => ?_, hx.others, hx.shadows, hx.still.sameMemory⟩
  · rw [bitAt_eq] at hk
    rw [bitAt_eq, bitAt_eq]
    exact (hbit k).trans (if_pos hk)
  · unfold State.shown
    rw [hf]
  · rw [bitAt_eq] at hk
    rw [bitAt_eq, bitAt_eq, ← s.reg_advance dt n i]
    exact (hbit k).trans (if_neg (by rw [hk]; decide))

/-! ### Writes -/

/-- A register of Table 12-10 of slice 0 discards a write (R273). -/
theorem State.regAct_of_noSched (s : State) {n : RegName} {i : Nat} (v mask : Nat) (h : noSched n i = true) :
    s.regAct n i v mask = s := if_pos h

/-- Without a condition of its chapter a register takes the write by its access codes. -/
theorem State.regAct_of_unconditioned (s : State) {n : RegName} {i : Nat} (v mask : Nat) (hn : n.unconditioned = true)
    (h : noSched n i = false) : s.regAct n i v mask = s.setReg n i (storeBits n (s.reg n i) v mask) := by
  unfold State.regAct
  rw [if_neg (by rw [h]; decide)]
  dsimp only
  split
  case h_65 => rfl -- the last arm; every arm before it names a register that has a condition
  all_goals cases hn

theorem State.keepFresh_onlyReg (s : State) (n : RegName) (i : Nat) : OnlyReg n i s (s.keepFresh n i) := by
  unfold State.keepFresh
  split
  · exact .setReg n i _ s
  · exact .refl n i s

/-- W1C bits that the present edge has set end set (R10). -/
theorem State.testBit_reg_keepFresh (s : State) (n : RegName) (i k : Nat) (hs : (s.reg n i) &&& regMask n i = s.reg n i) :
    ((s.keepFresh n i).reg n i).testBit k =
      (((s.reg n i).testBit k || ((s.added n i).testBit k && (n.bits (· == .w1c)).testBit k)) && (regMask n i).testBit k) := by
  have hk : (s.reg n i).testBit k = ((s.reg n i).testBit k && (regMask n i).testBit k) := by rw [← Nat.testBit_and, hs]
  unfold State.keepFresh State.added
  cases s.freshOf n i with
  | none => simpa using hk
  | some f => simp only [State.testBit_reg_setReg, Nat.testBit_or, Nat.testBit_and, Option.elim_some]

theorem State.regWrite_onlyReg (s : State) {n : RegName} (i v mask : Nat) (hn : n.unconditioned = true) :
    OnlyReg n i s (s.regWrite n i v mask) := by
  refine OnlyReg.trans ?_ (State.keepFresh_onlyReg _ n i)
  cases h : noSched n i with
  | true => rw [State.regAct_of_noSched s v mask h]; exact .refl n i s
  | false => rw [State.regAct_of_unconditioned s v mask hn h]; exact .setReg n i _ s

/-- What a write without a condition leaves in each bit that its register has. -/
theorem State.testBit_reg_regWrite (s : State) {n : RegName} {i k : Nat} (v mask : Nat) (hn : n.unconditioned = true)
    (hk : (regMask n i).testBit k = true) :
    ((s.regWrite n i v mask).reg n i).testBit k =
      ((storeBits n (s.reg n i) v mask).testBit k || (s.added n i).testBit k && (n.bits (· == .w1c)).testBit k) := by
  have h : noSched n i = false := by
    cases h : noSched n i with
    | false => rfl
    | true => rw [regMask_of_noSched h, Nat.zero_testBit] at hk; cases hk
  have hm (u : Nat) : (s.setReg n i u).reg n i &&& regMask n i = (s.setReg n i u).reg n i :=
    Nat.eq_of_testBit_eq fun j => by simp [State.testBit_reg_setReg]
  rw [State.regWrite, State.regAct_of_unconditioned s v mask hn h, State.testBit_reg_keepFresh _ n i k (hm _),
    State.testBit_reg_setReg, hk, Bool.and_true, Bool.and_true]
  rfl

/-- A register that is wired to zero reads zero whatever is written (R242, R273). -/
theorem State.reg_of_wired {s : State} {n : RegName} {i : Nat} (hs : s.inOrder = true) (h : regMask n i = 0) : s.reg n i = 0 :=
  Nat.eq_of_testBit_eq fun k => by rw [State.testBit_reg_le hs n i k, h, Nat.zero_testBit, Bool.and_false]

/-- A write of all bytes of a register outside the gated basins goes to its register whole. -/
theorem State.barWrite_whole {s : State} {a len i : Nat} {n : RegName} (v : Nat) (ha : regAt a = some ⟨n, i, 0⟩)
    (hg : s.gatedAt a = none) (hl : len = 4 ∧ n.width = 32 ∨ len = 8 ∧ n.isPair = true) :
    ∃ w, (∀ k, k < 8 * len → w.testBit k = v.testBit k) ∧ s.barWrite a len v = s.regWrite n i w (2 ^ (8 * len) - 1) := by
  rcases hl with ⟨rfl, -⟩ | ⟨rfl, hp⟩
  · refine ⟨v % 2 ^ 32, fun k hk => ?_, by simp [State.barWrite, State.writeWordAt, State.writeAt, ha, hg]⟩
    rw [Nat.testBit_mod_two_pow, decide_eq_true hk, Bool.true_and]
  · exact ⟨v, fun _ _ => rfl, by simp [State.barWrite, State.writeAt, ha, hp, hg]⟩

/-- No bit of a register is both written and cleared by a write. -/
theorem RegName.w1c_of_rw {n : RegName} {k : Nat} (h : (n.bits (· == .rw)).testBit k = true) :
    (n.bits (· == .w1c)).testBit k = false := by
  obtain ⟨hd, -⟩ := n.bits_facts
  have hk := congrArg (Nat.testBit · k) hd
  simpa [h] using hk

/-- Settles O9: bit by bit what the access codes of Table 0-4 make of a write that its register takes whole. -/
theorem writesActByAccessCode : Obligations.WritesActByAccessCode := by
  rintro dt a len v i n s x rfl hs hn hw ha hg hl
  obtain ⟨w, hwv, hb⟩ := State.barWrite_whole v ha (Option.isNone_iff_eq_none.1 hg) hl
  have ht := (exec_registerWrite s hw).trans (congrArg _ hb)
  have hx : OnlyReg n i s ((s.advance dt).regWrite n i w (2 ^ (8 * len) - 1)) :=
    (OnlyReg.advance n i dt s).trans ((s.advance dt).regWrite_onlyReg i w _ hn)
  refine ⟨_, ht, fun k hk hm => ?_, fun hm => State.reg_of_wired ((exec_keeps ht).2 hs) hm, hx.others, hx.shadows, hx.readData,
    hx.still.sameMemory⟩
  have hbit := State.testBit_reg_regWrite (s.advance dt) w (2 ^ (8 * len) - 1) hn (by rwa [bitAt_eq] at hm)
  rw [testBit_storeBits, Nat.testBit_two_pow_sub_one, decide_eq_true hk, hwv k hk, s.reg_advance] at hbit
  simp only [bitAt_eq, hbit]
  refine ⟨fun hr => ?_, fun h1 => ?_, fun hr h1 => ?_⟩
  · simp [hr, RegName.w1c_of_rw hr]
  · have hr : (n.bits (· == .rw)).testBit k = false := by
      cases hr : (n.bits (· == .rw)).testBit k with
      | false => rfl
      | true => rw [RegName.w1c_of_rw hr] at h1; cases h1
    simp [hr, h1, State.added]
  · simp [hr, h1]

/-! ### Accesses that no register takes -/

/-- A free number fills what the syndrome of a report does not fix above its low bits. -/
theorem State.reportLow_eq (s : State) (unit cls w low : Nat) :
    s.reportLow unit cls w low =
      ({ s with freeCtr := s.freeCtr + 1 } : State).report unit cls (Config.freeNat s.freeCtr % 2 ^ (64 - w) * 2 ^ w + low % 2 ^ w) := rfl

/-- Where there is no register and no window a read finds zero. -/
theorem State.readWordAt_unmapped {s : State} {a : Nat} (hr : regAt a = none) (hw : s.windowWord a = none) :
    s.readWordAt a = (0, s) := by
  simp [State.readWordAt, hr, hw]

/-- Settles O10: the branches of a write that is too narrow, and of accesses that find nothing. -/
theorem narrowAndUnmappedAccesses : Obligations.NarrowAndUnmappedAccesses := by
  rintro dt a len v s x rfl
  refine ⟨fun hlen hw => ?_, fun hr hn hg => ⟨fun hw => ?_, fun hw => ?_⟩⟩
  · have ha : a < 2 ^ 26 := by
      obtain ⟨hc, hb⟩ := okBar_cases hw
      omega
    refine ⟨Config.freeNat (s.advance dt).freeCtr % 2 ^ 38, ?_⟩
    rw [exec_registerWrite s hw, State.barWrite, if_pos hlen, State.reportLow_eq, Nat.mod_eq_of_lt ha]
  · rw [exec_registerWrite s hw]
    simp [State.barWrite, State.writeWordAt, hr, hn, Option.isNone_iff_eq_none.1 hg]
  · rw [exec_lowWordRead s hw, State.barRead_word _ a (by decide), Nat.div_mul_cancel (Nat.dvd_of_mod_eq_zero (okBar_four hw)),
      State.readWordAt_unmapped hr hn]
    simp [slice]

end Sys2Proof.Machine
end

section
/-! The six levels (chapter 1): heartbeats, their loss, fences that take effect and the gating of fenced basins. -/
namespace Sys2Proof.Machine

/-! ### A command with one condition -/

theorem enter_whenever_of {c : Instr} {dt : Nat} {s : State} {p : State → Bool} {k : State → State} (h : Ok c)
    (hp : p (s.advance dt) = true) : enter c dt s (fun x => x.whenever (p x) k) = .next (k (s.advance dt)) := by
  rw [enter_of_wellFormed h, State.whenever_of hp]

theorem enter_whenever_not {c : Instr} {dt : Nat} {s : State} {p : State → Bool} {k : State → State} (h : Ok c)
    (hp : p (s.advance dt) = false) : enter c dt s (fun x => x.whenever (p x) k) = .next (s.advance dt) := by
  rw [enter_of_wellFormed h, State.whenever_not hp]

/-- Leaving every memory as it is composes. -/
theorem Still.trans {s t u : State} (h : Still s t) (h' : Still t u) : Still s u := by
  obtain ⟨hd, hc, hp, hh⟩ := h
  obtain ⟨hd', hc', hp', hh'⟩ := h'
  exact ⟨hd'.trans hd, hc'.trans hc, hp'.trans hp, hh'.trans hh⟩

/-! ### Heartbeats and silence (R29) -/

/-- An agent that has just given its heartbeat is not silent. -/
theorem State.beat_not_silent (s : State) (k : Nat) : (s.beat k).spw.silent.contains k = false := by
  simp [State.beat]

/-- After a heartbeat a loss is due once 4,096 counts have passed, and no sooner. -/
theorem State.beatLost_advance_beat (s : State) (k dt : Nat) :
    ((s.beat k).advance dt).beatLost k = decide (s.now + 4096 ≤ ((s.beat k).advance dt).now) := by
  have hb : Tbl.get 0 (s.beat k).spw.beats k = s.now := Tbl.get_put_same 0 s.spw.beats k s.now
  rw [State.beatLost, State.advance_spw, s.beat_not_silent, hb, Bool.not_false, Bool.and_true]

theorem State.noteSilent_silent (s : State) (k : Nat) : (s.noteSilent k).spw.silent.contains k = true := by
  simp [State.noteSilent]

@[simp] theorem State.noteSilent_now (s : State) (k : Nat) : (s.noteSilent k).now = s.now := rfl

@[simp] theorem State.noteSilent_reportQ (s : State) (k : Nat) : (s.noteSilent k).spw.reportQ = s.spw.reportQ := rfl

@[simp] theorem State.reportLow_silent (s : State) (unit cls w low : Nat) :
    (s.reportLow unit cls w low).spw.silent = s.spw.silent := rfl

/-- A report joins the end of the queue with the stamp of now. -/
theorem State.reportLow_reportQ (s : State) (unit cls w low : Nat) :
    ∃ d, (s.reportLow unit cls w low).spw.reportQ = s.spw.reportQ ++ [⟨unit, cls, s.now, d⟩] := ⟨_, rfl⟩

/-! ### The commands -/

/-- An agent that is on gives its heartbeat at a multiple of 1,024 counts. -/
theorem does_heartbeat {dt : Nat} {a : Agent} {s : State} (h : Ok (.heartbeat dt a)) (ht : (s.advance dt).tick1024 = true)
    (hon : (s.advance dt).agentOn a = true) : Does (.heartbeat dt a) s ((s.advance dt).beat (agentBeat a)) :=
  enter_whenever_of (p := fun x => x.tick1024 && x.agentOn a) h (by rw [ht, hon]; rfl)

/-- Off the multiples of 1,024 counts no heartbeat occurs. -/
theorem does_heartbeat_off_tick {dt : Nat} {a : Agent} {s : State} (h : Ok (.heartbeat dt a))
    (ht : (s.advance dt).tick1024 = false) : Does (.heartbeat dt a) s (s.advance dt) :=
  enter_whenever_not (p := fun x => x.tick1024 && x.agentOn a) h (by rw [ht, Bool.false_and])

/-- What the loss of a basin or terrace agent's heartbeat does, and under which condition. -/
theorem exec_heartbeatLoss {dt : Nat} {a : Agent} (s : State) (h : Ok (.heartbeatLoss dt a)) (ha : ∀ d, a ≠ .die d) :
    exec (.heartbeatLoss dt a) s = .next ((s.advance dt).whenever
      ((s.advance dt).agentOn a && !(s.advance dt).agentFenced a && (s.advance dt).beatLost (agentBeat a))
      fun x => (x.noteSilent (agentBeat a)).reportLow (agentUnit a) 2 0 0) := by
  have he : exec (.heartbeatLoss dt a) s = execHeartbeatLoss dt a s := rfl
  rw [he, execHeartbeatLoss, enter_of_wellFormed h]
  cases a with
  | die d => exact absurd rfl (ha d)
  | basin _ | terrace _ => rfl

theorem does_heartbeatLoss {dt : Nat} {a : Agent} {s : State} (h : Ok (.heartbeatLoss dt a)) (ha : ∀ d, a ≠ .die d)
    (hon : (s.advance dt).agentOn a = true) (hf : (s.advance dt).agentFenced a = false)
    (hl : (s.advance dt).beatLost (agentBeat a) = true) :
    Does (.heartbeatLoss dt a) s (((s.advance dt).noteSilent (agentBeat a)).reportLow (agentUnit a) 2 0 0) := by
  rw [Does, exec_heartbeatLoss s h ha, State.whenever_of (by rw [hon, hf, hl]; rfl)]

/-- While no heartbeat is missing long enough, no loss is noticed. -/
theorem does_heartbeatLoss_not_lost {dt : Nat} {a : Agent} {s : State} (h : Ok (.heartbeatLoss dt a)) (ha : ∀ d, a ≠ .die d)
    (hl : (s.advance dt).beatLost (agentBeat a) = false) : Does (.heartbeatLoss dt a) s (s.advance dt) := by
  rw [Does, exec_heartbeatLoss s h ha, State.whenever_not (by rw [hl, Bool.and_false])]

theorem State.dieLost_of_lost {s : State} {d : Nat} (hon : s.agentOn (.die d) = true) (hl : s.beatLost (72 + d) = true) :
    s.dieLost d = (s.noteSilent (72 + d)).reportLow (unitDie d) 4 0 0 :=
  State.whenever_of (by rw [hon, hl]; rfl)

/-- Both rows for a compute die run its loss. -/
theorem exec_heartbeatLoss_die {dt d : Nat} (s : State) (h : Ok (.heartbeatLoss dt (.die d))) :
    exec (.heartbeatLoss dt (.die d)) s = .next ((s.advance dt).dieLost d) :=
  enter_of_wellFormed (k := fun x => x.dieLost d) h

theorem exec_dieHeartbeatLoss {dt d : Nat} (s : State) (h : Ok (.dieHeartbeatLoss dt d)) :
    exec (.dieHeartbeatLoss dt d) s = .next ((s.advance dt).dieLost d) :=
  enter_of_wellFormed (k := fun x => x.dieLost d) h

/-! ### The obligations -/

/-- Settles O13: each row acts when its condition holds; the loss of a die's heartbeat has a report of its own. -/
theorem levelsComplete : Obligations.LevelsComplete := by
  rintro dt s x rfl
  refine ⟨fun a h => does_heartbeat h, fun a h hon hf hl => ?_, fun d h hon hl => ?_, fun i h he => ?_,
    fun b h hfb hg hi hr hgl hu => ?_⟩
  case refine_1 =>
    cases a with
    | die d => exact (exec_heartbeatLoss_die s h).trans (congrArg _ (State.dieLost_of_lost hon hl))
    | basin b => exact does_heartbeatLoss h (by simp) hon hf hl
    | terrace t => exact does_heartbeatLoss h (by simp) hon hf hl
  case refine_2 => rw [Does, exec_dieHeartbeatLoss s h, State.dieLost_of_lost hon hl]
  case refine_3 => exact enter_whenever_of (p := fun x => (x.item i).effect) h he
  case refine_4 =>
    exact enter_whenever_of (k := fun x => x.gateBasin b)
      (p := fun x => x.fencedBasin b && !x.gated b && x.idle b && !x.reserved b && !x.gateListed b && !x.underTest b) h
      (by simp [hfb, hg, hi, hr, hgl, hu])

/-- Settles O14: a heartbeat stamps the count, so that its loss is due exactly from 4,096 counts later on. -/
theorem heartbeatsAreCounted : Obligations.HeartbeatsAreCounted := by
  rintro dt a s x rfl h ha
  refine ⟨fun hn => does_heartbeat_off_tick h (by simpa [State.tick1024] using hn), fun hn hon => ?_⟩
  have ht := does_heartbeat h (by simpa [State.tick1024] using hn) hon
  have hst : Still s _ := exec_still rfl ht
  have hrt := exec_regs rfl ht
  refine ⟨_, ht, State.beat_not_silent _ _, hrt, hst.sameMemory, ?_⟩
  rintro e y rfl hony hfy
  have hl := (s.advance dt).beatLost_advance_beat (agentBeat a) e
  refine ⟨fun hlt => does_heartbeatLoss_not_lost h ha (hl.trans (decide_eq_false hlt.not_ge)), fun hle => ?_⟩
  have hu := does_heartbeatLoss h ha hony hfy (hl.trans (decide_eq_true hle))
  obtain ⟨d, hd⟩ := State.reportLow_reportQ (State.noteSilent _ (agentBeat a)) (agentUnit a) 2 0 0
  refine ⟨_, d, hu, ?_, ?_, (exec_regs rfl hu).trans hrt, (hst.trans (exec_still rfl hu)).sameMemory⟩
  · rw [State.reportLow_silent, State.noteSilent_silent]
  · rw [hd, State.noteSilent_reportQ, State.noteSilent_now, State.advance_spw]

end Sys2Proof.Machine
end

section
/-! Two's complement of a word (R57). -/
namespace Sys2Proof.Machine

/-- The word of a signed number in range: the number itself, or counted from the top when it is negative. -/
theorem unsignedOf_cast {v : Int} {w : Nat} (hlo : -(2 : Int) ^ w ≤ v) (hhi : v < (2 : Int) ^ w) :
    (unsignedOf v w : Int) = v + if v < 0 then (2 : Int) ^ w else 0 := by
  have hpos : (0 : Int) < 2 ^ w := by positivity
  rw [unsignedOf, Int.toNat_of_nonneg (Int.emod_nonneg v hpos.ne')]
  split
  next hneg => rw [← Int.add_emod_right, Int.emod_eq_of_lt (by omega) (by omega)]
  next hneg => rw [Int.emod_eq_of_lt (by omega) hhi, Int.add_zero]

theorem unsignedOf_lt (v : Int) (w : Nat) : unsignedOf v w < 2 ^ w := by
  have hpos : (0 : Int) < 2 ^ w := by positivity
  have h := Int.emod_lt_of_pos v hpos
  rw [unsignedOf, Int.toNat_lt (Int.emod_nonneg v hpos.ne')]
  exact_mod_cast h

/-- A number that fits in a word of `w + 1` bits is read back from it. -/
theorem signedOf_unsignedOf {v : Int} {w : Nat} (hlo : -(2 : Int) ^ w ≤ v) (hhi : v < (2 : Int) ^ w) :
    signedOf (unsignedOf v (w + 1)) (w + 1) = v := by
  have hdouble : (2 : Int) ^ (w + 1) = 2 * 2 ^ w := pow_succ' 2 w
  have hword := unsignedOf_cast (v := v) (w := w + 1) (by omega) (by omega)
  have htop : unsignedOf v (w + 1) < 2 ^ w ↔ (unsignedOf v (w + 1) : Int) < 2 ^ w := by exact_mod_cast Iff.rfl
  rw [signedOf, Nat.mod_eq_of_lt (unsignedOf_lt v _), Nat.add_sub_cancel]
  split at hword
  next hneg => rw [if_neg (by rw [htop]; omega)]; omega
  next hneg => rw [if_pos (by rw [htop]; omega)]; omega

end Sys2Proof.Machine
end

section
/-! Sums in a pool word (R49, R57): as long as every partial sum is far from NAN_WORD, `pool_add` is plain addition. -/
namespace Sys2Proof.Machine

/-! ### Contributions -/

/-- What a K-group may add to a pool word: NAN_WORD, or a number that the anchor bounds (R55). -/
def IsContribution (c : Int) : Prop := c = nanWord ∨ c.natAbs < 2 ^ 104

/-- The overflow policy replaces a sum above the anchor, by the largest number below it or by NAN_WORD. -/
theorem stage3_isContribution (S sh : Int) (policy : Nat) (lost : Bool) : IsContribution (stage3 S sh policy lost).1 := by
  unfold IsContribution stage3
  dsimp only
  split
  next habove =>
    split
    next hsat => right; split <;> decide
    next hsat => exact .inl rfl
  next hbelow =>
    simp only [decide_eq_true_eq] at hbelow
    right; omega

theorem stage123_isContribution (ts : List (Int × Int)) (scale A : Int) (policy : Nat) :
    IsContribution (stage123 ts scale A policy).1 := by
  unfold stage123
  split
  next hzero => right; decide
  next g hg => exact stage3_isContribution ..

theorem kgroup_isContribution (ab : List (Nat × Nat)) (fa fb sa sb : Nat) (A : Int) (p : Nat) :
    IsContribution (kgroup ab fa fb sa sb A p).1 := by
  unfold kgroup
  dsimp only
  split
  next hspecial => exact .inl rfl
  next hfinite => exact stage123_isContribution ..

theorem isContribution_of_kgroup {c : Int} (h : ∃ ab fa fb sa sb A p, c = (kgroup ab fa fb sa sb A p).1) : IsContribution c := by
  obtain ⟨ab, fa, fb, sa, sb, A, p, rfl⟩ := h
  exact kgroup_isContribution ..

/-! ### `pool_add` -/

@[simp] theorem poolAdd_nanWord_left (c : Int) : poolAdd nanWord c = nanWord := if_pos (.inl rfl)

@[simp] theorem poolAdd_nanWord_right (p : Int) : poolAdd p nanWord = nanWord := if_pos (.inr rfl)

theorem poolAdd_finite {p c : Int} (hp : p ≠ nanWord) (hc : c ≠ nanWord) : poolAdd p c = p + c :=
  if_neg (not_or.2 ⟨hp, hc⟩)

theorem ne_nanWord_of_natAbs_lt {v : Int} (h : v.natAbs < 2 ^ 143) : v ≠ nanWord := by
  rintro rfl
  exact absurd h (by decide)

@[simp] theorem foldl_poolAdd_nanWord (cs : List Int) : cs.foldl poolAdd nanWord = nanWord := by
  induction cs with
  | nil => rfl
  | cons c cs ih => rw [List.foldl_cons, poolAdd_nanWord_left, ih]

/-- NAN_WORD absorbs what is added before it and after it (R52). -/
theorem foldl_poolAdd_append_nanWord (w : Int) (as bs : List Int) : (as ++ nanWord :: bs).foldl poolAdd w = nanWord := by
  rw [List.foldl_append, List.foldl_cons, poolAdd_nanWord_right, foldl_poolAdd_nanWord]

theorem foldl_poolAdd_of_mem {cs : List Int} (h : nanWord ∈ cs) (w : Int) : cs.foldl poolAdd w = nanWord := by
  obtain ⟨as, bs, rfl⟩ := List.append_of_mem h
  exact foldl_poolAdd_append_nanWord w as bs

/-- While the bounds of the summands add up to less than 2^143, every partial sum is exact. -/
theorem foldl_poolAdd_eq_add_sum {cs : List Int} (hc : ∀ c ∈ cs, c.natAbs < 2 ^ 104) (w : Int)
    (hw : w.natAbs + cs.length * 2 ^ 104 < 2 ^ 143) : cs.foldl poolAdd w = w + cs.sum := by
  induction cs generalizing w with
  | nil => simp
  | cons c cs ih =>
    obtain ⟨hhead, htail⟩ := List.forall_mem_cons.1 hc
    rw [List.length_cons] at hw
    have hadd : poolAdd w c = w + c :=
      poolAdd_finite (ne_nanWord_of_natAbs_lt (by omega)) (ne_nanWord_of_natAbs_lt (by omega))
    rw [List.foldl_cons, hadd, ih htail (w + c) (by omega), List.sum_cons, Int.add_assoc]

theorem natAbs_sum_le {cs : List Int} {B : Nat} (h : ∀ c ∈ cs, c.natAbs ≤ B) : cs.sum.natAbs ≤ cs.length * B := by
  induction cs with
  | nil => simp
  | cons c cs ih =>
    obtain ⟨hhead, htail⟩ := List.forall_mem_cons.1 h
    have := ih htail
    rw [List.sum_cons, List.length_cons, Nat.succ_mul]
    omega

/-! ### At most 2^31 contributions (R51) -/

section
variable {cs : List Int} (hc : ∀ c ∈ cs, IsContribution c) (hl : cs.length ≤ 2 ^ 31)
include hc

theorem natAbs_lt_of_finite (hn : nanWord ∉ cs) : ∀ c ∈ cs, c.natAbs < 2 ^ 104 :=
  fun c h => (hc c h).resolve_left fun e => hn (e ▸ h)

include hl

theorem natAbs_sum_lt (hn : nanWord ∉ cs) : cs.sum.natAbs < 2 ^ 135 := by
  have h := natAbs_sum_le (B := 2 ^ 104 - 1) fun c hm => Nat.le_pred_of_lt (natAbs_lt_of_finite hc hn c hm)
  omega

theorem foldl_poolAdd_eq_sum (hn : nanWord ∉ cs) : cs.foldl poolAdd 0 = cs.sum := by
  rw [foldl_poolAdd_eq_add_sum (natAbs_lt_of_finite hc hn) 0 (by simp only [Int.natAbs_zero]; omega), Int.zero_add]

/-- The pool word of some contributions, said without their order. -/
theorem foldl_poolAdd_eq_ite : cs.foldl poolAdd 0 = if nanWord ∈ cs then nanWord else cs.sum := by
  split
  next hmem => exact foldl_poolAdd_of_mem hmem 0
  next hmem => exact foldl_poolAdd_eq_sum hc hl hmem

theorem foldl_poolAdd_perm {ds : List Int} (hp : cs.Perm ds) : ds.foldl poolAdd 0 = cs.foldl poolAdd 0 := by
  rw [foldl_poolAdd_eq_ite hc hl,
    foldl_poolAdd_eq_ite (fun d h => hc d (hp.mem_iff.2 h)) (by rw [← hp.length_eq]; exact hl),
    hp.sum_eq, if_congr hp.mem_iff.symm rfl rfl]

end

/-- Adding the partial words of two parts gives the word of the whole (R59). -/
theorem foldl_poolAdd_append {as bs : List Int} (hc : ∀ c ∈ as ++ bs, IsContribution c) (hl : (as ++ bs).length ≤ 2 ^ 31) :
    (as ++ bs).foldl poolAdd 0 = poolAdd (as.foldl poolAdd 0) (bs.foldl poolAdd 0) := by
  obtain ⟨hca, hcb⟩ := List.forall_mem_append.1 hc
  have hla : as.length ≤ 2 ^ 31 := by rw [List.length_append] at hl; omega
  have hlb : bs.length ≤ 2 ^ 31 := by rw [List.length_append] at hl; omega
  by_cases ha : nanWord ∈ as
  · rw [foldl_poolAdd_of_mem ha, poolAdd_nanWord_left, foldl_poolAdd_of_mem (List.mem_append_left bs ha)]
  by_cases hb : nanWord ∈ bs
  · rw [foldl_poolAdd_of_mem hb, poolAdd_nanWord_right, foldl_poolAdd_of_mem (List.mem_append_right as hb)]
  have hasum := natAbs_sum_lt hca hla ha
  have hbsum := natAbs_sum_lt hcb hlb hb
  rw [foldl_poolAdd_eq_sum hc hl (by simp [ha, hb]), foldl_poolAdd_eq_sum hca hla ha, foldl_poolAdd_eq_sum hcb hlb hb,
    List.sum_append, poolAdd_finite (ne_nanWord_of_natAbs_lt (by omega)) (ne_nanWord_of_natAbs_lt (by omega))]

/-! ### Flags (R56) -/

theorem AccFlags.or_right_comm (a b c : AccFlags) : (a.or b).or c = (a.or c).or b := by
  simp only [AccFlags.or, Bool.or_right_comm]

/-! ### The obligations -/

/-- Settles O15: 2^31 summands below 2^104 stay below 2^135, so that no partial sum is NAN_WORD. -/
theorem finitePoolWordsStayBelow : Obligations.FinitePoolWordsStayBelow := by
  intro cs hk hl hn
  have hc : ∀ c ∈ cs, IsContribution c := fun c h => isContribution_of_kgroup (hk c h)
  have hsum := natAbs_sum_lt hc hl hn
  rw [foldl_poolAdd_eq_sum hc hl hn]
  exact ⟨rfl, hsum, ne_nanWord_of_natAbs_lt (by omega), signedOf_unsignedOf (w := 143) (by omega) (by omega)⟩

/-- Settles O16: the pool word of contributions is NAN_WORD or their sum, neither of which knows an order. -/
theorem accumulationIsOrderFree : Obligations.AccumulationIsOrderFree := by
  refine ⟨fun cs ds hk hl => ?_, fun fs gs hp => ?_⟩
  case refine_1 =>
    have hc : ∀ c ∈ cs, IsContribution c := fun c h => isContribution_of_kgroup (hk c h)
    exact ⟨foldl_poolAdd_perm hc hl, by rintro as bs rfl; exact foldl_poolAdd_append hc hl⟩
  case refine_2 => exact hp.foldl_eq' (fun a _ b _ c => c.or_right_comm a b) AccFlags.none

end Sys2Proof.Machine
end

section
/-! SPECIAL elements and NAN_WORD (R45, R52, R63, R65). -/
namespace Sys2Proof.Machine

/-- Only floating-point formats have encodings of NaN and infinity (Table 2-3). -/
theorem fpOf_ne_none_of_special {code x : Nat} (h : isNanEnc code x = true ∨ isInfEnc code x = true) : fpOf code ≠ none := by
  intro hnone
  unfold fpOf at hnone
  split at hnone
  case h_11 => simp_all [isNanEnc, isInfEnc]
  all_goals cases hnone

theorem valOf_isSpecial {code x : Nat} (h : isNanEnc code x = true ∨ isInfEnc code x = true) : (valOf code x).isSpecial = true := by
  obtain ⟨f, hf⟩ := Option.ne_none_iff_exists'.1 (fpOf_ne_none_of_special h)
  simp only [valOf, hf]
  split
  next hnan => rfl
  next hnan => rw [if_pos (h.resolve_left hnan)]; rfl

/-- A scale byte 0xFF or a SPECIAL element decides the whole K-group. -/
theorem kgroup_special {ab : List (Nat × Nat)} {fa fb sa sb : Nat} (A : Int) (p : Nat)
    (h : sa = 0xFF ∨ sb = 0xFF ∨ ∃ e ∈ ab, (valOf fa e.1).isSpecial = true ∨ (valOf fb e.2).isSpecial = true) :
    kgroup ab fa fb sa sb A p = (nanWord, ⟨false, false, true, false⟩) := by
  refine if_pos ?_
  simpa [or_assoc] using h

theorem mxQuantise_nanWord {ps : List Int} (h : nanWord ∈ ps) (A : Int) (ef : Nat) :
    mxQuantise ps A ef = (0xFF, ps.map fun _ => 0, false) :=
  if_pos (List.any_eq_true.2 ⟨nanWord, h, decide_eq_true rfl⟩)

theorem wordVal_nanWord (A : Int) : wordVal nanWord A = .nan := if_pos rfl

/-- Settles O17: a SPECIAL element or scale gives NAN_WORD, which absorbs every sum and has a conversion of its own. -/
theorem specialOperandsGiveNan : Obligations.SpecialOperandsGiveNan := by
  refine ⟨fun ab fa fb sa sb p A h => kgroup_special A p ?_, foldl_poolAdd_append_nanWord, fun A code sat => ?_,
    fun ps A ef h => mxQuantise_nanWord h A ef⟩
  case refine_1 =>
    refine h.imp_right (Or.imp_right ?_)
    rintro ⟨e, he, h⟩
    exact ⟨e, he, (or_assoc.2 h).imp valOf_isSpecial valOf_isSpecial⟩
  case refine_2 => rw [wordVal_nanWord, rnd]

end Sys2Proof.Machine
end

section
/-! Residues modulo 255 (R60): 256 leaves 1, so bytes may be summed and 2^144 be taken away as 1. -/
namespace Sys2Proof.Machine

theorem res255_cast (v : Int) : (res255 v : Int) = v % 255 := Int.toNat_of_nonneg (Int.emod_nonneg v (by decide))

theorem res255_lt (v : Int) : res255 v < 255 := by
  have h := res255_cast v
  omega

theorem res255_add (p c : Int) : res255 (p + c) = (res255 p + res255 c) % 255 := by
  have hp := res255_cast p
  have hc := res255_cast c
  have hsum := res255_cast (p + c)
  omega

/-- The low `n` bytes of a number, taken as digits, have its remainder modulo 255. -/
theorem sum_bytes_modEq (u n : Nat) : ((List.range n).map fun k => slice u (8 * k) 8).sum ≡ u % 2 ^ (8 * n) [MOD 255] := by
  induction n with
  | zero => simp [Nat.mod_one, Nat.ModEq]
  | succ n ih =>
    have hone : 2 ^ (8 * n) ≡ 1 [MOD 255] := by
      rw [pow_mul]
      simpa using (show 2 ^ 8 ≡ 1 [MOD 255] from rfl).pow n
    rw [List.range_succ, List.map_append, List.sum_append, List.map_singleton, List.sum_singleton, slice,
      Nat.mul_succ, pow_add, Nat.mod_mul]
    simpa only [Nat.one_mul] using ih.add (hone.symm.mul_right (u / 2 ^ (8 * n) % 2 ^ 8))

theorem sum_bytes_emod {u n : Nat} (h : u < 2 ^ (8 * n)) :
    (((List.range n).map fun k => slice u (8 * k) 8).sum : Int) % 255 = (u : Int) % 255 := by
  have hmod := sum_bytes_modEq u n
  rw [Nat.mod_eq_of_lt h] at hmod
  exact_mod_cast hmod

/-- Settles O18: the word of a negative value lies 2^144, which leaves 1, above the value. -/
theorem residuesOfPoolWords : Obligations.ResiduesOfPoolWords := by
  refine ⟨fun v hlo hhi => ⟨res255_cast v, res255_lt v, ?_⟩, fun P c hP hc => ?_⟩
  case refine_1 =>
    have hword := unsignedOf_cast (v := v) (w := 144) (by omega) (by omega)
    have hbytes := sum_bytes_emod (n := 18) (unsignedOf_lt v 144)
    rw [res255_cast, Int.sub_emod, hbytes, ← Int.sub_emod, hword]
    split <;> omega
  case refine_2 => rw [poolAdd_finite hP hc, res255_add]

end Sys2Proof.Machine
end

section
/-! The status of a tile and its place in the reply (R81, R223). -/
namespace Sys2Proof.Machine

/-! ### The first outcome that applies -/

theorem tileStatus_of_first {met pre post : List Nat} {x : Nat} (ho : tileOrder = pre ++ x :: post) (hx : x ∈ met)
    (hpre : ∀ y ∈ pre, y ∉ met) : tileStatus met = x := by
  have hfind : tileOrder.find? met.contains = some x :=
    List.find?_eq_some_iff_append.2 ⟨List.contains_iff_mem.2 hx, pre, post, ho, fun y hy => by simpa using hpre y hy⟩
  rw [tileStatus, hfind, Option.getD_some]

theorem tileStatus_of_none {met : List Nat} (h : ∀ y ∈ tileOrder, y ∉ met) : tileStatus met = stOk := by
  have hfind : tileOrder.find? met.contains = none := List.find?_eq_none.2 fun y hy => by simpa using h y hy
  rw [tileStatus, hfind, Option.getD_none]

/-! ### The reply word -/

theorem nat1_le_one (b : Bool) : nat1 b ≤ 1 := by cases b <;> decide

theorem AccFlags.toNat_lt (a : AccFlags) : a.toNat < 16 := by
  have h1 := nat1_le_one a.above
  have h2 := nat1_le_one a.inexact
  have h3 := nat1_le_one a.special
  have h4 := nat1_le_one a.convOvf
  unfold AccFlags.toNat
  omega

/-- Word 0 of the reply begins with the status and acc_flags; words 1 and 2 are the tag and the step counter (Table 10-7). -/
theorem State.replyWord_eq (s : State) (c : Cmd) (code : Nat) : ∃ rest high, rest < 2 ^ 12 ∧
    s.replyWord c code = code + 2 ^ 16 * (c.flags.toNat + 2 ^ 4 * rest) +
      2 ^ 32 * (c.tag % 2 ^ 32 + 2 ^ 32 * (c.step0 % 2 ^ 32 + 2 ^ 32 * high)) := by
  have hflags : c.flags.toNat % 16 = c.flags.toNat := Nat.mod_eq_of_lt c.flags.toNat_lt
  unfold State.replyWord
  extract_lets d acct e eng bytes sat nd
  refine ⟨nat1 c.digest.isSome + 2 * nat1 nd + 4 * nat1 sat + 8 * nat1 (decide (2 ^ 32 ≤ d)) + 16 * min 255 e,
    c.digest.getD (c.result % 2 ^ 64) + 2 ^ 64 * (c.start % 2 ^ 40) + 2 ^ 104 * min d (2 ^ 32 - 1) + 2 ^ 136 * min 65535 eng +
      2 ^ 152 * min 255 bytes, ?_, ?_⟩
  · have h1 := nat1_le_one c.digest.isSome
    have h2 := nat1_le_one nd
    have h3 := nat1_le_one sat
    have h4 := nat1_le_one (decide (2 ^ 32 ≤ d))
    omega
  · rw [hflags]
    ring

/-- Settles O21: the status is what `find?` meets first in R81's order; the reply is read back field by field. -/
theorem tileStatusInOrder : Obligations.TileStatusInOrder := by
  refine ⟨fun met pre post x => tileStatus_of_first, fun met => tileStatus_of_none, rfl, fun s c code hcode => ?_⟩
  have hflags := c.flags.toNat_lt
  obtain ⟨rest, high, hrest, hword⟩ := s.replyWord_eq c code
  rw [hword]
  unfold slice
  refine ⟨?_, ?_, ?_, ?_⟩
  all_goals omega

end Sys2Proof.Machine
end

section
/-! Jet tiles, bank loads and field remaps (R70 to R73, R77, R78, R82, R83, R85). -/
namespace Sys2Proof.Machine

/-! ### A command with one subject -/

theorem enter_forSome_of {α : Type} {c : Instr} {dt : Nat} {s : State} {o : State → Option α} {k : State → α → State} {a : α}
    (h : Ok c) (ha : o (s.advance dt) = some a) : enter c dt s (fun x => x.forSome (o x) k) = .next (k (s.advance dt) a) := by
  rw [enter_of_wellFormed h, ha, State.forSome_some]

/-! ### Checks -/

/-- The oldest unchecked entry of a basin is accepted when it may be checked and its checks pass. -/
theorem State.checkIssue_of_ok {s : State} {b op : Nat} {check : State → Cmd → Nat × Nat} {c : Cmd} {ch : Nat} (chainAddr : Nat → Nat)
    (hc : s.firstIssue b op = some c) (hm : s.mayCheck c.slice b = true) (hk : check s c = (stOk, ch)) :
    s.checkIssue b op check chainAddr = s.accept c (chainAddr c.params) ch := by
  have hready : (s.mayCheck c.slice b || s.fencedBasin b) = true := by rw [hm, Bool.true_or]
  rw [State.checkIssue, hc, State.forSome_some, State.whenever_of hready, hk]
  exact if_pos rfl

theorem exec_jetTile {dt b : Nat} (s : State) (h : Ok (.jetTile dt b)) :
    exec (.jetTile dt b) s = .next ((s.advance dt).checkIssue b 8 State.jetCheck Jd.chainAddr) :=
  enter_of_wellFormed (k := fun x => x.checkIssue b 8 State.jetCheck Jd.chainAddr) h

/-! ### Starts -/

theorem exec_jetTileStart {dt b j : Nat} {ups : List Upset} (s : State) (h : Ok (.jetTileStart dt b j ups)) :
    exec (.jetTileStart dt b j ups) s = .next (((s.advance dt).upsets ups).jetStart b j) :=
  enter_of_wellFormed (k := fun x => (x.upsets ups).jetStart b j) h

section JetStart

variable {s : State} {b j : Nat} {c : Cmd} (hc : (s.jetTiles b j).find? (·.phase != .running) = some c)
  (hs : s.mayStart c.slice b = true) (hr : s.runnelFree c = true)
include hc hs hr

/-- A tile whose bank is loaded has begun with its load: its row 0 issues. -/
theorem State.jetStart_loaded (hp : c.phase = .loaded) (hb : c.begun = true) :
    s.jetStart b j = s.jetRun c ((s.jetTiles b j).filter (·.phase == .running)) := by
  simp [State.jetStart, hc, hs, hr, hp, hb]

/-- A tile whose bank does not hold its operand begins its load, on an idle jet with a start of its own. -/
theorem State.jetStart_load (hp : c.phase = .queued) (hu : s.bankUsable (2 * b + j) c.params = false)
    (hn : (s.jetTiles b j).filter (·.phase == .running) = []) (ht : (s.takeStart (2 * b + j) 4).2 = true) :
    s.jetStart b j = (s.takeStart (2 * b + j) 4).1.jetLoad c none := by
  simp [State.jetStart, hc, hs, hr, hp, hu, hn, ht]

/-- A tile whose bank holds its operand needs no load: its row 0 issues with a start of its own. -/
theorem State.jetStart_usable (hp : c.phase = .queued) (hu : s.bankUsable (2 * b + j) c.params = true)
    (hf : Jd.forceLoad c.params = 0) (hb : c.begun = false) (ht : (s.takeStart (2 * b + j) 4).2 = true) :
    s.jetStart b j = (s.takeStart (2 * b + j) 4).1.jetRun c ((s.jetTiles b j).filter (·.phase == .running)) := by
  simp [State.jetStart, hc, hs, hr, hp, hu, hf, hb, ht]

end JetStart

/-! ### Bank loads -/

@[simp] theorem JetSt.bank_setBank (x : JetSt) (k : Nat) (v : Bank) : (x.setBank k v).bank k = v := by
  unfold JetSt.setBank JetSt.bank
  split <;> rfl

/-- A register that no rule wires to zero has the bits of its fields. -/
theorem regMask_of_unwired {n : RegName} {i : Nat} (hs : noSched n i = false) (hv : n ≠ .sliceViolMask) : regMask n i = n.mask := by
  rw [regMask, hs, beq_false_of_ne hv]
  rfl

theorem regMask_jetStatus (i : Nat) : regMask .jetStatus i = 0x1F := regMask_of_unwired rfl (by decide)

theorem bankFld_fits (k i : Nat) : (bankFld k).fits i := by
  unfold bankFld Fld.fits
  split
  · rw [show Fld.jetStatusBank0Valid.reg = .jetStatus from rfl, regMask_jetStatus]; decide
  · rw [show Fld.jetStatusBank1Valid.reg = .jetStatus from rfl, regMask_jetStatus]; decide

/-- A bit that is set reads set. -/
theorem State.on_wr_one (s : State) {f : Fld} {i : Nat} (h : f.fits i) (hw : f.width = 1) : (s.wr f i 1).on f i = true := by
  rw [State.on, State.rd_wr_same s f i 1 h, hw]
  rfl

/-- A bit that is cleared reads clear. -/
theorem State.on_wr_zero (s : State) {f : Fld} {i : Nat} (h : f.fits i) : (s.wr f i 0).on f i = false := by
  rw [State.on, State.rd_wr_same s f i 0 h, Nat.zero_mod]
  rfl

theorem bankFld_width (k : Nat) : (bankFld k).width = 1 := by
  unfold bankFld
  split <;> rfl

/-- The load of tile `c` of jet `j` ends: its bank takes what the cistern holds, and is valid. -/
def State.jetLoaded (s : State) (b j : Nat) (c : Cmd) : State :=
  let d := c.params
  let i := 2 * b + j
  let s := s.raceReads b c.id ((jetLoadNeeds d).filterMap (Need.span c.id))
  let k := s.jetBank b d
  let s := s.eccReads b (jetLoadNeeds d)
  let s := (s.setJet i ((s.jet i).setBank (Jd.bank d) k)).wr (bankFld (Jd.bank d)) i 1
  s.modCmd c.id fun e => { e with phase := .loaded }

theorem State.jetLoaded_bank (s : State) (b j : Nat) (c : Cmd) :
    ((s.jetLoaded b j c).jet (2 * b + j)).bank (Jd.bank c.params) =
      (s.raceReads b c.id ((jetLoadNeeds c.params).filterMap (Need.span c.id))).jetBank b c.params := by
  simp [State.jetLoaded]

theorem State.jetLoaded_valid (s : State) (b j : Nat) (c : Cmd) :
    (s.jetLoaded b j c).on (bankFld (Jd.bank c.params)) (2 * b + j) = true := by
  rw [State.jetLoaded, State.on_modCmd, State.on_wr_one _ (bankFld_fits ..) (bankFld_width _)]

/-- The load that jet `j` has in progress ends. -/
def State.jetLoadEnd (s : State) (b j : Nat) : State :=
  s.forSome ((s.jetTiles b j).find? (·.phase == .loading)) fun s c => s.jetLoaded b j c

theorem State.jetLoadEnd_of {s : State} {b j : Nat} {c : Cmd} (hc : (s.jetTiles b j).find? (·.phase == .loading) = some c) :
    s.jetLoadEnd b j = s.jetLoaded b j c := by
  rw [State.jetLoadEnd, hc, State.forSome_some]

theorem exec_jetBankLoadComplete {dt b j : Nat} {ups : List Upset} (s : State) (h : Ok (.jetBankLoadComplete dt b j ups)) :
    exec (.jetBankLoadComplete dt b j ups) s = .next (((s.advance dt).upsets ups).jetLoadEnd b j) :=
  enter_of_wellFormed (k := fun x => (x.upsets ups).jetLoadEnd b j) h

/-! ### Field remaps (R82, R83) -/

theorem exec_jetFieldRemap {dt b j v : Nat} (s : State) (h : Ok (.jetFieldRemap dt b j v)) :
    exec (.jetFieldRemap dt b j v) s = .next ((s.advance dt).fieldRemap b j v) :=
  enter_of_wellFormed (k := fun x => x.fieldRemap b j v) h

/-- A write with the key, a budget and an unused spare, before the first wake and with no remap in progress, is accepted. -/
theorem State.fieldRemap_of_accepted {s : State} {b j v : Nat} (hw : (s.basin b).woken = false) (hk : slice v 16 16 = 0xF05E)
    (hb : s.rd Fld.jetSpareFieldBudget (2 * b + j) ≠ 0) (hf : (s.spareFree (2 * b + j) (slice v 7 1)).isSome = true)
    (hr : s.on Fld.jetSpareRemapBusy (2 * b + j) = false) :
    s.fieldRemap b j v = (s.setReg .jetFieldRemap (2 * b + j) v).wr Fld.jetSpareRemapBusy (2 * b + j) 1 := by
  simp [State.fieldRemap, hw, hk, hb, hf, hr]

/-- Spare `n` of kind `k` (0 row, 1 column) takes the place of the requested row or column. -/
def State.useSpare (s : State) (i k n : Nat) : State :=
  if k = 0 then (s.setRegBit .jetSpare i n true).setReg .jetSpareRowMap i
    (putBits (s.reg .jetSpareRowMap i) (8 * n) 7 (s.rd Fld.jetFieldRemapIndex i))
  else (s.setRegBit .jetSpare i (4 + n) true).setReg .jetSpareColMap i
    (putBits (s.reg .jetSpareColMap i) (8 * n) 7 (s.rd Fld.jetFieldRemapIndex i))

/-- A remap ends: the budget is one less, and the next remap may be requested. -/
def State.remapEnd (s : State) (i : Nat) : State :=
  (s.wr Fld.jetSpareFieldBudget i (s.rd Fld.jetSpareFieldBudget i - 1)).wr Fld.jetSpareRemapBusy i 0

/-- The fuse of the requested remap is blown. -/
def State.fuseBlown (s : State) (i : Nat) : State :=
  let k := s.rd Fld.jetFieldRemapKind i
  (s.forSome (s.spareFree i k) fun s n => s.useSpare i k n).remapEnd i

theorem State.fuseBlown_of {s : State} {i n : Nat} (hn : s.spareFree i (s.rd Fld.jetFieldRemapKind i) = some n) :
    s.fuseBlown i = (s.useSpare i (s.rd Fld.jetFieldRemapKind i) n).remapEnd i := by
  rw [State.fuseBlown, hn, State.forSome_some]

theorem does_fieldFuseBlown {dt b j : Nat} {s : State} (h : Ok (.fieldFuseBlown dt b j))
    (hb : (s.advance dt).on Fld.jetSpareRemapBusy (2 * b + j) = true) :
    Does (.fieldFuseBlown dt b j) s ((s.advance dt).fuseBlown (2 * b + j)) :=
  enter_whenever_of (p := fun x => x.on Fld.jetSpareRemapBusy (2 * b + j)) (k := fun x => x.fuseBlown (2 * b + j)) h hb

theorem regMask_jetSpare (i : Nat) : regMask .jetSpare i = 0x7FF := regMask_of_unwired rfl (by decide)

/-- JET_SPARE's fields fill its low 11 bits. -/
theorem jetSpare_fits {lo w : Nat} (i : Nat) (h : lo + w ≤ 11) : Fld.fits ⟨.jetSpare, lo, w⟩ i := by
  refine ⟨by dsimp only; omega, Nat.eq_of_testBit_eq fun k => ?_⟩
  rw [regMask_jetSpare, show 0x7FF = 2 ^ 11 - 1 from rfl, testBit_slice, Nat.testBit_two_pow_sub_one, Nat.testBit_two_pow_sub_one]
  by_cases hk : k < w
  · simp [hk, show lo + k < 11 by omega]
  · simp [hk]

theorem State.rd_useSpare_row (s : State) (i n lo w : Nat) :
    (s.useSpare i 0 n).rd ⟨.jetSpare, lo, w⟩ i = (s.wr ⟨.jetSpare, n, 1⟩ i 1).rd ⟨.jetSpare, lo, w⟩ i := by
  rw [State.rd, State.useSpare, if_pos rfl, State.reg_setReg_name _ _ _ _ RegName.noConfusion]
  rfl

theorem State.rd_useSpare_col (s : State) {i k n lo w : Nat} (hk : k ≠ 0) :
    (s.useSpare i k n).rd ⟨.jetSpare, lo, w⟩ i = (s.wr ⟨.jetSpare, 4 + n, 1⟩ i 1).rd ⟨.jetSpare, lo, w⟩ i := by
  rw [State.rd, State.useSpare, if_neg hk, State.reg_setReg_name _ _ _ _ RegName.noConfusion]
  rfl

/-- A bit that is set within a field reads set in it. -/
theorem State.bitAt_rd_wr_bit (s : State) {r : RegName} {lo w i n : Nat} (hg : Fld.fits ⟨r, lo, w⟩ i) (hn : n < w) :
    bitAt ((s.wr ⟨r, lo + n, 1⟩ i 1).rd ⟨r, lo, w⟩ i) n = true := by
  have hrd : (s.wr ⟨r, lo + n, 1⟩ i 1).rd ⟨r, lo, w⟩ i = slice (putBits (s.reg r i) (lo + n) 1 1) lo w :=
    s.rd_setReg ⟨r, lo, w⟩ i _ hg
  rw [hrd, bitAt_eq, testBit_slice, testBit_putBits]
  simp [hn]

/-- Below the budget JET_SPARE keeps what it says of the spares. -/
theorem State.rd_remapEnd_of_le (s : State) {i lo w : Nat} (h : lo + w ≤ 8) :
    (s.remapEnd i).rd ⟨.jetSpare, lo, w⟩ i = s.rd ⟨.jetSpare, lo, w⟩ i := by
  have hfits : Fld.fits ⟨.jetSpare, lo, w⟩ i := jetSpare_fits i (by omega)
  exact (State.rd_wr_field _ Fld.jetSpareRemapBusy ⟨.jetSpare, lo, w⟩ i 0 rfl hfits (.inl (Nat.le_add_right_of_le (k := 2) h))).trans
    (s.rd_wr_field Fld.jetSpareFieldBudget ⟨.jetSpare, lo, w⟩ i _ rfl hfits (.inl h))

theorem State.remapEnd_busy (s : State) (i : Nat) : (s.remapEnd i).on Fld.jetSpareRemapBusy i = false :=
  State.on_wr_zero _ (jetSpare_fits i (by decide))

theorem State.remapEnd_budget (s : State) {i : Nat} (h : s.rd Fld.jetSpareFieldBudget i ≠ 0) :
    (s.remapEnd i).rd Fld.jetSpareFieldBudget i + 1 = s.rd Fld.jetSpareFieldBudget i := by
  have hfits : Fld.jetSpareFieldBudget.fits i := jetSpare_fits i (by decide)
  have hlt : s.rd Fld.jetSpareFieldBudget i < 2 ^ 2 := slice_lt ..
  have hrd : (s.remapEnd i).rd Fld.jetSpareFieldBudget i = (s.rd Fld.jetSpareFieldBudget i - 1) % 2 ^ 2 := by
    rw [State.remapEnd, State.rd_wr_field _ Fld.jetSpareRemapBusy Fld.jetSpareFieldBudget i 0 rfl hfits (.inl (by decide)),
      State.rd_wr_same _ _ _ _ hfits]
    rfl
  omega

/-- A spare that is used costs no budget by itself. -/
theorem State.useSpare_budget (s : State) {i n : Nat} (k : Nat) (hn : n < 4) :
    (s.useSpare i k n).rd Fld.jetSpareFieldBudget i = s.rd Fld.jetSpareFieldBudget i := by
  have hfits : Fld.jetSpareFieldBudget.fits i := jetSpare_fits i (by decide)
  by_cases hk : k = 0
  · subst hk
    exact (s.rd_useSpare_row i n 8 2).trans (s.rd_wr_field ⟨.jetSpare, n, 1⟩ _ i 1 rfl hfits (.inr (by dsimp only; omega)))
  · exact (s.rd_useSpare_col hk).trans (s.rd_wr_field ⟨.jetSpare, 4 + n, 1⟩ _ i 1 rfl hfits (.inr (by dsimp only; omega)))

/-- A spare row that is used is listed among the used spare rows. -/
theorem State.useSpare_row_used (s : State) {i n : Nat} (hn : n < 4) :
    bitAt ((s.useSpare i 0 n).rd Fld.jetSpareSpareRowUsed i) n = true := by
  have hbit := s.bitAt_rd_wr_bit (jetSpare_fits (lo := 0) (w := 4) i (by decide)) hn
  rw [Nat.zero_add, ← State.rd_useSpare_row] at hbit
  exact hbit

/-- A spare column that is used is listed among the used spare columns. -/
theorem State.useSpare_col_used (s : State) {i k n : Nat} (hk : k ≠ 0) (hn : n < 4) :
    bitAt ((s.useSpare i k n).rd Fld.jetSpareSpareColUsed i) n = true := by
  have hbit := s.bitAt_rd_wr_bit (jetSpare_fits (lo := 4) (w := 4) i (by decide)) hn
  rw [← State.rd_useSpare_col s hk] at hbit
  exact hbit

/-! ### The obligation -/

/-- Settles O19: each row runs the branch that its conditions select; a blown fuse changes JET_SPARE field by field. -/
theorem jetCommandsComplete : Obligations.JetCommandsComplete := by
  rintro dt b j s x rfl hb hj
  refine ⟨fun c ch hc hm hk => ?_, fun ups y c hy h hc hs hr => ?_, fun ups y c hy h hc => ?_, fun bad cyc stalls c h hc => ?_,
    fun v h hw hkey hbud hf hbusy => ?_, fun n hbusy hn hlt hbud => ?_⟩
  case refine_1 =>
    have h : Ok (.jetTile dt b) := by simpa [Ok, Instr.wellFormed] using hb
    rw [Does, exec_jetTile s h, State.checkIssue_of_ok Jd.chainAddr hc hm hk]
  case refine_2 =>
    subst hy
    simp only [Does, exec_jetTileStart s h, Host.Outcome.next.injEq]
    exact ⟨State.jetStart_loaded hc hs hr, State.jetStart_load hc hs hr, State.jetStart_usable hc hs hr⟩
  case refine_3 =>
    subst hy
    refine ⟨_, exec_jetBankLoadComplete s h, ?_⟩
    rw [State.jetLoadEnd_of hc]
    exact ⟨State.jetLoaded_bank .., State.jetLoaded_valid ..⟩
  case refine_4 =>
    exact enter_forSome_of (o := fun x => (x.jetTiles b j).find? (·.phase == .running)) (k := fun x c => x.jetEnd c bad cyc stalls) h hc
  case refine_5 => rw [Does, exec_jetFieldRemap s h, State.fieldRemap_of_accepted hw hkey hbud hf hbusy]
  case refine_6 =>
    have h : Ok (.fieldFuseBlown dt b j) := by simpa [Ok, Instr.wellFormed] using And.intro hb hj
    have ht := does_fieldFuseBlown h hbusy
    have hm := (exec_still rfl ht).sameMemory
    rw [State.fuseBlown_of hn] at ht hm
    have hbudget := State.useSpare_budget (s.advance dt) (i := 2 * b + j) ((s.advance dt).rd Fld.jetFieldRemapKind (2 * b + j)) hlt
    refine ⟨_, ht, State.remapEnd_busy .., ?_, fun hk => ?_, fun hk => ?_, hm⟩
    · rw [State.remapEnd_budget _ (by rwa [hbudget]), hbudget]
    · rw [hk]
      exact (congrArg (bitAt · n) (State.rd_remapEnd_of_le _ (by decide))).trans (State.useSpare_row_used _ hlt)
    · exact (congrArg (bitAt · n) (State.rd_remapEnd_of_le _ (by decide))).trans (State.useSpare_col_used _ hk hlt)

end Sys2Proof.Machine
end

section
/-! Repartitions, cistern steals and the CXL link (R94 to R96, R105). -/
namespace Sys2Proof.Machine

/-! ### Repartitions (R96) -/

theorem partBusy_fits (b : Nat) : Fld.cisternPartPartBusy.fits b := by
  rw [Fld.fits, show Fld.cisternPartPartBusy.reg = .cisternPart from rfl, regMask_of_unwired rfl (by decide)]
  decide

theorem zeroing_fits (b : Nat) : Fld.basinStateZeroing.fits b := by
  rw [Fld.fits, show Fld.basinStateZeroing.reg = .basinState from rfl, regMask_of_unwired rfl (by decide)]
  decide

/-- A repartition of basin `b` begins: it is busy and zeroing, and its new sizes wait. -/
def State.partBegin (s : State) (b banks units : Nat) : State :=
  ((s.wr Fld.cisternPartPartBusy b 1).wr Fld.basinStateZeroing b 1).setBasin b { s.basin b with parting := some (banks, units) }

theorem State.partBegin_busy (s : State) (b banks units : Nat) :
    (s.partBegin b banks units).on Fld.cisternPartPartBusy b = true := by
  have hreg : ¬ (Fld.cisternPartPartBusy.reg = Fld.basinStateZeroing.reg ∧ b = b) := fun h => RegName.noConfusion h.1
  rw [State.partBegin, State.on_setBasin, State.on, State.rd_wr_reg _ _ _ _ _ _ hreg]
  exact s.on_wr_one (partBusy_fits b) rfl

theorem State.partBegin_zeroing (s : State) (b banks units : Nat) : (s.partBegin b banks units).zeroing b = true := by
  rw [State.partBegin, State.zeroing, State.on_setBasin]
  exact State.on_wr_one _ (zeroing_fits b) rfl

theorem State.partBegin_parting (s : State) (b banks units : Nat) :
    ((s.partBegin b banks units).basin b).parting = some (banks, units) := by
  rw [State.partBegin, State.basin_setBasin_same]

/-- A write with legal sizes to a basin that nothing holds begins its repartition. -/
theorem State.partWrite_of_legal {s : State} {b v : Nat} (hg : s.gated b = false) (hb : s.busy b = false)
    (hw : s.windowOpen b = false) (hp : s.on Fld.cisternPartPartBusy b = false) (hr : s.reserved b = false)
    (hl : s.gateListed b = false) (hbanks : slice v 0 5 ≤ 16) (hunits : slice v 8 7 ≤ 64) :
    s.partWrite b v = s.partBegin b (slice v 0 5) (slice v 8 7) := by
  simp [State.partWrite, State.partBegin, hg, hb, hw, hp, hr, hl, hbanks, hunits]

theorem exec_cisternPart {dt b v : Nat} (s : State) (h : Ok (.cisternPart dt b v)) :
    exec (.cisternPart dt b v) s = .next ((s.advance dt).partWrite b v) :=
  enter_of_wellFormed (k := fun x => x.partWrite b v) h

/-- The zeroing of the repartition in progress in basin `b`, if any, ends. -/
def State.partEnd (s : State) (b : Nat) : State :=
  s.forSome (s.basin b).parting fun s z => s.partDone b z.1 z.2

theorem State.partEnd_of {s : State} {b banks units : Nat} (hp : (s.basin b).parting = some (banks, units)) :
    s.partEnd b = s.partDone b banks units := by
  rw [State.partEnd, hp, State.forSome_some]

theorem exec_cisternPartZeroingDone {dt b : Nat} (s : State) (h : Ok (.cisternPartZeroingDone dt b)) :
    exec (.cisternPartZeroingDone dt b) s = .next ((s.advance dt).partEnd b) :=
  enter_of_wellFormed (k := fun x => x.partEnd b) h

/-! ### Steals (R95) -/

theorem does_cisternSteal {dt b : Nat} {s : State} (h : Ok (.cisternSteal dt b)) (hg : (s.advance dt).gated b = false) :
    Does (.cisternSteal dt b) s ((s.advance dt).bump Fld.cisternStealsSteals b) :=
  enter_whenever_of (p := fun x => !x.gated b) (k := fun x => x.bump Fld.cisternStealsSteals b) h (by rw [hg]; rfl)

/-! ### The CXL link (R105) -/

/-- The CXL link comes up, or goes down. -/
def State.setCxl (s : State) (up : Bool) : State := { s with boot := { s.boot with cxlUp := up } }

theorem does_cxlLinkDown {dt : Nat} {s : State} (hu : (s.advance dt).boot.cxlUp = true) :
    Does (.cxlLinkDown dt) s (((s.advance dt).setCxl false).reportLow (unitHub 17) 2 0 0) :=
  enter_whenever_of (c := .cxlLinkDown dt) (p := fun x => x.boot.cxlUp) (k := fun x => (x.setCxl false).reportLow (unitHub 17) 2 0 0) rfl hu

theorem does_cxlLinkUp (dt : Nat) (s : State) : Does (.cxlLinkUp dt) s ((s.advance dt).setCxl true) :=
  enter_of_wellFormed (c := .cxlLinkUp dt) (k := fun x => x.setCxl true) rfl

/-! ### The obligation -/

/-- Settles O20: each row acts when its condition holds. A repartition writes two registers of its basin and the basin's record; the
loss of the CXL link leaves every register and every memory, and its report joins the queue. -/
theorem tilesComplete : Obligations.TilesComplete := by
  rintro dt b s x rfl hb
  refine ⟨fun v h hg hbusy hw hp hr hl hbanks hunits => ?_, fun banks units hp => ?_, fun hg => ?_, fun hu => ?_, does_cxlLinkUp dt s⟩
  case refine_1 =>
    have ht : Does (.cisternPart dt b v) s ((s.advance dt).partBegin b (slice v 0 5) (slice v 8 7)) := by
      rw [Does, exec_cisternPart s h, State.partWrite_of_legal hg hbusy hw hp hr hl hbanks hunits]
    exact ⟨_, ht, State.partBegin_busy .., State.partBegin_zeroing .., State.partBegin_parting .., (exec_still rfl ht).sameMemory⟩
  case refine_2 =>
    have h : Ok (.cisternPartZeroingDone dt b) := by simpa [Ok, Instr.wellFormed] using hb
    rw [Does, exec_cisternPartZeroingDone s h, State.partEnd_of hp]
  case refine_3 =>
    have h : Ok (.cisternSteal dt b) := by simpa [Ok, Instr.wellFormed] using hb
    exact does_cisternSteal h hg
  case refine_4 =>
    have ht := does_cxlLinkDown hu
    obtain ⟨d, hd⟩ := ((s.advance dt).setCxl false).reportLow_reportQ (unitHub 17) 2 0 0
    exact ⟨_, d, ht, rfl, hd, exec_regs rfl ht, (exec_still rfl ht).sameMemory⟩

end Sys2Proof.Machine
end

section
/-! Runnel passes and the epilogue lane (R107, R122 to R124). -/
namespace Sys2Proof.Machine

/-- A pass that passes its checks reads its chain once, shows its tag and waits with the chain. -/
theorem does_runnelPass {dt b ch : Nat} {s : State} {c : Cmd} (h : Ok (.runnelPass dt b))
    (hc : (s.advance dt).firstIssue b 0xB = some c) (hm : (s.advance dt).mayCheck c.slice b = true)
    (hk : (s.advance dt).passCheck c = (stOk, ch)) :
    Does (.runnelPass dt b) s ((((s.advance dt).eccRead b ⟨.cistern, Rp.chainAddr c.params, 256⟩).wr Fld.runnelTagTileTag b
      c.tag).modCmd c.id fun k => { k with phase := .queued, chain := ch }) := by
  have hready : ((s.advance dt).mayCheck c.slice b || (s.advance dt).fencedBasin b) = true := by rw [hm, Bool.true_or]
  refine (enter_forSome_of (o := fun x => x.firstIssue b 0xB) h hc).trans (congrArg _ ?_)
  dsimp only
  rw [State.whenever_of hready, hk]
  rfl

/-- The first queued pass of a basin goes to its start when it may start and excludes nothing of its runnel. -/
def State.startPass (s : State) (b : Nat) : State :=
  s.forSome (s.passes b .queued) fun s c => s.whenever (s.mayStart c.slice b && s.runnelFree c) fun s => s.passStart c

theorem State.startPass_of {s : State} {b : Nat} {c : Cmd} (hc : s.passes b .queued = some c) (hs : s.mayStart c.slice b = true)
    (hr : s.runnelFree c = true) : s.startPass b = s.passStart c := by
  have hready : (s.mayStart c.slice b && s.runnelFree c) = true := by rw [hs, hr, Bool.and_true]
  rw [State.startPass, hc, State.forSome_some, State.whenever_of hready]

theorem exec_runnelPassStart {dt b : Nat} {ups : List Upset} (s : State) (h : Ok (.runnelPassStart dt b ups)) :
    exec (.runnelPassStart dt b ups) s = .next (((s.advance dt).upsets ups).startPass b) :=
  enter_of_wellFormed (k := fun x => (x.upsets ups).startPass b) h

/-- Settles O22: each row finds its subject; the checks of a pass, and the conditions of its start, select the branch that acts.
Whether the start is granted is decided within `passStart`, which the statement names whole. -/
theorem runnelCommandsComplete : Obligations.RunnelCommandsComplete := by
  rintro dt b s x rfl hb
  refine ⟨fun c ch hc hm hk => ?_, fun ups y c hy h hc hs hr _ => ?_, fun cyc stalls c h hc => ?_, fun u stalls c h hc => ?_⟩
  case refine_1 =>
    have h : Ok (.runnelPass dt b) := by simpa [Ok, Instr.wellFormed] using hb
    exact does_runnelPass h hc hm hk
  case refine_2 =>
    subst hy
    rw [Does, exec_runnelPassStart s h, State.startPass_of hc hs hr]
  case refine_3 => exact enter_forSome_of (o := fun x => x.passes b .running) h hc
  case refine_4 =>
    exact enter_forSome_of (o := fun x => x.cmds.find? fun c => c.target == b && c.phase == .epilogue &&
      (if u = 2 then c.opcode == 9 else c.opcode == 8 && Jd.jet c.params == u)) h hc

end Sys2Proof.Machine
end

section
/-! Rill tiles, their weight fetches and the variant table (R130, R131, R134 to R137, R142). -/
namespace Sys2Proof.Machine

/-! ### Acceptance -/

/-- A tile that passes its checks counts its resolution reads and is accepted with what it resolved. -/
theorem does_rillTile {dt b ch : Nat} {poison : Bool} {aux : List Nat} {s y : State} {c d : Cmd} (h : Ok (.rillTile dt b poison))
    (hc : (s.advance dt).firstIssue b 9 = some c) (hm : (s.advance dt).mayCheck c.slice b = true)
    (hf : (s.advance dt).cmdFenced c = false) (hstep : (s.advance dt).rillStep1 b c.params = true)
    (hk : (s.advance dt).rillCheck c poison = (stOk, ch, aux))
    (hy : y = (s.advance dt).modCmd c.id fun k => { k with
      hbmB := k.hbmB + 64 * ((s.advance dt).resolveReads (Rd.variant c.params) (Rd.slot c.params) c.slice).length })
    (hd : y.cmd? c.id = some d) :
    Does (.rillTile dt b poison) s ((y.accept d (Rd.chainAddr d.params) ch).modCmd d.id fun k => { k with aux := aux }) := by
  have hready : ((s.advance dt).mayCheck c.slice b || (s.advance dt).fencedBasin b) = true := by rw [hm, Bool.true_or]
  have hreads : ((s.advance dt).cmdFenced c || !(s.advance dt).rillStep1 b c.params) = false := by rw [hf, hstep]; rfl
  refine (enter_forSome_of (o := fun x => x.firstIssue b 9) h hc).trans (congrArg _ ?_)
  dsimp only
  rw [State.whenever_of hready, hk, hreads]
  simp only [Bool.false_eq_true, if_false, if_true]
  rw [← hy, hd, State.forSome_some]

/-! ### The start of a fetch -/

/-- The fetch of tile `c` starts into half `i` of rill `b`, whose window is no longer valid. -/
def State.rillFetchInto (s : State) (b i : Nat) (c : Cmd) : State :=
  (s.setRill b { (s.rill b).setHalf i { tag := [], data := [], cmd := c.id } with
    lastHalf := i, fetch := some ⟨c.id, i, readsOf c.rillRuns, false⟩ }).modCmd c.id fun k =>
      { k with phase := .loading, aux := [c.slot, c.keySlice, s.now], hbmB := k.hbmB + flitsOf c.rillRuns }

theorem State.rillFetchInto_fetch (s : State) (b i : Nat) (c : Cmd) :
    ((s.rillFetchInto b i c).rill b).fetch = some ⟨c.id, i, readsOf c.rillRuns, false⟩ := by
  rw [State.rillFetchInto, State.rill_modCmd, State.rill_setRill_same]

theorem State.rillFetchInto_lastHalf (s : State) (b i : Nat) (c : Cmd) : ((s.rillFetchInto b i c).rill b).lastHalf = i := by
  rw [State.rillFetchInto, State.rill_modCmd, State.rill_setRill_same]

/-- With no fetch in progress, the first queued tile that may fetch, and whose window is in no half, fetches into the free half. -/
theorem State.rillFetchStart_of_none {s : State} {b i : Nat} {c : Cmd}
    (hn : ((s.rill b).fetch.filter fun f => (s.cmd? f.cmd).isSome) = none)
    (hc : (s.rillTiles b).find? (·.phase == .queued) = some c) (hm : s.mayFetch c.slice b = true)
    (ht : (s.rill b).halfOf c.rillTag = none) (hi : s.rillFreeHalf (s.rill b) = some i) :
    s.rillFetchStart b = s.rillFetchInto b i c := by
  have hready : (s.mayFetch c.slice b && ((s.rill b).halfOf c.rillTag).isNone) = true := by rw [hm, ht]; rfl
  unfold State.rillFetchStart
  dsimp only
  rw [hn, hc]
  dsimp only
  rw [State.forSome_some, State.whenever_of hready, hi]
  rfl

theorem exec_rillFetchStart {dt b : Nat} (s : State) (h : Ok (.rillFetchStart dt b)) :
    exec (.rillFetchStart dt b) s = .next ((s.advance dt).rillFetchStart b) :=
  enter_of_wellFormed (k := fun x => x.rillFetchStart b) h

/-! ### Reads that return -/

/-- `n` intact reads of fetch `f`, tile `c`'s, return: their bytes are counted, and the last of them ends the fetch. -/
def State.rillReadsBack (s : State) (b n : Nat) (f : Fetch) (c : Cmd) : State :=
  let s := s.bump Fld.rillFetchBytesFetchBytes b (bytesBack c.rillRuns f.left n)
  if n < f.left then s.setRill b { s.rill b with fetch := some { f with left := f.left - n } } else s.rillFetched b f c

theorem does_rillFetchReturn {dt b n : Nat} {s : State} {f : Fetch} {c : Cmd} (h : Ok (.rillFetchReturn dt b n false))
    (hf : ((s.advance dt).rill b).fetch = some f) (hc : (s.advance dt).cmd? f.cmd = some c) (hs : f.stopped = false) (hn : 0 < n)
    (hle : n ≤ 256) (hm : (c.rillRuns.any fun r => (s.advance dt).devFenced r.1 r.2) = false) :
    Does (.rillFetchReturn dt b n false) s ((s.advance dt).rillReadsBack b n f c) := by
  have hready : (!f.stopped && n != 0 && decide (n ≤ 256)) = true := by simp [hs, hle, Nat.ne_of_gt hn]
  refine (enter_forSome_of (o := fun x => (x.rill b).fetch) h hf).trans (congrArg _ ?_)
  dsimp only
  rw [hc, State.forSome_some, State.whenever_of hready, hm]
  rfl

/-! ### The start of a tile -/

/-- The oldest tile of rill `b` goes to its start, when it is neither running nor loading, may start, excludes nothing of the
runnel, and finds its window in a half. -/
def State.rillTileStart (s : State) (b : Nat) : State :=
  s.forSome (s.rillTiles b).head? fun s c =>
    s.whenever (c.phase != .running && c.phase != .loading && s.mayStart c.slice b && s.runnelFree c) fun s =>
      s.forSome ((s.rill b).halfOf c.rillTag) fun s half => s.rillStart b c half

theorem State.rillTileStart_of {s : State} {b half : Nat} {c : Cmd} (hc : (s.rillTiles b).head? = some c) (hr : c.phase ≠ .running)
    (hl : c.phase ≠ .loading) (hs : s.mayStart c.slice b = true) (hf : s.runnelFree c = true)
    (ht : (s.rill b).halfOf c.rillTag = some half) : s.rillTileStart b = s.rillStart b c half := by
  have hready : (c.phase != .running && c.phase != .loading && s.mayStart c.slice b && s.runnelFree c) = true := by
    rw [hs, hf, bne_iff_ne.2 hr, bne_iff_ne.2 hl]
    rfl
  rw [State.rillTileStart, hc, State.forSome_some, State.whenever_of hready, ht, State.forSome_some]

theorem exec_rillTileStart {dt b : Nat} {ups : List Upset} (s : State) (h : Ok (.rillTileStart dt b ups)) :
    exec (.rillTileStart dt b ups) s = .next (((s.advance dt).upsets ups).rillTileStart b) :=
  enter_of_wellFormed (k := fun x => (x.upsets ups).rillTileStart b) h

/-! ### The obligation -/

/-- Settles O23: each row finds its subject, and its conditions select the branch that acts. Whether the start of a tile is granted
is decided within `rillStart`, which the statement names whole. -/
theorem rillCommandsComplete : Obligations.RillCommandsComplete := by
  rintro dt b s x rfl hb
  refine ⟨fun poison c d y ch aux hc hm hf hstep hk hy hd => ?_, fun c i hn hc hm ht hi => ?_,
    fun n f c y h hf hc hs hn hle hm hy => ?_, fun ups y c half hy h hc hr hl hs hf ht _ => ?_, fun bad cyc stalls c h hc => ?_,
    fun r c h hc => ?_⟩
  case refine_1 =>
    have h : Ok (.rillTile dt b poison) := by simpa [Ok, Instr.wellFormed] using hb
    exact does_rillTile h hc hm hf hstep hk hy hd
  case refine_2 =>
    have h : Ok (.rillFetchStart dt b) := by simpa [Ok, Instr.wellFormed] using hb
    have ht := (exec_rillFetchStart s h).trans (congrArg _ (State.rillFetchStart_of_none hn hc hm ht hi))
    exact ⟨_, ht, State.rillFetchInto_fetch .., State.rillFetchInto_lastHalf .., exec_regs rfl ht, (exec_still rfl ht).sameMemory⟩
  case refine_3 =>
    subst hy
    rw [Does, Does, does_rillFetchReturn h hf hc hs hn hle hm]
    exact ⟨fun hlt => congrArg _ (if_pos hlt), fun hge => congrArg _ (if_neg (Nat.not_lt.2 hge))⟩
  case refine_4 =>
    subst hy
    rw [Does, exec_rillTileStart s h, State.rillTileStart_of hc hr hl hs hf ht]
  case refine_5 =>
    exact enter_forSome_of (o := fun x => (x.rillTiles b).find? (·.phase == .running))
      (k := fun x c => x.rillEnd c bad cyc stalls) h hc
  case refine_6 => exact ⟨_, enter_forSome_of (o := fun x => x.firstH r 0x18) h hc, rfl⟩

end Sys2Proof.Machine
end

section
/-! Cascade tiles and their KV fetches (R147, R154, R156 to R159). -/
namespace Sys2Proof.Machine

/-! ### Acceptance -/

/-- The oldest unchecked entry, a tile of the operation asked for that may be checked and passes, is queued at its terrace. -/
theorem State.cascadeAccept_of_ok {s : State} {b op : Nat} {c : Cmd} (hc : s.firstIssue b 0xA = some c) (hop : Cd.op c.cd = op)
    (hm : s.mayCheck c.slice b = true) (hk : s.cascadeCheck c = stOk) :
    s.cascadeAccept b op = s.modCmd c.id fun k => { k with phase := .queued, unit := b / 8 } := by
  have hready : (Cd.op c.cd == op && (s.mayCheck c.slice b || s.fencedBasin b)) = true := by
    rw [hop, beq_self_eq_true, hm]
    rfl
  rw [State.cascadeAccept, hc, State.forSome_some, State.whenever_of hready, hk]
  exact if_pos rfl

/-- The three acceptance rows differ in the operation that they look for. -/
theorem enter_cascadeAccept_of {i : Instr} {dt b op : Nat} {s : State} {c : Cmd} (h : Ok i)
    (hc : (s.advance dt).firstIssue b 0xA = some c) (hop : Cd.op c.cd = op) (hm : (s.advance dt).mayCheck c.slice b = true)
    (hk : (s.advance dt).cascadeCheck c = stOk) :
    enter i dt s (fun x => x.cascadeAccept b op) =
      .next ((s.advance dt).modCmd c.id fun k => { k with phase := .queued, unit := b / 8 }) := by
  rw [enter_of_wellFormed h, State.cascadeAccept_of_ok hc hop hm hk]

/-! ### The start of a fetch -/

/-- The next tile, whose page list is readable and valid throughout, fetches its pages into the free half. -/
theorem State.cascadeFetchStart_of_ok {s : State} {t i : Nat} {c : Cmd} (hn : s.fetchNext t = some (c, i))
    (hk : s.pageListCheck c = stOk) :
    s.cascadeFetchStart t = ((s.setCascade t { s.cascade t with lastBasin := c.target % 8 }).eccRead c.target
      (Cd.listNeed c.cd)).cascadeFetch t c i ((s.pageEntries c).filterMap (s.kvPage c.slice)) := by
  rw [State.cascadeFetchStart, hn, State.forSome_some]
  exact if_pos hk

theorem exec_cascadeFetchStart {dt t : Nat} (s : State) (h : Ok (.cascadeFetchStart dt t)) :
    exec (.cascadeFetchStart dt t) s = .next ((s.advance dt).cascadeFetchStart t) :=
  enter_of_wellFormed (k := fun x => x.cascadeFetchStart t) h

/-! ### Reads that return -/

/-- Intact reads of fetch `f`, tile `c`'s, return and leave `rest` of them: their bytes are counted, and the last of them ends
the fetch. -/
def State.cascadeReadsBack (s : State) (t rest : Nat) (f : Fetch) (c : Cmd) : State :=
  let s := s.bump Fld.cascadeFetchBytesFetchBytes t (bytesBack c.fetchRuns f.left (f.left - rest))
  if rest = 0 then s.cascadeFetched t f c else s.setCascade t { s.cascade t with fetch := some { f with left := rest } }

/-- While the tile has a remote line outstanding, at least one read is left, whatever number returns. -/
theorem does_cascadeFetchReturn {dt t n : Nat} {s : State} {f : Fetch} {c : Cmd} (h : Ok (.cascadeFetchReturn dt t n false))
    (hf : ((s.advance dt).cascade t).fetch = some f) (hc : (s.advance dt).cmd? f.cmd = some c) (hn : n ≠ 0) (hle : n ≤ 256)
    (hm : (c.localRuns.any fun r => (s.advance dt).devFenced r.1 r.2) = false) :
    Does (.cascadeFetchReturn dt t n false) s
      ((s.advance dt).cascadeReadsBack t (max (f.left - n) (nat1 ((s.advance dt).aqdPending c.id))) f c) := by
  have hready : (n != 0 && decide (n ≤ 256)) = true := by simp [hn, hle]
  refine (enter_forSome_of (o := fun x => (x.cascade t).fetch) h hf).trans (congrArg _ ?_)
  dsimp only
  rw [hc, State.forSome_some, State.whenever_of hready, hm]
  rfl

/-! ### The start of a tile -/

/-- When no tile of terrace `t` runs and its cascade is not fenced, the tile whose turn it is starts. -/
def State.cascadeTileStart (s : State) (t : Nat) (poison : Bool) : State :=
  s.whenever ((s.cascadeRunning t).isNone && !s.on Fld.terraceStateCascadeFenced t) fun s =>
    s.forSome (s.cascadeToStart t) fun s c => s.cascadeStart t c poison

theorem State.cascadeTileStart_of {s : State} {t : Nat} {c : Cmd} (poison : Bool) (hr : s.cascadeRunning t = none)
    (hf : s.on Fld.terraceStateCascadeFenced t = false) (hc : s.cascadeToStart t = some c) :
    s.cascadeTileStart t poison = s.cascadeStart t c poison := by
  have hready : ((s.cascadeRunning t).isNone && !s.on Fld.terraceStateCascadeFenced t) = true := by rw [hr, hf]; rfl
  rw [State.cascadeTileStart, State.whenever_of hready, hc, State.forSome_some]

theorem exec_cascadeTileStart {dt t : Nat} {ups : List Upset} {poison : Bool} (s : State) (h : Ok (.cascadeTileStart dt t ups poison)) :
    exec (.cascadeTileStart dt t ups poison) s = .next (((s.advance dt).upsets ups).cascadeTileStart t poison) :=
  enter_of_wellFormed (k := fun x => (x.upsets ups).cascadeTileStart t poison) h

/-! ### The obligation -/

/-- Settles O24: each row finds its subject, and its conditions select the branch that acts. What a tile computes at its start is
decided within `cascadeStart`, which the statement names whole. -/
theorem cascadeCommandsComplete : Obligations.CascadeCommandsComplete := by
  rintro dt s x rfl
  refine ⟨fun b c hb hc hm hk => ?_, fun t c i ht hn hk => ?_, fun t n f c rest y h hf hc hn hle hm hrest hy => ?_,
    fun t ups poison y c hy h hr hf hc => ?_, fun t bad cyc c h hc => ?_⟩
  case refine_1 =>
    have h64 : decide (b < 64) = true := decide_eq_true hb
    exact ⟨fun hop => enter_cascadeAccept_of (i := .cascadeForward dt b) h64 hc hop hm hk,
      fun hop => enter_cascadeAccept_of (i := .cascadeMerge dt b) h64 hc hop hm hk,
      fun hop => enter_cascadeAccept_of (i := .cascadeBackward dt b) h64 hc hop hm hk⟩
  case refine_2 =>
    have h : Ok (.cascadeFetchStart dt t) := by simpa [Ok, Instr.wellFormed] using ht
    rw [Does, exec_cascadeFetchStart s h, State.cascadeFetchStart_of_ok hn hk]
  case refine_3 =>
    subst hrest hy
    rw [Does, Does, does_cascadeFetchReturn h hf hc hn hle hm]
    exact ⟨fun hleft => congrArg _ (if_neg hleft), fun hlast => congrArg _ (if_pos hlast)⟩
  case refine_4 =>
    subst hy
    rw [Does, exec_cascadeTileStart s h, State.cascadeTileStart_of poison hr hf hc]
  case refine_5 => exact enter_forSome_of (o := fun x => x.cascadeRunning t) (k := fun x c => x.cascadeEnd t c bad cyc) h hc

end Sys2Proof.Machine
end

section
/-! The session engine's commands (R166 to R170, R172, R173, R175 to R182). -/
namespace Sys2Proof.Machine

/-! ### The next command of the engine (R166) -/

section NextServe

variable {i : Instr} {dt op : Nat} {s : State} {c : Cmd}

/-- With the engine enabled, the next serving command is carried out by the row of its opcode. -/
theorem State.serveAct_of {k : State → Cmd → State} (hc : s.nextServe = some c) (hop : c.opcode = op)
    (hen : s.on Fld.serveCtrlEnable = true) : s.serveAct op k = k s c := by
  have hnext : s.nextServe.filter (·.opcode == op) = some c := by rw [hc, Option.filter_some, hop, beq_self_eq_true, if_pos rfl]
  rw [State.serveAct, hnext, State.forSome_some, if_pos hen]

/-- Work on sessions and pages completes with the status and the result that it answers. -/
theorem State.serveRun_of {work : Eng → Cmd → Eng × Nat × Nat} {e : Eng} {code r : Nat} (hc : s.nextServe = some c)
    (hop : c.opcode = op) (hen : s.on Fld.serveCtrlEnable = true) (hw : work { s := s, sl := c.slice } c = (e, code, r)) :
    s.serveRun op work = e.finish c code r := by
  rw [State.serveRun, State.serveAct_of hc hop hen, hw]

theorem enter_serveAct_of {k : State → Cmd → State} (h : Ok i) (hc : (s.advance dt).nextServe = some c) (hop : c.opcode = op)
    (hen : (s.advance dt).on Fld.serveCtrlEnable = true) :
    enter i dt s (fun x => x.serveAct op k) = .next (k (s.advance dt) c) := by
  rw [enter_of_wellFormed h, State.serveAct_of hc hop hen]

theorem enter_serveRun_of {work : Eng → Cmd → Eng × Nat × Nat} {e : Eng} {code r : Nat} (h : Ok i)
    (hc : (s.advance dt).nextServe = some c) (hop : c.opcode = op) (hen : (s.advance dt).on Fld.serveCtrlEnable = true)
    (hw : work { s := s.advance dt, sl := c.slice } c = (e, code, r)) :
    enter i dt s (fun x => x.serveRun op work) = .next (e.finish c code r) := by
  rw [enter_of_wellFormed h, State.serveRun_of hc hop hen hw]

end NextServe

theorem exec_kvAppend {dt : Nat} {ups : List Upset} (s : State) (h : Ok (.kvAppend dt ups)) :
    exec (.kvAppend dt ups) s = .next (((s.advance dt).upsets ups).whenever ((s.advance dt).upsets ups).appendReady
      fun x => x.serveRun 0x28 Eng.append) :=
  enter_of_wellFormed (k := fun x => (x.upsets ups).whenever (x.upsets ups).appendReady fun x => x.serveRun 0x28 Eng.append) h

/-! ### Cancelling and pausing (R170, R182) -/

/-- The queued records of command `id` wait on for the token ring without it. -/
def State.disownRecs (s : State) (id : Nat) : State :=
  { s with serve := { s.serve with recs := s.serve.recs.map fun r => if r.2.1 = id then (r.1, 0, r.2.2) else r } }

section Leave

variable {i : Instr} {dt op : Nat} {cancel : Bool} {s : State} {c : Cmd} {e : Eng} {d : Nat} (h : Ok i)
  (hc : (s.advance dt).nextServe = some c) (hop : c.opcode = op) (hen : (s.advance dt).on Fld.serveCtrlEnable = true)
  (hf : Eng.find { s := s.advance dt, sl := c.slice } (c.word 0) [1, 2] true = (e, stOk, d))
include h hc hop hen hf

/-- A latched session is marked for the end of its step. -/
theorem enter_cancelOrPause_latched (hl : Ds.latched d = true) :
    enter i dt s (fun x => x.cancelOrPause op cancel) =
      .next ((e.store (c.word 0) (putBits d (if cancel then 3 else 4) 1 1)).finish c stOk 0) := by
  rw [enter_of_wellFormed h, State.cancelOrPause, State.serveAct_of hc hop hen]
  dsimp only
  rw [hf]
  dsimp only
  rw [if_neg (not_not.2 rfl), if_pos hl]

/-- Any other session leaves at once, and its record goes out when no refusal waits for it. -/
theorem enter_cancelOrPause_leave {y : Eng} {z : State} (hl : Ds.latched d = false)
    (hy : y = e.leave (c.word 0) d (if cancel then 4 else 3))
    (hz : z = y.s.queueRec c.slice c.id (tokenRec (c.word 0) (if cancel then 2 else 4) 0 0 0 0) false)
    (hr : z.tokRefused c.id = none) :
    enter i dt s (fun x => x.cancelOrPause op cancel) =
      .next (Eng.finish { y with s := (z.disownRecs c.id).deliverAll c.slice } c stOk 0) := by
  have hlatch : ¬ Ds.latched d = true := by rw [hl]; decide
  rw [enter_of_wellFormed h, State.cancelOrPause, State.serveAct_of hc hop hen]
  dsimp only
  rw [hf]
  dsimp only
  rw [if_neg (not_not.2 rfl), if_neg hlatch, ← hy, ← hz, hr]
  rfl

end Leave

/-! ### Hand-off (R177, R178) -/

/-- A hand-off of a session in PREFILL, on no counter or one that its slice may wait on, acts or is parked by the arrival. -/
theorem State.handoff_of_ok {s : State} {c : Cmd} {e : Eng} {d : Nat}
    (hf : Eng.find { s := s, sl := c.slice } (c.word 0) [1] false = (e, stOk, d))
    (hk : c.word 1 = nullEntry ∨ s.counterOk c.slice (c.word 1) = true) :
    s.handoff c = if s.arrived c then s.handoffAct c else (s.beginCmd c.id).modCmd c.id fun k => { k with phase := .parked } := by
  have hcounter : ¬ (c.word 1 ≠ nullEntry && !s.counterOk c.slice (c.word 1)) = true := by
    rcases hk with h | h <;> simp [h]
  rw [State.handoff, hf]
  dsimp only
  rw [if_neg (not_not.2 rfl), if_neg hcounter]

section Parked

variable {dt sl : Nat} {s : State} {c : Cmd} (hsl : sl < 128) (hc : (s.advance dt).parkedCmd sl 0x2C = some c)
include hsl hc

/-- A parked hand-off acts when its arrival comes; a window that closes with the arrival counts a race. -/
theorem does_handoffArrival (ha : (s.advance dt).arrived c = true) :
    Does (.handoffArrival dt sl) s ((if (s.advance dt).handoffOver c then (s.advance dt).bump Fld.timeoutRacesRaces 0
      else s.advance dt).handoffAct c) := by
  have h : Ok (.handoffArrival dt sl) := by simpa [Ok, Instr.wellFormed] using hsl
  exact (enter_forSome_of (o := fun x => x.parkedCmd sl 0x2C) h hc).trans (congrArg _ (State.whenever_of ha))

/-- A parked hand-off whose window closes without its arrival times out. -/
theorem does_handoffTimeout (ha : (s.advance dt).arrived c = false) (ho : (s.advance dt).handoffOver c = true) :
    Does (.handoffTimeout dt sl) s (((s.advance dt).nondet sl 5).finish c stTimeout) := by
  have h : Ok (.handoffTimeout dt sl) := by simpa [Ok, Instr.wellFormed] using hsl
  have hready : ((s.advance dt).handoffOver c && !(s.advance dt).arrived c) = true := by rw [ho, ha]; rfl
  exact (enter_forSome_of (o := fun x => x.parkedCmd sl 0x2C) h hc).trans (congrArg _ (State.whenever_of hready))

end Parked

/-! ### The end of a step (R181, R182) -/

/-- A parked STEP_END whose last record goes out completes with the status that it was parked with. -/
theorem State.stepResume_of_last {s : State} {sl : Nat} {c d : Cmd} (hc : s.parkedCmd sl 0x2E = some c)
    (hleft : (s.deliverAll sl).recsLeft c.id = 0)
    (hd : ((s.deliverAll sl).modCmd c.id fun k => { k with result := 0 }).cmd? c.id = some d) :
    s.stepResume sl = ((s.deliverAll sl).modCmd c.id fun k => { k with result := 0 }).finish d (d.outcomes.headD stOk) := by
  rw [State.stepResume, hc, State.forSome_some]
  dsimp only
  rw [hleft, if_neg (not_not.2 rfl), hd]

theorem exec_stepEndResume {dt sl : Nat} (s : State) (h : Ok (.stepEndResume dt sl)) :
    exec (.stepEndResume dt sl) s = .next ((s.advance dt).stepResume sl) :=
  enter_of_wellFormed (k := fun x => x.stepResume sl) h

/-! ### The obligation -/

/-- Settles O25: the engine's next command, or the parked one, is the subject of its row; the work's answer, the session's latch,
the arrival and the window select the branch that acts. -/
theorem servingCommandsComplete : Obligations.ServingCommandsComplete := by
  rintro dt s x rfl
  refine ⟨fun c e r hc hen => ?_, fun ups y c e r hy h hready hc hen hop hw => ?_, fun c e d hc hen hf => ?_,
    fun c e d hf hk => ?_, fun sl c hsl hc => ?_, fun sl c y h hc hy hleft d hd => ?_⟩
  case refine_1 =>
    exact ⟨fun hop hw => enter_serveRun_of (i := .sessionCreate dt) rfl hc hop hen hw,
      fun hop hw => enter_serveRun_of (i := .sessionRebuild dt) rfl hc hop hen hw,
      fun hop hw => enter_serveRun_of (i := .sessionRelease dt) rfl hc hop hen hw,
      fun hop hw => enter_serveRun_of (i := .kvProvision dt) rfl hc hop hen hw,
      fun hop hw => enter_serveRun_of (i := .kvReclaim dt) rfl hc hop hen hw,
      fun hop hw => enter_serveRun_of (i := .kvReserve dt) rfl hc hop hen hw,
      fun hop hw => enter_serveRun_of (i := .prefixSeal dt) rfl hc hop hen hw,
      fun hop hw => enter_serveRun_of (i := .prefixAttach dt) rfl hc hop hen hw,
      fun hop hw => enter_serveRun_of (i := .prefixDrop dt) rfl hc hop hen hw,
      fun hop hw => enter_serveRun_of (i := .stepBegin dt) rfl hc hop hen hw,
      fun hop => enter_serveAct_of (i := .handoff dt) (k := State.handoff) rfl hc hop hen,
      fun hop => enter_serveAct_of (i := .stepEnd dt) (k := State.stepEnd) rfl hc hop hen⟩
  case refine_2 =>
    subst hy
    rw [Does, exec_kvAppend s h, State.whenever_of hready, State.serveRun_of hc hop hen hw]
  case refine_3 =>
    exact ⟨fun hop => ⟨enter_cancelOrPause_latched (i := .sessionCancel dt) (cancel := true) rfl hc hop hen hf,
        fun hl _ _ => enter_cancelOrPause_leave (i := .sessionCancel dt) (cancel := true) rfl hc hop hen hf hl⟩,
      fun hop => ⟨enter_cancelOrPause_latched (i := .sessionPause dt) (cancel := false) rfl hc hop hen hf,
        fun hl _ _ => enter_cancelOrPause_leave (i := .sessionPause dt) (cancel := false) rfl hc hop hen hf hl⟩⟩
  case refine_4 =>
    rw [State.handoff_of_ok hf hk]
    exact ⟨fun ha => if_pos ha, fun ha => if_neg (by rw [ha]; decide)⟩
  case refine_5 =>
    refine ⟨fun ha ho => ?_, fun ha ho => ?_, fun ha ho => does_handoffTimeout hsl hc ha ho⟩
    all_goals simpa only [ho, if_true, if_false, Bool.false_eq_true] using does_handoffArrival hsl hc ha
  case refine_6 =>
    subst hy
    rw [Does, exec_stepEndResume s h, State.stepResume_of_last hc hleft hd]

end Sys2Proof.Machine
end

section
/-! Spout instructions that have a command of their own (Table 9-5): what each finds at the pc of its core, and what it does then. -/
namespace Sys2Proof.Machine

/-- A fetch keeps the queue, and the order of registers and memories. -/
theorem State.keeps_of_fetches {s t : State} {c : Nat} {u : Uop} (h : s.fetches c u t) : Keeps s t := by
  obtain ⟨_, w, len, hf, _⟩ := h
  exact keeps_fst hf (State.fetchInstr_keeps (Keeps.rfl' s) c false)

section Custom

variable {dt k c f rd a n : Nat} {s y : State}

/-- The command of a spout instruction acts on the state that the fetch leaves, with the values of its two source registers. -/
theorem enter_atCustom_of {i : Instr} {g : State → State → Nat → Nat → Nat → State} (h : Ok i) (hc : c = (s.advance dt).ctxCore k)
    (hf : (s.advance dt).fetches c (.custom f rd a n) y) :
    enter i dt s (fun x => x.atCustom (x.ctxCore k) f (g x)) =
      .next (g (s.advance dt) y rd ((y.core c).xr a) ((y.core c).xr n)) := by
  subst hc
  rw [enter_of_wellFormed h, State.atCustom_of_fetches hf]

/-! ### The work counter (R198, R199) -/

section Counter

variable (hk : k < 512) (hc : c = (s.advance dt).ctxCore k)
include hk hc

/-- A claim that is granted returns its index, or all ones. -/
theorem does_wcClaim_granted {z : State} {v : Nat} (hf : (s.advance dt).fetches c (.custom 0 rd a n) y)
    (hz : y.claim c = some (z, v)) : Does (.wcClaim dt k) s (z.result c rd v) := by
  change execWcClaim dt k s = _
  refine (enter_atCustom_of (i := .wcClaim dt k) (decide_eq_true hk) hc hf).trans (congrArg _ ?_)
  subst hc
  simp only [hz]

/-- A claim that finds the lease table full stalls its core. -/
theorem does_wcClaim_stalled (hf : (s.advance dt).fetches c (.custom 0 rd a n) y) (hz : y.claim c = none) :
    Does (.wcClaim dt k) s (y.modCore c fun x => { x with claiming := some rd }) := by
  change execWcClaim dt k s = _
  refine (enter_atCustom_of (i := .wcClaim dt k) (decide_eq_true hk) hc hf).trans (congrArg _ ?_)
  subst hc
  simp only [hz]

theorem does_wcDone {z : State} {ok : Bool} (hf : (s.advance dt).fetches c (.custom 1 rd a n) y)
    (hz : y.claimDone c ((y.core c).xr a) = (z, ok)) : Does (.wcDone dt k) s (z.result c rd (nat1 ok)) := by
  change execWcDone dt k s = _
  refine (enter_atCustom_of (i := .wcDone dt k) (decide_eq_true hk) hc hf).trans (congrArg _ ?_)
  subst hc
  simp only [hz]

end Counter

/-! ### Semaphores (R201, R202) -/

section Semaphore

variable {i v : Nat} (hk : k < 512) (hc : c = (s.advance dt).ctxCore k) (hi : i = (y.core c).xr a) (hv : v = (y.core c).xr n)
  (hm : y.semMine c i = true)
include hk hc hi hv hm

/-- sem.signal adds to the semaphore, and returns whether the sum would have overflowed. -/
theorem does_spoutSemSignal {z : State} {ovf : Bool} (hf : (s.advance dt).fetches c (.custom 2 rd a n) y)
    (hz : y.semAdd (coreBasin c) i v = (z, ovf)) : Does (.spoutSemSignal dt k) s (z.result c rd (nat1 ovf)) := by
  change execSpoutSemSignal dt k s = _
  refine (enter_atCustom_of (i := .spoutSemSignal dt k) (decide_eq_true hk) hc hf).trans (congrArg _ ?_)
  subst hc hi hv
  simp only [hm, hz, Bool.not_true, Bool.false_eq_true, if_false]

/-- sem.try takes what it asks for when the value suffices. -/
theorem does_semTry_of_has (hf : (s.advance dt).fetches c (.custom 4 rd a n) y) (hh : y.semHas c i v = true) :
    Does (.semTry dt k) s ((y.semTake c i v).result c rd 0) := by
  change execSemTry dt k s = _
  refine (enter_atCustom_of (i := .semTry dt k) (decide_eq_true hk) hc hf).trans (congrArg _ ?_)
  subst hc hi hv
  simp only [hm, hh, Bool.not_true, Bool.false_eq_true, if_false, if_true]

/-- sem.try that asks for too much returns 1. -/
theorem does_semTry_of_lacks (hf : (s.advance dt).fetches c (.custom 4 rd a n) y) (hh : y.semHas c i v = false) :
    Does (.semTry dt k) s ((y.nondet (y.coreSlice c) 4).result c rd 1) := by
  change execSemTry dt k s = _
  refine (enter_atCustom_of (i := .semTry dt k) (decide_eq_true hk) hc hf).trans (congrArg _ ?_)
  subst hc hi hv
  simp only [hm, hh, Bool.not_true, Bool.false_eq_true, if_false]

/-- sem.wait takes at once what it asks for when the value suffices and nobody waits before it. -/
theorem does_semWait_of_has (hf : (s.advance dt).fetches c (.custom 3 rd a n) y) (hh : y.semHas c i v = true)
    (hw : y.firstWaiter (coreCtx c) i = none) : Does (.semWait dt k) s (((y.noteRace c).semTake c i v).result c rd 0) := by
  change execSemWait dt k s = _
  refine (enter_atCustom_of (i := .semWait dt k) (decide_eq_true hk) hc hf).trans (congrArg _ ?_)
  subst hc hi hv
  simp only [hm, hh, hw, Bool.not_true, Bool.false_eq_true, if_false, Option.isNone_none, Bool.and_true, if_true]

/-- Otherwise it returns 1 when its deadline has come, and else blocks its core. -/
theorem does_semWait_of_lacks (hf : (s.advance dt).fetches c (.custom 3 rd a n) y)
    (hh : y.semHas c i v = false ∨ (y.firstWaiter (coreCtx c) i).isSome = true) :
    Does (.semWait dt k) s (if y.pastDeadline c then (y.nondet (y.coreSlice c) 4).result c rd 1 else y.block c i v rd) := by
  have hnot : ¬ (y.semHas c i v && (y.firstWaiter (coreCtx c) i).isNone) = true := by
    rw [Bool.and_eq_true, Option.isNone_iff_eq_none]
    rintro ⟨h, hw⟩
    rcases hh with hh | hh
    · rw [h] at hh; cases hh
    · rw [hw] at hh; cases hh
  change execSemWait dt k s = _
  refine (enter_atCustom_of (i := .semWait dt k) (decide_eq_true hk) hc hf).trans (congrArg _ ?_)
  subst hc hi hv
  simp only [hm, hnot, Bool.not_true, Bool.false_eq_true, if_false]

end Semaphore

/-! ### tile.issue (R203) -/

/-- A tile whose descriptor can be read, and whose semaphore its core may name, joins the issue queue unless that is full. -/
theorem does_tileIssue {ups : List Upset} {v d : Nat} {u : State} (h : Ok (.tileIssue dt k ups)) (hc : c = (s.advance dt).ctxCore k)
    (hf : (s.advance dt).fetches c (.custom 5 rd a n) y) (hv : v = (y.core c).xr n)
    (hm : bitAt v 13 = true → (y.upsets ups).semMine c (slice v 8 5) = true)
    (hr : (y.upsets ups).readTile c ((y.core c).xr a) (v % 4) = (u, some d)) :
    Does (.tileIssue dt k ups) s (if 16 ≤ u.issueDepth (coreBasin c) then u.result c rd 1
      else (u.enqueueTile c (8 + v % 4) d (if bitAt v 13 then some (slice v 8 5) else none)).result c rd 0) := by
  change execTileIssue dt k ups s = _
  refine (enter_atCustom_of (i := .tileIssue dt k ups) h hc hf).trans (congrArg _ ?_)
  subst hc hv
  cases hb : bitAt ((y.core ((s.advance dt).ctxCore k)).xr n) 13 with
  | false => simp only [hr, Bool.false_eq_true, if_false]
  | true => simp only [hm hb, hr, if_true, Bool.not_true, Bool.false_eq_true, if_false]

end Custom

end Sys2Proof.Machine
end

section
/-! What the semaphore instructions make of values, registers and memories (R202). -/
namespace Sys2Proof.Machine

/-! ### The registers of a semaphore (Table 9-6) -/

theorem regMask_semValue (i : Nat) : regMask .semValue i = 2 ^ 32 - 1 := regMask_of_unwired rfl (by decide)

theorem semHolder_fits (i : Nat) : Fld.semHolderHolder.fits i := by
  rw [Fld.fits, show Fld.semHolderHolder.reg = .semHolder from rfl, regMask_of_unwired rfl (by decide)]
  decide

/-- A semaphore takes any value of 32 bits. -/
theorem State.reg_setReg_semValue (s : State) (i : Nat) {v : Nat} (h : v < 2 ^ 32) :
    (s.setReg .semValue i v).reg .semValue i = v := by
  rw [State.reg_setReg_same, regMask_semValue, and_full h, Nat.mod_eq_of_lt (by omega)]

/-- In a state in order a semaphore holds no more than 32 bits. -/
theorem State.semValue_lt {s : State} (h : s.inOrder = true) (i : Nat) : s.reg .semValue i < 2 ^ 32 := by
  have hregs : regsOk s.regs = true := by
    simp only [State.inOrder, Bool.and_eq_true] at h
    exact h.1.1.1.1
  rw [← s.reg_masked hregs, regMask_semValue]
  exact Nat.and_lt_two_pow _ (by decide)

/-- Semaphore `i` takes the value `v` and the holder `q`. -/
def State.setSem (s : State) (i v q : Nat) : State := (s.setReg .semValue i v).wr Fld.semHolderHolder i q

theorem State.semValue_setSem_other (s : State) {i j : Nat} (v q : Nat) (h : j ≠ i) :
    (s.setSem i v q).reg .semValue j = s.reg .semValue j := by
  rw [State.setSem, State.reg_wr_name _ _ _ _ _ (by decide), State.reg_setReg_other _ _ fun e => h e.2]

theorem State.semValue_setSem_same (s : State) (i q : Nat) {v : Nat} (h : v < 2 ^ 32) : (s.setSem i v q).reg .semValue i = v := by
  rw [State.setSem, State.reg_wr_name _ _ _ _ _ (by decide), State.reg_setReg_semValue _ _ h]

theorem State.semHolder_setSem (s : State) (i v q : Nat) : (s.setSem i v q).rd Fld.semHolderHolder i = q % 2 ^ 10 :=
  State.rd_wr_same _ _ _ _ (semHolder_fits i)

theorem State.setSem_still (s : State) (i v q : Nat) : Still s (s.setSem i v q) := State.wr_still (still_setReg (Still.rfl' s)) _ _ _

/-! ### Signals -/

theorem State.semAdd_of_fits {s : State} {b i n : Nat} (h : s.reg .semValue (b * 32 + i) + n < 2 ^ 32) :
    s.semAdd b i n = (s.setSem (b * 32 + i) (s.reg .semValue (b * 32 + i) + n) 0, false) := if_neg h.not_ge

theorem State.semAdd_of_overflow {s : State} {b i n : Nat} (h : 2 ^ 32 ≤ s.reg .semValue (b * 32 + i) + n) :
    s.semAdd b i n = (s.info (unitBasin b 5), true) := if_pos h

@[simp] theorem State.info_regs (s : State) (unit : Nat) : (s.info unit).regs = s.regs := s.reportLow_regs unit 0 0 0

/-- An FC_INFO event joins the end of the queue of reports. -/
theorem State.info_reportQ (s : State) (unit : Nat) : ∃ d, (s.info unit).spw.reportQ = s.spw.reportQ ++ [⟨unit, 0, s.now, d⟩] :=
  s.reportLow_reportQ unit 0 0 0

theorem State.reg_info (s : State) (unit : Nat) (n : RegName) (j : Nat) : (s.info unit).reg n j = s.reg n j :=
  s.reg_reportLow unit 0 0 0 n j

/-! ### Acquisitions -/

theorem semIdx_eq (c i : Nat) : semIdx c i = coreBasin c * 32 + i := by rw [semIdx, Nat.mul_comm]

theorem State.semTake_eq (s : State) (c i n : Nat) : ∃ x, s.semTake c i n =
    (s.setBasin (coreBasin c) x).setSem (coreBasin c * 32 + i) (s.reg .semValue (coreBasin c * 32 + i) - n) (c % 512 + 1) := by
  refine ⟨{ s.basin (coreBasin c) with
    semTask := Tbl.set 0 (s.basin (coreBasin c)).semTask i (s.basin (coreCtx c)).lastTask }, ?_⟩
  rw [State.semTake, semIdx_eq, State.reg_setBasin]
  rfl

theorem State.semHas_iff (s : State) (c i n : Nat) : s.semHas c i n = true ↔ n ≤ s.reg .semValue (coreBasin c * 32 + i) := by
  rw [State.semHas, semIdx_eq, decide_eq_true_iff]

theorem State.semValue_semTake_same {s : State} (h : s.inOrder = true) (c i n : Nat) :
    (s.semTake c i n).reg .semValue (coreBasin c * 32 + i) = s.reg .semValue (coreBasin c * 32 + i) - n := by
  have hlt := s.semValue_lt h (coreBasin c * 32 + i)
  obtain ⟨x, hx⟩ := s.semTake_eq c i n
  rw [hx, State.semValue_setSem_same _ _ _ (by omega)]

theorem State.semValue_semTake_other (s : State) {c i j : Nat} (n : Nat) (h : j ≠ coreBasin c * 32 + i) :
    (s.semTake c i n).reg .semValue j = s.reg .semValue j := by
  obtain ⟨x, hx⟩ := s.semTake_eq c i n
  rw [hx, State.semValue_setSem_other _ _ _ h, State.reg_setBasin]

/-- What is charged for an outcome that depends on time leaves every semaphore. -/
theorem State.semValue_nondet (s : State) (sl kind j : Nat) : (s.nondet sl kind).reg .semValue j = s.reg .semValue j := by
  unfold State.nondet State.bump
  split
  · rw [State.reg_setReg_name _ _ _ _ (by decide), State.reg_wr_name _ _ _ _ _ (by decide), State.reg_wr_name _ _ _ _ _ (by decide),
      State.reg_wr_name _ _ _ _ _ (by decide)]
  · rfl

/-! ### The obligation -/

/-- Settles O27: the sum, or the value against the amount, decides which branch a signal or a try takes. -/
theorem semaphoreValues : Obligations.SemaphoreValues := by
  rintro c i v rd a n dt k s x y rfl hk hc hs hi hv hm
  refine ⟨fun hf => ?_, fun hf => ?_⟩
  case refine_1 =>
    rcases Nat.lt_or_ge (y.reg .semValue (coreBasin c * 32 + i) + v) (2 ^ 32) with hfit | hover
    · have hsignal := does_spoutSemSignal hk hc hi hv hm hf (State.semAdd_of_fits hfit)
      refine ⟨_, fun j hj => y.semValue_setSem_other _ 0 hj, fun _ => ⟨hsignal, ?_, ?_, ?_⟩, fun hover => absurd hfit hover.not_gt⟩
      · exact y.semValue_setSem_same _ 0 hfit
      · exact y.semHolder_setSem _ _ 0
      · exact (y.setSem_still _ _ 0).sameMemory
    · have hsignal := does_spoutSemSignal hk hc hi hv hm hf (State.semAdd_of_overflow hover)
      refine ⟨_, fun j _ => y.reg_info _ _ j, fun hfit => absurd hover hfit.not_ge, fun _ => ⟨hsignal, y.info_regs _, ?_, ?_⟩⟩
      · exact (State.info_still (Still.rfl' y) _).sameMemory
      · exact y.info_reportQ _
  case refine_2 =>
    have hy : y.inOrder = true := by
      obtain ⟨-, hadvance⟩ := State.advance_keeps (Keeps.rfl' s) dt
      obtain ⟨-, hfetch⟩ := State.keeps_of_fetches hf
      exact hfetch (hadvance hs)
    rcases Nat.lt_or_ge (y.reg .semValue (coreBasin c * 32 + i)) v with hlacks | hhas
    · have hno : y.semHas c i v = false := Bool.eq_false_iff.2 fun h => absurd hlacks ((y.semHas_iff c i v).1 h).not_gt
      have htry := does_semTry_of_lacks hk hc hi hv hm hf hno
      exact ⟨_, fun j _ => y.semValue_nondet _ _ j, (State.nondet_still (Still.rfl' y) _ _).sameMemory,
        fun hhas => absurd hlacks hhas.not_gt, fun _ => ⟨htry, y.semValue_nondet _ _ _⟩⟩
    · have htry := does_semTry_of_has hk hc hi hv hm hf ((y.semHas_iff c i v).2 hhas)
      exact ⟨_, fun j hj => y.semValue_semTake_other v hj, (State.semTake_still (Still.rfl' y) _ _ _).sameMemory,
        fun _ => ⟨htry, State.semValue_semTake_same hy c i v⟩, fun hlacks => absurd hhas hlacks.not_ge⟩

end Sys2Proof.Machine
end

section
/-! Spout tasks, the instructions of a core, and what resumes it (R188, R194 to R196, R202). -/
namespace Sys2Proof.Machine

/-! ### Tasks (R195, R196) -/

/-- A task whose parameters are in order is queued. -/
theorem does_spoutTask {dt b : Nat} {s : State} {t : Cmd} (hb : b < 64) (ht : (s.advance dt).firstIssue b 0xC = some t)
    (hm : (s.advance dt).mayCheck t.slice b = true ∨ (s.advance dt).fencedBasin b = true)
    (hk : (s.advance dt).taskCheckStatus t = stOk) :
    Does (.spoutTask dt b) s ((s.advance dt).modCmd t.id fun k => { k with phase := .queued }) := by
  have hready : ((s.advance dt).mayCheck t.slice b || (s.advance dt).fencedBasin b) = true := Bool.or_eq_true_iff.2 hm
  change execSpoutTask dt b s = _
  rw [execSpoutTask, enter_of_wellFormed (show Ok (.spoutTask dt b) from decide_eq_true hb), ht, State.forSome_some,
    State.whenever_of hready, if_pos hk]

/-- A task whose cores get their weight begins in the context of its basin. -/
theorem State.taskStart_of_granted {s y : State} {t : Cmd}
    (h : s.takeStart (320 + t.target) ((List.range 8).filter fun k => bitAt (t.par 64 8) k).length = (y, true)) :
    s.taskStart t = (y.startRunning t.id).beginTask ((y.startRunning t.id).ctx t.target)
      { cmd := t.id, radioOp := none, slice := t.slice, live := 0, start := (y.startRunning t.id).now, held := false,
        watchdog := if t.par 160 32 = 0 then 0 else (y.startRunning t.id).now + 1024 * t.par 160 32, addrFault := false, trap := false,
        timeout := false, exitNz := false, poison := false, cyc := 0 } t.params := by
  rw [State.taskStart, h]
  rfl

/-- The first queued task that may start starts when no task holds its context. -/
theorem does_spoutTaskStart {dt b : Nat} {s : State} {t : Cmd} (hb : b < 64)
    (ht : (s.advance dt).cmds.find? (fun c => c.target == b && c.opcode == 0xC && c.phase == .queued &&
      (s.advance dt).mayStart c.slice b) = some t) (hfree : ((s.advance dt).basin ((s.advance dt).ctx b)).task = none) :
    Does (.spoutTaskStart dt b) s ((s.advance dt).taskStart t) := by
  have hready : ((s.advance dt).basin ((s.advance dt).ctx b)).task.isNone = true := Option.isNone_iff_eq_none.2 hfree
  change execSpoutTaskStart dt b s = _
  rw [execSpoutTaskStart, enter_of_wellFormed (show Ok (.spoutTaskStart dt b) from decide_eq_true hb), ht, State.forSome_some,
    State.whenever_of hready]

/-- A watchdog that is due fires while a core of its task runs. -/
theorem does_spoutWatchdog {dt b : Nat} {s : State} {t : Task} (hb : b < 64)
    (ht : ((s.advance dt).basin ((s.advance dt).ctx b)).task = some t) (hset : t.watchdog ≠ 0) (hdue : t.watchdog ≤ (s.advance dt).now)
    (hlive : t.live ≠ 0) (hruns : (s.advance dt).ctxRuns ((s.advance dt).ctx b) = true) :
    Does (.spoutWatchdog dt b) s ((s.advance dt).watchdog ((s.advance dt).ctx b) t) := by
  have hready : (t.watchdog != 0 && decide (t.watchdog ≤ (s.advance dt).now) && t.live != 0 &&
      (s.advance dt).ctxRuns ((s.advance dt).ctx b)) = true := by simp [hset, hdue, hlive, hruns]
  change execSpoutWatchdog dt b s = _
  rw [execSpoutWatchdog, enter_of_wellFormed (show Ok (.spoutWatchdog dt b) from decide_eq_true hb)]
  dsimp only
  rw [ht, State.forSome_some, State.whenever_of hready]

/-! ### Instructions (R188) -/

/-- A core executes the instruction that it fetches. -/
theorem State.coreStep_of_word {y z : State} {c w len : Nat} (h : y.fetchInstr c false = (z, .word w len)) :
    y.coreStep c 0 = z.runOp c w len false (z.opOf c w) := by
  unfold State.coreStep
  rw [show ((0 : Nat) == 1) = false from rfl, h]
  rfl

/-- A core that runs, with no instruction of Table 9-5 and no ecall at its pc, executes one instruction. -/
theorem does_spoutInstruction {dt k c : Nat} {ups : List Upset} {s : State} (h : Ok (.spoutInstruction dt k ups 0))
    (hc : c = (s.advance dt).ctxCore k) (hr : (s.advance dt).coreRuns c = true) (ho : (s.advance dt).ownRow c = false) :
    Does (.spoutInstruction dt k ups 0) s
      ((((s.advance dt).upsets ups).coreStep c 0).notePoison c 0 ((s.advance dt).upsets ups)) := by
  have hready : ((s.advance dt).coreRuns c && ((0 : Nat) == 1 || !(s.advance dt).ownRow c)) = true := by rw [hr, ho]; rfl
  change execSpoutInstruction dt k ups 0 s = _
  rw [execSpoutInstruction, enter_of_wellFormed h]
  dsimp only
  rw [← hc, State.whenever_of hready]

/-- ecall ends its core, with the exit state that a0 tells. -/
theorem does_spoutEcall {dt k c cyc : Nat} {s y : State} (hk : k < 512) (hc : c = (s.advance dt).ctxCore k)
    (hf : (s.advance dt).fetches c .ecall y) : Does (.spoutEcall dt k cyc) s
      (((y.wr Fld.coreStatusTrapped c 0).wr Fld.coreStatusExitNonzero c (nat1 ((y.core c).xr 10 != 0))).coreEnd c cyc
        fun t => { t with exitNz := t.exitNz || (y.core c).xr 10 != 0 }) := by
  change execSpoutEcall dt k cyc s = _
  rw [execSpoutEcall, enter_of_wellFormed (show Ok (.spoutEcall dt k cyc) from decide_eq_true hk)]
  dsimp only
  rw [← hc, State.atOwn_of_fetches hf rfl]

/-! ### What resumes a core -/

/-- A stalled claim resumes once the lease table grants it (R198). -/
theorem does_wcClaimResume {dt k c rd v : Nat} {s z : State} (hk : k < 512) (hc : c = (s.advance dt).ctxCore k)
    (hw : ((s.advance dt).core c).claiming = some rd) (hr : (s.advance dt).ctxRuns (coreCtx c) = true)
    (hz : (s.advance dt).claim c = some (z, v)) :
    Does (.wcClaimResume dt k) s ((z.modCore c fun x => { x with claiming := none }).result c rd v) := by
  change execWcClaimResume dt k s = _
  rw [execWcClaimResume, enter_of_wellFormed (show Ok (.wcClaimResume dt k) from decide_eq_true hk)]
  dsimp only
  rw [← hc, hw, State.forSome_some, State.whenever_of hr, hz, State.forSome_some]

/-- The first waiter of a semaphore acquires when the value suffices (R202). -/
theorem does_semWaitAcquire {dt b i q d : Nat} {s : State} {w : Nat × Nat × Nat} (h : Ok (.semWaitAcquire dt b i))
    (hq : q = (s.advance dt).semCtx b i) (hd : (s.advance dt).firstWaiter q i = some d)
    (hw : ((s.advance dt).core d).waiting = some w) (hr : (s.advance dt).ctxRuns q = true)
    (hh : (s.advance dt).semHas d i w.2.1 = true) : Does (.semWaitAcquire dt b i) s
      (((((s.advance dt).noteRace d).semTake d i w.2.1).unblock d).result d w.2.2 0) := by
  have hready : ((s.advance dt).ctxRuns q && (s.advance dt).semHas d i w.2.1) = true := by rw [hr, hh]; rfl
  change execSemWaitAcquire dt b i s = _
  rw [execSemWaitAcquire, enter_of_wellFormed h]
  dsimp only
  rw [← hq, hd, State.forSome_some, hw, State.forSome_some, State.whenever_of hready]

/-- A waiter whose deadline has come, and that does not acquire on this edge, returns 1 (R202, R215). -/
theorem does_semWaitDeadline {dt k c : Nat} {s : State} {w : Nat × Nat × Nat} (hk : k < 512) (hc : c = (s.advance dt).ctxCore k)
    (hw : ((s.advance dt).core c).waiting = some w) (hr : (s.advance dt).ctxRuns (coreCtx c) = true)
    (hp : (s.advance dt).pastDeadline c = true)
    (hlose : (s.advance dt).firstWaiter (coreCtx c) w.1 ≠ some c ∨ (s.advance dt).semHas c w.1 w.2.1 = false) :
    Does (.semWaitDeadline dt k) s
      ((((s.advance dt).unblock c).nondet ((s.advance dt).coreSlice c) 4).result c w.2.2 1) := by
  have hloses : ((s.advance dt).firstWaiter (coreCtx c) w.1 == some c && (s.advance dt).semHas c w.1 w.2.1) = false := by
    rcases hlose with hlose | hlose
    · rw [beq_false_of_ne hlose, Bool.false_and]
    · rw [hlose, Bool.and_false]
  have hready : ((s.advance dt).ctxRuns (coreCtx c) && (s.advance dt).pastDeadline c &&
      !((s.advance dt).firstWaiter (coreCtx c) w.1 == some c && (s.advance dt).semHas c w.1 w.2.1)) = true := by
    rw [hr, hp, hloses]; rfl
  change execSemWaitDeadline dt k s = _
  rw [execSemWaitDeadline, enter_of_wellFormed (show Ok (.semWaitDeadline dt k) from decide_eq_true hk)]
  dsimp only
  rw [← hc, hw, State.forSome_some, State.whenever_of hready]

/-- The oldest answered access of a core returns (R194). -/
theorem does_spoutAccessReturn {dt k q : Nat} {s : State} {a : CoreAcc} (hk : k < 512)
    (h : (s.advance dt).answeredCore k = some (q, a)) : Does (.spoutAccessReturn dt k) s ((s.advance dt).accessReturn q a) :=
  enter_forSome_of (c := .spoutAccessReturn dt k) (o := fun x => x.answeredCore k) (k := fun x r => x.accessReturn r.1 r.2)
    (decide_eq_true hk) h

/-! ### The obligation -/

/-- Settles O26: each row finds its task, its waiter or its instruction, and its conditions select the branch that acts. -/
theorem spoutCommandsComplete : Obligations.SpoutCommandsComplete := by
  rintro dt k c s x rfl hk hc
  refine ⟨fun b t hb => does_spoutTask hb, fun b t y hb ht hfree hy => ?_, fun b t hb => does_spoutWatchdog hb,
    fun ups y z w len h hr ho hy hf => ?_, fun cyc y => does_spoutEcall hk hc,
    fun rd a n y hf => ⟨fun z v => does_wcClaim_granted hk hc hf, does_wcClaim_stalled hk hc hf⟩,
    fun rd z v => does_wcClaimResume hk hc, fun rd a n y z ok => does_wcDone hk hc,
    fun rd a n y z ovf hf hm => does_spoutSemSignal hk hc rfl rfl hm hf,
    fun rd a n y i v hf hi hv hm => ⟨does_semTry_of_has hk hc hi hv hm hf, does_semTry_of_lacks hk hc hi hv hm hf⟩,
    fun rd a n y i v hf hi hv hm => ⟨does_semWait_of_has hk hc hi hv hm hf, fun hh => ?_⟩,
    fun b i q d w => does_semWaitAcquire, fun w => does_semWaitDeadline hk hc,
    fun rd a n y z u d v ups h hf hz hv hm hr => ?_, fun q a => does_spoutAccessReturn hk⟩
  case refine_1 =>
    rw [← State.taskStart_of_granted hy]
    exact does_spoutTaskStart hb ht hfree
  case refine_2 =>
    subst hy
    have hrun := does_spoutInstruction h hc hr ho
    rw [State.coreStep_of_word hf] at hrun
    exact ⟨fun rd v fl hop => by rwa [hop] at hrun, hrun⟩
  case refine_3 =>
    have hwait := does_semWait_of_lacks hk hc hi hv hm hf hh
    exact ⟨fun hp => by rwa [if_pos hp] at hwait, fun hp => by rwa [if_neg (Bool.eq_false_iff.1 hp)] at hwait⟩
  case refine_4 =>
    subst hz
    have hissue := does_tileIssue h hc hf hv hm hr
    exact ⟨fun hroom => by rwa [if_neg hroom.not_ge] at hissue, fun hfull => by rwa [if_pos hfull] at hissue⟩

end Sys2Proof.Machine
end

section
/-! The registers of a ring (R208, R211, R229): CQ_TAIL, RING_CTRL and RING_CMD. -/
namespace Sys2Proof.Machine

/-! ### Fields -/

/-- A field of its register's table, when no rule wires the register to zero. -/
theorem Fld.fits_of_unwired {f : Fld} {i : Nat} (hs : noSched f.reg i = false) (hv : f.reg ≠ .sliceViolMask)
    (hw : f.lo + f.width ≤ 64) (hm : slice f.reg.mask f.lo f.width = 2 ^ f.width - 1) : f.fits i := by
  refine ⟨hw, ?_⟩
  rw [regMask_of_unwired hs hv, hm]

theorem ringEnable_fits (r : Nat) : Fld.ringCtrlEnable.fits r := Fld.fits_of_unwired rfl (by decide) (by decide) (by decide)
theorem haltOnError_fits (r : Nat) : Fld.ringCtrlHaltOnError.fits r := Fld.fits_of_unwired rfl (by decide) (by decide) (by decide)
theorem ringTier_fits (r : Nat) : Fld.ringCtrlTier.fits r := Fld.fits_of_unwired rfl (by decide) (by decide) (by decide)
theorem halted_fits (r : Nat) : Fld.ringStatusHalted.fits r := Fld.fits_of_unwired rfl (by decide) (by decide) (by decide)
theorem sqHead_fits (r : Nat) : Fld.sqHeadHead.fits r := Fld.fits_of_unwired rfl (by decide) (by decide) (by decide)
theorem sqTail_fits (r : Nat) : Fld.sqTailTail.fits r := Fld.fits_of_unwired rfl (by decide) (by decide) (by decide)
theorem cqHead_fits (r : Nat) : Fld.cqHeadHead.fits r := Fld.fits_of_unwired rfl (by decide) (by decide) (by decide)
theorem cqTail_fits (r : Nat) : Fld.cqTailTail.fits r := Fld.fits_of_unwired rfl (by decide) (by decide) (by decide)

/-- A field of another register keeps its value, whatever its number. -/
theorem State.rd_wr_name (s : State) (f g : Fld) (i j v : Nat) (h : g.reg ≠ f.reg) : (s.wr f i v).rd g j = s.rd g j :=
  s.rd_wr_reg f g i j v fun e => h e.1

theorem State.rd_setReg_name (s : State) (n : RegName) (g : Fld) (i j v : Nat) (h : g.reg ≠ n) :
    (s.setReg n i v).rd g j = s.rd g j := by
  rw [State.rd, State.reg_setReg_name _ _ _ _ h, State.rd]

theorem State.on_info (s : State) (unit : Nat) (g : Fld) (j : Nat) : (s.info unit).on g j = s.on g j := s.on_reportLow unit 0 0 0 g j

/-- A field that is zeroed reads zero. -/
theorem State.rd_wr_zero (s : State) {f : Fld} {i : Nat} (h : f.fits i) : (s.wr f i 0).rd f i = 0 := by
  rw [State.rd_wr_same s f i 0 h, Nat.zero_mod]

/-! ### CQ_TAIL (R208) -/

theorem does_cqTailWrite {dt r v : Nat} {s : State} (h : Ok (.cqTailWrite dt r v)) :
    Does (.cqTailWrite dt r v) s ((s.advance dt).cqTailWrite r v) :=
  enter_of_wellFormed (k := fun x => x.cqTailWrite r v) h

theorem State.cqTailWrite_of_lt {s : State} {r v : Nat} (h : v % 2 ^ 32 < s.cqEntries r) :
    s.cqTailWrite r v = ((s.wr Fld.cqTailTail r v).flushHeld (s.ring r).held.length r).showStall r := if_neg h.not_ge

theorem State.cqTailWrite_of_ge {s : State} {r v : Nat} (h : s.cqEntries r ≤ v % 2 ^ 32) :
    s.cqTailWrite r v = s.info (unitHub 0) := if_pos h

/-! ### RING_CTRL (R229) -/

/-- What a write of RING_CTRL stores beside `enable`: halt_on_error and the tier, which is a tenant's effective tier at once. -/
def State.ringOptions (s : State) (r v : Nat) : State :=
  let s := (s.wr Fld.ringCtrlHaltOnError r (v / 2)).wr Fld.ringCtrlTier r (v / 4)
  if 8 ≤ r ∧ r < 1024 then s.setReg .schedEffTier (r / 8) (putBits (s.reg .schedEffTier (r / 8)) (3 * (r % 8)) 3 (v / 4)) else s

/-- The options stand in RING_CTRL, and the effective tier in a register of its own. -/
theorem State.reg_ringOptions (s : State) (r v : Nat) {n : RegName} (j : Nat) (hc : n ≠ .ringCtrl) (ht : n ≠ .schedEffTier) :
    (s.ringOptions r v).reg n j = s.reg n j := by
  have hwr : ((s.wr Fld.ringCtrlHaltOnError r (v / 2)).wr Fld.ringCtrlTier r (v / 4)).reg n j = s.reg n j := by
    rw [State.reg_wr_name _ _ _ _ _ hc, State.reg_wr_name _ _ _ _ _ hc]
  unfold State.ringOptions
  split
  · rw [State.reg_setReg_name _ _ _ _ ht, hwr]
  · exact hwr

theorem State.rd_ringOptions (s : State) (r v : Nat) {g : Fld} (j : Nat) (hc : g.reg ≠ .ringCtrl) (ht : g.reg ≠ .schedEffTier) :
    (s.ringOptions r v).rd g j = s.rd g j := by
  rw [State.rd, State.reg_ringOptions _ _ _ _ hc ht, State.rd]

/-- RING_CTRL holds what is written to halt_on_error and the tier. -/
theorem State.rd_ringOptions_ctrl (s : State) (r v : Nat) {g : Fld} (hg : g.reg = .ringCtrl) :
    (s.ringOptions r v).rd g r = ((s.wr Fld.ringCtrlHaltOnError r (v / 2)).wr Fld.ringCtrlTier r (v / 4)).rd g r := by
  have hne : g.reg ≠ .schedEffTier := by rw [hg]; decide
  unfold State.ringOptions
  split
  · exact State.rd_setReg_name _ _ _ _ _ _ hne
  · rfl

theorem State.ringOptions_tier (s : State) (r v : Nat) : (s.ringOptions r v).rd Fld.ringCtrlTier r = v / 4 % 8 := by
  rw [s.rd_ringOptions_ctrl r v rfl]
  exact State.rd_wr_same _ _ _ _ (ringTier_fits r)

theorem State.ringOptions_haltOnError (s : State) (r v : Nat) : (s.ringOptions r v).rd Fld.ringCtrlHaltOnError r = v / 2 % 2 := by
  rw [s.rd_ringOptions_ctrl r v rfl, State.rd_wr_field _ Fld.ringCtrlTier Fld.ringCtrlHaltOnError _ _ rfl (haltOnError_fits r) (by decide)]
  exact State.rd_wr_same _ _ _ _ (haltOnError_fits r)

theorem State.ringOptions_enable (s : State) (r v : Nat) : (s.ringOptions r v).on Fld.ringCtrlEnable r = s.on Fld.ringCtrlEnable r := by
  rw [State.on, s.rd_ringOptions_ctrl r v rfl, State.rd_wr_field _ Fld.ringCtrlTier Fld.ringCtrlEnable _ _ rfl (ringEnable_fits r) (by decide),
    State.rd_wr_field _ Fld.ringCtrlHaltOnError Fld.ringCtrlEnable _ _ rfl (ringEnable_fits r) (by decide), State.on]

theorem State.ringOptions_canEnable (s : State) (r v : Nat) : (s.ringOptions r v).ringCanEnable r = s.ringCanEnable r := by
  simp (disch := decide) only [State.ringCanEnable, State.sliceActive, State.sliceState, State.rd_ringOptions]

theorem State.ringOptions_rings (s : State) (r v : Nat) : (s.ringOptions r v).rings = s.rings := by
  unfold State.ringOptions
  split <;> rfl

/-- The options leave whether the ring is enabled, and whether it may be: both can be asked before the write. -/
theorem State.ringCtrlWrite_eq (s : State) (r v : Nat) : s.ringCtrlWrite r v =
    if v % 2 = 0 then (s.ringOptions r v).wr Fld.ringCtrlEnable r 0
    else if s.on Fld.ringCtrlEnable r then s.ringOptions r v
    else if s.ringCanEnable r then (s.ringOptions r v).ringFresh r else (s.ringOptions r v).info (unitHub 0) := by
  rw [← s.ringOptions_enable r v, ← s.ringOptions_canEnable r v]
  rfl

theorem State.ringCtrlWrite_of_clear {s : State} {r v : Nat} (hv : v % 2 = 0) :
    s.ringCtrlWrite r v = (s.ringOptions r v).wr Fld.ringCtrlEnable r 0 := by
  rw [State.ringCtrlWrite_eq, if_pos hv]

theorem State.ringCtrlWrite_of_fresh {s : State} {r v : Nat} (hv : v % 2 = 1) (hoff : s.on Fld.ringCtrlEnable r = false)
    (hcan : s.ringCanEnable r = true) : s.ringCtrlWrite r v = (s.ringOptions r v).ringFresh r := by
  simp [State.ringCtrlWrite_eq, hv, hoff, hcan]

theorem State.ringCtrlWrite_of_refused {s : State} {r v : Nat} (hv : v % 2 = 1) (hoff : s.on Fld.ringCtrlEnable r = false)
    (hcan : s.ringCanEnable r = false) : s.ringCtrlWrite r v = (s.ringOptions r v).info (unitHub 0) := by
  simp [State.ringCtrlWrite_eq, hv, hoff, hcan]

theorem does_ringEnable {dt r v : Nat} {s : State} (h : Ok (.ringEnable dt r v)) :
    Does (.ringEnable dt r v) s ((s.advance dt).ringCtrlWrite r v) :=
  enter_of_wellFormed (k := fun x => x.ringCtrlWrite r v) h

/-! ### A ring that starts fresh -/

theorem State.ringFresh_enable (s : State) (r : Nat) : (s.ringFresh r).on Fld.ringCtrlEnable r = true := by
  simp only [State.ringFresh, State.on_setRing]
  exact State.on_wr_one _ (ringEnable_fits r) rfl

/-- The other fields of RING_CTRL stay. -/
theorem State.rd_ringFresh_ctrl (s : State) (r : Nat) {g : Fld} (hg : g.reg = .ringCtrl) (hf : g.fits r) (hlo : 1 ≤ g.lo) :
    (s.ringFresh r).rd g r = s.rd g r := by
  have hne : ∀ f : Fld, f.reg ≠ .ringCtrl → g.reg ≠ f.reg := fun f hreg => by rw [hg]; exact hreg.symm
  simp only [State.ringFresh, State.rd_setRing]
  rw [State.rd_wr_field _ Fld.ringCtrlEnable g _ _ hg hf (.inr hlo)]
  simp (disch := exact hne _ (by decide)) only [State.rd_wr_name]

theorem State.ringFresh_pointers (s : State) (r : Nat) :
    (s.ringFresh r).rd Fld.sqHeadHead r = 0 ∧ (s.ringFresh r).rd Fld.sqTailTail r = 0 ∧
    (s.ringFresh r).rd Fld.cqHeadHead r = 0 ∧ (s.ringFresh r).rd Fld.cqTailTail r = 0 := by
  simp (disch := decide) only [State.ringFresh, State.rd_setRing, State.rd_wr_name]
  exact ⟨State.rd_wr_zero _ (sqHead_fits r), State.rd_wr_zero _ (sqTail_fits r), State.rd_wr_zero _ (cqHead_fits r),
    State.rd_wr_zero _ (cqTail_fits r)⟩

theorem State.ringFresh_halted (s : State) (r : Nat) : (s.ringFresh r).on Fld.ringStatusHalted r = false := by
  simp (disch := decide) only [State.ringFresh, State.rd_setRing, State.on, State.rd_wr_name]
  rw [State.rd_wr_field _ Fld.ringStatusCqStalled Fld.ringStatusHalted _ _ rfl (halted_fits r) (by decide),
    State.rd_wr_field _ Fld.ringStatusHaltCode Fld.ringStatusHalted _ _ rfl (halted_fits r) (by decide), State.rd_wr_zero _ (halted_fits r)]
  rfl

theorem State.ringFresh_ring (s : State) (r : Nat) :
    (s.ringFresh r).ring r = { s.ring r with readPtr := 0, stampQ := [], failedLen := none, lost := [] } := by
  simp only [State.ringFresh, State.ring_setRing_same, State.ring_wr]

/-! ### RING_CMD (R211) -/

theorem does_ringResume {dt r v : Nat} {s : State} (h : Ok (.ringResume dt r v)) :
    Does (.ringResume dt r v) s ((s.advance dt).ringResume r v) :=
  enter_of_wellFormed (k := fun x => x.ringResume r v) h

/-- Skipping a failing packet leaves RING_STATUS. -/
theorem State.skipFailed_halted (s : State) (r n : Nat) :
    (s.skipFailed r n).on Fld.ringStatusHalted r = s.on Fld.ringStatusHalted r := by
  simp (disch := decide) only [State.skipFailed, State.rd_setRing, State.on, State.rd_wr_name]

/-- The ring reads on from SQ_HEAD. -/
def State.readAgain (s : State) (r : Nat) : State := s.setRing r { s.ring r with readPtr := s.rd Fld.sqHeadHead r, stampQ := [] }

/-- A ring that is no longer halted goes on by what it knows of the failing packet at SQ_HEAD. -/
def State.goOn (s : State) (r : Nat) : State :=
  match (s.ring r).failedLen with
  | none => s
  | some 0 => s.readAgain r
  | some (n + 1) => s.skipFailed r (n + 1)

theorem State.goOn_halted (s : State) (r : Nat) : (s.goOn r).on Fld.ringStatusHalted r = s.on Fld.ringStatusHalted r := by
  unfold State.goOn
  split
  · rfl
  · exact s.on_setRing ..
  · exact s.skipFailed_halted ..

theorem State.goOn_of_none {s : State} {r : Nat} (h : (s.ring r).failedLen = none) : s.goOn r = s := by
  rw [State.goOn, h]

theorem State.goOn_of_unread {s : State} {r : Nat} (h : (s.ring r).failedLen = some 0) : s.goOn r = s.readAgain r := by
  rw [State.goOn, h]

theorem State.goOn_of_failed {s : State} {r n : Nat} (h : (s.ring r).failedLen = some (n + 1)) : s.goOn r = s.skipFailed r (n + 1) := by
  rw [State.goOn, h]

/-- A halted ring of a slice that is neither freezing nor frozen goes on. -/
theorem State.ringResume_of_halted {s : State} {r v : Nat} (hv : v % 2 = 1) (hh : s.on Fld.ringStatusHalted r = true)
    (hfreezing : s.sliceState (ringSlice r) ≠ 2) (hfrozen : s.sliceState (ringSlice r) ≠ 3) :
    s.ringResume r v = (s.wr Fld.ringStatusHalted r 0).goOn r := by
  have hready : (v % 2 = 0 || !s.on Fld.ringStatusHalted r || s.sliceState (ringSlice r) == 2 || s.sliceState (ringSlice r) == 3) = false := by
    simp [hv, hh, hfreezing, hfrozen]
  simp only [State.ringResume, hready, Bool.false_eq_true, if_false, State.goOn, State.readAgain, State.ring_wr]
  rcases (s.ring r).failedLen with _ | _ | n <;> rfl

/-! ### The obligation -/

/-- Settles O30: RING_CTRL takes its options first, which leave what `enable` depends on and the pointers; a ring that is enabled
starts fresh. A resume clears `halted` and goes on by what the ring knows of its failing packet. -/
theorem ringRegisters : Obligations.RingRegisters := by
  rintro dt r v s x rfl -
  refine ⟨fun h hlt => ?_, fun h hge => ?_, fun h hv hoff hcan => ?_, fun h hv hoff hcan => ?_, fun h hv => ?_,
    fun h hv hh hfreezing hfrozen => ?_⟩
  case refine_1 =>
    refine ⟨_, _, rfl, ?_, rfl⟩
    have ht := does_cqTailWrite (s := s) h
    rwa [State.cqTailWrite_of_lt hlt] at ht
  case refine_2 =>
    have ht := does_cqTailWrite (s := s) h
    rwa [State.cqTailWrite_of_ge hge] at ht
  case refine_3 =>
    have ht := does_ringEnable (s := s) h
    rw [State.ringCtrlWrite_of_fresh hv hoff hcan] at ht
    obtain ⟨hsqHead, hsqTail, hcqHead, hcqTail⟩ := ((s.advance dt).ringOptions r v).ringFresh_pointers r
    refine ⟨_, ht, State.ringFresh_enable .., ?_, ?_, hsqHead, hsqTail, hcqHead, hcqTail, State.ringFresh_halted .., ?_, ?_,
      (exec_still rfl ht).sameMemory⟩
    · rw [State.rd_ringFresh_ctrl _ _ rfl (ringTier_fits r) (by decide), State.ringOptions_tier]
    · rw [State.rd_ringFresh_ctrl _ _ rfl (haltOnError_fits r) (by decide), State.ringOptions_haltOnError]
    all_goals rw [State.ringFresh_ring]
  case refine_4 =>
    have ht := does_ringEnable (s := s) h
    rw [State.ringCtrlWrite_of_refused hv hoff hcan] at ht
    exact ⟨_, ht, by rw [State.on_info, State.ringOptions_enable, hoff]⟩
  case refine_5 =>
    have ht := does_ringEnable (s := s) h
    rw [State.ringCtrlWrite_of_clear hv] at ht
    have hreg : ∀ {n : RegName}, n ≠ .ringCtrl → n ≠ .schedEffTier →
        (((s.advance dt).ringOptions r v).wr Fld.ringCtrlEnable r 0).reg n r = s.reg n r := fun hc he => by
      rw [State.reg_wr_name _ _ _ _ _ hc, State.reg_ringOptions _ _ _ _ hc he, State.reg_advance]
    refine ⟨_, ht, State.on_wr_zero _ (ringEnable_fits r), hreg (by decide) (by decide), hreg (by decide) (by decide),
      hreg (by decide) (by decide), hreg (by decide) (by decide), ?_, (exec_still rfl ht).sameMemory⟩
    rw [State.wr_rings, State.ringOptions_rings, State.advance_rings]
  case refine_6 =>
    have ht := does_ringResume (s := s) h
    rw [State.ringResume_of_halted hv hh hfreezing hfrozen] at ht
    have hring := (s.advance dt).ring_wr Fld.ringStatusHalted r 0 r
    rw [← hring]
    refine ⟨_, ht, ?_, State.goOn_of_none, fun n => State.goOn_of_failed, fun hf => ?_, (exec_still rfl ht).sameMemory⟩
    · rw [State.goOn_halted, State.on_wr_zero _ (halted_fits r)]
    · rw [State.goOn_of_unread hf, State.readAgain, State.ring_setRing_same, State.rd_wr_name _ _ _ _ _ _ (by decide)]

end Sys2Proof.Machine
end

section
/-! Doorbells, the reading of packets and their dispatch (R207, R210, R212, R233). -/
namespace Sys2Proof.Machine

/-! ### Doorbells (R207, R233) -/

/-- A value below the size of an enabled ring is its new tail. -/
theorem State.ringBell_of_lt {s : State} {r v : Nat} (he : s.on Fld.ringCtrlEnable r = true)
    (hv : v % 2 ^ 32 < 2 ^ s.rd Fld.sqSizeLog2Slots r) : s.ringBell r v = s.wr Fld.sqTailTail r v := by
  have hready : (decide (v % 2 ^ 32 < 2 ^ s.rd Fld.sqSizeLog2Slots r) && s.on Fld.ringCtrlEnable r) = true := by
    rw [he, Bool.and_true, decide_eq_true hv]
  exact if_pos hready

/-- A doorbell of a page's own active slice, at the offset of one of its rings, reaches the ring. -/
theorem State.doorbell_of_own {s : State} {page off v : Nat} {pasid : Option Nat} (hpage : page < 128) (hoff : off % 0x100 = 0)
    (hq : off / 0x100 < 8) (hown : pasid.bind s.pasidSlice = some page) (ha : s.sliceActive page = true)
    (hf : page = 0 ∨ s.inferFenced = false) : s.doorbell page off pasid v = s.ringBell (8 * page + off / 0x100) v := by
  have hheard : (s.inferFenced && decide (1 ≤ page)) = false := by
    rcases hf with rfl | hf
    · exact Bool.and_false _
    · rw [hf, Bool.false_and]
  simp [State.doorbell, hpage.ne, hown, hheard, ha, hoff, hq]

theorem does_doorbell {dt page off v : Nat} {pasid : Option Nat} {s : State} (h : Ok (.doorbell dt page off pasid v)) :
    Does (.doorbell dt page off pasid v) s ((s.advance dt).doorbell page off pasid v) :=
  enter_of_wellFormed (k := fun x => x.doorbell page off pasid v) h

/-! ### The marker -/

/-- Marking a packet changes the slice's buckets only. -/
theorem State.rd_mark (s : State) (sl B : Nat) (yellow : Bool) {g : Fld} (j : Nat) (hp : g.reg ≠ .schedTp) (hc : g.reg ≠ .schedTc) :
    (s.mark sl B yellow).2.rd g j = s.rd g j := by
  simp only [State.mark]
  split
  · rfl
  · split
    · exact State.rd_wr_name _ _ _ _ _ _ hp
    · exact (State.rd_wr_name _ _ _ _ _ _ hc).trans (State.rd_wr_name _ _ _ _ _ _ hp)

theorem State.sqSlots_stampPacket (s : State) (sl k B r : Nat) : (s.stampPacket sl k B).2.sqSlots r = s.sqSlots r := by
  simp only [State.stampPacket, State.sqSlots, State.rd_setSliceSt]

theorem State.sqSlots_bump (s : State) (f : Fld) (i r : Nat) (h : Fld.sqSizeLog2Slots.reg ≠ f.reg) :
    (s.bump f i).sqSlots r = s.sqSlots r := by
  rw [State.sqSlots, State.bump, State.rd_wr_name _ _ _ _ _ _ h, State.sqSlots]

/-- A tenant's packet is coloured by its slice's marker; without one it is green. -/
def State.colourPacket (s : State) (r : Nat) (p : Packet) : Nat × State :=
  let sl := ringSlice r
  if s.on Fld.schedMarkEnable sl then s.mark sl p.cost (bitAt (s.rd Fld.schedMarkRingYellow sl) (r % 8)) else (2, s)

/-- A packet that is coloured leaves the marker with a stamp, or stays before it red. -/
def State.leaveMarker (s : State) (r colour : Nat) (p : Packet) : Packet × State :=
  let sl := ringSlice r
  if colour = 0 then ({ p with red := true }, if p.red then s else s.bump Fld.schedRedRed sl)
  else
    let s := if colour = 2 then s.bump Fld.schedGreenGreen sl else s.bump Fld.schedYellowYellow sl
    let y := s.stampPacket sl (s.ringTier r) p.cost
    ({ p with marked := true, green := colour == 2, stamp := y.1 }, y.2)

theorem State.passMarker_eq (s : State) (r : Nat) (p : Packet) : s.passMarker r p =
    if ringSlice r = 0 ∨ ringSlice r = 128 then ({ p with marked := true, green := true }, s)
    else (s.colourPacket r p).2.leaveMarker r (s.colourPacket r p).1 p := rfl

theorem State.sqSlots_colourPacket (s : State) (r k : Nat) (p : Packet) : (s.colourPacket r p).2.sqSlots k = s.sqSlots k := by
  unfold State.colourPacket
  dsimp only
  split
  · rw [State.sqSlots, State.rd_mark _ _ _ _ _ (by decide) (by decide), State.sqSlots]
  · rfl

theorem State.sqSlots_leaveMarker (s : State) (r k colour : Nat) (p : Packet) : (s.leaveMarker r colour p).2.sqSlots k = s.sqSlots k := by
  have hbump : ∀ f : Fld, Fld.sqSizeLog2Slots.reg ≠ f.reg → (s.bump f (ringSlice r)).sqSlots k = s.sqSlots k :=
    fun f hf => s.sqSlots_bump f _ k hf
  unfold State.leaveMarker
  split
  · dsimp only
    split
    · rfl
    · exact hbump _ (by decide)
  · refine (State.sqSlots_stampPacket ..).trans ?_
    split
    · exact hbump _ (by decide)
    · exact hbump _ (by decide)

/-- The marker leaves the sizes of the rings. -/
theorem State.sqSlots_passMarker (s : State) (r k : Nat) (p : Packet) : (s.passMarker r p).2.sqSlots k = s.sqSlots k := by
  rw [State.passMarker_eq]
  split
  · rfl
  · exact (State.sqSlots_leaveMarker ..).trans (s.sqSlots_colourPacket ..)

/-- What stood in the ring, and where, is the same of both packets. -/
structure Packet.SameSlots (p q : Packet) : Prop where
  header : q.header = p.header
  params : q.params = p.params
  slot : q.slot = p.slot
  len : q.len = p.len

theorem State.leaveMarker_of_red (s : State) (r : Nat) (p : Packet) : (s.leaveMarker r 0 p).1 = { p with red := true } := rfl

theorem State.leaveMarker_of_colour (s : State) (r : Nat) (p : Packet) {colour : Nat} (h : colour ≠ 0) :
    ∃ stamp, (s.leaveMarker r colour p).1 = { p with marked := true, green := colour == 2, stamp := stamp } := by
  rw [State.leaveMarker, if_neg h]
  exact ⟨_, rfl⟩

/-- The marker changes a packet's own marks only. -/
theorem State.passMarker_sameSlots (s : State) (r : Nat) (p : Packet) : p.SameSlots (s.passMarker r p).1 := by
  rw [State.passMarker_eq]
  split
  · exact ⟨rfl, rfl, rfl, rfl⟩
  · rcases Nat.eq_zero_or_pos (s.colourPacket r p).1 with hred | hcolour
    · rw [hred, State.leaveMarker_of_red]
      exact ⟨rfl, rfl, rfl, rfl⟩
    · obtain ⟨stamp, hp⟩ := (s.colourPacket r p).2.leaveMarker_of_colour r p hcolour.ne'
      rw [hp]
      exact ⟨rfl, rfl, rfl, rfl⟩

/-! ### Reading a packet (R210, R212) -/

/-- The packet of `len` slots at the read pointer of ring `r`, before the marker. -/
def State.nextPacket (s : State) (r len : Nat) : Packet :=
  let x := s.ring r
  let h := s.ringNat r x.readPtr 32
  let params := s.ringNat r (x.readPtr + 1) (32 * (len - 1))
  let sl := ringSlice r
  let cost := if sl = 0 ∨ sl = 128 then 0 else s.packetLength sl (slice h 0 8) params + s.rd Fld.schedCtrlOverhead
  ⟨h, params, x.readPtr, len, cost, 0, false, false, false⟩

/-- A whole packet within the ring passes the marker and joins the stamp queue; the read pointer moves over it. -/
theorem State.packetRead_of_whole {s : State} {r len : Nat} (hserved : s.ringServed r = true) (hroom : (s.ring r).stampQ.length < 32)
    (hmarked : (s.ring r).stampQ.all (·.marked) = true) (hlen : len = 1 + slice (s.ringNat r (s.ring r).readPtr 32) 8 3)
    (hfail : (s.ring r).failedLen = none) (hcover : len ≤ s.covered r) (hend : (s.ring r).readPtr + len ≤ s.sqSlots r) :
    s.packetRead r = (s.passMarker r (s.nextPacket r len)).2.setRing r { s.ring r with
      stampQ := (s.ring r).stampQ ++ [(s.passMarker r (s.nextPacket r len)).1], readPtr := ((s.ring r).readPtr + len) % s.sqSlots r } := by
  have hany : (s.ring r).stampQ.any (fun p => !p.marked) = false := by
    rw [← List.not_all_eq_any_not, hmarked]
    rfl
  have hstop : (!s.ringServed r || decide (32 ≤ (s.ring r).stampQ.length) || (s.ring r).stampQ.any (fun p => !p.marked) ||
      s.covered r == 0) = false := by
    have hne : s.covered r ≠ 0 := by omega
    simp [hserved, hroom, hany, hne]
  rw [← s.sqSlots_passMarker r r (s.nextPacket r len)]
  simp only [State.packetRead, hstop, hfail, ← hlen]
  rw [if_neg Bool.false_ne_true, if_neg (by simp), if_neg hend.not_gt, if_neg hcover.not_gt]
  rfl

theorem exec_packetRead {dt r : Nat} {host : List HostWrite} (s : State) (h : Ok (.packetRead dt r host)) :
    exec (.packetRead dt r host) s = .next (((s.advance dt).hostStores host).packetRead r) :=
  enter_of_wellFormed (k := fun x => (x.hostStores host).packetRead r) h

/-! ### Dispatch (R212) -/

theorem does_packetDispatch {dt r : Nat} {p : Packet} {s : State} (h : (s.advance dt).autoWake.chooseRing = some (r, p)) :
    Does (.packetDispatch dt) s ((((s.advance dt).autoWake).dispatch r p).noteStalls) := by
  change execPacketDispatch dt s = _
  rw [execPacketDispatch, enter_of_wellFormed (show Ok (.packetDispatch dt) from rfl)]
  dsimp only
  rw [h]

/-! ### The obligation -/

/-- Settles O28: a doorbell passes each check of its page and ring, a packet read each check of its ring, and what the packet read
appends is the packet that the marker answers. -/
theorem sluiceReadsAndDispatches : Obligations.SluiceReadsAndDispatches := by
  rintro dt s x rfl
  refine ⟨fun page off pasid v h hpage hoff hq hown ha hf he hv => ?_,
    fun r host y len h hy hserved hroom hmarked hlen hfail hcover hend => ?_, fun r p => does_packetDispatch⟩
  case refine_1 =>
    rw [← State.ringBell_of_lt he hv, ← State.doorbell_of_own hpage hoff hq hown ha hf]
    exact does_doorbell h
  case refine_2 =>
    have ht := exec_packetRead s h
    rw [← hy, State.packetRead_of_whole hserved hroom hmarked hlen hfail hcover hend] at ht
    obtain ⟨hheader, hparams, hslot, hlength⟩ := y.passMarker_sameSlots r (y.nextPacket r len)
    exact ⟨_, _, ht, by rw [State.ring_setRing_same], by rw [State.ring_setRing_same], hheader, hparams, hslot, hlength⟩

end Sys2Proof.Machine
end

section
/-! The sluice's own commands (R215 to R217, R220, R221): NOP, FENCE, WAIT, COUNTER_ADD, SEM_SIGNAL, COPY and FILL. -/
namespace Sys2Proof.Machine

/-! ### The first command of a ring -/

theorem enter_actH_of {i : Instr} {dt r op : Nat} {s : State} {k : State → Cmd → State} {c : Cmd} (h : Ok i)
    (hc : (s.advance dt).firstH r op = some c) : enter i dt s (fun x => x.actH r op k) = .next (k (s.advance dt) c) :=
  enter_forSome_of (o := fun x => x.firstH r op) h hc

/-- The running command of a ring goes on when its condition holds. -/
theorem enter_runningH_of {i : Instr} {dt r op : Nat} {s : State} {p : State → Cmd → Bool} {k : State → Cmd → State} {c : Cmd}
    (h : Ok i) (hc : (s.advance dt).runningH r op = some c) (hp : p (s.advance dt) c = true) :
    enter i dt s (fun x => x.forSome (x.runningH r op) fun x c => x.whenever (p x c) fun x => k x c) = .next (k (s.advance dt) c) := by
  rw [enter_of_wellFormed h, hc, State.forSome_some, State.whenever_of hp]

/-- What a WAIT returns that times out: a free value for a semaphore that its slice cannot reach (R215). -/
def State.timedOutValue (s : State) (c : Cmd) : Nat :=
  if c.par 0 4 = 1 ∧ !s.semReach c.slice (c.par 16 16 / 32) then s.free.1 % 2 ^ 32 else s.waitValue c

section Ring

variable {dt r : Nat} {s : State} {c : Cmd} (hr : r < 1028)
include hr

/-! ### NOP and FENCE (R217) -/

theorem does_nop (hc : (s.advance dt).firstH r 0x00 = some c) : Does (.nop dt r) s ((s.advance dt).finishNow c stOk) :=
  enter_actH_of (i := .nop dt r) (k := fun x c => x.finishNow c stOk) (decide_eq_true hr) hc

theorem does_fence (hc : (s.advance dt).firstH r 0x01 = some c) : Does (.fence dt r) s ((s.advance dt).startRunning c.id) :=
  enter_actH_of (i := .fence dt r) (k := fun x c => x.startRunning c.id) (decide_eq_true hr) hc

theorem does_fenceComplete (hc : (s.advance dt).runningH r 0x01 = some c) (hp : (s.advance dt).fenceHolds c = true) :
    Does (.fenceComplete dt r) s ((s.advance dt).endWait c stOk) :=
  enter_runningH_of (i := .fenceComplete dt r) (p := State.fenceHolds) (k := fun x c => x.endWait c stOk) (decide_eq_true hr) hc hp

/-! ### WAIT (R215, R216) -/

/-- A WAIT whose parameters are in order starts, and is met at once or joins the waiters of its semaphore. -/
theorem does_wait {d : Cmd} (hc : (s.advance dt).firstH r 0x02 = some c) (hk : (s.advance dt).waitCheck c = stOk)
    (hd : ((s.advance dt).startRunning c.id).runningH r 0x02 = some d) :
    Does (.wait dt r) s (if ((s.advance dt).startRunning c.id).waitHolds d then ((s.advance dt).startRunning c.id).waitMet d
      else ((s.advance dt).startRunning c.id).joinSem d) := by
  change execWait dt r s = _
  rw [execWait, enter_actH_of (show Ok (.wait dt r) from decide_eq_true hr) hc]
  dsimp only
  rw [if_neg (not_not_intro hk), hd, State.forSome_some]

/-- A running WAIT completes once its condition holds; past its window the race is counted. -/
theorem does_waitSatisfied (hc : (s.advance dt).runningH r 0x02 = some c) (hp : (s.advance dt).waitHolds c = true) :
    Does (.waitSatisfied dt r) s
      ((if (s.advance dt).waitOver c then (s.advance dt).bump Fld.timeoutRacesRaces 0 else s.advance dt).waitMet c) :=
  enter_runningH_of (i := .waitSatisfied dt r) (p := State.waitHolds)
    (k := fun x c => (if x.waitOver c then x.bump Fld.timeoutRacesRaces 0 else x).waitMet c) (decide_eq_true hr) hc hp

theorem does_waitTimeout (hc : (s.advance dt).runningH r 0x02 = some c) (ho : (s.advance dt).waitOver c = true)
    (hp : (s.advance dt).waitHolds c = false) : Does (.waitTimeout dt r) s
      ((((s.advance dt).free.2).nondet c.slice 5).endWait { c with result := (s.advance dt).timedOutValue c } stTimeout) :=
  enter_runningH_of (i := .waitTimeout dt r) (p := fun x c => x.waitOver c && !x.waitHolds c)
    (k := fun x c => ((x.free.2).nondet c.slice 5).endWait { c with result := x.timedOutValue c } stTimeout)
    (decide_eq_true hr) hc (by rw [ho, hp]; rfl)

/-! ### COUNTER_ADD and SEM_SIGNAL (R220) -/

/-- The counter takes the sum, the command completes, and a step counter that the counter is linked to advances. -/
theorem does_counterAdd {y : State} (hc : (s.advance dt).firstH r 0x03 = some c)
    (hy : y = ((s.advance dt).setReg .sliceCounter (c.slice * 64 + c.par 0 6)
      ((s.advance dt).reg .sliceCounter (c.slice * 64 + c.par 0 6) + c.par 64 64)).finishNow c stOk) :
    Does (.counterAdd dt r) s (if y.on Fld.detCtrlLinkEn c.slice && y.rd Fld.detCtrlStepLink c.slice == c.par 0 6
      then y.stepAdvance c.slice (c.par 64 64) else y) := by
  subst hy
  change execCounterAdd dt r s = _
  rw [execCounterAdd, enter_actH_of (show Ok (.counterAdd dt r) from decide_eq_true hr) hc]

theorem does_semSignal (hc : (s.advance dt).firstH r 0x04 = some c) (ho : (s.advance dt).semOk c.slice (c.par 0 16) = true)
    (hq : (s.advance dt).semReach c.slice (c.par 0 16 / 32) = true) : Does (.semSignal dt r) s
      ((((s.advance dt).semAdd (c.par 0 16 / 32) (c.par 0 16 % 32) (c.par 32 32)).1.modCmd c.id fun d =>
        { d with result := nat1 ((s.advance dt).semAdd (c.par 0 16 / 32) (c.par 0 16 % 32) (c.par 32 32)).2 }).finishNow c stOk) := by
  change execSemSignal dt r s = _
  rw [execSemSignal, enter_actH_of (show Ok (.semSignal dt r) from decide_eq_true hr) hc]
  simp only [ho, hq, Bool.not_true, Bool.false_eq_true, if_false]

end Ring

/-! ### COPY and FILL (R221) -/

/-- A COPY whose checks pass, and whose basins are ready for its beats, starts. -/
theorem State.copyAct_of_copy {s : State} {r : Nat} {poison : Bool} {c : Cmd} (hc : s.firstH r 0x10 = some c)
    (hk : s.copyCheck c = stOk) (hdst : s.parting c.dst = false) (hsrc : s.parting c.src = false)
    (hpd : s.sidePaused c.slice c.dst = false) (hps : s.sidePaused c.slice c.src = false) :
    s.copyAct r 0x10 poison = s.copyStart c poison := by
  simp [State.copyAct, State.actH, hc, hk, hdst, hsrc, hpd, hps]

theorem State.copyAct_of_fill {s : State} {r : Nat} {c : Cmd} (hc : s.firstH r 0x11 = some c) (hk : s.copyCheck c = stOk)
    (hdst : s.parting c.dst = false) (hpd : s.sidePaused c.slice c.dst = false) :
    s.copyAct r 0x11 false = s.copyStart c false := by
  simp [State.copyAct, State.actH, hc, hk, hdst, hpd]

theorem exec_copy {dt r : Nat} {ups : List Upset} {poison : Bool} {host : List HostWrite} (s : State)
    (h : Ok (.copy dt r ups poison host)) :
    exec (.copy dt r ups poison host) s = .next ((((s.advance dt).upsets ups).hostStores host).copyAct r 0x10 poison) :=
  enter_of_wellFormed (k := fun x => ((x.upsets ups).hostStores host).copyAct r 0x10 poison) h

theorem exec_fill {dt r : Nat} (s : State) (h : Ok (.fill dt r)) :
    exec (.fill dt r) s = .next ((s.advance dt).copyAct r 0x11 false) :=
  enter_of_wellFormed (k := fun x => x.copyAct r 0x11 false) h

/-- The last beat of a transfer comes when no basin of its holds it back. -/
theorem does_copyComplete {dt r : Nat} {s : State} {c : Cmd} (hr : r < 1028)
    (hc : ((s.advance dt).cmds.find? fun c => c.ring == r && (c.opcode == 0x10 || c.opcode == 0x11) && c.phase == .running) = some c)
    (hdst : (s.advance dt).sideHeld c.slice c.dst = false) (hsrc : c.opcode = 0x10 → (s.advance dt).sideHeld c.slice c.src = false) :
    Does (.copyComplete dt r) s ((s.advance dt).copyEnd c) := by
  have hready : (!(s.advance dt).sideHeld c.slice c.dst && !(c.opcode == 0x10 && (s.advance dt).sideHeld c.slice c.src)) = true := by
    by_cases hop : c.opcode = 0x10
    · rw [hdst, hsrc hop, Bool.and_false]; rfl
    · rw [hdst, beq_false_of_ne hop, Bool.false_and]; rfl
  change execCopyComplete dt r s = _
  rw [execCopyComplete, enter_of_wellFormed (show Ok (.copyComplete dt r) from decide_eq_true hr), hc, State.forSome_some,
    State.whenever_of hready]

/-! ### The obligation -/

/-- Settles O29: each row finds the first, or the running, command of its ring, and its conditions select the branch that acts. -/
theorem sluiceCommandsComplete : Obligations.SluiceCommandsComplete := by
  rintro dt r s x rfl hr
  refine ⟨fun c => does_nop hr, fun c => does_fence hr, fun c => does_fenceComplete hr, fun c d y hc hk hy hd => ?_,
    fun c hc hh => ?_, fun c hc ho hh => ?_, fun c y hc hy => ?_, fun c => does_semSignal hr,
    fun ups poison host c y h hy hc hk hdst hsrc hpd hps => ?_, fun c hc hk hdst hpd => ?_, fun c => does_copyComplete hr⟩
  case refine_1 =>
    subst hy
    have hwait := does_wait hr hc hk hd
    exact ⟨fun hh => by rwa [if_pos hh] at hwait, fun hh => by rwa [if_neg (Bool.eq_false_iff.1 hh)] at hwait⟩
  case refine_2 =>
    have hmet := does_waitSatisfied hr hc hh
    exact ⟨fun ho => by rwa [if_neg (Bool.eq_false_iff.1 ho)] at hmet, fun ho => by rwa [if_pos ho] at hmet⟩
  case refine_3 =>
    exact ⟨_, does_waitTimeout hr hc ho hh, fun hne => if_neg fun h => hne h.1⟩
  case refine_4 =>
    have hadd := does_counterAdd hr hc hy
    exact ⟨fun hen hlink => by rwa [hen, hlink, beq_self_eq_true, Bool.and_true, if_pos rfl] at hadd,
      fun hen => by rwa [hen, Bool.false_and, if_neg Bool.false_ne_true] at hadd⟩
  case refine_5 =>
    rw [Does, exec_copy s h, ← hy, State.copyAct_of_copy hc hk hdst hsrc hpd hps]
  case refine_6 =>
    rw [Does, exec_fill s (decide_eq_true hr), State.copyAct_of_fill hc hk hdst hpd]

end Sys2Proof.Machine
end

section
/-! The frame of every step: the queue's front command runs, an ill-formed command is refused, and no command faults. -/
namespace Sys2Proof.Machine

/-- Settles O1: a step takes the front command off the queue and carries it out. -/
theorem stepRunsTheFrontCommand : Obligations.StepRunsTheFrontCommand := by
  intro c rest s h
  rw [step, h]

/-- Settles O2: with no command waiting a step is the idle branch. -/
theorem emptyQueueIdles : Obligations.EmptyQueueIdles := by
  intro s h
  rw [step, h]

/-- The outcome is a next state if the operands are in their ranges, and else the refusal of an ill-formed command. -/
def RunsIf (ok : Bool) (o : Host.Outcome State Fault Refusal) : Prop :=
  (ok = true → ∃ t, o = .next t) ∧ (ok = false → o = .refused .illFormed)

theorem runsIf_enterIf {ok : Bool} {dt : Nat} {s : State} {k : State → State} : RunsIf ok (enterIf ok dt s k) := by
  refine ⟨fun h => ⟨k (s.advance dt), ?_⟩, fun h => ?_⟩
  · rw [h, enterIf_true]
  · rw [h, enterIf_false]

theorem runsIf_enter {c : Instr} {dt : Nat} {s : State} {k : State → State} : RunsIf c.wellFormed (enter c dt s k) := runsIf_enterIf

/-- Every row of the table is the frame over a meaning of its own. -/
theorem exec_runsIf (c : Instr) (s : State) : RunsIf c.wellFormed (exec c s) := by
  cases c with
  | supplyRemoval | dieReady | hbmControllerTrained | localDone | pcieLinkDown | mctpControl | pldmGetSensor | setEventReceiver
  | vendorSiltStatus | vendorSiltEntry | vendorSiltSnap | vendorClassCount | vendorHealth | jtagInstruction =>
    rw [exec]
    exact runsIf_enterIf
  | _ =>
    rw [exec]
    exact runsIf_enter

/-- Settles O3: the frame answers a next state exactly when the operands are in their ranges. -/
theorem runsIffWellFormed : Obligations.RunsIffWellFormed := exec_runsIf

end Sys2Proof.Machine
end

section
/-! Slices (R230, R235, R238, R259): keys, memory ranges, assigned basins, and what binds a slice. -/
namespace Sys2Proof.Machine

/-! ### Loops and frames -/

/-- What every pass of a loop leaves, the loop leaves. -/
theorem State.each_same {α β : Type} (p : State → β) {f : State → α → State} (hf : ∀ s a, p (f s a) = p s) (s : State) (l : List α) :
    p (s.each l f) = p s := by
  unfold State.each
  induction l generalizing s with
  | nil => rfl
  | cons a l ih => rw [List.foldl_cons, ih, hf]

/-- A loop that zeroes registers of one name leaves zero in each that it visits, and in each that was zero. -/
theorem State.reg_each_zero {n : RegName} {g : Nat → Nat} {i : Nat} (l : List Nat) (s : State) (h : i ∈ l ∨ s.reg n (g i) = 0) :
    (s.each l fun s i => s.setReg n (g i) 0).reg n (g i) = 0 := by
  unfold State.each
  induction l generalizing s with
  | nil => simpa using h
  | cons a l ih =>
    rw [List.foldl_cons]
    refine ih _ ?_
    by_cases hg : g i = g a
    · rw [hg, State.reg_setReg_same, Nat.zero_and]
      exact .inr rfl
    · rw [State.reg_setReg_other _ _ fun e => hg e.2]
      exact h.imp_left fun hm => (List.mem_cons.1 hm).resolve_left fun e => hg (by rw [e])

theorem State.decideStep_regs (s : State) (b n : Nat) : (s.decideStep b n).regs = s.regs := by
  unfold State.decideStep
  dsimp only
  split <;> rfl

/-- Protection decides steps only. -/
theorem State.protectNow_regs (s was : State) (bs : List Nat) : (s.protectNow was bs).regs = s.regs := by
  refine State.each_regs fun x b => ?_
  split
  · exact x.decideStep_regs _ _
  · rfl

theorem State.reg_of_regs {s t : State} (h : t.regs = s.regs) (n : RegName) (i : Nat) : t.reg n i = s.reg n i := by
  rw [State.reg, h, State.reg]

theorem State.rd_of_regs {s t : State} (h : t.regs = s.regs) (f : Fld) (i : Nat) : t.rd f i = s.rd f i := by
  rw [State.rd, State.reg_of_regs h, State.rd]

/-! ### Keys (R238) -/

theorem keyValid_fits (sl : Nat) : Fld.keyStatusKeyValid.fits sl := Fld.fits_of_unwired rfl (by decide) (by decide) (by decide)
theorem keyError_fits (sl : Nat) : Fld.keyStatusKeyError.fits sl := Fld.fits_of_unwired rfl (by decide) (by decide) (by decide)
theorem keyCause_fits (sl : Nat) : Fld.keyStatusCause.fits sl := Fld.fits_of_unwired rfl (by decide) (by decide) (by decide)

/-- Whose key is known rests on the slices' records and the table of keys. -/
theorem State.sliceKey?_of_same {s t : State} (hs : t.slices = s.slices) (hk : t.keys = s.keys) (u : Nat) :
    t.sliceKey? u = s.sliceKey? u := by
  simp only [State.sliceKey?, State.sliceSt, hs, hk]

theorem State.zeroKeyData_slices (s : State) (sl : Nat) : (s.zeroKeyData sl).slices = s.slices := by
  unfold State.zeroKeyData
  exact State.each_same State.slices (fun x i => x.setReg_slices .keyData (16 * sl + i) 0) s _

theorem State.zeroKeyData_keys (s : State) (sl : Nat) : (s.zeroKeyData sl).keys = s.keys := by
  unfold State.zeroKeyData
  exact State.each_same State.keys (fun x i => x.setReg_keys .keyData (16 * sl + i) 0) s _

theorem State.sliceKey?_zeroKeyData (s : State) (sl u : Nat) : (s.zeroKeyData sl).sliceKey? u = s.sliceKey? u :=
  State.sliceKey?_of_same (s.zeroKeyData_slices sl) (s.zeroKeyData_keys sl) u

theorem State.rd_zeroKeyData (s : State) (sl : Nat) {g : Fld} (hg : g.reg ≠ .keyData) (j : Nat) : (s.zeroKeyData sl).rd g j = s.rd g j := by
  unfold State.zeroKeyData
  exact State.each_same (fun x => x.rd g j) (fun x i => x.rd_setReg_name .keyData g (16 * sl + i) j 0 hg) s _

theorem State.keyData_zeroKeyData (s : State) (sl : Nat) {i : Nat} (h : i < 16) : (s.zeroKeyData sl).reg .keyData (16 * sl + i) = 0 := by
  unfold State.zeroKeyData
  exact State.reg_each_zero (g := fun i => 16 * sl + i) _ s (.inl (List.mem_range.2 h))

theorem State.sliceKey?_setSliceSt_other (s : State) {sl u : Nat} (x : SliceSt) (h : u ≠ sl) :
    (s.setSliceSt sl x).sliceKey? u = s.sliceKey? u := by
  simp only [State.sliceKey?, State.sliceSt_setSliceSt_other _ _ _ _ h, State.setSliceSt_keys]

@[simp] theorem State.sliceKey?_wr (s : State) (f : Fld) (i v u : Nat) : (s.wr f i v).sliceKey? u = s.sliceKey? u :=
  State.sliceKey?_of_same (s.wr_slices f i v) (s.wr_keys f i v) u

/-- A table of keys that grows keeps every key at its place. -/
theorem State.sliceKey?_append {s : State} {u : Nat} {k : BitVec 512} (l : List (BitVec 512)) (h : s.sliceKey? u = some k) :
    ({ s with keys := s.keys ++ l } : State).sliceKey? u = some k := by
  obtain ⟨j, hj, hkey⟩ := Option.bind_eq_some_iff.1 h
  obtain ⟨hlt, -⟩ := List.getElem?_eq_some_iff.1 hkey
  exact Option.bind_eq_some_iff.2 ⟨j, hj, (List.getElem?_append_left hlt).trans hkey⟩

/-- A key that is installed is found in the table of keys, or stands at its end. -/
theorem State.installKey_same (s : State) (sl : Nat) (key : BitVec 512) : (s.installKey sl key).sliceKey? sl = some key := by
  unfold State.installKey
  cases hk : s.keys.findIdx? (· == key) with
  | none => simp [State.sliceKey?]
  | some j =>
    obtain ⟨hj, hkey, -⟩ := List.findIdx?_eq_some_iff_getElem.1 hk
    simp [State.sliceKey?, List.getElem?_eq_getElem hj, beq_iff_eq.1 hkey]

/-- The other slices keep their keys. -/
theorem State.installKey_other {s : State} {sl u : Nat} {key k : BitVec 512} (hu : u ≠ sl) (h : s.sliceKey? u = some k) :
    (s.installKey sl key).sliceKey? u = some k := by
  simp only [State.installKey, State.sliceKey?_wr, State.sliceKey?_setSliceSt_other _ _ hu]
  split
  · exact h
  · exact State.sliceKey?_append [key] h

section Load

variable {s : State} {sl : Nat}

/-- The key in KEY_DATA is one that another slice holds. -/
def State.keyTaken (s : State) (sl : Nat) : Prop := ∃ u, u < 128 ∧ u ≠ sl ∧ s.sliceKey? u = some (BitVec.ofNat 512 (s.keyData sl))

/-- A load that is refused says why. -/
def State.refuseKey (s : State) (sl cause : Nat) : State := (s.wr Fld.keyStatusKeyError sl 1).wr Fld.keyStatusCause sl cause

theorem State.keyTaken_iff : ((List.range 128).any fun t => t != sl && s.sliceKey? t == some (BitVec.ofNat 512 (s.keyData sl))) = true ↔
    s.keyTaken sl := by
  simp [State.keyTaken]

theorem State.keyLoad_of_equal (h : s.keyData sl % 2 ^ 256 = s.keyData sl / 2 ^ 256) : s.keyLoad sl = s.refuseKey sl 1 := by
  rw [State.keyLoad, if_pos h]
  rfl

theorem State.keyLoad_of_taken (h : s.keyData sl % 2 ^ 256 ≠ s.keyData sl / 2 ^ 256) (ht : s.keyTaken sl) :
    s.keyLoad sl = s.refuseKey sl 2 := by
  rw [State.keyLoad, if_neg h, if_pos (State.keyTaken_iff.2 ht)]
  rfl

theorem State.keyLoad_of_free (h : s.keyData sl % 2 ^ 256 ≠ s.keyData sl / 2 ^ 256) (ht : ¬ s.keyTaken sl) :
    s.keyLoad sl = s.installKey sl (BitVec.ofNat 512 (s.keyData sl)) := by
  rw [State.keyLoad, if_neg h, if_neg (mt State.keyTaken_iff.1 ht)]

/-- A refused load shows key_error with its cause, and leaves key_valid. -/
theorem State.refuseKey_status (s : State) (sl : Nat) {cause : Nat} (h : cause < 4) :
    (s.refuseKey sl cause).rd Fld.keyStatusKeyError sl = 1 ∧ (s.refuseKey sl cause).rd Fld.keyStatusCause sl = cause ∧
    (s.refuseKey sl cause).rd Fld.keyStatusKeyValid sl = s.rd Fld.keyStatusKeyValid sl := by
  unfold State.refuseKey
  refine ⟨?_, ?_, ?_⟩
  · rw [State.rd_wr_field _ Fld.keyStatusCause Fld.keyStatusKeyError _ _ rfl (keyError_fits sl) (by decide),
      State.rd_wr_same _ _ _ _ (keyError_fits sl)]
    rfl
  · rw [State.rd_wr_same _ _ _ _ (keyCause_fits sl)]
    exact Nat.mod_eq_of_lt h
  · rw [State.rd_wr_field _ Fld.keyStatusCause Fld.keyStatusKeyValid _ _ rfl (keyValid_fits sl) (by decide),
      State.rd_wr_field _ Fld.keyStatusKeyError Fld.keyStatusKeyValid _ _ rfl (keyValid_fits sl) (by decide)]

/-- A refused load, KEY_DATA being zeroed after it, leaves the slices' records. -/
theorem State.zeroKeyData_refuseKey (s : State) (sl : Nat) {cause : Nat} (h : cause < 4) :
    ((s.refuseKey sl cause).zeroKeyData sl).slices = s.slices ∧
    ((s.refuseKey sl cause).zeroKeyData sl).rd Fld.keyStatusKeyError sl = 1 ∧
    ((s.refuseKey sl cause).zeroKeyData sl).rd Fld.keyStatusCause sl = cause ∧
    ((s.refuseKey sl cause).zeroKeyData sl).rd Fld.keyStatusKeyValid sl = s.rd Fld.keyStatusKeyValid sl := by
  have hrd : ∀ {g : Fld}, g.reg ≠ .keyData → ((s.refuseKey sl cause).zeroKeyData sl).rd g sl = (s.refuseKey sl cause).rd g sl :=
    fun hg => State.rd_zeroKeyData _ _ hg sl
  rw [hrd (by decide), hrd (by decide), hrd (by decide), State.zeroKeyData_slices]
  exact ⟨rfl, s.refuseKey_status sl h⟩

/-- An installed key is valid, and no error stands. -/
theorem State.installKey_status (s : State) (sl : Nat) (key : BitVec 512) :
    (s.installKey sl key).rd Fld.keyStatusKeyValid sl = 1 ∧ (s.installKey sl key).rd Fld.keyStatusKeyError sl = 0 ∧
    (s.installKey sl key).rd Fld.keyStatusCause sl = 0 := by
  unfold State.installKey
  refine ⟨?_, ?_, ?_⟩
  · rw [State.rd_wr_field _ Fld.keyStatusCause Fld.keyStatusKeyValid _ _ rfl (keyValid_fits sl) (by decide),
      State.rd_wr_field _ Fld.keyStatusKeyError Fld.keyStatusKeyValid _ _ rfl (keyValid_fits sl) (by decide),
      State.rd_wr_same _ _ _ _ (keyValid_fits sl)]
    rfl
  · rw [State.rd_wr_field _ Fld.keyStatusCause Fld.keyStatusKeyError _ _ rfl (keyError_fits sl) (by decide),
      State.rd_wr_zero _ (keyError_fits sl)]
  · exact State.rd_wr_zero _ (keyCause_fits sl)

/-- An erased key is neither valid nor known; the other slices keep theirs. -/
theorem State.keyErase_valid (s : State) (sl : Nat) : (s.keyErase sl).rd Fld.keyStatusKeyValid sl = 0 :=
  State.rd_wr_zero _ (keyValid_fits sl)

theorem State.keyErase_same (s : State) (sl : Nat) : (s.keyErase sl).sliceKey? sl = none := by
  rw [State.keyErase, State.sliceKey?_wr]
  simp [State.sliceKey?]

theorem State.keyErase_other (s : State) {sl u : Nat} (h : u ≠ sl) : (s.keyErase sl).sliceKey? u = s.sliceKey? u := by
  rw [State.keyErase, State.sliceKey?_wr, State.sliceKey?_setSliceSt_other _ _ h]

end Load

/-- A write of KEY_CMD with the load bit alone, on an unbound slice. -/
theorem does_keyLoad {dt sl v : Nat} {s : State} (h : Ok (.keyLoad dt sl v)) (hu : (s.advance dt).sliceState sl = 0) (hv : v % 4 = 1) :
    Does (.keyLoad dt sl v) s (((s.advance dt).keyLoad sl).zeroKeyData sl) := by
  have hload : bitAt v 0 = true := by simp [bitAt]; omega
  have herase : bitAt v 1 = false := by simp [bitAt]; omega
  rw [Does, exec, execKeyLoad, enter_of_wellFormed h, State.whenever_of hload, State.keyCmdWrite]
  simp [hu, hload, herase]

/-- A write of KEY_CMD with the erase bit alone, on an unbound slice. -/
theorem does_keyErase {dt sl v : Nat} {s : State} (h : Ok (.keyErase dt sl v)) (hu : (s.advance dt).sliceState sl = 0) (hv : v % 4 = 2) :
    Does (.keyErase dt sl v) s (((s.advance dt).keyErase sl).zeroKeyData sl) := by
  have hload : bitAt v 0 = false := by simp [bitAt]; omega
  have herase : bitAt v 1 = true := by simp [bitAt]; omega
  rw [Does, exec, execKeyErase, enter_of_wellFormed h, State.whenever_of herase, State.keyCmdWrite]
  simp [hu, hload, herase]

/-- Settles O33: the halves of the key and the keys of the other slices decide what a load does; KEY_DATA is zeroed after it. -/
theorem loadingAKey : Obligations.LoadingAKey := by
  rintro dt sl v k s x rfl - hu hk
  subst hk
  refine ⟨fun h hv => ?_, fun h hv => ?_⟩
  case refine_1 =>
    have ht := does_keyLoad h hu hv
    refine ⟨_, ht, fun i => State.keyData_zeroKeyData _ sl, (exec_still rfl ht).sameMemory, fun hne hfree => ?_, fun heq => ?_,
      fun hne htaken => ?_⟩
    · rw [State.keyLoad_of_free hne fun ⟨u, hlt, hu, hkey⟩ => hfree u hlt hu hkey]
      obtain ⟨hvalid, herror, hcause⟩ := (s.advance dt).installKey_status sl (BitVec.ofNat 512 ((s.advance dt).keyData sl))
      refine ⟨?_, ?_, ?_, ?_, fun u key hu hkey => ?_⟩
      · rw [State.sliceKey?_zeroKeyData, State.installKey_same]
      · rw [State.rd_zeroKeyData _ _ (by decide), hvalid]
      · rw [State.rd_zeroKeyData _ _ (by decide), herror]
      · rw [State.rd_zeroKeyData _ _ (by decide), hcause]
      · rw [State.sliceKey?_zeroKeyData, State.installKey_other hu hkey]
    · rw [State.keyLoad_of_equal heq, ← s.advance_slices dt, ← s.rd_advance dt]
      exact State.zeroKeyData_refuseKey _ sl (by decide)
    · rw [State.keyLoad_of_taken hne htaken, ← s.advance_slices dt, ← s.rd_advance dt]
      exact State.zeroKeyData_refuseKey _ sl (by decide)
  case refine_2 =>
    have ht := does_keyErase h hu hv
    refine ⟨_, ht, fun i => State.keyData_zeroKeyData _ sl, ?_, ?_, fun u hne => ?_, (exec_still rfl ht).sameMemory⟩
    · rw [State.sliceKey?_zeroKeyData, State.keyErase_same]
    · rw [State.rd_zeroKeyData _ _ (by decide), State.keyErase_valid]
    · rw [State.sliceKey?_zeroKeyData, State.keyErase_other _ hne]

/-! ### Memory ranges (R235) -/

theorem rangeEnable_fits (k : Nat) : Fld.memRangeBaseEnable.fits k := Fld.fits_of_unwired rfl (by decide) (by decide) (by decide)
theorem rangeBase_fits (k : Nat) : Fld.memRangeBaseBase.fits k := Fld.fits_of_unwired rfl (by decide) (by decide) (by decide)
theorem rangeLast_fits (k : Nat) : Fld.memRangeLastLast.fits k := Fld.fits_of_unwired rfl (by decide) (by decide) (by decide)

section Range

variable {s : State} {sl i v : Nat}

/-- A write of a range's base that leaves it disabled, or in order. -/
theorem State.rangeWrite_base (hu : s.sliceState sl = 0) (h : (s.rd Fld.memRangeBaseEnable (8 * sl + i) = 0 ∧ v % 2 = 0) ∨
      s.rangeOk sl (slice v 21 23) (s.rd Fld.memRangeLastLast (8 * sl + i)) = true) :
    s.rangeWrite sl i false v =
      (s.wr Fld.memRangeBaseEnable (8 * sl + i) (v % 2)).wr Fld.memRangeBaseBase (8 * sl + i) (slice v 21 23) := by
  rcases h with ⟨hwas, hen⟩ | hok
  · simp [State.rangeWrite, hu, hwas, hen]
  · simp [State.rangeWrite, hu, hok]

theorem State.rangeWrite_base_refused (he : s.rd Fld.memRangeBaseEnable (8 * sl + i) = 1 ∨ v % 2 = 1)
    (hno : s.rangeOk sl (slice v 21 23) (s.rd Fld.memRangeLastLast (8 * sl + i)) = false) :
    s.rangeWrite sl i false v = s.info (unitHub 0) := by
  simp [State.rangeWrite, hno, he]

/-- A write of the last region of a range that is disabled, or in order with it. -/
theorem State.rangeWrite_last (hu : s.sliceState sl = 0) (h : s.rd Fld.memRangeBaseEnable (8 * sl + i) = 0 ∨
      s.rangeOk sl (s.rd Fld.memRangeBaseBase (8 * sl + i)) (slice v 21 23) = true) :
    s.rangeWrite sl i true v = s.wr Fld.memRangeLastLast (8 * sl + i) (slice v 21 23) := by
  rcases h with hwas | hok
  · simp [State.rangeWrite, hu, hwas]
  · simp [State.rangeWrite, hu, hok]

theorem State.rangeWrite_last_refused (he : s.rd Fld.memRangeBaseEnable (8 * sl + i) = 1)
    (hno : s.rangeOk sl (s.rd Fld.memRangeBaseBase (8 * sl + i)) (slice v 21 23) = false) :
    s.rangeWrite sl i true v = s.info (unitHub 0) := by
  simp [State.rangeWrite, hno, he]

end Range

theorem does_memRangeWrite {dt sl i v : Nat} {last : Bool} {s : State} (h : Ok (.memRangeWrite dt sl i last v)) :
    Does (.memRangeWrite dt sl i last v) s ((s.advance dt).rangeWrite sl i last v) := by
  rw [Does, exec, execMemRangeWrite, enter_of_wellFormed h]

/-! ### Assigned basins (R259) -/

/-- A value of SLICE_BASINS that shares a basin with another tenant slice, one of the two being in fixed-share mode. -/
def State.sharesFixed (s : State) (sl v : Nat) : Prop :=
  ∃ t, t < 128 ∧ t ≠ sl ∧ 1 ≤ t ∧ s.reg .sliceBasins t &&& v ≠ 0 ∧ (s.fixedShare t = true ∨ s.fixedShare sl = true)

theorem State.sharesFixed_iff {s : State} {sl v : Nat} (hv : v < 2 ^ 64) :
    (List.range 128).any (fun t => (t != sl && 1 ≤ t && s.reg .sliceBasins t &&& v % 2 ^ 64 != 0) && (s.fixedShare t || s.fixedShare sl)) =
      true ↔ s.sharesFixed sl v := by
  rw [Nat.mod_eq_of_lt hv]
  simp [State.sharesFixed, and_assoc]

theorem State.basinsWrite_refused {s : State} {sl v : Nat} (hv : v < 2 ^ 64) (hsl : 1 ≤ sl) (h : s.sharesFixed sl v) :
    s.basinsWrite sl v = s.info (unitHub 0) := by
  rw [State.basinsWrite, if_pos]
  rw [(State.sharesFixed_iff hv).2 h, Bool.and_true, decide_eq_true hsl]

theorem State.basinsWrite_stored {s : State} {sl v : Nat} (hv : v < 2 ^ 64) (h : sl = 0 ∨ ¬ s.sharesFixed sl v) :
    (s.basinsWrite sl v).regs = (s.setReg .sliceBasins sl v).regs := by
  rw [State.basinsWrite, if_neg]
  · exact State.protectNow_regs _ _ _
  · rw [Bool.and_eq_true, State.sharesFixed_iff hv, decide_eq_true_iff]
    rintro ⟨hsl, hs⟩
    rcases h with rfl | h
    · exact absurd hsl (by decide)
    · exact h hs

theorem does_sliceBasinsWrite {dt sl v : Nat} {s : State} (h : Ok (.sliceBasinsWrite dt sl v)) :
    Does (.sliceBasinsWrite dt sl v) s ((s.advance dt).basinsWrite sl v) := by
  rw [Does, exec, execSliceBasinsWrite, enter_of_wellFormed h]

theorem State.reg_setReg_sliceBasins (s : State) (sl : Nat) {v : Nat} (h : v < 2 ^ 64) :
    (s.setReg .sliceBasins sl v).reg .sliceBasins sl = v := by
  rw [State.reg_setReg_same, regMask_of_unwired rfl (by decide), show RegName.mask .sliceBasins = 2 ^ 64 - 1 from by decide, and_full h,
    Nat.mod_eq_of_lt h]

/-- Settles O34: the range as it would stand decides whether its write acts; the shared basins decide for SLICE_BASINS. -/
theorem rangeWrites : Obligations.RangeWrites := by
  rintro dt sl i v s x rfl - -
  refine ⟨fun h hu => ⟨fun hok => ?_, fun he hno => ?_⟩, fun h hu => ⟨fun hok => ?_, fun he hno => ?_⟩, fun h hv => ⟨fun hs => ?_, fun hsl hs => ?_⟩⟩
  case refine_1 =>
    have ht := does_memRangeWrite (s := s) h
    rw [State.rangeWrite_base hu hok] at ht
    refine ⟨_, ht, ?_, ?_, fun n j hn => ?_, (exec_still rfl ht).sameMemory⟩
    · rw [State.rd_wr_field _ Fld.memRangeBaseBase Fld.memRangeBaseEnable _ _ rfl (rangeEnable_fits _) (by decide),
        State.rd_wr_same _ _ _ _ (rangeEnable_fits _)]
      exact Nat.mod_mod v 2
    · rw [State.rd_wr_same _ _ _ _ (rangeBase_fits _)]
      exact Nat.mod_eq_of_lt (slice_lt ..)
    · rw [sameReg, State.reg_wr_other _ _ _ hn, State.reg_wr_other _ _ _ hn, State.reg_advance]
  case refine_2 => rw [← State.rangeWrite_base_refused he hno]; exact does_memRangeWrite h
  case refine_3 =>
    have ht := does_memRangeWrite (s := s) h
    rw [State.rangeWrite_last hu hok] at ht
    refine ⟨_, ht, ?_, fun n j hn => ?_, (exec_still rfl ht).sameMemory⟩
    · rw [State.rd_wr_same _ _ _ _ (rangeLast_fits _)]
      exact Nat.mod_eq_of_lt (slice_lt ..)
    · rw [sameReg, State.reg_wr_other _ _ _ hn, State.reg_advance]
  case refine_4 => rw [← State.rangeWrite_last_refused he hno]; exact does_memRangeWrite h
  case refine_5 =>
    have ht := does_sliceBasinsWrite (s := s) h
    have hregs := State.basinsWrite_stored (s := s.advance dt) (sl := sl) hv <| hs.imp_right fun hs => by
      rintro ⟨t, hlt, hne, hge, hshare, hfix⟩
      obtain ⟨hft, hfs⟩ := hs t hlt hne hge hshare
      rw [hft, hfs] at hfix
      simp at hfix
    refine ⟨_, ht, ?_, fun n j hn => ?_, (exec_still rfl ht).sameMemory⟩
    · rw [State.reg_of_regs hregs, State.reg_setReg_sliceBasins _ _ hv]
    · rw [sameReg, State.reg_of_regs hregs, State.reg_setReg_other _ _ hn, State.reg_advance]
  case refine_6 => rw [← State.basinsWrite_refused hv hsl hs]; exact does_sliceBasinsWrite h

end Sys2Proof.Machine
end

section
/-! Slice commands (R231, R243, R244, R246), and what binding a slice records (R230). -/
namespace Sys2Proof.Machine

/-! ### A row of the table -/

section Row

variable {i : Instr} {dt : Nat} {s x t : State} (hx : x = s.advance dt)
include hx

/-- A command whose meaning is a change of the state at its edge makes that change. -/
theorem does_of {k : State → State} (he : exec i s = enter i dt s k) (h : Ok i) (ht : k x = t) : Does i s t := by
  rw [Does, he, enter_of_wellFormed h, ← hx, ht]

/-- A command with one condition, which holds, does what it does. -/
theorem does_whenever {p : State → Bool} {k : State → State → State} (he : exec i s = enter i dt s fun x => x.whenever (p x) (k x))
    (h : Ok i) (hp : p x = true) (ht : k x x = t) : Does i s t :=
  does_of hx he h ((State.whenever_of hp).trans ht)

/-- A command with one subject, which is there, acts on it. -/
theorem does_forSome {α : Type} {o : State → Option α} {k : State → State → α → State} {a : α}
    (he : exec i s = enter i dt s fun x => x.forSome (o x) (k x)) (h : Ok i) (ha : o x = some a) (ht : k x x a = t) : Does i s t :=
  does_of hx he h (by rw [ha, State.forSome_some, ht])

end Row

/-! ### Reset, unbinding, freezing, refusals -/

section Slice

variable {dt sl : Nat} {s x : State} (hx : x = s.advance dt)
include hx

theorem does_sliceResetComplete (hsl : sl < 128) (h4 : x.sliceState sl = 4) (hd : (x.sliceSt sl).drained = true)
    (hz : x.resetZeroing sl = false) : Does (.sliceResetComplete dt sl) s (x.resetComplete sl) :=
  does_whenever hx (by rw [exec, execSliceResetComplete]) (decide_eq_true hsl) (by simp [h4, hd, hz]) rfl

theorem does_sliceDisable {v : Nat} (h : Ok (.sliceDisable dt sl v)) (hv : v % 2 = 0) (he : x.on Fld.sliceCtrlEnable sl = true) :
    Does (.sliceDisable dt sl v) s (x.unbindStart sl) :=
  does_whenever hx (by rw [exec, execSliceDisable]) h (by simp [hv]) (by simp [State.sliceCtrlWrite, hv, he])

theorem does_refuseCommand {id : Nat} {timeout : Bool} (h : Ok (.hostRequestRefused dt 0 id timeout)) :
    Does (.hostRequestRefused dt 0 id timeout) s (x.refuseCommand id timeout) :=
  does_of hx (by rw [exec, execHostRequestRefused]) h rfl

theorem does_refuseRead {r : Nat} {timeout : Bool} (h : Ok (.hostRequestRefused dt 1 r timeout)) (hr : r < 1028) :
    Does (.hostRequestRefused dt 1 r timeout) s (x.refuseRead r timeout) :=
  does_of hx (by rw [exec, execHostRequestRefused]) h (State.whenever_of (decide_eq_true hr))

theorem does_refuseReply {r k : Nat} {timeout : Bool} (h : Ok (.hostRequestRefused dt (k + 2) r timeout)) (hr : r < 1028) :
    Does (.hostRequestRefused dt (k + 2) r timeout) s (x.refuseReply r k) :=
  does_of hx (by rw [exec, execHostRequestRefused]) h (State.whenever_of (decide_eq_true hr))

end Slice

/-- Settles O31: each slice command under its conditions makes its own change. -/
theorem sliceCommandsComplete : Obligations.SliceCommandsComplete := by
  rintro dt sl s x hx hsl
  refine ⟨fun v h hv hu hr => ?reset, fun h4 hd hdr => ?drained, fun h4 hd hz => ⟨fun hb => ?unbind, fun hb => ?active⟩,
    fun v y h hv he hy => ⟨fun h4 => ?disable, fun h4 => ?squash⟩, fun h2 hs => ?frozen, fun c timeout h hc hu => ?ends,
    fun c timeout h hc hu hw => ?waits, fun r timeout h hr hserved hq hcov => ⟨_, rfl, ?halts⟩, fun r k timeout h hr => does_refuseReply hx h hr⟩
  case reset => exact does_of hx (by rw [exec, execSliceReset]) h (by simp [State.sliceCmdWrite, hv, hu, hr])
  case drained => exact does_whenever hx (by rw [exec, execSliceResetDrained]) (decide_eq_true hsl) (by simp [h4, hd, hdr]) rfl
  case unbind =>
    have ht := does_sliceResetComplete hx hsl h4 hd hz
    rwa [State.resetComplete, if_pos hb] at ht
  case active =>
    have ht := does_sliceResetComplete hx hsl h4 hd hz
    rwa [State.resetComplete, if_neg (by simp [hb])] at ht
  case disable =>
    have ht := does_sliceDisable hx h hv he
    rwa [State.unbindStart, ← hy, if_neg h4] at ht
  case squash =>
    have ht := does_sliceDisable hx h hv he
    rwa [State.unbindStart, ← hy, if_pos h4] at ht
  case frozen => exact does_whenever hx (by rw [exec, execSliceFrozen]) (decide_eq_true hsl) (by simp [h2, hs]) rfl
  case ends =>
    have ht := does_refuseCommand hx h
    rwa [State.refuseCommand, hc, State.forSome_some, if_pos hu] at ht
  case waits =>
    have ht := does_refuseCommand hx h
    rwa [State.refuseCommand, hc, State.forSome_some, if_neg (by simp [hu]), if_pos hw] at ht
  case halts =>
    have ht := does_refuseRead hx h hr
    rwa [State.refuseRead, State.whenever_of (by simp [hserved, hq, hcov])] at ht

/-! ### Binding (R230) -/

/-- Slice 1 with all that binding it asks for: a PASID of its own, a key, and one memory range. -/
def bindable : State :=
  ((State.reset.wr Fld.slicePasidPasidValid 1 1).wr Fld.keyStatusKeyValid 1 1).wr Fld.memRangeBaseEnable 8 1

/-- The slice that is enabled becomes active, and the log takes the event. -/
theorem does_sliceEnable_bindable :
    Does (.sliceEnable 0 1 1) bindable (((bindable.advance 0).wr Fld.sliceCtrlEnable 1 1).setSliceState 1 1) :=
  does_whenever rfl (by rw [exec, execSliceEnable]) (by decide) (by decide)
    (by rw [State.sliceCtrlWrite, if_pos (by decide), State.advance_zero, if_pos (by decide +kernel)])

theorem bindable_logHead : bindable.reg .logHead 0 = 0 := by decide +kernel

theorem enabled_logHead : (((bindable.advance 0).wr Fld.sliceCtrlEnable 1 1).setSliceState 1 1).reg .logHead 0 = 1 := by
  rw [State.advance_zero]
  decide +kernel

/-- Refutes O32: the change of the slice's state is an event, so binding a slice also moves LOG_HEAD, which the statement says
stays. -/
theorem not_bindingASlice : ¬ Obligations.BindingASlice := by
  intro h
  obtain ⟨hbind, -⟩ := h 0 1 1 bindable (bindable.advance 0) rfl (by decide +kernel) (by decide)
  obtain ⟨hacts, -⟩ := hbind (by decide) (by decide)
  obtain ⟨t, ht, -, -, hsame, -⟩ := hacts (by rw [State.advance_zero]; decide +kernel)
  obtain rfl : _ = t := Host.Outcome.next.inj (does_sliceEnable_bindable.symm.trans ht)
  have hlog := hsame .logHead 0 (by decide)
  rw [sameReg, enabled_logHead, bindable_logHead] at hlog
  exact absurd hlog (by decide)

end Sys2Proof.Machine
end

section
/-! The buckets of a slice's marker (R255, R256). -/
namespace Sys2Proof.Machine

/-! ### Fields that are all of their register -/

/-- The field is all that its register holds. -/
def Fld.Whole (f : Fld) (i : Nat) : Prop := f.lo = 0 ∧ f.width ≤ 64 ∧ regMask f.reg i = 2 ^ f.width - 1

theorem Fld.Whole.fits {f : Fld} {i : Nat} (h : f.Whole i) : f.fits i := by
  obtain ⟨hlo, hw, hm⟩ := h
  refine ⟨by omega, ?_⟩
  rw [hlo, hm, slice, pow_zero, Nat.div_one]
  exact Nat.mod_eq_of_lt (Nat.sub_lt (Nat.two_pow_pos _) Nat.one_pos)

/-- A register of a state in order holds no more than its mask. -/
theorem State.reg_lt {s : State} (hs : s.inOrder = true) {n : RegName} {i w : Nat} (hm : regMask n i = 2 ^ w - 1) : s.reg n i < 2 ^ w := by
  simp only [State.inOrder, Bool.and_eq_true] at hs
  obtain ⟨⟨⟨⟨hregs, -⟩, -⟩, -⟩, -⟩ := hs
  rw [← s.reg_masked hregs n i, hm]
  exact Nat.and_lt_two_pow _ (Nat.sub_lt (Nat.two_pow_pos _) Nat.one_pos)

theorem State.rd_whole {s : State} (hs : s.inOrder = true) {f : Fld} {i : Nat} (h : f.Whole i) : s.rd f i = s.reg f.reg i := by
  obtain ⟨hlo, -, hm⟩ := h
  rw [State.rd, slice, hlo, pow_zero, Nat.div_one, Nat.mod_eq_of_lt (State.reg_lt hs hm)]

theorem putBits_whole (x w v : Nat) : putBits x 0 w v % 2 ^ w = v % 2 ^ w := by
  have hx : x - x % 2 ^ w = 2 ^ w * (x / 2 ^ w) := by
    have := Nat.div_add_mod x (2 ^ w)
    omega
  rw [putBits, slice, pow_zero, Nat.div_one, Nat.mul_one, Nat.mul_one, hx, Nat.mul_add_mod, Nat.mod_mod]

theorem State.reg_wr_whole (s : State) {f : Fld} {i : Nat} (h : f.Whole i) (v : Nat) : (s.wr f i v).reg f.reg i = v % 2 ^ f.width := by
  obtain ⟨hlo, hw, hm⟩ := h
  rw [State.wr, State.reg_setReg_same, hm, hlo, Nat.and_two_pow_sub_one_eq_mod, putBits_whole]
  exact Nat.mod_eq_of_lt ((Nat.mod_lt _ (Nat.two_pow_pos _)).trans_le (Nat.pow_le_pow_right (by decide) hw))

/-! ### The registers of a marker -/

section Marker

variable {x : State} {sl : Nat} (h1 : 1 ≤ sl)
include h1

theorem regMask_bucket {n : RegName} (hn : n = .schedTc ∨ n = .schedTp ∨ n = .schedCbs ∨ n = .schedPbs) : regMask n sl = 2 ^ 32 - 1 := by
  have hsl : (sl == 0) = false := by simp; omega
  rcases hn with rfl | rfl | rfl | rfl <;> exact regMask_of_unwired hsl (by decide)

theorem schedTc_whole : Fld.schedTcTc.Whole sl := ⟨rfl, by decide, regMask_bucket h1 (.inl rfl)⟩
theorem schedTp_whole : Fld.schedTpTp.Whole sl := ⟨rfl, by decide, regMask_bucket h1 (.inr (.inl rfl))⟩

theorem schedMarkEnable_fits : Fld.schedMarkEnable.fits sl :=
  Fld.fits_of_unwired (show (sl == 0) = false by simp; omega) (by decide) (by decide) (by decide)

/-- Both buckets written, at values that fit. -/
theorem State.reg_writeBuckets (y : State) {c p : Nat} (hc : c < 2 ^ 32) (hp : p < 2 ^ 32) :
    ((y.wr Fld.schedTcTc sl c).wr Fld.schedTpTp sl p).reg .schedTc sl = c ∧
    ((y.wr Fld.schedTcTc sl c).wr Fld.schedTpTp sl p).reg .schedTp sl = p := by
  constructor
  · rw [State.reg_wr_name _ Fld.schedTpTp _ _ _ (by decide)]
    exact (State.reg_wr_whole _ (schedTc_whole h1) c).trans (Nat.mod_eq_of_lt hc)
  · exact (State.reg_wr_whole _ (schedTp_whole h1) p).trans (Nat.mod_eq_of_lt hp)

section InOrder

variable (hs : x.inOrder = true)
include hs

theorem State.rd_schedTc : x.rd Fld.schedTcTc sl = x.reg .schedTc sl := State.rd_whole hs (schedTc_whole h1)
theorem State.rd_schedTp : x.rd Fld.schedTpTp sl = x.reg .schedTp sl := State.rd_whole hs (schedTp_whole h1)

theorem State.schedCbs_lt : x.reg .schedCbs sl < 2 ^ 32 := State.reg_lt hs (regMask_bucket h1 (.inr (.inr (.inl rfl))))
theorem State.schedPbs_lt : x.reg .schedPbs sl < 2 ^ 32 := State.reg_lt hs (regMask_bucket h1 (.inr (.inr (.inr rfl))))

/-- The buckets as the rates written last cut them. -/
theorem State.markerRates_buckets :
    (x.markerRates sl).rd Fld.schedTcTc sl = min (x.reg .schedCbs sl) (x.reg .schedTc sl) ∧
    (x.markerRates sl).rd Fld.schedTpTp sl = min (x.reg .schedPbs sl) (x.reg .schedTp sl) := by
  have hc := State.schedCbs_lt h1 hs
  have hp := State.schedPbs_lt h1 hs
  unfold State.markerRates
  constructor
  · rw [State.rd_wr_name _ Fld.schedTpTp Fld.schedTcTc _ _ _ (by decide), State.rd_wr_same _ _ _ _ (schedTc_whole h1).fits,
      State.rd_setSliceSt, State.rd_schedTc h1 hs]
    exact Nat.mod_eq_of_lt ((Nat.min_le_left ..).trans_lt hc)
  · rw [State.rd_wr_same _ _ _ _ (schedTp_whole h1).fits, State.rd_setSliceSt, State.rd_schedTp h1 hs]
    exact Nat.mod_eq_of_lt ((Nat.min_le_left ..).trans_lt hp)

end InOrder

end Marker

/-- The rates and sizes in force. -/
theorem State.markerRates_record (x : State) (sl : Nat) :
    ((x.markerRates sl).sliceSt sl).cbs = x.reg .schedCbs sl ∧ ((x.markerRates sl).sliceSt sl).pbs = x.reg .schedPbs sl ∧
    ((x.markerRates sl).sliceSt sl).cir = x.reg .schedCir sl ∧ ((x.markerRates sl).sliceSt sl).pir = x.reg .schedPir sl := by
  unfold State.markerRates
  simp only [State.sliceSt_wr, State.sliceSt_setSliceSt_same, and_self]

/-- The rates that come into force change the two buckets of their slice alone. -/
theorem State.reg_markerRates (x : State) {sl : Nat} {n : RegName} {i : Nat} (hn : ¬ ((n = .schedTc ∨ n = .schedTp) ∧ i = sl)) :
    (x.markerRates sl).reg n i = x.reg n i := by
  unfold State.markerRates
  rw [State.reg_wr_other _ Fld.schedTpTp _ fun e => hn ⟨.inr e.1, e.2⟩, State.reg_wr_other _ Fld.schedTcTc _ fun e => hn ⟨.inl e.1, e.2⟩,
    State.reg_setSliceSt]

theorem State.reg_markerRefill (x : State) {sl : Nat} {n : RegName} {i : Nat} (hn : ¬ ((n = .schedTc ∨ n = .schedTp) ∧ i = sl)) :
    (x.markerRefill sl).reg n i = x.reg n i := by
  unfold State.markerRefill
  rw [State.reg_wr_other _ Fld.schedTpTp _ fun e => hn ⟨.inr e.1, e.2⟩, State.reg_wr_other _ Fld.schedTcTc _ fun e => hn ⟨.inl e.1, e.2⟩,
    State.reg_markerRates x hn]

theorem State.markerRefill_buckets {x : State} {sl : Nat} (h1 : 1 ≤ sl) (hs : x.inOrder = true) :
    (x.markerRefill sl).reg .schedTc sl = min (x.reg .schedCbs sl) (x.reg .schedTc sl + x.reg .schedCir sl) ∧
    (x.markerRefill sl).reg .schedTp sl = min (x.reg .schedPbs sl) (x.reg .schedTp sl + x.reg .schedPir sl) := by
  have hc := State.schedCbs_lt h1 hs
  have hp := State.schedPbs_lt h1 hs
  obtain ⟨htc, htp⟩ := State.markerRates_buckets h1 hs
  obtain ⟨hcbs, hpbs, hcir, hpir⟩ := x.markerRates_record sl
  unfold State.markerRefill
  dsimp only
  rw [htc, htp, hcbs, hpbs, hcir, hpir]
  obtain ⟨hregc, hregp⟩ := State.reg_writeBuckets h1 (x.markerRates sl)
    (c := min (x.reg .schedCbs sl) (min (x.reg .schedCbs sl) (x.reg .schedTc sl) + x.reg .schedCir sl))
    (p := min (x.reg .schedPbs sl) (min (x.reg .schedPbs sl) (x.reg .schedTp sl) + x.reg .schedPir sl)) (by omega) (by omega)
  rw [hregc, hregp]
  constructor <;> omega

/-! ### Setting enable -/

/-- SCHED_MARK as it is written. -/
def State.markBits (x : State) (sl v : Nat) : State :=
  ((x.wr Fld.schedMarkEnable sl v).wr Fld.schedMarkColourAware sl (v / 2)).wr Fld.schedMarkRingYellow sl (v / 4)

/-- SCHED_MARK as it is written, with the rates and sizes in force. -/
def State.markWritten (x : State) (sl v : Nat) : State := (x.markBits sl v).markerRates sl

theorem State.reg_markBits (x : State) {sl v : Nat} {n : RegName} {i : Nat} (hn : ¬ (n = .schedMark ∧ i = sl)) :
    (x.markBits sl v).reg n i = x.reg n i := by
  rw [State.markBits, State.reg_wr_other _ Fld.schedMarkRingYellow _ hn, State.reg_wr_other _ Fld.schedMarkColourAware _ hn,
    State.reg_wr_other _ Fld.schedMarkEnable _ hn]

/-- Both buckets at the sizes written. -/
def State.fillBuckets (y : State) (sl : Nat) : State := (y.wr Fld.schedTcTc sl (y.reg .schedCbs sl)).wr Fld.schedTpTp sl (y.reg .schedPbs sl)

theorem State.schedMarkWrite_fills {x : State} {sl v : Nat} (h1 : 1 ≤ sl) (hv : v % 2 = 1) (he : x.on Fld.schedMarkEnable sl = false) :
    x.schedMarkWrite sl v = (x.markWritten sl v).fillBuckets sl := by
  rw [State.schedMarkWrite, if_neg (by omega), if_pos (by simp [hv, he])]
  rfl

theorem State.reg_markWritten (x : State) {sl v : Nat} {n : RegName} {i : Nat}
    (hn : ¬ ((n = .schedMark ∨ n = .schedTc ∨ n = .schedTp) ∧ i = sl)) : (x.markWritten sl v).reg n i = x.reg n i := by
  rw [State.markWritten, State.reg_markerRates _ fun e => hn ⟨.inr e.1, e.2⟩, State.reg_markBits _ fun e => hn ⟨.inl e.1, e.2⟩]

theorem State.reg_fillBuckets (y : State) {sl : Nat} {n : RegName} {i : Nat} (hn : ¬ ((n = .schedTc ∨ n = .schedTp) ∧ i = sl)) :
    (y.fillBuckets sl).reg n i = y.reg n i := by
  rw [State.fillBuckets, State.reg_wr_other _ Fld.schedTpTp _ fun e => hn ⟨.inr e.1, e.2⟩,
    State.reg_wr_other _ Fld.schedTcTc _ fun e => hn ⟨.inl e.1, e.2⟩]

theorem State.sliceSt_fillBuckets (y : State) (sl k : Nat) : (y.fillBuckets sl).sliceSt k = y.sliceSt k := by
  simp only [State.fillBuckets, State.sliceSt_wr]

theorem State.markWritten_enable (x : State) {sl v : Nat} (h1 : 1 ≤ sl) (hv : v % 2 = 1) :
    ((x.markWritten sl v).fillBuckets sl).on Fld.schedMarkEnable sl = true := by
  have hf := schedMarkEnable_fits h1
  have hrd : ((x.markWritten sl v).fillBuckets sl).rd Fld.schedMarkEnable sl = 1 := by
    rw [State.rd, State.reg_fillBuckets _ (by simp [Fld.schedMarkEnable]), State.markWritten,
      State.reg_markerRates _ (by simp [Fld.schedMarkEnable]), ← State.rd, State.markBits,
      State.rd_wr_field _ Fld.schedMarkRingYellow Fld.schedMarkEnable _ _ rfl hf (by decide),
      State.rd_wr_field _ Fld.schedMarkColourAware Fld.schedMarkEnable _ _ rfl hf (by decide), State.rd_wr_same _ _ _ _ hf]
    exact hv
  rw [State.on, hrd]
  rfl

theorem State.markWritten_buckets {x : State} {sl v : Nat} (h1 : 1 ≤ sl) (hs : x.inOrder = true) :
    ((x.markWritten sl v).fillBuckets sl).reg .schedTc sl = x.reg .schedCbs sl ∧
    ((x.markWritten sl v).fillBuckets sl).reg .schedTp sl = x.reg .schedPbs sl := by
  rw [State.fillBuckets, State.reg_markWritten _ (by simp), State.reg_markWritten _ (by simp)]
  exact State.reg_writeBuckets h1 _ (State.schedCbs_lt h1 hs) (State.schedPbs_lt h1 hs)

theorem State.markWritten_record (x : State) (sl v : Nat) :
    ((x.markWritten sl v).sliceSt sl).cbs = x.reg .schedCbs sl ∧ ((x.markWritten sl v).sliceSt sl).pbs = x.reg .schedPbs sl ∧
    ((x.markWritten sl v).sliceSt sl).cir = x.reg .schedCir sl ∧ ((x.markWritten sl v).sliceSt sl).pir = x.reg .schedPir sl := by
  obtain ⟨hcbs, hpbs, hcir, hpir⟩ := (x.markBits sl v).markerRates_record sl
  simp only [State.markWritten, hcbs, hpbs, hcir, hpir, x.reg_markBits (sl := sl) (v := v) (i := sl), reduceCtorEq, false_and, not_false_eq_true, and_self]

/-! ### Colours -/

section Colour

variable {x : State} {sl B : Nat} {yellow : Bool} (h1 : 1 ≤ sl) (hs : x.inOrder = true)
include h1 hs

theorem State.mark_red (h : x.reg .schedTp sl < min B (x.sliceSt sl).pbs) : x.mark sl B yellow = (0, x) := by
  rw [State.mark, if_pos (by rwa [State.rd_schedTp h1 hs])]

theorem State.mark_yellow (hp : min B (x.sliceSt sl).pbs ≤ x.reg .schedTp sl)
    (hc : (x.on Fld.schedMarkColourAware sl = true ∧ yellow = true) ∨ x.reg .schedTc sl < min B (x.sliceSt sl).cbs) :
    x.mark sl B yellow = (1, x.wr Fld.schedTpTp sl (x.reg .schedTp sl - min B (x.sliceSt sl).pbs)) := by
  rw [State.mark, State.rd_schedTc h1 hs, State.rd_schedTp h1 hs, if_neg (by omega), if_pos (by simpa using hc)]

theorem State.mark_green (hp : min B (x.sliceSt sl).pbs ≤ x.reg .schedTp sl)
    (hy : x.on Fld.schedMarkColourAware sl = false ∨ yellow = false) (hc : min B (x.sliceSt sl).cbs ≤ x.reg .schedTc sl) :
    x.mark sl B yellow = (2, (x.wr Fld.schedTpTp sl (x.reg .schedTp sl - min B (x.sliceSt sl).pbs)).wr Fld.schedTcTc sl
      (x.reg .schedTc sl - min B (x.sliceSt sl).cbs)) := by
  rw [State.mark, State.rd_schedTc h1 hs, State.rd_schedTp h1 hs, if_neg (by omega), if_neg]
  rcases hy with hy | hy <;> simp [hy] <;> omega

end Colour

/-- Settles O38: the buckets hold what their sizes, their contents and the packet's cost give. -/
theorem markerBuckets : Obligations.MarkerBuckets := by
  intro dt sl s x hx hord h1 hsl
  have hs : x.inOrder = true := hx ▸ State.inOrder_advance dt hord
  have hreg : ∀ n i, s.reg n i = x.reg n i := fun n i => by rw [hx, State.reg_advance]
  have hon : ∀ f i, s.on f i = x.on f i := fun f i => by rw [hx, State.on_advance]
  simp only [sameReg, hreg, hon]
  obtain ⟨hrefc, hrefp⟩ := State.markerRefill_buckets h1 hs
  refine ⟨⟨hrefc, hrefp, fun n i hn => State.reg_markerRefill x hn⟩, fun v h hv he => ?enable, fun B bc bp yellow hbc hbp =>
    ⟨fun hr => ?red, fun hp hy => ?yellow, fun hp hy hc => ?green⟩⟩
  case enable =>
    have ht : Does (.markerEnable dt sl v) s ((x.markWritten sl v).fillBuckets sl) :=
      does_of hx (by rw [exec, execMarkerEnable]) h (State.schedMarkWrite_fills h1 hv he)
    obtain ⟨htc, htp⟩ := State.markWritten_buckets (v := v) h1 hs
    obtain ⟨hcbs, hpbs, hcir, hpir⟩ := x.markWritten_record sl v
    refine ⟨_, ht, x.markWritten_enable h1 hv, htc, htp, ?_, ?_, ?_, ?_, fun n i hn => ?_, (exec_still rfl ht).sameMemory⟩
    · rw [State.sliceSt_fillBuckets, hcbs]
    · rw [State.sliceSt_fillBuckets, hpbs]
    · rw [State.sliceSt_fillBuckets, hcir]
    · rw [State.sliceSt_fillBuckets, hpir]
    · rw [State.reg_fillBuckets _ fun e => hn ⟨.inr e.1, e.2⟩, State.reg_markWritten _ hn]
  all_goals subst hbc hbp
  case red => exact State.mark_red h1 hs hr
  case yellow =>
    have htp := State.reg_lt hs (schedTp_whole h1).2.2
    rw [State.mark_yellow h1 hs hp hy]
    refine ⟨rfl, (State.reg_wr_whole _ (schedTp_whole h1) _).trans (Nat.mod_eq_of_lt ?_), State.reg_wr_name _ Fld.schedTpTp _ _ _ (by decide)⟩
    exact (Nat.sub_le ..).trans_lt htp
  case green =>
    have htp := State.reg_lt hs (schedTp_whole h1).2.2
    have htc := State.reg_lt hs (schedTc_whole h1).2.2
    rw [State.mark_green h1 hs hp hy hc]
    refine ⟨rfl, ?_, (State.reg_wr_whole _ (schedTc_whole h1) _).trans (Nat.mod_eq_of_lt ((Nat.sub_le ..).trans_lt htc))⟩
    rw [State.reg_wr_name _ Fld.schedTcTc _ _ _ (by decide)]
    exact (State.reg_wr_whole _ (schedTp_whole h1) _).trans (Nat.mod_eq_of_lt ((Nat.sub_le ..).trans_lt htp))

end Sys2Proof.Machine
end

section
/-! Scheduling commands: markers, shares, tenant switches (R252, R255, R258 to R266), gate lists and windows (R268 to R272). -/
namespace Sys2Proof.Machine

section Row

variable {i : Instr} {dt : Nat} {s x t : State} (hx : x = s.advance dt)
include hx

/-- A command of a common count does what it does once at it. -/
theorem does_periodic {k : Tick} {p : State → Bool} {f : State → State} (he : exec i s = enter i dt s fun x => x.periodic k (p x) f)
    (h : Ok i) (hp : p x = true) (hk : x.ticked.contains k = false) (ht : f { x with ticked := k :: x.ticked } = t) : Does i s t :=
  does_of hx he h ((State.periodic_of (by rw [hp, hk]; rfl)).trans ht)

/-- A command with one subject among those of a kind. -/
theorem does_filtered {α : Type} {o : State → Option α} {p : α → Bool} {k : State → State → α → State} {a : α}
    (he : exec i s = enter i dt s fun x => x.forSome ((o x).filter p) (k x)) (h : Ok i) (ha : o x = some a) (hp : p a = true)
    (ht : k x x a = t := by rfl) : Does i s t :=
  does_forSome hx he h (by simp [ha, Option.filter, hp]) ht

/-- A command with one subject and one condition on it. -/
theorem does_forSome_whenever {α : Type} {o : State → Option α} {p : State → α → Bool} {k : State → α → State → State} {a : α}
    (he : exec i s = enter i dt s fun x => x.forSome (o x) fun y a => y.whenever (p y a) (k y a)) (h : Ok i) (ha : o x = some a)
    (hp : p x a = true) (ht : k x a x = t := by rfl) : Does i s t :=
  does_forSome hx he h ha ((State.whenever_of hp).trans ht)

end Row

/-! ### Markers and shares -/

theorem State.shareWrite_acts {x : State} {sl v : Nat} (h1 : 1 ≤ sl) (hw : v % 2 ^ 16 ≠ 0)
    (hs : bitAt v 16 = false ∨ x.fixedShare sl = true ∨ x.sharesBasin sl = false) :
    x.shareWrite sl v = ((x.wr Fld.schedShareWeight sl v).wr Fld.schedShareFixedShare sl (v / 2 ^ 16)).protectNow x
      ((List.range 64).filter fun k =>
        ((x.wr Fld.schedShareWeight sl v).wr Fld.schedShareFixedShare sl (v / 2 ^ 16)).fixedShare sl && x.assigned sl k) := by
  have hno : (decide (v % 2 ^ 16 = 0) || (bitAt v 16 && !x.fixedShare sl && x.sharesBasin sl)) = false := by
    rw [decide_eq_false hw]
    rcases hs with hs | hs | hs <;> simp [hs]
  rw [State.shareWrite, if_neg (by omega), if_neg (by rw [hno]; decide)]

/-! ### Tenant switches -/

section Switch

variable {dt b : Nat} {s x : State} (hx : x = s.advance dt) (hb : b < 64)

/-- What pre-emption at once, and at the end of the owner's quantum, asks of a claim. -/
def State.mayPreempt (x : State) (b : Nat) (c : Claim) : Bool :=
  (x.ownerWork b).isEmpty || ((x.saveArea (x.basin b).tenant b).isSome && c.tier < x.ownerTier b)
def State.mayExpire (x : State) (b : Nat) (c : Claim) : Bool :=
  !(x.ownerWork b).isEmpty && (x.saveArea (x.basin b).tenant b).isSome && c.tier == x.ownerTier b && x.quantumOver b

/-- The owner yields to the winning claim when what the command asks of it holds. -/
theorem State.arbitrate_of {x : State} {b : Nat} {p : Claim → Bool} {c : Claim} (hc : bestClaim (x.claimsOn b) = some c)
    (hm : x.maySwitch b = true) (hd : x.deferSwitch b c.slice = false) (hp : p c = true) : x.arbitrate b p = x.requestYield b c.slice := by
  rw [State.arbitrate, hc, State.forSome_some, State.whenever_of (by simp [hm, hd, hp])]

include hx hb

theorem does_yieldRequest {c : Claim} (hc : bestClaim (x.claimsOn b) = some c) (hm : x.maySwitch b = true)
    (hd : x.deferSwitch b c.slice = false)
    (hp : x.ownerWork b = [] ∨ ((x.saveArea (x.basin b).tenant b).isSome = true ∧ c.tier < x.ownerTier b)) :
    Does (.yieldRequest dt b) s (x.requestYield b c.slice) :=
  does_of hx (by rw [exec, execYieldRequest]) (decide_eq_true hb) (State.arbitrate_of (p := State.mayPreempt x b) hc hm hd (by simpa [State.mayPreempt] using hp))

theorem does_quantumExpiry {c : Claim} (hc : bestClaim (x.claimsOn b) = some c) (hm : x.maySwitch b = true)
    (hd : x.deferSwitch b c.slice = false) (hw : x.ownerWork b ≠ []) (ha : (x.saveArea (x.basin b).tenant b).isSome = true)
    (ht : c.tier = x.ownerTier b) (hq : x.quantumOver b = true) : Does (.quantumExpiry dt b) s (x.requestYield b c.slice) :=
  does_of hx (by rw [exec, execQuantumExpiry]) (decide_eq_true hb) (State.arbitrate_of (p := State.mayExpire x b) hc hm hd (by simp [State.mayExpire, hw, ha, ht, hq]))

theorem does_yieldDrained {w : Switch} (hw : (x.basin b).switch = some w) (h1 : w.stage = 1)
    (hd : x.drained b = true ∨ x.withdrawn b w = true) : Does (.yieldDrained dt b) s (x.yieldDrained b w) := by
  have hover : (x.drained b || x.withdrawn b w) = true := by simpa using hd
  exact does_filtered hx (by rw [exec, execYieldDrained]) (decide_eq_true hb) hw (by rw [h1]; rfl) (State.whenever_of hover)

theorem does_handoverZeroingDone {z : Zeroing} (hz : (x.basin b).zeroing = some z) (hk : z.kind = 1) :
    Does (.handoverZeroingDone dt b) s (x.handoverZeroed b z) :=
  does_forSome hx (by rw [exec, execHandoverZeroingDone]) (decide_eq_true hb) hz (by simp only [hk])

theorem does_restoreComplete {w : Switch} {poison : Bool} (hw : (x.basin b).switch = some w) (h4 : w.stage = 4) :
    Does (.restoreComplete dt b poison) s (x.restoreDone b w poison) :=
  does_filtered hx (by rw [exec, execRestoreComplete]) (decide_eq_true hb) hw (by rw [h4]; rfl)

end Switch

theorem State.withdrawn_iff {x : State} {b : Nat} {w : Switch} : x.withdrawn b w = true ↔ ∀ c, c ∈ x.claimsOn b → c.slice ≠ w.incoming := by
  simp [State.withdrawn]

/-- The saved job of the incoming slice is read from its save area, which is in order. -/
theorem State.restoreDone_of_ok {x : State} {b a : Nat} {w : Switch} {j : SavedJob} (hj : x.saved? w.incoming b = some j)
    (ha : x.saveArea w.incoming b = some a) (hok : x.areaOk b w.incoming a (x.liveParts b a 0) false = true) :
    x.restoreDone b w false =
      ((((((x.readArea b a (x.liveParts b a 0)).unpackJob b w.incoming a j).setRegBit .schedSaved w.incoming b false).bump
        Fld.schedRestoresRestores w.incoming).chargeMove w.incoming a (saveBytes (x.liveParts b a 0))).handOver b w.incoming) := by
  rw [State.restoreDone, hj]
  dsimp only
  rw [ha]
  dsimp only
  rw [hok]
  rfl

/-- Settles O36: each scheduling command under its conditions makes its own change. -/
theorem schedulingCommandsComplete : Obligations.SchedulingCommandsComplete := by
  intro dt b s x hx hb
  refine ⟨fun y htick hk hy => ?refill, fun sl v h1 h hv he => ⟨_, rfl, ?enable⟩, fun sl v h1 hw hs y hy => ⟨fun h => ?weight, fun h => ?share⟩,
    ?tiers, fun c hc hm hd => ⟨fun hp => does_yieldRequest hx hb hc hm hd hp, fun hw ha ht hq => does_quantumExpiry hx hb hc hm hd hw ha ht hq⟩,
    fun w hw h1 => ⟨fun hno => ?withdrawn, fun hd hc => ⟨fun ha => ?save, fun ha => ?zero⟩⟩, fun w ups y a h hw h2 hy _ _ => ?saved,
    fun z w hz hk hw => ⟨_, rfl, fun hj => ?hands, fun hj => ?restores⟩, fun w j a hw h4 hj ha hok => ?restored⟩
  case refill => exact does_periodic hx (by rw [exec, execMarkerRefill]) rfl htick hk (by rw [hy])
  case enable => exact does_of hx (by rw [exec, execMarkerEnable]) h (State.schedMarkWrite_fills h1 hv he)
  case weight => exact does_of hx (by rw [exec, execWeightWrite]) h (by rw [State.shareWrite_acts h1 hw hs, hy])
  case share => exact does_of hx (by rw [exec, execFixedShareWrite]) h (by rw [State.shareWrite_acts h1 hw hs, hy])
  case tiers => exact does_of hx (by rw [exec, execEffectiveTierUpdate]) rfl rfl
  case withdrawn =>
    have ht := does_yieldDrained hx hb hw h1 (.inr (State.withdrawn_iff.2 hno))
    rwa [State.yieldDrained, if_pos (State.withdrawn_iff.2 hno)] at ht
  case save =>
    obtain ⟨c, hc, he⟩ := hc
    have ht := does_yieldDrained hx hb hw h1 (.inl hd)
    rwa [State.yieldDrained, if_neg fun hn => State.withdrawn_iff.1 hn c hc he, if_pos ha] at ht
  case zero =>
    obtain ⟨c, hc, he⟩ := hc
    have ht := does_yieldDrained hx hb hw h1 (.inl hd)
    rwa [State.yieldDrained, if_neg fun hn => State.withdrawn_iff.1 hn c hc he, if_neg (by simp [ha])] at ht
  case saved =>
    exact does_filtered hx (by rw [exec, execSaveComplete]) h hw (by rw [h2]; rfl) (by rw [hy])
  case hands =>
    have ht := does_handoverZeroingDone hx hb hz hk
    rw [State.handoverZeroed, hw] at ht
    simpa [hj] using ht
  case restores =>
    have ht := does_handoverZeroingDone hx hb hz hk
    rw [State.handoverZeroed, hw] at ht
    simpa [hj] using ht
  case restored => rw [← State.restoreDone_of_ok hj ha hok]; exact does_restoreComplete hx hb hw h4

/-! ### Gate lists and windows -/

section Gate

variable {dt r b : Nat} {s x : State} (hx : x = s.advance dt)

/-- A GATE_LIST whose parameters and contents are in order. -/
theorem State.gateListAct_of_ok {x y : State} {c d : Cmd} (hp : x.gateParamsOk c = true) (hr : bitAt c.params 8 = false)
    (hst : x.gateListStatus c false = stOk)
    (hy : y = x.modCmd c.id (fun k => { k with faultAddr := some (c.par 128 44), hbmB := k.hbmB + gateListBytes (x.devNat (c.par 128 44) 32) }))
    (hd : y.cmd? c.id = some d) :
    x.gateListAct c false =
      (((y.setPending (d.par 0 6) (d.par 64 64) (some (y.gateListAt (c.par 128 44)))).protectNow y [d.par 0 6]).finishNow d stOk) := by
  rw [State.gateListAct, if_neg (by simp [hp]), if_neg (by simp [hr])]
  dsimp only
  rw [← hy, hd, State.forSome_some, if_pos hst]

theorem State.gateListAct_removes {x : State} {c : Cmd} (hp : x.gateParamsOk c = true) (hr : bitAt c.params 8 = true) :
    x.gateListAct c false = (x.setPending (c.par 0 6) (c.par 64 64) none).finishNow c stOk := by
  rw [State.gateListAct, if_neg (by simp [hp]), if_pos hr]

include hx

theorem does_gateList {c : Cmd} (h : Ok (.gateList dt r false)) (hc : x.firstH r 0x31 = some c) (hr : bitAt c.params 8 = false) :
    Does (.gateList dt r false) s (x.gateListAct c false) :=
  does_forSome_whenever hx (by rw [exec, execGateList]; rfl) h hc (by rw [hr]; rfl)

theorem does_gateListRemove {c : Cmd} (h : Ok (.gateListRemove dt r)) (hc : x.firstH r 0x31 = some c) (hr : bitAt c.params 8 = true) :
    Does (.gateListRemove dt r) s (x.gateListAct c false) :=
  does_forSome_whenever hx (by rw [exec, execGateListRemove]; rfl) h hc hr rfl

end Gate

/-- Settles O37: each gate command under its conditions makes its own change. -/
theorem gateCommandsComplete : Obligations.GateCommandsComplete := by
  intro dt b s x hx hb
  refine ⟨fun r c d y hc hp hy => ⟨fun h hr hst hd => ?list, fun h hr => ?remove⟩, fun t ht hle hg hw => ⟨_, rfl, ?act⟩,
    fun l hl hw => ⟨fun hg ho => ?guard, fun ho => ?opens⟩, fun hw he hp => ⟨fun hr => ?closes, fun hr => ?longer⟩, fun hw he hr => ?late⟩
  case list => rw [← State.gateListAct_of_ok hp hr hst hy hd]; exact does_gateList hx h hc hr
  case remove => rw [← State.gateListAct_removes hp hr]; exact does_gateListRemove hx h hc hr
  case act =>
    refine does_forSome_whenever hx (by rw [exec, execGateListAct]) (decide_eq_true hb) ht ?_ rfl
    rcases hw with hw | hw <;> simp [hle, hg, hw]
  case guard =>
    exact does_forSome_whenever hx (by rw [exec, execGuardBandBegin]) (decide_eq_true hb) hl (by simp [hg, hw, ho])
  case opens => exact does_forSome_whenever hx (by rw [exec, execWindowOpen]) (decide_eq_true hb) hl (by simp [hw, ho])
  case closes =>
    exact does_whenever hx (by rw [exec, execWindowClose]) (decide_eq_true hb) (by simp [hw, he, hp]) (by rw [if_neg (by simp [hr])])
  case longer =>
    exact does_whenever hx (by rw [exec, execWindowClose]) (decide_eq_true hb) (by simp [hw, he, hp]) (by rw [if_pos hr])
  case late => exact does_whenever hx (by rw [exec, execWindowExtendedClose]) (decide_eq_true hb) (by simp [hw, he, hr]) (by rfl)

end Sys2Proof.Machine
end

section
/-! Radio commands: carriers and fronthaul (R276 to R283, R286, R296), operations (R281 to R300), migration (R301, R302). -/
namespace Sys2Proof.Machine

/-! ### Carriers, fronthaul, reserved basins -/

theorem State.carrierWrite_acts {x : State} {c v : Nat} (h : v % 2 = 0 ∨ (x.setReg .carCtrl c (v % 2 ^ 25)).carrierOk c = true) :
    x.carrierWrite c v = x.setReg .carCtrl c (v % 2 ^ 25) := by
  rw [State.carrierWrite, if_pos (by simpa using h)]

theorem State.intake_writes {x : State} {p : UPlane} {stamp k : Nat} (hc : x.carServes p.car = true) (hs : x.safe = false)
    (hk : x.sectionSlot p stamp = some k) (hok : x.uplaneOk p = true) :
    x.intake p stamp = x.each p.sections fun s q => s.sectionWrite p q k := by
  rw [State.intake, State.whenever_of (by simp [hc, hs]), hk, hok]

theorem State.reservedWrite_acts {x : State} {v : Nat} {sets clears : List Nat}
    (hs : sets = (List.range 64).filter (fun b => bitAt v b && !x.regBit .radioReserved 0 b))
    (hc : clears = (List.range 64).filter (fun b => !bitAt v b && x.regBit .radioReserved 0 b))
    (hset : ∀ b, b ∈ sets → x.mayReserve b = true) (hclear : ∀ b, b ∈ clears → x.mayRelease b = true) :
    x.reservedWrite v =
      ((x.each sets fun s b => s.reserveBasin b true).each clears fun s b => s.reserveBasin b false).protectNow x sets := by
  have hok : (sets.all x.mayReserve && clears.all x.mayRelease) = true := by
    rw [Bool.and_eq_true, List.all_eq_true, List.all_eq_true]
    exact ⟨hset, hclear⟩
  rw [State.reservedWrite, ← hs, ← hc, if_pos hok]

theorem State.radioCtrlWrite_acts {x : State} {v : Nat} (h : v % 2 = 0 ∨ x.harqRegionOk = true) :
    x.radioCtrlWrite v = x.wr Fld.radioCtrlEnable 0 v := by
  rw [State.radioCtrlWrite, if_neg]
  rintro ⟨hv, hh⟩
  rcases h with h | h
  · omega
  · simp [h] at hh

/-- Settles O39: each carrier command under its conditions makes its own change. -/
theorem carrierCommandsComplete : Obligations.CarrierCommandsComplete := by
  intro dt s x hx
  refine ⟨fun c v h hok => ?enable, fun p k h hc hs hk hok => ?sections, fun c slot sym hc hs => ⟨fun h hle hm => ?closes, fun h hle hm => ?emits⟩,
    fun v sets clears h hs hc hset hclear => ?reserves, fun v h hok => ?radio, fun r poison c os tails h hc ha => ?plan⟩
  case enable => exact does_of hx (by rw [exec, execCarrierEnable]) h (State.carrierWrite_acts hok)
  case sections => exact does_of hx (by rw [exec, execUplaneSection]) h (by rw [State.intake_writes hc hs hk hok])
  case closes => exact does_whenever hx (by rw [exec, execReceiveWindowClose]) h (by simp [hc, hs, hle, hm]) (by rfl)
  case emits => exact does_whenever hx (by rw [exec, execDlSymbolEmission]) h (by simp [hc, hs, hle, hm]) (by rfl)
  case reserves => exact does_of hx (by rw [exec, execRadioReservedWrite]) h (State.reservedWrite_acts hs hc hset hclear)
  case radio => exact does_of hx (by rw [exec, execRadioEnable]) h (State.radioCtrlWrite_acts hok)
  case plan => exact does_forSome hx (by rw [exec, execSlotPlan]; rfl) h hc (by rw [State.slotPlanAct, ha, State.planEnds])

/-! ### Operations -/

section Op

variable {dt i : Nat} {poison : Bool} {s x : State} (hx : x = s.advance dt) {p : Plan} {n : Nat} {o : RadioOp}

theorem State.startWell_of {e kind : Nat} (hs : x.startable e kind = some (p, n, o)) : x.startWell e kind poison = x.wellStart p n o poison := by
  rw [State.startWell, hs, State.forSome_some]

include hx

theorem does_cplaneTx {y z : State} {m : List Byte} (h : Ok (.cplaneTx dt i false)) (hs : x.startable (opEngine i 10 0 0) 10 = some (p, n, o))
    (hf : x.devFenced (slice o.params 0 44) (slice o.params 48 11) = false)
    (hy : y = x.modOp p.cmd n fun o => { o with st := 1, poison := false })
    (hm : y.cplaneFrame (y.devRead (slice o.params 0 44) (slice o.params 48 11)) = (m, z)) :
    Does (.cplaneTx dt i false) s (z.originate (z.rd Fld.carCtrlEthPort p.carrier)
      (z.rd Fld.ethSrcTcCplaneTc (z.rd Fld.carCtrlEthPort p.carrier)) 0 m) := by
  refine does_forSome hx (by rw [exec, execCplaneTx]) h hs ?_
  rw [State.cplaneStart, hf, Bool.false_or, ← hy, if_neg (by decide), hm]

theorem does_radioJetOp {j : Nat} {ups : List Upset} {y z : State} (h : Ok (.radioJetOp dt i j ups)) (hy : y = x.upsets ups)
    (hs : y.startable (opEngine 0 8 i j) 8 = some (p, n, o)) (hl : Jd.chainAddr o.tile = 0 ∨ y.noLone i = true)
    (ht : y.takeStart (2 * i + j) 4 = (z, true)) : Does (.radioJetOp dt i j ups) s (z.radioJetStart p n o) := by
  have hfree : (Jd.chainAddr o.tile == 0 || y.noLone i) = true := by simpa using hl
  refine does_of hx (by rw [exec, execRadioJetOp]) h ?_
  simp only [← hy, hs, Option.filter, hfree, if_true, State.forSome_some, ht]

theorem does_radioSpoutOp {z : State} (h : Ok (.radioSpoutOp dt i)) (hs : x.startable (opEngine 0 9 i 0) 9 = some (p, n, o))
    (hf : (x.basin (x.ctx i)).task = none)
    (ht : x.takeStart (320 + i) ((List.range 8).filter fun k => bitAt o.params (64 + k)).length = (z, true)) :
    Does (.radioSpoutOp dt i) s (z.radioSpoutStart p n o) :=
  does_forSome hx (by rw [exec, execRadioSpoutOp]) h hs (by rw [State.whenever_of (by rw [hf]; rfl), ht]; rfl)

theorem does_radioOpEnd {k : Nat} {ups : List Upset} {bad : List (Nat × Nat)} {stalls : Nat} {y z : State} {o' : RadioOp}
    (h : Ok (.radioOpEnd dt k i ups ⟨bad, stalls⟩)) (hy : y = x.upsets ups) (ho : y.opAt k i = some (p, o)) (h1 : o.st = 1)
    (hw : y.opWrites p i o bad stalls = some (z, o')) : Does (.radioOpEnd dt k i ups ⟨bad, stalls⟩) s (z.opEnded p i o') := by
  refine does_of hx (by rw [exec, execRadioOpEnd]) h ?_
  dsimp only
  rw [← hy, ho, State.forSome_some, State.whenever_of (by rw [h1]; rfl)]
  dsimp only
  rw [hw, State.forSome_some]

/-- An operation that its deadline has passed, though it can run or runs. -/
theorem does_slotOverrun_late {k : Nat} (h : Ok (.slotOverrun dt k i)) (ho : x.opAt k i = some (p, o)) (hl : o.late = false) (h2 : o.st < 2)
    (hd : p.slotStart + o.deadline < x.now) (hr : o.st = 0 → x.cannotRun o = false) :
    Does (.slotOverrun dt k i) s ((x.overrunOp p i).planCheckEnd p.cmd) := by
  have hstuck : (o.st == 0 && x.cannotRun o) = false := by
    by_cases h0 : o.st = 0
    · rw [hr h0, Bool.and_false]
    · simp [h0]
  refine does_forSome hx (by rw [exec, execSlotOverrun]) h ho ?_
  dsimp only
  rw [hstuck, State.whenever_of (by simp [h2, hl, hd]), if_neg (by decide)]

/-- An operation that nothing can run. -/
theorem does_slotOverrun_stuck {k : Nat} (h : Ok (.slotOverrun dt k i)) (ho : x.opAt k i = some (p, o)) (hl : o.late = false) (h0 : o.st = 0)
    (hr : x.cannotRun o = true) :
    Does (.slotOverrun dt k i) s (((x.modOp p.cmd i fun o => { o with st := 3 }).overrunOp p i).planCheckEnd p.cmd) := by
  refine does_forSome hx (by rw [exec, execSlotOverrun]) h ho ?_
  dsimp only
  rw [h0, hr, State.whenever_of (by simp [hl]), if_pos (by decide)]

end Op

/-- Settles O40: each radio operation starts, stops, ends or is taken over under its conditions. -/
theorem radioOperationsComplete : Obligations.RadioOperationsComplete := by
  intro dt i poison s x hx
  refine ⟨fun p n o => ⟨?ldpcDec, ?ldpcEnc, ?polarDec, ?polarEnc, ?dft, ?prach, ?dmrs, fun h hs hf => ?cplane,
      fun j ups y z h hy hs hl ht => does_radioJetOp hx h hy hs hl ht, fun z h hs hf ht => does_radioSpoutOp hx h hs hf ht⟩,
    fun q t id k p o h ht hp ho hl hb => ?budget, fun k ups bad stalls y p o z o' h hy ho h1 hw => does_radioOpEnd hx h hy ho h1 hw,
    fun k p o h ho hl => ⟨fun h2 hd hr => does_slotOverrun_late hx h ho hl h2 hd hr, fun h0 hr => does_slotOverrun_stuck hx h ho hl h0 hr⟩,
    fun t h hb ht => ?standby, fun cls t h hf ht => ?spare⟩
  case ldpcDec => exact fun h hs => does_of hx (by rw [exec, execLdpcDec]) h (State.startWell_of hs)
  case ldpcEnc => exact fun h hs => does_of hx (by rw [exec, execLdpcEnc]) h (State.startWell_of hs)
  case polarDec => exact fun h hs => does_of hx (by rw [exec, execPolarDec]) h (State.startWell_of hs)
  case polarEnc => exact fun h hs => does_of hx (by rw [exec, execPolarEnc]) h (State.startWell_of hs)
  case dft => exact fun h hs => does_of hx (by rw [exec, execDft]) h (State.startWell_of hs)
  case prach => exact fun h hs => does_of hx (by rw [exec, execPrach]) h (State.startWell_of hs)
  case dmrs => exact fun h hs => does_of hx (by rw [exec, execDmrsMeas]) h (State.startWell_of hs)
  case cplane => exact ⟨_, _, _, _, rfl, rfl, rfl, does_cplaneTx hx h hs hf rfl rfl⟩
  case budget =>
    refine does_forSome hx (by rw [exec, execSpoutBudgetStop]) h ht ?_
    dsimp only
    rw [hp, Option.bind_some, ho, State.forSome_some, State.whenever_of (by simp [hl, hb])]
  case standby =>
    refine does_of hx (by rw [exec, execRadioTakeover]) h ?_
    rw [if_pos (Eq.refl 0), State.whenever_of hb, ht, State.forSome_some]
  case spare =>
    refine does_of hx (by rw [exec, execRadioTakeover]) h ?_
    rw [if_neg (Nat.succ_ne_zero cls), Nat.add_sub_cancel, State.whenever_of hf, ht, State.forSome_some]

/-! ### Migration -/

theorem State.migrateAct_starts {x : State} {r : Nat} {dest poison : Bool} {k : Cmd} (hk : x.firstH r 0x32 = some k)
    (hc : x.migCheck k.params k.start poison = stOk) (hd : Mg.dest k.params = dest) :
    x.migrateAct r dest poison = x.migrationStart k dest := by
  rw [State.migrateAct, hk, Option.filter, if_pos (by rw [hd, beq_self_eq_true]), State.forSome_some, if_neg (not_not_intro hc)]

/-- Settles O41: a migration starts, switches, and ends in each of its roles under its conditions. -/
theorem migrationCommandsComplete : Obligations.MigrationCommandsComplete := by
  intro dt c s x hx hc
  refine ⟨fun r poison k hk hok => ⟨fun h hd => ?source, fun h hd => ?dest⟩, fun m hm => ⟨fun hs hle hsafe => ?switch, fun k hs hn ha hk => ?done⟩,
    fun m k hm hk => ⟨fun he hl => ?arrived, fun hl he y d hy hd => ?timeout⟩⟩
  case source => exact does_of hx (by rw [exec, execCellMigrateSource]) h (State.migrateAct_starts hk hok hd)
  case dest => exact does_of hx (by rw [exec, execCellMigrateDest]) h (State.migrateAct_starts hk hok hd)
  case switch =>
    exact does_forSome_whenever hx (by rw [exec, execMigrationSwitch]) (decide_eq_true hc) hm (by simp [hs, hle, hsafe])
  case done =>
    exact does_forSome_whenever hx (by rw [exec, execMigrationSourceDone]) (decide_eq_true hc) hm (by simp [hs, hn, ha])
      (by rw [hk, State.forSome_some])
  case arrived =>
    exact does_forSome_whenever hx (by rw [exec, execMigrationArrival]) (decide_eq_true hc) hm he
      (by dsimp only; rw [if_neg (by omega), hk, State.forSome_some])
  case timeout =>
    exact does_forSome_whenever hx (by rw [exec, execMigrationTimeout]) (decide_eq_true hc) hm (by simp [hl, he])
      (by dsimp only; rw [← hy, hd, State.forSome_some])

end Sys2Proof.Machine
end

section
/-! Timing commands (R307 to R322). -/
namespace Sys2Proof.Machine

/-! ### TIME_CTRL -/

/-- When the SyncE measurement under way began, TIME_CTRL being written with `v`. -/
def State.synceSince (x : State) (v : Nat) : Nat :=
  if bitAt v 3 && (!x.on Fld.timeCtrlSynceEn || x.rd Fld.timeCtrlSyncePort != slice v 4 2) then x.now else x.time.synceAt

/-- TIME_CTRL as it is written. -/
def State.timeCtrlSet (x : State) (v : Nat) : State :=
  { x.setReg .timeCtrl 0 (v % 2 ^ 10) with time := { x.time with synceAt := x.synceSince v } }

/-- The write stores its fields; free_run, when it is set, ends the discipline of the count. -/
theorem State.timeCtrlWrite_eq (x : State) (v : Nat) : x.timeCtrlWrite v =
    if v % 2 = 1 ∧ x.rd Fld.timeStatusState ≠ 0 then
      (({ x.timeCtrlSet v with time := { (x.timeCtrlSet v).time with slewOnly := false } } : State).setTimeState 0).setRate (x.timeCtrlSet v).rateI
    else x.timeCtrlSet v := by
  have hset : (if (bitAt v 3 && (!x.on Fld.timeCtrlSynceEn || x.rd Fld.timeCtrlSyncePort != slice v 4 2)) = true then
      ({ x.setReg .timeCtrl 0 (v % 2 ^ 10) with
        time := { (x.setReg .timeCtrl 0 (v % 2 ^ 10)).time with synceAt := (x.setReg .timeCtrl 0 (v % 2 ^ 10)).now } } : State)
      else x.setReg .timeCtrl 0 (v % 2 ^ 10)) = x.timeCtrlSet v := by
    rw [State.timeCtrlSet, State.synceSince]
    split <;> rfl
  have hst : (x.timeCtrlSet v).rd Fld.timeStatusState = x.rd Fld.timeStatusState := x.rd_setReg_name .timeCtrl Fld.timeStatusState 0 0 _ (by decide)
  rw [State.timeCtrlWrite]
  dsimp only
  rw [hset, hst]

/-! ### Outputs, captures, launches -/

/-- OUT_CTRL with its late and bad bits left as they are. -/
def State.outFields (x : State) (p v : Nat) : State :=
  ((((x.wr Fld.outCtrlEnable p v).wr Fld.outCtrlPeriodic p (v / 2)).wr Fld.outCtrlInvert p (v / 4)).keepFresh .outCtrl p)

theorem State.outCtrlWrite_enables {x : State} {p v : Nat} (hv : v % 32 = 1) (he : x.on Fld.outCtrlEnable p = false)
    (hl : x.outLate p = false) (hb : x.outBad p v = false) : x.outCtrlWrite p v = (x.outFields p v).setOut p {} := by
  have h3 : bitAt v 3 = false := by simp [bitAt]; omega
  have h4 : bitAt v 4 = false := by simp [bitAt]; omega
  rw [State.outCtrlWrite, if_neg (by omega), if_neg (by simp [he]), if_neg (by simp [hl, hb]), h3, h4]
  rfl

theorem State.outCtrlWrite_disables {x : State} {p v : Nat} (hv : v % 32 = 0) : x.outCtrlWrite p v = (x.outFields p v).setOut p {} := by
  have h3 : bitAt v 3 = false := by simp [bitAt]; omega
  have h4 : bitAt v 4 = false := by simp [bitAt]; omega
  rw [State.outCtrlWrite, if_pos (by omega), h3, h4]
  rfl

/-- An edge that follows no other within 8 ns is taken as it comes. -/
theorem State.captureEdge_takes {x : State} {p : Nat} {rising : Bool}
    (h : ∀ e, Tbl.find x.time.edges p = some e → e.1 + pulseMin ≤ x.time.count64) : x.captureEdge p rising = x.takeEdge p rising := by
  rw [State.captureEdge]
  cases he : Tbl.find x.time.edges p with
  | none => rfl
  | some e => exact if_pos (h e he)

theorem State.captureEdge_drops {x : State} {p t what : Nat} {up rising : Bool} (he : Tbl.find x.time.edges p = some (t, up, what))
    (ht : x.time.count64 < t + pulseMin) (hu : up ≠ rising) : x.captureEdge p rising = x.dropEdge p t up what := by
  rw [State.captureEdge, he]
  dsimp only
  rw [if_neg (by omega), if_neg hu]

theorem State.capMetaRead_of {x : State} {p t : Nat} {rising : Bool} {l : List (Nat × Bool)} (h : x.captured p = (t, rising) :: l) :
    x.capMetaRead p = { (x.setCaptures p ((x.captures p).erase (t, rising))).setReg .capStamp p (t / 64) with
      readData := t % 64 + 2 ^ 8 * nat1 rising + 2 ^ 16 * (l.length + 1) } := by
  rw [State.capMetaRead, h]

/-- A launch unit is written when it is not armed too late. -/
theorem State.launchCtrlWrite_acts {x : State} {p v : Nat} (h : v % 2 = 0 ∨ x.now + 1024 ≤ x.rd Fld.launchCountCount p) :
    x.launchCtrlWrite p v = ((x.wr Fld.launchCtrlArm p v).wr Fld.launchCtrlSlice p (v / 2 ^ 8)).wr Fld.launchCtrlRings p (v / 2 ^ 16) := by
  rw [State.launchCtrlWrite, if_neg]
  rcases h with h | h <;> simp [h]

/-- Settles O42: each timing command under its conditions makes its own change. -/
theorem timingCommandsComplete : Obligations.TimingCommandsComplete := by
  intro dt p s x hx
  refine ⟨fun r => ⟨fun hr h => ?sync, fun hr h => ?follow, fun hr h => ?resp, fun hr h hm hd => ?req⟩, fun h he hd => ?sendReq, fun h hm hd => ?sendSync,
    fun hst hle => ?holdover, fun v since y hs hy => ⟨fun h hv hst => ?freeRun, fun h hv => ?trackSel⟩, fun freq h he hle => ?measure, ?loss,
    fun v h hv he hl hb => ?enable, fun v h hv => ?disable, fun h he hs hle => ?edge,
    fun rising h => ⟨fun hno ht => ⟨fun hlt => ?queued, fun hge => ?full⟩, fun t up what he hlt hu => ?drops⟩, fun t rising l h hc => ?stamp,
    fun v => ⟨fun h hv hle => ?arm, fun h hv => ?disarm⟩, fun h ha hle => ⟨_, rfl, ?fire⟩⟩
  case sync => exact does_forSome hx (by rw [exec, execSyncRx]) h hr (by rfl)
  case follow => exact does_forSome hx (by rw [exec, execFollowUpRx]) h hr (by rfl)
  case resp => exact does_forSome hx (by rw [exec, execDelayRespRx]) h hr (by rfl)
  case req =>
    have hmine : ((x.ptpUsed r).masterPort p && (x.ptpUsed r).rd Fld.ppCtrlDomain p == ptpDomain r.frame) = true := by
      rw [Bool.and_eq_true, beq_iff_eq]
      exact ⟨hm, hd⟩
    exact does_forSome hx (by rw [exec, execDelayReqRx]) h hr (by dsimp only; rw [if_pos hmine])
  case sendReq => exact does_whenever hx (by rw [exec, execDelayReqTx]) h (by simp [he, hd]) (by rfl)
  case sendSync => exact does_whenever hx (by rw [exec, execMasterSyncTx]) h (by simp [hm, hd]) (by rfl)
  case holdover =>
    refine does_of hx (by rw [exec, execHoldoverEntry]) rfl ?_
    dsimp only
    rw [State.whenever_of]
    rw [decide_eq_true hle, Bool.and_true]
    rcases hst with hst | hst <;> rw [hst] <;> rfl
  case freeRun =>
    subst hs hy
    exact does_of hx (by rw [exec, execFreeRunWrite]) h (by rw [State.timeCtrlWrite_eq, if_pos ⟨hv, hst⟩]; rfl)
  case trackSel =>
    subst hs hy
    exact does_of hx (by rw [exec, execTrackSelWrite]) h (by rw [State.timeCtrlWrite_eq, if_neg (by omega)]; rfl)
  case measure => exact does_whenever hx (by rw [exec, execSynceMeasure]) h (by rw [he, decide_eq_true hle]; rfl) (by rfl)
  case loss => exact does_of hx (by rw [exec, execSynceLoss]) rfl (by rfl)
  case enable => exact does_of hx (by rw [exec, execOutputEnable]) h (by rw [State.outCtrlWrite_enables hv he hl hb, State.outFields])
  case disable => exact does_of hx (by rw [exec, execOutputDisable]) h (by rw [State.outCtrlWrite_disables hv, State.outFields])
  case edge => exact does_whenever hx (by rw [exec, execOutputEdge]) h (by simp [he, hs, hle]) (by rfl)
  case queued =>
    refine does_of hx (by rw [exec, execCaptureEdge]) h ?_
    rw [State.captureEdge_takes hno, State.takeEdge, if_neg (by simp [ht]), if_pos hlt]
  case full =>
    refine does_of hx (by rw [exec, execCaptureEdge]) h ?_
    rw [State.captureEdge_takes hno, State.takeEdge, if_neg (by simp [ht]), if_neg (by omega)]
  case drops => exact does_of hx (by rw [exec, execCaptureEdge]) h (by rw [State.captureEdge_drops he hlt hu])
  case stamp => exact does_of hx (by rw [exec, execCapMetaRead]) h (by rw [State.capMetaRead_of hc])
  case arm => exact does_of hx (by rw [exec, execLaunchArm]) h (by rw [State.launchCtrlWrite_acts (.inr hle)])
  case disarm => exact does_of hx (by rw [exec, execLaunchDisarm]) h (by rw [State.launchCtrlWrite_acts (.inl hv)])
  case fire => exact does_whenever hx (by rw [exec, execLaunchFire]) h (by simp [ha, hle]) (by rfl)

end Sys2Proof.Machine
end

section
/-! Ethernet commands (R324 to R333). -/
namespace Sys2Proof.Machine

/-- A forwarded frame that its queue has room for and its marker does not call red is queued. -/
theorem State.reach_enqueues {y z : State} {p : Nat} {f : EFrame} {g : Bool} (hp : y.portUp p = true)
    (hr : y.queueRoom p f.cls f.frame = true) (hc : y.colour p f = (z, some g)) : y.reach p f = z.enqueue p f g := by
  rw [State.reach, if_neg (by simp [hp, hr]), hc]

/-- So is the entry of the management transmit ring whose time has come. -/
theorem State.mtxRelease_enqueues {y z : State} {f : EFrame} {g : Bool} (hp : y.portUp f.ingress = true)
    (hr : y.queueRoom f.ingress f.cls f.frame = true) (hc : ({ y with mtx := none } : State).colour f.ingress f = (z, some g)) :
    y.mtxRelease f = z.enqueue f.ingress f g := by
  rw [State.mtxRelease, if_neg (by simp [hp]), if_neg (by simp [hr]), hc]

theorem State.gclActWrite_arms {x : State} {p v : Nat} (hg : (x.pendingGcl p).ok = true) (hn : x.now + 1024 ≤ v) (hv : v < 2 ^ 64) :
    x.gclActWrite p v =
      ((x.setReg .gclAct p v).wr Fld.gclCtrlPending p 1).setEth p { x.ethPort p with pend := some (v, x.pendingGcl p) } := by
  rw [State.gclActWrite, Nat.mod_eq_of_lt hv]
  exact if_pos (by rw [hg, decide_eq_true hn]; rfl)

/-- Settles O43: each Ethernet command under its conditions makes its own change. -/
theorem ethernetCommandsComplete : Obligations.EthernetCommandsComplete := by
  intro dt p s x hx
  refine ⟨fun frame h hp hs hl => ?receives, fun up lanes h hu => ?link, fun i f w y z g h hw hf hm hy hp hr hc => ?forwards,
    fun f h hp hs hb hf => ?transmits, fun htick hk => ?refill, fun v h hg hn hv => ?arm, fun a g h hp hle => ?switch,
    fun hm hsize hs hne hok => ?entry, fun f y z g hm hdue hy hp hr hc => ?release⟩
  case receives =>
    exact does_whenever hx (by rw [exec, execEthFrameRx]) h (by simp [hp, hs]) (by rw [if_neg (by simp; omega)])
  case link => exact does_whenever hx (by rw [exec, execEthLinkChange]) h (by rcases hu with hu | hu <;> simp [hu]) (by rfl)
  case forwards =>
    refine does_of hx (by rw [exec, execForwardEnqueue]) h ?_
    dsimp only
    rw [← hw, hf, State.forSome_some, State.whenever_of hm, ← hy, State.reach_enqueues hp hr hc]
  case transmits =>
    exact does_whenever hx (by rw [exec, execEgressTransmit]) h (by simp [hp, hs, hb]) (by dsimp only; rw [hf, State.forSome_some])
  case refill => exact does_periodic hx (by rw [exec, execEthMarkerRefill]) rfl htick hk (by rfl)
  case arm => exact does_of hx (by rw [exec, execGclArm]) h (by rw [State.gclActWrite_arms hg hn hv])
  case switch =>
    refine does_of hx (by rw [exec, execGclSwitch]) h ?_
    dsimp only
    rw [hp, State.forSome_some, State.whenever_of (decide_eq_true hle)]
  case entry =>
    exact does_whenever hx (by rw [exec, execMgmtTxEntry]) rfl (by simp [hm, hsize, hs, hne]) (by rw [State.mtxEntry, if_pos hok])
  case release =>
    exact does_forSome_whenever hx (by rw [exec, execMgmtTxNotBefore]) rfl hm (decide_eq_true hdue)
      (by rw [← hy, State.mtxRelease_enqueues hp hr hc])

end Sys2Proof.Machine
end

section
/-! What settlement makes of a numbered request that the home knows (R351). -/
namespace Sys2Proof.Machine

/-! ### What a settled request leaves -/

/-- The line queues, the records of the sources, the arrival counters and every memory stay. -/
def HomeKept (s t : State) : Prop :=
  t.aqd.lines = s.aqd.lines ∧ (∀ p, t.srcSt p = s.srcSt p) ∧ Still s t ∧ ∀ i, t.reg .aqdArrival i = s.reg .aqdArrival i

theorem HomeKept.trans {s t u : State} (h : HomeKept s t) (h' : HomeKept t u) : HomeKept s u := by
  obtain ⟨hl, hs, hm, hr⟩ := h
  obtain ⟨hl', hs', hm', hr'⟩ := h'
  exact ⟨hl'.trans hl, fun p => (hs' p).trans (hs p), hm.trans hm', fun i => (hr' i).trans (hr i)⟩

/-- A change of the aqueduct's record that leaves its lines and the records of its sources. -/
theorem HomeKept.of_aqd {s : State} {a : AqdSt} (hl : a.lines = s.aqd.lines) (hs : ∀ p, Tbl.get {} a.srcs p = s.srcSt p) :
    HomeKept s { s with aqd := a } := ⟨hl, hs, ⟨rfl, rfl, rfl, rfl⟩, fun _ => rfl⟩

theorem homeKept_free (s : State) : HomeKept s s.free.2 := ⟨rfl, fun _ => rfl, ⟨rfl, rfl, rfl, rfl⟩, fun _ => rfl⟩

theorem homeKept_bump (s : State) {f : Fld} (i k : Nat) (hf : .aqdArrival ≠ f.reg) : HomeKept s (s.bump f i k) :=
  ⟨rfl, fun _ => rfl, ⟨rfl, rfl, rfl, rfl⟩, fun j => State.reg_wr_name _ f _ j _ hf⟩

theorem homeKept_portTx (s : State) (p : Nat) : HomeKept s (s.portTx p) := by
  unfold State.portTx
  split
  · exact (homeKept_free s).trans (homeKept_bump _ p _ (by decide))
  · exact ⟨rfl, fun _ => rfl, ⟨rfl, rfl, rfl, rfl⟩, fun _ => rfl⟩

theorem State.rd_portTx (s : State) (p : Nat) {g : Fld} (hg : g.reg ≠ .aqpTxBytes) (j : Nat) : (s.portTx p).rd g j = s.rd g j := by
  unfold State.portTx
  split
  · exact State.rd_wr_name _ Fld.aqpTxBytesBytes g _ _ _ hg
  · rfl

theorem State.lastReply_portTx (s : State) (p : Nat) : (s.portTx p).aqd.lastReply = s.aqd.lastReply := by
  unfold State.portTx
  split <;> rfl

section Reply

variable {s : State} {a : Arrival} {code : RepCode} {reason result : Nat} {data : List Byte} (ha : a.sid = none)
include ha

/-- A reply to another package. -/
theorem State.homeReply_other :
    s.homeReply a code reason result data =
      ({ s.free.2 with aqd := { s.free.2.aqd with lastReply := some (a.req, ⟨0, code, reason, result, data⟩) } } : State).portTx (s.free.1 % 8) := by
  rw [State.homeReply, ha]

theorem homeKept_homeReply : HomeKept s (s.homeReply a code reason result data) := by
  rw [State.homeReply_other ha]
  exact (homeKept_free s).trans ((HomeKept.of_aqd rfl fun _ => rfl).trans (homeKept_portTx _ _))

theorem State.lastReply_homeReply : (s.homeReply a code reason result data).aqd.lastReply = some (a.req, ⟨0, code, reason, result, data⟩) := by
  rw [State.homeReply_other ha, State.lastReply_portTx]

theorem State.rd_homeReply {g : Fld} (hg : g.reg ≠ .aqpTxBytes) (j : Nat) : (s.homeReply a code reason result data).rd g j = s.rd g j := by
  rw [State.homeReply_other ha, State.rd_portTx _ _ hg]
  rfl

end Reply

/-! ### The record of a source that does not change -/

/-- The record of source `p`, written as it stands. -/
def State.restate (s : State) (p : Nat) : State := { s with aqd := { s.aqd with srcs := Tbl.set {} s.aqd.srcs p (s.srcSt p) } }

theorem SrcSt.changed_self (x : SrcSt) : x.changed x = [] := by
  simp [SrcSt.changed]

theorem State.setSrcSt_self (s : State) (p : Nat) : s.setSrcSt p (s.srcSt p) = s.restate p := by
  rw [State.setSrcSt, SrcSt.changed_self]
  rfl

theorem homeKept_restate (s : State) (p : Nat) : HomeKept s (s.restate p) := by
  refine HomeKept.of_aqd rfl fun q => ?_
  by_cases hq : q = p
  · rw [hq, Tbl.get_set_same]
  · rw [Tbl.get_set_other _ _ _ _ hq]
    rfl

/-! ### Admission -/

section Admit

variable {y : State} {a : Arrival}

theorem State.aqdAdmit_drop (h : y.settleAdmit a.req a.at_ = (.drop, y.srcSt a.req.src)) : y.aqdAdmit a = (y.restate a.req.src).homeDrop := by
  rw [State.aqdAdmit, h, ← State.setSrcSt_self]
  rfl

theorem State.aqdAdmit_stale (h : y.settleAdmit a.req a.at_ = (.stale, y.srcSt a.req.src)) :
    y.aqdAdmit a = ((y.restate a.req.src).bump Fld.aqdStaleCount 0).homeReply a .stale 0 0 [] := by
  rw [State.aqdAdmit, h, ← State.setSrcSt_self]
  rfl

theorem State.aqdAdmit_recorded {v : Nat} (h : y.settleAdmit a.req a.at_ = (.recorded v, y.srcSt a.req.src)) :
    y.aqdAdmit a = ((y.restate a.req.src).bump Fld.aqdDuplicatesCount 0).homeReply a .recorded 0 v [] := by
  rw [State.aqdAdmit, h, ← State.setSrcSt_self]
  rfl

end Admit

theorem SrcSt.outdated_own {z : SrcSt} {inc : Nat} (hi : z.inc = some inc) : z.outdated inc = false := by
  simp [SrcSt.outdated, hi]

section Settle

variable {y : State} {q : AqdReq} {c : Nat} {z : SrcSt} (hz : z = y.srcSt q.src)
include hz

/-- A request of an earlier incarnation is dropped. -/
theorem State.settleAdmit_outdated (h : z.outdated q.inc = true) : y.settleAdmit q c = (.drop, z) := by
  rw [State.settleAdmit, ← hz, if_pos h]

variable (hi : z.inc = some q.inc)
include hi

theorem State.settleAdmit_stale (h : z.stale q.seq = true) : y.settleAdmit q c = (.stale, z) := by
  rw [State.settleAdmit, ← hz, if_neg (by rw [SrcSt.outdated_own hi]; decide), SrcSt.entered, if_pos hi]
  exact if_pos h

theorem State.settleAdmit_recorded {e : Settle} (hs : z.stale q.seq = false) (he : z.entry q.seq = some e) (hp : e.pending = false) :
    y.settleAdmit q c = (.recorded e.result, z) := by
  rw [State.settleAdmit, ← hz, if_neg (by rw [SrcSt.outdated_own hi]; decide), SrcSt.entered, if_pos hi]
  dsimp only
  rw [if_neg (by simp [hs]), he]
  dsimp only
  rw [if_neg (by simp [hp])]

end Settle

/-- A counter of the aqueduct counts one more. -/
theorem State.rd_bump_restate (y : State) (p : Nat) {f : Fld} (hf : f.fits 0) : ((y.restate p).bump f 0).rd f = (y.rd f + 1) % 2 ^ f.width := by
  rw [State.bump, State.rd_wr_same _ _ _ _ hf]
  rfl

theorem aqdExpired_fits : Fld.aqdExpiredCount.fits 0 := Fld.fits_of_unwired rfl (by decide) (by decide) (by decide)
theorem aqdStale_fits : Fld.aqdStaleCount.fits 0 := Fld.fits_of_unwired rfl (by decide) (by decide) (by decide)
theorem aqdDuplicates_fits : Fld.aqdDuplicatesCount.fits 0 := Fld.fits_of_unwired rfl (by decide) (by decide) (by decide)

/-- What comes from another package is answered there. -/
theorem State.receives_sid {s y : State} {q : AqdReq} {a : Arrival} (h : s.receives q y a) (hq : q.src ≠ s.pkg) : a.sid = none := by
  obtain ⟨u, v, -, -, -, -, ⟨-, -, rfl⟩ | ⟨hp, -⟩⟩ := h
  · rfl
  · exact absurd hp hq

/-- An atomic or bump that reaches the home is admitted by settlement. -/
theorem does_aqdAdmit {dt : Nat} {s x y : State} {q : AqdReq} {a : Arrival} {c : Instr} (hx : x = s.advance dt) (hr : x.receives q y a)
    (hc : c = .aqdAt dt q ∨ c = .aqdBump dt q) (hok : Ok c) : Does c s (y.aqdAdmit a) := by
  have hreq := State.receives_req hr
  rcases hc with rfl | rfl
  · refine does_of hx (by rw [exec, execAqdAt]) hok ?_
    have hk : q.kind = .at := eq_of_beq (Bool.and_eq_true_iff.1 hok).2
    rw [State.arrive_of_receives hr, State.admitReq, hreq, hk]
  · refine does_of hx (by rw [exec, execAqdBump]) hok ?_
    have hk : q.kind = .bump := eq_of_beq (Bool.and_eq_true_iff.1 hok).2
    rw [State.arrive_of_receives hr, State.admitReq, hreq, hk]

/-- Settles O46: the record decides, its image and the queues are left as they stand. -/
theorem settledRequestsActOnce : Obligations.SettledRequestsActOnce := by
  intro dt s x y q a c z hx _ hq hr hc hok hz
  obtain rfl := State.receives_req hr
  have ht := does_aqdAdmit hx hr hc hok
  have ha := State.receives_sid hr hq
  refine ⟨fun ⟨h, hi, hne, hlt⟩ => ?drop, fun hi ⟨h, hh, hge, hlt⟩ => ?stale, fun e hi hh he hs hp => ?recorded⟩
  case drop =>
    have hset : y.settleAdmit a.req a.at_ = (.drop, z) := State.settleAdmit_outdated hz (by simpa [SrcSt.outdated, hi, hne] using hlt)
    rw [hz] at hset
    rw [State.aqdAdmit_drop hset] at ht
    obtain ⟨hl, hsrc, hm, hreg⟩ := (homeKept_restate y a.req.src).trans (homeKept_bump _ (f := Fld.aqdExpiredCount) 0 1 (by decide))
    exact ⟨_, ht, rfl, hl, (hsrc _).trans hz.symm, hm.sameMemory, hreg, State.rd_bump_restate y _ aqdExpired_fits⟩
  case stale =>
    have hset : y.settleAdmit a.req a.at_ = (.stale, z) := State.settleAdmit_stale hz hi (by simpa [SrcSt.stale, hh] using ⟨hge, hlt⟩)
    rw [hz] at hset
    rw [State.aqdAdmit_stale hset] at ht
    obtain ⟨hl, hsrc, hm, hreg⟩ := ((homeKept_restate y a.req.src).trans
      (homeKept_bump _ (f := Fld.aqdStaleCount) 0 1 (by decide))).trans (homeKept_homeReply ha)
    exact ⟨_, ht, State.lastReply_homeReply ha, hl, (hsrc _).trans hz.symm, hm.sameMemory, hreg,
      (State.rd_homeReply ha (by decide) 0).trans (State.rd_bump_restate y _ aqdStale_fits)⟩
  case recorded =>
    have hfresh : z.stale a.req.seq = false := by
      cases hhigh : z.high with
      | none => simp [SrcSt.stale, hhigh]
      | some h =>
        have := hh h hhigh
        simp only [SrcSt.stale, hhigh, Bool.and_eq_false_iff, decide_eq_false_iff_not]
        omega
    have hset : y.settleAdmit a.req a.at_ = (.recorded e.result, z) :=
      State.settleAdmit_recorded hz hi hfresh (by simp [SrcSt.entry, he, hs]) hp
    rw [hz] at hset
    rw [State.aqdAdmit_recorded hset] at ht
    obtain ⟨hl, hsrc, hm, hreg⟩ := ((homeKept_restate y a.req.src).trans
      (homeKept_bump _ (f := Fld.aqdDuplicatesCount) 0 1 (by decide))).trans (homeKept_homeReply ha)
    exact ⟨_, ht, State.lastReply_homeReply ha, hl, (hsrc _).trans hz.symm, hm.sameMemory, hreg,
      (State.rd_homeReply ha (by decide) 0).trans (State.rd_bump_restate y _ aqdDuplicates_fits)⟩

end Sys2Proof.Machine
end

section
/-! Aqueduct commands: the home (R341 to R355), the sender and the links (R335 to R354). -/
namespace Sys2Proof.Machine

/-! ### The home -/

section Home

variable {dt : Nat} {s x y : State} {q : AqdReq} {a : Arrival} (hx : x = s.advance dt) (hr : x.receives q y a)

/-- A read or write that passes the receive checks while alive enters its line queues. -/
theorem State.lineAdmit_enters {poison : Bool} (ha : y.aliveAt a.req y.now = true) (hc : y.receiveChecks a.req = 0)
    (hf : y.devFenced (y.rttAddr a.req.addr) 16 = false) : y.lineAdmit a poison = y.lineEnter a poison := by
  rw [State.lineAdmit, if_neg (by simp [ha]), if_neg (not_not_intro hc), if_neg (by simp [hf])]

/-- A numbered request that settlement finds new acts. -/
theorem State.aqdAdmit_fresh {z : State} {src : SrcSt} (h : y.settleAdmit a.req a.at_ = (.fresh, src)) (hz : z = y.setSrcSt a.req.src src)
    (hr : z.devFenced (z.rttAddr a.req.addr) 16 = false) (hs : z.devFenced (z.settleAddr a.req.src (a.req.seq % 256)) 16 = false) :
    y.aqdAdmit a = z.aqdFresh a src := by
  rw [State.aqdAdmit, h]
  dsimp only
  rw [if_neg (by decide), ← hz, hr, hs]
  rfl

include hx hr

theorem does_aqdRd {poison : Bool} (h : Ok (.aqdRd dt q poison)) : Does (.aqdRd dt q poison) s (y.lineAdmit a poison) := by
  have hk : q.kind = .rd := eq_of_beq (Bool.and_eq_true_iff.1 h).2
  refine does_of hx (by rw [exec, execAqdRd]) h ?_
  rw [State.arrive_of_receives hr, State.admitReq, State.receives_req hr, hk]

theorem does_aqdWr (h : Ok (.aqdWr dt q)) : Does (.aqdWr dt q) s (y.lineAdmit a false) := by
  have hk : q.kind = .wr := eq_of_beq (Bool.and_eq_true_iff.1 h).2
  refine does_of hx (by rw [exec, execAqdWr]) h ?_
  rw [State.arrive_of_receives hr, State.admitReq, State.receives_req hr, hk]

theorem does_aqdBw (h : Ok (.aqdBw dt q)) : Does (.aqdBw dt q) s (y.lineAdmit a false) := by
  have hk : q.kind = .bw := eq_of_beq (Bool.and_eq_true_iff.1 h).2
  refine does_of hx (by rw [exec, execAqdBw]) h ?_
  rw [State.arrive_of_receives hr, State.admitReq, State.receives_req hr, hk]

theorem does_aqdQuery (h : Ok (.aqdQuery dt q)) : Does (.aqdQuery dt q) s (y.aqdAdmit a) := by
  have hk : q.kind = .query := eq_of_beq (Bool.and_eq_true_iff.1 h).2
  refine does_of hx (by rw [exec, execAqdQuery]) h ?_
  rw [State.arrive_of_receives hr, State.admitReq, State.receives_req hr, hk]

end Home

section Lines

variable {z : State} {line : Nat} {poison : Bool} {h : LineOp} {rest : List LineOp} (hq : z.lineQueue line = h :: rest)
  (hd : z.homeDead h = false)
include hq hd

/-- The write at the head of a line's queue lands. -/
theorem State.lineUpdate_write (hw : h.isWrite = true) :
    z.lineUpdate line poison = (z.writeApply h).serveReads (rest.length + 1) line poison := by
  rw [State.lineUpdate, hq]
  dsimp only
  rw [if_neg (by simp [hd]), if_pos hw]

/-- The atomics at the head of a line's queue act as a group. -/
theorem State.lineUpdate_atomic (hw : h.isWrite = false) (ha : h.isAt = true) :
    z.lineUpdate line poison = (z.groupApply line (h :: rest) poison).serveReads (rest.length + 1) line poison := by
  rw [State.lineUpdate, hq]
  dsimp only
  rw [if_neg (by simp [hd]), if_neg (by simp [hw]), if_pos ha]

end Lines

theorem does_homeLineUpdate {dt line : Nat} {poison : Bool} {s x : State} (hx : x = s.advance dt) (h : Ok (.homeLineUpdate dt line poison))
    (hs : x.safe = false) : Does (.homeLineUpdate dt line poison) s (x.serveInput.lineUpdate line poison) :=
  does_whenever hx (by rw [exec, execHomeLineUpdate]) h (by rw [hs]; rfl) (by rfl)

/-- An update that is no longer alive leaves the line queues. -/
theorem does_requestExpiry_line {dt i : Nat} {o : LineOp} {s x : State} (hx : x = s.advance dt) (h : Ok (.requestExpiry dt true i))
    (ho : x.aqd.lines[i]? = some o) (hd : x.homeDead o = true) : Does (.requestExpiry dt true i) s (x.homeExpire o) := by
  obtain ⟨hi, -⟩ := List.getElem?_eq_some_iff.1 ho
  refine does_of hx (by rw [exec, execRequestExpiry]) h ?_
  rw [if_neg (by decide), if_pos hi, ho, State.forSome_some, State.whenever_of hd]

/-- So does a request that waits in an input queue. -/
theorem does_requestExpiry_input {dt i : Nat} {e : Arrival × Bool} {s x : State} (hx : x = s.advance dt)
    (h : Ok (.requestExpiry dt true (x.aqd.lines.length + i))) (he : x.aqd.input[i]? = some e) (hd : x.inputDead e.1 = true) :
    Does (.requestExpiry dt true (x.aqd.lines.length + i)) s (x.inputExpire e) := by
  refine does_of hx (by rw [exec, execRequestExpiry]) h ?_
  rw [if_neg (by decide), if_neg (by omega), Nat.add_sub_cancel_left, he, State.forSome_some, State.whenever_of hd]

/-- Settles O44: each command of the home under its conditions makes its own change. -/
theorem aqueductHomeCommandsComplete : Obligations.AqueductHomeCommandsComplete := by
  intro dt s x hx
  refine ⟨fun q y a hr ha hc hf => ?lines, fun q y a src hr => ⟨fun z hset hz hrtt hsettle => ?fresh, fun h => ⟨fun v hset => ?recorded, fun hset => ?unknown⟩⟩,
    fun line poison o rest z h hs hz hq hd => ⟨fun hw => ?write, fun hw ha => ?atomic⟩, fun i o h ho hd => does_requestExpiry_line hx h ho hd,
    fun i e h he hd => does_requestExpiry_input hx h he hd, fun v h hv he => ⟨_, _, rfl, rfl, ?enable⟩, fun i v h => ?arrival⟩
  case lines =>
    obtain rfl := State.receives_req hr
    have henter : ∀ poison, y.lineAdmit a poison = y.lineEnter a poison := fun poison => State.lineAdmit_enters ha hc hf
    refine ⟨fun poison h => ?_, fun h => ?_, fun h => ?_⟩
    · rw [← henter]; exact does_aqdRd hx hr h
    · rw [← henter]; exact does_aqdWr hx hr h
    · rw [← henter]; exact does_aqdBw hx hr h
  case fresh =>
    obtain rfl := State.receives_req hr
    rw [← State.aqdAdmit_fresh hset hz hrtt hsettle]
    exact ⟨fun h => does_aqdAdmit hx hr (.inl rfl) h, fun h => does_aqdAdmit hx hr (.inr rfl) h⟩
  case recorded =>
    obtain rfl := State.receives_req hr
    have ht := does_aqdQuery hx hr h
    rwa [State.aqdAdmit, hset] at ht
  case unknown =>
    obtain rfl := State.receives_req hr
    have ht := does_aqdQuery hx hr h
    rwa [State.aqdAdmit, hset] at ht
  case write =>
    subst hz
    rw [← State.lineUpdate_write hq hd hw]
    exact does_homeLineUpdate hx h hs
  case atomic =>
    subst hz
    rw [← State.lineUpdate_atomic hq hd hw ha]
    exact does_homeLineUpdate hx h hs
  case enable =>
    refine does_of hx (by rw [exec, execAqdEnable]) h ?_
    rw [State.aqdCtrlWrite, if_pos (by simp [hv, he])]
    rfl
  case arrival => exact does_of hx (by rw [exec, execArrivalCounterWrite]) h (by rfl)

/-! ### The sender -/

section Sender

variable {dt id : Nat} {s x : State} {r : SendReq} (hx : x = s.advance dt)
include hx

theorem does_aqdReply {p : AqdRep} (h : Ok (.aqdReply dt p)) (hr : x.aqd.sent.find? (·.id == p.id) = some r) (hf : r.fits p = true)
    (hc : x.replyComes r p = true) (hw : r.unresolved = true ∨ x.now ≤ x.waitEnd r) :
    Does (.aqdReply dt p) s ({ x with aqd := { x.aqd with replies := x.aqd.replies.erase p } }.replyTaken r p) := by
  refine does_of hx (by rw [exec, execAqdReply]) h ?_
  dsimp only
  rw [hr]
  exact if_pos (by simpa [hf, hc] using hw)

/-- What is on its way and no longer alive is discarded at its port. -/
theorem does_requestExpiry_sent {i : Nat} (h : Ok (.requestExpiry dt false i)) (hr : x.aqd.sent[i]? = some r) (hl : r.lost = false)
    (ha : x.aliveAt { r.req with t0 := r.issued } x.now = false) :
    Does (.requestExpiry dt false i) s (x.modSent r.id fun y => { y with lost := true }).homeDrop := by
  refine does_of hx (by rw [exec, execRequestExpiry]) h ?_
  rw [if_pos (by decide), State.portExpire, hr, State.forSome_some, State.whenever_of (by rw [hl, ha]; rfl), State.modSent]

variable (hr : x.aqd.sent.find? (·.id == id) = some r)
include hr

/-- The wait for the reply of a request closes. -/
theorem does_senderWaitClose (hu : r.unresolved = false) (hw : x.waitEnd r ≤ x.now) : Does (.senderWaitClose dt id) s (x.waitClosed r) :=
  does_forSome hx (by rw [exec, execSenderWaitClose]) rfl hr (by rw [if_neg (by simp [hu]), State.whenever_of (decide_eq_true hw)])

/-- The latest question about a number whose outcome is unknown has had its time. -/
theorem does_senderWaitClose_asks (hu : r.unresolved = true) (hs : x.safe = false) (hq : r.queryT0 + x.rd Fld.aqdLifetimeLifetime ≤ x.now) :
    Does (.senderWaitClose dt id) s (x.askAgain r) :=
  does_forSome hx (by rw [exec, execSenderWaitClose]) rfl hr (by rw [if_pos hu, State.whenever_of (by simp [hs, hq])])

theorem does_aqdRetry {p : Nat} (hd : x.retryDue r = true) (hp : x.routeOf r.dest = some p) :
    Does (.aqdRetry dt id) s
      ((((x.modSent id fun y => { y with lastSend := x.now, port := p, lost := false }).bump Fld.aqdRetriesCount 0).chargeAqd
        r.owner r.sl r.req.charge).portTx p) :=
  does_forSome_whenever hx (by rw [exec, execAqdRetry]) rfl hr hd (by rw [hp, State.forSome_some])

end Sender

/-- The data of a COPY_ASYNC goes out from what its source holds. -/
theorem State.copyAsyncStart_sends {y w z u : State} {c : Cmd} {poison : Bool}
    (hw : w = y.raceReads c.asyncSrc.basin c.id (c.asyncSrc.span c.id (c.par 32 32) 0)) (hst : w.asyncStatus c poison = stOk)
    (hz : z = if c.asyncSrc.space < 2 then w.eccRead c.asyncSrc.basin (c.asyncSrc.need (c.par 32 32)) else w)
    (hu : (z.copyAsyncBegin c).push c.slice c.ring c.id (c.par 128 52) (z.sideRead c.slice c.asyncSrc (c.par 32 32)) = (u, stOk)) :
    y.copyAsyncStart c poison = u := by
  rw [State.copyAsyncStart]
  dsimp only
  rw [← hw, hst, ← hz, if_neg (not_not_intro rfl), hu]
  exact if_pos rfl

section Issue

variable {dt : Nat} {s x : State} (hx : x = s.advance dt)
include hx

/-- A free credit goes to the next queue in turn: to a question, or to a request that has a route. -/
theorem does_creditGrant {d : Nat} {r : SendReq} {y : State} (h : Ok (.creditGrant dt d)) (hs : x.safe = false)
    (he : x.on Fld.aqdCtrlEnable = true) (hr : x.creditNext d = some r)
    (hy : y = { x with aqd := { x.aqd with
      waiting := x.aqd.waiting.filter (fun (y : SendReq) => y.id != r.id), lastQueue := Tbl.put x.aqd.lastQueue d r.queue } }) :
    (r.asks = 2 → Does (.creditGrant dt d) s (y.sendQuery r)) ∧
    (∀ p, r.asks ≠ 2 → y.routeOf d = some p → Does (.creditGrant dt d) s (y.aqdSendNow r p)) := by
  refine ⟨fun ha => ?_, fun p ha hp => ?_⟩
  · refine does_whenever hx (by rw [exec, execCreditGrant]) h (by simp [hs, he]) ?_
    rw [hr, State.forSome_some]
    dsimp only
    rw [← hy, if_pos ha]
  · refine does_whenever hx (by rw [exec, execCreditGrant]) h (by simp [hs, he]) ?_
    rw [hr, State.forSome_some]
    dsimp only
    rw [← hy, if_neg ha, hp]

theorem does_aqdAtomic {r d : Nat} {c : Cmd} {z : State} (h : Ok (.aqdAtomic dt r)) (hc : x.firstH r 0x13 = some c) (hok : c.atomicOk = true)
    (hd : x.home? (c.par 64 52) = some d)
    (hz : (x.startRunning c.id).aqdSend c.slice c.ring c.id d { AqdReq.blank with
      kind := .at, addr := c.par 64 52, op := c.par 0 4, wide := bitAt c.params 4, operand := c.par 128 64, compare := c.par 192 64 } = (z, stOk)) :
    Does (.aqdAtomic dt r) s z := by
  refine does_forSome hx (by rw [exec, execAqdAtomic]; rfl) h hc ?_
  dsimp only
  rw [if_neg (by simp [hok]), hd]
  dsimp only
  rw [hz]
  exact if_pos rfl

theorem does_copyAsync {r : Nat} {ups : List Upset} {poison : Bool} {c : Cmd} {y : State} (h : Ok (.copyAsync dt r ups poison))
    (hy : y = x.upsets ups) (hc : y.firstH r 0x12 = some c) (hok : c.asyncOk = true) (hpart : y.parting c.asyncSrc = false)
    (hside : y.sideCheck c.slice c.asyncSrc (c.par 32 32) = stOk) (hhome : (y.home? (c.par 128 52)).isSome = true)
    (hpause : y.sidePaused c.slice c.asyncSrc = false) : Does (.copyAsync dt r ups poison) s (y.copyAsyncStart c poison) := by
  refine does_of hx (by rw [exec, execCopyAsync]) h ?_
  rw [← hy, State.actH, hc, State.forSome_some]
  dsimp only
  rw [if_neg (by simp [hok]), if_neg (by simp [hpart]), if_neg (not_not_intro hside), if_neg (by simp [Option.isSome_iff_ne_none.1 hhome]), if_neg (by simp [hpause])]

end Issue

/-! ### The links -/

section Link

variable {dt p pkg tray lanes : Nat} {s x : State} (hx : x = s.advance dt) (hl : x.on Fld.bootStatusLocalDone = true)
  (hu : x.on Fld.aqpStatusLinkUp p = false)
include hx hl hu

/-- A link whose lanes have trained comes up, unless the partner reports this package's own ID. -/
theorem does_aqdLinkUp (h : Ok (.aqdLinkUp dt p pkg tray lanes)) (hf : x.on Fld.aqpStatusFenced p = false) (hlanes : x.lanesOk p lanes = true)
    (hs : x.safe = false) :
    Does (.aqdLinkUp dt p pkg tray lanes) s (if pkg = x.pkg then x.reportLow (unitAqp p) 2 0 0 else
      (((((x.wr Fld.aqpStatusLinkUp p 1).wr Fld.aqpStatusLanesUp p lanes).wr Fld.aqpNbrPkgId p pkg).wr Fld.aqpNbrTrayPos p tray).wr
        Fld.aqpNbrValid p 1).watchRoutes) :=
  does_whenever hx (by rw [exec, execAqdLinkUp]) h (by simp [hl, hu, hf, hlanes, hs]) (by rfl)

theorem does_aqdTrainTimeout (h : Ok (.aqdTrainTimeout dt p lanes)) :
    Does (.aqdTrainTimeout dt p lanes) s (x.each ((List.range 4).filter fun l => bitAt lanes l) fun s l => s.reportLow (unitAqp p) 2 2 l) :=
  does_whenever hx (by rw [exec, execAqdTrainTimeout]) h (by simp [hl, hu]) (by rfl)

end Link

/-- Settles O45: each command of the sender and of the links under its conditions makes its own change. -/
theorem aqueductSenderCommandsComplete : Obligations.AqueductSenderCommandsComplete := by
  intro dt s x hx
  refine ⟨fun p r h hr hf hc hw => does_aqdReply hx h hr hf hc hw, fun i r h hr hl ha => does_requestExpiry_sent hx h hr hl ha,
    fun id r hr => ⟨fun hu hw => ⟨fun hn => ?fails, fun hn hq => ?asks, fun hn hq => ?unknown⟩,
      fun hu hs hq => ⟨fun ha => ?again, fun h1 h2 hfull => ?waits⟩, fun p hd hp => does_aqdRetry hx hr hd hp⟩,
    fun d r y h hs he hr hy => does_creditGrant hx h hs he hr hy, fun r c d z h hc hok hd hz => does_aqdAtomic hx h hc hok hd hz,
    fun r ups poison c y w z u h hy hc hok hpart hside hhome hpause hw hst hz hu => ?copies, fun p hp hu => ?replay, fun p hp => ?down,
    fun p pkg tray lanes h hl hu hf hlanes hs => ⟨fun hne => ?up, fun heq => ?own⟩, fun p lanes h hl hu => does_aqdTrainTimeout hx hl hu h⟩
  case fails =>
    have ht := does_senderWaitClose hx hr hu hw
    rwa [State.waitClosed, if_pos (by simp [hn])] at ht
  case asks =>
    have ht := does_senderWaitClose hx hr hu hw
    rwa [State.waitClosed, if_neg (by simp [hn]), if_pos hq] at ht
  case unknown =>
    have ht := does_senderWaitClose hx hr hu hw
    rwa [State.waitClosed, if_neg (by simp [hn]), if_neg (by omega)] at ht
  case again =>
    have ht := does_senderWaitClose_asks hx hr hu hs hq
    rwa [State.askAgain, if_pos (by simpa using ha)] at ht
  case waits =>
    have ht := does_senderWaitClose_asks hx hr hu hs hq
    rwa [State.askAgain, if_neg (by simp [h1, hfull]), if_neg h2] at ht
  case copies => rw [← State.copyAsyncStart_sends hw hst hz hu]; exact does_copyAsync hx h hy hc hok hpart hside hhome hpause
  case replay => exact does_whenever hx (by rw [exec, execFlitReplay]) (decide_eq_true hp) hu (by rfl)
  case down => exact does_of hx (by rw [exec, execAqdLinkDown]) (decide_eq_true hp) (by rfl)
  case up =>
    have ht := does_aqdLinkUp hx hl hu h hf hlanes hs
    rwa [if_neg hne] at ht
  case own =>
    have ht := does_aqdLinkUp hx hl hu h hf hlanes hs
    rwa [if_pos heq] at ht

end Sys2Proof.Machine
end

section
/-! Determinism commands: the step counter's write and the shadows of slices (R364, R365, R371 to R376). -/
namespace Sys2Proof.Machine

/-! ### The step counter -/

section AsBegun

variable (x : State) (c : Cmd)

theorem State.asBegun_ring : (x.asBegun c).ring = c.ring := by unfold State.asBegun; split <;> rfl
theorem State.asBegun_opcode : (x.asBegun c).opcode = c.opcode := by unfold State.asBegun; split <;> rfl
theorem State.asBegun_slice : (x.asBegun c).slice = c.slice := by unfold State.asBegun; split <;> rfl
theorem State.asBegun_digest : (x.asBegun c).digest = c.digest := by unfold State.asBegun; split <;> rfl

end AsBegun

/-- A STEP_BEGIN of a ring that is over, and that has no digest, advances its slice's step counter. -/
theorem State.finishCore_stepBegin (x : State) {c : Cmd} (code : Nat) (ho : c.opcode = 0x2D) (hr : c.ring < 1028) (hd : c.digest = none) :
    x.finishCore c code = (x.finishBase (x.asBegun c) code).stepAdvance c.slice 1 := by
  rw [State.finishCore, x.asBegun_ring, x.asBegun_opcode, x.asBegun_slice, x.asBegun_digest, hd, if_neg (by omega), if_pos ho]

theorem State.reg_setReg_detStep (x : State) (sl v : Nat) : (x.setReg .detStep sl v).reg .detStep sl = v % 2 ^ 64 := by
  rw [State.reg_setReg_same, regMask_of_unwired rfl (by decide), show RegName.mask .detStep = 2 ^ 64 - 1 from by decide,
    Nat.and_two_pow_sub_one_eq_mod, Nat.mod_mod]

/-- Without a shadow an advance adds to the counter. -/
theorem State.reg_stepAdvance {x : State} {sl : Nat} (k : Nat) (h : x.shadow? sl = none) :
    (x.stepAdvance sl k).reg .detStep sl = (x.reg .detStep sl + k) % 2 ^ 64 := by
  have hs : ((x.setReg .detStep sl (x.reg .detStep sl + k)).setSliceSt sl
      { (x.setReg .detStep sl (x.reg .detStep sl + k)).sliceSt sl with
        stepWas := some ((x.setReg .detStep sl (x.reg .detStep sl + k)).time.count64, x.stepNow sl,
          (x.setReg .detStep sl (x.reg .detStep sl + k)).reg .detStep sl) }).shadow? sl = none := h
  rw [State.stepAdvance]
  dsimp only
  rw [hs]
  dsimp only
  rw [State.reg_setSliceSt, State.reg_setReg_detStep]

/-! ### The shadows -/

section Shadow

variable {dt sl r : Nat} {s x : State} (hx : x = s.advance dt) {c : Cmd} {w : Shadow}

/-- A shadow of a slice that has none starts in its role. -/
theorem State.shadowStart_of {role : Nat} {y : State} (hok : x.shadowOk c.params = true) (hn : x.shadow? (Sh.slice c.params) = none)
    (hy : y = (x.startRunning c.id).setShadow (Sh.slice c.params) {
      cmd := c.id, role := role, params := c.params, lastFill := (x.reg .aqdArrival (Sh.fillCounter c.params), c.start), lastRec := (0, 0),
      routeLost := none, pending := [], exports := [], stepSeen := [], badSteps := [], matchedSteps := 0, lossDue := false }) :
    x.shadowStart c role = y.watchRoutes.setReg .detShadowStatus (Sh.slice c.params) (role + 4 * (if role = 2 then 1 else 0)) := by
  rw [State.shadowStart, if_neg (by simp [hok, hn]), hy]

/-- The compare of a slice in the state that its status shows. -/
theorem State.comparing_of {st : Nat} (hw : x.shadow? sl = some w) (hr : w.role = 2) (hs : x.rd Fld.detShadowStatusState sl = st) :
    x.comparing sl st = some w := by
  simp [State.comparing, hw, Option.filter, hr, hs]

include hx

theorem does_shadowExport (h : Ok (.shadowExport dt r)) (hc : x.firstH r 0x38 = some c) (hr : Sh.role c.params = 0) :
    Does (.shadowExport dt r) s (x.shadowStart c 1) :=
  does_filtered hx (by rw [exec, execShadowExport]; rfl) h hc (by rw [hr]; rfl)

theorem does_shadowCompare (h : Ok (.shadowCompare dt r)) (hc : x.firstH r 0x38 = some c) (hr : Sh.role c.params = 1) :
    Does (.shadowCompare dt r) s (x.shadowStart c 2) :=
  does_filtered hx (by rw [exec, execShadowCompare]; rfl) h hc (by rw [hr]; rfl)

theorem does_shadowEnd (h : Ok (.shadowEnd dt r)) (hc : x.firstH r 0x38 = some c) (hr : Sh.role c.params = 2) (hok : x.shadowOk c.params = true)
    (hs : (x.shadow? (Sh.slice c.params)).isSome = true) :
    Does (.shadowEnd dt r) s ((x.endShadow (Sh.slice c.params) stOk).finishNow c stOk) :=
  does_filtered hx (by rw [exec, execShadowEnd]; rfl) h hc (by rw [hr]; rfl)
    (by dsimp only; rw [if_neg (by simp [hok, Option.isSome_iff_ne_none.1 hs])])

variable (hsl : sl < 128) (hw : x.shadow? sl = some w) (hr : w.role = 2)
include hsl hw hr

theorem does_shadowFillDone (hs : x.rd Fld.detShadowStatusState sl = 1) (hf : x.filled w = true) (hlt : x.now < w.lastFill.2 + w.timeout) :
    Does (.shadowFillDone dt sl) s ((x.wr Fld.detShadowStatusState sl 2).setShadow sl { w with lastRec := (w.lastRec.1, x.now) }) := by
  refine does_of hx (by rw [exec, execShadowFillDone]) (decide_eq_true hsl) ?_
  rw [State.comparing_of hw hr hs, Option.filter, if_pos hf, State.forSome_some]
  dsimp only
  rw [if_neg (by omega)]

theorem does_shadowPendingTimeout {p : DigestRec} {l : List DigestRec} (hs : x.rd Fld.detShadowStatusState sl = 2) (hp : w.pending = p :: l)
    (ht : p.since + w.timeout ≤ x.now) : Does (.shadowPendingTimeout dt sl) s (x.shadowUnmatched sl w p) := by
  refine does_forSome hx (by rw [exec, execShadowPendingTimeout]) (decide_eq_true hsl) (State.comparing_of hw hr hs) ?_
  rw [hp, List.head?_cons, State.forSome_some, State.whenever_of (decide_eq_true ht)]

theorem does_sourceLost (hl : x.sourceLost sl w = true) : Does (.sourceLost dt sl) s (x.loseSource sl w) := by
  refine does_of hx (by rw [exec, execSourceLost]) (decide_eq_true hsl) ?_
  rw [hw, Option.filter, if_pos (by rw [hr, hl]; rfl), State.forSome_some]

omit hsl in
theorem does_sourceLostCmd {v : Nat} (h : Ok (.sourceLostCmd dt sl v)) (hv : v % 2 = 1) :
    Does (.sourceLostCmd dt sl v) s (x.loseSource sl w) := by
  refine does_of hx (by rw [exec, execSourceLostCmd]) h ?_
  rw [State.shadowCmdWrite, if_neg (by omega), hw, Option.filter, if_pos (by rw [hr]; rfl)]

end Shadow

/-- Settles O47: each command of the step counter and of the shadows under its conditions makes its own change. -/
theorem determinismCommandsComplete : Obligations.DeterminismCommandsComplete := by
  intro dt sl s x hx hsl
  refine ⟨fun c code ho hr hd => State.finishCore_stepBegin x code ho hr hd, fun k hn => State.reg_stepAdvance k hn, fun v h hno => ?write,
    fun r c hc hok => ⟨fun hn role y hy => ⟨fun h hr hrole => ?exports, fun h hr hrole => ?compare⟩, fun h hr hs => does_shadowEnd hx h hc hr hok hs⟩,
    fun w hw hr => ⟨fun hs hf hlt => does_shadowFillDone hx hsl hw hr hs hf hlt, fun p l hs hp ht => does_shadowPendingTimeout hx hsl hw hr hs hp ht,
      fun hl => does_sourceLost hx hsl hw hr hl, fun v h hv => does_sourceLostCmd hx hw hr h hv⟩⟩
  case write =>
    refine does_of hx (by rw [exec, execDetStepWrite]) h ?_
    rw [State.detStepWrite, if_neg]
    simpa using hno
  case exports =>
    subst hrole
    have ht := does_shadowExport hx h hc hr
    rwa [State.shadowStart_of hok hn hy] at ht
  case compare =>
    subst hrole
    have ht := does_shadowCompare hx h hc hr
    rwa [State.shadowStart_of hok hn hy] at ht

end Sys2Proof.Machine
end

section
/-! The spillway's records: the log, the silt record, what an event enters (R391 to R394). -/
namespace Sys2Proof.Machine

/-- A table keeps what stands at its other places. -/
theorem Tbl.find_put_other {β : Type} (t : Tbl β) {k j : Nat} (v : β) (h : j ≠ k) : Tbl.find (Tbl.put t k v) j = Tbl.find t j := by
  induction t with
  | nil => simp [Tbl.put, Tbl.find, h]
  | cons e t ih =>
    obtain ⟨i, x⟩ := e
    simp only [Tbl.put]
    split
    case isTrue hi => rw [← hi, Tbl.find, Tbl.find, if_neg h, if_neg h]
    case isFalse =>
      split
      · rw [Tbl.find, if_neg h]
      · rw [Tbl.find, ih, Tbl.find]

/-! ### Entries (Table 18-8) -/

/-- The parts of a marker's entry. -/
theorem slices_markEntry {now seq v : Nat} (hn : now < 2 ^ 64) :
    slice (withSeq (entryWord now (unitHub 1) 0 10 0 (v % 2 ^ 32)) seq) 0 64 = now ∧
    slice (withSeq (entryWord now (unitHub 1) 0 10 0 (v % 2 ^ 32)) seq) 64 16 = 0x4001 ∧
    slice (withSeq (entryWord now (unitHub 1) 0 10 0 (v % 2 ^ 32)) seq) 80 3 = 0 ∧
    slice (withSeq (entryWord now (unitHub 1) 0 10 0 (v % 2 ^ 32)) seq) 83 5 = 10 ∧
    slice (withSeq (entryWord now (unitHub 1) 0 10 0 (v % 2 ^ 32)) seq) 88 8 = 0 ∧
    slice (withSeq (entryWord now (unitHub 1) 0 10 0 (v % 2 ^ 32)) seq) 96 64 = v % 2 ^ 32 ∧
    slice (withSeq (entryWord now (unitHub 1) 0 10 0 (v % 2 ^ 32)) seq) 160 32 = seq % 2 ^ 32 ∧
    withSeq (entryWord now (unitHub 1) 0 10 0 (v % 2 ^ 32)) seq < 2 ^ 192 := by
  have hv : v % 2 ^ 32 < 2 ^ 32 := Nat.mod_lt _ (by decide)
  have hs : seq % 2 ^ 32 < 2 ^ 32 := Nat.mod_lt _ (by decide)
  unfold withSeq entryWord slice unitHub
  generalize v % 2 ^ 32 = d at *
  generalize seq % 2 ^ 32 = q at *
  refine ⟨?_, ?_, ?_, ?_, ?_, ?_, ?_, ?_⟩ <;> omega

/-! ### The log and the silt record -/

theorem logHead_whole : Fld.logHeadHead.Whole 0 := ⟨rfl, by decide, regMask_of_unwired rfl (by decide)⟩
theorem logTail_whole : Fld.logTailTail.Whole 0 := ⟨rfl, by decide, regMask_of_unwired rfl (by decide)⟩
theorem logOverflow_fits : Fld.spwStatusLogOverflow.fits 0 := Fld.fits_of_unwired rfl (by decide) (by decide) (by decide)
theorem siltFrozen_fits : Fld.spwStatusSiltFrozen.fits 0 := Fld.fits_of_unwired rfl (by decide) (by decide) (by decide)

/-- Every write of a field leaves the bits of its register beside it. -/
theorem State.testBit_reg_wr_beside {s : State} (hs : s.inOrder = true) {f : Fld} {i : Nat} (v : Nat) {k : Nat}
    (hk : k < f.lo ∨ f.lo + f.width ≤ k) : ((s.wr f i v).reg f.reg i).testBit k = (s.reg f.reg i).testBit k := by
  rw [State.wr, State.testBit_reg_setReg, testBit_putBits, if_neg (by omega), ← State.testBit_reg_le hs]

section Log

variable {s : State} {e : Nat}

theorem State.logPut_full (h : (s.rd Fld.logHeadHead + 1) % 1024 = s.rd Fld.logTailTail) : s.logPut e = s.raise Fld.spwStatusLogOverflow 0 := by
  rw [State.logPut, if_pos h]

theorem State.logPut_room (h : (s.rd Fld.logHeadHead + 1) % 1024 ≠ s.rd Fld.logTailTail) :
    s.logPut e = { s.wr Fld.logHeadHead 0 ((s.rd Fld.logHeadHead + 1) % 1024) with
      spw := { s.spw with log := Tbl.put s.spw.log (s.rd Fld.logHeadHead) e } } := by
  rw [State.logPut, if_neg h]

theorem State.siltFrozen_logPut : (s.logPut e).siltFrozen = s.siltFrozen := by
  have hrd : (s.logPut e).rd Fld.spwStatusSiltFrozen = s.rd Fld.spwStatusSiltFrozen := by
    by_cases h : (s.rd Fld.logHeadHead + 1) % 1024 = s.rd Fld.logTailTail
    · rw [State.logPut_full h]
      exact State.rd_wr_field (s.note Fld.spwStatusLogOverflow 0 1) Fld.spwStatusLogOverflow Fld.spwStatusSiltFrozen _ _ rfl siltFrozen_fits (by decide)
    · rw [State.logPut_room h]
      exact State.rd_wr_name s Fld.logHeadHead Fld.spwStatusSiltFrozen _ _ _ (by decide)
  rw [State.siltFrozen, State.on, hrd]
  rfl

theorem State.reg_logPut {n : RegName} {i : Nat} (hl : ¬ (n = .logHead ∧ i = 0)) (hs : ¬ (n = .spwStatus ∧ i = 0)) :
    (s.logPut e).reg n i = s.reg n i := by
  by_cases h : (s.rd Fld.logHeadHead + 1) % 1024 = s.rd Fld.logTailTail
  · rw [State.logPut_full h]
    exact State.reg_wr_other (s.note Fld.spwStatusLogOverflow 0 1) Fld.spwStatusLogOverflow _ hs
  · rw [State.logPut_room h]
    exact State.reg_wr_other s Fld.logHeadHead _ hl

theorem State.logPut_spw : (s.logPut e).spw.seq = s.spw.seq ∧ (s.logPut e).spw.silt = s.spw.silt ∧ (s.logPut e).spw.items = s.spw.items ∧
    (s.logPut e).spw.reportQ = s.spw.reportQ := by
  rw [State.logPut]
  dsimp only
  split <;> exact ⟨rfl, rfl, rfl, rfl⟩

/-- The silt record keeps its newest 512 entries. -/
theorem State.silt_siltPut : (s.spw.silt.length < 512 → (s.siltPut e).spw.silt = s.spw.silt ++ [e]) ∧
    (s.spw.silt.length = 512 → (s.siltPut e).spw.silt = s.spw.silt.tail ++ [e]) := by
  refine ⟨fun h => ?_, fun h => ?_⟩
  · rw [State.siltPut, Nat.sub_eq_zero_of_le (by omega), List.drop_zero]
  · have hne : s.spw.silt ≠ [] := fun hn => by simp [hn] at h
    rw [State.siltPut, h, show 512 + 1 - 512 = 1 from rfl, List.drop_one, List.tail_append_of_ne_nil hne]

end Log

/-! ### Events -/

section Event

variable (s : State) (unit kind aux data : Nat)

/-- The entry that an event makes. -/
def State.entryOf : Nat := withSeq (entryWord s.now unit 0 kind aux data) s.spw.seq

/-- The next entry has the next number. -/
def State.seqTaken : State := { s with spw := { s.spw with seq := s.spw.seq + 1 } }

/-- An event enters the log, and the silt record unless that is frozen. -/
theorem State.event_eq : s.event unit kind aux data =
    if s.siltFrozen then s.seqTaken.logPut (s.entryOf unit kind aux data)
    else (s.seqTaken.logPut (s.entryOf unit kind aux data)).siltPut (s.entryOf unit kind aux data) := by
  have h : (s.seqTaken.logPut (s.entryOf unit kind aux data)).siltFrozen = s.siltFrozen := State.siltFrozen_logPut
  rw [← h]
  rfl

/-- What the silt record does not hold is what the log's entry leaves. -/
theorem State.event_same {β : Type} (p : State → β) (hp : ∀ t e, p (State.siltPut t e) = p t) :
    p (s.event unit kind aux data) = p (s.seqTaken.logPut (s.entryOf unit kind aux data)) := by
  rw [State.event_eq]
  split
  · rfl
  · exact hp _ _

theorem State.event_regs : (s.event unit kind aux data).regs = (s.seqTaken.logPut (s.entryOf unit kind aux data)).regs :=
  s.event_same _ _ _ _ State.regs fun _ _ => by unfold State.siltPut; rfl

theorem State.event_log : (s.event unit kind aux data).spw.log = (s.seqTaken.logPut (s.entryOf unit kind aux data)).spw.log :=
  s.event_same _ _ _ _ (·.spw.log) fun _ _ => by unfold State.siltPut; rfl

theorem State.reg_event {n : RegName} {i : Nat} (hl : ¬ (n = .logHead ∧ i = 0)) (hs : ¬ (n = .spwStatus ∧ i = 0)) :
    (s.event unit kind aux data).reg n i = s.reg n i := by
  rw [State.reg_of_regs (s.event_regs unit kind aux data), State.reg_logPut hl hs]
  rfl

theorem State.event_items : (s.event unit kind aux data).spw.items = s.spw.items := by
  obtain ⟨-, -, hi, -⟩ := State.logPut_spw (s := s.seqTaken) (e := s.entryOf unit kind aux data)
  exact (s.event_same _ _ _ _ (·.spw.items) fun _ _ => by unfold State.siltPut; rfl).trans hi

theorem State.event_seq : (s.event unit kind aux data).spw.seq = s.spw.seq + 1 := by
  obtain ⟨hq, -, -, -⟩ := State.logPut_spw (s := s.seqTaken) (e := s.entryOf unit kind aux data)
  exact (s.event_same _ _ _ _ (·.spw.seq) fun _ _ => by unfold State.siltPut; rfl).trans hq

theorem State.event_silt :
    (s.siltFrozen = true → (s.event unit kind aux data).spw.silt = s.spw.silt) ∧
    (s.siltFrozen = false →
      (s.spw.silt.length < 512 → (s.event unit kind aux data).spw.silt = s.spw.silt ++ [s.entryOf unit kind aux data]) ∧
      (s.spw.silt.length = 512 → (s.event unit kind aux data).spw.silt = s.spw.silt.tail ++ [s.entryOf unit kind aux data])) := by
  obtain ⟨-, hsilt, -, -⟩ := State.logPut_spw (s := s.seqTaken) (e := s.entryOf unit kind aux data)
  have hput := State.silt_siltPut (s := s.seqTaken.logPut (s.entryOf unit kind aux data)) (e := s.entryOf unit kind aux data)
  rw [hsilt] at hput
  refine ⟨fun h => ?_, fun h => ?_⟩
  · rw [State.event_eq, if_pos h]
    exact hsilt
  · rw [State.event_eq, if_neg (by simp [h])]
    exact hput

end Event

/-- Settles O50: a marker is an event of kind 10, and enters the records as every event does. -/
theorem markerEntersTheRecords : Obligations.MarkerEntersTheRecords := by
  intro dt v head s x hx hord h hhead
  have hs : x.inOrder = true := hx ▸ State.inOrder_advance dt hord
  have hreg : ∀ n i, s.reg n i = x.reg n i := fun n i => by rw [hx, State.reg_advance]
  have hspw : s.spw = x.spw := by rw [hx, State.advance_spw]
  have hfrozen : s.siltFrozen = x.siltFrozen := by rw [hx, State.siltFrozen, State.siltFrozen, State.on_advance]
  have ht : Does (.driverMarker dt v) s (x.event (unitHub 1) 10 0 (v % 2 ^ 32)) := does_of hx (by rw [exec, execDriverMarker]) h (by rfl)
  obtain ⟨hnow, hunit, hcls, hkind, haux, hdata, hseq, hlt⟩ := slices_markEntry (seq := x.spw.seq) (v := v) (Nat.mod_lt _ (by decide) : x.now < 2 ^ 64)
  obtain ⟨hsilt, hsilt'⟩ := x.event_silt (unitHub 1) 10 0 (v % 2 ^ 32)
  have hregs := x.event_regs (unitHub 1) 10 0 (v % 2 ^ 32)
  have hlog := x.event_log (unitHub 1) 10 0 (v % 2 ^ 32)
  simp only [sameReg, hreg, hspw, hfrozen] at hhead ⊢
  obtain rfl : head = x.rd Fld.logHeadHead := hhead.trans (State.rd_whole hs logHead_whole).symm
  have htail : x.reg .logTail = x.rd Fld.logTailTail := (State.rd_whole hs logTail_whole).symm
  rw [htail]
  refine ⟨_, _, ht, hnow, hunit, hcls, hkind, haux, hdata, hseq, hlt, x.event_seq .., fun hroom => ?room, fun hfull => ?full, hsilt, hsilt',
    fun n i hl hn => x.reg_event _ _ _ _ hl hn, (exec_still rfl ht).sameMemory⟩
  case room =>
    rw [State.reg_of_regs hregs, State.reg_of_regs hregs, hlog, State.logPut_room (s := x.seqTaken) hroom]
    refine ⟨?_, Tbl.find_put_same .., State.reg_wr_name x Fld.logHeadHead _ _ _ (by decide), fun j hj => Tbl.find_put_other _ _ hj⟩
    exact (State.reg_wr_whole x logHead_whole _).trans (Nat.mod_eq_of_lt (Nat.mod_lt _ (by decide)))
  case full =>
    rw [State.reg_of_regs hregs, State.rd_of_regs hregs, hlog, State.logPut_full (s := x.seqTaken) hfull]
    refine ⟨?_, rfl, ?_, fun k hk => ?_⟩
    · exact (State.reg_wr_name _ Fld.spwStatusLogOverflow _ _ _ (by decide)).trans (State.rd_whole hs logHead_whole).symm
    · exact State.rd_wr_same _ _ _ _ logOverflow_fits
    · rw [State.reg_of_regs hregs, bitAt_eq, bitAt_eq, State.logPut_full (s := x.seqTaken) hfull]
      exact State.testBit_reg_wr_beside (s := x.seqTaken.note Fld.spwStatusLogOverflow 0 1) hs (f := Fld.spwStatusLogOverflow) 1
        (by simp [Fld.spwStatusLogOverflow]; omega)

end Sys2Proof.Machine
end

section
/-! Health: decayed counts, their events and halving, and the score (R395). -/
namespace Sys2Proof.Machine

/-! ### Sensor events -/

/-- A sensor event is the management endpoint's alone. -/
theorem State.sensorEvent_mgmt (s : State) (n v : Nat) : ∃ m, s.sensorEvent n v = { s with mgmt := m } := by
  unfold State.sensorEvent
  split
  · exact ⟨_, rfl⟩
  · split
    · exact ⟨_, rfl⟩
    · exact ⟨_, rfl⟩

theorem State.spwChange_mgmt (s : State) (k : State → State) : ∃ m, s.spwChange k = { k s with mgmt := m } := by
  unfold State.spwChange
  dsimp only
  split
  · exact ⟨_, rfl⟩
  · exact State.sensorEvent_mgmt ..

theorem State.scoreChange_mgmt (s : State) (k : State → State) : ∃ m, s.scoreChange k = { k s with mgmt := m } := by
  unfold State.scoreChange
  dsimp only
  split
  · exact State.sensorEvent_mgmt ..
  · exact ⟨_, rfl⟩

theorem State.scoreChange_regs (s : State) (k : State → State) : (s.scoreChange k).regs = (k s).regs := by
  obtain ⟨m, hm⟩ := s.scoreChange_mgmt k
  rw [hm]

/-! ### Counts -/

theorem healthDecayed_whole (k : Nat) : Fld.healthDecayedD.Whole k := ⟨rfl, by decide, regMask_of_unwired rfl (by decide)⟩
theorem healthWeight_whole (k : Nat) : Fld.healthWeightWeight.Whole k := ⟨rfl, by decide, regMask_of_unwired rfl (by decide)⟩
theorem healthEpoch_whole : Fld.healthEpochEpoch.Whole 0 := ⟨rfl, by decide, regMask_of_unwired rfl (by decide)⟩

theorem State.rd_healthDecayed {x : State} (hs : x.inOrder = true) (k : Nat) : x.rd Fld.healthDecayedD k = x.reg .healthDecayed k :=
  State.rd_whole hs (healthDecayed_whole k)

theorem State.health_regs (x : State) (k : Nat) : (x.health k).regs = (x.bumpSat Fld.healthDecayedD k 256).regs :=
  x.scoreChange_regs _

/-- A health event adds 256 to its count, which saturates. -/
theorem State.reg_health_same {x : State} (hs : x.inOrder = true) (k : Nat) :
    (x.health k).reg .healthDecayed k = min (2 ^ 24 - 1) (x.reg .healthDecayed k + 256) := by
  rw [State.reg_of_regs (x.health_regs k), State.bumpSat, ← State.rd_healthDecayed hs]
  exact (State.reg_wr_whole _ (healthDecayed_whole k) _).trans (Nat.mod_eq_of_lt ((Nat.min_le_left ..).trans_lt (by decide)))

theorem State.reg_health_other (x : State) {k : Nat} {n : RegName} {i : Nat} (h : ¬ (n = .healthDecayed ∧ i = k)) :
    (x.health k).reg n i = x.reg n i := by
  rw [State.reg_of_regs (x.health_regs k), State.bumpSat]
  exact State.reg_wr_other (x.note Fld.healthDecayedD k 256) Fld.healthDecayedD _ h

/-! ### Halving -/

/-- One count is halved. -/
def State.decay (x : State) (k : Nat) : State := x.wr Fld.healthDecayedD k (x.decayed k)

theorem State.decayed_decay (x : State) {j k : Nat} (h : k ≠ j) : (x.decay j).decayed k = x.decayed k := by
  have hrd : (x.decay j).rd Fld.healthDecayedD k = x.rd Fld.healthDecayedD k := State.rd_wr_reg _ _ _ _ _ _ fun e => h e.2
  have hf : (x.decay j).freshOf .healthDecayed k = x.freshOf .healthDecayed k := rfl
  rw [State.decayed, hrd, hf, State.decayed]

theorem State.reg_decay_same (x : State) (k : Nat) : (x.decay k).reg .healthDecayed k = x.decayed k % 2 ^ 24 :=
  State.reg_wr_whole _ (healthDecayed_whole k) _

theorem State.reg_each_decay_unvisited (x : State) {l : List Nat} {n : RegName} {i : Nat} (h : ¬ (n = .healthDecayed ∧ i ∈ l)) :
    (x.each l State.decay).reg n i = x.reg n i := by
  unfold State.each
  induction l generalizing x with
  | nil => rfl
  | cons j l ih =>
    rw [List.foldl_cons, ih _ fun e => h ⟨e.1, List.mem_cons_of_mem _ e.2⟩]
    exact State.reg_wr_other _ Fld.healthDecayedD _ fun e => h ⟨e.1, e.2 ▸ List.mem_cons_self⟩

/-- Every count that a loop visits once is halved. -/
theorem State.reg_each_decay (x : State) {l : List Nat} (hl : l.Nodup) {k : Nat} (hk : k ∈ l) :
    (x.each l State.decay).reg .healthDecayed k = x.decayed k % 2 ^ 24 := by
  induction l generalizing x with
  | nil => cases hk
  | cons j l ih =>
    obtain ⟨hj, hl'⟩ := List.nodup_cons.1 hl
    have hcons : x.each (j :: l) State.decay = (x.decay j).each l State.decay := rfl
    rw [hcons]
    rcases List.mem_cons.1 hk with rfl | hmem
    · rw [State.reg_each_decay_unvisited _ fun e => hj e.2, State.reg_decay_same]
    · rw [ih _ hl' hmem, State.decayed_decay _ (ne_of_mem_of_not_mem hmem hj)]

/-- All five counts are halved. -/
def State.decayAll (x : State) : State := x.scoreChange fun y => y.each (List.range 5) State.decay

theorem State.reg_decayAll (x : State) {k : Nat} (hk : k < 5) : x.decayAll.reg .healthDecayed k = x.decayed k % 2 ^ 24 := by
  rw [State.decayAll, State.reg_of_regs (x.scoreChange_regs _), State.reg_each_decay _ List.nodup_range (List.mem_range.2 hk)]

theorem State.reg_decayAll_other (x : State) {n : RegName} {i : Nat} (h : n ≠ .healthDecayed) : x.decayAll.reg n i = x.reg n i := by
  rw [State.decayAll, State.reg_of_regs (x.scoreChange_regs _), State.reg_each_decay_unvisited _ fun e => h e.1]

section Decayed

variable {x : State} (hs : x.inOrder = true) (k : Nat)
include hs

theorem State.healthDecayed_lt : x.reg .healthDecayed k < 2 ^ 24 := State.reg_lt hs (healthDecayed_whole k).2.2

theorem State.decayed_quiet (hf : x.freshOf .healthDecayed k = none) : x.decayed k % 2 ^ 24 = x.reg .healthDecayed k / 2 := by
  have hlt := State.healthDecayed_lt hs k
  rw [State.decayed, hf]
  dsimp only
  rw [State.rd_healthDecayed hs]
  omega

/-- What the present edge has added is added to half of what stood before it. -/
theorem State.decayed_fresh {before added : Nat} (hf : x.freshOf .healthDecayed k = some (before, added)) (hb : before < 2 ^ 24) :
    x.decayed k % 2 ^ 24 = before / 2 + (x.reg .healthDecayed k - before) := by
  have hlt := State.healthDecayed_lt hs k
  have hsl : slice before 0 24 = before := by
    rw [slice, pow_zero, Nat.div_one, Nat.mod_eq_of_lt hb]
  rw [State.decayed, hf]
  dsimp only
  rw [State.rd_healthDecayed hs, hsl]
  omega

end Decayed

/-! ### Score and epoch -/

theorem State.healthScore_eq {x : State} (hs : x.inOrder = true) : x.healthScore = min 65535 (
    x.reg .healthWeight 0 * (x.reg .healthDecayed 0 / 256) + x.reg .healthWeight 1 * (x.reg .healthDecayed 1 / 256) +
    x.reg .healthWeight 2 * (x.reg .healthDecayed 2 / 256) + x.reg .healthWeight 3 * (x.reg .healthDecayed 3 / 256) +
    x.reg .healthWeight 4 * (x.reg .healthDecayed 4 / 256)) := by
  have hw : ∀ k, x.rd Fld.healthWeightWeight k = x.reg .healthWeight k := fun k => State.rd_whole hs (healthWeight_whole k)
  rw [State.healthScore, show List.range 5 = [0, 1, 2, 3, 4] from rfl]
  simp only [List.map, List.foldl, Nat.zero_add, hw, State.rd_healthDecayed hs]

/-- A register without W1C bits keeps its value at the end of a write that stored nothing. -/
theorem State.reg_keepFresh {x : State} (hs : x.inOrder = true) {n : RegName} (i : Nat) (hn : n.bits (· == .w1c) = 0) (m : RegName) (j : Nat) :
    (x.keepFresh n i).reg m j = x.reg m j := by
  by_cases h : m = n ∧ j = i
  · obtain ⟨rfl, rfl⟩ := h
    refine Nat.eq_of_testBit_eq fun k => ?_
    have hle := State.testBit_reg_le hs m j k
    simp only [State.inOrder, Bool.and_eq_true] at hs
    obtain ⟨⟨⟨⟨hregs, -⟩, -⟩, -⟩, -⟩ := hs
    rw [State.testBit_reg_keepFresh _ m j k (x.reg_masked hregs m j), hn, Nat.zero_testBit, Bool.and_false, Bool.or_false, ← hle]
  · exact (x.keepFresh_onlyReg n i).others m j h

theorem State.keepFresh_spw (x : State) (n : RegName) (i : Nat) : (x.keepFresh n i).spw = x.spw := by
  unfold State.keepFresh
  split <;> rfl

/-- A write of 0 to HEALTH_EPOCH is discarded. -/
theorem State.barWrite_healthEpoch_zero (x : State) {v : Nat} (hv : v % 2 ^ 16 = 0) :
    x.barWrite 0xC00500 4 v = (x.info (unitHub 1)).keepFresh .healthEpoch 0 := by
  have ha : regAt 0xC00500 = some ⟨.healthEpoch, 0, 0⟩ := by decide +kernel
  have hg : x.gatedAt 0xC00500 = none := by
    rw [State.gatedAt, show basinOfAddr 0xC00500 = none by decide +kernel]
    rfl
  have hw : (v % 2 ^ 32 &&& (2 ^ 32 - 1)) % 2 ^ 16 = 0 := by
    rw [Nat.and_two_pow_sub_one_eq_mod]
    omega
  have hact : x.regAct .healthEpoch 0 (v % 2 ^ 32) (2 ^ 32 - 1) = x.info (unitHub 1) := by
    rw [State.regAct, if_neg (by decide)]
    dsimp only
    rw [hw]
    rfl
  rw [State.barWrite, if_neg (by decide), if_neg (by decide), State.writeWordAt, ha]
  dsimp only
  rw [State.writeAt, hg, Nat.mul_zero, pow_zero, Nat.mul_one, Nat.mul_one]
  dsimp only
  rw [State.regWrite, hact]

/-- Settles O53: the five counts, their halving at an epoch, the score that they give, and the write of 0 to the epoch. -/
theorem healthCounts : Obligations.HealthCounts := by
  intro dt s x hx hord
  have hs : x.inOrder = true := hx ▸ State.inOrder_advance dt hord
  have hreg : ∀ n i, s.reg n i = x.reg n i := fun n i => by rw [hx, State.reg_advance]
  have hspw : s.spw = x.spw := by rw [hx, State.advance_spw]
  have hepoch : x.rd Fld.healthEpochEpoch = x.reg .healthEpoch := State.rd_whole hs healthEpoch_whole
  simp only [sameReg, hreg, hspw]
  refine ⟨fun k _ => ⟨State.reg_health_same hs k, fun n i h => x.reg_health_other h⟩, fun h => ⟨fun hn hk => ?halves, fun hno => ?idle⟩,
    State.healthScore_eq hs, fun v h hv => ?zero⟩
  case halves =>
    have ht : Does (.healthDecay dt) s ({ x with ticked := .health :: x.ticked } : State).decayAll :=
      does_periodic hx (by rw [exec, execHealthDecay]) h (by rw [hepoch, hn]; rfl) hk (by rfl)
    refine ⟨_, ht, fun k hlt => ⟨fun hf => ?_, fun before added hf hb => ?_⟩, fun n i h => State.reg_decayAll_other _ h, (exec_still rfl ht).sameMemory⟩
    · rw [State.reg_decayAll _ hlt]
      exact State.decayed_quiet hs k hf
    · rw [State.reg_decayAll _ hlt]
      exact State.decayed_fresh hs k hf hb
  case idle =>
    refine does_of hx (by rw [exec, execHealthDecay]) h ?_
    rw [State.periodic_not]
    rw [hepoch]
    rcases hno with hno | hno
    · rw [beq_false_of_ne hno, Bool.false_and]
    · rw [hno, Bool.not_true, Bool.and_false]
  case zero =>
    obtain ⟨d, hd⟩ := x.info_reportQ (unitHub 1)
    have ht := exec_registerWrite s h
    rw [← hx, State.barWrite_healthEpoch_zero x hv] at ht
    have hi : (x.info (unitHub 1)).inOrder = true := hs
    refine ⟨_, d, ht, fun n i => ?_, ?_, ?_⟩
    · rw [State.reg_keepFresh hi 0 (by decide), State.reg_info]
    · have hm : Still s x := hx ▸ State.advance_still (Still.rfl' s) dt
      exact (hm.trans (Still.trans ⟨rfl, rfl, rfl, rfl⟩ ((x.info (unitHub 1)).keepFresh_onlyReg .healthEpoch 0).still)).sameMemory
    · rw [State.keepFresh_spw, hd]

end Sys2Proof.Machine
end

section
/-! The driver's fence command (R384). -/
namespace Sys2Proof.Machine

/-! ### What an event and a health event leave -/

/-- What the log does not hold, and what is in no register, an event leaves. -/
theorem State.event_keeps_of {β : Type} (p : State → β) (hl : ∀ t e, p (State.logPut t e) = p t) (hsilt : ∀ t e, p (State.siltPut t e) = p t)
    (hq : ∀ t, p (State.seqTaken t) = p t) (s : State) (unit kind aux data : Nat) : p (s.event unit kind aux data) = p s := by
  rw [State.event_same s unit kind aux data p hsilt, hl, hq]

theorem State.event_boot (s : State) (unit kind aux data : Nat) : (s.event unit kind aux data).boot = s.boot :=
  State.event_keeps_of State.boot (fun t e => by unfold State.logPut; dsimp only; split <;> rfl) (fun t e => by unfold State.siltPut; rfl)
    (fun _ => rfl) s unit kind aux data

theorem State.event_time (s : State) (unit kind aux data : Nat) : (s.event unit kind aux data).time = s.time :=
  State.event_keeps_of State.time (fun t e => by unfold State.logPut; dsimp only; split <;> rfl) (fun t e => by unfold State.siltPut; rfl)
    (fun _ => rfl) s unit kind aux data

theorem State.item_event (s : State) (unit kind aux data i : Nat) : (s.event unit kind aux data).item i = s.item i := by
  rw [State.item, State.event_items, State.item]

/-- A health event changes its count and nothing of the blocks' records but the management endpoint's. -/
theorem State.health_records (s : State) (k : Nat) :
    (s.health k).boot = s.boot ∧ (s.health k).time = s.time ∧ (s.health k).spw = s.spw := by
  obtain ⟨m, hm⟩ := s.scoreChange_mgmt fun s => s.bumpSat Fld.healthDecayedD k 256
  rw [State.health, hm]
  exact ⟨rfl, rfl, rfl⟩

theorem State.item_setItem_same (s : State) (i : Nat) (x : ItemSt) : (s.setItem i x).item i = x := Tbl.get_set_same ..

theorem State.item_setItem_other (s : State) {i j : Nat} (x : ItemSt) (h : j ≠ i) : (s.setItem i x).item j = s.item j :=
  Tbl.get_set_other _ _ _ _ h

/-! ### A fence is decided -/

section Decide

variable (s : State) (i kind : Nat)

/-- The item of a fence that the driver sets. -/
def ItemSt.driverSet (x : ItemSt) (now : Nat) : ItemSt :=
  { x with fence := 2, effect := x.effect || x.fence == 0, since := now, permanent := false, testing := if x.testing == 1 then 0 else x.testing }

/-- The driver's fence and its event; a fence that was not set before counts for the device's health. -/
def State.driverFence : State :=
  let t := (s.setItem i ((s.item i).driverSet s.now)).event (itemUnit i) 2 kind (i / 2 ^ 16)
  if (s.item i).fence = 0 then t.health 3 else t

theorem State.driverFence_of {β : Type} (p : State → β) (hh : ∀ t, p (State.health t 3) = p t) :
    p (s.driverFence i kind) = p ((s.setItem i ((s.item i).driverSet s.now)).event (itemUnit i) 2 kind (i / 2 ^ 16)) := by
  rw [State.driverFence]
  split
  · exact hh _
  · rfl

theorem State.item_driverFence (j : Nat) : (s.driverFence i kind).item j = (s.setItem i ((s.item i).driverSet s.now)).item j := by
  rw [s.driverFence_of i kind (·.item j) fun t => by
    obtain ⟨-, -, hspw⟩ := t.health_records 3
    simp only [State.item, hspw]]
  exact State.item_event ..

theorem State.justReset_driverFence (j : Nat) : (s.driverFence i kind).justReset j = s.justReset j := by
  have hboot : (s.driverFence i kind).boot = s.boot := by
    rw [s.driverFence_of i kind State.boot fun t => (t.health_records 3).1, State.event_boot]
    rfl
  have htime : (s.driverFence i kind).time = s.time := by
    rw [s.driverFence_of i kind State.time fun t => (t.health_records 3).2.1, State.event_time]
    rfl
  simp only [State.justReset, State.now, hboot, htime]

theorem State.reg_driverFence {n : RegName} (hl : n ≠ .logHead) (hs : n ≠ .spwStatus) (hd : n ≠ .healthDecayed) (j : Nat) :
    (s.driverFence i kind).reg n j = s.reg n j := by
  rw [s.driverFence_of i kind (·.reg n j) fun t => t.reg_health_other fun e => hd e.1]
  exact State.reg_event _ _ _ _ _ (fun e => hl e.1) fun e => hs e.1

theorem State.fenceDecide_driver : s.fenceDecide i kind 2 =
    if s.justReset i then (s.driverFence i kind).resetClears i else s.driverFence i kind := by
  rw [← s.justReset_driverFence i kind i]
  rfl

/-- On the edge of a reset that takes the item in, the reset clears the fence. -/
theorem State.fence_resetClears : ((s.resetClears i).item i).fence = 0 := by
  have h : (s.resetClears i).item i = (s.setItem i { recoveries := (s.item i).recoveries }).item i := by
    rw [State.resetClears]
    dsimp only
    split <;> rfl
  rw [h, State.item_setItem_same]

end Decide

/-! ### FENCE_CMD -/

theorem fenceResult_fits : Fld.fenceStatusResult.fits 0 := Fld.fits_of_unwired rfl (by decide) (by decide) (by decide)
theorem fenceBusy_fits : Fld.fenceStatusBusy.fits 0 := Fld.fits_of_unwired rfl (by decide) (by decide) (by decide)

/-- The result of a fence command, with its busy bit as it stands. -/
theorem State.fenceResult (y : State) {r : Nat} (hr : r < 4) (hb : y.on Fld.fenceStatusBusy = false) :
    (y.wr Fld.fenceStatusResult 0 r).rd Fld.fenceStatusResult = r ∧ (y.wr Fld.fenceStatusResult 0 r).on Fld.fenceStatusBusy = false := by
  refine ⟨(State.rd_wr_same _ _ _ _ fenceResult_fits).trans (Nat.mod_eq_of_lt hr), ?_⟩
  rw [State.on, State.rd_wr_field _ Fld.fenceStatusResult Fld.fenceStatusBusy _ _ rfl fenceBusy_fits (by decide)]
  exact hb

section FenceCmd

variable {dt v : Nat} {s x : State} {c : Instr} (hx : x = s.advance dt)

/-- What a write of FENCE_CMD names. -/
def State.fenceNamed (x : State) (v : Nat) : Option (Nat × Nat) :=
  fencible (slice v 0 16) (x.rd Fld.fenceArgSub) (x.rd Fld.fenceArgSubKind) (x.rd Fld.fenceArgEngineClass)

theorem State.fenceCmdWrite_busy (hb : x.on Fld.fenceStatusBusy = true) : x.fenceCmdWrite v = x.info (unitHub 1) := by
  rw [State.fenceCmdWrite, if_pos (by simp [hb])]

section Free

variable (hb : x.on Fld.fenceStatusBusy = false) (hop : slice v 16 2 = 1 ∨ slice v 16 2 = 2)
include hb hop

theorem State.fenceCmdWrite_free : x.fenceCmdWrite v =
    match x.fenceNamed v with
    | none => x.wr Fld.fenceStatusResult 0 1
    | some (i, k) =>
      if slice v 16 2 = 1 then (x.fenceDecide i k 2).wr Fld.fenceStatusResult 0 0
      else if (x.item i).fence = 0 then x.wr Fld.fenceStatusResult 0 0
      else (({ x with spw := { x.spw with clearItem := some i } } : State).wr Fld.fenceStatusBusy 0 1).testBegin i k 2 := by
  rw [State.fenceCmdWrite, if_neg (by rcases hop with h | h <;> simp [hb, h])]
  rfl

theorem State.fenceCmdWrite_unnamed (hn : x.fenceNamed v = none) : x.fenceCmdWrite v = x.wr Fld.fenceStatusResult 0 1 := by
  rw [State.fenceCmdWrite_free hb hop, hn]

end Free

variable {i k : Nat}

theorem State.fenceCmdWrite_set (hb : x.on Fld.fenceStatusBusy = false) (hn : x.fenceNamed v = some (i, k)) (h1 : slice v 16 2 = 1) :
    x.fenceCmdWrite v = (x.fenceDecide i k 2).wr Fld.fenceStatusResult 0 0 := by
  rw [State.fenceCmdWrite_free hb (.inl h1), hn]
  exact if_pos h1

theorem State.fenceCmdWrite_clear (hb : x.on Fld.fenceStatusBusy = false) (hn : x.fenceNamed v = some (i, k)) (h2 : slice v 16 2 = 2) :
    x.fenceCmdWrite v = if (x.item i).fence = 0 then x.wr Fld.fenceStatusResult 0 0
      else (({ x with spw := { x.spw with clearItem := some i } } : State).wr Fld.fenceStatusBusy 0 1).testBegin i k 2 := by
  rw [State.fenceCmdWrite_free hb (.inr h2), hn]
  exact if_neg (by omega)

include hx

theorem does_fenceCmd (hc : c = .fenceSet dt v ∧ slice v 16 2 = 1 ∨ c = .fenceClear dt v ∧ slice v 16 2 = 2) (h : Ok c) :
    Does c s (x.fenceCmdWrite v) := by
  rcases hc with ⟨rfl, h1⟩ | ⟨rfl, h2⟩
  · exact does_whenever hx (by rw [exec, execFenceSet]) h (by rw [h1]; rfl) (by rfl)
  · exact does_whenever hx (by rw [exec, execFenceClear]) h (by rw [h2]; rfl) (by rfl)

end FenceCmd

theorem fenceCmd_leavesMemory {dt v : Nat} {c : Instr} (hc : c = .fenceSet dt v ∧ slice v 16 2 = 1 ∨ c = .fenceClear dt v ∧ slice v 16 2 = 2) :
    leavesMemory c = true := by
  rcases hc with ⟨rfl, -⟩ | ⟨rfl, -⟩ <;> rfl

/-- Settles O52: the busy bit, the item that the command names and its fence decide the outcome. -/
theorem fenceCommandOutcomes : Obligations.FenceCommandOutcomes := by
  intro dt v s x c hx hord hc h
  have hreg : ∀ n i, s.reg n i = x.reg n i := fun n i => by rw [hx, State.reg_advance]
  have hspw : s.spw = x.spw := by rw [hx, State.advance_spw]
  have hitem : ∀ j, s.item j = x.item j := fun j => by rw [State.item, hspw, State.item]
  have hop : slice v 16 2 = 1 ∨ slice v 16 2 = 2 := hc.imp And.right And.right
  have ht := does_fenceCmd hx hc h
  have hm : ∀ {t}, Does c s t → sameMemory s t := fun ht => (exec_still (fenceCmd_leavesMemory hc) ht).sameMemory
  simp only [sameReg, hreg, hspw, hitem]
  refine ⟨fun hb => ?busy, fun hb => ⟨fun hn => ?unnamed, fun i k hn => ⟨fun hset hj => ?reset, fun hset hj => ?sets, fun hclear hf => ?clear⟩⟩⟩
  case busy =>
    rw [State.fenceCmdWrite_busy hb] at ht
    obtain ⟨d, hd⟩ := x.info_reportQ (unitHub 1)
    exact ⟨_, d, ht, fun n i => x.reg_info _ n i, hd, rfl, hm ht⟩
  case unnamed =>
    rw [State.fenceCmdWrite_unnamed hb hop hn] at ht
    obtain ⟨hr, hbusy⟩ := x.fenceResult (r := 1) (by decide) hb
    exact ⟨_, ht, hr, hbusy, rfl, fun n i h => State.reg_wr_other _ Fld.fenceStatusResult _ h, hm ht⟩
  case reset =>
    have h1 : slice v 16 2 = 1 := by
      rcases hc with ⟨-, h1⟩ | ⟨rfl, -⟩
      · exact h1
      · cases hset
    rw [State.fenceCmdWrite_set hb hn h1, State.fenceDecide_driver, if_pos hj] at ht
    exact ⟨_, ht, State.fence_resetClears _ i, hm ht⟩
  case sets =>
    have h1 : slice v 16 2 = 1 := by
      rcases hc with ⟨-, h1⟩ | ⟨rfl, -⟩
      · exact h1
      · cases hset
    rw [State.fenceCmdWrite_set hb hn h1, State.fenceDecide_driver, if_neg (by simp [hj])] at ht
    have hbusy : (x.driverFence i k).on Fld.fenceStatusBusy = false := by
      rw [State.on, State.rd, x.reg_driverFence i k (by decide) (by decide) (by decide)]
      exact hb
    obtain ⟨hr, hbusy'⟩ := (x.driverFence i k).fenceResult (r := 0) (by decide) hbusy
    refine ⟨_, ht, ?_, fun j hj => ?_, hr, hbusy', hm ht⟩
    · exact congrArg ItemSt.fence ((x.item_driverFence i k i).trans (x.item_setItem_same i _))
    · exact (x.item_driverFence i k j).trans (x.item_setItem_other _ hj)
  case clear =>
    have h2 : slice v 16 2 = 2 := by
      rcases hc with ⟨rfl, -⟩ | ⟨-, h2⟩
      · cases hclear
      · exact h2
    rw [State.fenceCmdWrite_clear hb hn h2, if_pos hf] at ht
    obtain ⟨hr, hbusy⟩ := x.fenceResult (r := 0) (by decide) hb
    exact ⟨_, ht, hr, hbusy, rfl, fun n i h => State.reg_wr_other _ Fld.fenceStatusResult _ h, hm ht⟩

end Sys2Proof.Machine
end

section
/-! The capture of a report (R392). -/
namespace Sys2Proof.Machine

section Capture

variable (s : State) (r : Report)

/-! ### Step 1: the count and the sticky bit -/

/-- The report is counted, and its class's sticky bit set. -/
def State.counted : State := (s.bump ⟨.classCount, 0, 64⟩ r.cls).raise ⟨.spwStatus, 8 + r.cls, 1⟩ 0

theorem State.counted_records : (s.counted r).spw = s.spw ∧ (s.counted r).irqs = s.irqs ∧ Still s (s.counted r) :=
  ⟨rfl, rfl, rfl, rfl, rfl, rfl⟩

theorem State.reg_counted {n : RegName} {i : Nat} (hc : n ≠ .classCount) (hs : n ≠ .spwStatus) : (s.counted r).reg n i = s.reg n i := by
  have h := State.reg_wr_name ((s.bump ⟨.classCount, 0, 64⟩ r.cls).note ⟨.spwStatus, 8 + r.cls, 1⟩ 0 1) ⟨.spwStatus, 8 + r.cls, 1⟩ 0 i 1 hs
  exact h.trans (State.reg_wr_name s ⟨.classCount, 0, 64⟩ _ _ _ hc)

theorem classCount_whole (k : Nat) : (⟨.classCount, 0, 64⟩ : Fld).Whole k := ⟨rfl, by decide, regMask_of_unwired rfl (by decide)⟩

theorem State.rd_classCount (k : Nat) : s.rd ⟨.classCount, 0, 64⟩ k = s.reg .classCount k := by
  rw [State.rd, slice, pow_zero, Nat.div_one]
  exact Nat.mod_eq_of_lt (BitVec.isLt _)

theorem State.reg_classCount_counted : (s.counted r).reg .classCount r.cls = (s.reg .classCount r.cls + 1) % 2 ^ 64 := by
  have h := State.reg_wr_name ((s.bump ⟨.classCount, 0, 64⟩ r.cls).note ⟨.spwStatus, 8 + r.cls, 1⟩ 0 1) ⟨.spwStatus, 8 + r.cls, 1⟩ 0 r.cls 1
    (show RegName.classCount ≠ .spwStatus by decide)
  exact h.trans (s.rd_classCount r.cls ▸ State.reg_wr_whole s (classCount_whole r.cls) _)

theorem sticky_fits {k : Nat} (hk : k = 0 ∨ k = 1 ∨ k = 3) : (⟨.spwStatus, 8 + k, 1⟩ : Fld).fits 0 := by
  rcases hk with rfl | rfl | rfl <;> exact Fld.fits_of_unwired rfl (by decide) (by decide) (by decide)

theorem State.sticky_counted (hk : r.cls = 0 ∨ r.cls = 1 ∨ r.cls = 3) : (s.counted r).rd ⟨.spwStatus, 8 + r.cls, 1⟩ = 1 :=
  State.rd_wr_same _ _ _ _ (sticky_fits hk)

/-! ### Step 2: the capture registers -/

/-- The capture registers hold the report. -/
def State.capHeld : State :=
  (((((s.wr Fld.spwCapInfoUnit 0 r.unit).wr Fld.spwCapInfoClass 0 r.cls).raise Fld.spwCapInfoCapValid 0).setReg .spwCapStamp 0 r.stamp).setReg
    .spwCapSynd 0 r.synd)

theorem State.captureRegs_skips
    (h : r.cls < s.rd Fld.spwCtrlCapMin ∨ (s.on Fld.spwCapInfoCapValid = true ∧ s.on Fld.spwCtrlCapMode = false)) : s.captureRegs r = s := by
  rw [State.captureRegs]
  dsimp only
  rcases h with h | ⟨hv, hm⟩
  · rw [if_pos h]
  · rw [if_pos (c := (_ && _) = true) (by rw [hv, hm]; rfl), ite_self]

theorem State.captureRegs_takes (hc : s.rd Fld.spwCtrlCapMin ≤ r.cls) (h : s.on Fld.spwCapInfoCapValid = false ∨ s.on Fld.spwCtrlCapMode = true) :
    s.captureRegs r = if s.on Fld.spwCapInfoCapValid then (s.capHeld r).bumpSat Fld.spwCapInfoCapCount 0 else s.capHeld r := by
  have hno : ¬ (s.on Fld.spwCapInfoCapValid && !s.on Fld.spwCtrlCapMode) = true := by rcases h with h | h <;> simp [h]
  rw [State.captureRegs]
  dsimp only
  rw [if_neg (Nat.not_lt.2 hc), if_neg hno, State.capHeld]

/-- The capture registers are all that the capture changes. -/
theorem State.captureRegs_cases : s.captureRegs r = s ∨ s.captureRegs r = s.capHeld r ∨
    s.captureRegs r = (s.capHeld r).bumpSat Fld.spwCapInfoCapCount 0 := by
  rcases Nat.lt_or_ge r.cls (s.rd Fld.spwCtrlCapMin) with hc | hc
  · exact .inl (s.captureRegs_skips r (.inl hc))
  · cases hv : s.on Fld.spwCapInfoCapValid <;> cases hm : s.on Fld.spwCtrlCapMode
    case true.false => exact .inl (s.captureRegs_skips r (.inr ⟨hv, hm⟩))
    case true.true => exact .inr (.inr (by rw [s.captureRegs_takes r hc (.inr hm), if_pos hv]))
    all_goals exact .inr (.inl (by rw [s.captureRegs_takes r hc (.inl hv), if_neg (by simp [hv])]))

/-- A write that raises a bit or bumps a count changes registers, and what the edge has added. -/
theorem State.raise_shape (y : State) (f : Fld) (i : Nat) : ∃ rg fr, y.raise f i = { y with regs := rg, fresh := fr } := ⟨_, _, rfl⟩
theorem State.bumpSat_shape (y : State) (f : Fld) (i k : Nat) : ∃ rg fr, y.bumpSat f i k = { y with regs := rg, fresh := fr } := ⟨_, _, rfl⟩

theorem State.reg_bumpSat_name (y : State) (f : Fld) {n : RegName} (i j k : Nat) (h : n ≠ f.reg) : (y.bumpSat f i k).reg n j = y.reg n j :=
  State.reg_wr_name (y.note f i k) f i j _ h

theorem State.rd_bumpSat_field (y : State) (f g : Fld) (i k : Nat) (hr : g.reg = f.reg) (h : g.fits i)
    (hd : g.lo + g.width ≤ f.lo ∨ f.lo + f.width ≤ g.lo) : (y.bumpSat f i k).rd g i = y.rd g i :=
  State.rd_wr_field (y.note f i k) f g i _ hr h hd

theorem State.rd_bumpSat_same (y : State) {f : Fld} {i : Nat} (k : Nat) (h : f.fits i) :
    (y.bumpSat f i k).rd f i = min (2 ^ f.width - 1) (y.rd f i + k) :=
  (State.rd_wr_same (y.note f i k) f i _ h).trans (Nat.mod_eq_of_lt ((Nat.min_le_left ..).trans_lt
    (Nat.sub_lt (Nat.two_pow_pos _) Nat.one_pos)))

/-- The spillway's record, the interrupts and every memory stay. -/
def SameRecords (s t : State) : Prop := t.spw = s.spw ∧ t.irqs = s.irqs ∧ Still s t

theorem SameRecords.setReg {s y : State} (h : SameRecords s y) (n : RegName) (i v : Nat) : SameRecords s (y.setReg n i v) := h
theorem SameRecords.wr {s y : State} (h : SameRecords s y) (f : Fld) (i v : Nat) : SameRecords s (y.wr f i v) := h
theorem SameRecords.raise {s y : State} (h : SameRecords s y) (f : Fld) (i : Nat) : SameRecords s (y.raise f i) := h
theorem SameRecords.bumpSat {s y : State} (h : SameRecords s y) (f : Fld) (i k : Nat) : SameRecords s (y.bumpSat f i k) := h

theorem State.capHeld_records : SameRecords s (s.capHeld r) := by
  have h : SameRecords s s := ⟨rfl, rfl, Still.rfl' s⟩
  exact ((((h.wr _ _ _).wr _ _ _).raise _ _).setReg _ _ _).setReg _ _ _

theorem State.captureRegs_records : SameRecords s (s.captureRegs r) := by
  rcases s.captureRegs_cases r with h | h | h <;> rw [h]
  · exact ⟨rfl, rfl, Still.rfl' s⟩
  · exact s.capHeld_records r
  · exact (s.capHeld_records r).bumpSat _ _ _

theorem State.reg_raise_name (y : State) (f : Fld) {n : RegName} (i j : Nat) (h : n ≠ f.reg) : (y.raise f i).reg n j = y.reg n j :=
  State.reg_wr_name (y.note f i 1) f i j 1 h

theorem State.reg_capHeld {n : RegName} (i : Nat) (h : n ≠ .spwCapInfo ∧ n ≠ .spwCapStamp ∧ n ≠ .spwCapSynd) :
    (s.capHeld r).reg n i = s.reg n i := by
  obtain ⟨hi, ht, hd⟩ := h
  rw [State.capHeld, State.reg_setReg_name _ _ _ _ hd, State.reg_setReg_name _ _ _ _ ht, State.reg_raise_name _ _ _ _ hi,
    State.reg_wr_name _ _ _ _ _ hi, State.reg_wr_name _ _ _ _ _ hi]

theorem State.reg_captureRegs {n : RegName} (i : Nat) (h : n ≠ .spwCapInfo ∧ n ≠ .spwCapStamp ∧ n ≠ .spwCapSynd) :
    (s.captureRegs r).reg n i = s.reg n i := by
  rcases s.captureRegs_cases r with he | he | he <;> rw [he]
  · exact s.reg_capHeld r i h
  · rw [State.reg_bumpSat_name _ _ _ _ _ h.1, s.reg_capHeld r i h]

theorem State.rd_capHeld (f : Fld) (h : f.reg = .spwCapInfo) : (s.capHeld r).rd f =
    (((s.wr Fld.spwCapInfoUnit 0 r.unit).wr Fld.spwCapInfoClass 0 r.cls).raise Fld.spwCapInfoCapValid 0).rd f := by
  rw [State.capHeld, State.rd_setReg_name _ _ _ _ _ _ (by rw [h]; decide), State.rd_setReg_name _ _ _ _ _ _ (by rw [h]; decide)]

theorem capUnit_fits : Fld.spwCapInfoUnit.fits 0 := Fld.fits_of_unwired rfl (by decide) (by decide) (by decide)
theorem capClass_fits : Fld.spwCapInfoClass.fits 0 := Fld.fits_of_unwired rfl (by decide) (by decide) (by decide)
theorem capValid_fits : Fld.spwCapInfoCapValid.fits 0 := Fld.fits_of_unwired rfl (by decide) (by decide) (by decide)
theorem capCount_fits : Fld.spwCapInfoCapCount.fits 0 := Fld.fits_of_unwired rfl (by decide) (by decide) (by decide)

/-- A field beside the valid bit, when that is raised. -/
theorem State.rd_raise_valid (y : State) {f : Fld} (hr : f.reg = .spwCapInfo) (hf : f.fits 0) (hd : f.lo + f.width ≤ 19 ∨ 20 ≤ f.lo) :
    (y.raise Fld.spwCapInfoCapValid 0).rd f = y.rd f :=
  State.rd_wr_field (y.note Fld.spwCapInfoCapValid 0 1) Fld.spwCapInfoCapValid f 0 1 hr hf hd

theorem State.rd_capHeld_fields (hu : r.unit < 2 ^ 16) (hc : r.cls < 2 ^ 3) : (s.capHeld r).rd Fld.spwCapInfoUnit = r.unit ∧
    (s.capHeld r).rd Fld.spwCapInfoClass = r.cls ∧ (s.capHeld r).rd Fld.spwCapInfoCapValid = 1 ∧
    (s.capHeld r).rd Fld.spwCapInfoCapCount = s.rd Fld.spwCapInfoCapCount := by
  refine ⟨?_, ?_, ?_, ?_⟩ <;> rw [s.rd_capHeld r _ rfl]
  · rw [State.rd_raise_valid _ rfl capUnit_fits (by decide), State.rd_wr_field _ Fld.spwCapInfoClass Fld.spwCapInfoUnit _ _ rfl capUnit_fits (by decide),
      State.rd_wr_same _ _ _ _ capUnit_fits]
    exact Nat.mod_eq_of_lt hu
  · rw [State.rd_raise_valid _ rfl capClass_fits (by decide), State.rd_wr_same _ _ _ _ capClass_fits]
    exact Nat.mod_eq_of_lt hc
  · exact State.rd_wr_same _ _ _ _ capValid_fits
  · rw [State.rd_raise_valid _ rfl capCount_fits (by decide), State.rd_wr_field _ Fld.spwCapInfoClass Fld.spwCapInfoCapCount _ _ rfl capCount_fits (by decide),
      State.rd_wr_field _ Fld.spwCapInfoUnit Fld.spwCapInfoCapCount _ _ rfl capCount_fits (by decide)]

theorem State.reg_capHeld_words (ht : r.stamp < 2 ^ 64) (hd : r.synd < 2 ^ 64) :
    (s.capHeld r).reg .spwCapStamp = r.stamp ∧ (s.capHeld r).reg .spwCapSynd = r.synd := by
  have hm : ∀ {v}, v < 2 ^ 64 → (v &&& (2 ^ 64 - 1)) % 2 ^ 64 = v := fun h => by rw [and_full h, Nat.mod_eq_of_lt h]
  constructor
  · rw [State.capHeld, State.reg_setReg_name _ _ _ _ (by decide), State.reg_setReg_same, regMask_of_unwired rfl (by decide)]
    exact hm ht
  · rw [State.capHeld, State.reg_setReg_same, regMask_of_unwired rfl (by decide)]
    exact hm hd

theorem State.rd_captureRegs (hu : r.unit < 2 ^ 16) (hc : r.cls < 2 ^ 3) (hmin : s.rd Fld.spwCtrlCapMin ≤ r.cls)
    (h : s.on Fld.spwCapInfoCapValid = false ∨ s.on Fld.spwCtrlCapMode = true) :
    (s.captureRegs r).rd Fld.spwCapInfoUnit = r.unit ∧ (s.captureRegs r).rd Fld.spwCapInfoClass = r.cls ∧
    (s.captureRegs r).rd Fld.spwCapInfoCapValid = 1 ∧
    (s.captureRegs r).rd Fld.spwCapInfoCapCount = (if s.on Fld.spwCapInfoCapValid = true then
      min (2 ^ Fld.spwCapInfoCapCount.width - 1) (s.rd Fld.spwCapInfoCapCount + 1) else s.rd Fld.spwCapInfoCapCount) := by
  obtain ⟨hunit, hcls, hvalid, hcount⟩ := s.rd_capHeld_fields r hu hc
  rw [s.captureRegs_takes r hmin h]
  split
  · rw [State.rd_bumpSat_field _ Fld.spwCapInfoCapCount Fld.spwCapInfoUnit _ _ rfl capUnit_fits (by decide),
      State.rd_bumpSat_field _ Fld.spwCapInfoCapCount Fld.spwCapInfoClass _ _ rfl capClass_fits (by decide),
      State.rd_bumpSat_field _ Fld.spwCapInfoCapCount Fld.spwCapInfoCapValid _ _ rfl capValid_fits (by decide), State.rd_bumpSat_same _ _ capCount_fits, hcount]
    exact ⟨hunit, hcls, hvalid, rfl⟩
  · exact ⟨hunit, hcls, hvalid, hcount⟩

theorem State.reg_captureRegs_words (ht : r.stamp < 2 ^ 64) (hd : r.synd < 2 ^ 64) (hmin : s.rd Fld.spwCtrlCapMin ≤ r.cls)
    (h : s.on Fld.spwCapInfoCapValid = false ∨ s.on Fld.spwCtrlCapMode = true) :
    (s.captureRegs r).reg .spwCapStamp = r.stamp ∧ (s.captureRegs r).reg .spwCapSynd = r.synd := by
  rw [s.captureRegs_takes r hmin h]
  split
  · rw [State.reg_bumpSat_name _ _ _ _ _ (by decide), State.reg_bumpSat_name _ _ _ _ _ (by decide)]
    exact s.reg_capHeld_words r ht hd
  · exact s.reg_capHeld_words r ht hd

/-! ### Steps 3 to 5: entries and signals -/

/-- What neither the log nor the silt record nor the entries' number touches, the report's entry leaves. -/
theorem State.entryReport_of {β : Type} (p : State → β) (hl : ∀ t e, p (State.logPut t e) = p t) (hsilt : ∀ t e, p (State.siltPut t e) = p t)
    (hq : ∀ t, p (State.seqTaken t) = p t) : p (s.entryReport r) = p s := by
  have hlog : ∀ (b : Bool) t e, p (if b then State.logPut t e else t) = p t := fun b t e => by cases b <;> simp [hl]
  rw [State.entryReport]
  dsimp only
  split
  · rfl
  · split
    · exact (hsilt _ _).trans ((hlog _ _ _).trans (hq s))
    · exact (hlog _ _ _).trans (hq s)

/-- The management function's message for a report. -/
def State.vectored : State := if bitAt (s.rd Fld.spwCtrlIrqMask) r.cls then s.interrupt 0 (s.rd Fld.spwCtrlIrqVector) else s

/-- The error pair is to be asserted. -/
def State.pinAsked (s : State) : State := { s with spw := { s.spw with pinDue := true } }

/-- The spillway's messages for a report. -/
def State.signalled : State := if bitAt ((s.vectored r).rd Fld.spwCtrlPinMask) r.cls then (s.vectored r).pinAsked else s.vectored r

theorem State.signalled_eq {β : Type} (p : State → β) (hp : ∀ t : State, p t.pinAsked = p t) : p (s.signalled r) = p (s.vectored r) := by
  rw [State.signalled]
  split
  · exact hp _
  · rfl

theorem State.signalled_of {β : Type} (p : State → β) (hi : ∀ t v, p (State.interrupt t 0 v) = p t) (hp : ∀ t : State, p t.pinAsked = p t) :
    p (s.signalled r) = p s := by
  rw [s.signalled_eq r p hp, State.vectored]
  split
  · exact hi _ _
  · rfl

theorem State.signalled_irqs (k : Nat) : Tbl.get 0 (s.signalled r).irqs k = Tbl.get 0 s.irqs k +
    (if bitAt (s.rd Fld.spwCtrlIrqMask) r.cls = true ∧ k = s.rd Fld.spwCtrlIrqVector then 1 else 0) := by
  rw [s.signalled_eq r State.irqs fun _ => rfl, State.vectored]
  split
  case isTrue hm =>
    rw [State.interrupt, Nat.zero_mul, Nat.zero_add]
    by_cases hk : k = s.rd Fld.spwCtrlIrqVector
    · rw [if_pos ⟨hm, hk⟩, hk, Tbl.get_put_same]
    · rw [if_neg fun e => hk e.2, Tbl.get_put_other _ _ _ hk, Nat.add_zero]
  case isFalse hm => rw [if_neg fun e => hm e.1, Nat.add_zero]

/-- The report's steps but for the health event. -/
def State.noted : State := (((s.counted r).captureRegs r).entryReport r).signalled r

/-- Classes 0, 1 and 3 neither freeze the silt record nor fence; FC_RETRY counts for the device's health. -/
theorem State.capture_minor (hu : s.unreporting r = false) (hc : r.cls = 0 ∨ r.cls = 1 ∨ r.cls = 3) :
    s.capture r = if r.cls = 1 then (s.noted r).health 0 else s.noted r := by
  obtain ⟨unit, cls, stamp, synd⟩ := r
  rw [State.capture, if_neg (by simp [hu])]
  rcases hc with rfl | rfl | rfl <;> rfl

/-! ### What the steps leave -/

theorem State.logPut_shape (e : Nat) : ∃ rg fr lg, s.logPut e = { s with regs := rg, fresh := fr, spw := { s.spw with log := lg } } := by
  by_cases h : (s.rd Fld.logHeadHead + 1) % 1024 = s.rd Fld.logTailTail
  · obtain ⟨rg, fr, hr⟩ := s.raise_shape Fld.spwStatusLogOverflow 0
    exact ⟨rg, fr, s.spw.log, by rw [State.logPut_full h, hr]⟩
  · exact ⟨_, s.fresh, _, State.logPut_room h⟩

theorem State.siltPut_regs (e : Nat) : (s.siltPut e).regs = s.regs := by unfold State.siltPut; rfl

theorem State.entryReport_still : Still s (s.entryReport r) := by
  have hq : Still s s.seqTaken := Still.rfl' s
  have hlog : ∀ (b : Bool) e, Still s (if b then s.seqTaken.logPut e else s.seqTaken) := fun b e => still_ite (State.logPut_still hq e) hq
  exact still_ite (Still.rfl' s) (still_ite (State.siltPut_still (hlog _ _) _) (hlog _ _))

/-- An entry leaves the reports on their way and the interrupts. -/
theorem State.entryReport_records : (s.entryReport r).spw.reportQ = s.spw.reportQ ∧ (s.entryReport r).irqs = s.irqs := by
  have hl : ∀ (t : State) e, (t.logPut e).spw.reportQ = t.spw.reportQ ∧ (t.logPut e).irqs = t.irqs := fun t e => by
    obtain ⟨rg, fr, lg, h⟩ := t.logPut_shape e
    rw [h]
    exact ⟨rfl, rfl⟩
  have hp : ∀ (t : State) e, (t.siltPut e).spw.reportQ = t.spw.reportQ ∧ (t.siltPut e).irqs = t.irqs := fun t e => by
    unfold State.siltPut
    exact ⟨rfl, rfl⟩
  exact ⟨s.entryReport_of r (·.spw.reportQ) (fun t e => (hl t e).1) (fun t e => (hp t e).1) fun _ => rfl,
    s.entryReport_of r State.irqs (fun t e => (hl t e).2) (fun t e => (hp t e).2) fun _ => rfl⟩

theorem State.reg_entryReport {n : RegName} {i : Nat} (hl : ¬ (n = .logHead ∧ i = 0)) (hs : ¬ (n = .spwStatus ∧ i = 0)) :
    (s.entryReport r).reg n i = s.reg n i :=
  s.entryReport_of r (·.reg n i) (fun _ _ => State.reg_logPut hl hs) (fun t e => State.reg_of_regs (t.siltPut_regs e) n i) fun _ => rfl

/-- An entry leaves the sticky bits. -/
theorem State.sticky_entryReport {k : Nat} (hk : k = 0 ∨ k = 1 ∨ k = 3) :
    (s.entryReport r).rd ⟨.spwStatus, 8 + k, 1⟩ = s.rd ⟨.spwStatus, 8 + k, 1⟩ :=
  s.entryReport_of r (·.rd ⟨.spwStatus, 8 + k, 1⟩) (fun t e => by
    by_cases h : (t.rd Fld.logHeadHead + 1) % 1024 = t.rd Fld.logTailTail
    · rw [State.logPut_full h]
      exact State.rd_wr_field (t.note Fld.spwStatusLogOverflow 0 1) Fld.spwStatusLogOverflow _ _ _ rfl (sticky_fits hk)
        (.inr (Nat.le_trans (by decide : 4 ≤ 8) (Nat.le_add_right 8 k)))
    · rw [State.logPut_room h]
      exact State.rd_wr_name t Fld.logHeadHead ⟨.spwStatus, 8 + k, 1⟩ _ _ _ (show RegName.spwStatus ≠ .logHead by decide))
    (fun t e => State.rd_of_regs (t.siltPut_regs e) _ _) fun _ => rfl

theorem State.signalled_regs : (s.signalled r).regs = s.regs := s.signalled_of r State.regs (fun _ _ => rfl) fun _ => rfl

theorem State.signalled_reportQ : (s.signalled r).spw.reportQ = s.spw.reportQ :=
  s.signalled_of r (·.spw.reportQ) (fun _ _ => rfl) fun _ => rfl

theorem State.signalled_still : Still s (s.signalled r) :=
  ⟨s.signalled_of r State.dev (fun _ _ => rfl) fun _ => rfl, s.signalled_of r State.cistern (fun _ _ => rfl) fun _ => rfl,
    s.signalled_of r State.pool (fun _ _ => rfl) fun _ => rfl, s.signalled_of r State.host (fun _ _ => rfl) fun _ => rfl⟩

theorem State.noted_reportQ : (s.noted r).spw.reportQ = s.spw.reportQ := by
  obtain ⟨hq, -⟩ := ((s.counted r).captureRegs r).entryReport_records r
  obtain ⟨hq', -, -⟩ := (s.counted r).captureRegs_records r
  rw [State.noted, State.signalled_reportQ, hq, hq', (s.counted_records r).1]

theorem State.noted_still : Still s (s.noted r) := by
  obtain ⟨-, -, h1⟩ := s.counted_records r
  obtain ⟨-, -, h2⟩ := (s.counted r).captureRegs_records r
  exact h1.trans (h2.trans ((State.entryReport_still _ r).trans (State.signalled_still _ r)))

theorem State.noted_irqs (k : Nat) : Tbl.get 0 (s.noted r).irqs k = Tbl.get 0 s.irqs k +
    (if bitAt (s.rd Fld.spwCtrlIrqMask) r.cls = true ∧ k = s.rd Fld.spwCtrlIrqVector then 1 else 0) := by
  have hctrl : ∀ f : Fld, f.reg = .spwCtrl → (((s.counted r).captureRegs r).entryReport r).rd f = s.rd f := fun f h => by
    rw [State.rd, State.reg_entryReport _ _ (by rw [h]; decide) (by rw [h]; decide),
      State.reg_captureRegs _ _ _ (by rw [h]; decide), State.reg_counted _ _ (by rw [h]; decide) (by rw [h]; decide), State.rd]
  obtain ⟨-, hi⟩ := ((s.counted r).captureRegs r).entryReport_records r
  obtain ⟨-, hi', -⟩ := (s.counted r).captureRegs_records r
  obtain ⟨-, hi'', -⟩ := s.counted_records r
  rw [State.noted, State.signalled_irqs, hctrl _ rfl, hctrl _ rfl, hi, hi', hi'']

/-- The capture registers stand as step 2 leaves them. -/
theorem State.reg_noted {n : RegName} {i : Nat} (hl : ¬ (n = .logHead ∧ i = 0)) (hs : ¬ (n = .spwStatus ∧ i = 0)) :
    (s.noted r).reg n i = ((s.counted r).captureRegs r).reg n i := by
  rw [State.noted, State.reg_of_regs (State.signalled_regs _ r), State.reg_entryReport _ _ hl hs]

theorem State.sticky_noted (hk : r.cls = 0 ∨ r.cls = 1 ∨ r.cls = 3) : (s.noted r).rd ⟨.spwStatus, 8 + r.cls, 1⟩ = 1 := by
  have hst : ((s.counted r).captureRegs r).rd ⟨.spwStatus, 8 + r.cls, 1⟩ = (s.counted r).rd ⟨.spwStatus, 8 + r.cls, 1⟩ := by
    rw [State.rd, State.reg_captureRegs _ _ _ ⟨show RegName.spwStatus ≠ _ by decide, show RegName.spwStatus ≠ _ by decide,
      show RegName.spwStatus ≠ _ by decide⟩, State.rd]
  rw [State.noted, State.rd_of_regs (State.signalled_regs _ r), State.sticky_entryReport _ _ hk, hst, s.sticky_counted r hk]

end Capture

/-! ### The command -/

/-- Reports arise; one of the management endpoint itself ends its service. -/
def State.withReports (x : State) (l : List Report) : State :=
  let y : State := { x with spw := { x.spw with reportQ := x.spw.reportQ ++ l } }
  if l.any fun r => r.unit == unitHub 19 && r.cls == 4 then y.wr Fld.mgmtStatusFailed 0 1 else y

/-- A report is no longer on its way. -/
def State.without (x : State) (r : Report) : State := { x with spw := { x.spw with reportQ := x.spw.reportQ.erase r } }

section Command

variable {x s : State} {l : List Report} {r : Report} {dt : Nat}

theorem State.withReports_records : (x.withReports l).spw = { x.spw with reportQ := x.spw.reportQ ++ l } ∧
    (x.withReports l).irqs = x.irqs ∧ Still x (x.withReports l) := by
  rw [State.withReports]
  dsimp only
  split <;> exact ⟨rfl, rfl, rfl, rfl, rfl, rfl⟩

theorem State.reg_withReports {n : RegName} (i : Nat) (h : n ≠ .mgmtStatus) : (x.withReports l).reg n i = x.reg n i := by
  rw [State.withReports]
  dsimp only
  split
  · exact State.reg_wr_name _ Fld.mgmtStatusFailed _ _ _ h
  · rfl

theorem State.rd_withReports {f : Fld} (i : Nat) (h : f.reg ≠ .mgmtStatus) : (x.withReports l).rd f i = x.rd f i := by
  rw [State.rd, State.reg_withReports i h, State.rd]

theorem does_faultReportCapture (hx : x = s.advance dt) (h : Ok (.faultReportCapture dt l)) (hr : x.on Fld.spwStatusReady = true)
    (hf : firstReport (x.spw.reportQ ++ l) = some r) : Does (.faultReportCapture dt l) s (((x.withReports l).without r).capture r) := by
  have hready : (x.withReports l).on Fld.spwStatusReady = true := by
    rw [State.on, State.rd_withReports 0 (by decide)]
    exact hr
  have hfirst : firstReport (x.withReports l).spw.reportQ = some r := by
    rw [State.withReports_records.1]
    exact hf
  refine does_of (k := fun x => (x.withReports l).whenever ((x.withReports l).on Fld.spwStatusReady) fun y =>
    y.forSome (firstReport y.spw.reportQ) fun z r => (z.without r).capture r) hx (by rw [exec, execFaultReportCapture]; rfl) h ?_
  rw [State.whenever_of hready, hfirst, State.forSome_some]

end Command

section Minor

variable {z s : State} {r : Report} (hun : z.unreporting r = false) (hc : r.cls = 0 ∨ r.cls = 1 ∨ r.cls = 3)
include hun hc

/-- What a health event leaves, the capture of a report of class 0, 1 or 3 leaves as its steps do. -/
theorem State.capture_of {β : Type} (p : State → β) (hp : ∀ t, p (State.health t 0) = p t) : p (z.capture r) = p (z.noted r) := by
  rw [z.capture_minor r hun hc]
  split
  · exact hp _
  · rfl

theorem State.reg_capture {n : RegName} (i : Nat) (h : n ≠ .healthDecayed) : (z.capture r).reg n i = (z.noted r).reg n i :=
  State.capture_of hun hc (·.reg n i) fun t => t.reg_health_other fun e => h e.1

theorem State.rd_capture (f : Fld) (h : f.reg ≠ .healthDecayed) : (z.capture r).rd f = (z.noted r).rd f := by
  rw [State.rd, State.reg_capture hun hc _ h, State.rd]

theorem State.reportQ_capture : (z.capture r).spw.reportQ = z.spw.reportQ :=
  (State.capture_of hun hc (·.spw.reportQ) fun t => by rw [(t.health_records 0).2.2]).trans (z.noted_reportQ r)

theorem State.irqs_capture : (z.capture r).irqs = (z.noted r).irqs :=
  State.capture_of hun hc State.irqs fun t => by
    obtain ⟨m, hm⟩ := t.scoreChange_mgmt fun s => s.bumpSat Fld.healthDecayedD 0 256
    rw [State.health, hm]
    rfl

theorem State.still_capture : Still z (z.capture r) := by
  rw [z.capture_minor r hun hc]
  exact still_ite (State.health_still (z.noted_still r) 0) (z.noted_still r)

theorem State.reg_classCount_capture : (z.capture r).reg .classCount r.cls = (z.reg .classCount r.cls + 1) % 2 ^ 64 := by
  rw [State.reg_capture hun hc _ (by decide), State.reg_noted _ _ (by simp) (by simp), State.reg_captureRegs _ _ _ (by decide),
    State.reg_classCount_counted]

theorem State.sticky_capture : bitAt ((z.capture r).reg .spwStatus) (8 + r.cls) = true := by
  have h : (z.capture r).rd ⟨.spwStatus, 8 + r.cls, 1⟩ = 1 :=
    (State.rd_capture hun hc _ (show RegName.spwStatus ≠ _ by decide)).trans (z.sticky_noted r hc)
  rw [State.rd, slice] at h
  rw [bitAt]
  exact beq_iff_eq.2 h

/-- A register of the capture stands as step 2 leaves it. -/
theorem State.reg_capture_noted {n : RegName} (hn : n = .spwCapInfo ∨ n = .spwCapStamp ∨ n = .spwCapSynd) :
    (z.capture r).reg n = ((z.counted r).captureRegs r).reg n := by
  rw [State.reg_capture hun hc _ (by rcases hn with rfl | rfl | rfl <;> decide), State.reg_noted]
  · rintro ⟨rfl, -⟩
    exact absurd hn (by decide)
  · rintro ⟨rfl, -⟩
    exact absurd hn (by decide)

theorem State.rd_capture_noted (f : Fld) (hf : f.reg = .spwCapInfo) : (z.capture r).rd f = ((z.counted r).captureRegs r).rd f := by
  rw [State.rd, State.reg_capture_noted hun hc (.inl hf), State.rd]

end Minor

/-- Settles O51: the report is counted, captured, entered and signalled, each step leaving what the others write. -/
theorem capturedReport : Obligations.CapturedReport := by
  intro dt l s x y r hx hord h hy hready hfirst hu hc hunit hstamp hsynd
  subst hy
  have ht := does_faultReportCapture hx h hready hfirst
  obtain ⟨hspw, hirqs, hstill⟩ := State.withReports_records (x := x) (l := l)
  generalize hz : (x.withReports l).without r = z at ht
  have hun : z.unreporting r = false := by
    rw [← hu, ← hz, State.unreporting, State.unreporting, State.without, hspw]
  have hq : z.spw.reportQ = (x.spw.reportQ ++ l).erase r := by rw [← hz, State.without, hspw]
  have hirq : z.irqs = s.irqs := by
    rw [← hz]
    exact hirqs.trans (by rw [hx, State.advance_irqs])
  have hmem : Still s z := by
    have hz' : Still (x.withReports l) z := hz ▸ Still.rfl' _
    exact (hx ▸ State.advance_still (Still.rfl' s) dt : Still s x).trans (hstill.trans hz')
  have hreg : ∀ n i, n ≠ .mgmtStatus → z.reg n i = s.reg n i := fun n i hn => by
    rw [← hz, State.without]
    exact (State.reg_withReports i hn).trans (by rw [hx, State.reg_advance])
  have hrd : ∀ f : Fld, f.reg ≠ .mgmtStatus → z.rd f = s.rd f := fun f hf => by rw [State.rd, hreg _ _ hf, State.rd]
  have hcreg : ∀ n, n ≠ .mgmtStatus → n ≠ .classCount → n ≠ .spwStatus → (z.counted r).reg n = s.reg n :=
    fun n h1 h2 h3 => by rw [State.reg_counted _ _ h2 h3, hreg n 0 h1]
  have hcrd : ∀ f : Fld, f.reg ≠ .mgmtStatus → f.reg ≠ .classCount → f.reg ≠ .spwStatus → (z.counted r).rd f = s.rd f :=
    fun f h1 h2 h3 => by rw [State.rd, hcreg _ h1 h2 h3, State.rd]
  have hmin := hcrd Fld.spwCtrlCapMin (by decide) (by decide) (by decide)
  have hvalid : (z.counted r).on Fld.spwCapInfoCapValid = s.on Fld.spwCapInfoCapValid := by
    rw [State.on, hcrd _ (by decide) (by decide) (by decide), State.on]
  have hmode : (z.counted r).on Fld.spwCtrlCapMode = s.on Fld.spwCtrlCapMode := by
    rw [State.on, hcrd _ (by decide) (by decide) (by decide), State.on]
  simp only [sameReg]
  refine ⟨_, ht, (State.reportQ_capture hun hc).trans hq, ?count, State.sticky_capture hun hc, fun hno => ?skips, fun hle hyes => ?takes,
    fun k => ?irq, (hmem.trans (State.still_capture hun hc)).sameMemory⟩
  case count => rw [State.reg_classCount_capture hun hc, hreg _ _ (by decide)]
  case skips =>
    rw [State.reg_capture_noted hun hc (.inl rfl), State.reg_capture_noted hun hc (.inr (.inl rfl)),
      State.reg_capture_noted hun hc (.inr (.inr rfl)), State.captureRegs_skips _ _ (by rw [hmin, hvalid, hmode]; exact hno),
      hcreg _ (by decide) (by decide) (by decide), hcreg _ (by decide) (by decide) (by decide), hcreg _ (by decide) (by decide) (by decide)]
    exact ⟨rfl, rfl, rfl⟩
  case takes =>
    have hle' : (z.counted r).rd Fld.spwCtrlCapMin ≤ r.cls := by rw [hmin]; exact hle
    have hyes' : (z.counted r).on Fld.spwCapInfoCapValid = false ∨ (z.counted r).on Fld.spwCtrlCapMode = true := by rw [hvalid, hmode]; exact hyes
    have hcls : r.cls < 2 ^ 3 := by omega
    obtain ⟨hunit', hcls', hvalid', hcount'⟩ := (z.counted r).rd_captureRegs r hunit hcls hle' hyes'
    obtain ⟨hstamp', hsynd'⟩ := (z.counted r).reg_captureRegs_words r hstamp hsynd hle' hyes'
    rw [State.reg_capture_noted hun hc (.inr (.inl rfl)), State.reg_capture_noted hun hc (.inr (.inr rfl)), State.rd_capture_noted hun hc _ rfl,
      State.rd_capture_noted hun hc _ rfl, State.rd_capture_noted hun hc _ rfl, State.rd_capture_noted hun hc _ rfl]
    rw [hvalid, hcrd _ (by decide) (by decide) (by decide)] at hcount'
    exact ⟨hunit', hcls', hvalid', hstamp', hsynd', hcount'⟩
  case irq => rw [State.irqs_capture hun hc, State.noted_irqs, hirq, hrd _ (by decide), hrd _ (by decide)]

end Sys2Proof.Machine
end

section
/-! The spillway's commands and events (R384 to R395). -/
namespace Sys2Proof.Machine

/-! ### SPW_CMD with one bit -/

theorem State.spwCmdWrite_bits (x : State) : x.spwCmdWrite 1 = x.setInferFence 1 ∧ x.spwCmdWrite 2 = x.clearInferFence ∧
    x.spwCmdWrite 4 = x.pinClear ∧ x.spwCmdWrite 8 = x.freezeSilt ∧ x.spwCmdWrite 16 = x.siltRearm ∧
    x.spwCmdWrite 32 = { x with spw := { x.spw with safeDue := true } } := by
  refine ⟨?_, ?_, ?_, ?_, ?_, ?_⟩ <;> simp [State.spwCmdWrite, bitAt]

/-- The driver clears a fence that it set. -/
theorem State.clearInferFence_driver {x : State} (hby : x.spw.inferBy = 1) (hs : x.safe = false) :
    x.clearInferFence = (({ x with spw := { x.spw with inferBy := 0 } } : State).spwChange fun s => s.wr Fld.spwStatusState 0 0).event
      (unitHub 1) 6 0 0 := by
  have hs' : ({ x with spw := { x.spw with inferBy := 0 } } : State).safe = false := hs
  rw [State.clearInferFence, if_neg (by omega), if_pos hby]
  dsimp only
  rw [if_neg (by simp [hs'])]

theorem State.pinClear_acts {x : State} (hby : x.spw.inferBy ≠ 2) (hs : x.safe = false) : x.pinClear = x.wr Fld.spwStatusPinError 0 0 := by
  rw [State.pinClear, if_neg (by simp [hby, hs])]

theorem State.freezeSilt_acts {x : State} (hf : x.siltFrozen = false) : x.freezeSilt =
    ({ x with spw := { x.spw with snap := x.snapshot } } : State).spwChange fun s =>
      (s.wr Fld.spwStatusSiltFrozen 0 1).wr Fld.siltStatusFrozen 0 1 := by
  rw [State.freezeSilt, if_neg (by simp [hf])]

theorem State.siltRearm_acts {x : State} (hs : x.safe = false) : x.siltRearm =
    ({ x with spw := { x.spw with silt := [] } } : State).spwChange fun s =>
      (s.wr Fld.spwStatusSiltFrozen 0 0).wr Fld.siltStatusFrozen 0 0 := by
  rw [State.siltRearm, if_neg (by simp [hs])]

/-- The freeze of the silt record does not bring a lost spillway back. -/
theorem State.freezeSilt_lost (x : State) : x.freezeSilt.spw.lost = x.spw.lost := by
  rw [State.freezeSilt]
  split
  · rfl
  · obtain ⟨m, hm⟩ := ({ x with spw := { x.spw with snap := x.snapshot } } : State).spwChange_mgmt fun s =>
      (s.wr Fld.spwStatusSiltFrozen 0 1).wr Fld.siltStatusFrozen 0 1
    dsimp only
    rw [hm]
    dsimp only
    rw [State.wr_spw, State.wr_spw]

/-! ### The error pair -/

theorem State.errPair_lost {t : State} (h : t.spw.lost = true) : t.errPair = (false, false) := by
  rw [State.errPair, h]
  rfl

theorem spwPinError_fits : Fld.spwStatusPinError.fits 0 := Fld.fits_of_unwired rfl (by decide) (by decide) (by decide)
theorem spwReady_fits : Fld.spwStatusReady.fits 0 := Fld.fits_of_unwired rfl (by decide) (by decide) (by decide)

theorem State.errPair_error {y : State} (hr : y.on Fld.spwStatusReady = true) (hl : y.spw.lost = false) :
    (y.wr Fld.spwStatusPinError 0 1).errPair = (true, false) := by
  have hr' : (y.wr Fld.spwStatusPinError 0 1).on Fld.spwStatusReady = true := by
    rw [State.on, State.rd_wr_field y Fld.spwStatusPinError Fld.spwStatusReady 0 1 rfl spwReady_fits (by decide)]
    exact hr
  have hp : (y.wr Fld.spwStatusPinError 0 1).on Fld.spwStatusPinError = true := by
    rw [State.on, State.rd_wr_same _ _ _ _ spwPinError_fits]
    rfl
  have hl' : (y.wr Fld.spwStatusPinError 0 1).spw.lost = false := hl
  rw [State.errPair, hr', hp, hl']
  rfl

/-- Settles O49: each command of the spillway meets its conditions. -/
theorem spillwayCommandsComplete : Obligations.SpillwayCommandsComplete := by
  intro dt s x hx
  obtain ⟨hinfer, hclear, hpin, hfreeze, hrearm, hsafe⟩ := x.spwCmdWrite_bits
  refine ⟨?capture, ?failed, fun y r hu => by rw [State.capture, if_pos hu], fun hd => ?errorPair, fun v i k hb hn => ?fence,
    fun i k hk => ?recovery, fun h hs => ?infer, fun h hby hs => ?clear, fun h hby hs => ?pin, fun h hf => ?freeze, fun h hs => ?rearm,
    fun h => ?enter, fun hd => ?entry, fun v h => ?marker, fun hr hl => ?heartbeat, fun hn hk y hy => ?decay⟩
  case capture =>
    intro l y r h hy hno hr hf
    subst hy
    have hw : x.withReports l = { x with spw := { x.spw with reportQ := x.spw.reportQ ++ l } } := by
      rw [State.withReports]
      refine if_neg fun he => ?_
      obtain ⟨q, hq, hu⟩ := List.any_eq_true.1 he
      simp only [Bool.and_eq_true, beq_iff_eq] at hu
      exact hno q hq hu
    have ht := does_faultReportCapture hx h hr hf
    rw [hw] at ht
    exact ht
  case failed =>
    intro l r h hmem hu hc hr
    have hw : x.withReports l = ({ x with spw := { x.spw with reportQ := x.spw.reportQ ++ l } } : State).wr Fld.mgmtStatusFailed 0 1 := by
      rw [State.withReports]
      exact if_pos (List.any_eq_true.2 ⟨r, hmem, by rw [hu, hc]; rfl⟩)
    have hready : (x.withReports l).on Fld.spwStatusReady = false := by
      rw [State.on, State.rd_withReports 0 (by decide)]
      exact hr
    refine does_of (k := fun x => (x.withReports l).whenever ((x.withReports l).on Fld.spwStatusReady) fun y =>
      y.forSome (firstReport y.spw.reportQ) fun z r => (z.without r).capture r) hx (by rw [exec, execFaultReportCapture]; rfl) h ?_
    rw [State.whenever_not hready, hw]
  case errorPair =>
    exact ⟨_, rfl, does_whenever hx (by rw [exec, execErrorPairAssert]) (by rfl) (by exact hd) (by rfl),
      fun hr hl => State.errPair_error hr hl⟩
  case fence =>
    refine ⟨fun h h1 => ?_, fun h h2 hf => ?_, fun h h2 hf => ?_⟩
    · have ht := does_fenceCmd hx (.inl ⟨rfl, h1⟩) h
      rwa [State.fenceCmdWrite_set hb hn h1] at ht
    · have ht := does_fenceCmd hx (.inr ⟨rfl, h2⟩) h
      rwa [State.fenceCmdWrite_clear hb hn h2, if_neg hf] at ht
    · have ht := does_fenceCmd hx (.inr ⟨rfl, h2⟩) h
      rwa [State.fenceCmdWrite_clear hb hn h2, if_pos hf] at ht
  case recovery =>
    refine ⟨fun h hq => ?_, fun pass h hte hg => ?_⟩
    · exact does_forSome_whenever hx (by rw [exec, execQuietWindowClose]) h (by exact hk) (by exact hq)
    · refine does_forSome_whenever hx (by rw [exec, execRecoveryTestDone]) h (by exact hk) ?_
      exact Bool.and_eq_true_iff.2 ⟨bne_iff_ne.2 hte, List.all_eq_true.2 fun b hb => by rw [hg b hb]; rfl⟩
  case infer => exact does_whenever hx (by rw [exec, execInferFence]) h (by rfl) hinfer
  case clear => exact ⟨_, rfl, does_whenever hx (by rw [exec, execInferClear]) h (by rfl) (hclear.trans (State.clearInferFence_driver hby hs))⟩
  case pin => exact does_whenever hx (by rw [exec, execPinClear]) h (by rfl) (hpin.trans (State.pinClear_acts hby hs))
  case freeze => exact does_whenever hx (by rw [exec, execSiltFreeze]) h (by rfl) (hfreeze.trans (State.freezeSilt_acts hf))
  case rearm => exact does_whenever hx (by rw [exec, execSiltRearm]) h (by rfl) (hrearm.trans (State.siltRearm_acts hs))
  case enter => exact does_whenever hx (by rw [exec, execEnterSafe]) h (by rfl) hsafe
  case entry => exact does_whenever hx (by rw [exec, execSafeStateEntry]) (by rfl) (by exact hd) (by rfl)
  case marker => exact does_of hx (by rw [exec, execDriverMarker]) h (by rfl)
  case heartbeat =>
    refine ⟨fun htick => ?_, fun hbeat => ⟨_, rfl, ?_, ?_⟩⟩
    · exact does_whenever hx (by rw [exec, execSpillwayHeartbeat]) (by rfl) (by rw [htick, hr, hl]; rfl) (by rfl)
    · exact does_whenever hx (by rw [exec, execSpillwayLoss]) (by rfl) (by rw [hr, hl, decide_eq_true hbeat]; rfl) (by rfl)
    · exact State.errPair_lost (State.freezeSilt_lost _)
  case decay =>
    subst hy
    exact does_periodic hx (by rw [exec, execHealthDecay]) (by rfl) (by rw [hn]; rfl) hk (by rfl)

end Sys2Proof.Machine
end

section
/-! What the safe state forbids (R387, R393, Table 18-6). -/
namespace Sys2Proof.Machine

section Safe

variable {x : State} (hs : x.safe = true)
include hs

/-- No ring is served. -/
theorem State.ringServed_safe (r : Nat) : x.ringServed r = false := by
  rw [State.ringServed, hs]
  simp

theorem State.setInferFence_safe (k : Nat) : x.setInferFence k = x := by
  rw [State.setInferFence, if_pos hs]

theorem State.siltRearm_safe : x.siltRearm = x.info (unitHub 1) := by
  rw [State.siltRearm, if_pos hs]

/-- A block that is not shown reads zero. -/
theorem State.barRead_hidden {a len : Nat} (hl : len ≤ 4) (ha : 0x200000 ≤ a) (hn : ¬ (0xC00000 ≤ a ∧ a < 0xE00000)) :
    x.barRead a len = { x with readData := 0 } := by
  have hshown : x.blockShown (a / 4 * 4) = false := by
    have hlow : ¬ a / 4 * 4 < 0x200000 := by omega
    have hspw : ¬ (0xC00000 ≤ a / 4 * 4 ∧ a / 4 * 4 < 0xE00000) := by omega
    rw [State.blockShown, hs, decide_eq_false hlow, ← Bool.decide_and, decide_eq_false hspw]
    rfl
  have hw : x.readWordAt (a / 4 * 4) = (0, x) := by
    rw [State.readWordAt, if_pos (by rw [hshown]; rfl)]
  rw [State.barRead, if_neg (by omega), hw]
  dsimp only
  rw [slice, Nat.zero_div, Nat.zero_mod]

end Safe

/-! ### Requests from another package -/

theorem State.portRx_aqd (s : State) (p : Nat) : (s.portRx p).aqd = s.aqd := by
  unfold State.portRx
  split <;> rfl

theorem State.portRx_still (s : State) (p : Nat) : Still s (s.portRx p) := by
  unfold State.portRx
  split <;> exact Still.rfl' s

theorem State.rd_portRx (s : State) (p : Nat) {g : Fld} (hg : g.reg ≠ .aqpRxBytes) (j : Nat) : (s.portRx p).rd g j = s.rd g j := by
  unfold State.portRx
  split
  · exact State.rd_wr_name _ Fld.aqpRxBytesBytes g _ _ _ hg
  · rfl

/-- In the safe state a request of another package counts at its port and is discarded. -/
theorem State.arrive_safe {x : State} (hs : x.safe = true) {q : AqdReq} (hq : q.src ≠ x.pkg) (poison : Bool) :
    x.arrive q poison = x.free.2.portRx (x.free.1 % 8) := by
  have hsafe : (x.free.2.portRx (x.free.1 % 8)).safe = true := by
    rw [State.safe, State.rd_portRx _ _ (by decide)]
    exact hs
  rw [State.arrive, if_pos hq]
  exact if_pos hsafe

theorem does_arrive {dt : Nat} {s x : State} (hx : x = s.advance dt) {q : AqdReq} {c : Instr}
    (hc : (∃ p, c = .aqdRd dt q p) ∨ c = .aqdWr dt q ∨ c = .aqdAt dt q ∨ c = .aqdBump dt q) (h : Ok c) :
    ∃ poison, Does c s (x.arrive q poison) := by
  rcases hc with ⟨p, rfl⟩ | rfl | rfl | rfl
  · exact ⟨p, does_of hx (by rw [exec, execAqdRd]) h (by rfl)⟩
  · exact ⟨false, does_of hx (by rw [exec, execAqdWr]) h (by rfl)⟩
  · exact ⟨false, does_of hx (by rw [exec, execAqdAt]) h (by rfl)⟩
  · exact ⟨false, does_of hx (by rw [exec, execAqdBump]) h (by rfl)⟩

/-- Settles O54: the safe state decides each of them. -/
theorem safeStateForbids : Obligations.SafeStateForbids := by
  intro dt s x hx hord hsafe
  have hs : x.safe = true := by
    rw [hx, State.safe, State.rd_advance]
    exact hsafe
  have hreg : ∀ n i, s.reg n i = x.reg n i := fun n i => by rw [hx, State.reg_advance]
  have hspw : s.spw = x.spw := by rw [hx, State.advance_spw]
  simp only [sameReg, hreg, hspw]
  refine ⟨State.ringServed_safe hs, fun a len h hl ha hn => ?read, fun h => ?rearm, fun h => ?infer, fun q c hq hc h => ?arrive⟩
  case read => exact does_of hx (by rw [exec, execLowWordRead]) h (State.barRead_hidden hs hl ha hn)
  case rearm =>
    obtain ⟨d, hd⟩ := x.info_reportQ (unitHub 1)
    obtain ⟨-, -, -, -, hrearm, -⟩ := x.spwCmdWrite_bits
    exact ⟨x.info (unitHub 1), d, does_whenever hx (by rw [exec, execSiltRearm]) h (by rfl) (hrearm.trans (State.siltRearm_safe hs)), rfl,
      fun n i => x.reg_info _ n i, hd⟩
  case infer =>
    obtain ⟨hinfer, -, -, -, -, -⟩ := x.spwCmdWrite_bits
    exact does_whenever hx (by rw [exec, execInferFence]) h (by rfl) (hinfer.trans (State.setInferFence_safe hs 1))
  case arrive =>
    obtain ⟨poison, ht⟩ := does_arrive hx hc h
    rw [State.arrive_safe hs hq] at ht
    have haqd : (x.free.2.portRx (x.free.1 % 8)).aqd = s.aqd := by
      rw [State.portRx_aqd, hx]
      exact State.advance_aqd s dt
    have hm : Still s x := hx ▸ State.advance_still (Still.rfl' s) dt
    have hf : Still x x.free.2 := ⟨rfl, rfl, rfl, rfl⟩
    exact ⟨_, ht, by rw [haqd], by rw [haqd], by rw [haqd], (hm.trans (hf.trans (State.portRx_still _ _))).sameMemory⟩

end Sys2Proof.Machine
end

section
/-! What a warm reset keeps and clears (R394, R411 to R414). -/
namespace Sys2Proof.Machine

/-- A table of which only some keys are kept. -/
theorem Tbl.get_filter_key {β : Type} (d : β) (q : Nat → Bool) (t : Tbl β) (k : Nat) :
    Tbl.get d (t.filter fun e => q e.1) k = if q k then Tbl.get d t k else d := by
  induction t with
  | nil => exact (ite_self d).symm
  | cons e t ih =>
    obtain ⟨j, v⟩ := e
    rw [List.filter_cons]
    by_cases hk : k = j
    · subst hk
      cases hq : q k with
      | true => simp [Tbl.get]
      | false => simpa [hq] using ih
    · cases hq : q j with
      | true => simpa [Tbl.get, hk, hq] using ih
      | false => simpa [Tbl.get, hk, hq] using ih

/-! ### Beside the registers -/

/-- What a reset of the hub die leaves of `s` beside the registers. -/
structure HubCleared (s k : State) : Prop where
  cmds : k.cmds = []
  rings : k.rings = []
  slices : k.slices = []
  serve : k.serve = {}
  saves : k.saves = []
  radio : k.radio = {}
  aqd : k.aqd = {}
  time : k.time = {}
  reportQ : k.spw.reportQ = []
  items : k.spw.items = []
  silt : k.spw.silt = s.spw.silt
  snap : k.spw.snap = s.spw.snap
  basins : k.basins = (s.basins.filter fun x => x.2.woken).map fun x => (x.1, { woken := true })
  host : k.host = s.host
  pending : k.pending = s.pending

section Cleared

variable {s k : State} (h : HubCleared s k)
include h

theorem HubCleared.regs (rg : Tbl Word64) (fr : Tbl (Nat × Nat)) : HubCleared s { k with regs := rg, fresh := fr } := by
  obtain ⟨h1, h2, h3, h4, h5, h6, h7, h8, h9, h10, h11, h12, h13, h14, h15⟩ := h
  exact ⟨h1, h2, h3, h4, h5, h6, h7, h8, h9, h10, h11, h12, h13, h14, h15⟩

theorem HubCleared.wr (f : Fld) (i v : Nat) : HubCleared s (k.wr f i v) := h.regs _ k.fresh

theorem HubCleared.each_wr (f : Fld) (v : Nat) (l : List Nat) : HubCleared s (k.each l fun t i => t.wr f i v) := by
  unfold State.each
  induction l generalizing k with
  | nil => exact h
  | cons i l ih => exact ih (h.wr f i v)

theorem HubCleared.bumpSat (f : Fld) (i n : Nat) : HubCleared s (k.bumpSat f i n) := by
  obtain ⟨rg, fr, hb⟩ := k.bumpSat_shape f i n
  rw [hb]
  exact h.regs rg fr

theorem HubCleared.boot (b : BootSt) : HubCleared s { k with boot := b } := by
  obtain ⟨h1, h2, h3, h4, h5, h6, h7, h8, h9, h10, h11, h12, h13, h14, h15⟩ := h
  exact ⟨h1, h2, h3, h4, h5, h6, h7, h8, h9, h10, h11, h12, h13, h14, h15⟩

theorem HubCleared.item (i : Nat) : k.item i = {} := by
  rw [State.item, h.items]
  rfl

theorem HubCleared.sliceKey (sl : Nat) : k.sliceKey? sl = none := by
  rw [State.sliceKey?, State.sliceSt, h.slices]
  rfl

theorem HubCleared.now : k.now = 0 := by
  rw [State.now, h.time]
  rfl

/-- Of a basin nothing is left but that it has been woken. -/
theorem HubCleared.basin (b : Nat) : (k.basin b).gateList = none ∧ (k.basin b).task = none := by
  have hall : ∀ (l : List (Nat × BasinSt)) , (Tbl.get {} (l.map fun x => (x.1, ({ woken := true } : BasinSt))) b).gateList = none ∧
      (Tbl.get {} (l.map fun x => (x.1, ({ woken := true } : BasinSt))) b).task = none := fun l => by
    induction l with
    | nil => exact ⟨rfl, rfl⟩
    | cons x l ih =>
      rw [List.map_cons, Tbl.get]
      split
      · exact ⟨rfl, rfl⟩
      · exact ih
  rw [State.basin, h.basins]
  exact hall _

end Cleared

theorem State.clearHub_cleared (s : State) : HubCleared s s.clearHub := by
  refine HubCleared.wr (HubCleared.each_wr ?_ Fld.jetSpareRemapBusy 0 _) _ _ _
  exact ⟨rfl, rfl, rfl, rfl, rfl, rfl, rfl, rfl, rfl, rfl, rfl, rfl, rfl, rfl, rfl⟩

theorem State.warmReset_cleared (s : State) (cause : Nat) : HubCleared s (s.warmReset cause) := by
  have h := State.clearHub_cleared { s with boot := { s.boot with cold := false } }
  have h' : HubCleared s ({ s with boot := { s.boot with cold := false } } : State).clearHub := by
    obtain ⟨h1, h2, h3, h4, h5, h6, h7, h8, h9, h10, h11, h12, h13, h14, h15⟩ := h
    exact ⟨h1, h2, h3, h4, h5, h6, h7, h8, h9, h10, h11, h12, h13, h14, h15⟩
  exact ((h'.wr Fld.resetCauseCause 0 cause).bumpSat Fld.resetCauseWarmCount 0 1).boot _

/-! ### Registers -/

theorem State.reg_each_wr_name (y : State) (f : Fld) (v : Nat) (l : List Nat) {n : RegName} (i : Nat) (h : n ≠ f.reg) :
    (y.each l fun t i => t.wr f i v).reg n i = y.reg n i :=
  State.each_same (·.reg n i) (fun t j => State.reg_wr_name t f j i v h) y l

/-- Kept registers stay, the others take their reset values. -/
theorem State.reg_clearHub (s : State) {n : RegName} {i : Nat} (hj : n ≠ .jetSpare) (hs : ¬ (n = .spwStatus ∧ i = 0)) :
    s.clearHub.reg n i = if keptReg n then s.reg n i else State.reset.reg n i := by
  rw [State.clearHub]
  rw [State.reg_wr_other _ Fld.spwStatusSiltFrozen _ hs, State.reg_each_wr_name _ Fld.jetSpareRemapBusy _ _ _ hj, State.reg]
  dsimp only
  rw [Tbl.get_filter_key (regReset n i) (fun k => keptReg (keyReg k)), keyReg_regKey]
  split <;> rfl

/-- The fields of SPW_STATUS beside silt_frozen take their reset values. -/
theorem State.rd_clearHub_spwStatus (s : State) {f : Fld} (hr : f.reg = .spwStatus) (hf : f.fits 0) (hd : f.lo + f.width ≤ 4 ∨ 5 ≤ f.lo) :
    s.clearHub.rd f = State.reset.rd f := by
  rw [State.clearHub]
  rw [State.rd_wr_field _ Fld.spwStatusSiltFrozen f _ _ hr hf hd, State.rd, State.reg_each_wr_name _ Fld.jetSpareRemapBusy _ _ _ (by rw [hr]; decide),
    State.reg]
  dsimp only
  rw [Tbl.get_filter_key (regReset f.reg 0) (fun k => keptReg (keyReg k)), keyReg_regKey, hr, if_neg (by decide)]
  rw [State.rd, State.reg, hr]
  rfl

section Warm

variable (s : State) (cause : Nat)

/-- The reset cause is entered, and the warm reset counted. -/
theorem State.warmReset_regs : (s.warmReset cause).regs =
    ((({ s with boot := { s.boot with cold := false } } : State).clearHub.wr Fld.resetCauseCause 0 cause).bumpSat Fld.resetCauseWarmCount 0).regs :=
  rfl

/-- Registers other than the reset cause stand as the clearing leaves them. -/
theorem State.reg_warmReset {n : RegName} (i : Nat) (h : n ≠ .resetCause) :
    (s.warmReset cause).reg n i = ({ s with boot := { s.boot with cold := false } } : State).clearHub.reg n i := by
  rw [State.reg_of_regs (s.warmReset_regs cause), State.reg_bumpSat_name _ _ _ _ _ h, State.reg_wr_name _ _ _ _ _ h]

theorem State.rd_warmReset {f : Fld} (i : Nat) (h : f.reg ≠ .resetCause) :
    (s.warmReset cause).rd f i = ({ s with boot := { s.boot with cold := false } } : State).clearHub.rd f i := by
  rw [State.rd, State.reg_warmReset _ _ _ h, State.rd]

theorem resetCause_fits : Fld.resetCauseCause.fits 0 := Fld.fits_of_unwired rfl (by decide) (by decide) (by decide)
theorem warmCount_fits : Fld.resetCauseWarmCount.fits 0 := Fld.fits_of_unwired rfl (by decide) (by decide) (by decide)

theorem State.rd_resetCause_warmReset (h : cause < 2 ^ 3) : (s.warmReset cause).rd Fld.resetCauseCause = cause ∧
    (s.warmReset cause).rd Fld.resetCauseWarmCount = min (2 ^ Fld.resetCauseWarmCount.width - 1) (s.rd Fld.resetCauseWarmCount + 1) := by
  have hold : ({ s with boot := { s.boot with cold := false } } : State).clearHub.rd Fld.resetCauseWarmCount = s.rd Fld.resetCauseWarmCount := by
    rw [State.rd, State.reg_clearHub _ (by decide) (by decide), if_pos (by decide)]
    rfl
  rw [State.rd_of_regs (s.warmReset_regs cause), State.rd_of_regs (s.warmReset_regs cause),
    State.rd_bumpSat_field _ Fld.resetCauseWarmCount Fld.resetCauseCause _ _ rfl resetCause_fits (by decide),
    State.rd_wr_same _ _ _ _ resetCause_fits, State.rd_bumpSat_same _ _ warmCount_fits,
    State.rd_wr_field _ Fld.resetCauseCause Fld.resetCauseWarmCount _ _ rfl warmCount_fits (by decide), hold]
  exact ⟨Nat.mod_eq_of_lt h, rfl⟩

end Warm

/-- Settles O58: what the reset of the hub die clears, and what it keeps. -/
theorem warmResetKeepsAndClears : Obligations.WarmResetKeepsAndClears := by
  intro dt d s x hx hord h hd hle
  have hreg : ∀ n i, s.reg n i = x.reg n i := fun n i => by rw [hx, State.reg_advance]
  have hrd : ∀ f, s.rd f = x.rd f := fun f => by rw [hx, State.rd_advance]
  have hspw : s.spw = x.spw := by rw [hx, State.advance_spw]
  have hhost : s.host = x.host := by rw [hx, State.advance_host]
  have hpend : s.pending = x.pending := by rw [hx, State.advance_pending]
  have ht : Does (.warmResetEffect dt) s (x.warmReset 3) :=
    does_forSome_whenever hx (by rw [exec, execWarmResetEffect]) h (by exact hd) (by exact decide_eq_true hle)
  have hk := x.warmReset_cleared 3
  obtain ⟨hcause, hcount⟩ := x.rd_resetCause_warmReset 3 (by decide)
  have hlost : ∀ {n i}, n.block ≠ .kept → ¬ (n = .spwStatus ∧ i = 0) → (x.warmReset 3).reg n i = State.reset.reg n i := fun {n i} hn hi => by
    have hno : keptReg n = false := beq_eq_false_iff_ne.2 hn
    rw [State.reg_warmReset _ _ _ fun e => hn (by rw [e]; rfl), State.reg_clearHub _ (fun e => hn (by rw [e]; rfl)) hi, hno]
    rfl
  have hstatus : ∀ f : Fld, f.reg = .spwStatus → f.fits 0 → f.lo + f.width ≤ 4 ∨ 5 ≤ f.lo → (x.warmReset 3).rd f = State.reset.rd f :=
    fun f hr hf hb => by rw [State.rd_warmReset _ _ _ (by rw [hr]; decide), State.rd_clearHub_spwStatus _ hr hf hb]
  simp only [sameReg, hreg, hspw, hhost, hpend, hrd]
  refine ⟨_, ht, fun n i => hlost, fun n i hn hj hc => ?kept, ?safe, ?ready, hk.now, fun b _ => ?gated, fun sl hsl => ⟨?state, hk.sliceKey sl⟩,
    hk.item, hk.basin, hk.cmds, hk.rings, hk.slices, hk.serve, hk.saves, hk.radio, hk.aqd, hk.reportQ, hk.silt, hk.snap,
    fun a => by rw [hk.host], hk.pending, hcause, hcount⟩
  case kept =>
    rw [State.reg_warmReset _ _ _ hc, State.reg_clearHub _ hj (fun e => by rw [e.1] at hn; exact absurd hn (by decide)),
      if_pos (show keptReg n = true from beq_iff_eq.2 hn)]
    rfl
  case safe =>
    rw [State.safe, hstatus Fld.spwStatusState rfl (Fld.fits_of_unwired rfl (by decide) (by decide) (by decide)) (by decide)]
    decide
  case ready =>
    rw [State.on, hstatus Fld.spwStatusReady rfl spwReady_fits (by decide)]
    decide
  case gated =>
    have hb : (x.warmReset 3).reg .basinState b = 2 ^ 10 :=
      (hlost (show RegName.basinState.block ≠ .kept by decide) (by rintro ⟨h, -⟩; cases h)).trans (State.reset_basinState b)
    exact congrArg (fun v => slice v 10 1 == 1) hb
  case state =>
    have hb : (x.warmReset 3).reg .sliceStatus sl = 0 :=
      (hlost (show RegName.sliceStatus.block ≠ .kept by decide) (by rintro ⟨h, -⟩; cases h)).trans (State.reset_sliceStatus sl)
    rw [State.sliceState, if_neg (by omega)]
    exact (congrArg (slice · Fld.sliceStatusState.lo Fld.sliceStatusState.width) hb).trans (by rw [slice, Nat.zero_div, Nat.zero_mod])

end Sys2Proof.Machine
end

section
/-! Power commands: governor, droop, slew, gating and waking, meters (R399 to R408). -/
namespace Sys2Proof.Machine

theorem maskBits_one {b : Nat} (hb : b < 64) : maskBits (2 ^ b) = [b] :=
  (by decide +kernel : ∀ k : Fin 64, maskBits (2 ^ k.val) = [k.val]) ⟨b, hb⟩

/-- A request for one basin that may be gated is taken. -/
theorem State.gateReqWrite_one {x : State} {b : Nat} (hb : b < 64) (hw : (x.basin b).wakeStage = 0) (hr : x.beingReset b = false)
    (hm : x.mayGate b = true) (hg : x.gated b = false) : x.gateReqWrite (2 ^ b) = x.gateLater b := by
  rw [State.gateReqWrite, maskBits_one hb]
  change x.gateReqBit b = _
  rw [State.gateReqBit, if_neg (by simp [hw, hr]), if_neg (by simp [hm]), if_neg (by simp [hg])]

theorem State.wakeReqWrite_one {x : State} {b : Nat} (hb : b < 64) : x.wakeReqWrite (2 ^ b) = x.requestWake b := by
  rw [State.wakeReqWrite, maskBits_one hb, State.requestWake]
  rfl

/-- The first start that waits takes its weight. -/
theorem State.grantStart_first {x : State} {w : SlewWait} {rest : List SlewWait} (hw : x.pwr.waits.filter x.startWanted = w :: rest)
    (hle : w.weight ≤ x.slewTokens) : x.grantStart =
      ({ x with pwr := { x.pwr with waits := rest, grants := x.pwr.grants ++ [w.engine] } } : State).setSlewTokens (x.slewTokens - w.weight) := by
  rw [State.grantStart, hw]
  exact if_neg (Int.not_lt.2 hle)

theorem State.gateDue_of {x : State} {b : Nat}
    (hd : (x.basin b).gateReq = true ∨ (x.inferFenced = true ∧ x.gated b = false ∧ x.underTest b = false)) (hi : x.idle b = true)
    (hr : x.reserved b = false) (hg : x.gateListed b = false) : x.gateDue b = true := by
  rw [State.gateDue, hi, hr, hg]
  rcases hd with h | ⟨h1, h2, h3⟩
  · rw [h]
    rfl
  · rw [h1, h2, h3]
    simp

/-- A stretch may be reported when none has been for 2^20 counts. -/
theorem stretchDue_of {x : State} {i : Nat} (h : ∀ t, Tbl.find x.pwr.stretchRep i = some t → t + 2 ^ 20 ≤ x.now) :
    (match Tbl.find x.pwr.stretchRep i with | some t => decide (t + 2 ^ 20 ≤ x.now) | none => true) = true := by
  cases hf : Tbl.find x.pwr.stretchRep i with
  | none => rfl
  | some t => exact decide_eq_true (h t hf)

/-- Settles O55: each power command meets its conditions. -/
theorem powerCommandsComplete : Obligations.PowerCommandsComplete := by
  intro dt s x hx
  refine ⟨fun htick => ?period, fun b n hb hn => ?step, fun i n => ⟨fun h hd => ?droop, fun h hd => ?recovery, fun h hn hr => ?report⟩,
    fun w rest hw hle => ?grant, fun e h => ?ramp, fun b v hb hv => ⟨fun hw hr hm hg h => ?gateReq, fun h => ?wakeReq⟩,
    fun b hb => ⟨fun hd hi hr hg => ?gate, fun hw => ?wakeRamp, fun fails z h hw hz hk => ?wakeZero⟩⟩
  case period =>
    refine ⟨fun hk => ?_, fun hk y hy => ?_, fun uj power h hk => ?_, fun c0 c1 h' h hk => ?_⟩
    · exact does_periodic hx (by rw [exec, execGovernorPeriod]) (by rfl) (by exact htick) hk (by rfl)
    · subst hy
      exact does_periodic hx (by rw [exec, execSlewRefill]) (by rfl) (by exact htick) hk (by rfl)
    · exact does_periodic hx (by rw [exec, execEnergyMeterSample]) h (by exact htick) hk (by rfl)
    · exact does_periodic hx (by rw [exec, execThermalSample]) h (by exact htick) hk (by rfl)
  case step => exact does_forSome hx (by rw [exec, execBasinStepChange]) (decide_eq_true hb) (by exact hn) (by rfl)
  case droop => exact does_whenever hx (by rw [exec, execDroop]) h (by rw [hd]; rfl) (by rfl)
  case recovery => exact does_whenever hx (by rw [exec, execDroopRecovery]) h (by exact hd) (by rfl)
  case report => exact does_whenever hx (by rw [exec, execStretchReport]) h (Bool.and_eq_true_iff.2 ⟨hn, stretchDue_of hr⟩) (by rfl)
  case grant => exact does_of hx (by rw [exec, execSlewStartGrant]) (by rfl) (State.grantStart_first hw hle)
  case ramp => exact does_of hx (by rw [exec, execRampDownEnd]) h (by rfl)
  case gateReq =>
    subst hv
    exact does_of hx (by rw [exec, execBasinGateReq]) h (State.gateReqWrite_one hb hw hr hm hg)
  case wakeReq =>
    subst hv
    exact does_of hx (by rw [exec, execBasinWakeReq]) h (State.wakeReqWrite_one hb)
  case gate => exact does_whenever hx (by rw [exec, execBasinGateEffect]) (decide_eq_true hb) (by exact State.gateDue_of hd hi hr hg) (by rfl)
  case wakeRamp => exact does_whenever hx (by rw [exec, execWakeRampDone]) (decide_eq_true hb) (by rw [hw]; rfl) (by rfl)
  case wakeZero =>
    refine does_of hx (by rw [exec, execWakeZeroingDone]) h ?_
    rw [State.whenever_of (by rw [hw]; rfl), hz, Option.filter_some, if_pos (by rw [hk]; rfl), State.forSome_some]

end Sys2Proof.Machine
end

section
/-! Resets, pins and the boot sequence (R411 to R419, R430, R431). -/
namespace Sys2Proof.Machine

section Row

variable {i : Instr} {dt : Nat} {s x t : State} (hx : x = s.advance dt)
include hx

/-- A command whose operands are in their ranges does what it does. -/
theorem does_of_ranges {ok : Bool} {k : State → State} (he : exec i s = enterIf ok dt s k) (hok : ok = true) (ht : k x = t) : Does i s t := by
  rw [Does, he, hok, enterIf_true, ← hx, ht]

theorem does_whenever_of_ranges {ok : Bool} {p : State → Bool} {k : State → State → State}
    (he : exec i s = enterIf ok dt s fun x => x.whenever (p x) (k x)) (hok : ok = true) (hp : p x = true) (ht : k x x = t) : Does i s t :=
  does_of_ranges hx he hok ((State.whenever_of hp).trans ht)

end Row

/-! ### Resets -/

/-- A write of RESET_CMD that nothing refuses acts by its kind. -/
theorem State.resetCmdWrite_acts {x : State} {v : Nat} (hc : x.resetCheck v = 0) :
    (slice v 0 2 = 1 → x.resetCmdWrite v = { x with boot := { x.boot with warmDue := some (x.now + warmDelay) } }) ∧
    (slice v 0 2 = 2 → x.resetCmdWrite v = x.terraceReset (slice v 2 6) (bitAt v 8)) ∧
    (slice v 0 2 = 3 → x.resetCmdWrite v = x.basinReset (slice v 2 6)) := by
  refine ⟨fun h => ?_, fun h => ?_, fun h => ?_⟩ <;> rw [State.resetCmdWrite] <;> dsimp only <;>
    rw [if_neg (by omega), if_neg (by simp [hc])]
  · rw [if_pos h]
  · rw [if_neg (by omega), if_pos h]
  · rw [if_neg (by omega), if_neg (by omega)]

/-- The fall of PERST# is a warm reset. -/
theorem does_perstAssert {dt : Nat} {s x : State} (hx : x = s.advance dt) (hp : x.boot.perst = false) (hh : x.boot.held = false)
    (hs : x.boot.supplies = true) : ∃ y : State, y = ({ x with boot := { x.boot with perst := true } } : State).warmReset 2 ∧
      Does (.perstAssert dt) s { y with boot := { y.boot with cold := x.boot.cold && x.inPhase 0 } } := by
  refine ⟨_, rfl, does_of hx (by rw [exec, execPerstAssert]) (by rfl) ?_⟩
  rw [if_neg (by simp [hp]), State.whenever_of (by simp [hh, hs])]
  rfl

/-- Settles O56: each reset command meets its conditions. -/
theorem resetCommandsComplete : Obligations.ResetCommandsComplete := by
  intro dt s x hx
  refine ⟨fun supply hs => ?cold, fun hh hs => ?release, fun hp hh hs => does_perstAssert hx hp hh hs, ?perst, fun v hc => ?command,
    fun d hd hle => ?warm, fun t hr ht => ?terrace, fun b hr => ?basin, fun hub => ?supply⟩
  case cold => exact does_whenever hx (by rw [exec, execColdReset]) (by rfl) (by rcases hs with h | h <;> simp [h]) (by rfl)
  case release => exact does_whenever hx (by rw [exec, execPkgRstRelease]) (by rfl) (by rw [hh, hs]; rfl) (by rfl)
  case perst => exact does_of hx (by rw [exec, execPerstRelease]) (by rfl) (by rfl)
  case command =>
    obtain ⟨hwarm, hterrace, hbasin⟩ := State.resetCmdWrite_acts hc
    exact ⟨fun h hk => does_whenever hx (by rw [exec, execResetCmdWarm]) h (by rw [hk]; rfl) (hwarm hk),
      fun h hk => does_whenever hx (by rw [exec, execResetCmdTerrace]) h (by rw [hk]; rfl) (hterrace hk),
      fun h hk => does_whenever hx (by rw [exec, execResetCmdBasin]) h (by rw [hk]; rfl) (hbasin hk)⟩
  case warm => exact does_forSome_whenever hx (by rw [exec, execWarmResetEffect]) (by rfl) (by exact hd) (by exact decide_eq_true hle)
  case terrace =>
    refine does_of hx (by rw [exec, execTerraceResetDone]) (by rfl) ?_
    rw [hr]
    exact State.whenever_of ht
  case basin =>
    refine does_of hx (by rw [exec, execBasinResetDone]) (by rfl) ?_
    rw [hr]
    rfl
  case supply => exact does_of_ranges hx (by rw [exec, execSupplyRemoval]) rfl (by rfl)

/-! ### Boot -/

/-- Settles O57: each phase of the boot sequence meets its conditions. -/
theorem bootCommandsComplete : Obligations.BootCommandsComplete := by
  intro dt s x hx
  refine ⟨fun pkg tray h hp => ?fuses, fun hp => ⟨_, rfl, ?hub⟩, fun hp hr => ⟨_, rfl, ?port⟩, fun d alive hd hp hn => ?die,
    fun t c answers failed ht hc hf hs => ?trained, fun hp => ?done, fun hu => ?link⟩
  case fuses =>
    refine ⟨fun hc => ?_, fun hc => ?_⟩
    · exact does_whenever hx (by rw [exec, execFusesLoaded]) h (by exact hp) (by rw [if_pos hc])
    · exact does_whenever hx (by rw [exec, execFusesLoaded]) h (by exact hp) (by rw [if_neg (by simp [hc])])
  case hub => exact does_whenever hx (by rw [exec, execHubReady]) (by rfl) (by exact hp) (by rfl)
  case port => exact does_whenever hx (by rw [exec, execPcieReady]) (by rfl) (by rw [hp, hr]; rfl) (by rfl)
  case die => exact does_whenever_of_ranges hx (by rw [exec, execDieReady]) (decide_eq_true hd) (by rw [hp, hn]; rfl) (by rfl)
  case trained =>
    refine does_whenever_of_ranges hx (by rw [exec, execHbmControllerTrained]) ?_ (by exact beq_iff_eq.2 hs) (by rfl)
    rw [decide_eq_true ht, decide_eq_true hc]
    exact List.all_eq_true.2 fun p hp => decide_eq_true (hf p hp)
  case done => exact does_whenever_of_ranges hx (by rw [exec, execLocalDone]) rfl (by exact hp) (by rfl)
  case link => exact does_whenever_of_ranges hx (by rw [exec, execPcieLinkDown]) rfl (by exact hu) (by rfl)

end Sys2Proof.Machine
end

section
/-! The management endpoint and the test access port (R435 to R440). -/
namespace Sys2Proof.Machine

/-! ### Responses -/

section Answer

variable {i : Instr} {dt : Nat} {s x : State} {tr : Transport} {k : State → State × List Byte}

theorem State.answer_served {y : State} {l : List Byte} (hs : x.mgmtServes tr = true) (hk : k x = (y, l)) :
    x.answer tr k = { y with mgmt := y.mgmt.answered tr l } := by
  rw [State.answer, State.whenever_of hs, hk]

variable (hx : x = s.advance dt)
include hx

/-- A management command over a transport that the endpoint serves is answered. -/
theorem does_answer {ok : Bool} {y : State} {l : List Byte} (he : exec i s = enterIf ok dt s fun x => x.answer tr k) (hok : ok = true)
    (hs : x.mgmtServes tr = true) (hk : k x = (y, l)) : Does i s { y with mgmt := y.mgmt.answered tr l } :=
  does_of_ranges hx he hok (State.answer_served hs hk)

end Answer

/-- Settles O59: each management command's response, and the test access port's instructions. -/
theorem managementCommandsComplete : Obligations.ManagementCommandsComplete := by
  intro dt tr s x hx
  refine ⟨fun hs => ⟨fun bytes y l h hk => ?mctp, fun id y l hid hk => ?sensor, fun eid l he hl => ?receiver, ?status, fun i hi => ?entry,
    fun b hb => ?snap, fun k hk => ?count, ?health⟩, fun ins hne => ?instruction, ?idcode⟩
  case mctp => exact does_answer hx (by rw [exec, execMctpControl]) rfl hs (by exact hk)
  case sensor => exact does_answer hx (by rw [exec, execPldmGetSensor]) (decide_eq_true hid) hs (by exact hk)
  case receiver =>
    have hok : (eid < 256 && l.all (· < 65536)) = true := by
      rw [decide_eq_true he]
      exact List.all_eq_true.2 fun t ht => decide_eq_true (hl t ht)
    exact does_answer (i := .setEventReceiver dt tr eid l)
      (y := { x with mgmt := { x.mgmt with receiver := some (tr, eid), thresholds := l } }) (l := [0])
      hx (by rw [exec, execSetEventReceiver]) hok hs (by rfl)
  case status => exact does_answer hx (by rw [exec, execVendorSiltStatus]) rfl hs (by rfl)
  case entry =>
    exact ⟨fun h => does_answer hx (by rw [exec, execVendorSiltEntry]) (decide_eq_true hi) hs (by rw [if_pos h]),
      fun h => does_answer hx (by rw [exec, execVendorSiltEntry]) (decide_eq_true hi) hs (by rw [if_neg (Nat.not_lt.2 h)])⟩
  case snap =>
    exact ⟨fun h => does_answer hx (by rw [exec, execVendorSiltSnap]) (decide_eq_true hb) hs (by rw [if_pos h]),
      fun h => does_answer hx (by rw [exec, execVendorSiltSnap]) (decide_eq_true hb) hs (by rw [if_neg (Nat.not_lt.2 h)])⟩
  case count =>
    exact ⟨fun h => does_answer hx (by rw [exec, execVendorClassCount]) (decide_eq_true hk) hs (by rw [if_pos h]),
      fun h => does_answer hx (by rw [exec, execVendorClassCount]) (decide_eq_true hk) hs (by rw [if_neg (Nat.not_lt.2 h)])⟩
  case health => exact does_answer hx (by rw [exec, execVendorHealth]) rfl hs (by rfl)
  case instruction => exact does_of_ranges hx (by rw [exec, execJtagInstruction]) rfl (by rw [if_neg hne])
  case idcode => exact does_of_ranges hx (by rw [exec, execJtagInstruction]) rfl (by rfl)

end Sys2Proof.Machine
end

section
/-! What the management endpoint may write and may read (R439). -/
namespace Sys2Proof.Machine

/-- What a management command may not read: memories, keys, the slices' and the sessions' records. -/
structure Unseen where
  dev : ByteMem
  devKey : Tbl Nat
  keys : List (BitVec 512)
  cistern : ByteMem
  pool : Mem PoolWord
  host : ByteMem
  slices : List (Nat × SliceSt)
  serve : ServeSt

/-- The state with other contents of what is not seen. -/
def State.withUnseen (s : State) (d : Unseen) : State :=
  { s with dev := d.dev, devKey := d.devKey, keys := d.keys, cistern := d.cistern, pool := d.pool, host := d.host,
           slices := d.slices, serve := d.serve }

theorem State.advance_withUnseen (s : State) (d : Unseen) (dt : Nat) : (s.withUnseen d).advance dt = (s.advance dt).withUnseen d := by
  rw [State.advance, State.advance]
  dsimp only
  by_cases hr : s.boot.running = true
  · rw [if_pos (c := (s.withUnseen d).boot.running = true) hr, if_pos hr]
    rfl
  · rw [if_neg (c := (s.withUnseen d).boot.running = true) hr, if_neg hr]
    rfl

/-- What a command's work may do: the registers, what the manual leaves open, the endpoint's session. -/
structure Served (k : State → State × List Byte) : Prop where
  only : ∀ x, (k x).1 = { x with
    regs := (k x).1.regs, freeCtr := (k x).1.freeCtr
    mgmt := { x.mgmt with
      eidI3c := (k x).1.mgmt.eidI3c, eidPcie := (k x).1.mgmt.eidPcie
      receiver := (k x).1.mgmt.receiver, thresholds := (k x).1.mgmt.thresholds } }
  regs : ∀ x n i, ¬ (n = .mgmtStatus ∧ i = 0) → (k x).1.reg n i = x.reg n i
  bits : ∀ x, x.inOrder = true → ∀ j, j < 2 ∨ 10 ≤ j → bitAt ((k x).1.reg .mgmtStatus) j = bitAt (x.reg .mgmtStatus) j
  blind : ∀ x d, k (x.withUnseen d) = ((k x).1.withUnseen d, (k x).2)

/-- Work that leaves the registers and the endpoint IDs. -/
def KeepsIds (k : State → State × List Byte) : Prop :=
  ∀ x, (k x).1.regs = x.regs ∧ (k x).1.mgmt.eidI3c = x.mgmt.eidI3c ∧ (k x).1.mgmt.eidPcie = x.mgmt.eidPcie

/-- Work that only reads. -/
theorem served_reads {f : State → List Byte} (hf : ∀ x d, f (State.withUnseen x d) = f x) : Served fun x => (x, f x) where
  only _ := rfl
  regs _ _ _ _ := rfl
  bits _ _ _ _ := rfl
  blind x d := by rw [hf]

theorem keepsIds_reads {f : State → List Byte} : KeepsIds fun x => (x, f x) := fun _ => ⟨rfl, rfl, rfl⟩

/-! ### Each command -/

theorem State.view_withUnseen (x : State) (d : Unseen) : (∀ i, (x.withUnseen d).view .siltStatus i = x.view .siltStatus i) ∧
    (∀ i, (x.withUnseen d).view .spwStatus i = x.view .spwStatus i) ∧ (∀ i, (x.withUnseen d).view .classCount i = x.view .classCount i) ∧
    (∀ i, (x.withUnseen d).view .healthDecayed i = x.view .healthDecayed i) :=
  ⟨fun _ => rfl, fun _ => rfl, fun _ => rfl, fun _ => rfl⟩

theorem State.sensor_withUnseen (x : State) (d : Unseen) (id : Nat) : (x.withUnseen d).sensor id = x.sensor id := by
  have hcap : (x.withUnseen d).view .healthCapacity 0 = x.view .healthCapacity 0 := rfl
  have hscore : (x.withUnseen d).healthScore = x.healthScore := rfl
  have hstate : (x.withUnseen d).sensor11 = x.sensor11 := rfl
  have hrd : ∀ f, (x.withUnseen d).rd f = x.rd f := fun _ => rfl
  unfold State.sensor
  simp only [hcap, hscore, hstate, hrd]

/-- A reading is given with what is left open beside it. -/
theorem served_sensor (id : Nat) : Served fun x => x.sensorServe id where
  only x := by
    unfold State.sensorServe
    split
    · rfl
    · split <;> rfl
  regs x n i _ := by
    unfold State.sensorServe
    split
    · rfl
    · split <;> rfl
  bits x _ j _ := by
    unfold State.sensorServe
    split
    · rfl
    · split <;> rfl
  blind x d := by
    unfold State.sensorServe
    rw [x.sensor_withUnseen d id]
    split
    · rfl
    · split <;> rfl

theorem keepsIds_sensor (id : Nat) : KeepsIds fun x => x.sensorServe id := fun x => by
  dsimp only
  unfold State.sensorServe
  split
  · exact ⟨rfl, rfl, rfl⟩
  · split <;> exact ⟨rfl, rfl, rfl⟩

theorem served_receiver (tr : Transport) (eid : Nat) (l : List Nat) :
    Served fun x => ({ x with mgmt := { x.mgmt with receiver := some (tr, eid), thresholds := l } }, [0]) where
  only _ := rfl
  regs _ _ _ _ := rfl
  bits _ _ _ _ := rfl
  blind _ _ := rfl

/-- The endpoint ID is set. -/
theorem served_setEid (tr : Transport) (eid : Nat) (l : List Byte) : Served fun x => (x.setEid tr eid, l) where
  only x := by cases tr <;> rfl
  regs x n i h := by cases tr <;> exact State.reg_wr_other x Fld.mgmtStatusEid eid h
  bits x hx j hj := by
    rw [bitAt_eq, bitAt_eq]
    cases tr <;> exact State.testBit_reg_wr_beside hx (f := Fld.mgmtStatusEid) eid hj
  blind x d := by cases tr <;> rfl

/-- Work chosen by what is asked, not by the state. -/
theorem served_mctp (tr : Transport) (req : List Byte) : Served fun x => x.mctpServe tr req := by
  have hread : ∀ l : List Byte, Served fun x => (x, l) := fun l => served_reads fun _ _ => rfl
  unfold State.mctpServe
  dsimp only
  split
  · split
    · split
      · exact hread _
      · exact served_setEid _ _ _
    · exact hread _
  · exact ⟨fun _ => rfl, fun _ _ _ _ => rfl, fun _ _ _ _ => rfl, fun _ _ => by cases tr <;> rfl⟩
  · exact ⟨fun _ => rfl, fun _ _ _ _ => rfl, fun _ _ _ _ => rfl, fun _ _ => rfl⟩
  · exact hread _
  · exact hread _

theorem keepsIds_receiver (tr : Transport) (eid : Nat) (l : List Nat) :
    KeepsIds fun x => ({ x with mgmt := { x.mgmt with receiver := some (tr, eid), thresholds := l } }, [0]) := fun _ => ⟨rfl, rfl, rfl⟩

theorem State.mgmtServes_withUnseen (x : State) (d : Unseen) (tr : Transport) : (x.withUnseen d).mgmtServes tr = x.mgmtServes tr := rfl

/-! ### The answer -/

section Answer

variable (x : State) (tr : Transport) {k : State → State × List Byte}

theorem State.answer_cases (k : State → State × List Byte) : (x.mgmtServes tr = false ∧ x.answer tr k = x) ∨
    (x.mgmtServes tr = true ∧ x.answer tr k = { (k x).1 with mgmt := (k x).1.mgmt.answered tr (k x).2 }) := by
  cases hs : x.mgmtServes tr
  · exact .inl ⟨rfl, by rw [State.answer, State.whenever_not hs]⟩
  · exact .inr ⟨rfl, State.answer_served hs rfl⟩

/-- A reply is not part of the session. -/
theorem MgmtSt.answered_session (m : MgmtSt) (l : List Byte) : (m.answered tr l).eidI3c = m.eidI3c ∧ (m.answered tr l).eidPcie = m.eidPcie := by
  cases tr <;> exact ⟨rfl, rfl⟩

theorem KeepsIds.answer (hk : KeepsIds k) : (x.answer tr k).regs = x.regs ∧ (x.answer tr k).mgmt.eidI3c = x.mgmt.eidI3c ∧
    (x.answer tr k).mgmt.eidPcie = x.mgmt.eidPcie := by
  rcases x.answer_cases tr k with ⟨-, h⟩ | ⟨-, h⟩ <;> rw [h]
  · exact ⟨rfl, rfl, rfl⟩
  · obtain ⟨hr, h3, hp⟩ := hk x
    obtain ⟨h3', hp'⟩ := MgmtSt.answered_session tr (k x).1.mgmt (k x).2
    exact ⟨hr, h3'.trans h3, hp'.trans hp⟩

variable (hk : Served k)
include hk

theorem Served.answer_only : x.answer tr k = { x with
    regs := (x.answer tr k).regs, freeCtr := (x.answer tr k).freeCtr
    mgmt := { x.mgmt with
      replyI3c := (x.answer tr k).mgmt.replyI3c, replyPcie := (x.answer tr k).mgmt.replyPcie
      eidI3c := (x.answer tr k).mgmt.eidI3c, eidPcie := (x.answer tr k).mgmt.eidPcie
      receiver := (x.answer tr k).mgmt.receiver, thresholds := (x.answer tr k).mgmt.thresholds } } := by
  rcases x.answer_cases tr k with ⟨-, h⟩ | ⟨-, h⟩ <;> rw [h]
  generalize (k x).2 = l
  have ho := hk.only x
  generalize (k x).1 = y at ho
  rw [ho]
  cases tr <;> rfl

theorem Served.answer_regs {n : RegName} {i : Nat} (hn : ¬ (n = .mgmtStatus ∧ i = 0)) : (x.answer tr k).reg n i = x.reg n i := by
  rcases x.answer_cases tr k with ⟨-, h⟩ | ⟨-, h⟩ <;> rw [h]
  exact hk.regs x n i hn

theorem Served.answer_bits (hx : x.inOrder = true) {j : Nat} (hj : j < 2 ∨ 10 ≤ j) :
    bitAt ((x.answer tr k).reg .mgmtStatus) j = bitAt (x.reg .mgmtStatus) j := by
  rcases x.answer_cases tr k with ⟨-, h⟩ | ⟨-, h⟩ <;> rw [h]
  exact hk.bits x hx j hj

theorem Served.answer_blind (d : Unseen) : (x.withUnseen d).answer tr k = (x.answer tr k).withUnseen d := by
  rcases x.answer_cases tr k with ⟨hs, h⟩ | ⟨hs, h⟩ <;> rw [h]
  · rw [State.answer, x.mgmtServes_withUnseen, State.whenever_not hs]
  · rw [State.answer_served (x.mgmtServes_withUnseen d tr ▸ hs) (hk.blind x d)]
    rfl

end Answer

/-- Every management command answers with work of this kind; all but MCTP control leave the registers and the endpoint IDs. -/
theorem management_serves {c : Instr} (hm : management c = true) : ∃ ok dt tr k,
    (∀ s, exec c s = enterIf ok dt s fun x => x.answer tr k) ∧ Served k ∧ ((∀ dt tr bytes, c ≠ .mctpControl dt tr bytes) → KeepsIds k) := by
  unfold management at hm
  split at hm
  case h_1 dt tr bytes => exact ⟨_, dt, tr, _, fun s => by rw [exec, execMctpControl], served_mctp tr bytes, fun h => absurd rfl (h dt tr bytes)⟩
  case h_2 dt tr id => exact ⟨_, dt, tr, _, fun s => by rw [exec, execPldmGetSensor], served_sensor id, fun _ => keepsIds_sensor id⟩
  case h_3 dt tr eid l => exact ⟨_, dt, tr, _, fun s => by rw [exec, execSetEventReceiver], served_receiver tr eid l, fun _ => keepsIds_receiver tr eid l⟩
  case h_4 dt tr =>
    exact ⟨_, dt, tr, _, fun s => by rw [exec, execVendorSiltStatus],
      served_reads fun x d => by rw [(x.view_withUnseen d).1, (x.view_withUnseen d).2.1], fun _ => keepsIds_reads⟩
  case h_5 dt tr i => exact ⟨_, dt, tr, _, fun s => by rw [exec, execVendorSiltEntry], served_reads fun _ _ => rfl, fun _ => keepsIds_reads⟩
  case h_6 dt tr b => exact ⟨_, dt, tr, _, fun s => by rw [exec, execVendorSiltSnap], served_reads fun _ _ => rfl, fun _ => keepsIds_reads⟩
  case h_7 dt tr n => exact ⟨_, dt, tr, _, fun s => by rw [exec, execVendorClassCount], served_reads fun _ _ => rfl, fun _ => keepsIds_reads⟩
  case h_8 dt tr => exact ⟨_, dt, tr, _, fun s => by rw [exec, execVendorHealth], served_reads fun _ _ => rfl, fun _ => keepsIds_reads⟩
  case h_9 => cases hm

/-- Settles O60: what the work of every management command may do, and what it cannot see. -/
theorem managementWritesItsSessionOnly : Obligations.ManagementWritesItsSessionOnly := by
  intro c s t hm ht
  obtain ⟨ok, dt, tr, k, he, hk, hids⟩ := management_serves hm
  have hok : ok = true := by
    rw [Does, he] at ht
    cases ok
    · cases ht
    · rfl
  subst hok
  have hdoes : ∀ u, Does c u ((u.advance dt).answer tr k) := fun u => by rw [Does, he, enterIf_true]
  obtain rfl : (s.advance dt).answer tr k = t := Host.Outcome.next.inj ((hdoes s).symm.trans ht)
  have hmgmt : (s.advance dt).mgmt = s.mgmt := State.advance_mgmt s dt
  refine ⟨⟨dt, ?only⟩, fun n i hn => ?regs, fun hord j hj => ?bits, fun hne => ?ids, fun dev devKey keys cistern pool host slices serve => ?blind⟩
  case only => rw [← hmgmt]; exact hk.answer_only _ tr
  case regs => rw [sameReg, hk.answer_regs _ tr hn, State.reg_advance]
  case bits => rw [hk.answer_bits _ tr (State.inOrder_advance dt hord) hj, State.reg_advance]
  case ids =>
    obtain ⟨hr, h3, hp⟩ := (hids hne).answer (s.advance dt) tr
    exact ⟨hr.trans (State.advance_regs s dt), h3.trans (by rw [hmgmt]), hp.trans (by rw [hmgmt])⟩
  case blind =>
    have hd := hdoes (s.withUnseen ⟨dev, devKey, keys, cistern, pool, host, slices, serve⟩)
    rw [State.advance_withUnseen, hk.answer_blind] at hd
    exact hd

end Sys2Proof.Machine
end
